-- ==== Sys2Proof/Word.lean ====
section
/-! DEFINITION. The words of the device and the index types that name its units. -/
namespace Sys2Proof

/-- One byte of memory. -/
abbrev Byte := BitVec 8
/-- A 32-bit register or memory word. -/
abbrev Word := BitVec 32
/-- A 64-bit word. -/
abbrev DWord := BitVec 64

/-- Logical tile T00–T63 (R29). -/
abbrev TileIx := Fin 64
/-- Cluster C0–C3 (R12). -/
abbrev ClusterIx := Fin 4
/-- Partition 0–15 (R68). -/
abbrev PtnIx := Fin 16
/-- Hart 0–7 (R482). -/
abbrev HartIx := Fin 8
/-- Ethernet port or lane 0–15 (R496). -/
abbrev PortIx := Fin 16
/-- Yalelle link 0–7. -/
abbrev LinkIx := Fin 8

end Sys2Proof
end

