-- ==== Sys2Proof/Payload.lean ====
section
/-! DEFINITION. What a command can carry from outside the device: frames, packets and answers, as records. -/
namespace Sys2Proof

/-- How an access through a protected store ended (R377, R382, R425): no error; a corrected one; one that the first replay or
re-read, or the second, cleared; one that persisted; a corrected or an uncorrectable error of the system-cache line. -/
inductive MemErr where
  | none | corrected | cleared (twice : Bool) | persist | lineCorrected | lineLost
deriving DecidableEq, Repr

/-- A replay or re-read cleared it. -/
def MemErr.isCleared (e : MemErr) : Bool :=
  match e with
  | .cleared _ => true
  | _ => false

/-- An inbound TLP of a PCIe function (R490-R492): a read or a write of BAR 0, 2 or 4 (0, 1, 2) at an offset, or a write of
configuration space that sets Bus Master Enable and MSI-X Enable. -/
inductive Tlp where
  | read (bar : Fin 3) (off : BitVec 48) (len : Nat)
  | write (bar : Fin 3) (off : BitVec 48) (data : List Byte)
  | config (bme msixOn : Bool)
deriving DecidableEq, Repr

/-- Who sent an access of the outbound PCIe window (R493): the posted write that waits longest, a stream engine's read, a
hart's load. -/
inductive OutSrc where
  | posted | stream (t : TileIx) (id : Nat) | hart (h : HartIx)
deriving DecidableEq, Repr

/-- Where a frame that leaves a port comes from (R498, R499): a transmit queue, or the frames to be forwarded to the port. -/
inductive TxSrc where
  | queue (q : Fin 32) | forwarded (port : PortIx)
deriving DecidableEq, Repr

/-- A hart's access (R483); `sc` says whether the hart has kept a reservation that nothing took from it, `amo` is any other AMO,
with the value that it stores. -/
inductive CoreOp where
  | load | store | amoAdd | amoSwap | amoCas | lr | sc (kept : Bool) | amo
deriving DecidableEq, Repr

/-- What a hart's caches met (R486): nothing; an L1 parity error; a corrected L2 error; an uncorrectable one in an L2 way. -/
inductive CoreErr where
  | none | l1 | corrected | uncorrectable (way : Fin 16)
deriving DecidableEq, Repr

/-- What the far end of a link says of itself during training (R395). -/
structure Peer where
  idSet : Bool
  link : Fin 8
  pos : Fin 8
  chip : BitVec 12
deriving DecidableEq, Repr

/-- The one whose hold an arbiter cuts (R367): the bank of a tile's memory, and the requester. -/
structure Holder where
  bank : Word
  requester : Word
deriving DecidableEq, Repr

/-- What a refresh finds: its pseudo-channel busy (R376), and a cell error that has come since the last one: a line's number
within the pseudo-channel, in units of 32 bytes (R377). -/
structure RefreshCase where
  busy : Bool
  flaw : Option (Nat × MemErr)
deriving DecidableEq, Repr

/-- A cluster's copy to its spare, and the scale entries that fail their parity in it (R168, R429). -/
structure SpareCopy where
  clu : ClusterIx
  bad : List (BitVec 12)
deriving DecidableEq, Repr

end Sys2Proof
end

