-- ==== Sys2Proof/Syntax.lean ====
section
/-! DEFINITION. The commands of the block: one constructor per row of spec/opcode_table.json, in the table's order. A
command is one whole step of the device; its operands name what the row is about (a tile, a partition, a value
written) and what comes from outside the device (a frame, an answer of the board). `p` or `src` is the partition tag of
the access where a rule judges it (R44, R99, R484). -/
namespace Sys2Proof

inductive Instr where
  /-- ATU_TICK (R41). On each ATU clock tick the time counter advances by the increment plus the servo correction, with carries into nanoseconds and seconds. -/
  | atuTick
  /-- ATU_SET (R42). A write of ATU_CTL.SET loads the staged time at the next tick, or refuses an out-of-range value and sets SET_ERR. -/
  | atuSet (p : PtnIx)
  /-- ATU_STEP (R43). A write of ATU_STEP moves the counter by a signed amount at one tick, resets the integrator, clears LOCK and counts the step. -/
  | atuStep (p : PtnIx) (ns : Word)
  /-- TIME_SNAP_READ (R45). A read of ATU_TIME_SNAP0 latches seconds and fraction of one tick into the per-partition SNAP1-SNAP3. -/
  | timeSnapRead (p : PtnIx)
  /-- ATU_OFS_IN (R46). A write of ATU_OFS_IN delivers a software phase sample to the PI servo. -/
  | atuOfsIn (p : PtnIx) (ofs : Word) (taken : Bool)
  /-- PPS_IN_EDGE (R49). A rising edge on PPS_IN is timed at the ball and becomes a phase sample. -/
  | ppsInEdge (ofs16 : BitVec 8) (taken : Bool)
  /-- SYNC_IN_EDGE (R50). A rising edge on SYNC_IN is timed at the ball and becomes a phase sample after subtracting DLY. -/
  | syncInEdge (ofs16 : BitVec 8) (taken : Bool)
  /-- SYNCE_GATE (R46). At the end of each 10 ms gate the recovered-clock frequency error is fed to the servo as synce_err. -/
  | synceGate (err : BitVec 32)
  /-- HOLDOVER_TIMEOUT (R47). When no phase sample arrives for HOLD_TO x 100 ms the servo enters holdover, freezes FADJ and clears LOCK. -/
  | holdoverTimeout
  /-- PPS_OUT_RISE (R49). At the first tick at or after each whole ATU second PPS_OUT rises when OUT_EN is 1. -/
  | ppsOutRise
  /-- PPS_OUT_FALL (R49). PPS_OUT falls when its WIDTH in ms has elapsed. -/
  | ppsOutFall
  /-- SYNC_OUT_RISE (R50). On the leader, SYNC_OUT rises at the first tick at or after each whole ATU millisecond. -/
  | syncOutRise
  /-- SYNC_OUT_FALL (R50). SYNC_OUT falls after its 1 µs pulse. -/
  | syncOutFall
  /-- CELL_CFG_WRITE (R54). A write of ATU_CELL_CFGn enables or disables a cell timeline, with range checks on enabling. -/
  | cellCfgWrite (p : PtnIx) (cell : Fin 96) (value : Word)
  /-- ARM (R58). ATU_TRG_CMD ARM arms a trigger atomically from the staged W0-W3, or rejects it with an ERR code. -/
  | arm (p : PtnIx) (index : BitVec 12)
  /-- DISARM (R58). ATU_TRG_CMD DISARM stops a trigger from the next tick, a trigger already due still firing once. -/
  | disarm (p : PtnIx) (index : BitVec 12)
  /-- TRG_READ (R58). ATU_TRG_CMD READ copies a trigger's state into the partition's W0-W3 and STAT. -/
  | trgRead (p : PtnIx) (index : BitVec 12)
  /-- TRIGGER_FIRE (R56). A due trigger fires, at most 16 per tick in index order, and delivers its action with its target time. -/
  | triggerFire
  /-- ETS_POP (R64). A read of ATU_ETS0 pops one egress timestamp entry and latches ETS1-ETS3. -/
  | etsPop (p : PtnIx)
  /-- LAUNCH_RELEASE (R61). At the first tick at or after launch_ns JOB releases a held job to the head of its tiles' queues. -/
  | launchRelease (job : Nat)
  /-- RING_ENABLE (R69). Setting a ring's CFG.EN resets head and tail to 0 and the phase to 1; clearing it stops fetching or holds records. -/
  | ringEnable (src p : PtnIx) (ring : Fin 18) (value : Word)
  /-- SQ_DOORBELL (R72). A write of a submission doorbell page sets a new tail count after the overpost checks. -/
  | sqDoorbell (src p : PtnIx) (ring : Fin 16) (tail : Word)
  /-- CQ_DOORBELL (R72). A write of the completion doorbell sets the software head count, freeing entries. -/
  | cqDoorbell (src p : PtnIx) (head : Word)
  /-- EQ_DOORBELL (R72). A write of the event doorbell sets the software head count of the event ring. -/
  | eqDoorbell (src p : PtnIx) (head : Word)
  /-- DESCRIPTOR_FETCH (R74). JOB fetches and copies a descriptor once a completion entry is reserved and quotas allow, accepting or rejecting it. -/
  | descriptorFetch (p : PtnIx)
  /-- FETCH_FAULT_CLEAR (R75). Clearing FETCH_FAULT resumes fetching from the same entry. -/
  | fetchFaultClear (src p : PtnIx) (ring : Fin 16)
  /-- JOB_DISPATCH (R79). JOB dispatches an eligible job in deadline order, subtracting its semaphore waits and creating its tasks. -/
  | jobDispatch (p : PtnIx)
  /-- DEADLINE_EXPIRY (R82). When a job's deadline passes it fails without starting or its tiles and engines stop with DEADLINE_MISS. -/
  | deadlineExpiry (job : Nat)
  /-- JOB_COMPLETE (R80). After a job's last output fence retires JOB applies its signals and writes its completion record. -/
  | jobComplete (job : Nat)
  /-- CQ_IRQ_TIMER (R88). When IRQ_TIME µs have passed since the first unsignalled record an MSI is sent. -/
  | cqIrqTimer (p : PtnIx) (events : Bool)
  /-- OT_REGISTER (R91). A REGISTER command sets an object REGISTERING and starts reading its image. -/
  | otRegister (src p : PtnIx) (index : BitVec 12)
  /-- OT_REGISTER_DONE (R91). When the image has been read the digest is written and the object becomes VALID or FAILED. -/
  | otRegisterDone (p : PtnIx)
  /-- OT_RETIRE (R91). A RETIRE command sets an object RETIRING; it becomes FREE after its last job is recorded. -/
  | otRetire (src p : PtnIx) (index : BitVec 12)
  /-- BELAY_ENQUEUE (R95). A 64-bit belay doorbell write is accepted into the partition's belay queue with a sequence number, or dropped. -/
  | belayEnqueue (src p : PtnIx) (cmd : DWord)
  /-- STOP_PORT (R94). Belay STOP_PORT stops the partition's flows on an Ethernet port or Yalelle link. -/
  | stopPort (p : PtnIx)
  /-- CANCEL_TAG (R94). Belay CANCEL_TAG cancels accepted and running jobs whose tag matches. -/
  | cancelTag (p : PtnIx)
  /-- CANCEL_RING (R94). Belay CANCEL_RING cancels every accepted and posted job of a ring. -/
  | cancelRing (p : PtnIx)
  /-- QUIESCE_STREAMS (R94). Belay QUIESCE_STREAMS stops new stream and gather requests and sets QUIESCED. -/
  | quiesceStreams (p : PtnIx)
  /-- HALT_PARTITION (R94). Belay HALT_PARTITION stops fetching, tiles, engines and ports and cancels every job of the partition. -/
  | haltPartition (p : PtnIx)
  /-- BELAY_DONE (R96). When draining and records are done a BELAY_DONE event is written to the target's and origin's event rings. -/
  | belayDone (p : PtnIx)
  /-- RESUME (R98). Writing JOB_PQ_CTL.RESUME clears HALTED and the halt's port stops and resumes fetching. -/
  | resume (src p : PtnIx)
  /-- UNQUIESCE (R98). Writing JOB_PQ_CTL.UNQUIESCE clears QUIESCED. -/
  | unquiesce (src p : PtnIx)
  /-- CLR_STATS (R99). JOB_CTL.CLR_STATS clears MAXLAT and all JOB_PQ_CNT counts. -/
  | clrStats (src : PtnIx)
  /-- SYS_CHIPID_WRITE (R36). The first write of SYS_CHIPID.ID locks the chip id and sets ID_SET. -/
  | sysChipidWrite (id : BitVec 12)
  /-- TASK_START (R101). A tile with no running task starts the head of its queue, initialising registers and PC. -/
  | taskStart (t : TileIx)
  /-- PROGRAM_MEMORY_WRITE (R102). A memory-window write to program memory clears the loaded-image record, or is ignored with an event when the tile is not IDLE. -/
  | programMemoryWrite (p : PtnIx) (t : TileIx) (offset : Fin 131072) (value : Byte)
  /-- TASK_END (R223). When HALT finds everything idle the task ends, the stream engine completes its instances and retires the implicit last fence. -/
  | taskEnd (t : TileIx)
  /-- NOP (R110). NOP does nothing in its slot. -/
  | nop (t : TileIx) (slot : Fin 7)
  /-- ADD (R110). S-slot ADD writes rs1 + rs2 and sets flags. -/
  | add (t : TileIx)
  /-- SUB (R110). S-slot SUB writes rs1 - rs2 and sets flags. -/
  | sub (t : TileIx)
  /-- AND (R110). S-slot AND writes the bitwise AND. -/
  | and (t : TileIx)
  /-- OR (R110). S-slot OR writes the bitwise OR. -/
  | or (t : TileIx)
  /-- XOR (R110). S-slot XOR writes the bitwise XOR. -/
  | xor (t : TileIx)
  /-- SLL (R110). S-slot SLL shifts rs1 left by rs2[4:0]. -/
  | sll (t : TileIx)
  /-- SRL (R110). S-slot SRL shifts rs1 right logically by rs2[4:0]. -/
  | srl (t : TileIx)
  /-- SRA (R110). S-slot SRA shifts rs1 right arithmetically by rs2[4:0]. -/
  | sra (t : TileIx)
  /-- MUL (R110). S-slot MUL writes the low 32 bits of the product with latency 3. -/
  | mul (t : TileIx)
  /-- MULH (R110). S-slot MULH writes the high 32 bits of the signed product. -/
  | mulh (t : TileIx)
  /-- MIN (R110). S-slot MIN writes the signed minimum. -/
  | min (t : TileIx)
  /-- MAX (R110). S-slot MAX writes the signed maximum. -/
  | max (t : TileIx)
  /-- CMP (R110). S-slot CMP sets flags from rs1 - rs2. -/
  | cmp (t : TileIx)
  /-- ADDI (R110). S-slot ADDI adds an immediate. -/
  | addi (t : TileIx)
  /-- ANDI (R110). S-slot ANDI ANDs an immediate. -/
  | andi (t : TileIx)
  /-- ORI (R110). S-slot ORI ORs an immediate. -/
  | ori (t : TileIx)
  /-- XORI (R110). S-slot XORI XORs an immediate. -/
  | xori (t : TileIx)
  /-- SLLI (R110). S-slot SLLI shifts left by an immediate. -/
  | slli (t : TileIx)
  /-- SRLI (R110). S-slot SRLI shifts right logically by an immediate. -/
  | srli (t : TileIx)
  /-- SRAI (R110). S-slot SRAI shifts right arithmetically by an immediate. -/
  | srai (t : TileIx)
  /-- LI (R110). S-slot LI loads an immediate. -/
  | li (t : TileIx)
  /-- CMPI (R110). S-slot CMPI sets flags from rs1 - IMM. -/
  | cmpi (t : TileIx)
  /-- PSET (R111). PSET sets a predicate from a FLAGS condition. -/
  | pset (t : TileIx)
  /-- PLOG (R111). PLOG combines two predicates with AND, OR, XOR or AND NOT. -/
  | plog (t : TileIx)
  /-- MFS (R106). MFS reads a special register into an s register. -/
  | mfs (t : TileIx)
  /-- MTS (R106). MTS writes an s register into a special register. -/
  | mts (t : TileIx)
  /-- AADD (R110). AADD adds a signed immediate to an address register. -/
  | aadd (t : TileIx)
  /-- LDX (R111). LDX loads a 32-bit word from X memory. -/
  | ldx (t : TileIx)
  /-- LDY (R111). LDY loads a 32-bit word from Y memory. -/
  | ldy (t : TileIx)
  /-- STX (R111). STX stores a 32-bit word to X memory. -/
  | stx (t : TileIx)
  /-- STY (R111). STY stores a 32-bit word to Y memory. -/
  | sty (t : TileIx)
  /-- BR (R112). BR branches to an immediate index after one delay bundle. -/
  | br (t : TileIx)
  /-- BRR (R112). BRR branches to rs1[11:0] after one delay bundle. -/
  | brr (t : TileIx)
  /-- CALL (R112). CALL sets s31 and branches after one delay bundle. -/
  | call (t : TileIx)
  /-- RET (R112). RET branches to s31 after one delay bundle. -/
  | ret (t : TileIx)
  /-- LOOP (R120). LOOP starts a zero-overhead loop with an immediate count. -/
  | loop (t : TileIx)
  /-- LOOPR (R120). LOOPR starts a zero-overhead loop with a register count. -/
  | loopr (t : TileIx)
  /-- LBRK (R122). LBRK deactivates the innermost loop. -/
  | lbrk (t : TileIx)
  /-- RTI (R127). RTI restores FLAGS from EFLAGS and returns to EPC after one delay bundle. -/
  | rti (t : TileIx)
  /-- HALT (R110). HALT waits until every operation, the matrix queue and the element engine are idle, then ends the task. -/
  | halt (t : TileIx)
  /-- TRAP (R110). TRAP ends the task with TILE_TRAP. -/
  | trap (t : TileIx)
  /-- WFI (R110). WFI stalls until IPEND AND IMASK is nonzero. -/
  | wfi (t : TileIx)
  /-- SEMW (R111). SEMW stalls until the semaphore reaches the count, then subtracts it atomically. -/
  | semw (t : TileIx)
  /-- SEMS (R111). SEMS adds a count to a semaphore, saturating with an event. -/
  | sems (t : TileIx)
  /-- SSTART (R210). SSTART copies and checks a stream descriptor record into an instance, or a pending re-arm. -/
  | sstart (t : TileIx)
  /-- SWAIT (R221). SWAIT stalls until the bound instance has delivered n blocks or completed. -/
  | swait (t : TileIx)
  /-- SFENCE (R222). SFENCE issues a stream fence covering earlier instances. -/
  | sfence (t : TileIx)
  /-- SFWAIT (R222). SFWAIT stalls until every fence of the tile has retired. -/
  | sfwait (t : TileIx)
  /-- EWAIT (R110). EWAIT stalls until the element engine runs no kernel. -/
  | ewait (t : TileIx)
  /-- VADD (R201). VADD adds lanes with saturation. -/
  | vadd (t : TileIx) (wide : Bool)
  /-- VSUB (R201). VSUB subtracts lanes with saturation. -/
  | vsub (t : TileIx) (wide : Bool)
  /-- VMUL (R201). VMUL multiplies lanes and shifts, rounding toward zero and saturating. -/
  | vmul (t : TileIx) (wide : Bool)
  /-- VMAC (R202). VMAC adds lane products to an accumulator. -/
  | vmac (t : TileIx) (wide : Bool)
  /-- VMSU (R202). VMSU subtracts lane products from an accumulator. -/
  | vmsu (t : TileIx) (wide : Bool)
  /-- VCMAC (R202). VCMAC accumulates complex products. -/
  | vcmac (t : TileIx) (wide : Bool)
  /-- VCMACJ (R202). VCMACJ accumulates complex products with the conjugate of vb. -/
  | vcmacj (t : TileIx) (wide : Bool)
  /-- VMAG (R202). VMAG accumulates squared magnitudes of complex pairs. -/
  | vmag (t : TileIx) (wide : Bool)
  /-- VACLR (R203). VACLR clears an accumulator. -/
  | vaclr (t : TileIx) (wide : Bool)
  /-- VACRD (R201). VACRD reads an accumulator shifted, rounding toward zero and saturating. -/
  | vacrd (t : TileIx) (wide : Bool)
  /-- VAND (R201). VAND is a bitwise AND of lanes. -/
  | vand (t : TileIx) (wide : Bool)
  /-- VOR (R201). VOR is a bitwise OR of lanes. -/
  | vor (t : TileIx) (wide : Bool)
  /-- VXOR (R201). VXOR is a bitwise XOR of lanes. -/
  | vxor (t : TileIx) (wide : Bool)
  /-- VSHL (R201). VSHL shifts lanes left with saturation. -/
  | vshl (t : TileIx) (wide : Bool)
  /-- VSHR (R201). VSHR shifts lanes right arithmetically. -/
  | vshr (t : TileIx) (wide : Bool)
  /-- VMIN (R201). VMIN takes the signed lane minimum. -/
  | vmin (t : TileIx) (wide : Bool)
  /-- VMAX (R201). VMAX takes the signed lane maximum. -/
  | vmax (t : TileIx) (wide : Bool)
  /-- VABS (R201). VABS takes saturating lane absolute values. -/
  | vabs (t : TileIx) (wide : Bool)
  /-- VNEG (R201). VNEG negates lanes with saturation. -/
  | vneg (t : TileIx) (wide : Bool)
  /-- VBC (R201). VBC broadcasts an s register into every lane. -/
  | vbc (t : TileIx) (wide : Bool)
  /-- VPERM (R201). VPERM permutes lanes by index. -/
  | vperm (t : TileIx) (wide : Bool)
  /-- VINTL (R201). VINTL interleaves halves of two registers. -/
  | vintl (t : TileIx) (wide : Bool)
  /-- VRED (R202). VRED adds the sum of all lanes to accumulator lane 0. -/
  | vred (t : TileIx) (wide : Bool)
  /-- VXW (R201). VXW narrows two w registers into an n register. -/
  | vxw (t : TileIx)
  /-- VXN (R201). VXN widens half of an n register into a w register. -/
  | vxn (t : TileIx)
  /-- D_LOAD (R118). A D-slot generator loads an n, w or v register from X or Y and updates its address register. -/
  | dLoad (t : TileIx) (y : Bool)
  /-- D_STORE (R119). A D-slot generator stores an n, w or v register to X or Y and updates its address register. -/
  | dStore (t : TileIx) (y : Bool)
  /-- MCFG (R132). MCFG queues a change of array format and split mode that empties the weight registers. -/
  | mcfg (t : TileIx)
  /-- MLDW (R139). MLDW queues the load of a weight block for a sub-array. -/
  | mldw (t : TileIx)
  /-- MMUL (R138). MMUL queues a matrix multiply of activation rows through a sub-array. -/
  | mmul (t : TileIx)
  /-- MSWAP (R146). MSWAP stalls until earlier MMULs and kernels end, then releases the active accumulator set. -/
  | mswap (t : TileIx)
  /-- MWAIT (R147). MWAIT stalls until the matrix queue is empty and the array idle. -/
  | mwait (t : TileIx)
  /-- MATRIX_DISPATCH (R139). The matrix queue dispatches its head entry when its conditions hold. -/
  | matrixDispatch (t : TileIx)
  /-- MLDW_COMPLETE (R139). A weight block finishes loading into a sub-array's shadow register. -/
  | mldwComplete (t : TileIx) (sub : Fin 4)
  /-- MMUL_COMPLETE (R148). An MMUL completes, its checksums are compared and its contribution committed or replayed. -/
  | mmulComplete (t : TileIx) (sub : Fin 4) (mismatch : Bool)
  /-- GAP_FILL_TIMEOUT (R151). When GAP_MAX cycles of fill pass without an MMUL, dummy activity ramps down over RAMP cycles and stops. -/
  | gapFillTimeout (t : TileIx) (sub : Fin 4)
  /-- EKRUN (R190). EKRUN checks a kernel and run descriptor and starts an element-kernel run over the released set. -/
  | ekrun (t : TileIx)
  /-- EWIN (R181). EWIN copies a released accumulator row into a v register. -/
  | ewin (t : TileIx)
  /-- EADD (R182). EADD adds INT32 lanes with saturation. -/
  | eadd (t : TileIx)
  /-- ESUB (R182). ESUB subtracts INT32 lanes with saturation. -/
  | esub (t : TileIx)
  /-- EMUL (R182). EMUL multiplies INT32 lanes with saturation. -/
  | emul (t : TileIx)
  /-- EMIN (R182). EMIN takes the signed INT32 lane minimum. -/
  | emin (t : TileIx)
  /-- EMAX (R182). EMAX takes the signed INT32 lane maximum. -/
  | emax (t : TileIx)
  /-- FADD32 (R182). FADD32 is an IEEE FP32 addition. -/
  | fadd32 (t : TileIx)
  /-- FMUL32 (R182). FMUL32 is an IEEE FP32 multiplication. -/
  | fmul32 (t : TileIx)
  /-- FFMA32 (R182). FFMA32 is an IEEE FP32 fused multiply-add. -/
  | ffma32 (t : TileIx)
  /-- FADD64 (R182). FADD64 is an IEEE FP64 addition. -/
  | fadd64 (t : TileIx)
  /-- FMUL64 (R182). FMUL64 is an IEEE FP64 multiplication. -/
  | fmul64 (t : TileIx)
  /-- FFMA64 (R182). FFMA64 is an IEEE FP64 fused multiply-add. -/
  | ffma64 (t : TileIx)
  /-- FDIV32 (R182). FDIV32 is an IEEE FP32 division. -/
  | fdiv32 (t : TileIx)
  /-- FSQRT32 (R182). FSQRT32 is an IEEE FP32 square root. -/
  | fsqrt32 (t : TileIx)
  /-- FDIV64 (R182). FDIV64 is an IEEE FP64 division. -/
  | fdiv64 (t : TileIx)
  /-- FSQRT64 (R182). FSQRT64 is an IEEE FP64 square root. -/
  | fsqrt64 (t : TileIx)
  /-- ECVT (R183). ECVT converts lanes between formats under the narrowing rules. -/
  | ecvt (t : TileIx)
  /-- ERQ (R173). ERQ requantises lanes with dequantisation and quantisation scale entries. -/
  | erq (t : TileIx)
  /-- ELUT (R182). ELUT looks up ELE_LUT per lane. -/
  | elut (t : TileIx)
  /-- EAMAX (R182). EAMAX writes the largest lane magnitude into lane 0. -/
  | eamax (t : TileIx)
  /-- KERNEL_ROW (R190). The element engine runs the kernel's micro-ops for one row and packs and writes its output. -/
  | kernelRow (t : TileIx)
  /-- KERNEL_RUN_END (R192). A kernel run finishes its last write, after any calibration or rescale passes. -/
  | kernelRunEnd (t : TileIx)
  /-- SCALE_WRITE (R168). A write through the SCL window sets a scale entry, or is ignored with an event unless the tile is IDLE. -/
  | scaleWrite (p : PtnIx) (t : TileIx) (entry : BitVec 12) (hi : Bool) (value : Word)
  /-- NLOG_WR_WRITE (R179). A write of TIL_NLOG_WR sets the entry number and clears FULL and LOST. -/
  | nlogWrWrite (p : PtnIx) (t : TileIx) (value : Word)
  /-- INTERRUPT_ENTRY (R126). With IE set and an enabled pending source, the tile saves EPC and EFLAGS and issues at IVEC. -/
  | interruptEntry (t : TileIx)
  /-- INSTANCE_ACTIVATE (R210). A QUEUED stream instance becomes ACTIVE when fewer than 16 are active. -/
  | instanceActivate (t : TileIx)
  /-- LIST_FETCH (R212). A block-list entry or traverse descriptor fetched ahead of use arrives and is checked. -/
  | listFetch (t : TileIx) (d : BitVec 8) (out : Bool)
  /-- STREAM_REQUEST_ISSUE (R217). The stream engine issues one far-side request of an active instance after translation. -/
  | streamRequestIssue (t : TileIx) (out : Bool)
  /-- STREAM_RESPONSE (R218). Read data or a write acknowledgement for a stream request arrives and is written to the near side. -/
  | streamResponse (t : TileIx) (id : Nat) (err : MemErr)
  /-- FENCE_RETIRE (R222). A stream fence retires when every covered instance has completed, applying its semaphore signal. -/
  | fenceRetire (t : TileIx)
  /-- CRC_BLOCK_FEED (R302). The check-value unit starts feeding a counted block's near bytes through the CRC. -/
  | crcBlockFeed (t : TileIx)
  /-- CRC_FEED_END (R303). A block's feed ends and the unit compares, signals its semaphore and may set IPEND bit 2. -/
  | crcFeedEnd (t : TileIx)
  /-- FH_RX_FRAME (R230). The FHE takes an ingress fronthaul frame, maps, windows, decompresses and stores its sections or drops it. -/
  | fhRxFrame (port : PortIx) (frame : List Byte)
  /-- RX_BUFFER_ASSIGN (R237). When symbol 0's window opens a slot buffer is assigned, its semaphore zeroed, overrunning held jobs. -/
  | rxBufferAssign (cell : Fin 96) (b : Fin 8)
  /-- SYMBOL_CLOSE (R237). When a symbol's reception window closes the FHE writes and zero-fills it, writes records and signals the buffer semaphore. -/
  | symbolClose (cell : Fin 96)
  /-- FALLBACK_WATERMARK (R249). At an RX_SLOT job's watermark pending units are judged and learned tasks stopped. -/
  | fallbackWatermark (job : Nat)
  /-- FALLBACK_START (R249). JOB writes the pending mask and starts the FALLBACK program on the job's tiles. -/
  | fallbackStart (job : Nat)
  /-- FHE_CRX_ENABLE (R256). Setting FHE_CRX_CFGn.EN checks the ingress configuration of a cell and enables it. -/
  | fheCrxEnable (src : PtnIx) (cell : Fin 96) (value : Word)
  /-- PRA_CFG_ENABLE (R258). Setting a PRACH configuration's EN places it on the least-loaded searcher, or fails with ERR. -/
  | praCfgEnable (src : PtnIx) (c : Fin 64) (value : Word)
  /-- OCCASION_CLOSE (R261). At an occasion's close the searcher finishes correlation, noise and gate and writes the candidate block. -/
  | occasionClose (c : Fin 64)
  /-- CODE_BLOCK_DISPATCH (R277). A free LDPC decoder takes the next code block and reads its LLRs and HARQ region. -/
  | codeBlockDispatch (d : Fin 16)
  /-- HARQ_COMBINE_DONE (R283). A code block's HARQ region is combined and written back and decoding starts. -/
  | harqCombineDone (d : Fin 16)
  /-- CODE_BLOCK_END (R288). A code block ends after early termination or ITER_MAX iterations. -/
  | codeBlockEnd (d : Fin 16) (err : MemErr)
  /-- POLAR_DISPATCH (R277). A free polar decoder takes the next DECODE KIND 1 job. -/
  | polarDispatch (u : Fin 4)
  /-- POLAR_END (R293). A polar job ends and its payload is written only if every segment passes. -/
  | polarEnd (u : Fin 4) (err : MemErr)
  /-- ENCODE_DISPATCH (R277). A free encoder takes the next ENCODE job. -/
  | encodeDispatch (u : Fin 8)
  /-- ENCODE_END (R296). An encoder finishes its job and writes the output bits. -/
  | encodeEnd (u : Fin 8) (err : MemErr)
  /-- DEC_PSHARE_WRITE (R305). A write of DEC_PSHAREp sets a partition's dedicated and shared decoders, ignored if it double-dedicates. -/
  | decPshareWrite (src p : PtnIx) (value : Word)
  /-- TX_BUFFER_ASSIGN (R312). At the close of a slot's last U-plane window its transmit buffer is assigned to slot t + NBUF and its semaphore zeroed. -/
  | txBufferAssign (cell : Fin 96) (b : Fin 8)
  /-- CPLANE_WINDOW_OPEN (R314). When a slot's C-plane window opens the FHE sends its C-plane messages if the table is ready. -/
  | cplaneWindowOpen (cell : Fin 96) (b : Fin 8)
  /-- UPLANE_WINDOW_OPEN (R315). When a symbol's U-plane window opens the FHE sends its messages if the symbol is ready. -/
  | uplaneWindowOpen (cell : Fin 96) (b : Fin 8)
  /-- TX_PART_READY (R316). The FHE observes a table or symbol ready after its window opened and starts its messages late. -/
  | txPartReady (cell : Fin 96) (b : Fin 8)
  /-- CPLANE_WINDOW_CLOSE (R316). At the C-plane window close unsent messages count CP_MISS. -/
  | cplaneWindowClose (cell : Fin 96) (b : Fin 8)
  /-- UPLANE_WINDOW_CLOSE (R316). At a U-plane window close unsent symbol-streams count TX_MISS with an event. -/
  | uplaneWindowClose (cell : Fin 96) (b : Fin 8)
  /-- FHE_CTX_ENABLE (R324). Setting FHE_CTX_CFGn.EN checks the egress configuration and reads the header template. -/
  | fheCtxEnable (src : PtnIx) (cell : Fin 96) (value : Word)
  /-- GATHER_DISPATCH (R329). A GATHER job starts on the allowed gather engine with the fewest active jobs and reads its table and offsets. -/
  | gatherDispatch (p : PtnIx)
  /-- ROW_READ_DONE (R331). A table row read returns and its elements are pooled into the bag's exact accumulator. -/
  | rowReadDone (c : ClusterIx)
  /-- GATHER_ROW_UPDATE (R336). An UPDATE job writes or adds to an addressed row atomically. -/
  | gatherRowUpdate (c : ClusterIx)
  /-- PTN_CTL_WRITE (R343). The RWL write of PTN_CTL sets the manager and time-owner partitions. -/
  | ptnCtlWrite (src : PtnIx) (value : Word)
  /-- PTN_CFG_ENABLE (R342). Setting PTN_CFGp.EN checks the whole partition configuration and enables it or reports ERR. -/
  | ptnCfgEnable (src p : PtnIx) (value : Word)
  /-- PTN_CFG_DISABLE (R342). Clearing PTN_CFGp.EN takes effect only when the partition is halted and empty, after its cache ways are written back. -/
  | ptnCfgDisable (src p : PtnIx)
  /-- STEAL (R14). An idle tile takes one waiting task from the tail of the first non-empty queue in its cluster. -/
  | steal (t : TileIx)
  /-- CROSS_CLUSTER_STEAL (R349). A thief with nothing in its cluster steals a migratable task from a cluster above the watermark. -/
  | crossClusterSteal (t : TileIx)
  /-- QUANTUM_EXPIRY (R346). When a task has run its quantum and the queue head is as urgent it is pre-empted. -/
  | quantumExpiry (t : TileIx)
  /-- PREEMPTION (R351). The sequencer stops, drains, stops stream issue, returns credits and begins writing the cairn. -/
  | preemption (t : TileIx)
  /-- CAIRN_SAVE_DONE (R355). The cairn becomes valid and the tile starts the head of its queue. -/
  | cairnSaveDone (t : TileIx)
  /-- CAIRN_RESTORE (R356). A saved task at the queue head starts restoring its cairn and checks the CRCs. -/
  | cairnRestore (t : TileIx)
  /-- CAIRN_RESTORE_DONE (R356). The restore applies parked responses, reissues dropped reads and issues the bundle at PC. -/
  | cairnRestoreDone (t : TileIx)
  /-- CAIRN_FAULT_CLEAR (R357). Clearing PTN_STATp.CAIRN_FAULT allows pre-emption on the tile again. -/
  | cairnFaultClear (src p : PtnIx)
  /-- INHERIT_SLICE_EXPIRY (R364). When an inherit slice ends with the mutex still held, the waiter fails with SEM_INHERIT_TIMEOUT. -/
  | inheritSliceExpiry (t : TileIx)
  /-- HOLD_LIMIT_CUT (R367). A leaf holder beyond its hold limit is cut off and rearbitrates, with an event. -/
  | holdLimitCut (hbm : Bool) (unit : Fin 128) (holder : Holder)
  /-- SEM_WRITE (R372). A write of CLU_SEMi replaces the semaphore value and clears HELD. -/
  | semWrite (src : PtnIx) (c : ClusterIx) (sem : Fin 1024) (value : Word)
  /-- REFRESH (R376). A controller issues a due refresh, revoking a grant at the fourth postponement. -/
  | refresh (q : Fin 128) (temp : BitVec 8) (rate : Fin 3) (found : RefreshCase)
  /-- HBM_ENABLE (R391). Setting HBM_CTL.EN starts training the stack. -/
  | hbmEnable (src : PtnIx) (st : Fin 4)
  /-- HBM_TRAIN_DONE (R391). Stack training ends with TRAINED or TRAIN_FAIL. -/
  | hbmTrainDone (st : Fin 4) (ok : Bool)
  /-- HBM_DISABLE (R391). Clearing HBM_CTL.EN drains the stack and places it in self-refresh. -/
  | hbmDisable (src : PtnIx) (st : Fin 4)
  /-- MMU_FAULT_RECORD (R389). A fault record is written to the partition's fault ring with its sequence number, or lost. -/
  | mmuFaultRecord (p : PtnIx)
  /-- MMU_RESOLVE_RETRY (R390). A resolve with FAIL = 0 makes every requester of the record walk again. -/
  | mmuResolveRetry (src p : PtnIx) (seq : BitVec 16)
  /-- MMU_RESOLVE_FAIL (R390). A resolve with FAIL = 1 fails each requester's job with MMU_FAULT. -/
  | mmuResolveFail (src p : PtnIx) (seq : BitVec 16)
  /-- INV_ALL (R387). An MMU_INV of scope ALL drops every cached translation of the partition. -/
  | invAll (src p : PtnIx)
  /-- INV_PAGE (R387). An MMU_INV of a 4 KiB page drops that page's cached translations. -/
  | invPage (src p : PtnIx)
  /-- INV_DONE (R387). An invalidation completes when its entries are dropped and earlier walks finished, clearing INV_BUSY. -/
  | invDone (p : PtnIx)
  /-- FR_ENABLE (R392). Setting FR_CFG.EN checks the fault ring placement and resets its counts and phase. -/
  | frEnable (src p : PtnIx) (value : Word)
  /-- WRITE_BACK (R393). SYC_MAINT OP write back writes back a partition's dirty cache lines. -/
  | writeBack (src p : PtnIx)
  /-- WRITE_BACK_INVALIDATE (R393). SYC_MAINT OP write back and invalidate cleans and invalidates a partition's ways. -/
  | writeBackInvalidate (src p : PtnIx)
  /-- MAINT_DONE (R393). Cache maintenance ends and BUSY clears. -/
  | maintDone
  /-- LINK_ENABLE (R398). Writing YAL_LINKk_CTL.EN 1 checks credits and puts the link in TRAIN. -/
  | linkEnable (src : PtnIx) (k : LinkIx)
  /-- LINK_DISABLE (R398). Writing EN 0 takes the link DOWN and discards its replay buffer and queued packets. -/
  | linkDisable (src : PtnIx) (k : LinkIx)
  /-- LINK_TRAIN_DONE (R398). Training ends with four or three lanes locked, moving to UP or DEGRADED. -/
  | linkTrainDone (k : LinkIx) (locked : BitVec 4) (peer : Peer)
  /-- LINK_TRAIN_TIMEOUT (R398). Fewer than three lanes locked by 100 ms puts the link in FAILED. -/
  | linkTrainTimeout (k : LinkIx)
  /-- RETRAIN (R398). Writing YAL_LINKk_CTL.RETRAIN retrains a usable link. -/
  | retrain (src : PtnIx) (k : LinkIx)
  /-- RETRAIN_DONE (R398). Retraining ends with four or three lanes, moving to UP or DEGRADED. -/
  | retrainDone (k : LinkIx) (locked : BitVec 4)
  /-- RETRAIN_TIMEOUT (R398). Fewer than three lanes within 40 µs of retraining puts the link in FAILED. -/
  | retrainTimeout (k : LinkIx)
  /-- FLIT_RECEIVE (R397). A received flit is CRC-checked and delivered, or discarded with a NAK that triggers replay. -/
  | flitReceive (k : LinkIx) (flit : List Byte) (fec : BitVec 4)
  /-- PACKET_TRANSIT (R405). A transit device forwards a packet on the next link of its path or returns error 3. -/
  | packetTransit (k : LinkIx)
  /-- RD_REQ (R408). A read request arriving at its destination is served if exported, or answered with an error. -/
  | rdReq (k : LinkIx) (err : MemErr)
  /-- RD_RSP (R403). A read response arrives for its requester, or parks in the bivouac buffer if the context is saved. -/
  | rdRsp (k : LinkIx)
  /-- WR (R408). A write request arriving at its destination is performed, or taken as a message on VC3. -/
  | wr (k : LinkIx) (err : MemErr)
  /-- WR_ACK (R403). A write acknowledgement arrives for its requester. -/
  | wrAck (k : LinkIx)
  /-- ATOM (R408). An atomic request is performed atomically at the target and answered with the old value. -/
  | atom (k : LinkIx) (err : MemErr)
  /-- ATOM_RSP (R403). An atomic response returns the old value to its requester. -/
  | atomRsp (k : LinkIx)
  /-- ERR_RSP (R403). An error response fails its request with the code the requester reports. -/
  | errRsp (k : LinkIx)
  /-- BELAY (R93). A forwarded belay packet arrives and is executed if BL_REMOTE_EN allows, else dropped with events. -/
  | belay (k : LinkIx)
  /-- GPOOL_REQ (R334). A gather pooling request is served by the owner's endpoint if exported, returning partials. -/
  | gpoolReq (k : LinkIx)
  /-- GPOOL_RSP (R335). A pooling partial arrives and the requester combines partials in ascending chip order. -/
  | gpoolRsp (k : LinkIx)
  /-- DIGEST (R422). A rope-pair DIGEST packet arrives and is matched to its job or held. -/
  | digest (k : LinkIx)
  /-- MESSAGE_APPEND (R409). A message waiting for room is appended to the partition's message ring. -/
  | messageAppend (q : PtnIx)
  /-- MESSAGE_TIMEOUT (R409). A message with no ring entry at YAL_TMO is discarded and LOST increments. -/
  | messageTimeout (q : PtnIx)
  /-- REQUEST_TIMEOUT (R410). A request without response in its bound fails with LINK_TIMEOUT. -/
  | requestTimeout (tag : BitVec 16)
  /-- BELAY_HOLD_TIMEOUT (R405). A BELAY packet held for 1 ms without a usable path is dropped with an event. -/
  | belayHoldTimeout
  /-- ROUTE_WRITE (R406). A route table write takes effect for later packets, holding them until earlier requests finish. -/
  | routeWrite (src : PtnIx) (dst : BitVec 12) (alt : Bool) (value : Word)
  /-- DIGEST_ALLOCATE (R418). DGT allocates a job's digest area first-fit once it is otherwise eligible. -/
  | digestAllocate (p : PtnIx)
  /-- DIGEST_COMPUTE_DONE (R417). DGT finishes the result digest after the job's last leaf, setting DIGEST_VALID or a conflict. -/
  | digestComputeDone (job : Nat)
  /-- LOCKSTEP_COMPARE_END (R423). Both ENDs exchanged and all chunks compared, mismatches are reported and the record written. -/
  | lockstepCompareEnd (job : Nat)
  /-- ROPE_TIMEOUT (R423). DGT_ROPE_TMO after the local END the comparison ends as a mismatch. -/
  | ropeTimeout (job : Nat)
  /-- ORPHAN_DISCARD (R422). A held peer packet is discarded after DGT_ROPE_TMO and DGT_ORPHAN increments. -/
  | orphanDiscard
  /-- BUCKET_LEAK (R425). Every LEAK ms each bucket level of a kind falls by 1. -/
  | bucketLeak (k : Fin 8)
  /-- SPARE_COPY_DONE (R429). The copy of a draining tile's configuration to the cluster spare ends. -/
  | spareCopyDone (c : SpareCopy)
  /-- TILE_MOVE (R32). When drain and copy have ended the logical tile moves to the spare and starts its queue head. -/
  | tileMove (t : TileIx)
  /-- BBX_RETIRE (R432). A write of BBX_RETIRE retires a named resource as COMMANDED after its work completes. -/
  | bbxRetire (src : PtnIx) (kind : Fin 8) (index : BitVec 8)
  /-- BKT_WRITE (R425). A write of BBX_BKTk.LEAK restarts the leak grid of kind k. -/
  | bktWrite (src : PtnIx) (k : Fin 8) (value : Word)
  /-- PAGE_PROGRAM_DONE (R440). The black-box writer sees a flash operation done and advances HEAD or issues the next. -/
  | pageProgramDone
  /-- BANK_OPEN (R439). When the current bank fills the writer erases and opens the other bank. -/
  | bankOpen
  /-- SWITCH (R439). Writing BBX_CTL.SWITCH opens the other black-box bank. -/
  | switch (src : PtnIx)
  /-- SOFTWARE_RECORD (R442). A write of BBX_SWCMD.GO raises a software event record that is staged. -/
  | softwareRecord (src : PtnIx) (event : BitVec 8)
  /-- DOMAIN_ON (R445). A PWR_DOM_CTLd ON request starts powering a domain or is refused with ERR. -/
  | domainOn (src : PtnIx) (d : Fin 82)
  /-- DOMAIN_OFF (R445). A PWR_DOM_CTLd OFF request starts draining a domain or is refused with ERR. -/
  | domainOff (src : PtnIx) (d : Fin 82)
  /-- DOMAIN_DRAIN_DONE (R446). When transactions in flight have completed the domain enters ISOLATING. -/
  | domainDrainDone (d : Fin 82)
  /-- DOMAIN_ISOLATE_DONE (R446). After 64 fabric cycles of isolation the domain is OFF. -/
  | domainIsolateDone (d : Fin 82)
  /-- DOMAIN_RAMP_DONE (R446). The switch ramp ends and the domain enters RESTORING. -/
  | domainRampDone (d : Fin 82)
  /-- DOMAIN_RESTORE_DONE (R446). Resets release, memories clear and the domain is ON. -/
  | domainRestoreDone (d : Fin 82)
  /-- OP_REQ (R448). A write of CLK_CLc_OP.REQ changes a cluster's target operating point. -/
  | opReq (src : PtnIx) (c : ClusterIx) (req : Fin 4)
  /-- PLL_LOCK (R449). The idle PLL locks to the new frequency and the clock may switch glitch-free. -/
  | pllLock (c : ClusterIx)
  /-- VOLTAGE_REACHED (R449). The regulator reports over AVSBus that the target voltage is reached. -/
  | voltageReached (c : ClusterIx)
  /-- VSETTLE_EXPIRY (R449). After CLK_VSETTLE the clock switches up and the operating-point step ends. -/
  | vsettleExpiry (c : ClusterIx)
  /-- POWER_ESTIMATE (R451). Every 1 µs hardware estimates package power and raises or lowers power floors. -/
  | powerEstimate (ms us10 c0 c1 c2 c3 : BitVec 16)
  /-- POUT_CALIBRATE (R451). Every 10 ms the estimate is calibrated against PMBus READ_POUT. -/
  | poutCalibrate (watts : BitVec 16)
  /-- SAG_WARN (R452). A rail below the warning threshold drives SAG_WARN_N low, commits the black box and forces OP3. -/
  | sagWarn (rail : Fin 8) (mv : BitVec 16)
  /-- SAG_CLEAR (R452). After every rail stays above WARN + 1 % for 100 µs the warning ends. -/
  | sagClear
  /-- SUPPLY_RESET (R453). A rail below the reset threshold resets every domain except OAS. -/
  | supplyReset
  /-- PWR_SAG_WRITE (R453). A write of PWR_SAG sets the thresholds unless the codes are out of range or too close. -/
  | pwrSagWrite (src : PtnIx) (value : Word)
  /-- THERM_WARN (R454). A cluster sensor at 100 °C or more raises THERM_WARN and starts raising the thermal floor. -/
  | thermWarn (c : ClusterIx) (sensor : BitVec 16) (temp : Word)
  /-- THERMAL_FLOOR_STEP (R454). Each millisecond above 100 °C or each 10 ms below 95 °C the thermal floor moves one point. -/
  | thermalFloorStep (c : ClusterIx) (up : Bool)
  /-- THERM_TRIP (R455). A sensor at 115 °C drives THERM_TRIP_N low, commits the black box and enters Stop. -/
  | thermTrip (sensor : BitVec 16) (temp : Word)
  /-- STOP (R456). A write of PWR_STOP.GO takes the device into Stop, optionally keeping HBM. -/
  | stop (src : PtnIx) (keep : Bool)
  /-- RTC_WAKE (R457). When OAS_RTC reaches OAS_ALARM with ALARM_EN the device leaves Stop and boots. -/
  | rtcWake (temp : Word) (cool : Bool)
  /-- RTC_SUB_READ (R460). A read of OAS_RTC_SUB latches OAS_RTC_LO and OAS_RTC_HI. -/
  | rtcSubRead
  /-- RTC_LOAD (R460). A write of OAS_RTC_HI loads the RTC seconds and clears SUB. -/
  | rtcLoad (src : PtnIx) (hi : Word)
  /-- CLOCK_LOSS (R458). Loss of a reference clock resets the device, moves the ATU to holdover or takes ports down. -/
  | clockLoss (r : Fin 4)
  /-- PORST_FALL (R513). A falling edge of PORST_N resets the device as a power-on reset. -/
  | porstFall (supply trip oasis cool : Bool)
  /-- PORST_RISE (R464). A rising edge of PORST_N latches GRP_POS, samples BOOT_MODE and starts the boot sequencer. -/
  | porstRise (grp : Fin 8) (mode : Fin 4)
  /-- BOOT_FLASH (R464). The flash is reset and its first read returns data. -/
  | bootFlash
  /-- FLASH_TIMEOUT (R464). No flash data within 10 ms puts the sequencer in FAIL. -/
  | flashTimeout
  /-- BOOT_CAL (R466). The calibration record is judged and the device secret reconstructed. -/
  | bootCal
  /-- BOOT_FLOORS (R468). Rollback floors are settled from the retained block and the flash mirror. -/
  | bootFloors
  /-- BOOT_OWNER (R471). A valid owner record is selected, or the sequencer enters FAIL. -/
  | bootOwner
  /-- BOOT_BBX (R441). Black-box recovery selects the bank, scans the log and programs staged records. -/
  | bootBbx
  /-- BOOT_IMAGE (R474). An image slot is selected, verified and loaded into system SRAM, or HOLD or FAIL is entered. -/
  | bootImage (errA errB : Bool)
  /-- BOOT_REBUILD (R475). The tile and decoder mapping is rebuilt, measurements written and hart 0 released. -/
  | bootRebuild
  /-- COMMIT (R469). SEC_CTL.COMMIT raises the floors to their running values in the retained block and mirror. -/
  | commit (src : PtnIx)
  /-- COMMIT_DONE (R469). The mirror program completes and FLOOR_RAISED is raised. -/
  | commitDone
  /-- CONFIRM (R474). SEC_CTL.CONFIRM sets CONFIRMED in the trial block. -/
  | confirm (src : PtnIx)
  /-- EXTEND (R475). SEC_EXTCMD.GO extends measurement M4-M7 with 32 bytes. -/
  | extend (src : PtnIx) (m : Fin 8)
  /-- ATTEST (R479). Mailbox ATTEST builds and signs an attestation report for the partition. -/
  | attest (src p : PtnIx) (n : Fin 32)
  /-- VERIFY (R478). Mailbox VERIFY checks an ECDSA signature over a digest. -/
  | verify (src p : PtnIx)
  /-- DERIVE (R478). Mailbox DERIVE returns an HMAC of a label under the partition key. -/
  | derive (src p : PtnIx)
  /-- SEC_DONE (R478). A security-engine command ends and SEC_DONE is sent to its partition. -/
  | secDone
  /-- TRNG_FAIL (R477). A TRNG health-test failure clears TRNG_OK and raises TRNG_FAIL. -/
  | trngFail (test : Fin 2)
  /-- TRNG_STARTUP_TEST (R477). Every 100 ms a failed source repeats its start-up test and may recover. -/
  | trngStartupTest (pass : Bool)
  /-- START (R485). ACI_HARTn_CTL.START starts a HELD hart in machine mode at its reset vector. -/
  | start (src : PtnIx) (h : HartIx)
  /-- HART_RESET (R485). ACI_HARTn_CTL.RESET writes back a hart's dirty lines and returns it to HELD. -/
  | hartReset (src : PtnIx) (h : HartIx)
  /-- CORE_ACCESS (R483). A hart load, store or AMO is performed locally, as a remote single-word access or atomic, or faults. -/
  | coreAccess (h : HartIx) (op : CoreOp) (addr : BitVec 52) (size : Fin 5) (data : List Byte) (err : CoreErr) (mem : MemErr)
  /-- MSI_WRITE (R487). A write of an IMSIC setipnum_le register sets an identity pending. -/
  | msiWrite (h target : HartIx) (file : Fin 16) (value : Word)
  /-- APLIC_SOURCE (R489). A change on a wired APLIC source is delivered as an MSI. -/
  | aplicSource (source : Fin 6) (level : Bool)
  /-- PCIE_LINK_CHANGE (R490). The PCIe link comes up or goes down. -/
  | pcieLinkChange (up : Bool) (rate : Fin 7) (width : Fin 17)
  /-- PCIE_INBOUND (R492). An inbound TLP to a function's window is translated in its partition's context. -/
  | pcieInbound (fn : Fin 17) (tlp : Tlp) (err : MemErr)
  /-- PCIE_OUTBOUND (R493). An access to the outbound window is sent to the host on its region's function. -/
  | pcieOutbound (src : OutSrc) (ans : Option (List Byte))
  /-- PCIE_COMPLETION_TIMEOUT (R493). An outbound read without completion in CTO ms fails with LINK_TIMEOUT. -/
  | pcieCompletionTimeout (src : OutSrc)
  /-- MSIX_UNMASK (R494). Unmasking a vector with its PBA bit set sends the MSI-X. -/
  | msixUnmask (fn : Fin 17) (vec : Fin 2048)
  /-- FLR (R495). A function-level reset resets the function and halts its partitions. -/
  | flr (fn : Fin 17)
  /-- PCIE_PERST (R495). PCIE_PERST_N asserted resets the device or the PCI domain by PERST_RST. -/
  | pciePerst
  /-- ETH_LINK_CHANGE (R496). An Ethernet port link comes up or goes down. -/
  | ethLinkChange (port : PortIx) (up : Bool)
  /-- ETH_PORT_ENABLE (R496). Setting ETH_PORTn_CTL.EN enables a port unless its lanes include a retired lane. -/
  | ethPortEnable (src : PtnIx) (port : PortIx)
  /-- ETH_FRAME_RECEIVE (R498). A received frame is steered to forwarding, the FHE, the PTP queue, a queue or dropped. -/
  | ethFrameReceive (port : PortIx) (frame : List Byte) (fcsOk : Bool)
  /-- PFC_RECEIVE (R497). A received PFC pause stops or restarts new frames of a priority. -/
  | pfcReceive (port : PortIx) (prio : Fin 8) (on : Bool)
  /-- ETH_FRAME_TRANSMIT (R499). A frame leaves a port and the queue's TXHEAD advances. -/
  | ethFrameTransmit (src : TxSrc)
  /-- ETH_TXTAIL (R499). A write of ETH_Qq_TXTAIL posts TX descriptors for sending. -/
  | ethTxtail (src : PtnIx) (q : Fin 32) (tail : Word)
  /-- XSP_CMD (R500). XSP_CMD.GO issues a software flash command, or refuses it with PROT. -/
  | xspCmd (src : PtnIx) (value : Word)
  /-- XSP_DONE (R500). A software flash command ends and BUSY clears. -/
  | xspDone (data : List Byte)
  /-- SB_CMD (R501). XSP_SB_CMD.GO starts a PMBus or I3C transfer between hardware transfers. -/
  | sbCmd (src : PtnIx) (value : Word)
  /-- SB_DONE (R501). A board-bus transfer ends with its status. -/
  | sbDone (err : Fin 4) (data : List Byte)
  /-- ARR_CLR_CNT (R152). ARR_CTL.CLR_CNT clears the array counts. -/
  | arrClrCnt (src : PtnIx) (t : TileIx)
  /-- ELE_CLR_CNT (R196). ELE_CTL.CLR_CNT clears ELE_RUNCNT. -/
  | eleClrCnt (src : PtnIx) (t : TileIx)
  /-- STM_CLR_CNT (R228). STM_CTL.CLR_CNT clears the stream counts. -/
  | stmClrCnt (src : PtnIx) (t : TileIx)
  /-- FHE_RX_CLR_CNT (R256). FHE_RX_CTL.CLR_CNT clears all ingress counts. -/
  | fheRxClrCnt (src : PtnIx)
  /-- FHE_TX_CLR_CNT (R323). FHE_TX_CTL.CLR_CNT clears all egress counts. -/
  | fheTxClrCnt (src : PtnIx)
  /-- PRA_CLR_CNT (R274). PRA_CTL.CLR_CNT clears all PRACH counts. -/
  | praClrCnt (src : PtnIx)
  /-- DEC_CLR_CNT (R305). DEC_CTL.CLR_CNT clears DEC_CNT0-DEC_CNT2. -/
  | decClrCnt (src : PtnIx)
  /-- ENC_CLR_CNT (R306). ENC_CTL.CLR_CNT clears ENC_CNT. -/
  | encClrCnt (src : PtnIx)
  /-- GTH_CLR_CNT (R340). GTH_CTL.CLR_CNT clears the gather counts. -/
  | gthClrCnt (src : PtnIx) (c : ClusterIx)
  /-- PTN_CLR_CNT (R371). PTN_CTLp.CLR_CNT clears the partition's counts. -/
  | ptnClrCnt (src p : PtnIx)
  /-- CLU_CLR_CNT (R372). CLU_CTL.CLR_CNT clears CLU_STEALCNT and CLU_BIVCNT. -/
  | cluClrCnt (src : PtnIx) (c : ClusterIx)
  /-- HBM_CLR_CNT (R391). HBM_CTL.CLR_CNT clears HBM_CNT0-HBM_CNT3. -/
  | hbmClrCnt (src : PtnIx) (st : Fin 4)
  /-- YAL_CLR_CNT (R411). YAL_CTL.CLR_CNT clears all Yalelle counts. -/
  | yalClrCnt (src : PtnIx)
  /-- DGT_CLR_CNT (R424). DGT_CTL.CLR_CNT clears all DGT counts. -/
  | dgtClrCnt (src : PtnIx)
  /-- BBX_CLR_CNT (R443). BBX_CTL.CLR_CNT clears BBX_CNT. -/
  | bbxClrCnt (src : PtnIx)
  /-- REGISTER_WRITE (R9). A write to any other register updates its writable fields subject to access codes and owner rules. -/
  | registerWrite (src : PtnIx) (addr : BitVec 40) (value : Word)
  /-- RESULT_WRITE (R123). An operation issued with latency L writes its result, or adds its accumulator contribution, at the end of its last latency cycle and releases any bundle stalled on it. -/
  | resultWrite (t : TileIx)
  /-- SUPPLY_RECOVERY (R453). After a supply-monitor reset every rail has recovered and the boot sequencer restarts. -/
  | supplyRecovery
  /-- REFCLK_PLL_LOCK (R464). With PORST_N high, the REFCLK_100M PLL locks after a reset and the sequencer leaves RESET for FLASH. -/
  | refclkPllLock (mode : Fin 4)
  /-- CLOCK_RETURN (R458). A lost reference clock (TIMECLK, ETH_REFCLK or PCIE_REFCLK) returns and its CLK_STAT.LOSS state is left. -/
  | clockReturn (r : Fin 4)
  /-- PCIE_PERST_RELEASE (R495). PCIE_PERST_N is deasserted and the PCI domain or device leaves the reset it imposed. -/
  | pciePerstRelease
  /-- POSTED_WRITE_DROP (R493). An outbound posted write held while the PCIe link is down is dropped after CTO ms and PCIE_OUT_DROP is raised. -/
  | postedWriteDrop
  /-- THERMAL_TRIP_WAKE (R457). After a thermal trip with the alarm already reached, the oasis sensor reads below 95 °C and the device leaves Stop and boots. -/
  | thermalTripWake (temp : Word) (cool : Bool)
  /-- RTC_TICK (R460). The oasis RTC advances on each 32.768 kHz tick, carrying SUB into the seconds. -/
  | rtcTick
  /-- TILE_DEBUG_ACCESS (R502). A tile debug access through the JTAG debug module takes a tile bank as the emergency requester, pausing the current grant. -/
  | tileDebugAccess (t : TileIx) (off : Fin 0x200000) (write : Bool) (data : List Byte)
  /-- WAYS_WRITE_BACK_DONE (R380). The write-back and invalidation of a partition's cache ways before PTN_CFGp.EN clears ends, and EN clears with ERR leaving BUSY. -/
  | waysWriteBackDone (p : PtnIx)
deriving DecidableEq, Repr

end Sys2Proof
end

