-- ==== Sys2Proof/Machine/Maps.lean ====
section
/-! DEFINITION. Sparse tables: lists of (key, value) pairs with strictly rising keys. `put` and `del` work on any
table; `get` and `set` work on a table with a default value for every unlisted key, and keep the canonical form in
which no entry equals the default of its key, so that equal contents are equal data. -/
namespace Sys2Proof.Machine

/-- A sparse table. -/
structure Table (β : Type) where
  rows : List (Nat × β)
deriving DecidableEq, Repr

/-- The empty table. -/
def Table.empty {β : Type} : Table β := ⟨[]⟩

/-- The first value listed under a key. -/
def findRow {β : Type} (k : Nat) : List (Nat × β) → Option β
  | [] => none
  | (k', v) :: rest => if k' = k then some v else findRow k rest

/-- Put a value under a key: replace the entry, or insert it before the first larger key. -/
def putRow {β : Type} (k : Nat) (v : β) : List (Nat × β) → List (Nat × β)
  | [] => [(k, v)]
  | (k', v') :: rest =>
    if k' = k then (k, v) :: rest
    else if k < k' then (k, v) :: (k', v') :: rest
    else (k', v') :: putRow k v rest

/-- Drop every entry of a key. -/
def delRow {β : Type} (k : Nat) : List (Nat × β) → List (Nat × β)
  | [] => []
  | (k', v') :: rest => if k' = k then delRow k rest else (k', v') :: delRow k rest

def Table.find? {β : Type} (m : Table β) (k : Nat) : Option β := findRow k m.rows
def Table.put {β : Type} (m : Table β) (k : Nat) (v : β) : Table β := ⟨putRow k v m.rows⟩
def Table.del {β : Type} (m : Table β) (k : Nat) : Table β := ⟨delRow k m.rows⟩

/-- The value under a key, or its default. -/
def Table.get {β : Type} (m : Table β) (d : Nat → β) (k : Nat) : β := (m.find? k).getD (d k)

/-- Set the value under a key; the default value is not listed. -/
def Table.set {β : Type} [DecidableEq β] (m : Table β) (d : Nat → β) (k : Nat) (v : β) : Table β :=
  if v = d k then m.del k else m.put k v

/-- The value under a key of a table of records, or `d`. -/
def Table.getD {β : Type} (m : Table β) (k : Nat) (d : β) : β := (m.find? k).getD d

/-- Keep the rows whose key satisfies `p`. -/
def Table.keep {β : Type} (m : Table β) (p : Nat → Bool) : Table β := ⟨m.rows.filter fun r => p r.1⟩

/-- The keys rise strictly, from above `lo` when `lo` is given. -/
def keysRise {β : Type} : Option Nat → List (Nat × β) → Bool
  | _, [] => true
  | none, (k, _) :: rest => keysRise (some k) rest
  | some lo, (k, _) :: rest => decide (lo < k) && keysRise (some k) rest

/-- No entry equals the default of its key. -/
def noDefault {β : Type} [DecidableEq β] (d : Nat → β) : List (Nat × β) → Bool
  | [] => true
  | (k, v) :: rest => decide (v ≠ d k) && noDefault d rest

/-- The canonical form of a table with defaults. -/
def Table.wf {β : Type} [DecidableEq β] (d : Nat → β) (m : Table β) : Bool :=
  keysRise none m.rows && noDefault d m.rows

end Sys2Proof.Machine
end

