-- ==== Sys2Proof/Machine/Registers.lean ====
section
/-! DEFINITION. The register catalogue: every register the spec gives, with its address, its copies, its
fields, their access codes (R9) and their reset values. Each group of rows names the file of spec/ and the rule whose
table it transcribes. A field is `REG.FIELD : Fld`, a register `REG : Reg`. -/
set_option linter.unusedVariables false
namespace Sys2Proof.Machine

/-- The access codes of R9. -/
inductive Access where
  | rw | ro | wo | w1c | w1s | rwl
deriving DecidableEq, Repr

/-- A register: local address of copy (0, 0), and up to two strides with their counts (stride 0: one copy). -/
structure Reg where
  base : Nat
  st1 : Nat
  n1 : Nat
  st2 : Nat
  n2 : Nat
deriving DecidableEq, Repr

/-- A field of a register: bits [hi:lo]. -/
structure Fld where
  reg : Reg
  hi : Nat
  lo : Nat
deriving DecidableEq, Repr

/-- One row of a register table: the field, its access code and its reset value. -/
structure FldRow where
  fld : Fld
  acc : Access
  rst : Nat
deriving DecidableEq, Repr

/-- A register with the rows of its table. -/
structure RegRow where
  reg : Reg
  rows : List FldRow
deriving DecidableEq, Repr

/-- The local address of copy (i, j) of a register. -/
def Reg.addr (r : Reg) (i j : Nat) : Nat := r.base + r.st1 * i + r.st2 * j

/-- The copy (i, j) of register `r` that local address `a` names, if it names one. -/
def Reg.index? (r : Reg) (a : Nat) : Option (Nat × Nat) :=
  if a < r.base then none
  else
    let d := a - r.base
    let i := if r.st1 = 0 then 0 else d / r.st1
    let d1 := if r.st1 = 0 then d else d % r.st1
    let j := if r.st2 = 0 then 0 else d1 / r.st2
    let d2 := if r.st2 = 0 then d1 else d1 % r.st2
    if d2 = 0 ∧ i < r.n1 ∧ j < r.n2 then some (i, j) else none


/-! 01_levels.md R35 -/
def SYS_ID : Reg := ⟨0x40000000, 0x0, 1, 0x0, 1⟩
def SYS_ID.PART : Fld := ⟨SYS_ID, 31, 16⟩
def SYS_ID.STEP : Fld := ⟨SYS_ID, 15, 8⟩

/-! 01_levels.md R36 -/
def SYS_CHIPID : Reg := ⟨0x40000010, 0x0, 1, 0x0, 1⟩
def SYS_CHIPID.GRP_POS : Fld := ⟨SYS_CHIPID, 19, 17⟩
def SYS_CHIPID.ID_SET : Fld := ⟨SYS_CHIPID, 16, 16⟩
def SYS_CHIPID.ID : Fld := ⟨SYS_CHIPID, 11, 0⟩

/-! 01_levels.md R37 -/
def SYS_SPARE : Reg := ⟨0x40000020, 0x0, 1, 0x0, 1⟩
def SYS_SPARE.SPARE_BAD : Fld := ⟨SYS_SPARE, 11, 8⟩
def SYS_SPARE.SPARE_USED : Fld := ⟨SYS_SPARE, 7, 4⟩

/-! 01_levels.md R38 -/
def SYS_TMAP : Reg := ⟨0x40000100, 0x4, 64, 0x0, 1⟩
def SYS_TMAP.STATE : Fld := ⟨SYS_TMAP, 17, 16⟩
def SYS_TMAP.RETIRE_CNT : Fld := ⟨SYS_TMAP, 15, 8⟩
def SYS_TMAP.PTILE : Fld := ⟨SYS_TMAP, 6, 0⟩

/-! 02_air_time.md R67 -/
def ATU_CTL : Reg := ⟨0x40040000, 0x0, 1, 0x0, 1⟩
def ATU_CTL.RCV_PORT : Fld := ⟨ATU_CTL, 23, 20⟩
def ATU_CTL.RCV_EN : Fld := ⟨ATU_CTL, 19, 19⟩
def ATU_CTL.SET : Fld := ⟨ATU_CTL, 2, 2⟩
def ATU_CTL.TRG_EN : Fld := ⟨ATU_CTL, 1, 1⟩
def ATU_CTL.RUN : Fld := ⟨ATU_CTL, 0, 0⟩
def ATU_STAT : Reg := ⟨0x40040004, 0x0, 1, 0x0, 1⟩
def ATU_STAT.SAMPLE_LOST : Fld := ⟨ATU_STAT, 23, 16⟩
def ATU_STAT.STEP_CNT : Fld := ⟨ATU_STAT, 15, 8⟩
def ATU_STAT.SET_ERR : Fld := ⟨ATU_STAT, 5, 5⟩
def ATU_STAT.ETS_OVF : Fld := ⟨ATU_STAT, 4, 4⟩
def ATU_STAT.FADJ_CLAMP : Fld := ⟨ATU_STAT, 3, 3⟩
def ATU_STAT.TIME_SET : Fld := ⟨ATU_STAT, 2, 2⟩
def ATU_STAT.HOLDOVER : Fld := ⟨ATU_STAT, 1, 1⟩
def ATU_STAT.LOCK : Fld := ⟨ATU_STAT, 0, 0⟩
def ATU_INCR_NS : Reg := ⟨0x40040008, 0x0, 1, 0x0, 1⟩
def ATU_INCR_NS.NS : Fld := ⟨ATU_INCR_NS, 3, 0⟩
def ATU_INCR_FRAC : Reg := ⟨0x4004000C, 0x0, 1, 0x0, 1⟩
def ATU_INCR_FRAC.FRAC : Fld := ⟨ATU_INCR_FRAC, 31, 0⟩
def ATU_FADJ : Reg := ⟨0x40040010, 0x0, 1, 0x0, 1⟩
def ATU_FADJ.FADJ : Fld := ⟨ATU_FADJ, 23, 0⟩
def ATU_STEP : Reg := ⟨0x40040014, 0x0, 1, 0x0, 1⟩
def ATU_STEP.STEP : Fld := ⟨ATU_STEP, 31, 0⟩
def ATU_SET_NS : Reg := ⟨0x40040018, 0x0, 1, 0x0, 1⟩
def ATU_SET_NS.NS : Fld := ⟨ATU_SET_NS, 29, 0⟩
def ATU_SET_SEC_LO : Reg := ⟨0x4004001C, 0x0, 1, 0x0, 1⟩
def ATU_SET_SEC_LO.SEC_LO : Fld := ⟨ATU_SET_SEC_LO, 31, 0⟩
def ATU_SET_SEC_HI : Reg := ⟨0x40040020, 0x0, 1, 0x0, 1⟩
def ATU_SET_SEC_HI.SEC_HI : Fld := ⟨ATU_SET_SEC_HI, 15, 0⟩
def ATU_SERVO_CTL : Reg := ⟨0x40040040, 0x0, 1, 0x0, 1⟩
def ATU_SERVO_CTL.LOCK_THR : Fld := ⟨ATU_SERVO_CTL, 31, 24⟩
def ATU_SERVO_CTL.HOLD_TO : Fld := ⟨ATU_SERVO_CTL, 23, 16⟩
def ATU_SERVO_CTL.STEP_THR : Fld := ⟨ATU_SERVO_CTL, 15, 8⟩
def ATU_SERVO_CTL.STEP_EN : Fld := ⟨ATU_SERVO_CTL, 7, 7⟩
def ATU_SERVO_CTL.FREQ_SRC : Fld := ⟨ATU_SERVO_CTL, 4, 4⟩
def ATU_SERVO_CTL.PHASE_SRC : Fld := ⟨ATU_SERVO_CTL, 1, 0⟩
def ATU_GAIN : Reg := ⟨0x40040044, 0x0, 1, 0x0, 1⟩
def ATU_GAIN.KI : Fld := ⟨ATU_GAIN, 31, 16⟩
def ATU_GAIN.KP : Fld := ⟨ATU_GAIN, 15, 0⟩
def ATU_OFS_IN : Reg := ⟨0x40040048, 0x0, 1, 0x0, 1⟩
def ATU_OFS_IN.OFS : Fld := ⟨ATU_OFS_IN, 31, 0⟩
def ATU_PPS_CFG : Reg := ⟨0x40040050, 0x0, 1, 0x0, 1⟩
def ATU_PPS_CFG.OUT_EN : Fld := ⟨ATU_PPS_CFG, 31, 31⟩
def ATU_PPS_CFG.WIDTH : Fld := ⟨ATU_PPS_CFG, 30, 24⟩
def ATU_PPS_CFG.IN_DLY : Fld := ⟨ATU_PPS_CFG, 19, 0⟩
def ATU_SYNC_CFG : Reg := ⟨0x40040054, 0x0, 1, 0x0, 1⟩
def ATU_SYNC_CFG.LEADER : Fld := ⟨ATU_SYNC_CFG, 31, 31⟩
def ATU_SYNC_CFG.OUT_EN : Fld := ⟨ATU_SYNC_CFG, 30, 30⟩
def ATU_SYNC_CFG.DLY : Fld := ⟨ATU_SYNC_CFG, 15, 0⟩
def ATU_CELL_CFG : Reg := ⟨0x40041000, 0x8, 96, 0x0, 1⟩
def ATU_CELL_CFG.EN : Fld := ⟨ATU_CELL_CFG, 31, 31⟩
def ATU_CELL_CFG.ECP : Fld := ⟨ATU_CELL_CFG, 30, 30⟩
def ATU_CELL_CFG.MU : Fld := ⟨ATU_CELL_CFG, 27, 24⟩
def ATU_CELL_OFS : Reg := ⟨0x40041004, 0x8, 96, 0x0, 1⟩
def ATU_CELL_OFS.OFS : Fld := ⟨ATU_CELL_OFS, 31, 0⟩
def ATU_PORT_IGR : Reg := ⟨0x40043000, 0x8, 16, 0x0, 1⟩
def ATU_PORT_IGR.CORR : Fld := ⟨ATU_PORT_IGR, 31, 0⟩
def ATU_PORT_EGR : Reg := ⟨0x40043004, 0x8, 16, 0x0, 1⟩
def ATU_PORT_EGR.CORR : Fld := ⟨ATU_PORT_EGR, 31, 0⟩

/-! 03_jobs_and_rings.md R99 -/
def JOB_CTL : Reg := ⟨0x40050000, 0x0, 1, 0x0, 1⟩
def JOB_CTL.CLR_STATS : Fld := ⟨JOB_CTL, 1, 1⟩
def JOB_CTL.EN : Fld := ⟨JOB_CTL, 0, 0⟩
def JOB_STAT : Reg := ⟨0x40050004, 0x0, 1, 0x0, 1⟩
def JOB_STAT.ACCEPTED : Fld := ⟨JOB_STAT, 13, 0⟩
def JOB_BL_MAXLAT : Reg := ⟨0x40050008, 0x0, 1, 0x0, 1⟩
def JOB_BL_MAXLAT.MAXLAT : Fld := ⟨JOB_BL_MAXLAT, 31, 0⟩
def JOB_SQ_BASE_LO : Reg := ⟨0x40051000, 0x800, 16, 0x20, 16⟩
def JOB_SQ_BASE_LO.BASE : Fld := ⟨JOB_SQ_BASE_LO, 31, 12⟩
def JOB_SQ_BASE_HI : Reg := ⟨0x40051004, 0x800, 16, 0x20, 16⟩
def JOB_SQ_BASE_HI.BASE : Fld := ⟨JOB_SQ_BASE_HI, 15, 0⟩
def JOB_SQ_CFG : Reg := ⟨0x40051008, 0x800, 16, 0x20, 16⟩
def JOB_SQ_CFG.EN : Fld := ⟨JOB_SQ_CFG, 31, 31⟩
def JOB_SQ_CFG.LOG2SIZE : Fld := ⟨JOB_SQ_CFG, 4, 0⟩
def JOB_SQ_HEAD : Reg := ⟨0x4005100C, 0x800, 16, 0x20, 16⟩
def JOB_SQ_HEAD.HEAD : Fld := ⟨JOB_SQ_HEAD, 31, 0⟩
def JOB_SQ_TAIL : Reg := ⟨0x40051010, 0x800, 16, 0x20, 16⟩
def JOB_SQ_TAIL.TAIL : Fld := ⟨JOB_SQ_TAIL, 31, 0⟩
def JOB_SQ_STAT : Reg := ⟨0x40051014, 0x800, 16, 0x20, 16⟩
def JOB_SQ_STAT.FETCH_FAULT : Fld := ⟨JOB_SQ_STAT, 2, 2⟩
def JOB_SQ_STAT.OVERPOST : Fld := ⟨JOB_SQ_STAT, 1, 1⟩
def JOB_SQ_STAT.ACTIVE : Fld := ⟨JOB_SQ_STAT, 0, 0⟩
def JOB_CQ_BASE_LO : Reg := ⟨0x40051200, 0x800, 16, 0x0, 1⟩
def JOB_CQ_BASE_LO.BASE : Fld := ⟨JOB_CQ_BASE_LO, 31, 12⟩
def JOB_CQ_BASE_HI : Reg := ⟨0x40051204, 0x800, 16, 0x0, 1⟩
def JOB_CQ_BASE_HI.BASE : Fld := ⟨JOB_CQ_BASE_HI, 15, 0⟩
def JOB_CQ_CFG : Reg := ⟨0x40051208, 0x800, 16, 0x0, 1⟩
def JOB_CQ_CFG.EN : Fld := ⟨JOB_CQ_CFG, 31, 31⟩
def JOB_CQ_CFG.IRQ_EN : Fld := ⟨JOB_CQ_CFG, 30, 30⟩
def JOB_CQ_CFG.IRQ_CNT : Fld := ⟨JOB_CQ_CFG, 23, 12⟩
def JOB_CQ_CFG.LOG2SIZE : Fld := ⟨JOB_CQ_CFG, 4, 0⟩
def JOB_CQ_HEAD : Reg := ⟨0x4005120C, 0x800, 16, 0x0, 1⟩
def JOB_CQ_HEAD.HEAD : Fld := ⟨JOB_CQ_HEAD, 31, 0⟩
def JOB_CQ_TAIL : Reg := ⟨0x40051210, 0x800, 16, 0x0, 1⟩
def JOB_CQ_TAIL.TAIL : Fld := ⟨JOB_CQ_TAIL, 31, 0⟩
def JOB_CQ_STAT : Reg := ⟨0x40051214, 0x800, 16, 0x0, 1⟩
def JOB_CQ_STAT.OVERPOST : Fld := ⟨JOB_CQ_STAT, 2, 2⟩
def JOB_CQ_STAT.FULL : Fld := ⟨JOB_CQ_STAT, 1, 1⟩
def JOB_CQ_STAT.WRITE_FAULT : Fld := ⟨JOB_CQ_STAT, 0, 0⟩
def JOB_CQ_MSI : Reg := ⟨0x40051218, 0x800, 16, 0x0, 1⟩
def JOB_CQ_MSI.TARGET : Fld := ⟨JOB_CQ_MSI, 31, 31⟩
def JOB_CQ_MSI.HART : Fld := ⟨JOB_CQ_MSI, 18, 16⟩
def JOB_CQ_MSI.ID : Fld := ⟨JOB_CQ_MSI, 15, 0⟩
def JOB_CQ_IRQ : Reg := ⟨0x4005121C, 0x800, 16, 0x0, 1⟩
def JOB_CQ_IRQ.IRQ_TIME : Fld := ⟨JOB_CQ_IRQ, 15, 0⟩
def JOB_EQ_BASE_LO : Reg := ⟨0x40051220, 0x800, 16, 0x0, 1⟩
def JOB_EQ_BASE_LO.BASE : Fld := ⟨JOB_EQ_BASE_LO, 31, 12⟩
def JOB_EQ_BASE_HI : Reg := ⟨0x40051224, 0x800, 16, 0x0, 1⟩
def JOB_EQ_BASE_HI.BASE : Fld := ⟨JOB_EQ_BASE_HI, 15, 0⟩
def JOB_EQ_CFG : Reg := ⟨0x40051228, 0x800, 16, 0x0, 1⟩
def JOB_EQ_CFG.EN : Fld := ⟨JOB_EQ_CFG, 31, 31⟩
def JOB_EQ_CFG.IRQ_EN : Fld := ⟨JOB_EQ_CFG, 30, 30⟩
def JOB_EQ_CFG.IRQ_CNT : Fld := ⟨JOB_EQ_CFG, 23, 12⟩
def JOB_EQ_CFG.LOG2SIZE : Fld := ⟨JOB_EQ_CFG, 4, 0⟩
def JOB_EQ_HEAD : Reg := ⟨0x4005122C, 0x800, 16, 0x0, 1⟩
def JOB_EQ_HEAD.HEAD : Fld := ⟨JOB_EQ_HEAD, 31, 0⟩
def JOB_EQ_TAIL : Reg := ⟨0x40051230, 0x800, 16, 0x0, 1⟩
def JOB_EQ_TAIL.TAIL : Fld := ⟨JOB_EQ_TAIL, 31, 0⟩
def JOB_EQ_STAT : Reg := ⟨0x40051234, 0x800, 16, 0x0, 1⟩
def JOB_EQ_STAT.LOST : Fld := ⟨JOB_EQ_STAT, 31, 16⟩
def JOB_EQ_STAT.OVERPOST : Fld := ⟨JOB_EQ_STAT, 2, 2⟩
def JOB_EQ_STAT.FULL : Fld := ⟨JOB_EQ_STAT, 1, 1⟩
def JOB_EQ_STAT.WRITE_FAULT : Fld := ⟨JOB_EQ_STAT, 0, 0⟩
def JOB_EQ_MSI : Reg := ⟨0x40051238, 0x800, 16, 0x0, 1⟩
def JOB_EQ_MSI.TARGET : Fld := ⟨JOB_EQ_MSI, 31, 31⟩
def JOB_EQ_MSI.HART : Fld := ⟨JOB_EQ_MSI, 18, 16⟩
def JOB_EQ_MSI.ID : Fld := ⟨JOB_EQ_MSI, 15, 0⟩
def JOB_EQ_IRQ : Reg := ⟨0x4005123C, 0x800, 16, 0x0, 1⟩
def JOB_EQ_IRQ.IRQ_TIME : Fld := ⟨JOB_EQ_IRQ, 15, 0⟩
def JOB_PQ_CFG : Reg := ⟨0x40051240, 0x800, 16, 0x0, 1⟩
def JOB_PQ_CFG.BL_REMOTE_EN : Fld := ⟨JOB_PQ_CFG, 31, 31⟩
def JOB_PQ_CFG.NODL_STEP : Fld := ⟨JOB_PQ_CFG, 23, 16⟩
def JOB_PQ_CFG.QUOTA : Fld := ⟨JOB_PQ_CFG, 13, 0⟩
def JOB_PQ_CTL : Reg := ⟨0x40051244, 0x800, 16, 0x0, 1⟩
def JOB_PQ_CTL.UNQUIESCE : Fld := ⟨JOB_PQ_CTL, 1, 1⟩
def JOB_PQ_CTL.RESUME : Fld := ⟨JOB_PQ_CTL, 0, 0⟩
def JOB_PQ_STAT : Reg := ⟨0x40051248, 0x800, 16, 0x0, 1⟩
def JOB_PQ_STAT.HALTED : Fld := ⟨JOB_PQ_STAT, 31, 31⟩
def JOB_PQ_STAT.QUIESCED : Fld := ⟨JOB_PQ_STAT, 30, 30⟩
def JOB_PQ_STAT.ACCEPTED : Fld := ⟨JOB_PQ_STAT, 13, 0⟩
def JOB_PQ_CNT : Reg := ⟨0x4005124C, 0x800, 16, 0x0, 1⟩
def JOB_PQ_CNT.REARM_COLLAPSED : Fld := ⟨JOB_PQ_CNT, 31, 16⟩
def JOB_PQ_CNT.BL_DROP : Fld := ⟨JOB_PQ_CNT, 15, 0⟩
def JOB_OT_BASE_LO : Reg := ⟨0x40051250, 0x800, 16, 0x0, 1⟩
def JOB_OT_BASE_LO.BASE : Fld := ⟨JOB_OT_BASE_LO, 31, 12⟩
def JOB_OT_BASE_HI : Reg := ⟨0x40051254, 0x800, 16, 0x0, 1⟩
def JOB_OT_BASE_HI.BASE : Fld := ⟨JOB_OT_BASE_HI, 15, 0⟩
def JOB_OT_CMD : Reg := ⟨0x40051258, 0x800, 16, 0x0, 1⟩
def JOB_OT_CMD.CMD : Fld := ⟨JOB_OT_CMD, 31, 30⟩
def JOB_OT_CMD.INDEX : Fld := ⟨JOB_OT_CMD, 11, 0⟩
def JOB_OT_STAT : Reg := ⟨0x4005125C, 0x800, 16, 0x0, 1⟩
def JOB_OT_STAT.BUSY : Fld := ⟨JOB_OT_STAT, 31, 31⟩
def JOB_OT_STAT.ERR : Fld := ⟨JOB_OT_STAT, 27, 24⟩
def JOB_OT_STAT.INDEX : Fld := ⟨JOB_OT_STAT, 11, 0⟩
def JOB_BL_STAT : Reg := ⟨0x40051260, 0x800, 16, 0x0, 1⟩
def JOB_BL_STAT.OCC : Fld := ⟨JOB_BL_STAT, 22, 16⟩
def JOB_BL_STAT.DONE_SEQ : Fld := ⟨JOB_BL_STAT, 15, 0⟩

/-! 04_tile_sequencer.md R130 -/
def TIL_CTL : Reg := ⟨0x50000000, 0x100000, 64, 0x0, 1⟩
def TIL_CTL.SHADOW_CHK : Fld := ⟨TIL_CTL, 0, 0⟩
def TIL_STAT : Reg := ⟨0x50000004, 0x100000, 64, 0x0, 1⟩
def TIL_STAT.STATE : Fld := ⟨TIL_STAT, 31, 30⟩
def TIL_STAT.IN_HANDLER : Fld := ⟨TIL_STAT, 29, 29⟩
def TIL_STAT.IE : Fld := ⟨TIL_STAT, 28, 28⟩
def TIL_STAT.LD : Fld := ⟨TIL_STAT, 27, 25⟩
def TIL_STAT.PC : Fld := ⟨TIL_STAT, 23, 12⟩
def TIL_STAT.IPEND : Fld := ⟨TIL_STAT, 2, 0⟩
def TIL_FAULT : Reg := ⟨0x50000008, 0x100000, 64, 0x0, 1⟩
def TIL_FAULT.VALID : Fld := ⟨TIL_FAULT, 31, 31⟩
def TIL_FAULT.SLOT : Fld := ⟨TIL_FAULT, 30, 28⟩
def TIL_FAULT.PC : Fld := ⟨TIL_FAULT, 23, 12⟩
def TIL_FAULT.CODE : Fld := ⟨TIL_FAULT, 7, 0⟩
def TIL_TASKCYC : Reg := ⟨0x5000000C, 0x100000, 64, 0x0, 1⟩
def TIL_TASKCYC.CYCLES : Fld := ⟨TIL_TASKCYC, 31, 0⟩
def TIL_STALLCYC : Reg := ⟨0x50000010, 0x100000, 64, 0x0, 1⟩
def TIL_STALLCYC.STALLS : Fld := ⟨TIL_STALLCYC, 31, 0⟩

/-! 06_numbers_and_scaling.md R179 -/
def TIL_NSAT : Reg := ⟨0x50000040, 0x100000, 64, 0x0, 1⟩
def TIL_NSAT.COUNT : Fld := ⟨TIL_NSAT, 31, 0⟩
def TIL_NFLUSH : Reg := ⟨0x50000044, 0x100000, 64, 0x0, 1⟩
def TIL_NFLUSH.COUNT : Fld := ⟨TIL_NFLUSH, 31, 0⟩
def TIL_NNAN : Reg := ⟨0x50000048, 0x100000, 64, 0x0, 1⟩
def TIL_NNAN.COUNT : Fld := ⟨TIL_NNAN, 31, 0⟩
def TIL_NLOG_BASE_LO : Reg := ⟨0x50000050, 0x100000, 64, 0x0, 1⟩
def TIL_NLOG_BASE_LO.BASE : Fld := ⟨TIL_NLOG_BASE_LO, 31, 5⟩
def TIL_NLOG_BASE_HI : Reg := ⟨0x50000054, 0x100000, 64, 0x0, 1⟩
def TIL_NLOG_BASE_HI.BASE : Fld := ⟨TIL_NLOG_BASE_HI, 15, 0⟩
def TIL_NLOG_CFG : Reg := ⟨0x50000058, 0x100000, 64, 0x0, 1⟩
def TIL_NLOG_CFG.EN : Fld := ⟨TIL_NLOG_CFG, 31, 31⟩
def TIL_NLOG_CFG.LOG2SIZE : Fld := ⟨TIL_NLOG_CFG, 4, 0⟩
def TIL_NLOG_WR : Reg := ⟨0x5000005C, 0x100000, 64, 0x0, 1⟩
def TIL_NLOG_WR.WR : Fld := ⟨TIL_NLOG_WR, 31, 0⟩
def TIL_NLOG_STAT : Reg := ⟨0x50000060, 0x100000, 64, 0x0, 1⟩
def TIL_NLOG_STAT.LOST : Fld := ⟨TIL_NLOG_STAT, 31, 16⟩
def TIL_NLOG_STAT.FAULT : Fld := ⟨TIL_NLOG_STAT, 1, 1⟩
def TIL_NLOG_STAT.FULL : Fld := ⟨TIL_NLOG_STAT, 0, 0⟩

/-! 05_matrix_array.md R152 -/
def ARR_CFG : Reg := ⟨0x50010000, 0x100000, 64, 0x0, 1⟩
def ARR_CFG.ACTIVE : Fld := ⟨ARR_CFG, 8, 8⟩
def ARR_CFG.SPLIT : Fld := ⟨ARR_CFG, 5, 4⟩
def ARR_CFG.FMT : Fld := ⟨ARR_CFG, 3, 0⟩
def ARR_STAT : Reg := ⟨0x50010004, 0x100000, 64, 0x0, 1⟩
def ARR_STAT.FILL : Fld := ⟨ARR_STAT, 11, 8⟩
def ARR_STAT.QOCC : Fld := ⟨ARR_STAT, 6, 4⟩
def ARR_STAT.REPLAY : Fld := ⟨ARR_STAT, 1, 1⟩
def ARR_STAT.BUSY : Fld := ⟨ARR_STAT, 0, 0⟩
def ARR_SUBSTAT : Reg := ⟨0x50010008, 0x100000, 64, 0x0, 1⟩
def ARR_SUBSTAT.FAILED_REL : Fld := ⟨ARR_SUBSTAT, 11, 8⟩
def ARR_SUBSTAT.FAILED_ACT : Fld := ⟨ARR_SUBSTAT, 7, 4⟩
def ARR_SUBSTAT.SUSPECT : Fld := ⟨ARR_SUBSTAT, 3, 0⟩
def ARR_CKTOL : Reg := ⟨0x5001000C, 0x100000, 64, 0x0, 1⟩
def ARR_CKTOL.ULP : Fld := ⟨ARR_CKTOL, 15, 0⟩
def ARR_GAPFILL : Reg := ⟨0x50010010, 0x100000, 64, 0x0, 1⟩
def ARR_GAPFILL.RAMP : Fld := ⟨ARR_GAPFILL, 31, 16⟩
def ARR_GAPFILL.GAP_MAX : Fld := ⟨ARR_GAPFILL, 15, 8⟩
def ARR_GAPFILL.EN : Fld := ⟨ARR_GAPFILL, 0, 0⟩
def ARR_CKCNT : Reg := ⟨0x50010014, 0x100000, 64, 0x0, 1⟩
def ARR_CKCNT.REPEATED : Fld := ⟨ARR_CKCNT, 31, 16⟩
def ARR_CKCNT.CLEARED : Fld := ⟨ARR_CKCNT, 15, 0⟩
def ARR_CTL : Reg := ⟨0x50010018, 0x100000, 64, 0x0, 1⟩
def ARR_CTL.CLR_CNT : Fld := ⟨ARR_CTL, 0, 0⟩
def ARR_BUSYCYC : Reg := ⟨0x50010020, 0x100000, 64, 0x0, 1⟩
def ARR_BUSYCYC.CYCLES : Fld := ⟨ARR_BUSYCYC, 31, 0⟩
def ARR_FILLCYC : Reg := ⟨0x50010024, 0x100000, 64, 0x0, 1⟩
def ARR_FILLCYC.CYCLES : Fld := ⟨ARR_FILLCYC, 31, 0⟩

/-! 07_element_engine.md R196 -/
def ELE_STAT : Reg := ⟨0x50020000, 0x100000, 64, 0x0, 1⟩
def ELE_STAT.BUSY : Fld := ⟨ELE_STAT, 31, 31⟩
def ELE_STAT.RESCALE : Fld := ⟨ELE_STAT, 30, 30⟩
def ELE_STAT.CALIB : Fld := ⟨ELE_STAT, 29, 29⟩
def ELE_STAT.KERNEL : Fld := ⟨ELE_STAT, 27, 24⟩
def ELE_STAT.ROW : Fld := ⟨ELE_STAT, 13, 8⟩
def ELE_FPCSR : Reg := ⟨0x50020004, 0x100000, 64, 0x0, 1⟩
def ELE_FPCSR.RM : Fld := ⟨ELE_FPCSR, 7, 5⟩
def ELE_FPCSR.NV : Fld := ⟨ELE_FPCSR, 4, 4⟩
def ELE_FPCSR.DZ : Fld := ⟨ELE_FPCSR, 3, 3⟩
def ELE_FPCSR.OF : Fld := ⟨ELE_FPCSR, 2, 2⟩
def ELE_FPCSR.UF : Fld := ⟨ELE_FPCSR, 1, 1⟩
def ELE_FPCSR.NX : Fld := ⟨ELE_FPCSR, 0, 0⟩
def ELE_SATLIM : Reg := ⟨0x50020008, 0x100000, 64, 0x0, 1⟩
def ELE_SATLIM.LIMIT : Fld := ⟨ELE_SATLIM, 31, 0⟩
def ELE_FLUSHLIM : Reg := ⟨0x5002000C, 0x100000, 64, 0x0, 1⟩
def ELE_FLUSHLIM.LIMIT : Fld := ⟨ELE_FLUSHLIM, 31, 0⟩
def ELE_RUNCNT : Reg := ⟨0x50020010, 0x100000, 64, 0x0, 1⟩
def ELE_RUNCNT.RESCALES : Fld := ⟨ELE_RUNCNT, 31, 16⟩
def ELE_RUNCNT.RUNS : Fld := ⟨ELE_RUNCNT, 15, 0⟩
def ELE_CTL : Reg := ⟨0x50020014, 0x100000, 64, 0x0, 1⟩
def ELE_CTL.CLR_CNT : Fld := ⟨ELE_CTL, 0, 0⟩
def ELE_LUT : Reg := ⟨0x50021000, 0x100000, 64, 0x4, 256⟩
def ELE_LUT.VALUE : Fld := ⟨ELE_LUT, 31, 0⟩

/-! 08_signal_lanes.md R207 -/
def SIG_STAT : Reg := ⟨0x50030000, 0x100000, 64, 0x0, 1⟩
def SIG_STAT.WA_SAT : Fld := ⟨SIG_STAT, 7, 4⟩
def SIG_STAT.NA_SAT : Fld := ⟨SIG_STAT, 3, 0⟩
def SIG_NSAT : Reg := ⟨0x50030004, 0x100000, 64, 0x0, 1⟩
def SIG_NSAT.COUNT : Fld := ⟨SIG_NSAT, 31, 0⟩
def SIG_WSAT : Reg := ⟨0x50030008, 0x100000, 64, 0x0, 1⟩
def SIG_WSAT.COUNT : Fld := ⟨SIG_WSAT, 31, 0⟩
def SIG_NOPS : Reg := ⟨0x5003000C, 0x100000, 64, 0x0, 1⟩
def SIG_NOPS.COUNT : Fld := ⟨SIG_NOPS, 31, 0⟩
def SIG_WOPS : Reg := ⟨0x50030010, 0x100000, 64, 0x0, 1⟩
def SIG_WOPS.COUNT : Fld := ⟨SIG_WOPS, 31, 0⟩

/-! 09_stream_engine.md R228 -/
def STM_CFG : Reg := ⟨0x50040000, 0x100000, 64, 0x0, 1⟩
def STM_CFG.MAXOUT : Fld := ⟨STM_CFG, 24, 16⟩
def STM_CFG.DTAB : Fld := ⟨STM_CFG, 14, 0⟩
def STM_STAT : Reg := ⟨0x50040004, 0x100000, 64, 0x0, 1⟩
def STM_STAT.FAULT_WAIT : Fld := ⟨STM_STAT, 31, 31⟩
def STM_STAT.FENCES : Fld := ⟨STM_STAT, 27, 24⟩
def STM_STAT.ACTIVE : Fld := ⟨STM_STAT, 20, 16⟩
def STM_STAT.OUTST : Fld := ⟨STM_STAT, 8, 0⟩
def STM_CTL : Reg := ⟨0x50040008, 0x100000, 64, 0x0, 1⟩
def STM_CTL.CLR_CNT : Fld := ⟨STM_CTL, 0, 0⟩
def STM_FAULT : Reg := ⟨0x5004000C, 0x100000, 64, 0x0, 1⟩
def STM_FAULT.VALID : Fld := ⟨STM_FAULT, 31, 31⟩
def STM_FAULT.DESC : Fld := ⟨STM_FAULT, 23, 16⟩
def STM_FAULT.CODE : Fld := ⟨STM_FAULT, 15, 0⟩
def STM_FAULT_BLK : Reg := ⟨0x50040010, 0x100000, 64, 0x0, 1⟩
def STM_FAULT_BLK.BLOCK : Fld := ⟨STM_FAULT_BLK, 31, 0⟩
def STM_CURBLK : Reg := ⟨0x50040014, 0x100000, 64, 0x0, 1⟩
def STM_CURBLK.BLOCK : Fld := ⟨STM_CURBLK, 31, 0⟩
def STM_CURDESC : Reg := ⟨0x50040018, 0x100000, 64, 0x0, 1⟩
def STM_CURDESC.VALID : Fld := ⟨STM_CURDESC, 31, 31⟩
def STM_CURDESC.DESC : Fld := ⟨STM_CURDESC, 7, 0⟩
def STM_CURC : Reg := ⟨0x50040020, 0x100000, 64, 0x4, 5⟩
def STM_CURC.COORD : Fld := ⟨STM_CURC, 23, 0⟩
def STM_REQCNT : Reg := ⟨0x50040040, 0x100000, 64, 0x0, 1⟩
def STM_REQCNT.COUNT : Fld := ⟨STM_REQCNT, 31, 0⟩
def STM_MERGED : Reg := ⟨0x50040044, 0x100000, 64, 0x0, 1⟩
def STM_MERGED.COUNT : Fld := ⟨STM_MERGED, 31, 0⟩
def STM_RCNT : Reg := ⟨0x50040048, 0x100000, 64, 0x0, 1⟩
def STM_RCNT.FAULTS : Fld := ⟨STM_RCNT, 31, 16⟩
def STM_RCNT.REARM_COLLAPSED : Fld := ⟨STM_RCNT, 15, 0⟩
def STM_DSTAT : Reg := ⟨0x50040400, 0x100000, 64, 0x8, 256⟩
def STM_DSTAT.STATE : Fld := ⟨STM_DSTAT, 31, 30⟩
def STM_DSTAT.PEND : Fld := ⟨STM_DSTAT, 29, 29⟩
def STM_DSTAT.GEN : Fld := ⟨STM_DSTAT, 23, 16⟩
def STM_DSTAT.PGEN : Fld := ⟨STM_DSTAT, 15, 8⟩
def STM_DCNT : Reg := ⟨0x50040404, 0x100000, 64, 0x8, 256⟩
def STM_DCNT.DELIVERED : Fld := ⟨STM_DCNT, 31, 0⟩

/-! 12_channel_coding.md R307 -/
def CRC_CFG : Reg := ⟨0x50050000, 0x100000, 64, 0x0, 1⟩
def CRC_CFG.TRIM : Fld := ⟨CRC_CFG, 22, 20⟩
def CRC_CFG.IRQ : Fld := ⟨CRC_CFG, 19, 19⟩
def CRC_CFG.RST : Fld := ⟨CRC_CFG, 18, 18⟩
def CRC_CFG.CMP : Fld := ⟨CRC_CFG, 17, 16⟩
def CRC_CFG.DESC : Fld := ⟨CRC_CFG, 15, 8⟩
def CRC_CFG.POLY : Fld := ⟨CRC_CFG, 3, 1⟩
def CRC_CFG.EN : Fld := ⟨CRC_CFG, 0, 0⟩
def CRC_VALUE : Reg := ⟨0x50050004, 0x100000, 64, 0x0, 1⟩
def CRC_VALUE.VALUE : Fld := ⟨CRC_VALUE, 31, 0⟩
def CRC_INIT : Reg := ⟨0x50050008, 0x100000, 64, 0x0, 1⟩
def CRC_INIT.INIT : Fld := ⟨CRC_INIT, 31, 0⟩
def CRC_EXPECT : Reg := ⟨0x5005000C, 0x100000, 64, 0x0, 1⟩
def CRC_EXPECT.EXPECT : Fld := ⟨CRC_EXPECT, 31, 0⟩
def CRC_RESULT : Reg := ⟨0x50050010, 0x100000, 64, 0x0, 1⟩
def CRC_RESULT.RESULT : Fld := ⟨CRC_RESULT, 31, 0⟩
def CRC_STAT : Reg := ⟨0x50050014, 0x100000, 64, 0x0, 1⟩
def CRC_STAT.MISMATCH : Fld := ⟨CRC_STAT, 31, 16⟩
def CRC_STAT.SKIP : Fld := ⟨CRC_STAT, 15, 8⟩
def CRC_STAT.FEEDING : Fld := ⟨CRC_STAT, 0, 0⟩
def CRC_LAST : Reg := ⟨0x50050018, 0x100000, 64, 0x0, 1⟩
def CRC_LAST.DESC : Fld := ⟨CRC_LAST, 31, 24⟩
def CRC_LAST.BLOCK : Fld := ⟨CRC_LAST, 23, 0⟩
def CRC_SEM : Reg := ⟨0x5005001C, 0x100000, 64, 0x0, 1⟩
def CRC_SEM.V : Fld := ⟨CRC_SEM, 31, 31⟩
def CRC_SEM.CLUSTER : Fld := ⟨CRC_SEM, 11, 10⟩
def CRC_SEM.INDEX : Fld := ⟨CRC_SEM, 9, 0⟩

/-! 06_numbers_and_scaling.md R167 -/
def SCL_LO : Reg := ⟨0x50080000, 0x100000, 64, 0x8, 4096⟩
def SCL_LO.SCALE : Fld := ⟨SCL_LO, 31, 0⟩
def SCL_HI : Reg := ⟨0x50080004, 0x100000, 64, 0x8, 4096⟩
def SCL_HI.SRC : Fld := ⟨SCL_HI, 31, 16⟩
def SCL_HI.RESC : Fld := ⟨SCL_HI, 10, 10⟩
def SCL_HI.SYM : Fld := ⟨SCL_HI, 9, 9⟩
def SCL_HI.CONST : Fld := ⟨SCL_HI, 8, 8⟩
def SCL_HI.ZP : Fld := ⟨SCL_HI, 7, 0⟩

/-! 10_uplink_receive.md R256 -/
def FHE_RX_CTL : Reg := ⟨0x40130000, 0x0, 1, 0x0, 1⟩
def FHE_RX_CTL.UDP_PORT : Fld := ⟨FHE_RX_CTL, 31, 16⟩
def FHE_RX_CTL.CLR_CNT : Fld := ⟨FHE_RX_CTL, 1, 1⟩
def FHE_RX_CTL.EN : Fld := ⟨FHE_RX_CTL, 0, 0⟩
def FHE_RX_DROP0 : Reg := ⟨0x40130010, 0x0, 1, 0x0, 1⟩
def FHE_RX_DROP0.UNKNOWN_EAXC : Fld := ⟨FHE_RX_DROP0, 31, 16⟩
def FHE_RX_DROP0.BAD_HDR : Fld := ⟨FHE_RX_DROP0, 15, 0⟩
def FHE_RX_DROP1 : Reg := ⟨0x40130014, 0x0, 1, 0x0, 1⟩
def FHE_RX_DROP1.CELL_OFF : Fld := ⟨FHE_RX_DROP1, 31, 16⟩
def FHE_RX_DROP1.BAD_SECTION : Fld := ⟨FHE_RX_DROP1, 15, 0⟩
def FHE_RX_DROP2 : Reg := ⟨0x40130018, 0x0, 1, 0x0, 1⟩
def FHE_RX_DROP2.BUF_FULL : Fld := ⟨FHE_RX_DROP2, 15, 0⟩
def FHE_CRX_CFG : Reg := ⟨0x40131000, 0x40, 96, 0x0, 1⟩
def FHE_CRX_CFG.EN : Fld := ⟨FHE_CRX_CFG, 31, 31⟩
def FHE_CRX_CFG.UDHDR : Fld := ⟨FHE_CRX_CFG, 30, 30⟩
def FHE_CRX_CFG.NBUF : Fld := ⟨FHE_CRX_CFG, 29, 28⟩
def FHE_CRX_CFG.IQW : Fld := ⟨FHE_CRX_CFG, 26, 22⟩
def FHE_CRX_CFG.METH : Fld := ⟨FHE_CRX_CFG, 21, 21⟩
def FHE_CRX_CFG.S : Fld := ⟨FHE_CRX_CFG, 20, 15⟩
def FHE_CRX_CFG.NPRB : Fld := ⟨FHE_CRX_CFG, 8, 0⟩
def FHE_CRX_WIN : Reg := ⟨0x40131004, 0x40, 96, 0x0, 1⟩
def FHE_CRX_WIN.TA4_MAX : Fld := ⟨FHE_CRX_WIN, 31, 16⟩
def FHE_CRX_WIN.TA4_MIN : Fld := ⟨FHE_CRX_WIN, 15, 0⟩
def FHE_CRX_GRID_LO : Reg := ⟨0x40131008, 0x40, 96, 0x0, 1⟩
def FHE_CRX_GRID_LO.ADDR : Fld := ⟨FHE_CRX_GRID_LO, 31, 12⟩
def FHE_CRX_GRID_HI : Reg := ⟨0x4013100C, 0x40, 96, 0x0, 1⟩
def FHE_CRX_GRID_HI.ADDR : Fld := ⟨FHE_CRX_GRID_HI, 15, 0⟩
def FHE_CRX_SEM : Reg := ⟨0x40131010, 0x40, 96, 0x0, 1⟩
def FHE_CRX_SEM.V : Fld := ⟨FHE_CRX_SEM, 31, 31⟩
def FHE_CRX_SEM.CLUSTER : Fld := ⟨FHE_CRX_SEM, 11, 10⟩
def FHE_CRX_SEM.FIRST : Fld := ⟨FHE_CRX_SEM, 9, 0⟩
def FHE_CRX_PTN : Reg := ⟨0x40131014, 0x40, 96, 0x0, 1⟩
def FHE_CRX_PTN.PTN : Fld := ⟨FHE_CRX_PTN, 3, 0⟩
def FHE_CRX_STAT : Reg := ⟨0x40131018, 0x40, 96, 0x0, 1⟩
def FHE_CRX_STAT.SFN : Fld := ⟨FHE_CRX_STAT, 31, 22⟩
def FHE_CRX_STAT.SLOT : Fld := ⟨FHE_CRX_STAT, 21, 15⟩
def FHE_CRX_STAT.SYMBOL : Fld := ⟨FHE_CRX_STAT, 14, 11⟩
def FHE_CRX_STAT.OVERRUN : Fld := ⟨FHE_CRX_STAT, 3, 3⟩
def FHE_CRX_STAT.WR_FAULT : Fld := ⟨FHE_CRX_STAT, 2, 2⟩
def FHE_CRX_STAT.ACTIVE : Fld := ⟨FHE_CRX_STAT, 0, 0⟩
def FHE_CRX_STRIDE : Reg := ⟨0x4013101C, 0x40, 96, 0x0, 1⟩
def FHE_CRX_STRIDE.STRIDE : Fld := ⟨FHE_CRX_STRIDE, 31, 0⟩
def FHE_CRX_CNT0 : Reg := ⟨0x40131020, 0x40, 96, 0x0, 1⟩
def FHE_CRX_CNT0.LATE : Fld := ⟨FHE_CRX_CNT0, 31, 16⟩
def FHE_CRX_CNT0.EARLY : Fld := ⟨FHE_CRX_CNT0, 15, 0⟩
def FHE_CRX_CNT1 : Reg := ⟨0x40131024, 0x40, 96, 0x0, 1⟩
def FHE_CRX_CNT1.DUP : Fld := ⟨FHE_CRX_CNT1, 31, 16⟩
def FHE_CRX_CNT1.SEQ_GAP : Fld := ⟨FHE_CRX_CNT1, 15, 0⟩
def FHE_CRX_CNT2 : Reg := ⟨0x40131028, 0x40, 96, 0x0, 1⟩
def FHE_CRX_CNT2.PRB_MISSING : Fld := ⟨FHE_CRX_CNT2, 31, 0⟩
def FHE_CRX_CNT3 : Reg := ⟨0x4013102C, 0x40, 96, 0x0, 1⟩
def FHE_CRX_CNT3.DECOMP_SAT : Fld := ⟨FHE_CRX_CNT3, 31, 0⟩
def FHE_EAXC_A : Reg := ⟨0x40134000, 0x8, 3072, 0x0, 1⟩
def FHE_EAXC_A.VALID : Fld := ⟨FHE_EAXC_A, 31, 31⟩
def FHE_EAXC_A.EAXC_ID : Fld := ⟨FHE_EAXC_A, 15, 0⟩
def FHE_EAXC_B : Reg := ⟨0x40134004, 0x8, 3072, 0x0, 1⟩
def FHE_EAXC_B.STREAM : Fld := ⟨FHE_EAXC_B, 12, 8⟩
def FHE_EAXC_B.CELL : Fld := ⟨FHE_EAXC_B, 6, 0⟩

/-! 13_downlink_transmit.md R323 -/
def FHE_TX_CTL : Reg := ⟨0x40130100, 0x0, 1, 0x0, 1⟩
def FHE_TX_CTL.MTU : Fld := ⟨FHE_TX_CTL, 31, 16⟩
def FHE_TX_CTL.CLR_CNT : Fld := ⟨FHE_TX_CTL, 1, 1⟩
def FHE_TX_CTL.EN : Fld := ⟨FHE_TX_CTL, 0, 0⟩

/-! 13_downlink_transmit.md R324 -/
def FHE_CTX_CFG : Reg := ⟨0x4013A000, 0x40, 96, 0x0, 1⟩
def FHE_CTX_CFG.EN : Fld := ⟨FHE_CTX_CFG, 31, 31⟩
def FHE_CTX_CFG.UDHDR : Fld := ⟨FHE_CTX_CFG, 30, 30⟩
def FHE_CTX_CFG.NBUF : Fld := ⟨FHE_CTX_CFG, 29, 28⟩
def FHE_CTX_CFG.IQW : Fld := ⟨FHE_CTX_CFG, 26, 22⟩
def FHE_CTX_CFG.METH : Fld := ⟨FHE_CTX_CFG, 21, 21⟩
def FHE_CTX_CFG.S : Fld := ⟨FHE_CTX_CFG, 20, 15⟩
def FHE_CTX_CFG.PORT : Fld := ⟨FHE_CTX_CFG, 12, 9⟩
def FHE_CTX_CFG.NPRB : Fld := ⟨FHE_CTX_CFG, 8, 0⟩
def FHE_CTX_UWIN : Reg := ⟨0x4013A004, 0x40, 96, 0x0, 1⟩
def FHE_CTX_UWIN.TUP_MAX : Fld := ⟨FHE_CTX_UWIN, 31, 16⟩
def FHE_CTX_UWIN.TUP_MIN : Fld := ⟨FHE_CTX_UWIN, 15, 0⟩
def FHE_CTX_CWIN : Reg := ⟨0x4013A008, 0x40, 96, 0x0, 1⟩
def FHE_CTX_CWIN.TCP_MAX : Fld := ⟨FHE_CTX_CWIN, 31, 16⟩
def FHE_CTX_CWIN.TCP_MIN : Fld := ⟨FHE_CTX_CWIN, 15, 0⟩
def FHE_CTX_GRID_LO : Reg := ⟨0x4013A00C, 0x40, 96, 0x0, 1⟩
def FHE_CTX_GRID_LO.ADDR : Fld := ⟨FHE_CTX_GRID_LO, 31, 12⟩
def FHE_CTX_GRID_HI : Reg := ⟨0x4013A010, 0x40, 96, 0x0, 1⟩
def FHE_CTX_GRID_HI.ADDR : Fld := ⟨FHE_CTX_GRID_HI, 15, 0⟩
def FHE_CTX_SEM : Reg := ⟨0x4013A014, 0x40, 96, 0x0, 1⟩
def FHE_CTX_SEM.V : Fld := ⟨FHE_CTX_SEM, 31, 31⟩
def FHE_CTX_SEM.CLUSTER : Fld := ⟨FHE_CTX_SEM, 11, 10⟩
def FHE_CTX_SEM.FIRST : Fld := ⟨FHE_CTX_SEM, 9, 0⟩
def FHE_CTX_PTN : Reg := ⟨0x4013A018, 0x40, 96, 0x0, 1⟩
def FHE_CTX_PTN.PTN : Fld := ⟨FHE_CTX_PTN, 3, 0⟩
def FHE_CTX_TMPL_LO : Reg := ⟨0x4013A01C, 0x40, 96, 0x0, 1⟩
def FHE_CTX_TMPL_LO.ADDR : Fld := ⟨FHE_CTX_TMPL_LO, 31, 6⟩
def FHE_CTX_TMPL_HI : Reg := ⟨0x4013A020, 0x40, 96, 0x0, 1⟩
def FHE_CTX_TMPL_HI.ADDR : Fld := ⟨FHE_CTX_TMPL_HI, 15, 0⟩
def FHE_CTX_TCFG : Reg := ⟨0x4013A024, 0x40, 96, 0x0, 1⟩
def FHE_CTX_TCFG.TYPE : Fld := ⟨FHE_CTX_TCFG, 9, 8⟩
def FHE_CTX_TCFG.TLEN : Fld := ⟨FHE_CTX_TCFG, 6, 0⟩
def FHE_CTX_EAXC : Reg := ⟨0x4013A028, 0x40, 96, 0x0, 1⟩
def FHE_CTX_EAXC.BASE : Fld := ⟨FHE_CTX_EAXC, 15, 0⟩
def FHE_CTX_STAT : Reg := ⟨0x4013A02C, 0x40, 96, 0x0, 1⟩
def FHE_CTX_STAT.SFN : Fld := ⟨FHE_CTX_STAT, 31, 22⟩
def FHE_CTX_STAT.SLOT : Fld := ⟨FHE_CTX_STAT, 21, 15⟩
def FHE_CTX_STAT.SYMBOL : Fld := ⟨FHE_CTX_STAT, 14, 11⟩
def FHE_CTX_STAT.OVERRUN : Fld := ⟨FHE_CTX_STAT, 1, 1⟩
def FHE_CTX_STAT.ACTIVE : Fld := ⟨FHE_CTX_STAT, 0, 0⟩
def FHE_CTX_STRIDE : Reg := ⟨0x4013A030, 0x40, 96, 0x0, 1⟩
def FHE_CTX_STRIDE.STRIDE : Fld := ⟨FHE_CTX_STRIDE, 31, 0⟩
def FHE_CTX_CNT0 : Reg := ⟨0x4013A034, 0x40, 96, 0x0, 1⟩
def FHE_CTX_CNT0.TX_MISS : Fld := ⟨FHE_CTX_CNT0, 31, 16⟩
def FHE_CTX_CNT0.CP_MISS : Fld := ⟨FHE_CTX_CNT0, 15, 0⟩
def FHE_CTX_CNT1 : Reg := ⟨0x4013A038, 0x40, 96, 0x0, 1⟩
def FHE_CTX_CNT1.LATE_START : Fld := ⟨FHE_CTX_CNT1, 31, 0⟩
def FHE_CTX_CNT2 : Reg := ⟨0x4013A03C, 0x40, 96, 0x0, 1⟩
def FHE_CTX_CNT2.COMP_FLUSH : Fld := ⟨FHE_CTX_CNT2, 31, 0⟩

/-! 11_prach_search.md R274 -/
def PRA_CTL : Reg := ⟨0x40120000, 0x0, 1, 0x0, 1⟩
def PRA_CTL.CLR_CNT : Fld := ⟨PRA_CTL, 1, 1⟩
def PRA_CTL.EN : Fld := ⟨PRA_CTL, 0, 0⟩
def PRA_DROP : Reg := ⟨0x40120008, 0x0, 1, 0x0, 1⟩
def PRA_DROP.NO_CFG : Fld := ⟨PRA_DROP, 31, 16⟩
def PRA_DROP.BAD_SECTION : Fld := ⟨PRA_DROP, 15, 0⟩
def PRA_LOAD : Reg := ⟨0x40120010, 0x4, 4, 0x0, 1⟩
def PRA_LOAD.RETIRED : Fld := ⟨PRA_LOAD, 31, 31⟩
def PRA_LOAD.LOAD : Fld := ⟨PRA_LOAD, 15, 0⟩
def PRA_CFG_CFG : Reg := ⟨0x40121000, 0x40, 64, 0x0, 1⟩
def PRA_CFG_CFG.EN : Fld := ⟨PRA_CFG_CFG, 31, 31⟩
def PRA_CFG_CFG.CELL : Fld := ⟨PRA_CFG_CFG, 30, 24⟩
def PRA_CFG_CFG.FILTER : Fld := ⟨PRA_CFG_CFG, 23, 20⟩
def PRA_CFG_CFG.FMT : Fld := ⟨PRA_CFG_CFG, 19, 16⟩
def PRA_CFG_CFG.NCS : Fld := ⟨PRA_CFG_CFG, 9, 0⟩
def PRA_CFG_PAT : Reg := ⟨0x40121004, 0x40, 64, 0x0, 1⟩
def PRA_CFG_PAT.PERIOD : Fld := ⟨PRA_CFG_PAT, 31, 29⟩
def PRA_CFG_PAT.Y : Fld := ⟨PRA_CFG_PAT, 28, 25⟩
def PRA_CFG_PAT.SECOND : Fld := ⟨PRA_CFG_PAT, 24, 24⟩
def PRA_CFG_PAT.START_SYM : Fld := ⟨PRA_CFG_PAT, 23, 20⟩
def PRA_CFG_PAT.N_TD : Fld := ⟨PRA_CFG_PAT, 19, 17⟩
def PRA_CFG_PAT.NBUF : Fld := ⟨PRA_CFG_PAT, 16, 15⟩
def PRA_CFG_PAT.MASK_HI : Fld := ⟨PRA_CFG_PAT, 7, 0⟩
def PRA_CFG_MASK : Reg := ⟨0x40121008, 0x40, 64, 0x0, 1⟩
def PRA_CFG_MASK.MASK : Fld := ⟨PRA_CFG_MASK, 31, 0⟩
def PRA_CFG_STRM : Reg := ⟨0x4012100C, 0x40, 64, 0x0, 1⟩
def PRA_CFG_STRM.STRM : Fld := ⟨PRA_CFG_STRM, 31, 0⟩
def PRA_CFG_ROOT : Reg := ⟨0x40121010, 0x40, 64, 0x0, 1⟩
def PRA_CFG_ROOT.ROOT0 : Fld := ⟨PRA_CFG_ROOT, 9, 0⟩
def PRA_CFG_GATE : Reg := ⟨0x40121014, 0x40, 64, 0x0, 1⟩
def PRA_CFG_GATE.GATE : Fld := ⟨PRA_CFG_GATE, 31, 16⟩
def PRA_CFG_GATE.MIN_LOG2 : Fld := ⟨PRA_CFG_GATE, 5, 0⟩
def PRA_CFG_CAND_LO : Reg := ⟨0x40121018, 0x40, 64, 0x0, 1⟩
def PRA_CFG_CAND_LO.ADDR : Fld := ⟨PRA_CFG_CAND_LO, 31, 13⟩
def PRA_CFG_CAND_HI : Reg := ⟨0x4012101C, 0x40, 64, 0x0, 1⟩
def PRA_CFG_CAND_HI.ADDR : Fld := ⟨PRA_CFG_CAND_HI, 15, 0⟩
def PRA_CFG_SEM : Reg := ⟨0x40121020, 0x40, 64, 0x0, 1⟩
def PRA_CFG_SEM.V : Fld := ⟨PRA_CFG_SEM, 31, 31⟩
def PRA_CFG_SEM.CLUSTER : Fld := ⟨PRA_CFG_SEM, 11, 10⟩
def PRA_CFG_SEM.INDEX : Fld := ⟨PRA_CFG_SEM, 9, 0⟩
def PRA_CFG_STAT : Reg := ⟨0x40121024, 0x40, 64, 0x0, 1⟩
def PRA_CFG_STAT.SFN : Fld := ⟨PRA_CFG_STAT, 31, 22⟩
def PRA_CFG_STAT.SLOT : Fld := ⟨PRA_CFG_STAT, 21, 15⟩
def PRA_CFG_STAT.TD : Fld := ⟨PRA_CFG_STAT, 14, 12⟩
def PRA_CFG_STAT.OVERRUN : Fld := ⟨PRA_CFG_STAT, 11, 11⟩
def PRA_CFG_STAT.WR_FAULT : Fld := ⟨PRA_CFG_STAT, 10, 10⟩
def PRA_CFG_STAT.NO_SEARCHER : Fld := ⟨PRA_CFG_STAT, 9, 9⟩
def PRA_CFG_STAT.SRCH : Fld := ⟨PRA_CFG_STAT, 7, 6⟩
def PRA_CFG_STAT.ERR : Fld := ⟨PRA_CFG_STAT, 5, 2⟩
def PRA_CFG_STAT.ACTIVE : Fld := ⟨PRA_CFG_STAT, 0, 0⟩
def PRA_CFG_CNT0 : Reg := ⟨0x40121028, 0x40, 64, 0x0, 1⟩
def PRA_CFG_CNT0.OCCASIONS : Fld := ⟨PRA_CFG_CNT0, 31, 16⟩
def PRA_CFG_CNT0.CAND_DROP : Fld := ⟨PRA_CFG_CNT0, 15, 0⟩
def PRA_CFG_CNT1 : Reg := ⟨0x4012102C, 0x40, 64, 0x0, 1⟩
def PRA_CFG_CNT1.LATE : Fld := ⟨PRA_CFG_CNT1, 31, 16⟩
def PRA_CFG_CNT1.EARLY : Fld := ⟨PRA_CFG_CNT1, 15, 0⟩

/-! 12_channel_coding.md R305 -/
def DEC_CTL : Reg := ⟨0x40100000, 0x0, 1, 0x0, 1⟩
def DEC_CTL.CLR_CNT : Fld := ⟨DEC_CTL, 1, 1⟩
def DEC_CTL.EN : Fld := ⟨DEC_CTL, 0, 0⟩
def DEC_STAT : Reg := ⟨0x40100004, 0x0, 1, 0x0, 1⟩
def DEC_STAT.POLAR_BUSY : Fld := ⟨DEC_STAT, 27, 24⟩
def DEC_STAT.POLAR_RET : Fld := ⟨DEC_STAT, 23, 20⟩
def DEC_STAT.LD_BUSY : Fld := ⟨DEC_STAT, 15, 0⟩
def DEC_SPARE : Reg := ⟨0x40100008, 0x0, 1, 0x0, 1⟩
def DEC_SPARE.SPARE_BAD : Fld := ⟨DEC_SPARE, 5, 4⟩
def DEC_SPARE.SPARE_USED : Fld := ⟨DEC_SPARE, 1, 0⟩
def DEC_CNT0 : Reg := ⟨0x40100010, 0x0, 1, 0x0, 1⟩
def DEC_CNT0.BLOCKS : Fld := ⟨DEC_CNT0, 31, 0⟩
def DEC_CNT1 : Reg := ⟨0x40100014, 0x0, 1, 0x0, 1⟩
def DEC_CNT1.FAILS : Fld := ⟨DEC_CNT1, 31, 0⟩
def DEC_CNT2 : Reg := ⟨0x40100018, 0x0, 1, 0x0, 1⟩
def DEC_CNT2.EARLY : Fld := ⟨DEC_CNT2, 31, 0⟩
def DEC_LMAP : Reg := ⟨0x40100100, 0x4, 16, 0x0, 1⟩
def DEC_LMAP.STATE : Fld := ⟨DEC_LMAP, 17, 16⟩
def DEC_LMAP.PHYS : Fld := ⟨DEC_LMAP, 4, 0⟩
def DEC_PSHARE : Reg := ⟨0x40100200, 0x4, 16, 0x0, 1⟩
def DEC_PSHARE.MAXSH : Fld := ⟨DEC_PSHARE, 20, 16⟩
def DEC_PSHARE.DED : Fld := ⟨DEC_PSHARE, 15, 0⟩

/-! 12_channel_coding.md R306 -/
def ENC_CTL : Reg := ⟨0x40110000, 0x0, 1, 0x0, 1⟩
def ENC_CTL.CLR_CNT : Fld := ⟨ENC_CTL, 1, 1⟩
def ENC_CTL.EN : Fld := ⟨ENC_CTL, 0, 0⟩
def ENC_STAT : Reg := ⟨0x40110004, 0x0, 1, 0x0, 1⟩
def ENC_STAT.RETIRED : Fld := ⟨ENC_STAT, 15, 8⟩
def ENC_STAT.BUSY : Fld := ⟨ENC_STAT, 7, 0⟩
def ENC_CNT : Reg := ⟨0x40110008, 0x0, 1, 0x0, 1⟩
def ENC_CNT.JOBS : Fld := ⟨ENC_CNT, 31, 0⟩

/-! 14_scheduler_tables.md R340 -/
def GTH_CTL : Reg := ⟨0x58100000, 0x1000000, 4, 0x0, 1⟩
def GTH_CTL.CLR_CNT : Fld := ⟨GTH_CTL, 1, 1⟩
def GTH_CTL.EN : Fld := ⟨GTH_CTL, 0, 0⟩
def GTH_STAT : Reg := ⟨0x58100004, 0x1000000, 4, 0x0, 1⟩
def GTH_STAT.ACTIVE : Fld := ⟨GTH_STAT, 18, 16⟩
def GTH_STAT.OUTST : Fld := ⟨GTH_STAT, 9, 0⟩
def GTH_MAXOUT : Reg := ⟨0x58100008, 0x1000000, 4, 0x0, 1⟩
def GTH_MAXOUT.N : Fld := ⟨GTH_MAXOUT, 9, 0⟩
def GTH_CNT0 : Reg := ⟨0x58100010, 0x1000000, 4, 0x0, 1⟩
def GTH_CNT0.ROWS : Fld := ⟨GTH_CNT0, 31, 0⟩
def GTH_CNT1 : Reg := ⟨0x58100014, 0x1000000, 4, 0x0, 1⟩
def GTH_CNT1.REMOTE : Fld := ⟨GTH_CNT1, 31, 0⟩
def GTH_CNT2 : Reg := ⟨0x58100018, 0x1000000, 4, 0x0, 1⟩
def GTH_CNT2.BAGS : Fld := ⟨GTH_CNT2, 31, 0⟩
def GTH_HASH1_LO : Reg := ⟨0x58100020, 0x1000000, 4, 0x0, 1⟩
def GTH_HASH1_LO.M_LO : Fld := ⟨GTH_HASH1_LO, 31, 0⟩
def GTH_HASH1_HI : Reg := ⟨0x58100024, 0x1000000, 4, 0x0, 1⟩
def GTH_HASH1_HI.M_HI : Fld := ⟨GTH_HASH1_HI, 31, 0⟩
def GTH_HASH2_LO : Reg := ⟨0x58100028, 0x1000000, 4, 0x0, 1⟩
def GTH_HASH2_LO.M_LO : Fld := ⟨GTH_HASH2_LO, 31, 0⟩
def GTH_HASH2_HI : Reg := ⟨0x5810002C, 0x1000000, 4, 0x0, 1⟩
def GTH_HASH2_HI.M_HI : Fld := ⟨GTH_HASH2_HI, 31, 0⟩
def GTH_HASH3_LO : Reg := ⟨0x58100030, 0x1000000, 4, 0x0, 1⟩
def GTH_HASH3_LO.M_LO : Fld := ⟨GTH_HASH3_LO, 31, 0⟩
def GTH_HASH3_HI : Reg := ⟨0x58100034, 0x1000000, 4, 0x0, 1⟩
def GTH_HASH3_HI.M_HI : Fld := ⟨GTH_HASH3_HI, 31, 0⟩

/-! 15_partitions_preemption.md R371 -/
def PTN_CTL : Reg := ⟨0x40060000, 0x0, 1, 0x0, 1⟩
def PTN_CTL.TIME_OWNER : Fld := ⟨PTN_CTL, 7, 4⟩
def PTN_CTL.MGR : Fld := ⟨PTN_CTL, 3, 0⟩
def PTN_STAT : Reg := ⟨0x40060004, 0x0, 1, 0x0, 1⟩
def PTN_STAT.EN : Fld := ⟨PTN_STAT, 15, 0⟩
def PTN_CFG : Reg := ⟨0x40061000, 0x100, 16, 0x0, 1⟩
def PTN_CFG.EN : Fld := ⟨PTN_CFG, 31, 31⟩
def PTN_CFG.ERR : Fld := ⟨PTN_CFG, 30, 28⟩
def PTN_CFG.DEPTH : Fld := ⟨PTN_CFG, 23, 20⟩
def PTN_CFG.MIGR : Fld := ⟨PTN_CFG, 15, 0⟩
def PTN_QUANT : Reg := ⟨0x40061004, 0x100, 16, 0x0, 1⟩
def PTN_QUANT.INHERIT : Fld := ⟨PTN_QUANT, 24, 16⟩
def PTN_QUANT.QUANTUM : Fld := ⟨PTN_QUANT, 8, 0⟩
def PTN_TILE_LO : Reg := ⟨0x40061008, 0x100, 16, 0x0, 1⟩
def PTN_TILE_LO.TILES : Fld := ⟨PTN_TILE_LO, 31, 0⟩
def PTN_TILE_HI : Reg := ⟨0x4006100C, 0x100, 16, 0x0, 1⟩
def PTN_TILE_HI.TILES : Fld := ⟨PTN_TILE_HI, 31, 0⟩
def PTN_PCH : Reg := ⟨0x40061010, 0x100, 16, 0x4, 4⟩
def PTN_PCH.PCH : Fld := ⟨PTN_PCH, 31, 0⟩
def PTN_WAYS : Reg := ⟨0x40061020, 0x100, 16, 0x0, 1⟩
def PTN_WAYS.WAYS : Fld := ⟨PTN_WAYS, 15, 0⟩
def PTN_SEM : Reg := ⟨0x40061024, 0x100, 16, 0x4, 4⟩
def PTN_SEM.V : Fld := ⟨PTN_SEM, 31, 31⟩
def PTN_SEM.MUTEX_N : Fld := ⟨PTN_SEM, 30, 20⟩
def PTN_SEM.LAST : Fld := ⟨PTN_SEM, 19, 10⟩
def PTN_SEM.FIRST : Fld := ⟨PTN_SEM, 9, 0⟩
def PTN_TRG : Reg := ⟨0x40061034, 0x100, 16, 0x0, 1⟩
def PTN_TRG.V : Fld := ⟨PTN_TRG, 31, 31⟩
def PTN_TRG.LAST : Fld := ⟨PTN_TRG, 23, 12⟩
def PTN_TRG.FIRST : Fld := ⟨PTN_TRG, 11, 0⟩
def PTN_TMEM0 : Reg := ⟨0x40061038, 0x100, 16, 0x0, 1⟩
def PTN_TMEM0.YCNT : Fld := ⟨PTN_TMEM0, 31, 24⟩
def PTN_TMEM0.YBASE : Fld := ⟨PTN_TMEM0, 23, 16⟩
def PTN_TMEM0.XCNT : Fld := ⟨PTN_TMEM0, 15, 8⟩
def PTN_TMEM0.XBASE : Fld := ⟨PTN_TMEM0, 7, 0⟩
def PTN_TMEM1 : Reg := ⟨0x4006103C, 0x100, 16, 0x0, 1⟩
def PTN_TMEM1.FCNT : Fld := ⟨PTN_TMEM1, 13, 8⟩
def PTN_TMEM1.FBASE : Fld := ⟨PTN_TMEM1, 5, 0⟩
def PTN_CAIRN_LO : Reg := ⟨0x40061040, 0x100, 16, 0x0, 1⟩
def PTN_CAIRN_LO.ADDR : Fld := ⟨PTN_CAIRN_LO, 31, 16⟩
def PTN_CAIRN_HI : Reg := ⟨0x40061044, 0x100, 16, 0x0, 1⟩
def PTN_CAIRN_HI.ADDR : Fld := ⟨PTN_CAIRN_HI, 15, 0⟩
def PTN_SLOT : Reg := ⟨0x40061048, 0x100, 16, 0x0, 1⟩
def PTN_SLOT.SLOT : Fld := ⟨PTN_SLOT, 31, 0⟩
def PTN_PSTAT : Reg := ⟨0x4006104C, 0x100, 16, 0x0, 1⟩
def PTN_PSTAT.CAIRNS : Fld := ⟨PTN_PSTAT, 31, 16⟩
def PTN_PSTAT.CAIRN_FAULT : Fld := ⟨PTN_PSTAT, 0, 0⟩
def PTN_CNT0 : Reg := ⟨0x40061050, 0x100, 16, 0x0, 1⟩
def PTN_CNT0.PREEMPTS : Fld := ⟨PTN_CNT0, 31, 0⟩
def PTN_CNT1 : Reg := ⟨0x40061054, 0x100, 16, 0x0, 1⟩
def PTN_CNT1.INHERITS : Fld := ⟨PTN_CNT1, 31, 16⟩
def PTN_CNT1.INHERIT_TO : Fld := ⟨PTN_CNT1, 15, 0⟩
def PTN_INH_NS : Reg := ⟨0x40061058, 0x100, 16, 0x0, 1⟩
def PTN_INH_NS.NS : Fld := ⟨PTN_INH_NS, 31, 0⟩
def PTN_MAXSAVE : Reg := ⟨0x4006105C, 0x100, 16, 0x0, 1⟩
def PTN_MAXSAVE.NS : Fld := ⟨PTN_MAXSAVE, 31, 0⟩
def PTN_PCTL : Reg := ⟨0x40061060, 0x100, 16, 0x0, 1⟩
def PTN_PCTL.CLR_CNT : Fld := ⟨PTN_PCTL, 0, 0⟩

/-! 15_partitions_preemption.md R372 -/
def CLU_CTL : Reg := ⟨0x58000000, 0x1000000, 4, 0x0, 1⟩
def CLU_CTL.CLR_CNT : Fld := ⟨CLU_CTL, 2, 2⟩
def CLU_CTL.XSTEAL_EN : Fld := ⟨CLU_CTL, 1, 1⟩
def CLU_CTL.STEAL_EN : Fld := ⟨CLU_CTL, 0, 0⟩
def CLU_STEAL_WM : Reg := ⟨0x58000004, 0x1000000, 4, 0x0, 1⟩
def CLU_STEAL_WM.WM : Fld := ⟨CLU_STEAL_WM, 6, 0⟩
def CLU_STEALCNT : Reg := ⟨0x58000010, 0x1000000, 4, 0x0, 1⟩
def CLU_STEALCNT.XSTEALS : Fld := ⟨CLU_STEALCNT, 31, 16⟩
def CLU_STEALCNT.STEALS : Fld := ⟨CLU_STEALCNT, 15, 0⟩
def CLU_BIV : Reg := ⟨0x58000014, 0x1000000, 4, 0x0, 1⟩
def CLU_BIV.RESV : Fld := ⟨CLU_BIV, 27, 16⟩
def CLU_BIV.PARKED : Fld := ⟨CLU_BIV, 12, 0⟩
def CLU_BIVCNT : Reg := ⟨0x58000018, 0x1000000, 4, 0x0, 1⟩
def CLU_BIVCNT.DROPPED : Fld := ⟨CLU_BIVCNT, 31, 0⟩
def CLU_QDEPTH : Reg := ⟨0x58000100, 0x1000000, 4, 0x4, 16⟩
def CLU_QDEPTH.SAVED : Fld := ⟨CLU_QDEPTH, 19, 16⟩
def CLU_QDEPTH.WAITING : Fld := ⟨CLU_QDEPTH, 6, 0⟩
def CLU_SEM : Reg := ⟨0x58001000, 0x1000000, 4, 0x4, 1024⟩
def CLU_SEM.JOB_HOLDER : Fld := ⟨CLU_SEM, 24, 24⟩
def CLU_SEM.HOLDER : Fld := ⟨CLU_SEM, 23, 18⟩
def CLU_SEM.HELD : Fld := ⟨CLU_SEM, 17, 17⟩
def CLU_SEM.MUTEX : Fld := ⟨CLU_SEM, 16, 16⟩
def CLU_SEM.VALUE : Fld := ⟨CLU_SEM, 15, 0⟩

/-! 16_memory_system.md R391 -/
def HBM_CTL : Reg := ⟨0x40080000, 0x10000, 4, 0x0, 1⟩
def HBM_CTL.CLR_CNT : Fld := ⟨HBM_CTL, 1, 1⟩
def HBM_CTL.EN : Fld := ⟨HBM_CTL, 0, 0⟩
def HBM_STAT : Reg := ⟨0x40080004, 0x10000, 4, 0x0, 1⟩
def HBM_STAT.TEMP : Fld := ⟨HBM_STAT, 31, 24⟩
def HBM_STAT.RATE : Fld := ⟨HBM_STAT, 19, 18⟩
def HBM_STAT.SELF_REFRESH : Fld := ⟨HBM_STAT, 17, 17⟩
def HBM_STAT.TRAINED : Fld := ⟨HBM_STAT, 16, 16⟩
def HBM_STAT.TRAIN_FAIL : Fld := ⟨HBM_STAT, 15, 15⟩
def HBM_CNT0 : Reg := ⟨0x40080010, 0x10000, 4, 0x0, 1⟩
def HBM_CNT0.CORRECTED : Fld := ⟨HBM_CNT0, 31, 0⟩
def HBM_CNT1 : Reg := ⟨0x40080014, 0x10000, 4, 0x0, 1⟩
def HBM_CNT1.PERSIST : Fld := ⟨HBM_CNT1, 31, 16⟩
def HBM_CNT1.REPLAYED : Fld := ⟨HBM_CNT1, 15, 0⟩
def HBM_CNT2 : Reg := ⟨0x40080018, 0x10000, 4, 0x0, 1⟩
def HBM_CNT2.REVOKES : Fld := ⟨HBM_CNT2, 31, 0⟩
def HBM_CNT3 : Reg := ⟨0x4008001C, 0x10000, 4, 0x0, 1⟩
def HBM_CNT3.HOLDCUT : Fld := ⟨HBM_CNT3, 31, 0⟩
def HBM_PCH : Reg := ⟨0x40080100, 0x10000, 4, 0x4, 32⟩
def HBM_PCH.STATE : Fld := ⟨HBM_PCH, 31, 30⟩
def HBM_PCH.OWNED : Fld := ⟨HBM_PCH, 20, 20⟩
def HBM_PCH.PTN : Fld := ⟨HBM_PCH, 19, 16⟩
def HBM_PCH.BUCKET : Fld := ⟨HBM_PCH, 15, 8⟩

/-! 16_memory_system.md R392 -/
def MMU_ROOT_LO : Reg := ⟨0x40071000, 0x40, 16, 0x0, 1⟩
def MMU_ROOT_LO.ADDR : Fld := ⟨MMU_ROOT_LO, 31, 12⟩
def MMU_ROOT_HI : Reg := ⟨0x40071004, 0x40, 16, 0x0, 1⟩
def MMU_ROOT_HI.ADDR : Fld := ⟨MMU_ROOT_HI, 7, 0⟩
def MMU_FR_LO : Reg := ⟨0x40071008, 0x40, 16, 0x0, 1⟩
def MMU_FR_LO.ADDR : Fld := ⟨MMU_FR_LO, 31, 12⟩
def MMU_FR_HI : Reg := ⟨0x4007100C, 0x40, 16, 0x0, 1⟩
def MMU_FR_HI.ADDR : Fld := ⟨MMU_FR_HI, 7, 0⟩
def MMU_FR_CFG : Reg := ⟨0x40071010, 0x40, 16, 0x0, 1⟩
def MMU_FR_CFG.EN : Fld := ⟨MMU_FR_CFG, 31, 31⟩
def MMU_FR_CFG.LOG2SIZE : Fld := ⟨MMU_FR_CFG, 4, 0⟩
def MMU_FR_HEAD : Reg := ⟨0x40071014, 0x40, 16, 0x0, 1⟩
def MMU_FR_HEAD.HEAD : Fld := ⟨MMU_FR_HEAD, 31, 0⟩
def MMU_FR_TAIL : Reg := ⟨0x40071018, 0x40, 16, 0x0, 1⟩
def MMU_FR_TAIL.TAIL : Fld := ⟨MMU_FR_TAIL, 31, 0⟩
def MMU_RESOLVE : Reg := ⟨0x4007101C, 0x40, 16, 0x0, 1⟩
def MMU_RESOLVE.FAIL : Fld := ⟨MMU_RESOLVE, 31, 31⟩
def MMU_RESOLVE.SEQ : Fld := ⟨MMU_RESOLVE, 15, 0⟩
def MMU_INV : Reg := ⟨0x40071020, 0x40, 16, 0x0, 1⟩
def MMU_INV.SCOPE : Fld := ⟨MMU_INV, 1, 0⟩
def MMU_INV_VA_LO : Reg := ⟨0x40071024, 0x40, 16, 0x0, 1⟩
def MMU_INV_VA_LO.VA : Fld := ⟨MMU_INV_VA_LO, 31, 12⟩
def MMU_INV_VA_HI : Reg := ⟨0x40071028, 0x40, 16, 0x0, 1⟩
def MMU_INV_VA_HI.VA : Fld := ⟨MMU_INV_VA_HI, 15, 0⟩
def MMU_STAT : Reg := ⟨0x4007102C, 0x40, 16, 0x0, 1⟩
def MMU_STAT.INV_BUSY : Fld := ⟨MMU_STAT, 31, 31⟩
def MMU_STAT.FR_FULL : Fld := ⟨MMU_STAT, 30, 30⟩
def MMU_STAT.ERR : Fld := ⟨MMU_STAT, 29, 28⟩
def MMU_STAT.OUTST : Fld := ⟨MMU_STAT, 24, 16⟩
def MMU_STAT.LOST : Fld := ⟨MMU_STAT, 15, 0⟩

/-! 16_memory_system.md R393 -/
def SYC_MAINT : Reg := ⟨0x400C0000, 0x0, 1, 0x0, 1⟩
def SYC_MAINT.BUSY : Fld := ⟨SYC_MAINT, 31, 31⟩
def SYC_MAINT.PTN : Fld := ⟨SYC_MAINT, 19, 16⟩
def SYC_MAINT.OP : Fld := ⟨SYC_MAINT, 1, 0⟩
def SYC_STAT : Reg := ⟨0x400C0004, 0x0, 1, 0x0, 1⟩
def SYC_STAT.LOST : Fld := ⟨SYC_STAT, 31, 16⟩
def SYC_STAT.CORRECTED : Fld := ⟨SYC_STAT, 15, 0⟩
def SYC_ERRADDR_LO : Reg := ⟨0x400C0008, 0x0, 1, 0x0, 1⟩
def SYC_ERRADDR_LO.ADDR : Fld := ⟨SYC_ERRADDR_LO, 31, 6⟩
def SYC_ERRADDR_HI : Reg := ⟨0x400C000C, 0x0, 1, 0x0, 1⟩
def SYC_ERRADDR_HI.ADDR : Fld := ⟨SYC_ERRADDR_HI, 7, 0⟩

/-! 17_yalelle_links.md R411 -/
def YAL_CTL : Reg := ⟨0x40140000, 0x0, 1, 0x0, 1⟩
def YAL_CTL.HOP_MAX : Fld := ⟨YAL_CTL, 11, 8⟩
def YAL_CTL.CLR_CNT : Fld := ⟨YAL_CTL, 1, 1⟩
def YAL_CTL.EN : Fld := ⟨YAL_CTL, 0, 0⟩
def YAL_TMO : Reg := ⟨0x40140004, 0x0, 1, 0x0, 1⟩
def YAL_TMO.TMO : Fld := ⟨YAL_TMO, 15, 0⟩
def YAL_GEXP : Reg := ⟨0x40140008, 0x0, 1, 0x0, 1⟩
def YAL_GEXP.GEXP : Fld := ⟨YAL_GEXP, 15, 0⟩
def YAL_IEXP : Reg := ⟨0x40140010, 0x4, 4, 0x0, 1⟩
def YAL_IEXP.PCH : Fld := ⟨YAL_IEXP, 31, 0⟩
def YAL_IEXP4 : Reg := ⟨0x40140020, 0x0, 1, 0x0, 1⟩
def YAL_IEXP4.MSG : Fld := ⟨YAL_IEXP4, 2, 2⟩
def YAL_IEXP4.CLUSTER : Fld := ⟨YAL_IEXP4, 1, 1⟩
def YAL_IEXP4.TILE : Fld := ⟨YAL_IEXP4, 0, 0⟩
def YAL_LINK_CTL : Reg := ⟨0x40140100, 0x40, 8, 0x0, 1⟩
def YAL_LINK_CTL.LANE_DIS : Fld := ⟨YAL_LINK_CTL, 7, 4⟩
def YAL_LINK_CTL.RETRAIN : Fld := ⟨YAL_LINK_CTL, 1, 1⟩
def YAL_LINK_CTL.EN : Fld := ⟨YAL_LINK_CTL, 0, 0⟩
def YAL_LINK_STAT : Reg := ⟨0x40140104, 0x40, 8, 0x0, 1⟩
def YAL_LINK_STAT.PEER_ID_SET : Fld := ⟨YAL_LINK_STAT, 31, 31⟩
def YAL_LINK_STAT.PEER_LINK : Fld := ⟨YAL_LINK_STAT, 30, 28⟩
def YAL_LINK_STAT.PEER_POS : Fld := ⟨YAL_LINK_STAT, 27, 25⟩
def YAL_LINK_STAT.PEER_CHIP : Fld := ⟨YAL_LINK_STAT, 24, 13⟩
def YAL_LINK_STAT.LANES : Fld := ⟨YAL_LINK_STAT, 7, 4⟩
def YAL_LINK_STAT.STATE : Fld := ⟨YAL_LINK_STAT, 2, 0⟩
def YAL_LINK_CRED0 : Reg := ⟨0x40140108, 0x40, 8, 0x0, 1⟩
def YAL_LINK_CRED0.VC4 : Fld := ⟨YAL_LINK_CRED0, 31, 24⟩
def YAL_LINK_CRED0.VC3 : Fld := ⟨YAL_LINK_CRED0, 23, 16⟩
def YAL_LINK_CRED0.VC2 : Fld := ⟨YAL_LINK_CRED0, 15, 8⟩
def YAL_LINK_CRED0.VC1 : Fld := ⟨YAL_LINK_CRED0, 7, 0⟩
def YAL_LINK_CRED1 : Reg := ⟨0x4014010C, 0x40, 8, 0x0, 1⟩
def YAL_LINK_CRED1.VC7 : Fld := ⟨YAL_LINK_CRED1, 23, 16⟩
def YAL_LINK_CRED1.VC6 : Fld := ⟨YAL_LINK_CRED1, 15, 8⟩
def YAL_LINK_CRED1.VC5 : Fld := ⟨YAL_LINK_CRED1, 7, 0⟩
def YAL_LINK_CNT0 : Reg := ⟨0x40140110, 0x40, 8, 0x0, 1⟩
def YAL_LINK_CNT0.REPLAYS : Fld := ⟨YAL_LINK_CNT0, 31, 16⟩
def YAL_LINK_CNT0.RETRAINS : Fld := ⟨YAL_LINK_CNT0, 15, 0⟩
def YAL_LINK_CNT1 : Reg := ⟨0x40140114, 0x40, 8, 0x0, 1⟩
def YAL_LINK_CNT1.FEC_UNCORR : Fld := ⟨YAL_LINK_CNT1, 31, 0⟩
def YAL_MQ_LO : Reg := ⟨0x40140400, 0x20, 16, 0x0, 1⟩
def YAL_MQ_LO.ADDR : Fld := ⟨YAL_MQ_LO, 31, 12⟩
def YAL_MQ_HI : Reg := ⟨0x40140404, 0x20, 16, 0x0, 1⟩
def YAL_MQ_HI.ADDR : Fld := ⟨YAL_MQ_HI, 15, 0⟩
def YAL_MQ_CFG : Reg := ⟨0x40140408, 0x20, 16, 0x0, 1⟩
def YAL_MQ_CFG.EN : Fld := ⟨YAL_MQ_CFG, 31, 31⟩
def YAL_MQ_CFG.IRQ_EN : Fld := ⟨YAL_MQ_CFG, 30, 30⟩
def YAL_MQ_CFG.LOG2SIZE : Fld := ⟨YAL_MQ_CFG, 4, 0⟩
def YAL_MQ_HEAD : Reg := ⟨0x4014040C, 0x20, 16, 0x0, 1⟩
def YAL_MQ_HEAD.HEAD : Fld := ⟨YAL_MQ_HEAD, 31, 0⟩
def YAL_MQ_TAIL : Reg := ⟨0x40140410, 0x20, 16, 0x0, 1⟩
def YAL_MQ_TAIL.TAIL : Fld := ⟨YAL_MQ_TAIL, 31, 0⟩
def YAL_MQ_MSI : Reg := ⟨0x40140414, 0x20, 16, 0x0, 1⟩
def YAL_MQ_MSI.MSI : Fld := ⟨YAL_MQ_MSI, 31, 0⟩
def YAL_MQ_STAT : Reg := ⟨0x40140418, 0x20, 16, 0x0, 1⟩
def YAL_MQ_STAT.LOST : Fld := ⟨YAL_MQ_STAT, 31, 16⟩
def YAL_MQ_STAT.WRITE_FAULT : Fld := ⟨YAL_MQ_STAT, 0, 0⟩
def YAL_RTE_A : Reg := ⟨0x40148000, 0x8, 4096, 0x0, 1⟩
def YAL_RTE_A.V : Fld := ⟨YAL_RTE_A, 31, 31⟩
def YAL_RTE_A.HOPS : Fld := ⟨YAL_RTE_A, 30, 27⟩
def YAL_RTE_A.PATH : Fld := ⟨YAL_RTE_A, 23, 0⟩
def YAL_RTE_B : Reg := ⟨0x40148004, 0x8, 4096, 0x0, 1⟩
def YAL_RTE_B.V : Fld := ⟨YAL_RTE_B, 31, 31⟩
def YAL_RTE_B.HOPS : Fld := ⟨YAL_RTE_B, 30, 27⟩
def YAL_RTE_B.PATH : Fld := ⟨YAL_RTE_B, 23, 0⟩

/-! 18_repeatability.md R424 -/
def DGT_CTL : Reg := ⟨0x40190000, 0x0, 1, 0x0, 1⟩
def DGT_CTL.CLR_CNT : Fld := ⟨DGT_CTL, 0, 0⟩
def DGT_STAT : Reg := ⟨0x40190004, 0x0, 1, 0x0, 1⟩
def DGT_STAT.HELD : Fld := ⟨DGT_STAT, 12, 0⟩
def DGT_ORPHAN : Reg := ⟨0x40190008, 0x0, 1, 0x0, 1⟩
def DGT_ORPHAN.COUNT : Fld := ⟨DGT_ORPHAN, 31, 0⟩
def DGT_SCR_LO : Reg := ⟨0x40191000, 0x40, 16, 0x0, 1⟩
def DGT_SCR_LO.ADDR : Fld := ⟨DGT_SCR_LO, 31, 12⟩
def DGT_SCR_HI : Reg := ⟨0x40191004, 0x40, 16, 0x0, 1⟩
def DGT_SCR_HI.ADDR : Fld := ⟨DGT_SCR_HI, 7, 0⟩
def DGT_SCR_CFG : Reg := ⟨0x40191008, 0x40, 16, 0x0, 1⟩
def DGT_SCR_CFG.EN : Fld := ⟨DGT_SCR_CFG, 31, 31⟩
def DGT_SCR_CFG.LOG2SIZE : Fld := ⟨DGT_SCR_CFG, 4, 0⟩
def DGT_SCR_USED : Reg := ⟨0x4019100C, 0x40, 16, 0x0, 1⟩
def DGT_SCR_USED.BYTES : Fld := ⟨DGT_SCR_USED, 31, 0⟩
def DGT_ROPE : Reg := ⟨0x40191010, 0x40, 16, 0x0, 1⟩
def DGT_ROPE.V : Fld := ⟨DGT_ROPE, 31, 31⟩
def DGT_ROPE.PEER_PTN : Fld := ⟨DGT_ROPE, 19, 16⟩
def DGT_ROPE.PEER_CHIP : Fld := ⟨DGT_ROPE, 11, 0⟩
def DGT_ROPE_TMO : Reg := ⟨0x40191014, 0x40, 16, 0x0, 1⟩
def DGT_ROPE_TMO.TMO : Fld := ⟨DGT_ROPE_TMO, 15, 0⟩
def DGT_DCNT : Reg := ⟨0x40191018, 0x40, 16, 0x0, 1⟩
def DGT_DCNT.CONFLICTS : Fld := ⟨DGT_DCNT, 31, 16⟩
def DGT_DIGESTS : Reg := ⟨0x4019101C, 0x40, 16, 0x0, 1⟩
def DGT_DIGESTS.COUNT : Fld := ⟨DGT_DIGESTS, 31, 0⟩
def DGT_CHUNKS : Reg := ⟨0x40191020, 0x40, 16, 0x0, 1⟩
def DGT_CHUNKS.COUNT : Fld := ⟨DGT_CHUNKS, 31, 0⟩
def DGT_RCNT : Reg := ⟨0x40191024, 0x40, 16, 0x0, 1⟩
def DGT_RCNT.MISMATCHES : Fld := ⟨DGT_RCNT, 31, 16⟩
def DGT_RCNT.TIMEOUTS : Fld := ⟨DGT_RCNT, 15, 0⟩

/-! 19_faults_and_black_box.md R443 -/
def BBX_CTL : Reg := ⟨0x401A0000, 0x0, 1, 0x0, 1⟩
def BBX_CTL.SWITCH : Fld := ⟨BBX_CTL, 2, 2⟩
def BBX_CTL.CLR_CNT : Fld := ⟨BBX_CTL, 1, 1⟩
def BBX_CTL.EN : Fld := ⟨BBX_CTL, 0, 0⟩
def BBX_STAT : Reg := ⟨0x401A0004, 0x0, 1, 0x0, 1⟩
def BBX_STAT.STATE : Fld := ⟨BBX_STAT, 31, 30⟩
def BBX_STAT.CUR : Fld := ⟨BBX_STAT, 29, 29⟩
def BBX_STAT.STAGE_LOST : Fld := ⟨BBX_STAT, 28, 28⟩
def BBX_STAT.RET_ERR : Fld := ⟨BBX_STAT, 27, 27⟩
def BBX_STAT.STAGED : Fld := ⟨BBX_STAT, 17, 12⟩
def BBX_STAT.LOGEND : Fld := ⟨BBX_STAT, 11, 0⟩
def BBX_SEQ_LO : Reg := ⟨0x401A0008, 0x0, 1, 0x0, 1⟩
def BBX_SEQ_LO.SEQ : Fld := ⟨BBX_SEQ_LO, 31, 0⟩
def BBX_SEQ_HI : Reg := ⟨0x401A000C, 0x0, 1, 0x0, 1⟩
def BBX_SEQ_HI.SEQ : Fld := ⟨BBX_SEQ_HI, 31, 0⟩
def BBX_RSEQ : Reg := ⟨0x401A0010, 0x0, 1, 0x0, 1⟩
def BBX_RSEQ.RSEQ : Fld := ⟨BBX_RSEQ, 31, 0⟩
def BBX_CNT : Reg := ⟨0x401A0014, 0x0, 1, 0x0, 1⟩
def BBX_CNT.DROPPED : Fld := ⟨BBX_CNT, 31, 16⟩
def BBX_CNT.TORN : Fld := ⟨BBX_CNT, 15, 0⟩
def BBX_MASK : Reg := ⟨0x401A0018, 0x0, 1, 0x0, 1⟩
def BBX_MASK.MASK : Fld := ⟨BBX_MASK, 15, 0⟩
def BBX_BANK0 : Reg := ⟨0x401A0020, 0x0, 1, 0x0, 1⟩
def BBX_BANK0.OFFSET : Fld := ⟨BBX_BANK0, 31, 0⟩
def BBX_BANK1 : Reg := ⟨0x401A0024, 0x0, 1, 0x0, 1⟩
def BBX_BANK1.OFFSET : Fld := ⟨BBX_BANK1, 31, 0⟩
def BBX_BKT0 : Reg := ⟨0x401A0040, 0x0, 1, 0x0, 1⟩
def BBX_BKT0.LEAK : Fld := ⟨BBX_BKT0, 31, 16⟩
def BBX_BKT0.WT_B : Fld := ⟨BBX_BKT0, 15, 8⟩
def BBX_BKT0.WT_A : Fld := ⟨BBX_BKT0, 7, 0⟩
def BBX_BKT1 : Reg := ⟨0x401A0044, 0x0, 1, 0x0, 1⟩
def BBX_BKT1.LEAK : Fld := ⟨BBX_BKT1, 31, 16⟩
def BBX_BKT1.WT_B : Fld := ⟨BBX_BKT1, 15, 8⟩
def BBX_BKT1.WT_A : Fld := ⟨BBX_BKT1, 7, 0⟩
def BBX_BKT2 : Reg := ⟨0x401A0048, 0x0, 1, 0x0, 1⟩
def BBX_BKT2.LEAK : Fld := ⟨BBX_BKT2, 31, 16⟩
def BBX_BKT2.WT_B : Fld := ⟨BBX_BKT2, 15, 8⟩
def BBX_BKT2.WT_A : Fld := ⟨BBX_BKT2, 7, 0⟩
def BBX_BKT3 : Reg := ⟨0x401A004C, 0x0, 1, 0x0, 1⟩
def BBX_BKT3.LEAK : Fld := ⟨BBX_BKT3, 31, 16⟩
def BBX_BKT3.WT_B : Fld := ⟨BBX_BKT3, 15, 8⟩
def BBX_BKT3.WT_A : Fld := ⟨BBX_BKT3, 7, 0⟩
def BBX_BKT4 : Reg := ⟨0x401A0050, 0x0, 1, 0x0, 1⟩
def BBX_BKT4.LEAK : Fld := ⟨BBX_BKT4, 31, 16⟩
def BBX_BKT4.WT_B : Fld := ⟨BBX_BKT4, 15, 8⟩
def BBX_BKT4.WT_A : Fld := ⟨BBX_BKT4, 7, 0⟩
def BBX_BKT5 : Reg := ⟨0x401A0054, 0x0, 1, 0x0, 1⟩
def BBX_BKT5.LEAK : Fld := ⟨BBX_BKT5, 31, 16⟩
def BBX_BKT5.WT_B : Fld := ⟨BBX_BKT5, 15, 8⟩
def BBX_BKT5.WT_A : Fld := ⟨BBX_BKT5, 7, 0⟩
def BBX_BKT6 : Reg := ⟨0x401A0058, 0x0, 1, 0x0, 1⟩
def BBX_BKT6.LEAK : Fld := ⟨BBX_BKT6, 31, 16⟩
def BBX_BKT6.WT_B : Fld := ⟨BBX_BKT6, 15, 8⟩
def BBX_BKT6.WT_A : Fld := ⟨BBX_BKT6, 7, 0⟩
def BBX_BKT7 : Reg := ⟨0x401A005C, 0x0, 1, 0x0, 1⟩
def BBX_BKT7.LEAK : Fld := ⟨BBX_BKT7, 31, 16⟩
def BBX_BKT7.WT_B : Fld := ⟨BBX_BKT7, 15, 8⟩
def BBX_BKT7.WT_A : Fld := ⟨BBX_BKT7, 7, 0⟩
def BBX_LVLSEL : Reg := ⟨0x401A0060, 0x0, 1, 0x0, 1⟩
def BBX_LVLSEL.KIND : Fld := ⟨BBX_LVLSEL, 10, 8⟩
def BBX_LVLSEL.INDEX : Fld := ⟨BBX_LVLSEL, 7, 0⟩
def BBX_LVL : Reg := ⟨0x401A0064, 0x0, 1, 0x0, 1⟩
def BBX_LVL.LEVEL : Fld := ⟨BBX_LVL, 7, 0⟩
def BBX_RETIRE : Reg := ⟨0x401A0070, 0x0, 1, 0x0, 1⟩
def BBX_RETIRE.GO : Fld := ⟨BBX_RETIRE, 31, 31⟩
def BBX_RETIRE.KIND : Fld := ⟨BBX_RETIRE, 10, 8⟩
def BBX_RETIRE.INDEX : Fld := ⟨BBX_RETIRE, 7, 0⟩
def BBX_SWREC : Reg := ⟨0x401A0100, 0x4, 8, 0x0, 1⟩
def BBX_SWREC.DATA : Fld := ⟨BBX_SWREC, 31, 0⟩
def BBX_SWCMD : Reg := ⟨0x401A0140, 0x0, 1, 0x0, 1⟩
def BBX_SWCMD.GO : Fld := ⟨BBX_SWCMD, 31, 31⟩
def BBX_SWCMD.EVENT : Fld := ⟨BBX_SWCMD, 7, 0⟩

/-! 20_power_and_clocks.md R460 -/
def PWR_LIMIT : Reg := ⟨0x40020000, 0x0, 1, 0x0, 1⟩
def PWR_LIMIT.W : Fld := ⟨PWR_LIMIT, 8, 0⟩
def PWR_STAT : Reg := ⟨0x40020004, 0x0, 1, 0x0, 1⟩
def PWR_STAT.SAG : Fld := ⟨PWR_STAT, 31, 31⟩
def PWR_STAT.FLOORS : Fld := ⟨PWR_STAT, 23, 16⟩
def PWR_STAT.POWER : Fld := ⟨PWR_STAT, 8, 0⟩
def PWR_SAG : Reg := ⟨0x40020008, 0x0, 1, 0x0, 1⟩
def PWR_SAG.RST : Fld := ⟨PWR_SAG, 11, 8⟩
def PWR_SAG.WARN : Fld := ⟨PWR_SAG, 3, 0⟩
def PWR_STOP : Reg := ⟨0x4002000C, 0x0, 1, 0x0, 1⟩
def PWR_STOP.GO : Fld := ⟨PWR_STOP, 31, 31⟩
def PWR_STOP.KEEP : Fld := ⟨PWR_STOP, 0, 0⟩
def PWR_DOM_CTL : Reg := ⟨0x40020100, 0x4, 82, 0x0, 1⟩
def PWR_DOM_CTL.REQ : Fld := ⟨PWR_DOM_CTL, 1, 0⟩
def PWR_DOM_STAT : Reg := ⟨0x40020300, 0x4, 82, 0x0, 1⟩
def PWR_DOM_STAT.ERR : Fld := ⟨PWR_DOM_STAT, 7, 5⟩
def PWR_DOM_STAT.PENDING_OFF : Fld := ⟨PWR_DOM_STAT, 4, 4⟩
def PWR_DOM_STAT.PENDING_ON : Fld := ⟨PWR_DOM_STAT, 3, 3⟩
def PWR_DOM_STAT.STATE : Fld := ⟨PWR_DOM_STAT, 2, 0⟩
def CLK_CL_OP : Reg := ⟨0x40010000, 0x4, 4, 0x0, 1⟩
def CLK_CL_OP.TARGET : Fld := ⟨CLK_CL_OP, 9, 8⟩
def CLK_CL_OP.PEND : Fld := ⟨CLK_CL_OP, 7, 7⟩
def CLK_CL_OP.BUSY : Fld := ⟨CLK_CL_OP, 6, 6⟩
def CLK_CL_OP.CUR : Fld := ⟨CLK_CL_OP, 5, 4⟩
def CLK_CL_OP.REQ : Fld := ⟨CLK_CL_OP, 1, 0⟩
def CLK_VSETTLE : Reg := ⟨0x40010010, 0x0, 1, 0x0, 1⟩
def CLK_VSETTLE.US : Fld := ⟨CLK_VSETTLE, 7, 0⟩
def CLK_STAT : Reg := ⟨0x40010014, 0x0, 1, 0x0, 1⟩
def CLK_STAT.LOSS : Fld := ⟨CLK_STAT, 3, 0⟩
def OAS_CTL : Reg := ⟨0x40030000, 0x0, 1, 0x0, 1⟩
def OAS_CTL.ALARM_EN : Fld := ⟨OAS_CTL, 0, 0⟩
def OAS_RSTCAUSE : Reg := ⟨0x40030004, 0x0, 1, 0x0, 1⟩
def OAS_RSTCAUSE.CAUSE : Fld := ⟨OAS_RSTCAUSE, 5, 0⟩
def OAS_RTC_SUB : Reg := ⟨0x40030010, 0x0, 1, 0x0, 1⟩
def OAS_RTC_SUB.SUB : Fld := ⟨OAS_RTC_SUB, 14, 0⟩
def OAS_RTC_LO : Reg := ⟨0x40030014, 0x0, 1, 0x0, 1⟩
def OAS_RTC_LO.SEC : Fld := ⟨OAS_RTC_LO, 31, 0⟩
def OAS_RTC_HI : Reg := ⟨0x40030018, 0x0, 1, 0x0, 1⟩
def OAS_RTC_HI.SEC : Fld := ⟨OAS_RTC_HI, 15, 0⟩
def OAS_ALARM_LO : Reg := ⟨0x4003001C, 0x0, 1, 0x0, 1⟩
def OAS_ALARM_LO.SEC : Fld := ⟨OAS_ALARM_LO, 31, 0⟩
def OAS_ALARM_HI : Reg := ⟨0x40030020, 0x0, 1, 0x0, 1⟩
def OAS_ALARM_HI.SEC : Fld := ⟨OAS_ALARM_HI, 15, 0⟩

/-! 21_boot_and_identity.md R481 -/
def SEC_BOOT : Reg := ⟨0x40180000, 0x0, 1, 0x0, 1⟩
def SEC_BOOT.STATE : Fld := ⟨SEC_BOOT, 31, 28⟩
def SEC_BOOT.SLOT : Fld := ⟨SEC_BOOT, 27, 26⟩
def SEC_BOOT.MODE : Fld := ⟨SEC_BOOT, 25, 24⟩
def SEC_BOOT.REASON_A : Fld := ⟨SEC_BOOT, 23, 20⟩
def SEC_BOOT.REASON_B : Fld := ⟨SEC_BOOT, 19, 16⟩
def SEC_BOOT.TRIES : Fld := ⟨SEC_BOOT, 15, 8⟩
def SEC_BOOT.FAIL_AT : Fld := ⟨SEC_BOOT, 7, 4⟩
def SEC_STAT : Reg := ⟨0x40180004, 0x0, 1, 0x0, 1⟩
def SEC_STAT.BUSY : Fld := ⟨SEC_STAT, 31, 31⟩
def SEC_STAT.CAL_OK : Fld := ⟨SEC_STAT, 30, 30⟩
def SEC_STAT.DEBUG : Fld := ⟨SEC_STAT, 29, 29⟩
def SEC_STAT.TRNG_OK : Fld := ⟨SEC_STAT, 28, 28⟩
def SEC_STAT.OWNER_COPY : Fld := ⟨SEC_STAT, 27, 27⟩
def SEC_STAT.CONFIRMED : Fld := ⟨SEC_STAT, 26, 26⟩
def SEC_STAT.FLOOR_MM : Fld := ⟨SEC_STAT, 25, 25⟩
def SEC_CTL : Reg := ⟨0x40180008, 0x0, 1, 0x0, 1⟩
def SEC_CTL.COMMIT : Fld := ⟨SEC_CTL, 1, 1⟩
def SEC_CTL.CONFIRM : Fld := ⟨SEC_CTL, 0, 0⟩
def SEC_SVN : Reg := ⟨0x4018000C, 0x0, 1, 0x0, 1⟩
def SEC_SVN.VALUE : Fld := ⟨SEC_SVN, 31, 0⟩
def SEC_OWNER_ID : Reg := ⟨0x40180010, 0x0, 1, 0x0, 1⟩
def SEC_OWNER_ID.VALUE : Fld := ⟨SEC_OWNER_ID, 31, 0⟩
def SEC_OWNER_SEQ : Reg := ⟨0x40180014, 0x0, 1, 0x0, 1⟩
def SEC_OWNER_SEQ.VALUE : Fld := ⟨SEC_OWNER_SEQ, 31, 0⟩
def SEC_CAL_SVN : Reg := ⟨0x40180018, 0x0, 1, 0x0, 1⟩
def SEC_CAL_SVN.VALUE : Fld := ⟨SEC_CAL_SVN, 31, 0⟩
def SEC_IMG_FLOOR : Reg := ⟨0x40180020, 0x0, 1, 0x0, 1⟩
def SEC_IMG_FLOOR.VALUE : Fld := ⟨SEC_IMG_FLOOR, 31, 0⟩
def SEC_OWN_FLOOR : Reg := ⟨0x40180024, 0x0, 1, 0x0, 1⟩
def SEC_OWN_FLOOR.VALUE : Fld := ⟨SEC_OWN_FLOOR, 31, 0⟩
def SEC_CAL_FLOOR : Reg := ⟨0x40180028, 0x0, 1, 0x0, 1⟩
def SEC_CAL_FLOOR.VALUE : Fld := ⟨SEC_CAL_FLOOR, 31, 0⟩
def SEC_DEVID : Reg := ⟨0x40180040, 0x4, 8, 0x0, 1⟩
def SEC_DEVID.WORD : Fld := ⟨SEC_DEVID, 31, 0⟩
def SEC_DEVPUB : Reg := ⟨0x40180080, 0x4, 16, 0x0, 1⟩
def SEC_DEVPUB.WORD : Fld := ⟨SEC_DEVPUB, 31, 0⟩
def SEC_ROOTHASH : Reg := ⟨0x401800C0, 0x4, 8, 0x0, 1⟩
def SEC_ROOTHASH.WORD : Fld := ⟨SEC_ROOTHASH, 31, 0⟩
def SEC_OWNHASH : Reg := ⟨0x401800E0, 0x4, 8, 0x0, 1⟩
def SEC_OWNHASH.WORD : Fld := ⟨SEC_OWNHASH, 31, 0⟩
def SEC_MEAS : Reg := ⟨0x40180100, 0x20, 8, 0x4, 8⟩
def SEC_MEAS.WORD : Fld := ⟨SEC_MEAS, 31, 0⟩
def SEC_EXT : Reg := ⟨0x40180200, 0x4, 8, 0x0, 1⟩
def SEC_EXT.WORD : Fld := ⟨SEC_EXT, 31, 0⟩
def SEC_EXTCMD : Reg := ⟨0x40180220, 0x0, 1, 0x0, 1⟩
def SEC_EXTCMD.GO : Fld := ⟨SEC_EXTCMD, 31, 31⟩
def SEC_EXTCMD.M : Fld := ⟨SEC_EXTCMD, 2, 0⟩
def SEC_TRNG_STAT : Reg := ⟨0x40180240, 0x0, 1, 0x0, 1⟩
def SEC_TRNG_STAT.VALID : Fld := ⟨SEC_TRNG_STAT, 31, 31⟩
def SEC_TRNG_STAT.START : Fld := ⟨SEC_TRNG_STAT, 0, 0⟩
def SEC_TRNG_DATA : Reg := ⟨0x40180244, 0x0, 1, 0x0, 1⟩
def SEC_TRNG_DATA.DATA : Fld := ⟨SEC_TRNG_DATA, 31, 0⟩
def SEC_MB_CMD : Reg := ⟨0x40184000, 0x400, 16, 0x0, 1⟩
def SEC_MB_CMD.OP : Fld := ⟨SEC_MB_CMD, 31, 28⟩
def SEC_MB_CMD.N_DIG : Fld := ⟨SEC_MB_CMD, 12, 8⟩
def SEC_MB_STAT : Reg := ⟨0x40184004, 0x400, 16, 0x0, 1⟩
def SEC_MB_STAT.BUSY : Fld := ⟨SEC_MB_STAT, 31, 31⟩
def SEC_MB_STAT.ERR : Fld := ⟨SEC_MB_STAT, 30, 28⟩
def SEC_MB_STAT.PASS : Fld := ⟨SEC_MB_STAT, 0, 0⟩
def SEC_MB_DATA : Reg := ⟨0x40184100, 0x400, 16, 0x4, 64⟩
def SEC_MB_DATA.DATA : Fld := ⟨SEC_MB_DATA, 31, 0⟩
def SEC_REPORT : Reg := ⟨0x40188000, 0x800, 16, 0x4, 512⟩
def SEC_REPORT.WORD : Fld := ⟨SEC_REPORT, 31, 0⟩

/-! 22_cores_and_ports.md R504 -/
def ACI_CTL : Reg := ⟨0x401B0000, 0x0, 1, 0x0, 1⟩
def ACI_CTL.RAS_ID : Fld := ⟨ACI_CTL, 26, 16⟩
def ACI_CTL.PCH_CHK : Fld := ⟨ACI_CTL, 0, 0⟩
def ACI_CERR : Reg := ⟨0x401B0008, 0x0, 1, 0x0, 1⟩
def ACI_CERR.LOST : Fld := ⟨ACI_CERR, 31, 16⟩
def ACI_CERR.CORRECTED : Fld := ⟨ACI_CERR, 15, 0⟩
def ACI_RASADDR_LO : Reg := ⟨0x401B0010, 0x0, 1, 0x0, 1⟩
def ACI_RASADDR_LO.ADDR : Fld := ⟨ACI_RASADDR_LO, 31, 0⟩
def ACI_RASADDR_HI : Reg := ⟨0x401B0014, 0x0, 1, 0x0, 1⟩
def ACI_RASADDR_HI.CODE : Fld := ⟨ACI_RASADDR_HI, 31, 24⟩
def ACI_RASADDR_HI.ADDR : Fld := ⟨ACI_RASADDR_HI, 19, 0⟩
def ACI_MSIDROP : Reg := ⟨0x401B0018, 0x0, 1, 0x0, 1⟩
def ACI_MSIDROP.COUNT : Fld := ⟨ACI_MSIDROP, 31, 0⟩
def ACI_HART_CTL : Reg := ⟨0x401B0100, 0x10, 8, 0x0, 1⟩
def ACI_HART_CTL.START : Fld := ⟨ACI_HART_CTL, 31, 31⟩
def ACI_HART_CTL.RESET : Fld := ⟨ACI_HART_CTL, 30, 30⟩
def ACI_HART_CTL.PTN : Fld := ⟨ACI_HART_CTL, 3, 0⟩
def ACI_HART_RVEC : Reg := ⟨0x401B0104, 0x10, 8, 0x0, 1⟩
def ACI_HART_RVEC.RVEC : Fld := ⟨ACI_HART_RVEC, 31, 2⟩
def ACI_HART_RVHI : Reg := ⟨0x401B0108, 0x10, 8, 0x0, 1⟩
def ACI_HART_RVHI.RVEC : Fld := ⟨ACI_HART_RVHI, 7, 0⟩
def ACI_HART_STAT : Reg := ⟨0x401B010C, 0x10, 8, 0x0, 1⟩
def ACI_HART_STAT.WAYOFF : Fld := ⟨ACI_HART_STAT, 15, 8⟩
def ACI_HART_STAT.STATE : Fld := ⟨ACI_HART_STAT, 1, 0⟩
def PCI_CTL : Reg := ⟨0x40160000, 0x0, 1, 0x0, 1⟩
def PCI_CTL.CTO : Fld := ⟨PCI_CTL, 15, 8⟩
def PCI_CTL.PERST_RST : Fld := ⟨PCI_CTL, 0, 0⟩
def PCI_STAT : Reg := ⟨0x40160004, 0x0, 1, 0x0, 1⟩
def PCI_STAT.UP : Fld := ⟨PCI_STAT, 9, 9⟩
def PCI_STAT.WIDTH : Fld := ⟨PCI_STAT, 8, 4⟩
def PCI_STAT.RATE : Fld := ⟨PCI_STAT, 3, 0⟩
def PCI_FN : Reg := ⟨0x40160100, 0x10, 17, 0x0, 1⟩
def PCI_FN.WIN_LOG2 : Fld := ⟨PCI_FN, 12, 8⟩
def PCI_FN.PTN : Fld := ⟨PCI_FN, 3, 0⟩
def PCI_OB_LO : Reg := ⟨0x40160400, 0x10, 16, 0x0, 1⟩
def PCI_OB_LO.HOST : Fld := ⟨PCI_OB_LO, 31, 12⟩
def PCI_OB_HI : Reg := ⟨0x40160404, 0x10, 16, 0x0, 1⟩
def PCI_OB_HI.HOST : Fld := ⟨PCI_OB_HI, 31, 0⟩
def PCI_OB_CFG : Reg := ⟨0x40160408, 0x10, 16, 0x0, 1⟩
def PCI_OB_CFG.EN : Fld := ⟨PCI_OB_CFG, 31, 31⟩
def PCI_OB_CFG.FN : Fld := ⟨PCI_OB_CFG, 4, 0⟩
def ETH_CTL : Reg := ⟨0x40150000, 0x0, 1, 0x0, 1⟩
def ETH_CTL.PTPQ : Fld := ⟨ETH_CTL, 4, 0⟩
def ETH_DROP : Reg := ⟨0x40150004, 0x0, 1, 0x0, 1⟩
def ETH_DROP.COUNT : Fld := ⟨ETH_DROP, 31, 0⟩
def ETH_QUAD : Reg := ⟨0x40150010, 0x4, 4, 0x0, 1⟩
def ETH_QUAD.MODE : Fld := ⟨ETH_QUAD, 1, 0⟩
def ETH_PFC : Reg := ⟨0x40150020, 0x0, 1, 0x0, 1⟩
def ETH_PFC.XOFF : Fld := ⟨ETH_PFC, 31, 16⟩
def ETH_PFC.XON : Fld := ⟨ETH_PFC, 15, 0⟩
def ETH_PORT_CTL : Reg := ⟨0x40150040, 0x8, 16, 0x0, 1⟩
def ETH_PORT_CTL.EN : Fld := ⟨ETH_PORT_CTL, 0, 0⟩
def ETH_PORT_STAT : Reg := ⟨0x40150044, 0x8, 16, 0x0, 1⟩
def ETH_PORT_STAT.RX_ERR : Fld := ⟨ETH_PORT_STAT, 31, 16⟩
def ETH_PORT_STAT.PAUSED : Fld := ⟨ETH_PORT_STAT, 15, 8⟩
def ETH_PORT_STAT.LINK : Fld := ⟨ETH_PORT_STAT, 0, 0⟩
def ETH_FWD : Reg := ⟨0x40150200, 0x4, 64, 0x0, 1⟩
def ETH_FWD.V : Fld := ⟨ETH_FWD, 31, 31⟩
def ETH_FWD.COPY : Fld := ⟨ETH_FWD, 30, 30⟩
def ETH_FWD.IN : Fld := ⟨ETH_FWD, 23, 20⟩
def ETH_FWD.EGR : Fld := ⟨ETH_FWD, 19, 16⟩
def ETH_FWD.VID : Fld := ⟨ETH_FWD, 11, 0⟩
def ETH_Q_CFG : Reg := ⟨0x40151000, 0x40, 32, 0x0, 1⟩
def ETH_Q_CFG.EN : Fld := ⟨ETH_Q_CFG, 31, 31⟩
def ETH_Q_CFG.TS_ALL : Fld := ⟨ETH_Q_CFG, 30, 30⟩
def ETH_Q_CFG.PTN : Fld := ⟨ETH_Q_CFG, 27, 24⟩
def ETH_Q_CFG.BUFSZ : Fld := ⟨ETH_Q_CFG, 23, 20⟩
def ETH_Q_CFG.LOG2SIZE : Fld := ⟨ETH_Q_CFG, 16, 12⟩
def ETH_Q_CFG.VID : Fld := ⟨ETH_Q_CFG, 11, 0⟩
def ETH_Q_RX : Reg := ⟨0x40151004, 0x40, 32, 0x0, 1⟩
def ETH_Q_RX.ADDR : Fld := ⟨ETH_Q_RX, 31, 0⟩
def ETH_Q_BUF : Reg := ⟨0x40151008, 0x40, 32, 0x0, 1⟩
def ETH_Q_BUF.ADDR : Fld := ⟨ETH_Q_BUF, 31, 0⟩
def ETH_Q_TX : Reg := ⟨0x4015100C, 0x40, 32, 0x0, 1⟩
def ETH_Q_TX.ADDR : Fld := ⟨ETH_Q_TX, 31, 0⟩
def ETH_Q_RXHEAD : Reg := ⟨0x40151010, 0x40, 32, 0x0, 1⟩
def ETH_Q_RXHEAD.COUNT : Fld := ⟨ETH_Q_RXHEAD, 31, 0⟩
def ETH_Q_RXTAIL : Reg := ⟨0x40151014, 0x40, 32, 0x0, 1⟩
def ETH_Q_RXTAIL.COUNT : Fld := ⟨ETH_Q_RXTAIL, 31, 0⟩
def ETH_Q_TXHEAD : Reg := ⟨0x40151018, 0x40, 32, 0x0, 1⟩
def ETH_Q_TXHEAD.COUNT : Fld := ⟨ETH_Q_TXHEAD, 31, 0⟩
def ETH_Q_TXTAIL : Reg := ⟨0x4015101C, 0x40, 32, 0x0, 1⟩
def ETH_Q_TXTAIL.COUNT : Fld := ⟨ETH_Q_TXTAIL, 31, 0⟩
def ETH_Q_MSI : Reg := ⟨0x40151020, 0x40, 32, 0x0, 1⟩
def ETH_Q_MSI.MSI : Fld := ⟨ETH_Q_MSI, 31, 0⟩
def ETH_Q_STAT : Reg := ⟨0x40151024, 0x40, 32, 0x0, 1⟩
def ETH_Q_STAT.NOSPACE : Fld := ⟨ETH_Q_STAT, 31, 16⟩
def ETH_Q_STAT.TOOLONG : Fld := ⟨ETH_Q_STAT, 15, 0⟩
def XSP_CMD : Reg := ⟨0x40170000, 0x0, 1, 0x0, 1⟩
def XSP_CMD.GO : Fld := ⟨XSP_CMD, 31, 31⟩
def XSP_CMD.WR : Fld := ⟨XSP_CMD, 30, 30⟩
def XSP_CMD.CS : Fld := ⟨XSP_CMD, 29, 29⟩
def XSP_CMD.OP : Fld := ⟨XSP_CMD, 23, 16⟩
def XSP_CMD.LEN : Fld := ⟨XSP_CMD, 8, 0⟩
def XSP_ADDR : Reg := ⟨0x40170004, 0x0, 1, 0x0, 1⟩
def XSP_ADDR.ADDR : Fld := ⟨XSP_ADDR, 31, 0⟩
def XSP_STAT : Reg := ⟨0x40170008, 0x0, 1, 0x0, 1⟩
def XSP_STAT.BUSY : Fld := ⟨XSP_STAT, 31, 31⟩
def XSP_STAT.ERR : Fld := ⟨XSP_STAT, 30, 28⟩
def XSP_SB_CMD : Reg := ⟨0x40170020, 0x0, 1, 0x0, 1⟩
def XSP_SB_CMD.GO : Fld := ⟨XSP_SB_CMD, 31, 31⟩
def XSP_SB_CMD.BUS : Fld := ⟨XSP_SB_CMD, 30, 30⟩
def XSP_SB_CMD.PEC : Fld := ⟨XSP_SB_CMD, 29, 29⟩
def XSP_SB_CMD.ADDR : Fld := ⟨XSP_SB_CMD, 22, 16⟩
def XSP_SB_CMD.WLEN : Fld := ⟨XSP_SB_CMD, 15, 8⟩
def XSP_SB_CMD.RLEN : Fld := ⟨XSP_SB_CMD, 7, 0⟩
def XSP_SB_STAT : Reg := ⟨0x40170024, 0x0, 1, 0x0, 1⟩
def XSP_SB_STAT.BUSY : Fld := ⟨XSP_SB_STAT, 31, 31⟩
def XSP_SB_STAT.ERR : Fld := ⟨XSP_SB_STAT, 30, 28⟩
def XSP_PMB_POUT : Reg := ⟨0x40170040, 0x4, 16, 0x0, 1⟩
def XSP_PMB_POUT.V : Fld := ⟨XSP_PMB_POUT, 31, 31⟩
def XSP_PMB_POUT.ADDR : Fld := ⟨XSP_PMB_POUT, 6, 0⟩
def XSP_DATA : Reg := ⟨0x40170100, 0x4, 64, 0x0, 1⟩
def XSP_DATA.DATA : Fld := ⟨XSP_DATA, 31, 0⟩
def XSP_SB_DATA : Reg := ⟨0x40170200, 0x4, 64, 0x0, 1⟩
def XSP_SB_DATA.DATA : Fld := ⟨XSP_SB_DATA, 31, 0⟩

/-! The rows of each block, for the access rules of R9 and the reset values. -/
def rowsOfSYS : List RegRow := [
  ⟨SYS_ID, [⟨SYS_ID.PART, .ro, 0x9640⟩, ⟨SYS_ID.STEP, .ro, 0xb0⟩]⟩,
  ⟨SYS_CHIPID, [⟨SYS_CHIPID.GRP_POS, .ro, 0⟩, ⟨SYS_CHIPID.ID_SET, .ro, 0⟩, ⟨SYS_CHIPID.ID, .rwl, 0⟩]⟩,
  ⟨SYS_SPARE, [⟨SYS_SPARE.SPARE_BAD, .ro, 0⟩, ⟨SYS_SPARE.SPARE_USED, .ro, 0⟩]⟩,
  ⟨SYS_TMAP, [⟨SYS_TMAP.STATE, .ro, 0⟩, ⟨SYS_TMAP.RETIRE_CNT, .ro, 0⟩, ⟨SYS_TMAP.PTILE, .ro, 0⟩]⟩]
def rowsOfATU0 : List RegRow := [
  ⟨ATU_CTL, [⟨ATU_CTL.RCV_PORT, .rw, 0⟩, ⟨ATU_CTL.RCV_EN, .rw, 0⟩, ⟨ATU_CTL.SET, .w1s, 0⟩, ⟨ATU_CTL.TRG_EN, .rw, 0⟩, ⟨ATU_CTL.RUN, .rw, 1⟩]⟩,
  ⟨ATU_STAT, [⟨ATU_STAT.SAMPLE_LOST, .ro, 0⟩, ⟨ATU_STAT.STEP_CNT, .ro, 0⟩, ⟨ATU_STAT.SET_ERR, .w1c, 0⟩, ⟨ATU_STAT.ETS_OVF, .w1c, 0⟩, ⟨ATU_STAT.FADJ_CLAMP, .ro, 0⟩, ⟨ATU_STAT.TIME_SET, .ro, 0⟩, ⟨ATU_STAT.HOLDOVER, .ro, 0⟩, ⟨ATU_STAT.LOCK, .ro, 0⟩]⟩,
  ⟨ATU_INCR_NS, [⟨ATU_INCR_NS.NS, .rw, 1⟩]⟩,
  ⟨ATU_INCR_FRAC, [⟨ATU_INCR_FRAC.FRAC, .rw, 0x46aaaab⟩]⟩,
  ⟨ATU_FADJ, [⟨ATU_FADJ.FADJ, .ro, 0⟩]⟩,
  ⟨ATU_STEP, [⟨ATU_STEP.STEP, .wo, 0⟩]⟩,
  ⟨ATU_SET_NS, [⟨ATU_SET_NS.NS, .rw, 0⟩]⟩,
  ⟨ATU_SET_SEC_LO, [⟨ATU_SET_SEC_LO.SEC_LO, .rw, 0⟩]⟩,
  ⟨ATU_SET_SEC_HI, [⟨ATU_SET_SEC_HI.SEC_HI, .rw, 0⟩]⟩,
  ⟨ATU_SERVO_CTL, [⟨ATU_SERVO_CTL.LOCK_THR, .rw, 0x14⟩, ⟨ATU_SERVO_CTL.HOLD_TO, .rw, 0x14⟩, ⟨ATU_SERVO_CTL.STEP_THR, .rw, 0xa⟩, ⟨ATU_SERVO_CTL.STEP_EN, .rw, 1⟩, ⟨ATU_SERVO_CTL.FREQ_SRC, .rw, 0⟩, ⟨ATU_SERVO_CTL.PHASE_SRC, .rw, 0⟩]⟩,
  ⟨ATU_GAIN, [⟨ATU_GAIN.KI, .rw, 0x40⟩, ⟨ATU_GAIN.KP, .rw, 0x200⟩]⟩,
  ⟨ATU_OFS_IN, [⟨ATU_OFS_IN.OFS, .wo, 0⟩]⟩]
def rowsOfATU1 : List RegRow := [
  ⟨ATU_PPS_CFG, [⟨ATU_PPS_CFG.OUT_EN, .rw, 0⟩, ⟨ATU_PPS_CFG.WIDTH, .rw, 0x64⟩, ⟨ATU_PPS_CFG.IN_DLY, .rw, 0⟩]⟩,
  ⟨ATU_SYNC_CFG, [⟨ATU_SYNC_CFG.LEADER, .rw, 1⟩, ⟨ATU_SYNC_CFG.OUT_EN, .rw, 0⟩, ⟨ATU_SYNC_CFG.DLY, .rw, 0⟩]⟩,
  ⟨ATU_CELL_CFG, [⟨ATU_CELL_CFG.EN, .rw, 0⟩, ⟨ATU_CELL_CFG.ECP, .rw, 0⟩, ⟨ATU_CELL_CFG.MU, .rw, 0⟩]⟩,
  ⟨ATU_CELL_OFS, [⟨ATU_CELL_OFS.OFS, .rw, 0⟩]⟩,
  ⟨ATU_PORT_IGR, [⟨ATU_PORT_IGR.CORR, .rw, 0⟩]⟩,
  ⟨ATU_PORT_EGR, [⟨ATU_PORT_EGR.CORR, .rw, 0⟩]⟩]
def rowsOfATU : List RegRow := rowsOfATU0 ++ rowsOfATU1
def rowsOfJOB0 : List RegRow := [
  ⟨JOB_CTL, [⟨JOB_CTL.CLR_STATS, .w1s, 0⟩, ⟨JOB_CTL.EN, .rw, 0⟩]⟩,
  ⟨JOB_STAT, [⟨JOB_STAT.ACCEPTED, .ro, 0⟩]⟩,
  ⟨JOB_BL_MAXLAT, [⟨JOB_BL_MAXLAT.MAXLAT, .ro, 0⟩]⟩,
  ⟨JOB_SQ_BASE_LO, [⟨JOB_SQ_BASE_LO.BASE, .rw, 0⟩]⟩,
  ⟨JOB_SQ_BASE_HI, [⟨JOB_SQ_BASE_HI.BASE, .rw, 0⟩]⟩,
  ⟨JOB_SQ_CFG, [⟨JOB_SQ_CFG.EN, .rw, 0⟩, ⟨JOB_SQ_CFG.LOG2SIZE, .rw, 6⟩]⟩,
  ⟨JOB_SQ_HEAD, [⟨JOB_SQ_HEAD.HEAD, .ro, 0⟩]⟩,
  ⟨JOB_SQ_TAIL, [⟨JOB_SQ_TAIL.TAIL, .ro, 0⟩]⟩,
  ⟨JOB_SQ_STAT, [⟨JOB_SQ_STAT.FETCH_FAULT, .w1c, 0⟩, ⟨JOB_SQ_STAT.OVERPOST, .w1c, 0⟩, ⟨JOB_SQ_STAT.ACTIVE, .ro, 0⟩]⟩,
  ⟨JOB_CQ_BASE_LO, [⟨JOB_CQ_BASE_LO.BASE, .rw, 0⟩]⟩,
  ⟨JOB_CQ_BASE_HI, [⟨JOB_CQ_BASE_HI.BASE, .rw, 0⟩]⟩,
  ⟨JOB_CQ_CFG, [⟨JOB_CQ_CFG.EN, .rw, 0⟩, ⟨JOB_CQ_CFG.IRQ_EN, .rw, 0⟩, ⟨JOB_CQ_CFG.IRQ_CNT, .rw, 1⟩, ⟨JOB_CQ_CFG.LOG2SIZE, .rw, 6⟩]⟩]
def rowsOfJOB1 : List RegRow := [
  ⟨JOB_CQ_HEAD, [⟨JOB_CQ_HEAD.HEAD, .ro, 0⟩]⟩,
  ⟨JOB_CQ_TAIL, [⟨JOB_CQ_TAIL.TAIL, .ro, 0⟩]⟩,
  ⟨JOB_CQ_STAT, [⟨JOB_CQ_STAT.OVERPOST, .w1c, 0⟩, ⟨JOB_CQ_STAT.FULL, .ro, 0⟩, ⟨JOB_CQ_STAT.WRITE_FAULT, .w1c, 0⟩]⟩,
  ⟨JOB_CQ_MSI, [⟨JOB_CQ_MSI.TARGET, .rw, 0⟩, ⟨JOB_CQ_MSI.HART, .rw, 0⟩, ⟨JOB_CQ_MSI.ID, .rw, 0⟩]⟩,
  ⟨JOB_CQ_IRQ, [⟨JOB_CQ_IRQ.IRQ_TIME, .rw, 0⟩]⟩,
  ⟨JOB_EQ_BASE_LO, [⟨JOB_EQ_BASE_LO.BASE, .rw, 0⟩]⟩,
  ⟨JOB_EQ_BASE_HI, [⟨JOB_EQ_BASE_HI.BASE, .rw, 0⟩]⟩,
  ⟨JOB_EQ_CFG, [⟨JOB_EQ_CFG.EN, .rw, 0⟩, ⟨JOB_EQ_CFG.IRQ_EN, .rw, 0⟩, ⟨JOB_EQ_CFG.IRQ_CNT, .rw, 1⟩, ⟨JOB_EQ_CFG.LOG2SIZE, .rw, 6⟩]⟩,
  ⟨JOB_EQ_HEAD, [⟨JOB_EQ_HEAD.HEAD, .ro, 0⟩]⟩,
  ⟨JOB_EQ_TAIL, [⟨JOB_EQ_TAIL.TAIL, .ro, 0⟩]⟩,
  ⟨JOB_EQ_STAT, [⟨JOB_EQ_STAT.LOST, .ro, 0⟩, ⟨JOB_EQ_STAT.OVERPOST, .w1c, 0⟩, ⟨JOB_EQ_STAT.FULL, .ro, 0⟩, ⟨JOB_EQ_STAT.WRITE_FAULT, .w1c, 0⟩]⟩,
  ⟨JOB_EQ_MSI, [⟨JOB_EQ_MSI.TARGET, .rw, 0⟩, ⟨JOB_EQ_MSI.HART, .rw, 0⟩, ⟨JOB_EQ_MSI.ID, .rw, 0⟩]⟩]
def rowsOfJOB2 : List RegRow := [
  ⟨JOB_EQ_IRQ, [⟨JOB_EQ_IRQ.IRQ_TIME, .rw, 0⟩]⟩,
  ⟨JOB_PQ_CFG, [⟨JOB_PQ_CFG.BL_REMOTE_EN, .rw, 0⟩, ⟨JOB_PQ_CFG.NODL_STEP, .rw, 0xa⟩, ⟨JOB_PQ_CFG.QUOTA, .rw, 0x400⟩]⟩,
  ⟨JOB_PQ_CTL, [⟨JOB_PQ_CTL.UNQUIESCE, .w1s, 0⟩, ⟨JOB_PQ_CTL.RESUME, .w1s, 0⟩]⟩,
  ⟨JOB_PQ_STAT, [⟨JOB_PQ_STAT.HALTED, .ro, 0⟩, ⟨JOB_PQ_STAT.QUIESCED, .ro, 0⟩, ⟨JOB_PQ_STAT.ACCEPTED, .ro, 0⟩]⟩,
  ⟨JOB_PQ_CNT, [⟨JOB_PQ_CNT.REARM_COLLAPSED, .ro, 0⟩, ⟨JOB_PQ_CNT.BL_DROP, .ro, 0⟩]⟩,
  ⟨JOB_OT_BASE_LO, [⟨JOB_OT_BASE_LO.BASE, .rw, 0⟩]⟩,
  ⟨JOB_OT_BASE_HI, [⟨JOB_OT_BASE_HI.BASE, .rw, 0⟩]⟩,
  ⟨JOB_OT_CMD, [⟨JOB_OT_CMD.CMD, .wo, 0⟩, ⟨JOB_OT_CMD.INDEX, .wo, 0⟩]⟩,
  ⟨JOB_OT_STAT, [⟨JOB_OT_STAT.BUSY, .ro, 0⟩, ⟨JOB_OT_STAT.ERR, .ro, 0⟩, ⟨JOB_OT_STAT.INDEX, .ro, 0⟩]⟩,
  ⟨JOB_BL_STAT, [⟨JOB_BL_STAT.OCC, .ro, 0⟩, ⟨JOB_BL_STAT.DONE_SEQ, .ro, 0⟩]⟩]
def rowsOfJOB : List RegRow := rowsOfJOB0 ++ rowsOfJOB1 ++ rowsOfJOB2
def rowsOfTIL0 : List RegRow := [
  ⟨TIL_CTL, [⟨TIL_CTL.SHADOW_CHK, .rw, 0⟩]⟩,
  ⟨TIL_STAT, [⟨TIL_STAT.STATE, .ro, 0⟩, ⟨TIL_STAT.IN_HANDLER, .ro, 0⟩, ⟨TIL_STAT.IE, .ro, 0⟩, ⟨TIL_STAT.LD, .ro, 0⟩, ⟨TIL_STAT.PC, .ro, 0⟩, ⟨TIL_STAT.IPEND, .ro, 0⟩]⟩,
  ⟨TIL_FAULT, [⟨TIL_FAULT.VALID, .w1c, 0⟩, ⟨TIL_FAULT.SLOT, .ro, 0⟩, ⟨TIL_FAULT.PC, .ro, 0⟩, ⟨TIL_FAULT.CODE, .ro, 0⟩]⟩,
  ⟨TIL_TASKCYC, [⟨TIL_TASKCYC.CYCLES, .ro, 0⟩]⟩,
  ⟨TIL_STALLCYC, [⟨TIL_STALLCYC.STALLS, .ro, 0⟩]⟩,
  ⟨TIL_NSAT, [⟨TIL_NSAT.COUNT, .ro, 0⟩]⟩,
  ⟨TIL_NFLUSH, [⟨TIL_NFLUSH.COUNT, .ro, 0⟩]⟩,
  ⟨TIL_NNAN, [⟨TIL_NNAN.COUNT, .ro, 0⟩]⟩,
  ⟨TIL_NLOG_BASE_LO, [⟨TIL_NLOG_BASE_LO.BASE, .rw, 0⟩]⟩,
  ⟨TIL_NLOG_BASE_HI, [⟨TIL_NLOG_BASE_HI.BASE, .rw, 0⟩]⟩,
  ⟨TIL_NLOG_CFG, [⟨TIL_NLOG_CFG.EN, .rw, 0⟩, ⟨TIL_NLOG_CFG.LOG2SIZE, .rw, 6⟩]⟩,
  ⟨TIL_NLOG_WR, [⟨TIL_NLOG_WR.WR, .rw, 0⟩]⟩]
def rowsOfTIL1 : List RegRow := [
  ⟨TIL_NLOG_STAT, [⟨TIL_NLOG_STAT.LOST, .ro, 0⟩, ⟨TIL_NLOG_STAT.FAULT, .w1c, 0⟩, ⟨TIL_NLOG_STAT.FULL, .ro, 0⟩]⟩]
def rowsOfTIL : List RegRow := rowsOfTIL0 ++ rowsOfTIL1
def rowsOfARR : List RegRow := [
  ⟨ARR_CFG, [⟨ARR_CFG.ACTIVE, .ro, 0⟩, ⟨ARR_CFG.SPLIT, .ro, 0⟩, ⟨ARR_CFG.FMT, .ro, 0⟩]⟩,
  ⟨ARR_STAT, [⟨ARR_STAT.FILL, .ro, 0⟩, ⟨ARR_STAT.QOCC, .ro, 0⟩, ⟨ARR_STAT.REPLAY, .ro, 0⟩, ⟨ARR_STAT.BUSY, .ro, 0⟩]⟩,
  ⟨ARR_SUBSTAT, [⟨ARR_SUBSTAT.FAILED_REL, .ro, 0⟩, ⟨ARR_SUBSTAT.FAILED_ACT, .ro, 0⟩, ⟨ARR_SUBSTAT.SUSPECT, .ro, 0⟩]⟩,
  ⟨ARR_CKTOL, [⟨ARR_CKTOL.ULP, .rw, 0x100⟩]⟩,
  ⟨ARR_GAPFILL, [⟨ARR_GAPFILL.RAMP, .rw, 0x100⟩, ⟨ARR_GAPFILL.GAP_MAX, .rw, 0x40⟩, ⟨ARR_GAPFILL.EN, .rw, 1⟩]⟩,
  ⟨ARR_CKCNT, [⟨ARR_CKCNT.REPEATED, .ro, 0⟩, ⟨ARR_CKCNT.CLEARED, .ro, 0⟩]⟩,
  ⟨ARR_CTL, [⟨ARR_CTL.CLR_CNT, .w1s, 0⟩]⟩,
  ⟨ARR_BUSYCYC, [⟨ARR_BUSYCYC.CYCLES, .ro, 0⟩]⟩,
  ⟨ARR_FILLCYC, [⟨ARR_FILLCYC.CYCLES, .ro, 0⟩]⟩]
def rowsOfELE : List RegRow := [
  ⟨ELE_STAT, [⟨ELE_STAT.BUSY, .ro, 0⟩, ⟨ELE_STAT.RESCALE, .ro, 0⟩, ⟨ELE_STAT.CALIB, .ro, 0⟩, ⟨ELE_STAT.KERNEL, .ro, 0⟩, ⟨ELE_STAT.ROW, .ro, 0⟩]⟩,
  ⟨ELE_FPCSR, [⟨ELE_FPCSR.RM, .rw, 0⟩, ⟨ELE_FPCSR.NV, .w1c, 0⟩, ⟨ELE_FPCSR.DZ, .w1c, 0⟩, ⟨ELE_FPCSR.OF, .w1c, 0⟩, ⟨ELE_FPCSR.UF, .w1c, 0⟩, ⟨ELE_FPCSR.NX, .w1c, 0⟩]⟩,
  ⟨ELE_SATLIM, [⟨ELE_SATLIM.LIMIT, .rw, 0⟩]⟩,
  ⟨ELE_FLUSHLIM, [⟨ELE_FLUSHLIM.LIMIT, .rw, 0xffffffff⟩]⟩,
  ⟨ELE_RUNCNT, [⟨ELE_RUNCNT.RESCALES, .ro, 0⟩, ⟨ELE_RUNCNT.RUNS, .ro, 0⟩]⟩,
  ⟨ELE_CTL, [⟨ELE_CTL.CLR_CNT, .w1s, 0⟩]⟩,
  ⟨ELE_LUT, [⟨ELE_LUT.VALUE, .rw, 0⟩]⟩]
def rowsOfSIG : List RegRow := [
  ⟨SIG_STAT, [⟨SIG_STAT.WA_SAT, .ro, 0⟩, ⟨SIG_STAT.NA_SAT, .ro, 0⟩]⟩,
  ⟨SIG_NSAT, [⟨SIG_NSAT.COUNT, .ro, 0⟩]⟩,
  ⟨SIG_WSAT, [⟨SIG_WSAT.COUNT, .ro, 0⟩]⟩,
  ⟨SIG_NOPS, [⟨SIG_NOPS.COUNT, .ro, 0⟩]⟩,
  ⟨SIG_WOPS, [⟨SIG_WOPS.COUNT, .ro, 0⟩]⟩]
def rowsOfSTM0 : List RegRow := [
  ⟨STM_CFG, [⟨STM_CFG.MAXOUT, .rw, 0x100⟩, ⟨STM_CFG.DTAB, .rw, 0x7c00⟩]⟩,
  ⟨STM_STAT, [⟨STM_STAT.FAULT_WAIT, .ro, 0⟩, ⟨STM_STAT.FENCES, .ro, 0⟩, ⟨STM_STAT.ACTIVE, .ro, 0⟩, ⟨STM_STAT.OUTST, .ro, 0⟩]⟩,
  ⟨STM_CTL, [⟨STM_CTL.CLR_CNT, .w1s, 0⟩]⟩,
  ⟨STM_FAULT, [⟨STM_FAULT.VALID, .w1c, 0⟩, ⟨STM_FAULT.DESC, .ro, 0⟩, ⟨STM_FAULT.CODE, .ro, 0⟩]⟩,
  ⟨STM_FAULT_BLK, [⟨STM_FAULT_BLK.BLOCK, .ro, 0⟩]⟩,
  ⟨STM_CURBLK, [⟨STM_CURBLK.BLOCK, .ro, 0⟩]⟩,
  ⟨STM_CURDESC, [⟨STM_CURDESC.VALID, .ro, 0⟩, ⟨STM_CURDESC.DESC, .ro, 0⟩]⟩,
  ⟨STM_CURC, [⟨STM_CURC.COORD, .ro, 0⟩]⟩,
  ⟨STM_REQCNT, [⟨STM_REQCNT.COUNT, .ro, 0⟩]⟩,
  ⟨STM_MERGED, [⟨STM_MERGED.COUNT, .ro, 0⟩]⟩,
  ⟨STM_RCNT, [⟨STM_RCNT.FAULTS, .ro, 0⟩, ⟨STM_RCNT.REARM_COLLAPSED, .ro, 0⟩]⟩,
  ⟨STM_DSTAT, [⟨STM_DSTAT.STATE, .ro, 0⟩, ⟨STM_DSTAT.PEND, .ro, 0⟩, ⟨STM_DSTAT.GEN, .ro, 0⟩, ⟨STM_DSTAT.PGEN, .ro, 0⟩]⟩]
def rowsOfSTM1 : List RegRow := [
  ⟨STM_DCNT, [⟨STM_DCNT.DELIVERED, .ro, 0⟩]⟩]
def rowsOfSTM : List RegRow := rowsOfSTM0 ++ rowsOfSTM1
def rowsOfCRC : List RegRow := [
  ⟨CRC_CFG, [⟨CRC_CFG.TRIM, .rw, 0⟩, ⟨CRC_CFG.IRQ, .rw, 0⟩, ⟨CRC_CFG.RST, .rw, 0⟩, ⟨CRC_CFG.CMP, .rw, 0⟩, ⟨CRC_CFG.DESC, .rw, 0⟩, ⟨CRC_CFG.POLY, .rw, 0⟩, ⟨CRC_CFG.EN, .rw, 0⟩]⟩,
  ⟨CRC_VALUE, [⟨CRC_VALUE.VALUE, .rw, 0⟩]⟩,
  ⟨CRC_INIT, [⟨CRC_INIT.INIT, .rw, 0⟩]⟩,
  ⟨CRC_EXPECT, [⟨CRC_EXPECT.EXPECT, .rw, 0⟩]⟩,
  ⟨CRC_RESULT, [⟨CRC_RESULT.RESULT, .ro, 0⟩]⟩,
  ⟨CRC_STAT, [⟨CRC_STAT.MISMATCH, .ro, 0⟩, ⟨CRC_STAT.SKIP, .ro, 0⟩, ⟨CRC_STAT.FEEDING, .ro, 0⟩]⟩,
  ⟨CRC_LAST, [⟨CRC_LAST.DESC, .ro, 0⟩, ⟨CRC_LAST.BLOCK, .ro, 0⟩]⟩,
  ⟨CRC_SEM, [⟨CRC_SEM.V, .rw, 0⟩, ⟨CRC_SEM.CLUSTER, .rw, 0⟩, ⟨CRC_SEM.INDEX, .rw, 0⟩]⟩]
def rowsOfSCL : List RegRow := [
  ⟨SCL_LO, [⟨SCL_LO.SCALE, .rw, 0⟩]⟩,
  ⟨SCL_HI, [⟨SCL_HI.SRC, .rw, 0⟩, ⟨SCL_HI.RESC, .rw, 0⟩, ⟨SCL_HI.SYM, .rw, 0⟩, ⟨SCL_HI.CONST, .rw, 0⟩, ⟨SCL_HI.ZP, .rw, 0⟩]⟩]
def rowsOfFHE0 : List RegRow := [
  ⟨FHE_RX_CTL, [⟨FHE_RX_CTL.UDP_PORT, .rw, 0⟩, ⟨FHE_RX_CTL.CLR_CNT, .w1s, 0⟩, ⟨FHE_RX_CTL.EN, .rw, 0⟩]⟩,
  ⟨FHE_RX_DROP0, [⟨FHE_RX_DROP0.UNKNOWN_EAXC, .ro, 0⟩, ⟨FHE_RX_DROP0.BAD_HDR, .ro, 0⟩]⟩,
  ⟨FHE_RX_DROP1, [⟨FHE_RX_DROP1.CELL_OFF, .ro, 0⟩, ⟨FHE_RX_DROP1.BAD_SECTION, .ro, 0⟩]⟩,
  ⟨FHE_RX_DROP2, [⟨FHE_RX_DROP2.BUF_FULL, .ro, 0⟩]⟩,
  ⟨FHE_CRX_CFG, [⟨FHE_CRX_CFG.EN, .rw, 0⟩, ⟨FHE_CRX_CFG.UDHDR, .rw, 0⟩, ⟨FHE_CRX_CFG.NBUF, .rw, 1⟩, ⟨FHE_CRX_CFG.IQW, .rw, 0x10⟩, ⟨FHE_CRX_CFG.METH, .rw, 0⟩, ⟨FHE_CRX_CFG.S, .rw, 1⟩, ⟨FHE_CRX_CFG.NPRB, .rw, 0x111⟩]⟩,
  ⟨FHE_CRX_WIN, [⟨FHE_CRX_WIN.TA4_MAX, .rw, 0x708⟩, ⟨FHE_CRX_WIN.TA4_MIN, .rw, 0x1f4⟩]⟩,
  ⟨FHE_CRX_GRID_LO, [⟨FHE_CRX_GRID_LO.ADDR, .rw, 0⟩]⟩,
  ⟨FHE_CRX_GRID_HI, [⟨FHE_CRX_GRID_HI.ADDR, .rw, 0⟩]⟩,
  ⟨FHE_CRX_SEM, [⟨FHE_CRX_SEM.V, .rw, 0⟩, ⟨FHE_CRX_SEM.CLUSTER, .rw, 0⟩, ⟨FHE_CRX_SEM.FIRST, .rw, 0⟩]⟩,
  ⟨FHE_CRX_PTN, [⟨FHE_CRX_PTN.PTN, .rw, 0⟩]⟩,
  ⟨FHE_CRX_STAT, [⟨FHE_CRX_STAT.SFN, .ro, 0⟩, ⟨FHE_CRX_STAT.SLOT, .ro, 0⟩, ⟨FHE_CRX_STAT.SYMBOL, .ro, 0⟩, ⟨FHE_CRX_STAT.OVERRUN, .w1c, 0⟩, ⟨FHE_CRX_STAT.WR_FAULT, .w1c, 0⟩, ⟨FHE_CRX_STAT.ACTIVE, .ro, 0⟩]⟩,
  ⟨FHE_CRX_STRIDE, [⟨FHE_CRX_STRIDE.STRIDE, .ro, 0x2d000⟩]⟩]
def rowsOfFHE1 : List RegRow := [
  ⟨FHE_CRX_CNT0, [⟨FHE_CRX_CNT0.LATE, .ro, 0⟩, ⟨FHE_CRX_CNT0.EARLY, .ro, 0⟩]⟩,
  ⟨FHE_CRX_CNT1, [⟨FHE_CRX_CNT1.DUP, .ro, 0⟩, ⟨FHE_CRX_CNT1.SEQ_GAP, .ro, 0⟩]⟩,
  ⟨FHE_CRX_CNT2, [⟨FHE_CRX_CNT2.PRB_MISSING, .ro, 0⟩]⟩,
  ⟨FHE_CRX_CNT3, [⟨FHE_CRX_CNT3.DECOMP_SAT, .ro, 0⟩]⟩,
  ⟨FHE_EAXC_A, [⟨FHE_EAXC_A.VALID, .rw, 0⟩, ⟨FHE_EAXC_A.EAXC_ID, .rw, 0⟩]⟩,
  ⟨FHE_EAXC_B, [⟨FHE_EAXC_B.STREAM, .rw, 0⟩, ⟨FHE_EAXC_B.CELL, .rw, 0⟩]⟩,
  ⟨FHE_TX_CTL, [⟨FHE_TX_CTL.MTU, .rw, 0x5dc⟩, ⟨FHE_TX_CTL.CLR_CNT, .w1s, 0⟩, ⟨FHE_TX_CTL.EN, .rw, 0⟩]⟩,
  ⟨FHE_CTX_CFG, [⟨FHE_CTX_CFG.EN, .rw, 0⟩, ⟨FHE_CTX_CFG.UDHDR, .rw, 0⟩, ⟨FHE_CTX_CFG.NBUF, .rw, 1⟩, ⟨FHE_CTX_CFG.IQW, .rw, 0x10⟩, ⟨FHE_CTX_CFG.METH, .rw, 0⟩, ⟨FHE_CTX_CFG.S, .rw, 1⟩, ⟨FHE_CTX_CFG.PORT, .rw, 0⟩, ⟨FHE_CTX_CFG.NPRB, .rw, 0x111⟩]⟩,
  ⟨FHE_CTX_UWIN, [⟨FHE_CTX_UWIN.TUP_MAX, .rw, 0x7d0⟩, ⟨FHE_CTX_UWIN.TUP_MIN, .rw, 0x3e8⟩]⟩,
  ⟨FHE_CTX_CWIN, [⟨FHE_CTX_CWIN.TCP_MAX, .rw, 0xfa0⟩, ⟨FHE_CTX_CWIN.TCP_MIN, .rw, 0x9c4⟩]⟩,
  ⟨FHE_CTX_GRID_LO, [⟨FHE_CTX_GRID_LO.ADDR, .rw, 0⟩]⟩,
  ⟨FHE_CTX_GRID_HI, [⟨FHE_CTX_GRID_HI.ADDR, .rw, 0⟩]⟩]
def rowsOfFHE2 : List RegRow := [
  ⟨FHE_CTX_SEM, [⟨FHE_CTX_SEM.V, .rw, 0⟩, ⟨FHE_CTX_SEM.CLUSTER, .rw, 0⟩, ⟨FHE_CTX_SEM.FIRST, .rw, 0⟩]⟩,
  ⟨FHE_CTX_PTN, [⟨FHE_CTX_PTN.PTN, .rw, 0⟩]⟩,
  ⟨FHE_CTX_TMPL_LO, [⟨FHE_CTX_TMPL_LO.ADDR, .rw, 0⟩]⟩,
  ⟨FHE_CTX_TMPL_HI, [⟨FHE_CTX_TMPL_HI.ADDR, .rw, 0⟩]⟩,
  ⟨FHE_CTX_TCFG, [⟨FHE_CTX_TCFG.TYPE, .rw, 0⟩, ⟨FHE_CTX_TCFG.TLEN, .rw, 0xe⟩]⟩,
  ⟨FHE_CTX_EAXC, [⟨FHE_CTX_EAXC.BASE, .rw, 0⟩]⟩,
  ⟨FHE_CTX_STAT, [⟨FHE_CTX_STAT.SFN, .ro, 0⟩, ⟨FHE_CTX_STAT.SLOT, .ro, 0⟩, ⟨FHE_CTX_STAT.SYMBOL, .ro, 0⟩, ⟨FHE_CTX_STAT.OVERRUN, .w1c, 0⟩, ⟨FHE_CTX_STAT.ACTIVE, .ro, 0⟩]⟩,
  ⟨FHE_CTX_STRIDE, [⟨FHE_CTX_STRIDE.STRIDE, .ro, 0x2f000⟩]⟩,
  ⟨FHE_CTX_CNT0, [⟨FHE_CTX_CNT0.TX_MISS, .ro, 0⟩, ⟨FHE_CTX_CNT0.CP_MISS, .ro, 0⟩]⟩,
  ⟨FHE_CTX_CNT1, [⟨FHE_CTX_CNT1.LATE_START, .ro, 0⟩]⟩,
  ⟨FHE_CTX_CNT2, [⟨FHE_CTX_CNT2.COMP_FLUSH, .ro, 0⟩]⟩]
def rowsOfFHE : List RegRow := rowsOfFHE0 ++ rowsOfFHE1 ++ rowsOfFHE2
def rowsOfPRA0 : List RegRow := [
  ⟨PRA_CTL, [⟨PRA_CTL.CLR_CNT, .w1s, 0⟩, ⟨PRA_CTL.EN, .rw, 0⟩]⟩,
  ⟨PRA_DROP, [⟨PRA_DROP.NO_CFG, .ro, 0⟩, ⟨PRA_DROP.BAD_SECTION, .ro, 0⟩]⟩,
  ⟨PRA_LOAD, [⟨PRA_LOAD.RETIRED, .ro, 0⟩, ⟨PRA_LOAD.LOAD, .ro, 0⟩]⟩,
  ⟨PRA_CFG_CFG, [⟨PRA_CFG_CFG.EN, .rw, 0⟩, ⟨PRA_CFG_CFG.CELL, .rw, 0⟩, ⟨PRA_CFG_CFG.FILTER, .rw, 1⟩, ⟨PRA_CFG_CFG.FMT, .rw, 0⟩, ⟨PRA_CFG_CFG.NCS, .rw, 0⟩]⟩,
  ⟨PRA_CFG_PAT, [⟨PRA_CFG_PAT.PERIOD, .rw, 0⟩, ⟨PRA_CFG_PAT.Y, .rw, 0⟩, ⟨PRA_CFG_PAT.SECOND, .rw, 0⟩, ⟨PRA_CFG_PAT.START_SYM, .rw, 0⟩, ⟨PRA_CFG_PAT.N_TD, .rw, 1⟩, ⟨PRA_CFG_PAT.NBUF, .rw, 1⟩, ⟨PRA_CFG_PAT.MASK_HI, .rw, 0⟩]⟩,
  ⟨PRA_CFG_MASK, [⟨PRA_CFG_MASK.MASK, .rw, 0⟩]⟩,
  ⟨PRA_CFG_STRM, [⟨PRA_CFG_STRM.STRM, .rw, 0⟩]⟩,
  ⟨PRA_CFG_ROOT, [⟨PRA_CFG_ROOT.ROOT0, .rw, 0⟩]⟩,
  ⟨PRA_CFG_GATE, [⟨PRA_CFG_GATE.GATE, .rw, 0x800⟩, ⟨PRA_CFG_GATE.MIN_LOG2, .rw, 0⟩]⟩,
  ⟨PRA_CFG_CAND_LO, [⟨PRA_CFG_CAND_LO.ADDR, .rw, 0⟩]⟩,
  ⟨PRA_CFG_CAND_HI, [⟨PRA_CFG_CAND_HI.ADDR, .rw, 0⟩]⟩,
  ⟨PRA_CFG_SEM, [⟨PRA_CFG_SEM.V, .rw, 0⟩, ⟨PRA_CFG_SEM.CLUSTER, .rw, 0⟩, ⟨PRA_CFG_SEM.INDEX, .rw, 0⟩]⟩]
def rowsOfPRA1 : List RegRow := [
  ⟨PRA_CFG_STAT, [⟨PRA_CFG_STAT.SFN, .ro, 0⟩, ⟨PRA_CFG_STAT.SLOT, .ro, 0⟩, ⟨PRA_CFG_STAT.TD, .ro, 0⟩, ⟨PRA_CFG_STAT.OVERRUN, .w1c, 0⟩, ⟨PRA_CFG_STAT.WR_FAULT, .w1c, 0⟩, ⟨PRA_CFG_STAT.NO_SEARCHER, .ro, 0⟩, ⟨PRA_CFG_STAT.SRCH, .ro, 0⟩, ⟨PRA_CFG_STAT.ERR, .ro, 0⟩, ⟨PRA_CFG_STAT.ACTIVE, .ro, 0⟩]⟩,
  ⟨PRA_CFG_CNT0, [⟨PRA_CFG_CNT0.OCCASIONS, .ro, 0⟩, ⟨PRA_CFG_CNT0.CAND_DROP, .ro, 0⟩]⟩,
  ⟨PRA_CFG_CNT1, [⟨PRA_CFG_CNT1.LATE, .ro, 0⟩, ⟨PRA_CFG_CNT1.EARLY, .ro, 0⟩]⟩]
def rowsOfPRA : List RegRow := rowsOfPRA0 ++ rowsOfPRA1
def rowsOfDEC : List RegRow := [
  ⟨DEC_CTL, [⟨DEC_CTL.CLR_CNT, .w1s, 0⟩, ⟨DEC_CTL.EN, .rw, 0⟩]⟩,
  ⟨DEC_STAT, [⟨DEC_STAT.POLAR_BUSY, .ro, 0⟩, ⟨DEC_STAT.POLAR_RET, .ro, 0⟩, ⟨DEC_STAT.LD_BUSY, .ro, 0⟩]⟩,
  ⟨DEC_SPARE, [⟨DEC_SPARE.SPARE_BAD, .ro, 0⟩, ⟨DEC_SPARE.SPARE_USED, .ro, 0⟩]⟩,
  ⟨DEC_CNT0, [⟨DEC_CNT0.BLOCKS, .ro, 0⟩]⟩,
  ⟨DEC_CNT1, [⟨DEC_CNT1.FAILS, .ro, 0⟩]⟩,
  ⟨DEC_CNT2, [⟨DEC_CNT2.EARLY, .ro, 0⟩]⟩,
  ⟨DEC_LMAP, [⟨DEC_LMAP.STATE, .ro, 0⟩, ⟨DEC_LMAP.PHYS, .ro, 0⟩]⟩,
  ⟨DEC_PSHARE, [⟨DEC_PSHARE.MAXSH, .rw, 0⟩, ⟨DEC_PSHARE.DED, .rw, 0⟩]⟩]
def rowsOfENC : List RegRow := [
  ⟨ENC_CTL, [⟨ENC_CTL.CLR_CNT, .w1s, 0⟩, ⟨ENC_CTL.EN, .rw, 0⟩]⟩,
  ⟨ENC_STAT, [⟨ENC_STAT.RETIRED, .ro, 0⟩, ⟨ENC_STAT.BUSY, .ro, 0⟩]⟩,
  ⟨ENC_CNT, [⟨ENC_CNT.JOBS, .ro, 0⟩]⟩]
def rowsOfGTH : List RegRow := [
  ⟨GTH_CTL, [⟨GTH_CTL.CLR_CNT, .w1s, 0⟩, ⟨GTH_CTL.EN, .rw, 0⟩]⟩,
  ⟨GTH_STAT, [⟨GTH_STAT.ACTIVE, .ro, 0⟩, ⟨GTH_STAT.OUTST, .ro, 0⟩]⟩,
  ⟨GTH_MAXOUT, [⟨GTH_MAXOUT.N, .rw, 0x200⟩]⟩,
  ⟨GTH_CNT0, [⟨GTH_CNT0.ROWS, .ro, 0⟩]⟩,
  ⟨GTH_CNT1, [⟨GTH_CNT1.REMOTE, .ro, 0⟩]⟩,
  ⟨GTH_CNT2, [⟨GTH_CNT2.BAGS, .ro, 0⟩]⟩,
  ⟨GTH_HASH1_LO, [⟨GTH_HASH1_LO.M_LO, .ro, 0x7f4a7c15⟩]⟩,
  ⟨GTH_HASH1_HI, [⟨GTH_HASH1_HI.M_HI, .ro, 0x9e3779b9⟩]⟩,
  ⟨GTH_HASH2_LO, [⟨GTH_HASH2_LO.M_LO, .ro, 0x27d4eb4f⟩]⟩,
  ⟨GTH_HASH2_HI, [⟨GTH_HASH2_HI.M_HI, .ro, 0xc2b2ae3d⟩]⟩,
  ⟨GTH_HASH3_LO, [⟨GTH_HASH3_LO.M_LO, .ro, 0x6659fd93⟩]⟩,
  ⟨GTH_HASH3_HI, [⟨GTH_HASH3_HI.M_HI, .ro, 0xd6e8feb8⟩]⟩]
def rowsOfPTN0 : List RegRow := [
  ⟨PTN_CTL, [⟨PTN_CTL.TIME_OWNER, .rwl, 0⟩, ⟨PTN_CTL.MGR, .rwl, 0⟩]⟩,
  ⟨PTN_STAT, [⟨PTN_STAT.EN, .ro, 0⟩]⟩,
  ⟨PTN_CFG, [⟨PTN_CFG.EN, .rw, 0⟩, ⟨PTN_CFG.ERR, .ro, 0⟩, ⟨PTN_CFG.DEPTH, .rw, 2⟩, ⟨PTN_CFG.MIGR, .rw, 0⟩]⟩,
  ⟨PTN_QUANT, [⟨PTN_QUANT.INHERIT, .rw, 0x14⟩, ⟨PTN_QUANT.QUANTUM, .rw, 0x64⟩]⟩,
  ⟨PTN_TILE_LO, [⟨PTN_TILE_LO.TILES, .rw, 0⟩]⟩,
  ⟨PTN_TILE_HI, [⟨PTN_TILE_HI.TILES, .rw, 0⟩]⟩,
  ⟨PTN_PCH, [⟨PTN_PCH.PCH, .rw, 0⟩]⟩,
  ⟨PTN_WAYS, [⟨PTN_WAYS.WAYS, .rw, 0⟩]⟩,
  ⟨PTN_SEM, [⟨PTN_SEM.V, .rw, 0⟩, ⟨PTN_SEM.MUTEX_N, .rw, 0⟩, ⟨PTN_SEM.LAST, .rw, 0⟩, ⟨PTN_SEM.FIRST, .rw, 0⟩]⟩,
  ⟨PTN_TRG, [⟨PTN_TRG.V, .rw, 0⟩, ⟨PTN_TRG.LAST, .rw, 0⟩, ⟨PTN_TRG.FIRST, .rw, 0⟩]⟩,
  ⟨PTN_TMEM0, [⟨PTN_TMEM0.YCNT, .rw, 0⟩, ⟨PTN_TMEM0.YBASE, .rw, 0⟩, ⟨PTN_TMEM0.XCNT, .rw, 0⟩, ⟨PTN_TMEM0.XBASE, .rw, 0⟩]⟩,
  ⟨PTN_TMEM1, [⟨PTN_TMEM1.FCNT, .rw, 0⟩, ⟨PTN_TMEM1.FBASE, .rw, 0⟩]⟩]
def rowsOfPTN1 : List RegRow := [
  ⟨PTN_CAIRN_LO, [⟨PTN_CAIRN_LO.ADDR, .rw, 0⟩]⟩,
  ⟨PTN_CAIRN_HI, [⟨PTN_CAIRN_HI.ADDR, .rw, 0⟩]⟩,
  ⟨PTN_SLOT, [⟨PTN_SLOT.SLOT, .ro, 0x36000⟩]⟩,
  ⟨PTN_PSTAT, [⟨PTN_PSTAT.CAIRNS, .ro, 0⟩, ⟨PTN_PSTAT.CAIRN_FAULT, .w1c, 0⟩]⟩,
  ⟨PTN_CNT0, [⟨PTN_CNT0.PREEMPTS, .ro, 0⟩]⟩,
  ⟨PTN_CNT1, [⟨PTN_CNT1.INHERITS, .ro, 0⟩, ⟨PTN_CNT1.INHERIT_TO, .ro, 0⟩]⟩,
  ⟨PTN_INH_NS, [⟨PTN_INH_NS.NS, .ro, 0⟩]⟩,
  ⟨PTN_MAXSAVE, [⟨PTN_MAXSAVE.NS, .ro, 0⟩]⟩,
  ⟨PTN_PCTL, [⟨PTN_PCTL.CLR_CNT, .w1s, 0⟩]⟩]
def rowsOfPTN : List RegRow := rowsOfPTN0 ++ rowsOfPTN1
def rowsOfCLU : List RegRow := [
  ⟨CLU_CTL, [⟨CLU_CTL.CLR_CNT, .w1s, 0⟩, ⟨CLU_CTL.XSTEAL_EN, .rw, 0⟩, ⟨CLU_CTL.STEAL_EN, .rw, 1⟩]⟩,
  ⟨CLU_STEAL_WM, [⟨CLU_STEAL_WM.WM, .rw, 8⟩]⟩,
  ⟨CLU_STEALCNT, [⟨CLU_STEALCNT.XSTEALS, .ro, 0⟩, ⟨CLU_STEALCNT.STEALS, .ro, 0⟩]⟩,
  ⟨CLU_BIV, [⟨CLU_BIV.RESV, .ro, 0⟩, ⟨CLU_BIV.PARKED, .ro, 0⟩]⟩,
  ⟨CLU_BIVCNT, [⟨CLU_BIVCNT.DROPPED, .ro, 0⟩]⟩,
  ⟨CLU_QDEPTH, [⟨CLU_QDEPTH.SAVED, .ro, 0⟩, ⟨CLU_QDEPTH.WAITING, .ro, 0⟩]⟩,
  ⟨CLU_SEM, [⟨CLU_SEM.JOB_HOLDER, .ro, 0⟩, ⟨CLU_SEM.HOLDER, .ro, 0⟩, ⟨CLU_SEM.HELD, .ro, 0⟩, ⟨CLU_SEM.MUTEX, .ro, 0⟩, ⟨CLU_SEM.VALUE, .rw, 0⟩]⟩]
def rowsOfHBM : List RegRow := [
  ⟨HBM_CTL, [⟨HBM_CTL.CLR_CNT, .w1s, 0⟩, ⟨HBM_CTL.EN, .rw, 0⟩]⟩,
  ⟨HBM_STAT, [⟨HBM_STAT.TEMP, .ro, 0⟩, ⟨HBM_STAT.RATE, .ro, 0⟩, ⟨HBM_STAT.SELF_REFRESH, .ro, 0⟩, ⟨HBM_STAT.TRAINED, .ro, 0⟩, ⟨HBM_STAT.TRAIN_FAIL, .ro, 0⟩]⟩,
  ⟨HBM_CNT0, [⟨HBM_CNT0.CORRECTED, .ro, 0⟩]⟩,
  ⟨HBM_CNT1, [⟨HBM_CNT1.PERSIST, .ro, 0⟩, ⟨HBM_CNT1.REPLAYED, .ro, 0⟩]⟩,
  ⟨HBM_CNT2, [⟨HBM_CNT2.REVOKES, .ro, 0⟩]⟩,
  ⟨HBM_CNT3, [⟨HBM_CNT3.HOLDCUT, .ro, 0⟩]⟩,
  ⟨HBM_PCH, [⟨HBM_PCH.STATE, .ro, 0⟩, ⟨HBM_PCH.OWNED, .ro, 0⟩, ⟨HBM_PCH.PTN, .ro, 0⟩, ⟨HBM_PCH.BUCKET, .ro, 0⟩]⟩]
def rowsOfMMU : List RegRow := [
  ⟨MMU_ROOT_LO, [⟨MMU_ROOT_LO.ADDR, .rw, 0⟩]⟩,
  ⟨MMU_ROOT_HI, [⟨MMU_ROOT_HI.ADDR, .rw, 0⟩]⟩,
  ⟨MMU_FR_LO, [⟨MMU_FR_LO.ADDR, .rw, 0⟩]⟩,
  ⟨MMU_FR_HI, [⟨MMU_FR_HI.ADDR, .rw, 0⟩]⟩,
  ⟨MMU_FR_CFG, [⟨MMU_FR_CFG.EN, .rw, 0⟩, ⟨MMU_FR_CFG.LOG2SIZE, .rw, 6⟩]⟩,
  ⟨MMU_FR_HEAD, [⟨MMU_FR_HEAD.HEAD, .rw, 0⟩]⟩,
  ⟨MMU_FR_TAIL, [⟨MMU_FR_TAIL.TAIL, .ro, 0⟩]⟩,
  ⟨MMU_RESOLVE, [⟨MMU_RESOLVE.FAIL, .wo, 0⟩, ⟨MMU_RESOLVE.SEQ, .wo, 0⟩]⟩,
  ⟨MMU_INV, [⟨MMU_INV.SCOPE, .wo, 0⟩]⟩,
  ⟨MMU_INV_VA_LO, [⟨MMU_INV_VA_LO.VA, .rw, 0⟩]⟩,
  ⟨MMU_INV_VA_HI, [⟨MMU_INV_VA_HI.VA, .rw, 0⟩]⟩,
  ⟨MMU_STAT, [⟨MMU_STAT.INV_BUSY, .ro, 0⟩, ⟨MMU_STAT.FR_FULL, .ro, 0⟩, ⟨MMU_STAT.ERR, .ro, 0⟩, ⟨MMU_STAT.OUTST, .ro, 0⟩, ⟨MMU_STAT.LOST, .ro, 0⟩]⟩]
def rowsOfSYC : List RegRow := [
  ⟨SYC_MAINT, [⟨SYC_MAINT.BUSY, .ro, 0⟩, ⟨SYC_MAINT.PTN, .rw, 0⟩, ⟨SYC_MAINT.OP, .wo, 0⟩]⟩,
  ⟨SYC_STAT, [⟨SYC_STAT.LOST, .ro, 0⟩, ⟨SYC_STAT.CORRECTED, .ro, 0⟩]⟩,
  ⟨SYC_ERRADDR_LO, [⟨SYC_ERRADDR_LO.ADDR, .ro, 0⟩]⟩,
  ⟨SYC_ERRADDR_HI, [⟨SYC_ERRADDR_HI.ADDR, .ro, 0⟩]⟩]
def rowsOfYAL0 : List RegRow := [
  ⟨YAL_CTL, [⟨YAL_CTL.HOP_MAX, .rw, 8⟩, ⟨YAL_CTL.CLR_CNT, .w1s, 0⟩, ⟨YAL_CTL.EN, .rw, 0⟩]⟩,
  ⟨YAL_TMO, [⟨YAL_TMO.TMO, .rw, 0x3e8⟩]⟩,
  ⟨YAL_GEXP, [⟨YAL_GEXP.GEXP, .rw, 0⟩]⟩,
  ⟨YAL_IEXP, [⟨YAL_IEXP.PCH, .rw, 0⟩]⟩,
  ⟨YAL_IEXP4, [⟨YAL_IEXP4.MSG, .rw, 0⟩, ⟨YAL_IEXP4.CLUSTER, .rw, 0⟩, ⟨YAL_IEXP4.TILE, .rw, 0⟩]⟩,
  ⟨YAL_LINK_CTL, [⟨YAL_LINK_CTL.LANE_DIS, .rw, 0⟩, ⟨YAL_LINK_CTL.RETRAIN, .w1s, 0⟩, ⟨YAL_LINK_CTL.EN, .rw, 0⟩]⟩,
  ⟨YAL_LINK_STAT, [⟨YAL_LINK_STAT.PEER_ID_SET, .ro, 0⟩, ⟨YAL_LINK_STAT.PEER_LINK, .ro, 0⟩, ⟨YAL_LINK_STAT.PEER_POS, .ro, 0⟩, ⟨YAL_LINK_STAT.PEER_CHIP, .ro, 0⟩, ⟨YAL_LINK_STAT.LANES, .ro, 0⟩, ⟨YAL_LINK_STAT.STATE, .ro, 0⟩]⟩,
  ⟨YAL_LINK_CRED0, [⟨YAL_LINK_CRED0.VC4, .rw, 0x30⟩, ⟨YAL_LINK_CRED0.VC3, .rw, 8⟩, ⟨YAL_LINK_CRED0.VC2, .rw, 0x30⟩, ⟨YAL_LINK_CRED0.VC1, .rw, 0x20⟩]⟩,
  ⟨YAL_LINK_CRED1, [⟨YAL_LINK_CRED1.VC7, .rw, 0⟩, ⟨YAL_LINK_CRED1.VC6, .rw, 0x10⟩, ⟨YAL_LINK_CRED1.VC5, .rw, 0x18⟩]⟩,
  ⟨YAL_LINK_CNT0, [⟨YAL_LINK_CNT0.REPLAYS, .ro, 0⟩, ⟨YAL_LINK_CNT0.RETRAINS, .ro, 0⟩]⟩,
  ⟨YAL_LINK_CNT1, [⟨YAL_LINK_CNT1.FEC_UNCORR, .ro, 0⟩]⟩,
  ⟨YAL_MQ_LO, [⟨YAL_MQ_LO.ADDR, .rw, 0⟩]⟩]
def rowsOfYAL1 : List RegRow := [
  ⟨YAL_MQ_HI, [⟨YAL_MQ_HI.ADDR, .rw, 0⟩]⟩,
  ⟨YAL_MQ_CFG, [⟨YAL_MQ_CFG.EN, .rw, 0⟩, ⟨YAL_MQ_CFG.IRQ_EN, .rw, 0⟩, ⟨YAL_MQ_CFG.LOG2SIZE, .rw, 6⟩]⟩,
  ⟨YAL_MQ_HEAD, [⟨YAL_MQ_HEAD.HEAD, .rw, 0⟩]⟩,
  ⟨YAL_MQ_TAIL, [⟨YAL_MQ_TAIL.TAIL, .ro, 0⟩]⟩,
  ⟨YAL_MQ_MSI, [⟨YAL_MQ_MSI.MSI, .rw, 0⟩]⟩,
  ⟨YAL_MQ_STAT, [⟨YAL_MQ_STAT.LOST, .ro, 0⟩, ⟨YAL_MQ_STAT.WRITE_FAULT, .w1c, 0⟩]⟩,
  ⟨YAL_RTE_A, [⟨YAL_RTE_A.V, .rw, 0⟩, ⟨YAL_RTE_A.HOPS, .rw, 0⟩, ⟨YAL_RTE_A.PATH, .rw, 0⟩]⟩,
  ⟨YAL_RTE_B, [⟨YAL_RTE_B.V, .rw, 0⟩, ⟨YAL_RTE_B.HOPS, .rw, 0⟩, ⟨YAL_RTE_B.PATH, .rw, 0⟩]⟩]
def rowsOfYAL : List RegRow := rowsOfYAL0 ++ rowsOfYAL1
def rowsOfDGT0 : List RegRow := [
  ⟨DGT_CTL, [⟨DGT_CTL.CLR_CNT, .w1s, 0⟩]⟩,
  ⟨DGT_STAT, [⟨DGT_STAT.HELD, .ro, 0⟩]⟩,
  ⟨DGT_ORPHAN, [⟨DGT_ORPHAN.COUNT, .ro, 0⟩]⟩,
  ⟨DGT_SCR_LO, [⟨DGT_SCR_LO.ADDR, .rw, 0⟩]⟩,
  ⟨DGT_SCR_HI, [⟨DGT_SCR_HI.ADDR, .rw, 0⟩]⟩,
  ⟨DGT_SCR_CFG, [⟨DGT_SCR_CFG.EN, .rw, 0⟩, ⟨DGT_SCR_CFG.LOG2SIZE, .rw, 0xc⟩]⟩,
  ⟨DGT_SCR_USED, [⟨DGT_SCR_USED.BYTES, .ro, 0⟩]⟩,
  ⟨DGT_ROPE, [⟨DGT_ROPE.V, .rw, 0⟩, ⟨DGT_ROPE.PEER_PTN, .rw, 0⟩, ⟨DGT_ROPE.PEER_CHIP, .rw, 0⟩]⟩,
  ⟨DGT_ROPE_TMO, [⟨DGT_ROPE_TMO.TMO, .rw, 0x64⟩]⟩,
  ⟨DGT_DCNT, [⟨DGT_DCNT.CONFLICTS, .ro, 0⟩]⟩,
  ⟨DGT_DIGESTS, [⟨DGT_DIGESTS.COUNT, .ro, 0⟩]⟩,
  ⟨DGT_CHUNKS, [⟨DGT_CHUNKS.COUNT, .ro, 0⟩]⟩]
def rowsOfDGT1 : List RegRow := [
  ⟨DGT_RCNT, [⟨DGT_RCNT.MISMATCHES, .ro, 0⟩, ⟨DGT_RCNT.TIMEOUTS, .ro, 0⟩]⟩]
def rowsOfDGT : List RegRow := rowsOfDGT0 ++ rowsOfDGT1
def rowsOfBBX0 : List RegRow := [
  ⟨BBX_CTL, [⟨BBX_CTL.SWITCH, .w1s, 0⟩, ⟨BBX_CTL.CLR_CNT, .w1s, 0⟩, ⟨BBX_CTL.EN, .rw, 1⟩]⟩,
  ⟨BBX_STAT, [⟨BBX_STAT.STATE, .ro, 0⟩, ⟨BBX_STAT.CUR, .ro, 0⟩, ⟨BBX_STAT.STAGE_LOST, .ro, 0⟩, ⟨BBX_STAT.RET_ERR, .w1c, 0⟩, ⟨BBX_STAT.STAGED, .ro, 0⟩, ⟨BBX_STAT.LOGEND, .ro, 1⟩]⟩,
  ⟨BBX_SEQ_LO, [⟨BBX_SEQ_LO.SEQ, .ro, 0⟩]⟩,
  ⟨BBX_SEQ_HI, [⟨BBX_SEQ_HI.SEQ, .ro, 0⟩]⟩,
  ⟨BBX_RSEQ, [⟨BBX_RSEQ.RSEQ, .ro, 0⟩]⟩,
  ⟨BBX_CNT, [⟨BBX_CNT.DROPPED, .ro, 0⟩, ⟨BBX_CNT.TORN, .ro, 0⟩]⟩,
  ⟨BBX_MASK, [⟨BBX_MASK.MASK, .rw, 0x1988⟩]⟩,
  ⟨BBX_BANK0, [⟨BBX_BANK0.OFFSET, .ro, 0⟩]⟩,
  ⟨BBX_BANK1, [⟨BBX_BANK1.OFFSET, .ro, 0⟩]⟩,
  ⟨BBX_BKT0, [⟨BBX_BKT0.LEAK, .rw, 0x3e8⟩, ⟨BBX_BKT0.WT_B, .rw, 0⟩, ⟨BBX_BKT0.WT_A, .rw, 0x20⟩]⟩,
  ⟨BBX_BKT1, [⟨BBX_BKT1.LEAK, .rw, 0x3e8⟩, ⟨BBX_BKT1.WT_B, .rw, 0⟩, ⟨BBX_BKT1.WT_A, .rw, 0x20⟩]⟩,
  ⟨BBX_BKT2, [⟨BBX_BKT2.LEAK, .rw, 0x3e8⟩, ⟨BBX_BKT2.WT_B, .rw, 0⟩, ⟨BBX_BKT2.WT_A, .rw, 0x20⟩]⟩]
def rowsOfBBX1 : List RegRow := [
  ⟨BBX_BKT3, [⟨BBX_BKT3.LEAK, .rw, 0x3e8⟩, ⟨BBX_BKT3.WT_B, .rw, 0⟩, ⟨BBX_BKT3.WT_A, .rw, 0x20⟩]⟩,
  ⟨BBX_BKT4, [⟨BBX_BKT4.LEAK, .rw, 0x3e8⟩, ⟨BBX_BKT4.WT_B, .rw, 0⟩, ⟨BBX_BKT4.WT_A, .rw, 0x20⟩]⟩,
  ⟨BBX_BKT5, [⟨BBX_BKT5.LEAK, .rw, 0x64⟩, ⟨BBX_BKT5.WT_B, .rw, 0x40⟩, ⟨BBX_BKT5.WT_A, .rw, 1⟩]⟩,
  ⟨BBX_BKT6, [⟨BBX_BKT6.LEAK, .rw, 0xa⟩, ⟨BBX_BKT6.WT_B, .rw, 0⟩, ⟨BBX_BKT6.WT_A, .rw, 8⟩]⟩,
  ⟨BBX_BKT7, [⟨BBX_BKT7.LEAK, .rw, 0xa⟩, ⟨BBX_BKT7.WT_B, .rw, 0⟩, ⟨BBX_BKT7.WT_A, .rw, 8⟩]⟩,
  ⟨BBX_LVLSEL, [⟨BBX_LVLSEL.KIND, .rw, 0⟩, ⟨BBX_LVLSEL.INDEX, .rw, 0⟩]⟩,
  ⟨BBX_LVL, [⟨BBX_LVL.LEVEL, .ro, 0⟩]⟩,
  ⟨BBX_RETIRE, [⟨BBX_RETIRE.GO, .wo, 0⟩, ⟨BBX_RETIRE.KIND, .wo, 0⟩, ⟨BBX_RETIRE.INDEX, .wo, 0⟩]⟩,
  ⟨BBX_SWREC, [⟨BBX_SWREC.DATA, .rw, 0⟩]⟩,
  ⟨BBX_SWCMD, [⟨BBX_SWCMD.GO, .w1s, 0⟩, ⟨BBX_SWCMD.EVENT, .rw, 0⟩]⟩]
def rowsOfBBX : List RegRow := rowsOfBBX0 ++ rowsOfBBX1
def rowsOfPWR : List RegRow := [
  ⟨PWR_LIMIT, [⟨PWR_LIMIT.W, .rw, 0x1e0⟩]⟩,
  ⟨PWR_STAT, [⟨PWR_STAT.SAG, .ro, 0⟩, ⟨PWR_STAT.FLOORS, .ro, 0⟩, ⟨PWR_STAT.POWER, .ro, 0⟩]⟩,
  ⟨PWR_SAG, [⟨PWR_SAG.RST, .rw, 9⟩, ⟨PWR_SAG.WARN, .rw, 4⟩]⟩,
  ⟨PWR_STOP, [⟨PWR_STOP.GO, .w1s, 0⟩, ⟨PWR_STOP.KEEP, .rw, 0⟩]⟩,
  ⟨PWR_DOM_CTL, [⟨PWR_DOM_CTL.REQ, .wo, 0⟩]⟩,
  ⟨PWR_DOM_STAT, [⟨PWR_DOM_STAT.ERR, .ro, 0⟩, ⟨PWR_DOM_STAT.PENDING_OFF, .ro, 0⟩, ⟨PWR_DOM_STAT.PENDING_ON, .ro, 0⟩, ⟨PWR_DOM_STAT.STATE, .ro, 3⟩]⟩]
def rowsOfCLK : List RegRow := [
  ⟨CLK_CL_OP, [⟨CLK_CL_OP.TARGET, .ro, 3⟩, ⟨CLK_CL_OP.PEND, .ro, 0⟩, ⟨CLK_CL_OP.BUSY, .ro, 0⟩, ⟨CLK_CL_OP.CUR, .ro, 3⟩, ⟨CLK_CL_OP.REQ, .rw, 3⟩]⟩,
  ⟨CLK_VSETTLE, [⟨CLK_VSETTLE.US, .rw, 5⟩]⟩,
  ⟨CLK_STAT, [⟨CLK_STAT.LOSS, .ro, 0⟩]⟩]
def rowsOfOAS : List RegRow := [
  ⟨OAS_CTL, [⟨OAS_CTL.ALARM_EN, .rw, 0⟩]⟩,
  ⟨OAS_RSTCAUSE, [⟨OAS_RSTCAUSE.CAUSE, .ro, 1⟩]⟩,
  ⟨OAS_RTC_SUB, [⟨OAS_RTC_SUB.SUB, .ro, 0⟩]⟩,
  ⟨OAS_RTC_LO, [⟨OAS_RTC_LO.SEC, .rw, 0⟩]⟩,
  ⟨OAS_RTC_HI, [⟨OAS_RTC_HI.SEC, .rw, 0⟩]⟩,
  ⟨OAS_ALARM_LO, [⟨OAS_ALARM_LO.SEC, .rw, 0⟩]⟩,
  ⟨OAS_ALARM_HI, [⟨OAS_ALARM_HI.SEC, .rw, 0⟩]⟩]
def rowsOfSEC0 : List RegRow := [
  ⟨SEC_BOOT, [⟨SEC_BOOT.STATE, .ro, 0⟩, ⟨SEC_BOOT.SLOT, .ro, 3⟩, ⟨SEC_BOOT.MODE, .ro, 0⟩, ⟨SEC_BOOT.REASON_A, .ro, 0⟩, ⟨SEC_BOOT.REASON_B, .ro, 0⟩, ⟨SEC_BOOT.TRIES, .ro, 0⟩, ⟨SEC_BOOT.FAIL_AT, .ro, 0⟩]⟩,
  ⟨SEC_STAT, [⟨SEC_STAT.BUSY, .ro, 0⟩, ⟨SEC_STAT.CAL_OK, .ro, 0⟩, ⟨SEC_STAT.DEBUG, .ro, 0⟩, ⟨SEC_STAT.TRNG_OK, .ro, 0⟩, ⟨SEC_STAT.OWNER_COPY, .ro, 0⟩, ⟨SEC_STAT.CONFIRMED, .ro, 0⟩, ⟨SEC_STAT.FLOOR_MM, .w1c, 0⟩]⟩,
  ⟨SEC_CTL, [⟨SEC_CTL.COMMIT, .w1s, 0⟩, ⟨SEC_CTL.CONFIRM, .w1s, 0⟩]⟩,
  ⟨SEC_SVN, [⟨SEC_SVN.VALUE, .ro, 0⟩]⟩,
  ⟨SEC_OWNER_ID, [⟨SEC_OWNER_ID.VALUE, .ro, 0⟩]⟩,
  ⟨SEC_OWNER_SEQ, [⟨SEC_OWNER_SEQ.VALUE, .ro, 0⟩]⟩,
  ⟨SEC_CAL_SVN, [⟨SEC_CAL_SVN.VALUE, .ro, 0⟩]⟩,
  ⟨SEC_IMG_FLOOR, [⟨SEC_IMG_FLOOR.VALUE, .ro, 0⟩]⟩,
  ⟨SEC_OWN_FLOOR, [⟨SEC_OWN_FLOOR.VALUE, .ro, 0⟩]⟩,
  ⟨SEC_CAL_FLOOR, [⟨SEC_CAL_FLOOR.VALUE, .ro, 0⟩]⟩,
  ⟨SEC_DEVID, [⟨SEC_DEVID.WORD, .ro, 0⟩]⟩,
  ⟨SEC_DEVPUB, [⟨SEC_DEVPUB.WORD, .ro, 0⟩]⟩]
def rowsOfSEC1 : List RegRow := [
  ⟨SEC_ROOTHASH, [⟨SEC_ROOTHASH.WORD, .ro, 0⟩]⟩,
  ⟨SEC_OWNHASH, [⟨SEC_OWNHASH.WORD, .ro, 0⟩]⟩,
  ⟨SEC_MEAS, [⟨SEC_MEAS.WORD, .ro, 0⟩]⟩,
  ⟨SEC_EXT, [⟨SEC_EXT.WORD, .rw, 0⟩]⟩,
  ⟨SEC_EXTCMD, [⟨SEC_EXTCMD.GO, .w1s, 0⟩, ⟨SEC_EXTCMD.M, .rw, 4⟩]⟩,
  ⟨SEC_TRNG_STAT, [⟨SEC_TRNG_STAT.VALID, .ro, 0⟩, ⟨SEC_TRNG_STAT.START, .ro, 1⟩]⟩,
  ⟨SEC_TRNG_DATA, [⟨SEC_TRNG_DATA.DATA, .ro, 0⟩]⟩,
  ⟨SEC_MB_CMD, [⟨SEC_MB_CMD.OP, .wo, 0⟩, ⟨SEC_MB_CMD.N_DIG, .wo, 0⟩]⟩,
  ⟨SEC_MB_STAT, [⟨SEC_MB_STAT.BUSY, .ro, 0⟩, ⟨SEC_MB_STAT.ERR, .ro, 0⟩, ⟨SEC_MB_STAT.PASS, .ro, 0⟩]⟩,
  ⟨SEC_MB_DATA, [⟨SEC_MB_DATA.DATA, .rw, 0⟩]⟩,
  ⟨SEC_REPORT, [⟨SEC_REPORT.WORD, .ro, 0⟩]⟩]
def rowsOfSEC : List RegRow := rowsOfSEC0 ++ rowsOfSEC1
def rowsOfACI : List RegRow := [
  ⟨ACI_CTL, [⟨ACI_CTL.RAS_ID, .rw, 0⟩, ⟨ACI_CTL.PCH_CHK, .rw, 0⟩]⟩,
  ⟨ACI_CERR, [⟨ACI_CERR.LOST, .ro, 0⟩, ⟨ACI_CERR.CORRECTED, .ro, 0⟩]⟩,
  ⟨ACI_RASADDR_LO, [⟨ACI_RASADDR_LO.ADDR, .ro, 0⟩]⟩,
  ⟨ACI_RASADDR_HI, [⟨ACI_RASADDR_HI.CODE, .ro, 0⟩, ⟨ACI_RASADDR_HI.ADDR, .ro, 0⟩]⟩,
  ⟨ACI_MSIDROP, [⟨ACI_MSIDROP.COUNT, .ro, 0⟩]⟩,
  ⟨ACI_HART_CTL, [⟨ACI_HART_CTL.START, .w1s, 0⟩, ⟨ACI_HART_CTL.RESET, .w1s, 0⟩, ⟨ACI_HART_CTL.PTN, .rw, 0⟩]⟩,
  ⟨ACI_HART_RVEC, [⟨ACI_HART_RVEC.RVEC, .rw, 0⟩]⟩,
  ⟨ACI_HART_RVHI, [⟨ACI_HART_RVHI.RVEC, .rw, 0⟩]⟩,
  ⟨ACI_HART_STAT, [⟨ACI_HART_STAT.WAYOFF, .ro, 0⟩, ⟨ACI_HART_STAT.STATE, .ro, 0⟩]⟩]
def rowsOfPCI : List RegRow := [
  ⟨PCI_CTL, [⟨PCI_CTL.CTO, .rw, 0x32⟩, ⟨PCI_CTL.PERST_RST, .rw, 1⟩]⟩,
  ⟨PCI_STAT, [⟨PCI_STAT.UP, .ro, 0⟩, ⟨PCI_STAT.WIDTH, .ro, 0⟩, ⟨PCI_STAT.RATE, .ro, 0⟩]⟩,
  ⟨PCI_FN, [⟨PCI_FN.WIN_LOG2, .rw, 0x14⟩, ⟨PCI_FN.PTN, .rw, 0⟩]⟩,
  ⟨PCI_OB_LO, [⟨PCI_OB_LO.HOST, .rw, 0⟩]⟩,
  ⟨PCI_OB_HI, [⟨PCI_OB_HI.HOST, .rw, 0⟩]⟩,
  ⟨PCI_OB_CFG, [⟨PCI_OB_CFG.EN, .rw, 0⟩, ⟨PCI_OB_CFG.FN, .rw, 0⟩]⟩]
def rowsOfETH0 : List RegRow := [
  ⟨ETH_CTL, [⟨ETH_CTL.PTPQ, .rw, 0⟩]⟩,
  ⟨ETH_DROP, [⟨ETH_DROP.COUNT, .ro, 0⟩]⟩,
  ⟨ETH_QUAD, [⟨ETH_QUAD.MODE, .rw, 0⟩]⟩,
  ⟨ETH_PFC, [⟨ETH_PFC.XOFF, .rw, 0x100⟩, ⟨ETH_PFC.XON, .rw, 0x80⟩]⟩,
  ⟨ETH_PORT_CTL, [⟨ETH_PORT_CTL.EN, .rw, 0⟩]⟩,
  ⟨ETH_PORT_STAT, [⟨ETH_PORT_STAT.RX_ERR, .ro, 0⟩, ⟨ETH_PORT_STAT.PAUSED, .ro, 0⟩, ⟨ETH_PORT_STAT.LINK, .ro, 0⟩]⟩,
  ⟨ETH_FWD, [⟨ETH_FWD.V, .rw, 0⟩, ⟨ETH_FWD.COPY, .rw, 0⟩, ⟨ETH_FWD.IN, .rw, 0⟩, ⟨ETH_FWD.EGR, .rw, 0⟩, ⟨ETH_FWD.VID, .rw, 0⟩]⟩,
  ⟨ETH_Q_CFG, [⟨ETH_Q_CFG.EN, .rw, 0⟩, ⟨ETH_Q_CFG.TS_ALL, .rw, 0⟩, ⟨ETH_Q_CFG.PTN, .rw, 0⟩, ⟨ETH_Q_CFG.BUFSZ, .rw, 1⟩, ⟨ETH_Q_CFG.LOG2SIZE, .rw, 6⟩, ⟨ETH_Q_CFG.VID, .rw, 0xfff⟩]⟩,
  ⟨ETH_Q_RX, [⟨ETH_Q_RX.ADDR, .rw, 0⟩]⟩,
  ⟨ETH_Q_BUF, [⟨ETH_Q_BUF.ADDR, .rw, 0⟩]⟩,
  ⟨ETH_Q_TX, [⟨ETH_Q_TX.ADDR, .rw, 0⟩]⟩,
  ⟨ETH_Q_RXHEAD, [⟨ETH_Q_RXHEAD.COUNT, .rw, 0⟩]⟩]
def rowsOfETH1 : List RegRow := [
  ⟨ETH_Q_RXTAIL, [⟨ETH_Q_RXTAIL.COUNT, .ro, 0⟩]⟩,
  ⟨ETH_Q_TXHEAD, [⟨ETH_Q_TXHEAD.COUNT, .ro, 0⟩]⟩,
  ⟨ETH_Q_TXTAIL, [⟨ETH_Q_TXTAIL.COUNT, .rw, 0⟩]⟩,
  ⟨ETH_Q_MSI, [⟨ETH_Q_MSI.MSI, .rw, 0⟩]⟩,
  ⟨ETH_Q_STAT, [⟨ETH_Q_STAT.NOSPACE, .ro, 0⟩, ⟨ETH_Q_STAT.TOOLONG, .ro, 0⟩]⟩]
def rowsOfETH : List RegRow := rowsOfETH0 ++ rowsOfETH1
def rowsOfXSP : List RegRow := [
  ⟨XSP_CMD, [⟨XSP_CMD.GO, .w1s, 0⟩, ⟨XSP_CMD.WR, .rw, 0⟩, ⟨XSP_CMD.CS, .rw, 0⟩, ⟨XSP_CMD.OP, .rw, 0⟩, ⟨XSP_CMD.LEN, .rw, 0⟩]⟩,
  ⟨XSP_ADDR, [⟨XSP_ADDR.ADDR, .rw, 0⟩]⟩,
  ⟨XSP_STAT, [⟨XSP_STAT.BUSY, .ro, 0⟩, ⟨XSP_STAT.ERR, .ro, 0⟩]⟩,
  ⟨XSP_SB_CMD, [⟨XSP_SB_CMD.GO, .w1s, 0⟩, ⟨XSP_SB_CMD.BUS, .rw, 0⟩, ⟨XSP_SB_CMD.PEC, .rw, 0⟩, ⟨XSP_SB_CMD.ADDR, .rw, 0⟩, ⟨XSP_SB_CMD.WLEN, .rw, 0⟩, ⟨XSP_SB_CMD.RLEN, .rw, 0⟩]⟩,
  ⟨XSP_SB_STAT, [⟨XSP_SB_STAT.BUSY, .ro, 0⟩, ⟨XSP_SB_STAT.ERR, .ro, 0⟩]⟩,
  ⟨XSP_PMB_POUT, [⟨XSP_PMB_POUT.V, .rw, 0⟩, ⟨XSP_PMB_POUT.ADDR, .rw, 0⟩]⟩,
  ⟨XSP_DATA, [⟨XSP_DATA.DATA, .rw, 0⟩]⟩,
  ⟨XSP_SB_DATA, [⟨XSP_SB_DATA.DATA, .rw, 0⟩]⟩]

/-- The rows of the block that local address `a` lies in (R23, R24, R25). -/
def blockRows (a : Nat) : List RegRow :=
  if 0x40000000 ≤ a ∧ a < 0x50000000 then
    match (a - 0x40000000) / 0x10000 with
    | 0 => rowsOfSYS
    | 1 => rowsOfCLK
    | 2 => rowsOfPWR
    | 3 => rowsOfOAS
    | 4 => rowsOfATU
    | 5 => rowsOfJOB
    | 6 => rowsOfPTN
    | 7 => rowsOfMMU
    | 8 => rowsOfHBM
    | 9 => rowsOfHBM
    | 10 => rowsOfHBM
    | 11 => rowsOfHBM
    | 12 => rowsOfSYC
    | 16 => rowsOfDEC
    | 17 => rowsOfENC
    | 18 => rowsOfPRA
    | 19 => rowsOfFHE
    | 20 => rowsOfYAL
    | 21 => rowsOfETH
    | 22 => rowsOfPCI
    | 23 => rowsOfXSP
    | 24 => rowsOfSEC
    | 25 => rowsOfDGT
    | 26 => rowsOfBBX
    | 27 => rowsOfACI
    | _ => []
  else if 0x50000000 ≤ a ∧ a < 0x54000000 then
    match (a - 0x50000000) % 0x100000 / 0x10000 with
    | 0 => rowsOfTIL
    | 1 => rowsOfARR
    | 2 => rowsOfELE
    | 3 => rowsOfSIG
    | 4 => rowsOfSTM
    | 5 => rowsOfCRC
    | 8 => rowsOfSCL
    | _ => []
  else if 0x58000000 ≤ a ∧ a < 0x5C000000 then
    match (a - 0x58000000) % 0x1000000 / 0x10000 with
    | 0 => rowsOfCLU
    | 16 => rowsOfGTH
    | _ => []
  else []

/-- The table row of the register at local address `a`, with the copy it names. -/
def findReg (a : Nat) : List RegRow → Option (RegRow × Nat × Nat)
  | [] => none
  | r :: rs =>
    match r.reg.index? a with
    | some (i, j) => some (r, i, j)
    | none => findReg a rs

/-- The table row of the register at local address `a`. -/
def rowAt (a : Nat) : Option (RegRow × Nat × Nat) := findReg a (blockRows a)

/-- The reset value of one field of copy (i, j). Most are constants of the tables; the others the spec computes:
SYS_TMAP.PTILE is the home tile (R38), DEC_LMAP.PHYS the decoder's own index (R305), and the power domains of
R446 that are ON at reset are domains 72, 77, 78, 79 and 81 (R444). -/
def fieldReset (f : FldRow) (i _j : Nat) : Nat :=
  if f.fld = SYS_TMAP.PTILE then 17 * (i / 16) + i % 16
  else if f.fld = DEC_LMAP.PHYS then i
  else if f.fld = PWR_DOM_STAT.STATE then
    if i = 72 ∨ i = 77 ∨ i = 78 ∨ i = 79 ∨ i = 81 then 0 else 3
  else f.rst

/-- The reset word of copy (i, j) of a register: every field at its reset value, reserved bits zero (R9). -/
def resetWord (i j : Nat) : List FldRow → Nat
  | [] => 0
  | f :: fs => fieldReset f i j * 2 ^ f.fld.lo + resetWord i j fs

/-- What the register at local address `a` reads as right after reset; zero at an undefined offset (R26).
(log 7: DESIGN CHOICE) -/
def regReset (a : Nat) : Word :=
  match rowAt a with
  | some (r, i, j) => BitVec.ofNat 32 (resetWord i j r.rows)
  | none => 0

end Sys2Proof.Machine
end

