-- ==== Sys2Proof/Machine/State.lean ====
section
/-! DEFINITION. The state of the device: plain data, holding every register, memory, queue, buffer, counter, mode and
pin the spec names. Registers of the catalogue live in `regs`; what no register shows lives in the records of its
unit. Status fields that only mirror a unit's own record (TIL_STAT, STM_STAT, CLU_QDEPTH ...) are computed from that
record when they are read. The defaults of the fields are the state after reset. -/
namespace Sys2Proof.Machine

/-! ## ATU (chapter 02) -/

/-- A time step waiting for a tick (R42, R43): the load of ATU_SET_*, or a signed amount in units of 2^-32 ns. -/
inductive ClockStep where
  | load
  | move (units : Int)
deriving DecidableEq, Repr

/-- An armed or once armed timed trigger (R56-R58). `target` is in units of 2^-32 ns; `repeatLen` is the period in the
same units for REPEAT 0b11. -/
structure Trigger where
  w0 : Word
  w1 : Word
  w2 : Word
  w3 : Word
  owner : Nat
  armed : Bool
  target : Nat
  /-- frame, slot and symbol of the target, for an air position -/
  frame : Int
  slot : Nat
  sym : Nat
  lateDue : Bool
  /-- armed in the tick in progress: it cannot fire before the next (R57) -/
  fresh : Bool
  jumped : Bool
  /-- the time to which the step that jumped over it moved the counter -/
  jumpTo : Nat
  stopAfter : Bool
  late : Bool
  stepped : Bool
  missed : Nat
deriving DecidableEq, Repr

/-- A partition's latched snapshot (R45): seconds and fraction. -/
structure Snap where
  sec : BitVec 48
  frac : BitVec 32
deriving DecidableEq, Repr

/-- A partition's staged trigger words and the STAT word of its last command (R58, R67). -/
structure TrgStage where
  w0 : Word := 0
  w1 : Word := 0
  w2 : Word := 0
  w3 : Word := 0
  stat : Word := 0
deriving DecidableEq, Repr

/-- An egress timestamp (R64), with the fraction in 2^-16 ns. -/
structure EgressStamp where
  port : Nat
  msgType : Nat
  seqId : Nat
  sec : Nat
  ns : Nat
  frac : Nat
deriving DecidableEq, Repr

/-- The Air Timeline Unit: the counter of R40, the steps waiting for ticks, the servo, the triggers and the pulses. -/
structure Atu where
  /-- ticks counted since power-on, by which the model measures durations; the counter is the model's own -/
  ticks : Nat := 0
  sec : BitVec 48 := 0
  ns : BitVec 30 := 0
  frac : BitVec 32 := 0
  steps : List ClockStep := []
  /-- servo integrator, in units of 2^-20 FADJ units (R46) -/
  integ : Int := 0
  /-- phase sample not yet processed, in units of 2^-8 ns (R47) -/
  sample : Option Int := none
  /-- ticks that the sample has been pending (R46) -/
  sampleAge : Nat := 0
  /-- ticks without a phase sample while RUN is 1 (R47) -/
  holdTicks : Nat := 0
  synceErr : Int := 0
  goodRun : Nat := 0
  badRun : Nat := 0
  snaps : Table Snap := .empty
  trgStage : Table TrgStage := .empty
  triggers : Table Trigger := .empty
  /-- accepted ARMs of triggers that fire in the tick in progress: they take effect after that firing (R58) -/
  rearms : Table Trigger := .empty
  /-- triggers fired in the tick in progress, and the index after the last of them (R56) -/
  firedNow : Nat := 0
  nextIx : Nat := 0
  /-- a whole second, a whole millisecond, passed at the tick in progress (R49, R50) -/
  secEdge : Bool := false
  msEdge : Bool := false
  ppsOut : Bool := false
  syncOut : Bool := false
  /-- ticks for which the pulse in progress stays high (R49, R50) -/
  ppsLeft : Nat := 0
  syncLeft : Nat := 0
  ets : List EgressStamp := []
  /-- ATU_ETS1-ATU_ETS3 as latched by the last pop -/
  etsLatch : Option EgressStamp := none
deriving DecidableEq, Repr

/-! ## JOB (chapter 03) -/

/-- Where an accepted job stands. -/
inductive JobPhase where
  | waiting      -- accepted, not dispatched
  | pending      -- held as the pending job of its series (R83)
  | running      -- dispatched
  | draining     -- its end is decided; transfers drain and the record is due
deriving DecidableEq, Repr

/-- A unit of an RX_SLOT or SRS_PROC job (R244, R254): its number, its OUT_LIST entries, its semaphore entry, the entries
delivered, and once complete, whether the fallback completed it (R245). -/
structure AirUnit where
  u : Nat
  first : Nat
  n : Nat
  sem : Nat
  got : List Nat := []
  how : Option Bool := none
deriving DecidableEq, Repr

/-- What a job of a cell's slot carries (R240-R252, R269, R318): the cell, or the PRACH configuration; the slot counted from
frame 0, or the occasion; its units; the watermark lead, mask offset and slot length of a receive job; PATH of R252; whether
the watermark has judged the units, whether the fallback is due, when it started, the units pending, the tiles placed on, the
candidate-ring entry held. -/
structure AirJob where
  cell : Nat := 0
  slot : Int := 0
  td : Nat := 0
  units : List AirUnit := []
  lead : Nat := 0
  mask : Nat := 0
  path : Nat := 0
  judged : Bool := false
  fbDue : Bool := false
  fbTs : Option Nat := none
  pend : Nat := 0
  tiles : List Nat := []
  entry : Option Nat := none
deriving DecidableEq, Repr

/-- An accepted job (R74-R87). `seq` is the order of fetching. Times are in units of 2^-32 ns. -/
structure Job where
  ptn : Nat
  ring : Nat
  seq : Nat
  desc : List Byte
  submit : Nat
  deadline : Option Nat
  phase : JobPhase
  launchLate : Bool := false
  launched : Bool := false
  eligibleAt : Option Nat := none
  startTs : Option Nat := none
  endTs : Option Nat := none
  /-- its place in the order in which jobs have ended (R87) -/
  endNo : Nat := 0
  /-- status and fault code of the coming record (R85, R86) -/
  status : Nat := 0
  fault : Nat := 0
  /-- FLAGS bits of the coming record (R84) -/
  rflags : Nat := 0
  tasksLeft : Nat := 0
  nTasks : Nat := 0
  sat : Nat := 0
  flush : Nat := 0
  nan : Nat := 0
  replay : Nat := 0
  ptMask : Nat := 0
  decMask : Nat := 0
  codecMask : Nat := 0
  praMask : Nat := 0
  classArea : List Byte := []
  /-- its signals have been applied (R80); when its deadline passed (R97) -/
  signalled : Bool := false
  missAt : Option Nat := none
  /-- its tasks are migratable (R349) -/
  migr : Bool := false
  /-- parameter block bytes read at fetch, and the address and length of the linear list entries that an engine reads and
  writes -/
  params : List Byte := []
  air : AirJob := {}
  inBlks : List (Nat × Nat) := []
  outBlks : List (Nat × Nat) := []
  /-- the objects bound at fetch (R433): the table entries of PROG, MODEL and FALLBACK as they stood -/
  progObj : List Byte := []
  modelObj : List Byte := []
  /-- the image of a DECODE job's weight object, read once (R286) -/
  weights : List Byte := []
  fbObj : List Byte := []
  /-- place in its series (R83): 0 none, 1 active, 2 pending, 3 out of it; consumed without having been accepted -/
  inSeries : Nat := 0
  posted : Bool := false
deriving DecidableEq, Repr

/-- A belay command in a partition's queue (R93, R95). -/
structure BelayCmd where
  op : Nat
  chip : Nat
  ptn : Nat
  argA : Nat
  argB : Nat
  seq : Nat
  /-- chip and partition that a forwarded command came from; when it arrived -/
  origin : Option (Nat × Nat)
  arrived : Nat
deriving DecidableEq, Repr

/-- An executed belay command whose BELAY_DONE is due (R96): its sequence number, origin, the jobs and posted entries
(ring and tail) it waits for, whether it waits for requests in flight, and the links whose begun packets it waits for. -/
structure BelayWait where
  seq : Nat
  origin : Option (Nat × Nat)
  jobs : List Nat
  rings : List (Nat × Nat) := []
  drain : Bool := false
  links : List Nat := []
deriving DecidableEq, Repr

/-- A stopped flow: partition, kind (0 Ethernet, 1 Yalelle) and port; `halt` when a halt imposed it (R94, R98). -/
structure PortStop where
  ptn : Nat
  kind : Nat
  port : Nat
  halt : Bool
  whole : Bool
deriving DecidableEq, Repr

/-- A doorbell write that JOB accepted: the tail it set and when (R73). -/
structure Coverage where
  ptn : Nat
  ring : Nat
  tail : Nat
  time : Nat
deriving DecidableEq, Repr

/-- Posted entries that a belay command cancelled: those of a ring before a tail count, and their fault code (R94). -/
structure Cancel where
  ptn : Nat
  ring : Nat
  tail : Nat
  fault : Nat
deriving DecidableEq, Repr

/-- What JOB keeps of one partition beside its registers. -/
structure JobPtn where
  /-- round-robin fetch: ring in turn, and descriptors taken in this turn (R74) -/
  rrRing : Nat := 0
  rrTaken : Nat := 0
  /-- records, events since the last MSI, and whether an unsignalled one exists (R88) -/
  cqSince : Nat := 0
  eqSince : Nat := 0
  /-- ticks at which the first record, the first event, not yet signalled was written (R88) -/
  cqAt : Nat := 0
  eqAt : Nat := 0
  /-- the next event written carries LOST (R89) -/
  lostFlag : Bool := false
  eqHeld : List (List Byte) := []
  belay : List BelayCmd := []
  belaySeq : Nat := 0
  belayWaits : List BelayWait := []
  /-- object registration in progress: index, and whether its read waits for a resolve (R91) -/
  otBusy : Option Nat := none
  otWait : Bool := false
  /-- objects retired that an accepted job still names -/
  retiring : List Nat := []
deriving DecidableEq, Repr

structure JobUnit where
  jobs : Table Job := .empty
  nextSeq : Nat := 1
  /-- the number that the next job to end takes (R87) -/
  nextEnd : Nat := 1
  ptns : Table JobPtn := .empty
  coverage : List Coverage := []
  stops : List PortStop := []
  cancels : List Cancel := []
  /-- PTN_CTL has been written (R343); partitions whose EN is being cleared while their ways are written back (R380) -/
  ctlLocked : Bool := false
  closing : List Nat := []
deriving DecidableEq, Repr

/-! ## Tiles (chapters 04-09, 12, 15) -/

/-- A task of a job (R344): its index, the tile it was placed for, and what R346, R349 and R347 need. -/
structure Task where
  job : Nat
  index : Nat
  fallback : Bool := false
  migratable : Bool := false
  migrated : Bool := false
  /-- the task of a COPY job, which runs no program (R212) -/
  copy : Bool := false
  /-- run time before the last start or restore, ns, and when that was, in units of 2^-32 ns (R346, R353) -/
  runNs : Nat := 0
  started : Nat := 0
  /-- run time when the task last started or was restored, ns (R346) -/
  base : Nat := 0
  /-- QUANTUM as its last start found it, µs -/
  quantum : Nat := 0
  /-- saved from an inherit slice (R363) -/
  inherit : Bool := false
deriving DecidableEq, Repr

/-- A queue entry (R345): a waiting task, or a task saved in cairn slot `slot`. -/
structure QEntry where
  task : Task
  slot : Option Nat
  head : Bool
deriving DecidableEq, Repr

/-- A result on its way (R123): what is written when its last latency cycle ends. -/
inductive Write where
  | s (i : Nat) (v : Word)
  | p (i : Nat) (v : Bool)
  | ax (i : Nat) (v : BitVec 16)
  | ay (i : Nat) (v : BitVec 16)
  | m (i : Nat) (v : Word)
  | lc (i : Nat) (v : Word)
  | ls (i : Nat) (v : BitVec 12)
  | le (i : Nat) (v : BitVec 12)
  | flags (v : Word)
  /-- bits [3:0] of FLAGS only -/
  | zncv (v : BitVec 4)
  /-- LD - 1, if LD is not 0 -/
  | lbrk
  /-- a loop level set and entered (R120) -/
  | loop (level : Nat) (count : Word) (first last : BitVec 12)
  | epc (v : Word)
  | eflags (v : Word)
  | ivec (v : Word)
  | imask (v : Word)
  | ipendClr (v : Word)
  | n (i : Nat) (v : BitVec 512)
  | w (i : Nat) (v : BitVec 384)
  | v (i : Nat) (v : BitVec 2048)
  /-- contributions to an accumulator, lane by lane; none leaves the lane alone -/
  | accAdd (wide : Bool) (i : Nat) (lanes : List (Option Int))
  | accClr (wide : Bool) (i : Nat)
  | store (off : Nat) (bytes : List Byte)
deriving DecidableEq, Repr

/-- An operation in flight: cycles left until its result is written, and the result. -/
structure InFlight where
  left : Nat
  write : Write
deriving DecidableEq, Repr

/-- A bundle that is issuing: its 256 bits, the slots that execute under their predicates, and those whose operation has
been performed (bits: 0 S, 1 N, 2 W, 3 M, 4 E, 5 DX, 6 DY). -/
structure Issuing where
  bundle : BitVec 256
  ex : Nat
  done : Nat
  /-- branch target decided by the S slot, and the next index of a LOOP whose count is zero -/
  target : Option Nat
  skip : Option Nat
  /-- the kernel of this bundle's EKRUN failed its check (R189) -/
  kernelBad : Bool
  /-- the bundle's MSWAP has been performed: the sets change places as the bundle ends (R115) -/
  swap : Bool := false
deriving DecidableEq, Repr

/-- Sequencer state (TIL_STAT.STATE): idle, running, waiting on a wait operation, saving or restoring a cairn. -/
inductive SeqState where
  | idle | run | wait | save | restore
deriving DecidableEq, Repr

/-- The image a tile's program memory holds (R100): object handle, its digest and its length. -/
structure Loaded where
  ptn : Nat
  handle : Nat
  digest : List Byte
  len : Nat
deriving DecidableEq, Repr

/-- A weight block in feed-row form (R135): the feed row it was read from, its bytes, and what was written over them in
feed memory while the array could still reload them (R141), by window offset. -/
structure WBlock where
  base : Nat
  bytes : List Byte
  newer : Table Byte := .empty
deriving DecidableEq, Repr

/-- The weight registers of a sub-array (R139). -/
structure Weights where
  active : Option WBlock := none
  shadow : Option WBlock := none
deriving DecidableEq, Repr

/-- A matrix-queue entry or running operation (R114, R138). -/
structure MOp where
  /-- opcode of R114: 1 MCFG, 2 MLDW, 3 MMUL -/
  op : Nat
  sub : Nat := 0
  /-- feed row base, activation rows M, ADD, anchor A -/
  base : Nat := 0
  rows : Nat := 0
  add : Bool := false
  anchor : Int := 0
  /-- format and split mode: those MCFG sets, or those in force for the others -/
  fmt : Nat
  split : Nat
  pc : Nat := 0
  /-- the block a started MMUL uses, and whether it runs as a replay (R149) -/
  block : Option WBlock := none
  retry : Bool := false
  /-- bytes of its feed rows as they were before a write that R141 forbids, by window offset -/
  old : Table Byte := .empty
deriving DecidableEq, Repr

/-- What a quadrant of an accumulator set holds (R140-R150): nothing, or sums started under a format, a split mode and an
anchor; and its FAILED flag. -/
structure AccRegion where
  empty : Bool := true
  fmt : Nat := 0
  split : Nat := 0
  anchor : Int := 0
  failed : Bool := false
deriving DecidableEq, Repr

/-- Values presented to a scale channel: least and greatest, as numerator and denominator (R174, R177). -/
structure SeenRow where
  loNum : Int
  loDen : Nat
  hiNum : Int
  hiDen : Nat
deriving DecidableEq, Repr

/-- Which pass a kernel run is in (R177, R193). -/
inductive Pass where
  | first | observe | final
deriving DecidableEq, Repr

/-- A kernel run (R190-R194). -/
structure KRun where
  kernel : Nat
  /-- the run descriptor s[VA]-s[VA + 3], the micro-op words, the v register that receives k15, the bundle -/
  desc : List Nat
  ops : List Nat
  outTo : Option Nat
  pc : Nat
  /-- the accumulator set that its bundle found released (R115) -/
  set : Nat := 1
  /-- next row u, the pass, and whether it calibrates -/
  row : Nat := 0
  pass : Pass := .first
  cal : Bool := false
  /-- k0-k15 of the lanes, 64 x 32 bits each -/
  temps : Table (BitVec 2048) := .empty
  /-- the v registers as the run found them -/
  vregs : Table (BitVec 2048) := .empty
  /-- channels selected for a rescale, and the values presented, by lane -/
  chosen : List Nat := []
  seen : Table SeenRow := .empty
  /-- SAT, FLUSH and NAN of the pass, those of its RQ by lane, and the RQ totals of the first pass -/
  sat : Nat := 0
  flush : Nat := 0
  nan : Nat := 0
  rqSat : Table Nat := .empty
  rqFlush : Table Nat := .empty
  rqNan : Table Nat := .empty
  firstSat : Table Nat := .empty
  firstFlush : Table Nat := .empty
  firstNan : Table Nat := .empty
  /-- IEEE flags of the pass, lanes withheld in some row, and whether anything was withheld -/
  flags : Nat := 0
  held : Nat := 0
  rescaled : List Nat := []
deriving DecidableEq, Repr

/-- One stream instance (R210): the copied record and its progress. -/
inductive InstState where
  | queued | active | faultWait | done
deriving DecidableEq, Repr

/-- A block-list entry, with its traverse (R212-R215): a linear block is one of ESIZE 1 and one dimension. -/
structure Block where
  addr : Nat
  near : Nat
  kind : Nat
  irq : Bool
  atop : Nat
  sem : Nat
  /-- traverse address still to fetch -/
  trav : Option Nat
  esize : Nat
  counts : List Nat
  farStr : List Int
  nearStr : List Int
deriving DecidableEq, Repr

/-- One instance of a stream descriptor. Blocks are numbered within the instance; bytes within a block by their place in
traversal order. -/
structure Inst where
  record : List Byte
  state : InstState
  /-- order of SSTART -/
  order : Nat
  /-- block-list entries fetched, input and (for DIR 0b10) output side -/
  ins : Table Block := .empty
  outs : Table Block := .empty
  /-- cursor of the side that requests first: block, element, byte within the element -/
  blk : Nat := 0
  elt : Nat := 0
  off : Nat := 0
  /-- cursor of the write side of DIR 0b10 -/
  oblk : Nat := 0
  oelt : Nat := 0
  ooff : Nat := 0
  /-- bytes of each block that have been moved, by block -/
  moved : Table Nat := .empty
  /-- bytes waiting for the write side of DIR 0b10, and bytes to hash, keyed by block * 2^25 + place -/
  buf : Table (Option Byte) := .empty
  hash : Table (Option Byte) := .empty
  /-- for each near byte that a block still in progress has received, the place + 1 of the byte that lies there, keyed by
  block * 2^21 + window offset (R215) -/
  placed : Table Nat := .empty
  delivered : Nat := 0
  /-- the cursor that a translation fault saved: block, and the first element of the faulting request, 0 for the fetch of an
  entry or traverse (R225) -/
  faultAt : Nat × Nat := (0, 0)
deriving DecidableEq, Repr

/-- Where a saved task's outstanding remote request stands (R354): in flight, performed, parked, reserved, dropped. -/
inductive ReqMark where
  | flight | performed | parked | reserved | dropped
deriving DecidableEq, Repr

/-- A stream request in flight (R217): its place in the block, its addresses, its length, the bytes of a write, and the tag
of the packet that carries it to another device. -/
structure SReq where
  id : Nat
  desc : Nat
  order : Nat
  blk : Nat
  pos : Nat
  va : Nat
  ga : Nat
  cache : Nat
  len : Nat
  write : Bool
  /-- atomic operation of R213, 0 for none -/
  atop : Nat := 0
  data : List Byte
  tag : Option Nat := none
  mark : ReqMark := .flight
  /-- queued to a pseudo-channel that a command has retired since (R432), or on its way to a domain that drains (R446) -/
  queued : Bool := false
  /-- ticks at its issue -/
  sent : Nat := 0
deriving DecidableEq, Repr

/-- A response parked in the bivouac buffer (R359): its request, the fault code it carries or 0, and its data. -/
structure Parked where
  id : Nat
  code : Nat
  data : List Byte
deriving DecidableEq, Repr

/-- A counted block that the check-value unit is to feed (R302). -/
structure CrcBlk where
  desc : Nat
  blk : Nat
  last : Bool
  block : Block
  nearBase : Nat
  skew : Bool
deriving DecidableEq, Repr

/-- A stream fence (R222): the instances it covers are those of lower SSTART order; its signal, as the semaphore fields
of R111, if it has one; whether it is the implicit fence of R223. -/
structure Fence where
  upTo : Nat
  signal : Option Nat
  implicit : Bool
deriving DecidableEq, Repr

/-- One logical tile. -/
structure Tile where
  state : SeqState := .idle
  task : Option Task := none
  queue : List QEntry := []
  loaded : Option Loaded := none
  /-- scalar registers by index; s0 is never listed -/
  s : Table Word := .empty
  /-- predicates p1-p7 -/
  p : Table Bool := .empty
  ax : Table (BitVec 16) := .empty
  ay : Table (BitVec 16) := .empty
  m : Table Word := .empty
  lc : Table Word := .empty
  ls : Table (BitVec 12) := .empty
  le : Table (BitVec 12) := .empty
  flags : Word := 0
  epc : Word := 0
  eflags : Word := 0
  cause : Word := 0
  ivec : Word := 0
  imask : Word := 0
  ipend : Word := 0
  ltile : Word := 0
  taskIx : Word := 0
  nTask : Word := 0
  paramLo : Word := 0
  paramHi : Word := 0
  paramLen : Word := 0
  cyc : Word := 0
  taskCyc : Nat := 0
  stallCyc : Nat := 0
  n : Table (BitVec 512) := .empty
  na : Table (BitVec 1280) := .empty
  w : Table (BitVec 384) := .empty
  wa : Table (BitVec 896) := .empty
  v : Table (BitVec 2048) := .empty
  pc : Nat := 0
  /-- the bundle at PC is a delay bundle, and the branch target that follows it (R112) -/
  delay : Bool := false
  branch : Option Nat := none
  inHandler : Bool := false
  inflight : List InFlight := []
  issuing : Option Issuing := none
  /-- the bundle at PC has paid the stall cycle of R111 -/
  paidStall : Bool := false
  /-- consecutive cycles in which a generator has used X, and Y, memory (R119) -/
  lossX : Nat := 0
  lossY : Nat := 0
  /-- the wait operation's binding of R221: descriptor and order of the instance -/
  bound : Option (Nat × Nat) := none
  /-- the task is ending: HALT has issued, or a fault or a stop has ended it -/
  halting : Bool := false
  stopped : Bool := false
  /-- index of the HALT that has ended the program (R163) -/
  haltPc : Option Nat := none
  /-- a pre-emption is due at the next bundle boundary (R346, R347), for the end of an inherit slice or not; pre-emption is
  barred since a cairn write faulted (R357); the cairn slot being written or read -/
  preempt : Bool := false
  sliceEnd : Bool := false
  cairnBar : Bool := false
  slot : Option Nat := none
  /-- the bundle at which issue stopped for the save stalls on a wait operation (R353) -/
  waited : Bool := false
  /-- when issue stopped for a save, and the global count at the end of the drain -/
  saveFrom : Nat := 0
  saveTs : Nat := 0
  /-- matrix array (chapter 05) -/
  fmt : Nat := 0
  split : Nat := 0
  activeSet : Nat := 0
  /-- accumulator entries, keyed by set * 4096 + row * 64 + column -/
  acc : Table (BitVec 96) := .empty
  /-- keyed by set * 4 + quadrant -/
  regions : Table AccRegion := .empty
  /-- weight registers by sub-array -/
  weights : Table Weights := .empty
  mq : List MOp := []
  loading : List MOp := []
  running : List MOp := []
  /-- sub-arrays whose weight block an MLDW issued since the last MCFG issued, and the regions as the MMULs issued leave them,
  keyed as `regions` (R138) -/
  issuedW : Nat := 0
  issuedRegions : Table AccRegion := .empty
  /-- quadrants that mismatched on replay, on this physical tile (R152); those on which the task's operations are skipped (R150) -/
  suspect : Nat := 0
  skipQuads : Nat := 0
  /-- sub-arrays on which an MMUL of the task has started, and quadrants running dummy steps (R151) -/
  started : Nat := 0
  fill : Nat := 0
  /-- the LFSR of each quadrant's dummy operands (R151) -/
  lfsr : Table Word := .empty
  /-- writes were withheld in this task (R150) -/
  withheld : Bool := false
  /-- the task met a check mismatch that repeated (R150) -/
  mismatch : Bool := false
  /-- element engine (chapter 07) -/
  krun : Option KRun := none
  lastKernel : Nat := 0
  /-- numeric log entries of the task so far (R163) -/
  logSeq : Nat := 0
  /-- stream engine (chapter 09) -/
  insts : Table Inst := .empty
  pend : Table Inst := .empty
  startOrder : Nat := 0
  rrDesc : Nat := 0
  reqs : List SReq := []
  nextReq : Nat := 0
  /-- the descriptor, and the side, whose request waits for a granule of the bivouac buffer (R360) -/
  resvWait : Option (Nat × Bool) := none
  /-- responses parked for the context since its save began, in order of arrival -/
  parked : List Parked := []
  fences : List Fence := []
  /-- check-value unit (chapter 12): the block being fed, blocks waiting, and register writes that wait for its end, as
  address and value -/
  crcFeed : Option CrcBlk := none
  /-- blocks of the current list that the unit has fed (R304) -/
  crcPos : Nat := 0
  crcQueue : List CrcBlk := []
  crcWrites : List (Nat × Nat) := []
deriving DecidableEq, Repr

/-- A task saved in a cairn slot (R351-R361): the context as the save found it, with the responses parked for it, and the values
of the tile's registers that are the task's (R162). -/
structure Cairn where
  ptn : Nat
  ctx : Tile
  regs : List Nat := []
deriving DecidableEq, Repr

/-- Live repair in progress (R429): the logical tile that each cluster's spare is to serve, whether the copy has
ended, and the scale entries that it lost (R168). -/
structure Repair where
  spareFor : Table Nat := .empty
  copied : Table Bool := .empty
  lost : Table (List (BitVec 12)) := .empty
deriving DecidableEq, Repr

/-- An inherit slice (R363, R364): the waiting task's tile and job, the semaphore, the holder's tile, job and task index,
the depth of the chain, and when the slice began. -/
structure Slice where
  waiter : Nat
  waitJob : Nat
  clu : Nat
  sem : Nat
  htile : Nat
  hjob : Nat
  hindex : Nat
  depth : Nat
  began : Nat
deriving DecidableEq, Repr

/-! ## Digests and rope pairs (chapter 18) -/

/-- What DGT keeps of a job: its area, its leaves by list * 2^32 + entry (none where leaves differ, R415), the chunk
digests of this device and of its peer by entry * 2^13 + chunk, the ENDs, and what has been decided. -/
structure DgtJob where
  area : Nat × Nat
  leaves : Table (Option (List Byte)) := .empty
  chunks : Table (List Byte) := .empty
  peers : Table (List Byte) := .empty
  endSent : Bool := false
  /-- ticks at the local END (R423) -/
  endAt : Nat := 0
  /-- number of chunks that the peer's END named -/
  endGot : Option Nat := none
  compared : Bool := false
  digest : Option (List Byte) := none
  digestDone : Bool := false
deriving DecidableEq, Repr

/-- A DIGEST packet held for a job not yet dispatched (R422): chip and partition of its source, its 48 data bytes, ticks at its
arrival. -/
structure HeldPkt where
  src : Nat
  srcPtn : Nat
  data : List Byte
  came : Nat := 0
deriving DecidableEq, Repr

structure Dgt where
  jobs : Table DgtJob := .empty
  held : List HeldPkt := []
deriving DecidableEq, Repr

/-! ## Channel coding (chapter 12) -/

/-- A code block on a logical decoder: its job and index, the LLRs of each transmission and the HARQ region once read,
the combined LLRs, their SPAN and how many saturated once combined, and whether it waits for a resolve. -/
structure CodeBlk where
  job : Nat
  r : Nat
  input : Option (List (List Byte) × List Byte) := none
  comb : Option (List Int × Nat × Nat) := none
  wait : Bool := false
deriving DecidableEq, Repr

/-- A decoded code block: whether it passed, its iterations and active layers, its bits, the LLRs it was decoded from. -/
structure CbOut where
  pass : Bool
  iters : Nat
  rAct : Nat
  bits : List Bool
  llrs : List (List Byte)
deriving DecidableEq, Repr

/-- A job on a polar decoder or an encoder, and whether it waits for a resolve. -/
structure Codec where
  job : Nat
  wait : Bool := false
deriving DecidableEq, Repr

structure Coding where
  /-- work in progress, by logical decoder, by polar decoder, by encoder -/
  ld : Table CodeBlk := .empty
  polar : Table Codec := .empty
  enc : Table Codec := .empty
  /-- next code block of each job that has started, code blocks and jobs to run again, code blocks decoded by
  job * 256 + index -/
  next : Table Nat := .empty
  again : List CodeBlk := []
  out : Table CbOut := .empty
deriving DecidableEq, Repr

/-! ## Gather engines (chapter 14) -/

/-- Pooled rows (R331, R334): for each element the exact sum and the largest contribution, in the format's units; the valid
indices, and the NAN and FLUSH counts. -/
structure GPart where
  elems : List (Int × Option Int)
  count : Nat := 0
  nan : Nat := 0
  flush : Nat := 0
deriving DecidableEq, Repr

/-- A job on a gather engine: what it read at its start, and its progress. -/
structure GUnit where
  clu : Nat
  ready : Bool := false
  wait : Bool := false
  table : List Byte := []
  scales : List Nat := []
  idx : List Nat := []
  ofs : List Nat := []
  rows : List Byte := []
  /-- bag in progress, or place in the index list; local rows left of it, as shard and row; what has been pooled of it -/
  at' : Nat := 0
  todo : List (Nat × Nat) := []
  own : GPart := { elems := [] }
  /-- chips that owe a partial, the partials that have come, chips that have served the job -/
  owing : List Nat := []
  parts : Table GPart := .empty
  chips : List Nat := []
  opened : Bool := false
  done : Nat := 0
  valid : Nat := 0
  invalid : Nat := 0
  empty : Nat := 0
  /-- rows changed so far or asked to be, as shard and row, and those of them whose change has been performed -/
  changed : List (Nat × Nat) := []
  performed : List (Nat × Nat) := []
  out : List Byte := []
  /-- local rows of the bag whose reads are in flight; semaphore entry of the output block -/
  flight : Nat := 0
  sem : Nat := 0
deriving DecidableEq, Repr

structure Gather where
  /-- jobs on engines, by job; the job served last by each engine -/
  units : Table GUnit := .empty
  rr : Table Nat := .empty
deriving DecidableEq, Repr

/-! ## Fronthaul engine (chapters 10, 13) and PRACH searchers (chapter 11) -/

/-- A transmit slot buffer (R310-R320): its slot; the section table once read, as its valid entries, and whether it was
taken as empty; which windows have opened, closed and been served, by symbol; symbol-streams whose messages could not be
formed; the slot's counts. -/
structure TxBuf where
  slot : Int
  table : Option (List (List Byte)) := none
  bad : Bool := false
  cOpen : Bool := false
  cClosed : Bool := false
  cDone : Bool := false
  uOpen : Nat := 0
  uClosed : Nat := 0
  uDone : Nat := 0
  lost : List (Nat × Nat) := []
  sent : Nat := 0
  missed : Nat := 0
  late : Nat := 0
  cpMiss : Nat := 0
  flush : Nat := 0
  txMiss : Nat := 0
deriving DecidableEq, Repr

/-- A cell enabled for egress: its header template, and its buffers. -/
structure TxCell where
  tmpl : List Byte
  bufs : Table TxBuf := .empty
deriving DecidableEq, Repr

/-- A C-plane uplink section sent for a stream: slot, stream, first symbol, symbols, first PRB, PRBs (R236). -/
structure Cover where
  slot : Int
  stream : Nat
  sym0 : Nat
  syms : Nat
  prb0 : Nat
  prbs : Nat
deriving DecidableEq, Repr

/-- A slot being received, or the last one of its buffer (R235-R238): whether the buffer is still its own, symbols closed,
the samples of accepted PRBs by (symbol * 32 + stream) * 512 + PRB, saturations by symbol * 32 + stream, the frame bytes
held by symbol, and the counts of the summary. -/
structure RxSlot where
  slot : Int
  mine : Bool := true
  closed : Nat := 0
  prbs : Table (List Byte) := .empty
  sats : Table Nat := .empty
  held : Table Nat := .empty
  missing : Nat := 0
  late : Nat := 0
  early : Nat := 0
  dup : Nat := 0
  gap : Nat := 0
  sat : Nat := 0
  fault : Nat := 0
  closeTs : Nat := 0
deriving DecidableEq, Repr

/-- A cell enabled for ingress: the slot each buffer is assigned to next, slots in ascending order, sections sent. -/
structure RxCell where
  next : Table Int := .empty
  slots : List RxSlot := []
  cover : List Cover := []
deriving DecidableEq, Repr

/-- The slot summary of a slot buffer as it stands in memory (R236, R252): its slot, whether that slot's last symbol has closed,
its bytes. -/
structure RxSum where
  slot : Int
  closed : Bool := false
  bytes : List Byte := []
deriving DecidableEq, Repr

/-- The fronthaul engine. Summaries of slot buffers by cell * 8 + buffer. Sequence numbers: the next to send by
plane * 2^16 + ecpriPcid, the last accepted by eAxC ID. -/
structure Fhe where
  tx : Table TxCell := .empty
  rx : Table RxCell := .empty
  sums : Table RxSum := .empty
  txSeq : Table Nat := .empty
  rxSeq : Table Nat := .empty
deriving DecidableEq, Repr

/-- A PRACH occasion (R259): its cell slot, counted from frame 0, and td. -/
structure Occasion where
  slot : Int
  td : Nat
deriving DecidableEq, Repr

/-- The sequences received for an occasion, by repetition * 32 + stream. -/
structure OccData where
  occ : Occasion
  seqs : Table (List Byte) := .empty
deriving DecidableEq, Repr

/-- A candidate-ring entry: its occasion, the block header and length once written; lost by a fault (R266); the searcher that
served it (R271). -/
structure CandEntry where
  occ : Occasion
  srch : Option Nat := none
  head : List Byte := []
  len : Nat := 0
  lost : Bool := false
deriving DecidableEq, Repr

/-- A PRACH configuration that is enabled (R258-R273): its searcher, 16 times its load per second, the occasion that closes
next, when it last was left without a searcher, occasions receiving, occasions closed, ring entries. -/
structure PraCfg where
  srch : Option Nat
  load : Nat
  next : Option Occasion
  lostAt : Option Nat := none
  open' : List OccData := []
  blocks : Nat := 0
  ring : Table CandEntry := .empty
deriving DecidableEq, Repr

/-! ## Fault records, translations and the system cache (chapter 16) -/

/-- Who met a translation fault (R388, R389): byte 13 of the record, its unit, its own handle, and its job. -/
structure Requester where
  kind : Nat
  unit : Nat
  handle : Nat
  job : Nat
  tag : Nat
deriving DecidableEq, Repr

/-- A translation fault (R388): where, why and when, the SEQ of its record once written, and for a WAIT fault who waits
for its resolve. -/
structure FaultRec where
  ptn : Nat
  va : Nat
  cause : Nat
  level : Nat
  write : Bool
  wait : Bool
  by' : Requester
  ts : Nat
  seq : Option Nat
  merged : Nat
  waiters : List Requester
deriving DecidableEq, Repr

/-- A cached translation (R387): the leaf that maps a 4 KiB page. -/
structure CachedLeaf where
  base : Nat
  r : Bool
  w : Bool
  cache : Nat
deriving DecidableEq, Repr

/-- An error that a read has met (R377, R382): the local address, and the way of a dirty line that was dropped. -/
structure MetErr where
  addr : Nat
  err : MemErr
  way : Nat
deriving DecidableEq, Repr

structure Mmu where
  /-- faults whose record is not yet written, and unresolved WAIT records, oldest first -/
  faults : List FaultRec := []
  seqs : Table Nat := .empty
  /-- cached translations, keyed by partition * 2^36 + VA page -/
  tlb : Table CachedLeaf := .empty
  /-- invalidation in progress, by partition: the page, none for all -/
  inv : Table (Option Nat) := .empty
  /-- root table in force, by partition (R387) -/
  roots : Table Nat := .empty
  /-- system-cache maintenance in progress: its partition -/
  maint : Option Nat := none
  /-- it invalidates the lines, too -/
  maintDrop : Bool := false
  /-- what a read of 32 bytes of local HBM, or of the line that caches them, is to meet, by address / 32; what reads have met and
  the controllers have yet to act on, oldest first (R377, R382) -/
  flaws : Table MemErr := .empty
  met : List MetErr := []
  /-- refreshes postponed, by pseudo-channel (R376) -/
  postponed : Table Nat := .empty
deriving DecidableEq, Repr

/-- A dirty line (R382, R486): who holds it and the older contents of memory. -/
structure DirtyLine where
  way : Nat
  old : List Byte
deriving DecidableEq, Repr

/-- A line in the system cache (R379, R380): its way, and the older contents of HBM while it is dirty. -/
structure SycLine where
  way : Nat
  old : Option (List Byte)
deriving DecidableEq, Repr

/-! ## Yalelle links (chapter 17) -/

/-- A packet (R402, R403): its header fields and its data. `len` is LEN, data bytes - 1. -/
structure Packet where
  dst : Nat
  srcPtn : Nat
  src : Nat
  kind : Nat
  vc : Nat
  hops : Nat
  path : Nat
  op : Nat
  len : Nat
  tag : Nat
  addr : Nat
  data : List Byte
deriving DecidableEq, Repr

/-- A flit sent and not yet acknowledged (R397): its SEQ, its channel and payload (none: IDLE), the credits it returns, how often it
has been replayed. -/
structure SentFlit where
  seq : Nat
  pay : Option (Nat × List Byte)
  cvc : Nat
  credits : Nat
  tries : Nat
deriving DecidableEq, Repr

/-- A packet queued for a link: the payloads still to leave, and whether one has left. -/
structure TxPkt where
  pkt : Packet
  left : List (List Byte)
  begun : Bool
deriving DecidableEq, Repr

/-- A packet received, and the flits whose credits return when it is taken (R401). -/
structure RxPkt where
  pkt : Packet
  flits : Nat
deriving DecidableEq, Repr

/-- A message that waits for a ring entry (R409): its link, when it arrived, as R60's timestamp. -/
structure HeldMsg where
  link : Nat
  rx : RxPkt
  ts : Nat
  /-- ticks at its arrival -/
  came : Nat := 0
deriving DecidableEq, Repr

/-- What a link holds beside its registers (R396-R401). -/
structure Link where
  /-- last good SEQ received, last SEQ sent -/
  rxSeq : Nat := 0
  txSeq : Nat := 0
  replay : List SentFlit := []
  /-- packets queued for the link -/
  txq : List TxPkt := []
  /-- channel served last among VC1-VC7; credits held and credits to return, by channel -/
  rr : Nat := 0
  credit : Table Nat := .empty
  owed : Table Nat := .empty
  /-- payload bytes received that do not yet make a packet, by channel; whole packets received -/
  part : Table (List Byte) := .empty
  rx : List RxPkt := []
  /-- LANE_DIS as the last TRAIN or RETRAIN took it (R411) -/
  laneDis : Nat := 0
  /-- ticks at which the last TRAIN or RETRAIN began (R398) -/
  since : Nat := 0
  /-- a NAK has gone out for a flit that has not come since -/
  naked : Bool := false
  /-- packets that a stopped flow holds back (R94) -/
  stopped : List Packet := []
deriving DecidableEq, Repr

/-- A request sent to another device that waits for its response (R403, R410): who waits (0 the stream engine of a tile,
1 a hart, 3 none: a read or write of the device itself, 9 a gather job) and his identifiers. -/
structure OutReq where
  dst : Nat
  kind : Nat
  who : Nat
  a : Nat
  b : Nat
  c : Nat
  /-- ticks from which it fails without a response (R19, R410) -/
  due : Nat := 0
deriving DecidableEq, Repr

structure Yal where
  links : Table Link := .empty
  /-- requests outstanding by tag, and the next tag -/
  reqs : Table OutReq := .empty
  nextTag : Nat := 0
  /-- path in use to each destination, as its 32-bit route word -/
  paths : Table Nat := .empty
  /-- pooling messages of which packets are still to come, by kind * 2^28 + source * 2^16 + tag -/
  long : Table (List Byte) := .empty
  /-- packets held by a path change (R406), BELAY packets without a path with the ticks since which they have none (R405), messages
  without a ring entry (R409) -/
  held : List Packet := []
  belays : List (Packet × Nat) := []
  msgs : List HeldMsg := []
deriving DecidableEq, Repr

/-! ## Interrupts, harts and board ports (chapter 22) -/

/-- What has left the device, newest first: what an observer outside can see. -/
inductive Output where
  | msix (fn vec addr data : Nat)
  | hostWrite (fn addr : Nat) (bytes : List Byte)
  /-- the completion of an inbound request: 0 successful, 1 Unsupported Request, 4 Completer Abort -/
  | completion (fn status : Nat) (bytes : List Byte)
  /-- a PFC frame: XOFF or XON for a priority -/
  | pfc (port prio : Nat) (on : Bool)
  | ethFrame (port : Nat) (bytes : List Byte)
  | flit (link : Nat) (bytes : List Byte)
  /-- what a link sends in training (R395) -/
  | identity (link chip pos : Nat) (idSet : Bool)
deriving DecidableEq, Repr

/-- A PCIe function (R490, R491, R494): Bus Master Enable and MSI-X Enable, its MSI-X table, keyed by vector * 4 + word, and its
pending bits. -/
structure PciFn where
  bme : Bool := false
  msixOn : Bool := false
  tbl : Table Word := .empty
  pba : Table Bool := .empty
  /-- window size in force (R504: WIN_LOG2 takes effect at the next FLR) -/
  winLog2 : Nat := 20
deriving DecidableEq, Repr

/-- A posted write that waits for the link (R493): its outbound region, none for an MSI-X message, and what leaves. -/
structure PostedWrite where
  region : Option Nat
  out : Output
  /-- ticks since which it waits (R493) -/
  came : Nat := 0
deriving DecidableEq, Repr

/-- An inbound request held for a WAIT fault, or behind one that is (R73, R492); `ready` once its fault is resolved. -/
structure HeldTlp where
  id : Nat
  fn : Nat
  tlp : Tlp
  ready : Bool
deriving DecidableEq, Repr

structure Pci where
  posted : List PostedWrite := []
  held : List HeldTlp := []
  nextId : Nat := 0
deriving DecidableEq, Repr

/-! ## Ethernet -/

/-- A frame that waits to be forwarded (R66, R498): its bytes, its ingress port and its raw ingress time. -/
structure FwdFrame where
  bytes : List Byte
  ingress : Nat
  ts : Nat
deriving DecidableEq, Repr

structure Eth where
  /-- frames to be forwarded, by egress port, oldest first; port * 8 + priority for which XOFF is out (R497) -/
  fwd : Table (List FwdFrame) := .empty
  xoff : List Nat := []
deriving DecidableEq, Repr

/-- How a hart's access went (R483): the value of a load or an atomic, or zero for a store; an access fault; no answer yet. -/
inductive CoreResult where
  | value (v : Nat)
  | fault
  | waiting
deriving DecidableEq, Repr

structure Harts where
  /-- pending identities: key (hart * 16 + file) * 2048 + identity -/
  imsic : Table Bool := .empty
  /-- dirty lines of each hart's L2, keyed by line address: hart and older contents -/
  dirty : Table DirtyLine := .empty
  /-- uncorrectable errors of each way since reset, up to two: key hart * 16 + way -/
  wayErr : Table Nat := .empty
  /-- how each hart's last access of the device went -/
  last : Table CoreResult := .empty
  /-- where a hart started, in machine mode (R485); address, size and ticks at the issue of a load that the PCIe host is to answer -/
  entry : Table Nat := .empty
  host : Table (Nat × Nat × Nat) := .empty
  /-- the 64-byte line that each hart's LR has reserved -/
  rsv : Table Nat := .empty
  /-- levels of the wires into the APLIC, by source (R489) -/
  wires : Table Bool := .empty
deriving DecidableEq, Repr

/-! ## Retirement and the black box (chapter 19) -/

/-- A software flash command as issued (R500): its chip select, whether it writes, its opcode, address, length and data. -/
structure XspCmd where
  cs : Nat
  wr : Bool
  op : Nat
  addr : Nat
  len : Nat
  data : List Byte
deriving DecidableEq, Repr

/-- A flash operation (R438, R439, R469, R500): a page program of `n` records, step `k` of opening a bank (the erase of sector
k, or for 64 and 65 the program of slot 1 and of slot 0), the floor mirror, a software command. -/
inductive FlashOp where
  | page (n : Nat)
  | opening (k : Nat)
  | floor
  | xsp (c : XspCmd)
deriving DecidableEq, Repr

structure BlackBox where
  /-- bucket levels, keyed by kind * 256 + index -/
  levels : Table Nat := .empty
  /-- ticks at the last point of each kind's grid of leaks (R425) -/
  leakAt : Table Nat := .empty
  /-- staged records, oldest first -/
  staged : List (List Byte) := []
  /-- the stage's free-running counts and the next sequence number -/
  head : Nat := 0
  tail : Nat := 0
  rseq : Nat := 0
  /-- recovery has ended, so that the writer works (R441) -/
  live : Bool := false
  /-- the operation in progress on the flash; the step due next of a bank's opening -/
  op : Option FlashOp := none
  opening : Option Nat := none
  /-- a floor commit, a software command, wait for the flash -/
  floorDue : Bool := false
  xspDue : Option XspCmd := none
deriving DecidableEq, Repr

/-! ## Power, clocks and the oasis domain (chapter 20) -/

/-- An operating-point step of a cluster (R449, R450): its target; the clock has switched, the regulator has reported, the
settle time has passed. -/
structure OpStep where
  target : Nat
  switched : Bool := false
  reached : Bool := false
  settled : Bool := false
  /-- ticks at the regulator's report (R449) -/
  reachedAt : Nat := 0
deriving DecidableEq, Repr

/-- Stop, entered or being entered (R455-R457): whether HBM is kept, whether a thermal trip entered it, whether the alarm has
come while the sensor was hot; domains still to go, in order; whether the device is in Stop. -/
structure StopState where
  keep : Bool
  thermal : Bool
  alarmed : Bool := false
  todo : List Nat := []
  entered : Bool := false
deriving DecidableEq, Repr

structure Power where
  /-- SAG_WARN_N and THERM_TRIP_N are low -/
  sagLow : Bool := false
  tripLow : Bool := false
  /-- operating-point steps in progress, and the point that an idle PLL has locked to, by cluster -/
  steps : Table OpStep := .empty
  idlePll : Table Nat := .empty
  /-- thermal floors, and clusters at 100 degrees or more that have not cooled since -/
  thermal : Table Nat := .empty
  hot : Table Bool := .empty
  /-- ticks at which a supply warning began (R452), at which each cluster's thermal floor last moved (R454) -/
  sagAt : Nat := 0
  thermAt : Table Nat := .empty
  /-- estimates since a power floor was last raised, estimates in a row below 95 %, the last READ_POUT in W -/
  sinceRaise : Nat := 1000
  below : Nat := 0
  pout : Nat := 0
  /-- a GO write waits for transitions to end; Stop -/
  stopDue : Option StopState := none
  stop : Option StopState := none
  /-- the RTC, in 1/32,768 s -/
  rtc : Nat := 0
  /-- the last Stop kept HBM in self-refresh; a thermal trip entered it -/
  kept : Bool := false
  tripped : Bool := false
deriving DecidableEq, Repr

/-! ## Boot and the security engine (chapter 21) -/

/-- The boot sequencer (R464): its state; PORST_N is high, the REFCLK_100M PLL is locked, monitored rails are down; PCIE_PERST_N
is asserted. -/
structure Boot where
  state : Nat := 0
  /-- ticks at which FLASH was entered (R464) -/
  since : Nat := 0
  porst : Bool := false
  pll : Bool := false
  railsDown : Bool := false
  perst : Bool := false
  /-- BOOT_MODE as sampled -/
  mode : Nat := 0
  /-- the calibration record is valid; the selected owner record permits debug -/
  calOk : Bool := false
  debug : Bool := false
  /-- the trims in force, by entry type 2-6 of the calibration record; a type that is not here has its default (R2, R466) -/
  trims : Table (List Byte) := .empty
  /-- the digests that M0, M1 and M2 will hold -/
  meas : Table (List Byte) := .empty
deriving DecidableEq, Repr

/-- A mailbox command in service or waiting (R478). -/
structure SecCmd where
  ptn : Nat
  op : Nat
  n : Nat
deriving DecidableEq, Repr

structure Sec where
  /-- the device secret, when it has been reconstructed (R467) -/
  secret : Option (List Byte) := none
  /-- mailbox commands waiting, by partition; the one in service; the partition served last -/
  waiting : Table SecCmd := .empty
  serving : Option SecCmd := none
  last : Nat := 15
  /-- digests of the 16 most recent records with DIGEST_VALID: TAG, GEN, digest, newest first (R479) -/
  digests : Table (List (Nat × Nat × List Byte)) := .empty
deriving DecidableEq, Repr

/-- No rule of the spec stops the machine with a fault: every error is a state change. -/
inductive Fault where
deriving DecidableEq, Repr

/-- Why a command is refused. -/
inductive Refusal where
  /-- Raised by a command of the table that has no meaning yet. Safe: nothing is claimed of it. -/
  | notModelled (mnemonic : String)
  /-- Raised by a command whose operands spell no command of the table (`Instr.wf` is false). Safe. -/
  | illFormed (what : String)
deriving DecidableEq, Repr

/-- The device. -/
structure State where
  /-- every register of the catalogue, by local address; an unlisted one holds its reset value -/
  regs : Table Word
  /-- one byte map over the local address space of R22; an unlisted byte reads zero -/
  mem : Table Byte
  /-- the boot flash, keyed by chip select * 2^32 + offset; an unlisted byte is erased, 0xFF -/
  flash : Table Byte
  atu : Atu
  job : JobUnit
  tiles : Table Tile
  /-- saved tasks, keyed by logical tile * 8 + slot -/
  cairns : Table Cairn
  repair : Repair
  /-- the task that holds each mutex, as job and task index, keyed by cluster * 1024 + semaphore, and inherit slices -/
  holders : Table (Nat × Nat)
  slices : List Slice
  dgt : Dgt
  coding : Coding
  gather : Gather
  fhe : Fhe
  /-- PRACH configurations that are enabled -/
  pra : Table PraCfg
  yal : Yal
  mmu : Mmu
  syc : Table SycLine
  harts : Harts
  pciFns : Table PciFn
  pci : Pci
  eth : Eth
  bbx : BlackBox
  power : Power
  boot : Boot
  sec : Sec
  out : List Output
  /-- the model's own: how many free values have been drawn -/
  freeCtr : Nat
  /-- the commands waiting, first in, first out -/
  pending : List Instr
deriving DecidableEq, Repr

/-- The device right after reset. (log 7: DESIGN CHOICE) -/
def State.reset : State where
  regs := .empty
  mem := .empty
  flash := .empty
  atu := {}
  job := {}
  tiles := .empty
  cairns := .empty
  repair := {}
  holders := .empty
  slices := []
  dgt := {}
  coding := {}
  gather := {}
  fhe := {}
  pra := .empty
  yal := {}
  mmu := {}
  syc := .empty
  harts := {}
  pciFns := .empty
  pci := {}
  eth := {}
  bbx := {}
  power := {}
  boot := {}
  sec := {}
  out := []
  freeCtr := 0
  pending := []

end Sys2Proof.Machine
end

