-- ==== Sys2Proof/Machine/Feed.lean ====
section
/-! DEFINITION. The geometry of the matrix array: formats (R131), feed rows (R133-R135) and split modes (R137). -/
namespace Sys2Proof.Machine

def feedBase : Nat := 0x100000
def feedEnd : Nat := 0x1E0000

/-- Window offset of byte b of the word in lane i of feed row r. -/
def feedOff (r i b : Nat) : Nat := feedBase + 256 * r + 4 * i + b

/-- Elements per feed word of an array format (R131). -/
def arrK (fmt : Nat) : Nat :=
  match fmt with
  | 0x2 => 8
  | 0x9 => 8
  | 0xB => 2
  | 0xC => 2
  | 0xD => 1
  | 0xF => 2
  | _ => 4

/-- The MX formats, whose sums are anchored. -/
def arrMx (fmt : Nat) : Bool := decide (5 ≤ fmt) && decide (fmt ≤ 0xA)

/-- Accumulator kinds of R131: 0 integer, 1 fixed point, 2 FP32. -/
def arrKind (fmt : Nat) : Nat :=
  match fmt with
  | 0x0 => 0
  | 0x1 => 0
  | 0x2 => 0
  | 0xE => 0
  | 0xB => 2
  | 0xC => 2
  | 0xD => 2
  | 0xF => 2
  | _ => 1

/-- Product LSB exponent L_f. -/
def arrLsb (fmt : Nat) : Int :=
  match fmt with
  | 0x3 => -18
  | 0x4 => -32
  | 0x5 => -18
  | 0x6 => -32
  | 0x7 => -6
  | 0x8 => -8
  | 0x9 => -2
  | 0xA => -12
  | _ => 0

def arrComplex (fmt : Nat) : Bool := fmt == 0xE || fmt == 0xF

/-- A sub-array (R137): first array row and height, first column and width, first region row, most activation rows. -/
structure SubArray where
  row0 : Nat
  h : Nat
  col0 : Nat
  w : Nat
  maxM : Nat
deriving DecidableEq, Repr

/-- The sub-array that SUB names in a split mode. -/
def subArray (split sub : Nat) : Option SubArray :=
  match split, sub with
  | 0, 0 => some ⟨0, 64, 0, 64, 64⟩
  | 1, 0 => some ⟨0, 64, 0, 32, 64⟩
  | 1, 1 => some ⟨0, 64, 32, 32, 64⟩
  | 2, 0 => some ⟨0, 32, 0, 32, 32⟩
  | 2, 1 => some ⟨0, 32, 32, 32, 32⟩
  | 2, 2 => some ⟨32, 32, 0, 32, 32⟩
  | 2, 3 => some ⟨32, 32, 32, 32, 32⟩
  | _, _ => none

/-- First region row: in quadrants Q2 and Q3 the region starts at row 32, as the array rows do. -/
def SubArray.regRow (a : SubArray) : Nat := if a.h = 32 then a.row0 else 0

/-- Quadrants a sub-array uses, as bits: quadrant q is row half q / 2, column half q mod 2. -/
def quadsOf (split sub : Nat) : Nat :=
  match split, sub with
  | 0, _ => 15
  | 1, 0 => 5
  | 1, _ => 10
  | _, q => 2 ^ q

/-- Groups of an MMUL. -/
def MOp.groups (m : MOp) : Nat := (m.rows + arrK m.fmt - 1) / arrK m.fmt

/-- Feed rows of a weight block, the scale row of an MX block among them. -/
def weightRows (fmt w : Nat) : Nat := w / arrK fmt + b2n (arrMx fmt)

/-- The window offset names a word that the operation reads: lane i of an MMUL reads its own diagonal band only (R134),
and an MX scale row is read whole. -/
def MOp.readsFeed (m : MOp) (off : Nat) : Bool :=
  if off < feedBase ∨ feedEnd ≤ off then false
  else
    let r := (off - feedBase) / 256
    let i := (off - feedBase) % 256 / 4
    match subArray m.split m.sub with
    | none => false
    | some a =>
      if m.op = 2 then decide (m.base ≤ r) && decide (r < m.base + weightRows m.fmt a.w)
      else if m.op = 3 then
        (decide (a.row0 ≤ i) && decide (i < a.row0 + a.h) && decide (m.base + i ≤ r) && decide (r < m.base + i + m.groups))
          || (arrMx m.fmt && r == m.base + m.groups + 63)
      else false

/-- The window offset lies in the feed rows a weight block was read from. -/
def WBlock.covers (w : WBlock) (off : Nat) : Bool :=
  decide (feedOff w.base 0 0 ≤ off) && decide (off < feedOff w.base 0 0 + w.bytes.length)

end Sys2Proof.Machine
end

