-- ==== Sys2Proof/Config.lean ====
section
/-! DEFINITION. What an implementation fixes and the spec does not state: free values. None of these constants has a
value that Lean can see, so a claim that holds for the model holds whatever they are. -/
namespace Sys2Proof

/-- A fresh unstated value: the state's counter of free values picks it, and nothing constrains it. (log 4: DESIGN CHOICE) -/
opaque Config.freeVal : Nat → Nat

/-- The bits of a NaN that an IEEE operation delivers, beside those that make it a quiet NaN: from the format's width
and the operands. (log 27: DESIGN CHOICE) -/
opaque Config.nanBits : Nat → Nat → Nat → Nat → Nat

/-- IEEE 754 leaves open whether tininess is judged before rounding. (log 27: DESIGN CHOICE) -/
opaque Config.tinyBefore : Bool

/-- IEEE 754 leaves open whether a fused multiply-add of zero, infinity and a quiet NaN signals invalid.
(log 27: DESIGN CHOICE) -/
opaque Config.fmaNanInvalid : Bool

/-- TS 38.212, tables 5.3.2-2 and 5.3.2-3: the shift of cell (row, column) of a base graph for a lifting set, or no edge.
(log 54: PRESUMED) -/
opaque Config.ldpcShift : Nat → Nat → Nat → Nat → Option Nat

/-- TS 38.212, table 5.3.1.2-1: the polar sequence, in ascending reliability. (log 54: PRESUMED) -/
opaque Config.polarSeq : Nat → Nat

/-- TS 38.212, table 5.3.1.1-1: the interleaving pattern of 164 entries. (log 54: PRESUMED) -/
opaque Config.polarInterleave : Nat → Nat

/-- TS 38.211, table 6.4.1.4.3-1: the sounded bandwidth in PRBs of C_SRS and B_SRS. (log 80: PRESUMED) -/
opaque Config.srsBandwidth : Nat → Nat → Nat

/-- TS 38.211, tables 6.3.3.1-3 and 6.3.3.1-4: the root number u of a logical index, for a sequence length.
(log 80: PRESUMED) -/
opaque Config.praRoot : Nat → Nat → Nat

/-- The fixed scale of the searcher's IDFT outputs for a sequence length (R262), in units of 2^-64: the spec states only what it
gives at full scale, and the searcher holds it within that. (log 81: DESIGN CHOICE) -/
opaque Config.praScale : Nat → Nat

/-- What the PUF and helper data give: the device secret, or no reconstruction (R466, R467). (log 134: DESIGN CHOICE) -/
opaque Config.pufSecret : List (BitVec 8) → Option (List (BitVec 8))

/-- The Oteryon root hash, fixed in logic (R466), by byte. (log 134: DESIGN CHOICE) -/
opaque Config.rootHash : Nat → BitVec 8

end Sys2Proof
end

