-- ==== Sys2Proof/Machine/Crypto.lean ====
section
/-! DEFINITION. The check values and hashes the spec names: the CRCs of R301, SHA-256, HMAC and the list digest of R416. -/
namespace Sys2Proof.Machine

/-! ## CRCs (R301) -/

/-- Bits of a byte, most significant first. -/
def bitsMsb (b : Nat) : List Nat := [b / 128 % 2, b / 64 % 2, b / 32 % 2, b / 16 % 2, b / 8 % 2, b / 4 % 2, b / 2 % 2, b % 2]

/-- The value of `n` bits read in the opposite order. -/
def revBits : Nat → Nat → Nat
  | 0, _ => 0
  | n + 1, x => x % 2 * 2 ^ n + revBits n (x / 2)

/-- One code of R301: width, polynomial, whether it is reflected, and its final XOR. -/
structure CrcCode where
  width : Nat
  poly : Nat
  reflected : Bool
  final : Nat
deriving DecidableEq, Repr

/-- The table of R301 by code. -/
def crcCode : Nat → CrcCode
  | 0 => ⟨24, 0x864CFB, false, 0⟩
  | 1 => ⟨24, 0x800063, false, 0⟩
  | 2 => ⟨24, 0xB2B117, false, 0⟩
  | 3 => ⟨16, 0x1021, false, 0⟩
  | 4 => ⟨11, 0x621, false, 0⟩
  | 5 => ⟨6, 0x21, false, 0⟩
  | 6 => ⟨32, 0x04C11DB7, true, 0xFFFFFFFF⟩
  | _ => ⟨32, 0x1EDC6F41, true, 0xFFFFFFFF⟩

/-- Feed one bit, most significant end out. -/
def crcBitMsb (c : CrcCode) (v b : Nat) : Nat :=
  let top := v / 2 ^ (c.width - 1) % 2
  let sh := v * 2 % 2 ^ c.width
  if (top + b) % 2 = 1 then sh ^^^ c.poly else sh

/-- Feed one bit into a reflected register. -/
def crcBitLsb (c : CrcCode) (v b : Nat) : Nat :=
  let sh := v / 2
  if (v + b) % 2 = 1 then sh ^^^ revBits c.width c.poly else sh

/-- Feed a list of bits, already in feed order. -/
def crcFeedBits (c : CrcCode) (v : Nat) : List Nat → Nat
  | [] => v
  | b :: bs => crcFeedBits c (if c.reflected then crcBitLsb c v b else crcBitMsb c v b) bs

/-- The bits of a byte in the feed order of a code. -/
def feedOrder (c : CrcCode) (b : Byte) : List Nat :=
  if c.reflected then (bitsMsb b.toNat).reverse else bitsMsb b.toNat

/-- Feed bytes. -/
def crcFeed (c : CrcCode) (v : Nat) (bs : List Byte) : Nat :=
  bs.foldl (fun v b => crcFeedBits c v (feedOrder c b)) v

/-- CRC32C (R301 code 7) of a byte string: initial value all ones, final XOR all ones. -/
def crc32c (bs : List Byte) : Nat := crcFeed (crcCode 7) 0xFFFFFFFF bs ^^^ 0xFFFFFFFF

/-! ## SHA-256

The working variables a to h are one 256-bit number, and the sixteen schedule words in use are one 512-bit number, a block as it stands;
both have their first word on top. -/

/-- Word k of a number of n 32-bit words, the first on top. -/
def wordOf (n x k : Nat) : Nat := x / 2 ^ (32 * (n - 1 - k)) % 2 ^ 32

/-- Rotate a 32-bit word right by n. -/
def turnRight (x n : Nat) : Nat := (x * 2 ^ 32 + x) / 2 ^ n % 2 ^ 32

/-- The round constants, eight to a number. -/
def roundConsts : List Nat :=
  [0x428a2f9871374491b5c0fbcfe9b5dba53956c25b59f111f1923f82a4ab1c5ed5,
   0xd807aa9812835b01243185be550c7dc372be5d7480deb1fe9bdc06a7c19bf174,
   0xe49b69c1efbe47860fc19dc6240ca1cc2de92c6f4a7484aa5cb0a9dc76f988da,
   0x983e5152a831c66db00327c8bf597fc7c6e00bf3d5a7914706ca635114292967] ++
  [0x27b70a852e1b21384d2c6dfc53380d13650a7354766a0abb81c2c92e92722c85,
   0xa2bfe8a1a81a664bc24b8b70c76c51a3d192e819d6990624f40e3585106aa070,
   0x19a4c1161e376c082748774c34b0bcb5391c0cb34ed8aa4a5b9cca4f682e6ff3,
   0x748f82ee78a5636f84c878148cc7020890befffaa4506cebbef9a3f7c67178f2]

def roundConst (t : Nat) : Nat := wordOf 8 (roundConsts.getD (t / 8) 0) (t % 8)

/-- The schedule moves on by one word. -/
def slide (w : Nat) : Nat :=
  let x := wordOf 16 w 1
  let y := wordOf 16 w 14
  let small := turnRight x 7 ^^^ turnRight x 18 ^^^ x / 8
  let large := turnRight y 17 ^^^ turnRight y 19 ^^^ y / 1024
  w % 2 ^ 480 * 2 ^ 32 + (small + large + wordOf 16 w 0 + wordOf 16 w 9) % 2 ^ 32

/-- Round t: every variable takes the one before it; a and e are new. -/
def hashRound (t w v : Nat) : Nat :=
  let x := wordOf 8 v
  let fromE := turnRight (x 4) 6 ^^^ turnRight (x 4) 11 ^^^ turnRight (x 4) 25
  let choice := x 6 ^^^ (x 4 &&& (x 5 ^^^ x 6))
  let sum := x 7 + fromE + choice + roundConst t + wordOf 16 w 0
  let fromA := turnRight (x 0) 2 ^^^ turnRight (x 0) 13 ^^^ turnRight (x 0) 22
  let most := (x 0 &&& x 1) ||| (x 2 &&& (x 0 ||| x 1))
  let e := (x 3 + sum) % 2 ^ 32
  (sum + fromA + most) % 2 ^ 32 * 2 ^ 224 + v / 2 ^ 160 * 2 ^ 128 + e * 2 ^ 96 + v / 2 ^ 32 % 2 ^ 96

/-- The rounds from t on. -/
def hashRounds : Nat → Nat → Nat → Nat → Nat
  | 0, _, _, v => v
  | n + 1, t, w, v => hashRounds n (t + 1) (slide w) (hashRound t w v)

/-- A big-endian number. -/
def beNum (bs : List Byte) : Nat := ofBytes bs.reverse

/-- Take one block of 64 bytes into the hash value. -/
def hashBlock (h : Nat) (block : List Byte) : Nat :=
  let v := hashRounds 64 0 (beNum block) h
  (List.range 8).foldl (fun acc k => acc * 2 ^ 32 + (wordOf 8 h k + wordOf 8 v k) % 2 ^ 32) 0

/-- Take n blocks. -/
def hashBlocks : Nat → Nat → List Byte → Nat
  | 0, h, _ => h
  | n + 1, h, bs => hashBlocks n (hashBlock h (bs.take 64)) (bs.drop 64)

/-- SHA-256 of a byte string. (log 133: PRESUMED) -/
def sha256 (bs : List Byte) : List Byte :=
  let n := bs.length
  let padded := bs ++ 0x80#8 :: List.replicate ((119 - n % 64) % 64) 0#8 ++ (bytesOf 8 (8 * n)).reverse
  let start := 0x6a09e667bb67ae853c6ef372a54ff53a510e527f9b05688c1f83d9ab5be0cd19
  (bytesOf 32 (hashBlocks (padded.length / 64) start padded)).reverse

/-- HMAC-SHA-256. (log 133: PRESUMED) -/
def hmac (key msg : List Byte) : List Byte :=
  let k := if 64 < key.length then sha256 key else key
  let k := k ++ List.replicate (64 - k.length) 0#8
  sha256 ((k.map fun b => b ^^^ 0x5C#8) ++ sha256 ((k.map fun b => b ^^^ 0x36#8) ++ msg))

/-- 32 zero bytes: the leaf of an entry without one (R415), and the digest of no leaves (R416). -/
def zero32 : List Byte := List.replicate 32 0#8

/-- One level of the tree of R416: neighbours hashed in pairs, an odd last node carried up. -/
def digestLevel : List (List Byte) → List (List Byte)
  | [] => []
  | [x] => [x]
  | x :: y :: rest => sha256 ([0x01#8] ++ x ++ y) :: digestLevel rest

/-- Apply levels until one node is left; `fuel` is the number of nodes. -/
def digestRoot : Nat → List (List Byte) → List Byte
  | 0, ns => ns.headD zero32
  | k + 1, ns =>
    match ns with
    | [] => zero32
    | [x] => x
    | ns => digestRoot k (digestLevel ns)

/-- The list digest of R416. -/
def listDigest (leaves : List (List Byte)) : List Byte :=
  if leaves.isEmpty then zero32
  else sha256 ([0x02#8] ++ bytesOf 4 leaves.length ++ digestRoot leaves.length leaves)

end Sys2Proof.Machine
end

