-- ==== Sys2Proof/Machine/Ops.lean ====
section
/-! DEFINITION. The named operations over registers, memory, time, semaphores, records and events that every unit's
meanings are written with. -/
namespace Sys2Proof.Machine

/-! ## Registers -/

/-- The register word at a local address. -/
def State.regAt (s : State) (a : Nat) : Word := s.regs.get regReset a

/-- Set the register word at a local address. -/
def State.setRegAt (s : State) (a : Nat) (v : Word) : State := { s with regs := s.regs.set regReset a v }

/-- Copy (i, j) of a register. -/
def State.reg (s : State) (r : Reg) (i : Nat := 0) (j : Nat := 0) : Nat := (s.regAt (r.addr i j)).toNat

def State.setReg (s : State) (r : Reg) (v : Nat) (i : Nat := 0) (j : Nat := 0) : State :=
  s.setRegAt (r.addr i j) (BitVec.ofNat 32 v)

/-- A field of copy (i, j) of its register. -/
def State.fld (s : State) (f : Fld) (i : Nat := 0) (j : Nat := 0) : Nat := bits (s.reg f.reg i j) f.hi f.lo

/-- A one-bit field as a Bool. -/
def State.flag (s : State) (f : Fld) (i : Nat := 0) (j : Nat := 0) : Bool := s.fld f i j == 1

/-- Replace a field of copy (i, j) of its register. -/
def State.setFld (s : State) (f : Fld) (v : Nat) (i : Nat := 0) (j : Nat := 0) : State :=
  s.setReg f.reg (setBits (s.reg f.reg i j) f.hi f.lo v) i j

/-- Add to a count that saturates at its field's width. -/
def State.incSat (s : State) (f : Fld) (n : Nat) (i : Nat := 0) (j : Nat := 0) : State :=
  s.setFld f (satAdd (s.fld f i j) n (2 ^ (f.hi + 1 - f.lo) - 1)) i j

/-- Add to a free-running count that wraps at its field's width. -/
def State.incWrap (s : State) (f : Fld) (n : Nat) (i : Nat := 0) (j : Nat := 0) : State :=
  s.setFld f (s.fld f i j + n) i j

/-- A word written over a register's under R9: RW fields take the written bits, W1C fields clear where a 1 is written, the
others keep theirs. -/
def writtenWord (old v : Nat) : List FldRow → Nat
  | [] => old
  | f :: fs =>
    let old := match f.acc with
      | .rw => setBits old f.fld.hi f.fld.lo (bits v f.fld.hi f.fld.lo)
      | .w1c => setBits old f.fld.hi f.fld.lo (bits old f.fld.hi f.fld.lo &&& (2 ^ 32 - 1 - bits v f.fld.hi f.fld.lo))
      | _ => old
    writtenWord old v fs

/-- A plain write of the register at local address `a`. -/
def State.plainWrite (s : State) (a v : Nat) : State :=
  match rowAt a with
  | some (r, _, _) => s.setRegAt a (BitVec.ofNat 32 (writtenWord (s.regAt a).toNat v r.rows))
  | none => s

def State.writeReg (s : State) (r : Reg) (v : Nat) (i : Nat := 0) (j : Nat := 0) : State := s.plainWrite (r.addr i j) v

/-- A 40- or 48-bit address held in a LO and a HI register. -/
def State.addrOf (s : State) (lo hi : Reg) (i : Nat := 0) (j : Nat := 0) : Nat := s.reg lo i j + 2 ^ 32 * s.reg hi i j

/-! ## Free values -/

/-- Draw a free value: nothing constrains it. (log 4: DESIGN CHOICE) -/
def State.draw (s : State) : Nat × State := (Config.freeVal s.freeCtr, { s with freeCtr := s.freeCtr + 1 })

/-- The free value that the next draw gives. -/
def State.nextFree (s : State) : Nat := Config.freeVal s.freeCtr

/-! ## Memory: raw bytes of the local address space -/

/-- What an unlisted byte of memory reads as. (log 5: DESIGN CHOICE) -/
def memReset (_ : Nat) : Byte := 0#8

/-- The canonical form of memory: addresses strictly rising, no entry equal to what an unlisted byte reads as. -/
def Memory.wf (m : Table Byte) : Bool := m.wf memReset

/-- (log 5: DESIGN CHOICE) -/
def State.byte (s : State) (a : Nat) : Byte := s.mem.get memReset a

/-- `n` bytes from address `a` up. -/
def State.read (s : State) (a : Nat) : Nat → List Byte
  | 0 => []
  | n + 1 => s.byte a :: s.read (a + 1) n

/-- A little-endian number of `n` bytes. -/
def State.readNum (s : State) (a n : Nat) : Nat := ofBytes (s.read a n)

/-- Write bytes from address `a` up. -/
def pokeMem (m : Table Byte) (a : Nat) : List Byte → Table Byte
  | [] => m
  | b :: bs => pokeMem (m.set memReset a b) (a + 1) bs

def State.poke (s : State) (a : Nat) (bs : List Byte) : State := { s with mem := pokeMem s.mem a bs }

/-- Clear every byte in [lo, hi): memories lost or cleared to zero (R446). -/
def State.clearMem (s : State) (lo hi : Nat) : State :=
  { s with mem := s.mem.keep fun a => decide (a < lo ∨ hi ≤ a) }

/-- Forget every register word in [lo, hi): the registers of a domain hold their reset values again. -/
def State.clearRegs (s : State) (lo hi : Nat) : State :=
  { s with regs := s.regs.keep fun a => decide (a < lo ∨ hi ≤ a) }

/-! ## The address map (R22-R25) -/

/-- Where a local address lies. -/
inductive Region where
  | sram | oasis | sysReg | tileReg (t : Nat) | cluReg (c : Nat) | doorbell (p k off : Nat)
  | tileMem (t off : Nat) | cluMem (c off : Nat) | hbm (q : Nat) | pcie (r off : Nat) | reserved
deriving DecidableEq, Repr

def hbmBase : Nat := 0x1000000000
def hbmEnd : Nat := 0x3400000000
def pchSize : Nat := 0x48000000
def tileMemBase (t : Nat) : Nat := 0x0100000000 + t * 0x02000000
def cluMemBase (c : Nat) : Nat := 0x0200000000 + c * 0x01000000

/-- The map of R22. -/
def region (a : Nat) : Region :=
  if a < 0x00400000 then .sram
  else if 0x02000000 ≤ a ∧ a < 0x02001000 then .oasis
  else if 0x40000000 ≤ a ∧ a < 0x50000000 then .sysReg
  else if 0x50000000 ≤ a ∧ a < 0x54000000 then .tileReg ((a - 0x50000000) / 0x100000)
  else if 0x58000000 ≤ a ∧ a < 0x5C000000 then .cluReg ((a - 0x58000000) / 0x1000000)
  else if 0x60000000 ≤ a ∧ a < 0x70000000 then
    .doorbell ((a - 0x60000000) / 0x1000000) ((a - 0x60000000) / 0x1000 % 4096) (a % 0x1000)
  else if 0x0100000000 ≤ a ∧ a < 0x0180000000 then
    let t := (a - 0x0100000000) / 0x02000000
    let off := (a - 0x0100000000) % 0x02000000
    if off < 0x200000 then .tileMem t off else .reserved
  else if 0x0200000000 ≤ a ∧ a < 0x0204000000 then
    let c := (a - 0x0200000000) / 0x01000000
    let off := (a - 0x0200000000) % 0x01000000
    if off < 0xC00000 then .cluMem c off else .reserved
  else if hbmBase ≤ a ∧ a < hbmEnd then .hbm ((a - hbmBase) / pchSize)
  else if 0x8000000000 ≤ a ∧ a < 0x10000000000 then
    .pcie ((a - 0x8000000000) / 0x800000000) ((a - 0x8000000000) % 0x800000000)
  else .reserved

/-- The power domain of a local address (R444); the blocks with no domain of their own lie in the system fabric.
(log 10: DESIGN CHOICE) -/
def domainOf (a : Nat) : Nat :=
  match region a with
  | .oasis => 81
  | .tileReg t => t
  | .tileMem t _ => t
  | .cluReg c => 64 + c
  | .cluMem c _ => 64 + c
  | .hbm q => 68 + q / 32
  | .pcie _ _ => 76
  | .sysReg =>
    match (a - 0x40000000) / 0x10000 with
    | 4 => 77
    | 8 => 68
    | 9 => 69
    | 10 => 70
    | 11 => 71
    | 19 => 74
    | 20 => 75
    | 21 => 74
    | 22 => 76
    | 24 => 78
    | 31 => 80
    | _ => 79
  | _ => 79

/-- Power domain `d` is ON (R446). (log 10: DESIGN CHOICE) -/
def State.domOn (s : State) (d : Nat) : Bool := s.fld PWR_DOM_STAT.STATE d == 0

/-- Domain 75 is ON, or DRAINING: the packets in flight to and from the links still move, so that they complete (R446).
(log 125: DEDUCED) -/
def State.linksWork (s : State) : Bool := decide (s.fld PWR_DOM_STAT.STATE 75 ≤ 1)

/-! ## Partitions (R341-R343) -/

def State.manager (s : State) : Nat := s.fld PTN_CTL.MGR
def State.timeOwner (s : State) : Nat := s.fld PTN_CTL.TIME_OWNER
def State.ptnOn (s : State) (p : Nat) : Bool := s.flag PTN_CFG.EN p

/-- The logical tiles of partition p, ascending. -/
def State.tilesOf (s : State) (p : Nat) : List Nat :=
  bitsSet 64 (s.reg PTN_TILE_LO p + 2 ^ 32 * s.reg PTN_TILE_HI p)

def State.ownsTile (s : State) (p t : Nat) : Bool :=
  bit (s.reg PTN_TILE_LO p + 2 ^ 32 * s.reg PTN_TILE_HI p) t

/-- The enabled partition that satisfies `f`, the lowest. -/
def State.ptnWhere (s : State) (f : Nat → Bool) : Option Nat :=
  firstFrom (fun p => s.ptnOn p && f p) 0 16

def State.tileOwner (s : State) (t : Nat) : Option Nat := s.ptnWhere fun p => s.ownsTile p t

/-- Pseudo-channel q is set in partition p's PTN_PCH registers. -/
def State.ownsPch (s : State) (p q : Nat) : Bool := bit (s.reg PTN_PCH p (q / 32)) (q % 32)

/-- Pseudo-channel q is retired, or a read has met an error there that retires it (R377, R378). -/
def State.pchRetired (s : State) (q : Nat) : Bool :=
  s.fld HBM_PCH.STATE (q / 32) (q % 32) == 1
    || s.mmu.met.any fun m => decide (m.err = .persist) && (m.addr - hbmBase) / pchSize == q

/-- Semaphore i of cluster c lies in partition p's range. -/
def State.ownsSem (s : State) (p c i : Nat) : Bool :=
  s.flag PTN_SEM.V p c && decide (s.fld PTN_SEM.FIRST p c ≤ i) && decide (i ≤ s.fld PTN_SEM.LAST p c)

def State.semOwner (s : State) (c i : Nat) : Option Nat := s.ptnWhere fun p => s.ownsSem p c i

/-- Semaphore i of cluster c is a mutex (R362). -/
def State.isMutex (s : State) (c i : Nat) : Bool :=
  match s.semOwner c i with
  | some p => decide (i < s.fld PTN_SEM.FIRST p c + s.fld PTN_SEM.MUTEX_N p c)
  | none => false

/-- Trigger index i lies in partition p's range. -/
def State.ownsTrg (s : State) (p i : Nat) : Bool :=
  s.flag PTN_TRG.V p && decide (s.fld PTN_TRG.FIRST p ≤ i) && decide (i ≤ s.fld PTN_TRG.LAST p)

/-- A belay command has stopped partition p's flows on a port, or the whole port (R94): kind 0 Ethernet, 1 Yalelle. -/
def State.portStopped (s : State) (kind port p : Nat) : Bool :=
  s.job.stops.any fun x => x.kind == kind && x.port == port && (x.whole || x.ptn == p)

/-! ## Time (R40, R60, R61) -/

/-- Units of 2^-32 ns in one nanosecond. -/
def nsUnit : Nat := 2 ^ 32

/-- The counter as a number of units of 2^-32 ns. -/
def Atu.now (a : Atu) : Nat := (a.sec.toNat * 1000000000 + a.ns.toNat) * nsUnit + a.frac.toNat

/-- The counter set to a number of units of 2^-32 ns, with the carries of R40 and the seconds wrapping at 2^48. -/
def Atu.setNow (a : Atu) (u : Nat) : Atu :=
  { a with sec := BitVec.ofNat 48 (u / (1000000000 * nsUnit)),
           ns := BitVec.ofNat 30 (u / nsUnit % 1000000000),
           frac := BitVec.ofNat 32 (u % nsUnit) }

def State.now (s : State) : Nat := s.atu.now

/-- Whole ticks of 983.04 MHz in a microsecond, in a millisecond and in 100 ms (R41). (log 165: DEDUCED) -/
def ticksPerUs : Nat := 983
def ticksPerMs : Nat := 983040
def ticksPer100Ms : Nat := 98304000

/-- `n` ticks have passed since the count stood at `since`. (log 165: DEDUCED) -/
def State.passed (s : State) (since n : Nat) : Bool := decide (n ≤ s.atu.ticks - since)

/-- The global count of R61. -/
def State.count (s : State) : Nat := (s.atu.sec.toNat * 1000000000 + s.atu.ns.toNat) % 2 ^ 64

/-- A time's 32-bit timestamp (R60). -/
def stamp32 (units : Nat) : Nat := units / nsUnit % 2 ^ 32

/-! ## Unit records -/

def State.tile (s : State) (t : Nat) : Tile := s.tiles.getD t {}
def State.setTile (s : State) (t : Nat) (x : Tile) : State := { s with tiles := s.tiles.put t x }
def State.modTile (s : State) (t : Nat) (f : Tile → Tile) : State := s.setTile t (f (s.tile t))

def State.jobPtn (s : State) (p : Nat) : JobPtn := s.job.ptns.getD p {}
def State.setJobPtn (s : State) (p : Nat) (x : JobPtn) : State :=
  { s with job := { s.job with ptns := s.job.ptns.put p x } }
def State.modJobPtn (s : State) (p : Nat) (f : JobPtn → JobPtn) : State := s.setJobPtn p (f (s.jobPtn p))

def State.job? (s : State) (j : Nat) : Option Job := s.job.jobs.find? j
def State.putJob (s : State) (j : Nat) (x : Job) : State :=
  { s with job := { s.job with jobs := s.job.jobs.put j x } }
def State.modJob (s : State) (j : Nat) (f : Job → Job) : State :=
  match s.job? j with
  | some x => s.putJob j (f x)
  | none => s

/-- The jobs accepted and not yet recorded, in order of fetching. -/
def State.jobList (s : State) : List (Nat × Job) := s.job.jobs.rows

/-- Fold a state over a list. -/
def forEach {α : Type} (xs : List α) (f : α → State → State) (s : State) : State := xs.foldl (fun s x => f x s) s

/-! ## Events (R89, R434-R436) -/

/-- An event as it is raised: its code, the partition concerned or the owners of a device-wide resource, UNIT, and DATA
as a list of (bytes, value) items. -/
structure Event where
  code : Nat
  /-- `some p` with DEVICE = 0; `none` with DEVICE = 1 -/
  ptn : Option Nat
  owners : List Nat := []
  unit : Nat := 0
  data : List (Nat × Nat) := []
  tag : Nat := 0
  gen : Nat := 0
deriving DecidableEq, Repr

/-- An item of DATA that fits a 32-bit word. (log 11: DESIGN CHOICE) -/
def w32 (x : Nat) : Nat × Nat := (4, x)
/-- An item of DATA that may need 64 bits. (log 11: DESIGN CHOICE) -/
def w64 (x : Nat) : Nat × Nat := (8, x)

/-- `n` bytes: the list cut or zero-filled. (log 11: DESIGN CHOICE) -/
def fitBytes (n : Nat) (bs : List Byte) : List Byte := (bs ++ List.replicate n 0#8).take n

/-- The 64 bytes of an event record with byte 0 zero (R434). (log 11: DESIGN CHOICE) -/
def eventBytes (s : State) (e : Event) : List Byte :=
  let body :=
    [0#8, 0#8] ++ bytesOf 2 e.code ++ bytesOf 4 (stamp32 s.now) ++ bytesOf 4 e.tag ++ bytesOf 1 e.gen
      ++ bytesOf 1 (match e.ptn with
        | some p => p
        | none => 16)
      ++ bytesOf 2 e.unit
      ++ fitBytes 32 (e.data.flatMap fun d => bytesOf d.1 d.2)
      ++ bytesOf 8 s.count ++ bytesOf 4 s.bbx.rseq
  body ++ bytesOf 4 (crc32c (body.drop 1))

end Sys2Proof.Machine
end

