-- ==== Sys2Proof/Machine/Packet.lean ====
section
/-! DEFINITION. Yalelle packets on their way out (chapter 17): packets (R402, R403), the flits of a link and their replay buffer
(R396, R397, R401), routes and requests (R404-R406). -/
namespace Sys2Proof.Machine

/-- This device's chip id. -/
def State.chipId (s : State) : Nat := s.fld SYS_CHIPID.ID

/-! ## The fault codes of R86 that an access can end with -/

def fcMmuFault : Nat := 0x0015
def fcAddrUnmapped : Nat := 0x0020
def fcRouteMiss : Nat := 0x0021
def fcLinkTimeout : Nat := 0x0022
def fcParityPersist : Nat := 0x0031

/-! ## Packets (R402, R403) -/

def pkRdReq : Nat := 1
def pkRdRsp : Nat := 2
def pkWr : Nat := 3
def pkWrAck : Nat := 4
def pkAtom : Nat := 5
def pkAtomRsp : Nat := 6
def pkErrRsp : Nat := 7
def pkBelay : Nat := 8
def pkGpoolReq : Nat := 9
def pkGpoolRsp : Nat := 10
def pkDigest : Nat := 11

/-- Data follows the header of this type. -/
def pkHasData (k : Nat) : Bool := k == 2 || k == 3 || k == 5 || k == 6 || (decide (8 ≤ k) && decide (k ≤ 11))

/-- A response. -/
def pkIsResponse (k : Nat) : Bool := k == 2 || k == 4 || k == 6 || k == 7 || k == 10

/-- A request that is due one response. -/
def pkIsRequest (k : Nat) : Bool := k == 1 || k == 3 || k == 5 || k == 9

def Packet.header (p : Packet) : List Byte :=
  bytesOf 2 (p.dst % 4096 + p.srcPtn % 16 * 4096) ++ bytesOf 2 (p.src % 4096) ++ bytesOf 1 (p.kind % 32 + p.vc % 8 * 32)
    ++ bytesOf 1 (p.hops % 16) ++ bytesOf 3 p.path ++ bytesOf 1 p.op ++ bytesOf 2 (p.len % 4096) ++ bytesOf 2 p.tag
    ++ bytesOf 2 0 ++ bytesOf 5 p.addr ++ bytesOf 3 0

/-- (log 52: DESIGN CHOICE) -/
def Packet.bytes (p : Packet) : List Byte := p.header ++ if pkHasData p.kind then fitBytes (p.len + 1) p.data else []

/-- The packet at the front of a channel's bytes with the bytes that follow it, once it is whole; `pad` when the bytes
left spell no type, which ends a flit's packets. -/
inductive Cut where
  | whole (p : Packet) (rest : List Byte)
  | more
  | pad
deriving DecidableEq, Repr

/-- The bytes begin with a header that R402 and R403 allow on channel vc. (log 52: DESIGN CHOICE) -/
def headerOk (vc : Nat) (bs : List Byte) : Bool :=
  let k := field bs 4 1 % 32
  decide (24 ≤ bs.length) && decide (1 ≤ k) && decide (k ≤ pkDigest) && field bs 4 1 / 32 == vc && decide (field bs 2 2 < 4096)
    && decide (field bs 5 1 ≤ 8) && decide (field bs 10 2 < 4096) && field bs 14 2 == 0 && field bs 21 3 == 0

/-- A tail of one to four zero bytes may be a flit's padding or the first bytes of a header. (log 52: DESIGN CHOICE) -/
def cutPacket (bs : List Byte) : Cut :=
  let k := field bs 4 1 % 32
  let n := if pkHasData k then field bs 10 2 % 4096 + 1 else 0
  if bs.isEmpty then .pad
  else if bs.length < 5 then .more
  else if k = 0 then .pad
  else if bs.length < 24 ∨ bs.length < 24 + n then .more
  else
    .whole
      { dst := field bs 0 2 % 4096, srcPtn := field bs 0 2 / 4096, src := field bs 2 2 % 4096, kind := k,
        vc := field bs 4 1 / 32, hops := field bs 5 1 % 16, path := field bs 6 3, op := field bs 9 1,
        len := field bs 10 2 % 4096, tag := field bs 12 2, addr := field bs 16 5, data := (bs.drop 24).take n }
      (bs.drop (24 + n))

/-- What an earlier flit of channel vc left and the payload of its next one: a few zeros stay where they begin a header.
(log 52: DESIGN CHOICE) -/
def joinPayload (vc : Nat) (left payload : List Byte) : List Byte :=
  if left.length < 5 && left.all (· == 0#8) && !headerOk vc (left ++ payload) then payload else left ++ payload

/-- The packets that a channel's bytes make, and what is left; `fuel` bounds their number. -/
def cutAll : Nat → List Byte → List Packet × List Byte
  | 0, bs => ([], bs)
  | n + 1, bs =>
    match cutPacket bs with
    | .whole p rest =>
      let (ps, left) := cutAll n rest
      (p :: ps, left)
    | .more => ([], bs)
    | .pad => ([], [])

/-! ## Links -/

def linkDown : Nat := 0
def linkTrain : Nat := 1
def linkUp : Nat := 2
def linkDegraded : Nat := 3
def linkRetrain : Nat := 4
def linkFailed : Nat := 5

def State.link (s : State) (k : Nat) : Link := s.yal.links.getD k {}
def State.setLink (s : State) (k : Nat) (x : Link) : State :=
  { s with yal := { s.yal with links := s.yal.links.put k x } }
def State.linkState (s : State) (k : Nat) : Nat := s.fld YAL_LINK_STAT.STATE k

/-- The link is usable (R398). -/
def State.linkUsable (s : State) (k : Nat) : Bool := s.linkState k == linkUp || s.linkState k == linkDegraded

/-- A flit's 256 bytes (R396). (log 52: DESIGN CHOICE) -/
def flitBytes (seq ack vc : Nat) (nak idle : Bool) (cvc credits : Nat) (payload : List Byte) : List Byte :=
  let hdr := seq % 4096 + ack % 4096 * 2 ^ 12 + vc % 8 * 2 ^ 24 + b2n nak * 2 ^ 27 + b2n idle * 2 ^ 28 + cvc % 8 * 2 ^ 29
    + credits % 256 * 2 ^ 32
  let b := bytesOf 8 hdr ++ fitBytes 244 payload
  b ++ bytesOf 4 (crc32c b)

/-- A flit as it leaves, with the ACK of the time. -/
def SentFlit.bytes (f : SentFlit) (ack : Nat) : List Byte :=
  match f.pay with
  | some (vc, p) => flitBytes f.seq ack vc false false f.cvc f.credits p
  | none => flitBytes f.seq ack 0 false true f.cvc f.credits []

/-- The channel whose credits are returned next, and how many. (log 109: DESIGN CHOICE) -/
def Link.owes (l : Link) : Nat × Nat :=
  match firstFrom (fun v => l.owed.get (fun _ => 0) v != 0) 0 8 with
  | some v => (v, min (l.owed.get (fun _ => 0) v) 255)
  | none => (0, 0)

/-- Put a numbered flit on link k's wire, with the credits that it returns: it waits in the replay buffer for its ACK. `pay` is
its channel and payload; none is an IDLE flit. -/
def State.putNumbered (s : State) (k : Nat) (pay : Option (Nat × List Byte)) : State :=
  let l := s.link k
  let (cvc, cr) := l.owes
  let f : SentFlit := { seq := (l.txSeq + 1) % 4096, pay := pay, cvc := cvc, credits := cr, tries := 0 }
  let s := s.setLink k { l with txSeq := f.seq, replay := l.replay ++ [f],
                                owed := l.owed.set (fun _ => 0) cvc (l.owed.get (fun _ => 0) cvc - cr) }
  { s with out := .flit k (f.bytes l.rxSeq) :: s.out }

/-- An IDLE flit that carries an ACK, or a NAK: it takes no SEQ. -/
def State.putIdle (s : State) (k : Nat) (nak : Bool) : State :=
  let l := s.link k
  { s with out := .flit k (flitBytes l.txSeq l.rxSeq 0 nak true 0 0 []) :: s.out }

/-- The channel that sends next: VC0 first, then round-robin among the channels that hold a credit (R400, R401). -/
def Link.nextVc (l : Link) : Option Nat :=
  let ok := fun v => (l.txq.any fun q => q.pkt.vc == v) && l.credit.get (fun _ => 0) v != 0
  if ok 0 then some 0 else firstFrom (fun i => ok (1 + (l.rr + i) % 7)) 0 7 |>.map fun i => 1 + (l.rr + i) % 7

/-- The next flit of channel v, and the queue without it. -/
def takeFlitOf (v : Nat) : List TxPkt → Option (List Byte × List TxPkt)
  | [] => none
  | q :: qs =>
    if q.pkt.vc = v then
      match q.left with
      | [] => none
      | [f] => some (f, qs)
      | f :: g :: fs => some (f, { q with left := g :: fs, begun := true } :: qs)
    else (takeFlitOf v qs).map fun r => (r.1, q :: r.2)

/-- Send what credits and the replay buffer of 512 flits allow; `fuel` bounds the flits. (log 174: DESIGN CHOICE) -/
def State.pump (s : State) (k : Nat) : Nat → State
  | 0 => s
  | n + 1 =>
    let l := s.link k
    if ¬s.linkUsable k ∨ 512 ≤ l.replay.length then s
    else
      match l.nextVc with
      | none => s
      | some v =>
        match takeFlitOf v l.txq with
        | none => s
        | some (p, txq) =>
          let l := { l with txq := txq, rr := if v = 0 then l.rr else v % 7,
                            credit := l.credit.set (fun _ => 0) v (l.credit.get (fun _ => 0) v - 1) }
          ((s.setLink k l).putNumbered k (some (v, p))).pump k n

/-- Credits that no flit has carried yet go back in IDLE flits; `fuel` bounds their channels. (log 111: DEDUCED) -/
def State.returnCredits (s : State) (k : Nat) : Nat → State
  | 0 => s
  | n + 1 =>
    let l := s.link k
    if ¬s.linkUsable k ∨ 512 ≤ l.replay.length ∨ l.owes.2 = 0 then s else (s.putNumbered k none).returnCredits k n

/-- Bytes cut into flit payloads. -/
def payloads : Nat → List Byte → List (List Byte)
  | 0, _ => []
  | n + 1, bs => if bs.isEmpty then [] else bs.take 244 :: payloads n (bs.drop 244)

/-- Queue a packet on link k, as the next hop of its path, and send what can go; a channel's queue has no bound here.
(log 174: DESIGN CHOICE) -/
def State.queuePacket (s : State) (k : Nat) (p : Packet) : State :=
  let bs := p.bytes
  let l := s.link k
  let q : TxPkt := { pkt := p, left := payloads (bs.length / 244 + 1) bs, begun := false }
  (s.setLink k { l with txq := l.txq ++ [q] }).pump k 512

/-- A belay command holds back a packet that would leave on link k (R94): another flow's only where the whole port is
stopped; never VC0. (log 112: DEDUCED) -/
def State.linkStopped (s : State) (k : Nat) (p : Packet) : Bool :=
  p.vc != 0 && s.job.stops.any fun x =>
    x.kind == 1 && x.port == k && (x.whole || (x.ptn == p.srcPtn && p.src == s.chipId && !pkIsResponse p.kind))

/-- Forward a packet on the next link of its path; none when that link is not usable (R405). -/
def State.forwardPacket (s : State) (p : Packet) : Option State :=
  let k := p.path % 8
  if ¬s.linkUsable k then none
  else
    let p := { p with path := p.path / 8, hops := p.hops - 1 }
    if s.linkStopped k p then
      let l := s.link k
      some (s.setLink k { l with stopped := l.stopped ++ [p] })
    else some (s.queuePacket k p)

/-! ## Routes (R404-R406) -/

/-- The route word is a valid path. -/
def State.pathValid (s : State) (w : Nat) : Bool :=
  let m := s.fld YAL_CTL.HOP_MAX
  let m := if 1 ≤ m ∧ m ≤ 8 then m else 8
  bit w 31 && decide (1 ≤ bits w 30 27) && decide (bits w 30 27 ≤ m)

/-- The path that a new packet to a chip takes, or the fault that its request fails with. -/
def State.route (s : State) (dst : Nat) : Except Nat Nat :=
  let a := s.reg YAL_RTE_A dst
  let b := s.reg YAL_RTE_B dst
  let ok := fun w => s.pathValid w && s.linkUsable (w % 8)
  if dst = s.chipId then .error fcRouteMiss
  else if ok a then .ok a
  else if ok b then .ok b
  else if s.pathValid a || s.pathValid b then .error fcLinkTimeout
  else .error fcRouteMiss

/-- The path that a packet was given, as a route word. -/
def Packet.route (p : Packet) : Nat := 2 ^ 31 + p.hops * 2 ^ 27 + p.path

/-- A request that a path change holds back. -/
def State.heldRequest (s : State) (dst tag : Nat) : Bool :=
  s.yal.held.any fun h => h.dst == dst && h.tag == tag && pkIsRequest h.kind

/-- A request sent to the chip still waits for its response. -/
def State.awaits (s : State) (dst : Nat) : Bool := s.yal.reqs.rows.any fun r => r.2.dst == dst && !s.heldRequest dst r.1

/-- Send a packet that this device originates on the path that its route gives it now: held while a path change waits (R406), else
on its path. Before the device has its id a request fails (R28). -/
def State.originate (s : State) (p : Packet) : Except Nat State :=
  if ¬(s.domOn 75 || s.linksWork && !pkIsRequest p.kind) ∨ ¬s.flag YAL_CTL.EN then .error fcLinkTimeout
  else if pkIsRequest p.kind ∧ s.fld SYS_CHIPID.ID_SET = 0 then .error fcRouteMiss
  else
    match s.route p.dst with
    | .error e => .error e
    | .ok w =>
      let p := { p with path := w % 2 ^ 24, hops := bits w 30 27 }
      if (s.yal.paths.getD p.dst p.route ≠ p.route ∧ s.awaits p.dst) ∨ (s.yal.held.any fun h => h.dst == p.dst) then
        .ok { s with yal := { s.yal with held := s.yal.held ++ [p] } }
      else
        match { s with yal := { s.yal with paths := s.yal.paths.put p.dst p.route } }.forwardPacket p with
        | some s => .ok s
        | none => .error fcLinkTimeout

/-- Link k leads to a device of the board group: links 0-6 do, and link 7 in its spare use, to the chip of one of them (R395). -/
def State.groupLink (s : State) (k dst : Nat) : Bool :=
  decide (k < 7) || (List.range 7).any fun l => s.linkUsable l && s.fld YAL_LINK_STAT.PEER_CHIP l == dst

/-- Ticks within which a request to the chip must have its response: 3 µs for one hop to a device of the board group (R19), else
YAL_TMO (R410). (log 165: DEDUCED) -/
def State.requestBound (s : State) (dst : Nat) : Nat :=
  let w := (s.route dst).toOption.getD 0
  if bits w 30 27 = 1 ∧ s.groupLink (w % 8) dst then 3 * ticksPerUs else max 1 (s.fld YAL_TMO.TMO) * ticksPerUs

/-- Note who waits for the response to the request just sent: its tag. -/
def State.noteRequest (s : State) (r : OutReq) : State :=
  let tag := s.yal.nextTag
  let r := { r with due := s.atu.ticks + s.requestBound r.dst }
  { s with yal := { s.yal with nextTag := (tag + 1) % 65536, reqs := s.yal.reqs.put tag r } }

/-- Send a request and note who waits for its response: its tag. -/
def State.sendRequest (s : State) (p : Packet) (r : OutReq) : Except Nat State :=
  match s.originate { p with tag := s.yal.nextTag } with
  | .error e => .error e
  | .ok s => .ok (s.noteRequest r)

/-- Data cut into packets of at most 4,096 bytes: how many follow each, and its bytes. -/
def cutLong : Nat → List Byte → List (List Byte)
  | 0, bs => [bs]
  | n + 1, bs => if bs.length ≤ 4096 then [bs] else bs.take 4096 :: cutLong n (bs.drop 4096)

/-- Send a pooling message, of one packet or several: OP is 1 in each packet that another follows. -/
def State.sendLong (s : State) (p : Packet) : Except Nat State :=
  let cs := cutLong (p.data.length / 4096 + 1) p.data
  ((List.range cs.length).zip cs).foldl (fun (a : Except Nat State) c =>
    match a with
    | .error e => .error e
    | .ok s => s.originate { p with op := b2n (decide (c.1 + 1 < cs.length)), len := c.2.length - 1, data := c.2 }) (.ok s)

/-- Send a pooling request and note who waits for its response. -/
def State.requestLong (s : State) (p : Packet) (r : OutReq) : Except Nat State :=
  match s.sendLong { p with tag := s.yal.nextTag } with
  | .error e => .error e
  | .ok s => .ok (s.noteRequest r)

/-- The response to a packet. -/
def Packet.reply (p : Packet) (me kind op : Nat) (data : List Byte) : Packet :=
  { dst := p.src, srcPtn := p.srcPtn, src := me, kind := kind, vc := 2, hops := 0, path := 0, op := op,
    len := data.length - 1, tag := p.tag, addr := p.addr, data := data }

/-- Send a response; one that finds no path is lost, and its request reaches its timeout. -/
def State.respond (s : State) (p : Packet) : State :=
  match s.originate p with
  | .ok s => s
  | .error _ => s

/-! ## Requests of the device itself (R27, R408, R409) -/

/-- Address and length are those of a message (R409). (log 102: DEDUCED) -/
def isMessage (a len : Nat) : Bool :=
  decide (len = 64) && decide (0x40146000 ≤ a) && decide (a < 0x40146400) && a % 64 == 0

/-- The channel of a read or write of `len` bytes (R403, R408, R409). (log 102: DEDUCED) -/
def accessVc (write : Bool) (a len : Nat) : Nat := if write && isMessage a len then 3 else if len ≤ 8 then 1 else 4

/-- A read or write that an engine, JOB or the PCIe endpoint makes of another device for partition p; nobody waits for what its
response says. (log 175: DESIGN CHOICE) -/
def State.sendFar (s : State) (p g n : Nat) (data : Option (List Byte)) : Except Nat State :=
  s.sendRequest
    { dst := g / 2 ^ 40, srcPtn := p, src := s.chipId, kind := if data.isSome then pkWr else pkRdReq,
      vc := accessVc data.isSome (g % 2 ^ 40) n, hops := 0, path := 0, op := 0, len := n - 1, tag := 0, addr := g % 2 ^ 40,
      data := data.getD [] }
    { dst := g / 2 ^ 40, kind := 3, who := 0, a := 0, b := 0, c := 0 }

end Sys2Proof.Machine
end

