-- ==== Sys2Proof/Machine/Access.lean ====
section
/-! DEFINITION. Accesses: the partition MMU (R383-R389), the physical address space behind it (R22-R28, R373-R382), and
the stores and loads that reach memory. -/
namespace Sys2Proof.Machine

/-! ## The system cache and the errors of local HBM (R377, R379-R382) -/

def isHbm (a : Nat) : Bool := decide (hbmBase ≤ a) && decide (a < hbmEnd)

/-- What reads of [a, a + n) are to meet. (log 177: DESIGN CHOICE) -/
def State.flawsIn (s : State) (a n : Nat) : List (Nat × MemErr) :=
  s.mmu.flaws.rows.filter fun r => decide (a / 32 ≤ r.1) && decide (r.1 ≤ (a + n - 1) / 32)

/-- A read of [a, a + n) meets an error that persists: HBM answers it, since no line caches it. -/
def State.readFails (s : State) (a n : Nat) : Bool :=
  (s.flawsIn a n).any fun r => decide (r.2 = .persist) && (s.syc.find? (r.1 / 2)).isNone

def State.setMmu (s : State) (f : Mmu → Mmu) : State := { s with mmu := f s.mmu }

/-- The read has met error e: the controller acts on it later. (log 177: DESIGN CHOICE) -/
def State.noteErr (s : State) (a : Nat) (e : MemErr) (way : Nat) : State :=
  s.setMmu fun m => { m with met := m.met ++ [{ addr := a, err := e, way := way }] }

def State.healed (s : State) (g : Nat) : State := s.setMmu fun m => { m with flaws := m.flaws.del g }

/-- A read meets what stands for the 32 bytes of number g: an error of HBM where no line caches them, an error of the line where one
does. An uncorrectable error drops the line: a dirty one's older contents return (R382). (log 177: DESIGN CHOICE) -/
def State.meetFlaw (s : State) (g : Nat) (e : MemErr) : State :=
  let a := 32 * g
  match e, s.syc.find? (g / 2) with
  | .corrected, none => s.noteErr a e 0
  | .cleared _, none => (s.healed g).noteErr a e 0
  | .persist, none => s.noteErr a e 0
  | .lineCorrected, some _ => (s.healed g).noteErr a e 0
  | .lineLost, some l =>
    let s := { s.healed g with syc := s.syc.del (g / 2) }
    match l.old with
    | some bs => (s.poke (g / 2 * 64) bs).noteErr a e l.way
    | none => s
  | _, _ => s

/-- A read of [a, a + n) of local HBM meets what stands there. -/
def State.meetFlaws (s : State) (a n : Nat) : State := forEach (s.flawsIn a n) (fun r s => s.meetFlaw r.1 r.2) s

/-- The set of a line. (log 23: DESIGN CHOICE) -/
def sycSet (line : Nat) : Nat := line % 32768

/-- The line in a way of a line's set. -/
def State.sycAt (s : State) (line way : Nat) : Option Nat :=
  (s.syc.rows.find? fun r => sycSet r.1 == sycSet line && r.2.way == way).map (·.1)

/-- A line of partition p that misses is allocated: a free way of the partition's in its set, else one whose line is written back and
leaves. Which of them pseudo-LRU takes is open. (log 23: DESIGN CHOICE) -/
def State.allocLine (s : State) (p line : Nat) : State :=
  let ways := bitsSet 16 (s.reg PTN_WAYS p)
  let free := ways.filter fun w => (s.sycAt line w).isNone
  let among := if free.isEmpty then ways else free
  if among.isEmpty then s
  else
    let (x, s) := s.draw
    let way := among.getD (x % among.length) 0
    let s := match s.sycAt line way with
      | some v => let s := s.meetFlaws (v * 64) 64; { s with syc := s.syc.del v }
      | none => s
    { s with syc := s.syc.put line { way := way, old := none } }

/-- Partition p looks a line up; a miss allocates where `alloc` says so (R381). (log 23: DESIGN CHOICE) -/
def State.lookLine (s : State) (p line : Nat) (alloc : Bool) : State :=
  if alloc && (s.syc.find? line).isNone then s.allocLine p line else s

/-- Look up the `n` lines from `line` up. -/
def State.lookLines (s : State) (p line : Nat) (alloc : Bool) : Nat → State
  | 0 => s
  | n + 1 => (s.lookLine p line alloc).lookLines p (line + 1) alloc n

/-- Lines under [a, a + n). -/
def linesOf (a n : Nat) : Nat := if n = 0 then 0 else (a + n - 1) / 64 + 1 - a / 64

/-- A store looks a line up, and makes it dirty where it is cached: HBM keeps the older contents. (log 23: DESIGN CHOICE) -/
def State.markDirty (s : State) (p line : Nat) (alloc : Bool) : State :=
  let s := s.lookLine p line alloc
  match s.syc.find? line with
  | some { way := w, old := none } => { s with syc := s.syc.put line { way := w, old := some (s.read (line * 64) 64) } }
  | _ => s

/-- Mark `n` lines from `line` up. -/
def State.markLines (s : State) (p line : Nat) (alloc : Bool) : Nat → State
  | 0 => s
  | n + 1 => (s.markDirty p line alloc).markLines p (line + 1) alloc n

/-- The lines of the ways given are written back; `drop` invalidates them, too (R380, R393). -/
def State.writeBack (s : State) (ways : List Nat) (drop : Bool) : State :=
  let mine := fun (l : SycLine) => ways.contains l.way
  let s := forEach (s.syc.rows.filter fun r => mine r.2) (fun r s => s.meetFlaws (r.1 * 64) 64) s
  { s with syc := if drop then ⟨s.syc.rows.filter fun r => !mine r.2⟩
                  else ⟨s.syc.rows.map fun r => if mine r.2 then (r.1, { r.2 with old := none }) else r⟩ }

/-- Partition p reads `n` bytes at local address `a` of HBM through the system cache. -/
def State.readHbm (s : State) (p a n : Nat) (alloc : Bool) : Except Nat (List Byte) × State :=
  if s.readFails a n then (.error fcParityPersist, s.meetFlaws a n)
  else
    let s := (s.meetFlaws a n).lookLines p (a / 64) alloc (linesOf a n)
    (.ok (s.read a n), s)

/-- Partition p reads `n` bytes of local memory. -/
def State.readLocal (s : State) (p a n : Nat) (alloc : Bool) : Except Nat (List Byte) × State :=
  if isHbm a then s.readHbm p a n alloc else (.ok (s.read a n), s)

/-! ## Translation -/

/-- Why and at which level a walk stopped (R386, R389): 1 NOT_VALID, 2 FORMAT, 3 WALK, 4 RANGE, 5 CHANNEL, 6 PERM. -/
structure MFault where
  cause : Nat
  level : Nat
deriving DecidableEq, Repr

/-- The row of R22 that a local address lies in. -/
def rangeRow (a : Nat) : Option Nat :=
  match region a with
  | .sram => some 0
  | .oasis => some 1
  | .sysReg => some 2
  | .tileReg _ => some 3
  | .cluReg _ => some 4
  | .doorbell _ _ _ => some 5
  | .hbm _ => some 8
  | .pcie _ _ => some 9
  | _ =>
    if 0x0100000000 ≤ a ∧ a < 0x0180000000 then some 6
    else if 0x0200000000 ≤ a ∧ a < 0x0204000000 then some 7
    else none

/-- The chip id of a global address, and its local part (R27). -/
def chipOf (g : Nat) : Nat := g / 2 ^ 40
def localOf (g : Nat) : Nat := g % 2 ^ 40

/-- The stack of local HBM address `a` is trained and its domain is ON (R391, R445). -/
def State.hbmUp (s : State) (a : Nat) : Bool :=
  let st := (a - hbmBase) / pchSize / 32
  s.domOn (68 + st) && s.flag HBM_STAT.TRAINED st

/-- Every pseudo-channel under [a, a + n) is partition p's and not retired (R375). -/
def State.channelsOk (s : State) (p a n : Nat) : Bool :=
  let q0 := (a - hbmBase) / pchSize
  let q1 := (a + n - 1 - hbmBase) / pchSize
  (List.range (q1 + 1 - q0)).all fun k => s.ownsPch p (q0 + k) && !s.pchRetired (q0 + k)

/-- What a leaf maps a 4 KiB page to. -/
def leafOf (e lvl va : Nat) : CachedLeaf :=
  let size := 2 ^ (12 + 9 * lvl)
  { base := bits e 51 12 * 4096 / size * size + va % size / 4096 * 4096, r := bit e 2, w := bit e 3, cache := bits e 5 4 }

/-- The checks of R386 on a leaf at level `lvl`, PERM excepted. -/
def State.checkLeaf (s : State) (p e lvl va : Nat) : Except MFault CachedLeaf :=
  let size := 2 ^ (12 + 9 * lvl)
  let page := bits e 51 12 * 4096
  let own := chipOf page == s.chipId
  let hbm := own && isHbm (localOf page)
  let c := bits e 5 4
  if lvl = 3 ∨ page % size ≠ 0 ∨ (hbm ∧ 1 < c) ∨ (¬hbm ∧ c ≠ 2) then .error ⟨2, lvl⟩
  else if rangeRow (localOf page) = none ∨ rangeRow (localOf page) ≠ rangeRow (localOf page + size - 1) then
    .error ⟨4, lvl⟩
  else if hbm ∧ ¬s.channelsOk p (localOf page) size then .error ⟨5, lvl⟩
  else .ok (leafOf e lvl va)

/-- The walk of R384 and R386 from table `tbl`, over the levels that are left; PERM is judged by the caller. -/
def State.walk (s : State) (p va : Nat) : Nat → List Nat → Except MFault CachedLeaf
  | _, [] => .error ⟨2, 0⟩
  | tbl, lvl :: rest =>
    let at' := tbl + 8 * (va / 2 ^ (12 + 9 * lvl) % 512)
    if ¬isHbm tbl ∨ ¬s.hbmUp tbl ∨ s.pchRetired ((tbl - hbmBase) / pchSize) ∨ s.readFails at' 8 then .error ⟨3, lvl⟩
    else
      let e := s.readNum at' 8
      if ¬bit e 0 then .error ⟨1, lvl⟩
      else if bits e 63 52 ≠ 0 ∨ bits e 11 6 ≠ 0 then .error ⟨2, lvl⟩
      else if bit e 1 then s.checkLeaf p e lvl va
      else if lvl = 0 ∨ bits e 5 4 ≠ 0 then .error ⟨2, lvl⟩
      else
        let next := bits e 51 12 * 4096
        if chipOf next ≠ s.chipId ∨ ¬isHbm (localOf next) then .error ⟨3, lvl⟩
        else s.walk p va (localOf next) rest

/-- Root table of partition p in force: what MMU_ROOTp held at the last invalidation of all (R387). (log 104: DEDUCED) -/
def State.rootOf (s : State) (p : Nat) : Nat := s.mmu.roots.getD p 0

/-- The walk of partition p's tables for `va`. -/
def State.walkRoot (s : State) (p va : Nat) : Except MFault CachedLeaf := s.walk p va (s.rootOf p) [3, 2, 1, 0]

/-- The level at which partition p's walk of `va` ends: the level of a PERM fault. -/
def State.walkLevel (s : State) (p va : Nat) : Nat :=
  let e3 := s.readNum (s.rootOf p + 8 * (va / 2 ^ 39 % 512)) 8
  let e2 := s.readNum (localOf (bits e3 51 12 * 4096) + 8 * (va / 2 ^ 30 % 512)) 8
  if bit e2 1 then 2
  else
    let e1 := s.readNum (localOf (bits e2 51 12 * 4096) + 8 * (va / 2 ^ 21 % 512)) 8
    if bit e1 1 then 1 else 0

/-- The table entries that the walk of `va` reads from table `tbl`, over the levels that are left. -/
def State.walkReads (s : State) (va : Nat) : Nat → List Nat → List Nat
  | _, [] => []
  | tbl, lvl :: rest =>
    let at' := tbl + 8 * (va / 2 ^ (12 + 9 * lvl) % 512)
    let e := s.readNum at' 8
    if ¬isHbm tbl then [] else if ¬bit e 0 ∨ bit e 1 then [at'] else at' :: s.walkReads va (localOf (bits e 51 12 * 4096)) rest

/-- A walk meets what stands at the entries that it reads. -/
def State.walked (s : State) (p va : Nat) : State :=
  forEach (s.walkReads va (s.rootOf p) [3, 2, 1, 0]) (fun a s => s.meetFlaws a 8) s

/-- (log 21: DESIGN CHOICE) -/
def tlbKey (p va : Nat) : Nat := p * 2 ^ 36 + va / 4096

/-- The leaf an access uses (R387): the tables as they stand; where a translation cached earlier differs from them, the
cached one or the walk's, which of the two a free value decides. (log 21: DESIGN CHOICE) -/
def State.lookup (s : State) (p va : Nat) : Except MFault CachedLeaf × State :=
  let walked := s.walkRoot p va
  let keep := fun (l : CachedLeaf) (s : State) =>
    { s with mmu := { s.mmu with tlb := s.mmu.tlb.put (tlbKey p va) l } }
  match s.mmu.tlb.find? (tlbKey p va), walked with
  | none, .ok l => (.ok l, keep l (s.walked p va))
  | none, .error f => (.error f, s.walked p va)
  | some c, .ok l =>
    if c = l then (.ok l, s)
    else
      let (x, s) := s.draw
      if x % 2 = 0 then (.ok c, s) else (.ok l, keep l s)
  | some c, .error f =>
    let (x, s) := s.draw
    if x % 2 = 0 then (.ok c, s) else (.error f, s)

/-- Translate for partition p: the global address and the leaf's CACHE field, or the fault. (log 21: DESIGN CHOICE) -/
def State.translate (s : State) (p va : Nat) (write : Bool) : Except MFault (Nat × Nat) × State :=
  match s.lookup p va with
  | (.error f, s) => (.error f, s)
  | (.ok l, s) =>
    if (write && l.w) || (!write && l.r) then (.ok (l.base + va % 4096, l.cache), s)
    else (.error ⟨6, s.walkLevel p va⟩, s)

/-! ## Faults (R388) -/

/-- Note a translation fault: a WAIT fault joins an unresolved one of the same partition, page and cause; any other
waits for its record. (log 14: DEDUCED; log 46: DEDUCED) -/
def State.mmuFault (s : State) (p va : Nat) (write wait : Bool) (who : Requester) (f : MFault) : State :=
  let same := fun (r : FaultRec) =>
    r.wait && r.ptn == p && r.va / 4096 == va / 4096 && r.cause == f.cause
  let new : FaultRec :=
    { ptn := p, va := va, cause := f.cause, level := f.level, write := write, wait := wait, by' := who,
      ts := stamp32 s.now, seq := none, merged := 0, waiters := if wait then [who] else [] }
  let join := fun (r : FaultRec) =>
    if same r then
      { r with merged := if r.seq = none then satAdd r.merged 1 255 else r.merged, waiters := r.waiters ++ [who] }
    else r
  { s with mmu := { s.mmu with faults :=
      if wait && s.mmu.faults.any same then s.mmu.faults.map join else s.mmu.faults ++ [new] } }

/-! ## Physical accesses -/

/-- Why a local access of `n` bytes at `a` is not performed, if it is not (R26, R33, R378, R391, R445).
(log 9: DESIGN CHOICE) -/
def State.accessError (s : State) (a n : Nat) : Option Nat :=
  if ¬s.domOn (domainOf a) then some fcAddrUnmapped
  else
    match region a with
    | .reserved => some fcAddrUnmapped
    | .tileReg t => if s.fld SYS_TMAP.STATE t = 2 then some fcAddrUnmapped else none
    | .tileMem t _ => if s.fld SYS_TMAP.STATE t = 2 then some fcAddrUnmapped else none
    | .hbm q =>
      if ¬s.hbmUp a then some fcAddrUnmapped
      else if s.pchRetired q ∨ s.pchRetired ((a + n - 1 - hbmBase) / pchSize) then some fcParityPersist
      else none
    | _ => none

/-- The device itself stores `n` bytes at local address `a`: the harts' caches give up the lines, which are coherent, and their
reservations of them (R17, R483). -/
def State.snoop (s : State) (a n : Nat) : State :=
  let other := fun (l : Nat) => decide (l < a / 64) || decide ((a + n - 1) / 64 < l)
  if n = 0 then s
  else { s with harts := { s.harts with dirty := s.harts.dirty.keep other, rsv := ⟨s.harts.rsv.rows.filter fun r => other r.2⟩ } }

/-- Store bytes for partition p at local address `a`. A store to local HBM makes its cached lines dirty; `alloc` says whether a line
that misses is allocated (R381). (log 23: DESIGN CHOICE) -/
def State.store (s : State) (p a : Nat) (bs : List Byte) (alloc : Bool) : State :=
  let s := if isHbm a then s.markLines p (a / 64) alloc (linesOf a bs.length) else s
  (s.snoop a bs.length).poke a bs

/-- Tile t's record after a write to feed memory: an operation that still reads a byte written over keeps the older byte
beside the new one (R141). -/
def noteFeed (x : Tile) (old : Nat → Byte) (off : Nat) (bs : List Byte) : Tile :=
  if off + bs.length ≤ feedBase ∨ feedEnd ≤ off then x
  else if x.mq.isEmpty && x.loading.isEmpty && x.running.isEmpty then x
  else
    let offs := (List.range bs.length).map (off + ·)
    let keepOld := fun (m : MOp) =>
      { m with old := offs.foldl (fun o a =>
          if m.readsFeed a && (o.find? a).isNone then o.put a (old a) else o) m.old }
    let keepNew := fun (w : WBlock) =>
      { w with newer := (offs.zip bs).foldl (fun o r => if w.covers r.1 then o.put r.1 r.2 else o) w.newer }
    { x with mq := x.mq.map keepOld, loading := x.loading.map keepOld,
             running := x.running.map fun m => { keepOld m with block := m.block.map keepNew } }

/-- Write bytes into tile t's memory window at offset `off`. -/
def State.pokeTile (s : State) (t off : Nat) (bs : List Byte) : State :=
  let base := tileMemBase t
  let s := match s.tiles.find? t with
    | some x => { s with tiles := s.tiles.put t (noteFeed x (fun a => s.byte (base + a)) off bs) }
    | none => s
  s.poke (base + off) bs

/-- Write bytes into the program memory of an idle tile: the record of the loaded image is cleared (R100, R102). A tile
that is not idle ignores the write. -/
def State.writeProgram (s : State) (t off : Nat) (bs : List Byte) : State :=
  let x := s.tile t
  if x.state = .idle then ({ s with tiles := s.tiles.put t { x with loaded := none } }).poke (tileMemBase t + off) bs
  else s

/-- A posted write leaves, or waits for the link behind those that already do (R493).
(log 140: DESIGN CHOICE; log 162: DESIGN CHOICE) -/
def State.postOut (s : State) (region : Option Nat) (o : Output) : State :=
  if s.flag PCI_STAT.UP ∧ s.pci.posted.isEmpty then { s with out := o :: s.out }
  else { s with pci := { s.pci with posted := s.pci.posted ++ [{ region := region, out := o, came := s.atu.ticks }] } }

/-- The outbound region and function of a PCIe window address; none when the access fails under R493. -/
def State.pcieTarget (s : State) (a : Nat) : Option (Nat × Nat × Nat) :=
  match region a with
  | .pcie r off =>
    let fn := s.fld PCI_OB_CFG.FN r
    if s.flag PCI_OB_CFG.EN r && (s.pciFns.getD fn {}).bme then
      some (r, fn, s.reg PCI_OB_LO r / 4096 * 4096 + 2 ^ 32 * s.reg PCI_OB_HI r + off)
    else none
  | _ => none

/-- Write bytes that the device forms itself for partition p at a translated global address: local memory, the host
behind the PCIe window, or another device. The fault code where the write is not performed. (log 175: DESIGN CHOICE) -/
def State.devWrite (s : State) (p g : Nat) (bs : List Byte) (cache : Nat) : Except Nat State :=
  if chipOf g ≠ s.chipId then s.sendFar p g bs.length (some bs)
  else
    let a := localOf g
    match s.accessError a bs.length with
    | some e => .error e
    | none =>
      match region a with
      | .pcie _ _ =>
        match s.pcieTarget a with
        | some (r, fn, h) => .ok (s.postOut (some r) (.hostWrite fn h bs))
        | none => .error fcAddrUnmapped
      | .sram => .ok ((s.snoop a bs.length).poke a bs)
      | .hbm _ => .ok (s.store p a bs (cache == 0))
      | .cluMem _ _ => .ok (s.poke a bs)
      | .tileMem t off => if off < 0x1E0000 then .ok (s.pokeTile t off bs) else .ok (s.writeProgram t off bs)
      | _ => .ok s

/-- Read bytes that the device needs itself for partition p from a translated global address. What another device or
the host answers is a free value. (log 22: DESIGN CHOICE; log 175: DESIGN CHOICE) -/
def State.devRead (s : State) (p g n cache : Nat) : Except Nat (List Byte) × State :=
  let outside := fun (s : State) =>
    let (x, s) := s.draw
    ((.ok (bytesOf n x) : Except Nat (List Byte)), s)
  if chipOf g ≠ s.chipId then
    match s.sendFar p g n none with
    | .error e => (.error e, s)
    | .ok s => outside s
  else
    match s.accessError (localOf g) n with
    | some e => (.error e, s)
    | none =>
      match region (localOf g) with
      | .pcie _ _ =>
        if (s.pcieTarget (localOf g)).isNone then (.error fcAddrUnmapped, s)
        else if s.flag PCI_STAT.UP then outside s
        else (.error fcLinkTimeout, s)
      | _ => s.readLocal p (localOf g) n (cache == 0)

/-- The tile whose program memory a write to global address `g` reaches while it is not idle (R102). -/
def State.progRefused (s : State) (g : Nat) : Option Nat :=
  match region (localOf g) with
  | .tileMem t off =>
    if chipOf g = s.chipId ∧ 0x1E0000 ≤ off ∧ (s.tile t).state ≠ .idle then some t else none
  | _ => none

/-- How a device access through partition p's context ended. -/
inductive VFault where
  | mmu (f : MFault)
  | code (c : Nat)
deriving DecidableEq, Repr

/-- Write bytes within one 4 KiB page through partition p's context. -/
def State.vWrite (s : State) (p va : Nat) (bs : List Byte) : Except VFault Unit × State :=
  match s.translate p va true with
  | (.error f, s) => (.error (.mmu f), s)
  | (.ok (g, c), s) =>
    match s.devWrite p g bs c with
    | .ok s => (.ok (), s)
    | .error e => (.error (.code e), s)

/-- Read bytes within one 4 KiB page through partition p's context. (log 22: DESIGN CHOICE) -/
def State.vReadPage (s : State) (p va n : Nat) : Except VFault (List Byte) × State :=
  match s.translate p va false with
  | (.error f, s) => (.error (.mmu f), s)
  | (.ok (g, c), s) =>
    match s.devRead p g n c with
    | (.ok bs, s) => (.ok bs, s)
    | (.error e, s) => (.error (.code e), s)

/-- Read `n` bytes through partition p's context, page by page; `fuel` bounds the pages. -/
def State.vReadLoop (s : State) (p va n : Nat) (acc : List Byte) : Nat → Except VFault (List Byte) × State
  | 0 => (.ok acc, s)
  | k + 1 =>
    if n = 0 then (.ok acc, s)
    else
      let m := min n (4096 - va % 4096)
      match s.vReadPage p va m with
      | (.ok bs, s) => s.vReadLoop p (va + m) (n - m) (acc ++ bs) k
      | (.error e, s) => (.error e, s)

def State.vRead (s : State) (p va n : Nat) : Except VFault (List Byte) × State :=
  s.vReadLoop p va n [] (n / 4096 + 2)

/-- Write bytes through partition p's context, page by page. -/
def State.vWriteLoop (s : State) (p va : Nat) (bs : List Byte) : Nat → Except VFault Unit × State
  | 0 => (.ok (), s)
  | k + 1 =>
    if bs.isEmpty then (.ok (), s)
    else
      let m := 4096 - va % 4096
      match s.vWrite p va (bs.take m) with
      | (.ok _, s) => s.vWriteLoop p (va + m) (bs.drop m) k
      | (.error e, s) => (.error e, s)

def State.vWriteAll (s : State) (p va : Nat) (bs : List Byte) : Except VFault Unit × State :=
  s.vWriteLoop p va bs (bs.length / 4096 + 2)

/-- The job's fault code for a device access that failed for good. -/
def VFault.toCode : VFault → Nat
  | .mmu _ => fcMmuFault
  | .code c => c

end Sys2Proof.Machine
end

