-- ==== Sys2Proof/Machine/Flash.lean ====
section
/-! DEFINITION. The boot flash and the black-box writer (R437-R441): its operations one at a time, the stage, the opening of
a bank. -/
namespace Sys2Proof.Machine

/-! ## The flash -/

/-- (log 6: DEDUCED) -/
def flashErased (_ : Nat) : Byte := 0xFF#8

/-- `n` flash bytes from key `a` up: chip select * 2^32 + offset. (log 6: DEDUCED) -/
def State.flashRead (s : State) (a : Nat) : Nat → List Byte
  | 0 => []
  | n + 1 => s.flash.get flashErased a :: s.flashRead (a + 1) n

/-- Programming clears bits. -/
def flashPut (m : Table Byte) (a : Nat) : List Byte → Table Byte
  | [] => m
  | b :: bs => flashPut (m.set flashErased a (m.get flashErased a &&& b)) (a + 1) bs

def State.flashProgram (s : State) (a : Nat) (bs : List Byte) : State := { s with flash := flashPut s.flash a bs }

def State.flashErase (s : State) (a n : Nat) : State :=
  { s with flash := s.flash.keep fun k => decide (k < a ∨ a + n ≤ k) }

/-- A program that power cut short: each of its bits has or has not been cleared. (log 118: DESIGN CHOICE) -/
def State.flashTornProgram (s : State) (a : Nat) : List Byte → State
  | [] => s
  | b :: bs =>
    let (x, s) := s.draw
    (s.flashProgram a [b ||| BitVec.ofNat 8 x]).flashTornProgram (a + 1) bs

/-- An erase that was cut short: each of its bits has or has not been set. A byte already erased stays so.
(log 118: DESIGN CHOICE) -/
def State.flashTornErase (s : State) (a n : Nat) : State :=
  (s.flash.rows.filter fun r => decide (a ≤ r.1) && decide (r.1 < a + n)).foldl (fun (s : State) (r : Nat × Byte) =>
    let (x, s) := s.draw
    { s with flash := s.flash.set flashErased r.1 (r.2 ||| BitVec.ofNat 8 x) }) s

/-! ## The retirement map and the banks -/

def mapBase : Nat := 0x02000100

def State.bankBase (s : State) (b : Nat) : Nat := if b = 0 then s.reg BBX_BANK0 else s.reg BBX_BANK1

def bankMagic : Nat := 0x31584242

/-- Slot 0 of a bank that is opened with a sequence number, over the map as given (R437). -/
def bankHeader (seq count : Nat) (map : List Byte) : List Byte :=
  let h := bytesOf 4 bankMagic ++ bytesOf 2 1 ++ bytesOf 2 0 ++ bytesOf 8 seq ++ bytesOf 8 count ++ List.replicate 36 0#8
  h ++ bytesOf 4 (crc32c (h ++ map))

/-- Bank b is valid. -/
def State.bankValid (s : State) (b : Nat) : Bool :=
  let h := s.flashRead (s.bankBase b) 64
  field h 0 4 == bankMagic && field h 4 2 == 1
    && field h 60 4 == crc32c (h.take 60 ++ s.flashRead (s.bankBase b + 64) 64)

def State.bankSeq (s : State) (b : Nat) : Nat := field (s.flashRead (s.bankBase b) 64) 8 8

/-! ## The stage (R440) -/

/-- The stage header in the oasis retained registers, as it stands. (log 120: DEDUCED) -/
def State.syncStage (s : State) : State :=
  let h := bytesOf 4 s.bbx.head ++ bytesOf 4 s.bbx.tail ++ bytesOf 4 s.bbx.rseq ++ List.replicate 48 0#8
  (s.poke 0x02000140 (h ++ bytesOf 4 (crc32c h))).setFld BBX_STAT.STAGED s.bbx.staged.length

/-! ## Operations, one at a time (R438, R441, R463) -/

/-- Records that the next page program takes: up to four slots within one aligned page. (log 117: DESIGN CHOICE) -/
def State.pageRecords (s : State) : Nat := min s.bbx.staged.length (4 - (s.fld BBX_STAT.LOGEND + 1) % 4)

/-- The operation that goes next. A supply warning holds everything but page programs, which then go to the bank that stayed
current (R441). (log 117: DESIGN CHOICE) -/
def State.nextFlashOp (s : State) : Option FlashOp :=
  let b := s.bbx
  let warn := s.power.sagLow
  match if warn then none else b.opening with
  | some k => if b.live then some (.opening k) else none
  | none =>
    if b.live ∧ s.flag BBX_CTL.EN ∧ b.staged ≠ [] ∧ s.fld BBX_STAT.LOGEND < 4095 then some (.page s.pageRecords)
    else if b.floorDue ∧ ¬warn then some .floor
    else
      match b.xspDue with
      | some c => if c.cs = 0 ∧ warn then none else some (.xsp c)
      | none => none

/-- An idle flash takes its next operation. (log 117: DESIGN CHOICE) -/
def State.pumpFlash (s : State) : State :=
  if s.bbx.op.isSome then s
  else
    match s.nextFlashOp with
    | none => s
    | some (.xsp c) => { s with bbx := { s.bbx with op := some (.xsp c), xspDue := none } }
    | some .floor => { s with bbx := { s.bbx with op := some .floor, floorDue := false } }
    | some o => { s with bbx := { s.bbx with op := some o } }

/-- The bank that is not current. -/
def State.otherBank (s : State) : Nat := 1 - s.fld BBX_STAT.CUR

def State.curSeq (s : State) : Nat := s.reg BBX_SEQ_LO + 2 ^ 32 * s.reg BBX_SEQ_HI

/-- Bank b is the current one. -/
def State.setCurrent (s : State) (b seq : Nat) : State :=
  (((s.setFld BBX_STAT.CUR b).setReg BBX_SEQ_LO (seq % 2 ^ 32)).setReg BBX_SEQ_HI (seq / 2 ^ 32 % 2 ^ 32))

/-- Where step k of an opening works, and the bytes it programs. (log 119: DEDUCED) -/
def State.openingBytes (s : State) (k : Nat) : Nat × List Byte :=
  let a := s.bankBase s.otherBank
  if k = 64 then (a + 64, s.read mapBase 64) else (a, bankHeader (s.curSeq + 1) s.count (s.flashRead (a + 64) 64))

/-- Step k of an opening is done; one that a supply warning has abandoned opens nothing. (log 119: DEDUCED) -/
def State.openingDone (s : State) (k : Nat) : State :=
  let b := s.otherBank
  let (a, bs) := s.openingBytes k
  let s := if k < 64 then s.flashErase (s.bankBase b + 4096 * k) 4096 else s.flashProgram a bs
  if s.bbx.opening ≠ some k then s
  else if k < 65 then { s with bbx := { s.bbx with opening := some (k + 1) } }
  else
    let s := { s with bbx := { s.bbx with opening := none } }
    (s.setCurrent b (s.curSeq + 1)).setFld BBX_STAT.LOGEND 1

/-- A page with `n` records is programmed: HEAD advances past them. -/
def State.pageDone (s : State) (n : Nat) : State :=
  let l := s.fld BBX_STAT.LOGEND
  let s := s.flashProgram (s.bankBase (s.fld BBX_STAT.CUR) + 64 * (l + 1)) (s.bbx.staged.take n).flatten
  let s := { s with bbx := { s.bbx with staged := s.bbx.staged.drop n, head := (s.bbx.head + n) % 2 ^ 32 } }
  (s.setFld BBX_STAT.LOGEND (l + n)).syncStage

/-- The operation in progress has ended. -/
def State.opEnds (s : State) : State := { s with bbx := { s.bbx with op := none } }

/-- The writer sees its operation done and issues the next. -/
def State.writerDone (s : State) : State :=
  match s.bbx.op with
  | some (.page n) => (s.opEnds.pageDone n).pumpFlash
  | some (.opening k) => (s.opEnds.openingDone k).pumpFlash
  | _ => s

/-- The other bank is to be opened (R439). (log 119: DEDUCED) -/
def State.openBank (s : State) : State :=
  if ¬s.bbx.live ∨ s.bbx.opening.isSome then s
  else { s with bbx := { s.bbx with opening := some 0 } }.pumpFlash

/-- A supply warning abandons an opening; an erase in progress is left where it stands (R441). (log 119: DEDUCED) -/
def State.abandonOpening (s : State) : State :=
  match s.bbx.opening with
  | none => s
  | some _ =>
    let s := { s with bbx := { s.bbx with opening := some 0 } }
    match s.bbx.op with
    | some (.opening k) =>
      if k < 64 then s.opEnds.flashTornErase (s.bankBase s.otherBank + 4096 * k) 4096 else s
    | _ => s

/-! ## Software commands (R500). The opcodes are those of JESD251 Profile 1.0 (PRESUMED). -/

/-- Bytes that an erase opcode covers; the whole flash for a chip erase. (log 136: PRESUMED) -/
def eraseSize (op : Nat) : Option Nat :=
  match op with
  | 0x20 => some 4096
  | 0x21 => some 4096
  | 0x52 => some 32768
  | 0x5C => some 32768
  | 0xD8 => some 65536
  | 0xDC => some 65536
  | 0x60 => some (2 ^ 32)
  | 0xC7 => some (2 ^ 32)
  | _ => none

/-- (log 136: PRESUMED) -/
def isArrayRead (op : Nat) : Bool := [0x03, 0x0B, 0x0C, 0x13, 0xEE].contains op
/-- (log 136: PRESUMED) -/
def isPageProgram (op : Nat) : Bool := [0x02, 0x12].contains op

/-- Offsets that a command addresses. (log 136: PRESUMED) -/
def XspCmd.range (c : XspCmd) : Nat × Nat :=
  match eraseSize c.op with
  | some n => (c.addr / n * n, n)
  | none => (c.addr, max c.len 1)

/-- The command is refused with PROT outside HOLD. -/
def XspCmd.protected (c : XspCmd) : Bool :=
  let (a, n) := c.range
  (c.wr || (eraseSize c.op).isSome) && c.cs == 0 && decide (a < 0x90000) && decide (0x2000 < a + n)

/-- Where a page program writes: within its 256-byte page, wrapping at its end. -/
def XspCmd.program (c : XspCmd) (f : State → Nat → List Byte → State) (s : State) : State :=
  let page := c.cs * 2 ^ 32 + c.addr / 256 * 256
  let head := min c.len (256 - c.addr % 256)
  let s := f s (page + c.addr % 256) (c.data.take head)
  f s page (c.data.drop head)

/-- The effect of a command on the flash. (log 136: PRESUMED) -/
def State.xspEffect (s : State) (c : XspCmd) : State :=
  match eraseSize c.op with
  | some n => s.flashErase (c.cs * 2 ^ 32 + c.addr / n * n) n
  | none => if c.wr ∧ isPageProgram c.op then c.program State.flashProgram s else s

/-! ## Loss of power in the middle of an operation -/

/-- The operation in progress is cut short; `old` is the mirror copy that a commit replaces. (log 118: DESIGN CHOICE) -/
def State.flashCut (s : State) (old : Nat) : State :=
  match s.bbx.op with
  | none => s
  | some (.page n) =>
    let a := s.bankBase (s.fld BBX_STAT.CUR) + 64 * (s.fld BBX_STAT.LOGEND + 1)
    s.opEnds.flashTornProgram a (s.bbx.staged.take n).flatten
  | some (.opening k) =>
    let (a, bs) := s.openingBytes k
    if k < 64 then s.opEnds.flashTornErase (s.bankBase s.otherBank + 4096 * k) 4096 else s.opEnds.flashTornProgram a bs
  | some .floor => s.opEnds.flashTornErase (0x2000 + 0x1000 * old) 4096
  | some (.xsp c) =>
    match eraseSize c.op with
    | some n => s.opEnds.flashTornErase (c.cs * 2 ^ 32 + c.addr / n * n) n
    | none => if c.wr ∧ isPageProgram c.op then c.program State.flashTornProgram s.opEnds else s.opEnds

end Sys2Proof.Machine
end

