-- ==== Sys2Proof/Machine/JobDesc.lean ====
section
/-! DEFINITION. What a job descriptor says (R76) and when a job may run: eligibility (R79, R83, R284, R418) and the order
of R81. -/
namespace Sys2Proof.Machine

/-! ## Descriptor fields (R76) -/

def Job.cls (j : Job) : Nat := field j.desc 0 1 % 16
def Job.prio (j : Job) : Nat := field j.desc 1 1 % 8
/-- FLAGS bit k: 0 DIGEST, 1 LOCKSTEP, 2 RESCALE_REPLAY, 3 NUMLOG, 4 SERIES, 5 LAUNCH, 6 IRQ, 7 ORDERED, 8 SIG_ON_FAIL. -/
def Job.flag (j : Job) (k : Nat) : Bool := bit (field j.desc 2 2) k
def Job.tag (j : Job) : Nat := field j.desc 4 4
def Job.gen (j : Job) : Nat := field j.desc 8 1
def Job.dlKind (j : Job) : Nat := field j.desc 9 1
def Job.series (j : Job) : Nat := field j.desc 10 1
def Job.launchNs (j : Job) : Nat := field j.desc 24 8
def Job.prog (j : Job) : Nat := field j.desc 32 2
def Job.model (j : Job) : Nat := field j.desc 34 2
def Job.fallback (j : Job) : Nat := field j.desc 36 2
def Job.tiles (j : Job) : Nat := field j.desc 40 8
def Job.inList (j : Job) : Nat := field j.desc 48 6
def Job.outList (j : Job) : Nat := field j.desc 56 6
/-- IN_COUNT; 1 for a PRACH_OCC job, whose input list JOB supplies (R269). -/
def Job.inCount (j : Job) : Nat := if j.cls = 2 then 1 else field j.desc 64 4
def Job.outCount (j : Job) : Nat := field j.desc 68 4
def Job.semWait (j : Job) (k : Nat) : Nat := field j.desc (72 + 4 * k) 4
def Job.semSig (j : Job) (k : Nat) : Nat := field j.desc (88 + 4 * k) 4
def Job.param (j : Job) : Nat := field j.desc 104 6
def Job.paramLen (j : Job) : Nat := field j.desc 112 4

/-! ## Semaphore entries (R78) -/

def semV (e : Nat) : Bool := bit e 31
def semCount (e : Nat) : Nat := bits e 27 16
def semClu (e : Nat) : Nat := bits e 11 10
def semIx (e : Nat) : Nat := bits e 9 0

/-- The valid wait entries of a job. (log 60: DEDUCED) -/
def Job.waits (j : Job) : List Nat := ((List.range 4).map j.semWait).filter semV
/-- The valid signal entries of a job. -/
def Job.signals (j : Job) : List Nat := ((List.range 4).map j.semSig).filter semV

/-- Every semaphore that the entries name holds the sum of their COUNTs. (log 60: DEDUCED) -/
def State.waitsMet (s : State) (es : List Nat) : Bool :=
  es.all fun e =>
    let mine := es.filter fun f => semClu f == semClu e && semIx f == semIx e
    decide ((mine.map semCount).foldl (· + ·) 0 ≤ s.fld CLU_SEM.VALUE (semClu e) (semIx e))

/-! ## Eligibility -/

/-- Type of an object (R91). -/
def objType (e : List Byte) : Nat := field e 0 1 % 16

/-- HARQ buffer base of a DECODE job that uses one (R279, R284). -/
def Job.harqBase (j : Job) : Option Nat :=
  if j.cls = 4 ∧ field j.params 2 1 = 0 ∧ bit (field j.params 11 1) 0 then some (field j.params 16 6) else none

/-- An earlier-fetched job of the same ring, or of the same HARQ base, is not yet recorded. -/
def State.heldBehind (s : State) (x : Job) : Bool :=
  s.jobList.any fun r =>
    let y := r.2
    y.ptn == x.ptn && decide (y.seq < x.seq)
      && ((x.flag 7 && y.ring == x.ring) || (x.harqBase.isSome && x.harqBase == y.harqBase))

/-- The buffer of the job's slot is assigned to it, or its candidate block has been written (R240, R254, R269, R318). -/
def State.airReady (s : State) (x : Job) : Bool :=
  if x.cls = 0 ∨ x.cls = 3 then
    match s.fhe.rx.find? x.air.cell with
    | some c => c.slots.any fun b => b.mine && b.slot == x.air.slot
    | none => false
  else if x.cls = 1 then
    match s.fhe.tx.find? x.air.cell with
    | some c => c.bufs.rows.any fun b => b.2.slot == x.air.slot
    | none => false
  else if x.cls = 2 then
    match s.pra.find? x.air.cell with
    | some c => c.ring.rows.any fun e => decide (e.2.occ = ⟨x.air.slot, x.air.td⟩) && e.2.len != 0
    | none => false
  else true

/-- The conditions of R79, R284 and the receive and transmit classes. -/
def State.meets79 (s : State) (x : Job) : Bool :=
  decide (x.phase = .waiting) && s.airReady x && (!x.flag 5 || x.launched) && !s.heldBehind x && s.waitsMet x.waits

/-- When each waiting job became eligible; a job with LAUNCH that becomes so only now, its count being past, is late
(R62). -/
def State.refresh (s : State) : State :=
  let upd := fun (x : Job) =>
    if x.phase = .waiting then
      if s.meets79 x then
        if x.eligibleAt.isSome then x else { x with eligibleAt := some s.now, launchLate := x.flag 5 }
      else { x with eligibleAt := none }
    else x
  { s with job := { s.job with jobs := ⟨s.job.jobs.rows.map fun r => (r.1, upd r.2)⟩ } }

/-- A job that may be dispatched: eligible, and its digest area allocated (R418). (log 60: DEDUCED) -/
def State.eligible (s : State) (j : Nat) (x : Job) : Bool :=
  decide (x.phase = .waiting) && x.eligibleAt.isSome && (!(x.flag 0 || x.flag 1) || (s.dgt.jobs.find? j).isSome)

/-! ## Order (R81) -/

/-- The deadline that orders a job: its own, or its eligibility time plus (8 - PRIO) * NODL_STEP microseconds. -/
def State.orderTime (s : State) (x : Job) : Nat :=
  match x.deadline with
  | some d => d
  | none => x.eligibleAt.getD s.now + (8 - x.prio) * s.fld JOB_PQ_CFG.NODL_STEP x.ptn * 1000 * nsUnit

/-- Job a goes before job b. Jobs of different partitions with equal deadlines, priorities and rings go by partition. -/
def State.jobBefore (s : State) (a b : Job) : Bool :=
  let ka := [s.orderTime a, 7 - a.prio, a.ring, if a.ptn = b.ptn then a.seq else 0, a.ptn]
  let kb := [s.orderTime b, 7 - b.prio, b.ring, if a.ptn = b.ptn then b.seq else 0, b.ptn]
  decide (ka < kb)

/-- The first in the order among jobs. -/
def State.firstJob (s : State) : List (Nat × Job) → Option (Nat × Job)
  | [] => none
  | r :: rs =>
    match s.firstJob rs with
    | none => some r
    | some q => if s.jobBefore q.2 r.2 then some q else some r

end Sys2Proof.Machine
end

