-- ==== Sys2Proof/Machine/Events.lean ====
section
/-! DEFINITION. Records and interrupts: the event and completion rings (R87-R89), MSIs (R88, R488, R494), the staging of
records for the black box (R440), the raising of an event (R434, R435), and semaphores (R78-R80, R362). -/
namespace Sys2Proof.Machine

/-! ## Event codes (R436, R459, R480, R503) -/

def evOverpost : Nat := 0x0101
def evFetchFault : Nat := 0x0102
def evObject : Nat := 0x0103
def evBelayDrop : Nat := 0x0104
def evBelayDone : Nat := 0x0105
def evSemSat : Nat := 0x0106
def evStep : Nat := 0x0201
def evLock : Nat := 0x0202
def evHoldover : Nat := 0x0203
def evRcvLoss : Nat := 0x0204
def evCellDisarm : Nat := 0x0205
def evTrg : Nat := 0x0206
def evTileFault : Nat := 0x0301
def evWriteIgnored : Nat := 0x0302
def evTmap : Nat := 0x0303
def evScaleLost : Nat := 0x0304
def evMmuFault : Nat := 0x0401
def evFheWrFault : Nat := 0x0501
def evFheOverrun : Nat := 0x0502
def evTxMiss : Nat := 0x0503
def evTxTable : Nat := 0x0504
def evPraWrFault : Nat := 0x0505
def evPraOverrun : Nat := 0x0506
def evPraPlace : Nat := 0x0507
def evDecLmap : Nat := 0x0601
def evDecShare : Nat := 0x0602
def evPchRetired : Nat := 0x0701
def evSycLost : Nat := 0x0702
def evHoldCut : Nat := 0x0703
def evLinkState : Nat := 0x0801
def evPathMismatch : Nat := 0x0802
def evBelayHeld : Nat := 0x0803
def evIdUnsetDrop : Nat := 0x0804
def evBelayRefused : Nat := 0x0805
def evDigestConflict : Nat := 0x0901
def evLockstepMismatch : Nat := 0x0902
def evCairnFault : Nat := 0x0A01
def evSemInheritTimeout : Nat := 0x0A02
def evTransientHigh : Nat := 0x0B01
def evRetired : Nat := 0x0B02
def evOffline : Nat := 0x0B03
def evNospare : Nat := 0x0B04
def evBbRecovered : Nat := 0x0B05
/-- (log 13: DESIGN CHOICE) -/
def evBbDropped : Nat := 0x0B06
def evSagWarn : Nat := 0x0C01
def evSagClear : Nat := 0x0C02
def evThermWarn : Nat := 0x0C03
def evThermClear : Nat := 0x0C04
def evThrottle : Nat := 0x0C05
def evOpDone : Nat := 0x0C06
def evDomState : Nat := 0x0C07
def evClkLoss : Nat := 0x0C08
def evRtcWake : Nat := 0x0C09
def evThermTrip : Nat := 0x0C0A
def evFloorRaised : Nat := 0x0D01
def evSecDone : Nat := 0x0D02
def evTrngFail : Nat := 0x0D03
def evCoreLineLost : Nat := 0x0E01
def evCoreWayOff : Nat := 0x0E02
def evMsiDrop : Nat := 0x0E03
def evPcieLink : Nat := 0x0E04
def evPcieFlr : Nat := 0x0E05
def evPcieInFail : Nat := 0x0E06
def evPcieOutDrop : Nat := 0x0E07
def evEthLink : Nat := 0x0E08

/-! ## MSIs -/

/-- Domain of hart h (R482). -/
def hartDomain (h : Nat) : Nat := if h < 4 then 72 else 73

def imsicKey (h f ident : Nat) : Nat := (h * 16 + f) * 2048 + ident

/-- An MSI to hart h with the 16-bit ID of R488 is discarded. -/
def State.msiDropped (s : State) (h id : Nat) : Bool :=
  id % 2048 == 0 || decide (9 ≤ id / 4096 % 16) || !s.domOn (hartDomain h) || s.fld ACI_HART_STAT.STATE h == 0

/-- What became of an MSI: the state, and an event to raise when it was discarded. -/
abbrev MsiResult := State × List Event

def dropMsi (s : State) (ptn : Option Nat) (src target file vec : Nat) : MsiResult :=
  (s.incSat ACI_MSIDROP.COUNT 1,
   [{ code := evMsiDrop, ptn := ptn, unit := src, data := [w32 target, w32 file, w32 vec] }])

/-- Deliver an MSI to a hart's interrupt file (R487, R488). `src` is the block number of the source (R25).
(log 151: DESIGN CHOICE) -/
def State.msiHart (s : State) (ptn : Option Nat) (src h id : Nat) : MsiResult :=
  if s.msiDropped h id then dropMsi s ptn src h (id / 4096 % 16) (id % 2048)
  else
    ({ s with harts := { s.harts with
        imsic := s.harts.imsic.set (fun _ => false) (imsicKey h (id / 4096 % 16) (id % 2048)) true } }, [])

/-- The function that serves partition p (R491): VF v with PCI_FNv.PTN = p, or PF0 for the manager partition. -/
def State.fnOf (s : State) (p : Nat) : Option Nat :=
  if p = s.manager then some 0
  else firstFrom (fun v => s.fld PCI_FN.PTN v == p) 1 16

/-- A word of an MSI-X table that nothing has written: vectors are masked at reset (PRESUMED: the PCIe specification).
(log 8: PRESUMED) -/
def msixReset (k : Nat) : Word := if k % 4 = 3 then 1 else 0

/-- (log 144: DESIGN CHOICE) -/
def PciFn.msixWord (f : PciFn) (vec k : Nat) : Nat := (f.tbl.get msixReset (4 * vec + k)).toNat

/-- (log 141: DESIGN CHOICE) -/
def PciFn.masked (f : PciFn) (vec : Nat) : Bool := bit (f.msixWord vec 3) 0

/-- The message that an MSI-X vector of a function sends. -/
def State.sendMsix (s : State) (fn vec : Nat) : State :=
  let f := s.pciFns.getD fn {}
  s.postOut none (.msix fn vec (f.msixWord vec 0 + 2 ^ 32 * f.msixWord vec 1) (f.msixWord vec 2))

/-- Send an MSI-X vector on a function (R494): discarded where MSI-X is disabled or the vector lies beyond the table of
2,048; pending where it is masked. -/
def State.msiX (s : State) (p src vec : Nat) : MsiResult :=
  match s.fnOf p with
  | none => dropMsi s (some p) src 17 0 vec
  | some fn =>
    let f := s.pciFns.getD fn {}
    if ¬f.msixOn ∨ 2048 ≤ vec then dropMsi s (some p) src fn 0 vec
    else if ¬f.masked vec then (s.sendMsix fn vec, [])
    else
      ({ s with pciFns := s.pciFns.put fn { f with pba := f.pba.set (fun _ => false) vec true } }, [])

/-- Send the MSI a ring's MSI register names (layout of JOB_CQ_MSI, R99). -/
def State.msiReg (s : State) (p src reg : Nat) : MsiResult :=
  if bit reg 31 then s.msiX p src (bits reg 10 0) else s.msiHart (some p) src (bits reg 18 16) (bits reg 15 0)

/-! ## Rings -/

/-- Entries a ring holds. -/
def ringSize (log2 : Nat) : Nat := 2 ^ log2

/-- The phase bit of the record written with tail count c (R87). -/
def phaseBit (c log2 : Nat) : Nat := 1 - c / 2 ^ log2 % 2

/-- Byte 0 of a record given its phase bit. -/
def withByte0 (b : Nat) (r : List Byte) : List Byte := BitVec.ofNat 8 b :: r.drop 1

/-- (log 46: DEDUCED) -/
def jobRequester : Requester := { kind := 1, unit := 0, handle := 0, job := 0, tag := 0 }

/-- Whether an MSI is due for a ring whose IRQ_EN is 1 after `n` records (R88; a count of 0 acts as 1). -/
def irqDue (n cnt : Nat) : Bool := decide (max cnt 1 ≤ n)

/-- What follows from a write of partition p at `va` to the program memory of a tile that is not idle: it is ignored, with an event (R102). -/
def State.ignoredAt (s : State) (p va : Nat) : List Event :=
  match (s.translate p va true).1 with
  | .ok (g, _) =>
    match s.progRefused g with
    | some t => [{ code := evWriteIgnored, ptn := some p, unit := t, data := [w64 (localOf g)] }]
    | none => []
  | .error _ => []

/-- Write one 64-byte event record to partition p's event ring (R89): held while the ring is disabled or its write has
faulted (R69, R99), discarded while it is full. -/
def State.eqAppend (s : State) (p : Nat) (r : List Byte) : MsiResult :=
  let lg := s.fld JOB_EQ_CFG.LOG2SIZE p
  let tail := s.reg JOB_EQ_TAIL p
  if ¬s.flag JOB_EQ_CFG.EN p ∨ s.flag JOB_EQ_STAT.WRITE_FAULT p then
    (s.modJobPtn p fun j => { j with eqHeld := j.eqHeld ++ [r] }, [])
  else if ringSize lg ≤ dist32 tail (s.reg JOB_EQ_HEAD p) then
    ((s.incSat JOB_EQ_STAT.LOST 1 p).modJobPtn p fun j => { j with lostFlag := true }, [])
  else
    let b0 := phaseBit tail lg + 2 * b2n (s.jobPtn p).lostFlag
    let va := s.addrOf JOB_EQ_BASE_LO JOB_EQ_BASE_HI p + 64 * (tail % ringSize lg)
    let ignored := s.ignoredAt p va
    match s.vWrite p va (withByte0 b0 r) with
    | (.error (.mmu f), s) =>
      let s := s.setFld JOB_EQ_STAT.WRITE_FAULT 1 p
      let s := s.mmuFault p va true false jobRequester f
      (s.modJobPtn p fun j => { j with eqHeld := j.eqHeld ++ [r] }, [])
    | (_, s) =>
      let s := s.setReg JOB_EQ_TAIL (tail + 1) p
      let s := s.setFld JOB_EQ_STAT.FULL (b2n (decide (ringSize lg ≤ dist32 (tail + 1) (s.reg JOB_EQ_HEAD p)))) p
      let n := (s.jobPtn p).eqSince + 1
      let due := s.flag JOB_EQ_CFG.IRQ_EN p && irqDue n (s.fld JOB_EQ_CFG.IRQ_CNT p)
      let first := if n = 1 then s.atu.ticks else (s.jobPtn p).eqAt
      let s := s.modJobPtn p fun j => { j with lostFlag := false, eqSince := if due then 0 else n, eqAt := first }
      let (s, more) := if due then s.msiReg p 5 (s.reg JOB_EQ_MSI p) else (s, [])
      (s, ignored ++ more)

/-! ## Staging (R440) -/

/-- Stage a record: at most 54 places may be occupied, 56 for a supply-warning record. None where it is dropped.
(log 13: DESIGN CHOICE) -/
def State.stage (s : State) (r : List Byte) (warning : Bool) : Option State :=
  if (if warning then 55 else 54) < s.bbx.staged.length then none
  else
    let s := s.poke (0x02000200 + 64 * (s.bbx.tail % 56)) (withByte0 0 r)
    some { s with bbx := { s.bbx with staged := s.bbx.staged ++ [withByte0 0 r], tail := (s.bbx.tail + 1) % 2 ^ 32 } }

/-- An event is staged when its class bit is set in BBX_MASK; classes 0x0B and 0x0C always (R435),
and software records (R442). -/
def State.stagesEvent (s : State) (code : Nat) : Bool :=
  let c := code / 256
  c == 0x0B || c == 0x0C || c == 0x0F || (decide (c < 16) && bit (s.fld BBX_MASK.MASK) c)

/-! ## Raising an event -/

/-- Append a record to several rings, gathering what follows. -/
def appendAll (r : List Byte) : List Nat → State → MsiResult
  | [], s => (s, [])
  | p :: ps, s =>
    let (s, e1) := s.eqAppend p r
    let (s, e2) := appendAll r ps s
    (s, e1 ++ e2)

/-- Drop repeats, keeping the first of each. -/
def uniq : List Nat → List Nat
  | [] => []
  | x :: xs => x :: (uniq xs).filter (· != x)

/-- The rings an event goes to (R435). (log 12: DEDUCED) -/
def State.eventRings (s : State) (e : Event) : List Nat :=
  match e.ptn with
  | some p => [p]
  | none => uniq (s.manager :: e.owners)

/-- Raise one event: its record to the rings, its sequence number, its staging. The events that follow from it: a
discarded MSI, a record that found the stage full. (log 12: DEDUCED; log 13: DESIGN CHOICE) -/
def State.raiseOne (s : State) (e : Event) : State × List Event :=
  let r := eventBytes s e
  let rseq := s.bbx.rseq
  let s := { s with bbx := { s.bbx with rseq := (rseq + 1) % 2 ^ 32 } }.setReg BBX_RSEQ (rseq + 1)
  let (s, more) := appendAll r (s.eventRings e) s
  if s.stagesEvent e.code then
    match s.stage r (e.code == evSagWarn) with
    | some s => (s.syncStage.pumpFlash, more)
    | none =>
      let s := (s.incSat BBX_CNT.DROPPED 1).syncStage
      if e.code = evBbDropped then (s, more)
      else (s, more ++ [{ code := evBbDropped, ptn := none, data := [w32 rseq] }])
  else (s.syncStage, more)

/-- Raise events in order, with the events that follow from them. Every follow-up but the last consumes a ring entry or
a stage place, so `fuel` is never reached. -/
def raiseLoop : Nat → List Event → State → State
  | 0, _, s => s
  | _, [], s => s
  | k + 1, e :: es, s =>
    let (s, more) := s.raiseOne e
    raiseLoop k (es ++ more) s

def State.raiseAll (s : State) (es : List Event) : State := raiseLoop 0x200000 es s

/-- Raise an event. -/
def State.raise (s : State) (e : Event) : State := s.raiseAll [e]

/-- Raise what follows from an MSI. -/
def MsiResult.done (r : MsiResult) : State := r.1.raiseAll r.2

/-- Raise an event of partition p. -/
def State.event (s : State) (code p unit : Nat) (data : List (Nat × Nat)) : State :=
  s.raise { code := code, ptn := some p, unit := unit, data := data }

/-- Raise a device-wide event. (log 12: DEDUCED) -/
def State.devEvent (s : State) (code unit : Nat) (data : List (Nat × Nat)) (owners : List Nat := []) : State :=
  s.raise { code := code, ptn := none, owners := owners, unit := unit, data := data }

/-! ## Semaphores -/

/-- The highest value semaphore i of cluster c can hold. (log 164: DEDUCED) -/
def State.semTop (s : State) (c i : Nat) : Nat := if s.isMutex c i then 1 else 65535

/-- The mutex has been released: an inherit slice for it ends, its time is charged, and the holder is due to be saved
(R363). -/
def State.endSlices (s : State) (c i : Nat) : State :=
  let mine := s.slices.filter fun x => x.clu == c && x.sem == i
  let s := { s with slices := s.slices.filter fun x => !(x.clu == c && x.sem == i) }
  forEach mine (fun x s =>
    let s := match s.job? x.hjob with
      | some j => if x.depth = 1 then s.incSat PTN_INH_NS.NS ((s.now - x.began) / nsUnit) j.ptn else s
      | none => s
    match (s.tile x.htile).task with
    | some k =>
      if k.job = x.hjob ∧ k.index = x.hindex then
        s.modTile x.htile fun y => { y with preempt := true, sliceEnd := true }
      else s
    | none => s) s

/-- Add n to a semaphore (R80, R362): it saturates with an event, and a mutex whose value becomes 1 is released.
(log 164: DEDUCED) -/
def State.signal (s : State) (c i n : Nat) : State :=
  if ¬s.domOn (64 + c) then s
  else
    let v := s.fld CLU_SEM.VALUE c i + n
    let top := s.semTop c i
    let s1 := s.setFld CLU_SEM.VALUE (min v top) c i
    let s1 := if s.isMutex c i then
        let s2 := ((s1.setFld CLU_SEM.HELD 0 c i).setFld CLU_SEM.HOLDER 0 c i).setFld CLU_SEM.JOB_HOLDER 0 c i
        { s2 with holders := s2.holders.del (c * 1024 + i) }.endSlices c i
      else s1
    let s1 := s1.refresh
    if top < v then
      s1.raise { code := evSemSat, ptn := s.semOwner c i, unit := i, data := [w32 c] }
    else s1

/-- Apply a semaphore entry's signal, if the entry is valid. -/
def State.signalEntry (s : State) (e : Nat) : State :=
  if semV e then s.signal (semClu e) (semIx e) (semCount e) else s

/-- Subtract n from a semaphore for a holder: a tile's context, or a job (R79, R111, R362). (log 164: DEDUCED) -/
def State.takeSem (s : State) (c i n : Nat) (tile : Option Nat) : State :=
  let v := s.fld CLU_SEM.VALUE c i - n
  let s := (s.setFld CLU_SEM.VALUE v c i).refresh
  if s.isMutex c i && v == 0 then
    match tile with
    | some t =>
      let s := ((s.setFld CLU_SEM.HELD 1 c i).setFld CLU_SEM.HOLDER t c i).setFld CLU_SEM.JOB_HOLDER 0 c i
      match (s.tile t).task with
      | some k => { s with holders := s.holders.put (c * 1024 + i) (k.job, k.index) }
      | none => s
    | none => ((s.setFld CLU_SEM.HELD 1 c i).setFld CLU_SEM.HOLDER 0 c i).setFld CLU_SEM.JOB_HOLDER 1 c i
  else s

/-- Set an interrupt source's bit in the tile's IPEND (R125). -/
def State.tileIrq (s : State) (t k : Nat) : State :=
  s.modTile t fun x => { x with ipend := x.ipend ||| BitVec.ofNat 32 (2 ^ k) }

end Sys2Proof.Machine
end

