-- ==== Sys2Proof/Machine/Air.lean ====
section
/-! DEFINITION. The air grid of R53-R55: where frames, slots and symbols begin on a cell's timeline. Times are integers in
units of 2^-32 ns; a boundary that falls between two units is rounded up, so that comparing with the counter is exact. -/
namespace Sys2Proof.Machine

/-- The GPS epoch in TAI, seconds (R53). -/
def gpsEpoch : Nat := 315964819

/-- A cell's timeline: numerology, extended CP, and frame offset in ns (R53, R54). -/
structure CellGrid where
  mu : Nat
  ecp : Bool
  ofs : Int
deriving DecidableEq, Repr

def State.cellGrid (s : State) (c : Nat) : CellGrid :=
  { mu := s.fld ATU_CELL_CFG.MU c, ecp := s.flag ATU_CELL_CFG.ECP c, ofs := sext 32 (s.reg ATU_CELL_OFS c) }

def State.cellOn (s : State) (c : Nat) : Bool := decide (c < 96) && s.flag ATU_CELL_CFG.EN c

def CellGrid.symsPerSlot (g : CellGrid) : Nat := if g.ecp then 12 else 14
def CellGrid.slotsPerFrame (g : CellGrid) : Nat := 10 * 2 ^ g.mu

/-- Start of symbol `n` of a subframe in Tc (38.211): with normal CP the symbols 0 and 7 * 2^mu carry 1,024 Tc more. -/
def CellGrid.symTc (g : CellGrid) (n : Nat) : Nat :=
  if g.ecp then n * (163840 / 2 ^ g.mu)
  else n * (140288 / 2 ^ g.mu) + 1024 * (b2n (decide (0 < n)) + b2n (decide (7 * 2 ^ g.mu < n)))

/-- Start of a symbol within its frame, in Tc. A subframe of 1 ms is 1,966,080 Tc. -/
def CellGrid.posTc (g : CellGrid) (slot sym : Nat) : Nat :=
  slot / 2 ^ g.mu * 1966080 + g.symTc (slot % 2 ^ g.mu * g.symsPerSlot + sym)

/-- Three times the time of a position, in units: exact, since Tc = 3,125 / 6,144 ns = 3,125 * 2^21 / 3 units. -/
def CellGrid.pos3 (g : CellGrid) (frame : Int) (slot sym : Nat) (nsOfs : Int) : Int :=
  3 * (((gpsEpoch * 1000000000 : Nat) : Int) + g.ofs + nsOfs + frame * 10000000) * (nsUnit : Int)
    + ((g.posTc slot sym * 3125 * 2 ^ 21 : Nat) : Int)

/-- The first unit at or after three times a time. -/
def ceil3 (x : Int) : Int := (x + 2) / 3

/-- The time of a position: the first unit at or after it. -/
def CellGrid.posTime (g : CellGrid) (frame : Int) (slot sym : Nat) (nsOfs : Int) : Nat :=
  (ceil3 (g.pos3 frame slot sym nsOfs)).toNat

/-- The frame that R55 chooses for an SFN: the one whose occurrence of the position lies in [now - 5.12 s, now + 5.12 s). -/
def CellGrid.resolveFrame (g : CellGrid) (now sfn slot sym : Nat) (nsOfs : Int) : Int :=
  let span : Int := 3 * 10240000000 * nsUnit
  let low : Int := 3 * ((now : Int) - 5120000000 * nsUnit)
  let m := (low - g.pos3 sfn slot sym nsOfs + span - 1) / span
  (sfn : Int) + 1024 * m

/-- The frame in progress at a time. -/
def CellGrid.frameAt (g : CellGrid) (now : Int) : Int :=
  (now - (((gpsEpoch * 1000000000 : Nat) : Int) + g.ofs) * nsUnit) / (10000000 * nsUnit)

/-- Among the positions of a frame's grid numbered from `i` up (symbols, or symbol `sym0` of each slot), the first whose
time is after `now`. -/
def CellGrid.firstAfter (g : CellGrid) (now : Nat) (frame nsOfs : Int) (sym0 : Option Nat) : Nat → Nat → Option Nat
  | _, 0 => none
  | i, k + 1 =>
    let sym := sym0.getD (i % g.symsPerSlot)
    let slot := if sym0.isSome then i else i / g.symsPerSlot
    if now < g.posTime frame slot sym nsOfs then some i else g.firstAfter now frame nsOfs sym0 (i + 1) k

/-- The slot in progress and the symbol in progress at a time: frame, slot, symbol. -/
def CellGrid.posAt (g : CellGrid) (now : Nat) : Int × Nat × Nat :=
  let f := g.frameAt now
  let n := g.slotsPerFrame * g.symsPerSlot
  let i := ((g.firstAfter now f 0 none 0 n).getD n) - 1
  (f, i / g.symsPerSlot, i % g.symsPerSlot)

/-- SFN of a frame. -/
def sfnOf (frame : Int) : Nat := (frame % 1024).toNat

end Sys2Proof.Machine
end

