-- ==== Sys2Proof/Machine/AtuOps.lean ====
section
/-! DEFINITION. Air Timeline Unit (chapter 02): the tick, the servo, the pulses, the cell timelines and the triggers. -/
namespace Sys2Proof.Machine

/-- The ATU domain is ON and the writer is the time owner (R44). -/
def State.timeWrite (s : State) (p : Nat) : Bool := s.domOn 77 && p == s.timeOwner

def State.modAtu (s : State) (f : Atu → Atu) : State := { s with atu := f s.atu }

/-- An ATU event: device-wide, the time owner owning the ATU. -/
def State.atuEvent (s : State) (code unit : Nat) (data : List (Nat × Nat)) : State :=
  s.devEvent code unit data [s.timeOwner]

/-- LOCK takes a value; each change raises an event (R48). -/
def State.setLock (s : State) (b : Bool) : State :=
  if s.flag ATU_STAT.LOCK = b then s
  else (s.setFld ATU_STAT.LOCK (b2n b)).atuEvent evLock (b2n b) []

/-! ## The servo (R46-R48) -/

def fmax : Int := 873813

/-- FADJ takes a value, and FADJ_CLAMP shows whether it sits at its limit. -/
def State.setFadj (s : State) (x : Int) : State :=
  let f := clampInt (-fmax) fmax x
  (s.setFld ATU_FADJ.FADJ (toBits 24 f)).setFld ATU_STAT.FADJ_CLAMP (b2n (f == fmax || f == -fmax))

/-- The run counts of R48 after a sample, and LOCK with them. (log 15: DESIGN CHOICE) -/
def State.lockSample (s : State) (good : Bool) : State :=
  let s := s.modAtu fun a =>
    { a with goodRun := if good then satAdd a.goodRun 1 8 else 0, badRun := if good then 0 else satAdd a.badRun 1 2 }
  if s.atu.goodRun = 8 then s.setLock true else if s.atu.badRun = 2 then s.setLock false else s

/-- The servo processes a phase sample e, in units of 2^-8 ns (R46). (log 15: DESIGN CHOICE) -/
def State.servo (s : State) (e : Int) : State :=
  let s := s.setFld ATU_STAT.HOLDOVER 0
  let s := s.lockSample (decide ((e.natAbs : Int) ≤ s.fld ATU_SERVO_CTL.LOCK_THR * 256))
  if s.flag ATU_SERVO_CTL.STEP_EN ∧ s.fld ATU_SERVO_CTL.STEP_THR * 100 * 256 < e.natAbs then
    s.modAtu fun a => { a with integ := 0, steps := a.steps ++ [.move (-e * 2 ^ 24)] }
  else
    let ki : Int := s.fld ATU_GAIN.KI
    let kp : Int := s.fld ATU_GAIN.KP
    let integ := clampInt (-fmax * 2 ^ 20) (fmax * 2 ^ 20) (s.atu.integ + ki * e)
    let s := s.modAtu fun a => { a with integ := integ }
    let f := if s.flag ATU_SERVO_CTL.FREQ_SRC then s.atu.synceErr * 2 ^ 20 else integ
    s.setFadj (truncDiv (-(kp * e * 16 + f)) (2 ^ 20))

/-- The servo takes the pending sample. -/
def State.takeSample (s : State) (e : Int) : State := (s.modAtu fun a => { a with sample := none, sampleAge := 0 }).servo e

/-! ## Steps and ticks (R41-R43, R57) -/

/-- A forward step makes due every trigger whose target it jumps over (R57). -/
def markJumped (old new : Nat) (rows : List (Nat × Trigger)) : List (Nat × Trigger) :=
  rows.map fun (i, t) =>
    (i, if t.armed && decide (old < t.target) && decide (t.target ≤ new) then { t with jumped := true, jumpTo := new } else t)

/-- A step of R43 has moved the counter from `old` to `new`: `moved` is its signed amount in units. -/
def State.stepDone (s : State) (old new : Nat) (moved : Int) : State :=
  let s := s.modAtu fun a =>
    { a with integ := 0, goodRun := 0, badRun := 0, triggers := ⟨markJumped old new a.triggers.rows⟩ }
  let s := s.incSat ATU_STAT.STEP_CNT 1
  let s := s.setLock false
  s.atuEvent evStep 0 [(8, toBits 64 (truncDiv moved nsUnit))]

/-- Units in a full turn of the 48-bit seconds. (log 16: DEDUCED) -/
def wrapUnits : Nat := 2 ^ 48 * 1000000000 * nsUnit

/-- A signed time brought into one turn of the counter. -/
def wrapTime (x : Int) : Nat := (x % (wrapUnits : Int)).toNat

/-- What one tick adds, in units (R41). -/
def State.increment (s : State) : Int :=
  if s.flag ATU_CTL.RUN then
    (s.fld ATU_INCR_NS.NS : Int) * nsUnit + (s.reg ATU_INCR_FRAC : Int) + sext 24 (s.fld ATU_FADJ.FADJ)
  else 0

/-- The staged time of ATU_SET_* in units (R42). -/
def State.stagedTime (s : State) : Nat :=
  ((s.reg ATU_SET_SEC_LO + 2 ^ 32 * s.fld ATU_SET_SEC_HI.SEC_HI) * 1000000000 + s.fld ATU_SET_NS.NS) * nsUnit

/-- Apply the first waiting step, the counter being at `u` after the tick's increment. (log 17: DESIGN CHOICE) -/
def State.applyStep (s : State) (u : Nat) (st : ClockStep) : State :=
  match st with
  | .load =>
    let s := s.setFld ATU_CTL.SET 0
    if 999999999 < s.fld ATU_SET_NS.NS then
      (s.modAtu fun a => a.setNow u).setFld ATU_STAT.SET_ERR 1
    else
      let new := s.stagedTime
      let s := (s.modAtu fun a => a.setNow new).setFld ATU_STAT.TIME_SET 1
      s.stepDone u new ((new : Int) - u)
  | .move d =>
    let new := wrapTime ((u : Int) + d)
    (s.modAtu fun a => a.setNow new).stepDone u new d

/-- One tick of the ATU clock: the increment, then at most one waiting step.
(log 3: DEDUCED; log 17: DESIGN CHOICE; log 161: DESIGN CHOICE; log 165: DEDUCED) -/
def State.atuTick (s : State) : State :=
  let old := s.now
  let u := wrapTime ((old : Int) + s.increment)
  let s := match s.atu.steps with
    | [] => s.modAtu fun a => a.setNow u
    | st :: rest => (s.modAtu fun a => { a with steps := rest }).applyStep u st
  let new := s.now
  let run := s.flag ATU_CTL.RUN
  let s := s.modAtu fun a =>
    { a with ticks := a.ticks + 1, firedNow := 0, nextIx := 0, triggers := ⟨a.triggers.rows.map fun (i, t) => (i, { t with fresh := false })⟩,
             secEdge := decide (old < new ∧ old / (1000000000 * nsUnit) ≠ new / (1000000000 * nsUnit)),
             msEdge := decide (old < new ∧ old / (1000000 * nsUnit) ≠ new / (1000000 * nsUnit)),
             ppsLeft := a.ppsLeft - 1, syncLeft := a.syncLeft - 1, holdTicks := a.holdTicks + b2n run,
             sampleAge := a.sampleAge + b2n a.sample.isSome }
  match s.atu.sample with
  | some e => if run ∧ ticksPerUs ≤ s.atu.sampleAge then s.takeSample e else s
  | none => s

def execAtuTick (s : State) : Host.Outcome State Fault Refusal :=
  .next (if s.domOn 77 then s.atuTick else s.modAtu fun a => { a with ticks := a.ticks + 1 })

/-- ATU_CTL.SET written 1: the load waits for the next tick. (log 17: DESIGN CHOICE) -/
def State.atuSet (s : State) (p : Nat) : State :=
  if s.timeWrite p ∧ ¬s.flag ATU_CTL.SET then
    (s.setFld ATU_CTL.SET 1).modAtu fun a => { a with steps := a.steps ++ [.load] }
  else s

def execAtuSet (p : PtnIx) (s : State) : Host.Outcome State Fault Refusal := .next (s.atuSet p)

/-- ATU_STEP written: a step of signed ns waits for the next tick. -/
def State.atuStep (s : State) (p : Nat) (ns : Nat) : State :=
  if s.timeWrite p then
    s.modAtu fun a => { a with steps := a.steps ++ [.move (sext 32 ns * nsUnit)] }
  else s

def execAtuStep (p : PtnIx) (ns : Word) (s : State) : Host.Outcome State Fault Refusal :=
  .next (s.atuStep p ns.toNat)

/-- A read of ATU_TIME_SNAP0 latches the time for the reading partition (R45). -/
def State.snapRead (s : State) (p : Nat) : State :=
  if s.domOn 77 then s.modAtu fun a => { a with snaps := a.snaps.put p { sec := a.sec, frac := a.frac } } else s

def execTimeSnapRead (p : PtnIx) (s : State) : Host.Outcome State Fault Refusal := .next (s.snapRead p)

/-! ## Phase samples (R46-R50) -/

/-- A phase sample arrives (R47). A sample still pending is replaced and counted lost; `taken` says whether the servo
processes the new one before the next event, or leaves it pending; a tick at which it has been pending for 1 us takes it.
(log 15: DESIGN CHOICE) -/
def State.phaseSample (s : State) (e : Int) (taken : Bool) : State :=
  if ¬s.flag ATU_CTL.RUN then s
  else
    let s := if s.atu.sample.isSome then s.incSat ATU_STAT.SAMPLE_LOST 1 else s
    let s := s.modAtu fun a => { a with sample := some e, sampleAge := 0, holdTicks := 0 }
    if taken then s.takeSample e else s

/-- A write of ATU_OFS_IN. -/
def State.ofsIn (s : State) (p ofs : Nat) (taken : Bool) : State :=
  if s.timeWrite p ∧ s.fld ATU_SERVO_CTL.PHASE_SRC = 1 then s.phaseSample (sext 32 ofs) taken else s

def execAtuOfsIn (p : PtnIx) (ofs : Word) (taken : Bool) (s : State) : Host.Outcome State Fault Refusal :=
  .next (s.ofsIn p ofs.toNat taken)

/-- Time of an edge at its ball in 1/16 ns: the tick in progress and a signed offset from it (R49). -/
def State.edge16 (s : State) (ofs16 : BitVec 8) : Int := ((s.now : Int) + sext 8 ofs16.toNat * 2 ^ 28) / 2 ^ 28

/-- A time in 1/16 ns minus the nearest multiple of `period`, less a delay, in units of 2^-8 ns. (log 16: DEDUCED) -/
def nearestOffset (t16 period : Int) (dly : Nat) : Int :=
  (t16 - (t16 + period / 2) / period * period - dly) * 16

def execPpsInEdge (ofs16 : BitVec 8) (taken : Bool) (s : State) : Host.Outcome State Fault Refusal :=
  .next (if s.domOn 77 ∧ s.fld ATU_SERVO_CTL.PHASE_SRC = 2 then
    s.phaseSample (nearestOffset (s.edge16 ofs16) 16000000000 (s.fld ATU_PPS_CFG.IN_DLY)) taken else s)

def execSyncInEdge (ofs16 : BitVec 8) (taken : Bool) (s : State) : Host.Outcome State Fault Refusal :=
  .next (if s.domOn 77 ∧ s.fld ATU_SERVO_CTL.PHASE_SRC = 3 ∧ ¬s.flag ATU_SYNC_CFG.LEADER then
    s.phaseSample (nearestOffset (s.edge16 ofs16) 16000000 (s.fld ATU_SYNC_CFG.DLY)) taken else s)

/-- End of a 10 ms SyncE gate with the measured error in FADJ units, positive when the local clock is fast.
(log 18: DEDUCED) -/
def execSynceGate (err : BitVec 32) (s : State) : Host.Outcome State Fault Refusal :=
  .next (
    if s.domOn 77 ∧ s.flag ATU_CTL.RUN ∧ s.flag ATU_SERVO_CTL.FREQ_SRC then
      let e := sext 32 err.toNat
      let s := s.modAtu fun a => { a with synceErr := e }
      if s.fld ATU_SERVO_CTL.PHASE_SRC = 0 ∧ ¬s.flag ATU_STAT.HOLDOVER then s.setFadj (-e) else s
    else s)

/-- Entry to holdover (R47). (log 18: DEDUCED) -/
def State.enterHoldover (s : State) : State :=
  if s.flag ATU_STAT.HOLDOVER then s
  else
    let s := s.setFld ATU_STAT.HOLDOVER 1
    let s := s.modAtu fun a => { a with goodRun := 0, badRun := 0 }
    (s.setLock false).atuEvent evHoldover 0 []

/-- HOLD_TO x 100 ms have passed without a phase sample (R47). (log 165: DEDUCED) -/
def State.holdDue (s : State) : Bool :=
  s.domOn 77 && s.flag ATU_CTL.RUN && decide (s.fld ATU_SERVO_CTL.HOLD_TO ≠ 0) && decide (s.fld ATU_SERVO_CTL.PHASE_SRC ≠ 0)
    && decide (s.fld ATU_SERVO_CTL.HOLD_TO * ticksPer100Ms ≤ s.atu.holdTicks)

/-- (log 18: DEDUCED) -/
def execHoldoverTimeout (s : State) : Host.Outcome State Fault Refusal :=
  .next (if s.holdDue then s.enterHoldover else s)

/-! ## Pulses (R49, R50) -/

def execPpsOutRise (s : State) : Host.Outcome State Fault Refusal :=
  .next (if s.domOn 77 ∧ s.atu.secEdge ∧ s.flag ATU_PPS_CFG.OUT_EN then
    s.modAtu fun a => { a with ppsOut := true, ppsLeft := max 1 (s.fld ATU_PPS_CFG.WIDTH) * ticksPerMs } else s)

/-- The pulse falls when its WIDTH has passed, a WIDTH of 0 acting as 1. -/
def execPpsOutFall (s : State) : Host.Outcome State Fault Refusal :=
  .next (if s.atu.ppsLeft = 0 then s.modAtu fun a => { a with ppsOut := false } else s)

def execSyncOutRise (s : State) : Host.Outcome State Fault Refusal :=
  .next (if s.domOn 77 ∧ s.atu.msEdge ∧ s.flag ATU_SYNC_CFG.LEADER ∧ s.flag ATU_SYNC_CFG.OUT_EN then
    s.modAtu fun a => { a with syncOut := true, syncLeft := ticksPerUs + 1 } else s)

/-- The pulse falls when its microsecond has passed. -/
def execSyncOutFall (s : State) : Host.Outcome State Fault Refusal :=
  .next (if s.atu.syncLeft = 0 then s.modAtu fun a => { a with syncOut := false } else s)

/-! ## RCVCLK (R52) -/

/-- RCVCLK_P/N carries the recovered clock of RCV_PORT; without RCV_EN, or while that port has no link, it is held low. -/
def State.rcvClk (s : State) : Bool := s.flag ATU_CTL.RCV_EN && s.flag ETH_PORT_STAT.LINK (s.fld ATU_CTL.RCV_PORT)

/-- RCVCLK is to be driven from a port that has no link: it is held low, with an event. -/
def State.rcvCheck (s : State) : State :=
  if s.flag ATU_CTL.RCV_EN ∧ ¬s.rcvClk then s.devEvent evRcvLoss (s.fld ATU_CTL.RCV_PORT) [] [s.timeOwner] else s

/-! ## Cell timelines (R54) -/

/-- The trigger is an armed air position on cell c. -/
def Trigger.onCell (t : Trigger) (c : Nat) : Bool :=
  t.armed && bits t.w0.toNat 31 30 == 2 && bits t.w1.toNat 31 25 == c

/-- Clearing a cell's EN disarms every air-position trigger on it; one event reports the count. (log 19: DESIGN CHOICE) -/
def State.cellDisarm (s : State) (c : Nat) : State :=
  let n := (s.atu.triggers.rows.filter fun r => r.2.onCell c).length
  let s := s.modAtu fun a =>
    { a with triggers := ⟨a.triggers.rows.map fun (i, t) => (i, if t.onCell c then { t with armed := false } else t)⟩,
             rearms := ⟨a.rearms.rows.filter fun r => ¬r.2.onCell c⟩ }
  s.atuEvent evCellDisarm c [w32 n]

/-- A write of ATU_CELL_CFGn. (log 19: DESIGN CHOICE) -/
def State.cellCfgWrite (s : State) (p c v : Nat) : State :=
  if ¬s.timeWrite p then s
  else if s.flag ATU_CELL_CFG.EN c then
    if bit v 31 then s else (s.setFld ATU_CELL_CFG.EN 0 c).cellDisarm c
  else
    let s := (s.setFld ATU_CELL_CFG.ECP (bits v 30 30) c).setFld ATU_CELL_CFG.MU (bits v 27 24) c
    let g := s.cellGrid c
    if bit v 31 ∧ g.mu ≤ 3 ∧ (g.ecp = true → g.mu = 2) ∧ g.ofs.natAbs < 10000000 then
      s.setFld ATU_CELL_CFG.EN 1 c
    else s

/-! ## Triggers (R55-R58) -/

/-- The target of an ATU-time trigger: seconds resolved within 2^31 s of arming. -/
def atuTarget (now : Nat) (w1 w2 : Nat) : Nat :=
  let sec := now / (1000000000 * nsUnit)
  let t : Int := (sec : Int) + sext 32 (dist32 w2 (sec % 2 ^ 32))
  ((t * 1000000000 + bits w1 29 0) * nsUnit).toNat

/-- The result code of an ARM with staged words (R58, R67). (log 20: DEDUCED) -/
def State.armError (s : State) (p i : Nat) (g : TrgStage) : Nat :=
  let w0 := g.w0.toNat
  let w1 := g.w1.toNat
  let mode := bits w0 31 30
  let rep := bits w0 29 28
  let act := bits w0 27 24
  let c := bits w1 31 25
  let grid := s.cellGrid c
  if ¬s.ownsTrg p i ∨ (act = 0 ∧ ¬s.ownsTile p (bits w0 5 0)) ∨ (act = 1 ∧ ¬s.ownsSem p (bits w0 11 10) (bits w0 9 0)) then 1
  else if mode = 0 ∨ mode = 3 ∨ 3 < act ∨ (mode = 1 ∧ (rep = 1 ∨ rep = 2)) then 2
  else if rep = 3 ∧ g.w3.toNat < 1000 then 3
  else if mode = 2 ∧ ¬s.cellOn c then 4
  else if mode = 1 ∧ 999999999 < w1 then 5
  else if mode = 2 ∧ (bits w1 3 0 ≠ 0 ∨ grid.slotsPerFrame ≤ bits w1 14 8 ∨ grid.symsPerSlot ≤ bits w1 7 4
      ∨ 10000000 ≤ (sext 32 g.w2.toNat).natAbs) then 5
  else 0

/-- The trigger that an accepted ARM makes. (log 179: DEDUCED) -/
def State.armed (s : State) (p : Nat) (g : TrgStage) : Trigger :=
  let w1 := g.w1.toNat
  let slot := bits w1 14 8
  let sym := bits w1 7 4
  let ofs := sext 32 g.w2.toNat
  let grid := s.cellGrid (bits w1 31 25)
  let air := bits g.w0.toNat 31 30 == 2
  let frame := grid.resolveFrame s.now (bits w1 24 15) slot sym ofs
  let target := if air then grid.posTime frame slot sym ofs else atuTarget s.now w1 g.w2.toNat
  { w0 := g.w0, w1 := g.w1, w2 := g.w2, w3 := g.w3, owner := p, armed := true, target := target,
    frame := frame, slot := slot, sym := sym, lateDue := decide (target ≤ s.now),
    fresh := true, jumped := false, jumpTo := 0, stopAfter := false, late := false, stepped := false, missed := 0 }

def State.trgStage (s : State) (p : Nat) : TrgStage := s.atu.trgStage.getD p {}

def State.setStage (s : State) (p : Nat) (g : TrgStage) : State :=
  s.modAtu fun a => { a with trgStage := a.trgStage.put p g }

/-- ERR of the partition's ATU_TRG_STAT. -/
def State.trgErr (s : State) (p e : Nat) : State :=
  let g := s.trgStage p
  s.setStage p { g with stat := BitVec.ofNat 32 (setBits g.stat.toNat 27 24 e) }

/-- Due at the tick in progress. -/
def Trigger.due (t : Trigger) (now : Nat) : Bool := t.armed && !t.fresh && decide (t.target ≤ now)

/-- Triggers fire at all: the domain is ON, TRG_EN and RUN are 1. -/
def State.trgOn (s : State) : Bool := s.domOn 77 && s.flag ATU_CTL.TRG_EN && s.flag ATU_CTL.RUN

/-- Trigger i fires in the tick in progress: it is due, its turn has not passed, and the limit of 16 reaches it (R56). -/
def State.firesNow (s : State) (i : Nat) : Bool :=
  let a := s.atu
  let before := a.triggers.rows.filter fun r => decide (a.nextIx ≤ r.1) && decide (r.1 < i) && r.2.due a.now
  s.trgOn && decide (a.nextIx ≤ i) && ((a.triggers.find? i).map fun t => t.due a.now).getD false
    && decide (a.firedNow + before.length < 16)

/-- An accepted ARM takes effect at once, or after the firing of its index that the tick in progress still holds (R58).
(log 20: DEDUCED) -/
def State.trgArm (s : State) (p i : Nat) : State :=
  let g := s.trgStage p
  match s.armError p i g with
  | 0 =>
    (if s.firesNow i then s.modAtu fun a => { a with rearms := a.rearms.put i (s.armed p g) }
     else s.modAtu fun a => { a with triggers := a.triggers.put i (s.armed p g), rearms := a.rearms.del i }).trgErr p 0
  | e => s.trgErr p e

def execArm (p : PtnIx) (index : BitVec 12) (s : State) : Host.Outcome State Fault Refusal :=
  .next (if s.domOn 77 then s.trgArm p index.toNat else s)

/-- A due trigger still fires once and then stops; another stops at once (R58). -/
def disarmed (now : Nat) (t : Trigger) : Trigger :=
  if t.armed then
    if t.target ≤ now then { t with stopAfter := true } else { t with armed := false }
  else t

def State.trgDisarm (s : State) (p i : Nat) : State :=
  if ¬s.ownsTrg p i then s.trgErr p 1
  else
    match s.atu.triggers.find? i with
    | none => s.trgErr p 0
    | some t =>
      (s.modAtu fun a => { a with triggers := a.triggers.put i (disarmed s.now t), rearms := a.rearms.del i }).trgErr p 0

def execDisarm (p : PtnIx) (index : BitVec 12) (s : State) : Host.Outcome State Fault Refusal :=
  .next (if s.domOn 77 then s.trgDisarm p index.toNat else s)

/-- ATU_TRG_STAT of a trigger (R67). -/
def Trigger.statWord (t : Trigger) : Nat :=
  b2n t.armed * 2 ^ 31 + b2n t.late * 2 ^ 30 + b2n t.stepped * 2 ^ 29 + t.missed

def State.trgRead (s : State) (p i : Nat) : State :=
  if ¬s.ownsTrg p i then s.trgErr p 1
  else
    match s.atu.triggers.find? i with
    | none => s.setStage p {}
    | some t => s.setStage p { w0 := t.w0, w1 := t.w1, w2 := t.w2, w3 := t.w3, stat := BitVec.ofNat 32 t.statWord }

def execTrgRead (p : PtnIx) (index : BitVec 12) (s : State) : Host.Outcome State Fault Refusal :=
  .next (if s.domOn 77 then s.trgRead p index.toNat else s)

/-- The next target after a firing, from the previous target, with the repeats a step skipped (R57). -/
def State.nextTarget (s : State) (t : Trigger) : Trigger :=
  let rep := bits t.w0.toNat 29 28
  if rep = 3 then
    let p := t.w3.toNat * nsUnit
    let n := t.target + p
    if t.jumped ∧ n ≤ t.jumpTo then
      let k := (t.jumpTo - n) / p + 1
      { t with target := n + k * p, missed := satAdd t.missed k 65535 }
    else { t with target := n }
  else
    let g := s.cellGrid (bits t.w1.toNat 31 25)
    let ofs := sext 32 t.w2.toNat
    let bySlot := rep == 2
    let per := if bySlot then g.slotsPerFrame else g.slotsPerFrame * g.symsPerSlot
    -- index of the target within its frame's grid
    let ix := if bySlot then t.slot else t.slot * g.symsPerSlot + t.sym
    let sym0 := if bySlot then t.sym else 0
    let place := fun (i : Int) (missed : Nat) =>
      let f := i / per
      let j := (i % per).toNat
      let slot := if bySlot then j else j / g.symsPerSlot
      let sym := if bySlot then sym0 else j % g.symsPerSlot
      { t with frame := f, slot := slot, sym := sym, target := g.posTime f slot sym ofs, missed := missed }
    let next : Int := t.frame * per + ix + 1
    let t1 := place next t.missed
    if t.jumped ∧ t1.target ≤ t.jumpTo then
      -- the first position of the grid after the stepped time: in its frame, or the first of the next
      let f := g.frameAt ((t.jumpTo : Int) - ofs * nsUnit)
      let a := (g.firstAfter t.jumpTo f ofs (if bySlot then some sym0 else none) 0 per).getD per
      let new : Int := f * per + a
      place new (satAdd t.missed (new - next).toNat 65535)
    else t1

/-- The trigger after it has fired. -/
def State.afterFire (s : State) (t : Trigger) : Trigger :=
  let t1 := if bits t.w0.toNat 29 28 = 0 ∨ t.stopAfter then { t with armed := false } else s.nextTarget t
  { t1 with late := t.lateDue, stepped := t.jumped, lateDue := false, jumped := false, stopAfter := false }

/-- Deliver a fired trigger's action (R56). -/
def State.trgAction (s : State) (i : Nat) (t : Trigger) : State :=
  let w0 := t.w0.toNat
  match bits w0 27 24 with
  | 0 => s.tileIrq (bits w0 5 0) 0
  | 1 => s.signal (bits w0 11 10) (bits w0 9 0) 1
  | 2 => (s.msiHart (some t.owner) 4 (bits w0 18 16) (bits w0 15 0)).done
  | _ => s.event evTrg t.owner (bits w0 15 0) [w32 i, w64 (t.target / nsUnit)]

/-- The lowest due trigger from index `nextIx` up fires, if fewer than 16 have fired in this tick. (log 3: DEDUCED) -/
def State.triggerFire (s : State) : State :=
  let a := s.atu
  if ¬s.trgOn ∨ 16 ≤ a.firedNow then s
  else
    match a.triggers.rows.find? fun r => decide (a.nextIx ≤ r.1) && r.2.due a.now with
    | none => s
    | some (i, t) =>
      let s := s.modAtu fun a =>
        { a with firedNow := a.firedNow + 1, nextIx := i + 1, triggers := a.triggers.put i ((a.rearms.find? i).getD (s.afterFire t)),
                 rearms := a.rearms.del i }
      s.trgAction i t

def execTriggerFire (s : State) : Host.Outcome State Fault Refusal := .next s.triggerFire

/-- A read of ATU_ETS0 by the time owner pops one entry (R64, R67). -/
def State.etsPop (s : State) (p : Nat) : State :=
  if s.timeWrite p then s.modAtu fun a => { a with ets := a.ets.drop 1, etsLatch := a.ets.head? } else s

def execEtsPop (p : PtnIx) (s : State) : Host.Outcome State Fault Refusal := .next (s.etsPop p)

/-- An egress timestamp enters the FIFO, or is discarded when it holds 256 (R64). (log 147: DEDUCED) -/
def State.pushEts (s : State) (e : EgressStamp) : State :=
  if 256 ≤ s.atu.ets.length then s.setFld ATU_STAT.ETS_OVF 1
  else s.modAtu fun a => { a with ets := a.ets ++ [e] }

end Sys2Proof.Machine
end

