-- ==== Sys2Proof/Machine/Flags.lean ====
section
/-! DEFINITION. The flags of the scalar slot (R105): Z, N, C and V in bits [3:0], for a sum, a difference and a logic or
shift result, and the conditions of PSET (R111). -/
namespace Sys2Proof.Machine

/-- Bits [3:0] of FLAGS from their four values. -/
def packFlags (z n c v : Bool) : BitVec 4 := BitVec.ofNat 4 (b2n z + 2 * b2n n + 4 * b2n c + 8 * b2n v)

/-- Of a + b: C is the carry out of bit 31. -/
def flagsAdd (a b : Word) : BitVec 4 :=
  let r := a + b
  packFlags (r == 0) r.msb (decide (2 ^ 32 ≤ a.toNat + b.toNat)) (a.msb == b.msb && r.msb != a.msb)

/-- Of a - b: C is 1 when no borrow occurs. -/
def flagsSub (a b : Word) : BitVec 4 :=
  let r := a - b
  packFlags (r == 0) r.msb (decide (b.toNat ≤ a.toNat)) (a.msb != b.msb && r.msb != a.msb)

/-- Of a logic or shift result: Z and N; C and V as they were. -/
def flagsLogic (old : Word) (r : Word) : BitVec 4 := packFlags (r == 0) r.msb (old.getLsbD 2) (old.getLsbD 3)

/-- The conditions of PSET on FLAGS (R111). -/
def condition (c : Nat) (f : Word) : Bool :=
  let z := f.getLsbD 0
  let n := f.getLsbD 1
  let cy := f.getLsbD 2
  let v := f.getLsbD 3
  match c with
  | 0 => z
  | 1 => !z
  | 2 => n != v
  | 3 => n == v
  | 4 => !cy
  | 5 => cy
  | 6 => !z && n == v
  | 7 => z || n != v
  | 8 => true
  | _ => false

/-- PLOG's operation (R111): 0 AND, 1 OR, 2 XOR, 3 AND NOT. -/
def plogOp (op : Nat) (a b : Bool) : Bool :=
  match op with
  | 0 => a && b
  | 1 => a || b
  | 2 => a != b
  | _ => a && !b

end Sys2Proof.Machine
end

