-- ==== Sys2Proof/Machine/Num.lean ====
section
/-! DEFINITION. Number formats and their arithmetic (chapters 06 and 07): exact values, the storage formats of R153, IEEE
754 arithmetic (R157), narrowing conversions (R158, R159), MX block encoding (R165), scale entries, dequantisation and
requantisation (R169-R172), calibration and rescaling (R174, R528, R175, R177). -/
namespace Sys2Proof.Machine

/-! ## Exact rationals -/

/-- The rational num / den, den not zero. -/
structure Q where
  num : Int
  den : Nat
deriving DecidableEq, Repr

def Q.ofInt (x : Int) : Q := ⟨x, 1⟩
def Q.mul (a b : Q) : Q := ⟨a.num * b.num, a.den * b.den⟩
def Q.add (a b : Q) : Q := ⟨a.num * b.den + b.num * a.den, a.den * b.den⟩
def Q.neg (a : Q) : Q := ⟨-a.num, a.den⟩
def Q.abs (a : Q) : Q := ⟨a.num.natAbs, a.den⟩
/-- a / b for b not zero. -/
def Q.div (a b : Q) : Q := ⟨a.num * b.den * b.num.sign, a.den * b.num.natAbs⟩
def Q.lt (a b : Q) : Bool := decide (a.num * b.den < b.num * a.den)
def Q.eq (a b : Q) : Bool := decide (a.num * b.den = b.num * a.den)
def Q.isZero (a : Q) : Bool := decide (a.num = 0)
def Q.isNeg (a : Q) : Bool := decide (a.num < 0)
/-- Rounded toward zero to an integer. -/
def Q.trunc (a : Q) : Int := Int.tdiv a.num a.den
def Q.max (a b : Q) : Q := if a.lt b then b else a
def Q.min (a b : Q) : Q := if b.lt a then b else a

/-- 2^e. -/
def pow2 (e : Int) : Q := if 0 ≤ e then ⟨2 ^ e.toNat, 1⟩ else ⟨1, 2 ^ (-e).toNat⟩

/-- The largest e with 2^e <= n/d, for n and d not zero. -/
def floorLog2 (n d : Nat) : Int :=
  let e : Int := (n.log2 : Int) - d.log2
  let below := if 0 ≤ e then decide (n < d * 2 ^ e.toNat) else decide (n * 2 ^ (-e).toNat < d)
  if below then e - 1 else e

/-! ## Binary formats -/

/-- A binary floating format: width, precision with the hidden bit, least normal exponent, magnitude code of the
largest finite value, that of infinity where it has one, and the NaN code that R159 delivers. -/
structure BinFmt where
  width : Nat
  p : Nat
  emin : Int
  top : Nat
  inf : Option Nat
  nan : Nat
deriving DecidableEq, Repr

def fp32 : BinFmt := ⟨32, 24, -126, 0x7F7FFFFF, some 0x7F800000, 0x7FC00000⟩
def fp64 : BinFmt := ⟨64, 53, -1022, 0x7FEFFFFFFFFFFFFF, some 0x7FF0000000000000, 0x7FF8000000000000⟩
def fp16 : BinFmt := ⟨16, 11, -14, 0x7BFF, some 0x7C00, 0x7E00⟩
def bf16 : BinFmt := ⟨16, 8, -126, 0x7F7F, some 0x7F80, 0x7FC0⟩
def e4m3 : BinFmt := ⟨8, 4, -6, 0x7E, none, 0x7F⟩
def e5m2 : BinFmt := ⟨8, 3, -14, 0x7B, some 0x7C, 0x7E⟩
def e2m3 : BinFmt := ⟨6, 4, 0, 0x1F, none, 0⟩
def e3m2 : BinFmt := ⟨6, 3, -2, 0x1F, none, 0⟩
def e2m1 : BinFmt := ⟨4, 2, 0, 0x7, none, 0⟩

/-- What a code holds: a NaN, an infinity, or ± m * 2^e. -/
inductive FVal where
  | nan
  | inf (neg : Bool)
  | fin (neg : Bool) (m : Nat) (e : Int)
deriving DecidableEq, Repr

/-- The sign bit of a code. -/
def BinFmt.sign (f : BinFmt) (c : Nat) : Bool := bit c (f.width - 1)

/-- A magnitude code with a sign. -/
def BinFmt.signed (f : BinFmt) (neg : Bool) (mag : Nat) : Nat := mag + b2n neg * 2 ^ (f.width - 1)

def BinFmt.decode (f : BinFmt) (c : Nat) : FVal :=
  let neg := f.sign c
  let mag := c % 2 ^ (f.width - 1)
  let e := mag / 2 ^ (f.p - 1)
  let m := mag % 2 ^ (f.p - 1)
  if mag ≤ f.top then
    if e = 0 then .fin neg m (f.emin - f.p + 1) else .fin neg (m + 2 ^ (f.p - 1)) (f.emin - f.p + e)
  else if f.inf = some mag then .inf neg
  else .nan

/-- A code whose magnitude lies below the smallest normal and is not zero. -/
def BinFmt.isSub (f : BinFmt) (c : Nat) : Bool :=
  let mag := c % 2 ^ (f.width - 1)
  decide (0 < mag) && decide (mag < 2 ^ (f.p - 1))

def dyadic (neg : Bool) (m : Nat) (e : Int) : Q := (Q.ofInt (if neg then -(m : Int) else m)).mul (pow2 e)

/-- The value of a finite code; zero for the others. -/
def FVal.toQ : FVal → Q
  | .fin neg m e => dyadic neg m e
  | _ => ⟨0, 1⟩

/-! ## Rounding -/

/-- The five rounding-direction attributes (R182). -/
inductive Rm where
  | rne | rtz | rdn | rup | rmm
deriving DecidableEq, Repr

/-- The codes of R182. -/
def Rm.ofCode (c : Nat) : Rm :=
  match c with
  | 1 => .rtz
  | 2 => .rdn
  | 3 => .rup
  | 4 => .rmm
  | _ => .rne

/-- Whether the quotient m with remainder r of b is rounded away from zero. -/
def Rm.up (rm : Rm) (neg : Bool) (m r b : Nat) : Bool :=
  match rm with
  | .rne => decide (b < 2 * r) || (decide (2 * r = b) && m % 2 == 1)
  | .rtz => false
  | .rdn => neg && decide (0 < r)
  | .rup => !neg && decide (0 < r)
  | .rmm => decide (b ≤ 2 * r) && decide (0 < r)

/-- Round n/d to precision `p` with least exponent `emin`: the magnitude code, which may pass the format's top, and
whether it is inexact. -/
def roundMag (p : Nat) (emin : Int) (rm : Rm) (neg : Bool) (n d : Nat) : Nat × Bool :=
  if n = 0 then (0, false)
  else
    let q := Max.max (floorLog2 n d) emin - (p - 1 : Nat)
    let (a, b) := if 0 ≤ q then (n, d * 2 ^ q.toNat) else (n * 2 ^ (-q).toNat, d)
    let m := a / b
    let r := a % b
    ((q - (emin - p + 1)).toNat * 2 ^ (p - 1) + m + b2n (rm.up neg m r b), decide (r ≠ 0))

/-! ## IEEE 754 arithmetic (R157) -/

/-- The exception flags, as ELE_FPCSR places them. -/
def flNV : Nat := 16
def flDZ : Nat := 8
def flOF : Nat := 4
def flUF : Nat := 2
def flNX : Nat := 1

/-- n/d is tiny: below the least normal before rounding, or after rounding with an unbounded exponent, as
`Config.tinyBefore` says. -/
def isTiny (f : BinFmt) (rm : Rm) (neg : Bool) (n d : Nat) : Bool :=
  let e := floorLog2 n d
  if f.emin ≤ e then false
  else if Config.tinyBefore then true
  else !(decide (e + 1 = f.emin) && (roundMag f.p e rm neg n d).1 == 2 ^ f.p)

/-- Round the nonzero magnitude n/d: the code and the flags. -/
def ieeeRound (f : BinFmt) (rm : Rm) (neg : Bool) (n d : Nat) : Nat × Nat :=
  let (mag, inex) := roundMag f.p f.emin rm neg n d
  if f.top < mag then
    let toInf := match rm with
      | .rne => true
      | .rmm => true
      | .rtz => false
      | .rdn => neg
      | .rup => !neg
    (f.signed neg (if toInf then f.inf.getD f.top else f.top), flOF + flNX)
  else
    (f.signed neg mag, if inex then flNX + (if isTiny f rm neg n d then flUF else 0) else 0)

/-- Deliver an exact result; a zero takes the sign `zneg`. -/
def ieeeQ (f : BinFmt) (rm : Rm) (x : Q) (zneg : Bool) : Nat × Nat :=
  if x.isZero then (f.signed zneg 0, 0) else ieeeRound f rm x.isNeg x.num.natAbs x.den

/-- A signaling NaN: the top bit of the mantissa is 0. -/
def BinFmt.isSnan (f : BinFmt) (c : Nat) : Bool := f.decode c == .nan && !bit c (f.p - 2)

/-- A quiet NaN whose sign and payload are open. -/
def BinFmt.openNan (f : BinFmt) (a b c : Nat) : Nat :=
  let x := Config.nanBits f.width a b c
  let q := f.inf.getD 0 + 2 ^ (f.p - 2)
  q + x % 2 ^ (f.p - 2) + b2n (bit x (f.p - 2)) * 2 ^ (f.width - 1)

def nanFlags (f : BinFmt) (cs : List Nat) : Nat := if cs.any f.isSnan then flNV else 0

def fAdd (f : BinFmt) (rm : Rm) (a b : Nat) : Nat × Nat :=
  match f.decode a, f.decode b with
  | .nan, _ => (f.openNan a b 0, nanFlags f [a, b])
  | _, .nan => (f.openNan a b 0, nanFlags f [a, b])
  | .inf s, .inf t => if s = t then (a, 0) else (f.openNan a b 0, flNV)
  | .inf _, .fin _ _ _ => (a, 0)
  | .fin _ _ _, .inf _ => (b, 0)
  | .fin s m e, .fin t n k =>
    ieeeQ f rm ((dyadic s m e).add (dyadic t n k)) (if m = 0 ∧ n = 0 ∧ s = t then s else decide (rm = .rdn))

/-- a with its sign inverted. -/
def fNeg (f : BinFmt) (a : Nat) : Nat := f.signed (!f.sign a) (a % 2 ^ (f.width - 1))

/-- a with its sign cleared. -/
def fAbs (f : BinFmt) (a : Nat) : Nat := a % 2 ^ (f.width - 1)

def fSub (f : BinFmt) (rm : Rm) (a b : Nat) : Nat × Nat :=
  if f.decode b = .nan then fAdd f rm a b else fAdd f rm a (fNeg f b)

def fMul (f : BinFmt) (rm : Rm) (a b : Nat) : Nat × Nat :=
  let s := f.sign a != f.sign b
  match f.decode a, f.decode b with
  | .nan, _ => (f.openNan a b 0, nanFlags f [a, b])
  | _, .nan => (f.openNan a b 0, nanFlags f [a, b])
  | .inf _, .fin _ 0 _ => (f.openNan a b 0, flNV)
  | .fin _ 0 _, .inf _ => (f.openNan a b 0, flNV)
  | .fin t m e, .fin u n k => ieeeQ f rm ((dyadic t m e).mul (dyadic u n k)) s
  | _, _ => (f.signed s (f.inf.getD f.top), 0)

/-- a * b + c, rounded once. -/
def fFma (f : BinFmt) (rm : Rm) (a b c : Nat) : Nat × Nat :=
  let s := f.sign a != f.sign b
  let da := f.decode a
  let db := f.decode b
  let dc := f.decode c
  let infZero : Bool := match da, db with
    | .inf _, .fin _ 0 _ => true
    | .fin _ 0 _, .inf _ => true
    | _, _ => false
  if da = .nan ∨ db = .nan then (f.openNan a b c, nanFlags f [a, b, c])
  else if dc = .nan then
    (f.openNan a b c, if f.isSnan c ∨ (infZero ∧ Config.fmaNanInvalid) then flNV else 0)
  else if infZero then (f.openNan a b c, flNV)
  else
    match da, db, dc with
    | .fin t m e, .fin u n k, .fin v o j =>
      let prod := (dyadic t m e).mul (dyadic u n k)
      ieeeQ f rm (prod.add (dyadic v o j)) (if prod.isZero ∧ o = 0 ∧ s = v then s else decide (rm = .rdn))
    | .fin _ _ _, .fin _ _ _, _ => (c, 0)
    | _, _, .inf v => if s = v then (c, 0) else (f.openNan a b c, flNV)
    | _, _, _ => (f.signed s (f.inf.getD f.top), 0)

def fDiv (f : BinFmt) (rm : Rm) (a b : Nat) : Nat × Nat :=
  let s := f.sign a != f.sign b
  match f.decode a, f.decode b with
  | .nan, _ => (f.openNan a b 0, nanFlags f [a, b])
  | _, .nan => (f.openNan a b 0, nanFlags f [a, b])
  | .inf _, .inf _ => (f.openNan a b 0, flNV)
  | .inf _, .fin _ _ _ => (f.signed s (f.inf.getD f.top), 0)
  | .fin _ _ _, .inf _ => (f.signed s 0, 0)
  | .fin _ 0 _, .fin _ 0 _ => (f.openNan a b 0, flNV)
  | .fin _ _ _, .fin _ 0 _ => (f.signed s (f.inf.getD f.top), flDZ)
  | .fin t m e, .fin u n k => ieeeQ f rm ((dyadic t m e).div (dyadic u n k)) s

/-- The integer square root of x, bit by bit from bit k - 1 down. -/
def isqrtFrom (x : Nat) : Nat → Nat → Nat
  | 0, r => r
  | k + 1, r => if (r + 2 ^ k) * (r + 2 ^ k) ≤ x then isqrtFrom x k (r + 2 ^ k) else isqrtFrom x k r

def isqrt (x : Nat) : Nat := isqrtFrom x (x.log2 / 2 + 1) 0

/-- The square root, rounded once: the root of m * 2^e is taken with 64 bits to spare and a sticky bit below them. -/
def fSqrt (f : BinFmt) (rm : Rm) (a : Nat) : Nat × Nat :=
  match f.decode a with
  | .nan => (f.openNan a 0 0, nanFlags f [a])
  | .fin _ 0 _ => (a, 0)
  | .inf false => (a, 0)
  | .inf true => (f.openNan a 0 0, flNV)
  | .fin true _ _ => (f.openNan a 0 0, flNV)
  | .fin false m e =>
    let odd : Nat := (e % 2).toNat
    let x := m * 2 ^ odd * 2 ^ 256
    let r := isqrt x
    let n := 2 * r + b2n (decide (r * r ≠ x))
    ieeeQ f rm ((Q.ofInt n).mul (pow2 ((e - odd) / 2 - 129))) false

/-- IEEE comparison of two codes: none when unordered. -/
def fCmp (f : BinFmt) (a b : Nat) : Option Ordering :=
  let key := fun (v : FVal) (w : FVal) =>
    match v, w with
    | .inf s, .inf t => if s = t then Ordering.eq else if s then Ordering.lt else Ordering.gt
    | .inf s, _ => if s then Ordering.lt else Ordering.gt
    | _, .inf t => if t then Ordering.gt else Ordering.lt
    | v, w => if v.toQ.lt w.toQ then Ordering.lt else if w.toQ.lt v.toQ then Ordering.gt else Ordering.eq
  match f.decode a, f.decode b with
  | .nan, _ => none
  | _, .nan => none
  | v, w => some (key v w)

/-- minimumNumber (`big` false) and maximumNumber of IEEE 754-2019: a number rather than a NaN, and -0 below +0. -/
def fMinMax (f : BinFmt) (big : Bool) (a b : Nat) : Nat × Nat :=
  let fl := nanFlags f [a, b]
  match fCmp f a b with
  | none =>
    if f.decode a = .nan then
      if f.decode b = .nan then (f.openNan a b 0, fl) else (b, fl)
    else (a, fl)
  | some .lt => (if big then b else a, fl)
  | some .gt => (if big then a else b, fl)
  | some .eq => if f.sign a = f.sign b ∨ f.sign a ≠ big then (a, fl) else (b, fl)

/-! ## Counts (R161) -/

/-- What an element adds to the counters: at most one. -/
inductive Cnt where
  | none | flush | sat | nan
deriving DecidableEq, Repr

/-- NAN before SAT before FLUSH. -/
def Cnt.join (a b : Cnt) : Cnt :=
  match a, b with
  | .nan, _ => .nan
  | _, .nan => .nan
  | .sat, _ => .sat
  | _, .sat => .sat
  | .flush, _ => .flush
  | _, b => b

/-- Totals of the three counters. -/
structure Counts where
  sat : Nat := 0
  flush : Nat := 0
  nan : Nat := 0
deriving DecidableEq, Repr

def Counts.add (t : Counts) (c : Cnt) : Counts :=
  match c with
  | .none => t
  | .flush => { t with flush := t.flush + 1 }
  | .sat => { t with sat := t.sat + 1 }
  | .nan => { t with nan := t.nan + 1 }

def Counts.sum (a b : Counts) : Counts := ⟨a.sat + b.sat, a.flush + b.flush, a.nan + b.nan⟩

def countAll (cs : List Cnt) : Counts := cs.foldl Counts.add {}

/-! ## Narrowing (R158, R159) -/

/-- The exact value that a conversion reads. -/
inductive RV where
  | nan
  | inf (neg : Bool)
  | num (x : Q)
deriving DecidableEq, Repr

def FVal.toRV : FVal → RV
  | .nan => .nan
  | .inf s => .inf s
  | .fin s m e => .num (dyadic s m e)

/-- Into a floating format; `keepSub` where the destination keeps subnormals. -/
def narrowF (f : BinFmt) (keepSub : Bool) (x : RV) : Nat × Cnt :=
  match x with
  | .nan => (f.nan, .nan)
  | .inf s => (f.signed s f.top, .sat)
  | .num v =>
    if v.isZero then (0, .none)
    else
      let mag := (roundMag f.p f.emin .rtz v.isNeg v.num.natAbs v.den).1
      if f.top < mag then (f.signed v.isNeg f.top, .sat)
      else if mag = 0 ∨ (mag < 2 ^ (f.p - 1) ∧ ¬keepSub) then (0, .flush)
      else (f.signed v.isNeg mag, .none)

/-- Into FP32, with the IEEE flags that the result implies. A NaN's bits are open. -/
def narrow32 (x : RV) : Nat × Cnt × Nat :=
  match x with
  | .nan => (fp32.openNan 0 0 0, .nan, 0)
  | .inf _ =>
    let (c, k) := narrowF fp32 true x
    (c, k, flOF + flNX)
  | .num v =>
    let (c, k) := narrowF fp32 true x
    let inex := !v.isZero && (roundMag 24 (-126) .rtz v.isNeg v.num.natAbs v.den).2
    let fl := if k = .sat then flOF + flNX
      else if inex then flNX + (if isTiny fp32 .rtz v.isNeg v.num.natAbs v.den then flUF else 0)
      else 0
    (c, k, fl)

/-- Into an integer range; a NaN gives `z`. -/
def narrowI (lo hi z : Int) (x : RV) : Int × Cnt :=
  match x with
  | .nan => (z, .nan)
  | .inf s => (if s then lo else hi, .sat)
  | .num v =>
    let t := v.trunc
    if t < lo then (lo, .sat)
    else if hi < t then (hi, .sat)
    else if t = 0 ∧ ¬v.isZero then (0, .flush)
    else (t, .none)

/-! ## The storage formats of R153 -/

/-- Bits of a stored code (the container of INT24 and MXFP6). -/
def fmtBits (c : Nat) : Nat :=
  match c with
  | 0x00 => 4
  | 0x01 => 8
  | 0x02 => 8
  | 0x03 => 16
  | 0x04 => 32
  | 0x05 => 32
  | 0x06 => 8
  | 0x07 => 8
  | 0x08 => 16
  | 0x09 => 16
  | 0x0A => 32
  | 0x0B => 64
  | 0x10 => 4
  | 0x12 => 16
  | 0x13 => 32
  | 0x14 => 32
  | _ => 8

/-- The range of an integer format. -/
def fmtInt (c : Nat) : Option (Int × Int) :=
  match c with
  | 0x00 => some (-8, 7)
  | 0x01 => some (-128, 127)
  | 0x02 => some (0, 255)
  | 0x03 => some (-32768, 32767)
  | 0x04 => some (-8388608, 8388607)
  | 0x05 => some (-2147483648, 2147483647)
  | _ => none

/-- The floating formats, MX elements among them; MXINT8 is none. -/
def fmtBin (c : Nat) : Option BinFmt :=
  match c with
  | 0x06 => some e4m3
  | 0x07 => some e5m2
  | 0x08 => some fp16
  | 0x09 => some bf16
  | 0x0A => some fp32
  | 0x0C => some e4m3
  | 0x0D => some e5m2
  | 0x0E => some e2m3
  | 0x0F => some e3m2
  | 0x10 => some e2m1
  | _ => none

def fmtIsMx (c : Nat) : Bool := decide (0x0C ≤ c) && decide (c ≤ 0x11)

/-- Into any format of R153 codes 0x00-0x0A: the code, the count and the FP32 flags. (log 29: DEDUCED) -/
def narrowTo (fmt : Nat) (x : RV) : Nat × Cnt × Nat :=
  match fmtInt fmt with
  | some (lo, hi) =>
    let (v, k) := narrowI lo hi 0 x
    (toBits (fmtBits fmt) v, k, 0)
  | none =>
    if fmt = 0x0A then narrow32 x
    else
      match fmtBin fmt with
      | some f =>
        let (c, k) := narrowF f false x
        (c, k, 0)
      | none => (0, .none, 0)

/-- The value of an integer code. -/
def intCode (fmt c : Nat) : Int := if fmt = 0x02 then (c % 256 : Nat) else sext (fmtBits fmt) c

/-- The value of a floating or MX element code; subnormals of FP8, FP16 and BF16 flush to zero on input (R160). -/
def readCode (fmt c : Nat) : RV × Cnt :=
  if fmt = 0x11 then (.num ((Q.ofInt (sext 8 c)).mul (pow2 (-6))), .none)
  else
    match fmtBin fmt with
    | some f =>
      let c := c % 2 ^ f.width
      if f.isSub c ∧ 0x06 ≤ fmt ∧ fmt ≤ 0x09 then (.num ⟨0, 1⟩, .flush) else ((f.decode c).toRV, .none)
    | none => (.num (Q.ofInt (intCode fmt c)), .none)

/-! ## MX blocks (R154, R165) -/

/-- The largest finite value of a floating or MX element format. -/
def maxFin (fmt : Nat) : Q :=
  if fmt = 0x11 then ⟨127, 64⟩
  else
    match fmtBin fmt with
    | some f => (f.decode f.top).toQ
    | none => ⟨1, 1⟩

/-- An element narrowed into an MX format. -/
def narrowMx (fmt : Nat) (x : RV) : Nat × Cnt :=
  if fmt = 0x11 then
    match x with
    | .num v =>
      let (c, k) := narrowI (-128) 127 0 (.num (v.mul ⟨64, 1⟩))
      (toBits 8 c, k)
    | _ => (0, .none)
  else
    match fmtBin fmt with
    | some f => narrowF f true x
    | none => (0, .none)

/-- The smallest e with amax <= MAXFIN * 2^e, for amax not zero. -/
def mxExp (fmt : Nat) (amax : Q) : Int :=
  let q := amax.div (maxFin fmt)
  let e := floorLog2 q.num.natAbs q.den
  if (pow2 e).lt q then e + 1 else e

/-- Encode one block of values: the scale code, the element codes and their counts. -/
def mxEncode (fmt : Nat) (xs : List RV) : Nat × List (Nat × Cnt) :=
  if xs.any (· == .nan) then
    (0xFF, xs.map fun x => (0, if x = .nan then .nan else .none))
  else
    let top32 := (fp32.decode fp32.top).toQ
    let fin : List (Q × Cnt) := xs.map fun x =>
      match x with
      | RV.inf s => (if s then top32.neg else top32, Cnt.sat)
      | RV.num v => (v, Cnt.none)
      | RV.nan => (Q.ofInt 0, Cnt.none)
    let amax : Q := fin.foldl (fun m v => m.max v.1.abs) ⟨0, 1⟩
    if amax.isZero then (0, fin.map fun v => (0, v.2))
    else
      let e := clampInt (-127) 127 (mxExp fmt amax)
      ((e + 127).toNat, fin.map fun v =>
        let (c, k) := narrowMx fmt (.num (v.1.mul (pow2 (-e))))
        (c, v.2.join k))

/-! ## Scale entries (R167, R169) -/

/-- A scale entry. -/
structure ScaleEntry where
  scale : Nat
  zp : Nat
  const : Bool
  sym : Bool
  resc : Bool
  src : Nat
deriving DecidableEq, Repr

def ScaleEntry.ofWords (lo hi : Nat) : ScaleEntry :=
  { scale := lo, zp := bits hi 7 0, const := bit hi 8, sym := bit hi 9, resc := bit hi 10, src := bits hi 31 16 }

def ScaleEntry.hiWord (e : ScaleEntry) : Nat :=
  e.zp % 256 + b2n e.const * 2 ^ 8 + b2n e.sym * 2 ^ 9 + b2n e.resc * 2 ^ 10 + e.src % 65536 * 2 ^ 16

/-- SCALE as a value. -/
def ScaleEntry.value (e : ScaleEntry) : FVal := fp32.decode e.scale

/-- CONST = 0 and SCALE is a NaN, infinite, or negative and nonzero. -/
def ScaleEntry.bad (e : ScaleEntry) : Bool :=
  !e.const && (match e.value with
    | .fin s m _ => s && m != 0
    | _ => true)

/-- The zero point as a format reads it. -/
def ScaleEntry.zpOf (e : ScaleEntry) (fmt : Nat) : Int := if fmt = 0x02 then (e.zp : Int) else sext 8 e.zp

/-- The zero-point code of an integer format: ZP where SYM = 0, and 0 otherwise. -/
def ScaleEntry.zero (e : ScaleEntry) (fmt : Nat) : Int :=
  match fmtInt fmt with
  | some _ => if e.sym then 0 else e.zpOf fmt
  | none => 0

/-! ## Dequantisation (R170, R171) -/

/-- x * SCALE, or SCALE for a constant channel; 0 with a NAN count for an entry of R169's first kind. (log 31: DEDUCED) -/
def dequant (d : ScaleEntry) (x : RV) : RV × Cnt :=
  if d.bad then (.num ⟨0, 1⟩, .nan)
  else if d.const then (d.value.toRV, .none)
  else
    let sc := d.value.toQ
    if sc.isZero then (.num ⟨0, 1⟩, .none)
    else
      match x with
      | .nan => (.nan, .none)
      | .inf s => (.inf s, .none)
      | .num v => (.num (v.mul sc), .none)

/-- An integer code under R171, held as a signed number. (log 31: DEDUCED) -/
def dequantCode (d : ScaleEntry) (c : Int) : RV × Cnt :=
  dequant d (.num (Q.ofInt (if d.sym then c else c - sext 8 d.zp)))

/-! ## Requantisation (R172) -/

/-- The range that an integer format clamps to under SYM. -/
def symRange (fmt : Nat) (sym : Bool) (lo hi : Int) : Int × Int := if sym && fmt != 0x02 then (-hi, hi) else (lo, hi)

/-- For MX output: what the block encoder receives (R169, R172), and a count of the entry itself. (log 32: DEDUCED) -/
def requantMx (q : ScaleEntry) (r : RV) : RV × Cnt :=
  if q.bad then (.num ⟨0, 1⟩, .nan)
  else
    let sc := q.value.toQ
    match r with
    | .nan => (.nan, .none)
    | .inf s => (.inf s, .none)
    | .num v =>
      if v.isZero then (.num ⟨0, 1⟩, .none)
      else if sc.isZero then (.inf v.isNeg, .none)
      else (.num (v.div sc), .none)

/-- For a constant channel: code 0, SAT when r rounded toward zero to FP32 differs from the constant. (log 32: DEDUCED) -/
def requantConst (q : ScaleEntry) (r : RV) : Cnt :=
  match r with
  | .nan => .nan
  | .inf _ => .sat
  | .num v =>
    let (c, _) := narrowF fp32 true (.num v)
    match fp32.decode c, q.value with
    | .fin _ 0 _, .fin _ 0 _ => .none
    | a, b => if a = b then .none else .sat

/-- Encode r for an integer format. -/
def requantInt (q : ScaleEntry) (fmt : Nat) (lo hi : Int) (r : RV) : Int × Cnt :=
  let z := q.zero fmt
  let (a, b) := symRange fmt q.sym lo hi
  if q.bad then (z, .nan)
  else
    let sc := q.value.toQ
    match r with
    | .nan => (z, .nan)
    | .inf s => (if s then a else b, .sat)
    | .num v =>
      if v.isZero then (clampInt a b z, if clampInt a b z = z then .none else .sat)
      else if sc.isZero then (if v.isNeg then a else b, .sat)
      else
        let t := (v.div sc).trunc
        let c := t + z
        if c < a then (a, .sat)
        else if b < c then (b, .sat)
        else (c, if t = 0 then .flush else .none)

/-- Encode r with entry q for an output format that is not MX: the code, the count and the FP32 flags. -/
def requant (q : ScaleEntry) (fmt : Nat) (r : RV) : Nat × Cnt × Nat :=
  if q.const then (0, requantConst q r, 0)
  else
    match fmtInt fmt with
    | some (lo, hi) =>
      let (v, k) := requantInt q fmt lo hi r
      (toBits (fmtBits fmt) v, k, 0)
    | none =>
      if q.bad then (0, .nan, 0)
      else
        let sc := q.value.toQ
        match r with
        | .num v =>
          if v.isZero then (0, .none, 0)
          else if sc.isZero then
            match fmtBin fmt with
            | some f => (f.signed v.isNeg f.top, .sat, 0)
            | none => (0, .sat, 0)
          else narrowTo fmt (.num (v.div sc))
        | x => narrowTo fmt x

/-! ## Calibration and rescaling (R174, R175, R177, R528) -/

/-- A positive value rounded up to FP32, held at the largest finite value. -/
def ceil32 (x : Q) : Nat :=
  if x.num ≤ 0 then 0 else min (roundMag 24 (-126) .rup false x.num.natAbs x.den).1 fp32.top

/-- The values a channel was presented with: least, greatest, largest magnitude. -/
structure Seen where
  lo : Q
  hi : Q
deriving DecidableEq, Repr

def Seen.mag (v : Seen) : Q := v.lo.abs.max v.hi.abs

/-- One more value. -/
def seenAdd (o : Option Seen) (x : Q) : Option Seen :=
  match o with
  | none => some ⟨x, x⟩
  | some v => some ⟨v.lo.min x, v.hi.max x⟩

/-- A channel whose values are all equal becomes a constant channel (R175). -/
def ScaleEntry.constant (e : ScaleEntry) (x : Q) : ScaleEntry :=
  { e with const := true, scale := (narrowF fp32 true (.num x)).1, zp := 0 }

/-- SCALE and ZP of an asymmetric integer channel (R174, R528). -/
def asymScale (fmt : Nat) (lo hi : Int) (v : Seen) : Nat × Int :=
  let m0 := v.lo.min ⟨0, 1⟩
  let m1 := v.hi.max ⟨0, 1⟩
  let sc := ceil32 ((m1.add m0.neg).div (Q.ofInt (hi - lo)))
  let zp := lo - (m0.div (fp32.decode sc).toQ).trunc
  if 0x03 ≤ fmt then
    let z := clampInt (-128) 127 zp
    if z = zp then (sc, z)
    else (ceil32 ((m1.div (Q.ofInt (hi - z))).max (m0.div (Q.ofInt (lo - z)))), z)
  else (sc, zp)

/-- The entry that calibration writes for a channel with values `v`. -/
def calibrate (e : ScaleEntry) (fmt src : Nat) (v : Seen) : ScaleEntry :=
  let e := { e with const := false, resc := false, src := src }
  if v.lo.eq v.hi then e.constant v.lo
  else
    match fmtInt fmt with
    | some (lo, hi) =>
      if e.sym then { e with scale := ceil32 (v.mag.div (Q.ofInt hi)), zp := 0 }
      else
        let (sc, z) := asymScale fmt lo hi v
        { e with scale := sc, zp := toBits 8 z }
    | none =>
      if fmtIsMx fmt then { e with scale := 0x3F800000, zp := 0 }
      else
        let q := v.mag.div (maxFin fmt)
        { e with scale := ceil32 (if fmt = 0x0A then (Q.ofInt 1).max q else q), zp := 0 }

/-- The entry that a rescale replay writes for a selected channel (R177). -/
def rescale (e : ScaleEntry) (fmt : Nat) (v : Seen) : ScaleEntry :=
  let r := { e with const := false, resc := true }
  if v.lo.eq v.hi then { r.constant v.lo with zp := e.zp }
  else
    let d : Q := match fmtInt fmt with
      | some (lo, hi) => if e.sym then Q.ofInt hi else Q.ofInt (min (hi - e.zpOf fmt) (e.zpOf fmt - lo))
      | none => maxFin fmt
    if d.num ≤ 0 then r else { r with scale := ceil32 (v.mag.div d) }

end Sys2Proof.Machine
end

