-- ==== Sys2Proof/Machine/Bundle.lean ====
section
/-! DEFINITION. The 256-bit bundle and its slots (R107, R109): the fields, their places, and the encodings that R107
calls reserved. -/
namespace Sys2Proof.Machine

/-- The predicate field of an operation (R108). -/
structure Pred where
  neg : BitVec 1
  ix : BitVec 3
deriving DecidableEq, Repr

/-- S slot (R109). `low` holds bits [35:0]: RS2 in [35:31] for the R-form, IMM in [31:0] for the I-form. -/
structure SSlot where
  pred : Pred
  op : BitVec 6
  rd : BitVec 5
  rs1 : BitVec 5
  low : BitVec 36
deriving DecidableEq, Repr

/-- N and W slots. -/
structure LaneSlot where
  pred : Pred
  op : BitVec 6
  vd : BitVec 4
  va : BitVec 4
  vb : BitVec 4
  acc : BitVec 2
  shift : BitVec 6
  hi : BitVec 1
  rsv : BitVec 4
  sreg : BitVec 5
deriving DecidableEq, Repr

/-- M slot. -/
structure MSlot where
  pred : Pred
  op : BitVec 6
  sub : BitVec 2
  sa : BitVec 5
  sb : BitVec 5
  imm : BitVec 10
deriving DecidableEq, Repr

/-- E slot. -/
structure ESlot where
  pred : Pred
  op : BitVec 6
  vd : BitVec 5
  va : BitVec 5
  vb : BitVec 5
  aux : BitVec 7
deriving DecidableEq, Repr

/-- A D-slot generator. -/
structure DSlot where
  en : BitVec 1
  pred : Pred
  st : BitVec 1
  rf : BitVec 2
  reg : BitVec 5
  areg : BitVec 3
  mod : BitVec 3
  am : BitVec 2
  rsv : BitVec 3
deriving DecidableEq, Repr

/-- A bundle (R107): `active` is [255:250], bit 5 S down to bit 0 D. -/
structure Bundle where
  active : BitVec 6
  rsv : BitVec 2
  s : SSlot
  n : LaneSlot
  w : LaneSlot
  m : MSlot
  e : ESlot
  dy : DSlot
  dx : DSlot
deriving DecidableEq, Repr

/-! ## Encoding and decoding -/

def Pred.encode (p : Pred) : BitVec 4 := p.neg ++ p.ix
def Pred.decode (x : BitVec 4) : Pred := { neg := x.extractLsb' 3 1, ix := x.extractLsb' 0 3 }

def SSlot.encode (s : SSlot) : BitVec 56 := s.pred.encode ++ s.op ++ s.rd ++ s.rs1 ++ s.low
def SSlot.decode (x : BitVec 56) : SSlot :=
  { pred := Pred.decode (x.extractLsb' 52 4), op := x.extractLsb' 46 6, rd := x.extractLsb' 41 5,
    rs1 := x.extractLsb' 36 5, low := x.extractLsb' 0 36 }

def LaneSlot.encode (s : LaneSlot) : BitVec 40 :=
  s.pred.encode ++ s.op ++ s.vd ++ s.va ++ s.vb ++ s.acc ++ s.shift ++ s.hi ++ s.rsv ++ s.sreg
def LaneSlot.decode (x : BitVec 40) : LaneSlot :=
  { pred := Pred.decode (x.extractLsb' 36 4), op := x.extractLsb' 30 6, vd := x.extractLsb' 26 4,
    va := x.extractLsb' 22 4, vb := x.extractLsb' 18 4, acc := x.extractLsb' 16 2, shift := x.extractLsb' 10 6,
    hi := x.extractLsb' 9 1, rsv := x.extractLsb' 5 4, sreg := x.extractLsb' 0 5 }

def MSlot.encode (s : MSlot) : BitVec 32 := s.pred.encode ++ s.op ++ s.sub ++ s.sa ++ s.sb ++ s.imm
def MSlot.decode (x : BitVec 32) : MSlot :=
  { pred := Pred.decode (x.extractLsb' 28 4), op := x.extractLsb' 22 6, sub := x.extractLsb' 20 2,
    sa := x.extractLsb' 15 5, sb := x.extractLsb' 10 5, imm := x.extractLsb' 0 10 }

def ESlot.encode (s : ESlot) : BitVec 32 := s.pred.encode ++ s.op ++ s.vd ++ s.va ++ s.vb ++ s.aux
def ESlot.decode (x : BitVec 32) : ESlot :=
  { pred := Pred.decode (x.extractLsb' 28 4), op := x.extractLsb' 22 6, vd := x.extractLsb' 17 5,
    va := x.extractLsb' 12 5, vb := x.extractLsb' 7 5, aux := x.extractLsb' 0 7 }

def DSlot.encode (s : DSlot) : BitVec 24 :=
  s.en ++ s.pred.encode ++ s.st ++ s.rf ++ s.reg ++ s.areg ++ s.mod ++ s.am ++ s.rsv
def DSlot.decode (x : BitVec 24) : DSlot :=
  { en := x.extractLsb' 23 1, pred := Pred.decode (x.extractLsb' 19 4), st := x.extractLsb' 18 1,
    rf := x.extractLsb' 16 2, reg := x.extractLsb' 11 5, areg := x.extractLsb' 8 3, mod := x.extractLsb' 5 3,
    am := x.extractLsb' 3 2, rsv := x.extractLsb' 0 3 }

def Bundle.encode (b : Bundle) : BitVec 256 :=
  b.active ++ b.rsv ++ b.s.encode ++ b.n.encode ++ b.w.encode ++ b.m.encode ++ b.e.encode ++ b.dy.encode
    ++ b.dx.encode
def Bundle.decode (x : BitVec 256) : Bundle :=
  { active := x.extractLsb' 250 6, rsv := x.extractLsb' 248 2, s := SSlot.decode (x.extractLsb' 192 56),
    n := LaneSlot.decode (x.extractLsb' 152 40), w := LaneSlot.decode (x.extractLsb' 112 40),
    m := MSlot.decode (x.extractLsb' 80 32), e := ESlot.decode (x.extractLsb' 48 32),
    dy := DSlot.decode (x.extractLsb' 24 24), dx := DSlot.decode (x.extractLsb' 0 24) }

/-! ## Fields as numbers -/

def SSlot.o (s : SSlot) : Nat := s.op.toNat
def SSlot.imm (s : SSlot) : Nat := (s.low.extractLsb' 0 32).toNat
def SSlot.rs2 (s : SSlot) : Nat := (s.low.extractLsb' 31 5).toNat
/-- Bits [hi:lo] of IMM. -/
def SSlot.ib (s : SSlot) (hi lo : Nat) : Nat := bits s.imm hi lo

def MSlot.o (s : MSlot) : Nat := s.op.toNat
def ESlot.o (s : ESlot) : Nat := s.op.toNat
def LaneSlot.o (s : LaneSlot) : Nat := s.op.toNat

/-- Slot k is active: 0 S, 1 N, 2 W, 3 M, 4 E, 5 DX, 6 DY (the numbers of TIL_FAULT.SLOT). A D generator is active when
its slot is and its EN is 1. -/
def Bundle.isActive (b : Bundle) (k : Nat) : Bool :=
  match k with
  | 5 => bit b.active.toNat 0 && b.dx.en == 1
  | 6 => bit b.active.toNat 0 && b.dy.en == 1
  | _ => decide (k < 5) && bit b.active.toNat (5 - k)

/-! ## Reserved encodings (R107, R109-R111, R113, R114, R116, R182, R183, R190, R200) -/

/-- The operation's form has no operand: every bit below OP is zero. -/
def SSlot.bare (s : SSlot) : Bool := s.rd == 0 && s.rs1 == 0 && s.low == 0
/-- R-form: bits [30:0] are zero. -/
def SSlot.rform (s : SSlot) : Bool := s.low.extractLsb' 0 31 == 0
/-- I-form: bits [35:32] are zero. -/
def SSlot.iform (s : SSlot) : Bool := s.low.extractLsb' 32 4 == 0

/-- The fields of an S operation are as its form and its row require. A semaphore count of 0 is not a reserved encoding
and is judged with the operands (R111). (log 24: DEDUCED) -/
def SSlot.legal (s : SSlot) : Bool :=
  let o := s.o
  if o == 0x00 || o == 0x2B || o == 0x2E || o == 0x2F || o == 0x30 || o == 0x32 || o == 0x38 || o == 0x39 then s.bare
  else if 0x01 ≤ o ∧ o ≤ 0x0C then s.rform
  else if o == 0x0D then s.rform && s.rd == 0
  else if 0x10 ≤ o ∧ o ≤ 0x13 then s.iform
  else if 0x14 ≤ o ∧ o ≤ 0x16 then s.iform && s.ib 31 5 == 0
  else if o == 0x17 then s.iform && s.rs1 == 0
  else if o == 0x18 then s.iform && s.rd == 0
  else if o == 0x19 then s.iform && s.rs1 == 0 && decide (s.rd.toNat < 8) && decide (s.imm ≤ 9)
  else if o == 0x1A then s.rform && decide (s.rd.toNat < 8) && decide (s.rs1.toNat < 8)
  else if o == 0x1B then s.iform && s.rs1 == 0 && s.ib 31 8 == 0
  else if o == 0x1C then s.iform && s.rd == 0 && s.ib 31 8 == 0
  else if o == 0x1D then s.iform && s.rd == 0 && s.rs1 == 0 && s.ib 15 4 == 0
  else if 0x20 ≤ o ∧ o ≤ 0x23 then s.iform
  else if o == 0x28 || o == 0x2A then s.iform && s.rd == 0 && s.rs1 == 0 && s.ib 31 12 == 0
  else if o == 0x29 then s.rform && s.rd == 0 && s.rs2 == 0
  else if o == 0x2C then s.iform && s.rd == 0 && s.rs1 == 0 && s.ib 15 12 == 0
  else if o == 0x2D then s.iform && s.rd == 0 && s.ib 31 12 == 0
  else if o == 0x31 then s.iform && s.rd == 0 && s.rs1 == 0 && s.ib 31 16 == 0
  else if o == 0x33 || o == 0x34 then s.iform && s.rd == 0 && s.rs1 == 0 && s.ib 31 28 == 0 && s.ib 15 12 == 0
  else if o == 0x35 then s.iform && s.rd == 0 && s.rs1 == 0 && s.ib 31 8 == 0
  else if o == 0x36 then s.iform && s.rd == 0 && s.ib 31 8 == 0
  else if o == 0x37 then
    s.iform && s.rd == 0 && s.rs1 == 0 && s.ib 30 28 == 0 && s.ib 15 12 == 0 && (bit s.imm 31 || s.imm == 0)
  else false

/-- Which fields an N or W operation uses (R200): VD, VA, VB, ACC, the largest SHIFT, HI, SREG. -/
structure LaneUse where
  vd : Bool := false
  va : Bool := false
  vb : Bool := false
  acc : Bool := false
  shift : Nat := 0
  hi : Bool := false
  sreg : Bool := false
deriving DecidableEq, Repr

/-- The row of R200 for an opcode; none where the opcode is not listed. -/
def laneUse (wide : Bool) (o : Nat) : Option LaneUse :=
  if o == 0x00 then some {}
  else if o == 0x01 || o == 0x02 || (0x0B ≤ o && o ≤ 0x0D) || o == 0x10 || o == 0x11 || o == 0x15 then
    some { vd := true, va := true, vb := true }
  else if o == 0x03 then some { vd := true, va := true, vb := true, shift := if wide then 47 else 31 }
  else if 0x04 ≤ o ∧ o ≤ 0x07 then some { va := true, vb := true, acc := true }
  else if o == 0x08 || o == 0x17 then some { va := true, acc := true }
  else if o == 0x09 then some { acc := true }
  else if o == 0x0A then some { vd := true, acc := true, shift := if wide then 55 else 39 }
  else if o == 0x0E || o == 0x0F then some { vd := true, va := true, shift := if wide then 23 else 15 }
  else if o == 0x12 || o == 0x13 then some { vd := true, va := true }
  else if o == 0x14 then some { vd := true, sreg := true }
  else if o == 0x16 then some { vd := true, va := true, vb := true, hi := true }
  else if o == 0x18 then
    if wide then some { vd := true, va := true, shift := 8, hi := true }
    else some { vd := true, va := true, vb := true, shift := 23 }
  else none

/-- (log 24: DEDUCED) -/
def LaneSlot.legal (wide : Bool) (s : LaneSlot) : Bool :=
  match laneUse wide s.o with
  | none => false
  | some u =>
    (u.vd || s.vd == 0) && (u.va || s.va == 0) && (u.vb || s.vb == 0) && (u.acc || s.acc == 0)
      && decide (s.shift.toNat ≤ u.shift) && (u.hi || s.hi == 0) && s.rsv == 0 && (u.sreg || s.sreg == 0)

/-- M slot: unlisted opcodes, and fields no row of R114, R132 and R138 uses, are reserved. (log 24: DEDUCED) -/
def MSlot.legal (s : MSlot) : Bool :=
  let o := s.o
  if o == 0x00 || o == 0x04 || o == 0x05 then s.sub == 0 && s.sa == 0 && s.sb == 0 && s.imm == 0
  else if o == 0x01 then s.sub == 0 && s.sa == 0 && s.sb == 0 && decide (s.imm.toNat < 0x30)
  else if o == 0x02 then s.sb == 0 && s.imm == 0
  else o == 0x03

/-- AUX of a rounding operation: a code of R182 in [2:0], zero above. -/
def roundAux (aux : Nat) : Bool := decide (aux ≤ 4) || aux == 7

/-- The listed ECVT codes (R183). -/
def ecvtCode (c : Nat) : Bool :=
  decide (c ≤ 0x14) || (decide (0x18 ≤ c) && decide (c ≤ 0x1D)) || (decide (0x20 ≤ c) && decide (c ≤ 0x25))

/-- (log 24: DEDUCED) -/
def ESlot.legal (s : ESlot) : Bool :=
  let o := s.o
  let aux := s.aux.toNat
  let vb0 := s.vb == 0
  if o == 0x00 then s.vd == 0 && s.va == 0 && vb0 && aux == 0
  else if o == 0x01 then vb0 && decide (aux < 32) && (bit aux 4 || s.vd == 0)
  else if o == 0x02 then s.va == 0 && vb0 && decide (aux < 64)
  else if 0x03 ≤ o ∧ o ≤ 0x07 then aux == 0
  else if (0x08 ≤ o ∧ o ≤ 0x0E) ∨ o = 0x10 then roundAux aux
  else if o == 0x0F || o == 0x11 then roundAux aux && vb0
  else if o == 0x12 then ecvtCode aux && vb0
  else if o == 0x13 then decide (aux < 64) && vb0
  else if o == 0x14 then aux == 0 && vb0
  else if o == 0x15 then decide (aux ≤ 1) && vb0
  else false

/-- A D generator of an active D slot: an enabled one names a register file and register that exist; a disabled one is
all zero (R108, R118). (log 24: DEDUCED) -/
def DSlot.legal (s : DSlot) : Bool :=
  if s.en == 0 then s.encode == 0
  else s.rsv == 0 && s.rf != 3 && (s.rf == 2 || decide (s.reg.toNat < 16))

/-- The slot whose encoding R107 calls reserved, the first of them; 7 for the bundle's own reserved bits. (log 24: DEDUCED) -/
def Bundle.reserved (b : Bundle) : Option Nat :=
  let d := bit b.active.toNat 0
  if b.rsv != 0 then some 7
  else if !(if b.isActive 0 then b.s.legal else b.s.encode == 0) then some 0
  else if !(if b.isActive 1 then b.n.legal false else b.n.encode == 0) then some 1
  else if !(if b.isActive 2 then b.w.legal true else b.w.encode == 0) then some 2
  else if !(if b.isActive 3 then b.m.legal else b.m.encode == 0) then some 3
  else if !(if b.isActive 4 then b.e.legal else b.e.encode == 0) then some 4
  else if !(if d then b.dx.legal else b.dx.encode == 0) then some 5
  else if !(if d then b.dy.legal else b.dy.encode == 0) then some 6
  else none

/-- The opcode of slot k, as the table of its slot numbers it; for a D generator 0 load, 1 store. -/
def Bundle.opOf (b : Bundle) (k : Nat) : Nat :=
  match k with
  | 0 => b.s.o
  | 1 => b.n.o
  | 2 => b.w.o
  | 3 => b.m.o
  | 4 => b.e.o
  | 5 => b.dx.st.toNat
  | 6 => b.dy.st.toNat
  | _ => 0

/-- The predicate of slot k. -/
def Bundle.predOf (b : Bundle) (k : Nat) : Pred :=
  match k with
  | 0 => b.s.pred
  | 1 => b.n.pred
  | 2 => b.w.pred
  | 3 => b.m.pred
  | 4 => b.e.pred
  | 5 => b.dx.pred
  | _ => b.dy.pred

end Sys2Proof.Machine
end

