-- ==== Sys2Proof/Machine/Operands.lean ====
section
/-! DEFINITION. Operand forms of a tile program: scalar, predicate and special registers (R104, R106), what an operation
reads and writes (R123), lanes (R198), and the addresses of the D generators (R117, R118). -/
namespace Sys2Proof.Machine

/-! ## Registers -/

/-- s[i]; s0 reads 0 (R104). -/
def Tile.sr (x : Tile) (i : Nat) : Word := if i = 0 then 0 else x.s.getD i 0
/-- p[i]; p0 reads 1 (R104). -/
def Tile.pr (x : Tile) (i : Nat) : Bool := if i = 0 then true else x.p.getD i false
def Tile.axr (x : Tile) (i : Nat) : BitVec 16 := x.ax.getD i 0
def Tile.ayr (x : Tile) (i : Nat) : BitVec 16 := x.ay.getD i 0
def Tile.mr (x : Tile) (i : Nat) : Word := x.m.getD i 0
def Tile.lcr (x : Tile) (i : Nat) : Word := x.lc.getD i 0
def Tile.lsr (x : Tile) (i : Nat) : BitVec 12 := x.ls.getD i 0
def Tile.ler (x : Tile) (i : Nat) : BitVec 12 := x.le.getD i 0
def Tile.nr (x : Tile) (i : Nat) : BitVec 512 := x.n.getD i 0
def Tile.wr (x : Tile) (i : Nat) : BitVec 384 := x.w.getD i 0
def Tile.vr (x : Tile) (i : Nat) : BitVec 2048 := x.v.getD i 0

/-- FLAGS.LD, the number of active loops. -/
def Tile.ld (x : Tile) : Nat := bits x.flags.toNat 7 5
/-- FLAGS.IE. -/
def Tile.ie (x : Tile) : Bool := x.flags.getLsbD 4

/-- An operation with this predicate executes (R108). -/
def Tile.executes (x : Tile) (p : Pred) : Bool := x.pr p.ix.toNat != (p.neg == 1)

/-- p7-p0 as PALL shows them. -/
def Tile.pall (x : Tile) : Nat := (List.range 8).foldl (fun n i => n + b2n (x.pr i) * 2 ^ i) 0

/-- The special registers (R106); none for an unlisted number. -/
def Tile.mfs (x : Tile) (k : Nat) : Option Word :=
  if k < 0x08 then some ((x.axr k).setWidth 32)
  else if k < 0x10 then some ((x.ayr (k - 0x08)).setWidth 32)
  else if k < 0x18 then some (x.mr (k - 0x10))
  else if k < 0x1C then some (x.lcr (k - 0x18))
  else if k < 0x20 then some ((x.lsr (k - 0x1C)).setWidth 32)
  else if k < 0x24 then some ((x.ler (k - 0x20)).setWidth 32)
  else if 0x30 ≤ k ∧ k < 0x38 then some (BitVec.ofNat 32 (b2n (x.pr (k - 0x30))))
  else
    match k with
    | 0x24 => some x.flags
    | 0x25 => some x.epc
    | 0x26 => some x.eflags
    | 0x27 => some x.cause
    | 0x28 => some x.ivec
    | 0x29 => some x.imask
    | 0x2A => some x.ipend
    | 0x38 => some (BitVec.ofNat 32 x.pall)
    | 0x40 => some x.ltile
    | 0x41 => some x.taskIx
    | 0x42 => some x.nTask
    | 0x43 => some x.paramLo
    | 0x44 => some x.paramHi
    | 0x45 => some x.paramLen
    | 0x46 => some x.cyc
    | _ => none

/-- What an MTS of `v` to special register k writes; none for a read-only or unlisted number. Reserved bits are not
written. -/
def mtsWrites (k : Nat) (v : Word) : Option (List Write) :=
  if k < 0x08 then some [.ax k ((v.setWidth 15).setWidth 16)]
  else if k < 0x10 then some [.ay (k - 0x08) ((v.setWidth 15).setWidth 16)]
  else if k < 0x18 then some [.m (k - 0x10) v]
  else if k < 0x1C then some [.lc (k - 0x18) v]
  else if k < 0x20 then some [.ls (k - 0x1C) (v.setWidth 12)]
  else if k < 0x24 then some [.le (k - 0x20) (v.setWidth 12)]
  else if 0x30 ≤ k ∧ k < 0x38 then some [.p (k - 0x30) (v.getLsbD 0)]
  else
    match k with
    | 0x24 => some [.flags ((v.setWidth 8).setWidth 32)]
    | 0x25 => some [.epc ((v.setWidth 12).setWidth 32)]
    | 0x26 => some [.eflags ((v.setWidth 8).setWidth 32)]
    | 0x28 => some [.ivec ((v.setWidth 12).setWidth 32)]
    | 0x29 => some [.imask ((v.setWidth 3).setWidth 32)]
    | 0x2A => some [.ipendClr ((v.setWidth 3).setWidth 32)]
    | 0x38 => some ((List.range 7).map fun i => .p (i + 1) (v.getLsbD (i + 1)))
    | _ => none

/-! ## What is read and written (R123) -/

/-- A register as the hazard rules name it. -/
inductive Res where
  | s (i : Nat) | p (i : Nat) | ax (i : Nat) | ay (i : Nat) | m (i : Nat) | lc (i : Nat) | ls (i : Nat) | le (i : Nat)
  | flags | epc | eflags | ivec | imask | ipend
  | n (i : Nat) | w (i : Nat) | v (i : Nat) | acc (wide : Bool) (i : Nat)
deriving DecidableEq, Repr

/-- The registers a write reaches. -/
def Write.targets : Write → List Res
  | .s i _ => [.s i]
  | .p i _ => [.p i]
  | .ax i _ => [.ax i]
  | .ay i _ => [.ay i]
  | .m i _ => [.m i]
  | .lc i _ => [.lc i]
  | .ls i _ => [.ls i]
  | .le i _ => [.le i]
  | .flags _ => [.flags]
  | .zncv _ => [.flags]
  | .lbrk => [.flags]
  | .loop l _ _ _ => [.lc l, .ls l, .le l, .flags]
  | .epc _ => [.epc]
  | .eflags _ => [.eflags]
  | .ivec _ => [.ivec]
  | .imask _ => [.imask]
  | .ipendClr _ => [.ipend]
  | .n i _ => [.n i]
  | .w i _ => [.w i]
  | .v i _ => [.v i]
  | .accAdd wide i _ => [.acc wide i]
  | .accClr wide i => [.acc wide i]
  | .store _ _ => []

/-- The register that special number k shows, for the interlock. -/
def specialRes (k : Nat) : List Res :=
  if k < 0x08 then [.ax k]
  else if k < 0x10 then [.ay (k - 0x08)]
  else if k < 0x18 then [.m (k - 0x10)]
  else if k < 0x1C then [.lc (k - 0x18)]
  else if k < 0x20 then [.ls (k - 0x1C)]
  else if k < 0x24 then [.le (k - 0x20)]
  else if 0x30 ≤ k ∧ k < 0x38 then [.p (k - 0x30)]
  else if k = 0x24 then [.flags]
  else if k = 0x38 then (List.range 8).map .p
  else []

/-- Interlocked registers that an S operation reads. -/
def SSlot.reads (s : SSlot) : List Res :=
  let o := s.o
  let a := Res.s s.rs1.toNat
  let b := Res.s s.rs2
  if 0x01 ≤ o ∧ o ≤ 0x0D then [a, b]
  else if (0x10 ≤ o ∧ o ≤ 0x16) ∨ o = 0x18 ∨ o = 0x29 ∨ o = 0x2D ∨ o = 0x36 ∨ o = 0x20 ∨ o = 0x21 then
    if o = 0x2D then [a, .flags] else [a]
  else if o = 0x22 ∨ o = 0x23 then [a, .s s.rd.toNat]
  else if o = 0x1C then [a]
  else if o = 0x19 then [.flags]
  else if o = 0x1A then [.p s.rs1.toNat, .p (s.rs2 % 8)]
  else if o = 0x1B then specialRes (s.ib 7 0)
  else if o = 0x1D then specialRes (s.ib 7 0)
  else if o = 0x2B then [.s 31]
  else if o = 0x2C ∨ o = 0x2E then [.flags]
  else if o = 0x2F then [.eflags, .epc]
  else []

def DSlot.reads (d : DSlot) (y : Bool) : List Res :=
  let a := if y then Res.ay d.areg.toNat else Res.ax d.areg.toNat
  if d.am = 0 ∨ d.am = 2 then [a, .m d.mod.toNat] else [a]

def MSlot.reads (m : MSlot) : List Res :=
  if m.o = 2 then [.s m.sa.toNat] else if m.o = 3 then [.s m.sa.toNat, .s m.sb.toNat] else []

/-- ERQ and EKRUN read s registers (R116). -/
def ESlot.reads (e : ESlot) : List Res :=
  if e.o = 0x13 then [.s (e.aux.toNat % 32)]
  else if e.o = 0x01 then (List.range 4).map fun k => .s (e.va.toNat + k)
  else []

/-- VBC reads an s register. -/
def LaneSlot.sreads (l : LaneSlot) : List Res := if l.o = 0x14 then [.s l.sreg.toNat] else []

/-- Registers of an N or W operation that are not interlocked: reading one in a shadow is what SHADOW_CHK reports. -/
def LaneSlot.vreads (l : LaneSlot) (wide : Bool) : List Res :=
  let r := fun (i : BitVec 4) => if wide then Res.w i.toNat else Res.n i.toNat
  let q := fun (i : BitVec 4) => if wide then Res.n i.toNat else Res.w i.toNat
  match laneUse wide l.o with
  | none => []
  | some u =>
    if l.o = 0x18 then (if wide then [q l.va] else [q l.va, q l.vb])
    else
      (if u.va then [r l.va] else []) ++ (if u.vb then [r l.vb] else [])
        ++ (if l.o = 0x0A then [Res.acc wide l.acc.toNat] else [])

/-- v registers that an E operation reads. -/
def ESlot.vreads (e : ESlot) : List Res :=
  let o := e.o
  let va := Res.v e.va.toNat
  let vb := Res.v e.vb.toNat
  let vd := Res.v e.vd.toNat
  if (0x03 ≤ o ∧ o ≤ 0x09) ∨ o = 0x0B ∨ o = 0x0C ∨ o = 0x0E ∨ o = 0x10 then [va, vb]
  else if o = 0x0A ∨ o = 0x0D then [va, vb, vd]
  else if o = 0x0F ∨ o = 0x11 ∨ (0x12 ≤ o ∧ o ≤ 0x15) then [va]
  else []

/-- The register a D store reads. -/
def DSlot.vreads (d : DSlot) : List Res :=
  if d.st = 0 then []
  else
    match d.rf.toNat with
    | 0 => [.n d.reg.toNat]
    | 1 => [.w d.reg.toNat]
    | _ => [.v d.reg.toNat]

/-! ## Latencies and destinations -/

/-- Latency of an N or W operation (R113). -/
def laneLatency (o : Nat) : Nat :=
  if o = 0x03 ∨ o = 0x0A ∨ o = 0x15 ∨ o = 0x16 ∨ o = 0x18 then 2
  else if 0x04 ≤ o ∧ o ≤ 0x08 then 3
  else if o = 0x17 then 4
  else 1

/-- Latency of an E operation (R116). -/
def eLatency (o : Nat) : Nat :=
  match o with
  | 0x08 => 4
  | 0x09 => 4
  | 0x0A => 4
  | 0x0B => 6
  | 0x0C => 6
  | 0x0D => 6
  | 0x0E => 12
  | 0x0F => 12
  | 0x10 => 24
  | 0x11 => 24
  | 0x12 => 3
  | 0x13 => 4
  | 0x15 => 6
  | _ => 2

/-- Latency of an S operation that writes a register (R110). -/
def sLatency (o : Nat) : Nat :=
  if o = 0x09 ∨ o = 0x0A then 3 else if o = 0x20 ∨ o = 0x21 then 4 else 1

/-- Registers an S operation writes at the end of its last latency cycle. -/
def SSlot.dests (s : SSlot) (ld : Nat) : List Res :=
  let o := s.o
  let rd := if s.rd = 0 then [] else [Res.s s.rd.toNat]
  if o = 0x01 ∨ o = 0x02 ∨ (0x03 ≤ o ∧ o ≤ 0x08) ∨ (0x10 ≤ o ∧ o ≤ 0x16) then rd ++ [.flags]
  else if o = 0x0D ∨ o = 0x18 then [.flags]
  else if (0x09 ≤ o ∧ o ≤ 0x0C) ∨ o = 0x17 ∨ o = 0x1B ∨ o = 0x20 ∨ o = 0x21 then rd
  else if o = 0x19 ∨ o = 0x1A then (if s.rd = 0 then [] else [.p s.rd.toNat])
  else if o = 0x1C then ((mtsWrites (s.ib 7 0) 0).getD []).flatMap Write.targets
  else if o = 0x1D then specialRes (s.ib 7 0)
  else if o = 0x2A then [.s 31]
  else if o = 0x2C ∨ o = 0x2D then [.lc ld, .ls ld, .le ld, .flags]
  else if o = 0x2E ∨ o = 0x2F then [.flags]
  else []

def LaneSlot.dests (l : LaneSlot) (wide : Bool) : List Res :=
  match laneUse wide l.o with
  | some u => if u.vd then [if wide then Res.w l.vd.toNat else Res.n l.vd.toNat] else []
  | none => []

def ESlot.dests (e : ESlot) : List Res := if e.o = 0x00 ∨ e.o = 0x01 then [] else [.v e.vd.toNat]

/-- A D generator's writes: the register of a load, and the address register where it is updated. -/
def DSlot.dests (d : DSlot) (y : Bool) : List Res :=
  let r := if d.st = 1 then [] else
    match d.rf.toNat with
    | 0 => [Res.n d.reg.toNat]
    | 1 => [Res.w d.reg.toNat]
    | _ => [Res.v d.reg.toNat]
  let a := if y then Res.ay d.areg.toNat else Res.ax d.areg.toNat
  r ++ (if d.am = 0 ∨ d.am = 1 then [a] else [])

/-- Every register that the executing slots of a bundle write, with its latency. -/
def Bundle.dests (b : Bundle) (ex : Nat) (ld : Nat) : List (Res × Nat) :=
  let at' := fun (k : Nat) (lat : Nat) (rs : List Res) => if bit ex k then rs.map fun r => (r, lat) else []
  at' 0 (sLatency b.s.o) (b.s.dests ld) ++ at' 1 (laneLatency b.n.o) (b.n.dests false)
    ++ at' 2 (laneLatency b.w.o) (b.w.dests true) ++ at' 4 (eLatency b.e.o) b.e.dests
    ++ at' 5 1 (b.dx.dests false) ++ at' 6 1 (b.dy.dests true)

/-- No register twice with one latency. -/
def distinct {α : Type} [DecidableEq α] : List α → Bool
  | [] => true
  | x :: xs => decide (x ∉ xs) && distinct xs

/-! ## Lanes (R180, R198) -/

/-- Signed lanes of `w` bits, lane 0 first. -/
def lanesOf (w n x : Nat) : List Int := (List.range n).map fun l => sext w (x / 2 ^ (w * l))

/-- Unsigned lanes. -/
def codesOf (w n x : Nat) : List Nat := (List.range n).map fun l => x / 2 ^ (w * l) % 2 ^ w

/-- Lanes packed, lane 0 lowest. -/
def packLanes (w : Nat) : List Int → Nat
  | [] => 0
  | x :: xs => toBits w x + 2 ^ w * packLanes w xs

def packCodes (w : Nat) : List Nat → Nat
  | [] => 0
  | x :: xs => x % 2 ^ w + 2 ^ w * packCodes w xs

/-! ## D addressing (R117, R118) -/

def wordsWrap : Nat := 32768

/-- Access size in words. -/
def DSlot.size (d : DSlot) : Nat := if d.rf = 2 then 16 else 4

/-- Fields of a modifier. -/
def modMode (m : Word) : Nat := bits m.toNat 31 30
def modLen (m : Word) : Nat := bits m.toNat 29 16
def modStep (m : Word) : Int := sext 16 m.toNat

/-- The low k bits of u, reversed. -/
def revLow (k u : Nat) : Nat := (List.range k).foldl (fun r i => r + b2n (bit u i) * 2 ^ (k - 1 - i)) 0

/-- An address modulo the memory's words. -/
def wrapWord (a : Int) : Nat := (a % (wordsWrap : Int)).toNat

/-- A modifier that a D access may not use. -/
def DSlot.badMod (d : DSlot) (m : Word) : Bool :=
  if d.am = 0 then
    modMode m == 3 || (modMode m == 1 && modLen m == 0) || (modMode m == 2 && modLen m % 16 == 0)
  else if d.am = 2 then modMode m == 3
  else false

/-- The word address that the access uses. -/
def DSlot.address (d : DSlot) (a : Nat) (m : Word) : Nat :=
  let sum := if d.am = 2 then wrapWord ((a : Int) + modStep m) else a % wordsWrap
  sum / d.size * d.size

/-- The address register afterwards. -/
def DSlot.update (d : DSlot) (a : Nat) (m : Word) : Nat :=
  let a := a % wordsWrap
  if d.am = 1 then (a + d.size) % wordsWrap
  else if d.am = 0 then
    match modMode m with
    | 1 =>
      let k := clog2 (modLen m)
      let b := a / 2 ^ k * 2 ^ k
      wrapWord ((b : Int) + ((a : Int) - b + modStep m) % (modLen m : Int))
    | 2 =>
      let k := modLen m % 16
      let u := a / d.size
      let low := revLow k ((revLow k u + revLow k (toBits 16 (modStep m))) % 2 ^ k)
      (u / 2 ^ k * 2 ^ k + low) * d.size % wordsWrap
    | _ => wrapWord ((a : Int) + modStep m)
  else a

end Sys2Proof.Machine
end

