-- ==== Sys2Proof/Machine/Queue.lean ====
section
/-! DEFINITION. Tile queues (R344, R345, R347) and the inherit slices that reorder them (R363, R364). -/
namespace Sys2Proof.Machine

/-- New tasks may be placed on the tile (R32). -/
def State.tileOpen (s : State) (t : Nat) : Bool := s.fld SYS_TMAP.STATE t != 2 && s.fld SYS_TMAP.STATE t != 3

def State.queueLen (s : State) (t : Nat) : Nat := (s.tile t).queue.length

/-- Task a goes before task b of a queue (R345). -/
def State.taskBefore (s : State) (a b : Task) : Bool :=
  if a.job = b.job then decide (a.index < b.index)
  else
    match s.job? a.job, s.job? b.job with
    | some x, some y => s.jobBefore x y
    | _, _ => false

/-- Put a waiting task into a queue: behind the entries that were placed at its head. -/
def State.insertTask (s : State) (k : Task) : List QEntry → List QEntry
  | [] => [{ task := k, slot := none, head := false }]
  | q :: qs =>
    if !q.head && s.taskBefore k q.task then { task := k, slot := none, head := false } :: q :: qs else q :: s.insertTask k qs

/-- The deadline that orders a task. -/
def State.taskTime (s : State) (k : Task) : Nat := ((s.job? k.job).map s.orderTime).getD 0

/-- Put a saved task back: after every entry with a deadline no later than its own. -/
def State.insertSaved (s : State) (e : QEntry) : List QEntry → List QEntry
  | [] => [e]
  | q :: qs => if !q.head && decide (s.taskTime e.task < s.taskTime q.task) then e :: q :: qs else q :: s.insertSaved e qs

/-- An entry goes to the head of its queue, behind others that were placed there. -/
def insertHead (e : QEntry) : List QEntry → List QEntry
  | [] => [e]
  | q :: qs => if q.head then q :: insertHead e qs else e :: q :: qs

/-- Cairns that tile t's slots hold. -/
def State.slotsHeld (s : State) (t : Nat) : List Nat :=
  (List.range 8).filter fun d => (s.cairns.find? (t * 8 + d)).isSome

/-- Tile t cannot save a task for partition p (R346, R357). -/
def State.saveBarred (s : State) (p t : Nat) : Bool :=
  decide (s.fld PTN_CFG.DEPTH p ≤ (s.slotsHeld t).length) || (s.tile t).cairnBar

/-! ## Inherit slices -/

/-- The slices that a slice has passed to, itself first; `fuel` bounds the chain. -/
def State.sliceChain (s : State) (x : Slice) : Nat → List Slice
  | 0 => [x]
  | n + 1 =>
    match s.slices.find? fun y => y.waiter == x.htile && y.waitJob == x.hjob && decide (x.depth < y.depth) with
    | some y => x :: s.sliceChain y n
    | none => [x]

/-- A holder whose slice has ended with the mutex still held is saved, or goes back to its place in the queue. -/
def State.returnHolder (s : State) (x : Slice) : State :=
  let y := s.tile x.htile
  match y.task with
  | some k =>
    if k.job = x.hjob ∧ k.index = x.hindex then s.setTile x.htile { y with preempt := true, sliceEnd := true } else s
  | none =>
    match y.queue.find? fun e => e.head && e.slot.isSome && e.task.job == x.hjob && e.task.index == x.hindex with
    | some e => s.setTile x.htile { y with queue := s.insertSaved { e with head := false } (y.queue.erase e) }
    | none => s

/-- A slice and those that it has passed to end, and its time is charged. -/
def State.cutSlice (s : State) (x : Slice) : State :=
  let xs := s.sliceChain x 4
  let s := { s with slices := s.slices.filter fun y => !xs.contains y }
  let s := match s.job? x.waitJob with
    | some j => if x.depth = 1 then s.incSat PTN_INH_NS.NS ((s.now - x.began) / nsUnit) j.ptn else s
    | none => s
  forEach xs (fun y s => s.returnHolder y) s

/-- The slices that wait for job j end (R363). -/
def State.cutSlicesOf (s : State) (j : Nat) : State :=
  forEach (s.slices.filter fun x => x.waitJob == j) (fun x s => if x ∈ s.slices then s.cutSlice x else s) s

end Sys2Proof.Machine
end

