-- ==== Sys2Proof/Machine/JobBase.lean ====
section
/-! DEFINITION. What every engine needs of jobs: the fields of a descriptor (R76), the end of a job (R80, R82, R85) and
the events that carry a job's tag. -/
namespace Sys2Proof.Machine

/-! ## Record flags (R84) -/

def rfRescaled : Nat := 0
def rfFallback : Nat := 1
def rfReplayed : Nat := 2
def rfDeadlineMiss : Nat := 3
def rfLockstepMismatch : Nat := 4
def rfSuppressed : Nat := 5
def rfDigestValid : Nat := 6

/-- A FLAGS word with bit k set. -/
def setFlagBit (w k : Nat) : Nat := w ||| 2 ^ k

def State.jobFlag (s : State) (j k : Nat) : State := s.modJob j fun x => { x with rflags := setFlagBit x.rflags k }

/-! ## Status and fault codes (R85, R86) -/

def stOk : Nat := 0x00
def stLaunchLate : Nat := 0x01
def stFailed : Nat := 0x10
def stCancelled : Nat := 0x11
def stRejected : Nat := 0x12
def stCollapsed : Nat := 0x13

def fcTileOffline : Nat := 0x0008
def fcDeadlineMiss : Nat := 0x0010
def fcSemInheritTimeout : Nat := 0x0014
def fcCheckMismatch : Nat := 0x0030

/-- An event of a job: its partition, tag and generation. -/
def State.jobEvent (s : State) (j code unit : Nat) (data : List (Nat × Nat)) : State :=
  match s.job? j with
  | some x => s.raise { code := code, ptn := some x.ptn, unit := unit, data := data, tag := x.tag, gen := x.gen }
  | none => s

/-! ## Tiles of a job -/

/-- Partition of the task that runs on a tile. -/
def State.taskJob (s : State) (t : Nat) : Option (Nat × Job) :=
  match (s.tile t).task with
  | some k => (s.job? k.job).map fun j => (k.job, j)
  | none => none

/-- The partition in whose context a tile's task runs. -/
def State.taskPtn (s : State) (t : Nat) : Nat :=
  match s.taskJob t with
  | some (_, j) => j.ptn
  | none => (s.tileOwner t).getD 0

/-- Granules of the bivouac buffer that a parked read response takes (R359). (log 103: DEDUCED) -/
def granules (n : Nat) : Nat := (n + 63) / 64 + 1

/-- Granules that a context's parked read responses take. -/
def Tile.parkedGranules (x : Tile) : Nat :=
  (x.parked.map fun r =>
    if x.reqs.any (fun q => q.id == r.id && q.mark == .parked) then granules r.data.length else 0).foldl (· + ·) 0

/-- Reservations of a context's requests that have been performed (R360). -/
def Tile.heldReservations (x : Tile) : Nat := (x.reqs.filter fun r => decide (r.mark = .performed)).length

/-- The granules of a context's parked responses are free again. -/
def State.releaseGranules (s : State) (c : Nat) (x : Tile) : State :=
  let s := s.setFld CLU_BIV.PARKED (s.fld CLU_BIV.PARKED c - x.parkedGranules) c
  s.setFld CLU_BIV.RESV (s.fld CLU_BIV.RESV c - x.heldReservations) c

/-- A cairn slot is empty again. -/
def State.takeCairn (s : State) (t slot : Nat) (c : Cairn) : State :=
  ({ s with cairns := s.cairns.del (t * 8 + slot) }).setFld PTN_PSTAT.CAIRNS (s.fld PTN_PSTAT.CAIRNS c.ptn - 1) c.ptn

/-- Give a saved task's cairn slot back: its parked responses are discarded (R358, R359). -/
def State.freeCairn (s : State) (t slot : Nat) : State :=
  match s.cairns.find? (t * 8 + slot) with
  | none => s
  | some c => (s.takeCairn t slot c).releaseGranules (t / 16) c.ctx

/-- The tile stops at its next bundle boundary: it issues nothing more, and its streams issue no request (R82, R94). -/
def State.stopTile (s : State) (t : Nat) : State := s.modTile t fun x => { x with halting := true, stopped := true }

/-! ## What a task leaves to its job (R82, R162, R223) -/

/-- Registers of a tile whose values are the task's. -/
def taskRegs : List Reg :=
  [TIL_NSAT, TIL_NFLUSH, TIL_NNAN, ELE_FPCSR, SIG_STAT, SIG_NSAT, SIG_WSAT, SIG_NOPS, SIG_WOPS, CRC_VALUE, CRC_STAT, CRC_LAST]

/-- A task's value of such a register: of ELE_FPCSR its flags only. -/
def State.taskReg (s : State) (t : Nat) (r : Reg) : Nat := if r = ELE_FPCSR then s.reg r t % 32 else s.reg r t

def State.setTaskReg (s : State) (t : Nat) (r : Reg) (v : Nat) : State :=
  if r = ELE_FPCSR then s.setReg r (s.reg r t / 32 * 32 + v % 32) t else s.setReg r v t

def Inst.dir (i : Inst) : Nat := field i.record 0 1 % 4
def Inst.count (i : Inst) : Nat := field i.record 8 4
def Inst.live (i : Inst) : Bool := decide (i.state ≠ .done)

/-- Writes of an output list that no request of the instance has issued yet. -/
def Inst.unissued (i : Inst) : Bool :=
  i.live && (i.dir == 1 && decide (i.blk < i.count) || i.dir == 2 && decide (i.oblk < i.count))

/-- Output writes of the task that no request has issued. -/
def Tile.unissued (x : Tile) : Bool := (x.insts.rows.any fun r => r.2.unissued) || x.pend.rows.any fun r => r.2.unissued

/-- Counts of a task join its job's (R162). -/
def State.addTotals (s : State) (j sat flush nan : Nat) : State :=
  s.modJob j fun x =>
    { x with sat := satAdd x.sat sat 0xFFFFFFFF, flush := satAdd x.flush flush 0xFFFFFFFF, nan := satAdd x.nan nan 0xFFFFFFFF }

/-- The task saved in a slot ends there: its counts join its job's, and writes of its that were withheld, or that no request
has issued, are suppressed. -/
def State.dropSaved (s : State) (t slot : Nat) : State :=
  match s.cairns.find? (t * 8 + slot) with
  | none => s
  | some c =>
    match c.ctx.task with
    | none => s.freeCairn t slot
    | some k =>
      let s := s.addTotals k.job (c.regs.getD 0 0) (c.regs.getD 1 0) (c.regs.getD 2 0)
      let s := if c.ctx.withheld || c.ctx.unissued then s.jobFlag k.job rfSuppressed else s
      s.freeCairn t slot

/-- Drop job j's waiting and saved tasks from tile t's queue; how many were dropped. -/
def State.dropQueued (s : State) (j t : Nat) : State × Nat :=
  let x := s.tile t
  let mine := x.queue.filter fun e => decide (e.task.job = j)
  if mine.isEmpty then (s, 0)
  else
    let s := s.setTile t { x with queue := x.queue.filter fun e => decide (e.task.job ≠ j) }
    let s := forEach (mine.filterMap fun e => e.slot) (fun d s => s.dropSaved t d) s
    (s, mine.length)

/-- Drop or stop every task of job j on the tiles listed. -/
def State.stopTasks (s : State) (j : Nat) (ts : List Nat) : State :=
  forEach ts (fun t s =>
    let (s, n) := s.dropQueued j t
    let s := if n = 0 then s else s.modJob j fun x => { x with tasksLeft := x.tasksLeft - n }
    match (s.tile t).task with
    | some k => if k.job = j then s.stopTile t else s
    | none => s) s

/-- Pieces of job j in work on engines. -/
def State.engineBusy (s : State) (j : Nat) : Nat :=
  (s.coding.ld.rows.filter fun r => r.2.job == j).length + (s.coding.polar.rows.filter fun r => r.2.job == j).length
    + (s.coding.enc.rows.filter fun r => r.2.job == j).length + b2n (s.gather.units.find? j).isSome

/-- A class whose work engines do, not tiles. -/
def engineClass (c : Nat) : Bool := c == 4 || c == 5 || c == 6

/-- The deadline that a job's end meets or misses (R59). -/
def Job.missed (x : Job) (now : Nat) : Bool :=
  match x.deadline with
  | some d => decide (d ≤ now)
  | none => false

/-- One more job has ended (R87). -/
def State.countEnd (s : State) : State := { s with job := { s.job with nextEnd := s.job.nextEnd + 1 } }

/-- The job at its end: it is due a record, the n-th since reset; one that meets its end at its deadline or after it has missed
it (R59). -/
def Job.atEnd (x : Job) (now n : Nat) : Job :=
  let y := { x with phase := .draining, endTs := some now, endNo := n }
  if x.phase = .draining ∨ ¬x.missed now then y
  else { y with status := stFailed, fault := fcDeadlineMiss, rflags := setFlagBit x.rflags rfDeadlineMiss, missAt := some now }

/-- Every piece of job j has ended. (log 166: DEDUCED) -/
def State.workEnded (s : State) (j : Nat) : State :=
  match s.job? j with
  | none => s
  | some x => if x.endTs.isSome then s else (s.putJob j (x.atEnd s.now s.job.nextEnd)).countEnd

def State.setCoding (s : State) (c : Coding) : State := { s with coding := c }

/-- Nothing of job j is left in the coding complex. -/
def State.forgetCoding (s : State) (j : Nat) : State :=
  s.setCoding { s.coding with
    next := s.coding.next.del j, again := s.coding.again.filter fun a => a.job != j,
    out := s.coding.out.keep fun k => k / 256 != j }

/-- The polar decoder or the encoder of a job that ends stops at once (R299). -/
def State.stopCodecs (s : State) (j : Nat) : State :=
  let other := fun (r : Nat × Codec) => r.2.job != j
  let s := s.setCoding { s.coding with
    polar := ⟨s.coding.polar.rows.filter other⟩, enc := ⟨s.coding.enc.rows.filter other⟩ }
  if s.engineBusy j = 0 then s.forgetCoding j else s

/-- The end of job j is decided (R80, R82, R85, R97): its status and fault code, the flag bits listed; its tiles and
engines stop at their next boundary. A job whose end is decided already keeps it, but a cancellation in the tick of the
deadline goes before it. (log 56: DEDUCED) -/
def State.endJob (s : State) (j status fault : Nat) (flags : List Nat := []) : State :=
  match s.job? j with
  | none => s
  | some x =>
    if x.phase = .draining then
      if status = stCancelled ∧ x.missAt = some s.now then
        s.putJob j { x with status := status, fault := fault, rflags := x.rflags &&& (2 ^ 16 - 1 - 2 ^ rfDeadlineMiss) }
      else s
    else
      let s := s.cutSlicesOf j
      let ran := x.phase = .running
      let fl := if ran ∧ engineClass x.cls then rfSuppressed :: flags else flags
      let s := s.putJob j { x with phase := .draining, status := status, fault := fault,
                                   inSeries := if x.inSeries = 2 then 3 else x.inSeries,
                                   rflags := fl.foldl setFlagBit x.rflags }
      let s :=
        if ¬ran then s.modJob j fun x => { x with tasksLeft := 0 }
        else if engineClass x.cls then
          let s := s.stopCodecs j
          s.modJob j fun x => { x with tasksLeft := s.engineBusy j }
        else s.stopTasks j (s.tiles.rows.map fun r => r.1)
      if ((s.job? j).map fun (x : Job) => x.tasksLeft) = some 0 then s.workEnded j else s

/-- A job that fails (R85). -/
def State.failJob (s : State) (j fault : Nat) : State := s.endJob j stFailed fault

/-- Every unit of the job is complete. -/
def Job.unitsDone (x : Job) : Bool := x.air.units.all fun u => u.how.isSome

/-- Nothing of the job is left to do once its tasks have ended (R245, R251). -/
def Job.allDone (x : Job) : Bool :=
  decide (x.phase = .draining) || (!x.air.fbDue && (x.unitsDone || x.status == stFailed))

/-- The deadline of job j has passed (R82, R97). -/
def State.missJob (s : State) (j : Nat) : State :=
  match s.job? j with
  | none => s
  | some x =>
    if x.phase = .draining then s
    else (s.endJob j stFailed fcDeadlineMiss [rfDeadlineMiss]).modJob j fun x => { x with missAt := some s.now }

/-- One more task or piece of job j has ended; after the last of them the job's output fences have retired. -/
def State.taskDone (s : State) (j : Nat) : State :=
  match s.job? j with
  | none => s
  | some x =>
    let s := s.putJob j { x with tasksLeft := x.tasksLeft - 1 }
    if x.tasksLeft ≤ 1 ∧ x.allDone then s.workEnded j else s

/-! ## Units and the fallback path (R245, R248-R251) -/

/-- Buffers that a NBUF field names. -/
def nbufOf (f : Nat) : Nat := 2 ^ f

/-- Buffer of a slot (R235). -/
def State.rxBuf (s : State) (c : Nat) (slot : Int) : Nat := (slot % (nbufOf (s.fld FHE_CRX_CFG.NBUF c) : Int)).toNat

/-- Ingress of a cell runs. (log 73: DEDUCED) -/
def State.rxOn (s : State) (c : Nat) : Bool := s.flag FHE_RX_CTL.EN && s.flag FHE_CRX_CFG.EN c && s.cellOn c

def State.rxCell? (s : State) (c : Nat) : Option RxCell := s.fhe.rx.find? c

def State.rxSlot? (s : State) (c : Nat) (slot : Int) : Option RxSlot :=
  match s.rxCell? c with
  | some x => x.slots.find? fun b => b.slot == slot
  | none => none

/-- The summary that stands in the buffer of a slot, while the buffer is that slot's. -/
def State.rxSum? (s : State) (c : Nat) (slot : Int) : Option RxSum :=
  (s.fhe.sums.find? (c * 8 + s.rxBuf c slot)).filter fun x => x.slot == slot

/-- The last symbol of a slot has closed. -/
def State.rxClosed (s : State) (c : Nat) (slot : Int) : Bool := (s.rxSum? c slot).any RxSum.closed

/-- The cell's ingress receives a slot, or is to receive it. -/
def State.rxAwaited (s : State) (c : Nat) (slot : Int) : Bool :=
  s.rxOn c && match s.rxCell? c with
    | some x => (x.slots.any fun b => b.slot == slot) || (x.next.find? (s.rxBuf c slot)).any fun t => decide (t ≤ slot)
    | none => false

/-- The cell's ingress was not disabled before the last symbol of the slot closed (R248). -/
def State.rxRuns (s : State) (c : Nat) (slot : Int) : Bool := s.rxClosed c slot || s.rxAwaited c slot

/-- Instant at which the window of a slot's last symbol closes on ingress. -/
def State.rxClose (s : State) (x : Job) : Int :=
  let g := s.cellGrid x.air.cell
  let n : Int := g.slotsPerFrame
  ceil3 (g.pos3 (x.air.slot / n) (x.air.slot % n).toNat (g.symsPerSlot - 1)
    (100 * (s.fld FHE_CRX_WIN.TA4_MAX x.air.cell : Nat)))

/-- The fallback watermark of R248. -/
def State.watermark (s : State) (x : Job) : Int :=
  let a := (x.deadline.getD 0 : Int) - (x.air.lead * nsUnit : Nat)
  if s.rxRuns x.air.cell x.air.slot then max a (s.rxClose x) else a

/-- A task of job j has failed with a code: a learned task of an RX_SLOT job before the watermark hands over to the fallback
(R250); a fallback task keeps an earlier code (R251). -/
def State.failTask (s : State) (j code : Nat) (fb : Bool) : State :=
  match s.job? j with
  | none => s
  | some x =>
    if x.cls = 0 ∧ x.phase = .running ∧ ¬fb ∧ ¬x.air.judged then
      let s := s.putJob j { x with status := stFailed, fault := if x.status = stFailed then x.fault else code,
                                   air := { x.air with fbDue := true, path := x.air.path ||| 2 } }
      s.stopTasks j (s.tiles.rows.map fun r => r.1)
    else s.failJob j (if x.cls = 0 ∧ x.status = stFailed ∧ x.phase = .running then x.fault else code)

/-- A block of OUT_LIST entry `e` of job j has been delivered by a task of the learned path or of the fallback (R245).
(log 77: DEDUCED) -/
def State.unitDelivered (s : State) (j e : Nat) (fb : Bool) : State :=
  match s.job? j with
  | none => s
  | some x =>
    let serves := fb == x.air.fbTs.isSome && !(x.cls == 0 && !fb && decide (s.watermark x ≤ s.now))
    match x.air.units.find? fun u => decide (u.first ≤ e) && decide (e < u.first + u.n) with
    | none => s
    | some u =>
      if ¬serves ∨ u.how.isSome ∨ u.got.contains e then s
      else
        let done := u.got.length + 1 = u.n
        let u' := { u with got := e :: u.got, how := if done then some fb else none }
        let x := { x with air := { x.air with units := x.air.units.map fun v => if v.u = u.u then u' else v } }
        let s := s.putJob j x
        let s := if done then s.signalEntry u.sem else s
        if x.tasksLeft = 0 ∧ x.allDone then s.workEnded j else s

/-- Job j is dispatched in `n` pieces: its waits are subtracted in one step (R79). (log 56: DEDUCED) -/
def State.dispatched (s : State) (j n : Nat) : State :=
  match s.job? j with
  | none => s
  | some x =>
    let s := s.putJob j { x with phase := .running, startTs := some s.now, nTasks := n, tasksLeft := n,
                                 status := if x.launchLate then stLaunchLate else stOk }
    (forEach x.waits (fun e s => s.takeSem (semClu e) (semIx e) (semCount e) none) s).refresh

/-! ## What engines read and write for a job -/

/-- Bytes for partition p's address `va` within one page: a write to the program memory of a tile that is not idle is ignored,
with its event (R102). -/
def State.putPage (s : State) (p va : Nat) (bs : List Byte) : Except VFault Unit × State :=
  match s.translate p va true with
  | (.error f, s) => (.error (.mmu f), s)
  | (.ok (g, c), s) =>
    match s.progRefused g with
    | some t => (.ok (), s.event evWriteIgnored p t [w64 (localOf g)])
    | none =>
      match s.devWrite p g bs c with
      | .ok s => (.ok (), s)
      | .error e => (.error (.code e), s)

/-- Write bytes page by page; `fuel` bounds the pages. -/
def State.putLoop (s : State) (p va : Nat) (bs : List Byte) : Nat → Except VFault Unit × State
  | 0 => (.ok (), s)
  | k + 1 =>
    if bs.isEmpty then (.ok (), s)
    else
      let m := 4096 - va % 4096
      match s.putPage p va (bs.take m) with
      | (.ok _, s) => s.putLoop p (va + m) (bs.drop m) k
      | (.error e, s) => (.error e, s)

def State.put (s : State) (p va : Nat) (bs : List Byte) : Except VFault Unit × State :=
  s.putLoop p va bs (bs.length / 4096 + 2)

/-- Write several byte strings in order. (log 88: DEDUCED) -/
def State.putAll (s : State) (p : Nat) : List (Nat × List Byte) → Except (Nat × VFault) Unit × State
  | [] => (.ok (), s)
  | (va, bs) :: rest =>
    match s.put p va bs with
    | (.ok _, s) => s.putAll p rest
    | (.error e, s) => (.error (va, e), s)

/-- Read several byte strings in order. -/
def State.getAll (s : State) (p : Nat) : List (Nat × Nat) → Except (Nat × VFault) (List (List Byte)) × State
  | [] => (.ok [], s)
  | (va, n) :: rest =>
    match s.vRead p va n with
    | (.error e, s) => (.error (va, e), s)
    | (.ok bs, s) =>
      match s.getAll p rest with
      | (.ok l, s) => (.ok (bs :: l), s)
      | (.error e, s) => (.error e, s)

/-- What the checks of a class at fetch come to (R76-R78, R86): the job with what was read for it, a fault code, or a
translation fault, upon which the fetch is to be repeated (R75). -/
inductive Check where
  | ok (x : Job)
  | reject (code : Nat)
  | fault (va : Nat) (e : VFault)
deriving DecidableEq, Repr

/-- Address and length of a linear block-list entry (R212). -/
def linearEntry (e : List Byte) : Option (Nat × Nat) :=
  let near := field e 12 4
  let ok := decide (field e 0 8 < 2 ^ 48) && decide (near < 2 ^ 21) && field e 16 1 == 0 && decide (field e 17 1 < 2)
    && field e 18 1 == 0 && field e 19 1 == 0 && field e 24 8 == 0 && bits (field e 20 4) 30 28 == 0
    && bits (field e 20 4) 15 12 == 0 && (!semV (field e 20 4) || semCount (field e 20 4) != 0)
    && decide (1 ≤ field e 8 4) && decide (field e 8 4 ≤ 16777216)
  if ok then some (field e 0 6, field e 8 4) else none

/-- The entries at the addresses given, each linear and of the length given: none where one is not. -/
def State.linearEntries (s : State) (p : Nat) (want : List (Nat × Nat)) : Except (Nat × VFault) (Option (List (Nat × Nat))) × State :=
  match s.getAll p (want.map fun w => (w.1, 32)) with
  | (.error e, s) => (.error e, s)
  | (.ok es, s) =>
    let bl := es.map linearEntry
    let ok := (bl.zip want).all fun r => match r.1 with
      | some b => b.2 == r.2.2
      | none => false
    (.ok (if ok then some (bl.filterMap id) else none), s)

/-- Every byte of [a, b) of a parameter block is zero. -/
def zeroBytes (bs : List Byte) (a b : Nat) : Bool := ((bs.take b).drop a).all (· == 0#8)

end Sys2Proof.Machine
end

