-- ==== Sys2Proof/Machine/Repair.lean ====
section
/-! DEFINITION. Leaky buckets, the retirement map and the retirement of a tile (R425-R431, R29-R38). -/
namespace Sys2Proof.Machine

/-- Kinds of R426. -/
def kTile : Nat := 0
def kLdpc : Nat := 1
def kPolar : Nat := 2
def kEnc : Nat := 3
def kPra : Nat := 4
def kPch : Nat := 5
def kYal : Nat := 6
def kEth : Nat := 7

/-- Resources of a kind. -/
def kindCount (k : Nat) : Nat :=
  match k with
  | 0 => 68
  | 1 => 18
  | 2 => 4
  | 3 => 8
  | 4 => 4
  | 5 => 128
  | 6 => 32
  | 7 => 16
  | _ => 0

/-- Bit of the retirement map (R431), counted from its byte 0, of a resource. -/
def retireBit (k i : Nat) : Nat :=
  match k with
  | 0 => 32 + i
  | 1 => 104 + i
  | 2 => 128 + i
  | 3 => 136 + i
  | 4 => 132 + i
  | 5 => 144 + i
  | 6 => 272 + i
  | _ => 304 + i

/-- The resource is in the retained retirement map. -/
def State.isRetired (s : State) (k i : Nat) : Bool :=
  let b := retireBit k i
  bit (s.byte (mapBase + b / 8)).toNat (b % 8)

/-- Write the map's FORMAT and CRC after a change. -/
def State.sealMap (s : State) : State :=
  let s := s.poke mapBase (bytesOf 2 1)
  s.poke (mapBase + 60) (bytesOf 4 (crc32c (s.read mapBase 60)))

/-- Set a resource's bit in the map. -/
def State.markRetired (s : State) (k i : Nat) : State :=
  let b := retireBit k i
  let a := mapBase + b / 8
  (s.poke a [BitVec.ofNat 8 ((s.byte a).toNat ||| 2 ^ (b % 8))]).sealMap

/-- Weight A or B of a kind's bucket. -/
def State.bucketReg (s : State) (k : Nat) : Nat :=
  s.reg (match k with
    | 0 => BBX_BKT0
    | 1 => BBX_BKT1
    | 2 => BBX_BKT2
    | 3 => BBX_BKT3
    | 4 => BBX_BKT4
    | 5 => BBX_BKT5
    | 6 => BBX_BKT6
    | _ => BBX_BKT7)

def State.level (s : State) (k i : Nat) : Nat := s.bbx.levels.get (fun _ => 0) (k * 256 + i)

def State.setLevel (s : State) (k i v : Nat) : State :=
  { s with bbx := { s.bbx with levels := s.bbx.levels.set (fun _ => 0) (k * 256 + i) v } }

/-- Raise a resource's level by a weight (R425): whether it overflows, which leaves it at 255 and retires the resource. -/
def State.raiseLevel (s : State) (k i w : Nat) : State × Bool :=
  let v := s.level k i
  let s1 := s.setLevel k i (min 255 (v + w))
  (if v < 128 ∧ 128 ≤ v + w then s1.devEvent evTransientHigh i [w32 k] else s1, decide (255 < v + w))

/-- The logical tile that physical tile `pt` serves. -/
def State.servedBy (s : State) (pt : Nat) : Option Nat :=
  firstFrom (fun n => s.fld SYS_TMAP.PTILE n == pt && s.fld SYS_TMAP.STATE n != 2) 0 64

/-- Change a logical tile's STATE, with its event (R38). -/
def State.setTmap (s : State) (n st pt : Nat) : State :=
  let old := s.fld SYS_TMAP.STATE n
  let s := (s.setFld SYS_TMAP.STATE st n).setFld SYS_TMAP.PTILE pt n
  let owners := (s.tileOwner n).toList
  s.devEvent evTmap n [w32 old, w32 st, w32 pt] owners

/-- Bit c of SPARE_USED or SPARE_BAD set. -/
def State.setSpare (s : State) (f : Fld) (c : Nat) : State := s.setFld f (s.fld f ||| 2 ^ c)

/-- Bit c of a field of SYS_SPARE clears. -/
def State.clearSpare (s : State) (f : Fld) (c : Nat) : State := if bit (s.fld f) c then s.setFld f (s.fld f - 2 ^ c) else s

/-- Causes of R436. -/
def causePersist : Nat := 0
def causeOverflow : Nat := 1
def causeMismatch : Nat := 2
def causeCommanded : Nat := 3

/-- Cluster c has no copy under way. -/
def Repair.without (r : Repair) (c : Nat) : Repair :=
  { spareFor := r.spareFor.del c, copied := r.copied.del c, lost := r.lost.del c }

/-- Retire physical tile `pt` (R428-R430, R32): the logical tile it serves goes to DRAINING, and the cluster's spare is
taken for it when it is free and sound. -/
def State.retireTile (s : State) (pt cause : Nat) : State :=
  if s.isRetired kTile pt then s
  else
    let c := pt / 17
    let s := s.markRetired kTile pt
    let isSpare := pt % 17 == 16
    let s := if isSpare then s.setSpare SYS_SPARE.SPARE_BAD c else s
    match s.servedBy pt with
    | none =>
      -- a spare that serves no tile; a tile whose copy was under way goes without it (R429)
      let s := { s with repair := s.repair.without c }
      s.devEvent evRetired pt [w32 kTile, w32 cause, w32 0xFF]
    | some n =>
      let s := s.devEvent evRetired pt [w32 kTile, w32 cause, w32 n] (s.tileOwner n).toList
      let s := if isSpare then (s.poke (mapBase + 40 + c) [BitVec.ofNat 8 (128 + n % 16)]).sealMap else s
      let s := s.incSat SYS_TMAP.RETIRE_CNT 1 n
      let s := s.setTmap n 3 pt
      if isSpare ∨ bit (s.fld SYS_SPARE.SPARE_BAD) c ∨ bit (s.fld SYS_SPARE.SPARE_USED) c
          ∨ (s.repair.spareFor.find? c).isSome then s
      else { s with repair := { s.repair with spareFor := s.repair.spareFor.put c n } }

/-- A transient error of a physical tile (R425, R426). -/
def State.tileTransient (s : State) (pt : Nat) : State :=
  let (s, exceeds) := s.raiseLevel kTile pt (bits (s.bucketReg kTile) 7 0)
  if exceeds then s.retireTile pt causeOverflow else s

end Sys2Proof.Machine
end

