-- ==== Sys2Proof/Machine/Tile.lean ====
section
/-! DEFINITION. The tile sequencer's shared operations: writing results (R123, R203), cycles, the loop hardware (R121),
counters (R162, R205), the numeric log (R163, R164) and tile faults (R128, R129). -/
namespace Sys2Proof.Machine

/-! ## Task counters -/

/-- The number of tile t's physical tile. -/
def State.ptile (s : State) (t : Nat) : Nat := s.fld SYS_TMAP.PTILE t

/-- Add to the task's counts (R162). -/
def State.addCounts (s : State) (t : Nat) (c : Counts) : State :=
  let s := if c.sat = 0 then s else s.incSat TIL_NSAT.COUNT c.sat t
  let s := if c.flush = 0 then s else s.incSat TIL_NFLUSH.COUNT c.flush t
  if c.nan = 0 then s else s.incSat TIL_NNAN.COUNT c.nan t

/-- Count SAT of the N or W slot (R205). -/
def State.addLaneSat (s : State) (t : Nat) (wide : Bool) (n : Nat) : State :=
  if n = 0 then s
  else
    let s := s.addCounts t { sat := n }
    if wide then s.incSat SIG_WSAT.COUNT n t else s.incSat SIG_NSAT.COUNT n t

/-! ## Results -/

/-- A register result written into the tile's record; stores and accumulators are written elsewhere. (log 39: DEDUCED) -/
def Tile.write (x : Tile) : Write → Tile
  | .s i v => if i = 0 then x else { x with s := x.s.set (fun _ => 0) i v }
  | .p i v => if i = 0 then x else { x with p := x.p.set (fun _ => false) i v }
  | .ax i v => { x with ax := x.ax.set (fun _ => 0) i v }
  | .ay i v => { x with ay := x.ay.set (fun _ => 0) i v }
  | .m i v => { x with m := x.m.set (fun _ => 0) i v }
  | .lc i v => { x with lc := x.lc.set (fun _ => 0) i v }
  | .ls i v => { x with ls := x.ls.set (fun _ => 0) i v }
  | .le i v => { x with le := x.le.set (fun _ => 0) i v }
  | .flags v => { x with flags := v }
  | .zncv v => { x with flags := BitVec.ofNat 32 (setBits x.flags.toNat 3 0 v.toNat) }
  | .lbrk => { x with flags := BitVec.ofNat 32 (setBits x.flags.toNat 7 5 (x.ld - 1)) }
  | .loop l c a b =>
    { x with lc := x.lc.set (fun _ => 0) l c, ls := x.ls.set (fun _ => 0) l a, le := x.le.set (fun _ => 0) l b,
             flags := BitVec.ofNat 32 (setBits x.flags.toNat 7 5 (l + 1)) }
  | .epc v => { x with epc := v }
  | .eflags v => { x with eflags := v }
  | .ivec v => { x with ivec := v }
  | .imask v => { x with imask := v }
  | .ipendClr v => { x with ipend := x.ipend &&& ~~~v }
  | .n i v => { x with n := x.n.set (fun _ => 0) i v }
  | .w i v => { x with w := x.w.set (fun _ => 0) i v }
  | .v i v => { x with v := x.v.set (fun _ => 0) i v }
  | .accAdd _ _ _ => x
  | .accClr _ _ => x
  | .store _ _ => x

/-- Write one result that is no accumulator's. -/
def State.writeResult (s : State) (t : Nat) (w : Write) : State :=
  match w with
  | .store off bs => s.pokeTile t off bs
  | w => s.modTile t fun x => x.write w

/-- The lanes of an accumulator. -/
def Tile.accLanes (x : Tile) (wide : Bool) (i : Nat) : List Int :=
  if wide then lanesOf 56 16 (x.wa.getD i 0).toNat else lanesOf 40 32 (x.na.getD i 0).toNat

def Tile.setAcc (x : Tile) (wide : Bool) (i : Nat) (ls : List Int) : Tile :=
  if wide then { x with wa := x.wa.set (fun _ => 0) i (BitVec.ofNat 896 (packLanes 56 ls)) }
  else { x with na := x.na.set (fun _ => 0) i (BitVec.ofNat 1280 (packLanes 40 ls)) }

/-- The contributions to lane l among those of one cycle. -/
def laneSum (adds : List (List (Option Int))) (l : Nat) : Option Int :=
  adds.foldl (fun acc ls =>
    match ls.getD l none, acc with
    | some v, some a => some (a + v)
    | some v, none => some v
    | none, a => a) none

/-- What the results of one cycle do to one accumulator (R203): the clear first, then every contribution, saturating once. A lane
that is clamped counts one SAT for each operation that adds to it (R205). (log 38: DEDUCED) -/
def State.writeAcc (s : State) (t : Nat) (wide : Bool) (i : Nat) (due : List Write) : State :=
  let clr := due.any fun w => decide (w = .accClr wide i)
  let adds := due.filterMap fun w =>
    match w with
    | .accAdd wd k ls => if wd = wide ∧ k = i then some ls else none
    | _ => none
  if !clr && adds.isEmpty then s
  else
    let n := if wide then 16 else 32
    let top : Int := if wide then 2 ^ 55 else 2 ^ 39
    let x := s.tile t
    let base := if clr then List.replicate n 0 else x.accLanes wide i
    let sums := (List.range n).map fun l => (base.getD l 0, laneSum adds l)
    let exact := sums.map fun p => p.1 + p.2.getD 0
    let new := exact.map (clampInt (-top) (top - 1))
    let clamped := fun (l : Nat) => decide (exact.getD l 0 ≠ new.getD l 0)
    let sat := (adds.map fun ls => ((List.range n).filter fun l => clamped l && (ls.getD l none).isSome).length).foldl (· + ·) 0
    let s := s.setTile t (x.setAcc wide i new)
    if sat = 0 then s
    else
      let f := if wide then SIG_STAT.WA_SAT else SIG_STAT.NA_SAT
      (s.setFld f (s.fld f t ||| 2 ^ i) t).addLaneSat t wide sat

/-- The results due at the end of a cycle are written. (log 45: DEDUCED) -/
def State.writeDue (s : State) (t : Nat) (due : List Write) : State :=
  let s := forEach due (fun w s => s.writeResult t w) s
  forEach [0, 1, 2, 3] (fun i s => (s.writeAcc t false i due).writeAcc t true i due) s

/-- The end of a cycle in which the results that satisfy `go` come nearer, and the other operations in flight hold their place. -/
def State.endCycleOf (s : State) (t : Nat) (go : Write → Bool) : State :=
  let x := s.tile t
  let due := x.inflight.filter fun f => go f.write && decide (f.left ≤ 1)
  let rest := (x.inflight.filter fun f => !go f.write || decide (1 < f.left)).map fun f =>
    if go f.write then { f with left := f.left - 1 } else f
  (s.setTile t { x with inflight := rest }).writeDue t (due.map (·.write))

/-- The end of a cycle in which every operation in flight goes on. (log 39: DEDUCED; log 161: DESIGN CHOICE) -/
def State.endCycle (s : State) (t : Nat) : State := s.endCycleOf t fun _ => true

/-- `n` cycles more in which only such results come nearer. -/
def State.endCyclesOf (s : State) (t : Nat) (go : Write → Bool) : Nat → State
  | 0 => s
  | n + 1 => (s.endCycleOf t go).endCyclesOf t go n

/-- `n` cycles more. -/
def State.endCycles (s : State) (t n : Nat) : State := s.endCyclesOf t (fun _ => true) n

/-- Cycles until the first of the results that satisfy `go`, and until the last result in flight, is written. -/
def Tile.firstDue (x : Tile) (go : Write → Bool) : Nat :=
  (x.inflight.filter fun f => go f.write).foldl (fun m f => if m = 0 then f.left else min m f.left) 0
def Tile.lastDue (x : Tile) : Nat := x.inflight.foldl (fun m f => max m f.left) 0

/-- Every operation in flight completes. -/
def State.drainTile (s : State) (t : Nat) : State := s.endCycles t (s.tile t).lastDue

/-- Cycles of the task pass, stall cycles or others. -/
def Tile.pass (x : Tile) (n : Nat) (stall : Bool) : Tile :=
  { x with cyc := x.cyc + BitVec.ofNat 32 n, taskCyc := satAdd x.taskCyc n 0xFFFFFFFF,
           stallCyc := if stall then satAdd x.stallCyc n 0xFFFFFFFF else x.stallCyc }

/-- A result put in flight with its latency. (log 45: DEDUCED; log 161: DESIGN CHOICE) -/
def State.stageWrite (s : State) (t lat : Nat) (w : Write) : State :=
  s.modTile t fun x => { x with inflight := x.inflight ++ [⟨lat, w⟩] }

def State.stageWrites (s : State) (t lat : Nat) (ws : List Write) : State :=
  forEach ws (fun w s => s.stageWrite t lat w) s

/-! ## Loop hardware (R121) -/

/-- The steps of R121 for the bundle at `a`, over the `n` active levels: the tile with lc and LD as they leave them, and the
next index. -/
def Tile.loopStep (x : Tile) (a : Nat) : Nat → Tile × Nat
  | 0 => ({ x with flags := BitVec.ofNat 32 (setBits x.flags.toNat 7 5 0) }, a + 1)
  | n + 1 =>
    if (x.ler n).toNat = a then
      if 1 < (x.lcr n).toNat then
        ({ x with lc := x.lc.set (fun _ => 0) n (x.lcr n - 1),
                  flags := BitVec.ofNat 32 (setBits x.flags.toNat 7 5 (n + 1)) }, (x.lsr n).toNat)
      else { x with lc := x.lc.set (fun _ => 0) n 0 }.loopStep a n
    else ({ x with flags := BitVec.ofNat 32 (setBits x.flags.toNat 7 5 (n + 1)) }, a + 1)

/-! ## Numeric log (R163, R164) -/

/-- Kinds of R163. -/
def logMmul : Nat := 1
def logEkrun : Nat := 2
def logEcvt : Nat := 3
def logErq : Nat := 4
def logSignal : Nat := 5
def logRescale : Nat := 6

/-- Write one log entry for the task of tile t, if its job carries NUMLOG and the tile logs. -/
def State.numLog (s : State) (t kind pc sub : Nat) (c : Counts) (value sidx flags : Nat) : State :=
  match (s.tile t).task, s.taskJob t with
  | some k, some (_, j) =>
    if ¬j.flag 3 ∨ ¬s.flag TIL_NLOG_CFG.EN t then s
    else
      let x := s.tile t
      let s := s.setTile t { x with logSeq := x.logSeq + 1 }
      if s.flag TIL_NLOG_STAT.FULL t ∨ s.flag TIL_NLOG_STAT.FAULT t then s.incSat TIL_NLOG_STAT.LOST 1 t
      else
        let e := bytesOf 4 j.tag ++ bytesOf 1 j.gen ++ bytesOf 1 kind ++ bytesOf 2 (pc % 4096 + sub % 4 * 4096)
          ++ bytesOf 2 k.index ++ bytesOf 2 x.logSeq ++ bytesOf 4 (min c.sat 0xFFFFFFFF) ++ bytesOf 4 (min c.flush 0xFFFFFFFF)
          ++ bytesOf 4 (min c.nan 0xFFFFFFFF) ++ bytesOf 4 value ++ bytesOf 2 sidx ++ bytesOf 1 (t % 64) ++ bytesOf 1 flags
        let wr := s.reg TIL_NLOG_WR t
        let va := s.fld TIL_NLOG_BASE_LO.BASE t * 32 + 2 ^ 32 * s.fld TIL_NLOG_BASE_HI.BASE t + 32 * wr
        match s.put j.ptn va e with
        | (.error (.mmu f), s) =>
          let s := s.mmuFault j.ptn va true false { kind := 9, unit := t, handle := 0, job := k.job, tag := j.tag } f
          (s.setFld TIL_NLOG_STAT.FAULT 1 t).incSat TIL_NLOG_STAT.LOST 1 t
        | (.error (.code _), s) => (s.setFld TIL_NLOG_STAT.FAULT 1 t).incSat TIL_NLOG_STAT.LOST 1 t
        | (.ok _, s) =>
          let s := s.setReg TIL_NLOG_WR (wr + 1) t
          if wr + 1 = 2 ^ s.fld TIL_NLOG_CFG.LOG2SIZE t then s.setFld TIL_NLOG_STAT.FULL 1 t else s
  | _, _ => s

/-! ## Faults (R128, R129) -/

def tfIllegal : Nat := 0x0F00
def tfPcRange : Nat := 0x0F01
def tfLoopOvf : Nat := 0x0F02
def tfTrap : Nat := 0x0F03
def tfShadow : Nat := 0x0F04
def tfMemRange : Nat := 0x0F05
def tfSemDenied : Nat := 0x0F06
def tfArrFeedRange : Nat := 0x0F08
def tfArrState : Nat := 0x0F09
def tfEleKernel : Nat := 0x0F0A
def tfEleDest : Nat := 0x0F0B
def tfStmDesc : Nat := 0x0F0C
def tfStmList : Nat := 0x0F0D
def tfStmNearRange : Nat := 0x0F0E
def tfStmAlign : Nat := 0x0F0F
def tfCairn : Nat := 0x0F10
/-- (log 100: DEDUCED) -/
def tfMigrated : Nat := 0x0F11

/-- A tile fault of the bundle at PC: operations in flight complete, the tile stops, TIL_FAULT captures the fault unless
one is held, an event is raised and the job fails. -/
def State.tileFault (s : State) (t code slot : Nat) (extra : List (Nat × Nat) := []) : State :=
  let pc := (s.tile t).pc % 4096
  let s := s.drainTile t
  let s := if s.flag TIL_FAULT.VALID t then s
    else s.setReg TIL_FAULT (2 ^ 31 + slot * 2 ^ 28 + pc * 2 ^ 12 + (code - 0x0F00) % 256) t
  match (s.tile t).task with
  | none => s.stopTile t
  | some k =>
    let s := s.jobEvent k.job evTileFault t ([w32 code, w32 slot, w32 pc] ++ extra)
    (s.stopTile t).failTask k.job code k.fallback

/-- A fault that a tile's stream engine meets on the far side or in a list: the job ends with the code, and the tile stops
(R227). -/
def State.streamFault (s : State) (t d blk code : Nat) : State :=
  let s := if s.flag STM_FAULT.VALID t then s
    else (s.setReg STM_FAULT (2 ^ 31 + d * 2 ^ 16 + code) t).setReg STM_FAULT_BLK blk t
  if 0x0F00 ≤ code then s.tileFault t code 7
  else
    match (s.tile t).task with
    | none => s.stopTile t
    | some k => (s.stopTile t).failTask k.job code k.fallback

end Sys2Proof.Machine
end

