-- ==== Sys2Proof/Machine/Matrix.lean ====
section
/-! DEFINITION. The matrix array (chapter 05): the checks of R138, the arithmetic of R142-R145 and R148, and what
dispatch, completion and gap fill do. -/
namespace Sys2Proof.Machine

/-! ## Configuration and state as judged at issue (R138) -/

/-- Format and split mode of the latest MCFG issued. -/
def Tile.issuedCfg (x : Tile) : Nat × Nat :=
  match (x.mq.filter fun m => m.op == 1).getLast? with
  | some m => (m.fmt, m.split)
  | none => (x.fmt, x.split)

def Tile.wts (x : Tile) (sub : Nat) : Weights := x.weights.getD sub {}

/-- A weight block has been issued for the sub-array since the last MCFG issued or task start, whether it has loaded or not. -/
def Tile.hasWeights (x : Tile) (sub : Nat) : Bool := bit x.issuedW sub

def Tile.region (x : Tile) (set q : Nat) : AccRegion := x.regions.getD (set * 4 + q) {}

/-- The region of a quadrant after an MMUL. -/
def startedBy (m : MOp) (r : AccRegion) : AccRegion :=
  { r with empty := false, fmt := m.fmt, split := m.split, anchor := m.anchor }

/-- The active set's region of quadrant q as the MMULs issued so far leave it, whether they have run or not. -/
def Tile.judgedRegion (x : Tile) (q : Nat) : AccRegion := x.issuedRegions.getD (x.activeSet * 4 + q) {}

/-- What the checks of later bundles know of an entry that issues (R138). -/
def Tile.noteIssued (x : Tile) (m : MOp) : Tile :=
  match m.op with
  | 1 => { x with issuedW := 0 }
  | 2 => { x with issuedW := x.issuedW ||| 2 ^ m.sub }
  | _ =>
    { x with issuedRegions := (List.range 4).foldl (fun r q =>
        if bit (quadsOf m.split m.sub) q then r.put (x.activeSet * 4 + q) (startedBy m (x.judgedRegion q)) else r) x.issuedRegions }

/-- Signed anchor of an MMUL, IMM[9:1]. -/
def MSlot.anchor (m : MSlot) : Int := sext 9 (m.imm.toNat / 2)

/-- The operation that an M slot queues, with the operands it reads. -/
def Tile.mopOf (x : Tile) (m : MSlot) : MOp :=
  let (f, sp) := x.issuedCfg
  if m.o = 1 then { op := 1, fmt := bits m.imm.toNat 3 0, split := bits m.imm.toNat 5 4 }
  else
    { op := m.o, sub := m.sub.toNat, base := (x.sr m.sa.toNat).toNat,
      rows := if m.o = 3 then (x.sr m.sb.toNat).toNat else 0,
      add := m.o = 3 ∧ m.imm.getLsbD 0, anchor := if m.o = 3 then m.anchor else 0, fmt := f, split := sp, pc := x.pc }

/-- The fault of an M operation at issue, if it has one (R137, R138). (log 41: DEDUCED) -/
def Tile.arrFault (x : Tile) (m : MSlot) : Option Nat :=
  if m.o ≠ 2 ∧ m.o ≠ 3 then none
  else
    let p := x.mopOf m
    match subArray p.split p.sub with
    | none => some tfIllegal
    | some a =>
      if p.op = 2 then
        if 3583 < p.base + weightRows p.fmt a.w - 1 then some tfArrFeedRange else none
      else if p.rows = 0 ∨ a.maxM < p.rows ∨ (p.anchor ≠ 0 ∧ ¬arrMx p.fmt) then some tfIllegal
      else if 3583 < p.base + p.groups + 63 then some tfArrFeedRange
      else if ¬x.hasWeights p.sub then some tfArrState
      else if p.add ∧ ((List.range 4).any fun q =>
          bit (quadsOf p.split p.sub) q &&
            (let r := x.judgedRegion q
             !r.empty && (r.fmt != p.fmt || r.split != p.split || r.anchor != p.anchor))) then some tfArrState
      else none

/-- The array is idle and its queue empty (R147). -/
def Tile.arrIdle (x : Tile) : Bool := x.mq.isEmpty && x.loading.isEmpty && x.running.isEmpty

/-- Every earlier MMUL has completed (R146). -/
def Tile.mmulsDone (x : Tile) : Bool := x.running.isEmpty && !(x.mq.any fun m => m.op == 3)

/-! ## Feed words -/

/-- The word in lane i of feed row r as an operation reads it: where bytes of it have been written over against R141,
the older word or the new one, as a bit of `seed` says. (log 35: DESIGN CHOICE) -/
def State.feedWord (s : State) (t : Nat) (old : Table Byte) (seed r i : Nat) : Nat :=
  let off := feedOff r i 0
  let new := s.read (tileMemBase t + off) 4
  let was := (List.range 4).map fun b => (old.find? (off + b)).getD (new.getD b 0)
  if bit seed (r * 64 + i) then ofBytes was else ofBytes new

/-- A word of a weight block, row u of the block, lane i. (log 35: DESIGN CHOICE) -/
def WBlock.word (w : WBlock) (seed u i : Nat) : Nat :=
  let was := (w.bytes.drop (256 * u + 4 * i)).take 4
  let off := feedOff (w.base + u) i 0
  let new := (List.range 4).map fun b => (w.newer.find? (off + b)).getD (was.getD b 0)
  if bit seed (u * 64 + i) then ofBytes new else ofBytes was

/-- Element e of a feed word. -/
def feedElt (fmt word e : Nat) : Nat :=
  let b := 32 / arrK fmt
  word / 2 ^ (b * e) % 2 ^ b

/-! ## Elements (R131, R143, R144) -/

/-- The R153 code of a fixed-point array format. -/
def arrCode (fmt : Nat) : Nat :=
  match fmt with
  | 0x3 => 0x06
  | 0x4 => 0x07
  | 0x5 => 0x0C
  | 0x6 => 0x0D
  | 0x7 => 0x0E
  | 0x8 => 0x0F
  | 0x9 => 0x10
  | 0xA => 0x11
  | 0xB => 0x09
  | 0xD => 0x0A
  | _ => 0x08

/-- An element of the integer or fixed-point kinds in units of half the product's LSB exponent; none for a NaN or an
infinity. -/
def fixElt (fmt : Nat) (act : Bool) (c : Nat) : Option Int :=
  match fmt with
  | 0x0 => some (sext 8 c)
  | 0x1 => some (if act then (c % 256 : Nat) else sext 8 c)
  | 0x2 => some (sext 4 c)
  | 0xE => some (sext 8 c)
  | 0xA => some (sext 8 c)
  | _ =>
    match fmtBin (arrCode fmt) with
    | none => none
    | some f =>
      let c := c % 2 ^ f.width
      if (fmt = 3 ∨ fmt = 4) ∧ f.isSub c then some 0
      else
        match f.decode c with
        | .fin neg m e => some ((if neg then -1 else 1) * (m * 2 ^ (e + (-(arrLsb fmt) / 2)).toNat : Nat))
        | _ => none

/-- An element of the FP32 kind as an FP32 code, subnormals flushed: of 16 bits to +0 (R160), of FP32 to zero with their sign. -/
def fpElt (fmt c : Nat) : Nat :=
  match fmtBin (arrCode fmt) with
  | none => 0
  | some f =>
    let c := c % 2 ^ f.width
    if f.isSub c then (if f.width = 32 then fp32.signed (f.sign c) 0 else 0)
    else
      match f.decode c with
      | .fin neg m e => (ieeeQ fp32 .rne (dyadic neg m e) neg).1
      | .inf neg => fp32.signed neg 0x7F800000
      | .nan => fp32.openNan c 0 0

/-- The element is a subnormal that flushes on input. (log 30: DEDUCED) -/
def eltFlush (fmt c : Nat) : Bool :=
  if fmt = 3 ∨ fmt = 4 ∨ arrKind fmt = 2 then
    match fmtBin (arrCode fmt) with
    | some f => f.isSub (c % 2 ^ f.width)
    | none => false
  else false

/-! ## FP32 chains (R143) -/

/-- An FP32 result with overflow held at the largest finite value and subnormals flushed. -/
def chainRound (r : Nat × Nat) : Nat × Cnt :=
  let (c, fl) := r
  if fl / flOF % 2 = 1 then (fp32.signed (fp32.sign c) fp32.top, .sat)
  else if fp32.isSub c then (fp32.signed (fp32.sign c) 0, .flush)
  else if c % 2 ^ 31 = 0 ∧ fl / flUF % 2 = 1 then (c, .flush)
  else (c, .none)

/-- Add the products of a half-chain in order. -/
def chainSum (c : Nat) (k : Counts) : List Nat → Nat × Counts
  | [] => (c, k)
  | p :: ps =>
    let (d, n) := chainRound (fAdd fp32 .rne c p)
    chainSum d (k.add n) ps

/-- A half-chain: the first product, then the others added to it. -/
def halfChain (ps : List (Nat × Cnt)) : Nat × Counts :=
  let k := countAll (ps.map (·.2))
  match ps.map (·.1) with
  | [] => (0, k)
  | p :: rest => chainSum p k rest

/-- The value of a finite FP32 code in units of 2^-298; none for the others. -/
def units298 (c : Nat) : Option Int :=
  match fp32.decode c with
  | .fin neg m e => some ((if neg then -1 else 1) * (m * 2 ^ (e + 298).toNat : Nat))
  | _ => none

/-- A sum of values, none where one is not finite. -/
def sumOpt (xs : List (Option Int)) : Option Int :=
  xs.foldl (fun a x => match a, x with
    | some a, some x => some (a + x)
    | _, _ => none) (some 0)

/-- The pair test of R148 for the FP32 kind, values in units of 2^-298: a pair that is not finite is not compared. -/
def pairOk (tol : Nat) (x y : Option Int) (p : Nat) : Bool :=
  match x, y with
  | some x, some y =>
    let m := max (max x.natAbs y.natAbs) p
    let e := max (m.log2 : Int) (298 - 126)
    decide ((x - y).natAbs ≤ tol * 2 ^ (e - 23).toNat)
  | _, _ => true

/-! ## One MMUL -/

/-- The operands of an MMUL as read: activation codes by row m and array row, weight codes by array row and column,
scale codes by row and column for both K blocks. -/
structure MulIn where
  fmt : Nat
  split : Nat
  sub : SubArray
  m : Nat
  act : List (List Nat)
  wt : List (List Nat)
  sa : List (List Nat)
  sw : List (List Nat)

/-- Entry (i, j) of a table of codes. -/
def at2 (xs : List (List Nat)) (i j : Nat) : Nat := (xs.getD i []).getD j 0

/-- Read the operands of an MMUL. -/
def State.mulIn (s : State) (t : Nat) (p : MOp) (a : SubArray) (seedA seedW : Nat) : MulIn :=
  let k := arrK p.fmt
  let blk : WBlock := p.block.getD { base := 0, bytes := [] }
  let sRow := p.base + p.groups + 63
  let sByte := fun n => bits (s.feedWord t p.old seedA sRow (n / 4)) (8 * (n % 4) + 7) (8 * (n % 4))
  let wRow := a.w / k
  let wByte := fun n => bits (blk.word seedW wRow (n / 4)) (8 * (n % 4) + 7) (8 * (n % 4))
  { fmt := p.fmt, split := p.split, sub := a, m := p.rows,
    act := (List.range (p.groups * k)).map fun m => (List.range a.h).map fun i =>
      feedElt p.fmt (s.feedWord t p.old seedA (p.base + m / k + (a.row0 + i)) (a.row0 + i)) (m % k),
    wt := (List.range a.h).map fun i => (List.range a.w).map fun x =>
      feedElt p.fmt (blk.word seedW (x / k) (a.row0 + i)) (x % k),
    sa := if arrMx p.fmt then (List.range p.rows).map fun m => [sByte (2 * m), sByte (2 * m + 1)] else [],
    sw := if arrMx p.fmt then (List.range 2).map fun b => (List.range a.w).map fun x => wByte (64 * b + a.col0 + x)
      else [] }

/-- FLUSH of the operand elements that the MMUL reads (R143, R144). Lanes 2p + 1 of a complex weight block are not
read (R136). (log 30: DEDUCED) -/
def MulIn.inputFlush (x : MulIn) : Nat :=
  let f := fun (row : List Nat) => (row.filter (eltFlush x.fmt)).length
  let ws := if arrComplex x.fmt then
      (List.range x.sub.h).map fun i => if i % 2 = 0 then f (x.wt.getD i []) else 0
    else x.wt.map f
  (x.act.map f).foldl (· + ·) 0 + ws.foldl (· + ·) 0

/-- The signed pairs (activation row, weight row, weight column, subtract) whose products entry column `c` sums over
array row i (R135, R136). -/
def MulIn.term (x : MulIn) (i c : Nat) : Nat × Nat × Bool :=
  if arrComplex x.fmt then
    let l := c / 2
    if c % 2 = 0 then
      if i % 2 = 0 then (i, 2 * l, false) else (i - 1, 2 * l + 1, true)
    else
      if i % 2 = 0 then (i, 2 * l + 1, false) else (i - 1, 2 * l, false)
  else (i, c, false)

/-- One product of the integer and fixed-point kinds in LSB units, with its count: for an anchored format it is cut
toward zero at the LSB (R145). -/
def MulIn.product (x : MulIn) (anchor : Int) (m i c : Nat) : Int × Cnt :=
  let (wi, wc, neg) := x.term i c
  match fixElt x.fmt true (at2 x.act m i), fixElt x.fmt false (at2 x.wt wi wc) with
  | some a, some w =>
    let v := if neg then -(a * w) else a * w
    if arrMx x.fmt then
      let b := (x.sub.row0 + i) / 32
      let sa := at2 x.sa m b
      let sw := at2 x.sw b c
      if sa = 0xFF ∨ sw = 0xFF then (0, .nan)
      else
        let sh : Int := (sa : Int) + sw - 254 - anchor
        if 0 ≤ sh then (v * 2 ^ sh.toNat, .none)
        else
          let d : Int := 2 ^ (-sh).toNat
          (Int.tdiv v d, if Int.tmod v d = 0 then .none else .flush)
    else (v, .none)
  | _, _ => (0, .nan)

/-- The contribution to entry (m, c) of the integer and fixed-point kinds. (log 29: DEDUCED) -/
def MulIn.fixEntry (x : MulIn) (anchor : Int) (m c : Nat) : Int × Counts :=
  (List.range x.sub.h).foldl (fun acc i =>
    let (v, k) := x.product anchor m i c
    (acc.1 + v, acc.2.add k)) (0, {})

/-- One product of the FP32 kind as a code: exact for BF16 and FP16 operands, rounded to nearest even for FP32. -/
def MulIn.fpProduct (x : MulIn) (m i c : Nat) : Nat × Cnt :=
  let (wi, wc, neg) := x.term i c
  let (p, k) := chainRound (fMul fp32 .rne (fpElt x.fmt (at2 x.act m i)) (fpElt x.fmt (at2 x.wt wi wc)))
  (if neg then fNeg fp32 p else p, k)

/-- The exact product in units of 2^-298. -/
def MulIn.exactProduct (x : MulIn) (m i c : Nat) : Option Int :=
  let (wi, wc, neg) := x.term i c
  match units298 (fpElt x.fmt (at2 x.act m i)), units298 (fpElt x.fmt (at2 x.wt wi wc)) with
  | some a, some w => some (let v := a * w / 2 ^ 298; if neg then -v else v)
  | _, _ => none

/-- Array-row halves of the sub-array, as lists of its own row numbers. -/
def SubArray.halves (a : SubArray) : List (List Nat) :=
  if a.h = 64 then [List.range 32, (List.range 32).map (32 + ·)] else [List.range 32]

/-- The contribution to entry (m, c) of the FP32 kind, with its half-chains. -/
def MulIn.fpEntry (x : MulIn) (m c : Nat) : Nat × Counts × List Nat :=
  let hs := x.sub.halves.map fun rows => halfChain (rows.map fun i => x.fpProduct m i c)
  match hs with
  | [(a, ka), (b, kb)] =>
    let (d, n) := chainRound (fAdd fp32 .rne a b)
    (d, (ka.sum kb).add n, [a, b])
  | [(a, ka)] => (a, ka, [a])
  | _ => (0, {}, [])

/-- The checks of R148 for the FP32 kind, over the half-chains of every entry. -/
def MulIn.fpChecks (x : MulIn) (tol : Nat) (halves : List (List (List Nat))) : Bool :=
  let quadCols := if x.sub.w = 64 then [List.range 32, (List.range 32).map (32 + ·)] else [List.range 32]
  let rowsOf := x.sub.halves
  let contrib := fun (h m c : Nat) => units298 (((halves.getD m []).getD c []).getD h 0)
  let prods := fun (m : Nat) (rows cols : List Nat) => rows.flatMap fun i => cols.map fun c => x.exactProduct m i c
  let big := fun (ps : List (Option Int)) => ps.foldl (fun b v => max b ((v.getD 0).natAbs)) 0
  (List.range rowsOf.length).all fun h =>
    let rows := rowsOf.getD h []
    quadCols.all fun cols =>
      ((List.range x.m).all fun m =>
        let ps := prods m rows cols
        pairOk tol (sumOpt (cols.map (contrib h m))) (sumOpt ps) (big ps)) &&
      (cols.all fun c =>
        let ps := (List.range x.m).flatMap fun m => prods m rows [c]
        pairOk tol (sumOpt ((List.range x.m).map fun m => contrib h m c)) (sumOpt ps) (big ps))

/-! ## Accumulation (R142) -/

def accKey (set row col : Nat) : Nat := set * 4096 + row * 64 + col

def Tile.entry (x : Tile) (set row col : Nat) : BitVec 96 := x.acc.getD (accKey set row col) 0

def Tile.setEntry (x : Tile) (set row col : Nat) (v : BitVec 96) : Tile :=
  { x with acc := x.acc.set (fun _ => 0) (accKey set row col) v }

/-- Add a contribution to an integer or fixed-point entry. -/
def addEntry (kind : Nat) (old new : Int) : Int × Cnt :=
  let top : Int := if kind = 0 then 2 ^ 47 else 2 ^ 95
  let v := old + new
  (clampInt (-top) (top - 1) v, if v < -top ∨ top - 1 < v then .sat else .none)

/-- One row's new entries and counts: `old` gives each entry as the sum starts from it. -/
structure MulOut where
  entries : List (Nat × Nat × BitVec 96)
  counts : Counts
  ok : Bool

/-- What an MMUL computes from its operands: the new entries by region row and column, the counts and whether the FP32
checks pass (those of the exact kinds always do on sound cells). -/
def mulCompute (x : MulIn) (anchor : Int) (add : Bool) (tol : Nat) (old : Nat → Nat → BitVec 96) : MulOut :=
  let kind := arrKind x.fmt
  let r0 := x.sub.regRow
  let cells := (List.range x.m).flatMap fun m => (List.range x.sub.w).map fun c => (m, c)
  let k0 : Counts := { flush := x.inputFlush }
  if kind = 2 then
    let es := cells.map fun p => (p, x.fpEntry p.1 p.2)
    let outs := es.map fun e =>
      let ((m, c), v, k, _) := e
      let nan := decide (fp32.decode v = FVal.nan)
      let (r, n) := if add then chainRound (fAdd fp32 .rne ((old (r0 + m) (x.sub.col0 + c)).toNat % 2 ^ 32) v) else (v, .none)
      ((r0 + m, x.sub.col0 + c, BitVec.ofNat 96 r), (k.add n).add (if nan then Cnt.nan else Cnt.none))
    let halves := (List.range x.m).map fun m => (es.filter fun e => e.1.1 == m).map fun e => e.2.2.2
    { entries := outs.map (·.1), counts := outs.foldl (fun k o => k.sum o.2) k0, ok := x.fpChecks tol halves }
  else
    let outs := cells.map fun p =>
      let (v, k) := x.fixEntry anchor p.1 p.2
      let base : Int := if add then (old (r0 + p.1) (x.sub.col0 + p.2)).toInt else 0
      let (r, n) := addEntry kind base v
      ((r0 + p.1, x.sub.col0 + p.2, BitVec.ofInt 96 r), k.add n)
    { entries := outs.map (·.1), counts := outs.foldl (fun k o => k.sum o.2) k0, ok := true }

/-! ## Dispatch and completion (R139, R148-R150) -/

/-- Set the FAILED flag of the regions of the quadrants `qs` of the active set. -/
def Tile.failRegions (x : Tile) (qs : Nat) : Tile :=
  { x with regions := (List.range 4).foldl (fun r q =>
      if bit qs q then r.put (x.activeSet * 4 + q) { x.region x.activeSet q with failed := true } else r) x.regions }

/-- A queued operation on a SUSPECT quadrant is skipped. -/
def Tile.skips (x : Tile) (m : MOp) : Bool := decide (x.skipQuads &&& quadsOf m.split m.sub ≠ 0)

/-- The queue's head dispatches, if its conditions hold (R139, R150). -/
def Tile.dispatch (x : Tile) : Tile :=
  match x.mq with
  | [] => x
  | m :: rest =>
    let w := x.wts m.sub
    if m.op = 1 then
      if x.running.isEmpty && x.loading.isEmpty then
        { x with mq := rest, fmt := m.fmt, split := m.split, weights := .empty }
      else x
    else if m.op = 2 then
      if x.skips m then { x with mq := rest }
      else if w.shadow.isNone && !(x.loading.any fun k => k.sub == m.sub) then
        { x with mq := rest, loading := x.loading ++ [m] }
      else x
    else
      if x.skips m then { x with mq := rest }.failRegions (quadsOf m.split m.sub)
      else if x.loading.any fun k => k.sub == m.sub then x
      else
        let blk := if w.shadow.isSome then w.shadow else w.active
        { x with mq := rest, weights := x.weights.put m.sub { active := blk, shadow := none },
                 running := x.running ++ [{ m with block := blk }], started := x.started ||| 2 ^ m.sub,
                 fill := x.fill &&& (15 - quadsOf m.split m.sub) }

/-- A weight block has finished loading into the shadow register of `sub`. -/
def State.loadDone (s : State) (t sub : Nat) : State :=
  let x := s.tile t
  match x.loading.find? fun m => m.sub == sub with
  | none => s
  | some m =>
    match subArray m.split m.sub with
    | none => s
    | some a =>
      let (seed, s) := if m.old.rows.isEmpty then (0, s) else s.draw
      let rows := weightRows m.fmt a.w
      let bytes := (List.range rows).flatMap fun u => (List.range 64).flatMap fun i =>
        bytesOf 4 (s.feedWord t m.old seed (m.base + u) i)
      s.modTile t fun x =>
        { x with loading := x.loading.filter fun k => k.sub != sub,
                 weights := x.weights.put sub { x.wts sub with shadow := some { base := m.base, bytes := bytes } } }

/-- Drop the first running MMUL of a sub-array. -/
def dropRunning (sub : Nat) : List MOp → List MOp
  | [] => []
  | m :: ms => if m.sub = sub then ms else m :: dropRunning sub ms

/-- Mark the first running MMUL of a sub-array as a replay. -/
def markRetry (sub : Nat) : List MOp → List MOp
  | [] => []
  | m :: ms => if m.sub = sub then { m with retry := true } :: ms else m :: markRetry sub ms

/-- Dummy steps start on a sub-array with no MMUL left to run (R151). (log 36: DESIGN CHOICE) -/
def Tile.startFill (x : Tile) (en : Bool) (m : MOp) : Tile :=
  if en && !(x.running.any fun k => k.sub == m.sub) then { x with fill := x.fill ||| quadsOf m.split m.sub } else x

/-- Dummy steps on the quadrants `qs` end: how many cycles they took, and what their LFSRs have come to, is open (R151).
(log 36: DESIGN CHOICE) -/
def State.endFill (s : State) (t qs : Nat) : State :=
  let x := s.tile t
  if qs &&& x.fill = 0 then s
  else
    let (n, s) := s.draw
    let (l, s) := s.draw
    let lfsr := (bitsSet 4 (qs &&& x.fill)).foldl (fun (m : Table Word) q => m.put q (BitVec.ofNat 32 (l / 2 ^ (32 * q)))) x.lfsr
    (s.setTile t { x with fill := x.fill - (qs &&& x.fill), lfsr := lfsr }).incSat ARR_FILLCYC.CYCLES n t

/-- The queue's head dispatches; an MMUL that starts ends the dummy steps of its sub-array. -/
def State.matrixDispatch (s : State) (t : Nat) : State :=
  let y := (s.tile t).dispatch
  (s.endFill t ((s.tile t).fill - y.fill)).modTile t Tile.dispatch

/-- A mismatch on the first run: the sub-array replays, and pauses for the reload of its weights (R149, R151). -/
def State.mulReplay (s : State) (t sub : Nat) : State :=
  let s := s.modTile t fun x =>
    { x with running := markRetry sub x.running, fill := if s.flag ARR_GAPFILL.EN t then x.fill ||| quadsOf x.split sub else x.fill }
  match (s.tile t).task with
  | some k => (s.modJob k.job fun j => { j with replay := satAdd j.replay 1 0xFFFFFFFF }).jobFlag k.job rfReplayed
  | none => s

/-- A mismatch that repeats (R150): nothing is committed; the region fails, the quadrants become SUSPECT, later work on them
is skipped, and the physical tile is retired. -/
def State.mulFailed (s : State) (t : Nat) (m : MOp) : State :=
  let s := s.incSat ARR_CKCNT.REPEATED 1 t
  let x := s.tile t
  let qs := quadsOf m.split m.sub
  let x := { x with suspect := x.suspect ||| qs, skipQuads := x.skipQuads ||| qs, mismatch := true, running := dropRunning m.sub x.running }
  let x := x.failRegions qs
  let gone := x.running.filter x.skips
  let x := gone.foldl (fun x k => x.failRegions (quadsOf k.split k.sub)) x
  let x := { x with running := x.running.filter fun k => !x.skips k, loading := x.loading.filter fun k => !x.skips k }
  (s.setTile t (x.startFill (s.flag ARR_GAPFILL.EN t) m)).retireTile (s.ptile t) causeMismatch

/-- Commit an MMUL: its entries, its region, its counts and its log entry. -/
def State.mulCommit (s : State) (t : Nat) (m : MOp) (o : MulOut) : State :=
  let x := s.tile t
  let x := o.entries.foldl (fun x e => x.setEntry x.activeSet e.1 e.2.1 e.2.2) x
  let x := { x with running := dropRunning m.sub x.running,
                    regions := (List.range 4).foldl (fun r q =>
                      if bit (quadsOf m.split m.sub) q then
                        r.put (x.activeSet * 4 + q) (startedBy m (x.region x.activeSet q)) else r) x.regions }
  let s := s.setTile t (x.startFill (s.flag ARR_GAPFILL.EN t) m)
  let s := if m.retry then (s.incSat ARR_CKCNT.CLEARED 1 t).tileTransient (s.ptile t) else s
  let s := s.addCounts t o.counts
  if o.counts = {} then s else s.numLog t logMmul m.pc m.sub o.counts 0 0 (b2n m.retry)

/-- The oldest MMUL of sub-array `sub` completes; `bad` when the array's comparison finds a mismatch that the operands do
not explain. (log 35: DESIGN CHOICE; log 36: DESIGN CHOICE) -/
def State.mulDone (s : State) (t sub : Nat) (bad : Bool) : State :=
  let x := s.tile t
  match x.running.find? fun m => m.sub == sub with
  | none => s
  | some m =>
    match subArray m.split m.sub with
    | none => s
    | some a =>
      let s := if m.retry then s.endFill t (quadsOf m.split m.sub) else s
      let (seedA, s) := if m.old.rows.isEmpty then (0, s) else s.draw
      let (seedW, s) := if m.retry && ((m.block.map fun b => !b.newer.rows.isEmpty).getD false) then s.draw else (0, s)
      let (cycles, s) := s.draw
      let s := s.incSat ARR_BUSYCYC.CYCLES cycles t
      let o := mulCompute (s.mulIn t m a seedA seedW) m.anchor m.add (s.fld ARR_CKTOL.ULP t) (x.entry x.activeSet)
      if ¬bad ∧ o.ok then s.mulCommit t m o
      else if m.retry then s.mulFailed t m
      else s.mulReplay t sub

end Sys2Proof.Machine
end

