-- ==== Sys2Proof/Machine/Element.lean ====
section
/-! DEFINITION. The element engine's single operations (R180-R184) and the accumulator window (R115, R181). -/
namespace Sys2Proof.Machine

/-! ## The accumulator window -/

/-- The released set. -/
def Tile.released (x : Tile) : Nat := 1 - x.activeSet

/-- The region of entry (m, j) of the released set. -/
def Tile.relRegion (x : Tile) (m j : Nat) : AccRegion := x.region x.released (m / 32 * 2 + j / 32)

/-- The tile as an operation sees it whose bundle found set `k` released. -/
def Tile.asReleased (x : Tile) (k : Nat) : Tile := { x with activeSet := 1 - k }

/-- The exact value of an entry (R170). -/
def entryValue (r : AccRegion) (e : BitVec 96) : RV :=
  match arrKind r.fmt with
  | 0 => .num (Q.ofInt e.toInt)
  | 1 => .num ((Q.ofInt e.toInt).mul (pow2 (arrLsb r.fmt + (if arrMx r.fmt then r.anchor else 0))))
  | _ => (fp32.decode (e.toNat % 2 ^ 32)).toRV

/-- The exact entry (m, j), zero for an Empty or FAILED region; whether the region is FAILED. -/
def Tile.accValue (x : Tile) (m j : Nat) : RV × Bool :=
  let r := x.relRegion m j
  if r.failed then (.num ⟨0, 1⟩, true)
  else if r.empty then (.num ⟨0, 1⟩, false)
  else (entryValue r (x.entry x.released m j), false)

/-- A lane result with its count and flags. -/
abbrev LaneOut := Nat × Cnt × Nat

/-- Lane j of window row m (R181). -/
def Tile.windowLane (x : Tile) (m j : Nat) : LaneOut :=
  let r := x.relRegion m j
  if r.failed ∨ r.empty then (0, .none, 0)
  else
    let e := x.entry x.released m j
    match arrKind r.fmt with
    | 0 =>
      let (v, k) := narrowI (-2147483648) 2147483647 0 (.num (Q.ofInt e.toInt))
      (toBits 32 v, if k = .flush then .none else k, 0)
    | 1 => narrow32 (entryValue r e)
    | _ => (e.toNat % 2 ^ 32, .none, 0)

/-! ## Lane arithmetic -/

/-- An INT32 result, saturating. -/
def int32 (v : Int) : LaneOut :=
  let c := clampInt (-2147483648) 2147483647 v
  (toBits 32 c, if c = v then .none else .sat, 0)

/-- A plain 32-bit result. -/
def plain (v : Nat) : LaneOut := (v % 2 ^ 32, .none, 0)

/-- An IEEE result. -/
def ieee (r : Nat × Nat) : LaneOut := (r.1, .none, r.2)

/-- The codes of R182: 7 is the dynamic mode of ELE_FPCSR. -/
def rmOf (code dyn : Nat) : Rm := Rm.ofCode (if code = 7 then dyn else code)

/-- A 32-bit lane operation of the E slot (R182) on va, vb and the old vd. -/
def eLane (o : Nat) (rm : Rm) (a b d : Nat) : LaneOut :=
  match o with
  | 0x03 => int32 (sext 32 a + sext 32 b)
  | 0x04 => int32 (sext 32 a - sext 32 b)
  | 0x05 => int32 (sext 32 a * sext 32 b)
  | 0x06 => plain (if sext 32 b < sext 32 a then b else a)
  | 0x07 => plain (if sext 32 a < sext 32 b then b else a)
  | 0x08 => ieee (fAdd fp32 rm a b)
  | 0x09 => ieee (fMul fp32 rm a b)
  | 0x0A => ieee (fFma fp32 rm a b d)
  | 0x0E => ieee (fDiv fp32 rm a b)
  | 0x0F => ieee (fSqrt fp32 rm a)
  | _ => plain 0

/-- A 64-bit lane-pair operation of the E slot. -/
def ePair (o : Nat) (rm : Rm) (a b d : Nat) : LaneOut :=
  match o with
  | 0x0B => ieee (fAdd fp64 rm a b)
  | 0x0C => ieee (fMul fp64 rm a b)
  | 0x0D => ieee (fFma fp64 rm a b d)
  | 0x10 => ieee (fDiv fp64 rm a b)
  | 0x11 => ieee (fSqrt fp64 rm a)
  | _ => (0, .none, 0)

/-- The result of a vector operation: 2,048 bits, counts, flags. -/
structure VOut where
  v : BitVec 2048
  counts : Counts := {}
  flags : Nat := 0
deriving DecidableEq, Repr

/-- Lanes of `w` bits packed, with their counts and flags. -/
def vOut (w : Nat) (ls : List LaneOut) : VOut :=
  { v := BitVec.ofNat 2048 (packCodes w (ls.map (·.1))), counts := countAll (ls.map fun l => l.2.1),
    flags := ls.foldl (fun f l => f ||| l.2.2) 0 }

/-- Lanes of three operands side by side. -/
def zip3 (f : Nat → Nat → Nat → LaneOut) : List Nat → List Nat → List Nat → List LaneOut
  | a :: as, b :: bs, c :: cs => f a b c :: zip3 f as bs cs
  | _, _, _ => []

/-! ## ECVT (R183, R184) -/

/-- An FP32 code as a value. -/
def rv32 (c : Nat) : RV := (fp32.decode c).toRV

/-- An element code widened to FP32: exact; a NaN's bits are open and it counts NAN. -/
def widen32 (r : RV × Cnt) (neg : Bool) : LaneOut :=
  match r.1 with
  | .nan => (fp32.openNan 0 0 1, .nan, 0)
  | .inf s => (fp32.signed s 0x7F800000, r.2, 0)
  | .num v => ((ieeeQ fp32 .rtz v (neg && r.2 == .none)).1, r.2, 0)

/-- FP32 to FP64: exact. (log 28: DEDUCED) -/
def cvt32to64 (c : Nat) : LaneOut :=
  match fp32.decode c with
  | .nan => (fp64.openNan c 0 0, .nan, if fp32.isSnan c then flNV else 0)
  | .inf s => (fp64.signed s 0x7FF0000000000000, .none, 0)
  | .fin s m e => ((ieeeQ fp64 .rtz (dyadic s m e) s).1, .none, 0)

/-- FP64 to FP32, narrowing; a zero keeps its sign. (log 28: DEDUCED) -/
def cvt64to32 (c : Nat) : LaneOut :=
  match fp64.decode c with
  | .fin s 0 _ => (fp32.signed s 0, .none, 0)
  | .nan => (fp32.openNan c 0 0, .nan, if fp64.isSnan c then flNV else 0)
  | v => narrow32 v.toRV

/-- The R153 format that an ECVT code packs into or out of. -/
def ecvtFmt (c : Nat) : Nat :=
  match c / 2 with
  | 2 => 0x08
  | 3 => 0x09
  | 4 => 0x06
  | 5 => 0x07
  | 6 => 0x03
  | 7 => 0x01
  | 8 => 0x02
  | _ => 0x00

/-- MX encoding of 64 FP32 or exact values: the packed register, scales in bytes 252 and 253, and the counts by lane. -/
def mxPack (fmt : Nat) (xs : List RV) : VOut × List Cnt :=
  let (s0, b0) := mxEncode fmt (xs.take 32)
  let (s1, b1) := mxEncode fmt (xs.drop 32)
  let es := b0 ++ b1
  ({ v := BitVec.ofNat 2048 (packCodes (fmtBits fmt) (es.map (·.1)) + s0 * 2 ^ (8 * 252) + s1 * 2 ^ (8 * 253)),
     counts := countAll (es.map (·.2)) }, es.map (·.2))

/-- One element of an MX register as FP32: value * 2^(s - 127), narrowed once. -/
def mxUnpackLane (fmt sc c : Nat) : LaneOut :=
  if sc = 0xFF then (fp32.openNan 0 0 1, .nan, 0)
  else
    match (readCode fmt c).1 with
    | .num v => narrow32 (.num (v.mul (pow2 ((sc : Int) - 127))))
    | r => narrow32 r

def ecvt (code : Nat) (va : BitVec 2048) : VOut :=
  let x := va.toNat
  let lanes := codesOf 32 64 x
  if code = 0x00 then vOut 32 (lanes.map fun c => narrow32 (.num (Q.ofInt (sext 32 c))))
  else if code = 0x01 then
    vOut 32 (lanes.map fun c =>
      let (v, k) := narrowI (-2147483648) 2147483647 0 (rv32 c)
      (toBits 32 v, k, 0))
  else if code = 0x02 then vOut 64 ((lanes.take 32).map cvt32to64)
  else if code = 0x03 then vOut 32 ((codesOf 64 32 x).map cvt64to32)
  else if code = 0x14 then
    vOut 32 (lanes.map fun c =>
      let (v, k) := narrowI (-8388608) 8388607 0 (.num (Q.ofInt (sext 32 c)))
      (toBits 32 v, k, 0))
  else if 0x18 ≤ code ∧ code ≤ 0x1D then (mxPack (code - 0x18 + 0x0C) (lanes.map rv32)).1
  else if 0x20 ≤ code then
    let fmt := code - 0x20 + 0x0C
    let sc := fun l => x / 2 ^ (8 * (252 + l / 32)) % 256
    let cs := codesOf (fmtBits fmt) 64 x
    vOut 32 ((List.range 64).map fun l => mxUnpackLane fmt (sc l) (cs.getD l 0))
  else
    let fmt := ecvtFmt code
    let b := fmtBits fmt
    let fromInt := decide (0x0C ≤ code)
    if code % 2 = 0 then
      vOut b (lanes.map fun c => narrowTo fmt (if fromInt then .num (Q.ofInt (sext 32 c)) else rv32 c))
    else if fromInt then vOut 32 ((codesOf b 64 x).map fun c => plain (toBits 32 (intCode fmt c)))
    else
      vOut 32 ((codesOf b 64 x).map fun c => widen32 (readCode fmt c) (bit c (b - 1)))

/-! ## Scale entries and ERQ (R167, R173) -/

/-- Scale entry i of tile t. -/
def State.scaleEntry (s : State) (t i : Nat) : ScaleEntry :=
  .ofWords (s.reg SCL_LO t (i % 4096)) (s.reg SCL_HI t (i % 4096))

def State.setScale (s : State) (t i : Nat) (e : ScaleEntry) : State :=
  (s.setReg SCL_LO e.scale t (i % 4096)).setReg SCL_HI e.hiWord t (i % 4096)

/-- The s register of ERQ: DBASE, QBASE, output format. -/
def erqFields (w : Word) : Nat × Nat × Nat := (bits w.toNat 11 0, bits w.toNat 23 12, bits w.toNat 28 24)

/-- An output code that ERQ permits, and no reserved bit set. -/
def erqOk (w : Word) : Bool :=
  let f := bits w.toNat 28 24
  (decide (f ≤ 0x09) || fmtIsMx f) && bits w.toNat 31 29 == 0

/-- r of a lane with its count: an integer code under R171, or an FP32 value. -/
def erqIn (fp : Bool) (d : ScaleEntry) (c : Nat) : RV × Cnt :=
  if fp then (rv32 c, .none) else dequantCode d (sext 32 c)

/-- Requantise 64 lanes to a format, packed (R172, R184); `qs` and `rs` by lane, the counts of forming r joined. -/
def requantPack (fmt : Nat) (qs : List ScaleEntry) (rs : List (RV × Cnt)) : VOut × List Cnt :=
  if fmtIsMx fmt then
    let ins := (qs.zip rs).map fun p =>
      if p.1.const then (RV.num ⟨0, 1⟩, p.2.2.join (requantConst p.1 p.2.1))
      else
        let (v, k) := requantMx p.1 p.2.1
        (v, p.2.2.join k)
    let (o, ks) := mxPack fmt (ins.map (·.1))
    let all := (ins.zip ks).map fun p => p.1.2.join p.2
    ({ o with counts := countAll all }, all)
  else
    let outs := (qs.zip rs).map fun p =>
      let (c, k, f) := requant p.1 fmt p.2.1
      (c, p.2.2.join k, f)
    (vOut (fmtBits fmt) outs, outs.map fun o => o.2.1)

def State.erq (s : State) (t : Nat) (w : Word) (fp : Bool) (va : BitVec 2048) : VOut :=
  let (db, qb, fmt) := erqFields w
  let lanes := codesOf 32 64 va.toNat
  let rs := (List.range 64).map fun l => erqIn fp (s.scaleEntry t (db + l)) (lanes.getD l 0)
  let qs := (List.range 64).map fun l => s.scaleEntry t (qb + l)
  (requantPack fmt qs rs).1

/-! ## EAMAX (R182) -/

/-- The largest INT32 magnitude; 2^31 saturates and counts once. -/
def amaxInt (ls : List Nat) : LaneOut :=
  let m := ls.foldl (fun m c => max m (sext 32 c).natAbs) 0
  if 2147483647 < m then (2147483647, .sat, 0) else (m, .none, 0)

/-- The largest FP32 magnitude over lanes that are not NaN; +0 when every lane is. -/
def amaxFp (ls : List Nat) : LaneOut :=
  (ls.foldl (fun m c => if fp32.decode c = .nan then m else max m (fAbs fp32 c)) 0, .none, 0)

/-! ## A single operation -/

/-- The result of an E-slot operation other than EKRUN on the registers as the bundle finds them. -/
def State.eResult (s : State) (t : Nat) (e : ESlot) : VOut :=
  let x := s.tile t
  let o := e.o
  let aux := e.aux.toNat
  let va := x.vr e.va.toNat
  let vb := x.vr e.vb.toNat
  let vd := x.vr e.vd.toNat
  let rm := rmOf (aux % 8) (s.fld ELE_FPCSR.RM t)
  if o = 0x02 then vOut 32 ((List.range 64).map (x.windowLane (aux % 64)))
  else if (0x0B ≤ o ∧ o ≤ 0x0D) ∨ o = 0x10 ∨ o = 0x11 then
    vOut 64 (zip3 (ePair o rm) (codesOf 64 32 va.toNat) (codesOf 64 32 vb.toNat) (codesOf 64 32 vd.toNat))
  else if o = 0x12 then ecvt aux va
  else if o = 0x13 then s.erq t (x.sr (aux % 32)) (aux / 32 == 1) va
  else if o = 0x14 then vOut 32 ((codesOf 32 64 va.toNat).map fun c => plain (s.reg ELE_LUT t (c % 256)))
  else if o = 0x15 then
    let ls := codesOf 32 64 va.toNat
    vOut 32 [if aux = 1 then amaxFp ls else amaxInt ls]
  else vOut 32 (zip3 (eLane o rm) (codesOf 32 64 va.toNat) (codesOf 32 64 vb.toNat) (codesOf 32 64 vd.toNat))

/-- Accumulate IEEE flags in ELE_FPCSR. -/
def State.addFlags (s : State) (t f : Nat) : State :=
  if f = 0 then s else s.setReg ELE_FPCSR (s.reg ELE_FPCSR t ||| f) t

end Sys2Proof.Machine
end

