-- ==== Sys2Proof/Machine/Kernel.lean ====
section
/-! DEFINITION. Element kernels (R185-R195): micro-ops, the checks of R189, the run descriptor of R190, one row of a run,
calibrating runs (R193) and rescale replays (R177, R194). -/
namespace Sys2Proof.Machine

/-! ## Micro-ops (R186-R188) -/

/-- A micro-op's fields. -/
structure KOp where
  last : Bool
  op : Nat
  kd : Nat
  sa : Nat
  sb : Nat
  sc : Nat
  rm : Nat
deriving DecidableEq, Repr

def KOp.decode (w : Nat) : KOp :=
  { last := bit w 31, op := bits w 30 25, kd := bits w 24 21, sa := bits w 20 15, sb := bits w 14 9, sc := bits w 8 3,
    rm := bits w 2 0 }

/-- How a micro-op uses SB and SC. -/
inductive KUse where
  | none | operand | imm (top : Nat)
deriving DecidableEq, Repr

/-- What a micro-op reads: SA is always an operand. `sc` and `sb` as operands or as immediates up to a value. -/
def kUse (o : Nat) : Option (KUse × KUse × Bool) :=
  match o with
  | 0x00 => some (.none, .none, false)
  | 0x01 => some (.operand, .none, false)
  | 0x02 => some (.operand, .none, false)
  | 0x03 => some (.operand, .none, false)
  | 0x04 => some (.none, .imm 31, false)
  | 0x05 => some (.none, .imm 31, false)
  | 0x06 => some (.none, .imm 31, false)
  | 0x07 => some (.operand, .none, false)
  | 0x08 => some (.operand, .none, false)
  | 0x09 => some (.operand, .none, false)
  | 0x0A => some (.operand, .none, false)
  | 0x0B => some (.operand, .none, false)
  | 0x0C => some (.none, .none, false)
  | 0x0D => some (.operand, .imm 5, false)
  | 0x0E => some (.operand, .operand, false)
  | 0x0F => some (.none, .none, false)
  | 0x10 => some (.none, .none, false)
  | 0x11 => some (.none, .none, false)
  | 0x12 => some (.none, .none, false)
  | 0x13 => some (.operand, .none, true)
  | 0x14 => some (.operand, .none, true)
  | 0x15 => some (.operand, .none, true)
  | 0x16 => some (.operand, .operand, true)
  | 0x17 => some (.operand, .none, true)
  | 0x18 => some (.none, .none, true)
  | 0x19 => some (.operand, .none, false)
  | 0x1A => some (.operand, .none, false)
  | 0x1B => some (.operand, .imm 5, false)
  | 0x1C => some (.operand, .none, true)
  | 0x1D => some (.operand, .none, true)
  | 0x1E => some (.operand, .operand, true)
  | 0x1F => some (.operand, .none, true)
  | 0x20 => some (.none, .none, true)
  | 0x21 => some (.imm 10, .imm 1, false)
  | 0x22 => some (.none, .none, false)
  | 0x23 => some (.none, .imm 1, false)
  | 0x24 => some (.none, .none, false)
  | 0x25 => some (.none, .none, false)
  | _ => none

/-- ACC as an operand code. -/
def kAcc : Nat := 0x10

/-- An operand code that exists, ACC aside. -/
def kOperand (c : Nat) : Bool := decide (c ≤ 0x13) && c != kAcc || decide (0x20 ≤ c)

def KUse.ok (u : KUse) (v : Nat) : Bool :=
  match u with
  | .none => v == 0
  | .operand => kOperand v
  | .imm top => decide (v ≤ top)

/-- The micro-op is as R189 requires. -/
def KOp.legal (k : KOp) : Bool :=
  match kUse k.op with
  | none => false
  | some (b, c, rounds) =>
    let accOk := k.op == 0x22 || k.op == 0x23 || k.op == 0x24 || k.op == 0x25
    let saOk := if k.op = 0x24 ∨ k.op = 0x25 then k.sa == kAcc else (kOperand k.sa || (accOk && k.sa == kAcc))
    saOk && b.ok k.sb && c.ok k.sc && (if rounds then roundAux k.rm else k.rm == 0)
      && !(k.op == 0x23 && k.sa == kAcc && k.sc != 0)

/-- The micro-op reads temporary k0. -/
def KOp.readsK0 (k : KOp) : Bool :=
  match kUse k.op with
  | none => false
  | some (b, c, _) =>
    k.sa == 0 || (b == .operand && k.sb == 0) || (c == .operand && k.sc == 0)
      || ((k.op == 0x0F || k.op == 0x10) && k.kd == 0)

/-- Micro-ops of a kernel from its words, up to the one with LAST. -/
def kTake : List Nat → Option (List KOp)
  | [] => none
  | w :: ws =>
    let k := KOp.decode w
    if k.last then some [k] else (kTake ws).map (k :: ·)

/-- A read of k0 comes after the RQ. (log 32: DEDUCED) -/
def k0AfterRq : List KOp → Bool
  | [] => false
  | k :: ks => if k.op = 0x23 then ks.any KOp.readsK0 else k0AfterRq ks

/-- The kernel of a run with output format `fmt` passes the checks of R189 that concern its micro-ops. -/
def kernelOk (ks : List KOp) (fmt : Nat) (cal : Bool) : Bool :=
  let rqs := ks.filter fun k => k.op == 0x23
  ks.all KOp.legal && decide (rqs.length ≤ 1)
    && (!fmtIsMx fmt || (decide (rqs.length = 1) && rqs.all (fun k => k.kd == 0) && !k0AfterRq ks))
    && (!cal || decide (rqs.length = 1))

/-- The micro-ops of kernel `n` of the image of `len` bytes in tile t's program memory; none where R189 faults.
(log 33: DEDUCED) -/
def State.readKernel (s : State) (t len n fmt : Nat) (cal : Bool) : Option (List KOp) :=
  let base := tileMemBase t + 0x1E0000
  let dir := len / 32 - 1
  let e := s.readNum (base + 32 * dir + 2 * n) 2
  if ¬bit e 15 ∨ bits e 14 12 ≠ 0 then none
  else
    let f := bits e 11 0
    let words := (List.range 64).map fun u => s.readNum (base + 32 * f + 4 * u) 4
    match kTake words with
    | none => none
    | some ks => if dir < f + (ks.length + 7) / 8 ∨ ¬kernelOk ks fmt cal then none else some ks

/-! ## The run descriptor (R190) -/

/-- Fields of a run descriptor. -/
structure KDesc where
  m0 : Nat
  count : Nat
  src : Nat
  dbase : Nat
  qbase : Nat
  fmt : Nat
  cal : Bool
  mem : Nat
  addr : Nat
  stride : Nat
  scaleRow : Nat
deriving DecidableEq, Repr

/-- (log 32: DEDUCED) -/
def KDesc.ofWords (ws : List Nat) : KDesc :=
  let w0 := ws.getD 0 0
  let w1 := ws.getD 1 0
  let w2 := ws.getD 2 0
  { m0 := bits w0 5 0, count := bits w0 12 6, src := bits w0 31 16, dbase := bits w1 11 0, qbase := bits w1 23 12,
    fmt := bits w1 28 24, cal := bit w1 29, mem := bits w2 1 0,
    addr := if bits w2 1 0 = 3 then bits w2 13 2 else bits w2 16 2, stride := bits w2 31 17, scaleRow := bits (ws.getD 3 0) 11 0 }

/-- Words of one output row in X or Y. -/
def rowWords (fmt : Nat) : Nat := fmtBits fmt / 2 + b2n (fmtIsMx fmt)

/-- Elements per feed word of an output format. -/
def feedPer (fmt : Nat) : Nat := 32 / fmtBits fmt

/-- The fault of a run descriptor, if it has one. -/
def kDescFault (va : Nat) (ws : List Nat) : Option Nat :=
  let d := KDesc.ofWords ws
  let w0 := ws.getD 0 0
  let w1 := ws.getD 1 0
  let w2 := ws.getD 2 0
  let w3 := ws.getD 3 0
  let scaled := d.mem == 3 && fmtIsMx d.fmt
  if 28 < va ∨ d.count = 0 ∨ 64 < d.count ∨ 64 < d.m0 + d.count ∨ bits w0 15 13 ≠ 0 ∨ bits w1 31 30 ≠ 0
      ∨ ¬(d.fmt ≤ 0x0A ∨ fmtIsMx d.fmt) ∨ (d.mem = 3 ∧ (bits w2 16 14 ≠ 0 ∨ bits w2 31 17 ≠ 0))
      ∨ w3 / 4096 ≠ 0 ∨ (¬scaled ∧ w3 ≠ 0) then some tfIllegal
  else if (d.mem = 1 ∨ d.mem = 2) ∧ d.stride < rowWords d.fmt then some tfEleDest
  else if d.mem = 3 ∧ 3583 < d.addr + (d.count - 1) / feedPer d.fmt + 63 then some tfEleDest
  else if scaled ∧ 3583 < d.scaleRow then some tfEleDest
  else none

/-- The words s[VA] to s[VA + 3]. -/
def Tile.kWords (x : Tile) (va : Nat) : List Nat := (List.range 4).map fun k => (x.sr (va + k)).toNat

/-- The fault of an E operation at issue, if it has one: ERQ's register (R173) and EKRUN's descriptor (R190). -/
def Tile.eleFault (x : Tile) (e : ESlot) : Option Nat :=
  if e.o = 0x13 then (if erqOk (x.sr (e.aux.toNat % 32)) then none else some tfIllegal)
  else if e.o = 0x01 then kDescFault e.va.toNat (x.kWords e.va.toNat)
  else none

/-! ## One row -/

/-- What a row's micro-ops read beside the temporaries. -/
structure KCtx where
  m : Nat
  acc : Nat → RV × Bool
  dEnt : Nat → ScaleEntry
  qEnt : Nat → ScaleEntry
  lut : Nat → Nat
  v : Nat → List Nat
  rmDyn : Nat
  fmt : Nat

/-- A row in progress: k0-k15 by lane, counts, flags, and what the RQ has made of each lane: r as presented, the MX
quotient and the count. -/
structure KRow where
  k : List (List Nat)
  counts : Counts := {}
  flags : Nat := 0
  presented : List RV := []
  quot : List (RV × Cnt) := []
  rqCnt : List Cnt := []

/-- The 64 lanes of an operand. -/
def KCtx.lanes (c : KCtx) (r : KRow) (code : Nat) : List Nat :=
  if code < 16 then r.k.getD code []
  else if code = 0x11 then List.replicate 64 c.m
  else if code = 0x12 then List.range 64
  else if 0x20 ≤ code then c.v (code - 0x20)
  else List.replicate 64 0

/-- Signed comparison codes of CMP and FCMP: 0 EQ, 1 NE, 2 LT, 3 LE, 4 GT, 5 GE. -/
def condOk (c : Nat) (o : Ordering) : Bool :=
  match c with
  | 0 => o == .eq
  | 1 => o != .eq
  | 2 => o == .lt
  | 3 => o != .gt
  | 4 => o == .gt
  | _ => o != .lt

def fcmpLane (c a b : Nat) : Nat × Nat :=
  match fCmp fp32 a b with
  | some o => (b2n (condOk c o), 0)
  | none => (b2n (c == 1), nanFlags fp32 [a, b] ||| (if 2 ≤ c then flNV else 0))

/-- Larger FP32 magnitude; a NaN yields the other. -/
def famaxLane (d a : Nat) : Nat :=
  if fp32.decode d = .nan then fAbs fp32 a
  else if fp32.decode a = .nan then fAbs fp32 d
  else max (fAbs fp32 d) (fAbs fp32 a)

/-- CVT (R188): from INT32 or FP32 to a code of R153. (log 28: DEDUCED) -/
def cvtLane (fmt : Nat) (fp : Bool) (a : Nat) : LaneOut :=
  if fp && fmt == 0x0A then (a, if fp32.decode a = .nan then .nan else .none, 0)
  else narrowTo fmt (if fp then rv32 a else .num (Q.ofInt (sext 32 a)))

/-- A 32-bit lane of a micro-op: SA, SB, SC and the old kd. (log 28: DEDUCED) -/
def KCtx.lane (c : KCtx) (k : KOp) (a b e d : Nat) : LaneOut :=
  let rm := rmOf k.rm c.rmDyn
  let sa := sext 32 a
  let sb := sext 32 b
  match k.op with
  | 0x00 => plain a
  | 0x01 => int32 (sa + sb)
  | 0x02 => int32 (sa - sb)
  | 0x03 => int32 (sa * sb)
  | 0x04 => plain (a * 2 ^ k.sc)
  | 0x05 => plain (toBits 32 (sa / 2 ^ k.sc))
  | 0x06 => plain (a / 2 ^ k.sc)
  | 0x07 => plain (a &&& b)
  | 0x08 => plain (a ||| b)
  | 0x09 => plain (a ^^^ b)
  | 0x0A => plain (if sb < sa then b else a)
  | 0x0B => plain (if sa < sb then b else a)
  | 0x0C => int32 sa.natAbs
  | 0x0D => plain (b2n (condOk k.sc (compare sa sb)))
  | 0x0E => plain (if e ≠ 0 then a else b)
  | 0x0F => int32 (max (sext 32 d).natAbs sa.natAbs : Nat)
  | 0x10 => plain (famaxLane d a)
  | 0x11 => plain (c.lut (a % 256))
  | 0x12 =>
    let i := bits a 15 8
    let t0 := sext 32 (c.lut i)
    let t1 := sext 32 (c.lut (min (i + 1) 255))
    plain (toBits 32 (t0 + (t1 - t0) * (a % 256 : Nat) / 256))
  | 0x13 => ieee (fAdd fp32 rm a b)
  | 0x14 => ieee (fSub fp32 rm a b)
  | 0x15 => ieee (fMul fp32 rm a b)
  | 0x16 => ieee (fFma fp32 rm a b e)
  | 0x17 => ieee (fDiv fp32 rm a b)
  | 0x18 => ieee (fSqrt fp32 rm a)
  | 0x19 => ieee (fMinMax fp32 false a b)
  | 0x1A => ieee (fMinMax fp32 true a b)
  | 0x1B => ieee (fcmpLane k.sc a b)
  | 0x21 => cvtLane k.sb (k.sc == 1) a
  | _ => plain 0

/-- A 64-bit lane pair of a micro-op. -/
def KCtx.pair (c : KCtx) (k : KOp) (a b e : Nat) : LaneOut :=
  let rm := rmOf k.rm c.rmDyn
  match k.op with
  | 0x1C => ieee (fAdd fp64 rm a b)
  | 0x1D => ieee (fMul fp64 rm a b)
  | 0x1E => ieee (fFma fp64 rm a b e)
  | 0x1F => ieee (fDiv fp64 rm a b)
  | _ => ieee (fSqrt fp64 rm a)

/-- 64 lanes as 32 pairs. -/
def toPairs : List Nat → List Nat
  | a :: b :: rest => (a + 2 ^ 32 * b) :: toPairs rest
  | _ => []

def ofPairs : List Nat → List Nat
  | [] => []
  | p :: rest => p % 2 ^ 32 :: p / 2 ^ 32 % 2 ^ 32 :: ofPairs rest

def setK (ks : List (List Nat)) (i : Nat) (v : List Nat) : List (List Nat) := ks.set i v

/-- r of DEQ and RQ in lane j: ACC under R170, or an integer code under R171. -/
def KCtx.deq (c : KCtx) (k : KOp) (r : KRow) (j : Nat) : RV × Cnt :=
  if k.sa = kAcc then dequant (c.dEnt j) (c.acc j).1
  else dequantCode (c.dEnt j) (sext 32 ((c.lanes r k.sa).getD j 0))

/-- Deliver lane results to kd. (log 34: DESIGN CHOICE) -/
def KRow.put (r : KRow) (kd : Nat) (outs : List LaneOut) : KRow :=
  { r with k := setK r.k kd (outs.map fun o => o.1 % 2 ^ 32), counts := r.counts.sum (countAll (outs.map fun o => o.2.1)),
           flags := outs.foldl (fun f o => f ||| o.2.2) r.flags }

/-- The RQ (R172, R188, R190). (log 34: DESIGN CHOICE) -/
def KCtx.rq (c : KCtx) (k : KOp) (r : KRow) : KRow :=
  let rs : List (RV × Cnt) := (List.range 64).map fun j =>
    if k.sa ≠ kAcc ∧ k.sc = 1 then (rv32 ((c.lanes r k.sa).getD j 0), Cnt.none) else c.deq k r j
  let r := { r with presented := rs.map fun (p : RV × Cnt) => p.1 }
  if fmtIsMx c.fmt then
    let quot : List (RV × Cnt) := (List.range 64).map fun j =>
      let (v, n) := rs.getD j (.nan, .none)
      let q := c.qEnt j
      if q.const then (RV.num (Q.ofInt 0), n.join (requantConst q v))
      else
        let (x, m) := requantMx q v
        (x, n.join m)
    { r with quot := quot }
  else
    let outs : List LaneOut := (List.range 64).map fun j =>
      let (v, n) := rs.getD j (.nan, .none)
      let (x, m, f) := requant (c.qEnt j) c.fmt v
      (x, n.join m, f)
    { r.put k.kd outs with rqCnt := outs.map fun (o : LaneOut) => o.2.1 }

/-- One micro-op over the 64 lanes. -/
def KCtx.step (c : KCtx) (k : KOp) (r : KRow) : KRow :=
  if k.op = 0x22 then
    r.put k.kd ((List.range 64).map fun j =>
      let (v, n) := c.deq k r j
      let (x, m, f) := narrow32 v
      (x, n.join m, f))
  else if k.op = 0x23 then c.rq k r
  else if k.op = 0x24 then
    r.put k.kd ((List.range 64).map fun j =>
      let (v, n) := narrowI (-2147483648) 2147483647 0 (c.acc j).1
      (toBits 32 v, n, 0))
  else if k.op = 0x25 then r.put k.kd ((List.range 64).map fun j => narrow32 (c.acc j).1)
  else
    let a := c.lanes r k.sa
    let b := c.lanes r k.sb
    let e := c.lanes r k.sc
    if 0x1C ≤ k.op ∧ k.op ≤ 0x20 then
      let outs := zip3 (c.pair k) (toPairs a) (toPairs b) (toPairs e)
      { r with k := setK r.k k.kd (ofPairs (outs.map (·.1))), flags := outs.foldl (fun f o => f ||| o.2.2) r.flags }
    else
      r.put k.kd ((List.range 64).map fun j =>
        c.lane k (a.getD j 0) (b.getD j 0) (e.getD j 0) ((r.k.getD k.kd []).getD j 0))

/-- The micro-ops in order; in an observe pass, up to and with the RQ. -/
def KCtx.run (c : KCtx) (observe : Bool) (r : KRow) : List KOp → KRow
  | [] => r
  | k :: ks =>
    let r := c.step k r
    if observe && k.op == 0x23 then r else c.run observe r ks

/-- The row's MX codes, element scales and counts. -/
def packMxRow (fmt : Nat) (r : KRow) : List Nat × List Nat × List Cnt :=
  let (s0, b0) := mxEncode fmt ((r.quot.take 32).map (·.1))
  let (s1, b1) := mxEncode fmt ((r.quot.drop 32).map (·.1))
  let es := b0 ++ b1
  (es.map (·.1), [s0, s1], (r.quot.zip es).map fun p => p.1.2.join p.2.2)

/-! ## Output (R190, R191) -/

/-- Kernel reads ACC. -/
def readsAcc (ks : List KOp) : Bool := ks.any fun k => k.sa == kAcc

/-- Lane j's element of row m is withheld: the row reads ACC from a FAILED region. -/
def Tile.laneHeld (x : Tile) (ks : List KOp) (m j : Nat) : Bool := readsAcc ks && (x.relRegion m j).failed

/-- Lane j's own output element of row u is withheld: in an MX format with its whole block. -/
def Tile.eltHeld (x : Tile) (ks : List KOp) (d : KDesc) (u j : Nat) : Bool :=
  let h := fun j => decide (u < d.count) && x.laneHeld ks (d.m0 + u) j
  if fmtIsMx d.fmt then (List.range 32).any fun i => h (j / 32 * 32 + i) else h j

/-- Lanes of the output of row u that are not written: a 4-bit code withholds its whole byte (R191). -/
def Tile.heldOut (x : Tile) (ks : List KOp) (d : KDesc) (u j : Nat) : Bool :=
  if fmtBits d.fmt ≠ 4 then x.eltHeld ks d u j
  else if d.mem = 3 then x.eltHeld ks d u j || x.eltHeld ks d (if u % 2 = 0 then u + 1 else u - 1) j
  else x.eltHeld ks d u j || x.eltHeld ks d u (if j % 2 = 0 then j + 1 else j - 1)

/-- Write one lane's code into feed memory at (row, lane, element position). (log 34: DESIGN CHOICE) -/
def State.feedPut (s : State) (t fmt row lane e code : Nat) : State :=
  let b := fmtBits fmt
  if b = 4 then
    let off := feedOff row lane (e / 2)
    let old := (s.byte (tileMemBase t + off)).toNat
    s.pokeTile t off [BitVec.ofNat 8 (setBits old (4 * (e % 2) + 3) (4 * (e % 2)) code)]
  else s.pokeTile t (feedOff row lane (e * (b / 8))) (bytesOf (b / 8) code)

/-- The bytes of a row packed, byte k written unless a lane of it is withheld. -/
def State.rowPut (s : State) (t base : Nat) (b : Nat) (codes : List Nat) (held : Nat → Bool) : State :=
  let bytes := bytesOf (8 * b) (packCodes b codes)
  forEach (List.range (8 * b)) (fun k s =>
    if held (8 * k / b) then s
    else
      let off := base % 0x80000 / 16 * 16
      s.pokeTile t (base / 0x80000 * 0x80000 + (off + k) % 0x80000) [bytes.getD k 0]) s

/-- Write row u of a run (R190). -/
def State.kernelOut (s : State) (t set : Nat) (ks : List KOp) (d : KDesc) (u : Nat) (codes scales : List Nat) : State :=
  let x := (s.tile t).asReleased set
  let held := x.heldOut ks d u
  let scaleHeld := fun c => x.eltHeld ks d u (32 * c)
  let b := fmtBits d.fmt
  let s := if (List.range 64).any held && d.mem != 0 then s.modTile t fun x => { x with withheld := true } else s
  if d.mem = 0 then s
  else if d.mem = 3 then
    let k := feedPer d.fmt
    let s := forEach (List.range 64) (fun j s =>
      if held j then s else s.feedPut t d.fmt (d.addr + u / k + j) j (u % k) (codes.getD j 0)) s
    forEach (List.range scales.length) (fun c s =>
      if scaleHeld c then s
      else s.pokeTile t (feedOff d.scaleRow 0 0 + 2 * u + c) [BitVec.ofNat 8 (scales.getD c 0)]) s
  else
    let memBase := if d.mem = 1 then 0 else 0x80000
    let word := (d.addr + u * d.stride) % wordsWrap
    let s := s.rowPut t (memBase + 16 * word) b codes held
    if scales.isEmpty then s
    else
      -- the word after the codes: bytes 0 and 1 hold the two scales, the others zero
      let off := memBase + 16 * ((word + b / 2) % wordsWrap)
      let s := forEach (List.range scales.length) (fun c s =>
        if scaleHeld c then s else s.pokeTile t (off + c) [BitVec.ofNat 8 (scales.getD c 0)]) s
      s.pokeTile t (off + 2) (List.replicate 14 0#8)

/-! ## A row of a run -/

/-- Lanes of a run's temporaries. -/
def KRun.k (r : KRun) : List (List Nat) := (List.range 16).map fun i => codesOf 32 64 (r.temps.getD i 0).toNat

def tempsOf (ks : List (List Nat)) : Table (BitVec 2048) :=
  (List.range 16).foldl (fun m i => m.set (fun _ => 0) i (BitVec.ofNat 2048 (packCodes 32 (ks.getD i [])))) .empty

def State.kCtx (s : State) (t : Nat) (r : KRun) (d : KDesc) : KCtx :=
  let x := (s.tile t).asReleased r.set
  let m := d.m0 + r.row
  { m := m, acc := fun j => x.accValue m j, dEnt := fun j => s.scaleEntry t (d.dbase + j),
    qEnt := fun j => s.scaleEntry t (d.qbase + j), lut := fun i => s.reg ELE_LUT t i,
    v := fun i => codesOf 32 64 (r.vregs.getD i 0).toNat, rmDyn := s.fld ELE_FPCSR.RM t, fmt := d.fmt }

def SeenRow.toSeen (r : SeenRow) : Seen := ⟨⟨r.loNum, r.loDen⟩, ⟨r.hiNum, r.hiDen⟩⟩
def SeenRow.of (v : Seen) : SeenRow := ⟨v.lo.num, v.lo.den, v.hi.num, v.hi.den⟩

/-- Present the values of a row to their channels, lanes that read a FAILED region apart. -/
def KRun.present (r : KRun) (vals : List RV) (skip : Nat → Bool) : KRun :=
  (List.range 64).foldl (fun r j =>
    match vals.getD j .nan with
    | .num v =>
      if skip j ∨ (¬r.cal ∧ j ∉ r.chosen) then r
      else
        match seenAdd ((r.seen.find? j).map SeenRow.toSeen) v with
        | some z => { r with seen := r.seen.put j (SeenRow.of z) }
        | none => r
    | _ => r) r

/-- Add RQ counts by lane. -/
def addLaneCnt (m : Table Nat) (cs : List Cnt) (k : Cnt) : Table Nat :=
  (List.range 64).foldl (fun m j => if cs.getD j .none = k then m.put j (m.getD j 0 + 1) else m) m

/-- Run the micro-ops of one row and write its output; in an observe pass nothing is written or counted. -/
def State.kernelRow (s : State) (t : Nat) (r : KRun) : State :=
  let d := KDesc.ofWords r.desc
  let ks := r.ops.map KOp.decode
  let x := s.tile t
  let seen := x.asReleased r.set
  let m := d.m0 + r.row
  let c := s.kCtx t r d
  let obs := r.pass == .observe
  let row := c.run obs { k := r.k } ks
  if obs then
    let r := r.present row.presented (seen.laneHeld ks m)
    let r := { r with temps := tempsOf row.k, row := r.row + 1 }
    s.setTile t { x with krun := some r }
  else
    let mx := fmtIsMx d.fmt
    let (codes, scales, cnts) := if mx then packMxRow d.fmt row else (row.k.getD 0 [], [], row.rqCnt)
    let kept := setK row.k 0 ((List.range 64).map fun j =>
      if seen.heldOut ks d r.row j then 0 else codes.getD j 0 % 2 ^ fmtBits d.fmt)
    let k := if mx then row.counts.sum (countAll cnts) else row.counts
    let held := (List.range 64).foldl (fun h j => if seen.laneHeld ks m j then h ||| 2 ^ j else h) r.held
    let r1 := { r with
      temps := tempsOf kept, row := r.row + 1, sat := r.sat + k.sat, flush := r.flush + k.flush, nan := r.nan + k.nan,
      flags := r.flags ||| row.flags, held := held, rqSat := addLaneCnt r.rqSat cnts .sat,
      rqFlush := addLaneCnt r.rqFlush cnts .flush, rqNan := addLaneCnt r.rqNan cnts .nan }
    let s := s.setTile t { x with krun := some r1 }
    s.kernelOut t r.set ks d r.row codes scales

/-! ## Passes (R177, R193, R194) -/

/-- A run at the start of a pass. -/
def KRun.startPass (r : KRun) (p : Pass) : KRun :=
  { r with pass := p, row := 0, temps := .empty, sat := 0, flush := 0, nan := 0, rqSat := .empty, rqFlush := .empty,
           rqNan := .empty, flags := 0, held := 0 }

def tableSum (m : Table Nat) : Nat := (m.rows.map (·.2)).foldl (· + ·) 0

/-- The first pass of an ordinary run ends in a rescale replay (R176, R194). -/
def State.replays (s : State) (t : Nat) (r : KRun) : Bool :=
  let ks := r.ops.map KOp.decode
  let job := (s.taskJob t).map fun p => p.2.flag 2
  r.pass == .first && job == some true && readsAcc ks && (ks.any fun k => k.op == 0x23)
    && (decide (s.reg ELE_SATLIM t < tableSum r.rqSat) || decide (s.reg ELE_FLUSHLIM t < tableSum r.rqFlush))

/-- After the observe pass of a calibrating run: the entries of the channels with values (R174, R193). -/
def State.writeCalib (s : State) (t : Nat) (r : KRun) (d : KDesc) : State :=
  forEach r.seen.rows (fun e s =>
    let i := d.qbase + e.1
    s.setScale t i (calibrate (s.scaleEntry t i) d.fmt d.src e.2.toSeen)) s

/-- After the observe pass of a replay: the entries of the selected channels with values, and a log entry for each
(R177, R178). -/
def State.writeRescale (s : State) (t : Nat) (r : KRun) (d : KDesc) : State :=
  forEach r.seen.rows (fun e s =>
    let i := (d.qbase + e.1) % 4096
    let q := rescale (s.scaleEntry t i) d.fmt e.2.toSeen
    let s := s.setScale t i q
    s.numLog t logRescale r.pc 0 ⟨r.firstSat.getD e.1 0, r.firstFlush.getD e.1 0, r.firstNan.getD e.1 0⟩ q.scale i 2) s

/-- Whether the run has come to the end of a pass, and what follows: another pass, or nothing. -/
def State.nextPass (s : State) (t : Nat) (r : KRun) : Option State :=
  let d := KDesc.ofWords r.desc
  if r.row < d.count then none
  else if r.pass = .observe then
    let s := if r.cal then s.writeCalib t r d else s.writeRescale t r d
    some (s.modTile t fun x => { x with krun := some { r.startPass .final with rescaled := r.seen.rows.map (·.1) } })
  else if s.replays t r then
    let chosen := (List.range 64).filter fun j => decide (r.rqSat.getD j 0 ≠ 0 ∨ r.rqFlush.getD j 0 ≠ 0)
    some (s.modTile t fun x => { x with krun := some { r.startPass .observe with
      chosen := chosen, firstSat := r.rqSat, firstFlush := r.rqFlush, firstNan := r.rqNan, seen := .empty } })
  else none

/-- The end of a run: k15 delivered, counts and flags committed, the log entry. -/
def State.kernelEnd (s : State) (t : Nat) (r : KRun) : State :=
  let d := KDesc.ofWords r.desc
  let replayed := r.pass == .final && !r.cal
  let k15 := (r.k.getD 15 [])
  let outs := (List.range 64).map fun j => if bit r.held j then 0 else k15.getD j 0
  let s := s.modTile t fun x => { x with krun := none, lastKernel := r.kernel }
  let s := match r.outTo with
    | some i => s.modTile t fun x => x.write (.v i (BitVec.ofNat 2048 (packCodes 32 outs)))
    | none => s
  let c : Counts := ⟨r.sat, r.flush, r.nan⟩
  let s := (s.addCounts t c).addFlags t r.flags
  let s := s.incSat ELE_RUNCNT.RUNS 1 t
  let s := if replayed then
      let s := s.incSat ELE_RUNCNT.RESCALES 1 t
      match (s.tile t).task with
      | some k => s.jobFlag k.job rfRescaled
      | none => s
    else s
  if c = {} then s else s.numLog t logEkrun r.pc 0 c 0 0 (2 * b2n replayed + 4 * b2n (r.held != 0))

/-- EKRUN starts a run (R189, R190); none where its kernel faults. (log 33: DEDUCED) -/
def State.startKernel (s : State) (t : Nat) (e : ESlot) : Option State :=
  let x := s.tile t
  let ws := x.kWords e.va.toNat
  let d := KDesc.ofWords ws
  let n := e.aux.toNat % 16
  let len := (x.loaded.map fun l => l.len).getD 0
  match s.readKernel t len n d.fmt d.cal with
  | none => none
  | some ks =>
    let words := (List.range ks.length).map fun u =>
      s.readNum (tileMemBase t + 0x1E0000 + 32 * bits (s.readNum (tileMemBase t + 0x1E0000 + 32 * (len / 32 - 1) + 2 * n) 2) 11 0 + 4 * u) 4
    some (s.setTile t { x with krun := some {
        kernel := n, desc := ws, ops := words, outTo := if bit e.aux.toNat 4 then some e.vd.toNat else none, pc := x.pc,
        set := x.released, pass := if d.cal then .observe else .first, cal := d.cal, vregs := x.v } })

end Sys2Proof.Machine
end

