-- ==== Sys2Proof/Machine/Link.lean ====
section
/-! DEFINITION. Yalelle links (R398), and packets that a belay command holds back (R94). -/
namespace Sys2Proof.Machine

/-- On entry to FAILED or DOWN a link loses its replay buffer and every packet queued for it; packets received whole stay, and
owe no credit any more. -/
def State.dropLink (s : State) (k : Nat) : State :=
  let s := s.setLink k { rx := (s.link k).rx.map fun r => { r with flits := 0 } }
  { s with yal := { s.yal with msgs := s.yal.msgs.map fun m => if m.link = k then { m with rx := { m.rx with flits := 0 } } else m } }

/-- A link changes state, with its event. On entry to TRAIN it sends its identity (R395) and takes LANE_DIS, as on entry to RETRAIN
(R411); on entry to FAILED or DOWN it uses no lane (R398). -/
def State.setLinkState (s : State) (k st : Nat) : State :=
  let old := s.linkState k
  if old = st then s
  else
    let s := s.setFld YAL_LINK_STAT.STATE st k
    let s := if st = linkRetrain then s.incSat YAL_LINK_CNT0.RETRAINS 1 k else s
    let s := if st = linkTrain ∨ st = linkRetrain then s.setLink k { s.link k with laneDis := s.fld YAL_LINK_CTL.LANE_DIS k, since := s.atu.ticks } else s
    let s := if st = linkTrain then
        { s with out := .identity k s.chipId (s.fld SYS_CHIPID.GRP_POS) (s.flag SYS_CHIPID.ID_SET) :: s.out }
      else s
    let s := if st = linkFailed ∨ st = linkDown then (s.setFld YAL_LINK_STAT.LANES 0 k).dropLink k else s
    s.devEvent evLinkState k [w32 old, w32 st]

/-- Packets that a stop just ordered keeps from beginning leave the queues. (log 112: DEDUCED) -/
def State.holdUnbegun (s : State) : State :=
  forEach (List.range 8) (fun k s =>
    let l := s.link k
    let holds := fun (q : TxPkt) => !q.begun && s.linkStopped k q.pkt
    s.setLink k { l with txq := l.txq.filter fun q => !holds q
                         stopped := l.stopped ++ (l.txq.filter holds).map (·.pkt) }) s

/-- A packet that a stop covers has begun to leave on link k. (log 112: DEDUCED) -/
def State.begunOn (s : State) (k : Nat) : Bool := (s.link k).txq.any fun q => q.begun && s.linkStopped k q.pkt

/-- Packets that no stop holds back any more go on. (log 112: DEDUCED) -/
def State.releaseStopped (s : State) : State :=
  forEach (List.range 8) (fun k s =>
    let l := s.link k
    let go := l.stopped.filter fun p => !s.linkStopped k p
    if go.isEmpty then s
    else
      forEach go (fun p s => s.queuePacket k p) (s.setLink k { l with stopped := l.stopped.filter fun p => s.linkStopped k p })) s

/-- What an ERR_RSP code makes the requester report (R403). -/
def errReports (c : Nat) : Nat :=
  match c with
  | 1 => fcAddrUnmapped
  | 2 => fcRouteMiss
  | 3 => fcLinkTimeout
  | 4 => fcRouteMiss
  | 5 => fcParityPersist
  | _ => fcMmuFault

end Sys2Proof.Machine
end

