-- ==== Sys2Proof/Machine/Digest.lean ====
section
/-! DEFINITION. Result digests and rope pairs (chapter 18): leaves (R415), chunks (R421), the digest area (R418), the
comparison (R422, R423) and the result digest (R414, R417). -/
namespace Sys2Proof.Machine

def State.dgt? (s : State) (j : Nat) : Option DgtJob := s.dgt.jobs.find? j
def State.putDgt (s : State) (j : Nat) (d : DgtJob) : State := { s with dgt := { s.dgt with jobs := s.dgt.jobs.put j d } }

/-- Key of a leaf: list 0 IN, 1 OUT. -/
def leafKey (list entry : Nat) : Nat := list * 2 ^ 32 + entry

/-- A leaf reaches DGT (R415). -/
def State.addLeaf (s : State) (j list entry : Nat) (leaf : List Byte) : State :=
  match s.dgt? j with
  | none => s
  | some d =>
    let k := leafKey list entry
    let v := match d.leaves.find? k with
      | none => some leaf
      | some (some l) => if l = leaf then some leaf else none
      | some none => none
    s.putDgt j { d with leaves := d.leaves.put k v }

/-- The chunk digests of a delivered block (R421). -/
def chunkDigests : Nat → List Byte → List (List Byte)
  | 0, _ => []
  | n + 1, bs => if bs.isEmpty then [] else sha256 (bs.take 4096) :: chunkDigests n (bs.drop 4096)

/-- Send a DIGEST packet to the peer of partition p (R421). A packet that finds no path is lost. -/
def State.sendDigest (s : State) (p : Nat) (data : List Byte) : State :=
  let pk : Packet := { dst := s.fld DGT_ROPE.PEER_CHIP p, srcPtn := p, src := s.chipId, kind := pkDigest, vc := 6, hops := 0,
                       path := 0, op := 0, len := 47, tag := 0, addr := 0, data := data }
  match s.originate pk with
  | .ok s => s
  | .error _ => s

/-- The 48 data bytes of a DIGEST packet. -/
def digestData (j : Job) (kind entry chunk : Nat) (d : List Byte) : List Byte :=
  bytesOf 4 j.tag ++ bytesOf 1 j.gen ++ bytesOf 1 kind ++ bytesOf 2 0 ++ bytesOf 4 entry ++ bytesOf 4 chunk ++ fitBytes 32 d

/-- A block of the OUT list of a LOCKSTEP job has been delivered: its chunk digests are kept and sent. -/
def State.addChunks (s : State) (j : Nat) (entry : Nat) (bytes : List Byte) : State :=
  match s.job? j, s.dgt? j with
  | some x, some d =>
    if ¬x.flag 1 then s
    else
      let ds := chunkDigests (bytes.length / 4096 + 1) bytes
      let ixs := List.range ds.length
      let chunks := (ixs.zip ds).foldl (fun m r => m.put (entry * 2 ^ 32 + r.1) r.2) d.chunks
      let s := s.putDgt j { d with chunks := chunks }
      forEach (ixs.zip ds) (fun r s => s.sendDigest x.ptn (digestData x 0 entry r.1 r.2)) s
  | _, _ => s

/-- A delivered block of entry `entry` of a list: its leaf, and its chunks where the list is OUT. -/
def State.delivered (s : State) (j list entry : Nat) (leaf : Bool) (bytes : List Byte) : State :=
  let s := if leaf then s.addLeaf j list entry (sha256 bytes) else s
  if list = 1 then s.addChunks j entry bytes else s

/-! ## The area (R418) -/

/-- Bytes between allocations: the first offset that fits `n` bytes among areas sorted by offset. -/
def firstFit (top n : Nat) : Nat → List (Nat × Nat) → Option Nat
  | at', [] => if at' + n ≤ top then some at' else none
  | at', (o, m) :: rest => if at' + n ≤ o then some at' else firstFit top n (max at' (o + m)) rest

/-- Areas of partition p's jobs, by offset. (log 51: DEDUCED) -/
def insertArea (a : Nat × Nat) : List (Nat × Nat) → List (Nat × Nat)
  | [] => [a]
  | b :: bs => if a.1 ≤ b.1 then a :: b :: bs else b :: insertArea a bs

def State.areas (s : State) (p : Nat) : List (Nat × Nat) :=
  (s.dgt.jobs.rows.filter fun r => ((s.job? r.1).map fun (j : Job) => j.ptn) == some p).foldl
    (fun l r => insertArea r.2.area l) []

/-- Bytes that a job needs. -/
def digestNeed (j : Job) (chunks : Nat) : Nat :=
  let n := (if j.flag 0 then 32 * (j.inCount + j.outCount) else 0) + if j.flag 1 then 64 * chunks else 0
  alignUp n 64

/-- Job j takes its area, if one fits: DGT_SCR_USED counts it. (log 51: DEDUCED) -/
def State.allocate (s : State) (j : Nat) (x : Job) (n : Nat) : Option State :=
  match firstFit (2 ^ s.fld DGT_SCR_CFG.LOG2SIZE x.ptn) n 0 (s.areas x.ptn) with
  | none => none
  | some o =>
    let s := s.putDgt j { area := (o, n) }
    some (s.setReg DGT_SCR_USED (s.reg DGT_SCR_USED x.ptn + n) x.ptn)

/-- The job's record has been written: its area is free. -/
def State.freeArea (s : State) (j p : Nat) : State :=
  match s.dgt? j with
  | none => s
  | some d =>
    let s := { s with dgt := { s.dgt with jobs := s.dgt.jobs.del j } }
    s.setReg DGT_SCR_USED (s.reg DGT_SCR_USED p - d.area.2) p

/-! ## The result digest (R414, R417) -/

/-- The leaf of an entry: zero bytes where none was received; none where leaves differ. -/
def DgtJob.leaf (d : DgtJob) (list entry : Nat) : Option (List Byte) :=
  match d.leaves.find? (leafKey list entry) with
  | none => some zero32
  | some l => l

/-- The first entry in conflict: list and entry. -/
def DgtJob.conflict (d : DgtJob) (ins outs : Nat) : Option (Nat × Nat) :=
  (((List.range ins).map fun e => (0, e)) ++ (List.range outs).map fun e => (1, e)).find? fun k => (d.leaf k.1 k.2).isNone

def objDigestOr0 (h : Nat) (obj : List Byte) : List Byte := if h = 0xFFFF then zero32 else (obj.drop 32).take 32

/-- Two leaves of an entry differ: the count of conflicts and the event (R417). -/
def State.noteConflict (s : State) (j : Nat) (x : Job) (list entry : Nat) : State :=
  (s.incSat DGT_DCNT.CONFLICTS 1 x.ptn).jobEvent j evDigestConflict entry [w32 list]

/-- The program digest of R414. -/
def Job.programDigest (j : Job) : List Byte :=
  let d := objDigestOr0 j.prog j.progObj
  if j.cls = 0 ∧ bit j.rflags rfFallback then sha256 (d ++ objDigestOr0 j.fallback j.fbObj) else d

/-- The result digest of a job over its two lists. -/
def Job.resultDigest (j : Job) (d : DgtJob) (ins outs : Nat) : List Byte :=
  let list := fun (l n : Nat) => listDigest ((List.range n).map fun e => (d.leaf l e).getD zero32)
  sha256 (j.programDigest ++ objDigestOr0 j.model j.modelObj ++ list 0 ins ++ list 1 outs)

/-! ## The comparison (R423) -/

/-- Keys present on either side, ascending, that differ or stand alone. -/
def DgtJob.mismatches (d : DgtJob) : List Nat :=
  let l := (d.chunks.rows.filter fun r => d.peers.find? r.1 != some r.2).map (·.1)
  let r := (d.peers.rows.filter fun r => (d.chunks.find? r.1).isNone).map (·.1)
  r.foldl (fun acc k => (acc.filter (· < k)) ++ [k] ++ acc.filter (k < ·)) l

/-- The data of a DIGEST packet of the peer reaches the job: a chunk digest, or the peer's END. (log 51: DEDUCED) -/
def DgtJob.receive (d : DgtJob) (data : List Byte) : DgtJob :=
  if d.compared then d
  else if field data 5 1 = 1 then { d with endGot := some (field data 8 4) }
  else { d with peers := d.peers.put (field data 8 4 * 2 ^ 32 + field data 12 4) ((data.drop 16).take 32) }

/-- Both ENDs have been exchanged and every chunk that either side sent has been compared. -/
def DgtJob.complete (d : DgtJob) : Bool :=
  d.endSent && (match d.endGot with
    | some n => d.peers.rows.length == n
    | none => false)

end Sys2Proof.Machine
end

