-- ==== Sys2Proof/Machine/Stream.lean ====
section
/-! DEFINITION. The stream engine (chapter 09): descriptor records (R208, R209), instances (R210, R211), block lists and
traverses (R212-R216), requests (R217, R218), delivery (R219, R220), fences (R222) and faults (R225, R227). -/
namespace Sys2Proof.Machine

/-! ## Descriptor records -/

def Inst.listSrc (i : Inst) : Nat := field i.record 0 1 / 4 % 4
/-- CTL bit k: 4 IRQ_ALL, 5 DIGEST, 6 SKEW. -/
def Inst.ctl (i : Inst) (k : Nat) : Bool := bit (field i.record 0 1) k
def Inst.gen (i : Inst) : Nat := field i.record 1 1
def Inst.first (i : Inst) : Nat := field i.record 4 4
def Inst.nearBase (i : Inst) : Nat := field i.record 12 4
def Inst.list (i : Inst) : Nat := field i.record 16 6
/-- (log 49: DEDUCED) -/
def Inst.list2 (i : Inst) : Nat := field i.record 24 6
def Inst.jobOut (i : Inst) : Bool := bit (field i.record 24 8) 63
def Inst.semDone (i : Inst) : Nat := field i.record 32 4

/-- A semaphore entry with no reserved bit set, and a COUNT where it is valid (R78). (log 40: DEDUCED) -/
def semEntryOk (e : Nat) : Bool := bits e 30 28 == 0 && bits e 15 12 == 0 && (!semV e || semCount e != 0)

/-- The largest block count and block length (R209, R212, R214). -/
def maxBlock : Nat := 16777216

/-- The fields of a record that need no memory access are in range (R209). -/
def recordOk (r : List Byte) (inCount outCount : Nat) : Bool :=
  let ctl := field r 0 1
  let dir := ctl % 4
  let src := ctl / 4 % 4
  let first := field r 4 4
  let count := field r 8 4
  let near := field r 12 4
  let list := field r 16 8
  let list2 := field r 24 8
  dir != 3 && src != 3 && !bit ctl 7 && field r 2 2 == 0 && decide (1 ≤ count) && decide (count ≤ maxBlock)
    && decide (near < 2 ^ 21) && (dir != 2 || near == 0)
    && (if src = 0 then decide (list < 2 ^ 48) && list % 32 == 0 else list == 0)
    && (if dir = 2 then bits list2 62 48 == 0 && bits list2 47 0 % 32 == 0 else list2 == 0)
    && semEntryOk (field r 32 4) && (r.drop 36).all (· == 0#8)
    && (src != 1 || decide (first + count ≤ inCount)) && (src != 2 || decide (first + count ≤ outCount))

/-- Record d of tile t as X memory holds it (R208). -/
def State.streamRecord (s : State) (t d : Nat) : List Byte :=
  let w := s.fld STM_CFG.DTAB t / 4 * 4
  (List.range 4).flatMap fun k => s.read (tileMemBase t + 16 * ((w + 4 * d + k) % wordsWrap)) 16

/-- The record that SSTART d would copy passes its check. -/
def State.recordPasses (s : State) (t d : Nat) : Bool :=
  let (ic, oc) := match s.taskJob t with
    | some (_, j) => (j.inCount, j.outCount)
    | none => (0, 0)
  recordOk (s.streamRecord t d) ic oc

/-! ## Instances -/

/-- A new instance of descriptor d: QUEUED, or pending while one is in progress; a pending one it replaces counts as
completed (R210, R211). -/
def State.startInst (s : State) (t d : Nat) (r : List Byte) : State :=
  let x := s.tile t
  let i : Inst := { record := r, state := .queued, order := x.startOrder }
  let x := { x with startOrder := x.startOrder + 1 }
  match x.insts.find? d with
  | some cur =>
    if cur.live then
      let s1 := s.setTile t { x with pend := x.pend.put d i }
      if (x.pend.find? d).isSome then s1.incSat STM_RCNT.REARM_COLLAPSED 1 t else s1
    else s.setTile t { x with insts := x.insts.put d i }
  | none => s.setTile t { x with insts := x.insts.put d i }

/-- The instance that an SWAIT of descriptor d binds to: its order. -/
def Tile.current (x : Tile) (d : Nat) : Option Nat := (x.insts.find? d).map (·.order)

/-- An SWAIT bound to the instance of descriptor d with that order holds no longer: it has delivered n blocks, or has
completed (R221). With no instance there is nothing to wait for. (log 37: DEDUCED) -/
def Tile.swaitDone (x : Tile) (d : Nat) (order : Option Nat) (n : Nat) : Bool :=
  match x.insts.find? d, order with
  | some i, some o => i.order != o || decide (n ≤ i.delivered) || !i.live
  | _, _ => true

/-- No live instance lies under a fence. -/
def Tile.fenceDone (x : Tile) (f : Fence) : Bool :=
  (x.insts.rows.all fun r => !r.2.live || decide (f.upTo ≤ r.2.order))
    && (x.pend.rows.all fun r => decide (f.upTo ≤ r.2.order))

/-- Every instance, pending ones included, has completed. (log 37: DEDUCED) -/
def Tile.streamsDone (x : Tile) : Bool := x.pend.rows.isEmpty && x.insts.rows.all fun r => !r.2.live

/-! ## Block-list entries and traverses -/

/-- A block-list entry (R212) as a block; a linear block is a traverse of bytes (R215). None where a field is out of
range. -/
def parseEntry (e : List Byte) (dir : Nat) (output : Bool) : Option Block :=
  let addr := field e 0 8
  let len := field e 8 4
  let near := field e 12 4
  let kind := field e 16 1
  let flags := field e 17 1
  let atop := field e 18 1
  let sem := field e 20 4
  let trav := field e 24 8
  let common := decide (addr < 2 ^ 48) && decide (near < 2 ^ 21) && decide (flags < 2) && field e 19 1 == 0
    && semEntryOk sem && (!output || near == 0)
  let mk := fun (es : Nat) (cs : List Nat) (fs ns : List Int) (tr : Option Nat) =>
    some { addr := addr, near := near, kind := kind, irq := bit flags 0, atop := atop, sem := sem, trav := tr,
           esize := es, counts := cs, farStr := fs, nearStr := ns }
  if ¬common then none
  else if kind = 0 then
    if atop = 0 ∧ trav = 0 ∧ 1 ≤ len ∧ len ≤ maxBlock then mk 1 [len] [1] [1] none else none
  else if kind = 1 then
    if atop = 0 ∧ len = 0 ∧ trav < 2 ^ 48 ∧ trav % 64 = 0 ∧ ¬output then mk 1 [] [] [] (some trav) else none
  else if kind = 2 then
    if (len = 4 ∨ len = 8) ∧ trav = 0 ∧ 1 ≤ atop ∧ atop ≤ 3 ∧ addr % len = 0 ∧ dir ≠ 2 ∧ ¬output then
      mk len [1] [0] [0] none
    else none
  else none

/-- A traverse descriptor (R214) added to its block. -/
def parseTraverse (b : Block) (d : List Byte) : Option Block :=
  let es := field d 0 1
  let n := field d 1 1
  let cs := (List.range 5).map fun k => field d (4 + 12 * k) 4
  let fs := (List.range 5).map fun k => field d (8 + 12 * k) 4
  let ns := (List.range 5).map fun k => field d (12 + 12 * k) 4
  let used := cs.take n
  let total := used.foldl (· * ·) (2 ^ es)
  if 7 ≤ es ∨ n = 0 ∨ 5 < n ∨ field d 2 2 ≠ 0 then none
  else if ¬(used.all fun c => decide (1 ≤ c) && decide (c ≤ maxBlock)) then none
  else if ¬((cs.drop n).all (· == 0) && (fs.drop n).all (· == 0) && (ns.drop n).all (· == 0)) then none
  else if maxBlock < total then none
  else some { b with trav := none, esize := 2 ^ es, counts := used, farStr := (fs.take n).map (sext 32),
                     nearStr := (ns.take n).map (sext 32) }

/-- Elements of a block, and its bytes. -/
def Block.elts (b : Block) : Nat := b.counts.foldl (· * ·) 1
def Block.bytes (b : Block) : Nat := b.elts * b.esize

/-- Coordinates of element e in traversal order, dimension 0 fastest (R215). -/
def coords : Nat → List Nat → List Nat
  | _, [] => []
  | e, c :: cs => e % c :: coords (e / c) cs

/-- Sum of coordinate times stride. -/
def dot : List Nat → List Int → Int
  | c :: cs, k :: ks => (c : Int) * k + dot cs ks
  | _, _ => 0

/-- Far address of element e. (log 49: DEDUCED) -/
def Block.far (b : Block) (e : Nat) : Int := (b.addr : Int) + dot (coords e b.counts) b.farStr

/-- Near offset of element e, before skewing. -/
def Block.nearOf (b : Block) (nearBase e : Nat) : Int := (nearBase + b.near : Nat) + dot (coords e b.counts) b.nearStr

/-- The window offset of an unskewed near byte, none outside R216. -/
def nearByte (skew : Bool) (o : Int) : Option Nat :=
  if o < 0 ∨ (feedEnd : Int) ≤ o then none
  else
    let n := o.toNat
    if skew then
      if n < feedBase then none
      else
        let r := (n - feedBase) / 256
        let i := (n - feedBase) % 256 / 4
        if 3583 < r + i then none else some (n + 256 * i)
    else some n

end Sys2Proof.Machine
end

