-- ==== Sys2Proof/Machine/TileRun.lean ====
section
/-! DEFINITION. Starting and ending tasks on a tile (R100-R102, R223, R346): the image load, the registers at task start,
what the task leaves to its job. -/
namespace Sys2Proof.Machine

/-! ## The image (R100, R433) -/

def objLen (e : List Byte) : Nat := field e 4 4
def objImage (e : List Byte) : Nat := field e 8 6
def objArg (e : List Byte) : Nat := field e 16 2 % 4096
def objDigest (e : List Byte) : List Byte := (e.drop 32).take 32

/-- Handle and table entry of the program that a task runs. -/
def Job.program (j : Job) (fallback : Bool) : Nat × List Byte :=
  if fallback then (j.fallback, j.fbObj) else (j.prog, j.progObj)

/-- Program memory holds the image of an object: the state once it does; none while its read waits for a translation or
has failed, with the state that follows. (log 46: DEDUCED) -/
def State.loadImage (s : State) (t p j h : Nat) (fb : Bool) (e : List Byte) : Option State × State :=
  let x := s.tile t
  let same := match x.loaded with
    | some l => l.ptn == p && l.handle == h && l.digest == objDigest e
    | none => false
  if same then (some s, s)
  else if s.mmu.faults.any fun r => r.waiters.any fun w => w.kind == 1 && w.unit == t && w.job == j then (none, s)
  else
    match s.vRead p (objImage e) (objLen e) with
    | (.ok bs, s) =>
      let s := s.modTile t fun x => { x with loaded := some { ptn := p, handle := h, digest := objDigest e, len := objLen e } }
      let s := s.poke (tileMemBase t + 0x1E0000) bs
      (some s, s)
    | (.error (.mmu f), s) =>
      let who : Requester := { kind := 1, unit := t, handle := h, job := j, tag := ((s.job? j).map Job.tag).getD 0 }
      (none, s.mmuFault p (objImage e) false true who f)
    | (.error (.code c), s) => (none, s.failTask j c fb)

/-! ## Task start (R101) -/

/-- The registers of a tile as a task finds them. (log 47: DEDUCED) -/
def Tile.freshFor (x : Tile) (k : Task) (j : Job) (t : Nat) : Tile :=
  { task := some k, state := .run, queue := x.queue, loaded := x.loaded, suspect := x.suspect, cairnBar := x.cairnBar, lfsr := x.lfsr,
    lastKernel := x.lastKernel,
    insts := x.insts, startOrder := x.startOrder, rrDesc := x.rrDesc, nextReq := x.nextReq,
    ltile := BitVec.ofNat 32 t, taskIx := BitVec.ofNat 32 k.index, nTask := BitVec.ofNat 32 j.nTasks,
    paramLo := BitVec.ofNat 32 j.param, paramHi := BitVec.ofNat 32 (j.param / 2 ^ 32 % 65536),
    paramLen := BitVec.ofNat 32 j.paramLen }

/-- Counters that belong to the task clear, and the check-value unit starts from CRC_INIT (R162, R179, R207, R196, R304,
R152). -/
def State.clearTaskRegs (s : State) (t : Nat) : State :=
  let s := forEach [TIL_NSAT, TIL_NFLUSH, TIL_NNAN, SIG_STAT, SIG_NSAT, SIG_WSAT, SIG_NOPS, SIG_WOPS, CRC_STAT, CRC_LAST]
    (fun r s => s.setReg r 0 t) s
  let s := s.setReg ELE_FPCSR (s.fld ELE_FPCSR.RM t * 2 ^ 5) t
  s.setReg CRC_VALUE (s.reg CRC_INIT t) t

/-- The stream instance that a COPY job runs as (R212). (log 47: DEDUCED) -/
def copyRecord (j : Job) : List Byte :=
  [0x26#8, 0#8, 0#8, 0#8] ++ bytesOf 4 0 ++ bytesOf 4 j.inCount ++ bytesOf 4 0 ++ bytesOf 8 0 ++ bytesOf 8 (2 ^ 63)
    ++ List.replicate 32 0#8

/-- Physical tile `pt` runs part of the job (R84). -/
def State.notePlace (s : State) (j t : Nat) : State :=
  let pt := s.ptile t
  s.modJob j fun x => { x with ptMask := x.ptMask ||| 2 ^ pt }

/-- A tile in service: it is neither OFFLINE nor DRAINING (R32). -/
def State.tileServes (s : State) (t : Nat) : Bool := s.domOn t && s.fld SYS_TMAP.STATE t != 2 && s.fld SYS_TMAP.STATE t != 3

/-- A write of a check-value register takes effect: the bits above the width then in force are ignored (R304, R307). -/
def State.crcPerform (s : State) (t a v : Nat) : State :=
  match rowAt a with
  | none => s
  | some (r, _, _) =>
    let n := (crcCode (s.fld CRC_CFG.POLY t)).width
    let v := if r.reg = CRC_VALUE ∨ r.reg = CRC_INIT ∨ r.reg = CRC_EXPECT then v % 2 ^ n else v
    s.setRegAt a (BitVec.ofNat 32 (writtenWord (s.regAt a).toNat v r.rows))

/-- The waiting task `k` starts on the idle tile, whose queue is `rest` from now on. -/
def State.startTask (s : State) (t : Nat) (k : Task) (rest : List QEntry) : State :=
  match s.job? k.job with
  | none => s
  | some j =>
    let begin' := fun (s : State) (entry : Nat) =>
      let k := { k with started := s.now, runNs := 0, base := 0, quantum := s.fld PTN_QUANT.QUANTUM j.ptn }
      let s := forEach (s.tile t).crcWrites (fun w s => s.crcPerform t w.1 w.2) s
      let s := (s.endFill t 15).modTile t fun x => { { x with queue := rest }.freshFor k j t with pc := entry }
      let s := if k.fallback then s.pokeTile t j.air.mask (bytesOf 48 j.air.pend) else s
      (s.clearTaskRegs t).notePlace k.job t
    if k.copy then
      let s := begin' s 0
      let s := if j.inCount = 0 then s else s.startInst t 0 (copyRecord j)
      s.modTile t fun x =>
        { x with halting := true, fences := [{ upTo := x.startOrder, signal := none, implicit := true }] }
    else
      let (h, e) := j.program k.fallback
      match s.loadImage t j.ptn k.job h k.fallback e with
      | (some s, _) => begin' s (objArg e)
      | (none, s) => s

/-- An idle tile starts the head of its queue, if that is a waiting task. -/
def State.startHead (s : State) (t : Nat) : State :=
  let x := s.tile t
  if x.task.isSome ∨ ¬s.tileServes t then s
  else
    match x.queue with
    | { task := k, slot := none, .. } :: rest => s.startTask t k rest
    | _ => s

/-! ## Task end (R80, R82, R129, R162, R223) -/

/-- The signals of the fences that retire at the end of a task, in issue order. (log 182: DEDUCED) -/
def State.retireFences (s : State) (fs : List Fence) : State :=
  forEach fs (fun f s =>
    match f.signal with
    | some e => s.signal (bits e 11 10) (bits e 9 0) (bits e 27 16)
    | none => s) s

/-- The fences that retire at the end of a task: all of them after HALT; of a stopped task those before the first one that covers an
instance not completed (R222, R223). -/
def Tile.lastFences (x : Tile) : List Fence := if x.stopped then x.fences.takeWhile x.fenceDone else x.fences

/-- The task's counts join its job's, with its log entry, its physical tile and its failures. (log 166: DEDUCED) -/
def State.taskTotals (s : State) (t : Nat) (k : Task) (stopped : Bool) : State :=
  let x := s.tile t
  let sat := satAdd (s.reg SIG_NSAT t) (s.reg SIG_WSAT t) 0xFFFFFFFF
  let s := if sat = 0 then s else s.numLog t logSignal (x.haltPc.getD x.pc) 0 { sat := sat } 0 0 0
  let s := s.addTotals k.job (s.reg TIL_NSAT t) (s.reg TIL_NFLUSH t) (s.reg TIL_NNAN t)
  let s := if x.withheld ∨ (stopped ∧ x.unissued) then s.jobFlag k.job rfSuppressed else s
  if x.mismatch then s.failTask k.job fcCheckMismatch k.fallback else s

/-- The tile's task has nothing left to do: HALT or a stop has ended its program, and what it had issued is done. -/
def Tile.ended (x : Tile) : Bool :=
  x.halting && x.issuing.isNone && x.arrIdle && x.krun.isNone && x.reqs.isEmpty && (x.stopped || x.streamsDone)
    && (x.state == .run || x.state == .wait)

/-- The task ends. -/
def State.endTask (s : State) (t : Nat) : State :=
  let x := s.tile t
  match x.task with
  | none => s
  | some k =>
    if ¬x.ended then s
    else
      let s := s.drainTile t
      let s := s.retireFences x.lastFences
      let s := s.taskTotals t k x.stopped
      let s := s.modTile t fun x =>
        { x with state := .idle, task := none, halting := false, stopped := false, preempt := false, sliceEnd := false,
                 fences := [], bound := none, inHandler := false, delay := false, branch := none, paidStall := false,
                 resvWait := none, pend := .empty, insts := ⟨x.insts.rows.map fun r => (r.1, { r.2 with state := .done })⟩ }
      s.taskDone k.job

/-! ## When a task gives up its tile (R346, R347) -/

/-- Run time of the running task, ns. -/
def State.runTime (s : State) (k : Task) : Nat := k.runNs + (s.now - k.started) / nsUnit

/-- The head of the queue is as urgent as the running task, which has run its quantum since it last started or was restored
(R346). -/
def State.quantumDue (s : State) (t : Nat) : Bool :=
  let x := s.tile t
  match x.task, x.queue with
  | some k, e :: _ => decide (s.taskTime e.task ≤ s.taskTime k) && decide (k.quantum * 1000 ≤ s.runTime k - k.base)
  | _, _ => false

/-- A task at the head of the queue pre-empts at once: a fallback task, a launched task, a resumed holder (R347). -/
def Tile.headDue (x : Tile) : Bool :=
  match x.queue with
  | e :: _ => e.head
  | [] => false

/-- The task that runs on tile t is to be pre-empted at this bundle boundary. (log 96: DEDUCED) -/
def State.preemptDue (s : State) (t : Nat) : Bool :=
  let x := s.tile t
  let urgent := match x.queue, x.task with
    | e :: _, some k => x.preempt && decide (s.taskTime e.task ≤ s.taskTime k)
    | _, _ => false
  x.task.isSome && (x.state == .run || x.state == .wait) && x.issuing.isNone && !x.halting
    && (x.sliceEnd || x.headDue || urgent) && !s.saveBarred (s.taskPtn t) t

/-! ## Local interrupts (R126, R348) -/

/-- The lowest pending and enabled source. -/
def Tile.irqSource (x : Tile) : Option Nat := firstFrom (fun k => (x.ipend &&& x.imask).getLsbD k) 0 3

/-- The tile takes an interrupt between bundles, once a pending delay bundle has issued; a pre-emption due at the same boundary
goes before it. -/
def State.enterInterrupt (s : State) (t : Nat) : State :=
  let x := s.tile t
  match x.irqSource with
  | none => s
  | some k =>
    if ¬(x.task.isSome && (x.state == .run || x.state == .wait) && x.issuing.isNone && !x.halting && x.ie && !x.delay) ∨ s.preemptDue t then s
    else
      let s := s.drainTile t
      s.modTile t fun x =>
        { x with epc := BitVec.ofNat 32 x.pc, eflags := x.flags,
                 flags := BitVec.ofNat 32 (setBits x.flags.toNat 7 4 0), cause := BitVec.ofNat 32 k,
                 ipend := x.ipend &&& ~~~BitVec.ofNat 32 (2 ^ k), pc := x.ivec.toNat % 4096, inHandler := true,
                 state := .run, bound := none, paidStall := false }

end Sys2Proof.Machine
end

