-- ==== Sys2Proof/Machine/StreamRun.lean ====
section
/-! DEFINITION. The stream engine at work: list fetches (R212-R214), the forming of requests (R215-R218), the near side, and
delivery (R219-R224, R302). -/
namespace Sys2Proof.Machine

def State.modInst (s : State) (t d : Nat) (f : Inst → Inst) : State :=
  match (s.tile t).insts.find? d with
  | some i => s.modTile t fun x => { x with insts := x.insts.put d (f i) }
  | none => s

/-- Who meets a translation fault in a stream engine. -/
def State.streamWho (s : State) (t d : Nat) : Requester :=
  match s.taskJob t with
  | some (j, x) => { kind := 0, unit := t, handle := d, job := j, tag := x.tag }
  | none => { kind := 0, unit := t, handle := d, job := 0, tag := 0 }

/-- A translation fault stops issue for the instance, with its cursor at element `elt` of block `blk` (R225).
(log 48: DEDUCED) -/
def State.faultWait (s : State) (t d va : Nat) (write : Bool) (blk elt : Nat) (f : MFault) : State :=
  let s := s.mmuFault (s.taskPtn t) va write true (s.streamWho t d) f
  let s := s.incSat STM_RCNT.FAULTS 1 t
  s.modInst t d fun i => { i with state := .faultWait, faultAt := (blk, elt) }

/-! ## Activation (R210) -/

/-- Instances that take one of the engine's 16 places. -/
def Tile.activeInsts (x : Tile) : Nat :=
  (x.insts.rows.filter fun r => r.2.state == .active || r.2.state == .faultWait).length

/-- The QUEUED instance started first becomes ACTIVE, if fewer than 16 are. -/
def Tile.activate (x : Tile) : Tile :=
  if 16 ≤ x.activeInsts ∨ x.stopped then x
  else
    match minBy (fun (r : Nat × Inst) => r.2.order) (x.insts.rows.filter fun r => r.2.state == .queued) with
    | some (d, i) => { x with insts := x.insts.put d { i with state := .active } }
    | none => x

/-! ## List fetches (R212-R214) -/

/-- Address of a side's list. -/
def Inst.listBase (i : Inst) (j : Job) (out : Bool) : Nat :=
  if out then (if i.jobOut then j.outList else i.list2)
  else
    match i.listSrc with
    | 0 => i.list
    | 1 => j.inList
    | _ => j.outList

/-- The input entry that JOB supplies to a PRACH_OCC job: linear, with the candidate block's address and length (R269). -/
def Job.suppliedEntry (j : Job) (src : Nat) (out trav : Bool) : Option (List Byte) :=
  if j.cls = 2 ∧ src = 1 ∧ ¬out ∧ ¬trav then
    (j.inBlks.head?).map fun b => bytesOf 8 b.1 ++ bytesOf 4 b.2 ++ List.replicate 20 0#8
  else none

/-- What a side fetches next: the traverse of an entry, or an entry, at most 8 ahead of the block being issued.
(log 49: DEDUCED) -/
def Inst.nextFetch (i : Inst) (out : Bool) : Option (Nat × Option Nat) :=
  let m := if out then i.outs else i.ins
  let base := if out then i.oblk else i.blk
  match m.rows.find? fun r => r.2.trav.isSome with
  | some (k, b) => some (k, b.trav)
  | none => (firstFrom (fun k => (m.find? k).isNone) base 9).bind fun k =>
      if k < i.count ∧ k ≤ base + 8 then some (k, none) else none

/-- An input entry of which the near operand of an atomic is aligned (R213). -/
def Inst.atomicOk (i : Inst) (b : Block) : Bool := b.kind != 2 || (i.nearBase + b.near) % b.esize == 0

/-- The output entry pairs with its input block (R212). -/
def pairs (inp : Option Block) (out : Block) : Bool :=
  match inp with
  | some b => b.trav.isNone && out.kind == 0 && b.bytes == out.bytes
  | none => false

/-- Store a fetched entry or traverse; a faulty one stops the task (R227). -/
def State.keepEntry (s : State) (t d k : Nat) (out : Bool) (i : Inst) (b : Option Block) : State :=
  match b with
  | none => s.streamFault t d k tfStmList
  | some b =>
    if out then
      if pairs (i.ins.find? k) b then s.modInst t d fun i => { i with outs := i.outs.put k b }
      else s.streamFault t d k tfStmList
    else if i.atomicOk b then s.modInst t d fun i => { i with ins := i.ins.put k b }
    else s.streamFault t d k tfStmList

/-- A migrated task may not address cluster memory, nor another tile's memory (R350). (log 100: DEDUCED) -/
def State.migratedBad (s : State) (t ga : Nat) : Bool :=
  ((s.tile t).task.map fun k => k.migrated).getD false &&
    match region (localOf ga) with
    | .cluMem _ _ => true
    | .tileMem n _ => n != t || chipOf ga != s.chipId
    | _ => false

/-- A list fetch at `va` addresses such memory. (log 100: DEDUCED) -/
def State.migratedFetch (s : State) (t p va : Nat) : Bool :=
  match (s.translate p va false).1 with
  | .ok (ga, _) => s.migratedBad t ga
  | .error _ => false

/-- The next entry or traverse of descriptor d's instance is fetched. -/
def State.listFetch (s : State) (t d : Nat) (out : Bool) : State :=
  let x := s.tile t
  match x.insts.find? d, s.taskJob t with
  | some i, some (_, j) =>
    if i.state ≠ .active ∨ x.stopped ∨ (out ∧ i.dir ≠ 2) then s
    else
      match i.nextFetch out with
      | none => s
      | some (k, trav) =>
        if out ∧ ¬((i.ins.find? k).map fun b => b.trav.isNone) = some true then s
        else
          let va := match trav with
            | some a => a
            | none => (i.listBase j out + 32 * (i.first + k)) % 2 ^ 48
          let beyond := out && i.jobOut && trav.isNone && decide (j.outCount ≤ i.first + k)
          let got : Except VFault (List Byte) × State := match j.suppliedEntry i.listSrc out trav.isSome with
            | some e => (.ok e, s)
            | none => s.vRead j.ptn va (if trav.isSome then 64 else 32)
          if beyond then s.streamFault t d k tfStmList
          else if s.migratedFetch t j.ptn va then s.streamFault t d k tfMigrated
          else match got with
          | (.error (.mmu f), s) => s.faultWait t d va false k 0 f
          | (.error (.code c), s) => s.streamFault t d k c
          | (.ok bs, s) =>
            let b := match trav, i.ins.find? k with
              | some _, some b => parseTraverse b bs
              | some _, none => none
              | none, _ => parseEntry bs i.dir out
            s.keepEntry t d k out i b
  | _, _ => s

/-! ## Places in a block -/

/-- The window offset of the near byte at place q of a block. -/
def Inst.nearAt (i : Inst) (b : Block) (q : Nat) : Option Nat :=
  nearByte (i.ctl 6) (b.nearOf i.nearBase (q / b.esize) + (q % b.esize : Nat))

/-- Bytes of near operand that an atomic reads (R213). -/
def Block.operand (b : Block) : Nat := if b.atop = 3 then 2 * b.esize else b.esize

/-- The fault of element e of an instance's input side, if it has one (R215, R216). (log 50: DEDUCED) -/
def Inst.eltFault (i : Inst) (b : Block) (e : Nat) : Option Nat :=
  let a : Int := (min b.esize 16 : Nat)
  if b.far e % a ≠ 0 then some tfStmAlign
  else if i.dir = 2 then none
  else if b.nearOf i.nearBase e % a ≠ 0 then some tfStmAlign
  else
    let n := if b.kind = 2 then b.operand else b.esize
    if (List.range n).all fun c => (nearByte (i.ctl 6) (b.nearOf i.nearBase e + c)).isSome then none else some tfStmNearRange

/-- Output address of element e of a DIR 0b10 block: the near strides apply on the output side (R214). (log 49: DEDUCED) -/
def outFar (b o : Block) (e : Nat) : Int := (o.addr : Int) + dot (coords e b.counts) b.nearStr

/-! ## Requests (R217) -/

/-- Extend a request of `len` bytes by elements from `e` on while they continue it within its window: its length, and how
many elements merged. -/
def extendReq (es : Nat) (farOf : Nat → Int) (ok : Nat → Bool) (far0 : Int) (room : Nat) : Nat → Nat → Nat → Nat → Nat × Nat
  | 0, _, len, m => (len, m)
  | n + 1, e, len, m =>
    if room < len + es ∨ ¬ok e ∨ farOf e ≠ far0 + len then (len, m)
    else extendReq es farOf ok far0 room n (e + 1) (len + es) (m + 1)

/-- A request about to be issued: block, place of its first byte, far address, length, elements merged, and the fault of
its first element. -/
structure Form where
  blk : Nat
  pos : Nat
  far : Nat
  len : Nat
  merged : Nat
  fault : Option Nat
deriving DecidableEq, Repr

/-- Form the next request of the side that reads the input list (of the far side in DIR 0b01). (log 50: DEDUCED) -/
def Inst.formIn (i : Inst) : Option Form :=
  match i.ins.find? i.blk with
  | none => none
  | some b =>
    if b.trav.isSome ∨ i.count ≤ i.blk then none
    else
      let far0 := b.far i.elt + i.off
      let va := (far0 % (2 ^ 48 : Int)).toNat
      let room := 4096 - va % 4096
      let first := min (b.esize - i.off) room
      let ok := fun e => decide (e < b.elts) && (i.eltFault b e).isNone
      let (len, m) := if b.kind = 2 ∨ first < b.esize - i.off then (first, 0)
        else extendReq b.esize b.far ok far0 room room (i.elt + 1) first 0
      some { blk := i.blk, pos := i.elt * b.esize + i.off, far := va, len := len, merged := m, fault := i.eltFault b i.elt }

/-- Form the next write request of DIR 0b10, once its bytes have been received. (log 50: DEDUCED) -/
def Inst.formOut (i : Inst) : Option Form :=
  match i.ins.find? i.oblk, i.outs.find? i.oblk with
  | some b, some o =>
    if b.trav.isSome ∨ i.count ≤ i.oblk then none
    else
      let far0 := outFar b o i.oelt + i.ooff
      let va := (far0 % (2 ^ 48 : Int)).toNat
      let room := 4096 - va % 4096
      let aligned := fun e => decide (outFar b o e % (min b.esize 16 : Nat) = 0)
      let first := min (b.esize - i.ooff) room
      let pos := i.oelt * b.esize + i.ooff
      let (len, m) := if first < b.esize - i.ooff then (first, 0)
        else extendReq b.esize (outFar b o) (fun e => decide (e < b.elts) && aligned e) far0 room room (i.oelt + 1) first 0
      if (List.range len).all fun c => (i.buf.find? (i.oblk * 2 ^ 25 + pos + c)).isSome then
        some { blk := i.oblk, pos := pos, far := va, len := len, merged := m,
               fault := if aligned i.oelt then none else some tfStmAlign }
      else none
  | _, _ => none

/-- The cursor after a request: block, element, byte within it. -/
def cursorAfter (b : Block) (blk pos len : Nat) : Nat × Nat × Nat :=
  let q := pos + len
  if b.bytes ≤ q then (blk + 1, 0, 0) else (blk, q / b.esize, q % b.esize)

/-! ## The near side (R215, R219) -/

/-- Write received bytes of a block from place `q` up; a byte that a later place has written stays. -/
def State.nearWrite (s : State) (t d blk : Nat) : Nat → List Byte → State
  | _, [] => s
  | q, b :: bs =>
    match (s.tile t).insts.find? d with
    | none => s
    | some i =>
      match i.ins.find? blk with
      | none => s
      | some bl =>
        match i.nearAt bl q with
        | none => s.nearWrite t d blk (q + 1) bs
        | some o =>
          let key := blk * 2 ^ 21 + o
          if i.placed.getD key 0 ≤ q + 1 then
            ((s.modInst t d fun i => { i with placed := i.placed.put key (q + 1) }).pokeTile t o [b]).nearWrite t d blk
              (q + 1) bs
          else s.nearWrite t d blk (q + 1) bs

/-- The near bytes of a block from place `q`, `n` of them. (log 35: DESIGN CHOICE) -/
def State.nearRead (s : State) (t : Nat) (i : Inst) (b : Block) (q n : Nat) : List Byte :=
  (List.range n).map fun k =>
    match i.nearAt b (q + k) with
    | some o => s.byte (tileMemBase t + o)
    | none => 0#8

/-- The near operand of an atomic: its bytes run on from the block's near address. -/
def State.nearOperand (s : State) (t : Nat) (i : Inst) (b : Block) : List Byte :=
  (List.range b.operand).map fun (c : Nat) =>
    match nearByte (i.ctl 6) (b.nearOf i.nearBase 0 + c) with
    | some o => s.byte (tileMemBase t + o)
    | none => 0#8

def keepBytes (m : Table (Option Byte)) (base : Nat) : List Byte → Table (Option Byte)
  | [] => m
  | b :: bs => keepBytes (m.put base (some b)) (base + 1) bs

/-- Read data of a request reaches the near side, or waits for the output side. -/
def State.dataArrives (s : State) (t : Nat) (r : SReq) (bs : List Byte) : State :=
  match (s.tile t).insts.find? r.desc with
  | none => s
  | some i =>
    if i.order ≠ r.order then s
    else if i.dir = 2 then
      s.modInst t r.desc fun i =>
        { i with buf := keepBytes i.buf (r.blk * 2 ^ 25 + r.pos) bs, hash := keepBytes i.hash (r.blk * 2 ^ 25 + r.pos) bs }
    else
      (s.nearWrite t r.desc r.blk r.pos bs).modInst t r.desc fun i =>
        { i with moved := i.moved.put r.blk (i.moved.getD r.blk 0 + bs.length) }

/-- A write of a request has been performed. -/
def State.writeDone (s : State) (t : Nat) (r : SReq) : State :=
  match (s.tile t).insts.find? r.desc with
  | none => s
  | some i =>
    if i.order ≠ r.order then s
    else s.modInst t r.desc fun i => { i with moved := i.moved.put r.blk (i.moved.getD r.blk 0 + r.len) }

/-! ## Delivery (R219, R220, R224, R302) -/

/-- Block k has moved in full. -/
def Inst.complete (i : Inst) (k : Nat) : Bool :=
  match i.ins.find? k with
  | some b => b.trav.isNone && i.moved.getD k 0 == b.bytes
  | none => false

/-- The bytes of a block in traversal order, in unskewed order under SKEW. -/
def State.blockBytes (s : State) (t : Nat) (i : Inst) (k : Nat) (b : Block) : List Byte :=
  if i.dir = 0 then s.nearRead t i b 0 b.bytes
  else (List.range b.bytes).map fun c => (i.hash.getD (k * 2 ^ 25 + c) none).getD 0#8

/-- The unit that a delivered block belongs to (R245). (log 40: DEDUCED) -/
def State.reportUnit (s : State) (t : Nat) (i : Inst) (k : Nat) : State :=
  match (s.tile t).task with
  | some x => if i.listSrc = 2 then s.unitDelivered x.job (i.first + k) x.fallback else s
  | none => s

/-- What DGT learns of a delivered block (R224, R421). Atomic entries make no leaf. -/
def State.reportBlock (s : State) (t : Nat) (i : Inst) (k : Nat) (b : Block) : State :=
  match s.taskJob t with
  | none => s
  | some (j, x) =>
    if (s.dgt? j).isNone ∨ b.kind = 2 then s
    else
      let leaf := x.flag 0 && i.ctl 5 && i.listSrc != 0
      let bs := s.blockBytes t i k b
      let e := i.first + k
      let s := match i.listSrc with
        | 1 => s.delivered j 0 e leaf bs
        | 2 => if i.dir = 0 then (if leaf then s.addLeaf j 1 e (sha256 bs) else s) else s.delivered j 1 e leaf bs
        | _ => s
      if i.dir ≠ 2 then s
      else if i.jobOut then s.delivered j 1 e leaf bs
      else if leaf then s.addLeaf j 1 e (sha256 bs) else s

/-- The check-value unit takes a counted block of its descriptor (R302). -/
def State.crcTake (s : State) (t d : Nat) (i : Inst) (k : Nat) (b : Block) : State :=
  if s.flag CRC_CFG.EN t ∧ s.fld CRC_CFG.DESC t = d then
    let last := decide (k + 1 = i.count)
    if i.dir = 2 then (if last then s.incSat CRC_STAT.SKIP 1 t else s)
    else
      s.modTile t fun x =>
        { x with crcQueue := x.crcQueue ++ [{ desc := d, blk := k, last := last, block := b, nearBase := i.nearBase, skew := i.ctl 6 }] }
  else s

/-- Drop what an instance kept of a block that is counted. -/
def Inst.forget (i : Inst) (k : Nat) : Inst :=
  { i with ins := i.ins.del k, outs := i.outs.del k, moved := i.moved.del k,
           buf := i.buf.keep fun a => a / 2 ^ 25 != k, hash := i.hash.keep fun a => a / 2 ^ 25 != k,
           placed := i.placed.keep fun a => a / 2 ^ 21 != k }

/-- The instance has counted its last block: SEM_DONE, and the pending instance becomes QUEUED. -/
def State.instDone (s : State) (t d : Nat) (i : Inst) : State :=
  let s := s.signalEntry i.semDone
  s.modTile t fun x =>
    match x.pend.find? d with
    | some p => { x with insts := x.insts.put d p, pend := x.pend.del d }
    | none => x

/-- Count complete blocks in list order; `fuel` bounds them. -/
def State.deliver (s : State) (t d : Nat) : Nat → State
  | 0 => s
  | fuel + 1 =>
    match (s.tile t).insts.find? d with
    | none => s
    | some i =>
      let k := i.delivered
      match i.ins.find? k with
      | none => s
      | some b =>
        if ¬i.live ∨ ¬i.complete k then s
        else
          let last := decide (k + 1 = i.count)
          let s := (s.reportBlock t i k b).reportUnit t i k
          let s := s.modInst t d fun i =>
            { i.forget k with delivered := k + 1, state := if last then .done else i.state }
          let s := s.signalEntry b.sem
          let s := if b.irq ∨ i.ctl 4 then s.tileIrq t 1 else s
          let s := s.crcTake t d i k b
          if last then s.instDone t d i else s.deliver t d fuel

/-- Request r of tile t is no longer in flight. -/
def State.dropReq (s : State) (t id : Nat) : State :=
  s.modTile t fun x => { x with reqs := x.reqs.filter fun r => r.id != id }

/-- A request has its answer: the read data, or nothing for a write; its blocks are counted. -/
def State.reqDone (s : State) (t : Nat) (r : SReq) (bs : List Byte) : State :=
  let s := s.dropReq t r.id
  let s := if r.write ∧ r.atop = 0 then s.writeDone t r else s.dataArrives t r (fitBytes r.len bs)
  s.deliver t r.desc (maxBlock + 1)

/-- A far-side error ends the job (R227). -/
def State.reqFailed (s : State) (t : Nat) (r : SReq) (code : Nat) : State :=
  (s.dropReq t r.id).streamFault t r.desc r.blk code

/-! ## Fences (R222) -/

/-- The oldest fence retires once every instance that it covers has completed. (log 182: DEDUCED) -/
def State.fenceRetire (s : State) (t : Nat) : State :=
  let x := s.tile t
  match x.fences with
  | [] => s
  | f :: fs =>
    if f.implicit ∨ ¬x.fenceDone f then s
    else (s.modTile t fun x => { x with fences := fs }).retireFences [f]

/-! ## The check-value unit (R302-R304) -/

/-- Registers of a check-value unit take effect, or wait for the block being fed. -/
def State.crcWrite (s : State) (t a v : Nat) : State :=
  let x := s.tile t
  if x.crcFeed.isSome then s.setTile t { x with crcWrites := x.crcWrites ++ [(a, v)] }
  else s.crcPerform t a v

/-- The unit starts on the next counted block. -/
def State.crcStart (s : State) (t : Nat) : State :=
  let x := s.tile t
  match x.crcFeed, x.crcQueue with
  | none, b :: rest =>
    let s := s.setTile t { x with crcFeed := some b, crcQueue := rest }
    let s := s.setFld CRC_STAT.FEEDING 1 t
    if s.flag CRC_CFG.RST t then s.setReg CRC_VALUE (s.reg CRC_INIT t) t else s
  | _, _ => s

/-- The bits of a block in feed order without the last TRIM of them. -/
def crcBits (c : CrcCode) (bs : List Byte) (trim : Nat) : List Nat :=
  let l := bs.flatMap (feedOrder c)
  l.take (l.length - trim)

/-- The feed of a block ends: the running value, the compare with its signal and interrupt, the writes that waited.
(log 96: DEDUCED) -/
def State.crcEnd (s : State) (t : Nat) : State :=
  let x := s.tile t
  match x.crcFeed with
  | none => s
  | some b =>
    let c := crcCode (s.fld CRC_CFG.POLY t)
    let bs := (List.range b.block.bytes).map fun q =>
      match nearByte b.skew (b.block.nearOf b.nearBase (q / b.block.esize) + (q % b.block.esize : Nat)) with
      | some o => s.byte (tileMemBase t + o)
      | none => 0#8
    let v := crcFeedBits c (s.reg CRC_VALUE t % 2 ^ c.width) (crcBits c bs (s.fld CRC_CFG.TRIM t))
    let s := (s.setReg CRC_VALUE v t).setFld CRC_STAT.FEEDING 0 t
    let cmp := s.fld CRC_CFG.CMP t
    let s :=
      if cmp = 1 ∨ (cmp = 2 ∧ b.last) then
        let s :=
          if v = s.reg CRC_EXPECT t % 2 ^ c.width then s
          else
            let s := (s.incSat CRC_STAT.MISMATCH 1 t).setReg CRC_LAST (b.desc * 2 ^ 24 + b.blk % 2 ^ 24) t
            if s.flag CRC_CFG.IRQ t then s.tileIrq t 2 else s
        if s.flag CRC_SEM.V t then s.signal (s.fld CRC_SEM.CLUSTER t) (s.fld CRC_SEM.INDEX t) 1 else s
      else s
    let s := s.modTile t fun x => { x with crcFeed := none, crcWrites := [], crcPos := if b.last then 0 else b.blk + 1 }
    forEach x.crcWrites (fun w s => s.crcPerform t w.1 w.2) s

end Sys2Proof.Machine
end

