-- ==== Sys2Proof/Machine/StreamReq.lean ====
section
/-! DEFINITION. Stream requests: their issue (R217, R218), the packets that carry them to other devices (R408), and the
responses, which park in the bivouac buffer while the context is saved (R351, R359-R361). -/
namespace Sys2Proof.Machine

/-- Tile t's stream engine works: the tile runs a task that nothing has stopped, or drains before a save (R351), and its partition
is not quiesced (R94, R223). (log 101: DEDUCED) -/
def State.streamWorks (s : State) (t : Nat) : Bool :=
  let x := s.tile t
  s.domOn t && x.task.isSome && !x.stopped && (x.state == .run || x.state == .wait || (x.state == .save && x.slot.isNone))
    && !s.flag JOB_PQ_STAT.QUIESCED (s.taskPtn t)

/-! ## Requests to other devices -/

/-- The request was sent to another device. -/
def SReq.remote (r : SReq) : Bool := r.tag.isSome

/-- The channel of a stream request (R403, R408, R409). (log 102: DEDUCED) -/
def SReq.vc (r : SReq) : Nat := if r.atop ≠ 0 then 1 else accessVc r.write (localOf r.ga) r.len

/-- The packet of a stream request. (log 102: DEDUCED) -/
def SReq.packet (r : SReq) (me p : Nat) : Packet :=
  let kind := if r.atop ≠ 0 then pkAtom else if r.write then pkWr else pkRdReq
  { dst := chipOf r.ga, srcPtn := p, src := me, kind := kind, vc := r.vc, hops := 0, path := 0, op := r.atop,
    len := (if kind = pkRdReq then r.len else r.data.length) - 1, tag := 0, addr := localOf r.ga, data := r.data }

/-- A write or an atomic, which reserves a granule of the bivouac buffer (R360). -/
def SReq.reserves (r : SReq) : Bool := r.write || r.atop != 0

/-- A granule is free for a reservation. (log 103: DEDUCED) -/
def State.canReserve (s : State) (c : Nat) : Bool :=
  decide (s.fld CLU_BIV.RESV c < 2048) && decide (s.fld CLU_BIV.PARKED c + s.fld CLU_BIV.RESV c < 4096)

/-- Send a request to another device: its tag, or the fault code it fails with. -/
def State.sendStream (s : State) (t : Nat) (r : SReq) : Except Nat (Nat × State) :=
  if s.fld SYS_CHIPID.ID_SET = 0 then .error fcRouteMiss
  else
    let tag := s.yal.nextTag
    match s.sendRequest (r.packet s.chipId (s.taskPtn t))
        { dst := chipOf r.ga, kind := 0, who := t, a := r.id, b := b2n r.reserves, c := 0 } with
    | .error e => .error e
    | .ok s =>
      .ok (tag, if r.reserves then s.setFld CLU_BIV.RESV (s.fld CLU_BIV.RESV (t / 16) + 1) (t / 16) else s)

/-! ## Issue (R217, R218) -/

/-- Requests that one instance may hold. -/
def State.maxOut (s : State) (t : Nat) : Nat :=
  let m := s.fld STM_CFG.MAXOUT t
  if m = 0 ∨ 256 < m then 256 else m

/-- The request that an instance issues in its turn, and whether on the output side; `out` prefers that side of DIR 0b10.
(log 101: DEDUCED) -/
def Inst.form (i : Inst) (out : Bool) : Option (Form × Bool) :=
  let a := i.formIn.map fun f => (f, false)
  let b := i.formOut.map fun f => (f, true)
  if i.dir ≠ 2 then a else if out then b <|> a else a <|> b

/-- The descriptor in turn with its instance and request: one that waits for a granule (R360), else from the one after the last
served on. (log 48: DEDUCED; log 101: DEDUCED) -/
def State.turn (s : State) (t : Nat) (out : Bool) : Option (Nat × Inst × Form × Bool) :=
  let x := s.tile t
  let held := fun (d : Nat) (i : Inst) => (x.reqs.filter fun r => r.desc == d && r.order == i.order).length
  let try' := fun (side : Bool) (r : Nat × Inst) =>
    if r.2.state = .active ∧ held r.1 r.2 < s.maxOut t then (r.2.form side).map fun f => (r.1, r.2, f.1, f.2) else none
  let after := x.insts.rows.filter fun r => decide (x.rrDesc < r.1)
  let before := x.insts.rows.filter fun r => decide (r.1 ≤ x.rrDesc)
  let first := x.resvWait.bind fun w => (x.insts.find? w.1).bind fun i => try' w.2 (w.1, i)
  first <|> (after ++ before).findSome? (try' out)

/-- An atomic's far word lies in HBM or cluster memory, on whichever device (R213). -/
def atomicTarget (ga : Nat) : Bool :=
  match region (localOf ga) with
  | .hbm _ => true
  | .cluMem _ _ => true
  | _ => false

/-- The data of a write as it leaves: near bytes, the atomic's operand, or bytes received on the input side. -/
def State.requestData (s : State) (t : Nat) (i : Inst) (f : Form) (isOut : Bool) (b : Block) : List Byte :=
  if b.kind = 2 then s.nearOperand t i b
  else if isOut then (List.range f.len).map fun c => (i.buf.getD (f.blk * 2 ^ 25 + f.pos + c) none).getD 0#8
  else if i.dir = 1 then s.nearRead t i b f.pos f.len
  else []

/-- The cursor moves past an issued request; bytes sent are kept until their block is counted (R224). -/
def Inst.issued (i : Inst) (f : Form) (isOut : Bool) (b : Block) (data : List Byte) : Inst :=
  let (k, e, o) := cursorAfter b f.blk f.pos f.len
  if isOut then { i with oblk := k, oelt := e, ooff := o }
  else
    { i with blk := k, elt := e, off := o,
             hash := if i.dir = 1 ∧ b.kind ≠ 2 then keepBytes i.hash (f.blk * 2 ^ 25 + f.pos) data else i.hash }

/-- Issue a formed request whose address has been translated. (log 101: DEDUCED) -/
def State.issueForm (s : State) (t d : Nat) (i : Inst) (f : Form) (isOut : Bool) (b : Block) (ga cache : Nat) : State :=
  let x := s.tile t
  let data := s.requestData t i f isOut b
  let r : SReq := { id := x.nextReq, desc := d, order := i.order, blk := f.blk, pos := f.pos, va := f.far, ga := ga, cache := cache,
                    len := f.len, write := (isOut || i.dir == 1) && b.kind != 2, atop := if b.kind = 2 then b.atop else 0,
                    data := data, sent := s.atu.ticks }
  let count := fun (s : State) => (s.incSat STM_REQCNT.COUNT 1 t).incSat STM_MERGED.COUNT f.merged t
  let note := fun (s : State) (r : SReq) =>
    (count s).modTile t fun x =>
      { x with rrDesc := d, resvWait := none, nextReq := x.nextReq + 1, reqs := x.reqs ++ [r],
               insts := x.insts.put d (i.issued f isOut b data) }
  if chipOf ga = s.chipId then note s r
  else if r.reserves ∧ ¬s.canReserve (t / 16) then s.modTile t fun x => { x with resvWait := some (d, isOut) }
  else
    match s.sendStream t r with
    | .ok (tag, s) => note s { r with tag := some tag }
    | .error e => s.streamFault t d f.blk e

/-! ## Responses -/

/-- A request has its answer: its data, or the fault code it failed with. -/
def State.answerReq (s : State) (t : Nat) (r : SReq) (code : Nat) (bs : List Byte) : State :=
  if code = 0 then s.reqDone t r bs else s.reqFailed t r code

/-- A granule reserved for a request is free again. -/
def State.unreserve (s : State) (c : Nat) : State := s.setFld CLU_BIV.RESV (s.fld CLU_BIV.RESV c - 1) c

/-- A response for a saved context parks: an answered write or atomic keeps its granule; read data takes granules of its own,
or is dropped where too few are free (R359-R361). (log 103: DEDUCED) -/
def State.park (s : State) (c : Nat) (x : Tile) (r : SReq) (code : Nat) (bs : List Byte) : Tile × State :=
  let mark := fun (m : ReqMark) => x.reqs.map fun q => if q.id = r.id then { q with mark := m } else q
  let kept := x.parked ++ [{ id := r.id, code := code, data := bs }]
  if r.reserves then ({ x with reqs := mark .performed, parked := kept }, s)
  else if s.fld CLU_BIV.PARKED c + s.fld CLU_BIV.RESV c + granules bs.length ≤ 4096 then
    ({ x with reqs := mark .parked, parked := kept }, s.setFld CLU_BIV.PARKED (s.fld CLU_BIV.PARKED c + granules bs.length) c)
  else ({ x with reqs := mark .dropped }, s.incSat CLU_BIVCNT.DROPPED 1 c)

/-- A response to request `id` of tile t from another device: for its running task, for a context being saved or saved, or for
none any more. (log 159: DESIGN CHOICE) -/
def State.streamAnswer (s : State) (t id : Nat) (reserved : Bool) (code : Nat) (bs : List Byte) : State :=
  let x := s.tile t
  let mine := fun (r : SReq) => r.id == id && r.remote
  match x.reqs.find? mine with
  | some r =>
    if x.state = .save ∧ x.slot.isSome then
      let (x, s) := s.park (t / 16) x r code bs
      s.setTile t x
    else
      let s := if reserved then s.unreserve (t / 16) else s
      s.answerReq t r code bs
  | none =>
    match (List.range 8).findSome? fun d => (s.cairns.find? (t * 8 + d)).bind fun c =>
        (c.ctx.reqs.find? mine).map fun r => (d, c, r) with
    | some (d, c, r) =>
      let (x, s) := s.park (t / 16) c.ctx r code bs
      { s with cairns := s.cairns.put (t * 8 + d) { c with ctx := x } }
    | none => if reserved then s.unreserve (t / 16) else s

/-- A dropped read is sent again (R356, R361). (log 103: DEDUCED) -/
def State.reissue (s : State) (t : Nat) (r : SReq) : State :=
  if (s.tile t).stopped then s.dropReq t r.id
  else if s.flag JOB_PQ_STAT.QUIESCED (s.taskPtn t) then s
  else
    let s := s.incSat STM_REQCNT.COUNT 1 t
    match s.sendStream t r with
    | .ok (tag, s) =>
      s.modTile t fun x => { x with reqs := x.reqs.map fun q => if q.id = r.id then { q with mark := .flight, tag := some tag } else q }
    | .error e => s.reqFailed t r e

/-- The parked responses of tile t's context are applied in the order of their arrival, and its dropped reads go out again.
(log 103: DEDUCED) -/
def State.unpark (s : State) (t : Nat) : State :=
  let x := s.tile t
  let s := (s.releaseGranules (t / 16) x).setTile t
    { x with parked := [], reqs := x.reqs.map fun r => if r.mark = .dropped then r else { r with mark := .flight } }
  let s := forEach x.parked (fun m s =>
    match (s.tile t).reqs.find? fun q => q.id == m.id with
    | some r => s.answerReq t r m.code m.data
    | none => s) s
  forEach (x.reqs.filter fun r => decide (r.mark = .dropped)) (fun r s => s.reissue t r) s

/-! ## The engine's turn -/

/-- A new far-side request of tile t, if one is due. -/
def State.issueNew (s : State) (t : Nat) (out : Bool) : State :=
  match s.turn t out with
  | none => s
  | some (d, i, f, isOut) =>
    match i.ins.find? f.blk, f.fault with
    | none, _ => s
    | _, some c => s.streamFault t d f.blk c
    | some b, none =>
      let w := isOut || i.dir == 1 || b.kind == 2
      match s.translate (s.taskPtn t) f.far w with
      | (.error m, s) => s.faultWait t d f.far w f.blk (f.pos / b.esize) m
      | (.ok (ga, cache), s) =>
        if s.migratedBad t ga then s.streamFault t d f.blk tfMigrated
        else if b.kind = 2 ∧ ¬atomicTarget ga then s.streamFault t d f.blk fcAddrUnmapped
        else s.issueForm t d i f isOut b ga cache

/-- The stream engine issues one far-side request; a dropped read that a quiesced partition held back goes first (R94, R361). -/
def State.issueRequest (s : State) (t : Nat) (out : Bool) : State :=
  if ¬s.streamWorks t then s
  else
    match (s.tile t).reqs.find? fun r => decide (r.mark = .dropped) with
    | some r => s.reissue t r
    | none => if 256 ≤ (s.tile t).reqs.length then s else s.issueNew t out

end Sys2Proof.Machine
end

