-- ==== Sys2Proof/Machine/Cairn.lean ====
section
/-! DEFINITION. Pre-emption and the cairn (R346, R347, R351-R361): when a task is pre-empted, the slot, the header and the body,
save and restore. -/
namespace Sys2Proof.Machine

/-- Everything that the program has issued has completed. -/
def Tile.drained (x : Tile) : Bool :=
  x.inflight.isEmpty && x.arrIdle && x.krun.isNone && x.crcFeed.isNone && x.crcQueue.isEmpty

/-! ## The slot (R352) -/

/-- Rank of tile t among the partition's tiles. -/
def State.tileRank (s : State) (p t : Nat) : Nat := ((s.tilesOf p).filter (· < t)).length

def State.slotSize (s : State) (p : Nat) : Nat :=
  0x36000 + 4096 * (s.fld PTN_TMEM0.XCNT p + s.fld PTN_TMEM0.YCNT p) + 16384 * s.fld PTN_TMEM1.FCNT p

def State.slotAt (s : State) (p t d : Nat) : Nat :=
  s.addrOf PTN_CAIRN_LO PTN_CAIRN_HI p + (s.tileRank p t * s.fld PTN_CFG.DEPTH p + d) * s.slotSize p

/-- Window offsets and lengths of the tile memory that a cairn keeps: X, Y, feed. -/
def State.savedRanges (s : State) (p : Nat) : List (Nat × Nat) :=
  [(4096 * s.fld PTN_TMEM0.XBASE p, 4096 * s.fld PTN_TMEM0.XCNT p),
   (0x80000 + 4096 * s.fld PTN_TMEM0.YBASE p, 4096 * s.fld PTN_TMEM0.YCNT p),
   (feedBase + 16384 * s.fld PTN_TMEM1.FBASE p, 16384 * s.fld PTN_TMEM1.FCNT p)]

/-! ## The body (R354) -/

/-- Lanes of `w` bits of a register, each sign-extended to `n` bytes. -/
def lanesOut (w n count v : Nat) : List Byte :=
  (List.range count).flatMap fun k => bytesOf n ((sext w (v / 2 ^ (w * k) % 2 ^ w) % (2 ^ (8 * n) : Int)).toNat)

/-- The register that such bytes give back. -/
def lanesIn (w n count : Nat) (bs : List Byte) : Nat :=
  (List.range count).foldl (fun v k => v + field bs (n * k) n % 2 ^ w * 2 ^ (w * k)) 0

/-- Bytes of sections of equal size. -/
def each (count : Nat) (f : Nat → List Byte) : List Byte := (List.range count).flatMap f

/-- The scalar section. -/
def Tile.scalarBytes (x : Tile) : List Byte :=
  each 32 (fun i => bytesOf 4 (x.sr i).toNat) ++ each 8 (fun i => bytesOf 2 (x.axr i).toNat)
    ++ each 8 (fun i => bytesOf 2 (x.ayr i).toNat) ++ each 8 (fun i => bytesOf 4 (x.mr i).toNat)
    ++ each 4 (fun i => bytesOf 4 (x.lcr i).toNat) ++ each 4 (fun i => bytesOf 2 (x.lsr i).toNat)
    ++ each 4 (fun i => bytesOf 2 (x.ler i).toNat)
    ++ [x.flags, x.epc, x.eflags, x.cause, x.ivec, x.imask, x.ipend].flatMap (fun v => bytesOf 4 v.toNat)
    ++ bytesOf 4 x.pall

/-- The lane section, with the task's counters and the list position of the check-value unit. -/
def State.laneBytes (s : State) (t : Nat) (x : Tile) : List Byte :=
  fitBytes 4096
    (each 16 (fun i => bytesOf 64 (x.nr i).toNat) ++ each 16 (fun i => lanesOut 24 4 16 (x.wr i).toNat)
      ++ each 4 (fun i => lanesOut 40 8 32 (x.na.getD i 0).toNat) ++ each 4 (fun i => lanesOut 56 8 16 (x.wa.getD i 0).toNat)
      ++ taskRegs.flatMap (fun r => bytesOf 4 (s.taskReg t r)) ++ bytesOf 4 x.crcPos ++ bytesOf 4 x.taskCyc ++ bytesOf 4 x.stallCyc
      ++ bytesOf 4 x.cyc.toNat)

/-- The accumulator section. -/
def Tile.accBytes (x : Tile) : List Byte := each 8192 fun k => bytesOf 12 (x.acc.getD k 0).toNat

/-- The weight blocks of a context, packed: the active ones by sub-array, then the shadow ones (R139). -/
def Tile.weightBlocks (x : Tile) : List WBlock :=
  let w := (List.range 4).filterMap fun k => x.weights.find? k
  w.filterMap (·.active) ++ w.filterMap (·.shadow)

/-- The weight section. (log 95: DESIGN CHOICE) -/
def Tile.weightBytes (x : Tile) : List Byte := fitBytes 33280 (x.weightBlocks.flatMap (·.bytes))

/-- The body. How a record of the sections of array control, instances, requests and fences is laid out within itself the spec
leaves open: its bytes are free. What no record uses is zero. (log 95: DESIGN CHOICE) -/
def State.cairnBody (s : State) (p t : Nat) (x : Tile) : List Byte × State :=
  let (a, s) := s.draw
  let (b, s) := s.draw
  let (c, s) := s.draw
  let (d, s) := s.draw
  let insts := fitBytes 65536 (bytesOf (128 * (x.insts.rows.length + x.pend.rows.length)) b)
  let reqs := fitBytes 8192 (bytesOf (32 * x.reqs.length) c)
  let fences := fitBytes 256 (bytesOf (32 * x.fences.length) d)
  let ranges := (s.savedRanges p).flatMap fun r => s.read (tileMemBase t + r.1) r.2
  (x.scalarBytes ++ s.laneBytes t x ++ each 32 (fun i => bytesOf 256 (x.vr i).toNat) ++ x.accBytes
    ++ fitBytes 256 (bytesOf 256 a) ++ x.weightBytes ++ insts ++ reqs ++ fitBytes 2816 fences ++ ranges, s)

/-- A table of register values, zeros unlisted. -/
def tableOf {β : Type} (count : Nat) (zero : β → Bool) (f : Nat → β) : Table β :=
  ⟨((List.range count).map fun k => (k, f k)).filter fun r => !zero r.2⟩

/-- The context as a body's scalar, lane, vector and accumulator sections give it. `bs` is the whole slot.
(log 95: DESIGN CHOICE) -/
def Tile.loadBody (x : Tile) (bs : List Byte) : Tile :=
  let a := (bs.drop 0x100).take 0x100
  let b := (bs.drop 0x200).take 0x1000
  let w := fun (k : Nat) => BitVec.ofNat 32 (field a (224 + 4 * k) 4)
  let pall := field a 252 4
  { x with
    s := tableOf 32 (· == 0) fun i => BitVec.ofNat 32 (field a (4 * i) 4)
    ax := tableOf 8 (· == 0) fun i => BitVec.ofNat 16 (field a (128 + 2 * i) 2)
    ay := tableOf 8 (· == 0) fun i => BitVec.ofNat 16 (field a (144 + 2 * i) 2)
    m := tableOf 8 (· == 0) fun i => BitVec.ofNat 32 (field a (160 + 4 * i) 4)
    lc := tableOf 4 (· == 0) fun i => BitVec.ofNat 32 (field a (192 + 4 * i) 4)
    ls := tableOf 4 (· == 0) fun i => BitVec.ofNat 12 (field a (208 + 2 * i) 2)
    le := tableOf 4 (· == 0) fun i => BitVec.ofNat 12 (field a (216 + 2 * i) 2)
    flags := w 0
    epc := w 1
    eflags := w 2
    cause := w 3
    ivec := w 4
    imask := w 5
    ipend := w 6
    p := tableOf 8 (fun v => !v) fun i => i != 0 && bit pall i
    n := tableOf 16 (· == 0) fun i => BitVec.ofNat 512 (field b (64 * i) 64)
    w := tableOf 16 (· == 0) fun i => BitVec.ofNat 384 (lanesIn 24 4 16 (b.drop (1024 + 64 * i)))
    na := tableOf 4 (· == 0) fun i => BitVec.ofNat 1280 (lanesIn 40 8 32 (b.drop (2048 + 256 * i)))
    wa := tableOf 4 (· == 0) fun i => BitVec.ofNat 896 (lanesIn 56 8 16 (b.drop (3072 + 128 * i)))
    crcPos := field b 3632 4
    taskCyc := field b 3636 4
    stallCyc := field b 3640 4
    cyc := BitVec.ofNat 32 (field b 3644 4)
    v := tableOf 32 (· == 0) fun i => BitVec.ofNat 2048 (field bs (0x1200 + 256 * i) 256)
    acc := tableOf 8192 (· == 0) fun k => BitVec.ofNat 96 (field bs (0x3200 + 12 * k) 12) }

/-! ## The header (R353) -/

/-- Bytes 0-255 of a slot. -/
def State.cairnHeader (s : State) (t : Nat) (x : Tile) (k : Task) (j : Job) (st size crc : Nat) : List Byte :=
  let out := x.reqs.filter SReq.remote
  let reads := (out.filter fun r => !r.write && r.atop == 0).length
  let h := bytesOf 2 1 ++ bytesOf 1 st ++ bytesOf 1 (t % 64) ++ bytesOf 4 j.tag ++ bytesOf 1 j.gen ++ bytesOf 1 j.ring
    ++ bytesOf 2 k.index ++ bytesOf 2 j.nTasks ++ bytesOf 2 (x.pc % 4096) ++ bytesOf 4 size
    ++ bytesOf 1 (b2n x.inHandler + 2 * b2n x.waited + 4 * b2n x.sliceEnd) ++ bytesOf 3 0
    ++ bytesOf 8 x.saveTs ++ bytesOf 8 k.runNs ++ bytesOf 4 reads ++ bytesOf 4 (out.length - reads) ++ bytesOf 4 crc
  fitBytes 256 (h ++ bytesOf 4 (crc32c h))

/-! ## Save (R351, R355, R357) -/

def cairnWho (t : Nat) (k : Task) (j : Job) : Requester := { kind := 8, unit := t, handle := 0, job := k.job, tag := j.tag }

/-- A cairn write has faulted: the pre-emption is abandoned and the task goes on (R357). -/
def State.abandonSave (s : State) (t : Nat) (k : Task) (j : Job) (va : Nat) (e : VFault) : State :=
  let s := match e with
    | .mmu f => s.mmuFault j.ptn va true false (cairnWho t k j) f
    | .code _ => s
  let s := s.setFld PTN_PSTAT.CAIRN_FAULT 1 j.ptn
  let s := s.modTile t fun x =>
    { x with state := .run, slot := none, preempt := false, sliceEnd := false, cairnBar := true,
             task := some { k with started := s.now } }
  (s.jobEvent k.job evCairnFault t []).unpark t

/-- Issue stops, and operations in flight complete. -/
def State.beginDrain (s : State) (t : Nat) : State :=
  let s := s.drainTile t
  s.modTile t fun x =>
    { x with state := .save, saveFrom := s.now, waited := x.state == .wait, task := x.task.map fun k => { k with runNs := s.runTime k } }

/-- The drain has ended: the lowest free slot, and the header with STATE 2. (log 96: DEDUCED) -/
def State.beginSave (s : State) (t : Nat) (k : Task) (j : Job) : State :=
  let d := ((List.range 8).find? fun d => !(s.slotsHeld t).contains d).getD 0
  let s := s.modTile t fun x => { x with slot := some d, saveTs := s.count }
  let va := s.slotAt j.ptn t d
  match s.put j.ptn va (s.cairnHeader t (s.tile t) k j 2 (s.slotSize j.ptn) 0) with
  | (.ok _, s) => s
  | (.error e, s) => s.abandonSave t k j va e

/-- The steps of a pre-emption that begin at a bundle boundary (R351): issue stops; once everything issued has completed, the
cairn begins to be written. -/
def State.preempt (s : State) (t : Nat) : State :=
  let s := if s.preemptDue t then s.beginDrain t else s
  let x := s.tile t
  match x.task, s.taskJob t with
  | some k, some (_, j) => if x.state = .save ∧ x.slot.isNone ∧ x.drained ∧ ¬x.halting then s.beginSave t k j else s
  | _, _ => s

/-- A stopped task that was being saved or restored ends instead. -/
def State.endStopped (s : State) (t : Nat) : State :=
  ((s.modTile t fun x => { x with state := .run, slot := none }).unpark t).endTask t

/-- What a saved context keeps of its requests: local ones have completed; remote writes and atomics hold their granules. -/
def markSaved (r : SReq) : SReq :=
  if r.mark = .flight ∧ (r.write ∨ r.atop ≠ 0) then { r with mark := .reserved } else r

/-- The context of tile `x` as its cairn keeps it, for the task `k`. (log 95: DESIGN CHOICE) -/
def Tile.savedContext (x : Tile) (k : Task) : Tile :=
  { x with queue := [], task := some k, reqs := x.reqs.map markSaved, preempt := false, sliceEnd := false,
           slot := none, loaded := none }

/-- The tile once its task is saved: idle, with the task in its queue. -/
def Tile.afterSave (x : Tile) (queue : List QEntry) : Tile :=
  { queue := queue, loaded := x.loaded, cairnBar := x.cairnBar, startOrder := x.startOrder, nextReq := x.nextReq, rrDesc := x.rrDesc,
    suspect := x.suspect, regions := x.regions, activeSet := x.activeSet, split := x.split, fmt := x.fmt, fill := x.fill,
    lfsr := x.lfsr, lastKernel := x.lastKernel }

/-- The cairn of slot d of tile t is written (R351, R355): the task `k` waits in the tile's queue and the tile is idle. -/
def State.keepCairn (s : State) (t d p : Nat) (x : Tile) (k : Task) : State :=
  let k := { k with inherit := x.sliceEnd }
  let s := { s with cairns := s.cairns.put (t * 8 + d) { ptn := p, ctx := x.savedContext k, regs := taskRegs.map (s.taskReg t) } }
  let s := s.setTile t (x.afterSave (s.insertSaved { task := k, slot := some d, head := false } x.queue))
  let s := (s.incSat PTN_CNT0.PREEMPTS 1 p).setFld PTN_PSTAT.CAIRNS (s.fld PTN_PSTAT.CAIRNS p + 1) p
  s.setReg PTN_MAXSAVE (max (s.reg PTN_MAXSAVE p) (min ((s.now - x.saveFrom) / nsUnit) (2 ^ 32 - 1))) p

/-- The body and then the header of the cairn in slot d of tile t are written (R351, R357). -/
def State.writeCairn (s : State) (t d : Nat) (x : Tile) (k : Task) (j : Job) (body : List Byte) : State :=
  let va := s.slotAt j.ptn t d
  let head := s.cairnHeader t x k j 1 (s.slotSize j.ptn) (crc32c body)
  match s.put j.ptn (va + 256) body with
  | (.error e, s) => s.abandonSave t k j va e
  | (.ok _, s) =>
    match s.put j.ptn va head with
    | (.error e, s) => s.abandonSave t k j va e
    | (.ok _, s) => s.keepCairn t d j.ptn x k

/-- The cairn's last byte is written: the task waits in its queue, and the tile is free (R351, R355). -/
def State.saveDone (s : State) (t : Nat) : State :=
  let x := s.tile t
  match x.task, x.slot, s.taskJob t with
  | some k, some d, some (_, j) =>
    if x.state ≠ .save then s
    else if x.halting then s.endStopped t
    else if x.reqs.any fun r => !r.remote then s
    else
      let body := s.cairnBody j.ptn t x
      body.2.writeCairn t d x k j body.1
  | _, _, _ => s

/-! ## Restore (R356, R358-R361) -/

/-- A restored task cannot go on: TILE_CAIRN. -/
def State.cairnLost (s : State) (t d : Nat) : State :=
  let s := s.dropSaved t d
  let s := s.modTile t fun x => { x with state := .run, slot := none }
  (s.tileFault t tfCairn 7).endTask t

/-- The saved task at the head of an idle tile's queue starts restoring: the CRCs of its cairn are checked. -/
def State.restoreHead (s : State) (t : Nat) : State :=
  let x := s.tile t
  match x.queue with
  | { task := k, slot := some d, .. } :: rest =>
    if x.task.isSome ∨ ¬s.tileServes t then s
    else
      match s.job? k.job with
      | none => s
      | some j =>
        let s := (s.setTile t { x with queue := rest, task := some k, state := .restore, slot := some d, withheld := false,
                                       mismatch := false }).clearTaskRegs t
        let va := s.slotAt j.ptn t d
        match s.vRead j.ptn va (s.slotSize j.ptn) with
        | (.error (.mmu f), s) => (s.mmuFault j.ptn va false false (cairnWho t k j) f).cairnLost t d
        | (.error (.code _), s) => s.cairnLost t d
        | (.ok bs, s) =>
          if field bs 48 4 = crc32c (bs.drop 256) ∧ field bs 52 4 = crc32c (bs.take 52) then s else s.cairnLost t d
  | _ => s

/-- Load the context of the cairn in slot d from the slot's bytes. (log 95: DESIGN CHOICE) -/
def State.loadCairn (s : State) (t d : Nat) (k : Task) (j : Job) (c : Cairn) (bs : List Byte) : State :=
  let x := s.tile t
  let p := j.ptn
  let y := c.ctx.loadBody bs
  let s := (s.savedRanges p).foldl (fun (a : State × Nat) r =>
    (a.1.pokeTile t r.1 ((bs.drop a.2).take r.2), a.2 + r.2)) (s, 0x36000) |>.1
  let s := forEach ((List.range taskRegs.length).zip taskRegs) (fun r s => s.setTaskReg t r.2 (field bs (0xE00 + 0x200 + 4 * r.1) 4)) s
  let k := { k with started := s.now, base := k.runNs, quantum := s.fld PTN_QUANT.QUANTUM p }
  let s := s.takeCairn t d c
  let s := s.setTile t
    { y with queue := x.queue, loaded := x.loaded, cairnBar := x.cairnBar, task := some k, state := .run, slot := none,
             suspect := x.suspect, fill := x.fill, lfsr := x.lfsr, lastKernel := x.lastKernel,
             nextReq := max x.nextReq y.nextReq, startOrder := max x.startOrder y.startOrder,
             pc := field bs 14 2 % 4096, inHandler := bit (field bs 20 1) 0, stopped := x.stopped, halting := x.halting }
  (s.notePlace k.job t).unpark t

/-- The restore ends: the body is loaded, parked responses applied, and the task goes on at PC with its image loaded. -/
def State.restoreDone (s : State) (t : Nat) : State :=
  let x := s.tile t
  match x.task, x.slot, s.taskJob t with
  | some k, some d, some (_, j) =>
    if x.state ≠ .restore then s
    else if x.halting then (s.dropSaved t d).endStopped t
    else
      let (h, e) := j.program k.fallback
      match s.loadImage t j.ptn k.job h k.fallback e with
      | (none, s) => s
      | (some s, _) =>
        match s.cairns.find? (t * 8 + d), s.vRead j.ptn (s.slotAt j.ptn t d) (s.slotSize j.ptn) with
        | some c, (.ok bs, s) => s.loadCairn t d k j c bs
        | _, (_, s) => s.cairnLost t d
  | _, _, _ => s

end Sys2Proof.Machine
end

