-- ==== Sys2Proof/Machine/Ldpc.lean ====
section
/-! DEFINITION. The NR LDPC code as R280-R289 and R296 use it: code derivation, rate matching and interleaving, encoding,
and the exact layered min-sum of R285. Formulas of TS 38.212 that the spec names by clause are written out; its tables
are constants of `Config`. -/
namespace Sys2Proof.Machine

/-! ## Bits and bytes -/

/-- Bits of bytes, first bit at bit 7 of byte 0 (R289). -/
def unpackBits (bs : List Byte) : List Bool := bs.flatMap fun b => (bitsMsb b.toNat).map (· == 1)

def packByte (bs : List Bool) : Byte := BitVec.ofNat 8 ((fitBools 8 bs).foldl (fun a b => 2 * a + b2n b) 0)
where fitBools (n : Nat) (bs : List Bool) : List Bool := (bs ++ List.replicate n false).take n

/-- Bits packed into bytes, bits after the last one zero; `n` bytes. -/
def packBits : Nat → List Bool → List Byte
  | 0, _ => []
  | n + 1, bs => packByte (bs.take 8) :: packBits n (bs.drop 8)

/-- CRC bits of a bit string, most significant first; `init` is the register before the first bit. -/
def crcOfBits (code init : Nat) (bs : List Bool) : List Bool :=
  let c := crcCode code
  let v := crcFeedBits c init (bs.map b2n)
  (List.range c.width).map fun k => bit v (c.width - 1 - k)

/-- A bit string that ends with its CRC leaves residue 0. -/
def crcPasses (code : Nat) (bs : List Bool) : Bool := crcFeedBits (crcCode code) 0 (bs.map b2n) == 0

/-! ## Code derivation (R280) -/

/-- Lifting sizes: a * 2^j up to 384, 51 in all (R298). -/
def liftingSizes : List Nat :=
  (List.range 385).filter fun z => decide (2 ≤ z) && [2, 3, 5, 7, 9, 11, 13, 15].any fun a =>
    (List.range 8).any fun j => a * 2 ^ j == z

/-- The odd part of a number. -/
def oddPart : Nat → Nat → Nat
  | 0, z => z
  | k + 1, z => if z % 2 = 0 then oddPart k (z / 2) else z

/-- Lifting set of a size. -/
def liftingSet (z : Nat) : Nat := (oddPart 10 z - 1) / 2

/-- A derived code. -/
structure LCode where
  bg : Nat
  a : Nat
  c : Nat
  kp : Nat
  zc : Nat
deriving DecidableEq, Repr

def LCode.kb (l : LCode) : Nat := if l.bg = 1 then 22 else 10
def LCode.k (l : LCode) : Nat := l.kb * l.zc
def LCode.n (l : LCode) : Nat := (if l.bg = 1 then 66 else 50) * l.zc
def LCode.rMax (l : LCode) : Nat := if l.bg = 1 then 46 else 42
def LCode.cols (l : LCode) : Nat := l.kb + l.rMax
def LCode.tbCrc (l : LCode) : Nat := if 3824 < l.a then 24 else 16
def LCode.tbPoly (l : LCode) : Nat := if 3824 < l.a then 0 else 3
/-- Bits of a code block that belong to the transport block. -/
def LCode.own (l : LCode) : Nat := if 1 < l.c then l.kp - 24 else l.kp

/-- C, K' and Zc from A and BG; none where the code blocks would not be of equal whole length. (log 53: PRESUMED) -/
def deriveCode (a bg : Nat) : Option LCode :=
  let b := a + if 3824 < a then 24 else 16
  let kcb := if bg = 1 then 8448 else 3840
  let c := if b ≤ kcb then 1 else (b + kcb - 25) / (kcb - 24)
  let b' := if b ≤ kcb then b else b + 24 * c
  let kb := if bg = 1 then 22 else if 640 < b then 10 else if 560 < b then 9 else if 192 < b then 8 else 6
  if b' % c ≠ 0 then none
  else (liftingSizes.find? fun z => decide (b' / c ≤ kb * z)).map fun z => { bg := bg, a := a, c := c, kp := b' / c, zc := z }

/-- Ncb: N, or N_ref at rate 2/3 of TBS_LBRM. (log 53: PRESUMED) -/
def LCode.ncb (l : LCode) (lbrm : Bool) (tbs : Nat) : Nat := if lbrm then min l.n (3 * tbs / (2 * l.c)) else l.n

/-- E_r of a transmission of `g` bits. (log 53: PRESUMED) -/
def LCode.er (l : LCode) (g nl qm r : Nat) : Nat :=
  let u := g / (nl * qm)
  if r + u % l.c < l.c then nl * qm * (u / l.c) else nl * qm * ((u + l.c - 1) / l.c)

/-- k0 of a redundancy version. (log 53: PRESUMED) -/
def LCode.k0 (l : LCode) (ncb rv : Nat) : Nat :=
  let m := match l.bg, rv with
    | _, 0 => 0
    | 1, 1 => 17
    | 1, 2 => 33
    | 1, _ => 56
    | _, 1 => 13
    | _, 2 => 25
    | _, _ => 43
  m * ncb / l.n * l.zc

/-- Circular-buffer position p holds a filler bit. -/
def LCode.filler (l : LCode) (p : Nat) : Bool := decide (l.kp ≤ p + 2 * l.zc) && decide (p + 2 * l.zc < l.k)

/-- Positions in order of selection from k0, filler left out. -/
def LCode.positions (l : LCode) (ncb k0 : Nat) : List Nat :=
  ((List.range ncb).map fun j => (k0 + j) % ncb).filter fun p => !l.filler p

/-- Bit interleaving: place in the sequence before it of bit k after it. -/
def deinterleave (e qm k : Nat) : Nat := k % qm * (e / qm) + k / qm

/-! ## Combining (R281, R283) -/

/-- An LLR code: -128 is taken as -127. -/
def llrOf (b : Byte) : Int := max (-127) (sext 8 b.toNat)

/-- Add a code block's LLRs of one transmission to the sums by position. -/
def addLlrs (l : LCode) (ncb rv qm : Nat) (llrs : List Byte) (sums : Table Int) : Table Int :=
  let ps := l.positions ncb (l.k0 ncb rv)
  let e := llrs.length
  ((List.range e).zip llrs).foldl (fun t x =>
    let p := ps.getD (deinterleave e qm x.1 % ps.length) 0
    t.put p (t.getD p 0 + llrOf x.2)) sums

/-! ## Layered min-sum (R285-R288) -/

/-- (log 29: DEDUCED; log 58: DEDUCED) -/
def satTo (x : Int) (n : Nat) : Int := clampInt (-(n : Int)) n x

/-- Weights of an iteration and class: alpha and beta. -/
abbrev Weights2 := Nat → Nat → Nat → Nat × Nat

/-- Weights of a weight object (R286), or those of R287. -/
def weightsOf (obj : Option (List Byte)) (bg t i j : Nat) : Nat × Nat :=
  match obj with
  | none => (0x60, 0)
  | some o =>
    let n := (if bg = 1 then 68 else 52) * i + j
    let nib := field o ((if bg = 1 then 64 else 2688) + n / 2) 1 / (if n % 2 = 0 then 1 else 16) % 16
    let at' := (if bg = 1 then 1664 else 3808) + 32 * t + 2 * nib
    (field o at' 1, field o (at' + 1) 1)

/-- Edges of row z of layer i: column and variable. -/
def LCode.row (l : LCode) (i z : Nat) : List (Nat × Nat) :=
  (List.range l.cols).filterMap fun j =>
    (Config.ldpcShift l.bg (liftingSet l.zc) i j).map fun v => (j, j * l.zc + (z + v % l.zc) % l.zc)

/-- A decoder's memory: posteriors by variable, check messages by (layer * Zc + row) * 128 + column. -/
structure LMem where
  post : Table Int := .empty
  msg : Table Int := .empty
deriving DecidableEq, Repr

def LCode.isFillerVar (l : LCode) (v : Nat) : Bool := decide (l.kp ≤ v) && decide (v < l.k)

def LMem.l (m : LMem) (v : Nat) : Int := m.post.getD v 0

/-- The first posteriors: the combined LLRs, 0 where punctured or beyond SPAN, 2,047 for filler. -/
def LCode.start (l : LCode) (comb : List Int) (span : Nat) : LMem :=
  let vs := List.range (l.cols * l.zc)
  { post := ⟨vs.filterMap fun v =>
      if l.isFillerVar v then some (v, 2047)
      else if v < 2 * l.zc ∨ span ≤ v - 2 * l.zc then none
      else some (v, comb.getD (v - 2 * l.zc) 0)⟩ }

/-- The least magnitude and the sign product of all entries but entry k. -/
def minSum (q : List Int) (k : Nat) : Nat × Int :=
  let others := (q.take k) ++ q.drop (k + 1)
  ((others.map Int.natAbs).foldl min 511, others.foldl (fun s x => if x < 0 then -s else s) 1)

/-- Update one row of a layer. -/
def LCode.update (l : LCode) (w : Nat → Nat × Nat) (i z : Nat) (m : LMem) : LMem :=
  let es := l.row i z
  let key := fun (j : Nat) => (i * l.zc + z) * 128 + j
  let q := es.map fun e => satTo (m.l e.2 - m.msg.getD (key e.1) 0) 511
  ((List.range es.length).zip es).foldl (fun (m : LMem) x =>
    let (mn, sg) := minSum q x.1
    let (al, be) := w x.2.1
    let r := sg * ((min (al * mn / 128 - be) 127 : Nat) : Int)
    let m := { m with msg := m.msg.put (key x.2.1) r }
    if l.isFillerVar x.2.2 then m else { m with post := m.post.put x.2.2 (satTo (q.getD x.1 0 + r) 2047) }) m

/-- One iteration over the active layers. -/
def LCode.iterate (l : LCode) (w : Nat → Nat → Nat × Nat) (rAct : Nat) (m : LMem) : LMem :=
  (List.range rAct).foldl (fun m i => (List.range l.zc).foldl (fun m z => l.update (w i) i z m) m) m

/-- Hard decisions of the K' systematic bits. -/
def LCode.hard (l : LCode) (m : LMem) : List Bool := (List.range l.kp).map fun v => decide (m.l v < 0)

/-- The check of R288. (log 61: DEDUCED) -/
def LCode.passes (l : LCode) (m : LMem) : Bool := crcPasses (if 1 < l.c then 1 else l.tbPoly) (l.hard m)

/-- Every check row of the active layers holds on the hard decisions. (log 61: DEDUCED) -/
def LCode.parityHolds (l : LCode) (rAct : Nat) (m : LMem) : Bool :=
  (List.range rAct).all fun i => (List.range l.zc).all fun z =>
    ((l.row i z).filter fun e => decide (m.l e.2 < 0)).length % 2 == 0

/-- Iterations t, t + 1, ... until one ends the decoding: the memory and the count. -/
def LCode.decodeLoop (l : LCode) (w : Weights2) (rAct et : Nat) : Nat → Nat → LMem → LMem × Nat
  | 0, t, m => (m, t)
  | n + 1, t, m =>
    let m := l.iterate (w t) rAct m
    let stop := (et == 1 && l.passes m) || (et == 2 && l.passes m && l.parityHolds rAct m)
    if stop then (m, t + 1) else l.decodeLoop w rAct et n (t + 1) m

/-- Active layers of a combined span (R285). -/
def LCode.rAct (l : LCode) (span : Nat) : Nat := max 4 (min l.rMax ((span + l.zc - 1) / l.zc + 2 - l.kb))

/-- What decoding a code block yields: whether it passed, iterations, and the K' bits. -/
def LCode.decode (l : LCode) (obj : Option (List Byte)) (et iterMax span : Nat) (comb : List Int) : Bool × Nat × List Bool :=
  let (m, t) := l.decodeLoop (weightsOf obj l.bg) (l.rAct span) et iterMax 0 (l.start comb span)
  (l.passes m, t, l.hard m)

/-! ## Encoding (R296) -/

/-- Gauss-Jordan elimination over GF(2): rows are numbers, bit c for unknown c, bit n for the right side. -/
def gauss (n : Nat) : Nat → List Nat → List (Nat × Nat) → List (Nat × Nat)
  | 0, _, done => done
  | k + 1, rows, done =>
    let c := n - (k + 1)
    match rows.find? fun r => bit r c with
    | none => gauss n k rows done
    | some p =>
      let clear := fun (r : Nat) => if bit r c then r ^^^ p else r
      gauss n k ((rows.erase p).map clear) ((done.map fun d => (d.1, clear d.2)) ++ [(c, p)])

/-- The parity bits that make every check row hold, for the K information bits. -/
def LCode.parity (l : LCode) (info : List Bool) : List Bool :=
  let n := l.rMax * l.zc
  let eq := fun (i z : Nat) =>
    (l.row i z).foldl (fun r e =>
      if e.2 < l.k then (if info.getD e.2 false then r ^^^ 2 ^ n else r) else r ^^^ 2 ^ (e.2 - l.k)) 0
  let rows := (List.range l.rMax).flatMap fun i => (List.range l.zc).map fun z => eq i z
  let sol := gauss n n rows []
  (List.range n).map fun c => sol.any fun d => d.1 == c && bit d.2 n

/-- Code block r of the transport block with its CRC attached: K' bits. -/
def LCode.block (l : LCode) (tb : List Bool) (r : Nat) : List Bool :=
  let part := (tb.drop (r * l.own)).take l.own
  if 1 < l.c then part ++ crcOfBits 1 0 part else part

/-- The circular buffer of a code block. -/
def LCode.buffer (l : LCode) (blk : List Bool) : List Bool :=
  let info := blk ++ List.replicate (l.k - l.kp) false
  (info ++ l.parity info).drop (2 * l.zc)

/-- The E bits sent of a code block: selected and interleaved. -/
def LCode.send (l : LCode) (ncb rv e qm : Nat) (blk : List Bool) : List Bool :=
  let d := l.buffer blk
  let ps := l.positions ncb (l.k0 ncb rv)
  (List.range e).map fun k => d.getD (ps.getD (deinterleave e qm k % ps.length) 0) false

/-- The transport block with its CRC. -/
def LCode.attach (l : LCode) (payload : List Bool) : List Bool := payload ++ crcOfBits l.tbPoly 0 payload

/-- The coded bits of a DL-SCH transport block. -/
def LCode.encode (l : LCode) (ncb rv g nl qm : Nat) (payload : List Bool) : List Bool :=
  let tb := l.attach payload
  (List.range l.c).flatMap fun r => l.send ncb rv (l.er g nl qm r) qm (l.block tb r)

end Sys2Proof.Machine
end

