-- ==== Sys2Proof/Machine/Polar.lean ====
section
/-! DEFINITION. The NR polar code as R292-R294 and R296 use it: code derivation, rate matching, encoding, and the list
decoding of R293. -/
namespace Sys2Proof.Machine

/-- A polar code: information and CRC bits K, parity-check bits, those of minimum weight, N = 2^n, and E. -/
structure PCode where
  k : Nat
  npc : Nat
  nwm : Nat
  n : Nat
  e : Nat
deriving DecidableEq, Repr

def PCode.size (c : PCode) : Nat := 2 ^ c.n

/-- Derive N (clause 5.3.1) and the parity-check bits. (log 53: PRESUMED) -/
def derivePolar (k e nmax : Nat) (uplink : Bool) : PCode :=
  let l := clog2 e
  let n1 := if 8 * e ≤ 9 * 2 ^ (l - 1) ∧ 16 * k < 9 * e then l - 1 else l
  let n2 := clog2 (8 * k)
  let n := max (min n1 (min n2 nmax)) 5
  let pc := uplink && decide (18 ≤ k) && decide (k ≤ 25)
  { k := k, npc := if pc then 3 else 0, nwm := if pc && decide (k + 189 < e) then 1 else 0, n := n, e := e }

/-! ## Rate matching (clause 5.4.1) -/

def subBlock : List Nat :=
  [0, 1, 2, 4, 3, 5, 6, 7, 8, 16, 9, 17, 10, 18, 11, 19, 12, 20, 13, 21, 14, 22, 15, 23, 24, 25, 26, 28, 27, 29, 30, 31]

/-- J(i). -/
def PCode.subIx (c : PCode) (i : Nat) : Nat :=
  subBlock.getD (32 * i / c.size) 0 * (c.size / 32) + i % (c.size / 32)

def PCode.punctures (c : PCode) : Bool := decide (16 * c.k ≤ 7 * c.e)

/-- Index in y of bit k of e. -/
def PCode.select (c : PCode) (k : Nat) : Nat :=
  if c.size ≤ c.e then k % c.size else if c.punctures then k + c.size - c.e else k

/-- Rows of the triangle that holds E bits. -/
def triangle (e : Nat) : Nat := ((List.range (e + 1)).find? fun t => decide (e ≤ t * (t + 1) / 2)).getD 0

/-- Triangular interleaving: for each bit sent, its place in e. -/
def triangleOrder (e : Nat) : List Nat :=
  let t := triangle e
  let at' := fun (i j : Nat) => i * t - i * (i - 1) / 2 + j
  (List.range t).flatMap fun j => ((List.range (t - j)).map fun i => at' i j).filter fun k => decide (k < e)

/-! ## Bit places -/

/-- Indices in ascending reliability. (log 53: PRESUMED) -/
def PCode.order (c : PCode) : List Nat := ((List.range 1024).map Config.polarSeq).filter fun q => decide (q < c.size)

/-- Indices frozen by rate matching. -/
def PCode.tmpFrozen (c : PCode) (q : Nat) : Bool :=
  if c.size ≤ c.e then false
  else if c.punctures then
    ((List.range (c.size - c.e)).any fun i => c.subIx i == q)
      || decide (q < if 3 * c.size ≤ 4 * c.e then (3 * c.size - 2 * c.e + 3) / 4 else (9 * c.size - 4 * c.e + 15) / 16)
  else (List.range (c.size - c.e)).any fun i => c.subIx (c.e + i) == q

/-- Q_I: the K + n_PC most reliable indices that are not frozen, in ascending reliability. -/
def PCode.info (c : PCode) : List Nat :=
  let qs := c.order.filter fun q => !c.tmpFrozen q
  qs.drop (qs.length - (c.k + c.npc))

/-- Row weight of an index: 2 to the number of its ones. -/
def rowWeight (n q : Nat) : Nat := 2 ^ (bitsSet n q).length

/-- Parity-check indices. -/
def PCode.pcIx (c : PCode) : List Nat :=
  let qi := c.info
  let low := qi.take (c.npc - c.nwm)
  let best := minBy (rowWeight c.n) (qi.drop c.npc).reverse
  low ++ if c.nwm = 0 then [] else best.toList

/-- The five-bit register of the parity-check bits, rotated. -/
def rotate1 (y : List Bool) : List Bool := y.drop 1 ++ y.take 1

/-- Add a bit to the register's first place. -/
def addFirst (y : List Bool) (b : Bool) : List Bool := (y.headD false ^^ b) :: y.drop 1

/-- The input vector u of the encoder. (log 53: PRESUMED) -/
def PCode.place (c : PCode) (bits : List Bool) : List Bool :=
  let qi := c.info
  let pc := c.pcIx
  ((List.range c.size).foldl (fun (st : List Bool × List Bool × List Bool) q =>
    let (u, left, y) := st
    let y := rotate1 y
    if ¬qi.contains q then (u ++ [false], left, y)
    else if pc.contains q then (u ++ [y.headD false], left, y)
    else (u ++ [left.headD false], left.drop 1, addFirst y (left.headD false)))
    ([], bits, List.replicate 5 false)).1

/-- u G_N: halves (a, b) go to (a + b, b). -/
def polarTransform : Nat → List Bool → List Bool
  | 0, u => u
  | n + 1, u =>
    let a := polarTransform n (u.take (2 ^ n))
    let b := polarTransform n (u.drop (2 ^ n))
    (List.zipWith (· ^^ ·) a b) ++ b

/-- The E coded bits, interleaved by the triangle where I_BIL is 1. -/
def PCode.encode (c : PCode) (bil : Bool) (bits : List Bool) : List Bool :=
  let d := polarTransform c.n (c.place bits)
  let e := (List.range c.e).map fun k => d.getD (c.subIx (c.select k)) false
  if bil then (triangleOrder c.e).map fun k => e.getD k false else e

/-- The interleaving of information bits (I_IL = 1). -/
def polarInterleave (bits : List Bool) : List Bool :=
  let k := bits.length
  let pi := ((List.range 164).map Config.polarInterleave).filterMap fun x => if 164 ≤ x + k then some (x + k - 164) else none
  pi.map fun x => bits.getD x false

/-! ## Downlink encoding (R296) -/

/-- DCI: padded to 12 bits, CRC24C with 24 leading ones, its last 16 bits scrambled by the RNTI. (log 53: PRESUMED) -/
def encodeDci (payload : List Bool) (rnti e : Nat) : List Bool :=
  let a := payload ++ List.replicate (12 - payload.length) false
  let crc := crcOfBits 2 0 (List.replicate 24 true ++ a)
  let mask := List.replicate 8 false ++ (List.range 16).map fun k => bit rnti (15 - k)
  let c := a ++ List.zipWith (· ^^ ·) crc mask
  (derivePolar c.length e 9 false).encode false (polarInterleave c)

/-- PBCH: 32 bits and CRC24C. (log 53: PRESUMED) -/
def encodePbch (payload : List Bool) : List Bool :=
  let c := payload ++ crcOfBits 2 0 payload
  (derivePolar 56 864 9 false).encode false (polarInterleave c)

/-! ## List decoding (R293) -/

/-- (log 58: DEDUCED) -/
def sat10 (x : Int) : Int := clampInt (-511) 511 x

def polarF (a b : Int) : Int :=
  let m : Int := ((min a.natAbs b.natAbs : Nat) : Int)
  if (decide (a < 0)) != decide (b < 0) then -m else m

def polarG (x : Bool) (a b : Int) : Int := sat10 (if x then b - a else b + a)

/-- The LLR of bit i from a node's LLRs and the bits of the node decided so far. -/
def scLlr : Nat → List Int → List Bool → Nat → Int
  | 0, ls, _, _ => ls.headD 0
  | n + 1, ls, u, i =>
    let h := 2 ^ n
    let a := ls.take h
    let b := ls.drop h
    if i < h then scLlr n (List.zipWith polarF a b) u i
    else
      let x := polarTransform n (u.take h)
      scLlr n ((x.zip (a.zip b)).map fun r => polarG r.1 r.2.1 r.2.2) (u.drop h) (i - h)

/-- A path: its bits, its metric, the parity-check register. -/
structure PPath where
  u : List Bool := []
  metric : Nat := 0
  y : List Bool := List.replicate 5 false
deriving DecidableEq, Repr

/-- Extend a path by a bit whose LLR is given. -/
def PPath.extend (p : PPath) (lam : Int) (b : Bool) (info : Bool) : PPath :=
  let bad := b != decide (lam < 0)
  { u := p.u ++ [b], metric := if bad then min (p.metric + lam.natAbs) 65535 else p.metric,
    y := if info then addFirst p.y b else p.y }

/-- Insert by metric, after equal ones. (log 59: DEDUCED) -/
def insertPath (p : PPath) : List PPath → List PPath
  | [] => [p]
  | q :: qs => if p.metric < q.metric then p :: q :: qs else q :: insertPath p qs

/-- (log 59: DEDUCED) -/
def sortPaths (ps : List PPath) : List PPath := ps.foldl (fun l p => insertPath p l) []

/-- Decide bit i on every path. (log 59: DEDUCED) -/
def PCode.stepPaths (c : PCode) (llrs : List Int) (list : Nat) (qi pc : List Nat) (ps : List PPath) (i : Nat) : List PPath :=
  let ps := ps.map fun p => { p with y := rotate1 p.y }
  let lam := fun (p : PPath) => scLlr c.n llrs p.u i
  if ¬qi.contains i then ps.map fun p => p.extend (lam p) false false
  else if pc.contains i then ps.map fun p => p.extend (lam p) (p.y.headD false) false
  else
    let all := ps.flatMap fun p => [p.extend (lam p) false true, p.extend (lam p) true true]
    if all.length ≤ list then all else (sortPaths all).take list

/-- LLRs of the N code bits from the E received: repeated ones add up, punctured ones are 0, shortened ones are sure.
(log 58: DEDUCED) -/
def PCode.receive (c : PCode) (llrs : List Int) : List Int :=
  let order := triangleOrder c.e
  let e := (order.zip llrs).foldl (fun (t : Table Int) r => t.put r.1 r.2) .empty
  let y := (List.range c.e).foldl (fun (t : Table Int) k =>
    t.put (c.select k) (sat10 (t.getD (c.select k) 0 + e.getD k 0))) .empty
  let none' : Int := if c.size ≤ c.e ∨ c.punctures then 0 else 511
  let d := (List.range c.size).foldl (fun (t : Table Int) i => t.put (c.subIx i) (y.getD i none')) .empty
  (List.range c.size).map fun j => d.getD j 0

/-- The paths after the last bit, in ascending metric, each with its K bits. -/
def PCode.paths (c : PCode) (list : Nat) (llrs : List Int) : List (List Bool × Nat) :=
  let qi := c.info
  let pc := c.pcIx
  let ls := c.receive llrs
  let ps := (List.range c.size).foldl (fun ps i => c.stepPaths ls list qi pc ps i) [{}]
  (sortPaths ps).map fun p =>
    (((List.range c.size).zip p.u).filterMap fun r => if qi.contains r.1 && !pc.contains r.1 then some r.2 else none, p.metric)

/-- A decoded segment: whether it passed, the rank and metric of the path chosen, and its payload bits. -/
structure SegOut where
  pass : Bool
  rank : Nat
  metric : Nat
  bits : List Bool
deriving DecidableEq, Repr

/-- Decode a segment: the first path in rank whose CRC leaves residue 0; where none does, rank 0. -/
def PCode.decode (c : PCode) (list crcCode crcLen : Nat) (llrs : List Int) : SegOut :=
  let ps := c.paths list llrs
  let best := (List.range ps.length).find? fun k => crcPasses crcCode ((ps.getD k ([], 0)).1)
  let k := best.getD 0
  let p := ps.getD k ([], 0)
  { pass := best.isSome, rank := k, metric := p.2, bits := p.1.take (c.k - crcLen) }

/-- Segments of a UCI payload of A bits in E (R292). (log 53: PRESUMED) -/
def uciSegments (a e : Nat) : Nat := if 1013 ≤ a ∨ (360 ≤ a ∧ 1088 ≤ e) then 2 else 1

/-- CRC of a UCI payload: code and length. (log 53: PRESUMED) -/
def uciCrc (a : Nat) : Nat × Nat := if a < 20 then (5, 6) else (4, 11)

/-- The code of each segment. -/
def uciCode (a e : Nat) : PCode :=
  let c := uciSegments a e
  derivePolar ((a + c - 1) / c + (uciCrc a).2) (e / c) 10 true

end Sys2Proof.Machine
end

