-- ==== Sys2Proof/Machine/Coding.lean ====
section
/-! DEFINITION. The coding complex (R275-R300): the checks of DECODE and ENCODE jobs, the LDPC decoders, the polar decoders
and the encoders at work, and their retirement. -/
namespace Sys2Proof.Machine

/-! ## Fault codes (R300) -/

def fcCodBadParam : Nat := 0x0800
def fcCodBadRange : Nat := 0x0801
def fcDecNoDecoder : Nat := 0x0802
def fcDecWeights : Nat := 0x0803
def fcDecHarqAddr : Nat := 0x0804
def fcDecHarqMismatch : Nat := 0x0805

/-! ## KIND 0 parameters (R279, R280, R282) -/

def Job.par (j : Job) (off n : Nat) : Nat := field j.params off n
def Job.kind (j : Job) : Nat := j.par 2 1
def Job.nTx (j : Job) : Nat := j.par 3 1
def Job.parA (j : Job) : Nat := j.par 4 4
def Job.decBg (j : Job) : Nat := j.par 8 1
def Job.iterMax (j : Job) : Nat := j.par 9 1
def Job.et (j : Job) : Nat := j.par 10 1
def Job.harq (j : Job) : Bool := bit (j.par 11 1) 0
def Job.ndi (j : Job) : Bool := bit (j.par 11 1) 1
def Job.decLbrm (j : Job) : Bool := bit (j.par 11 1) 2
def Job.txRv (j : Job) (t : Nat) : Nat := j.par (64 + 16 * t) 1
def Job.txQm (j : Job) (t : Nat) : Nat := j.par (65 + 16 * t) 1
def Job.txNl (j : Job) (t : Nat) : Nat := j.par (66 + 16 * t) 1
def Job.txG (j : Job) (t : Nat) : Nat := j.par (68 + 16 * t) 4
def Job.txEntry (j : Job) (t : Nat) : Nat := j.par (72 + 16 * t) 4

def Job.lcode (j : Job) : LCode := (deriveCode j.parA j.decBg).getD { bg := 1, a := 24, c := 1, kp := 40, zc := 2 }
def Job.ncb (j : Job) : Nat := j.lcode.ncb j.decLbrm (j.par 12 4)
/-- Bytes of a HARQ region. -/
def Job.regionLen (j : Job) : Nat := alignUp (64 + j.ncb) 64

/-- A transmission's fields are in range. (log 55: DEDUCED) -/
def Job.txOk (j : Job) (l : LCode) (ncb t : Nat) : Bool :=
  let qm := j.txQm t
  let nl := j.txNl t
  decide (j.txRv t ≤ 3) && [1, 2, 4, 6, 8].contains qm && decide (1 ≤ nl) && decide (nl ≤ 4) && (qm != 1 || nl == 1)
    && j.par (67 + 16 * t) 1 == 0 && j.par (76 + 16 * t) 4 == 0 && j.txG t % (nl * qm) == 0
    && ((List.range l.c).all fun r => l.er (j.txG t) nl qm r != 0) && !(l.positions ncb (l.k0 ncb (j.txRv t))).isEmpty

/-- The KIND 0 block is in range. -/
def Job.ldpcOk (j : Job) : Bool :=
  match deriveCode j.parA j.decBg with
  | none => false
  | some l =>
    j.par 0 2 == 1 && decide (1 ≤ j.nTx) && decide (j.nTx ≤ 8) && j.paramLen == 64 + 16 * j.nTx
      && decide (24 ≤ j.parA) && decide (j.parA ≤ 1277992) && (j.decBg == 1 || j.decBg == 2)
      && decide (1 ≤ j.iterMax) && decide (j.iterMax ≤ 32) && decide (j.et ≤ 2) && decide (j.par 11 1 < 8)
      && (j.decLbrm || j.par 12 4 == 0) && decide (j.par 16 8 < 2 ^ 48) && j.par 16 8 % 64 == 0
      && (j.harq || j.par 16 8 == 0) && zeroBytes j.params 28 64 && decide (l.c ≤ 152)
      && ((List.range j.nTx).all fun t => j.txOk l (l.ncb j.decLbrm (j.par 12 4)) t)
      && (!j.harq || decide (l.c * j.regionLen ≤ j.par 24 4))

/-- The KIND 1 block is in range (R292). -/
def Job.polarOk (j : Job) : Bool :=
  let a := j.par 4 2
  let e := j.par 8 4
  let c := uciCode a (e)
  j.par 0 2 == 1 && j.nTx == 1 && j.paramLen == 64 && decide (12 ≤ a) && decide (a ≤ 1706)
    && [1, 2, 4, 8, 16].contains (j.par 6 1) && j.par 7 1 == 0 && zeroBytes j.params 16 64
    && decide (c.e ≤ 8192) && decide (c.k + c.npc ≤ c.e)

/-- A logical decoder may be used at all. -/
def State.ldServes (s : State) (d : Nat) : Bool := s.fld DEC_LMAP.STATE d != 2
def State.ded (s : State) (p : Nat) : Nat := s.fld DEC_PSHARE.DED p
/-- No partition has dedicated the decoder. -/
def State.ldShared (s : State) (d : Nat) : Bool := (List.range 16).all fun p => !bit (s.ded p) d

/-- Partition p has a decoder that it may use (R300). -/
def State.hasDecoder (s : State) (p : Nat) : Bool :=
  (List.range 16).any fun d =>
    s.ldServes d && (bit (s.ded p) d || (s.fld DEC_PSHARE.MAXSH p != 0 && s.ldShared d))

/-- A bound MODEL object is a weight object (R278, R286). (log 171: DEDUCED) -/
def State.weightsOk (s : State) (x : Job) : Except VFault (Option (List Byte)) × State :=
  if x.model = 0xFFFF then (.ok (some []), s)
  else if objType x.modelObj ≠ 2 ∨ field x.modelObj 4 4 ≠ 4832 then (.ok none, s)
  else
    match s.vRead x.ptn (field x.modelObj 8 6) 4832 with
    | (.ok bs, s) => (.ok (if field bs 0 2 = 1 then some bs else none), s)
    | (.error e, s) => (.error e, s)

/-- The list entries that a coding job names, with their lengths: inputs, then outputs. -/
def Job.codingLists (x : Job) : List (Nat × Nat) × List (Nat × Nat) :=
  let inAt := fun k => x.inList + 32 * k
  let out0 := x.outList
  if x.cls = 5 then
    let e := x.par 20 4
    ([(inAt 0, (x.parA + 7) / 8)], [(out0, (e + 7) / 8)])
  else if x.kind = 0 then
    ((List.range x.nTx).map fun t => (inAt (x.txEntry t), x.txG t),
     (out0, (x.parA + 7) / 8) :: if x.outCount = 2 then [(out0 + 32, 4 * x.lcode.c)] else [])
  else ([(inAt (x.par 12 4), x.par 8 4)], [(out0, (x.par 4 2 + 7) / 8)])

/-- Every entry named lies within its list, and OUT_COUNT is one that the class takes (R289). -/
def Job.codingCounts (x : Job) : Bool :=
  if x.cls = 5 then decide (1 ≤ x.inCount) && decide (1 ≤ x.outCount)
  else if x.kind = 0 then
    (x.outCount == 1 || x.outCount == 2) && (List.range x.nTx).all fun t => decide (x.txEntry t < x.inCount)
  else decide (1 ≤ x.outCount) && decide (x.par 12 4 < x.inCount)

/-! ## ENCODE parameters (R296) -/

def Job.encBg (j : Job) : Nat := j.par 8 1
def Job.encLbrm (j : Job) : Bool := bit (j.par 12 1) 0

/-- (log 61: DEDUCED) -/
def Job.encodeOk (j : Job) : Bool :=
  let base := j.par 0 2 == 1 && j.paramLen == 64 && j.par 3 1 == 0 && zeroBytes j.params 13 16 && zeroBytes j.params 26 64
  let e := j.par 20 4
  base && match j.kind with
    | 0 =>
      match deriveCode j.parA j.encBg with
      | none => false
      | some l =>
        let qm := j.par 10 1
        let nl := j.par 11 1
        let ncb := l.ncb j.encLbrm (j.par 16 4)
        decide (24 ≤ j.parA) && decide (j.parA ≤ 1277992) && (j.encBg == 1 || j.encBg == 2) && decide (j.par 9 1 ≤ 3)
          && [2, 4, 6, 8, 10].contains qm && decide (1 ≤ nl) && decide (nl ≤ 4) && decide (j.par 12 1 < 2)
          && e % (nl * qm) == 0 && j.par 24 2 == 0 && decide (l.c ≤ 152) && !(l.positions ncb (l.k0 ncb (j.par 9 1))).isEmpty
    | 1 => decide (1 ≤ j.parA) && decide (j.parA ≤ 140) && zeroBytes j.params 8 20 && [108, 216, 432, 864, 1728].contains e
    | 2 => j.parA == 32 && zeroBytes j.params 8 20 && e == 864 && j.par 24 2 == 0
    | _ => false

/-! ## The checks at fetch -/

/-- The checks of classes DECODE and ENCODE, in ascending fault code. (log 55: DEDUCED; log 171: DEDUCED) -/
def State.codingCheck (s : State) (x : Job) : Check × State :=
  let ok := x.tiles == 0 && (if x.cls = 5 then x.encodeOk
    else match x.kind with
      | 0 => x.ldpcOk
      | 1 => x.polarOk
      | _ => false)
  if ¬ok then (.reject fcCodBadParam, s)
  else if ¬x.codingCounts then (.reject fcCodBadRange, s)
  else
    let (ins, outs) := x.codingLists
    match s.linearEntries x.ptn (ins ++ outs) with
    | (.error e, s) => (.fault e.1 e.2, s)
    | (.ok none, s) => (.reject fcCodBadRange, s)
    | (.ok (some bl), s) =>
      let x := { x with inBlks := bl.take ins.length, outBlks := bl.drop ins.length }
      if x.cls = 5 then (.ok x, s)
      else if x.kind = 0 ∧ ¬s.hasDecoder x.ptn then (.reject fcDecNoDecoder, s)
      else
        match s.weightsOk x with
        | (.error e, s) => (.fault (field x.modelObj 8 6) e, s)
        | (.ok none, s) => (.reject fcDecWeights, s)
        | (.ok (some o), s) => (.ok { x with weights := o }, s)

/-! ## Units -/

/-- Pieces a job is dispatched in. -/
def Job.pieces (x : Job) : Nat := if x.cls = 4 ∧ x.kind = 0 then x.lcode.c else 1

/-- Who meets a translation fault: 3 an LDPC decoder, 4 a polar decoder, 5 an encoder. -/
def State.codingWho (s : State) (kind unit j : Nat) : Requester :=
  { kind := kind, unit := unit, handle := 0, job := j, tag := ((s.job? j).map Job.tag).getD 0 }

/-- A unit's access failed: it waits for a resolve, or its job fails (R388). `wait` notes that it waits. -/
def State.unitFault (s : State) (x : Job) (j : Nat) (va : Nat) (write : Bool) (who : Requester) (e : VFault)
    (wait : State → State) : State :=
  match e with
  | .mmu f => wait (s.mmuFault x.ptn va write true who f)
  | .code c => s.failJob j c

/-- The job of a piece that a unit takes is running from now on. (log 56: DEDUCED) -/
def State.startPiece (s : State) (j : Nat) (x : Job) : State :=
  if x.phase = .waiting then s.dispatched j x.pieces else s

/-! ## LDPC decoders (R276, R277, R281-R289) -/

/-- The next code block of a job: one to run again, or the next in ascending index. -/
def State.nextBlock (s : State) (j : Nat) (x : Job) : Option CodeBlk :=
  match minBy (fun (b : CodeBlk) => b.r) (s.coding.again.filter fun b => b.job == j) with
  | some b => some b
  | none =>
    let r := s.coding.next.getD j 0
    if r < x.lcode.c then some { job := j, r := r } else none

/-- Shared decoders that run code blocks of partition p. -/
def State.sharedInUse (s : State) (p : Nat) : Nat :=
  (s.coding.ld.rows.filter fun r => s.ldShared r.1 && ((s.job? r.2.job).map fun (j : Job) => j.ptn) == some p).length

/-- The jobs that logical decoder d may take a code block of. -/
def State.ldJobs (s : State) (d : Nat) : List (Nat × Job) :=
  s.jobList.filter fun r =>
    let x := r.2
    x.cls == 4 && x.kind == 0 && (s.eligible r.1 x || decide (x.phase = .running)) && (s.nextBlock r.1 x).isSome
      && (bit (s.ded x.ptn) d || (s.ldShared d && decide (s.sharedInUse x.ptn < s.fld DEC_PSHARE.MAXSH x.ptn)))

/-- The LLRs of code block r in each transmission: address and length. -/
def Job.llrRanges (x : Job) (r : Nat) : List (Nat × Nat) :=
  let l := x.lcode
  ((List.range x.nTx).zip x.inBlks).map fun b =>
    let e := fun k => l.er (x.txG b.1) (x.txNl b.1) (x.txQm b.1) k
    (b.2.1 + ((List.range r).map e).foldl (· + ·) 0, e r)

/-- Every page of a range translates to HBM of this device (R282); the fault where a page does not translate. -/
def State.pagesLocal (s : State) (p va n : Nat) (write : Bool) : Except MFault Bool × State :=
  let pages := (List.range ((va + n - 1) / 4096 - va / 4096 + 1)).map fun k => (va / 4096 + k) * 4096
  pages.foldl (fun (a : Except MFault Bool × State) pg =>
    match a with
    | (.ok true, s) =>
      match s.translate p pg write with
      | (.ok (g, _), s) => (.ok (chipOf g == s.chipId && isHbm (localOf g)), s)
      | (.error f, s) => (.error f, s)
    | a => a) (.ok true, s)

def State.codingOn (s : State) : Bool := s.domOn (domainOf DEC_CTL.base)

def State.setLd (s : State) (d : Nat) (b : CodeBlk) : State :=
  s.setCoding { s.coding with ld := s.coding.ld.put d b }
def State.dropLd (s : State) (d : Nat) : State := s.setCoding { s.coding with ld := s.coding.ld.del d }

/-- Decoder d reads the LLRs and the HARQ region of its code block. -/
def State.ldRead (s : State) (d : Nat) (b : CodeBlk) (x : Job) : State :=
  let who := s.codingWho 3 d b.job
  let stop := fun (s : State) => s.setLd d { b with wait := true }
  match s.getAll x.ptn (x.llrRanges b.r) with
  | (.error (va, e), s) => s.unitFault x b.job va false who e stop
  | (.ok llrs, s) =>
    if ¬x.harq then s.setLd d { b with input := some (llrs, []), wait := false }
    else
      let va := x.par 16 6 + b.r * x.regionLen
      match s.pagesLocal x.ptn va x.regionLen true with
      | (.error f, s) => s.unitFault x b.job va true who (.mmu f) stop
      | (.ok false, s) => s.failJob b.job fcDecHarqAddr
      | (.ok true, s) =>
        match s.vRead x.ptn va x.regionLen with
        | (.error e, s) => s.unitFault x b.job va false who e stop
        | (.ok reg, s) => s.setLd d { b with input := some (llrs, reg), wait := false }

/-- Free logical decoder d takes the next code block it may (R277). -/
def State.dispatchBlock (s : State) (d : Nat) : State :=
  if ¬s.codingOn ∨ ¬s.flag DEC_CTL.EN ∨ ¬s.ldServes d ∨ s.fld DEC_LMAP.STATE d = 3 ∨ (s.coding.ld.find? d).isSome then s
  else
    match s.firstJob (s.ldJobs d) with
    | none => s
    | some (j, x) =>
      match s.nextBlock j x with
      | none => s
      | some b =>
        let c := s.coding
        let s := s.setCoding { c with
          again := c.again.filter fun a => a != b,
          next := if c.again.contains b then c.next else c.next.put j (b.r + 1) }
        let s := s.startPiece j x
        let s := s.modJob j fun y => { y with decMask := y.decMask ||| 2 ^ s.fld DEC_LMAP.PHYS d }
        if b.input.isSome then s.setLd d b else (s.setLd d b).ldRead d b x

/-- The header fields of a HARQ region that bind it to a code: BG, ZC, A, NCB. -/
def regionCode (reg : List Byte) : List Nat := [field reg 5 1, field reg 6 2, field reg 8 4, field reg 12 4]

/-- Combine: the new values by position, how many saturated, SPAN, TXCNT; none for a header of another code (R283).
(log 57: DEDUCED) -/
def Job.combine (x : Job) (llrs : List (List Byte)) (reg : List Byte) : Option (List Int × Nat × Nat × Nat) :=
  let l := x.lcode
  let ncb := x.ncb
  let fresh := !x.harq || x.ndi || regionCode reg == [0, 0, 0, 0]
  if ¬fresh ∧ regionCode reg ≠ [l.bg, l.zc, l.a, ncb] then none
  else
    let txs := (List.range x.nTx).zip llrs
    let sums := txs.foldl (fun t b => addLlrs l ncb (x.txRv b.1) (x.txQm b.1) b.2 t) .empty
    let old := fun p => if fresh then (0 : Int) else sext 8 (field reg (64 + p) 1)
    let exact := (List.range ncb).map fun p => if l.filler p then (0 : Int) else old p + sums.getD p 0
    let oldSpan := if fresh then 0 else field reg 0 4
    let span := sums.rows.foldl (fun m r => max m (r.1 + 1)) oldSpan
    let cnt := satAdd (if fresh then 0 else field reg 4 1) x.nTx 255
    some (exact.map fun v => satTo v 127, (exact.filter fun v => decide (127 < v.natAbs)).length, span, cnt)

/-- The bytes of a HARQ region (R282). -/
def Job.regionBytes (x : Job) (comb : List Int) (span cnt : Nat) : List Byte :=
  let l := x.lcode
  fitBytes x.regionLen (bytesOf 4 span ++ bytesOf 1 cnt ++ bytesOf 1 l.bg ++ bytesOf 2 l.zc ++ bytesOf 4 l.a
    ++ bytesOf 4 x.ncb ++ List.replicate 48 0#8 ++ comb.map fun v => BitVec.ofNat 8 (toBits 8 v))

/-- Decoder d has what it reads: it combines, writes the region back and starts decoding (R283). (log 57: DEDUCED) -/
def State.ldCombine (s : State) (d : Nat) : State :=
  match s.coding.ld.find? d with
  | none => s
  | some b =>
    match s.job? b.job with
    | none => s
    | some x =>
      if b.wait ∨ b.comb.isSome ∨ x.phase ≠ .running then s
      else
        let s := if b.input.isNone then s.ldRead d b x else s
        match s.coding.ld.find? d with
        | some { input := some (llrs, reg), .. } =>
          match x.combine llrs reg with
          | none => s.failJob b.job fcDecHarqMismatch
          | some (comb, sat, span, cnt) =>
            let done := fun (s : State) =>
              s.setLd d { b with input := some (llrs, reg), comb := some (comb, span, sat) }
            if ¬x.harq then done s
            else
              let va := x.par 16 6 + b.r * x.regionLen
              match s.put x.ptn va (x.regionBytes comb span cnt) with
              | (.ok _, s) => done s
              | (.error e, s) =>
                s.unitFault x b.job va true (s.codingWho 3 d b.job) e fun s =>
                  s.setLd d { b with input := some (llrs, reg), wait := true }
        | _ => s

/-- The class area of a KIND 0 record (R290). -/
def ldpcArea (x : Job) (outs : List CbOut) (tb : Bool) : List Byte :=
  let l := x.lcode
  fitBytes 32 (bytesOf 2 l.c ++ bytesOf 2 (outs.filter fun o => o.pass).length ++ bytesOf 1 (b2n tb)
    ++ bytesOf 1 ((outs.map fun o => o.iters).foldl max 0) ++ bytesOf 2 l.zc
    ++ bytesOf 4 ((outs.map fun o => o.iters).foldl (· + ·) 0) ++ bytesOf 1 l.bg
    ++ bytesOf 1 ((outs.map fun o => o.rAct).foldl max 0))

/-- Code blocks decoded of a job, in ascending index. -/
def State.blocksOf (s : State) (j : Nat) : List CbOut :=
  (s.coding.out.rows.filter fun r => r.1 / 256 == j).map (·.2)

/-- The transport block's bits with its CRC (R289). (log 58: DEDUCED) -/
def LCode.gather (l : LCode) (outs : List CbOut) : List Bool := outs.flatMap fun o => o.bits.take l.own

/-- The outputs of a KIND 0 job whose last code block has ended: what is written, and the record's part. -/
def State.ldFinish (s : State) (d : Nat) (b : CodeBlk) (x : Job) (outs : List CbOut) : State :=
  let l := x.lcode
  let bits := l.gather outs
  let tb := crcPasses l.tbPoly bits
  let tbBytes := packBits ((l.a + 7) / 8) (bits.take l.a)
  let rep := outs.flatMap fun o => [BitVec.ofNat 8 (b2n o.pass), BitVec.ofNat 8 o.iters, 0#8, 0#8]
  let addr := fun k => (x.outBlks.getD k (0, 0)).1
  let w0 := if tb then [(addr 0, tbBytes)] else []
  let w1 := if x.outCount = 2 then [(addr 1, rep)] else []
  match s.putAll x.ptn (w0 ++ w1) with
  | (.error (va, e), s) =>
    s.unitFault x b.job va true (s.codingWho 3 d b.job) e fun s => s.setLd d { b with wait := true }
  | (.ok _, s) =>
    let s := if tb then s else s.jobFlag b.job rfSuppressed
    let s := s.modJob b.job fun y => { y with classArea := ldpcArea x outs tb }
    let s := if ¬x.flag 0 then s else
      let s := forEach (List.range x.nTx) (fun t s =>
        s.addLeaf b.job 0 (x.txEntry t) (sha256 (outs.flatMap fun o => o.llrs.getD t []))) s
      let s := if tb then s.addLeaf b.job 1 0 (sha256 tbBytes) else s
      if x.outCount = 2 then s.addLeaf b.job 1 1 (sha256 rep) else s
    let s := if x.flag 1 then
        let s := if tb then s.addChunks b.job 0 tbBytes else s
        if x.outCount = 2 then s.addChunks b.job 1 rep else s
      else s
    ((s.dropLd d).forgetCoding b.job).taskDone b.job

/-- A code block has been decoded: its counts, and the job's end with its last one. -/
def State.ldDecoded (s : State) (d : Nat) (b : CodeBlk) (x : Job) (obj : Option (List Byte)) : State :=
  match b.comb with
  | none => s
  | some (comb, span, sat) =>
    let l := x.lcode
    let (pass, iters, bits) := l.decode obj x.et x.iterMax span comb
    let o : CbOut := { pass := pass, iters := iters, rAct := l.rAct span, bits := bits,
                       llrs := if x.flag 0 then (b.input.getD ([], [])).1 else [] }
    let s1 := s.setCoding { s.coding with out := s.coding.out.put (b.job * 256 + b.r) o }
    let count := fun (s : State) =>
      let s := s.modJob b.job fun y => { y with sat := satAdd y.sat sat 0xFFFFFFFF }
      let s := s.incSat DEC_CNT0.BLOCKS 1
      let s := if pass then s else s.incSat DEC_CNT1.FAILS 1
      if iters < x.iterMax then s.incSat DEC_CNT2.EARLY 1 else s
    if (s1.blocksOf b.job).length < l.c then ((count s1).dropLd d).taskDone b.job
    else
      let s2 := (count s1).ldFinish d b x (s1.blocksOf b.job)
      if ((s2.coding.ld.find? d).map fun (y : CodeBlk) => y.wait) = some true then s1.ldFinish d b x (s1.blocksOf b.job) else s2

/-! ## Retirement (R276, R428) -/

/-- The state a logical decoder goes to, with its event. (log 163: DEDUCED) -/
def State.setLmap (s : State) (d st ph : Nat) : State :=
  let s := (s.setFld DEC_LMAP.STATE st d).setFld DEC_LMAP.PHYS ph d
  let owners := (List.range 16).filter fun p => s.ptnOn p && bit (s.ded p) d
  let s := s.devEvent evDecLmap d [w32 ph, w32 st] owners
  if st = 2 then s.devEvent evOffline d [w32 kLdpc] owners else s

/-- A logical decoder whose physical decoder is retired moves to the lower free spare, or goes OFFLINE. (log 163: DEDUCED) -/
def State.remapLd (s : State) (d : Nat) : State :=
  let free := fun k => !bit (s.fld DEC_SPARE.SPARE_USED) k && !bit (s.fld DEC_SPARE.SPARE_BAD) k
  let old := s.fld DEC_LMAP.PHYS d
  let s := if old < 16 then s else s.setFld DEC_SPARE.SPARE_USED (s.fld DEC_SPARE.SPARE_USED &&& (3 - 2 ^ (old - 16)))
  match firstFrom free 0 2 with
  | some k => (s.setFld DEC_SPARE.SPARE_USED (s.fld DEC_SPARE.SPARE_USED ||| 2 ^ k)).setLmap d 1 (16 + k)
  | none => s.setLmap d 2 (s.fld DEC_LMAP.PHYS d)

/-- A code block that a retired decoder was running runs again from its inputs, on the decoder that serves d from now on, or
on another where none does. (log 57: DEDUCED) -/
def State.rerunLd (s : State) (d : Nat) : State :=
  match s.coding.ld.find? d with
  | none => s
  | some b =>
    let s := s.modJob b.job fun x => { x with replay := satAdd x.replay 1 0xFFFFFFFF }
    if s.ldServes d then
      let s := s.modJob b.job fun x => { x with decMask := x.decMask ||| 2 ^ s.fld DEC_LMAP.PHYS d }
      s.setLd d { b with comb := none, wait := false }
    else
      s.setCoding { s.coding with
        ld := s.coding.ld.del d, again := s.coding.again ++ [{ b with comb := none, wait := false }] }

/-- Physical decoder `pd` is retired. (log 163: DEDUCED) -/
def State.retireLd (s : State) (pd cause : Nat) : State :=
  if s.isRetired kLdpc pd then s
  else
    let s := s.markRetired kLdpc pd
    let s := if 16 ≤ pd then s.setFld DEC_SPARE.SPARE_BAD (s.fld DEC_SPARE.SPARE_BAD ||| 2 ^ (pd - 16)) else s
    let s := s.devEvent evRetired pd [w32 kLdpc, w32 cause]
    match firstFrom (fun d => s.fld DEC_LMAP.PHYS d == pd && s.ldServes d) 0 16 with
    | none => s
    | some d =>
      if cause = causeCommanded ∧ (s.coding.ld.find? d).isSome then s.setLmap d 3 pd
      else (s.remapLd d).rerunLd d

/-- A transient error of a decoder. -/
def State.ldTransient (s : State) (pd : Nat) : State :=
  let (s, exceeds) := s.raiseLevel kLdpc pd (bits (s.bucketReg kLdpc) 7 0)
  if exceeds then s.retireLd pd causeOverflow else s

/-- Polar decoder or encoder `u` leaves its pool; its work runs again on another unit, unless the retirement was
commanded. -/
def State.retirePolar (s : State) (u cause : Nat) : State :=
  if s.isRetired kPolar u then s
  else
    let s := s.markRetired kPolar u
    let s := s.setFld DEC_STAT.POLAR_RET (s.fld DEC_STAT.POLAR_RET ||| 2 ^ u)
    let s := s.devEvent evRetired u [w32 kPolar, w32 cause]
    match s.coding.polar.find? u with
    | some c =>
      if cause = causeCommanded then s
      else
        let s := s.modJob c.job fun x => { x with replay := satAdd x.replay 1 0xFFFFFFFF }
        s.setCoding { s.coding with polar := s.coding.polar.del u, again := s.coding.again ++ [{ job := c.job, r := 0 }] }
    | none => s

def State.retireEnc (s : State) (u cause : Nat) : State :=
  if s.isRetired kEnc u then s
  else
    let s := s.markRetired kEnc u
    let s := s.setFld ENC_STAT.RETIRED (s.fld ENC_STAT.RETIRED ||| 2 ^ u)
    let s := s.devEvent evRetired u [w32 kEnc, w32 cause]
    match s.coding.enc.find? u with
    | some c =>
      if cause = causeCommanded then s
      else
        let s := s.modJob c.job fun x => { x with replay := satAdd x.replay 1 0xFFFFFFFF }
        s.setCoding { s.coding with enc := s.coding.enc.del u, again := s.coding.again ++ [{ job := c.job, r := 0 }] }
    | none => s

def State.codecTransient (s : State) (k u : Nat) : State :=
  let (s, exceeds) := s.raiseLevel k u (bits (s.bucketReg k) 7 0)
  if ¬exceeds then s else if k = kPolar then s.retirePolar u causeOverflow else s.retireEnc u causeOverflow

/-! ## The end of a code block -/

/-- A stopped job's piece leaves the decoder; a draining decoder moves to its spare at this boundary. -/
def State.ldBoundary (s : State) (d : Nat) : State :=
  if s.fld DEC_LMAP.STATE d = 3 ∧ (s.coding.ld.find? d).isNone then s.remapLd d else s

/-- Decoder d ends its code block (R288, R299); `err` is what its parity checks met. -/
def State.ldEnd (s : State) (d : Nat) (err : MemErr) : State :=
  match s.coding.ld.find? d with
  | none => s
  | some b =>
    match s.job? b.job with
    | none => s.dropLd d
    | some x =>
      if x.phase = .draining then
        let s := (s.dropLd d).taskDone b.job
        (if s.engineBusy b.job = 0 then s.forgetCoding b.job else s).ldBoundary d
      else if b.wait ∨ b.comb.isNone then s
      else if err = .persist then s.retireLd (s.fld DEC_LMAP.PHYS d) causePersist
      else
        let s := if err.isCleared then s.ldTransient (s.fld DEC_LMAP.PHYS d) else s
        match s.coding.ld.find? d with
        | some { comb := some _, .. } =>
          (s.ldDecoded d b x (if x.model = 0xFFFF then none else some x.weights)).ldBoundary d
        | _ => s

/-! ## Polar decoders and encoders -/

/-- The next job for a polar decoder or an encoder: one to run again, or the first eligible. -/
def State.codecJob (s : State) (cls kind : Nat) : Option (Nat × Job) :=
  s.firstJob (s.jobList.filter fun r =>
    let x := r.2
    x.cls == cls && (cls == 5 || x.kind == kind)
      && (s.eligible r.1 x || (decide (x.phase = .running) && s.coding.again.any fun a => a.job == r.1)))

def State.takeAgain (s : State) (j : Nat) : State :=
  s.setCoding { s.coding with again := s.coding.again.filter fun a => a.job != j }

/-- A free polar decoder takes the next KIND 1 job (R277). -/
def State.dispatchPolar (s : State) (u : Nat) : State :=
  if ¬s.codingOn ∨ ¬s.flag DEC_CTL.EN ∨ bit (s.fld DEC_STAT.POLAR_RET) u ∨ (s.coding.polar.find? u).isSome then s
  else
    match s.codecJob 4 1 with
    | none => s
    | some (j, x) =>
      let s := (s.takeAgain j).startPiece j x
      let s := s.modJob j fun y => { y with codecMask := y.codecMask ||| 2 ^ u }
      s.setCoding { s.coding with polar := s.coding.polar.put u { job := j } }

/-- A free encoder takes the next ENCODE job. -/
def State.dispatchEnc (s : State) (u : Nat) : State :=
  if ¬s.codingOn ∨ ¬s.flag ENC_CTL.EN ∨ bit (s.fld ENC_STAT.RETIRED) u ∨ (s.coding.enc.find? u).isSome then s
  else
    match s.codecJob 5 0 with
    | none => s
    | some (j, x) =>
      let s := (s.takeAgain j).startPiece j x
      let s := s.modJob j fun y => { y with codecMask := y.codecMask ||| 2 ^ (4 + u) }
      s.setCoding { s.coding with enc := s.coding.enc.put u { job := j } }

/-- The segments of a UCI job decoded. -/
def Job.uciSegs (x : Job) (llrs : List Byte) : List SegOut :=
  let a := x.par 4 2
  let e := x.par 8 4
  let c := uciCode a e
  (List.range (uciSegments a e)).map fun k =>
    c.decode (x.par 6 1) (uciCrc a).1 (uciCrc a).2 (((llrs.drop (k * c.e)).take c.e).map llrOf)

/-- The class area of a KIND 1 record (R294). -/
def polarArea (x : Job) (segs : List SegOut) : List Byte :=
  let s0 := segs.getD 0 ⟨false, 0, 0, []⟩
  let s1 := segs.getD 1 ⟨false, 0, 0, []⟩
  let two := decide (segs.length = 2)
  fitBytes 32 (bytesOf 1 (b2n s0.pass + 2 * b2n s1.pass + 4 * b2n two) ++ bytesOf 1 s0.rank ++ bytesOf 1 s1.rank ++ [0#8]
    ++ bytesOf 2 s0.metric ++ bytesOf 2 s1.metric ++ bytesOf 2 (uciCode (x.par 4 2) (x.par 8 4)).size)

/-- The leaf and the chunks of a block that a coding unit has read or written (R299, R421). -/
def State.codingLeaf (s : State) (j : Nat) (x : Job) (list entry : Nat) (bs : List Byte) : State :=
  s.delivered j list entry (x.flag 0) bs

/-- Polar decoder u ends its job (R293). -/
def State.polarEnd (s : State) (u : Nat) (err : MemErr) : State :=
  match s.coding.polar.find? u with
  | none => s
  | some c =>
    let drop := fun (s : State) => s.setCoding { s.coding with polar := s.coding.polar.del u }
    let stop := fun (s : State) => s.setCoding { s.coding with polar := s.coding.polar.put u { c with wait := true } }
    match s.job? c.job with
    | none => drop s
    | some x =>
      if x.phase = .draining then (drop s).taskDone c.job
      else if c.wait then s
      else if err = .persist then s.retirePolar u causePersist
      else
        let s := if err.isCleared then s.codecTransient kPolar u else s
        if (s.coding.polar.find? u).isNone then s
        else
          let b := x.inBlks.getD 0 (0, 0)
          match s.vRead x.ptn b.1 b.2 with
          | (.error e, s) => s.unitFault x c.job b.1 false (s.codingWho 4 u c.job) e stop
          | (.ok llrs, s) =>
            let segs := x.uciSegs llrs
            let a := x.par 4 2
            let all := segs.flatMap fun g => g.bits
            let pass := segs.all fun g => g.pass
            let bytes := packBits ((a + 7) / 8) (all.drop (all.length - a))
            let o := (x.outBlks.getD 0 (0, 0)).1
            match (if pass then s.put x.ptn o bytes else (.ok (), s)) with
            | (.error e, s) => s.unitFault x c.job o true (s.codingWho 4 u c.job) e stop
            | (.ok _, s) =>
              let s := if pass then s.codingLeaf c.job x 1 0 bytes else s.jobFlag c.job rfSuppressed
              let s := s.codingLeaf c.job x 0 (x.par 12 4) llrs
              let s := s.modJob c.job fun y => { y with classArea := polarArea x segs }
              (drop s).taskDone c.job

/-- The output bits of an ENCODE job from its payload (R296). -/
def Job.encodeBits (x : Job) (payload : List Bool) : List Bool :=
  let e := x.par 20 4
  match x.kind with
  | 0 =>
    let l := (deriveCode x.parA x.encBg).getD { bg := 1, a := 24, c := 1, kp := 40, zc := 2 }
    l.encode (l.ncb x.encLbrm (x.par 16 4)) (x.par 9 1) e (x.par 11 1) (x.par 10 1) payload
  | 1 => encodeDci payload (x.par 24 2) e
  | _ => encodePbch payload

/-- The class area of an ENCODE record (R297). -/
def Job.encodeArea (x : Job) : List Byte :=
  match x.kind with
  | 0 =>
    match deriveCode x.parA x.encBg with
    | some l => fitBytes 32 (bytesOf 2 l.c ++ bytesOf 2 l.zc ++ bytesOf 2 l.n)
    | none => fitBytes 32 []
  | 1 => fitBytes 32 (bytesOf 4 0 ++ bytesOf 2 (derivePolar (max 12 x.parA + 24) (x.par 20 4) 9 false).size)
  | _ => fitBytes 32 (bytesOf 4 0 ++ bytesOf 2 512)

/-- Encoder u ends its job. -/
def State.encEnd (s : State) (u : Nat) (err : MemErr) : State :=
  match s.coding.enc.find? u with
  | none => s
  | some c =>
    let drop := fun (s : State) => s.setCoding { s.coding with enc := s.coding.enc.del u }
    let stop := fun (s : State) => s.setCoding { s.coding with enc := s.coding.enc.put u { c with wait := true } }
    match s.job? c.job with
    | none => drop s
    | some x =>
      if x.phase = .draining then (drop s).taskDone c.job
      else if c.wait then s
      else if err = .persist then s.retireEnc u causePersist
      else
        let s := if err.isCleared then s.codecTransient kEnc u else s
        if (s.coding.enc.find? u).isNone then s
        else
          let b := x.inBlks.getD 0 (0, 0)
          match s.vRead x.ptn b.1 b.2 with
          | (.error e, s) => s.unitFault x c.job b.1 false (s.codingWho 5 u c.job) e stop
          | (.ok bs, s) =>
            let o := x.outBlks.getD 0 (0, 0)
            let bytes := packBits o.2 (x.encodeBits ((unpackBits bs).take x.parA))
            match s.put x.ptn o.1 bytes with
            | (.error e, s) => s.unitFault x c.job o.1 true (s.codingWho 5 u c.job) e stop
            | (.ok _, s) =>
              let s := (s.codingLeaf c.job x 0 0 bs).codingLeaf c.job x 1 0 bytes
              let s := s.modJob c.job fun y => { y with classArea := x.encodeArea }
              ((drop s).incSat ENC_CNT.JOBS 1).taskDone c.job

end Sys2Proof.Machine
end

