-- ==== Sys2Proof/Machine/Harts.lean ====
section
/-! DEFINITION. The harts' controls (R485), the writes of interrupt files (R487) and the APLIC (R489). The APLIC's register
layout and rules are those of the RISC-V Advanced Interrupt Architecture (PRESUMED), which R489 names. -/
namespace Sys2Proof.Machine

/-! ## Harts (R482, R485) -/

/-- Hart h runs. -/
def State.hartRuns (s : State) (h : Nat) : Bool := s.domOn (hartDomain h) && s.fld ACI_HART_STAT.STATE h == 1

/-- Partition tag of hart h (R484). -/
def State.hartPtn (s : State) (h : Nat) : Nat := s.fld ACI_HART_CTL.PTN h

/-- ACI_HARTn_CTL.START: a HELD hart starts in machine mode at its reset vector. (log 152: DEDUCED) -/
def State.hartStart (s : State) (src h : Nat) : State :=
  if src ≠ s.manager ∨ ¬s.domOn (hartDomain h) ∨ s.fld ACI_HART_STAT.STATE h ≠ 0 then s
  else
    let a := s.fld ACI_HART_RVEC.RVEC h * 4 + 2 ^ 32 * s.fld ACI_HART_RVHI.RVEC h
    { s with harts := { s.harts with entry := s.harts.entry.put h a } }.setFld ACI_HART_STAT.STATE 1 h

/-- ACI_HARTn_CTL.RESET: the hart's dirty lines are written back, and it is HELD. (log 152: DEDUCED) -/
def State.hartReset (s : State) (src h : Nat) : State :=
  if src ≠ s.manager ∨ ¬s.hartRuns h then s
  else
    { s with
      yal := { s.yal with reqs := ⟨s.yal.reqs.rows.filter fun r => !(r.2.kind == 1 && r.2.who == h)⟩ }
      harts := { s.harts with
        dirty := ⟨s.harts.dirty.rows.filter fun r => r.2.way != h⟩
        last := s.harts.last.del h
        entry := s.harts.entry.del h
        rsv := s.harts.rsv.del h
        host := s.harts.host.del h } }.setFld ACI_HART_STAT.STATE 0 h

/-! ## Interrupt files (R487, R488) -/

/-- The block number of ACI (R25), the source of what harts and the APLIC send. -/
def aciBlock : Nat := 27

/-- A 32-bit write of setipnum_le of file f of hart h, from a hart with partition tag p. (log 151: DESIGN CHOICE) -/
def State.setipnum (s : State) (p h f v : Nat) : State :=
  if 9 ≤ f ∨ (f = 0 ∧ p ≠ s.manager) ∨ 2048 ≤ v then s
  else (s.msiHart (some p) aciBlock h (f * 4096 + v)).done

/-! ## The APLIC (R489) -/

def aplicBase : Nat := 0x401B4000
def State.aplic (s : State) (o : Nat) : Nat := (s.regAt (aplicBase + o)).toNat
def State.setAplic (s : State) (o v : Nat) : State := s.setRegAt (aplicBase + o) (BitVec.ofNat 32 v)

/-- Pending and enable bits of the sources. -/
def aplicIp : Nat := 0x1C00
def aplicIe : Nat := 0x1E00

/-- Levels of the wires before any change: the active-low signals are high. -/
def wireIdle (i : Nat) : Bool := i == 1 || i == 6

def State.aplicMode (s : State) (i : Nat) : Nat := s.aplic (4 * i) % 8

/-- The rectified input of source i: its wire, inverted for the modes that are active low; 0 where it is not wired.
(log 150: PRESUMED) -/
def State.aplicInput (s : State) (i : Nat) : Bool :=
  let w := s.harts.wires.get wireIdle i
  match s.aplicMode i with
  | 4 => w
  | 5 => !w
  | 6 => w
  | 7 => !w
  | _ => false

def State.aplicBit (s : State) (o i : Nat) (b : Bool) : State := s.setAplic o (setBits (s.aplic o) i i (b2n b))

/-- Pending and enabled sources are delivered as MSIs, in the order of their numbers. (log 150: PRESUMED) -/
def State.aplicDeliver (s : State) : State :=
  if ¬bit (s.aplic 0) 8 then s
  else
    forEach [1, 2, 3, 4, 5, 6] (fun i s =>
      if bit (s.aplic aplicIp) i && bit (s.aplic aplicIe) i then
        let t := s.aplic (0x3000 + 4 * i)
        ((s.aplicBit aplicIp i false).msiHart none aciBlock (bits t 20 18) (t % 65536)).done
      else s) s

/-- Software makes source i pending: an inactive source stays as it is, a level-sensitive one follows its input. -/
def State.aplicPend (s : State) (i : Nat) : State :=
  let m := s.aplicMode i
  if i = 0 ∨ 6 < i ∨ m = 0 ∨ (6 ≤ m ∧ ¬s.aplicInput i) then s else s.aplicBit aplicIp i true

def State.aplicEnable (s : State) (i : Nat) (on : Bool) : State :=
  if i = 0 ∨ 6 < i ∨ s.aplicMode i = 0 then s else s.aplicBit aplicIe i on

def State.aplicClear (s : State) (i : Nat) : State := if i = 0 ∨ 6 < i then s else s.aplicBit aplicIp i false

/-- A write of sourcecfg: a source made inactive loses its bits and its target; one whose input is high under the new mode may or
may not become pending. (log 150: PRESUMED) -/
def State.aplicSource (s : State) (i v : Nat) : State :=
  let m := if v % 8 = 2 ∨ v % 8 = 3 then 0 else v % 8
  let s := s.setAplic (4 * i) m
  if m = 0 then ((s.aplicBit aplicIp i false).aplicBit aplicIe i false).setAplic (0x3000 + 4 * i) 0
  else if s.aplicInput i then
    let (x, s) := s.draw
    if x % 2 = 1 then s.aplicBit aplicIp i true else s
  else s

/-- The sources that a word of bits names. -/
def aplicBits (v : Nat) : List Nat := [1, 2, 3, 4, 5, 6].filter fun i => bit v i

def byteSwap (v : Nat) : Nat := ofBytes (bytesOf 4 v).reverse

/-- A 32-bit write at offset `o` of the APLIC. (log 150: PRESUMED) -/
def State.aplicWrite (s : State) (o v : Nat) : State :=
  let s :=
    if o = 0 then s.setAplic 0 (v / 256 % 2 * 256)
    else if o ≤ 24 then s.aplicSource (o / 4) v
    else if o = 0x1C00 then forEach (aplicBits v) (fun i s => s.aplicPend i) s
    else if o = 0x1CDC ∨ o = 0x2000 then s.aplicPend v
    else if o = 0x2004 then s.aplicPend (byteSwap v)
    else if o = 0x1D00 then forEach (aplicBits v) (fun i s => s.aplicClear i) s
    else if o = 0x1DDC then s.aplicClear v
    else if o = 0x1E00 then forEach (aplicBits v) (fun i s => s.aplicEnable i true) s
    else if o = 0x1EDC then s.aplicEnable v true
    else if o = 0x1F00 then forEach (aplicBits v) (fun i s => s.aplicEnable i false) s
    else if o = 0x1FDC then s.aplicEnable v false
    else if o = 0x3000 then (s.msiHart none aciBlock (bits v 20 18) (v % 2048)).done
    else if 0x3000 < o ∧ o ≤ 0x3018 then
      if s.aplicMode ((o - 0x3000) / 4) = 0 then s else s.setAplic o (bits v 20 18 * 2 ^ 18 + v % 65536)
    else s
  s.aplicDeliver

/-- A read at offset `o`: MSI delivery mode only. (log 150: PRESUMED) -/
def State.aplicRead (s : State) (o : Nat) : Nat :=
  if o = 0 then 0x80000004 + s.aplic 0
  else if o ≤ 24 ∨ o = 0x1C00 ∨ o = 0x1E00 ∨ (0x3000 < o ∧ o ≤ 0x3018) then s.aplic o
  else if o = 0x1D00 then ([1, 2, 3, 4, 5, 6].filter fun i => s.aplicInput i).foldl (fun m i => m + 2 ^ i) 0
  else 0

/-- The wire of source i takes a level: a rising input makes the source pending; a level-sensitive one follows it down. -/
def State.aplicWire (s : State) (i : Nat) (level : Bool) : State :=
  let old := s.aplicInput i
  let s := { s with harts := { s.harts with wires := s.harts.wires.set wireIdle i level } }
  let new := s.aplicInput i
  let s := if !old && new then s.aplicBit aplicIp i true
    else if !new && decide (6 ≤ s.aplicMode i) then s.aplicBit aplicIp i false
    else s
  s.aplicDeliver

/-- The wire of source i pulses: what it signals is an event. (log 150: PRESUMED) -/
def State.aplicPulse (s : State) (i : Nat) : State := (s.aplicWire i true).aplicWire i false

end Sys2Proof.Machine
end

