-- ==== Sys2Proof/Machine/Fronthaul.lean ====
section
/-! DEFINITION. What fronthaul ingress and egress share (chapters 10 and 13): the slots of a cell's timeline, grids (R235),
block floating point (R156), and the layouts of Ethernet, eCPRI and CUS-plane messages. -/
namespace Sys2Proof.Machine

/-! ## Big-endian fields of frames -/

/-- The `n` bytes of a number, most significant first. -/
def bytesBE (n x : Nat) : List Byte := (bytesOf n x).reverse

/-- The number that bytes spell, most significant first. -/
def ofBE (bs : List Byte) : Nat := ofBytes bs.reverse

/-- Bytes [off, off + n) read most significant first. -/
def fieldBE (bs : List Byte) (off n : Nat) : Nat := ofBE ((bs.drop off).take n)

/-! ## Slots of a cell -/

/-- Frame and slot of a slot counted from frame 0. -/
def CellGrid.split (g : CellGrid) (slot : Int) : Int × Nat :=
  (slot / (g.slotsPerFrame : Int), (slot % (g.slotsPerFrame : Int)).toNat)

/-- The slot counted from frame 0. -/
def CellGrid.join (g : CellGrid) (frame : Int) (slot : Nat) : Int := frame * (g.slotsPerFrame : Int) + slot

/-- The boundary of symbol `sym` of a slot, `tenths` hundred nanoseconds after it (before, when negative): the first unit at
or after it. -/
def CellGrid.edge (g : CellGrid) (slot : Int) (sym : Nat) (tenths : Int) : Int :=
  let (f, n) := g.split slot
  ceil3 (g.pos3 f n sym (100 * tenths))

/-- Among slots `from'`, `from' + 1`, ..., the first of `k` whose condition holds. (log 78: DEDUCED) -/
def firstSlot (p : Int → Bool) (from' : Int) : Nat → Int
  | 0 => from'
  | k + 1 => if p from' then from' else firstSlot p (from' + 1) k

/-- The first slot with index b mod `nbuf` whose boundary of symbol 0, moved by `tenths`, is after `now`. -/
def CellGrid.nextSlot (g : CellGrid) (now tenths : Int) (b nbuf : Nat) : Int :=
  let guess := g.join (g.frameAt (now - 100 * tenths * nsUnit)) 0
  firstSlot (fun t => decide (now < g.edge t 0 tenths) && decide (t % (nbuf : Int) = b)) (guess - 1) (g.slotsPerFrame + 2 * nbuf + 4)

/-! ## Grids (R235, R310) -/

/-- Bytes of one symbol of one stream. -/
def symBytes (nprb : Nat) : Nat := nprb * 48

def gridSize (l s nprb : Nat) : Nat := l * s * nprb * 48

/-- Byte of PRB n of symbol l and stream a. -/
def gridOff (s nprb l a n : Nat) : Nat := ((l * s + a) * nprb + n) * 48

/-- Stride of a receive buffer (R235), of a transmit buffer (R310). -/
def rxStride (l s nprb : Nat) : Nat := alignUp (gridSize l s nprb + 16 * l * s + 64) 4096
def txStride (l s nprb : Nat) : Nat := alignUp (gridSize l s nprb + 8256) 4096

/-! ## Block floating point (R156) -/

/-- The 24 samples of a PRB's 48 bytes, I before Q. -/
def prbSamples (bs : List Byte) : List Int := (List.range 24).map fun k => sext 16 (field bs (2 * k) 2)

/-- Bits of the samples, most significant first, in whole bytes. -/
def packBE (w : Nat) (xs : List Int) : List Byte :=
  bytesBE (w * xs.length / 8) (xs.foldl (fun a x => a * 2 ^ w + toBits w x) 0)

/-- `n` samples of `w` bits each. -/
def unpackBE (w n : Nat) (bs : List Byte) : List Int :=
  let x := ofBE (bs.take (w * n / 8))
  (List.range n).map fun k => sext w (x / 2 ^ (w * (n - 1 - k)))

/-- The smallest exponent with which every sample fits in `w` bits. -/
def bfpExp (w : Nat) (xs : List Int) : Nat → Nat → Nat
  | e, 0 => e
  | e, k + 1 =>
    if xs.all fun x => decide (-(2 ^ (w - 1) : Int) ≤ truncDiv x (2 ^ e)) && decide (truncDiv x (2 ^ e) < 2 ^ (w - 1)) then e
    else bfpExp w xs (e + 1) k

/-- Compress one PRB: its bytes, and how many nonzero samples became zero. -/
def bfpCompress (w : Nat) (xs : List Int) : List Byte × Nat :=
  let e := bfpExp w xs 0 15
  let ms := xs.map fun x => truncDiv x (2 ^ e)
  (bytesOf 1 e ++ packBE w ms, ((xs.zip ms).filter fun p => decide (p.1 ≠ 0 ∧ p.2 = 0)).length)

/-- A PRB as a section carries it. -/
def packPrb (bfp : Bool) (w : Nat) (bs : List Byte) : List Byte × Nat :=
  if bfp then bfpCompress w (prbSamples bs) else (packBE 16 (prbSamples bs), 0)

/-- Bytes of a PRB in a section. -/
def prbLen (bfp : Bool) (w : Nat) : Nat := if bfp then 3 * w + 1 else 48

/-- The 48 grid bytes of a PRB that a section carries, and its saturated samples (R233). -/
def unpackPrb (bfp : Bool) (w : Nat) (bs : List Byte) : List Byte × Nat :=
  let ms := if bfp then (unpackBE w 24 (bs.drop 1)).map fun m => m * 2 ^ (field bs 0 1 % 16) else unpackBE 16 24 bs
  let ys := ms.map (clampInt (-32768) 32767)
  (ys.flatMap fun y => bytesOf 2 (toBits 16 y), ((ms.zip ys).filter fun p => decide (p.1 ≠ p.2)).length)

/-- A method and width that R229 and R308 admit; the width is 16 when uncompressed. -/
def compOk (bfp : Bool) (w : Nat) : Bool := if bfp then [8, 9, 12, 14, 16].contains w else w == 16

/-- udCompHdr: width in [7:4], 16 as 0, and method in [3:0]. (log 67: PRESUMED) -/
def udCompHdr (bfp : Bool) (w : Nat) : List Byte := bytesOf 1 (w % 16 * 16 + b2n bfp)

/-! ## Messages -/

/-- An eCPRI message: its common header, ecpriPcid, sequence number and payload. (log 67: PRESUMED) -/
def ecpriMessage (type' pcid seq : Nat) (body : List Byte) : List Byte :=
  [0x10#8] ++ bytesOf 1 type' ++ bytesBE 2 (body.length + 4) ++ bytesBE 2 pcid ++ bytesOf 1 seq ++ [0x80#8] ++ body

/-- The first four bytes of a CUS-plane message: direction, payload version 1, filter index, and the position.
(log 67: PRESUMED) -/
def cusHeader (dir filter : Nat) (g : CellGrid) (slot : Int) (sym : Nat) : List Byte :=
  let (f, n) := g.split slot
  bytesOf 1 (dir * 128 + 16 + filter % 16) ++ bytesOf 1 (f % 256).toNat
    ++ bytesBE 2 (n / 2 ^ g.mu % 16 * 2 ^ 12 + n % 2 ^ g.mu * 2 ^ 6 + sym)

/-- sectionId, rb = 0, symInc = 0, the first PRB and the PRB count. (log 67: PRESUMED) -/
def sectionHead (id prb0 num : Nat) : List Byte := bytesBE 3 (id % 4096 * 4096 + prb0 % 1024) ++ bytesOf 1 num

/-- Length of the Ethernet header with its tags at the front of a frame or template. (log 67: PRESUMED) -/
def l2Len (bs : List Byte) : Nat :=
  let t := fieldBE bs 12 2
  if t = 0x8100 ∨ t = 0x88A8 then (if fieldBE bs 16 2 = 0x8100 then 22 else 18) else 14

/-- Priority code of a frame's outer tag; 0 where there is none. -/
def pcpOf (bs : List Byte) : Nat := if 14 < l2Len bs then bits (fieldBE bs 14 2) 15 13 else 0

/-- One's-complement sum of 16-bit words. -/
def onesSum : List Byte → Nat → Nat
  | a :: b :: rest, acc => onesSum rest (acc + a.toNat * 256 + b.toNat)
  | [a], acc => acc + a.toNat * 256
  | [], acc => acc

/-- Internet checksum. -/
def inetSum (bs : List Byte) : Nat :=
  let x := onesSum bs 0
  let x := x % 65536 + x / 65536
  let x := x % 65536 + x / 65536
  65535 - x

/-- Bytes of `t` from `off` replaced by `v`. -/
def patch (t : List Byte) (off : Nat) (v : List Byte) : List Byte := t.take off ++ v ++ t.drop (off + v.length)

/-- A template with its length fields and checksums filled for a message (R324). -/
def fillTemplate (kind : Nat) (t msg : List Byte) : List Byte :=
  let n := t.length
  if kind = 1 then
    let t := patch t (n - 4) (bytesBE 2 (msg.length + 8) ++ [0#8, 0#8])
    let t := patch (patch t (n - 26) (bytesBE 2 (msg.length + 28))) (n - 18) [0#8, 0#8]
    patch t (n - 18) (bytesBE 2 (inetSum ((t.drop (n - 28)).take 20))) ++ msg
  else if kind = 2 then
    let t := patch t (n - 4) (bytesBE 2 (msg.length + 8) ++ [0#8, 0#8])
    let t := patch t (n - 44) (bytesBE 2 (msg.length + 8))
    let pseudo := (t.drop (n - 40)).take 32 ++ bytesBE 4 (msg.length + 8) ++ bytesBE 4 17
    let c := inetSum (pseudo ++ t.drop (n - 8) ++ msg)
    patch t (n - 2) (bytesBE 2 (if c = 0 then 0xFFFF else c)) ++ msg
  else t ++ msg

/-- Bytes of the template that a frame's payload includes: the headers behind the Ethernet header. -/
def headersLen (kind : Nat) : Nat := if kind = 1 then 28 else if kind = 2 then 48 else 0

/-- Fewest template bytes of a transport. (log 73: DEDUCED) -/
def tmplLeast (kind : Nat) : Nat := 14 + headersLen kind

/-! ## Ports -/

/-- A port that may begin a frame of a priority (R496, R497). (log 68: DESIGN CHOICE) -/
def State.portSends (s : State) (port prio : Nat) : Bool :=
  s.flag ETH_PORT_CTL.EN port && s.flag ETH_PORT_STAT.LINK port && !bit (s.fld ETH_PORT_STAT.PAUSED port) prio

/-- A correction of R65, in units. -/
def corrUnits (x : Nat) : Int := sext 32 x * 2 ^ 16

/-! ## Cells -/

/-- The lowest valid eAxC entry that satisfies `f`. -/
def State.eaxcWhere (s : State) (f : Nat → Bool) : Option Nat := firstFrom (fun k => s.flag FHE_EAXC_A.VALID k && f k) 0 3072

/-- Requester of the fronthaul engine. -/
def fheWho (c : Nat) : Requester := { kind := 6, unit := 0, handle := c, job := 0, tag := 0 }

/-- A semaphore range [first, first + n) of a cluster that partition p owns whole, short of index 1,023 (R256, R323). -/
def State.ownsRange (s : State) (p c first n : Nat) : Bool :=
  decide (first + n ≤ 1024) && (List.range n).all fun k => s.ownsSem p c (first + k)

/-- A semaphore set to 0 as its buffer is assigned (R237, R312). -/
def State.zeroSem (s : State) (c i : Nat) : State :=
  if s.domOn (64 + c) then (s.setFld CLU_SEM.VALUE 0 c i).refresh else s

end Sys2Proof.Machine
end

