-- ==== Sys2Proof/Machine/Correlator.lean ====
section
/-! DEFINITION. The arithmetic of a PRACH searcher for one stream and repetition (R262): the root's DFT as CI16, the product,
the N-point IDFT, its truncation, the squared magnitude. Cosines are held to 96 fractional bits. -/
namespace Sys2Proof.Machine

/-! ## Cosines -/

/-- 2π in units of 2^-96. -/
def twoPi96 : Nat := 2 * 0x3243F6A8885A308D313198A2E

/-- Σ (-1)^i x^2i / (2i)! from term `t` of index `i` on, with x² = `xx`, in units of 2^-96; `k` bounds the terms. -/
def cosSeries (xx : Nat) : Nat → Nat → Nat → Int
  | 0, _, _ => 0
  | k + 1, i, t => (t : Int) - cosSeries xx k (i + 1) (t * xx / 2 ^ 96 / ((2 * i + 1) * (2 * i + 2)))

/-- The cosine of p/q of a turn, p/q at most a quarter, in units of 2^-96. -/
def cosQuarter (p q : Nat) : Int :=
  if 4 * p = q then 0
  else
    let x := twoPi96 * p / q
    cosSeries (x * x / 2 ^ 96) 24 0 (2 ^ 96)

/-- The cosine of p/q of a turn, in units of 2^-96. (log 170: DEDUCED) -/
def cosTurn (p q : Nat) : Int :=
  let t := min (p % q) (q - p % q)
  if 4 * t ≤ q then cosQuarter t q else -cosQuarter (q - 2 * t) (2 * q)

/-- The sine of p/q of a turn: the cosine a quarter of a turn before. (log 170: DEDUCED) -/
def sinTurn (p q : Nat) : Int := cosTurn (4 * p + 3 * q) (4 * q)

/-! ## Complex integers -/

/-- A complex integer. -/
structure CInt where
  re : Int
  im : Int
deriving DecidableEq, Repr

def CInt.add (a b : CInt) : CInt := ⟨a.re + b.re, a.im + b.im⟩
def CInt.mul (a b : CInt) : CInt := ⟨a.re * b.re - a.im * b.im, a.re * b.im + a.im * b.re⟩
def CInt.conj (a : CInt) : CInt := ⟨a.re, -a.im⟩
def CInt.sqMag (a : CInt) : Nat := (a.re * a.re + a.im * a.im).toNat
def CInt.sum (xs : List CInt) : CInt := xs.foldl CInt.add ⟨0, 0⟩

/-- e^(2πj p/q), in units of 2^-96. (log 170: DEDUCED) -/
def turn (p q : Nat) : CInt := ⟨cosTurn p q, sinTurn p q⟩

/-! ## The searcher (R262) -/

/-- 2^14 v / √l, for v in units of 2^-96, toward zero. -/
def scaleRoot (l : Nat) (v : Int) : Int := v.sign * (isqrt (2 ^ 28 * v.natAbs ^ 2 / (2 ^ 192 * l)) : Nat)

/-- Element k of the L-point DFT of root x_u, x_u(n) = e^(-πj u n (n + 1) / L), as CI16 at amplitude 2^14. -/
def rootDft (l u k : Nat) : CInt :=
  let x := CInt.sum ((List.range l).map fun n => (turn (u * (n * (n + 1) / 2) + n * k) l).conj)
  ⟨scaleRoot l x.re, scaleRoot l x.im⟩

/-- The received CI16 elements. -/
def cinElems (bs : List Byte) (l : Nat) : List CInt :=
  (List.range l).map fun k => ⟨sext 16 (field bs (4 * k) 2), sext 16 (field bs (4 * k + 2) 2)⟩

/-- What the largest and the least scale give the peak of a sequence of magnitude 32,767 (R262), 2^36 within 2^30 when squared,
with room for the root's truncation. -/
def corrPeakMost : Nat := 264200
def corrPeakLeast : Nat := 260088

/-- The scale of the IDFT outputs, in units of 2^-64. (log 81: DESIGN CHOICE) -/
def corrScale (l : Nat) : Nat :=
  let full := 32767 * 2 ^ 14 * l
  max (corrPeakLeast * 2 ^ 64 / full) (min (corrPeakMost * 2 ^ 64 / full) (Config.praScale l))

/-- An IDFT part, in units of 2^-96, at the searcher's scale, toward zero. (log 81: DESIGN CHOICE) -/
def corrTrunc (l : Nat) (v : Int) : Int := (v * (corrScale l : Nat)).tdiv (2 ^ 160)

/-- The power at bin n of the correlation of received elements with root u: the product, zero-padded to N points, its IDFT. -/
def corrPower (l size u : Nat) (bs : List Byte) (n : Nat) : Nat :=
  let prod := ((List.range l).zip (cinElems bs l)).map fun r => (r.1, r.2.mul (rootDft l u r.1).conj)
  let y := CInt.sum (prod.map fun r => r.2.mul (turn (r.1 * n) size))
  CInt.sqMag ⟨corrTrunc l y.re, corrTrunc l y.im⟩

end Sys2Proof.Machine
end

