-- ==== Sys2Proof/Machine/FhRx.lean ====
section
/-! DEFINITION. Fronthaul ingress (chapter 10): frames and their checks (R229-R234), slot buffers (R235-R239), and the receive
jobs: their parameter blocks (R240-R245, R254), the fallback path (R248-R251), the record areas (R252, R254). -/
namespace Sys2Proof.Machine

/-! ## Frames (R229) -/

/-- One eCPRI message of a frame. -/
structure EMsg where
  pcid : Nat
  seq : Nat
  body : List Byte
deriving DecidableEq, Repr

/-- The eCPRI messages of a payload; none where one is malformed or not supported. `fuel` bounds the messages.
(log 67: PRESUMED) -/
def ecpriMessages : Nat → List Byte → Option (List EMsg)
  | 0, _ => none
  | k + 1, bs =>
    let b0 := field bs 0 1
    let n := fieldBE bs 2 2
    let ok := decide (12 ≤ bs.length) && b0 / 16 == 1 && b0 / 2 % 8 == 0 && field bs 1 1 == 0 && decide (8 ≤ n)
      && decide (4 + n ≤ bs.length) && field bs 7 1 == 0x80
    if ¬ok then none
    else
      let m : EMsg := { pcid := fieldBE bs 4 2, seq := field bs 6 1, body := (bs.drop 8).take (n - 4) }
      if b0 % 2 = 0 then some [m] else (ecpriMessages k (bs.drop (alignUp (4 + n) 4))).map fun ms => m :: ms

/-- Payload of a frame behind its tags, and its EtherType. -/
def frameBody (bs : List Byte) : Nat × List Byte := (fieldBE bs (l2Len bs - 2) 2, bs.drop (l2Len bs))

/-- The eCPRI bytes of a frame, if it is one of R229: over Ethernet, or over UDP to the port given. -/
def ecpriOf (port : Nat) (bs : List Byte) : Option (List Byte) :=
  let (t, p) := frameBody bs
  if t = 0xAEFE then some p
  else if port = 0 then none
  else if t = 0x0800 then
    let h := field p 0 1 % 16 * 4
    if field p 0 1 / 16 = 4 ∧ 20 ≤ h ∧ field p 9 1 = 17 ∧ fieldBE p (h + 2) 2 = port then
      some ((p.drop (h + 8)).take (fieldBE p (h + 4) 2 - 8))
    else none
  else if t = 0x86DD then
    if field p 6 1 = 17 ∧ fieldBE p 42 2 = port then some ((p.drop 48).take (fieldBE p 44 2 - 8)) else none
  else none

/-- The CUS-plane header of a message: filterIndex, frameId, subframeId, slotId, symbolId; none where it is malformed or
not supported. -/
structure UHead where
  filter : Nat
  frame : Nat
  sub : Nat
  slot : Nat
  sym : Nat
deriving DecidableEq, Repr

/-- (log 67: PRESUMED) -/
def uHead (b : List Byte) : Option UHead :=
  let h := field b 0 1
  let w := fieldBE b 2 2
  if b.length < 4 ∨ h / 128 ≠ 0 ∨ h / 16 % 8 ≠ 1 ∨ 10 ≤ w / 4096 then none
  else some ⟨h % 16, field b 1 1, w / 4096, w / 64 % 64, w % 64⟩

/-- A section of a U-plane message: rb and symInc, the first PRB and PRB count as coded, method, width, PRB data. -/
structure USec where
  odd : Bool
  prb0 : Nat
  num : Nat
  bfp : Bool
  width : Nat
  data : List Byte
deriving DecidableEq, Repr

/-- The sections of a message, and how many could not be read: one whose method or width is not supported, or that the
message ends within, ends the reading. `all` is the count that numPrbu 0 stands for. (log 67: PRESUMED; log 74: DEDUCED) -/
def uSections (udHdr bfp : Bool) (w all : Nat) : Nat → List Byte → List USec × Nat
  | 0, _ => ([], 0)
  | k + 1, bs =>
    if bs.isEmpty then ([], 0)
    else
      let h := fieldBE bs 0 3
      let u := field bs 4 1
      let m := if udHdr then u % 16 == 1 else bfp
      let w := if udHdr then (if u / 16 = 0 then 16 else u / 16) else w
      let bad := udHdr && !(u % 16 == 0 || u % 16 == 1)
      let head := if udHdr then 6 else 4
      let num := field bs 3 1
      let len := (if num = 0 then all else num) * prbLen m w
      if bs.length < head ∨ bad ∨ ¬compOk m w ∨ bs.length < head + len then ([], 1)
      else
        let sec : USec := { odd := h / 1024 % 4 != 0, prb0 := h % 1024, num := num, bfp := m, width := w,
                            data := (bs.drop head).take len }
        let (ss, n) := uSections udHdr bfp w all k (bs.drop (head + len))
        (sec :: ss, n)

/-! ## Cells -/

def State.putRxCell (s : State) (c : Nat) (x : RxCell) : State := { s with fhe := { s.fhe with rx := s.fhe.rx.put c x } }

def State.modRxSlot (s : State) (c : Nat) (slot : Int) (f : RxSlot → RxSlot) : State :=
  match s.rxCell? c with
  | none => s
  | some x => s.putRxCell c { x with slots := x.slots.map fun b => if b.slot = slot then f b else b }

/-- What stands in the summary of buffer b. -/
def State.putRxSum (s : State) (c b : Nat) (x : RxSum) : State := { s with fhe := { s.fhe with sums := s.fhe.sums.put (c * 8 + b) x } }

def State.rxOpenAt (s : State) (c : Nat) (slot : Int) (sym : Nat) : Int :=
  (s.cellGrid c).edge slot sym (s.fld FHE_CRX_WIN.TA4_MIN c : Nat)
def State.rxCloseAt (s : State) (c : Nat) (slot : Int) (sym : Nat) : Int :=
  (s.cellGrid c).edge slot sym (s.fld FHE_CRX_WIN.TA4_MAX c : Nat)

def State.rxBase (s : State) (c b : Nat) : Nat :=
  s.fld FHE_CRX_GRID_LO.ADDR c * 4096 + 2 ^ 32 * s.fld FHE_CRX_GRID_HI.ADDR c
    + b * rxStride (s.cellGrid c).symsPerSlot (s.fld FHE_CRX_CFG.S c) (s.fld FHE_CRX_CFG.NPRB c)

/-- FHE_CRX_STATn.ACTIVE: a slot has been opened and not closed. -/
def State.syncRx (s : State) (c : Nat) : State :=
  let l := (s.cellGrid c).symsPerSlot
  let on := match s.rxCell? c with
    | some x => x.slots.any fun b => decide (b.closed < l)
    | none => false
  s.setFld FHE_CRX_STAT.ACTIVE (b2n on) c

/-- A write that the FHE makes for a cell, whole or not at all: a fault sets WR_FAULT. -/
def State.rxPut (s : State) (c va : Nat) (bs : List Byte) : Bool × State :=
  let p := s.fld FHE_CRX_PTN.PTN c
  match s.put p va bs with
  | (.ok _, s) => (true, s)
  | (.error (.mmu f), s1) =>
    let s := { s1 with mem := s.mem, syc := s.syc }
    (false, (s.mmuFault p va true false (fheWho c) f).setFld FHE_CRX_STAT.WR_FAULT 1 c)
  | (.error (.code _), s1) => (false, { s1 with mem := s.mem, syc := s.syc }.setFld FHE_CRX_STAT.WR_FAULT 1 c)

/-! ## Receive jobs: codes (R253) -/

def fcRxBadParam : Nat := 0x0800
def fcRxNoDeadline : Nat := 0x0801
def fcRxBadRange : Nat := 0x0802
def fcRxCellInput : Nat := 0x0803
def fcRxStale : Nat := 0x0804
def fcRxGridOverrun : Nat := 0x0805

/-! ## Assignment (R237, R239) -/

/-- Byte of the slot summary in a buffer. -/
def State.summaryOff (s : State) (c : Nat) : Nat :=
  let l := (s.cellGrid c).symsPerSlot
  let n := s.fld FHE_CRX_CFG.S c
  gridSize l n (s.fld FHE_CRX_CFG.NPRB c) + 16 * l * n

/-- Buffer b, held by jobs of earlier slots, goes to slot t (R239): those jobs end. (log 72: DEDUCED) -/
def State.rxOverrun (s : State) (c b : Nat) (t : Int) : State :=
  let held := s.jobList.filter fun r => (r.2.cls == 0 || r.2.cls == 3) && r.2.air.cell == c && s.rxBuf c r.2.air.slot == b
    && decide (r.2.air.slot < t)
  if held.isEmpty then s
  else
    let s := forEach held (fun r s =>
      if r.2.phase = .draining then s
      else if r.2.phase = .running then s.failJob r.1 fcRxGridOverrun
      else s.failJob r.1 fcRxStale) s
    (s.setFld FHE_CRX_STAT.OVERRUN 1 c).event evFheOverrun (s.fld FHE_CRX_PTN.PTN c) c [w32 0, w32 b]

/-- Bytes of the summary of buffer b after a write of `bs` that was performed, or was lost. -/
def State.summaryLeft (s : State) (c b : Nat) (ok : Bool) (bs : List Byte) : List Byte :=
  if ok then bs else (s.fhe.sums.find? (c * 8 + b)).elim (List.replicate 64 0#8) RxSum.bytes

/-- Insert a slot in ascending order. -/
def insertSlot (x : RxSlot) : List RxSlot → List RxSlot
  | [] => [x]
  | y :: ys => if x.slot < y.slot then x :: y :: ys else y :: insertSlot x ys

/-- Buffer b is assigned to its next slot when the window of symbol 0 opens. (log 72: DEDUCED) -/
def State.rxAssign (s : State) (c b : Nat) : State :=
  match s.rxCell? c with
  | none => s
  | some x =>
    match x.next.find? b with
    | none => s
    | some t =>
      if ¬s.rxOn c ∨ (s.now : Int) < s.rxOpenAt c t 0 then s
      else
        let l := (s.cellGrid c).symsPerSlot
        let nb := nbufOf (s.fld FHE_CRX_CFG.NBUF c)
        let mine := fun (y : RxSlot) => decide (y.slot % (nb : Int) = b)
        let slots := (x.slots.filter fun y => !(mine y && y.closed == l)).map fun y => if mine y then { y with mine := false } else y
        let s := s.putRxCell c { x with next := x.next.put b (t + nb), slots := insertSlot { slot := t } slots }
        let s := s.rxOverrun c b t
        let s := s.zeroSem (s.fld FHE_CRX_SEM.CLUSTER c) (s.fld FHE_CRX_SEM.FIRST c + b)
        let (ok, s) := s.rxPut c (s.rxBase c b + s.summaryOff c) (List.replicate 64 0#8)
        let s := s.putRxSum c b { slot := t, bytes := s.summaryLeft c b ok (List.replicate 64 0#8) }
        (s.refresh).syncRx c

/-! ## Reception (R230-R234) -/

/-- Counts of a slot's summary, while it has symbols open, and of the cell. -/
def State.rxCount (s : State) (c : Nat) (slot : Int) (late early dup gap : Nat) : State :=
  let l := (s.cellGrid c).symsPerSlot
  let s := s.modRxSlot c slot fun b =>
    if b.closed = l then b
    else { b with late := b.late + late, early := b.early + early, dup := b.dup + dup, gap := b.gap + gap }
  let s := (s.incSat FHE_CRX_CNT0.LATE late c).incSat FHE_CRX_CNT0.EARLY early c
  (s.incSat FHE_CRX_CNT1.DUP dup c).incSat FHE_CRX_CNT1.SEQ_GAP gap c

/-- The frame of a frameId whose position lies nearest a time (R231). (log 75: DEDUCED) -/
def CellGrid.nearFrame (g : CellGrid) (ts : Int) (id slot sym : Nat) : Int :=
  let f0 := g.frameAt ts
  let base := f0 - (f0 - id) % 256
  let d := fun (f : Int) => (g.pos3 f slot sym 0 - 3 * ts).natAbs
  if d (base + 256) < d base then base + 256 else if d (base - 256) ≤ d base then base - 256 else base

/-- The slot and symbol that a U-plane header names, if it names one. (log 75: DEDUCED) -/
def State.uPlace (s : State) (c : Nat) (ts : Int) (h : UHead) : Option Int :=
  let g := s.cellGrid c
  let k := h.sub * 2 ^ g.mu + h.slot
  if 2 ^ g.mu ≤ h.slot ∨ g.symsPerSlot ≤ h.sym then none else some (g.join (g.nearFrame ts h.frame k h.sym) k)

/-- Sequence numbers of an eAxC follow each other; 1 where an accepted message breaks the order (R234). -/
def State.trackSeq (s : State) (pcid seq : Nat) : Nat × State :=
  let gap := match s.fhe.rxSeq.find? pcid with
    | some q => b2n (decide (seq ≠ (q + 1) % 256))
    | none => 0
  (gap, { s with fhe := { s.fhe with rxSeq := s.fhe.rxSeq.put pcid seq } })

/-- Key of a PRB of a slot. -/
def prbKey (l a n : Nat) : Nat := (l * 32 + a) * 512 + n

/-- One PRB of a section is kept, unless the symbol and stream has it. -/
def State.keepPrb (s : State) (c : Nat) (slot : Int) (l a n : Nat) (bfp : Bool) (w : Nat) (bs : List Byte) : State :=
  match s.rxSlot? c slot with
  | none => s
  | some b =>
    if (b.prbs.find? (prbKey l a n)).isSome then s.rxCount c slot 0 0 1 0
    else
      let (d, sat) := unpackPrb bfp w bs
      let key := l * 32 + a
      let s := s.modRxSlot c slot fun b =>
        { b with prbs := b.prbs.put (prbKey l a n) d, sat := b.sat + sat,
                 sats := b.sats.set (fun _ => 0) key (b.sats.get (fun _ => 0) key + sat) }
      s.incSat FHE_CRX_CNT3.DECOMP_SAT sat c

/-- The sections of an accepted message (R233, R234). (log 74: DEDUCED) -/
def State.rxSections (s : State) (c a : Nat) (slot : Int) (sym : Nat) (body : List Byte) : State :=
  let nprb := s.fld FHE_CRX_CFG.NPRB c
  let (ss, bad) := uSections (s.flag FHE_CRX_CFG.UDHDR c) (s.flag FHE_CRX_CFG.METH c) (s.fld FHE_CRX_CFG.IQW c) nprb
    body.length (body.drop 4)
  let s := s.incSat FHE_RX_DROP1.BAD_SECTION bad
  forEach ss (fun u s =>
    let (p0, n) := if u.num = 0 then (0, nprb) else (u.prb0, u.num)
    if u.odd ∨ nprb < p0 + n then s.incSat FHE_RX_DROP1.BAD_SECTION 1
    else
      let k := prbLen u.bfp u.width
      forEach (List.range n) (fun i s =>
        s.keepPrb c slot sym a (p0 + i) u.bfp u.width ((u.data.drop (k * i)).take k)) s) s

/-- Bytes that the fronthaul buffers hold. -/
def State.fhHeld (s : State) : Nat :=
  (s.fhe.rx.rows.flatMap fun c => c.2.slots.flatMap fun b => b.held.rows.map (·.2)).foldl (· + ·) 0

/-- Bytes of the fronthaul buffers (R230). -/
def fhBufSize : Nat := 6 * 2 ^ 20

/-- A message for a slot buffer: its window, then its sections (R232). (log 74: DEDUCED) -/
def State.rxMessage (s : State) (c a : Nat) (ts : Int) (h : UHead) (m : EMsg) (size : Nat) : State :=
  match s.uPlace c ts h with
  | none => s
  | some slot =>
    if ts < s.rxOpenAt c slot h.sym then s.rxCount c slot 0 1 0 0
    else if s.rxCloseAt c slot h.sym ≤ ts then s.rxCount c slot 1 0 0 0
    else
      let s := if (s.rxSlot? c slot).isNone then s.rxAssign c (s.rxBuf c slot) else s
      match s.rxSlot? c slot with
      | none => s
      | some b =>
        if h.sym < b.closed then s.rxCount c slot 1 0 0 0
        else
          let (gap, s) := s.trackSeq m.pcid m.seq
          let s := s.rxCount c slot 0 0 0 gap
          let s := s.modRxSlot c slot fun b =>
            { b with held := b.held.set (fun _ => 0) h.sym (b.held.get (fun _ => 0) h.sym + size) }
          s.rxSections c a slot h.sym m.body

/-! ## Symbol close (R236-R238) -/

/-- Sum of re² + im² over the samples of grid bytes. -/
def energy (bs : List Byte) : Nat := (prbSamples bs).foldl (fun e x => e + (x * x).toNat) 0

/-- Capped to `w` bits. -/
def capTo (w v : Nat) : Nat := min v (2 ^ w - 1)

/-- PRBs that a section sent covered for the symbol and stream. -/
def RxCell.covered (x : RxCell) (slot : Int) (l a n : Nat) : Bool :=
  x.cover.any fun v => v.slot == slot && v.stream == a && decide (v.sym0 ≤ l) && decide (l < v.sym0 + v.syms)
    && decide (v.prb0 ≤ n) && decide (n < v.prb0 + v.prbs)

/-- Write symbol l of stream a, and its measurement record. (log 76: DEDUCED) -/
def State.closeStream (s : State) (c : Nat) (slot : Int) (l a : Nat) : State :=
  match s.rxCell? c, s.rxSlot? c slot with
  | some x, some b =>
    let nprb := s.fld FHE_CRX_CFG.NPRB c
    let streams := s.fld FHE_CRX_CFG.S c
    let base := s.rxBase c (s.rxBuf c slot)
    let ds := (List.range nprb).map fun n => b.prbs.find? (prbKey l a n)
    let bytes := ds.flatMap fun d => d.getD (List.replicate 48 0#8)
    let got := (ds.filter Option.isSome).length
    let miss := ((List.range nprb).filter fun n => (b.prbs.find? (prbKey l a n)).isNone && x.covered slot l a n).length
    let (ok, s) := s.rxPut c (base + gridOff streams nprb l a 0) bytes
    let rssi := if ok then (ds.map fun d => energy (d.getD [])).foldl (· + ·) 0 else 0
    let r := bytesOf 6 rssi ++ bytesOf 2 got ++ bytesOf 2 miss ++ bytesOf 2 (capTo 16 (b.sats.get (fun _ => 0) (l * 32 + a)))
      ++ List.replicate 4 0#8
    let (ok2, s) := s.rxPut c (base + gridSize (s.cellGrid c).symsPerSlot streams nprb + 16 * (l * streams + a)) r
    let s := s.modRxSlot c slot fun b => { b with missing := b.missing + miss, fault := b.fault + b2n (!(ok && ok2)) }
    let s := s.incSat FHE_CRX_CNT2.PRB_MISSING miss c
    if ok ∧ ok2 then s else s.event evFheWrFault (s.fld FHE_CRX_PTN.PTN c) c [w32 l, w32 a]
  | _, _ => s

/-- The slot summary (R236). (log 76: DEDUCED) -/
def State.summary (s : State) (c : Nat) (b : RxSlot) : List Byte :=
  let (f, k) := (s.cellGrid c).split b.slot
  bytesOf 2 (sfnOf f) ++ bytesOf 1 k ++ bytesOf 1 b.closed ++ bytesOf 4 (capTo 32 b.missing) ++ bytesOf 2 (capTo 16 b.late)
    ++ bytesOf 2 (capTo 16 b.early) ++ bytesOf 2 (capTo 16 b.dup) ++ bytesOf 2 (capTo 16 b.gap) ++ bytesOf 4 (capTo 32 b.sat)
    ++ bytesOf 4 (capTo 32 b.fault) ++ bytesOf 4 b.closeTs ++ List.replicate 36 0#8

/-- The last symbol of a slot has closed: its summary is written. -/
def State.closeSlot (s : State) (c : Nat) (x : RxSlot) : State :=
  let b := s.rxBuf c x.slot
  let (ok, s) := s.rxPut c (s.rxBase c b + s.summaryOff c) (s.summary c x)
  if x.mine then s.putRxSum c b { slot := x.slot, closed := true, bytes := s.summaryLeft c b ok (s.summary c x) } else s

/-- The window of the next symbol of a cell closes: the symbol is completed, and its buffer's semaphore gains 1.
(log 76: DEDUCED) -/
def State.symbolClose (s : State) (c : Nat) : State :=
  let l := (s.cellGrid c).symsPerSlot
  match s.rxCell? c with
  | none => s
  | some x =>
    match x.slots.find? fun b => decide (b.closed < l) with
    | none => s
    | some b =>
      let sym := b.closed
      if ¬s.rxOn c ∨ (s.now : Int) < s.rxCloseAt c b.slot sym then s
      else
        let s := forEach (List.range (s.fld FHE_CRX_CFG.S c)) (fun a s => s.closeStream c b.slot sym a) s
        let s := s.modRxSlot c b.slot fun b =>
          { b with closed := sym + 1, closeTs := stamp32 s.now, held := b.held.del sym,
                   prbs := b.prbs.keep fun k => decide ((sym + 1) * 32 * 512 ≤ k) }
        let s := match s.rxSlot? c b.slot with
          | some b => if sym + 1 = l then s.closeSlot c b else s
          | none => s
        let (f, k) := (s.cellGrid c).split b.slot
        let s := ((s.setFld FHE_CRX_STAT.SFN (sfnOf f) c).setFld FHE_CRX_STAT.SLOT k c).setFld FHE_CRX_STAT.SYMBOL sym c
        let s := match s.rxCell? c with
          | some x =>
            s.putRxCell c { x with slots := x.slots.filter (fun y => y.mine || decide (y.closed < l)),
                                   cover := if sym + 1 = l then x.cover.filter (fun v => decide (b.slot < v.slot)) else x.cover }
          | none => s
        (s.syncRx c).signal (s.fld FHE_CRX_SEM.CLUSTER c) (s.fld FHE_CRX_SEM.FIRST c + s.rxBuf c b.slot) 1

/-! ## Receive jobs (R240-R245, R254) -/

/-- The slot of a header position, resolved at submission. -/
def State.airSlot (s : State) (c pos at' : Nat) : Int :=
  let g := s.cellGrid c
  g.join (g.resolveFrame at' (bits pos 31 22) (bits pos 21 15) 0 0) (bits pos 21 15)

/-- Bits set among the low `n` of a number. -/
def popcount (n x : Nat) : Nat := (bitsSet n x).length

/-- A semaphore entry whose reserved bits are zero and whose COUNT is not zero where it is valid (R78). -/
def semOk (e : Nat) : Bool := bits e 30 28 == 0 && bits e 15 12 == 0 && (!semV e || semCount e != 0)

/-- Every byte from `a` up to `b` is zero. -/
def zeroIn (e : List Byte) (a b : Nat) : Bool := ((e.take b).drop a).all (· == 0#8)

/-- A PUSCH entry in range (R242). -/
def puschOk (nprb l : Nat) (e : List Byte) : Bool :=
  let f := field e
  let layers := f 7 1
  let tp := bit (f 9 1) 7
  let hop := bit (f 14 1) 1
  let ptrs := bit (f 14 1) 2
  decide (f 2 2 < 512) && decide (f 4 2 < 512) && decide (1 ≤ f 4 2) && decide (f 4 2 ≤ 275) && decide (f 2 2 + f 4 2 ≤ nprb)
    && decide (1 ≤ f 6 1 / 16) && decide (f 6 1 / 16 ≤ 14) && decide (f 6 1 % 16 + f 6 1 / 16 ≤ l)
    && decide (1 ≤ layers) && decide (layers ≤ 4)
    && ((f 8 1 == 1 && tp) || f 8 1 == 2 || f 8 1 == 4 || f 8 1 == 6 || f 8 1 == 8) && bits (f 9 1) 5 4 != 0
    && decide (f 10 2 < 4096) && popcount 12 (f 10 2) == layers && decide (f 14 1 < 8) && decide (f 15 1 < 16)
    && decide (f 16 2 ≤ 1023) && decide (f 18 2 < 512) && (hop || f 18 2 == 0)
    && decide (f 20 4 ≤ 16777216) && decide (f 36 2 ≤ 1706) && decide (f 38 2 ≤ 1706) && decide (f 40 2 ≤ 1706)
    && (f 36 2 != 0 || f 24 4 == 0) && (f 38 2 != 0 || f 28 4 == 0) && (f 40 2 != 0 || f 32 4 == 0)
    && f 42 2 == 0 && semOk (f 48 4) && decide (f 52 4 < 64) && (ptrs || f 52 4 == 0) && zeroIn e 56 64

/-- A PUCCH entry in range (R243). -/
def pucchOk (e : List Byte) : Bool :=
  let f := field e
  let fmt := f 0 1 % 8
  let n := f 1 1 / 16
  let short := fmt == 0 || fmt == 2
  let uci := bits (f 10 2) 10 0
  let hop := bit (f 0 1) 3
  decide (f 0 1 < 32) && decide (fmt ≤ 4) && (!bit (f 0 1) 4 || fmt == 3 || fmt == 4)
    && (if short then decide (1 ≤ n) && decide (n ≤ 2) else decide (4 ≤ n) && decide (n ≤ 14))
    && decide (f 2 2 < 512)
    && (if fmt = 2 ∨ fmt = 3 then decide (1 ≤ f 4 1) && decide (f 4 1 ≤ 16) else f 4 1 == 1)
    && decide (f 5 1 % 16 ≤ 11) && decide (f 5 1 / 16 ≤ 6) && decide (f 6 2 < 512) && (hop || f 6 2 == 0)
    && decide (f 8 2 ≤ 1023) && bits (f 10 2) 14 11 == 0
    && (if fmt ≤ 1 then decide (1 ≤ uci) && decide (uci ≤ 2) else decide (1 ≤ uci) && decide (uci ≤ 1706))
    && (f 12 4 == 0 || (decide (2 ≤ fmt) && decide (12 ≤ uci))) && semOk (f 20 4) && zeroIn e 26 32

/-- Sizes of a unit's blocks, in order (R244). -/
def puschSizes (e : List Byte) : List Nat :=
  let part := fun (bits' g : Nat) => if 12 ≤ field e bits' 2 then [field e g 4] else []
  (if field e 20 4 = 0 then [] else [field e 20 4]) ++ part 36 24 ++ part 38 28 ++ part 40 32 ++ [32]
def pucchSizes (e : List Byte) : List Nat := (if field e 12 4 = 0 then [] else [field e 12 4]) ++ [16]

/-- A unit before its entries are checked: number, first entry, block sizes, semaphore entry. -/
structure UnitSpec where
  u : Nat
  first : Nat
  sizes : List Nat
  sem : Nat
deriving DecidableEq, Repr

/-- No two of the ranges share an entry. -/
def apart : List UnitSpec → Bool
  | [] => true
  | u :: us => (us.all fun v => decide (u.first + u.sizes.length ≤ v.first) || decide (v.first + v.sizes.length ≤ u.first)) && apart us

/-- The header of an RX_SLOT parameter block in range (R241). -/
def rxHeadOk (g : CellGrid) (ps : List Byte) : Bool :=
  let f := field ps
  let np := f 12 2
  let nc := f 14 2
  decide (64 ≤ ps.length) && f 0 2 == 1 && decide (f 2 1 < 96) && f 3 1 == 0 && bits (f 4 4) 14 0 == 0
    && decide (bits (f 4 4) 21 15 < g.slotsPerFrame) && decide (1000 ≤ f 8 4) && decide (f 8 4 ≤ 10000000)
    && decide (np ≤ 128) && decide (nc ≤ 256) && decide (1 ≤ np + nc) && f 16 4 % 64 == 0 && decide (f 16 4 ≤ 0x7FFC0)
    && decide (f 20 1 ≤ 4) && zeroIn ps 21 64 && ps.length == 64 + 64 * np + 32 * nc

/-- The units of an RX_SLOT job: none where an entry is out of range. -/
def rxUnits (nprb l : Nat) (ps : List Byte) : Option (List UnitSpec) :=
  let np := field ps 12 2
  let pu := (List.range np).map fun i => (ps.drop (64 + 64 * i)).take 64
  let pc := (List.range (field ps 14 2)).map fun j => (ps.drop (64 + 64 * np + 32 * j)).take 32
  if (pu.all (puschOk nprb l)) && (pc.all pucchOk) then
    some ((((List.range pu.length).zip pu).map fun r => ⟨r.1, field r.2 44 4, puschSizes r.2, field r.2 48 4⟩)
      ++ (((List.range pc.length).zip pc).map fun r => ⟨128 + r.1, field r.2 16 4, pucchSizes r.2, field r.2 20 4⟩))
  else none

/-- An SRS entry in range (R254). -/
def srsOk (e : List Byte) : Bool :=
  let f := field e
  let n := f 2 1 / 16
  decide (f 0 1 ≤ 2) && decide (f 1 1 < 64) && decide (f 1 1 % 4 ≤ 2) && bits (f 1 1) 2 2 == 0
    && [1, 2, 4, 8, 10, 12, 14].contains n && [1, 2, 4, 5, 6, 7, 8, 10, 12, 14].contains (f 3 1)
    && decide (f 3 1 ≤ n) && decide (f 4 1 ≤ 63) && decide (f 5 1 ≤ 3) && decide (f 6 2 ≤ 268) && decide (f 8 1 ≤ 67)
    && decide (f 9 1 ≤ 11) && decide (f 10 2 ≤ 1023) && decide (f 12 1 < 12) && decide (f 13 1 ≤ 2) && zeroIn e 14 16
    && semOk (f 20 4) && zeroIn e 26 32

/-- Sizes of an SRS resource's two blocks. -/
def srsSizes (streams : Nat) (e : List Byte) : List Nat :=
  let w := Config.srsBandwidth (field e 4 1) (field e 5 1)
  let gran := 2 ^ field e 13 1
  [2 ^ field e 0 1 * streams * ((w + gran - 1) / gran) * 4, 16]

def srsUnits (streams : Nat) (ps : List Byte) : Option (List UnitSpec) :=
  let es := (List.range (field ps 8 2)).map fun r => (ps.drop (32 + 32 * r)).take 32
  if es.all srsOk then
    some (((List.range es.length).zip es).map fun r => ⟨r.1, field r.2 16 4, srsSizes streams r.2, field r.2 20 4⟩)
  else none

def srsHeadOk (g : CellGrid) (ps : List Byte) : Bool :=
  let f := field ps
  decide (32 ≤ ps.length) && f 0 2 == 1 && decide (f 2 1 < 96) && f 3 1 == 0 && bits (f 4 4) 14 0 == 0
    && decide (bits (f 4 4) 21 15 < g.slotsPerFrame) && decide (1 ≤ f 8 2) && decide (f 8 2 ≤ 64) && zeroIn ps 10 32
    && ps.length == 32 + 32 * f 8 2

/-- The checks of RX_SLOT and SRS_PROC jobs at fetch, in ascending order of their codes. -/
def State.rxCheck (s : State) (x : Job) : Check × State :=
  let ps := x.params
  let c := field ps 2 1
  let g := s.cellGrid c
  let srs := x.cls == 3
  let units := if srs then (if srsHeadOk g ps then srsUnits (s.fld FHE_CRX_CFG.S c) ps else none)
    else if rxHeadOk g ps then rxUnits (s.fld FHE_CRX_CFG.NPRB c) g.symsPerSlot ps else none
  match units with
  | none => (.reject fcRxBadParam, s)
  | some us =>
    if x.deadline = none then (.reject fcRxNoDeadline, s)
    else if (us.any fun u => decide (x.outCount < u.first + u.sizes.length)) ∨ ¬apart us then (.reject fcRxBadRange, s)
    else
      let want := us.flatMap fun u =>
        ((List.range u.sizes.length).zip u.sizes).map fun r => (x.outList + 32 * (u.first + r.1), r.2)
      match s.linearEntries x.ptn want with
      | (.error e, s) => (.fault e.1 e.2, s)
      | (.ok none, s) => (.reject fcRxBadRange, s)
      | (.ok (some _), s) =>
        if ¬s.flag FHE_CRX_CFG.EN c ∨ s.fld FHE_CRX_PTN.PTN c ≠ x.ptn then (.reject fcRxCellInput, s)
        else
          let slot := s.airSlot c (field ps 4 4) x.submit
          let stale := match s.rxCell? c with
            | some y => y.slots.any fun b => b.mine && s.rxBuf c b.slot == s.rxBuf c slot && decide (slot < b.slot)
            | none => false
          if stale then (.reject fcRxStale, s)
          else
            let air : AirJob := { cell := c, slot := slot, lead := if srs then 0 else field ps 8 4,
                                  mask := if srs then 0 else field ps 16 4,
                                  units := us.map fun u => { u := u.u, first := u.first, n := u.sizes.length, sem := u.sem } }
            (.ok { x with air := air }, s)

/-- Units whose semaphore entry the job's partition does not own (R78). -/
def State.unitsDenied (s : State) (x : Job) : Bool :=
  x.air.units.any fun u => semV u.sem && !s.ownsSem x.ptn (semClu u.sem) (semIx u.sem)

/-! ## Record areas (R252, R254) -/

/-- The slot summary of a job's buffer as it stands: zero before the buffer is its slot's, and once it has gone on.
(log 76: DEDUCED) -/
def State.summaryOf (s : State) (x : Job) : List Byte :=
  (s.rxSum? x.air.cell x.air.slot).elim (List.replicate 64 0#8) RxSum.bytes

def State.rxAreaOf (s : State) (x : Job) : List Byte :=
  let us := x.air.units
  let cnt := fun (h : Option Bool) => (us.filter fun u => u.how == h).length
  let sm := s.summaryOf x
  if x.cls = 3 then
    bytesOf 2 (us.filter fun u => u.how.isSome).length ++ bytesOf 2 (cnt none) ++ List.replicate 8 0#8 ++ (sm.drop 4).take 4
      ++ List.replicate 16 0#8
  else
    bytesOf 2 (cnt (some false)) ++ bytesOf 2 (cnt (some true)) ++ bytesOf 2 (cnt none) ++ bytesOf 1 x.air.path
      ++ bytesOf 1 (s.rxBuf x.air.cell x.air.slot) ++ bytesOf 4 (match x.air.fbTs with
        | some t => stamp32 t
        | none => 0)
      ++ (sm.drop 4).take 16 ++ List.replicate 4 0#8

/-! ## Fallback (R248-R250) -/

/-- The units of a job that are not complete, as a mask. -/
def Job.pendMask (x : Job) : Nat := (x.air.units.filter fun u => u.how.isNone).foldl (fun m u => m ||| 2 ^ u.u) 0

/-- The watermark passes: units are judged, and learned tasks stop where one is pending. -/
def State.judge (s : State) (j : Nat) : State :=
  match s.job? j with
  | none => s
  | some x =>
    if x.cls ≠ 0 ∨ x.phase ≠ .running ∨ x.air.judged ∨ (s.now : Int) < s.watermark x then s
    else
      let m := x.pendMask
      let due := m != 0 || x.air.fbDue
      let s := s.putJob j { x with air := { x.air with judged := true, pend := m, fbDue := due,
                                                       path := if m ≠ 0 ∧ ¬x.air.fbDue then x.air.path ||| 1 else x.air.path } }
      if due then s.stopTasks j (s.tiles.rows.map fun r => r.1) else s

/-- The delivery record and the digests of pending units' blocks are cleared (R249, R251). -/
def State.forgetUnits (s : State) (j : Nat) (x : Job) : State :=
  let gone := fun (e : Nat) => x.air.units.any fun u => u.how.isNone && decide (u.first ≤ e) && decide (e < u.first + u.n)
  let s := s.modJob j fun x => { x with air := { x.air with units := x.air.units.map fun u => if u.how.isNone then { u with got := [] } else u } }
  match s.dgt.jobs.find? j with
  | none => s
  | some d =>
    let d := { d with leaves := d.leaves.keep fun k => !(k / 2 ^ 32 == 1 && gone (k % 2 ^ 32)),
                      chunks := d.chunks.keep fun k => !gone (k / 2 ^ 32) }
    { s with dgt := { s.dgt with jobs := s.dgt.jobs.put j d } }

/-- The tiles that a job's fallback runs on: those of the job that are neither DRAINING nor OFFLINE. (log 77: DEDUCED) -/
def State.fbTiles (s : State) (x : Job) : List Nat :=
  x.air.tiles.filter fun t => s.fld SYS_TMAP.STATE t != 2 && s.fld SYS_TMAP.STATE t != 3

/-- JOB starts the fallback (R249, R250): after a fault not before the slot's last symbol has closed. (log 77: DEDUCED) -/
def State.fallbackStart (s : State) (j : Nat) : State :=
  match s.job? j with
  | none => s
  | some x =>
    let wait := !x.air.judged && s.rxRuns x.air.cell x.air.slot && decide ((s.now : Int) < s.rxClose x)
    if x.phase ≠ .running ∨ ¬x.air.fbDue ∨ x.air.fbTs.isSome ∨ wait then s
    else
      let ts := s.fbTiles x
      if ts.isEmpty then s.failJob j fcTileOffline
      else
        let s := s.forgetUnits j x
        let s := s.modJob j fun x =>
          { x with air := { x.air with judged := true, fbDue := false, fbTs := some s.now, pend := x.pendMask },
                   nTasks := ts.length, tasksLeft := x.tasksLeft + ts.length, rflags := setFlagBit x.rflags rfFallback }
        forEach ((List.range ts.length).zip ts) (fun r s =>
          s.modTile r.2 fun y =>
            { y with queue := insertHead { task := { job := j, index := r.1, fallback := true, migratable := x.migr }, slot := none, head := true } y.queue }) s

/-! ## Enabling (R256) -/

/-- (log 73: DEDUCED) -/
def State.crxValid (s : State) (n : Nat) : Bool :=
  let nb := s.fld FHE_CRX_CFG.NBUF n
  decide (nb ≠ 0) && compOk (s.flag FHE_CRX_CFG.METH n) (s.fld FHE_CRX_CFG.IQW n) && decide (1 ≤ s.fld FHE_CRX_CFG.S n)
    && decide (s.fld FHE_CRX_CFG.S n ≤ 32) && decide (1 ≤ s.fld FHE_CRX_CFG.NPRB n) && decide (s.fld FHE_CRX_CFG.NPRB n ≤ 275)
    && decide (s.fld FHE_CRX_WIN.TA4_MIN n < s.fld FHE_CRX_WIN.TA4_MAX n) && s.flag FHE_CRX_SEM.V n
    && s.ownsRange (s.fld FHE_CRX_PTN.PTN n) (s.fld FHE_CRX_SEM.CLUSTER n) (s.fld FHE_CRX_SEM.FIRST n) (nbufOf nb)

/-- Each buffer's first slot is the first of its index whose window has not opened. (log 73: DEDUCED; log 168: DEDUCED) -/
def State.rxBegin (s : State) (n : Nat) : State :=
  let nb := nbufOf (s.fld FHE_CRX_CFG.NBUF n)
  let nexts := (List.range nb).map fun b =>
    (b, (s.cellGrid n).nextSlot (s.now : Int) (s.fld FHE_CRX_WIN.TA4_MIN n : Nat) b nb)
  s.putRxCell n { next := ⟨nexts⟩ }

/-- Ingress of cell n is disabled or enabled by another register than its own: its open slots are left, or it begins anew.
(log 168: DEDUCED) -/
def State.rxSwitched (s : State) (n : Nat) (was : Bool) : State :=
  if was ∧ ¬s.rxOn n then { s with fhe := { s.fhe with rx := s.fhe.rx.del n } }.syncRx n
  else if ¬was ∧ s.rxOn n then (s.rxBegin n).syncRx n
  else s

/-- Set EN. -/
def State.crxEnable (s : State) (n : Nat) : State :=
  if ¬s.crxValid n then s else (s.rxBegin n).setFld FHE_CRX_CFG.EN 1 n

end Sys2Proof.Machine
end

