-- ==== Sys2Proof/Machine/Prach.lean ====
section
/-! DEFINITION. The PRACH searchers (chapter 11): formats and occasions (R257, R259), placement (R258, R273), reception (R260,
R261), the candidate block (R262-R268), and the PRACH_OCC job (R269-R271). The receive path of a fronthaul frame, which
feeds slot buffers and searchers, ends the file. -/
namespace Sys2Proof.Machine

/-! ## Formats (R257) -/

def praLong (fmt : Nat) : Bool := decide (fmt ≤ 3)
/-- (log 80: PRESUMED) -/
def praL (fmt : Nat) : Nat := if praLong fmt then 839 else 139
/-- (log 80: PRESUMED) -/
def praN (fmt : Nat) : Nat := if praLong fmt then 1024 else 256
/-- (log 80: PRESUMED) -/
def praRep (fmt : Nat) : Nat := [1, 2, 4, 4, 2, 4, 6, 2, 4, 6, 12, 1, 4].getD fmt 1
def praSym (fmt : Nat) : Nat := [0, 0, 0, 0, 2, 4, 6, 2, 4, 6, 12, 2, 6].getD fmt 0
/-- Tc per PDP bin. (log 80: PRESUMED) -/
def praTcb (fmt mu : Nat) : Nat := if fmt ≤ 2 then 1536 else if fmt = 3 then 384 else 512 / 2 ^ mu
/-- N_CP^RA + N_u of a long format, in units of 64 Tc (TS 38.211, clause 6.3.3.1). -/
def praSpan (fmt : Nat) : Nat := [3168 + 24576, 21024 + 2 * 24576, 4688 + 4 * 24576, 3168 + 4 * 6144].getD fmt 0
/-- PRBs that a section of the format carries. -/
def praPrbs (fmt : Nat) : Nat := if praLong fmt then 70 else 12

/-! ## A configuration's settings -/

def State.praCell (s : State) (c : Nat) : Nat := s.fld PRA_CFG_CFG.CELL c
def State.praFmt (s : State) (c : Nat) : Nat := s.fld PRA_CFG_CFG.FMT c
def State.praPtn (s : State) (c : Nat) : Nat := s.fld FHE_CRX_PTN.PTN (s.praCell c)
def State.praPeriod (s : State) (c : Nat) : Nat := 2 ^ s.fld PRA_CFG_PAT.PERIOD c

/-- Preambles per root, and roots used (R263). -/
def State.praPr (s : State) (c : Nat) : Nat :=
  let n := s.fld PRA_CFG_CFG.NCS c
  if n = 0 then 1 else praL (s.praFmt c) / n
def State.praRoots (s : State) (c : Nat) : Nat := (64 + s.praPr c - 1) / s.praPr c

/-- Marked reference slots, ascending: subframes, or 60 kHz slots at µ 2 and 3. -/
def State.praRefs (s : State) (c : Nat) : List Nat :=
  let g := s.cellGrid (s.praCell c)
  bitsSet (if g.mu ≤ 1 then 10 else 40) (s.fld PRA_CFG_MASK.MASK c + 2 ^ 32 * s.fld PRA_CFG_PAT.MASK_HI c)

/-- Cell slot of a reference slot in which its occasions lie. -/
def State.praSlot (s : State) (c ref : Nat) : Nat :=
  let g := s.cellGrid (s.praCell c)
  let per := if g.mu ≤ 1 then 2 ^ g.mu else 2 ^ (g.mu - 2)
  ref * per + if s.flag PRA_CFG_PAT.SECOND c && !praLong (s.praFmt c) then per - 1 else 0

/-- Occasions of a frame, in order; none in a frame that the period leaves out. -/
def State.praFrame (s : State) (c : Nat) (frame : Int) : List Occasion :=
  if frame % (s.praPeriod c : Int) = (s.fld PRA_CFG_PAT.Y c : Nat) then
    (s.praRefs c).flatMap fun r => (List.range (s.fld PRA_CFG_PAT.N_TD c)).map fun td =>
      ⟨(s.cellGrid (s.praCell c)).join frame (s.praSlot c r), td⟩
  else []

/-- First symbol of an occasion's slot. -/
def State.praSym0 (s : State) (c : Nat) (o : Occasion) : Nat :=
  if praLong (s.praFmt c) then 0 else s.fld PRA_CFG_PAT.START_SYM c + o.td * praSym (s.praFmt c)

/-- When an occasion's window opens and closes (R259, R261). -/
def State.praOpenAt (s : State) (c : Nat) (o : Occasion) : Int :=
  s.rxOpenAt (s.praCell c) o.slot (s.praSym0 c o)
def State.praCloseAt (s : State) (c : Nat) (o : Occasion) : Int :=
  let cell := s.praCell c
  let g := s.cellGrid cell
  let (f, k) := g.split o.slot
  let fmt := s.praFmt c
  if praLong fmt then
    ceil3 (g.pos3 f k 0 (100 * (s.fld FHE_CRX_WIN.TA4_MAX cell : Nat)) + ((praSpan fmt * 64 * 3125 * 2 ^ 21 : Nat) : Int))
  else s.rxCloseAt cell o.slot (s.praSym0 c o + praSym fmt)

/-- Occasion order. -/
def Occasion.before (a b : Occasion) : Bool := decide (a.slot < b.slot) || (a.slot == b.slot && decide (a.td < b.td))

/-- The first occasion from `frame` on that satisfies `p`; `fuel` bounds the frames. -/
def State.praFind (s : State) (c : Nat) (p : Occasion → Bool) (frame : Int) : Nat → Option Occasion
  | 0 => none
  | k + 1 =>
    match (s.praFrame c frame).find? p with
    | some o => some o
    | none => s.praFind c p (frame + 1) k

/-- The occasion that follows. (log 78: DEDUCED) -/
def State.praNext (s : State) (c : Nat) (o : Occasion) : Option Occasion :=
  s.praFind c (fun q => o.before q) ((s.cellGrid (s.praCell c)).split o.slot).1 18

/-! ## Placement (R258, R273) -/

/-- Most load of a searcher, times 16. -/
def praCap : Nat := 32000000 * 16

/-- 16 times a configuration's load per second. -/
def State.praLoadOf (s : State) (c : Nat) : Nat :=
  let fmt := s.praFmt c
  popcount 32 (s.fld PRA_CFG_STRM.STRM c) * praRep fmt * (s.praRoots c * if praLong fmt then 4 else 1)
    * ((s.praRefs c).length * s.fld PRA_CFG_PAT.N_TD c * 100 * 16 / s.praPeriod c)

/-- Load committed to a searcher, times 16. -/
def State.praCommitted (s : State) (u : Nat) : Nat :=
  ((s.pra.rows.filter fun r => r.2.srch == some u).map fun r => r.2.load).foldl (· + ·) 0

/-- The searcher that takes a load: the least loaded that can, the lowest index on ties. -/
def State.praPlace (s : State) (load : Nat) : Option Nat :=
  minBy (fun u => s.praCommitted u)
    ((List.range 4).filter fun u => !s.flag PRA_LOAD.RETIRED u && decide (s.praCommitted u + load ≤ praCap))

/-- PRA_LOADs and the STAT of configuration c follow the placement. -/
def State.syncPra (s : State) (c : Nat) : State :=
  let s := forEach (List.range 4) (fun u s => s.setFld PRA_LOAD.LOAD (s.praCommitted u / 16000) u) s
  match s.pra.find? c with
  | none => (s.setFld PRA_CFG_STAT.ACTIVE 0 c).setFld PRA_CFG_STAT.NO_SEARCHER 0 c
  | some x =>
    let s := s.setFld PRA_CFG_STAT.ACTIVE (b2n x.srch.isSome) c
    let s := s.setFld PRA_CFG_STAT.NO_SEARCHER (b2n x.srch.isNone) c
    s.setFld PRA_CFG_STAT.SRCH (x.srch.getD 0) c

def praErrRange : Nat := 1
def praErrLoad : Nat := 2
def praErrOwner : Nat := 3

/-- The settings are in range (R257, R259, R274). -/
def State.praValid (s : State) (c : Nat) : Bool :=
  let fmt := s.praFmt c
  let g := s.cellGrid (s.praCell c)
  let ntd := s.fld PRA_CFG_PAT.N_TD c
  let st := s.fld PRA_CFG_PAT.START_SYM c
  decide (s.praCell c < 96) && decide (1 ≤ s.fld PRA_CFG_CFG.FILTER c) && decide (fmt ≤ 0xC)
    && (!praLong fmt || decide (g.mu ≤ 1)) && decide (s.fld PRA_CFG_CFG.NCS c ≤ if praLong fmt then 419 else 69)
    && decide (s.fld PRA_CFG_PAT.PERIOD c ≤ 4) && decide (s.fld PRA_CFG_PAT.Y c < s.praPeriod c) && decide (st ≤ 13)
    && decide (1 ≤ ntd) && (if praLong fmt then ntd == 1 else decide (st + ntd * praSym fmt ≤ 14))
    && decide (s.fld PRA_CFG_PAT.NBUF c ≠ 0) && decide (s.fld PRA_CFG_ROOT.ROOT0 c + 1 < praL fmt)
    && decide (s.fld PRA_CFG_GATE.MIN_LOG2 c ≤ 47)

/-- Set a configuration's EN: range, owner and load are checked, and it is placed. -/
def State.praEnable (s : State) (c : Nat) : State :=
  let err := fun (e : Nat) => s.setFld PRA_CFG_STAT.ERR e c
  if ¬s.praValid c then err praErrRange
  else if s.flag PRA_CFG_SEM.V c && !s.ownsSem (s.praPtn c) (s.fld PRA_CFG_SEM.CLUSTER c) (s.fld PRA_CFG_SEM.INDEX c) then
    err praErrOwner
  else
    let load := s.praLoadOf c
    match s.praPlace load with
    | none => err praErrLoad
    | some u =>
      let f := (s.cellGrid (s.praCell c)).frameAt s.now
      let first := s.praFind c (fun o => decide ((s.now : Int) < s.praOpenAt c o)) (f - 1) 20
      let s := { s with pra := s.pra.put c { srch := some u, load := load, next := first } }
      (((s.setFld PRA_CFG_STAT.ERR 0 c).setFld PRA_CFG_CFG.EN 1 c).syncPra c).refresh

/-! ## PRACH_OCC jobs (R269-R272) -/

def fcPraBadParam : Nat := 0x0800
def fcPraNoDeadline : Nat := 0x0801
def fcPraBadList : Nat := 0x0802
def fcPraConfigOff : Nat := 0x0803
def fcPraStale : Nat := 0x0804

/-- Jobs that wait on configurations satisfying `f` fail (R270). -/
def State.praOff (s : State) (f : Nat → Bool) : State :=
  forEach (s.jobList.filter fun r => r.2.cls == 2 && f r.2.air.cell && (r.2.phase == .waiting || r.2.phase == .pending))
    (fun r s => s.failJob r.1 fcPraConfigOff) s

/-- Ring entry of an occasion that still lies in the ring. -/
def PraCfg.entryOf (x : PraCfg) (o : Occasion) : Option (Nat × CandEntry) := x.ring.rows.find? fun r => decide (r.2.occ = o)

/-- The job's occasion. -/
def Job.occasion (x : Job) : Occasion := ⟨x.air.slot, x.air.td⟩

/-- The job's block has been written: its header and its searcher go into the record (R271). -/
def Job.seeBlock (x : Job) (e : CandEntry) : Job := { x with classArea := e.head.take 32, praMask := e.srch.elim 0 (2 ^ ·) }

/-- The checks of a PRACH_OCC job at fetch. -/
def State.praCheck (s : State) (x : Job) : Check :=
  let ps := x.params
  let c := field ps 2 1
  let td := field ps 3 1
  let pos := field ps 4 4
  let cell := s.praCell c
  let g := s.cellGrid cell
  let sized := ps.length == 16 && field ps 0 2 == 1 && decide (c < 64) && decide (td < 8) && bits pos 14 0 == 0 && zeroIn ps 8 16
    && decide (bits pos 21 15 < g.slotsPerFrame)
  let sym := s.praSym0 c ⟨0, td⟩
  let frame := g.resolveFrame x.submit (bits pos 31 22) (bits pos 21 15) sym 0
  let o : Occasion := ⟨g.join frame (bits pos 21 15), td⟩
  if ¬sized ∨ ¬(s.praFrame c frame).contains o then .reject fcPraBadParam
  else if x.deadline = none then .reject fcPraNoDeadline
  else if x.inList ≠ 0 ∨ field x.desc 64 4 ≠ 0 then .reject fcPraBadList
  else
    match s.pra.find? c with
    | none => .reject fcPraConfigOff
    | some y =>
      if ¬s.flag PRA_CFG_CFG.EN c ∨ s.praPtn c ≠ x.ptn then .reject fcPraConfigOff
      else
        let past := match y.next with
          | some n => o.before n
          | none => true
        if past && (y.entryOf o).isNone then .reject fcPraStale
        else
          let x := { x with air := { x.air with cell := c, slot := o.slot, td := td } }
          .ok ((y.entryOf o).elim x fun r => x.seeBlock r.2)

/-- Address of a ring entry. -/
def State.candAt (s : State) (c k : Nat) : Nat :=
  s.fld PRA_CFG_CAND_LO.ADDR c * 8192 + 2 ^ 32 * s.fld PRA_CFG_CAND_HI.ADDR c + 8192 * k

/-- What JOB sets as the job is dispatched: the ring entry it holds, its input entry, its record area, the searcher. -/
def State.praDispatch (s : State) (j : Nat) : State :=
  match s.job? j with
  | none => s
  | some x =>
    match s.pra.find? x.air.cell with
    | none => s
    | some y =>
      match y.entryOf x.occasion with
      | none => s
      | some (k, e) =>
        s.putJob j { x.seeBlock e with inBlks := [(s.candAt x.air.cell k, e.len)], air := { x.air with entry := some k } }

/-! ## Reception (R260, R261) -/

/-- Occasion and repetition that a header names for configuration c, if it names one. -/
def State.praNamed (s : State) (c : Nat) (ts : Int) (h : UHead) : Option (Occasion × Nat) :=
  let g := s.cellGrid (s.praCell c)
  let fmt := s.praFmt c
  let k := h.sub * 2 ^ g.mu + h.slot
  if 2 ^ g.mu ≤ h.slot then none
  else
    let frame := g.nearFrame ts h.frame k 0
    let st := s.fld PRA_CFG_PAT.START_SYM c
    let (td, rep) := if praLong fmt then (0, h.sym) else ((h.sym - st) / max (praSym fmt) 1, (h.sym - st) % max (praSym fmt) 1)
    let o : Occasion := ⟨g.join frame k, td⟩
    if (¬praLong fmt ∧ h.sym < st) ∨ praRep fmt ≤ rep ∨ ¬(s.praFrame c frame).contains o then none else some (o, rep)

/-- Keep one section of a message for an occasion. (log 82: DEDUCED) -/
def State.praSection (s : State) (c : Nat) (o : Occasion) (rep a : Nat) (u : USec) : State :=
  let fmt := s.praFmt c
  if u.odd ∨ u.prb0 ≠ 0 ∨ u.num ≠ praPrbs fmt then s.incSat PRA_DROP.BAD_SECTION 1
  else
    match s.pra.find? c with
    | none => s
    | some x =>
      let cur : OccData := (x.open'.find? fun d => decide (d.occ = o)).getD { occ := o }
      let key := rep * 32 + a
      if (cur.seqs.find? key).isSome then s.incSat FHE_CRX_CNT1.DUP u.num (s.praCell c)
      else
        let k := prbLen u.bfp u.width
        let ps : List (List Byte × Nat) := (List.range u.num).map fun i => unpackPrb u.bfp u.width ((u.data.drop (k * i)).take k)
        let cur := { cur with seqs := cur.seqs.put key ((ps.flatMap fun r => r.1).take (4 * praL fmt)) }
        let x := { x with open' := cur :: x.open'.filter fun d => decide (d.occ ≠ o) }
        let sat : Nat := (ps.map fun r => r.2).foldl (· + ·) 0
        ({ s with pra := s.pra.put c x }).incSat FHE_CRX_CNT3.DECOMP_SAT sat (s.praCell c)

/-- A message for configuration c: outside its occasion's window, or kept. Whether it was accepted. (log 81: DESIGN CHOICE) -/
def State.praTake (s : State) (c a : Nat) (ts : Int) (h : UHead) (secs : List USec) : Bool × State :=
  match s.praNamed c ts h, s.pra.find? c with
  | some (o, rep), some x =>
    let gone : Bool := match x.next with
      | some n => o.before n
      | none => true
    if ts < s.praOpenAt c o then (false, s.incSat PRA_CFG_CNT1.EARLY 1 c)
    else if s.praCloseAt c o ≤ ts ∨ gone then (false, s.incSat PRA_CFG_CNT1.LATE 1 c)
    else (true, forEach secs (fun u s => s.praSection c o rep a u) s)
  | _, _ => (false, s)

/-- The enabled configurations that take a message for stream a of a cell. -/
def State.praHearing (s : State) (cell a : Nat) (h : UHead) : List Nat :=
  (s.pra.rows.map (·.1)).filter fun c =>
    s.flag PRA_CTL.EN && s.praCell c == cell && s.fld PRA_CFG_CFG.FILTER c == h.filter && bit (s.fld PRA_CFG_STRM.STRM c) a

/-- A header for stream a of a cell names no symbol, or no occasion of the configurations that take it (R231, R260).
(log 82: DEDUCED) -/
def State.badPlace (s : State) (cell a : Nat) (ts : Int) (h : UHead) : Bool :=
  if h.filter = 0 then (s.uPlace cell ts h).isNone
  else
    let cs := s.praHearing cell a h
    !cs.isEmpty && cs.all fun c => (s.praNamed c ts h).isNone

/-- A message with filterIndex 1-15, for stream a of a cell. (log 82: DEDUCED) -/
def State.praMessage (s : State) (cell a : Nat) (ts : Int) (h : UHead) (m : EMsg) : State :=
  let (ss, bad) := uSections (s.flag FHE_CRX_CFG.UDHDR cell) (s.flag FHE_CRX_CFG.METH cell) (s.fld FHE_CRX_CFG.IQW cell)
    (s.fld FHE_CRX_CFG.NPRB cell) m.body.length (m.body.drop 4)
  let s := s.incSat FHE_RX_DROP1.BAD_SECTION bad
  let cs := s.praHearing cell a h
  if cs.isEmpty then s.incSat PRA_DROP.NO_CFG ss.length
  else
    let (ok, s) := cs.foldl (fun (r : Bool × State) c =>
      let (k, s) := r.2.praTake c a ts h ss
      (r.1 || k, s)) (false, s)
    if ok then
      let (gap, s) := s.trackSeq m.pcid m.seq
      s.incSat FHE_CRX_CNT1.SEQ_GAP gap cell
    else s

/-! ## Correlation, noise and gate (R262-R265) -/

/-- Power at a bin of one stream's repetition: zero where every sample is. -/
def seqPower (fmt u : Nat) (d : Option (List Byte)) (n : Nat) : Nat :=
  match d with
  | none => 0
  | some bs => if bs.all (· == 0#8) then 0 else corrPower (praL fmt) (praN fmt) u bs n

/-- What a search works on: format, root numbers, streams, sequences. -/
structure Search where
  fmt : Nat
  roots : List Nat
  streams : List Nat
  seqs : Table (List Byte)
deriving DecidableEq, Repr

/-- Power of stream a at bin n of root slot r, over the repetitions. -/
def Search.strm (x : Search) (r a n : Nat) : Nat :=
  ((List.range (praRep x.fmt)).map fun k => seqPower x.fmt (x.roots.getD r 0) (x.seqs.find? (k * 32 + a)) n).foldl (· + ·) 0
    % 2 ^ 48

/-- P_r[n]. (log 81: DESIGN CHOICE) -/
def Search.pdp (x : Search) (r n : Nat) : Nat := (x.streams.map fun a => x.strm r a n).foldl (· + ·) 0 % 2 ^ 48

/-- The profiles of every root slot. -/
def Search.pdps (x : Search) : List (List Nat) :=
  (List.range x.roots.length).map fun r => (List.range (praN x.fmt)).map fun n => x.pdp r n

/-- Zone of a preamble's shift index v: first bin and end. -/
def zoneOf (l n ncs v : Nat) : Nat × Nat :=
  if ncs = 0 then (0, n)
  else
    let t0 := (l - v * ncs % l) % l
    ((t0 * n + l - 1) / l, ((t0 + ncs) * n + l - 1) / l)

/-- The first largest bin in [a, b): bin and value. -/
def peakIn (p : List Nat) (a b : Nat) : Nat × Nat :=
  (List.range (b - a)).foldl (fun (best : Nat × Nat) i => if best.2 < p.getD (a + i) 0 then (a + i, p.getD (a + i) 0) else best)
    (a, p.getD a 0)

/-- A preamble's peak: preamble, root slot, first bin of its zone, bin, value. -/
structure Peak where
  p : Nat
  r : Nat
  z : Nat
  bin : Nat
  v : Nat
deriving DecidableEq, Repr

def peaks (fmt ncs pr : Nat) (ps : List (List Nat)) : List Peak :=
  (List.range 64).map fun p =>
    let z := zoneOf (praL fmt) (praN fmt) ncs (p % pr)
    let k := peakIn (ps.getD (p / pr) []) z.1 z.2
    ⟨p, p / pr, z.1, k.1, k.2⟩

/-- Bins i and j lie within two of each other, modulo n. -/
def nearBin (n i j : Nat) : Bool := decide ((i + n - j) % n ≤ 2) || decide ((j + n - i) % n ≤ 2)

/-- NOISE (R264). -/
def noiseOf (n : Nat) (ps : List (List Nat)) (ks : List Peak) : Nat :=
  let kept := ((List.range ps.length).zip ps).flatMap fun r =>
    let mine := ks.filter fun k => k.r == r.1
    (((List.range n).zip r.2).filter fun b => !(mine.any fun k => nearBin n b.1 k.bin)).map (·.2)
  if kept.isEmpty then 0 else kept.foldl (· + ·) 0 / kept.length

/-- Candidates: at most 64, the largest peaks (R265). -/
def candidates (gate minLog noise : Nat) (ks : List Peak) : List Peak :=
  ks.filter fun k => decide (gate * noise ≤ 256 * k.v) && decide (2 ^ minLog ≤ k.v) && decide (0 < k.v)

/-- A candidate record (R268). -/
def candRecord (x : Search) (mu : Nat) (ps : List (List Nat)) (k : Peak) : List Byte :=
  let n := praN x.fmt
  let best := x.streams.foldl (fun (m : Nat × Nat) a =>
    let v := x.strm k.r a k.bin
    if m.2 < v then (a, v) else m) (x.streams.headD 0, x.strm k.r (x.streams.headD 0) k.bin)
  let nbr := (List.range 16).flatMap fun i =>
    bytesOf 2 ((ps.getD k.r []).getD ((k.bin + n - 8 + i) % n) 0 * 65535 / k.v)
  bytesOf 1 k.p ++ bytesOf 1 k.r ++ bytesOf 2 k.bin ++ bytesOf 6 k.v ++ bytesOf 1 best.1 ++ [0#8] ++ bytesOf 6 best.2
    ++ [0#8, 0#8] ++ bytesOf 4 ((k.bin - k.z) * praTcb x.fmt mu) ++ nbr ++ List.replicate 8 0#8

/-! ## Occasion close (R261, R266, R267, R270) -/

/-- The candidate block of an occasion. -/
def State.candBlock (s : State) (c : Nat) (o : Occasion) (d : OccData) (dead : Bool) : List Byte × Nat :=
  let fmt := s.praFmt c
  let cell := s.praCell c
  let g := s.cellGrid cell
  let (f, k) := g.split o.slot
  let streams := bitsSet 32 (s.fld PRA_CFG_STRM.STRM c)
  let x : Search :=
    { fmt := fmt, streams := streams, seqs := d.seqs,
      roots := (List.range (s.praRoots c)).map fun r => Config.praRoot (praL fmt) ((s.fld PRA_CFG_ROOT.ROOT0 c + r) % (praL fmt - 1)) }
  let missing := streams.length * praRep fmt
    - (streams.flatMap fun a => (List.range (praRep fmt)).filter fun r => (d.seqs.find? (r * 32 + a)).isSome).length
  let ps := if dead then [] else x.pdps
  let ks := if dead then [] else peaks fmt (s.fld PRA_CFG_CFG.NCS c) (s.praPr c) ps
  let noise := noiseOf (praN fmt) ps ks
  let cs := candidates (s.fld PRA_CFG_GATE.GATE c) (s.fld PRA_CFG_GATE.MIN_LOG2 c) noise ks
  let flags := b2n d.seqs.rows.isEmpty + 2 * b2n (decide (0 < missing)) + 4 * b2n dead
  let head := bytesOf 2 1 ++ bytesOf 1 c ++ bytesOf 1 cell ++ bytesOf 4 (sfnOf f * 2 ^ 22 + k * 2 ^ 15 + o.td * 2 ^ 12)
    ++ bytesOf 1 cs.length ++ bytesOf 1 flags ++ bytesOf 2 0 ++ bytesOf 4 missing ++ bytesOf 6 noise ++ [0#8, 0#8]
    ++ bytesOf 4 (stamp32 s.now) ++ List.replicate 36 0#8
  (head ++ cs.flatMap fun p => candRecord x g.mu ps p, cs.length)

/-- The ring entry that the next block needs is held by jobs of its older occasion (R270). -/
def State.praOverrun (s : State) (c k : Nat) (x : PraCfg) : State :=
  let e := x.ring.find? k
  let held := s.jobList.filter fun r => r.2.cls == 2 && r.2.air.cell == c
    && (r.2.air.entry == some k || e.any fun e => decide (r.2.occasion = e.occ))
  if held.isEmpty then s
  else
    let s := forEach held (fun r s => s.failJob r.1 fcPraStale) s
    (s.setFld PRA_CFG_STAT.OVERRUN 1 c).event evPraOverrun (s.praPtn c) c []

/-- The candidate block `bs` of configuration c is written at `va`: counted where it is, and lost as a whole where a write of it
faults. -/
def State.putCandidates (s : State) (c p va unit : Nat) (bs : List Byte) : Bool × State :=
  match s.put p va bs with
  | (.ok _, s) => (false, s.incSat PRA_CFG_CNT0.OCCASIONS 1 c)
  | (.error (.mmu f), s1) =>
    (true, { s1 with mem := s.mem, syc := s.syc }.mmuFault p va true false { kind := 7, unit := unit, handle := c, job := 0, tag := 0 } f)
  | (.error (.code _), s1) => (true, { s1 with mem := s.mem, syc := s.syc })

/-- The next occasion of configuration c closes. -/
def State.occasionClose (s : State) (c : Nat) : State :=
  match s.pra.find? c with
  | none => s
  | some x =>
    match x.next with
    | none => s
    | some o =>
      if ¬s.flag PRA_CTL.EN ∨ (s.now : Int) < s.praCloseAt c o then s
      else
        let d := (x.open'.find? fun d => decide (d.occ = o)).getD { occ := o }
        let (bs, _) := s.candBlock c o d (x.srch.isNone || x.lostAt.any fun t => decide (s.praOpenAt c o ≤ (t : Int)))
        let k := x.blocks % nbufOf (s.fld PRA_CFG_PAT.NBUF c)
        let s := s.praOverrun c k x
        let p := s.praPtn c
        let va := s.candAt c k
        let (lost, s) := s.putCandidates c p va (x.srch.getD 0) bs
        let e : CandEntry := { occ := o, srch := x.srch, head := if lost then [] else bs.take 64, len := if lost then 0 else bs.length, lost := lost }
        let x' := { x with next := s.praNext c o, blocks := x.blocks + 1, ring := x.ring.put k e,
                           open' := x.open'.filter fun d => o.before d.occ }
        let s := { s with pra := s.pra.put c x' }
        let (f, n) := (s.cellGrid (s.praCell c)).split o.slot
        let s := ((s.setFld PRA_CFG_STAT.SFN (sfnOf f) c).setFld PRA_CFG_STAT.SLOT n c).setFld PRA_CFG_STAT.TD o.td c
        if lost then
          let s := (s.setFld PRA_CFG_STAT.WR_FAULT 1 c).event evPraWrFault p c []
          forEach (s.jobList.filter fun r => r.2.cls == 2 && r.2.air.cell == c && decide (r.2.occasion = o))
            (fun r s => s.failJob r.1 fcMmuFault) s
        else
          let s := forEach (s.jobList.filter fun r => r.2.cls == 2 && r.2.air.cell == c && decide (r.2.occasion = o))
            (fun r s => s.modJob r.1 fun x => x.seeBlock e) s
          let s := s.refresh
          if s.flag PRA_CFG_SEM.V c then s.signal (s.fld PRA_CFG_SEM.CLUSTER c) (s.fld PRA_CFG_SEM.INDEX c) 1 else s

/-- Configuration c goes to a searcher, or is left without one. (log 169: DEDUCED) -/
def State.praMove (s : State) (c : Nat) (x : PraCfg) (place : Option Nat) : State :=
  let s := ({ s with pra := s.pra.put c { x with srch := place } }).syncPra c
  s.event evPraPlace (s.praPtn c) c [w32 (place.getD 0), w32 (b2n place.isNone)]

/-- Load has been freed: configurations without a searcher are placed, in ascending order, as far as there is room; an occasion
that opened before has no searcher. (log 169: DEDUCED) -/
def State.praRetry (s : State) : State :=
  forEach (bitsSet 64 (s.pra.rows.foldl (fun m r => if r.2.srch.isNone then m ||| 2 ^ r.1 else m) 0)) (fun c s =>
    match s.pra.find? c with
    | some x =>
      match s.praPlace x.load with
      | some u => s.praMove c { x with lostAt := some s.now } (some u)
      | none => s
    | none => s) s

/-- A searcher is retired (R273, R428): its configurations move in ascending order, and their occasion in progress is spoiled
unless the retirement was commanded (R432). (log 121: DEDUCED) -/
def State.retirePra (s : State) (u cause : Nat) : State :=
  if s.isRetired kPra u then s
  else
  let s := (s.markRetired kPra u).devEvent evRetired u [w32 kPra, w32 cause]
  let s := s.setFld PRA_LOAD.RETIRED 1 u
  let cs := (s.pra.rows.filter fun r => r.2.srch == some u).map (·.1)
  let s := forEach cs (fun c s =>
    match s.pra.find? c with
    | some x => { s with pra := s.pra.put c { x with srch := none, lostAt := if cause = causeCommanded then x.lostAt else some s.now } }
    | none => s) s
  forEach cs (fun c s =>
    match s.pra.find? c with
    | some x => s.praMove c x (s.praPlace x.load)
    | none => s) s

/-! ## Enabling and disabling (R256, R270, R274) -/

/-- A write of PRA_CFGc_CFG. (log 79: DEDUCED; log 156: DEDUCED) -/
def State.praCfgWrite (s : State) (src c v : Nat) : State :=
  if ¬s.domOn (domainOf (PRA_CFG_CFG.addr c 0)) ∨ (src ≠ s.manager ∧ src ≠ s.praPtn c) then s
  else if s.flag PRA_CFG_CFG.EN c then
    if bit v 31 then s
    else
      let s := { s with pra := s.pra.del c }.writeReg PRA_CFG_CFG (v % 2 ^ 31) c
      ((s.syncPra c).praOff fun k => k == c).praRetry
  else
    let s := s.writeReg PRA_CFG_CFG (v % 2 ^ 31) c
    if bit v 31 then s.praEnable c else s

/-- A write of FHE_CRX_CFGn from partition `src`. (log 79: DEDUCED; log 156: DEDUCED) -/
def State.crxCfgWrite (s : State) (src n v : Nat) : State :=
  if ¬s.domOn 74 ∨ src ≠ s.fld FHE_CRX_PTN.PTN n then s
  else if s.flag FHE_CRX_CFG.EN n then
    if bit v 31 then s
    else
      let s := ({ s with fhe := { s.fhe with rx := s.fhe.rx.del n } }.writeReg FHE_CRX_CFG (v % 2 ^ 31) n).syncRx n
      s.praOff fun c => s.praCell c == n
  else
    let s := s.writeReg FHE_CRX_CFG (v % 2 ^ 31) n
    if bit v 31 then s.crxEnable n else s

/-- A write of ATU_CELL_CFGn from partition `p`: ingress and PRACH jobs of the cell follow (R248, R270). -/
def State.cellWrite (s : State) (p n v : Nat) : State :=
  let was := s.cellOn n
  let rx := s.rxOn n
  let s := (s.cellCfgWrite p n v).rxSwitched n rx
  if was ∧ ¬s.cellOn n then s.praOff fun c => s.praCell c == n else s

/-! ## A frame (R230) -/

/-- Cell and stream of an eAxC. -/
def State.eaxc (s : State) (id : Nat) : Option (Nat × Nat) :=
  match s.eaxcWhere fun k => s.fld FHE_EAXC_A.EAXC_ID k == id && decide (s.fld FHE_EAXC_B.CELL k < 96) with
  | some k =>
    let c := s.fld FHE_EAXC_B.CELL k
    let a := s.fld FHE_EAXC_B.STREAM k
    if a < s.fld FHE_CRX_CFG.S c then some (c, a) else none
  | none => none

/-- The FHE takes a frame from a port (R229-R232). -/
def State.rxFrame (s : State) (port : Nat) (bs : List Byte) : State :=
  if ¬s.domOn 74 ∨ ¬s.flag FHE_RX_CTL.EN then s
  else
    let ts := (s.now : Int) - corrUnits (s.reg ATU_PORT_IGR port)
    let msgs := (ecpriOf (s.fld FHE_RX_CTL.UDP_PORT) bs).bind fun p => ecpriMessages (p.length / 4 + 1) p
    let parsed := msgs.bind fun ms =>
      let hs := ms.map fun m => (m, uHead m.body)
      if hs.all fun r => r.2.isSome then some (hs.filterMap fun r => r.2.map fun h => (r.1, h)) else none
    match parsed with
    | none => s.incSat FHE_RX_DROP0.BAD_HDR 1
    | some hs =>
      let placed := (hs.map fun r => (r, s.eaxc r.1.pcid)).filter fun r => match r.2 with
        | some (c, _) => !s.portStopped 0 port (s.fld FHE_CRX_PTN.PTN c)
        | none => !s.job.stops.any fun x => x.kind == 0 && x.port == port && x.whole
      let badPos := placed.any fun r => match r.2 with
        | some (c, a) => s.badPlace c a ts r.1.2
        | none => false
      if badPos then s.incSat FHE_RX_DROP0.BAD_HDR 1
      else if placed.any fun r => r.2.isNone then s.incSat FHE_RX_DROP0.UNKNOWN_EAXC 1
      else if placed.any fun r => match r.2 with
          | some (c, _) => !s.flag FHE_CRX_CFG.EN c || !s.cellOn c
          | none => false then s.incSat FHE_RX_DROP1.CELL_OFF 1
      else if fhBufSize < s.fhHeld + bs.length then s.incSat FHE_RX_DROP2.BUF_FULL 1
      else
        forEach placed (fun r s =>
          match r.2 with
          | some (c, a) =>
            if r.1.2.filter = 0 then s.rxMessage c a ts r.1.2 r.1.1 r.1.1.body.length else s.praMessage c a ts r.1.2 r.1.1
          | none => s) s

end Sys2Proof.Machine
end

