-- ==== Sys2Proof/Machine/FhTx.lean ====
section
/-! DEFINITION. Fronthaul egress (chapter 13): transmit slot buffers and their section tables (R310-R312), the C-plane and
U-plane messages (R309, R314, R315), their windows and misses (R313, R316), and the TX_SLOT checks (R318). -/
namespace Sys2Proof.Machine

/-! ## Section entries (R311) -/

def secDown (e : List Byte) : Bool := bit (field e 0 1) 0
/-- (log 70: DEDUCED) -/
def secType3 (e : List Byte) : Bool := bit (field e 0 1) 1
def secSym0 (e : List Byte) : Nat := field e 4 1 % 16
def secSyms (e : List Byte) : Nat := field e 4 1 / 16
def secPrb0 (e : List Byte) : Nat := field e 6 2 % 1024
def secNum (e : List Byte) : Nat := field e 8 1
/-- The streams an entry names. -/
def secStreams (e : List Byte) : List Nat := bitsSet 32 (field e 20 4)

/-- First PRB and PRB count of an entry in a cell of `nprb` PRBs. -/
def secRange (e : List Byte) (nprb : Nat) : Nat × Nat := if secNum e = 0 then (0, nprb) else (secPrb0 e, secNum e)

/-- An entry that is sent: reserved bits zero, a type its direction has, symbols, PRBs and streams within the cell. -/
def secOk (l nprb streams : Nat) (e : List Byte) : Bool :=
  let zero := decide (field e 0 1 < 4) && field e 1 1 == 0 && decide (field e 2 2 < 4096) && field e 5 1 == 0
    && decide (field e 6 2 < 1024) && field e 9 1 == 0 && decide (field e 10 2 < 4096) && decide (field e 12 2 < 32768)
    && decide (field e 16 4 < 2 ^ 24) && field e 28 4 == 0
  let kind := if secType3 e then !secDown e else field e 14 1 == 0 && field e 15 1 == 0
  let (p0, n) := secRange e nprb
  zero && kind && decide (secSym0 e + secSyms e ≤ l)
    && decide (p0 + n ≤ nprb) && decide (field e 20 4 < 2 ^ streams)

/-- A downlink entry that covers symbol `sym`. -/
def secCovers (e : List Byte) (sym : Nat) : Bool :=
  secDown e && decide (secSym0 e ≤ sym) && decide (sym < secSym0 e + secSyms e)

/-! ## State of a buffer -/

def State.txBuf? (s : State) (n b : Nat) : Option TxBuf :=
  match s.fhe.tx.find? n with
  | some c => c.bufs.find? b
  | none => none

def State.modTxBuf (s : State) (n b : Nat) (f : TxBuf → TxBuf) : State :=
  match s.fhe.tx.find? n with
  | none => s
  | some c =>
    match c.bufs.find? b with
    | none => s
    | some x => { s with fhe := { s.fhe with tx := s.fhe.tx.put n { c with bufs := c.bufs.put b (f x) } } }

/-- A slot is being sent. -/
def TxBuf.active (x : TxBuf) (l : Nat) : Bool := (x.cOpen || x.uOpen != 0) && x.uClosed != 2 ^ l - 1

/-- FHE_CTX_STATn.ACTIVE follows the buffers. (log 69: DESIGN CHOICE) -/
def State.syncTx (s : State) (n : Nat) : State :=
  let on := match s.fhe.tx.find? n with
    | some c => c.bufs.rows.any fun r => r.2.active (s.cellGrid n).symsPerSlot
    | none => false
  s.setFld FHE_CTX_STAT.ACTIVE (b2n on) n

/-- Egress of a cell runs. (log 73: DEDUCED) -/
def State.txOn (s : State) (n : Nat) : Bool := s.flag FHE_TX_CTL.EN && s.flag FHE_CTX_CFG.EN n && s.cellOn n

/-- The corrected egress stamp of a frame that leaves now (R65). -/
def State.txNow (s : State) (n : Nat) : Int := (s.now : Int) + corrUnits (s.reg ATU_PORT_EGR (s.fld FHE_CTX_CFG.PORT n))

/-- Edges of the windows of R313. -/
def State.cOpenAt (s : State) (n : Nat) (slot : Int) : Int := (s.cellGrid n).edge slot 0 (-(s.fld FHE_CTX_CWIN.TCP_MAX n : Nat))
def State.cCloseAt (s : State) (n : Nat) (slot : Int) : Int := (s.cellGrid n).edge slot 0 (-(s.fld FHE_CTX_CWIN.TCP_MIN n : Nat))
def State.uOpenAt (s : State) (n : Nat) (slot : Int) (sym : Nat) : Int :=
  (s.cellGrid n).edge slot sym (-(s.fld FHE_CTX_UWIN.TUP_MAX n : Nat))
def State.uCloseAt (s : State) (n : Nat) (slot : Int) (sym : Nat) : Int :=
  (s.cellGrid n).edge slot sym (-(s.fld FHE_CTX_UWIN.TUP_MIN n : Nat))

/-- Counts of a slot, in the cell's registers too. -/
def State.txCount (s : State) (n b cp late flush miss : Nat) : State :=
  let s := s.modTxBuf n b fun x =>
    { x with cpMiss := x.cpMiss + cp, late := x.late + late, flush := x.flush + flush, txMiss := x.txMiss + miss }
  let s := s.incSat FHE_CTX_CNT0.CP_MISS cp n
  let s := s.incSat FHE_CTX_CNT1.LATE_START late n
  let s := s.incSat FHE_CTX_CNT2.COMP_FLUSH flush n
  s.incSat FHE_CTX_CNT0.TX_MISS miss n

/-- Grid base address of buffer b. -/
def State.txBase (s : State) (n b : Nat) : Nat :=
  let g := s.cellGrid n
  s.fld FHE_CTX_GRID_LO.ADDR n * 4096 + 2 ^ 32 * s.fld FHE_CTX_GRID_HI.ADDR n
    + b * txStride g.symsPerSlot (s.fld FHE_CTX_CFG.S n) (s.fld FHE_CTX_CFG.NPRB n)

/-- The value of buffer b's semaphore. -/
def State.txReady (s : State) (n b : Nat) : Nat :=
  s.fld CLU_SEM.VALUE (s.fld FHE_CTX_SEM.CLUSTER n) (s.fld FHE_CTX_SEM.FIRST n + b)

/-! ## The section table (R311) -/

/-- Messages that the entries make. -/
def secMessages (es : List (List Byte)) : Nat := (es.map fun e => (secStreams e).length).foldl (· + ·) 0

/-- The table of buffer b as read: valid entries and the streams of skipped ones, or none where it is taken as empty.
(log 70: DEDUCED) -/
def State.parseTable (s : State) (n : Nat) (slot : Int) (bs : List Byte) : Option (List (List Byte) × Nat) :=
  let g := s.cellGrid n
  let (f, k) := g.split slot
  let cnt := field bs 2 2
  let head := field bs 0 2 == 1 && decide (cnt ≤ 256) && bits (field bs 4 4) 31 15 == sfnOf f * 128 + k
  if ¬head then none
  else
    let es := (List.range cnt).map fun i => (bs.drop (64 + 32 * i)).take 32
    let ok := fun (e : List Byte) =>
      if secDown e then secOk g.symsPerSlot (s.fld FHE_CTX_CFG.NPRB n) (s.fld FHE_CTX_CFG.S n) e
      else secOk g.symsPerSlot (s.fld FHE_CRX_CFG.NPRB n) (s.fld FHE_CRX_CFG.S n) e
    some (es.filter ok, secMessages (es.filter fun e => !ok e))

/-- Read the section table of buffer b. Messages of a table read after its window has closed are missed. (log 70: DEDUCED) -/
def State.readTable (s : State) (n b : Nat) (x : TxBuf) : State :=
  let g := s.cellGrid n
  let p := s.fld FHE_CTX_PTN.PTN n
  let va := s.txBase n b + gridSize g.symsPerSlot (s.fld FHE_CTX_CFG.S n) (s.fld FHE_CTX_CFG.NPRB n)
  let empty := fun (s : State) =>
    let (f, k) := g.split x.slot
    (s.modTxBuf n b fun x => { x with table := some [], bad := true }).event evTxTable p n [w32 (sfnOf f), w32 k]
  match s.vRead p va 8256 with
  | (.error (.mmu f), s) => empty (s.mmuFault p va false false (fheWho n) f)
  | (.error (.code _), s) => empty s
  | (.ok bs, s) =>
    match s.parseTable n x.slot bs with
    | none => empty s
    | some (es, skipped) =>
      let s := s.modTxBuf n b fun x => { x with table := some es }
      s.txCount n b (skipped + if x.cClosed then secMessages es else 0) 0 0 0

/-! ## Sending -/

/-- The next sequence number of an eAxC on a plane. (log 69: DESIGN CHOICE) -/
def State.takeSeq (s : State) (plane pcid : Nat) : Nat × State :=
  let k := plane * 65536 + pcid
  let q := s.fhe.txSeq.get (fun _ => 0) k
  (q, { s with fhe := { s.fhe with txSeq := s.fhe.txSeq.set (fun _ => 0) k ((q + 1) % 256) } })

/-- A message leaves in a frame on the cell's port. (log 68: DESIGN CHOICE) -/
def State.fheSend (s : State) (n plane pcid : Nat) (body : List Byte) : State :=
  match s.fhe.tx.find? n with
  | none => s
  | some c =>
    let (q, s) := s.takeSeq plane pcid
    let f := fillTemplate (s.fld FHE_CTX_TCFG.TYPE n) c.tmpl (ecpriMessage (if plane = 0 then 2 else 0) pcid q body)
    { s with out := .ethFrame (s.fld FHE_CTX_CFG.PORT n) f :: s.out }

/-- The port takes a frame of the cell now, before the window closes. -/
def State.txMay (s : State) (n : Nat) (close : Int) : Bool :=
  match s.fhe.tx.find? n with
  | some c => s.portSends (s.fld FHE_CTX_CFG.PORT n) (pcpOf c.tmpl) && decide (s.txNow n < close)
      && !s.portStopped 0 (s.fld FHE_CTX_CFG.PORT n) (s.fld FHE_CTX_PTN.PTN n)
  | none => false

/-- ecpriPcid of an entry's stream (R309): none for an uplink stream without an eAxC entry. -/
def State.txPcid (s : State) (n : Nat) (down : Bool) (a : Nat) : Option Nat :=
  if down then some ((s.fld FHE_CTX_EAXC.BASE n + a) % 65536)
  else
    (s.eaxcWhere fun k => s.fld FHE_EAXC_B.CELL k == n && s.fld FHE_EAXC_B.STREAM k == a).map
      fun k => s.fld FHE_EAXC_A.EAXC_ID k

/-- Body of a C-plane message (R314). -/
def State.cBody (s : State) (n : Nat) (slot : Int) (e : List Byte) : List Byte :=
  let ud := if secDown e then udCompHdr (s.flag FHE_CTX_CFG.METH n) (s.fld FHE_CTX_CFG.IQW n)
    else udCompHdr (s.flag FHE_CRX_CFG.METH n) (s.fld FHE_CRX_CFG.IQW n)
  let sec := sectionHead (field e 2 2) (secPrb0 e) (secNum e) ++ bytesBE 2 (field e 10 2 * 16 + secSyms e) ++ bytesBE 2 (field e 12 2)
  let head := cusHeader (b2n (secDown e)) (field e 14 1 % 16) (s.cellGrid n) slot (secSym0 e) ++ [1#8]
  if secType3 e then
    head ++ [3#8] ++ bytesBE 2 (field e 24 2) ++ bytesOf 1 (field e 15 1) ++ bytesBE 2 (field e 26 2) ++ ud ++ sec
      ++ bytesBE 3 (field e 16 4) ++ [0#8]
  else head ++ [1#8] ++ ud ++ [0#8] ++ sec

/-- The uplink section is noted for PRB_MISSING (R236). -/
def State.noteCover (s : State) (n : Nat) (slot : Int) (e : List Byte) (a : Nat) : State :=
  match s.fhe.rx.find? n with
  | none => s
  | some c =>
    if secDown e ∨ secType3 e then s
    else
      let (p0, k) := secRange e (s.fld FHE_CRX_CFG.NPRB n)
      let old := c.cover.filter fun v => decide (slot < v.slot + 64)
      let c := { c with cover := old ++ [⟨slot, a, secSym0 e, secSyms e, p0, k⟩] }
      { s with fhe := { s.fhe with rx := s.fhe.rx.put n c } }

/-- Send the C-plane messages of a slot (R314). -/
def State.sendC (s : State) (n b : Nat) (x : TxBuf) (es : List (List Byte)) (late : Bool) : State :=
  let s := forEach es (fun e s =>
    forEach (secStreams e) (fun a s =>
      match s.txPcid n (secDown e) a with
      | none => s.txCount n b 1 0 0 0
      | some pc => ((s.fheSend n 0 pc (s.cBody n x.slot e)).noteCover n x.slot e a).txCount n b 0 (b2n late) 0 0) s) s
  s.modTxBuf n b fun x => { x with cDone := true }

/-- Longest run of PRBs in one message (R315). -/
def State.runMax (s : State) (n : Nat) : Nat :=
  let m := s.fld FHE_TX_CTL.MTU
  let m := if 1500 ≤ m ∧ m ≤ 9216 then m else 1500
  let exceeds := headersLen (s.fld FHE_CTX_TCFG.TYPE n) + 16 + (if s.flag FHE_CTX_CFG.UDHDR n then 2 else 0)
  (m - exceeds) / prbLen (s.flag FHE_CTX_CFG.METH n) (s.fld FHE_CTX_CFG.IQW n)

/-- Consecutive runs of `n` PRBs from `p`; `fuel` bounds them. -/
def prbRuns (most : Nat) : Nat → Nat → Nat → List (Nat × Nat)
  | 0, _, _ => []
  | k + 1, p, n => if n = 0 then [] else (p, min most n) :: prbRuns most k (p + min most n) (n - min most n)

/-- Send one run of a section (R315, R317). -/
def State.sendRun (s : State) (n b : Nat) (x : TxBuf) (sym a : Nat) (e : List Byte) (late : Bool) (r : Nat × Nat) : State :=
  let g := s.cellGrid n
  let nprb := s.fld FHE_CTX_CFG.NPRB n
  let p := s.fld FHE_CTX_PTN.PTN n
  let va := s.txBase n b + gridOff (s.fld FHE_CTX_CFG.S n) nprb sym a r.1
  let lose := fun (s : State) => s.modTxBuf n b fun x => { x with lost := (sym, a) :: x.lost }
  match s.vRead p va (r.2 * 48) with
  | (.error (.mmu f), s) => lose (s.mmuFault p va false false (fheWho n) f)
  | (.error (.code _), s) => lose s
  | (.ok bs, s) =>
    let bfp := s.flag FHE_CTX_CFG.METH n
    let w := s.fld FHE_CTX_CFG.IQW n
    let ps := (List.range r.2).map fun k => packPrb bfp w ((bs.drop (48 * k)).take 48)
    let num := if r = (0, nprb) then 0 else r.2
    let body := cusHeader 1 0 g x.slot sym ++ sectionHead (field e 2 2) r.1 num
      ++ (if s.flag FHE_CTX_CFG.UDHDR n then udCompHdr bfp w ++ [0#8] else []) ++ ps.flatMap (·.1)
    match s.txPcid n true a with
    | none => lose s
    | some pc => (s.fheSend n 1 pc body).txCount n b 0 (b2n late) ((ps.map (·.2)).foldl (· + ·) 0) 0

/-- Send the U-plane messages of a symbol. -/
def State.sendU (s : State) (n b : Nat) (x : TxBuf) (es : List (List Byte)) (sym : Nat) (late : Bool) : State :=
  let nprb := s.fld FHE_CTX_CFG.NPRB n
  let most := s.runMax n
  let s := forEach (es.filter fun e => secCovers e sym) (fun e s =>
    forEach (secStreams e) (fun a s =>
      let (p0, k) := secRange e nprb
      let runs := if p0 = 0 ∧ k = nprb ∧ nprb ≤ most then [(0, nprb)] else prbRuns (min most 255) (k + 1) p0 k
      forEach runs (fun r s => s.sendRun n b x sym a e late r) s) s) s
  s.modTxBuf n b fun x => { x with uDone := x.uDone ||| 2 ^ sym }

/-- A part whose window is open and that has not been sent: when its turn came, its cell and buffer, its symbol or the C-plane. -/
structure TxPart where
  turn : Int
  cell : Nat
  b : Nat
  sym : Option Nat
deriving DecidableEq, Repr

/-- Part `x` leaves before part `y`: window opening, then cell, the C-plane of a slot first (R316). -/
def TxPart.before (x y : TxPart) : Bool :=
  decide (x.turn < y.turn) || (x.turn == y.turn && (decide (x.cell < y.cell)
    || (x.cell == y.cell && (decide (x.b < y.b) || (x.b == y.b && decide (x.sym.elim 0 (· + 1) < y.sym.elim 0 (· + 1)))))))

/-- Insert a part into those that leave in order. -/
def insertPart (x : TxPart) : List TxPart → List TxPart
  | [] => [x]
  | y :: ys => if x.before y then x :: y :: ys else y :: insertPart x ys

/-- Open parts of buffer b; no part of the U-plane has its turn before the slot's C-plane. (log 172: DEDUCED) -/
def State.openParts (s : State) (n b : Nat) (x : TxBuf) : List TxPart :=
  let c := s.cOpenAt n x.slot
  (if x.cOpen && !x.cClosed && !x.cDone then [⟨c, n, b, none⟩] else [])
    ++ ((List.range (s.cellGrid n).symsPerSlot).filter fun k => bit x.uOpen k && !bit x.uClosed k && !bit x.uDone k).map
      fun k => ⟨max c (s.uOpenAt n x.slot k), n, b, some k⟩

/-- The buffers of the cells that send on a port. -/
def State.portBufs (s : State) (port : Nat) : List (Nat × Nat) :=
  (s.fhe.tx.rows.filter fun r => s.txOn r.1 && s.fld FHE_CTX_CFG.PORT r.1 == port).flatMap fun r =>
    r.2.bufs.rows.map fun q => (r.1, q.1)

/-- The parts open on a port, in the order in which they leave. (log 172: DEDUCED) -/
def State.portParts (s : State) (port : Nat) : List TxPart :=
  ((s.portBufs port).flatMap fun r => (s.txBuf? r.1 r.2).elim [] (s.openParts r.1 r.2)).foldl (fun ps p => insertPart p ps) []

/-- The section table of a buffer is read once it is ready and a window is open. -/
def State.seeTable (s : State) (n b : Nat) : State :=
  match s.txBuf? n b with
  | some x => if 1 ≤ s.txReady n b ∧ x.table = none ∧ (x.cOpen ∨ x.uOpen ≠ 0) then s.readTable n b x else s
  | none => s

/-- Send a part, if it is ready and its window takes it (R312, R316). -/
def State.sendPart (s : State) (late : Bool) (p : TxPart) : State :=
  match s.txBuf? p.cell p.b with
  | none => s
  | some x =>
    match x.table, p.sym with
    | some es, none => if es = [] ∨ s.txMay p.cell (s.cCloseAt p.cell x.slot) then s.sendC p.cell p.b x es late else s
    | some es, some sym =>
      if ¬x.bad ∧ sym + 2 ≤ s.txReady p.cell p.b ∧ (x.cDone ∨ x.cClosed) ∧ s.txMay p.cell (s.uCloseAt p.cell x.slot sym) then
        s.sendU p.cell p.b x es sym late
      else s
    | none, _ => s

/-- The FHE sends what is ready on the port of cell n, in order; all but the part whose window opens now starts late (R316).
(log 70: DEDUCED; log 172: DEDUCED) -/
def State.txServe (s : State) (n : Nat) (fresh : Option (Nat × Option Nat)) : State :=
  let port := s.fld FHE_CTX_CFG.PORT n
  let s := forEach (s.portBufs port) (fun r s => s.seeTable r.1 r.2) s
  forEach (s.portParts port) (fun p s => s.sendPart (!(p.cell == n && fresh == some (p.b, p.sym))) p) s

/-! ## Window edges -/

/-- The C-plane window of buffer b's slot opens (R314). -/
def State.cplaneOpen (s : State) (n b : Nat) : State :=
  match s.txBuf? n b with
  | none => s
  | some x =>
    if ¬s.txOn n ∨ x.cOpen ∨ s.txNow n < s.cOpenAt n x.slot then s
    else ((s.modTxBuf n b fun x => { x with cOpen := true }).txServe n (some (b, none))).syncTx n

/-- The U-plane window of the slot's next symbol opens (R315). -/
def State.uplaneOpen (s : State) (n b : Nat) : State :=
  match s.txBuf? n b with
  | none => s
  | some x =>
    match firstFrom (fun k => !bit x.uOpen k) 0 (s.cellGrid n).symsPerSlot with
    | none => s
    | some sym =>
      if ¬s.txOn n ∨ s.txNow n < s.uOpenAt n x.slot sym then s
      else ((s.modTxBuf n b fun x => { x with uOpen := x.uOpen ||| 2 ^ sym }).txServe n (some (b, some sym))).syncTx n

/-- A part of buffer b observed ready after its window opened (R316). -/
def State.txPartReady (s : State) (n b : Nat) : State := if s.txOn n ∧ (s.txBuf? n b).isSome then s.txServe n none else s

/-- The event of a slot that had misses (R316). (log 71: DEDUCED) -/
def State.txMissEvent (s : State) (n b : Nat) : State :=
  match s.txBuf? n b with
  | some x =>
    let (f, k) := (s.cellGrid n).split x.slot
    if x.txMiss + x.cpMiss = 0 then s
    else s.event evTxMiss (s.fld FHE_CTX_PTN.PTN n) n [w32 (sfnOf f), w32 k, w32 (x.txMiss + x.cpMiss)]
  | none => s

/-- What closing the C-plane window does: unsent messages count, and the slot's event is due where every other window has closed.
(log 71: DEDUCED) -/
def State.endC (s : State) (n b : Nat) (x : TxBuf) : State :=
  let left := if x.cDone then 0 else secMessages (x.table.getD [])
  let s := (s.modTxBuf n b fun x => { x with cClosed := true }).txCount n b left 0 0 0
  if x.uClosed = 2 ^ (s.cellGrid n).symsPerSlot - 1 then s.txMissEvent n b else s

/-- The C-plane window closes (R316). (log 71: DEDUCED) -/
def State.cplaneClose (s : State) (n b : Nat) : State :=
  match s.txBuf? n b with
  | none => s
  | some x =>
    if ¬s.txOn n ∨ ¬x.cOpen ∨ x.cClosed ∨ s.txNow n < s.cCloseAt n x.slot then s else s.endC n b x

/-- Streams of symbol `sym` that were not sent. -/
def TxBuf.unsent (x : TxBuf) (sym streams : Nat) : List Nat :=
  if bit x.uDone sym then uniq ((x.lost.filter fun r => r.1 == sym).map (·.2))
  else
    match x.table with
    | some es => if x.bad then List.range streams else uniq ((es.filter fun e => secCovers e sym).flatMap secStreams)
    | none => List.range streams

/-- The U-plane window of the slot's next symbol closes (R316): its misses, and after the last one the slot's event.
(log 71: DEDUCED) -/
def State.uplaneClose (s : State) (n b : Nat) : State :=
  let l := (s.cellGrid n).symsPerSlot
  match s.txBuf? n b with
  | none => s
  | some x =>
    match firstFrom (fun k => !bit x.uClosed k) 0 l with
    | none => s
    | some sym =>
      if ¬s.txOn n ∨ s.txNow n < s.uCloseAt n x.slot sym then s
      else
        let (f, k) := (s.cellGrid n).split x.slot
        let miss := (x.unsent sym (s.fld FHE_CTX_CFG.S n)).length
        let s := s.modTxBuf n b fun x =>
          { x with uOpen := x.uOpen ||| 2 ^ sym, uClosed := x.uClosed ||| 2 ^ sym, sent := x.sent + b2n (miss == 0),
                   missed := x.missed + b2n (miss != 0) }
        let s := s.txCount n b 0 0 0 miss
        let s := ((s.setFld FHE_CTX_STAT.SFN (sfnOf f) n).setFld FHE_CTX_STAT.SLOT k n).setFld FHE_CTX_STAT.SYMBOL sym n
        let s := s.syncTx n
        if sym + 1 < l ∨ ¬x.cClosed then s else s.txMissEvent n b

/-! ## TX_SLOT jobs (R318-R321) -/

def fcTxBadParam : Nat := 0x0800
def fcTxNoDeadline : Nat := 0x0801
def fcTxCellOutput : Nat := 0x0802
def fcTxStale : Nat := 0x0803
def fcTxGridOverrun : Nat := 0x0804

/-- Class-specific area of a TX_SLOT record (R320). -/
def txArea (b : Nat) (x : TxBuf) : List Byte :=
  let cap := fun (v w : Nat) => min v (2 ^ w - 1)
  bytesOf 1 (b % 8) ++ bytesOf 1 (b2n x.cClosed + 2 * b2n x.bad) ++ bytesOf 2 x.sent ++ bytesOf 2 x.missed
    ++ bytesOf 2 (cap x.late 16) ++ bytesOf 4 (cap x.cpMiss 32) ++ bytesOf 4 (cap x.flush 32) ++ List.replicate 16 0#8

/-- The area as it stands: of the buffer while it is the job's own, else as it was at reassignment. -/
def State.txAreaOf (s : State) (x : Job) : List Byte :=
  let b := (x.air.slot % (nbufOf (s.fld FHE_CTX_CFG.NBUF x.air.cell) : Int)).toNat
  match (s.txBuf? x.air.cell b).filter fun y => y.slot == x.air.slot with
  | some y => txArea b y
  | none => if x.classArea.isEmpty then txArea b { slot := x.air.slot } else x.classArea

/-- A window close or an assignment of egress is due. (log 3: DEDUCED) -/
def State.txDue (s : State) : Bool :=
  s.fhe.tx.rows.any fun r => s.txOn r.1 && r.2.bufs.rows.any fun q =>
    let x := q.2
    let l := (s.cellGrid r.1).symsPerSlot
    (x.cOpen && !x.cClosed && decide (s.cCloseAt r.1 x.slot ≤ s.txNow r.1))
      || (firstFrom (fun k => !bit x.uClosed k) 0 l).elim true fun sym => decide (s.uCloseAt r.1 x.slot sym ≤ s.txNow r.1)

/-- A held buffer is reassigned (R319): jobs on its slot end, the deadline going first in its own tick. (log 72: DEDUCED) -/
def State.txOverrun (s : State) (n b : Nat) (old : TxBuf) : State :=
  let held := s.jobList.filter fun r => r.2.cls == 1 && r.2.air.cell == n && r.2.air.slot == old.slot
  if held.isEmpty then s
  else
    let s := forEach held (fun r s =>
      let s := s.modJob r.1 fun x => { x with classArea := txArea b old }
      if r.2.phase = .draining then s
      else if r.2.missed s.now then s.missJob r.1
      else if r.2.phase = .running then s.failJob r.1 fcTxGridOverrun
      else s.failJob r.1 fcTxStale) s
    (s.setFld FHE_CTX_STAT.OVERRUN 1 n).event evFheOverrun (s.fld FHE_CTX_PTN.PTN n) n [w32 1, w32 b]

/-- Buffer b is assigned to the slot NBUF later, once the last symbol's window has closed (R312). (log 72: DEDUCED) -/
def State.txAssign (s : State) (n b : Nat) : State :=
  let l := (s.cellGrid n).symsPerSlot
  match s.txBuf? n b with
  | none => s
  | some x =>
    if ¬s.txOn n ∨ x.uClosed ≠ 2 ^ l - 1 then s
    else
      let s := if x.cClosed then s else s.endC n b x
      let s := s.txOverrun n b ((s.txBuf? n b).getD x)
      let s := s.modTxBuf n b fun _ => { slot := x.slot + nbufOf (s.fld FHE_CTX_CFG.NBUF n) }
      ((s.zeroSem (s.fld FHE_CTX_SEM.CLUSTER n) (s.fld FHE_CTX_SEM.FIRST n + b)).refresh).syncTx n

/-- The checks of a TX_SLOT job (R318). -/
def State.txCheck (s : State) (x : Job) : Check :=
  let ps := x.params
  let c := field ps 2 1
  let pos := field ps 4 4
  let ok := decide (64 ≤ ps.length) && field ps 0 2 == 1 && decide (c < 96) && field ps 3 1 == 0
    && bits pos 14 0 == 0 && decide (bits pos 21 15 < (s.cellGrid c).slotsPerFrame) && (((ps.take 64).drop 8).all (· == 0#8))
  if ¬ok then .reject fcTxBadParam
  else if x.deadline = none then .reject fcTxNoDeadline
  else if ¬s.flag FHE_CTX_CFG.EN c ∨ s.fld FHE_CTX_PTN.PTN c ≠ x.ptn then .reject fcTxCellOutput
  else
    let g := s.cellGrid c
    let slot := g.join (g.resolveFrame x.submit (bits pos 31 22) (bits pos 21 15) 0 0) (bits pos 21 15)
    let b := (slot % (nbufOf (s.fld FHE_CTX_CFG.NBUF c) : Int)).toNat
    match s.txBuf? c b with
    | some buf => if slot < buf.slot then .reject fcTxStale else .ok { x with air := { x.air with cell := c, slot := slot } }
    | none => .ok { x with air := { x.air with cell := c, slot := slot } }

/-! ## Enabling (R323, R324) -/

/-- The settings with which EN may be set. (log 73: DEDUCED) -/
def State.ctxValid (s : State) (n : Nat) : Bool :=
  let p := s.fld FHE_CTX_PTN.PTN n
  let nb := s.fld FHE_CTX_CFG.NBUF n
  let kind := s.fld FHE_CTX_TCFG.TYPE n
  let tlen := s.fld FHE_CTX_TCFG.TLEN n
  decide (nb ≠ 0) && compOk (s.flag FHE_CTX_CFG.METH n) (s.fld FHE_CTX_CFG.IQW n) && decide (1 ≤ s.fld FHE_CTX_CFG.S n)
    && decide (s.fld FHE_CTX_CFG.S n ≤ 32) && decide (1 ≤ s.fld FHE_CTX_CFG.NPRB n) && decide (s.fld FHE_CTX_CFG.NPRB n ≤ 275)
    && decide (s.fld FHE_CTX_UWIN.TUP_MIN n < s.fld FHE_CTX_UWIN.TUP_MAX n)
    && decide (s.fld FHE_CTX_CWIN.TCP_MIN n < s.fld FHE_CTX_CWIN.TCP_MAX n) && s.flag FHE_CTX_SEM.V n
    && s.ownsRange p (s.fld FHE_CTX_SEM.CLUSTER n) (s.fld FHE_CTX_SEM.FIRST n) (nbufOf nb)
    && decide (kind ≠ 3) && decide (tmplLeast kind ≤ tlen) && decide (tlen ≤ 62)

/-- Set EN: the template is read, and each buffer takes the first slot of its index whose C-plane window has not opened. -/
def State.ctxEnable (s : State) (n : Nat) : State :=
  if ¬s.ctxValid n then s
  else
    let p := s.fld FHE_CTX_PTN.PTN n
    let va := s.fld FHE_CTX_TMPL_LO.ADDR n * 64 + 2 ^ 32 * s.fld FHE_CTX_TMPL_HI.ADDR n
    match s.vRead p va (s.fld FHE_CTX_TCFG.TLEN n) with
    | (.error (.mmu f), s) => s.mmuFault p va false false (fheWho n) f
    | (.error (.code _), s) => s
    | (.ok t, s) =>
      let nb := nbufOf (s.fld FHE_CTX_CFG.NBUF n)
      let bufs := (List.range nb).map fun b =>
        (b, ({ slot := (s.cellGrid n).nextSlot (s.txNow n) (-(s.fld FHE_CTX_CWIN.TCP_MAX n : Nat)) b nb } : TxBuf))
      let s := { s with fhe := { s.fhe with tx := s.fhe.tx.put n { tmpl := t, bufs := ⟨bufs⟩ } } }
      let s := forEach (List.range nb) (fun b s => s.zeroSem (s.fld FHE_CTX_SEM.CLUSTER n) (s.fld FHE_CTX_SEM.FIRST n + b)) s
      (s.setFld FHE_CTX_CFG.EN 1 n).refresh

/-- A write of FHE_CTX_CFGn from partition `src`: while EN is 1 only one that clears EN. (log 79: DEDUCED; log 156: DEDUCED) -/
def State.ctxCfgWrite (s : State) (src n v : Nat) : State :=
  if ¬s.domOn 74 ∨ src ≠ s.fld FHE_CTX_PTN.PTN n then s
  else if s.flag FHE_CTX_CFG.EN n then
    if bit v 31 then s
    else
      ({ s with fhe := { s.fhe with tx := s.fhe.tx.del n } }.writeReg FHE_CTX_CFG (v % 2 ^ 31) n).syncTx n
  else
    let s := s.writeReg FHE_CTX_CFG (v % 2 ^ 31) n
    if bit v 31 then s.ctxEnable n else s

end Sys2Proof.Machine
end

