-- ==== Sys2Proof/Machine/Gather.lean ====
section
/-! DEFINITION. Gather engines (chapter 14): the checks of GATHER jobs, tables and shards, exact pooling, remote shards, and
updates. -/
namespace Sys2Proof.Machine

/-! ## Fault codes (R338) -/

def fcGthBadParam : Nat := 0x0800
def fcGthBadRange : Nat := 0x0801
def fcGthDenied : Nat := 0x0802
def fcGthBadTable : Nat := 0x0803
def fcGthBadOffsets : Nat := 0x0804
def fcGthRemoteDenied : Nat := 0x0805

/-! ## The parameter block (R329) -/

def Job.gKind (j : Job) : Nat := field j.params 2 1
def Job.gOp (j : Job) : Nat := field j.params 3 1
def Job.gOfmt (j : Job) : Nat := field j.params 4 1
def Job.gClusters (j : Job) : Nat := field j.params 5 1
def Job.gTable (j : Job) : Nat := field j.params 8 6
def Job.gIdx (j : Job) : Nat := field j.params 16 4
def Job.gBags (j : Job) : Nat := field j.params 20 4

/-- (log 62: DEDUCED) -/
def Job.gatherOk (j : Job) : Bool :=
  j.tiles == 0 && j.paramLen == 64 && field j.params 0 2 == 1 && decide (j.gClusters < 16) && zeroBytes j.params 6 8
    && zeroBytes j.params 14 16 && decide (1 ≤ j.gIdx) && decide (j.gIdx ≤ 16777216) && zeroBytes j.params 24 64
    && match j.gKind with
      | 0 => decide (j.gOp ≤ 2) && decide (j.gOfmt ≤ 3) && decide (1 ≤ j.gBags) && decide (j.gBags ≤ 1048576)
      | 1 => decide (j.gOp ≤ 1) && j.gOfmt == 0 && j.gBags == 0
      | _ => false

/-! ## Tables (R325, R326) -/

def tFmt (t : List Byte) : Nat := field t 2 1
def tHash (t : List Byte) : Nat := field t 3 1
def tDim (t : List Byte) : Nat := field t 4 2
def tShards (t : List Byte) : Nat := field t 6 2
def tRows (t : List Byte) : Nat := field t 8 8
def tSeed (t : List Byte) : Nat := field t 16 8
def tScale (t : List Byte) : Nat := field t 24 8
def tPer (t : List Byte) : Nat := field t 32 8
def shardChip (t : List Byte) (k : Nat) : Nat := field t (64 + 16 * k) 2
def shardPtn (t : List Byte) (k : Nat) : Nat := field t (66 + 16 * k) 1
def shardBase (t : List Byte) (k : Nat) : Nat := field t (72 + 16 * k) 8

/-- Bytes of an element, of a row, and from row to row. -/
def eltBytes (fmt : Nat) : Nat := if fmt = 0 then 2 else 1
def strideOf (fmt dim : Nat) : Nat := alignUp (eltBytes fmt * dim) 32

/-- The first 64 bytes of a descriptor are in range. -/
def headOk (t : List Byte) : Bool :=
  let n := tRows t
  field t 0 2 == 1 && decide (tFmt t ≤ 3) && decide (tHash t ≤ 3) && decide (16 ≤ tDim t) && decide (tDim t ≤ 512)
    && tDim t % 16 == 0 && decide (1 ≤ tShards t) && decide (tShards t ≤ 64) && decide (1 ≤ n) && decide (n ≤ 2 ^ 38)
    && (tHash t == 0 || (decide (16 ≤ n) && n == 2 ^ n.log2)) && (tHash t != 0 || tSeed t == 0)
    && (if tFmt t = 3 then decide (tScale t < 2 ^ 48) && tScale t % 64 == 0 else tScale t == 0)
    && decide (1 ≤ tPer t) && decide (tPer t ≤ 2 ^ 32) && decide (n ≤ tShards t * tPer t) && zeroBytes t 40 64
    && decide (tPer t * strideOf (tFmt t) (tDim t) ≤ 2 ^ 37)

/-- A whole descriptor is valid. -/
def tableOk (t : List Byte) : Bool :=
  headOk t && (List.range (tShards t)).all fun k =>
    decide (shardChip t k < 4096) && decide (shardPtn t k < 16) && zeroBytes t (67 + 16 * k) (72 + 16 * k)
      && decide (shardBase t k < 2 ^ 48) && shardBase t k % 64 == 0

/-! ## The checks at fetch (R329, R330) -/

/-- A cluster in which partition p owns a tile. -/
def State.cluOwned (s : State) (p c : Nat) : Bool := (s.tilesOf p).any fun t => t / 16 == c

/-- A CLUSTERS bit names a cluster in which the partition owns no tile. -/
def State.clustersDenied (s : State) (x : Job) : Bool := (bitsSet 4 x.gClusters).any fun c => !s.cluOwned x.ptn c

/-- The lists hold the entries that the kind needs. -/
def Job.gatherCounts (x : Job) : Bool :=
  decide (2 ≤ x.inCount) && (if x.gKind = 0 then decide (1 ≤ x.outCount) else x.outCount == 0)

/-- Bytes of an output element. -/
def ofmtBytes (f : Nat) : Nat := match f with
  | 0 => 4
  | 3 => 1
  | _ => 2

/-- The lists of a job over a table with this head: entries with their lengths. -/
def Job.gatherLists (x : Job) (t : List Byte) : List (Nat × Nat) :=
  let i0 := (x.inList, 8 * x.gIdx)
  if x.gKind = 0 then
    [i0, (x.inList + 32, 4 * (x.gBags + 1)), (x.outList, x.gBags * tDim t * ofmtBytes x.gOfmt)]
  else [i0, (x.inList + 32, x.gIdx * if x.gOp = 0 then strideOf (tFmt t) (tDim t) else 4 * tDim t)]

/-- The checks that do not depend on a table's DIM, where its head is not valid: the entries are linear, those of indices and
offsets of their length; the clusters are owned. (log 62: DEDUCED) -/
def State.gatherFixed (s : State) (x : Job) : Check × State :=
  if ¬x.gatherCounts then (.reject fcGthBadRange, s)
  else
    let fixed := (x.inList, 8 * x.gIdx) :: if x.gKind = 0 then [(x.inList + 32, 4 * (x.gBags + 1))] else []
    let any := if x.gKind = 0 then x.outList else x.inList + 32
    match s.linearEntries x.ptn fixed with
    | (.error e, s) => (.fault e.1 e.2, s)
    | (.ok none, s) => (.reject fcGthBadRange, s)
    | (.ok (some _), s) =>
      match s.getAll x.ptn [(any, 32)] with
      | (.error e, s) => (.fault e.1 e.2, s)
      | (.ok es, s) =>
        if (linearEntry (es.headD [])).isNone then (.reject fcGthBadRange, s)
        else if s.clustersDenied x then (.reject fcGthDenied, s)
        else (.ok x, s)

/-- The checks of class GATHER, in ascending fault code. A descriptor that is not valid is judged when the engine reads
it. (log 62: DEDUCED) -/
def State.gatherCheck (s : State) (x : Job) : Check × State :=
  if ¬x.gatherOk then (.reject fcGthBadParam, s)
  else
    match s.vRead x.ptn x.gTable 64 with
    | (.error e, s) => (.fault x.gTable e, s)
    | (.ok t, s) =>
      if ¬headOk t then s.gatherFixed x
      else if x.gKind = 1 ∧ x.gOp = 1 ∧ tFmt t = 3 then (.reject fcGthBadParam, s)
      else if ¬x.gatherCounts then (.reject fcGthBadRange, s)
      else
        match s.linearEntries x.ptn (x.gatherLists t) with
        | (.error e, s) => (.fault e.1 e.2, s)
        | (.ok none, s) => (.reject fcGthBadRange, s)
        | (.ok (some bl), s) =>
          if s.clustersDenied x then (.reject fcGthDenied, s)
          else (.ok { x with inBlks := bl.take 2, outBlks := bl.drop 2 }, s)

/-! ## Indices (R328) -/

def gatherMult : Nat → Nat
  | 1 => 0x9E3779B97F4A7C15
  | 2 => 0xC2B2AE3D27D4EB4F
  | _ => 0xD6E8FEB86659FD93

def padIndex : Nat := 2 ^ 64 - 1

/-- The logical row of an index that is not padding; none where it is invalid. -/
def rowOf (t : List Byte) (id : Nat) : Option Nat :=
  if tHash t = 0 then if id < tRows t then some id else none
  else some ((id ^^^ tSeed t) * gatherMult (tHash t) % 2 ^ 64 / 2 ^ (64 - (tRows t).log2))

/-- Shard and row within the shard. -/
def placeOf (t : List Byte) (r : Nat) : Nat × Nat := (r / tPer t, r % tPer t)

/-- Virtual address of a row in its owner's context. -/
def rowAddr (base fmt dim row : Nat) : Nat := (base + row * strideOf fmt dim) % 2 ^ 48

/-! ## Pooling (R331) -/

/-- Number of units of an element format: an element's value is a whole number of 2^-n. -/
def lsbLog (fmt : Nat) : Nat :=
  match fmt with
  | 0 => 24
  | 1 => 9
  | 2 => 16
  | _ => 0

/-- Storage code of R153 for a row format. -/
def rowFmt (fmt : Nat) : Nat :=
  match fmt with
  | 0 => 0x08
  | 1 => 0x06
  | 2 => 0x07
  | _ => 0x01

/-- What an element contributes, in units; none for NaN and infinity; and its count. -/
def eltUnits (fmt code : Nat) : Option Int × Cnt :=
  match readCode (rowFmt fmt) code with
  | (.num v, k) => (some ((v.mul (pow2 (lsbLog fmt))).trunc), k)
  | _ => (none, .nan)

/-- The elements of a row's bytes. -/
def rowElts (fmt dim : Nat) (bs : List Byte) : List Nat :=
  (List.range dim).map fun i => field bs (i * eltBytes fmt) (eltBytes fmt)

def GPart.zero (dim : Nat) : GPart := { elems := List.replicate dim (0, none) }

def maxOpt (a b : Option Int) : Option Int :=
  match a, b with
  | none, b => b
  | a, none => a
  | some x, some y => some (max x y)

/-- Pool one row. -/
def GPart.addRow (g : GPart) (fmt dim : Nat) (bs : List Byte) : GPart :=
  let us := (rowElts fmt dim bs).map (eltUnits fmt)
  { elems := List.zipWith (fun (e : Int × Option Int) (u : Option Int × Cnt) => (e.1 + u.1.getD 0, maxOpt e.2 u.1)) g.elems us,
    count := g.count + 1,
    nan := g.nan + (us.filter fun u => u.2 == Cnt.nan).length,
    flush := g.flush + (us.filter fun u => u.2 == Cnt.flush).length }

/-- Combine two partials. -/
def GPart.join (a b : GPart) : GPart :=
  { elems := List.zipWith (fun (x y : Int × Option Int) => (x.1 + y.1, maxOpt x.2 y.2)) a.elems b.elems,
    count := a.count + b.count, nan := a.nan + b.nan, flush := a.flush + b.flush }

/-- An FP32 scale that makes its column 0 (R327). -/
def badScale (c : Nat) : Bool :=
  match fp32.decode c with
  | .fin s m _ => s && m != 0
  | _ => true

/-- The pooled value of column k: none for an element that pools as an empty one. (log 65: DEDUCED) -/
def pooled (t : List Byte) (op : Nat) (scale : Nat) (g : GPart) (e : Int × Option Int) : RV :=
  let unit := pow2 (-(lsbLog (tFmt t) : Int))
  let sc := if tFmt t = 3 then (fp32.decode scale).toQ else ⟨1, 1⟩
  let v : Q := if op = 2 then Q.ofInt (e.2.getD 0) else Q.ofInt e.1
  let v := (v.mul unit).mul sc
  .num (if op = 1 then v.div (Q.ofInt g.count) else v)

/-- Storage code of an output format. -/
def ofmtCode (f : Nat) : Nat :=
  match f with
  | 0 => 0x0A
  | 1 => 0x08
  | 2 => 0x09
  | _ => 0x06

/-- The output elements of a bag and their counts. -/
def bagOut (t : List Byte) (op ofmt : Nat) (scales : List Nat) (g : GPart) : List Byte × Counts :=
  let n := ofmtBytes ofmt
  if g.count = 0 then (List.replicate (n * tDim t) 0#8, {})
  else
    let one := fun (r : Nat × (Int × Option Int)) =>
      let sc := scales.getD r.1 0
      if tFmt t = 3 ∧ badScale sc then (0, Cnt.nan)
      else if r.2.2.isNone then (0, Cnt.none)
      else
        let (c, k, _) := narrowTo (ofmtCode ofmt) (pooled t op sc g r.2)
        (c, k)
    let rs := ((List.range g.elems.length).zip g.elems).map one
    (rs.flatMap fun r => bytesOf n r.1, countAll (rs.map (·.2)))

/-! ## Pooling messages (R333, R334) -/

/-- The rows that a request names of one shard: its owner partition and its base. -/
structure GShard where
  ptn : Nat
  base : Nat
  rows : List Nat
deriving DecidableEq, Repr

/-- A pooling or updating request: operation (0 sum, 1 mean, 2 max, 3 write, 4 add), format, elements, the rows of each shard,
and row bytes or deltas. -/
structure GReq where
  op : Nat
  fmt : Nat
  dim : Nat
  shards : List GShard
  data : List Byte
deriving DecidableEq, Repr

/-- (log 64: DESIGN CHOICE) -/
def GShard.bytes (r : GShard) : List Byte :=
  bytesOf 1 r.ptn ++ List.replicate 3 0#8 ++ bytesOf 4 r.rows.length ++ bytesOf 8 r.base ++ r.rows.flatMap (bytesOf 8)

/-- (log 64: DESIGN CHOICE) -/
def GReq.bytes (r : GReq) : List Byte :=
  bytesOf 1 r.op ++ bytesOf 1 r.fmt ++ bytesOf 2 r.dim ++ bytesOf 4 r.shards.length ++ bytesOf 4 r.data.length
    ++ List.replicate 4 0#8 ++ r.shards.flatMap GShard.bytes ++ r.data

/-- The next `n` shards of a request, and what follows them. (log 64: DESIGN CHOICE) -/
def GShard.parse : Nat → List Byte → List GShard × List Byte
  | 0, bs => ([], bs)
  | n + 1, bs =>
    if bs.isEmpty then ([], [])
    else
      let k := min (field bs 4 4) (bs.length / 8)
      let (rs, rest) := GShard.parse n (bs.drop (16 + 8 * k))
      ({ ptn := field bs 0 1 % 16, base := field bs 8 6, rows := (List.range k).map fun i => field bs (16 + 8 * i) 8 } :: rs, rest)

/-- (log 64: DESIGN CHOICE) -/
def GReq.ofBytes (bs : List Byte) : GReq :=
  let (rs, rest) := GShard.parse (min (field bs 4 4) (bs.length / 16)) (bs.drop 16)
  { op := field bs 0 1, fmt := field bs 1 1 % 4, dim := field bs 2 2, shards := rs, data := rest.take (field bs 8 4) }

/-- A partial on the wire: counts, then 12 bytes an element and, for max, a flag. (log 64: DESIGN CHOICE) -/
def GPart.bytes (g : GPart) (op : Nat) : List Byte :=
  bytesOf 4 g.count ++ bytesOf 4 g.nan ++ bytesOf 4 g.flush ++ List.replicate 4 0#8
    ++ g.elems.flatMap fun e =>
      if op = 2 then bytesOf 12 (toBits 96 (e.2.getD 0)) ++ bytesOf 1 (b2n e.2.isSome) else bytesOf 12 (toBits 96 e.1)

/-- (log 64: DESIGN CHOICE) -/
def GPart.ofBytes (bs : List Byte) (op dim : Nat) : GPart :=
  let one := fun k =>
    if op = 2 then
      let v := sext 96 (field bs (16 + 13 * k) 12)
      ((0 : Int), if field bs (28 + 13 * k) 1 = 1 then some v else none)
    else
      let v := sext 96 (field bs (16 + 12 * k) 12)
      (v, some v)
  { elems := (List.range dim).map one, count := field bs 0 4, nan := field bs 4 4, flush := field bs 8 4 }

/-! ## Rows in memory -/

/-- The local HBM address of a row in a partition's context, page by page: none where a page lies elsewhere. -/
def State.rowLocal (s : State) (p va n : Nat) (write : Bool) : Except MFault Bool × State :=
  let last := va + n - 1
  let one := fun (s : State) (a : Nat) =>
    match s.translate p (a % 2 ^ 48) write with
    | (.ok (g, _), s) => ((.ok (chipOf g == s.chipId && isHbm (localOf g)) : Except MFault Bool), s)
    | (.error f, s) => (.error f, s)
  match one s va with
  | (.ok true, s) => if last / 4096 = va / 4096 then (.ok true, s) else one s last
  | r => r

/-- Why a row could not be read or changed. -/
inductive RowFail where
  | mmu (f : MFault)
  | elsewhere
  | code (c : Nat)
deriving DecidableEq, Repr

def VFault.toRow : VFault → RowFail
  | .mmu f => .mmu f
  | .code c => .code c

/-- (log 63: DEDUCED) -/
def State.readRow (s : State) (p va n : Nat) : Except RowFail (List Byte) × State :=
  match s.rowLocal p va n false with
  | (.error f, s) => (.error (.mmu f), s)
  | (.ok false, s) => (.error .elsewhere, s)
  | (.ok true, s) =>
    match s.vRead p va n with
    | (.ok bs, s) => (.ok bs, s)
    | (.error e, s) => (.error e.toRow, s)

def State.writeRow (s : State) (p va : Nat) (bs : List Byte) : Except RowFail Unit × State :=
  match s.rowLocal p va bs.length true with
  | (.error f, s) => (.error (.mmu f), s)
  | (.ok false, s) => (.error .elsewhere, s)
  | (.ok true, s) =>
    match s.put p va bs with
    | (.ok _, s) => (.ok (), s)
    | (.error e, s) => (.error e.toRow, s)

/-- The exact sum of real values: an infinity wins, two of opposite signs make a NaN. -/
def RV.add (a b : RV) : RV :=
  match a, b with
  | .nan, _ => .nan
  | _, .nan => .nan
  | .inf x, .inf y => if x = y then .inf x else .nan
  | .inf x, _ => .inf x
  | _, .inf y => .inf y
  | .num x, .num y => .num (x.add y)

/-- A row with deltas added: element by element the old value plus the exact sum, rounded once (R336). (log 65: DEDUCED) -/
def addDeltas (fmt dim : Nat) (old : List Byte) (deltas : List (List Byte)) : List Byte × Counts :=
  let one := fun (k c : Nat) =>
    let (v, k0) := readCode (rowFmt fmt) c
    let sum := deltas.foldl (fun (a : RV) d => a.add (fp32.decode (field d (4 * k) 4)).toRV) v
    let (r, k1, _) := narrowTo (rowFmt fmt) sum
    (r, k0.join k1)
  let cs := rowElts fmt dim old
  let rs := ((List.range dim).zip cs).map fun r => one r.1 r.2
  let n := eltBytes fmt * dim
  ((rs.flatMap fun r => bytesOf (eltBytes fmt) r.1) ++ old.drop n, countAll (rs.map (·.2)))

/-- Bytes cut into `n` pieces of `w`. -/
def pieces (w : Nat) : Nat → List Byte → List (List Byte)
  | 0, _ => []
  | n + 1, bs => bs.take w :: pieces w n (bs.drop w)

/-- Change one row: the new bytes of a write, or deltas; the counts of an add. (log 65: DEDUCED) -/
def State.changeRow (s : State) (p va fmt dim : Nat) (add : Bool) (data : List Byte) : Except RowFail Counts × State :=
  let n := strideOf fmt dim
  if add then
    match s.readRow p va n with
    | (.error e, s) => (.error e, s)
    | (.ok old, s) =>
      let (bs, k) := addDeltas fmt dim old (pieces (4 * dim) (data.length / (4 * dim)) data)
      match s.writeRow p va bs with
      | (.ok _, s) => (.ok k, s)
      | (.error e, s) => (.error e, s)
  else
    match s.writeRow p va (fitBytes n data) with
    | (.ok _, s) => (.ok {}, s)
    | (.error e, s) => (.error e, s)

/-! ## The owning endpoint (R334, R336) -/

/-- Serve a pooling message in the owner partition's context: the data of the response, or the code of an ERR_RSP.
(log 63: DEDUCED) -/
def State.poolServe (s : State) (r : GReq) : Except Nat (List Byte) × State :=
  let who : Requester := { kind := 12, unit := 0, handle := 0, job := 0, tag := 0 }
  let fail := fun (s : State) (p va : Nat) (write : Bool) (e : RowFail) =>
    match e with
    | .mmu f => ((.error 6 : Except Nat (List Byte)), s.mmuFault p va write false who f)
    | .elsewhere => (.error 1, s)
    | .code c => (.error (if c = fcParityPersist then 5 else 1), s)
  let places := r.shards.flatMap fun h => h.rows.map fun row => (h.ptn, rowAddr h.base r.fmt r.dim row)
  if r.shards.any fun h => !bit (s.fld YAL_GEXP.GEXP) h.ptn then (.error 1, s)
  else if r.op ≤ 2 then
    let res := places.foldl (fun (a : Except (Nat × Nat × RowFail) GPart × State) q =>
      match a with
      | (.error e, s) => (.error e, s)
      | (.ok g, s) =>
        match s.readRow q.1 q.2 (strideOf r.fmt r.dim) with
        | (.ok bs, s) => (.ok (g.addRow r.fmt r.dim bs), s)
        | (.error e, s) => (.error (q.1, q.2, e), s)) (.ok (GPart.zero r.dim), s)
    match res with
    | (.ok g, s) => (.ok (g.bytes r.op), s)
    | (.error (p, va, e), s) => fail s p va false e
  else
    let (p, va) := places.headD (0, 0)
    match s.changeRow p va r.fmt r.dim (r.op == 4) r.data with
    | (.ok k, s) => (.ok (({ elems := [], count := k.sat, nan := k.nan, flush := k.flush } : GPart).bytes 0), s)
    | (.error e, s) => fail s p va true e

/-! ## Engines -/

def State.gUnit? (s : State) (j : Nat) : Option GUnit := s.gather.units.find? j
def State.setGUnit (s : State) (j : Nat) (u : GUnit) : State :=
  { s with gather := { s.gather with units := s.gather.units.put j u } }
def State.dropGUnit (s : State) (j : Nat) : State :=
  { s with gather := { s.gather with units := s.gather.units.del j } }

def State.gatherWho (s : State) (j c : Nat) : Requester :=
  { kind := 2, unit := c, handle := 0, job := j, tag := ((s.job? j).map Job.tag).getD 0 }

/-- The record's class area (R337). -/
def GUnit.area (u : GUnit) : List Byte :=
  fitBytes 32 (bytesOf 4 u.done ++ bytesOf 4 u.valid ++ bytesOf 4 u.invalid ++ bytesOf 4 u.empty ++ bytesOf 2 u.chips.length)

/-- The job leaves its engine; its piece has ended. -/
def State.gatherLeave (s : State) (j : Nat) : State :=
  match s.gUnit? j with
  | none => s
  | some u => ((s.dropGUnit j).modJob j fun x => { x with classArea := u.area }).taskDone j

/-- The job fails, and leaves its engine once no change that another chip was asked for is outstanding (R336). -/
def State.gatherFail (s : State) (j code : Nat) : State :=
  let s := s.failJob j code
  match s.gUnit? j, s.job? j with
  | some u, some x => if x.gKind = 1 ∧ ¬u.owing.isEmpty then s.setGUnit j { u with wait := false } else s.gatherLeave j
  | _, _ => s.gatherLeave j

/-- An access failed: the engine waits for a resolve, or the job fails. -/
def State.gatherFault (s : State) (j va : Nat) (write : Bool) (e : RowFail) : State :=
  match s.gUnit? j, s.job? j with
  | some u, some x =>
    match e with
    | .mmu f => (s.setGUnit j { u with wait := true }).mmuFault x.ptn va write true (s.gatherWho j u.clu) f
    | .elsewhere => s.gatherFail j fcGthBadTable
    | .code c => s.gatherFail j c
  | _, _ => s

/-- The engine reads the job's table, lists and scales (R325, R330). (log 62: DEDUCED) -/
def State.gatherStart (s : State) (j : Nat) (u : GUnit) (x : Job) : State :=
  match s.vRead x.ptn x.gTable 64 with
  | (.error e, s) => s.gatherFault j x.gTable false e.toRow
  | (.ok h, s) =>
    if ¬headOk h ∨ x.gTable % 64 ≠ 0 then s.gatherFail j fcGthBadTable
    else
      let b := fun k => x.inBlks.getD k (0, 0)
      let more := if tFmt h = 3 then [(tScale h, 4 * tDim h)] else []
      let out := if x.gKind = 0 then [(x.outList, 32)] else []
      match s.getAll x.ptn ([(x.gTable, 64 + 16 * tShards h), b 0, b 1] ++ out ++ more) with
      | (.error (va, e), s) => s.gatherFault j va false e.toRow
      | (.ok ds, s) =>
        let t := ds.getD 0 []
        let idx := (List.range x.gIdx).map fun k => field (ds.getD 1 []) (8 * k) 8
        let ofs := (List.range (x.gBags + 1)).map fun k => field (ds.getD 2 []) (4 * k) 4
        let spans := ofs.zip (ofs.drop 1)
        let good := ofs.headD 1 == 0 && ofs.getLastD 0 == x.gIdx
          && spans.all fun r => decide (r.1 ≤ r.2) && decide (r.2 - r.1 ≤ 65535)
        if ¬tableOk t then s.gatherFail j fcGthBadTable
        else if x.gKind = 0 ∧ ¬good then s.gatherFail j fcGthBadOffsets
        else
          s.setGUnit j { u with ready := true, table := t, idx := idx, ofs := if x.gKind = 0 then ofs else [],
                                rows := if x.gKind = 0 then [] else ds.getD 2 [],
                                sem := if x.gKind = 0 then field (ds.getD 3 []) 20 4 else 0,
                                scales := (List.range (tDim t)).map fun k => field (ds.getD (3 + out.length) []) (4 * k) 4 }

/-! ## Lookups -/

/-- The indices of bag b. -/
def GUnit.bag (u : GUnit) (b : Nat) : List Nat :=
  let lo := u.ofs.getD b 0
  (u.idx.drop lo).take (u.ofs.getD (b + 1) 0 - lo)

/-- The context that a local shard is read in (R326); none where its owner neither runs the job nor exports it.
(log 63: DEDUCED) -/
def State.shardCtx (s : State) (x : Job) (q : Nat) : Option Nat :=
  if q = x.ptn ∨ bit (s.fld YAL_GEXP.GEXP) q then some q else none

/-- Send the pooling request of one chip (R333), for the job's place `k`: the rows of each of its shards. -/
def State.askChip (s : State) (j : Nat) (x : Job) (u : GUnit) (op : Nat) (chip k : Nat) (places : List (Nat × Nat))
    (data : List Byte) : Except Nat State :=
  let shards := (places.map (·.1)).foldl (fun l k => if l.contains k then l else l ++ [k]) []
  let req : GReq := { op := op, fmt := tFmt u.table, dim := tDim u.table, data := data,
                      shards := shards.map fun h =>
                        { ptn := shardPtn u.table h, base := shardBase u.table h,
                          rows := (places.filter fun p => p.1 == h).map (·.2) } }
  let pk : Packet := { dst := chip, srcPtn := x.ptn, src := s.chipId, kind := pkGpoolReq, vc := 5, hops := 0, path := 0,
                       op := 0, len := 0, tag := 0, addr := 0, data := req.bytes }
  match s.requestLong pk { dst := chip, kind := pkGpoolReq, who := 2, a := j, b := chip, c := k } with
  | .error e => .error e
  | .ok s => .ok (s.incSat GTH_CNT1.REMOTE places.length u.clu)

/-- Insert by a key, after equal ones. -/
def insertBy {α : Type} (key : α → Nat) (x : α) : List α → List α
  | [] => [x]
  | y :: ys => if key x < key y then x :: y :: ys else y :: insertBy key x ys

/-- Distinct numbers, ascending. -/
def sortedSet (xs : List Nat) : List Nat := (uniq xs).foldl (fun l x => insertBy id x l) []

/-- Open the bag in progress: its rows are sorted by shard, and every other chip that owns one is asked. -/
def State.openBag (s : State) (j : Nat) (x : Job) (u : GUnit) : State :=
  let ids := (u.bag u.at').filter fun i => i != padIndex
  let rows := ids.filterMap (rowOf u.table)
  let places := (rows.map (placeOf u.table)).foldl (fun l p => insertBy (fun q => q.1) p l) []
  let mine := places.filter fun p => shardChip u.table p.1 == s.chipId
  let away := places.filter fun p => shardChip u.table p.1 != s.chipId
  let chips := sortedSet (away.map fun p => shardChip u.table p.1)
  let u := { u with opened := true, todo := mine, own := GPart.zero (tDim u.table), parts := .empty, owing := chips, flight := 0,
                    invalid := u.invalid + (ids.length - rows.length) }
  let ask := fun (r : Option Nat × State) (c : Nat) =>
    match r.1 with
    | some _ => r
    | none =>
      match r.2.askChip j x u x.gOp c u.at' (away.filter fun p => shardChip u.table p.1 == c) [] with
      | .error e => (some e, r.2)
      | .ok s => (none, s)
  match chips.foldl ask (none, s) with
  | (none, s) => s.setGUnit j u
  | (some e, s) => (s.setGUnit j u).gatherFail j e

/-- Nothing of the bag in progress is missing. -/
def GUnit.bagWhole (u : GUnit) : Bool := u.opened && u.todo.isEmpty && u.owing.isEmpty

/-- Write the bag whose rows have all been pooled, combined in ascending chip id (R335). -/
def State.writeBag (s : State) (j : Nat) (x : Job) (u : GUnit) : State :=
  let all := (u.parts.put s.chipId u.own).rows.map (·.2)
  let g := all.foldl GPart.join (GPart.zero (tDim u.table))
  let (bs, k) := bagOut u.table x.gOp x.gOfmt u.scales g
  let va := (x.outBlks.getD 0 (0, 0)).1 + u.at' * bs.length
  match s.put x.ptn va bs with
  | (.error e, s) => s.gatherFault j va true e.toRow
  | (.ok _, s) =>
    let s := s.modJob j fun y =>
      { y with sat := satAdd y.sat k.sat 0xFFFFFFFF, flush := satAdd y.flush (k.flush + g.flush) 0xFFFFFFFF,
               nan := satAdd y.nan (k.nan + g.nan) 0xFFFFFFFF }
    let s := s.incSat GTH_CNT2.BAGS 1 u.clu
    s.setGUnit j { u with at' := u.at' + 1, opened := false, done := u.done + 1, valid := u.valid + g.count,
                          empty := u.empty + b2n (g.count == 0), out := if x.flag 0 ∨ x.flag 1 then u.out ++ bs else [] }

/-- The whole output has been written, or the whole update performed: the leaves of its blocks, and the piece's end. -/
def State.gatherEnd (s : State) (j : Nat) (x : Job) (u : GUnit) : State :=
  let s := if ¬x.flag 0 then s else
    let s := s.addLeaf j 0 0 (sha256 (u.idx.flatMap (bytesOf 8)))
    s.addLeaf j 0 1 (sha256 (if x.gKind = 0 then u.ofs.flatMap (bytesOf 4) else u.rows))
  let s := if x.gKind = 0 then (s.delivered j 1 0 (x.flag 0) u.out).signalEntry u.sem else s
  s.gatherLeave j

/-- Write, and open, bags for as long as nothing is missing; a stop takes effect at a bag boundary (R332). -/
def State.bags (s : State) (j : Nat) : Nat → State
  | 0 => s
  | n + 1 =>
    match s.gUnit? j, s.job? j with
    | some u, some x =>
      if u.wait then s
      else if u.bagWhole then (s.writeBag j x u).bags j n
      else if u.opened then s
      else if x.phase ≠ .running then s.gatherLeave j
      else if u.at' = x.gBags then s.gatherEnd j x u
      else if s.flag JOB_PQ_STAT.QUIESCED x.ptn then s
      else (s.openBag j x u).bags j n
    | _, _ => s

def bagFuel (u : GUnit) : Nat := 2 * u.ofs.length + 4

/-- Row reads of engine c in flight (GTH_STAT.OUTST). -/
def State.rowsOut (s : State) (c : Nat) : Nat :=
  ((s.gather.units.rows.filter fun r => r.2.clu == c).map fun r => r.2.flight).foldl (· + ·) 0

/-- Row reads that engine c may have in flight (R339, R340). -/
def State.rowsMost (s : State) (c : Nat) : Nat :=
  let n := s.fld GTH_MAXOUT.N c
  if n = 0 ∨ 512 < n then 512 else n

/-- Engine c issues row reads of its open bags, one a turn, up to its limit; `k` bounds them. (log 173: DEDUCED) -/
def State.issueRows (s : State) (c : Nat) : Nat → State
  | 0 => s
  | k + 1 =>
    let more := s.gather.units.rows.filter fun r =>
      r.2.clu == c && !r.2.wait && decide (r.2.flight < r.2.todo.length)
        && !((s.job? r.1).any fun x => s.flag JOB_PQ_STAT.QUIESCED x.ptn)
    match minBy (fun (r : Nat × GUnit) => r.2.flight) more with
    | none => s
    | some (j, u) =>
      if s.rowsMost c ≤ s.rowsOut c then s else (s.setGUnit j { u with flight := u.flight + 1 }).issueRows c k

/-- The read of the next local row returns, and the row is pooled. (log 173: DEDUCED) -/
def State.poolRow (s : State) (j : Nat) (x : Job) (u : GUnit) : State :=
  match u.todo with
  | [] => s
  | (k, row) :: rest =>
    match s.shardCtx x (shardPtn u.table k) with
    | none => s.gatherFail j fcGthRemoteDenied
    | some p =>
      let va := rowAddr (shardBase u.table k) (tFmt u.table) (tDim u.table) row
      match s.readRow p va (strideOf (tFmt u.table) (tDim u.table)) with
      | (.error e, s) => s.gatherFault j va false e
      | (.ok bs, s) =>
        let s := s.incSat GTH_CNT0.ROWS 1 u.clu
        (s.setGUnit j { u with todo := rest, flight := u.flight - 1, own := u.own.addRow (tFmt u.table) (tDim u.table) bs }).bags j (bagFuel u)

/-! ## Updates (R336) -/

/-- The next index of an UPDATE job that changes a row: its place in the list and where the row lies. An add takes each row
once, with every delta addressed to it. -/
def GUnit.nextRow (u : GUnit) (add : Bool) : Option (Nat × (Nat × Nat)) :=
  ((List.range u.idx.length).drop u.at').findSome? fun k =>
    let id := u.idx.getD k padIndex
    if id = padIndex then none
    else
      match rowOf u.table id with
      | none => none
      | some r => if add ∧ u.changed.contains (placeOf u.table r) then none else some (k, placeOf u.table r)

/-- Row bytes of index k, or the deltas of every index that names the row. -/
def GUnit.rowData (u : GUnit) (add : Bool) (k : Nat) (pl : Nat × Nat) : List Byte :=
  if ¬add then
    let w := strideOf (tFmt u.table) (tDim u.table)
    (u.rows.drop (k * w)).take w
  else
    let w := 4 * tDim u.table
    (List.range u.idx.length).flatMap fun i =>
      let id := u.idx.getD i padIndex
      if id ≠ padIndex ∧ (rowOf u.table id).map (placeOf u.table) = some pl then (u.rows.drop (i * w)).take w else []

/-- Where the row of index k lies; none for padding and an invalid index. -/
def GUnit.placeAt (u : GUnit) (k : Nat) : Option (Nat × Nat) :=
  let id := u.idx.getD k padIndex
  if id = padIndex then none else (rowOf u.table id).map (placeOf u.table)

/-- The invalid indices before index k are skipped, and counted. -/
def GUnit.skipTo (u : GUnit) (k : Nat) : GUnit :=
  let ids := (u.idx.take k).drop u.at'
  { u with at' := k, invalid := u.invalid + (ids.filter fun i => i != padIndex && (rowOf u.table i).isNone).length }

/-- Index k has been taken: its row is changed, or asked for. -/
def GUnit.noteRow (u : GUnit) (k : Nat) (pl : Nat × Nat) : GUnit :=
  { u with at' := k + 1, changed := if u.changed.contains pl then u.changed else u.changed ++ [pl] }

/-- The change for index k has been performed: its row, and the indices applied, are counted. -/
def GUnit.applied (u : GUnit) (add : Bool) (k : Nat) : GUnit :=
  match u.placeAt k with
  | none => u
  | some pl =>
    let n := if add then ((List.range u.idx.length).filter fun i => u.placeAt i == some pl).length else 1
    if u.performed.contains pl then { u with valid := u.valid + n }
    else { u with valid := u.valid + n, done := u.done + 1, performed := u.performed ++ [pl] }

/-- The counts of a changed row join the job's totals. -/
def State.rowCounts (s : State) (j : Nat) (k : Counts) : State :=
  s.modJob j fun y =>
    { y with sat := satAdd y.sat k.sat 0xFFFFFFFF, flush := satAdd y.flush k.flush 0xFFFFFFFF,
             nan := satAdd y.nan k.nan 0xFFFFFFFF }

/-- Change the next row; after the last, and once every remote change has been performed, the job ends. -/
def State.updateRow (s : State) (j : Nat) (x : Job) (u : GUnit) : State :=
  let add := x.gOp == 1
  if x.phase ≠ .running then if u.owing.isEmpty then s.gatherLeave j else s
  else
    match u.nextRow add with
    | none =>
      let u := u.skipTo u.idx.length
      if u.owing.isEmpty then s.gatherEnd j x u else s.setGUnit j u
    | some (k, pl) =>
      let u := u.skipTo k
      let s := s.setGUnit j u
      if s.flag JOB_PQ_STAT.QUIESCED x.ptn then s
      else
        let data := u.rowData add k pl
        let chip := shardChip u.table pl.1
        let va := rowAddr (shardBase u.table pl.1) (tFmt u.table) (tDim u.table) pl.2
        if chip = s.chipId then
          match s.shardCtx x (shardPtn u.table pl.1) with
          | none => s.gatherFail j fcGthRemoteDenied
          | some p =>
            match s.changeRow p va (tFmt u.table) (tDim u.table) add data with
            | (.error e, s) => s.gatherFault j va true e
            | (.ok c, s) => ((s.incSat GTH_CNT0.ROWS 1 u.clu).rowCounts j c).setGUnit j ((u.noteRow k pl).applied add k)
        else
          match s.askChip j x u (if add then 4 else 3) chip k [pl] data with
          | .error e => s.gatherFail j e
          | .ok s =>
            let u := u.noteRow k pl
            s.setGUnit j { u with owing := u.owing ++ [chip] }

/-! ## Dispatch and turns (R329, R332) -/

def State.gathersOn (s : State) (c : Nat) : Nat := (s.gather.units.rows.filter fun r => r.2.clu == c).length

/-- The engines that may run the job now: allowed, enabled, its domain ON, with fewer than 4 active jobs. -/
def State.gatherEngines (s : State) (x : Job) : List Nat :=
  (List.range 4).filter fun c =>
    (if x.gClusters % 16 = 0 then s.cluOwned x.ptn c else bit x.gClusters c) && s.flag GTH_CTL.EN c && s.domOn (64 + c)
      && decide (s.gathersOn c < 4)

/-- A GATHER job of partition p starts: the first in the order that an engine can take. -/
def State.dispatchGather (s : State) (p : Nat) : State :=
  let js := s.jobList.filter fun r => r.2.ptn == p && r.2.cls == 6 && s.eligible r.1 r.2 && !(s.gatherEngines r.2).isEmpty
  match s.firstJob js with
  | none => s
  | some (j, x) =>
    match minBy s.gathersOn (s.gatherEngines x) with
    | none => s
    | some c =>
      let u : GUnit := { clu := c }
      let s := (s.dispatched j 1).setGUnit j u
      s.gatherStart j u x

/-- The next of an engine's jobs of a kind, from the one after that served last, round-robin. -/
def State.gatherTurn (s : State) (c kind : Nat) : Option (Nat × GUnit) :=
  let mine := s.gather.units.rows.filter fun r =>
    r.2.clu == c && !r.2.wait && ((s.job? r.1).map Job.gKind) == some kind
  match mine.find? fun r => decide (s.gather.rr.getD c 0 < r.1) with
  | some r => some r
  | none => mine.head?

/-- One turn of engine c for a job of a kind. -/
def State.gatherStep (s : State) (c kind : Nat) : State :=
  if ¬s.domOn (64 + c) then s
  else
    match s.gatherTurn c kind with
    | none => s
    | some (j, u) =>
      let s := { s with gather := { s.gather with rr := s.gather.rr.put c j } }
      match s.job? j with
      | none => s.dropGUnit j
      | some x =>
        if ¬u.ready then if x.phase = .running then s.gatherStart j u x else s.gatherLeave j
        else if kind = 1 then s.updateRow j x u
        else if u.opened ∧ ¬u.todo.isEmpty then
          if s.flag JOB_PQ_STAT.QUIESCED x.ptn ∨ u.flight = 0 then s else s.poolRow j x u
        else s.bags j (bagFuel u)

/-- Engine c issues the row reads it may, takes a turn for a job of a kind, and issues on. -/
def State.engineStep (s : State) (c kind : Nat) : State :=
  if s.domOn (64 + c) then (((s.issueRows c 512).gatherStep c kind).issueRows c 512) else s

/-- A pooling request of job j to a chip failed. -/
def State.poolLost (s : State) (j chip code : Nat) : State :=
  match s.gUnit? j with
  | some u => (s.setGUnit j { u with owing := u.owing.erase chip }).gatherFail j code
  | none => s

/-- The response to a pooling request of job j from a chip, for place k of the job: a partial, or the performance of a change. -/
def State.poolAnswer (s : State) (j chip k : Nat) (bs : List Byte) : State :=
  match s.gUnit? j, s.job? j with
  | some u, some x =>
    let u := { u with owing := u.owing.erase chip, chips := if u.chips.contains chip then u.chips else u.chips ++ [chip] }
    if x.gKind = 0 then
      let g := GPart.ofBytes bs x.gOp (tDim u.table)
      let old := u.parts.getD chip (GPart.zero (tDim u.table))
      (s.setGUnit j { u with parts := u.parts.put chip (old.join g) }).bags j (bagFuel u)
    else
      let g := GPart.ofBytes bs 0 0
      let s := (s.setGUnit j (u.applied (x.gOp == 1) k)).rowCounts j { sat := g.count, flush := g.flush, nan := g.nan }
      if x.phase ≠ .running ∧ u.owing.isEmpty then s.gatherLeave j else s
  | _, _ => s

end Sys2Proof.Machine
end

