-- ==== Sys2Proof/Machine/JobFetch.lean ====
section
/-! DEFINITION. Rings and descriptors (R68-R78, R82, R83): ring enables, doorbells, the fetch of a descriptor with its
checks, and the acceptance of the job. -/
namespace Sys2Proof.Machine

/-! ## The fault codes of a rejection (R86, R419) -/

def fcBadDesc : Nat := 0x0001
def fcBadClass : Nat := 0x0002
def fcBadHandle : Nat := 0x0003
def fcObjInvalid : Nat := 0x0004
def fcCellDisabled : Nat := 0x0005
def fcLaunchRange : Nat := 0x0006
def fcGenRepeat : Nat := 0x0007
def fcTileDenied : Nat := 0x0009
def fcSemDenied : Nat := 0x000A
def fcRearmCollapsed : Nat := 0x0011
def fcCancelledBelay : Nat := 0x0012
def fcPartitionHalted : Nat := 0x0013
def fcDigestSpace : Nat := 0x0040
def fcLockstepCfg : Nat := 0x0041
def fcDigestList : Nat := 0x0042

/-- A write of partition p's JOB registers takes effect (R99). -/
def State.jobWriter (s : State) (src p : Nat) : Bool := src == p || src == s.manager

/-! ## Rings (R69-R73) -/

/-- Records that EQ held are written, once it is enabled and its write fault is cleared. (log 86: DEDUCED) -/
def State.flushEvents (s : State) (p : Nat) : State :=
  let held := (s.jobPtn p).eqHeld
  let s := s.modJobPtn p fun j => { j with eqHeld := [] }
  let (s, more) := held.foldl (fun (a : MsiResult) r =>
    let (s, more) := a.1.eqAppend p r
    (s, a.2 ++ more)) (s, [])
  s.raiseAll more

/-- LOG2SIZE and EN of a ring's CFG after a write: EN ignores a size that is not 6 to 16. -/
def ringCfg (on : Bool) (log2 value : Nat) : Bool × Nat :=
  if on then (bit value 31, log2)
  else
    let lg := value % 32
    (bit value 31 && decide (6 ≤ lg) && decide (lg ≤ 16), lg)

/-- A write of the CFG register of a submission ring. -/
def State.sqCfg (s : State) (p r value : Nat) : State :=
  let on := s.flag JOB_SQ_CFG.EN p r
  let (en, lg) := ringCfg on (s.fld JOB_SQ_CFG.LOG2SIZE p r) value
  let s := (s.setFld JOB_SQ_CFG.EN (b2n en) p r).setFld JOB_SQ_CFG.LOG2SIZE lg p r
  if en && !on then
    let s := (s.setReg JOB_SQ_HEAD 0 p r).setReg JOB_SQ_TAIL 0 p r
    { s with job := { s.job with coverage := s.job.coverage.filter fun c => !(c.ptn == p && c.ring == r),
                                 cancels := s.job.cancels.filter fun c => !(c.ptn == p && c.ring == r) } }
  else s

/-- A write of JOB_CQ_CFG. -/
def State.cqCfg (s : State) (p value : Nat) : State :=
  let on := s.flag JOB_CQ_CFG.EN p
  let (en, lg) := ringCfg on (s.fld JOB_CQ_CFG.LOG2SIZE p) value
  let s := (s.setFld JOB_CQ_CFG.EN (b2n en) p).setFld JOB_CQ_CFG.LOG2SIZE lg p
  let s := (s.setFld JOB_CQ_CFG.IRQ_EN (bits value 30 30) p).setFld JOB_CQ_CFG.IRQ_CNT (bits value 23 12) p
  if en && !on then ((s.setReg JOB_CQ_HEAD 0 p).setReg JOB_CQ_TAIL 0 p).setFld JOB_CQ_STAT.FULL 0 p else s

/-- A write of JOB_EQ_CFG. -/
def State.eqCfg (s : State) (p value : Nat) : State :=
  let on := s.flag JOB_EQ_CFG.EN p
  let (en, lg) := ringCfg on (s.fld JOB_EQ_CFG.LOG2SIZE p) value
  let s := (s.setFld JOB_EQ_CFG.EN (b2n en) p).setFld JOB_EQ_CFG.LOG2SIZE lg p
  let s := (s.setFld JOB_EQ_CFG.IRQ_EN (bits value 30 30) p).setFld JOB_EQ_CFG.IRQ_CNT (bits value 23 12) p
  if en && !on then
    (((s.setReg JOB_EQ_HEAD 0 p).setReg JOB_EQ_TAIL 0 p).setFld JOB_EQ_STAT.FULL 0 p).flushEvents p
  else s

/-- A write of the CFG register of a ring of partition p: 0-15 the submission rings, 16 CQ, 17 EQ (R69, R99). -/
def State.ringEnable (s : State) (src p ring value : Nat) : State :=
  if ¬s.jobWriter src p then s
  else if ring < 16 then s.sqCfg p ring value
  else if ring = 16 then s.cqCfg p value
  else s.eqCfg p value

/-- A submission doorbell write (R71-R73). -/
def State.sqDoorbell (s : State) (src p r tail : Nat) : State :=
  if src ≠ p ∨ ¬s.flag JOB_SQ_CFG.EN p r then s
  else
    let old := s.reg JOB_SQ_TAIL p r
    let size := ringSize (s.fld JOB_SQ_CFG.LOG2SIZE p r)
    if dist32 tail (s.reg JOB_SQ_HEAD p r) ≤ size ∧ dist32 tail old ≤ size then
      let s := s.setReg JOB_SQ_TAIL tail p r
      if tail = old then s
      else { s with job := { s.job with coverage := s.job.coverage ++ [⟨p, r, tail, s.now⟩] } }
    else (s.setFld JOB_SQ_STAT.OVERPOST 1 p r).event evOverpost p r []

/-- A head count moves forward by no more than what has been written (R72). -/
def headMoves (tail old head : Nat) : Bool := decide (dist32 tail head ≤ dist32 tail old)

/-- A completion doorbell write. (log 11: DESIGN CHOICE) -/
def State.cqDoorbell (s : State) (src p head : Nat) : State :=
  if src ≠ p ∨ ¬s.flag JOB_CQ_CFG.EN p then s
  else if headMoves (s.reg JOB_CQ_TAIL p) (s.reg JOB_CQ_HEAD p) head then
    (s.setReg JOB_CQ_HEAD head p).setFld JOB_CQ_STAT.FULL
      (b2n (decide (ringSize (s.fld JOB_CQ_CFG.LOG2SIZE p) ≤ dist32 (s.reg JOB_CQ_TAIL p) head))) p
  else (s.setFld JOB_CQ_STAT.OVERPOST 1 p).event evOverpost p 16 []

/-- An event doorbell write. (log 11: DESIGN CHOICE) -/
def State.eqDoorbell (s : State) (src p head : Nat) : State :=
  if src ≠ p ∨ ¬s.flag JOB_EQ_CFG.EN p then s
  else if headMoves (s.reg JOB_EQ_TAIL p) (s.reg JOB_EQ_HEAD p) head then
    (s.setReg JOB_EQ_HEAD head p).setFld JOB_EQ_STAT.FULL
      (b2n (decide (ringSize (s.fld JOB_EQ_CFG.LOG2SIZE p) ≤ dist32 (s.reg JOB_EQ_TAIL p) head))) p
  else (s.setFld JOB_EQ_STAT.OVERPOST 1 p).event evOverpost p 17 []

/-! ## What a descriptor must look like (R76-R78) -/

def Job.cell (x : Job) : Nat := bits (field x.desc 20 4) 31 25
def Job.dlSfn (x : Job) : Nat := bits (field x.desc 20 4) 24 15
def Job.dlSlot (x : Job) : Nat := bits (field x.desc 20 4) 14 8
def Job.dlSym (x : Job) : Nat := bits (field x.desc 20 4) 7 4
def Job.dlOfs (x : Job) : Int := sext 32 (field x.desc 16 4)

/-- Fields that a DL_KIND allows. (log 84: DEDUCED) -/
def Job.deadlineOk (x : Job) : Bool :=
  match x.dlKind with
  | 0 => field x.desc 16 8 == 0
  | 1 => true
  | 2 => decide (x.dlOfs.natAbs < 10000000) && bits (field x.desc 20 4) 3 0 == 0 && decide (x.cell < 96)
  | _ => false

/-- The descriptor's own fields are in order. -/
def Job.descOk (x : Job) : Bool :=
  let d := x.desc
  field d 0 1 / 16 == 0 && field d 1 1 / 8 == 0 && field d 2 2 / 512 == 0 && x.deadlineOk && (x.flag 4 || x.series == 0)
    && zeroBytes d 11 16 && zeroBytes d 38 40 && zeroBytes d 54 56 && zeroBytes d 62 64 && zeroBytes d 110 112
    && zeroBytes d 116 128 && x.inList % 32 == 0 && x.outList % 32 == 0 && x.param % 8 == 0 && decide (x.paramLen ≤ 65536)
    && ((List.range 4).all fun k => semEntryOk (x.semWait k) && semEntryOk (x.semSig k))
    && (x.cls != 8 || field d 64 4 == x.outCount)

/-- The deadline's position lies on its cell's timeline. (log 84: DEDUCED) -/
def State.onGrid (s : State) (x : Job) : Bool :=
  let g := s.cellGrid x.cell
  x.dlKind != 2 || !s.cellOn x.cell || (decide (x.dlSlot < g.slotsPerFrame) && decide (x.dlSym < g.symsPerSlot))

/-- What a class requires of a handle. -/
inductive Need where
  | required | optional | none
deriving DecidableEq, Repr

/-- PROG, MODEL and FALLBACK of a class (R77). -/
def classNeeds : Nat → Need × Need × Need
  | 0 => (.required, .optional, .required)
  | 1 => (.required, .optional, .none)
  | 2 => (.required, .optional, .none)
  | 3 => (.required, .optional, .none)
  | 4 => (.none, .optional, .none)
  | 7 => (.required, .required, .none)
  | _ => (.none, .none, .none)

def handleOk : Need → Nat → Bool
  | .required, h => decide (h < 4096)
  | .optional, h => decide (h < 4096) || h == 0xFFFF
  | .none, h => h == 0xFFFF

def Job.handlesOk (x : Job) : Bool :=
  let (a, b, c) := classNeeds x.cls
  handleOk a x.prog && handleOk b x.model && handleOk c x.fallback

/-- The table entries of the objects that the job names, as they stand (R90). (log 87: DEDUCED) -/
def State.readObjects (s : State) (x : Job) : Except (Nat × VFault) (List (List Byte)) × State :=
  let base := s.addrOf JOB_OT_BASE_LO JOB_OT_BASE_HI x.ptn
  s.getAll x.ptn (([x.prog, x.model, x.fallback].filter (· != 0xFFFF)).map fun h => (base + 64 * h, 64))

/-- The job with its objects bound (R433). (log 87: DEDUCED) -/
def Job.bind (x : Job) (objs : List (List Byte)) : Job :=
  let n := fun (h : Nat) => b2n (h != 0xFFFF)
  let pick := fun (h k : Nat) => if h = 0xFFFF then [] else objs.getD k []
  { x with progObj := pick x.prog 0, modelObj := pick x.model (n x.prog), fbObj := pick x.fallback (n x.prog + n x.model) }

def objState (e : List Byte) : Nat := field e 1 1

/-- The objects have the types that the handles need. -/
def Job.typesOk (x : Job) : Bool :=
  (x.prog == 0xFFFF || objType x.progObj == 1) && (x.model == 0xFFFF || x.cls == 4 || objType x.modelObj == 2)
    && (x.fallback == 0xFFFF || objType x.fbObj == 1)

/-- Every object is VALID. -/
def Job.objectsOk (x : Job) : Bool :=
  (x.prog == 0xFFFF || objState x.progObj == 2) && (x.model == 0xFFFF || objState x.modelObj == 2)
    && (x.fallback == 0xFFFF || objState x.fbObj == 2)

/-! ## Deadline and launch (R55, R61, R62) -/

/-- The resolved deadline, in units. -/
def State.deadlineOf (s : State) (x : Job) : Option Nat :=
  match x.dlKind with
  | 1 =>
    let total := s.atu.sec.toNat * 1000000000 + s.atu.ns.toNat
    some ((total / 2 ^ 64 * 2 ^ 64 + field x.desc 16 8) * nsUnit)
  | 2 =>
    let g := s.cellGrid x.cell
    some (g.posTime (g.resolveFrame x.submit x.dlSfn x.dlSlot x.dlSym x.dlOfs) x.dlSlot x.dlSym x.dlOfs)
  | _ => none

/-- LAUNCH_NS lies more than 2^31 ns ahead. (log 84: DEDUCED) -/
def State.launchFar (s : State) (x : Job) : Bool := x.flag 5 && decide (s.count + 2 ^ 31 < x.launchNs)

/-! ## Digest space (R418-R420) -/

/-- LOCKSTEP or DIGEST cannot be served, whatever the lists hold. -/
def State.digestReject (s : State) (x : Job) : Option Nat :=
  let need := if x.flag 0 then 32 * (x.inCount + x.outCount) else 0
  if (x.flag 0 || x.flag 1) && (!s.flag DGT_SCR_CFG.EN x.ptn || decide (2 ^ s.fld DGT_SCR_CFG.LOG2SIZE x.ptn < need)) then
    some fcDigestSpace
  else if x.flag 1 && (!x.flag 5 || !s.flag DGT_ROPE.V x.ptn) then some fcLockstepCfg
  else none

/-! ## Series (R83) -/

/-- The jobs of a series: the active one is 1, the pending one 2. -/
def State.seriesJob (s : State) (x : Job) (place : Nat) : Option (Nat × Job) :=
  s.jobList.find? fun r => r.2.ptn == x.ptn && r.2.flag 4 && r.2.series == x.series && r.2.inSeries == place

def State.genRepeats (s : State) (x : Job) : Bool :=
  x.flag 4 && [1, 2].any fun k => ((s.seriesJob x k).map fun r => r.2.gen) == some x.gen

/-! ## The checks in order -/

/-- Bytes of PARAM that JOB reads at fetch: what it checks, and what its class's engine takes. -/
def Job.paramBytes (x : Job) : Nat :=
  match x.cls with
  | 1 => min 64 x.paramLen
  | 7 => 0
  | 8 => 0
  | 9 => 0
  | _ => x.paramLen

/-- The checks that a class adds. (log 83: DEDUCED) -/
def State.classCheck (s : State) (x : Job) : Check × State :=
  match x.cls with
  | 0 => s.rxCheck x
  | 1 => (s.txCheck x, s)
  | 2 => (s.praCheck x, s)
  | 3 => s.rxCheck x
  | 4 => s.codingCheck x
  | 5 => s.codingCheck x
  | 6 => s.gatherCheck x
  | _ => (.ok x, s)

/-- A class whose tasks run on tiles. -/
def tileClass (c : Nat) : Bool := c == 0 || c == 1 || c == 2 || c == 3 || c == 7 || c == 8

/-- The job names a semaphore, in a wait, a signal or a unit, that its partition does not own. -/
def State.semsDenied (s : State) (x : Job) : Bool :=
  ((x.waits ++ x.signals).any fun e => !s.ownsSem x.ptn (semClu e) (semIx e)) || s.unitsDenied x

/-- What is judged once a job's parameters are in order. (log 83: DEDUCED) -/
def State.lateCheck (s : State) (x : Job) : Check :=
  let named := bitsSet 64 x.tiles
  if named.any fun t => !s.ownsTile x.ptn t then .reject fcTileDenied
  else if tileClass x.cls && named.any fun t => s.fld SYS_TMAP.STATE t == 2 then .reject fcTileOffline
  else if s.semsDenied x then .reject fcSemDenied
  else if s.launchFar x then .reject fcLaunchRange
  else if s.genRepeats x then .reject fcGenRepeat
  else .ok x

/-- All checks of a descriptor that has been copied. (log 83: DEDUCED) -/
def State.checkJob (s : State) (x : Job) : Check × State :=
  if ¬x.descOk ∨ ¬s.onGrid x then (.reject fcBadDesc, s)
  else if 9 < x.cls then (.reject fcBadClass, s)
  else if ¬x.handlesOk then (.reject fcBadHandle, s)
  else
    match s.readObjects x with
    | (.error e, s) => (.fault e.1 e.2, s)
    | (.ok objs, s) =>
      let x := x.bind objs
      if ¬x.typesOk then (.reject fcBadHandle, s)
      else if ¬x.objectsOk then (.reject fcObjInvalid, s)
      else
        match s.digestReject x with
        | some c => (.reject c, s)
        | none =>
          if x.dlKind = 2 ∧ ¬s.cellOn x.cell then (.reject fcCellDisabled, s)
          else
            match s.vRead x.ptn x.param x.paramBytes with
            | (.error e, s) => (.fault x.param e, s)
            | (.ok ps, s) =>
              match s.classCheck { x with params := ps, deadline := s.deadlineOf x } with
              | (.ok x, s) => (s.lateCheck x, s)
              | r => r

/-! ## Acceptance -/

/-- A job joins its series: the place it takes, and what becomes of the pending job. -/
def State.joinSeries (s : State) (j : Nat) (x : Job) : State :=
  if ¬x.flag 4 then s.putJob j x
  else
    match s.seriesJob x 1, s.seriesJob x 2 with
    | none, _ => s.putJob j { x with inSeries := 1 }
    | some _, none => s.putJob j { x with inSeries := 2, phase := .pending }
    | some _, some (k, _) =>
      let s := (s.endJob k stCollapsed fcRearmCollapsed).incSat JOB_PQ_CNT.REARM_COLLAPSED 1 x.ptn
      s.putJob j { x with inSeries := 2, phase := .pending }

/-- The candidate block of a PRACH_OCC job has been lost (R266). -/
def State.blockLost (s : State) (x : Job) : Bool :=
  match s.pra.find? x.air.cell with
  | some c => match c.entryOf x.occasion with
    | some (_, e) => e.lost
    | none => false
  | none => false

/-- An accepted job joins its series; a deadline already passed, or a lost block, fails it at once (R82, R266). -/
def State.acceptJob (s : State) (j : Nat) (x : Job) : State :=
  let x := { x with launched := x.flag 5 && decide (x.launchNs < s.count) }
  let s := s.joinSeries j x
  let s := if x.missed s.now then s.missJob j
    else if x.cls = 2 ∧ s.blockLost x then s.failJob j fcMmuFault
    else s
  s.refresh

/-- A consumed entry that is not accepted: its record is due. (log 85: DEDUCED) -/
def State.refuseJob (s : State) (j : Nat) (x : Job) (status code : Nat) : State :=
  (s.putJob j { x with posted := true, phase := .draining, status := status, fault := code, endTs := some s.now,
                       endNo := s.job.nextEnd }).countEnd

/-! ## The fetch (R74, R75) -/

/-- Why the entry at a ring's head is cancelled, if it is (R94). (log 86: DEDUCED) -/
def State.cancelOf (s : State) (p r : Nat) : Option Nat :=
  let h := s.reg JOB_SQ_HEAD p r
  (s.job.cancels.find? fun c =>
    c.ptn == p && c.ring == r && decide (1 ≤ dist32 c.tail h) && decide (dist32 c.tail h ≤ 65536)).map fun c => c.fault

/-- Jobs of partition p: those accepted, and all that are owed a record. -/
def State.acceptedOf (s : State) (p : Nat) : Nat := (s.jobList.filter fun r => r.2.ptn == p && !r.2.posted).length
def State.owedOf (s : State) (p : Nat) : Nat := (s.jobList.filter fun r => r.2.ptn == p).length
def State.acceptedAll (s : State) : Nat := (s.jobList.filter fun r => !r.2.posted).length

/-- A descriptor can be fetched from ring r of partition p. (log 66: DEDUCED) -/
def State.canFetch (s : State) (p r : Nat) : Bool :=
  let cancelled := (s.cancelOf p r).isSome
  let room := decide (s.owedOf p + dist32 (s.reg JOB_CQ_TAIL p) (s.reg JOB_CQ_HEAD p) < ringSize (s.fld JOB_CQ_CFG.LOG2SIZE p))
  let quota := decide (s.acceptedOf p < min 8192 (s.fld JOB_PQ_CFG.QUOTA p)) && decide (s.acceptedAll < 8192)
  s.ptnOn p && s.power.stop.isNone && s.flag JOB_SQ_CFG.EN p r && s.reg JOB_SQ_TAIL p r != s.reg JOB_SQ_HEAD p r
    && !s.flag JOB_SQ_STAT.FETCH_FAULT p r && room
    && (cancelled || (s.flag JOB_CTL.EN && !s.flag JOB_PQ_STAT.HALTED p && quota))

/-- The ring whose turn it is, and how many descriptors its turn has taken with this one (R74). -/
def State.fetchRing (s : State) (p : Nat) : Option (Nat × Nat) :=
  let j := s.jobPtn p
  if j.rrTaken < 8 ∧ s.canFetch p j.rrRing then some (j.rrRing, j.rrTaken + 1)
  else (firstFrom (fun k => s.canFetch p ((j.rrRing + 1 + k) % 16)) 0 16).map fun k => ((j.rrRing + 1 + k) % 16, 1)

/-- The submission time of the entry at a ring's head (R73). -/
def State.submitTime (s : State) (p r : Nat) : Nat :=
  let h := s.reg JOB_SQ_HEAD p r
  match s.job.coverage.find? fun c => c.ptn == p && c.ring == r && decide (1 ≤ dist32 c.tail h) && decide (dist32 c.tail h ≤ 65536) with
  | some c => c.time
  | none => s.now

/-- The head of a ring passes one entry. -/
def State.advanceHead (s : State) (p r : Nat) : State :=
  let h := (s.reg JOB_SQ_HEAD p r + 1) % 2 ^ 32
  let s := s.setReg JOB_SQ_HEAD h p r
  { s with job := { s.job with coverage := s.job.coverage.filter fun c => !(c.ptn == p && c.ring == r && c.tail == h),
                               cancels := s.job.cancels.filter fun c => !(c.ptn == p && c.ring == r && c.tail == h) } }

/-- A fetch faults: the ring stops at this entry (R75). (log 66: DEDUCED) -/
def State.fetchFault (s : State) (p r va : Nat) (e : VFault) : State :=
  let s := s.setFld JOB_SQ_STAT.FETCH_FAULT 1 p r
  let s := s.event evFetchFault p r []
  match e with
  | .mmu f => s.mmuFault p va false false jobRequester f
  | .code _ => s

/-- Fetch the entry at the head of ring r. (log 66: DEDUCED) -/
def State.fetchFrom (s : State) (p r : Nat) : State :=
  let h := s.reg JOB_SQ_HEAD p r
  let va := s.addrOf JOB_SQ_BASE_LO JOB_SQ_BASE_HI p r + 128 * (h % ringSize (s.fld JOB_SQ_CFG.LOG2SIZE p r))
  match s.vRead p va 128 with
  | (.error e, s) => s.fetchFault p r va e
  | (.ok d, s) =>
    let j := s.job.nextSeq
    let x : Job := { ptn := p, ring := r, seq := j, desc := d, submit := s.submitTime p r, deadline := none, phase := .waiting }
    let took := fun (s : State) => { (s.advanceHead p r) with job := { (s.advanceHead p r).job with nextSeq := j + 1 } }
    match s.cancelOf p r with
    | some c => (took s).refuseJob j x stCancelled c
    | none =>
      match s.checkJob x with
      | (.fault va e, s) => s.fetchFault p r va e
      | (.reject c, s) => (took s).refuseJob j x stRejected c
      | (.ok x, s) => (took s).acceptJob j x

/-- JOB fetches one descriptor of partition p. -/
def State.fetchDescriptor (s : State) (p : Nat) : State :=
  match s.fetchRing p with
  | none => s
  | some (r, n) => (s.modJobPtn p fun j => { j with rrRing := r, rrTaken := n }).fetchFrom p r

end Sys2Proof.Machine
end

