-- ==== Sys2Proof/Machine/JobRun.lean ====
section
/-! DEFINITION. Jobs at work: their tasks and where they go (R344-R349, R61), the digest area (R418), the completion record
(R80, R84-R88), the objects that a record releases (R91). -/
namespace Sys2Proof.Machine

/-! ## Migratable tasks (R349) -/

/-- The byte at an address translates to HBM of this device. -/
def State.inHbm (s : State) (p va : Nat) : Bool × State :=
  match s.translate p va false with
  | (.ok (g, _), s) => (chipOf g == s.chipId && isHbm (localOf g), s)
  | (.error _, s) => (false, s)

/-- The first byte of an input entry, of its block, and of the traverse that it names, lie there. (log 92: DEDUCED) -/
def State.entryInHbm (s : State) (x : Job) (e : Nat) : Bool × State :=
  let got : Bool × Except VFault (List Byte) × State := match x.suppliedEntry 1 false false with
    | some bs => (true, .ok bs, s)
    | none =>
      let (near, s) := s.inHbm x.ptn (x.inList + 32 * e)
      (near, s.vRead x.ptn (x.inList + 32 * e) 32)
  match got with
  | (false, _, s) => (false, s)
  | (true, .error _, s) => (false, s)
  | (true, .ok bs, s) =>
    match parseEntry bs 0 false with
    | none => (false, s)
    | some b =>
      match s.inHbm x.ptn b.addr with
      | (false, s) => (false, s)
      | (true, s) => match b.trav with
        | none => (true, s)
        | some a => s.inHbm x.ptn a

def State.entriesInHbm (s : State) (x : Job) (e : Nat) : Nat → Bool × State
  | 0 => (true, s)
  | n + 1 => match s.entryInHbm x e with
    | (false, s) => (false, s)
    | (true, s) => s.entriesInHbm x (e + 1) n

/-- The tasks of a job are migratable. (log 92: DEDUCED) -/
def State.migratable (s : State) (x : Job) : Bool × State :=
  if bit (s.fld PTN_CFG.MIGR x.ptn) x.ring then s.entriesInHbm x 0 x.inCount else (false, s)

/-! ## Dispatch (R79, R81, R344) -/

/-- What becomes of an eligible job now: tiles for its tasks, a failure, or nothing yet. -/
inductive Placing where
  | tiles (ts : List Nat)
  | offline
  | wait
deriving DecidableEq, Repr

/-- (log 92: DEDUCED) -/
def State.placing (s : State) (x : Job) : Placing :=
  let named := bitsSet 64 x.tiles
  let room := fun (t : Nat) => s.tileOpen t && decide (s.queueLen t < 64)
  if x.cls = 9 then .tiles []
  else if ¬tileClass x.cls then .wait
  else if named.any fun t => s.fld SYS_TMAP.STATE t == 2 then .offline
  else if x.cls = 8 ∨ named = [] then
    match minBy s.queueLen ((if named = [] then s.tilesOf x.ptn else named).filter s.tileOpen) with
    | some t => if room t then .tiles [t] else .wait
    | none => .wait
  else if named.all room then .tiles named
  else .wait

/-- Put the tasks of a job that has been dispatched into their queues: those of a launched job at their head.
(log 93: DEDUCED) -/
def State.placeTasks (s : State) (j : Nat) (fb migr : Bool) (ts : List Nat) : State :=
  match s.job? j with
  | none => s
  | some x =>
    forEach ((List.range ts.length).zip ts) (fun r s =>
      let k : Task := { job := j, index := r.1, fallback := fb, migratable := migr, copy := x.cls == 8 }
      s.modTile r.2 fun y =>
        { y with queue :=
            if fb || (x.flag 5 && !x.launchLate) then insertHead { task := k, slot := none, head := true } y.queue
            else s.insertTask k y.queue }) s

/-- An RX_SLOT job that is first dispatched after its watermark runs its fallback from the start (R250). (log 84: DEDUCED) -/
def State.startLate (s : State) (j : Nat) (x : Job) : Bool × State :=
  if x.cls = 0 ∧ s.watermark x ≤ s.now then
    (true, s.modJob j fun x =>
      { x with air := { x.air with judged := true, pend := x.pendMask, fbTs := some s.now, path := x.air.path ||| 4 },
               rflags := setFlagBit x.rflags rfFallback })
  else (false, s)

/-- FENCE jobs complete once no job fetched earlier from their ring is left (R77). -/
def State.endFences (s : State) : State :=
  forEach s.jobList (fun r s =>
    let x := r.2
    let earlier := s.jobList.any fun q => q.2.ptn == x.ptn && q.2.ring == x.ring && decide (q.2.seq < x.seq)
    if x.cls = 9 ∧ x.phase = .running ∧ ¬earlier then s.workEnded r.1 else s) s

/-- Hand a held DIGEST packet of a job's peer to it (R422). -/
def State.adoptHeld (s : State) (j : Nat) : State :=
  match s.job? j, s.dgt? j with
  | some x, some d =>
    if ¬x.flag 1 then s
    else
      let mine := fun (h : HeldPkt) => h.src == s.fld DGT_ROPE.PEER_CHIP x.ptn && h.srcPtn == s.fld DGT_ROPE.PEER_PTN x.ptn
        && field h.data 0 4 == x.tag && field h.data 4 1 == x.gen
      let d := (s.dgt.held.filter mine).foldl (fun d h => d.receive h.data) d
      let s := s.putDgt j d
      { s with dgt := { s.dgt with held := s.dgt.held.filter fun h => !mine h } }
  | _, _ => s

/-- Dispatch job j onto tiles. (log 93: DEDUCED) -/
def State.dispatchOn (s : State) (j : Nat) (x : Job) (ts : List Nat) : State :=
  let (migr, s) := if x.cls = 9 then (false, s) else s.migratable x
  let s := s.dispatched j ts.length
  let s := s.modJob j fun x => { x with air := { x.air with tiles := ts }, migr := migr }
  let s := if x.cls = 2 then s.praDispatch j else s
  let (fb, s) := s.startLate j x
  let s := s.adoptHeld j
  (s.placeTasks j fb migr ts).endFences

/-- JOB dispatches one job of partition p: the first in the order that can be placed, or that names a tile gone OFFLINE. -/
def State.dispatchJob (s : State) (p : Nat) : State :=
  let js := s.jobList.filter fun r => r.2.ptn == p && s.eligible r.1 r.2 && decide (s.placing r.2 ≠ .wait)
  match s.firstJob js with
  | none => s
  | some (j, x) =>
    match s.placing x with
    | .tiles ts => s.dispatchOn j x ts
    | .offline => s.failJob j fcTileOffline
    | .wait => s

/-- A job with LAUNCH is released, and its tasks placed if nothing else holds it (R61). -/
def State.launchRelease (s : State) (j : Nat) : State :=
  match s.job? j with
  | none => s
  | some x =>
    if ¬x.flag 5 ∨ x.launched ∨ x.phase = .draining ∨ s.count < x.launchNs then s
    else
      let s := (s.putJob j { x with launched := true }).refresh
      let s := s.modJob j fun x => { x with launchLate := false }
      match s.job? j with
      | none => s
      | some x =>
        if s.eligible j x then
          match s.placing x with
          | .tiles ts => s.dispatchOn j x ts
          | .offline => s.failJob j fcTileOffline
          | .wait => s
        else s

/-- The deadline of a job passes (R82). (log 3: DEDUCED) -/
def State.deadlineExpiry (s : State) (j : Nat) : State :=
  match s.job? j with
  | some x => if x.missed s.now ∧ ¬s.txDue then s.missJob j else s
  | none => s

/-! ## The completion record (R80, R84-R88) -/

/-- The class-specific area. -/
def State.classAreaOf (s : State) (x : Job) : List Byte :=
  if x.cls = 7 ∨ x.cls = 8 ∨ x.cls = 9 then (x.desc.drop 40).take 8
  else if x.posted then []
  else if x.cls = 0 ∨ x.cls = 3 then s.rxAreaOf x
  else if x.cls = 1 then s.txAreaOf x
  else x.classArea

/-- The record of job j with byte 0 zero. -/
def State.recordOf (s : State) (x : Job) (digest : List Byte) : List Byte :=
  let last := x.endTs.getD 0
  bytesOf 1 0 ++ bytesOf 1 x.status ++ bytesOf 2 x.fault ++ bytesOf 4 x.tag ++ bytesOf 1 x.gen ++ bytesOf 1 (field x.desc 0 1)
    ++ bytesOf 1 x.ring ++ bytesOf 1 0 ++ bytesOf 2 x.rflags ++ bytesOf 2 (s.reg JOB_SQ_HEAD x.ptn x.ring)
    ++ bytesOf 4 (stamp32 (x.startTs.getD last)) ++ bytesOf 4 (stamp32 last) ++ bytesOf 4 x.sat ++ bytesOf 4 x.flush
    ++ bytesOf 4 x.nan ++ bytesOf 4 x.replay ++ fitBytes 32 (s.classAreaOf x) ++ fitBytes 32 digest ++ bytesOf 9 x.ptMask
    ++ bytesOf 3 x.decMask ++ bytesOf 2 x.codecMask ++ bytesOf 1 x.praMask ++ bytesOf 9 0

/-- The job's signals, once: those whose semaphores the partition owns, for a success or with SIG_ON_FAIL. The entries of a
descriptor that was found faulty are not used. (log 85: DEDUCED) -/
def State.applySignals (s : State) (j : Nat) (x : Job) : State :=
  let bad := decide (x.status = stRejected) && (x.fault == fcBadDesc || x.fault == fcSemDenied)
  if x.signalled ∨ bad ∨ (0x10 ≤ x.status ∧ ¬x.flag 8) then s.modJob j fun x => { x with signalled := true }
  else
    let s := s.modJob j fun x => { x with signalled := true }
    forEach (x.signals.filter fun e => s.ownsSem x.ptn (semClu e) (semIx e) && semCount e != 0) (fun e s => s.signalEntry e) s

/-- Write an object's STATE byte; one that faults is lost, with its record. (log 87: DEDUCED) -/
def State.setObject (s : State) (p h st : Nat) : State :=
  let va := s.addrOf JOB_OT_BASE_LO JOB_OT_BASE_HI p + 64 * h + 1
  match s.put p va (bytesOf 1 st) with
  | (.error (.mmu f), s) => s.mmuFault p va true false { kind := 10, unit := 0, handle := h, job := 0, tag := 0 } f
  | (_, s) => s

/-- An OBJECT event. -/
def State.objectEvent (s : State) (p h st : Nat) : State :=
  s.event evObject p h [w32 st, w32 (s.fld JOB_OT_STAT.ERR p)]

/-- An accepted job names object h. -/
def State.objectNamed (s : State) (p h : Nat) : Bool :=
  s.jobList.any fun r => r.2.ptn == p && !r.2.posted && (r.2.prog == h || r.2.model == h || r.2.fallback == h)

/-- Objects retired that no accepted job names become FREE (R91). -/
def State.freeObjects (s : State) (p : Nat) : State :=
  forEach ((s.jobPtn p).retiring.filter fun h => !s.objectNamed p h) (fun h s =>
    ((s.modJobPtn p fun y => { y with retiring := y.retiring.erase h }).setObject p h 0).objectEvent p h 0) s

/-- A record has been written: the MSI of R88. -/
def State.recordMsi (s : State) (p : Nat) (irq : Bool) : State :=
  let n := (s.jobPtn p).cqSince + 1
  let due := s.flag JOB_CQ_CFG.IRQ_EN p && (irqDue n (s.fld JOB_CQ_CFG.IRQ_CNT p) || irq)
  let s := s.modJobPtn p fun y => { y with cqSince := if due then 0 else n, cqAt := if n = 1 then s.atu.ticks else y.cqAt }
  if due then (s.msiReg p 5 (s.reg JOB_CQ_MSI p)).done else s

/-- The pending job of the series becomes active (R83). -/
def State.nextInSeries (s : State) (x : Job) : State :=
  if ¬x.flag 4 ∨ x.inSeries ≠ 1 then s
  else
    match s.seriesJob x 2 with
    | some (k, y) => s.putJob k { y with inSeries := 1, phase := .waiting }
    | none => s

/-- Job j is gone: what its record releases. -/
def State.recorded (s : State) (j : Nat) (x : Job) : State :=
  let s := s.freeArea j x.ptn
  let s := { s with job := { s.job with jobs := s.job.jobs.del j } }
  (((s.nextInSeries x).freeObjects x.ptn).endFences).refresh

/-- The security engine keeps the digests of the 16 most recent records that have one (R479). -/
def State.keepDigest (s : State) (p : Nat) (d : Nat × Nat × List Byte) : State :=
  if s.domOn 78 then
    { s with sec := { s.sec with digests := s.sec.digests.put p ((d :: s.sec.digests.getD p []).take 16) } }
  else s

/-- Write the record of job j into CQ: bytes 64-127 first (R87). (log 181: DESIGN CHOICE) -/
def State.writeRecord (s : State) (j : Nat) (x : Job) : State :=
  let p := x.ptn
  if ¬s.flag JOB_CQ_CFG.EN p ∨ s.flag JOB_CQ_STAT.WRITE_FAULT p then s
  else
    let lg := s.fld JOB_CQ_CFG.LOG2SIZE p
    let tail := s.reg JOB_CQ_TAIL p
    let va := s.addrOf JOB_CQ_BASE_LO JOB_CQ_BASE_HI p + 128 * (tail % ringSize lg)
    let digest := if bit x.rflags rfDigestValid then ((s.dgt? j).bind fun d => d.digest).getD [] else []
    let r := withByte0 (phaseBit tail lg) (s.recordOf x digest)
    match s.put p (va + 64) (r.drop 64) with
    | (.error (.mmu f), s) => (s.setFld JOB_CQ_STAT.WRITE_FAULT 1 p).mmuFault p (va + 64) true false jobRequester f
    | (_, s) =>
      match s.put p va (r.take 64) with
      | (.error (.mmu f), s) => (s.setFld JOB_CQ_STAT.WRITE_FAULT 1 p).mmuFault p va true false jobRequester f
      | (_, s) =>
        let s := s.setReg JOB_CQ_TAIL (tail + 1) p
        let s := s.setFld JOB_CQ_STAT.FULL (b2n (decide (ringSize lg ≤ dist32 (tail + 1) (s.reg JOB_CQ_HEAD p)))) p
        let s := if bit x.rflags rfDigestValid then (s.incSat DGT_DIGESTS.COUNT 1 p).keepDigest p (x.tag, x.gen, digest) else s
        (s.recorded j x).recordMsi p (x.flag 6)

/-- DGT sends the END packet of a LOCKSTEP job, once (R421). -/
def State.sendEnd (s : State) (j : Nat) (x : Job) (d : DgtJob) : State :=
  if d.endSent then s
  else
    let s := s.putDgt j { d with endSent := true, endAt := s.atu.ticks }
    s.sendDigest x.ptn (digestData x 1 d.chunks.rows.length (x.status % 256) zero32)

/-- The result digest is complete, if the job has one (R417). -/
def State.digestReady (s : State) (j : Nat) (x : Job) : Bool :=
  !x.flag 0 || decide (0x10 ≤ x.status) || ((s.dgt? j).map fun d => d.digestDone).getD true

/-- A LOCKSTEP job that has been dispatched waits for its comparison. -/
def State.comparing (s : State) (j : Nat) (x : Job) : Bool :=
  x.flag 1 && x.startTs.isSome && ((s.dgt? j).map fun d => !d.compared).getD false

/-- Job j may be recorded: no job of its partition that ended before it is ready for its record (R87). (log 166: DEDUCED) -/
def State.recordTurn (s : State) (j : Nat) (x : Job) : Bool :=
  s.jobList.all fun r =>
    r.1 == j || r.2.ptn != x.ptn || r.2.phase != .draining || r.2.endTs.isNone || decide (x.endNo ≤ r.2.endNo)
      || !s.digestReady r.1 r.2 || s.comparing r.1 r.2

/-- A DECODE job with HARQ ends FAILED or CANCELLED: the contents of its HARQ regions are free (R284). (log 57: DEDUCED) -/
def State.harqOpen (s : State) (x : Job) : State :=
  if x.cls ≠ 4 ∨ x.harqBase.isNone ∨ (x.status ≠ stFailed ∧ x.status ≠ stCancelled) then s
  else
    let (v, s1) := s.draw
    let n := x.lcode.c * x.regionLen
    match s1.pagesLocal x.ptn (x.par 16 6) n true with
    | (.ok true, s2) => (s2.put x.ptn (x.par 16 6) (bytesOf n v)).2
    | _ => s

/-- A conflict among the leaves of a job that has no digest, since it was cancelled or failed, counts too (R417). -/
def State.failedConflict (s : State) (j : Nat) (x : Job) : State :=
  match s.dgt? j with
  | none => s
  | some d =>
    if ¬x.flag 0 ∨ x.status < 0x10 then s
    else
      match d.conflict x.inCount x.outCount with
      | some (l, e) => s.noteConflict j x l e
      | none => s

/-- Job j's record, in its turn. -/
def State.recordJob (s : State) (j : Nat) (x : Job) : State :=
  if s.recordTurn j x then ((s.failedConflict j x).harqOpen x).writeRecord j x else s

/-- A job whose work has ended: its signals, then its record (R80, R417, R423). -/
def State.completeJob (s : State) (j : Nat) : State :=
  match s.job? j with
  | none => s
  | some x =>
    if x.phase ≠ .draining ∨ x.endTs.isNone ∨ ¬s.digestReady j x then s
    else
      let s := s.applySignals j x
      match s.job? j, s.dgt? j with
      | some x, some d => if s.comparing j x then s.sendEnd j x d else s.recordJob j x
      | some x, none => s.recordJob j x
      | none, _ => s

/-- The timer of a ring has run out (R88): 16 CQ, 17 EQ. (log 165: DEDUCED) -/
def State.irqTimer (s : State) (p : Nat) (events : Bool) : State :=
  let on := if events then s.flag JOB_EQ_CFG.IRQ_EN p && s.fld JOB_EQ_IRQ.IRQ_TIME p != 0 && (s.jobPtn p).eqSince != 0
        && s.passed (s.jobPtn p).eqAt (s.fld JOB_EQ_IRQ.IRQ_TIME p * ticksPerUs)
    else s.flag JOB_CQ_CFG.IRQ_EN p && s.fld JOB_CQ_IRQ.IRQ_TIME p != 0 && (s.jobPtn p).cqSince != 0
        && s.passed (s.jobPtn p).cqAt (s.fld JOB_CQ_IRQ.IRQ_TIME p * ticksPerUs)
  if ¬on then s
  else
    let s := s.modJobPtn p fun y => if events then { y with eqSince := 0 } else { y with cqSince := 0 }
    (s.msiReg p 5 (if events then s.reg JOB_EQ_MSI p else s.reg JOB_CQ_MSI p)).done

/-! ## The object table (R90, R91) -/

/-- A REGISTER command. (log 88: DEDUCED) -/
def State.objectRegister (s : State) (src p h : Nat) : State :=
  if ¬s.jobWriter src p then s
  else if s.flag JOB_OT_STAT.BUSY p then s.setFld JOB_OT_STAT.ERR 1 p
  else
    let s := ((s.setFld JOB_OT_STAT.BUSY 1 p).setFld JOB_OT_STAT.ERR 0 p).setFld JOB_OT_STAT.INDEX h p
    (s.modJobPtn p fun y => { y with otBusy := some h, otWait := false }).setObject p h 1

/-- The registration in progress ends. (log 88: DEDUCED; log 181: DESIGN CHOICE) -/
def State.objectEnd (s : State) (p h err : Nat) : State :=
  let s := (s.setFld JOB_OT_STAT.BUSY 0 p).setFld JOB_OT_STAT.ERR err p
  let s := s.modJobPtn p fun y => { y with otBusy := none, otWait := false }
  (s.setObject p h (if err = 0 then 2 else 4)).objectEvent p h (if err = 0 then 2 else 4)

/-- LENGTH and IMAGE that a type allows. -/
def objectSizeOk (e : List Byte) : Bool :=
  let n := field e 4 4
  let ok := if objType e = 1 then decide (32 ≤ n) && decide (n ≤ 131072) && n % 32 == 0 else n != 0
  ok && decide (field e 8 8 < 2 ^ 48) && field e 8 8 % 32 == 0

/-- The image is read and its digest written; a translation fault of the image waits for its resolve (R388). -/
def State.objectRead (s : State) (p : Nat) : State :=
  match (s.jobPtn p).otBusy with
  | none => s
  | some h =>
    if (s.jobPtn p).otWait then s
    else
      let who : Requester := { kind := 10, unit := 0, handle := h, job := 0, tag := 0 }
      let va := s.addrOf JOB_OT_BASE_LO JOB_OT_BASE_HI p + 64 * h
      match s.vRead p va 64 with
      | (.error (.mmu f), s) => (s.mmuFault p va false false who f).objectEnd p h 4
      | (.error (.code _), s) => s.objectEnd p h 4
      | (.ok e, s) =>
        if objType e ≠ 1 ∧ objType e ≠ 2 then s.objectEnd p h 2
        else if ¬objectSizeOk e then s.objectEnd p h 3
        else
          match s.vRead p (field e 8 6) (field e 4 4) with
          | (.error (.mmu f), s) =>
            (s.mmuFault p (field e 8 6) false true who f).modJobPtn p fun y => { y with otWait := true }
          | (.error (.code _), s) => s.objectEnd p h 4
          | (.ok bs, s) =>
            match s.put p (va + 32) (sha256 bs) with
            | (.error (.mmu f), s) => (s.mmuFault p (va + 32) true false who f).objectEnd p h 4
            | (_, s) => s.objectEnd p h 0

/-- A RETIRE command. -/
def State.objectRetire (s : State) (src p h : Nat) : State :=
  if ¬s.jobWriter src p then s
  else if s.flag JOB_OT_STAT.BUSY p then s.setFld JOB_OT_STAT.ERR 1 p
  else
    let s := (s.setFld JOB_OT_STAT.ERR 0 p).setFld JOB_OT_STAT.INDEX h p
    let va := s.addrOf JOB_OT_BASE_LO JOB_OT_BASE_HI p + 64 * h
    match s.vRead p va 64 with
    | (.error (.mmu f), s) =>
      (s.mmuFault p va false false { kind := 10, unit := 0, handle := h, job := 0, tag := 0 } f).setFld JOB_OT_STAT.ERR 4 p
    | (.error (.code _), s) => s.setFld JOB_OT_STAT.ERR 4 p
    | (.ok e, s) =>
      if objState e ≠ 2 then s.setFld JOB_OT_STAT.ERR 5 p
      else
        ((s.setObject p h 3).modJobPtn p fun y => { y with retiring := y.retiring ++ [h] }).freeObjects p

end Sys2Proof.Machine
end

