-- ==== Sys2Proof/Machine/Belay.lean ====
section
/-! DEFINITION. The belay lane (R92-R98): commands, their queue, their forwarding, what each operation does, BELAY_DONE. -/
namespace Sys2Proof.Machine

/-! ## Packets of the lane (R93, R96; the layout of their data is the model's) -/

/-- A BELAY packet: OP 0 a command, 1 the notice that a forwarded command is done, 2 that it was refused.
(log 90: DESIGN CHOICE) -/
def State.belayPacket (s : State) (dst ptn op seq : Nat) (data : List Byte) : Packet :=
  { dst := dst, srcPtn := ptn, src := s.chipId, kind := pkBelay, vc := 0, hops := 0, path := 0, op := op, len := 7,
    tag := seq, addr := 0, data := data }

/-- Send it, or hold it while it has no path, since the ticks given (R405). (log 116: DEDUCED) -/
def State.sendBelayAt (s : State) (p : Packet) (since : Nat) : State :=
  match s.originate p with
  | .ok s => s
  | .error _ => { s with yal := { s.yal with belays := s.yal.belays ++ [(p, since)] } }

def State.sendBelay (s : State) (p : Packet) : State := s.sendBelayAt p s.atu.ticks

/-- The 64-bit command. (log 90: DESIGN CHOICE) -/
def BelayCmd.word (c : BelayCmd) : Nat := c.op * 2 ^ 60 + c.chip * 2 ^ 48 + c.ptn * 2 ^ 44 + c.argA * 2 ^ 32 + c.argB

/-- (log 90: DESIGN CHOICE) -/
def BelayCmd.ofWord (w : Nat) (origin : Option (Nat × Nat)) (now : Nat) : BelayCmd :=
  { op := bits w 63 60, chip := bits w 59 48, ptn := bits w 47 44, argA := bits w 43 32, argB := bits w 31 0, seq := 0,
    origin := origin, arrived := now }

/-! ## The queue (R95) -/

/-- The command is for this device. -/
def State.belayLocal (s : State) (c : BelayCmd) : Bool := c.origin.isSome || c.chip == s.chipId

/-- (log 91: DEDUCED) -/
def State.belayDrop (s : State) (p w : Nat) : State := s.event evBelayDrop p 0 [w64 w]

/-- A command enters partition p's queue, is merged with a halt already there, or is refused. `seq` is the sequence number
that a forwarded command brings. (log 91: DEDUCED) -/
def State.belayAccept (s : State) (p : Nat) (c : BelayCmd) (seq : Option Nat) : State :=
  let y := s.jobPtn p
  let same := fun (d : BelayCmd) => d.op == 5 && s.belayLocal d == s.belayLocal c && d.chip == c.chip && d.ptn == c.ptn
  if c.op = 5 ∧ y.belay.any same then s
  else if (c.op ≠ 5 ∧ 62 < y.belay.length) ∨ 64 ≤ y.belay.length then
    (s.incSat JOB_PQ_CNT.BL_DROP 1 p).belayDrop p c.word
  else
    let n := (y.belaySeq + 1) % 65536
    s.setJobPtn p { y with belay := y.belay ++ [{ c with seq := seq.getD n }], belaySeq := n }

/-- A 64-bit write at the belay doorbell page of partition p (R71, R93). (log 91: DEDUCED; log 180: DESIGN CHOICE) -/
def State.belayEnqueue (s : State) (src p w : Nat) : State :=
  if src ≠ p then s
  else
    let c := BelayCmd.ofWord w none s.now
    if c.op = 0 ∨ 5 < c.op then s.belayDrop p w
    else if c.chip = s.chipId then if c.ptn = p then s.belayAccept p c none else s.belayDrop p w
    else if s.fld SYS_CHIPID.ID_SET = 0 then s.belayDrop p w
    else s.belayAccept p c none

/-- A BELAY packet that has reached its destination. -/
def State.belayArrive (s : State) (p : Packet) : State :=
  let me := s.chipId
  if p.op = 1 then
    (s.setFld JOB_BL_STAT.DONE_SEQ p.tag p.srcPtn).event evBelayDone p.srcPtn p.tag [w32 me]
  else if p.op = 2 then s.event evBelayRefused p.srcPtn (field p.data 0 1) [w32 me]
  else
    let w := field p.data 0 8
    let c := BelayCmd.ofWord w (some (p.src, p.srcPtn)) s.now
    if ¬s.flag JOB_PQ_CFG.BL_REMOTE_EN c.ptn then
      (s.event evBelayRefused c.ptn c.ptn [w32 p.src]).sendBelay (s.belayPacket p.src p.srcPtn 2 p.tag (bytesOf 8 c.ptn))
    else if c.op = 0 ∨ 5 < c.op then s.belayDrop c.ptn w
    else s.belayAccept c.ptn c (some p.tag)

/-! ## Execution (R94-R96) -/

/-- Note that a command has been executed: what its BELAY_DONE waits for, and how long a local one took. -/
def State.belayRan (s : State) (p : Nat) (c : BelayCmd) (jobs : List Nat) (rings : List (Nat × Nat)) (drain : Bool)
    (links : List Nat) : State :=
  let s := s.modJobPtn p fun y =>
    { y with belayWaits := y.belayWaits ++ [{ seq := c.seq, origin := c.origin, jobs := jobs, rings := rings, drain := drain,
                                              links := links }] }
  if c.origin.isSome then s
  else
    let t := (s.now - c.arrived) / nsUnit
    s.setReg JOB_BL_MAXLAT (max (s.reg JOB_BL_MAXLAT) (min t (2 ^ 32 - 1)))

/-- The command at the front of partition p's queue, if it has operation `op`, is executed; one for another device is
forwarded. -/
def State.belayRun (s : State) (p op : Nat) (eff : BelayCmd → State → State) : State :=
  match (s.jobPtn p).belay with
  | [] => s
  | c :: rest =>
    if c.op ≠ op then s
    else
      let s' := s.modJobPtn p fun y => { y with belay := rest }
      if s.belayLocal c then eff c s'
      else s'.sendBelay (s.belayPacket c.chip p 0 c.seq (bytesOf 8 c.word))

/-- Partition p's flows stop on a port. (log 91: DEDUCED; log 112: DEDUCED) -/
def State.stopPort (s : State) (p kind port : Nat) (halt : Bool) : State :=
  let stop : PortStop := { ptn := p, kind := kind, port := port, halt := halt, whole := p == s.manager }
  if stop ∈ s.job.stops then s else { s with job := { s.job with stops := s.job.stops ++ [stop] } }.holdUnbegun

def State.belayStopPort (s : State) (p : Nat) : State :=
  s.belayRun p 1 fun c s =>
    let kind := bits c.argA 11 8
    let port := bits c.argA 3 0
    let s := if kind = 0 ∨ (kind = 1 ∧ port < 8) then s.stopPort p kind port false else s
    s.belayRan p c [] [] false (if kind = 1 then [port] else [])

/-- Jobs of partition p that satisfy `f` are cancelled: their numbers. -/
def State.cancelJobs (s : State) (p code : Nat) (f : Job → Bool) : List Nat × State :=
  let js := (s.jobList.filter fun r => r.2.ptn == p && f r.2).map fun r => r.1
  (js, forEach js (fun j s => s.endJob j stCancelled code) s)

/-- The entries posted to a ring are cancelled up to its tail. (log 86: DEDUCED) -/
def State.cancelPosted (s : State) (p code : Nat) (rings : List Nat) : List (Nat × Nat) × State :=
  let rs := rings.filter fun r => s.flag JOB_SQ_CFG.EN p r && s.reg JOB_SQ_TAIL p r != s.reg JOB_SQ_HEAD p r
  let cs := rs.map fun r => ({ ptn := p, ring := r, tail := s.reg JOB_SQ_TAIL p r, fault := code } : Cancel)
  (cs.map fun c => (c.ring, c.tail), { s with job := { s.job with cancels := s.job.cancels ++ cs } })

def State.belayCancelTag (s : State) (p : Nat) : State :=
  s.belayRun p 2 fun c s =>
    let n := 2 ^ bits c.argA 4 0
    let (js, s) := s.cancelJobs p fcCancelledBelay fun x => !x.posted && x.tag / n == c.argB / n
    s.belayRan p c js [] false []

def State.belayCancelRing (s : State) (p : Nat) : State :=
  s.belayRun p 3 fun c s =>
    let r := bits c.argA 3 0
    let (js, s) := s.cancelJobs p fcCancelledBelay fun x => !x.posted && x.ring == r
    let (rs, s) := s.cancelPosted p fcCancelledBelay [r]
    s.belayRan p c js rs false []

def State.belayQuiesce (s : State) (p : Nat) : State :=
  s.belayRun p 4 fun c s => (s.setFld JOB_PQ_STAT.QUIESCED 1 p).belayRan p c [] [] true []

def State.belayHalt (s : State) (p : Nat) : State :=
  s.belayRun p 5 fun c s =>
    let s := s.setFld JOB_PQ_STAT.HALTED 1 p
    let (js, s) := s.cancelJobs p fcPartitionHalted fun x => !x.posted
    let (rs, s) := s.cancelPosted p fcPartitionHalted (List.range 16)
    let s := forEach (List.range 16) (fun k s => s.stopPort p 0 k true) s
    let s := forEach (List.range 8) (fun k s => s.stopPort p 1 k true) s
    s.belayRan p c js rs true (List.range 8)

/-- No stream request of the partition's tasks, and no pooling request of its jobs, is in flight. -/
def State.ptnQuiet (s : State) (p : Nat) : Bool :=
  (s.tiles.rows.all fun r => r.2.reqs.isEmpty || s.taskPtn r.1 != p)
    && s.gather.units.rows.all fun r => r.2.owing.isEmpty || ((s.job? r.1).map fun (x : Job) => x.ptn) != some p

/-- What a BELAY_DONE waits for is done. -/
def State.belayReady (s : State) (p : Nat) (w : BelayWait) : Bool :=
  (w.jobs.all fun j => (s.job? j).isNone)
    && (w.rings.all fun r => !s.job.cancels.any fun c => c.ptn == p && c.ring == r.1 && c.tail == r.2)
    && (!s.jobList.any fun r => r.2.ptn == p && r.2.posted && w.rings.any fun q => q.1 == r.2.ring)
    && (!w.drain || s.ptnQuiet p)
    && (w.links.all fun k => !s.begunOn k)

/-- The first executed command whose draining and records are done reports it (R96). -/
def State.belayDone (s : State) (p : Nat) : State :=
  match (s.jobPtn p).belayWaits.find? fun w => s.belayReady p w with
  | none => s
  | some w =>
    let s := s.modJobPtn p fun y => { y with belayWaits := y.belayWaits.erase w }
    let s := s.setFld JOB_BL_STAT.DONE_SEQ w.seq p
    let chip := match w.origin with
      | some o => o.1
      | none => s.chipId
    let s := s.event evBelayDone p w.seq [w32 chip]
    match w.origin with
    | some o => s.sendBelay (s.belayPacket o.1 o.2 1 w.seq (bytesOf 8 0))
    | none => s

/-- A command that sets the same state is still queued (R98). -/
def State.belayQueued (s : State) (p op : Nat) : Bool := (s.jobPtn p).belay.any fun c => c.op == op && s.belayLocal c

/-- JOB_PQ_CTL.RESUME. -/
def State.resume (s : State) (src p : Nat) : State :=
  if ¬s.jobWriter src p ∨ s.belayQueued p 5 then s
  else
    let s := s.setFld JOB_PQ_STAT.HALTED 0 p
    { s with job := { s.job with stops := s.job.stops.filter fun x => !(x.ptn == p && x.halt) } }.releaseStopped

/-- JOB_PQ_CTL.UNQUIESCE. -/
def State.unquiesce (s : State) (src p : Nat) : State :=
  if ¬s.jobWriter src p ∨ s.belayQueued p 4 then s else s.setFld JOB_PQ_STAT.QUIESCED 0 p

end Sys2Proof.Machine
end

