-- ==== Sys2Proof/Machine/DigestOps.lean ====
section
/-! DEFINITION. The commands of DGT (chapter 18): the digest area (R418), the result digest (R417), the end of a rope pair's
comparison (R423), packets held for a job (R422). -/
namespace Sys2Proof.Machine

/-! ## The digest area -/

/-- Bytes of an OUT_LIST entry's block: a fault code where the entry or its traverse is faulty (R419). -/
def State.outSize (s : State) (x : Job) (e : Nat) : Except (Nat × VFault) (Option Nat) × State :=
  match s.vRead x.ptn (x.outList + 32 * e) 32 with
  | (.error f, s) => (.error (x.outList + 32 * e, f), s)
  | (.ok bs, s) =>
    match parseEntry bs 1 false with
    | none => (.ok none, s)
    | some b =>
      match b.trav with
      | none => (.ok (some b.bytes), s)
      | some a =>
        match s.vRead x.ptn a 64 with
        | (.error f, s) => (.error (a, f), s)
        | (.ok d, s) => (.ok ((parseTraverse b d).map Block.bytes), s)

/-- Chunks of `n` OUT_LIST entries from entry `e` up. -/
def State.outChunks (s : State) (x : Job) (e acc : Nat) : Nat → Except (Nat × VFault) (Option Nat) × State
  | 0 => (.ok (some acc), s)
  | n + 1 =>
    match s.outSize x e with
    | (.ok (some m), s) => s.outChunks x (e + 1) (acc + (m + 4095) / 4096) n
    | r => r

/-- The job of partition p that DGT allocates next: the first to have become otherwise eligible. -/
def State.allocNext (s : State) (p : Nat) : Option (Nat × Job) :=
  let js := s.jobList.filter fun r =>
    let x := r.2
    x.ptn == p && decide (x.phase = .waiting) && x.eligibleAt.isSome && (x.flag 0 || x.flag 1) && (s.dgt? r.1).isNone
  minBy (fun (r : Nat × Job) => r.2.eligibleAt.getD 0) js

/-- DGT allocates the space of partition p's next job, if it fits (R418); an area that has been disabled since, or a need beyond the
whole area, rejects the job (R419). -/
def State.digestAllocate (s : State) (p : Nat) : State :=
  match s.allocNext p with
  | none => s
  | some (j, x) =>
    if ¬s.flag DGT_SCR_CFG.EN p then s.endJob j stRejected fcDigestSpace
    else match if x.flag 1 then s.outChunks x 0 0 x.outCount else (.ok (some 0), s) with
    | (.error (va, .mmu f), s) => (s.mmuFault p va false false jobRequester f).failJob j fcMmuFault
    | (.error (_, .code c), s) => s.failJob j c
    | (.ok none, s) => s.failJob j fcDigestList
    | (.ok (some n), s) =>
      let need := digestNeed x n
      if 2 ^ s.fld DGT_SCR_CFG.LOG2SIZE p < need then s.endJob j stRejected fcDigestSpace
      else (s.allocate j x need).getD s

/-! ## The result digest -/

/-- DGT finishes the result digest of a job whose work has ended: DIGEST_VALID, or a conflict with its event (R417). -/
def State.digestDone (s : State) (j : Nat) : State :=
  match s.job? j, s.dgt? j with
  | some x, some d =>
    if x.phase ≠ .draining ∨ x.endTs.isNone ∨ ¬x.flag 0 ∨ 0x10 ≤ x.status ∨ d.digestDone then s
    else
      match d.conflict x.inCount x.outCount with
      | some (l, e) => (s.putDgt j { d with digestDone := true }).noteConflict j x l e
      | none =>
        (s.putDgt j { d with digestDone := true, digest := some (x.resultDigest d x.inCount x.outCount) }).jobFlag j rfDigestValid
  | _, _ => s

/-! ## Rope pairs -/

/-- The comparison of a job ends: counts, the record's flag, one event for a mismatch or a timeout (R423). -/
def State.compareEnd (s : State) (j : Nat) (x : Job) (d : DgtJob) (timeout : Bool) : State :=
  let bad := d.mismatches
  let both := (d.chunks.rows.filter fun r => (d.peers.find? r.1).isSome).length
  let s := s.putDgt j { d with compared := true }
  let s := (s.incSat DGT_CHUNKS.COUNT both x.ptn).incSat DGT_RCNT.MISMATCHES bad.length x.ptn
  let s := if timeout then s.incSat DGT_RCNT.TIMEOUTS 1 x.ptn else s
  if bad.isEmpty ∧ ¬timeout then s
  else
    let k := bad.headD 0
    (s.jobFlag j rfLockstepMismatch).jobEvent j evLockstepMismatch (k / 2 ^ 32) [w32 (k % 2 ^ 32), w32 bad.length, w32 (b2n timeout)]

/-- DGT_ROPE_TMOp, in ticks. (log 165: DEDUCED) -/
def State.ropeTicks (s : State) (p : Nat) : Nat := max 1 (s.reg DGT_ROPE_TMO p) * ticksPerUs

/-- The held packet has waited for the timeout of the partition whose DGT_ROPE names its source (R422). For a packet that none names
the spec states no time. (log 51: DEDUCED) -/
def State.orphan (s : State) (h : HeldPkt) : Bool :=
  match (List.range 16).find? fun p =>
      s.flag DGT_ROPE.V p && s.fld DGT_ROPE.PEER_CHIP p == h.src && s.fld DGT_ROPE.PEER_PTN p == h.srcPtn with
  | some p => s.passed h.came (s.ropeTicks p)
  | none => true

/-- A DIGEST packet reaches this device: it goes to its job, or is held (R422). None while the store is full. -/
def State.digestArrive (s : State) (p : Packet) : Option State :=
  let job := s.jobList.find? fun r =>
    let x := r.2
    x.flag 1 && x.startTs.isSome && s.flag DGT_ROPE.V x.ptn && s.fld DGT_ROPE.PEER_CHIP x.ptn == p.src
      && s.fld DGT_ROPE.PEER_PTN x.ptn == p.srcPtn && x.tag == field p.data 0 4 && x.gen == field p.data 4 1
      && (s.dgt? r.1).isSome
  match job with
  | some (j, _) => (s.dgt? j).map fun d => s.putDgt j (d.receive p.data)
  | none =>
    if 4096 ≤ s.dgt.held.length then none
    else some { s with dgt := { s.dgt with held := s.dgt.held ++ [{ src := p.src, srcPtn := p.srcPtn, data := p.data, came := s.atu.ticks }] } }

/-! ## The commands -/

/-- DGT allocates for partition p (R418). -/
def execDigestAllocate (p : PtnIx) (s : State) : Host.Outcome State Fault Refusal := .next (s.digestAllocate p)

/-- The result digest of a job is complete (R417). -/
def execDigestComputeDone (job : Nat) (s : State) : Host.Outcome State Fault Refusal := .next (s.digestDone job)

/-- Both ENDs have been exchanged and every chunk compared (R423). -/
def execLockstepCompareEnd (job : Nat) (s : State) : Host.Outcome State Fault Refusal :=
  match s.job? job, s.dgt? job with
  | some x, some d => .next (if d.complete && !d.compared then s.compareEnd job x d false else s)
  | _, _ => .next s

/-- DGT_ROPE_TMO has passed since the local END (R423). -/
def execRopeTimeout (job : Nat) (s : State) : Host.Outcome State Fault Refusal :=
  match s.job? job, s.dgt? job with
  | some x, some d =>
    .next (if d.endSent && !d.compared && s.passed d.endAt (s.ropeTicks x.ptn) then s.compareEnd job x d true else s)
  | _, _ => .next s

/-- The oldest held packet of those that have waited DGT_ROPE_TMO is discarded (R422). -/
def execOrphanDiscard (s : State) : Host.Outcome State Fault Refusal :=
  match s.dgt.held.find? s.orphan with
  | none => .next s
  | some h => .next (({ s with dgt := { s.dgt with held := s.dgt.held.erase h } }).incSat DGT_ORPHAN.COUNT 1)

/-- DGT_CTL.CLR_CNT (R424). -/
def State.dgtClrCnt (s : State) (src : Nat) : State :=
  if src ≠ s.manager then s
  else
    forEach (List.range 16) (fun p s =>
      forEach [DGT_DCNT, DGT_DIGESTS, DGT_CHUNKS, DGT_RCNT] (fun r s => s.setReg r 0 p) s) (s.setReg DGT_ORPHAN 0)

def execDgtClrCnt (src : PtnIx) (s : State) : Host.Outcome State Fault Refusal := .next (s.dgtClrCnt src)

end Sys2Proof.Machine
end

