-- ==== Sys2Proof/Machine/Memory.lean ====
section
/-! DEFINITION. The memory system (chapter 16): errors and the retirement of pseudo-channels (R377, R378), the system cache
(R380, R382, R393), fault records and their resolves (R388-R390), invalidation (R387) and the stacks (R376, R391). -/
namespace Sys2Proof.Machine

/-! ## Pseudo-channels (R378) -/

/-- Retire pseudo-channel q: its state, its owner's bit, its cached lines and translations. (log 106: DEDUCED) -/
def State.retirePch (s : State) (q cause : Nat) : State :=
  if s.isRetired kPch q then s
  else
    let owners := (List.range 16).filter fun p => s.ownsPch p q
    let s := s.markRetired kPch q
    let s := s.setFld HBM_PCH.STATE 1 (q / 32) (q % 32)
    let s := forEach owners (fun p s =>
      s.setReg PTN_PCH (setBits (s.reg PTN_PCH p (q / 32)) (q % 32) (q % 32) 0) p (q / 32)) s
    let line := fun (a : Nat) => isHbm a && (a - hbmBase) / pchSize == q
    let me := s.chipId
    let s := { s with
      syc := s.syc.keep fun l => !line (l * 64)
      mmu := { s.mmu with tlb := ⟨s.mmu.tlb.rows.filter fun r => !(chipOf r.2.base == me && line (localOf r.2.base))⟩ } }
    let s := s.devEvent evRetired q [w32 kPch, w32 cause] owners
    s.devEvent evPchRetired q [w32 (owners.headD 0xFF)] owners

/-- A transient error of pseudo-channel q raises its level (R425, R426). (log 106: DEDUCED) -/
def State.pchTransient (s : State) (q w : Nat) : State :=
  let (s, exceeds) := s.raiseLevel kPch q w
  if exceeds then s.retirePch q causeOverflow else s

/-! ## Errors (R377, R382, R425, R427) -/

/-- A dirty line of a way has been dropped: its count, its address and its event (R382). -/
def State.lostLine (s : State) (line way : Nat) : State :=
  let owner := (List.range 16).filter fun p => s.ptnOn p && bit (s.reg PTN_WAYS p) way
  let s := s.incSat SYC_STAT.LOST 1
  let s := (s.setReg SYC_ERRADDR_LO (line * 64 % 2 ^ 32)).setReg SYC_ERRADDR_HI (line * 64 / 2 ^ 32)
  s.devEvent evSycLost way [w64 (line * 64)] owner

/-- A line with an uncorrectable error is dropped: the older contents of a dirty one return, with its event (R382).
(log 107: DEDUCED) -/
def State.lineLost (s : State) (line : Nat) : State :=
  match s.syc.find? line with
  | none => s
  | some l =>
    let s := { s with syc := s.syc.del line }
    match l.old with
    | some bs => (s.poke (line * 64) bs).lostLine line l.way
    | none => s

/-- What an access at local address `a` met: the state, and whether it fails with PARITY_PERSIST. (log 107: DEDUCED) -/
def State.memError (s : State) (a : Nat) (e : MemErr) : State × Bool :=
  match e, region a with
  | .none, _ => (s, false)
  | .corrected, .hbm q => ((s.incSat HBM_CNT0.CORRECTED 1 (q / 32)).pchTransient q (bits (s.bucketReg kPch) 7 0), false)
  | .cleared twice, .hbm q =>
    ((s.incSat HBM_CNT1.REPLAYED (1 + b2n twice) (q / 32)).pchTransient q (bits (s.bucketReg kPch) 15 8), false)
  | .persist, .hbm q =>
    (((s.incSat HBM_CNT1.REPLAYED 2 (q / 32)).incSat HBM_CNT1.PERSIST 1 (q / 32)).retirePch q causePersist, true)
  | .lineCorrected, .hbm _ => (if (s.syc.find? (a / 64)).isSome then s.incSat SYC_STAT.CORRECTED 1 else s, false)
  | .lineLost, .hbm _ => (s.lineLost (a / 64), false)
  | .cleared _, .tileMem t _ => (s.tileTransient (s.fld SYS_TMAP.PTILE t), false)
  | .persist, .tileMem t _ => (s.retireTile (s.fld SYS_TMAP.PTILE t) causePersist, true)
  | .persist, .cluMem _ _ => (s.devEvent evNospare 0 [w64 a], true)
  | .persist, .sram => (s.devEvent evNospare 0 [w64 a], true)
  | _, _ => (s, false)

/-- The controllers act on what a read has met: the counts, the bucket, the retirement and the events. -/
def State.settleErr (s : State) (m : MetErr) : State :=
  match m.err with
  | .lineLost => s.lostLine (m.addr / 64) m.way
  | .lineCorrected => s.incSat SYC_STAT.CORRECTED 1
  | e => (s.memError m.addr e).1

/-- The controllers act on everything that reads have met. (log 177: DESIGN CHOICE) -/
def State.settleErrs (s : State) : State :=
  forEach s.mmu.met (fun m s => s.settleErr m) (s.setMmu fun m => { m with met := [] })

/-! ## Fault records (R388, R389) -/

/-- Unresolved WAIT records of partition p. (log 105: DEDUCED) -/
def State.unresolved (s : State) (p : Nat) : Nat := (s.mmu.faults.filter fun r => r.ptn == p && r.seq.isSome).length

/-- (log 105: DEDUCED) -/
def State.faultRing (s : State) (p : Nat) : Nat :=
  s.fld MMU_FR_LO.ADDR p * 4096 + 2 ^ 32 * s.fld MMU_FR_HI.ADDR p

/-- The fault ring has a free entry that can be written: its address. -/
def State.faultSlot (s : State) (p : Nat) : Option Nat :=
  let n := ringSize (s.fld MMU_FR_CFG.LOG2SIZE p)
  let tail := s.reg MMU_FR_TAIL p
  let a := s.faultRing p + 32 * (tail % n)
  if s.flag MMU_FR_CFG.EN p ∧ dist32 tail (s.reg MMU_FR_HEAD p) < n ∧ s.hbmUp a ∧ ¬s.pchRetired ((a - hbmBase) / pchSize) then
    some a
  else none

/-- The 32 bytes of a record. -/
def FaultRec.bytes (r : FaultRec) (seq phase : Nat) : List Byte :=
  fitBytes 32
    (bytesOf 8 r.va ++ bytesOf 2 seq ++ [BitVec.ofNat 8 r.cause, BitVec.ofNat 8 r.level,
        BitVec.ofNat 8 (b2n r.write + 2 * b2n (!r.wait)), BitVec.ofNat 8 r.by'.kind, BitVec.ofNat 8 r.by'.unit,
        BitVec.ofNat 8 r.merged]
      ++ bytesOf 4 r.by'.tag ++ bytesOf 4 r.ts ++ [BitVec.ofNat 8 phase])

/-- The MMU_FAULT event of a record, or of a lost one. -/
def State.faultEvent (s : State) (r : FaultRec) (seq : Nat) (lost : Bool) : State :=
  s.raise { code := evMmuFault, ptn := some r.ptn, unit := seq, data := [w32 r.cause, w32 (b2n lost)], tag := r.by'.tag,
            gen := ((s.job? r.by'.job).map Job.gen).getD 0 }

/-- Replace the first entry of the fault list that satisfies `f`, or drop it. -/
def changeFirst (f : FaultRec → Bool) (g : FaultRec → Option FaultRec) : List FaultRec → List FaultRec
  | [] => []
  | r :: rs => if f r then (g r).toList ++ rs else r :: changeFirst f g rs

/-- The oldest fault of partition p that can be recorded or lost is (R389). (log 14: DEDUCED; log 105: DEDUCED) -/
def State.recordFault (s : State) (p : Nat) : State :=
  let slot := s.faultSlot p
  let due := fun (r : FaultRec) =>
    r.ptn == p && r.seq.isNone && (!r.wait || (slot.isSome && decide (s.unresolved p < 256)))
  match s.mmu.faults.find? due, slot with
  | none, _ => s
  | some r, some a =>
    let seq := (s.mmu.seqs.getD p 0 + 1) % 65536
    let tail := s.reg MMU_FR_TAIL p
    let s := s.store p a (r.bytes seq (phaseBit tail (s.fld MMU_FR_CFG.LOG2SIZE p))) false
    let s := s.setReg MMU_FR_TAIL (tail + 1) p
    let s := { s with mmu := { s.mmu with
      seqs := s.mmu.seqs.put p seq
      faults := changeFirst due (fun r => if r.wait then some { r with seq := some seq } else none) s.mmu.faults } }
    s.faultEvent r seq false
  | some r, none =>
    let s := { s with mmu := { s.mmu with faults := changeFirst due (fun _ => none) s.mmu.faults } }
    (s.incSat MMU_STAT.LOST 1 p).faultEvent r 0 true

/-! ## Resolves (R225, R390) -/

/-- An instance of a context leaves FAULT_WAIT. -/
def Tile.wake (x : Tile) (d : Nat) : Tile :=
  match x.insts.find? d with
  | some i => if i.state = .faultWait then { x with insts := x.insts.put d { i with state := .active } } else x
  | none => x

/-- Task `k` of a context is job j's. -/
def Tile.runs (x : Tile) (j : Nat) : Bool := (x.task.map fun k => k.job) == some j

/-- A stream instance of job j on tile t, running or saved, goes on from its cursor. -/
def State.wakeStream (s : State) (t j d : Nat) : State :=
  if (s.tile t).runs j then s.modTile t fun x => x.wake d
  else
    { s with cairns := ⟨s.cairns.rows.map fun r =>
        if r.1 / 8 = t ∧ r.2.ctx.runs j then (r.1, { r.2 with ctx := r.2.ctx.wake d }) else r⟩ }

/-- The task of job j on tile t is a fallback task. -/
def State.fallbackOn (s : State) (t j : Nat) : Bool :=
  let x := s.tile t
  (x.task.toList ++ x.queue.map fun e => e.task).any fun k => k.job == j && k.fallback

/-- A piece on an engine waits no longer. -/
def State.wakePiece (s : State) (w : Requester) : State :=
  let mend := fun (m : Table Codec) => (⟨m.rows.map fun r => if r.2.job = w.job then (r.1, { r.2 with wait := false }) else r⟩ : Table Codec)
  match w.kind with
  | 2 =>
    match s.gUnit? w.job with
    | some u => s.setGUnit w.job { u with wait := false }
    | none => s
  | 3 => { s with coding := { s.coding with
      ld := ⟨s.coding.ld.rows.map fun r => if r.1 = w.unit ∧ r.2.job = w.job then (r.1, { r.2 with wait := false }) else r⟩ } }
  | 4 => { s with coding := { s.coding with polar := mend s.coding.polar } }
  | 5 => { s with coding := { s.coding with enc := mend s.coding.enc } }
  | _ => s

/-- A held inbound request fails (R492): a read completes with Completer Abort, a write is dropped. -/
def State.failTlp (s : State) (p id : Nat) : State :=
  match s.pci.held.find? fun h => h.id == id with
  | none => s
  | some h =>
    let s := { s with pci := { s.pci with held := s.pci.held.filter fun h => h.id != id } }
    match h.tlp with
    | .read _ off _ => { s with out := .completion h.fn 4 [] :: s.out }.event evPcieInFail p h.fn [w64 off.toNat]
    | .write _ off _ => s.event evPcieInFail p h.fn [w64 off.toNat]
    | .config _ _ => s

/-- A requester walks again. -/
def State.retryWaiter (s : State) (p : Nat) (w : Requester) : State :=
  match w.kind with
  | 0 => s.wakeStream w.unit w.job w.handle
  | 10 => s.modJobPtn p fun y => { y with otWait := false }
  | 11 => { s with pci := { s.pci with held := s.pci.held.map fun h => if h.id = w.handle then { h with ready := true } else h } }
  | _ => s.wakePiece w

/-- A requester's job fails with MMU_FAULT. -/
def State.failWaiter (s : State) (p : Nat) (w : Requester) : State :=
  match w.kind with
  | 0 =>
    if (s.tile w.unit).runs w.job then
      let blk := (((s.tile w.unit).insts.find? w.handle).map fun i => i.faultAt.1).getD 0
      s.streamFault w.unit w.handle blk fcMmuFault
    else s.failTask w.job fcMmuFault (s.fallbackOn w.unit w.job)
  | 1 => s.failTask w.job fcMmuFault (s.fallbackOn w.unit w.job)
  | 2 => (s.wakePiece w).gatherFail w.job fcMmuFault
  | 10 =>
    match (s.jobPtn p).otBusy with
    | some h => s.objectEnd p h 4
    | none => s
  | 11 => s.failTlp p w.handle
  | _ => (s.wakePiece w).failJob w.job fcMmuFault

/-- Requests of partition p's MMU commands come from p or the manager (R392). -/
def State.mmuWriter (s : State) (src p : Nat) : Bool := src == p || src == s.manager

def errNoSeq : Nat := 2
def errInvBusy : Nat := 1

/-- The unresolved WAIT record of partition p with that SEQ. -/
def State.faultOf (s : State) (p seq : Nat) : Option FaultRec :=
  s.mmu.faults.find? fun r => r.ptn == p && r.seq == some seq

/-- A write of MMU_RESOLVEp: the requesters of the record walk again, or their jobs fail. The requesters it held are the
answer's second part. -/
def State.resolve (s : State) (src p seq : Nat) (fail : Bool) : State × List Requester :=
  if ¬s.mmuWriter src p then (s, [])
  else
    match s.faultOf p seq with
    | none => (s.setFld MMU_STAT.ERR errNoSeq p, [])
    | some r =>
      let s := { s with mmu := { s.mmu with
        faults := changeFirst (fun r => r.ptn == p && r.seq == some seq) (fun _ => none) s.mmu.faults } }
      let s := s.setFld MMU_STAT.ERR 0 p
      (forEach r.waiters (fun w s => if fail then s.failWaiter p w else s.retryWaiter p w) s, r.waiters)

/-! ## Invalidation and the fault ring (R387, R392) -/

/-- A write of MMU_INVp with a scope: the whole of partition p's translations, or one page. An invalidation of all puts
MMU_ROOTp in force. (log 104: DEDUCED) -/
def State.invStart (s : State) (src p : Nat) (page : Option Nat) : State :=
  if ¬s.mmuWriter src p then s
  else if s.flag MMU_STAT.INV_BUSY p then s.setFld MMU_STAT.ERR errInvBusy p
  else
    let s := (s.setFld MMU_STAT.ERR 0 p).setFld MMU_STAT.INV_BUSY 1 p
    let root := s.fld MMU_ROOT_LO.ADDR p * 4096 + 2 ^ 32 * s.fld MMU_ROOT_HI.ADDR p
    { s with mmu := { s.mmu with
      inv := s.mmu.inv.put p page
      roots := if page.isNone then s.mmu.roots.put p root else s.mmu.roots } }

/-- The page that MMU_INV_VAp names. -/
def State.invPage (s : State) (p : Nat) : Nat := s.fld MMU_INV_VA_LO.VA p + 2 ^ 20 * s.fld MMU_INV_VA_HI.VA p

/-- Every cached translation in scope has been dropped. (log 104: DEDUCED) -/
def State.invEnd (s : State) (p : Nat) : State :=
  match s.mmu.inv.find? p with
  | none => s
  | some page =>
    let hit := fun (k : Nat) => k / 2 ^ 36 == p && (match page with
      | some v => k % 2 ^ 36 == v
      | none => true)
    let s := { s with mmu := { s.mmu with tlb := s.mmu.tlb.keep fun k => !hit k, inv := s.mmu.inv.del p } }
    s.setFld MMU_STAT.INV_BUSY 0 p

/-- A write of MMU_FR_CFGp. (log 156: DEDUCED) -/
def State.frWrite (s : State) (src p v : Nat) : State :=
  if ¬s.mmuWriter src p then s
  else if s.flag MMU_FR_CFG.EN p ∧ bit v 31 then s
  else
    let s := (s.setFld MMU_FR_CFG.EN 0 p).setFld MMU_FR_CFG.LOG2SIZE (bits v 4 0) p
    let lg := bits v 4 0
    let a := s.faultRing p
    let n := 32 * 2 ^ lg
    if bit v 31 && decide (6 ≤ lg) && decide (lg ≤ 12) && isHbm a && isHbm (a + n - 1) && s.channelsOk p a n then
      ((s.setFld MMU_FR_CFG.EN 1 p).setReg MMU_FR_HEAD 0 p).setReg MMU_FR_TAIL 0 p
    else s

/-! ## System-cache maintenance (R393) -/

/-- A write of SYC_MAINT with an operation for partition p's ways: a write-back, with `drop` an invalidation too. -/
def State.maintStart (s : State) (src p : Nat) (drop : Bool) : State :=
  if ¬(src = s.manager ∨ src = p) ∨ s.mmu.maint.isSome then s
  else
    let s := s.setMmu fun m => { m with maint := some p, maintDrop := drop }
    (s.setFld SYC_MAINT.PTN p).setFld SYC_MAINT.BUSY 1

/-- The maintenance ends: no line of the partition's ways is dirty, and with an invalidation none is held. -/
def State.maintEnd (s : State) : State :=
  match s.mmu.maint with
  | none => s
  | some p =>
    let s := s.writeBack (bitsSet 16 (s.reg PTN_WAYS p)) s.mmu.maintDrop
    (s.setMmu fun m => { m with maint := none }).setFld SYC_MAINT.BUSY 0

/-! ## Stacks (R376, R391) -/

/-- The cells of pseudo-channel q have come to hold, or hold no longer, an error in their 32 bytes of number g.
(log 177: DESIGN CHOICE) -/
def State.cellFlaw (s : State) (q g : Nat) (e : MemErr) : State :=
  let k := (hbmBase + q * pchSize) / 32 + g
  s.setMmu fun m => { m with flaws := if e = .none then m.flaws.del k else m.flaws.put k e }

/-- A refresh of pseudo-channel q falls due: under load it is postponed, and the fourth postponed one revokes the grant; those
postponed are issued with the one that is. (log 108: DEDUCED) -/
def State.refreshDue (s : State) (q : Nat) (busy : Bool) : State :=
  let n := s.mmu.postponed.getD q 0 + 1
  let clear := s.setMmu fun m => { m with postponed := m.postponed.del q }
  if ¬busy then clear
  else if n < 4 then s.setMmu fun m => { m with postponed := m.postponed.put q n }
  else clear.incSat HBM_CNT2.REVOKES 1 (q / 32)

/-- A due refresh of pseudo-channel q, under the temperature report in force; `flaw` is what its cells have come to hold since.
(log 108: DEDUCED) -/
def State.refreshPch (s : State) (q temp rate : Nat) (busy : Bool) (flaw : Option (Nat × MemErr)) : State :=
  let st := q / 32
  if ¬s.domOn (68 + st) then s
  else
    let s := ((s.settleErrs.setFld HBM_STAT.TEMP temp st).setFld HBM_STAT.RATE rate st).refreshDue q busy
    match flaw with
    | some (g, e) => s.cellFlaw q g e
    | none => s

def State.hbmEnable (s : State) (src st : Nat) : State :=
  if src ≠ s.manager ∨ ¬s.domOn (68 + st) then s else s.setFld HBM_CTL.EN 1 st

/-- Training ends. (log 108: DEDUCED) -/
def State.hbmTrained (s : State) (st : Nat) (ok : Bool) : State :=
  if ¬s.domOn (68 + st) ∨ ¬s.flag HBM_CTL.EN st ∨ s.flag HBM_STAT.TRAINED st then s
  else if ok then
    ((s.setFld HBM_STAT.TRAINED 1 st).setFld HBM_STAT.TRAIN_FAIL 0 st).setFld HBM_STAT.SELF_REFRESH 0 st
  else s.setFld HBM_STAT.TRAIN_FAIL 1 st

/-- An enabled partition owns a pseudo-channel of the stack. -/
def State.stackUsed (s : State) (st : Nat) : Bool :=
  (List.range 16).any fun p => s.ptnOn p && s.reg PTN_PCH p st != 0

/-- The controller drains the stack and puts it in self-refresh. -/
def State.hbmDisable (s : State) (src st : Nat) : State :=
  if src ≠ s.manager ∨ ¬s.domOn (68 + st) ∨ ¬s.flag HBM_CTL.EN st ∨ s.stackUsed st then s
  else
    (((s.setFld HBM_CTL.EN 0 st).setFld HBM_STAT.SELF_REFRESH 1 st).setFld HBM_STAT.TRAINED 0 st).setFld HBM_STAT.TRAIN_FAIL 0 st

def State.hbmClrCnt (s : State) (src st : Nat) : State :=
  if src ≠ s.manager ∨ ¬s.domOn (68 + st) then s
  else (((s.setReg HBM_CNT0 0 st).setReg HBM_CNT1 0 st).setReg HBM_CNT2 0 st).setReg HBM_CNT3 0 st

end Sys2Proof.Machine
end

