-- ==== Sys2Proof/Machine/Yalelle.lean ====
section
/-! DEFINITION. The Yalelle endpoint and its links (chapter 17): states and lanes (R398, R399), flits and retry (R396, R397, R401),
transit (R405), served requests (R407, R408), messages (R409), responses and timeouts (R403, R410). -/
namespace Sys2Proof.Machine

/-! ## Lanes and link states (R398, R399) -/

/-- Lanes of link k that may be used: neither retired nor disabled as its training began. -/
def State.lanesOk (s : State) (k : Nat) : Nat :=
  (List.range 4).foldl (fun m j =>
    if s.isRetired kYal (4 * k + j) || bit (s.link k).laneDis j then m else m + 2 ^ j) 0

def popCount (n : Nat) : Nat := (bitsSet 32 n).length

/-- A lane of link k is retired: the link retrains on the others, or fails. -/
def State.retireLane (s : State) (i cause : Nat) : State :=
  if s.isRetired kYal i then s
  else
    let k := i / 4
    let used := bit (s.fld YAL_LINK_STAT.LANES k) (i % 4)
    let s := (s.markRetired kYal i).devEvent evRetired i [w32 kYal, w32 cause]
    if ¬used then s
    else if s.linkState k = linkUp then s.setLinkState k linkRetrain
    else if s.linkState k = linkDegraded then s.setLinkState k linkFailed
    else s

/-- A link comes up on the lanes given. -/
def State.linkLanes (s : State) (k lanes : Nat) : State :=
  (s.setFld YAL_LINK_STAT.LANES lanes k).setLinkState k (if lanes = 15 then linkUp else linkDegraded)

/-- BELAY packets that waited for a path are tried again (R405). (log 116: DEDUCED) -/
def State.retryBelays (s : State) : State :=
  let ps := s.yal.belays
  forEach ps (fun p s => s.sendBelayAt p.1 p.2) { s with yal := { s.yal with belays := [] } }

/-- What a usable link can send now goes. (log 113: DEDUCED) -/
def State.kick (s : State) (k : Nat) : State := ((s.pump k 512).returnCredits k 8).retryBelays

/-- Credits of a link's channels as its registers divide the receive buffer (R401); VC0 has 8. (log 109: DESIGN CHOICE) -/
def State.linkCredits (s : State) (k : Nat) : List Nat :=
  [8, s.fld YAL_LINK_CRED0.VC1 k, s.fld YAL_LINK_CRED0.VC2 k, s.fld YAL_LINK_CRED0.VC3 k, s.fld YAL_LINK_CRED0.VC4 k,
   s.fld YAL_LINK_CRED1.VC5 k, s.fld YAL_LINK_CRED1.VC6 k, s.fld YAL_LINK_CRED1.VC7 k]

/-- EN of link k is written 1; a stopped port starts again. -/
def State.linkEnable (s : State) (src k : Nat) : State :=
  if src ≠ s.manager ∨ ¬s.domOn 75 then s
  else
    let s := ({ s with job := { s.job with
      stops := s.job.stops.filter fun x => !(x.kind == 1 && x.port == k && !x.halt) } }).releaseStopped
    if s.flag YAL_LINK_CTL.EN k then s
    else
      let cs := (s.linkCredits k).drop 1
      if (cs.take 6).any (· == 0) || decide (184 < cs.foldl (· + ·) 0) then s
      else (s.setFld YAL_LINK_CTL.EN 1 k).setLinkState k linkTrain

/-- EN of link k is written 0. -/
def State.linkDisable (s : State) (src k : Nat) : State :=
  if src ≠ s.manager ∨ ¬s.domOn 75 then s
  else (s.setFld YAL_LINK_CTL.EN 0 k).setLinkState k linkDown

/-- Training ends with the lanes `locked` and the far end's identity. (log 109: DESIGN CHOICE) -/
def State.linkTrained (s : State) (k locked : Nat) (peer : Peer) : State :=
  let lanes := locked &&& s.lanesOk k
  if ¬s.linksWork ∨ s.linkState k ≠ linkTrain ∨ popCount lanes < 3 then s
  else
    let s := s.setReg YAL_LINK_STAT
      (s.reg YAL_LINK_STAT k % 2 ^ 13 + peer.chip.toNat * 2 ^ 13 + peer.pos * 2 ^ 25 + peer.link * 2 ^ 28 + b2n peer.idSet * 2 ^ 31) k
    let credit := ((List.range 8).zip (s.linkCredits k)).foldl (fun (m : Table Nat) c => m.set (fun _ => 0) c.1 c.2) .empty
    ((s.setLink k { s.link k with credit := credit }).linkLanes k lanes).kick k

/-- Too few lanes have locked by the end of TRAIN or RETRAIN, 100 ms or 40 µs (R398). (log 165: DEDUCED) -/
def State.linkTimeout (s : State) (k st : Nat) : State :=
  let bound := if st = linkTrain then ticksPer100Ms else 40 * ticksPerUs
  if ¬s.linksWork ∨ s.linkState k ≠ st ∨ ¬s.passed (s.link k).since bound then s else s.setLinkState k linkFailed

/-- Flits that wait for their ACK go out again, with the credits that they carried. (log 110: DEDUCED) -/
def State.replayAll (s : State) (k : Nat) : State :=
  let l := s.link k
  let s := s.incSat YAL_LINK_CNT0.REPLAYS l.replay.length k
  forEach l.replay (fun f s => { s with out := .flit k (f.bytes l.rxSeq) :: s.out }) s

/-- Software retrains a usable link. -/
def State.linkRetrain' (s : State) (src k : Nat) : State :=
  if src ≠ s.manager ∨ ¬s.domOn 75 ∨ ¬s.linkUsable k then s else s.setLinkState k linkRetrain

/-- Retraining ends with the lanes `locked`; a lane that alone did not lock is retired (R399). -/
def State.retrained (s : State) (k locked : Nat) : State :=
  let lanes := locked &&& s.lanesOk k
  if ¬s.linksWork ∨ s.linkState k ≠ linkRetrain ∨ popCount lanes < 3 then s
  else
    let lost := bitsSet 4 (s.lanesOk k &&& (15 - lanes))
    let s := s.setFld YAL_LINK_STAT.LANES lanes k
    let s := forEach lost (fun j s => s.retireLane (4 * k + j) causePersist) s
    let s := s.setLink k { s.link k with replay := (s.link k).replay.map fun f => { f with tries := 0 } }
    ((s.linkLanes k lanes).replayAll k).kick k

/-! ## Flits (R396, R397, R401) -/

/-- Flits up to `ack` are acknowledged. -/
def Link.acked (l : Link) (ack : Nat) : Link :=
  { l with replay := l.replay.filter fun f => decide (2048 ≤ (ack + 4096 - f.seq) % 4096) }

/-- A NAK: the flits after the last good one go out again; where one of them has been replayed twice, the link retrains.
(log 110: DEDUCED) -/
def State.takeNak (s : State) (k : Nat) : State :=
  let l := s.link k
  if l.replay.any fun f => decide (2 ≤ f.tries) then s.setLinkState k linkRetrain
  else (s.setLink k { l with replay := l.replay.map fun f => { f with tries := f.tries + 1 } }).replayAll k

/-- n credits of channel vc are to go back. -/
def Link.owe (l : Link) (vc n : Nat) : Link := { l with owed := l.owed.set (fun _ => 0) vc (l.owed.get (fun _ => 0) vc + n) }

/-- Each packet with the flits that leave the receive buffer with it: the last one's. -/
def rxPkts (vc : Nat) : List Packet → List RxPkt
  | [] => []
  | [p] => [{ pkt := { p with vc := vc }, flits := 1 }]
  | p :: ps => { pkt := { p with vc := vc }, flits := 0 } :: rxPkts vc ps

/-- The payload of an accepted flit joins its channel's bytes; the packets that are whole wait for their commands. A flit that
completes no packet leaves the receive buffer at once. A packet of a reserved type for this device is dropped. -/
def Link.takePayload (l : Link) (vc : Nat) (payload : List Byte) : Link :=
  let (ps, left) := cutAll 16 (joinPayload vc (l.part.getD vc []) payload)
  let ps := ps.filter fun p => decide (p.kind ≤ pkDigest) || p.hops != 0
  let l := { l with part := if left.isEmpty then l.part.del vc else l.part.put vc left }
  if ps.isEmpty then l.owe vc 1 else { l with rx := l.rx ++ rxPkts vc ps }

/-- Discard a flit, and ask once for the first one missing. (log 110: DEDUCED) -/
def State.sendNak (s : State) (k : Nat) : State := (s.setLink k { s.link k with naked := true }).putIdle k true

/-- FEC has failed on the lanes given (R399). (log 110: DEDUCED) -/
def State.fecErrors (s : State) (k lanes : Nat) : State :=
  forEach (bitsSet 4 lanes) (fun j s =>
    let (s, exceeds) := (s.incSat YAL_LINK_CNT1.FEC_UNCORR 1 k).raiseLevel kYal (4 * k + j) (bits (s.bucketReg kYal) 7 0)
    if exceeds then s.retireLane (4 * k + j) causeOverflow else s) s

/-- The flit that comes next in SEQ order: its credits and its payload. -/
def Link.accept (l : Link) (h : Nat) (bs : List Byte) : Link :=
  let cvc := bits h 31 29
  let l := { l with rxSeq := bits h 11 0, naked := false,
                    credit := l.credit.set (fun _ => 0) cvc (l.credit.get (fun _ => 0) cvc + bits h 39 32) }
  if bit h 28 then l else l.takePayload (bits h 26 24) ((bs.take 252).drop 8)

/-- A good flit: its ACK, its NAK, and, in SEQ order, its credits and its payload. An IDLE flit without credits has no SEQ of its
own. (log 110: DEDUCED) -/
def State.takeFlit (s : State) (k : Nat) (bs : List Byte) : State :=
  let h := field bs 0 8
  let s := s.setLink k ((s.link k).acked (bits h 23 12))
  let s := if bit h 27 then s.takeNak k else s
  if (bit h 28 ∧ bits h 39 32 = 0) ∨ ¬s.linkUsable k then s.kick k
  else
    let l := s.link k
    let seq := bits h 11 0
    if seq = (l.rxSeq + 1) % 4096 then ((s.setLink k (l.accept h bs)).putIdle k false).kick k
    else if l.naked ∨ (l.rxSeq + 4096 - seq) % 4096 < 2048 then s
    else s.sendNak k

/-- A flit arrives on link k, with the lanes whose FEC could not correct it. -/
def State.flitArrives (s : State) (k : Nat) (bs : List Byte) (fec : Nat) : State :=
  if ¬s.linksWork ∨ ¬s.linkUsable k then s
  else
    let s := s.fecErrors k fec
    if ¬s.linkUsable k then s
    else if field bs 252 4 = crc32c (bs.take 252) then s.takeFlit k bs
    else s.sendNak k

/-! ## Packets that have arrived -/

/-- The packet belongs to partition q's flows: a response to its requests, a message to it, a digest of its peer.
(log 112: DEDUCED) -/
def State.flowOf (s : State) (q : Nat) (p : Packet) : Bool :=
  (pkIsResponse p.kind && q == p.srcPtn)
    || (isMessage p.addr (p.len + 1) && p.vc == 3 && (p.addr - 0x40146000) / 64 == q)
    || (p.kind == pkDigest && s.flag DGT_ROPE.V q && s.fld DGT_ROPE.PEER_CHIP q == p.src && s.fld DGT_ROPE.PEER_PTN q == p.srcPtn)

/-- A stopped flow's ingress (R94); everything but VC0 on a port stopped whole. (log 112: DEDUCED) -/
def State.ingressStopped (s : State) (k : Nat) (p : Packet) : Bool :=
  p.vc != 0 && s.job.stops.any fun x => x.kind == 1 && x.port == k && (x.whole || s.flowOf x.ptn p)

/-- Return the credits of a packet that is taken, at once (R401). (log 111: DEDUCED) -/
def State.payCredits (s : State) (k vc n : Nat) : State :=
  if n = 0 then s else (s.setLink k ((s.link k).owe vc n)).returnCredits k 8

/-- The two packets have one source, one destination and one channel (R20). -/
def Packet.sameFlow (p q : Packet) : Bool := p.src == q.src && p.dst == q.dst && p.vc == q.vc

/-- The first packet that satisfies `f` and has none of its flow before it; `before` are those already passed. -/
def firstOfFlow (f : Packet → Bool) (before : List Packet) : List RxPkt → Option RxPkt
  | [] => none
  | r :: rs =>
    if f r.pkt && !before.any fun q => q.sameFlow r.pkt then some r else firstOfFlow f (r.pkt :: before) rs

/-- Take the first packet of link k that satisfies `f`: packets of one source, destination and channel keep their order (R20).
(log 111: DEDUCED) -/
def State.takePacket (s : State) (k : Nat) (f : Packet → Bool) : Option (RxPkt × State) :=
  let l := s.link k
  (firstOfFlow f [] l.rx).map fun r => (r, s.setLink k { l with rx := l.rx.erase r })

/-- An error response to a request, once per pooling message. (log 114: DEDUCED) -/
def State.refuse (s : State) (p : Packet) (code : Nat) : State :=
  if pkIsRequest p.kind ∧ ¬(p.kind = pkGpoolReq ∧ p.op = 1) then s.respond (p.reply s.chipId pkErrRsp code []) else s

/-- A packet has reached the end of its path: what the identity checks of R28 and R405 make of it. -/
def State.arrive (s : State) (k : Nat) (p : Packet) (serve : Packet → State → State) : State :=
  if s.fld SYS_CHIPID.ID_SET = 0 then
    if pkIsRequest p.kind ∨ p.kind = pkBelay ∨ p.kind = pkDigest then
      (s.refuse p 4).devEvent evIdUnsetDrop k [w32 p.src]
    else s
  else if p.dst ≠ s.chipId then (s.refuse p 2).devEvent evPathMismatch k [w32 p.src, w32 p.dst]
  else serve p s

/-- The first packet of a type that has reached its destination on link k is served; a stopped flow's is discarded. -/
def State.packetOf (s : State) (k kind : Nat) (ready : Packet → State → Bool) (serve : Packet → State → State) : State :=
  if ¬s.linksWork ∨ ¬s.flag YAL_CTL.EN then s
  else
    match s.takePacket k fun p => p.kind == kind && p.hops == 0 && ready p s with
    | none => s
    | some (r, s) =>
      let s := s.payCredits k r.pkt.vc r.flits
      if s.ingressStopped k r.pkt then s else s.arrive k r.pkt serve

/-- The first packet of link k with hops to go is forwarded, or answered with error 3. (log 113: DEDUCED) -/
def State.transit (s : State) (k : Nat) : State :=
  if ¬s.linksWork ∨ ¬s.flag YAL_CTL.EN then s
  else
    match s.takePacket k fun p => p.hops != 0 with
    | none => s
    | some (r, s) =>
      let s := s.payCredits k r.pkt.vc r.flits
      if s.ingressStopped k r.pkt then s
      else
        match s.forwardPacket r.pkt with
        | some s => s
        | none => s.refuse r.pkt 3

/-! ## Requests served (R407, R408) -/

/-- The target of a request of n bytes is exported, and lies within one such target. (log 114: DEDUCED) -/
def State.exported (s : State) (a n : Nat) : Bool :=
  match region a, region (a + n - 1) with
  | .hbm q, .hbm q' => bit (s.fld YAL_IEXP.PCH (q / 32)) (q % 32) && bit (s.fld YAL_IEXP.PCH (q' / 32)) (q' % 32)
  | .tileMem t _, .tileMem t' _ => s.flag YAL_IEXP4.TILE && t == t'
  | .cluMem c _, .cluMem c' _ => s.flag YAL_IEXP4.CLUSTER && c == c'
  | _, _ => false

/-- The error code of a request that cannot be performed, if it cannot. (log 114: DEDUCED) -/
def State.remoteError (s : State) (a n : Nat) : Option Nat :=
  if ¬s.exported a n then some 1
  else
    match s.accessError a n with
    | some c => some (if c = fcParityPersist then 5 else 1)
    | none => none

def State.serveRead (s : State) (p : Packet) (e : MemErr) : State :=
  let n := p.len + 1
  match s.remoteError p.addr n with
  | some c => s.refuse p c
  | none =>
    match s.memError p.addr e with
    | (s, true) => s.refuse p 5
    | (s, false) =>
      match s.readLocal 0 p.addr n false with
      | (.error _, s) => s.refuse p 5
      | (.ok bs, s) => s.respond (p.reply s.chipId pkRdRsp 0 bs)

/-- Bytes that another device writes. -/
def State.remoteStore (s : State) (a : Nat) (bs : List Byte) : State :=
  match region a with
  | .tileMem t off =>
    if off < 0x1E0000 then s.pokeTile t off bs
    else if (s.tile t).state = .idle then s.writeProgram t off bs
    else s.event evWriteIgnored ((s.tileOwner t).getD s.manager) t [w64 a]
  | _ => s.store 0 a bs false

def State.serveWrite (s : State) (p : Packet) (e : MemErr) : State :=
  match s.remoteError p.addr (p.len + 1) with
  | some c => s.refuse p c
  | none =>
    match s.memError p.addr e with
    | (s, true) => s.refuse p 5
    | (s, false) => (s.remoteStore p.addr p.data).respond (p.reply s.chipId pkWrAck 0 [])

/-- The new value of an atomic's word (R213, R408). -/
def atomicNew (op n old : Nat) (data : List Byte) : Nat :=
  match op with
  | 1 => (old + field data 0 n) % 2 ^ (8 * n)
  | 2 => field data 0 n
  | _ => if old = field data 0 n then field data n n else old

/-- Bytes of the word of an atomic, from its operation and its data. -/
def atomicSize (op dataLen : Nat) : Option Nat :=
  let n := if op = 3 then dataLen / 2 else dataLen
  if 1 ≤ op ∧ op ≤ 3 ∧ (n = 4 ∨ n = 8) ∧ (op ≠ 3 ∨ dataLen = 2 * n) then some n else none

def State.serveAtomic (s : State) (p : Packet) (e : MemErr) : State :=
  match atomicSize p.op (p.len + 1) with
  | none => s.refuse p 1
  | some n =>
    if p.addr % n ≠ 0 ∨ ¬atomicTarget p.addr then s.refuse p 1
    else
      match s.remoteError p.addr n with
      | some c => s.refuse p c
      | none =>
        match s.memError p.addr e with
        | (s, true) => s.refuse p 5
        | (s, false) =>
          let old := s.readNum p.addr n
          (s.store 0 p.addr (bytesOf n (atomicNew p.op n old p.data)) false).respond (p.reply s.chipId pkAtomRsp 0 (bytesOf n old))

/-! ## Messages (R409) -/

def messagePtn (a : Nat) : Nat := (a - 0x40146000) / 64

/-- The 128-byte record of a message. -/
def messageRecord (p : Packet) (ts : Nat) : List Byte :=
  fitBytes 64 ([0#8, 0#8] ++ bytesOf 2 p.src ++ bytesOf 1 p.srcPtn ++ List.replicate 3 0#8 ++ bytesOf 4 ts) ++ fitBytes 64 p.data

def endpointWho : Requester := { kind := 12, unit := 0, handle := 0, job := 0, tag := 0 }

/-- Append a message to partition q's ring, if it has room and has met no fault: none while it waits, with the state.
(log 115: DEDUCED) -/
def State.appendMessage (s : State) (q : Nat) (m : Packet) (ts : Nat) : Option State × State :=
  let lg := s.fld YAL_MQ_CFG.LOG2SIZE q
  let tail := s.reg YAL_MQ_TAIL q
  if ¬s.flag YAL_MQ_CFG.EN q ∨ s.flag YAL_MQ_STAT.WRITE_FAULT q ∨ ringSize lg ≤ dist32 tail (s.reg YAL_MQ_HEAD q) then (none, s)
  else
    let va := s.addrOf YAL_MQ_LO YAL_MQ_HI q + 128 * (tail % ringSize lg)
    match s.put q va (withByte0 (phaseBit tail lg) (messageRecord m ts)) with
    | (.error e, s) =>
      let s := s.setFld YAL_MQ_STAT.WRITE_FAULT 1 q
      (none, match e with
        | .mmu f => s.mmuFault q va true false endpointWho f
        | .code _ => s)
    | (.ok _, s) =>
      let s := s.setReg YAL_MQ_TAIL (tail + 1) q
      let s := if s.flag YAL_MQ_CFG.IRQ_EN q then (s.msiReg q 20 (s.reg YAL_MQ_MSI q)).done else s
      (some (s.respond (m.reply s.chipId pkWrAck 0 [])), s)

/-- A message waits on link k: writes of VC3 behind it wait too. -/
def State.messageAhead (s : State) (k : Nat) : Bool := s.yal.msgs.any fun m => m.link == k

/-- A message that no ring can take now waits, and keeps its credits. -/
def State.takeMessage (s : State) (k flits : Nat) (p : Packet) : State :=
  let q := messagePtn p.addr
  if ¬s.flag YAL_IEXP4.MSG ∨ ¬s.flag YAL_MQ_CFG.EN q then (s.payCredits k p.vc flits).refuse p 1
  else
    let ts := stamp32 s.now
    match s.appendMessage q p ts with
    | (some s, _) => s.payCredits k p.vc flits
    | (none, s) =>
      let m : HeldMsg := { link := k, rx := { pkt := p, flits := flits }, ts := ts, came := s.atu.ticks }
      { s with yal := { s.yal with msgs := s.yal.msgs ++ [m] } }

/-- The first write on link k that has reached its destination; behind a waiting message, none of VC3. -/
def State.writeArrives (s : State) (k : Nat) (e : MemErr) : State :=
  if ¬s.linksWork ∨ ¬s.flag YAL_CTL.EN then s
  else
    match s.takePacket k fun p => p.kind == pkWr && p.hops == 0 && !(p.vc == 3 && s.messageAhead k) with
    | none => s
    | some (r, s) =>
      if s.ingressStopped k r.pkt then s.payCredits k r.pkt.vc r.flits
      else if s.fld SYS_CHIPID.ID_SET ≠ 0 ∧ r.pkt.dst = s.chipId ∧ isMessage r.pkt.addr (r.pkt.len + 1) then
        s.takeMessage k r.flits r.pkt
      else (s.payCredits k r.pkt.vc r.flits).arrive k r.pkt fun p s => s.serveWrite p e

/-- The message that waits longest for partition q. -/
def State.waitingMessage (s : State) (q : Nat) : Option HeldMsg := s.yal.msgs.find? fun m => messagePtn m.rx.pkt.addr == q

def State.dropMessage (s : State) (m : HeldMsg) : State :=
  { s with yal := { s.yal with msgs := s.yal.msgs.erase m } }.payCredits m.link m.rx.pkt.vc m.rx.flits

/-- (log 115: DEDUCED) -/
def State.messageAppend (s : State) (q : Nat) : State :=
  match s.waitingMessage q with
  | none => s
  | some m =>
    match s.appendMessage q m.rx.pkt m.ts with
    | (some s, _) => s.dropMessage m
    | (none, s) => s

/-- A message has waited for YAL_TMO. -/
def State.messageTimeout (s : State) (q : Nat) : State :=
  match s.waitingMessage q with
  | none => s
  | some m =>
    if s.passed m.came (max 1 (s.fld YAL_TMO.TMO) * ticksPerUs) then ((s.dropMessage m).incSat YAL_MQ_STAT.LOST 1 q).refuse m.rx.pkt 1
    else s

/-! ## Long messages and pooling (R334, R335) -/

def longKey (p : Packet) : Nat := p.kind * 2 ^ 28 + p.src * 2 ^ 16 + p.tag

/-- A packet of a pooling message: its whole data once the last packet is here. -/
def State.gatherLong (s : State) (p : Packet) : Option (List Byte) × State :=
  let data := s.yal.long.getD (longKey p) [] ++ p.data
  if p.op = 1 then (none, { s with yal := { s.yal with long := s.yal.long.put (longKey p) data } })
  else (some data, { s with yal := { s.yal with long := s.yal.long.del (longKey p) } })

/-- A pooling request that came on link k; one for a shard of a partition whose flows are stopped there is discarded. -/
def State.servePool (s : State) (k : Nat) (p : Packet) : State :=
  match s.gatherLong p with
  | (none, s) => s
  | (some data, s) =>
    if (GReq.ofBytes data).shards.any fun h => s.portStopped 1 k h.ptn then s
    else
    match s.poolServe (GReq.ofBytes data) with
    | (.error c, s) => s.refuse p c
    | (.ok bs, s) =>
      match s.sendLong (p.reply s.chipId pkGpoolRsp 0 bs) with
      | .ok s => s
      | .error _ => s

/-! ## Responses (R403, R410) -/

/-- A hart's remote access ends: with its value, or with an access fault whose code ACI_RASADDR latches (R483). -/
def State.hartAnswer (s : State) (h code a : Nat) (v : Nat) : State :=
  let put := fun (s : State) (r : CoreResult) => { s with harts := { s.harts with last := s.harts.last.put h r } }
  if code = 0 then put s (.value v)
  else put ((s.setReg ACI_RASADDR_LO (a % 2 ^ 32)).setReg ACI_RASADDR_HI (a / 2 ^ 32 % 2 ^ 20 + code % 256 * 2 ^ 24)) .fault

/-- The waiter of a request has its answer: a fault code, or 0 with data. -/
def State.answerWaiter (s : State) (r : OutReq) (code : Nat) (data : List Byte) : State :=
  match r.kind with
  | 0 => s.streamAnswer r.who r.a (r.b == 1) code data
  | 1 => s.hartAnswer r.who code r.a (ofBytes data)
  | 3 => s
  | _ => if code = 0 then s.poolAnswer r.a r.dst r.c data else s.poolLost r.a r.dst code

/-- A response has arrived, or the request has failed: its tag is free, and the request is held no longer. -/
def State.dropRequest (s : State) (tag : Nat) (r : OutReq) : State :=
  { s with yal := { s.yal with reqs := s.yal.reqs.del tag,
                               held := s.yal.held.filter fun h => !(h.dst == r.dst && h.tag == tag && pkIsRequest h.kind) } }

/-- A packet that a path change held goes on the path it was given; a request whose link is not usable then fails at once.
(log 176: DEDUCED) -/
def State.sendHeld (s : State) (p : Packet) : State :=
  match s.forwardPacket p with
  | some s => s
  | none =>
    match if pkIsRequest p.kind then s.yal.reqs.find? p.tag else none with
    | some r => (s.dropRequest p.tag r).answerWaiter r fcLinkTimeout []
    | none => s

/-- Packets that a path change held go once no request sent to the chip waits: those of the path that the first was given; the next
path's wait for them. `fuel` bounds the paths. (log 176: DEDUCED) -/
def State.releaseHeld (s : State) (dst : Nat) : Nat → State
  | 0 => s
  | n + 1 =>
    let mine := s.yal.held.filter fun h => h.dst == dst
    match mine with
    | [] => s
    | first :: _ =>
      if s.awaits dst then s
      else
        let go := mine.takeWhile fun h => h.route == first.route
        let s := { s with yal := { s.yal with held := s.yal.held.filter fun h => !go.contains h,
                                              paths := s.yal.paths.put dst first.route } }
        (forEach go (fun p s => s.sendHeld p) s).releaseHeld dst n

/-- A request is over: its waiter has its answer, and packets held behind it may go. -/
def State.closeRequest (s : State) (tag : Nat) (r : OutReq) (code : Nat) (data : List Byte) : State :=
  ((s.dropRequest tag r).answerWaiter r code data).releaseHeld r.dst (s.yal.held.length + 1)

/-- A response packet closes its request; one whose request has failed is discarded. -/
def State.serveResponse (s : State) (p : Packet) : State :=
  match s.yal.reqs.find? p.tag with
  | none => s
  | some r =>
    if r.dst ≠ p.src ∧ p.kind ≠ pkErrRsp then s
    else if p.kind = pkErrRsp then
      let code := if r.kind = pkGpoolReq ∧ p.op = 1 then fcGthRemoteDenied else errReports p.op
      s.closeRequest p.tag r code []
    else if p.kind = pkGpoolRsp then
      match s.gatherLong p with
      | (none, s) => s
      | (some data, s) => s.closeRequest p.tag r 0 data
    else s.closeRequest p.tag r 0 p.data

/-- No response has come within a request's bound (R410). -/
def State.requestTimeout (s : State) (tag : Nat) : State :=
  match s.yal.reqs.find? tag with
  | none => s
  | some r => if r.due ≤ s.atu.ticks then s.closeRequest tag r fcLinkTimeout [] else s

/-! ## The rest -/

/-- A DIGEST packet; while the store of held packets is full it waits on VC6 (R422). -/
def State.digestPacket (s : State) (k : Nat) : State :=
  s.packetOf k pkDigest (fun p s => (s.digestArrive p).isSome) fun p s => (s.digestArrive p).getD s

/-- The oldest BELAY packet without a path is dropped after 1 ms (R405). (log 116: DEDUCED) -/
def State.belayHoldTimeout (s : State) : State :=
  match s.yal.belays with
  | [] => s
  | p :: ps =>
    if s.passed p.2 ticksPerMs then { s with yal := { s.yal with belays := ps } }.devEvent evBelayHeld 0 [w32 p.1.dst] else s

/-- The manager writes an entry of the route table (R406). (log 116: DEDUCED) -/
def State.routeWrite (s : State) (src dst : Nat) (alt : Bool) (v : Nat) : State :=
  if src ≠ s.manager ∨ ¬s.domOn 75 then s
  else (s.writeReg (if alt then YAL_RTE_B else YAL_RTE_A) v dst).retryBelays

def State.yalClrCnt (s : State) (src : Nat) : State :=
  if src ≠ s.manager ∨ ¬s.domOn 75 then s
  else
    let s := forEach (List.range 8) (fun k s => (s.setReg YAL_LINK_CNT0 0 k).setReg YAL_LINK_CNT1 0 k) s
    forEach (List.range 16) (fun q s => s.setFld YAL_MQ_STAT.LOST 0 q) s

end Sys2Proof.Machine
end

