-- ==== Sys2Proof/Machine/BlackBox.lean ====
section
/-! DEFINITION. Retirement by command (R432), live repair (R32, R429), the leak grid (R425) and the commands of the black-box
writer (R439, R442). -/
namespace Sys2Proof.Machine

/-! ## Ethernet lanes (R428, R496) -/

/-- Lanes of port `n` under its quad's MODE; none where the mode does not create it. -/
def State.portLanes (s : State) (n : Nat) : List Nat :=
  match s.fld ETH_QUAD.MODE (n / 4) with
  | 1 => if n % 4 = 0 then [n, n + 1, n + 2, n + 3] else []
  | 2 => if n % 2 = 0 then [n, n + 1] else []
  | 3 => [n]
  | _ => []

/-- A port's link goes up or down, with its event (R503). -/
def State.ethLink (s : State) (n : Nat) (up : Bool) : State :=
  if s.flag ETH_PORT_STAT.LINK n = up then s
  else
    let s := ((s.setFld ETH_PORT_STAT.LINK (b2n up) n).devEvent evEthLink n [w32 (b2n up)]).aplicPulse 5
    if ¬up ∧ s.fld ATU_CTL.RCV_PORT = n then s.rcvCheck else s

/-- The PCIe link comes up or goes down, with its event (R490, R503). -/
def State.pcieLink (s : State) (up : Bool) (rate width : Nat) : State :=
  let s := ((s.setFld PCI_STAT.UP (b2n up)).setFld PCI_STAT.RATE rate).setFld PCI_STAT.WIDTH width
  (s.devEvent evPcieLink 0 [w32 (b2n up), w32 rate, w32 width]).aplicPulse 4

/-- An Ethernet lane is retired: the port that uses it goes down. (log 121: DEDUCED) -/
def State.retireEth (s : State) (l cause : Nat) : State :=
  if s.isRetired kEth l then s
  else
    let s := (s.markRetired kEth l).devEvent evRetired l [w32 kEth, w32 cause]
    forEach ((List.range 16).filter fun n => (s.portLanes n).contains l) (fun n s => s.ethLink n false) s

/-! ## Commanded retirement (R432) -/

/-- Requests of streams on their way to the local addresses given are still performed (R432, R446). -/
def State.holdQueued (s : State) (near : Nat → Bool) : State :=
  let me := s.chipId
  let mark := fun (r : SReq) => if chipOf r.ga = me ∧ near (localOf r.ga) then { r with queued := true } else r
  { s with tiles := ⟨s.tiles.rows.map fun r => (r.1, { r.2 with reqs := r.2.reqs.map mark })⟩ }

/-- Retire resource i of kind k (R428). -/
def State.retire (s : State) (k i cause : Nat) : State :=
  match k with
  | 0 => s.retireTile i cause
  | 1 => s.retireLd i cause
  | 2 => s.retirePolar i cause
  | 3 => s.retireEnc i cause
  | 4 => s.retirePra i cause
  | 5 => s.retirePch i cause
  | 6 => s.retireLane i cause
  | _ => s.retireEth i cause

/-- A write of BBX_RETIRE with GO. (log 121: DEDUCED) -/
def State.retireByCommand (s : State) (src k i : Nat) : State :=
  if src ≠ s.manager then s
  else if kindCount k ≤ i ∨ s.isRetired k i then s.setFld BBX_STAT.RET_ERR 1
  else (if k = kPch then s.holdQueued fun a => isHbm a && (a - hbmBase) / pchSize == i else s).retire k i causeCommanded

/-! ## Live repair (R32, R429) -/

/-- The copy to cluster c's spare ends; `bad` names the scale entries that failed their parity check, each with an event
(R168, R429). -/
def State.copyDone (s : State) (c : Nat) (bad : List (BitVec 12)) : State :=
  match s.repair.spareFor.find? c with
  | some n =>
    let s := { s with repair := { s.repair with copied := s.repair.copied.put c true, lost := s.repair.lost.put c bad } }
    forEach bad (fun e s => s.devEvent evScaleLost n [w32 e.toNat] (s.tileOwner n).toList) s
  | none => s

/-- The copy takes the tile-window register at offset `o` along: TIL_CTL and the TIL_NLOG registers, ARR_CKTOL, ARR_GAPFILL,
ELE_SATLIM, ELE_FLUSHLIM, ELE_LUT, STM_CFG, the check-value configuration and the scale file. -/
def copiedOffset (o : Nat) : Bool :=
  [0x00000, 0x00050, 0x00054, 0x00058, 0x0005C, 0x00060, 0x1000C, 0x10010, 0x20008, 0x2000C, 0x40000, 0x50000, 0x50008, 0x5000C,
   0x5001C].contains o || (decide (0x21000 ≤ o) && decide (o < 0x21400)) || decide (0x80000 ≤ o)

/-- Logical tile n moves to its cluster's spare in one step: the queue stays, the head of it starts. Scale entries
that the copy lost are zero (R168). (log 42: DESIGN CHOICE) -/
def State.moveToSpare (s : State) (n : Nat) : State :=
  let c := n / 16
  let x := s.tile n
  let base := 0x50000000 + n * 0x100000
  let s := { s with regs := s.regs.keep fun a => decide (a < base) || decide (base + 0x100000 ≤ a) || copiedOffset (a - base) }
  let s := forEach (s.repair.lost.getD c []) (fun e s => (s.setReg SCL_LO 0 n e.toNat).setReg SCL_HI 0 n e.toNat) s
  let s := s.clearMem (tileMemBase n) (tileMemBase n + 0x200000)
  let s := s.setTile n { queue := x.queue }
  let s := { s with repair := s.repair.without c }
  let s := (s.setSpare SYS_SPARE.SPARE_USED c).setTmap n 1 (17 * c + 16)
  (s.startHead n).restoreHead n

/-- Logical tile n has no tile left: OFFLINE. A spare that was retired while serving it serves no tile any more (R37).
(log 42: DESIGN CHOICE) -/
def State.goOffline (s : State) (n : Nat) : State :=
  let last := s.fld SYS_TMAP.PTILE n
  let s := if last % 17 = 16 then s.clearSpare SYS_SPARE.SPARE_USED (n / 16) else s
  let s := s.setTmap n 2 last
  s.devEvent evOffline n [w32 kTile] (s.tileOwner n).toList

/-- The drain of logical tile n has ended: it moves once the copy has ended too. (log 42: DESIGN CHOICE) -/
def State.tileMove (s : State) (n : Nat) : State :=
  if s.fld SYS_TMAP.STATE n ≠ 3 ∨ (s.tile n).task.isSome then s
  else if s.repair.spareFor.find? (n / 16) ≠ some n then s.goOffline n
  else if s.repair.copied.getD (n / 16) false then s.moveToSpare n
  else s

/-! ## Buckets (R425) -/

/-- BBX_BKTk.LEAK, in ticks (R443). (log 122: DEDUCED; log 165: DEDUCED) -/
def State.leakTicks (s : State) (k : Nat) : Nat := max 1 (bits (s.bucketReg k) 31 16) * ticksPerMs

/-- A point of kind k's grid: every level of the kind falls by 1. (log 122: DEDUCED) -/
def State.leak (s : State) (k : Nat) : State :=
  let at' := s.bbx.leakAt.getD k 0
  if ¬s.passed at' (s.leakTicks k) then s
  else
    let l := s.bbx.levels.rows.filterMap fun r =>
      if r.1 / 256 ≠ k then some r else if r.2 ≤ 1 then none else some (r.1, r.2 - 1)
    { s with bbx := { s.bbx with levels := ⟨l⟩, leakAt := s.bbx.leakAt.put k (at' + s.leakTicks k) } }

def bktReg (k : Nat) : Reg := ⟨BBX_BKT0.base + 4 * k, 0, 1, 0, 1⟩

/-! ## The writer (R439, R442, R443) -/

/-- The last slot of the current bank has been programmed. -/
def State.bankFull (s : State) : State := if s.fld BBX_STAT.LOGEND = 4095 then s.openBank else s

/-- A write of BBX_SWCMD with GO. (log 120: DEDUCED) -/
def State.softwareRecord (s : State) (src ev : Nat) : State :=
  if src ≠ s.manager then s
  else
    let s := s.setFld BBX_SWCMD.EVENT ev
    s.devEvent (0x0F00 + ev) 0 ((List.range 8).map fun i => w32 (s.reg BBX_SWREC i))

end Sys2Proof.Machine
end

