-- ==== Sys2Proof/Machine/BlackBoxOps.lean ====
section
/-! DEFINITION. The commands of faults, retirement and the black box (chapter 19). -/
namespace Sys2Proof.Machine

/-- A leak of kind k's buckets (R425). -/
def execBucketLeak (k : Fin 8) (s : State) : Host.Outcome State Fault Refusal := .next (s.leak k)

/-- The copy to a cluster's spare ends (R429). -/
def execSpareCopyDone (c : SpareCopy) (s : State) : Host.Outcome State Fault Refusal := .next (s.copyDone c.clu.val c.bad)

/-- A draining tile moves to the spare, or goes OFFLINE (R32, R429). -/
def execTileMove (t : TileIx) (s : State) : Host.Outcome State Fault Refusal := .next (s.tileMove t)

/-- A write of BBX_RETIRE with GO (R432). -/
def execBbxRetire (src : PtnIx) (kind : Fin 8) (index : BitVec 8) (s : State) : Host.Outcome State Fault Refusal :=
  .next (s.retireByCommand src kind index.toNat)

/-- A write of BBX_BKTk (R425, R443): the grid of the kind starts anew. (log 122: DEDUCED) -/
def State.bktWrite (s : State) (src k v : Nat) : State :=
  if src ≠ s.manager then s
  else { s with bbx := { s.bbx with leakAt := s.bbx.leakAt.put k s.atu.ticks } }.writeReg (bktReg k) v

def execBktWrite (src : PtnIx) (k : Fin 8) (value : Word) (s : State) : Host.Outcome State Fault Refusal :=
  .next (s.bktWrite src k value.toNat)

/-- The black-box writer sees its flash operation done (R438-R440). -/
def execPageProgramDone (s : State) : Host.Outcome State Fault Refusal := .next s.writerDone

/-- The current bank is full: the other is opened (R439). -/
def execBankOpen (s : State) : Host.Outcome State Fault Refusal := .next s.bankFull

/-- BBX_CTL.SWITCH (R439). -/
def State.bankSwitch (s : State) (src : Nat) : State := if src = s.manager then s.openBank else s

def execSwitch (src : PtnIx) (s : State) : Host.Outcome State Fault Refusal := .next (s.bankSwitch src)

/-- A write of BBX_SWCMD with GO (R442). -/
def execSoftwareRecord (src : PtnIx) (event : BitVec 8) (s : State) : Host.Outcome State Fault Refusal :=
  .next (s.softwareRecord src event.toNat)

/-- BBX_CTL.CLR_CNT (R443). -/
def State.bbxClrCnt (s : State) (src : Nat) : State := if src = s.manager then s.setReg BBX_CNT 0 else s

def execBbxClrCnt (src : PtnIx) (s : State) : Host.Outcome State Fault Refusal := .next (s.bbxClrCnt src)

end Sys2Proof.Machine
end

