-- ==== Sys2Proof/Machine/Identity.lean ====
section
/-! DEFINITION. Keys and signatures (R461, R467): P-256 and ECDSA as FIPS 186-5 gives them, the keys derived from the device
secret, and the floor mirror (R468). -/
namespace Sys2Proof.Machine

/-! ## P-256 -/

def pField : Nat := 0xffffffff00000001000000000000000000000000ffffffffffffffffffffffff
def pOrder : Nat := 0xffffffff00000000ffffffffffffffffbce6faada7179e84f3b9cac2fc632551
def pB : Nat := 0x5ac635d8aa3a93e7b3ebbd55769886bc651d06b0cc53b0f63bce3c3e27d2604b
def pGx : Nat := 0x6b17d1f2e12c4247f8bce6e563a440f277037d812deb33a0f4a13945d898c296
def pGy : Nat := 0x4fe342e2fe1a7f9b8ee7eb4a7c0f9e162bce33576b315ececbb6406837bf51f5

/-- The 256 bits of a number, most significant first. -/
def bits256 (e : Nat) : List Bool := (List.range 256).map fun i => bit e (255 - i)

def powMod (m b e : Nat) : Nat := (bits256 e).foldl (fun a x => if x then a * a % m * b % m else a * a % m) 1

def invMod (m a : Nat) : Nat := powMod m a (m - 2)

def pSub (a b : Nat) : Nat := (a + pField - b % pField) % pField
def pMul (a b : Nat) : Nat := a * b % pField

/-- A point in Jacobian coordinates; the point at infinity has z = 0. -/
structure JPoint where
  x : Nat
  y : Nat
  z : Nat
deriving DecidableEq, Repr

def jInf : JPoint := ⟨1, 1, 0⟩
def jBase : JPoint := ⟨pGx, pGy, 1⟩

def JPoint.double (p : JPoint) : JPoint :=
  if p.z = 0 ∨ p.y = 0 then jInf
  else
    let d := pMul p.z p.z
    let g := pMul p.y p.y
    let b := pMul p.x g
    let a := pMul 3 (pMul (pSub p.x d) ((p.x + d) % pField))
    let x := pSub (pMul a a) (8 * b)
    let y := pSub (pMul a (pSub (4 * b) x)) (8 * pMul g g)
    ⟨x, y, pMul 2 (pMul p.y p.z)⟩

def JPoint.add (p q : JPoint) : JPoint :=
  if p.z = 0 then q
  else if q.z = 0 then p
  else
    let z1 := pMul p.z p.z
    let z2 := pMul q.z q.z
    let u1 := pMul p.x z2
    let u2 := pMul q.x z1
    let s1 := pMul p.y (pMul z2 q.z)
    let s2 := pMul q.y (pMul z1 p.z)
    if u1 = u2 then if s1 = s2 then p.double else jInf
    else
      let h := pSub u2 u1
      let r := pSub s2 s1
      let h2 := pMul h h
      let h3 := pMul h2 h
      let v := pMul u1 h2
      let x := pSub (pSub (pMul r r) h3) (2 * v)
      ⟨x, pSub (pMul r (pSub v x)) (pMul s1 h3), pMul h (pMul p.z q.z)⟩

/-- (log 133: PRESUMED) -/
def JPoint.mul (k : Nat) (p : JPoint) : JPoint :=
  (bits256 k).foldl (fun a x => if x then a.double.add p else a.double) jInf

/-- Affine coordinates. -/
def JPoint.affine (p : JPoint) : Nat × Nat :=
  let i := invMod pField p.z
  let i2 := pMul i i
  (pMul p.x i2, pMul p.y (pMul i2 i))

/-- A big-endian number, and its bytes. -/
def ofBe (bs : List Byte) : Nat := ofBytes bs.reverse
def toBe (n v : Nat) : List Byte := (bytesOf n v).reverse

/-- ECDSA verification of a 64-byte signature of a digest under a 64-byte public key (R461). (log 133: PRESUMED) -/
def ecdsaVerify (pub digest sig : List Byte) : Bool :=
  let x := ofBe (pub.take 32)
  let y := ofBe ((pub.drop 32).take 32)
  let r := ofBe (sig.take 32)
  let t := ofBe ((sig.drop 32).take 32)
  let onCurve := decide (x < pField) && decide (y < pField)
    && pMul y y == (pSub (pMul x (pMul x x)) (3 * x) + pB) % pField
  if onCurve && decide (0 < r) && decide (r < pOrder) && decide (0 < t) && decide (t < pOrder) then
    let w := invMod pOrder t
    let q := (jBase.mul (ofBe digest * w % pOrder)).add ((⟨x, y, 1⟩ : JPoint).mul (r * w % pOrder))
    q.z != 0 && q.affine.1 % pOrder == r
  else false

/-- The signature of a digest under a private scalar with the per-signature number k; none where the standard takes another.
(log 133: PRESUMED) -/
def ecdsaSign (d : Nat) (digest : List Byte) (k : Nat) : Option (List Byte) :=
  let r := (jBase.mul k).affine.1 % pOrder
  let t := invMod pOrder k * (ofBe digest + r * d) % pOrder
  if k = 0 ∨ r = 0 ∨ t = 0 then none else some (toBe 32 r ++ toBe 32 t)

/-- Sign with numbers k that are free values; `fuel` bounds the retries. -/
def State.sign (s : State) (d : Nat) (digest : List Byte) : Nat → List Byte × State
  | 0 => ([], s)
  | fuel + 1 =>
    let (k, s) := s.draw
    match ecdsaSign d digest (k % pOrder) with
    | some sig => (sig, s)
    | none => s.sign d digest fuel

/-! ## Keys (R461, R466, R467) -/

def rootHash : List Byte := (List.range 32).map Config.rootHash

def keyHash (pub : List Byte) : List Byte := sha256 pub

/-- ASCII bytes of a label. -/
def ascii (t : String) : List Byte := t.toList.map fun c => BitVec.ofNat 8 c.toNat

/-- The device scalar: the first candidate in range. -/
def deviceScalar (secret : List Byte) : Option Nat :=
  (List.range 256).findSome? fun c =>
    let v := ofBe (hmac secret (ascii "DEVKEY" ++ bytesOf 1 c))
    if 0 < v ∧ v < pOrder then some v else none

/-- The device public key of a secret. -/
def devicePub (secret : List Byte) : List Byte :=
  let (x, y) := (jBase.mul ((deviceScalar secret).getD 0)).affine
  toBe 32 x ++ toBe 32 y

def floorKey (secret : List Byte) : List Byte := hmac secret (ascii "FLOOR")

def partitionKey (secret : List Byte) (owner p : Nat) : List Byte :=
  hmac secret (ascii "OWNER" ++ bytesOf 4 owner ++ bytesOf 1 p)

/-- Each byte of 64 signed by the signer, whose key hash is the root hash. -/
def rootSigned (signer signed sig : List Byte) : Bool := keyHash signer == rootHash && ecdsaVerify signer (sha256 signed) sig

/-! ## The floor mirror (R468, R469) -/

def mirrorMagic : Nat := 0x4C465A54

/-- The 64 bytes of a mirror copy. -/
def mirrorBytes (secret : List Byte) (mseq img own cal : Nat) : List Byte :=
  let h := bytesOf 4 mirrorMagic ++ bytesOf 4 mseq ++ bytesOf 4 img ++ bytesOf 4 own ++ bytesOf 4 cal ++ List.replicate 12 0#8
  h ++ hmac (floorKey secret) h

def mirrorAt (c : Nat) : Nat := 0x2000 + 0x1000 * c

/-- Mirror copy c is valid. -/
def State.mirrorValid (s : State) (c : Nat) : Bool :=
  match s.sec.secret with
  | none => false
  | some k =>
    let b := s.flashRead (mirrorAt c) 64
    field b 0 4 == mirrorMagic && (b.take 32).drop 20 == List.replicate 12 0#8 && b.drop 32 == hmac (floorKey k) (b.take 32)

def State.mirrorSeq (s : State) (c : Nat) : Nat := field (s.flashRead (mirrorAt c) 8) 4 4

/-- The current copy: the valid one with the higher MSEQ. -/
def State.mirrorCur (s : State) : Option Nat :=
  match s.mirrorValid 0, s.mirrorValid 1 with
  | true, true => some (if s.mirrorSeq 0 < s.mirrorSeq 1 then 1 else 0)
  | true, false => some 0
  | false, true => some 1
  | false, false => none

/-- The copy that a commit replaces. -/
def State.mirrorOld (s : State) : Nat := if s.mirrorCur = some 0 then 1 else 0

/-- The current mirror's floors; zero where there is none. (log 132: DEDUCED) -/
def State.mirrorFloor (s : State) (i : Nat) : Nat :=
  match s.mirrorCur with
  | some c => field (s.flashRead (mirrorAt c) 64) (8 + 4 * i) 4
  | none => 0

/-- The older mirror sector is erased and programmed with the floors in force and MSEQ + 1. -/
def State.writeMirror (s : State) : State :=
  match s.sec.secret with
  | none => s
  | some k =>
    let old := s.mirrorOld
    let mseq := ((s.mirrorCur.map s.mirrorSeq).getD 0 + 1) % 2 ^ 32
    let bs := mirrorBytes k mseq (s.reg SEC_IMG_FLOOR) (s.reg SEC_OWN_FLOOR) (s.reg SEC_CAL_FLOOR)
    (s.flashErase (mirrorAt old) 4096).flashProgram (mirrorAt old) bs

end Sys2Proof.Machine
end

