-- ==== Sys2Proof/Machine/Power.lean ====
section
/-! DEFINITION. Resets, power domains, operating points, the power limit, supply and thermal supervision, Stop and the RTC
(chapter 20; R464, R512, R513). -/
namespace Sys2Proof.Machine

/-! ## Reset -/

/-- (log 123: DESIGN CHOICE) -/
def inRetained (a : Nat) : Bool := decide (0x02000000 ≤ a) && decide (a < 0x02001000)
/-- (log 123: DESIGN CHOICE) -/
def inOasis (a : Nat) : Bool := decide (0x40030000 ≤ a) && decide (a < 0x40040000)

/-- The reset value of ATU_SYNC_CFG.LEADER is 1 on the device at position 0 (R67). -/
def State.strapLeader (s : State) : State := s.setFld ATU_SYNC_CFG.LEADER (b2n (s.fld SYS_CHIPID.GRP_POS == 0))

/-- HBM before a reset that does not follow from Stop: the lines that the system cache holds dirty are lost. -/
def State.cacheCut (s : State) : State :=
  forEach s.syc.rows (fun r s =>
    match r.2.old with
    | some bs => s.poke (r.1 * 64) bs
    | none => s) s

/-- Every domain but OAS resets (R453): what lies in the oasis domain, the flash, and the stacks in self-refresh while their supplies
stay up (R391) keeps its contents. `cause` holds the bits of OAS_RSTCAUSE; `keepHbm`: Stop has put the stacks in self-refresh; `up`:
the HBM supplies are in tolerance. (log 123: DESIGN CHOICE) -/
def State.deviceReset (s : State) (cause : Nat) (keepHbm : Bool := false) (up : Bool := true) : State :=
  let s := (if keepHbm then s else s.cacheCut).flashCut s.mirrorOld
  let kept := fun (st : Nat) => up && (keepHbm || s.flag HBM_STAT.SELF_REFRESH st)
  let grp := s.fld SYS_CHIPID.GRP_POS
  let r : State := { State.reset with
    regs := s.regs.keep inOasis
    mem := s.mem.keep fun a => inRetained a || (isHbm a && kept ((a - hbmBase) / pchSize / 32))
    mmu := { flaws := s.mmu.flaws.keep fun g => kept ((32 * g - hbmBase) / pchSize / 32) }
    flash := s.flash
    atu := { ticks := s.atu.ticks }
    bbx := { leakAt := s.bbx.leakAt, staged := s.bbx.staged, head := s.bbx.head, tail := s.bbx.tail, rseq := s.bbx.rseq }
    power := { sagLow := s.power.sagLow, sagAt := s.power.sagAt, tripLow := s.power.tripLow, rtc := s.power.rtc, kept := keepHbm }
    boot := { porst := s.boot.porst, railsDown := s.boot.railsDown, perst := s.boot.perst, mode := s.boot.mode }
    harts := { wires := s.harts.wires }
    out := s.out
    freeCtr := s.freeCtr
    pending := s.pending }
  let r := ((r.setFld SYS_CHIPID.GRP_POS grp).strapLeader).setFld OAS_RSTCAUSE.CAUSE cause
  let r := (r.setReg BBX_RSEQ r.bbx.rseq).setFld BBX_STAT.STAGED r.bbx.staged.length
  forEach ([0, 1, 2, 3].filter kept) (fun st r => r.setFld HBM_STAT.SELF_REFRESH 1 st) r

/-- The sequencer's state, which SEC_BOOT shows. -/
def State.setBoot (s : State) (st : Nat) : State := { s with boot := { s.boot with state := st } }.setFld SEC_BOOT.STATE st

/-- The power record (R457). (log 124: DEDUCED) -/
def State.powerRecord (s : State) : State :=
  let r := bytesOf 4 (s.reg OAS_RSTCAUSE) ++ bytesOf 1 (b2n s.power.kept + 2 * b2n s.power.tripped) ++ List.replicate 55 0#8
  s.poke 0x020000C0 (r ++ bytesOf 4 (crc32c r))

/-- The sequencer leaves RESET for FLASH once nothing holds the device in reset. (log 124: DEDUCED) -/
def State.leaveReset (s : State) : State :=
  let b := s.boot
  if b.state = 0 ∧ b.porst ∧ b.pll ∧ ¬b.railsDown ∧ s.power.stop.isNone then
    (({ s with boot := { s.boot with since := s.atu.ticks } }.setBoot 1).setFld SEC_BOOT.MODE b.mode).powerRecord
  else s

/-- SYS_RST_OUT_N is high (R512). -/
def State.sysRstOut (s : State) : Bool := s.boot.porst && s.boot.state == 8 && s.power.stop.all fun x => !x.entered

/-- A falling edge of PORST_N: a power-on reset (R513). `oasis`: VDD_OASIS stays in tolerance; `cool`: every sensor reads below
115 degrees. (log 123: DESIGN CHOICE) -/
def State.porstFall (s : State) (supply trip oasis cool : Bool) : State :=
  let s := { s with boot := { s.boot with porst := false } }.deviceReset (1 + 2 * b2n supply + 4 * b2n trip) false (!supply)
  let s := { s with power := { s.power with tripLow := s.power.tripLow && !cool }
                    bbx := { s.bbx with leakAt := ⟨(List.range 8).map fun k => (k, s.atu.ticks)⟩ } }
  if oasis then s
  else
    let s := { s with regs := s.regs.keep fun a => !inOasis a, bbx := { leakAt := s.bbx.leakAt }, power := { s.power with rtc := 0 } }
    let s := s.setFld OAS_RSTCAUSE.CAUSE (1 + 2 * b2n supply + 4 * b2n trip)
    forEach (List.range 4096) (fun i s =>
      let (x, s) := s.draw
      s.poke (0x02000000 + i) [BitVec.ofNat 8 x]) s

/-- A rising edge of PORST_N latches the straps. -/
def State.porstRise (s : State) (grp mode : Nat) : State :=
  if s.boot.porst then s
  else ({ s with boot := { s.boot with porst := true, mode := mode } }.setFld SYS_CHIPID.GRP_POS grp).strapLeader.leaveReset

/-- The REFCLK_100M PLL locks; BOOT_MODE is sampled in RESET. -/
def State.pllLocked (s : State) (mode : Nat) : State :=
  if s.boot.state ≠ 0 ∨ s.boot.pll then s else { s with boot := { s.boot with pll := true, mode := mode } }.leaveReset

/-! ## Power domains (R444-R447, R529) -/

def domRun : Nat := 0
def domDraining : Nat := 1
def domIsolating : Nat := 2
def domOff : Nat := 3
def domPowering : Nat := 4
def domRestoring : Nat := 5

def State.domState (s : State) (d : Nat) : Nat := s.fld PWR_DOM_STAT.STATE d

/-- Enabled partitions that own what a domain holds. -/
def State.domOwners (s : State) (d : Nat) : List Nat :=
  if d < 64 then (s.tileOwner d).toList
  else if 68 ≤ d ∧ d < 72 then (List.range 16).filter fun p => s.ptnOn p && s.reg PTN_PCH p (d - 68) != 0
  else []

/-- Memory of domain d. -/
def domMemory (d a : Nat) : Bool :=
  domainOf a == d && match region a with
    | .tileMem _ _ => true
    | .cluMem _ _ => true
    | .hbm _ => true
    | .pcie _ _ => true
    | _ => false

/-- A domain's state changes; what is on its way to its memory when it begins to drain still completes, and each arrival in ON or
OFF raises DOM_STATE. (log 125: DEDUCED) -/
def State.setDom (s : State) (d st : Nat) : State :=
  let s := s.setFld PWR_DOM_STAT.STATE st d
  let s := if st = domDraining then s.holdQueued (domMemory d) else s
  if st = domRun ∨ st = domOff then s.devEvent evDomState d [w32 st] (s.domOwners d) else s

/-- Why a request is refused (R445, R485): 1 FIXED, 2 OWNED, 3 DEPEND, 4 RETIRED. -/
def State.domRefusal (s : State) (d : Nat) (on : Bool) : Option Nat :=
  if on then
    if d < 64 ∧ s.domState (64 + d / 16) ≠ domRun then some 3
    else if d < 64 ∧ s.fld SYS_TMAP.STATE d = 2 then some 4
    else if d = 80 ∧ ¬s.boot.debug then some 1
    else none
  else if d = 72 ∨ d = 79 ∨ d = 81 then some 1
  else if d < 64 ∧ (s.tileOwner d).isSome then some 2
  else if 64 ≤ d ∧ d < 68 ∧ (List.range 16).any (fun i => s.domState (16 * (d - 64) + i) != domOff) then some 3
  else if 68 ≤ d ∧ d < 72 ∧ s.stackUsed (d - 68) then some 2
  else if d = 73 ∧ [4, 5, 6, 7].any (fun h => s.fld ACI_HART_STAT.STATE h != 0) then some 3
  else none

/-- A request for domain d (R445, R447). None is taken while the device goes into Stop. (log 125: DEDUCED) -/
def State.domRequest (s : State) (src d : Nat) (on : Bool) : State :=
  if src ≠ s.manager ∨ ¬s.domOn 79 ∨ s.power.stop.isSome then s
  else
    match s.domRefusal d on with
    | some e => s.setFld PWR_DOM_STAT.ERR e d
    | none =>
      let s := s.setFld PWR_DOM_STAT.ERR 0 d
      let st := s.domState d
      if on then
        if st = domOff then s.setDom d domPowering
        else if st = domDraining ∨ st = domIsolating then s.setFld PWR_DOM_STAT.PENDING_ON 1 d
        else s.setFld PWR_DOM_STAT.PENDING_OFF 0 d
      else if st = domRun then s.setDom d domDraining
      else if st = domPowering ∨ st = domRestoring then s.setFld PWR_DOM_STAT.PENDING_OFF 1 d
      else s.setFld PWR_DOM_STAT.PENDING_ON 0 d

/-- Transactions to or from the domain are in flight: requests of a stream engine to its memory or window, accesses of a hart of the
domain that the host or another device is to answer, and the domain's own. (log 125: DEDUCED) -/
def State.domBusy (s : State) (d : Nat) : Bool :=
  (s.tiles.rows.any fun r => r.2.reqs.any fun q => chipOf q.ga == s.chipId && domMemory d (localOf q.ga)) ||
  (s.harts.host.rows.any fun r => d == 76 || hartDomain r.1 == d) ||
  (s.yal.reqs.rows.any fun r => r.2.who == 1 && hartDomain r.2.a == d) ||
  if d < 64 then !(s.tile d).reqs.isEmpty
  else if d < 68 then s.gather.units.rows.any fun r => r.2.clu == d - 64
  else if d = 75 then !s.yal.reqs.rows.isEmpty || s.yal.links.rows.any fun r => !r.2.txq.isEmpty || !r.2.rx.isEmpty
  else if d = 76 then !s.pci.posted.isEmpty || !s.pci.held.isEmpty
  else false

/-- The state of the units of domain d is lost with its power (R446). (log 158: DEDUCED) -/
def State.loseUnits (s : State) (d : Nat) : State :=
  if d < 64 then { s with tiles := s.tiles.del d }
  else if d < 68 then { s with holders := s.holders.keep fun k => k / 1024 != d - 64 }
  else if d < 72 then
    let st := d - 68
    let s := s.setFld HBM_STAT.SELF_REFRESH 1 st
    forEach (List.range 32) (fun q s =>
      if s.isRetired kPch (32 * st + q) then s.setFld HBM_PCH.STATE 1 st q else s) s
  else if d < 74 then
    let mine := fun (h : Nat) => hartDomain h == d
    let s := forEach ((List.range 8).filter mine) (fun h s => s.setFld ACI_HART_STAT.WAYOFF 0 h) s
    { s with harts := { s.harts with
      imsic := s.harts.imsic.keep fun k => !mine (k / 2048 / 16)
      dirty := ⟨s.harts.dirty.rows.filter fun r => !mine r.2.way⟩
      wayErr := s.harts.wayErr.keep fun k => !mine (k / 16)
      rsv := s.harts.rsv.keep fun h => !mine h
      last := s.harts.last.keep fun h => !mine h
      entry := s.harts.entry.keep fun h => !mine h
      host := s.harts.host.keep fun h => !mine h } }
  else if d = 74 then { s with fhe := { sums := s.fhe.sums }, eth := {} }.praOff fun _ => true
  else if d = 75 then { s with yal := {} }
  else if d = 76 then { s with pciFns := .empty, pci := {} }
  else if d = 77 then { s with atu := { ticks := s.atu.ticks } }.strapLeader
  else if d = 78 then { s with sec := {} }
  else s

/-- A domain is OFF: its memories and its registers are lost; an HBM stack keeps its contents in self-refresh (R529).
A port that RCVCLK is derived from loses its link (R52). (log 158: DEDUCED) -/
def State.loseDomain (s : State) (d : Nat) : State :=
  let driven := s.rcvClk
  let s := State.loseUnits { s with
    regs := s.regs.keep fun a => domainOf a != d || inRetained a
    mem := s.mem.keep fun a => domainOf a != d || isHbm a } d
  if driven then s.rcvCheck else s

/-! ## Stop (R455-R457) -/

/-- The device is in Stop: everything but the oasis domain, the flash and, with KEEP, HBM is off. (log 126: DEDUCED) -/
def State.enterStop (s : State) (x : StopState) : State :=
  let s := forEach (([71, 70, 69, 68].filter fun d => s.domState d == domRun) ++ [79]) (fun d s => s.setDom d domOff) s
  let s := s.deviceReset (s.fld OAS_RSTCAUSE.CAUSE) x.keep x.keep
  let s := forEach [72, 77, 78, 79] (fun d s => s.setFld PWR_DOM_STAT.STATE domOff d) s
  { s with power := { s.power with stop := some { x with entered := true, todo := [] } } }

/-- The next domain to go: the first listed that is ON. -/
def nextToGo (on : Nat → Bool) : List Nat → Option (Nat × List Nat)
  | [] => none
  | d :: ds => if on d then some (d, ds) else nextToGo on ds

/-- Stop takes its next domain down, once the one before is OFF. (log 126: DEDUCED) -/
def State.stopStep (s : State) : State :=
  match s.power.stop with
  | none => s
  | some x =>
    if x.entered ∨ (List.range 82).any (fun d => s.domState d == domDraining || s.domState d == domIsolating) then s
    else
      match nextToGo (fun d => s.domState d == domRun) x.todo with
      | some (d, ds) => { s with power := { s.power with stop := some { x with todo := ds } } }.setDom d domDraining
      | none => s.enterStop x

/-- Stop begins once every transition has ended: the domains but FAB, OAS and, with KEEP, HBM in descending order. -/
def State.tryStop (s : State) : State :=
  match s.power.stopDue with
  | none => s
  | some x =>
    if (List.range 82).any fun d => s.domState d != domRun && s.domState d != domOff then s
    else
      let all := ((List.range 81).reverse).filter fun d => d != 79 && !(x.keep && decide (68 ≤ d) && decide (d < 72))
      { s with power := { s.power with stopDue := none, stop := some { x with todo := all } } }.stopStep

/-- Stop is asked for. A thermal trip keeps no HBM, whatever was asked for before. (log 126: DEDUCED) -/
def State.askStop (s : State) (keep thermal : Bool) : State :=
  match s.power.stop with
  | none => { s with power := { s.power with stopDue := some { keep := keep, thermal := thermal } } }.tryStop
  | some x =>
    if x.entered ∨ ¬thermal then s
    else
      let more := if x.keep then [71, 70, 69, 68] else []
      { s with power := { s.power with stop := some { x with keep := false, thermal := true, todo := x.todo ++ more } } }

/-- A write of PWR_STOP with GO. -/
def State.stopWrite (s : State) (src : Nat) (keep : Bool) : State :=
  if src ≠ s.manager ∨ ¬s.domOn 79 ∨ s.power.stop.isSome ∨ s.power.stopDue.isSome then s
  else (s.setFld PWR_STOP.KEEP (b2n keep)).askStop keep false

/-- The device leaves Stop and boots. (log 124: DEDUCED) -/
def State.wake (s : State) (x : StopState) (cool : Bool) : State :=
  let s := s.devEvent evRtcWake 0 [w64 (s.power.rtc / 32768)]
  let s := { s with power := { s.power with stop := none, tripLow := s.power.tripLow && !cool } }
  let s := s.deviceReset (8 + 4 * b2n x.thermal) x.keep x.keep
  { s with power := { s.power with tripped := x.thermal } }

def State.alarmAt (s : State) : Nat := s.reg OAS_ALARM_LO + 2 ^ 32 * s.fld OAS_ALARM_HI.SEC

/-- The RTC reaches the alarm (R457). `temp`: the oasis sensor, in degrees. -/
def State.rtcAlarm (s : State) (temp : Int) (cool : Bool) : State :=
  match s.power.stop with
  | none => s
  | some x =>
    if ¬x.entered ∨ ¬s.flag OAS_CTL.ALARM_EN ∨ s.power.rtc / 32768 ≠ s.alarmAt then s
    else if x.thermal ∧ 95 ≤ temp then { s with power := { s.power with stop := some { x with alarmed := true } } }
    else s.wake x cool

/-- After a thermal trip the oasis sensor has cooled, with the alarm already reached. -/
def State.coolWake (s : State) (temp : Int) (cool : Bool) : State :=
  match s.power.stop with
  | none => s
  | some x => if x.entered ∧ x.alarmed ∧ temp < 95 then s.wake x cool else s

/-! ## The steps of a domain (R446) -/

/-- What waits for transitions to end goes on. -/
def State.transitionEnded (s : State) : State := s.stopStep.tryStop

def State.drainDone (s : State) (d : Nat) : State :=
  if s.domState d ≠ domDraining ∨ s.domBusy d then s
  else
    let s := s.setDom d domIsolating
    if 68 ≤ d ∧ d < 72 then
      ((s.setFld HBM_STAT.SELF_REFRESH 1 (d - 68)).setFld HBM_STAT.TRAINED 0 (d - 68)).setFld HBM_STAT.TRAIN_FAIL 0 (d - 68)
    else s

def State.isolateDone (s : State) (d : Nat) : State :=
  if s.domState d ≠ domIsolating then s
  else
    let s := (s.loseDomain d).setDom d domOff
    let s := if s.flag PWR_DOM_STAT.PENDING_ON d then (s.setFld PWR_DOM_STAT.PENDING_ON 0 d).setDom d domPowering else s
    s.transitionEnded

def State.rampDone (s : State) (d : Nat) : State := if s.domState d ≠ domPowering then s else s.setDom d domRestoring

def State.restoreDoneDom (s : State) (d : Nat) : State :=
  if s.domState d ≠ domRestoring then s
  else
    let s := s.setDom d domRun
    let s := if s.flag PWR_DOM_STAT.PENDING_OFF d then (s.setFld PWR_DOM_STAT.PENDING_OFF 0 d).setDom d domDraining else s
    s.transitionEnded

/-! ## Operating points (R448-R450) -/

/-- (log 127: DEDUCED) -/
def State.powerFloor (s : State) (c : Nat) : Nat := bits (s.fld PWR_STAT.FLOORS) (2 * c + 1) (2 * c)

/-- (log 127: DEDUCED) -/
def State.setPowerFloor (s : State) (c v : Nat) : State :=
  s.setFld PWR_STAT.FLOORS (setBits (s.fld PWR_STAT.FLOORS) (2 * c + 1) (2 * c) v)

/-- The effective target of R448. -/
def State.opTarget (s : State) (c : Nat) : Nat :=
  max (max (s.fld CLK_CL_OP.REQ c) (s.powerFloor c)) (max (s.power.thermal.getD c 0) (if s.power.sagLow then 3 else 0))

def State.setStep (s : State) (c : Nat) (x : OpStep) : State :=
  { s with power := { s.power with steps := s.power.steps.put c x } }

/-- The target is judged again: a step starts, or the change is latched as pending. -/
def State.retarget (s : State) (c : Nat) : State :=
  let t := s.opTarget c
  let s := s.setFld CLK_CL_OP.TARGET t c
  match s.power.steps.find? c with
  | some x => s.setFld CLK_CL_OP.PEND (b2n (t != x.target)) c
  | none =>
    if t = s.fld CLK_CL_OP.CUR c then s.setFld CLK_CL_OP.PEND 0 c
    else
      let go := decide (s.fld CLK_CL_OP.CUR c < t) && s.power.idlePll.find? c == some t
      let s := if go then { s with power := { s.power with idlePll := s.power.idlePll.del c } } else s
      ((s.setStep c { target := t, switched := go }).setFld CLK_CL_OP.BUSY 1 c).setFld CLK_CL_OP.PEND 0 c

def State.retargetAll (s : State) : State := forEach [0, 1, 2, 3] (fun c s => s.retarget c) s

/-- Frequency and voltage have reached the point. -/
def State.opDone (s : State) (c : Nat) (x : OpStep) : State :=
  let s := { s with power := { s.power with steps := s.power.steps.del c } }
  let s := (s.setFld CLK_CL_OP.CUR x.target c).setFld CLK_CL_OP.BUSY 0 c
  (s.devEvent evOpDone c [w32 x.target]).retarget c

/-- A step to a slower point: its frequency goes before its voltage. (log 129: DEDUCED) -/
def State.goesDown (s : State) (c : Nat) (x : OpStep) : Bool := decide (s.fld CLK_CL_OP.CUR c < x.target)

/-- The step goes as far as it can: the clock switches once the idle PLL has locked to the target, for a faster point once the
voltage has settled; then the step ends. (log 129: DEDUCED) -/
def State.opAdvance (s : State) (c : Nat) : State :=
  match s.power.steps.find? c with
  | none => s
  | some x =>
    let locked := s.power.idlePll.find? c == some x.target
    let go := locked && !x.switched && (s.goesDown c x || x.settled)
    let s := if go then { s with power := { s.power with idlePll := s.power.idlePll.del c } } else s
    let x := { x with switched := x.switched || go }
    if x.switched ∧ x.settled then s.opDone c x else s.setStep c x

/-- The idle PLL locks: to the step's target until the clock has switched, then to that of the pending change. -/
def State.pllLock (s : State) (c : Nat) : State :=
  match s.power.steps.find? c with
  | none => s
  | some x =>
    let t := if x.switched then s.fld CLK_CL_OP.TARGET c else x.target
    { s with power := { s.power with idlePll := s.power.idlePll.put c t } }.opAdvance c

/-- The regulator reports the target voltage. -/
def State.voltageReached (s : State) (c : Nat) : State :=
  match s.power.steps.find? c with
  | none => s
  | some x => if s.goesDown c x ∧ ¬x.switched then s else s.setStep c { x with reached := true, reachedAt := if x.reached then x.reachedAt else s.atu.ticks }

/-- CLK_VSETTLE.US has passed since the report (R449). (log 129: DEDUCED) -/
def State.settled (s : State) (c : Nat) : State :=
  match s.power.steps.find? c with
  | none => s
  | some x =>
    if x.reached ∧ s.passed x.reachedAt (s.fld CLK_VSETTLE.US * ticksPerUs) then (s.setStep c { x with settled := true }).opAdvance c
    else s

/-- A write of CLK_CLc_OP.REQ; without a calibration record it acts as OP3 (R467). -/
def State.opReq (s : State) (src c v : Nat) : State :=
  if src ≠ s.manager ∨ ¬s.domOn 79 then s
  else (s.setFld CLK_CL_OP.REQ (if s.boot.calOk then v else 3) c).retarget c

/-! ## The power limit (R451) -/

def State.powerLimit (s : State) : Nat := min (s.fld PWR_LIMIT.W) 480

/-- The cluster of those listed with the highest estimate, the lower index on ties. -/
def highest (est : Nat → Nat) : List Nat → Option Nat
  | [] => none
  | c :: cs =>
    match highest est cs with
    | some d => if est c < est d then some d else some c
    | none => some c

/-- An estimate of package power: the averages over 1 ms and 10 µs, and each cluster's estimate, in W. (log 127: DEDUCED) -/
def State.powerEstimate (s : State) (ms us10 : Nat) (est : Nat → Nat) : State :=
  if ¬s.domOn 79 then s
  else
    let w := s.powerLimit
    let s := s.setFld PWR_STAT.POWER (min ms 511)
    let low := if 100 * ms < 95 * w then s.power.below + 1 else 0
    let s := { s with power := { s.power with below := low, sinceRaise := min 1000 (s.power.sinceRaise + 1) } }
    if 110 * w < 100 * us10 then (s.setFld PWR_STAT.FLOORS 0xFF).retargetAll
    else if w < ms ∧ 1000 ≤ s.power.sinceRaise then
      match highest est ([0, 1, 2, 3].filter fun c => decide (s.powerFloor c < 3)) with
      | none => s
      | some c =>
        let f := s.powerFloor c + 1
        let s := { s with power := { s.power with sinceRaise := 0 } }.setPowerFloor c f
        (s.devEvent evThrottle c [w32 f, w32 ms]).retarget c
    else if 10000 ≤ low then
      let s := { s with power := { s.power with below := 0 } }
      match [3, 2, 1, 0].find? fun c => decide (0 < s.powerFloor c) with
      | none => s
      | some c => (s.setPowerFloor c (s.powerFloor c - 1)).retarget c
    else s

/-! ## Supply and thermal supervision (R452-R455) -/

/-- VDD_CLc at an operating point, in mV (R448). -/
def opMillivolts (op : Nat) : Nat :=
  match op with
  | 0 => 800
  | 1 => 720
  | 2 => 650
  | _ => 580

/-- The reference of a monitored rail, in mV: VDD_CL0-VDD_CL3 at their operating points, the lower voltage during a step, then
VDD_SOC, VDD_SRAM, VDD_APC and VDD_HBM at their nominal voltages (R452, R514). -/
def State.railRef (s : State) (rail : Nat) : Nat :=
  if rail < 4 then
    let cur := s.fld CLK_CL_OP.CUR rail
    opMillivolts (max cur (((s.power.steps.find? rail).map fun x => x.target).getD cur))
  else if rail = 5 then 800
  else if rail = 7 then 1100
  else 750

/-- A rail's reading lies below the warning threshold. -/
def State.sags (s : State) (rail mv : Nat) : Bool := decide (100 * mv < s.railRef rail * (100 - s.fld PWR_SAG.WARN))

/-- A rail falls below the warning threshold (R452). -/
def State.sagWarn (s : State) (rail mv : Nat) : State :=
  if s.power.sagLow ∨ ¬s.sags rail mv then s
  else
    let s := { s with power := { s.power with sagLow := true, sagAt := s.atu.ticks } }.abandonOpening
    ((s.devEvent evSagWarn rail [w32 mv]).aplicWire 6 false).pumpFlash.retargetAll

/-- Every rail has stayed above the threshold for 100 µs: the warning ends (R452). -/
def State.sagClear (s : State) : State :=
  if ¬s.power.sagLow ∨ ¬s.passed s.power.sagAt (100 * ticksPerUs) then s
  else
    (({ s with power := { s.power with sagLow := false } }.devEvent evSagClear 0 []).aplicWire 6 true).pumpFlash.retargetAll

/-- A rail has fallen below the reset threshold. Whether the supplies of the HBM stacks stay in tolerance, so that those in
self-refresh keep their contents (R391), is a free value. (log 123: DESIGN CHOICE) -/
def State.supplyReset (s : State) : State :=
  let (x, s) := s.draw
  { s with boot := { s.boot with railsDown := true } }.deviceReset 2 false (x % 2 == 1)

def State.supplyRecovered (s : State) : State := { s with boot := { s.boot with railsDown := false } }.leaveReset

/-- A write of PWR_SAG: ignored where a code is out of range, or the thresholds lie too close. -/
def State.sagWrite (s : State) (src v : Nat) : State :=
  let w := bits v 3 0
  let r := bits v 11 8
  if src ≠ s.manager ∨ ¬s.domOn 79 ∨ w < 2 ∨ 8 < w ∨ r < 6 ∨ 12 < r ∨ r < w + 2 then s
  else (s.setFld PWR_SAG.WARN w).setFld PWR_SAG.RST r

/-- A cluster's sensor reads 100 degrees or more. (log 128: DEDUCED) -/
def State.thermWarn (s : State) (c sensor : Nat) (temp : Int) : State :=
  if temp < 100 ∨ s.power.hot.getD c false then s
  else
    { s with power := { s.power with hot := s.power.hot.put c true } }.devEvent evThermWarn sensor [w32 (toBits 32 temp)]

/-- A step of a cluster's thermal floor: up while it is hot, at most one each millisecond, or down once it has cooled, at most one
each 10 ms. (log 128: DEDUCED) -/
def State.thermalStep (s : State) (c : Nat) (up : Bool) : State :=
  let f := s.power.thermal.getD c 0
  let hot := s.power.hot.getD c false
  let set := fun (v : Nat) (h : Bool) =>
    { s with power := { s.power with thermal := s.power.thermal.set (fun _ => 0) c v, hot := s.power.hot.set (fun _ => false) c h,
                                     thermAt := s.power.thermAt.put c s.atu.ticks } }.retarget c
  if ((s.power.thermAt.find? c).any fun t => !s.passed t ((if up then 1 else 10) * ticksPerMs)) then s
  else if up then if hot then set (min 3 (f + 1)) true else s
  else if ¬hot ∧ f = 0 then s
  else
    let s := set (f - 1) false
    if f ≤ 1 then s.devEvent evThermClear c [] else s

/-- A sensor reads 115 degrees or more: Stop without keeping HBM. -/
def State.thermTrip (s : State) (sensor : Nat) (temp : Int) : State :=
  if temp < 115 ∨ s.power.tripLow then s
  else
    let s := { s with power := { s.power with tripLow := true } }.devEvent evThermTrip sensor [w32 (toBits 32 temp)]
    s.askStop false true

/-! ## Reference clocks (R458) -/

/-- Reference clock r is lost: 0 REFCLK_100M, 1 TIMECLK, 2 ETH_REFCLK, 3 PCIE_REFCLK. (log 130: DEDUCED) -/
def State.clockLoss (s : State) (r : Nat) : State :=
  if r = 0 then s.deviceReset 16
  else if ¬s.domOn 79 ∨ bit (s.fld CLK_STAT.LOSS) r then s
  else
    let s := (s.setFld CLK_STAT.LOSS (s.fld CLK_STAT.LOSS ||| 2 ^ r)).devEvent evClkLoss r []
    if r = 1 then if s.domOn 77 then s.enterHoldover else s
    else if r = 2 then forEach (List.range 16) (fun n s => s.ethLink n false) s
    else if s.flag PCI_STAT.UP then s.pcieLink false 0 0 else s

def State.clockReturn (s : State) (r : Nat) : State :=
  if r = 0 ∨ ¬bit (s.fld CLK_STAT.LOSS) r then s else s.setFld CLK_STAT.LOSS (s.fld CLK_STAT.LOSS - 2 ^ r)

/-! ## The RTC (R460) -/

/-- A 32.768 kHz tick; the 48-bit seconds wrap. -/
def State.rtcTick (s : State) : State := { s with power := { s.power with rtc := (s.power.rtc + 1) % 2 ^ 63 } }

/-- A read of OAS_RTC_SUB latches the seconds. -/
def State.rtcLatch (s : State) : State :=
  let t := s.power.rtc
  ((s.setReg OAS_RTC_SUB (t % 32768)).setReg OAS_RTC_LO (t / 32768 % 2 ^ 32)).setReg OAS_RTC_HI (t / 32768 / 2 ^ 32)

/-- A write of OAS_RTC_HI loads the seconds and clears SUB. -/
def State.rtcLoad (s : State) (src hi : Nat) : State :=
  if src ≠ s.manager then s
  else
    let s := (s.setReg OAS_RTC_HI (hi % 65536)).setReg OAS_RTC_SUB 0
    { s with power := { s.power with rtc := (s.reg OAS_RTC_LO + 2 ^ 32 * (hi % 65536)) * 32768 } }

end Sys2Proof.Machine
end

