-- ==== Sys2Proof/Machine/Boot.lean ====
section
/-! DEFINITION. The boot sequencer and the security engine (chapter 21), with the recovery of the black box (R441) and the
rebuild of the mapping (R34, R431). -/
namespace Sys2Proof.Machine

/-- FAIL, entered from the state the sequencer is in. -/
def State.bootFail (s : State) : State := (s.setFld SEC_BOOT.FAIL_AT s.boot.state).setBoot 10

/-- The sequencer is in a state and the flash is free for it: no supply warning holds CS0 (R463). -/
def State.bootAt (s : State) (st : Nat) : Bool := s.boot.state == st && !s.power.sagLow

/-- The words of a register array from bytes (R461). -/
def State.setWords (s : State) (r : Reg) (i : Nat) (bs : List Byte) : Nat → State
  | 0 => s
  | n + 1 => (s.setWords r i bs n).setReg r (field bs (4 * n) 4) i n

def State.setWords1 (s : State) (r : Reg) (bs : List Byte) (n : Nat) : State :=
  forEach (List.range n) (fun k s => s.setReg r (field bs (4 * k) 4) k) s

/-- The bytes that a register array shows. -/
def State.wordBytes (s : State) (r : Reg) (i n : Nat) : List Byte := (List.range n).flatMap fun k => bytesOf 4 (s.reg r i k)
def State.wordBytes1 (s : State) (r : Reg) (n : Nat) : List Byte := (List.range n).flatMap fun k => bytesOf 4 (s.reg r k)

def State.setMeas (s : State) (k : Nat) (d : List Byte) : State :=
  { s with boot := { s.boot with meas := s.boot.meas.put k d } }

/-! ## FLASH and CAL (R464, R466, R467) -/

/-- The entries of a calibration record: TYPE and data. (log 131: DEDUCED) -/
def calEntries : Nat → List Byte → List (Nat × List Byte)
  | 0, _ => []
  | k + 1, bs =>
    let n := field bs 2 2
    if bs.length < 4 ∨ bs.length < 4 + n then []
    else (field bs 0 2, (bs.drop 4).take n) :: calEntries k (bs.drop (4 + (n + 3) / 4 * 4))

def calMagic : Nat := 0x41435A54

/-- The device secret of a valid record. (log 131: DEDUCED) -/
def calSecret (bs : List Byte) : Option (List Byte) :=
  let n := bs.length
  let body := bs.take (n - 64)
  if field bs 0 4 = calMagic ∧ field bs 4 2 = 1 ∧ rootSigned ((bs.drop 48).take 64) body (bs.drop (n - 64)) then
    let helpers := (calEntries n (body.drop 128)).filter fun e => e.1 == 1
    match helpers.findSome? fun e => Config.pufSecret e.2 with
    | some k =>
      let k := fitBytes 32 k
      if keyHash (devicePub k) = (bs.drop 16).take 32 then some k else none
    | none => none
  else none

/-- The trims that a valid record gives (R2, R466): the first entry of each type 2-6. (log 131: DEDUCED) -/
def calTrims (bs : List Byte) : Table (List Byte) :=
  let n := bs.length
  let es := (calEntries n ((bs.take (n - 64)).drop 128)).filter fun e => decide (2 ≤ e.1) && decide (e.1 ≤ 6)
  es.reverse.foldl (fun m e => m.put e.1 e.2) .empty

/-- The calibration record is judged; without a valid one trims take their defaults. (log 131: DEDUCED) -/
def State.bootCal (s : State) : State :=
  if ¬s.bootAt 2 then s
  else
    let n := field (s.flashRead 0x8008 4) 0 4
    let bs := if 256 ≤ n ∧ n ≤ 32768 ∧ n % 4 = 0 then s.flashRead 0x8000 n else []
    match calSecret bs with
    | none => s.setBoot 3
    | some k =>
      let s := { s with sec := { s.sec with secret := some k }, boot := { s.boot with calOk := true, trims := calTrims bs } }
      let s := ((s.setFld SEC_STAT.CAL_OK 1).setReg SEC_CAL_SVN (field bs 12 4)).setMeas 0 (sha256 bs)
      ((s.setWords1 SEC_DEVID ((bs.drop 16).take 32) 8).setWords1 SEC_DEVPUB (devicePub k) 16).setBoot 3

/-! ## FLOORS (R468, R469) -/

/-- The retained block's floors are valid. -/
def State.floorsHold (s : State) : Bool := s.readNum 0x0200001C 4 == crc32c (s.read 0x02000000 28)

/-- The retained block holds the settled floors. -/
def State.writeFloors (s : State) : State :=
  let b := bytesOf 2 1 ++ bytesOf 2 0 ++ bytesOf 4 (s.reg SEC_IMG_FLOOR) ++ bytesOf 4 (s.reg SEC_OWN_FLOOR)
    ++ bytesOf 4 (s.reg SEC_CAL_FLOOR) ++ List.replicate 12 0#8
  (s.poke 0x02000000 (b ++ bytesOf 4 (crc32c b))).poke 0x02000040 (List.replicate 128 0#8)

/-- (log 132: DEDUCED; log 139: DEDUCED) -/
def State.bootFloors (s : State) : State :=
  if ¬s.bootAt 3 then s
  else
    let kept := fun (i : Nat) => if s.floorsHold then s.readNum (0x02000004 + 4 * i) 4 else 0
    let mirror := fun (i : Nat) => if s.boot.calOk then s.mirrorFloor i else 0
    let top := fun (i : Nat) => max (kept i) (mirror i)
    let differ := [0, 1, 2].any fun i => kept i != mirror i
    let low := [0, 1, 2].any fun i => decide (mirror i < top i)
    let s := ((s.setReg SEC_IMG_FLOOR (top 0)).setReg SEC_OWN_FLOOR (top 1)).setReg SEC_CAL_FLOOR (top 2)
    let s := s.writeFloors
    let s := if s.boot.calOk ∧ low then s.writeMirror else s
    let s := if differ then s.setFld SEC_STAT.FLOOR_MM 1 else s
    let s :=
      if s.boot.calOk ∧ s.reg SEC_CAL_SVN < top 2 then
        let s := { s with sec := { s.sec with secret := none },
                          boot := { s.boot with calOk := false, trims := .empty, meas := s.boot.meas.del 0 } }
        ((s.setFld SEC_STAT.CAL_OK 0).setWords1 SEC_DEVID [] 8).setWords1 SEC_DEVPUB [] 16
      else s
    s.setBoot 4

/-! ## OWNER (R470, R471) -/

def ownerMagic : Nat := 0x574F5A54

def State.ownerRecord (s : State) (c : Nat) : List Byte := s.flashRead (0x1000 * c) 256

/-- Owner record copy c is valid. (log 131: DEDUCED) -/
def State.ownerValid (s : State) (c : Nat) : Bool :=
  let b := s.ownerRecord c
  field b 0 4 == ownerMagic && field b 4 2 == 1 && field b 12 4 != 0 && decide (field b 80 4 ≤ 1) && zeroBytes b 84 128
    && rootSigned ((b.drop 128).take 64) (b.take 192) (b.drop 192)
    && (b.drop 16).take 32 == s.wordBytes1 SEC_DEVID 8 && decide (s.reg SEC_OWN_FLOOR ≤ field b 8 4)

/-- The copy selected: the valid one with the higher OWNER_SEQ, copy 0 on a tie. -/
def State.ownerCopy (s : State) : Option Nat :=
  match s.ownerValid 0, s.ownerValid 1 with
  | true, true => some (if field (s.ownerRecord 0) 8 4 < field (s.ownerRecord 1) 8 4 then 1 else 0)
  | true, false => some 0
  | false, true => some 1
  | false, false => none

def State.bootOwner (s : State) : State :=
  if ¬s.bootAt 4 then s
  else
    match s.ownerCopy with
    | none => s.bootFail
    | some c =>
      let b := s.ownerRecord c
      let debug := bit (field b 80 4) 0
      let s := (s.setReg SEC_OWNER_SEQ (field b 8 4)).setReg SEC_OWNER_ID (field b 12 4)
      let s := (s.setWords1 SEC_OWNHASH ((b.drop 48).take 32) 8).setFld SEC_STAT.OWNER_COPY c
      let s := { s with boot := { s.boot with debug := debug } }.setFld SEC_STAT.DEBUG (b2n debug)
      (s.setMeas 1 (sha256 b)).setBoot 5

/-! ## BBX: recovery (R441) -/

/-- A record whose CRC holds. -/
def recordGood (r : List Byte) : Bool := field r 60 4 == crc32c ((r.take 60).drop 1)

/-- Slots 2-4,095 of bank b that are not fully erased, ascending. -/
def State.usedSlots (s : State) (b : Nat) : List Nat :=
  let base := s.bankBase b
  let keys := s.flash.rows.filterMap fun r =>
    if base + 128 ≤ r.1 ∧ r.1 < base + 0x40000 then some ((r.1 - base) / 64) else none
  keys.foldr (fun k l => if l.head? = some k then l else k :: l) []

def State.slotBytes (s : State) (b i : Nat) : List Byte := s.flashRead (s.bankBase b + 64 * i) 64

/-- RSEQ of the last valid record of bank b. -/
def State.lastRseq (s : State) (b : Nat) : Option Nat :=
  ((s.usedSlots b).reverse.find? fun i => recordGood (s.slotBytes b i)).map fun i => field (s.slotBytes b i) 56 4

/-- Erase and open bank b at once, with a sequence number. -/
def State.openNow (s : State) (b seq : Nat) : State :=
  let a := s.bankBase b
  let s := (s.flashErase a 0x40000).flashProgram (a + 64) (s.read mapBase 64)
  let s := s.flashProgram a (bankHeader seq s.count (s.flashRead (a + 64) 64))
  (s.setCurrent b seq).setFld BBX_STAT.LOGEND 1

/-- Append a record to the log at once. -/
def State.appendNow (s : State) (r : List Byte) : State :=
  let s := if s.fld BBX_STAT.LOGEND = 4095 then s.openNow s.otherBank (s.curSeq + 1) else s
  let l := s.fld BBX_STAT.LOGEND + 1
  (s.flashProgram (s.bankBase (s.fld BBX_STAT.CUR) + 64 * l) r).setFld BBX_STAT.LOGEND l

/-- The stage header's CRC holds. -/
def State.stageHolds (s : State) : Bool := s.readNum 0x0200017C 4 == crc32c (s.read 0x02000140 60)

/-- The records that the retained stage holds, oldest first. -/
def State.retainedStage (s : State) : List (List Byte) :=
  let h := s.readNum 0x02000140 4
  (List.range (min 56 (dist32 (s.readNum 0x02000144 4) h))).map fun i => s.read (0x02000200 + 64 * ((h + i) % 2 ^ 32 % 56)) 64

/-- RSEQ `a` is later than `b` in serial order. -/
def later (a b : Nat) : Bool := decide (1 ≤ dist32 a b) && decide (dist32 a b < 2 ^ 31)

/-- The current bank: the valid one with the higher SEQ; bank 0 is opened where neither is valid. -/
def State.selectBank (s : State) : State :=
  let set := fun (b : Nat) =>
    (s.setCurrent b (s.bankSeq b)).setFld BBX_STAT.LOGEND ((s.usedSlots b).foldl max 1)
  match s.bankValid 0, s.bankValid 1 with
  | true, true => set (if s.bankSeq 0 < s.bankSeq 1 then 1 else 0)
  | true, false => set 0
  | false, true => set 1
  | false, false => s.openNow 0 1

/-- The last valid RSEQ: of the current bank, or of the other valid bank when the current log is empty. -/
def State.lastLogged (s : State) : Option Nat :=
  let cur := s.fld BBX_STAT.CUR
  if (s.usedSlots cur).isEmpty then if s.bankValid (1 - cur) then s.lastRseq (1 - cur) else none else s.lastRseq cur

def State.bootBbx (s : State) : State :=
  if ¬s.bootAt 5 then s
  else
    let s := ((s.setReg BBX_BANK0 0x10000).setReg BBX_BANK1 0x50000).selectBank
    let cur := s.fld BBX_STAT.CUR
    let torn := ((s.usedSlots cur).filter fun i => !recordGood (s.slotBytes cur i)).length
    let last := s.lastLogged
    let ok := s.stageHolds
    let staged := if ok then s.retainedStage else []
    let due := staged.filter fun r => match last with
      | some q => later (field r 56 4) q
      | none => true
    let rseq := if ok then s.readNum 0x02000148 4 else (last.map fun q => (q + 1) % 2 ^ 32).getD 0
    let tail := if ok then s.readNum 0x02000144 4 else 0
    let s := s.incSat BBX_CNT.TORN torn
    let s := forEach due (fun r s => s.appendNow r) s
    let s := { s with bbx := { s.bbx with staged := [], head := tail, tail := tail, rseq := rseq, live := true } }
    let s := ((s.setReg BBX_RSEQ rseq).setFld BBX_STAT.STAGE_LOST (b2n !ok)).syncStage
    let s := s.devEvent evBbRecovered (s.fld BBX_STAT.CUR)
      [w64 s.curSeq, w32 torn, w32 (staged.length - due.length), w32 due.length, w32 (b2n !ok)]
    s.setBoot 6

/-! ## IMAGE (R472-R474) -/

/-- (log 131: DEDUCED) -/
def imageMagic : Nat := 0x4D495A54
def slotBase (i : Nat) : Nat := 0x00100000 + i * 0x00400000

/-- The first check of a slot's header that fails, or 0. (log 131: DEDUCED) -/
def State.headerReason (s : State) (i : Nat) (err : Bool) : Nat :=
  let h := s.flashRead (slotBase i) 256
  let n := field h 8 4
  if err then 9
  else if field h 0 4 ≠ imageMagic then 1
  else if field h 4 2 ≠ 1 ∨ n < 64 ∨ 4194048 < n ∨ n % 64 ≠ 0 ∨ ¬zeroBytes h 6 8 ∨ ¬zeroBytes h 24 32 ∨ ¬zeroBytes h 192 256 then 2
  else if keyHash ((h.drop 64).take 64) ≠ s.wordBytes1 SEC_OWNHASH 8 then 3
  else if ¬ecdsaVerify ((h.drop 64).take 64) (sha256 (h.take 128)) ((h.drop 128).take 64) then 4
  else if field h 12 4 < s.reg SEC_IMG_FLOOR then 5
  else 0

def State.slotSvn (s : State) (i : Nat) : Nat := field (s.flashRead (slotBase i) 256) 12 4

/-- The trial block's CRC holds. (log 132: DEDUCED) -/
def State.trialHolds (s : State) : Bool := s.readNum 0x0200003C 4 == crc32c (s.read 0x02000020 28)

/-- The trial block names slot i with its SVN. -/
def State.trialNames (s : State) (i : Nat) : Bool :=
  s.trialHolds && s.readNum 0x02000020 1 == i && s.readNum 0x02000024 4 == s.slotSvn i

/-- The slot has been tried three times without being confirmed. -/
def State.triedOut (s : State) (i : Nat) : Bool :=
  s.trialNames i && decide (3 ≤ s.readNum 0x02000021 1) && !bit (s.readNum 0x02000022 1) 0

/-- The order in which slots are tried, of those whose headers pass. -/
def State.slotOrder (s : State) (errA errB : Bool) : List Nat :=
  let ok := fun i => s.headerReason i (if i = 0 then errA else errB) == 0
  match s.boot.mode with
  | 1 => [0].filter ok
  | 2 => [1].filter ok
  | _ =>
    let l := (if s.slotSvn 0 < s.slotSvn 1 then [1, 0] else [0, 1]).filter ok
    l.filter (fun i => !s.triedOut i) ++ l.filter fun i => s.triedOut i

def State.setReason (s : State) (i r : Nat) : State := s.setFld (if i = 0 then SEC_BOOT.REASON_A else SEC_BOOT.REASON_B) r

/-- The first slot in order whose body matches its digest, loaded into system SRAM with the rest of it zeroed. -/
def State.loadSlots (s : State) : List Nat → Option Nat × State
  | [] => (none, s)
  | i :: is =>
    let h := s.flashRead (slotBase i) 256
    let body := s.flashRead (slotBase i + 256) (field h 8 4)
    let s := (s.clearMem 0 0x400000).poke 0 body
    if sha256 body = (h.drop 32).take 32 then (some i, s) else (s.setReason i 6).loadSlots is

/-- The trial block after slot i has been booted. (log 132: DEDUCED) -/
def State.noteTrial (s : State) (i : Nat) : State :=
  let again := s.trialNames i && !bit (s.readNum 0x02000022 1) 0
  let n := if again then satAdd (s.readNum 0x02000021 1) 1 255 else 1
  let b := bytesOf 1 i ++ bytesOf 1 n ++ bytesOf 2 0 ++ bytesOf 4 (s.slotSvn i) ++ List.replicate 20 0#8
  (s.poke 0x02000020 (b ++ bytesOf 4 (crc32c b))).setFld SEC_BOOT.TRIES n

def State.bootImage (s : State) (errA errB : Bool) : State :=
  if ¬s.bootAt 6 then s
  else if s.boot.mode = 3 then s.setBoot 9
  else
    let s := if s.boot.mode = 2 then s else s.setReason 0 (s.headerReason 0 errA)
    let s := if s.boot.mode = 1 then s else s.setReason 1 (s.headerReason 1 errB)
    match s.loadSlots (s.slotOrder errA errB) with
    | (none, s) => s.bootFail
    | (some i, s) =>
      let s := ((s.noteTrial i).setFld SEC_BOOT.SLOT i).setReg SEC_SVN (s.slotSvn i)
      ((s.setFld SEC_STAT.CONFIRMED 0).setMeas 2 (sha256 (s.flashRead (slotBase i) 256))).setBoot 7

/-! ## REBUILD (R34, R431, R475) -/

/-- Set a resource's bit in the map, without sealing it. -/
def State.addRetired (s : State) (k i : Nat) : State :=
  let b := retireBit k i
  s.poke (mapBase + b / 8) [BitVec.ofNat 8 ((s.byte (mapBase + b / 8)).toNat ||| 2 ^ (b % 8))]

/-- A RETIRE record adds its resource, and for a spare the logical tile that it served. -/
def State.addRecord (s : State) (r : List Byte) : State :=
  if ¬recordGood r ∨ field r 2 2 ≠ evRetired then s
  else
    let k := field r 16 4
    let i := field r 14 2
    if kindCount k ≤ i then s
    else
      let s := s.addRetired k i
      if k = kTile ∧ i % 17 = 16 ∧ field r 24 4 < 64 then s.poke (mapBase + 40 + i / 17) [BitVec.ofNat 8 (128 + field r 24 4 % 16)] else s

/-- A map whose CRC holds. -/
def mapGood (m : List Byte) : Bool := field m 60 4 == crc32c (m.take 60)

/-- Join a map to the retained one: the bits of bytes 4-39, and the logical tiles of bytes 40-43. -/
def State.joinMap (s : State) (m : List Byte) : State :=
  let s := forEach ((List.range 36).map (4 + ·)) (fun i s =>
    s.poke (mapBase + i) [s.byte (mapBase + i) ||| m.getD i 0#8]) s
  forEach ((List.range 4).map (40 + ·)) (fun i s =>
    if (m.getD i 0#8).toNat < 128 then s else s.poke (mapBase + i) [m.getD i 0#8]) s

/-- The retired set of R431: the union of its four sources. -/
def State.rebuildMap (s : State) : State :=
  let cur := s.fld BBX_STAT.CUR
  let s := if mapGood (s.read mapBase 64) then s else s.poke mapBase (List.replicate 64 0#8)
  let m := s.slotBytes cur 1
  let s := if mapGood m then s.joinMap m else s
  let s := forEach (s.usedSlots cur) (fun i s => s.addRecord (s.slotBytes cur i)) s
  (forEach s.bbx.staged (fun r s => s.addRecord r) s).sealMap

/-- Cluster c's tiles: the spare serves the lowest logical tile whose home tile is retired; the others have none.
(log 178: DEDUCED) -/
def State.rebuildTiles (s : State) (c : Nat) : State :=
  let home := fun (n : Nat) => 17 * c + n % 16
  let lost := ((List.range 16).map (16 * c + ·)).filter fun n => s.isRetired kTile (home n)
  let bad := s.isRetired kTile (17 * c + 16)
  let named := (s.byte (mapBase + 40 + c)).toNat
  let was := fun (n : Nat) => bad && decide (128 ≤ named) && named % 16 == n % 16
  let s := if bad then s.setSpare SYS_SPARE.SPARE_BAD c else if lost.isEmpty then s else s.setSpare SYS_SPARE.SPARE_USED c
  forEach lost (fun n s =>
    let s := s.setFld SYS_TMAP.RETIRE_CNT (1 + b2n (was n)) n
    if ¬bad ∧ lost.head? = some n then (s.setFld SYS_TMAP.STATE 1 n).setFld SYS_TMAP.PTILE (17 * c + 16) n
    else (s.setFld SYS_TMAP.STATE 2 n).setFld SYS_TMAP.PTILE (if was n then 17 * c + 16 else home n) n) s

/-- The decoders: PD16, then PD17, serve the lowest logical decoders whose own are retired. -/
def State.rebuildDecoders (s : State) : State :=
  let lost := (List.range 16).filter fun d => s.isRetired kLdpc d
  let spares := [0, 1].filter fun k => !s.isRetired kLdpc (16 + k)
  let s := s.setFld DEC_SPARE.SPARE_BAD (b2n (s.isRetired kLdpc 16) + 2 * b2n (s.isRetired kLdpc 17))
  forEach ((List.range lost.length).zip lost) (fun r s =>
    match spares[r.1]? with
    | some k =>
      let s := s.setFld DEC_SPARE.SPARE_USED (s.fld DEC_SPARE.SPARE_USED ||| 2 ^ k)
      (s.setFld DEC_LMAP.STATE 1 r.2).setFld DEC_LMAP.PHYS (16 + k) r.2
    | none => s.setFld DEC_LMAP.STATE 2 r.2) s

/-- The other units whose registers show a retirement. -/
def State.rebuildUnits (s : State) : State :=
  let mask := fun (k n : Nat) => ((List.range n).filter fun i => s.isRetired k i).foldl (fun m i => m + 2 ^ i) 0
  let s := (s.setFld DEC_STAT.POLAR_RET (mask kPolar 4)).setFld ENC_STAT.RETIRED (mask kEnc 8)
  let s := forEach (List.range 4) (fun u s => s.setFld PRA_LOAD.RETIRED (b2n (s.isRetired kPra u)) u) s
  forEach (List.range 128) (fun q s => s.setFld HBM_PCH.STATE (b2n (s.isRetired kPch q)) (q / 32) (q % 32)) s

/-- The boot-state block that M3 is the digest of. -/
def State.bootBlock (s : State) : List Byte :=
  bytesOf 1 s.boot.mode ++ bytesOf 1 (s.fld SEC_BOOT.SLOT) ++ bytesOf 1 (b2n s.boot.calOk + 2 * b2n s.boot.debug) ++ bytesOf 1 0
    ++ bytesOf 4 (s.reg SEC_IMG_FLOOR) ++ bytesOf 4 (s.reg SEC_OWN_FLOOR) ++ bytesOf 4 (s.reg SEC_CAL_FLOOR)
    ++ List.replicate 16 0#8

/-- The mapping is rebuilt, the measurements are written, and hart 0 is released. -/
def State.bootRebuild (s : State) : State :=
  if s.boot.state ≠ 7 then s
  else
    let s := forEach [0, 1, 2, 3] (fun c s => s.rebuildTiles c) s.rebuildMap
    let s := s.rebuildDecoders.rebuildUnits
    let m := fun (k : Nat) => s.boot.meas.getD k []
    let s := ((s.setWords SEC_MEAS 0 (m 0) 8).setWords SEC_MEAS 1 (m 1) 8).setWords SEC_MEAS 2 (m 2) 8
    let s := s.setWords SEC_MEAS 3 (sha256 s.bootBlock) 8
    (s.setFld ACI_HART_STAT.STATE 1 0).setBoot 8

/-! ## Floors, trial block and measurements in RUN (R469, R474, R475) -/

/-- SEC_CTL takes writes only from the manager partition. -/
def State.secWriter (s : State) (src : Nat) : Bool := src == s.manager && s.domOn 78

def State.floorEvent (s : State) : State :=
  s.devEvent evFloorRaised 0 [w32 (s.reg SEC_IMG_FLOOR), w32 (s.reg SEC_OWN_FLOOR), w32 (s.reg SEC_CAL_FLOOR)]

/-- SEC_CTL.COMMIT. (log 132: DEDUCED) -/
def State.commitFloors (s : State) (src : Nat) : State :=
  if ¬s.secWriter src ∨ s.flag SEC_STAT.BUSY then s
  else
    let up := fun (f r : Reg) (s : State) => s.setReg f (max (s.reg f) (s.reg r))
    let s := up SEC_CAL_FLOOR SEC_CAL_SVN (up SEC_OWN_FLOOR SEC_OWNER_SEQ (up SEC_IMG_FLOOR SEC_SVN s))
    let s := s.writeFloors
    if s.sec.secret.isNone then s.floorEvent
    else ({ s with bbx := { s.bbx with floorDue := true } }.setFld SEC_STAT.BUSY 1).pumpFlash

/-- The mirror program of a commit has completed. -/
def State.commitDone (s : State) : State :=
  if s.bbx.op ≠ some .floor then s
  else ((s.opEnds.writeMirror.setFld SEC_STAT.BUSY 0).floorEvent).pumpFlash

/-- SEC_CTL.CONFIRM. -/
def State.confirmTrial (s : State) (src : Nat) : State :=
  if ¬s.secWriter src then s
  else
    let b := s.read 0x02000020 28
    let b := b.take 2 ++ [b.getD 2 0#8 ||| 1#8] ++ b.drop 3
    (s.poke 0x02000020 (b ++ bytesOf 4 (crc32c b))).setFld SEC_STAT.CONFIRMED 1

/-- SEC_EXTCMD.GO for measurement m. -/
def State.extend (s : State) (src m : Nat) : State :=
  if ¬s.secWriter src then s
  else
    let s := s.setFld SEC_EXTCMD.M m
    if m < 4 then s else s.setWords SEC_MEAS m (sha256 (s.wordBytes SEC_MEAS m 8 ++ s.wordBytes1 SEC_EXT 8)) 8

/-! ## The security engine (R477-R479) -/

def secAttest : Nat := 1
def secVerify : Nat := 2
def secDerive : Nat := 3

/-- An idle engine takes the next command: partitions in round-robin order after the one last served. -/
def State.secNext (s : State) : State :=
  if s.sec.serving.isSome then s
  else
    match (List.range 16).findSome? fun k => s.sec.waiting.find? ((s.sec.last + 1 + k) % 16) with
    | none => s
    | some c => { s with sec := { s.sec with serving := some c, last := c.ptn, waiting := s.sec.waiting.del c.ptn } }

/-- A write of partition p's CMD. (log 135: DEDUCED) -/
def State.mailbox (s : State) (src p op n : Nat) : State :=
  if src ≠ p ∨ ¬s.domOn 78 then s
  else if s.flag SEC_MB_STAT.BUSY p then s.setFld SEC_MB_STAT.ERR 1 p
  else if op < 1 ∨ 3 < op ∨ (op = secAttest ∧ 16 < n) then s.setFld SEC_MB_STAT.ERR 2 p
  else
    let s := ((s.setFld SEC_MB_STAT.BUSY 1 p).setFld SEC_MB_STAT.ERR 0 p).setFld SEC_MB_STAT.PASS 0 p
    { s with sec := { s.sec with waiting := s.sec.waiting.put p { ptn := p, op := op, n := n } } }.secNext

/-- DATA of partition p's mailbox. (log 135: DEDUCED) -/
def State.mbData (s : State) (p off n : Nat) : List Byte := ((s.wordBytes SEC_MB_DATA p 64).drop off).take n

/-- The report that is signed (R479). -/
def State.reportBody (s : State) (p n : Nat) : List Byte :=
  let ds := (s.sec.digests.getD p []).take n
  let entry := fun (d : Nat × Nat × List Byte) => bytesOf 4 d.1 ++ bytesOf 1 d.2.1 ++ bytesOf 3 0 ++ fitBytes 32 d.2.2
  bytesOf 4 0x54415A54 ++ bytesOf 2 1 ++ bytesOf 1 p ++ bytesOf 1 n ++ bytesOf 4 (s.reg SYS_ID)
    ++ bytesOf 4 (s.reg SEC_OWNER_ID) ++ bytesOf 4 (s.reg SEC_OWNER_SEQ) ++ bytesOf 4 (s.reg SEC_SVN) ++ bytesOf 8 s.count
    ++ s.mbData p 0 32 ++ s.wordBytes1 SEC_DEVID 8 ++ (List.range 8).flatMap (fun m => s.wordBytes SEC_MEAS m 8)
    ++ fitBytes (40 * n) (ds.flatMap entry)

/-- A command of partition p ends. (log 135: DEDUCED) -/
def State.secEnd (s : State) (c : SecCmd) (err : Nat) : State :=
  let s := { s with sec := { s.sec with serving := none } }
  let s := (s.setFld SEC_MB_STAT.BUSY 0 c.ptn).setFld SEC_MB_STAT.ERR err c.ptn
  (s.event evSecDone c.ptn c.ptn [w32 c.op, w32 err]).secNext

/-- The command in service ends with its result. -/
def State.secDone (s : State) : State :=
  match s.sec.serving with
  | none => s
  | some c =>
    let p := c.ptn
    if c.op = secVerify then
      let ok := ecdsaVerify (s.mbData p 0x20 64) (s.mbData p 0 32) (s.mbData p 0x60 64)
      (s.setFld SEC_MB_STAT.PASS (b2n ok) p).secEnd c 0
    else
      match s.sec.secret with
      | none => s.secEnd c 3
      | some k =>
        if c.op = secDerive then
          let out := hmac (partitionKey k (s.reg SEC_OWNER_ID) p) (s.mbData p 0 32)
          (forEach (List.range 8) (fun i s => s.setReg SEC_MB_DATA (field out (4 * i) 4) p (32 + i)) s).secEnd c 0
        else if ¬s.flag SEC_STAT.TRNG_OK then s.secEnd c 4
        else
          let body := s.reportBody p c.n
          let (sig, s) := s.sign ((deviceScalar k).getD 0) (sha256 body) 8
          (s.setWords SEC_REPORT p (fitBytes 2048 (body ++ sig)) 512).secEnd c 0

/-- A health test of the TRNG fails: 0 repetition, 1 proportion. (log 135: DEDUCED) -/
def State.trngFail (s : State) (test : Nat) : State :=
  if ¬s.domOn 78 ∨ ¬s.flag SEC_STAT.TRNG_OK then s
  else ((s.setFld SEC_STAT.TRNG_OK 0).setFld SEC_TRNG_STAT.START 1).devEvent evTrngFail 0 [w32 test]

/-- A start-up test ends. (log 135: DEDUCED) -/
def State.trngStartup (s : State) (pass : Bool) : State :=
  if ¬s.domOn 78 ∨ s.flag SEC_STAT.TRNG_OK ∨ ¬pass then s
  else (s.setFld SEC_STAT.TRNG_OK 1).setFld SEC_TRNG_STAT.START 0

end Sys2Proof.Machine
end

