-- ==== Sys2Proof/Machine/BootOps.lean ====
section
/-! DEFINITION. The commands of boot, identity and attestation (chapter 21). -/
namespace Sys2Proof.Machine

/-- The flash is reset and its first read returns data (R464). -/
def execBootFlash (s : State) : Host.Outcome State Fault Refusal := .next (if s.bootAt 1 then s.setBoot 2 else s)

/-- No flash data within 10 ms (R464). -/
def execFlashTimeout (s : State) : Host.Outcome State Fault Refusal := .next (if s.boot.state = 1 ∧ s.passed s.boot.since (10 * ticksPerMs) then s.bootFail else s)

/-- The calibration record is judged (R466). -/
def execBootCal (s : State) : Host.Outcome State Fault Refusal := .next s.bootCal

/-- The rollback floors are settled (R468). -/
def execBootFloors (s : State) : Host.Outcome State Fault Refusal := .next s.bootFloors

/-- An owner record is selected (R471). -/
def execBootOwner (s : State) : Host.Outcome State Fault Refusal := .next s.bootOwner

/-- The black box is recovered (R441). -/
def execBootBbx (s : State) : Host.Outcome State Fault Refusal := .next s.bootBbx

/-- An image is selected, verified and loaded (R473, R474): whether reads of slots A and B met an error. -/
def execBootImage (errA errB : Bool) (s : State) : Host.Outcome State Fault Refusal := .next (s.bootImage errA errB)

/-- The mapping is rebuilt and hart 0 released (R431, R475). -/
def execBootRebuild (s : State) : Host.Outcome State Fault Refusal := .next s.bootRebuild

/-- SEC_CTL.COMMIT (R469). -/
def execCommit (src : PtnIx) (s : State) : Host.Outcome State Fault Refusal := .next (s.commitFloors src)

/-- The mirror program of a commit completes (R469). -/
def execCommitDone (s : State) : Host.Outcome State Fault Refusal := .next s.commitDone

/-- SEC_CTL.CONFIRM (R474). -/
def execConfirm (src : PtnIx) (s : State) : Host.Outcome State Fault Refusal := .next (s.confirmTrial src)

/-- SEC_EXTCMD.GO (R475). -/
def execExtend (src : PtnIx) (m : Fin 8) (s : State) : Host.Outcome State Fault Refusal := .next (s.extend src m)

/-- ATTEST in partition p's mailbox, with N_DIG digests (R478, R479). -/
def execAttest (src p : PtnIx) (n : Fin 32) (s : State) : Host.Outcome State Fault Refusal := .next (s.mailbox src p secAttest n)

/-- VERIFY in partition p's mailbox (R478). -/
def execVerify (src p : PtnIx) (s : State) : Host.Outcome State Fault Refusal := .next (s.mailbox src p secVerify 0)

/-- DERIVE in partition p's mailbox (R478). -/
def execDerive (src p : PtnIx) (s : State) : Host.Outcome State Fault Refusal := .next (s.mailbox src p secDerive 0)

/-- The mailbox command in service ends (R478). -/
def execSecDone (s : State) : Host.Outcome State Fault Refusal := .next s.secDone

/-- A TRNG health test fails (R477): 0 repetition, 1 proportion. -/
def execTrngFail (test : Fin 2) (s : State) : Host.Outcome State Fault Refusal := .next (s.trngFail test)

/-- A start-up test of the TRNG ends (R477). -/
def execTrngStartupTest (pass : Bool) (s : State) : Host.Outcome State Fault Refusal := .next (s.trngStartup pass)

end Sys2Proof.Machine
end

