-- ==== Sys2Proof/Machine/CodingOps.lean ====
section
/-! DEFINITION. The commands of the coding complex (chapter 12). -/
namespace Sys2Proof.Machine

/-- Logical decoder d, free, takes the next code block (R277). -/
def execCodeBlockDispatch (d : Fin 16) (s : State) : Host.Outcome State Fault Refusal := .next (s.dispatchBlock d)

/-- Logical decoder d combines its code block's LLRs and starts decoding (R283). -/
def execHarqCombineDone (d : Fin 16) (s : State) : Host.Outcome State Fault Refusal := .next (s.ldCombine d)

/-- Logical decoder d ends its code block (R285-R289, R299). -/
def execCodeBlockEnd (d : Fin 16) (err : MemErr) (s : State) : Host.Outcome State Fault Refusal := .next (s.ldEnd d err)

/-- Polar decoder u, free, takes the next KIND 1 job (R277). -/
def execPolarDispatch (u : Fin 4) (s : State) : Host.Outcome State Fault Refusal := .next (s.dispatchPolar u)

/-- Polar decoder u ends its job (R293). -/
def execPolarEnd (u : Fin 4) (err : MemErr) (s : State) : Host.Outcome State Fault Refusal := .next (s.polarEnd u err)

/-- Encoder u, free, takes the next ENCODE job (R277). -/
def execEncodeDispatch (u : Fin 8) (s : State) : Host.Outcome State Fault Refusal := .next (s.dispatchEnc u)

/-- Encoder u ends its job (R296). -/
def execEncodeEnd (u : Fin 8) (err : MemErr) (s : State) : Host.Outcome State Fault Refusal := .next (s.encEnd u err)

/-- The manager writes DEC_PSHAREp: ignored, with an event, where it would dedicate a decoder to two partitions (R305). -/
def State.pshareWrite (s : State) (src p v : Nat) : State :=
  let ded := v % 65536
  if src ≠ s.manager ∨ ¬s.codingOn then s
  else if (List.range 16).any fun q => q != p && (s.ded q &&& ded) != 0 then s.event evDecShare p p []
  else (s.setFld DEC_PSHARE.DED ded p).setFld DEC_PSHARE.MAXSH (bits v 20 16) p

def execDecPshareWrite (src p : PtnIx) (value : Word) (s : State) : Host.Outcome State Fault Refusal :=
  .next (s.pshareWrite src p value.toNat)

/-- DEC_CTL.CLR_CNT (R305). -/
def State.decClrCnt (s : State) (src : Nat) : State :=
  if src ≠ s.manager ∨ ¬s.codingOn then s
  else ((s.setReg DEC_CNT0 0).setReg DEC_CNT1 0).setReg DEC_CNT2 0

def execDecClrCnt (src : PtnIx) (s : State) : Host.Outcome State Fault Refusal := .next (s.decClrCnt src)

/-- ENC_CTL.CLR_CNT (R306). -/
def State.encClrCnt (s : State) (src : Nat) : State :=
  if src ≠ s.manager ∨ ¬s.codingOn then s else s.setReg ENC_CNT 0

def execEncClrCnt (src : PtnIx) (s : State) : Host.Outcome State Fault Refusal := .next (s.encClrCnt src)

end Sys2Proof.Machine
end

