-- ==== Sys2Proof/Machine/Ports.lean ====
section
/-! DEFINITION. The controls of the external ports (chapter 22): MSI-X tables (R491, R494), PCIe functions (R491, R504), Ethernet
ports and queues (R496, R499, R504), software flash commands and board-bus transfers (R500, R501). -/
namespace Sys2Proof.Machine

/-! ## PCIe -/

def State.pciFn (s : State) (fn : Nat) : PciFn := s.pciFns.getD fn {}
def State.setPciFn (s : State) (fn : Nat) (f : PciFn) : State := { s with pciFns := s.pciFns.put fn f }

/-- A vector that has been unmasked is sent if it is pending (R494). (log 141: DESIGN CHOICE) -/
def State.unmasked (s : State) (fn vec : Nat) : State :=
  let f := s.pciFn fn
  if f.msixOn ∧ ¬f.masked vec ∧ f.pba.get (fun _ => false) vec then
    (s.setPciFn fn { f with pba := f.pba.set (fun _ => false) vec false }).sendMsix fn vec
  else s

/-- A write of word k of a function's MSI-X table: vector * 4 + word. -/
def State.msixWrite (s : State) (fn k v : Nat) : State :=
  let f := s.pciFn fn
  let v := if k % 4 = 3 then v % 2 else if k % 4 = 0 then v / 4 * 4 else v
  (s.setPciFn fn { f with tbl := f.tbl.set msixReset k (BitVec.ofNat 32 v) }).unmasked fn (k / 4)

/-- A write of PCI_FNf: one that would give two VFs the same partition is ignored; PF0 serves the manager.
(log 144: DESIGN CHOICE) -/
def State.pciFnWrite (s : State) (f v : Nat) : State :=
  let p := bits v 3 0
  let taken := (List.range 16).any fun k => k + 1 != f && s.fld PCI_FN.PTN (k + 1) == p
  if f = 0 then s.setFld PCI_FN.WIN_LOG2 (bits v 12 8) 0
  else if p ≠ s.fld PCI_FN.PTN f ∧ taken then s
  else (s.setFld PCI_FN.PTN p f).setFld PCI_FN.WIN_LOG2 (bits v 12 8) f

/-! ## Ethernet -/

/-- A write of ETH_PORTn_CTL by the manager: EN stays 0 where the mode creates no port or a lane of it is retired; a stopped
port starts again (R94, R496). (log 145: DEDUCED) -/
def State.ethPortWrite (s : State) (src n v : Nat) : State :=
  if src ≠ s.manager ∨ ¬s.domOn 74 then s
  else if ¬bit v 0 then (s.setFld ETH_PORT_CTL.EN 0 n).ethLink n false
  else
    let s := { s with job := { s.job with stops := s.job.stops.filter fun x => !(x.kind == 0 && x.port == n && !x.halt) } }
    let ls := s.portLanes n
    if ls.isEmpty ∨ ls.any fun l => s.isRetired kEth l then s else s.setFld ETH_PORT_CTL.EN 1 n

/-- A write of ETH_QUADq: ignored while a port of the quad is enabled. (log 145: DEDUCED) -/
def State.ethQuadWrite (s : State) (q v : Nat) : State :=
  if (List.range 4).any fun k => s.flag ETH_PORT_CTL.EN (4 * q + k) then s else s.setFld ETH_QUAD.MODE (v % 4) q

/-- A local address of a queue register: bits [7:0] are taken as zero. -/
def ethAddr (w : Nat) : Nat := w * 256

/-- Bytes of a queue's frame buffers. -/
def ethBufSize (v : Nat) : Nat := 2 ^ (10 + v)

/-- An area of `n` bytes at local address `a` lies in pseudo-channels of partition p. -/
def State.ownArea (s : State) (p a n : Nat) : Bool := isHbm a && isHbm (a + n - 1) && s.channelsOk p a n

/-- The rings of queue q may be used by partition p with 2^lg entries (R499). (log 145: DEDUCED) -/
def State.ethRingsOk (s : State) (q p lg bufsz : Nat) : Bool :=
  decide (6 ≤ lg) && decide (lg ≤ 12) && s.ownArea p (ethAddr (s.reg ETH_Q_RX q)) (64 * 2 ^ lg)
    && s.ownArea p (ethAddr (s.reg ETH_Q_BUF q)) (ethBufSize bufsz * 2 ^ lg) && s.ownArea p (ethAddr (s.reg ETH_Q_TX q)) (32 * 2 ^ lg)

/-- A write of ETH_Qq_CFG: PTN is the manager's to write. (log 145: DEDUCED) -/
def State.ethQCfgWrite (s : State) (src q v : Nat) : State :=
  let p := if src = s.manager then bits v 27 24 else s.fld ETH_Q_CFG.PTN q
  let en := bit v 31 && s.ethRingsOk q p (bits v 16 12) (bits v 23 20)
  s.setReg ETH_Q_CFG (b2n en * 2 ^ 31 + bits v 30 30 * 2 ^ 30 + p * 2 ^ 24 + bits v 23 20 * 2 ^ 20 + bits v 16 12 * 2 ^ 12
    + v % 4096) q

/-- A write of ETH_Qq_TXTAIL: the check of R72 for a tail. (log 11: DESIGN CHOICE; log 145: DEDUCED) -/
def State.ethTail (s : State) (q t : Nat) : State :=
  let size := ringSize (s.fld ETH_Q_CFG.LOG2SIZE q)
  if dist32 t (s.reg ETH_Q_TXHEAD q) ≤ size ∧ dist32 t (s.reg ETH_Q_TXTAIL q) ≤ size then s.setReg ETH_Q_TXTAIL t q
  else s.event evOverpost (s.fld ETH_Q_CFG.PTN q) (32 + q) []

/-- A write of ETH_Qq_RXHEAD: the check of R72 for a head. (log 11: DESIGN CHOICE; log 145: DEDUCED) -/
def State.ethHead (s : State) (q h : Nat) : State :=
  let tail := s.reg ETH_Q_RXTAIL q
  if headMoves tail (s.reg ETH_Q_RXHEAD q) h then s.setReg ETH_Q_RXHEAD h q
  else s.event evOverpost (s.fld ETH_Q_CFG.PTN q) (64 + q) []

/-- ETH_Q registers take writes from the manager and from the queue's partition. -/
def State.ethQWriter (s : State) (src q : Nat) : Bool :=
  s.domOn 74 && (src == s.manager || src == s.fld ETH_Q_CFG.PTN q)

/-! ## XSP -/

/-- Bytes of a window of words. -/
def State.windowBytes (s : State) (r : Reg) (n : Nat) : List Byte :=
  ((List.range 64).flatMap fun k => bytesOf 4 (s.reg r k)).take n

/-- Put bytes at the start of a window of words. (log 144: DESIGN CHOICE) -/
def State.setWindow (s : State) (r : Reg) (bs : List Byte) : State :=
  let all := bs ++ (s.windowBytes r 256).drop bs.length
  forEach (List.range 64) (fun k s => s.setReg r (field all (4 * k) 4) k) s

/-- XSP_CMD.GO: the command is issued, or refused with BUSY or PROT (R500). (log 137: DESIGN CHOICE) -/
def State.xspIssue (s : State) (src : Nat) : State :=
  if src ≠ s.manager then s
  else if s.flag XSP_STAT.BUSY then s.setFld XSP_STAT.ERR 1
  else
    let n := min (s.fld XSP_CMD.LEN) 256
    let c : XspCmd := { cs := s.fld XSP_CMD.CS, wr := s.flag XSP_CMD.WR, op := s.fld XSP_CMD.OP, addr := s.reg XSP_ADDR, len := n,
                        data := if s.flag XSP_CMD.WR then s.windowBytes XSP_DATA n else [] }
    if c.protected ∧ s.boot.state ≠ 9 then s.setFld XSP_STAT.ERR 2
    else
      let s := (s.setFld XSP_STAT.ERR 0).setFld XSP_STAT.BUSY 1
      { s with bbx := { s.bbx with xspDue := some c } }.pumpFlash

/-- The software command on the flash has ended: what it read is in the data window. `data` is what a command other than an array
read answers. (log 137: DESIGN CHOICE) -/
def State.xspEnd (s : State) (data : List Byte) : State :=
  match s.bbx.op with
  | some (.xsp c) =>
    let s := s.opEnds.xspEffect c
    let s :=
      if c.wr then s
      else s.setWindow XSP_DATA
        (if isArrayRead c.op then s.flashRead (c.cs * 2 ^ 32 + c.addr) c.len else fitBytes c.len data)
    ((s.setFld XSP_STAT.BUSY 0).aplicPulse 3).pumpFlash
  | _ => s

/-- XSP_SB_CMD.GO starts a transfer on PMBus or I3C, unless one is in progress (R501). (log 137: DESIGN CHOICE) -/
def State.sbIssue (s : State) (src : Nat) : State :=
  if src ≠ s.manager ∨ s.flag XSP_SB_STAT.BUSY then s else (s.setFld XSP_SB_STAT.ERR 0).setFld XSP_SB_STAT.BUSY 1

/-- The transfer ends with its status; the bytes that the target answered are in the data window. (log 137: DESIGN CHOICE) -/
def State.sbEnd (s : State) (err : Nat) (data : List Byte) : State :=
  if ¬s.flag XSP_SB_STAT.BUSY then s
  else
    let s := (s.setFld XSP_SB_STAT.BUSY 0).setFld XSP_SB_STAT.ERR err
    (if err = 0 then s.setWindow XSP_SB_DATA (fitBytes (s.fld XSP_SB_CMD.RLEN) data) else s).aplicPulse 2

end Sys2Proof.Machine
end

