-- ==== Sys2Proof/Machine/Inherit.lean ====
section
/-! DEFINITION. The start and the timeout of an inherit slice (R363, R364). -/
namespace Sys2Proof.Machine

/-- The saved task that holds semaphore i of cluster c, while it waits in a queue: its tile and queue entry. -/
def State.savedHolder (s : State) (c i : Nat) : Option (Nat × QEntry) :=
  match s.holders.find? (c * 1024 + i) with
  | none => none
  | some (hj, hi) =>
    (s.tiles.rows.filterMap fun r =>
      (r.2.queue.find? fun e => e.slot.isSome && e.task.job == hj && e.task.index == hi).map fun e => (r.1, e)).head?

/-- A wait for a mutex fails (R364): an event on both jobs, and the waiting task's job fails. (log 94: DEDUCED) -/
def State.inheritTimeout (s : State) (k : Task) (i hjob : Nat) : State :=
  let tagOf := fun (j : Nat) => ((s.job? j).map Job.tag).getD 0
  let data := [w32 (tagOf k.job), w32 (tagOf hjob)]
  let s := match s.job? k.job with
    | some j => s.incSat PTN_CNT1.INHERIT_TO 1 j.ptn
    | none => s
  let s := (s.jobEvent k.job evSemInheritTimeout i data).jobEvent hjob evSemInheritTimeout i data
  s.failTask k.job fcSemInheritTimeout k.fallback

/-- A bundle of tile t stalls on SEMW for a mutex: a saved holder is resumed for a slice, once (R363). -/
def State.startSlice (s : State) (t c i : Nat) : State :=
  match (s.tile t).task, s.savedHolder c i with
  | some k, some (ht, e) =>
    if ¬s.isMutex c i ∨ (s.slices.any fun x => x.waiter == t && x.clu == c && x.sem == i) then s
    else
      let p := s.taskPtn t
      let parent := s.slices.find? fun x => x.htile == t && x.hjob == k.job && x.hindex == k.index
      let depth := match parent with
        | some x => x.depth + 1
        | none => 1
      if 4 < depth ∨ ((s.tile ht).task.isSome ∧ s.saveBarred p ht) then s.inheritTimeout k i e.task.job
      else
        let s := s.modTile ht fun y => { y with queue := insertHead { e with head := true } (y.queue.erase e) }
        let s := s.incSat PTN_CNT1.INHERITS 1 p
        let x : Slice := { waiter := t, waitJob := k.job, clu := c, sem := i, htile := ht, hjob := e.task.job,
                           hindex := e.task.index, depth := depth, began := (parent.map fun x => x.began).getD s.now }
        { s with slices := s.slices ++ [x] }
  | _, _ => s

/-- The waiting task of a slice: on its tile, or saved from it. (log 94: DEDUCED) -/
def State.waitTask (s : State) (x : Slice) : Option Task :=
  let y := s.tile x.waiter
  (y.task.toList ++ y.queue.map fun e => e.task).find? fun k => k.job == x.waitJob

/-- A slice has lasted INHERIT µs of its waiting job's partition (R363). -/
def State.sliceSpent (s : State) (x : Slice) : Bool :=
  decide (s.fld PTN_QUANT.INHERIT (((s.job? x.waitJob).map Job.ptn).getD 0) * 1000 * nsUnit ≤ s.now - x.began)

/-- The slice for which tile t waits ends with the mutex still held (R364). (log 94: DEDUCED) -/
def State.sliceExpiry (s : State) (t : Nat) : State :=
  match s.slices.find? fun x => x.waiter == t with
  | none => s
  | some x =>
    if ¬s.sliceSpent x then s
    else match s.waitTask x with
    | some k => (s.cutSlice x).inheritTimeout k x.sem x.hjob
    | none => s.cutSlice x

end Sys2Proof.Machine
end

