-- ==== Sys2Proof/Machine/Issue.lean ====
section
/-! DEFINITION. Issuing a bundle (R107-R112, R123, R124): what the next bundle of a tile meets before it issues, the
operations of its slots one by one, and the end of its cycle. -/
namespace Sys2Proof.Machine

/-! ## The next bundle -/

/-- The 256 bits of the bundle at PC. -/
def State.fetch (s : State) (t : Nat) : BitVec 256 :=
  BitVec.ofNat 256 (s.readNum (tileMemBase t + 0x1E0000 + 32 * (s.tile t).pc) 32)

/-- The slots of a bundle that execute under their predicates. -/
def Tile.exMask (x : Tile) (b : Bundle) : Nat :=
  (List.range 7).foldl (fun m k => if b.isActive k && x.executes (b.predOf k) then m ||| 2 ^ k else m) 0

/-- The results in flight that come nearer during a stall cycle (R109, R123): none, those that the bundle waits for, all. -/
inductive Moves where
  | none
  | towards (rs : List Res)
  | all
deriving DecidableEq, Repr

/-- A result is among them. -/
def Moves.go (m : Moves) (w : Write) : Bool :=
  match m with
  | .none => false
  | .towards rs => rs.any fun r => decide (r ∈ w.targets)
  | .all => true

/-- What the next bundle meets. -/
inductive Verdict where
  /-- it faults before any slot issues -/
  | fault (code slot : Nat) (extra : List (Nat × Nat))
  /-- it stalls for one cycle: on a wait operation or not; and which results in flight come nearer meanwhile -/
  | stall (wait : Bool) (moves : Moves)
  /-- it stalls one cycle for a memory that a scalar access and a generator share (R111) -/
  | bank
  /-- it stalls one cycle for the stream engine, which takes a bank of X, or of Y (R119) -/
  | lost (y : Bool)
  | go
deriving DecidableEq, Repr

/-- The image's length in bundles. -/
def Tile.bundles (x : Tile) : Nat := (x.loaded.map fun l => l.len).getD 0 / 32

/-- A fault of the fetch or of R107, whatever the predicates. (log 26: DEDUCED) -/
def Tile.staticFault (x : Tile) (b : Bundle) : Option (Nat × Nat) :=
  if x.bundles ≤ x.pc then some (tfPcRange, 7) else b.reserved.map fun k => (tfIllegal, k)

/-- Branches and loop starts (R112). -/
def isBranch (o : Nat) : Bool := o == 0x28 || o == 0x29 || o == 0x2A || o == 0x2B || o == 0x2F
def isLoop (o : Nat) : Bool := o == 0x2C || o == 0x2D

/-- The bundle at `a` is the end bundle of an active loop, or the one before it. -/
def Tile.nearLoopEnd (x : Tile) (a : Nat) : Bool :=
  (List.range x.ld).any fun l => (x.ler l).toNat == a || (x.ler l).toNat == a + 1

/-- A fault of placement (R112, R120). (log 26: DEDUCED) -/
def Tile.placeFault (x : Tile) (b : Bundle) : Option Nat :=
  let o := b.s.o
  if ¬b.isActive 0 then none
  else if (isBranch o || isLoop o) && (x.delay || x.nearLoopEnd x.pc) then some tfIllegal
  else if isLoop o then
    if b.s.pred ≠ { neg := 0, ix := 0 } ∨ b.s.ib 11 0 ≤ x.pc then some tfIllegal
    else if x.ld = 4 then some tfLoopOvf
    else none
  else none

/-- The bundle's slots that execute. -/
def exec? (ex k : Nat) : Bool := bit ex k

/-- Interlocked registers that the bundle reads: predicates of the active slots, operands of those that execute. -/
def Bundle.reads (b : Bundle) (ex : Nat) : List Res :=
  let preds := (List.range 7).flatMap fun k => if b.isActive k then [Res.p (b.predOf k).ix.toNat] else []
  let at' := fun (k : Nat) (rs : List Res) => if exec? ex k then rs else []
  preds ++ at' 0 b.s.reads ++ at' 1 b.n.sreads ++ at' 2 b.w.sreads ++ at' 3 b.m.reads ++ at' 4 b.e.reads
    ++ at' 5 (b.dx.reads false) ++ at' 6 (b.dy.reads true)

/-- Some of the registers lies in the shadow of a write. -/
def Tile.shadowed (x : Tile) (rs : List Res) : Bool :=
  rs.any fun r => x.inflight.any fun f => decide (r ∈ f.write.targets)

/-- The slot that reads a register in a shadow without interlock, the first (R124). -/
def Tile.shadowSlot (x : Tile) (b : Bundle) (ex : Nat) : Option Nat :=
  let bad := fun (k : Nat) (rs : List Res) => exec? ex k && x.shadowed rs
  if bad 1 (b.n.vreads false) then some 1
  else if bad 2 (b.w.vreads true) then some 2
  else if bad 4 b.e.vreads then some 4
  else if bad 5 b.dx.vreads then some 5
  else if bad 6 b.dy.vreads then some 6
  else none

/-- Semaphore of a SEMW, SEMS or signalling SFENCE: cluster, index, count (R111). -/
def SSlot.sem (s : SSlot) : Nat × Nat × Nat := (s.ib 11 10, s.ib 9 0, s.ib 27 16)

/-- The S operation names a semaphore. -/
def SSlot.usesSem (s : SSlot) : Bool := s.o == 0x33 || s.o == 0x34 || (s.o == 0x37 && bit s.imm 31)

/-- A fault of a semaphore operand (R111). -/
def State.semFault (s : State) (t : Nat) (op : SSlot) : Option Nat :=
  if ¬op.usesSem then none
  else
    let (c, i, n) := op.sem
    if n = 0 then some tfIllegal
    else if s.ownsSem (s.taskPtn t) c i then none
    else some tfSemDenied

/-- The wait of an executing S operation does not yet hold, if it has one: what comes nearer meanwhile. HALT waits for every
operation in flight. -/
def State.sWaits (s : State) (t : Nat) (op : SSlot) : Option Moves :=
  let x := s.tile t
  let o := op.o
  let holdUnless := fun (ok : Bool) => if ok then none else some Moves.none
  if o = 0x30 then (if x.inflight.isEmpty && x.arrIdle && x.krun.isNone then none else some .all)
  else if o = 0x32 then holdUnless (x.ipend &&& x.imask != 0)
  else if o = 0x33 then
    let (c, i, n) := op.sem
    holdUnless (decide (n ≤ s.fld CLU_SEM.VALUE c i))
  else if o = 0x36 then
    let d := op.ib 7 0
    let order := match x.bound with
      | some (k, o) => if k = d then some o else x.current d
      | none => x.current d
    holdUnless (x.swaitDone d order (x.sr op.rs1.toNat).toNat)
  else if o = 0x38 then holdUnless x.fences.isEmpty
  else if o = 0x39 then holdUnless x.krun.isNone
  else none

/-- Other causes of a stall: eight fences (R222), the matrix queue full for any M operation, MSWAP and MWAIT (R114), a running kernel (R116).
An SFENCE or M operation does not count as a wait operation of the S slot. -/
def State.otherStall (s : State) (t : Nat) (b : Bundle) (ex : Nat) : Bool :=
  let x := s.tile t
  let mo := b.m.o
  (exec? ex 0 && b.s.o == 0x37 && decide (8 ≤ x.fences.length))
    || (exec? ex 3 && mo != 0 && decide (4 ≤ x.mq.length))
    || (exec? ex 3 && mo == 4 && !(x.mmulsDone && x.krun.isNone))
    || (exec? ex 3 && mo == 5 && !x.arrIdle)
    || (exec? ex 4 && b.e.o != 0 && x.krun.isSome)

/-- A scalar access and a generator use the same memory (R111). (log 25: DEDUCED) -/
def Bundle.bankClash (b : Bundle) (ex : Nat) : Bool :=
  exec? ex 0 && ((exec? ex 5 && (b.s.o == 0x20 || b.s.o == 0x22)) || (exec? ex 6 && (b.s.o == 0x21 || b.s.o == 0x23)))

/-- A generator of the bundle uses a bank for which a request in flight may have lost eight consecutive cycles.
(log 167: DESIGN CHOICE) -/
def Tile.vies (x : Tile) (ex : Nat) : Bool :=
  !x.reqs.isEmpty && ((exec? ex 5 && decide (8 ≤ x.lossX)) || (exec? ex 6 && decide (8 ≤ x.lossY)))

/-- A stream request that has lost eight consecutive cycles takes a bank that a generator is about to use, if one has: while
requests are in flight, a free value says so. (log 167: DESIGN CHOICE) -/
def State.streamTakes (s : State) (t : Nat) (ex : Nat) : Option Bool :=
  let x := s.tile t
  if !x.vies ex || s.nextFree % 2 == 0 then none else some (!(exec? ex 5 && decide (8 ≤ x.lossX)))

/-- Byte address of a scalar access. -/
def Tile.scalarAddr (x : Tile) (op : SSlot) : Nat := (x.sr op.rs1.toNat + BitVec.ofNat 32 op.imm).toNat

/-- A fault of an executing S operation on its operands. -/
def State.sFault (s : State) (t : Nat) (op : SSlot) : Option (Nat × List (Nat × Nat)) :=
  let x := s.tile t
  let o := op.o
  let k := op.ib 7 0
  if 0x20 ≤ o ∧ o ≤ 0x23 then
    let a := x.scalarAddr op
    if a % 4 ≠ 0 ∨ 0x7FFFC < a then some (tfMemRange, []) else none
  else if o = 0x1B then (if (x.mfs k).isNone then some (tfIllegal, []) else none)
  else if o = 0x1C then
    let v := x.sr op.rs1.toNat
    if (mtsWrites k v).isNone then some (tfIllegal, [])
    else if k = 0x24 ∧ 4 < bits v.toNat 7 5 then some (tfLoopOvf, [])
    else none
  else if o = 0x31 then some (tfTrap, [w32 (op.ib 15 0)])
  else if o = 0x35 then (if s.recordPasses t k then none else some (tfStmDesc, []))
  else none

/-- The modifier a generator uses. -/
def Tile.badGen (x : Tile) (d : DSlot) : Bool := d.badMod (x.mr d.mod.toNat)

/-- The faults of the executing operations on their operands, slot by slot. (log 26: DEDUCED) -/
def State.operandFault (s : State) (t : Nat) (b : Bundle) (ex : Nat) : Option (Nat × Nat × List (Nat × Nat)) :=
  let x := s.tile t
  let sf := if exec? ex 0 then s.sFault t b.s else none
  let mf := if exec? ex 3 then x.arrFault b.m else none
  let ef := if exec? ex 4 then x.eleFault b.e else none
  match sf, mf, ef with
  | some (c, more), _, _ => some (c, 0, more)
  | none, some c, _ => some (c, 3, [])
  | none, none, some c => some (c, 4, [])
  | none, none, none =>
    if exec? ex 5 && x.badGen b.dx then some (tfIllegal, 5, [])
    else if exec? ex 6 && x.badGen b.dy then some (tfIllegal, 6, [])
    else if ¬distinct (b.dests ex x.ld) then some (tfIllegal, 7, [])
    else if s.flag TIL_CTL.SHADOW_CHK t then (x.shadowSlot b ex).map fun k => (tfShadow, k, [])
    else none

/-- What the bundle at PC meets, its static faults apart. (log 25: DEDUCED; log 26: DEDUCED) -/
def State.verdict (s : State) (t : Nat) (b : Bundle) : Verdict :=
  let x := s.tile t
  let ex := x.exMask b
  match x.placeFault b with
  | some c => .fault c 0 []
  | none =>
    if x.shadowed (b.reads ex) then .stall false (.towards (b.reads ex))
    else
      match if exec? ex 0 then s.semFault t b.s else none with
      | some c => .fault c 0 []
      | none =>
        match if exec? ex 0 then s.sWaits t b.s else none with
        | some m => .stall true m
        | none =>
          if s.otherStall t b ex then .stall false .none
          else if b.bankClash ex && !x.paidStall then .bank
          else
            match s.operandFault t b ex with
            | some (c, k, more) => .fault c k more
            | none =>
              match s.streamTakes t ex with
              | some y => .lost y
              | none => .go

/-! ## Stall cycles -/

/-- One stall cycle. (log 25: DEDUCED) -/
def State.stallOnce (s : State) (t : Nat) (b : Bundle) (wait : Bool) (moves : Moves) : State :=
  let s := s.modTile t fun x =>
    let d := b.s.ib 7 0
    let bound := if wait ∧ b.s.o = 0x36 ∧ x.bound = none then (x.current d).map fun o => (d, o) else x.bound
    { x.pass 1 true with state := if wait then .wait else .run, bound := bound, lossX := 0, lossY := 0 }
  let s := s.endCycleOf t moves.go
  if wait ∧ b.s.o = 0x33 then s.startSlice t b.s.sem.1 b.s.sem.2.1 else s

/-! ## Issue and the end of the bundle's cycle -/

/-- One stall cycle in which the stream engine takes a bank of X, or of Y (R119). -/
def State.stallLost (s : State) (t : Nat) (b : Bundle) (y : Bool) : State :=
  let x := s.tile t
  ((s.stallOnce t b false .none).modTile t fun z =>
    { z with lossX := if y then x.lossX else 0, lossY := if y then 0 else x.lossY }).draw.2

/-- The bundle begins to issue. (log 25: DEDUCED) -/
def State.beginIssue (s : State) (t : Nat) (w : BitVec 256) (b : Bundle) : State :=
  let s := if (s.tile t).vies ((s.tile t).exMask b) then s.draw.2 else s
  s.modTile t fun x =>
    { x with state := .run, bound := none, paidStall := false, lossX := if exec? (x.exMask b) 5 then x.lossX + 1 else 0,
             lossY := if exec? (x.exMask b) 6 then x.lossY + 1 else 0,
             issuing := some { bundle := w, ex := x.exMask b, done := 0, target := none, skip := none, kernelBad := false } }

/-- Every active slot has been performed. -/
def Issuing.complete (i : Issuing) (b : Bundle) : Bool := (List.range 7).all fun k => !b.isActive k || bit i.done k

/-- The end of the issuing bundle's cycle: loop hardware, the pending branch, results due, the next PC. -/
def State.finishBundle (s : State) (t : Nat) (i : Issuing) (b : Bundle) : State :=
  if i.kernelBad then
    ((s.modTile t fun x => { x.pass 1 false with issuing := none }).tileFault t tfEleKernel 4)
  else
    let x := s.tile t
    let (x, next) := x.loopStep x.pc x.ld
    let next := match x.branch with
      | some a => a
      | none => next
    let next := match i.skip with
      | some a => a
      | none => next
    let s := s.setTile t { x.pass 1 false with
      issuing := none, pc := next, branch := i.target, delay := b.isActive 0 && isBranch b.s.o
      activeSet := if i.swap then 1 - x.activeSet else x.activeSet }
    let s := s.endCycle t
    if i.skip.isSome then (s.modTile t fun x => x.pass 1 false).endCycle t else s

/-- Slot k's operation is performed. -/
def State.markDone (s : State) (t k : Nat) : State :=
  s.modTile t fun x => { x with issuing := x.issuing.map fun i => { i with done := i.done ||| 2 ^ k } }

/-- End the bundle's cycle once every active slot has been performed. -/
def State.tryFinish (s : State) (t : Nat) : State :=
  match (s.tile t).issuing with
  | none => s
  | some i =>
    let b := Bundle.decode i.bundle
    if i.complete b then s.finishBundle t i b else s

/-- Perform slot k of the issuing bundle: its effect where its predicate holds. -/
def State.performSlot (s : State) (t k : Nat) (i : Issuing) (b : Bundle) (eff : Bundle → State → State) : State :=
  ((if bit i.ex k then eff b s else s).markDone t k).tryFinish t

/-- The slot may be performed now: the S slot first, as its wait and its effect are one step. -/
def slotTurn (b : Bundle) (k done : Nat) : Bool := !bit done k && (k == 0 || !b.isActive 0 || bit done 0)

/-- The tile runs a task whose bundles issue. -/
def State.issues (s : State) (t : Nat) : Bool :=
  let x := s.tile t
  s.domOn t && x.task.isSome && (x.state == .run || x.state == .wait)

/-- The command that issues slot k of the next bundle, or performs it in the bundle that is issuing: `fits` says that the
slot holds the command's operation. A bundle whose fetch or encoding is at fault meets its fault whatever the command. -/
def State.issueSlot (s : State) (t k : Nat) (fits : Bundle → Bool) (eff : Bundle → State → State) : State :=
  if ¬s.issues t then s
  else
    match (s.tile t).issuing with
    | some i =>
      let b := Bundle.decode i.bundle
      if fits b && slotTurn b k i.done then s.performSlot t k i b eff else s
    | none =>
      if (s.tile t).halting then s
      else
        let w := s.fetch t
        let b := Bundle.decode w
        match (s.tile t).staticFault b with
        | some (c, slot) => s.tileFault t c slot
        | none =>
          if ¬(fits b ∧ slotTurn b k 0) then s
          else
            match s.verdict t b with
            | .fault c slot more => s.tileFault t c slot more
            | .stall wait m => s.stallOnce t b wait m
            | .bank => (s.stallOnce t b false .none).modTile t fun x => { x with paidStall := true }
            | .lost y => s.stallLost t b y
            | .go =>
              let s := s.beginIssue t w b
              match (s.tile t).issuing with
              | some i => s.performSlot t k i b eff
              | none => s

/-- The S slot holds opcode o. -/
def holdsS (o : Nat) (b : Bundle) : Bool := b.isActive 0 && b.s.o == o
/-- The N or W slot holds opcode o. -/
def holdsLane (wide : Bool) (o : Nat) (b : Bundle) : Bool :=
  b.isActive (if wide then 2 else 1) && (if wide then b.w.o else b.n.o) == o
def holdsM (o : Nat) (b : Bundle) : Bool := b.isActive 3 && b.m.o == o
def holdsE (o : Nat) (b : Bundle) : Bool := b.isActive 4 && b.e.o == o
/-- The generator is enabled, for a load or a store. -/
def holdsD (y : Bool) (st : Nat) (b : Bundle) : Bool :=
  b.isActive (if y then 6 else 5) && (if y then b.dy.st else b.dx.st).toNat == st

end Sys2Proof.Machine
end

