-- ==== Sys2Proof/Machine/ElementOps.lean ====
section
/-! DEFINITION. The operations of the E slot (R116, R182, R183), the rows of a kernel run (R190-R194), and the writes of
scale entries and of the log's entry number (R168, R179). -/
namespace Sys2Proof.Machine

/-- The E operation `o` of the next bundle of tile t issues, with its effect. -/
def State.elementOp (s : State) (t : TileIx) (o : Nat) (eff : ESlot → State → State) : Host.Outcome State Fault Refusal :=
  .next (s.issueSlot t 4 (holdsE o) fun b => eff b.e)

/-- A v register written after the operation's latency, with its counts and flags. -/
def vEffect (t : Nat) (e : ESlot) (s : State) : State :=
  let r := s.eResult t e
  ((s.addCounts t r.counts).addFlags t r.flags).stageWrite t (eLatency e.o) (.v e.vd.toNat r.v)

/-- As `vEffect`, with the log entry of R163. -/
def vLogged (t kind : Nat) (e : ESlot) (s : State) : State :=
  let c := (s.eResult t e).counts
  let x := s.tile t
  let sidx := if kind = logErq then (erqFields (x.sr (e.aux.toNat % 32))).2.1 else 0
  let s := vEffect t e s
  if c = {} then s else s.numLog t kind x.pc 0 c 0 sidx 0

/-- EKRUN: the kernel starts, or its bundle ends in ELE_KERNEL. -/
def execEkrun (t : TileIx) (s : State) : Host.Outcome State Fault Refusal :=
  s.elementOp t 0x01 fun e s =>
    match s.startKernel t e with
    | some s => s
    | none => s.modTile t fun x => { x with issuing := x.issuing.map fun i => { i with kernelBad := true } }

def execEwin (t : TileIx) (s : State) : Host.Outcome State Fault Refusal := s.elementOp t 0x02 (vEffect t)
def execEadd (t : TileIx) (s : State) : Host.Outcome State Fault Refusal := s.elementOp t 0x03 (vEffect t)
def execEsub (t : TileIx) (s : State) : Host.Outcome State Fault Refusal := s.elementOp t 0x04 (vEffect t)
def execEmul (t : TileIx) (s : State) : Host.Outcome State Fault Refusal := s.elementOp t 0x05 (vEffect t)
def execEmin (t : TileIx) (s : State) : Host.Outcome State Fault Refusal := s.elementOp t 0x06 (vEffect t)
def execEmax (t : TileIx) (s : State) : Host.Outcome State Fault Refusal := s.elementOp t 0x07 (vEffect t)
def execFadd32 (t : TileIx) (s : State) : Host.Outcome State Fault Refusal := s.elementOp t 0x08 (vEffect t)
def execFmul32 (t : TileIx) (s : State) : Host.Outcome State Fault Refusal := s.elementOp t 0x09 (vEffect t)
def execFfma32 (t : TileIx) (s : State) : Host.Outcome State Fault Refusal := s.elementOp t 0x0A (vEffect t)
def execFadd64 (t : TileIx) (s : State) : Host.Outcome State Fault Refusal := s.elementOp t 0x0B (vEffect t)
def execFmul64 (t : TileIx) (s : State) : Host.Outcome State Fault Refusal := s.elementOp t 0x0C (vEffect t)
def execFfma64 (t : TileIx) (s : State) : Host.Outcome State Fault Refusal := s.elementOp t 0x0D (vEffect t)
def execFdiv32 (t : TileIx) (s : State) : Host.Outcome State Fault Refusal := s.elementOp t 0x0E (vEffect t)
def execFsqrt32 (t : TileIx) (s : State) : Host.Outcome State Fault Refusal := s.elementOp t 0x0F (vEffect t)
def execFdiv64 (t : TileIx) (s : State) : Host.Outcome State Fault Refusal := s.elementOp t 0x10 (vEffect t)
def execFsqrt64 (t : TileIx) (s : State) : Host.Outcome State Fault Refusal := s.elementOp t 0x11 (vEffect t)
def execEcvt (t : TileIx) (s : State) : Host.Outcome State Fault Refusal := s.elementOp t 0x12 (vLogged t logEcvt)
def execErq (t : TileIx) (s : State) : Host.Outcome State Fault Refusal := s.elementOp t 0x13 (vLogged t logErq)
def execElut (t : TileIx) (s : State) : Host.Outcome State Fault Refusal := s.elementOp t 0x14 (vEffect t)
def execEamax (t : TileIx) (s : State) : Host.Outcome State Fault Refusal := s.elementOp t 0x15 (vEffect t)

/-- One row of the running kernel; after the last row of a pass, the pass that follows it, if one does. -/
def execKernelRow (t : TileIx) (s : State) : Host.Outcome State Fault Refusal :=
  match (s.tile t).krun with
  | none => .next s
  | some r =>
    if (KDesc.ofWords r.desc).count ≤ r.row then .next s
    else
      let s := s.kernelRow t r
      match (s.tile t).krun with
      | none => .next s
      | some r => .next ((s.nextPass t r).getD s)

/-- The run ends once the rows of its last pass are written. -/
def execKernelRunEnd (t : TileIx) (s : State) : Host.Outcome State Fault Refusal :=
  match (s.tile t).krun with
  | none => .next s
  | some r => if (KDesc.ofWords r.desc).count ≤ r.row then .next (s.kernelEnd t r) else .next s

/-! ## Writes (R168, R179) -/

/-- A register write that a unit of logical tile t ignores: WRITE_IGNORED names the tile and the address. (log 43: DEDUCED) -/
def State.writeIgnored (s : State) (p t a : Nat) : State := s.event evWriteIgnored p t [w64 a]

/-- A half of a scale entry is written by the owner of an idle tile; any other write is ignored, with an event. -/
def State.scaleWrite (s : State) (p t e : Nat) (hi : Bool) (v : Nat) : State :=
  let r := if hi then SCL_HI else SCL_LO
  if ¬s.domOn t then s
  else if s.ownsTile p t ∧ s.ptnOn p ∧ (s.tile t).state = .idle then
    s.setReg r (if hi then (ScaleEntry.ofWords 0 v).hiWord else v) t e
  else s.writeIgnored p t (r.addr t e)

def execScaleWrite (p : PtnIx) (t : TileIx) (entry : BitVec 12) (hi : Bool) (value : Word) (s : State) :
    Host.Outcome State Fault Refusal :=
  .next (s.scaleWrite p t entry.toNat hi value.toNat)

/-- The log's entry number is set by the tile's owner: FULL and LOST clear. -/
def State.nlogWrite (s : State) (p t v : Nat) : State :=
  if s.domOn t ∧ s.ownsTile p t ∧ s.ptnOn p then
    ((s.setReg TIL_NLOG_WR v t).setFld TIL_NLOG_STAT.FULL 0 t).setFld TIL_NLOG_STAT.LOST 0 t
  else s

def execNlogWrWrite (p : PtnIx) (t : TileIx) (value : Word) (s : State) : Host.Outcome State Fault Refusal :=
  .next (s.nlogWrite p t value.toNat)

end Sys2Proof.Machine
end

