-- ==== Sys2Proof/WellFormed.lean ====
section
/-! DEFINITION. Which commands spell a row of the table: operands whose Lean type is wider than what the row can carry
are checked here, and the machine refuses a command that fails. -/
namespace Sys2Proof

/-- Lengths of an Ethernet frame without its FCS: 64 to 9,216 bytes with it, and up to two VLAN tags (R497). -/
def frameLenOk (n : Nat) : Bool := decide (60 ≤ n) && decide (n ≤ 9220)

/-- Bytes at an offset that cross no 4 KiB boundary, as a TLP's do not. -/
def inPage (off n : Nat) : Bool := decide (1 ≤ n) && decide (off % 4096 + n ≤ 4096)

/-- A read of up to 4,096 bytes, a write of up to 512 (R490). -/
def Tlp.wf (t : Tlp) : Bool :=
  match t with
  | .read _ off n => inPage off.toNat n
  | .write _ off bs => inPage off.toNat bs.length && decide (bs.length ≤ 512)
  | .config _ _ => true

/-- Bytes of data that a hart's access of n bytes carries. -/
def CoreOp.dataLen (op : CoreOp) (n : Nat) : Nat :=
  match op with
  | .load => 0
  | .lr => 0
  | .amoCas => 2 * n
  | _ => n

/-- A hart's access carries the data of its operation. -/
def coreDataOk (op : CoreOp) (size : Fin 5) (data : List Byte) : Bool := data.length == op.dataLen (2 ^ size.val)

/-- An arbiter of HBM names one of 128 pseudo-channels, one of a bank one of 64 tiles (R366). (log 99: DEDUCED) -/
def holdUnitOk (hbm : Bool) (unit : Fin 128) : Bool := hbm || decide (unit.val < 64)

/-- A link that is up has a generation and a width. -/
def pcieLinkOk (up : Bool) (rate : Fin 7) (width : Fin 17) : Bool :=
  if up then decide (1 ≤ rate.val) && decide (1 ≤ width.val) else rate == 0 && width == 0

/-- A completion carries at most a read's 4,096 bytes (R490). -/
def completionOk (ans : Option (List Byte)) : Bool := ans.all fun bs => decide (bs.length ≤ 4096)

/-- A debug access lies within a tile's memory window; a read carries no data. (log 153: DEDUCED) -/
def debugOk (off : Fin 0x200000) (write : Bool) (data : List Byte) : Bool :=
  if write then decide (1 ≤ data.length) && decide (off.val + data.length ≤ 0x200000) else data.isEmpty

/-- The error that a refresh leaves lies in the pseudo-channel (R373). (log 177: DESIGN CHOICE) -/
def refreshOk (flaw : Option (Nat × MemErr)) : Bool := flaw.all fun r => decide (r.1 * 32 < 0x48000000)

/-- A command's operands are within what its row can carry. (log 155: DESIGN CHOICE) -/
def Instr.wf (i : Instr) : Bool :=
  match i with
  | .fhRxFrame _ frame => frameLenOk frame.length
  | .ethFrameReceive _ frame _ => frameLenOk frame.length
  | .refresh _ _ _ found => refreshOk found.flaw
  | .flitReceive _ flit _ => flit.length == 256
  | .holdLimitCut hbm unit _ => holdUnitOk hbm unit
  | .pcieLinkChange up rate width => pcieLinkOk up rate width
  | .pcieInbound _ tlp _ => tlp.wf
  | .pcieOutbound _ ans => completionOk ans
  | .coreAccess _ op _ size data _ _ => coreDataOk op size data
  | .xspDone data => decide (data.length ≤ 256)
  | .sbDone _ data => decide (data.length ≤ 255)
  | .tileDebugAccess _ off write data => debugOk off write data
  | _ => true

end Sys2Proof
end

