-- ==== Sys2Proof/Machine/FhRxOps.lean ====
section
/-! DEFINITION. The commands of fronthaul ingress (chapter 10) and of the PRACH searchers (chapter 11). -/
namespace Sys2Proof.Machine

/-- A write of ATU_CELL_CFGn (R54, R248, R270). -/
def execCellCfgWrite (p : PtnIx) (cell : Fin 96) (value : Word) (s : State) : Host.Outcome State Fault Refusal :=
  .next (s.cellWrite p cell value.toNat)

/-- A frame, its FCS removed, arrives for the FHE on a port (R229-R234, R260). -/
def execFhRxFrame (port : PortIx) (frame : List Byte) (s : State) : Host.Outcome State Fault Refusal :=
  if frameLenOk frame.length then .next (s.rxFrame port frame)
  else .refused (.illFormed "fhRxFrame: a frame of 60 to 9,220 bytes")

/-- The window of symbol 0 of buffer b's next slot opens (R237, R239). -/
def execRxBufferAssign (cell : Fin 96) (b : Fin 8) (s : State) : Host.Outcome State Fault Refusal := .next (s.rxAssign cell b)

/-- The window of the cell's next symbol closes (R237). -/
def execSymbolClose (cell : Fin 96) (s : State) : Host.Outcome State Fault Refusal := .next (s.symbolClose cell)

/-- The fallback watermark of a job passes (R248, R249). -/
def execFallbackWatermark (job : Nat) (s : State) : Host.Outcome State Fault Refusal := .next (s.judge job)

/-- JOB starts the fallback of a job (R249, R250). -/
def execFallbackStart (job : Nat) (s : State) : Host.Outcome State Fault Refusal := .next (s.fallbackStart job)

/-- A write of FHE_CRX_CFGn that sets EN (R256). -/
def execFheCrxEnable (src : PtnIx) (cell : Fin 96) (value : Word) (s : State) : Host.Outcome State Fault Refusal :=
  .next (s.crxCfgWrite src cell (value.toNat ||| 2 ^ 31))

/-- A write of PRA_CFGc_CFG that sets EN (R258, R259, R274). -/
def execPraCfgEnable (src : PtnIx) (c : Fin 64) (value : Word) (s : State) : Host.Outcome State Fault Refusal :=
  .next (s.praCfgWrite src c (value.toNat ||| 2 ^ 31))

/-- The next occasion of configuration c closes (R261-R268). -/
def execOccasionClose (c : Fin 64) (s : State) : Host.Outcome State Fault Refusal := .next (s.occasionClose c)

/-- FHE_RX_CTL.CLR_CNT (R256). -/
def State.fheRxClrCnt (s : State) (src : Nat) : State :=
  if src ≠ s.manager ∨ ¬s.domOn 74 then s
  else
    let s := ((s.setReg FHE_RX_DROP0 0).setReg FHE_RX_DROP1 0).setReg FHE_RX_DROP2 0
    forEach (List.range 96) (fun n s =>
      forEach [FHE_CRX_CNT0, FHE_CRX_CNT1, FHE_CRX_CNT2, FHE_CRX_CNT3] (fun r s => s.setReg r 0 n) s) s

def execFheRxClrCnt (src : PtnIx) (s : State) : Host.Outcome State Fault Refusal := .next (s.fheRxClrCnt src)

/-- PRA_CTL.CLR_CNT (R274). -/
def State.praClrCnt (s : State) (src : Nat) : State :=
  if src ≠ s.manager ∨ ¬s.domOn (domainOf PRA_CTL.base) then s
  else forEach (List.range 64) (fun c s => (s.setReg PRA_CFG_CNT0 0 c).setReg PRA_CFG_CNT1 0 c) (s.setReg PRA_DROP 0)

def execPraClrCnt (src : PtnIx) (s : State) : Host.Outcome State Fault Refusal := .next (s.praClrCnt src)

end Sys2Proof.Machine
end

