-- ==== Sys2Proof/Machine/FhTxOps.lean ====
section
/-! DEFINITION. The commands of fronthaul egress (chapter 13). -/
namespace Sys2Proof.Machine

/-- The close of a slot's last U-plane window has passed: buffer b goes to the slot NBUF later (R312). -/
def execTxBufferAssign (cell : Fin 96) (b : Fin 8) (s : State) : Host.Outcome State Fault Refusal := .next (s.txAssign cell b)

/-- The C-plane window of buffer b's slot opens (R314). -/
def execCplaneWindowOpen (cell : Fin 96) (b : Fin 8) (s : State) : Host.Outcome State Fault Refusal := .next (s.cplaneOpen cell b)

/-- The U-plane window of the next symbol of buffer b's slot opens (R315). -/
def execUplaneWindowOpen (cell : Fin 96) (b : Fin 8) (s : State) : Host.Outcome State Fault Refusal := .next (s.uplaneOpen cell b)

/-- The FHE observes a part of buffer b ready after its window opened (R316). -/
def execTxPartReady (cell : Fin 96) (b : Fin 8) (s : State) : Host.Outcome State Fault Refusal := .next (s.txPartReady cell b)

/-- The C-plane window of buffer b's slot closes (R316). -/
def execCplaneWindowClose (cell : Fin 96) (b : Fin 8) (s : State) : Host.Outcome State Fault Refusal := .next (s.cplaneClose cell b)

/-- The U-plane window of the next symbol of buffer b's slot closes (R316). -/
def execUplaneWindowClose (cell : Fin 96) (b : Fin 8) (s : State) : Host.Outcome State Fault Refusal := .next (s.uplaneClose cell b)

/-- A write of FHE_CTX_CFGn that sets EN (R323, R324). -/
def execFheCtxEnable (src : PtnIx) (cell : Fin 96) (value : Word) (s : State) : Host.Outcome State Fault Refusal :=
  .next (s.ctxCfgWrite src cell (value.toNat ||| 2 ^ 31))

/-- FHE_TX_CTL.CLR_CNT (R323). -/
def State.fheTxClrCnt (s : State) (src : Nat) : State :=
  if src ≠ s.manager ∨ ¬s.domOn 74 then s
  else
    forEach (List.range 96) (fun n s =>
      ((s.setReg FHE_CTX_CNT0 0 n).setReg FHE_CTX_CNT1 0 n).setReg FHE_CTX_CNT2 0 n) s

def execFheTxClrCnt (src : PtnIx) (s : State) : Host.Outcome State Fault Refusal := .next (s.fheTxClrCnt src)

end Sys2Proof.Machine
end

