-- ==== Sys2Proof/Machine/GatherOps.lean ====
section
/-! DEFINITION. The commands of the gather engines (chapter 14). -/
namespace Sys2Proof.Machine

/-- A GATHER job of partition p starts on the allowed engine with the fewest active jobs (R329). -/
def execGatherDispatch (p : PtnIx) (s : State) : Host.Outcome State Fault Refusal := .next (s.dispatchGather p)

/-- The engine of cluster c has its next row of a LOOKUP job, which it pools (R331, R332). -/
def execRowReadDone (c : ClusterIx) (s : State) : Host.Outcome State Fault Refusal := .next (s.engineStep c 0)

/-- The engine of cluster c changes the next row of an UPDATE job (R336). -/
def execGatherRowUpdate (c : ClusterIx) (s : State) : Host.Outcome State Fault Refusal := .next (s.engineStep c 1)

/-- GTH_CTL.CLR_CNT of cluster c (R340). -/
def State.gthClrCnt (s : State) (src c : Nat) : State :=
  if src ≠ s.manager ∨ ¬s.domOn (64 + c) then s
  else ((s.setReg GTH_CNT0 0 c).setReg GTH_CNT1 0 c).setReg GTH_CNT2 0 c

def execGthClrCnt (src : PtnIx) (c : ClusterIx) (s : State) : Host.Outcome State Fault Refusal := .next (s.gthClrCnt src c)

end Sys2Proof.Machine
end

