-- ==== Sys2Proof/Machine/JobOps.lean ====
section
/-! DEFINITION. The commands of JOB (chapter 03). -/
namespace Sys2Proof.Machine

/-- A held job is released at its launch count (R61). -/
def execLaunchRelease (job : Nat) (s : State) : Host.Outcome State Fault Refusal := .next (s.launchRelease job)

/-- A write of a ring's CFG register (R69). -/
def execRingEnable (src p : PtnIx) (ring : Fin 18) (value : Word) (s : State) : Host.Outcome State Fault Refusal :=
  .next (s.ringEnable src p ring value.toNat)

/-- A write of submission doorbell page `ring` (R72). -/
def execSqDoorbell (src p : PtnIx) (ring : Fin 16) (tail : Word) (s : State) : Host.Outcome State Fault Refusal :=
  .next (s.sqDoorbell src p ring tail.toNat)

/-- A write of the completion doorbell page (R72). -/
def execCqDoorbell (src p : PtnIx) (head : Word) (s : State) : Host.Outcome State Fault Refusal :=
  .next (s.cqDoorbell src p head.toNat)

/-- A write of the event doorbell page (R72). -/
def execEqDoorbell (src p : PtnIx) (head : Word) (s : State) : Host.Outcome State Fault Refusal :=
  .next (s.eqDoorbell src p head.toNat)

/-- JOB fetches one descriptor of partition p (R74-R78, R82, R83). -/
def execDescriptorFetch (p : PtnIx) (s : State) : Host.Outcome State Fault Refusal := .next (s.fetchDescriptor p)

/-- Software clears FETCH_FAULT of a ring (R75). -/
def State.fetchFaultClear (s : State) (src p ring : Nat) : State :=
  if s.jobWriter src p then s.setFld JOB_SQ_STAT.FETCH_FAULT 0 p ring else s

def execFetchFaultClear (src p : PtnIx) (ring : Fin 16) (s : State) : Host.Outcome State Fault Refusal :=
  .next (s.fetchFaultClear src p ring)

/-- JOB dispatches one eligible job of partition p (R79, R81, R344). -/
def execJobDispatch (p : PtnIx) (s : State) : Host.Outcome State Fault Refusal := .next (s.dispatchJob p)

/-- The deadline of a job passes (R82). -/
def execDeadlineExpiry (job : Nat) (s : State) : Host.Outcome State Fault Refusal := .next (s.deadlineExpiry job)

/-- A job whose work has ended signals and is recorded (R80, R84-R88). -/
def execJobComplete (job : Nat) (s : State) : Host.Outcome State Fault Refusal := .next (s.completeJob job)

/-- IRQ_TIME has passed since a ring's first record not yet signalled (R88). -/
def execCqIrqTimer (p : PtnIx) (events : Bool) (s : State) : Host.Outcome State Fault Refusal := .next (s.irqTimer p events)

/-- JOB_OT_CMD REGISTER (R91). -/
def execOtRegister (src p : PtnIx) (index : BitVec 12) (s : State) : Host.Outcome State Fault Refusal :=
  .next (s.objectRegister src p index.toNat)

/-- The read of the image being registered ends (R91). -/
def execOtRegisterDone (p : PtnIx) (s : State) : Host.Outcome State Fault Refusal := .next (s.objectRead p)

/-- JOB_OT_CMD RETIRE (R91). -/
def execOtRetire (src p : PtnIx) (index : BitVec 12) (s : State) : Host.Outcome State Fault Refusal :=
  .next (s.objectRetire src p index.toNat)

/-- A 64-bit write of partition p's belay doorbell page (R93, R95). -/
def execBelayEnqueue (src p : PtnIx) (cmd : DWord) (s : State) : Host.Outcome State Fault Refusal :=
  .next (s.belayEnqueue src p cmd.toNat)

/-- The STOP_PORT at the front of partition p's belay queue is executed (R94). -/
def execStopPort (p : PtnIx) (s : State) : Host.Outcome State Fault Refusal := .next (s.belayStopPort p)

/-- The CANCEL_TAG at the front of the queue is executed (R94). -/
def execCancelTag (p : PtnIx) (s : State) : Host.Outcome State Fault Refusal := .next (s.belayCancelTag p)

/-- The CANCEL_RING at the front of the queue is executed (R94). -/
def execCancelRing (p : PtnIx) (s : State) : Host.Outcome State Fault Refusal := .next (s.belayCancelRing p)

/-- The QUIESCE_STREAMS at the front of the queue is executed (R94). -/
def execQuiesceStreams (p : PtnIx) (s : State) : Host.Outcome State Fault Refusal := .next (s.belayQuiesce p)

/-- The HALT_PARTITION at the front of the queue is executed (R94). -/
def execHaltPartition (p : PtnIx) (s : State) : Host.Outcome State Fault Refusal := .next (s.belayHalt p)

/-- A belay command reports that it is done (R96). -/
def execBelayDone (p : PtnIx) (s : State) : Host.Outcome State Fault Refusal := .next (s.belayDone p)

/-- JOB_PQ_CTL.RESUME (R98). -/
def execResume (src p : PtnIx) (s : State) : Host.Outcome State Fault Refusal := .next (s.resume src p)

/-- JOB_PQ_CTL.UNQUIESCE (R98). -/
def execUnquiesce (src p : PtnIx) (s : State) : Host.Outcome State Fault Refusal := .next (s.unquiesce src p)

/-- JOB_CTL.CLR_STATS (R99). (log 89: DEDUCED) -/
def State.jobClrStats (s : State) (src : Nat) : State :=
  if src ≠ s.manager then s
  else forEach (List.range 16) (fun p s => s.setReg JOB_PQ_CNT 0 p) (s.setReg JOB_BL_MAXLAT 0)

def execClrStats (src : PtnIx) (s : State) : Host.Outcome State Fault Refusal := .next (s.jobClrStats src)

end Sys2Proof.Machine
end

