-- ==== Sys2Proof/Machine/Partition.lean ====
section
/-! DEFINITION. Partitions (R341-R343), stealing (R13-R15, R349), semaphore writes (R372) and the arbiters' hold limit (R367). -/
namespace Sys2Proof.Machine

/-! ## Configuration (R342) -/

/-- Ranges [a, b] and [c, d] meet. -/
def rangesMeet (a b c d : Nat) : Bool := decide (a ≤ d) && decide (c ≤ b)

/-- Partitions p and q claim the same instance of a disjoint resource. -/
def State.overlap (s : State) (p q : Nat) : Bool :=
  let both := fun (r : Reg) (j : Nat) => (s.reg r p j &&& s.reg r q j) != 0
  both PTN_TILE_LO 0 || both PTN_TILE_HI 0 || ((List.range 4).any fun j => both PTN_PCH j) || both PTN_WAYS 0
    || ((List.range 4).any fun c => s.flag PTN_SEM.V p c && s.flag PTN_SEM.V q c &&
        rangesMeet (s.fld PTN_SEM.FIRST p c) (s.fld PTN_SEM.LAST p c) (s.fld PTN_SEM.FIRST q c) (s.fld PTN_SEM.LAST q c))
    || (s.flag PTN_TRG.V p && s.flag PTN_TRG.V q &&
        rangesMeet (s.fld PTN_TRG.FIRST p) (s.fld PTN_TRG.LAST p) (s.fld PTN_TRG.FIRST q) (s.fld PTN_TRG.LAST q))

def within (a x b : Nat) : Bool := decide (a ≤ x) && decide (x ≤ b)

/-- Every field and range of partition p is within its limits. -/
def State.cfgInRange (s : State) (p : Nat) : Bool :=
  within 1 (s.fld PTN_CFG.DEPTH p) 8 && within 5 (s.fld PTN_QUANT.QUANTUM p) 500 && within 1 (s.fld PTN_QUANT.INHERIT p) 500
    && ((List.range 4).all fun c => !s.flag PTN_SEM.V p c ||
        (decide (s.fld PTN_SEM.FIRST p c ≤ s.fld PTN_SEM.LAST p c)
          && decide (s.fld PTN_SEM.MUTEX_N p c ≤ s.fld PTN_SEM.LAST p c - s.fld PTN_SEM.FIRST p c + 1)))
    && (!s.flag PTN_TRG.V p || decide (s.fld PTN_TRG.FIRST p ≤ s.fld PTN_TRG.LAST p))
    && decide (s.fld PTN_TMEM0.XBASE p + s.fld PTN_TMEM0.XCNT p ≤ 128)
    && decide (s.fld PTN_TMEM0.YBASE p + s.fld PTN_TMEM0.YCNT p ≤ 128)
    && decide (s.fld PTN_TMEM1.FBASE p + s.fld PTN_TMEM1.FCNT p ≤ 56)

def errOverlap : Nat := 1
def errRange : Nat := 2
def errBusy : Nat := 3

/-- EN of partition p is set, if its whole configuration passes. (log 97: DEDUCED) -/
def State.ptnEnable (s : State) (p : Nat) : State :=
  if (List.range 16).any fun q => q != p && s.ptnOn q && s.overlap p q then s.setFld PTN_CFG.ERR errOverlap p
  else if ¬s.cfgInRange p then s.setFld PTN_CFG.ERR errRange p
  else (s.setFld PTN_CFG.ERR 0 p).setFld PTN_CFG.EN 1 p

/-- EN of partition p is to clear: it must be halted, with no accepted job and no cairn; its ways are written back first
(R342, R380). -/
def State.ptnDisable (s : State) (p : Nat) : State :=
  let s := s.setFld PTN_CFG.ERR errBusy p
  if s.flag JOB_PQ_STAT.HALTED p ∧ s.acceptedOf p = 0 ∧ s.fld PTN_PSTAT.CAIRNS p = 0 ∧ ¬s.job.closing.contains p then
    { s with job := { s.job with closing := s.job.closing ++ [p] } }
  else s

/-- The manager writes PTN_CFGp. (log 97: DEDUCED) -/
def State.ptnCfgWrite (s : State) (src p v : Nat) : State :=
  if src ≠ s.manager then s
  else if s.ptnOn p then (if bit v 31 then s else s.ptnDisable p)
  else
    let s := (s.setFld PTN_CFG.DEPTH (bits v 23 20) p).setFld PTN_CFG.MIGR (bits v 15 0) p
    if bit v 31 then s.ptnEnable p else s

/-- Every line in the ways of a closing partition has been written back and dropped: EN clears. -/
def State.waysDone (s : State) (p : Nat) : State :=
  if ¬s.job.closing.contains p then s
  else
    let s := s.writeBack (bitsSet 16 (s.reg PTN_WAYS p)) true
    let s := { s with job := { s.job with closing := s.job.closing.filter fun q => q != p } }
    (s.setFld PTN_CFG.EN 0 p).setFld PTN_CFG.ERR 0 p

/-- The first write of PTN_CTL locks both its fields (R343). -/
def State.ptnCtlWrite (s : State) (src v : Nat) : State :=
  if src ≠ s.manager ∨ s.job.ctlLocked then s
  else
    let s := { s with job := { s.job with ctlLocked := true } }
    (s.setFld PTN_CTL.TIME_OWNER (bits v 7 4)).setFld PTN_CTL.MGR (bits v 3 0)

/-- The counts of partition p are cleared. -/
def State.ptnClrCnt (s : State) (src p : Nat) : State :=
  if src ≠ s.manager then s
  else (((s.setReg PTN_CNT0 0 p).setReg PTN_CNT1 0 p).setReg PTN_INH_NS 0 p).setReg PTN_MAXSAVE 0 p

/-- The counts of cluster c are cleared. -/
def State.cluClrCnt (s : State) (src c : Nat) : State :=
  if src ≠ s.manager ∨ ¬s.domOn (64 + c) then s else (s.setReg CLU_STEALCNT 0 c).setReg CLU_BIVCNT 0 c

/-- Software clears CAIRN_FAULT: pre-emption is allowed again (R357). (log 97: DEDUCED) -/
def State.cairnFaultClear (s : State) (src p : Nat) : State :=
  if src ≠ s.manager then s
  else
    forEach (s.tilesOf p) (fun t s => if (s.tile t).cairnBar then s.modTile t fun x => { x with cairnBar := false } else s)
      (s.setFld PTN_PSTAT.CAIRN_FAULT 0 p)

/-- The partition that owns semaphore i of cluster c writes its value: the value is replaced and HELD clears (R372). -/
def State.semWrite (s : State) (src c i v : Nat) : State :=
  if s.semOwner c i ≠ some src ∨ ¬s.domOn (64 + c) then s
  else
    let v := if s.isMutex c i then min (v % 65536) 1 else v % 65536
    let s := (((s.setFld CLU_SEM.VALUE v c i).setFld CLU_SEM.HELD 0 c i).setFld CLU_SEM.HOLDER 0 c i).setFld
      CLU_SEM.JOB_HOLDER 0 c i
    ({ s with holders := s.holders.del (c * 1024 + i) }.endSlices c i).refresh

/-! ## Stealing (R13-R15, R349) -/

/-- Queue entries of tile t that are waiting tasks of partition p. -/
def State.waitingOf (s : State) (p t : Nat) : List QEntry :=
  (s.tile t).queue.filter fun e => e.slot.isNone && ((s.job? e.task.job).map fun j => j.ptn) == some p

/-- Those that a thief may take from it: an idle tile in service takes the head of its queue itself (R348). -/
def State.stealable (s : State) (p v : Nat) : List QEntry :=
  let x := s.tile v
  let own := if s.tileServes v ∧ x.task.isNone ∧ x.state = .idle then x.queue.head? else none
  (s.waitingOf p v).filter fun e => decide (some e ≠ own)

/-- The partition for which tile t can steal: it is in service, runs nothing and waits for nothing. (log 98: DEDUCED) -/
def State.thief (s : State) (t : Nat) : Option Nat :=
  let x := s.tile t
  if s.tileServes t ∧ x.task.isNone ∧ x.queue.isEmpty ∧ x.state = .idle then s.tileOwner t else none

/-- Tasks may be taken from tile v's queue. -/
def State.victimOpen (s : State) (v : Nat) : Bool := s.fld SYS_TMAP.STATE v != 3

/-- Tile t takes an entry of tile v's queue. (log 98: DEDUCED) -/
def State.takeFrom (s : State) (t v : Nat) (e : QEntry) (far : Bool) : State :=
  let s := s.modTile v fun x => { x with queue := x.queue.erase e }
  let k := if far then { e.task with migrated := true } else e.task
  s.modTile t fun x => { x with queue := [{ task := k, slot := none, head := e.head }] }

/-- The tile of its own cluster that tile t steals from (R14); while STEAL_EN is 0, only an OFFLINE one (R12, R32).
(log 98: DEDUCED) -/
def State.victim (s : State) (p t : Nat) : Option Nat :=
  let c := t / 16
  let cands := (List.range 15).map fun k => 16 * c + (t % 16 + k + 1) % 16
  cands.find? fun v =>
    s.ownsTile p v && s.victimOpen v && (s.flag CLU_CTL.STEAL_EN c || s.fld SYS_TMAP.STATE v == 2)
      && !(s.stealable p v).isEmpty

/-- Idle tile t takes the task at the tail of another queue of its cluster. -/
def State.steal (s : State) (t : Nat) : State :=
  match s.thief t with
  | none => s
  | some p =>
    match s.victim p t with
    | none => s
    | some v =>
      match (s.stealable p v).getLast? with
      | none => s
      | some e => (s.takeFrom t v e false).incSat CLU_STEALCNT.STEALS 1 (t / 16)

/-- The tile of cluster c with the most waiting tasks of partition p, if they exceed the cluster's watermark.
(log 98: DEDUCED) -/
def State.farVictim (s : State) (p c : Nat) : Option Nat :=
  let ts := (List.range 16).map (16 * c + ·)
  let n := (ts.map fun v => (s.waitingOf p v).length).foldl (· + ·) 0
  if n ≤ s.fld CLU_STEAL_WM.WM c then none
  else minBy (fun v => 64 - (s.waitingOf p v).length) (ts.filter fun v => s.victimOpen v && !(s.waitingOf p v).isEmpty)

/-- Idle tile t takes a migratable task from another cluster. (log 98: DEDUCED) -/
def State.farSteal (s : State) (t : Nat) : State :=
  match s.thief t with
  | none => s
  | some p =>
    if (s.victim p t).isSome ∨ ¬s.flag CLU_CTL.XSTEAL_EN (t / 16) then s
    else
      let far := (List.range 3).findSome? fun k =>
        let c := (t / 16 + k + 1) % 4
        if s.domOn (64 + c) && s.flag CLU_CTL.XSTEAL_EN c then
          (s.farVictim p c).bind fun v => ((s.stealable p v).filter fun e => e.task.migratable).getLast?.map fun e => (v, e)
        else none
      match far with
      | none => s
      | some (v, e) => (s.takeFrom t v e true).incSat CLU_STEALCNT.XSTEALS 1 (v / 16)

/-- Tile t's quantum has ended with a head of its queue as urgent as its task (R346). -/
def State.quantumExpiry (s : State) (t : Nat) : State :=
  if s.domOn t ∧ s.quantumDue t then s.modTile t fun x => { x with preempt := true } else s

/-- An arbiter cuts a holder off at the hold limit (R367): that of bank `bank` of a tile's memory, or of a pseudo-channel.
(log 99: DEDUCED) -/
def State.holdCut (s : State) (hbm : Bool) (unit bank requester : Nat) : State :=
  let owners := if hbm then (List.range 16).filter fun p => s.ownsPch p unit else (s.tileOwner unit).toList
  let s := if hbm then s.incSat HBM_CNT3.HOLDCUT 1 (unit / 32) else s
  s.devEvent evHoldCut unit [w32 (b2n hbm), w32 bank, w32 requester] owners

end Sys2Proof.Machine
end

