-- ==== Sys2Proof/Machine/PartitionOps.lean ====
section
/-! DEFINITION. The commands of partitions, pre-emption and arbitration (chapter 15). -/
namespace Sys2Proof.Machine

/-- A write of PTN_CTL (R343). -/
def execPtnCtlWrite (src : PtnIx) (value : Word) (s : State) : Host.Outcome State Fault Refusal :=
  .next (s.ptnCtlWrite src value.toNat)

/-- A write of PTN_CFGp with EN set (R342). -/
def execPtnCfgEnable (src p : PtnIx) (value : Word) (s : State) : Host.Outcome State Fault Refusal :=
  .next (s.ptnCfgWrite src p (setBits value.toNat 31 31 1))

/-- A write of PTN_CFGp with EN clear, while it is 1 (R342). -/
def execPtnCfgDisable (src p : PtnIx) (s : State) : Host.Outcome State Fault Refusal :=
  .next (if s.ptnOn p then s.ptnCfgWrite src p 0 else s)

/-- An idle tile steals within its cluster (R14). -/
def execSteal (t : TileIx) (s : State) : Host.Outcome State Fault Refusal := .next (s.steal t)

/-- An idle tile steals from another cluster (R15, R349). -/
def execCrossClusterSteal (t : TileIx) (s : State) : Host.Outcome State Fault Refusal := .next (s.farSteal t)

/-- The running task has run its quantum (R346). -/
def execQuantumExpiry (t : TileIx) (s : State) : Host.Outcome State Fault Refusal := .next (s.quantumExpiry t)

/-- A pre-emption proceeds at a bundle boundary: issue stops, then the cairn begins (R351). -/
def execPreemption (t : TileIx) (s : State) : Host.Outcome State Fault Refusal :=
  .next (if s.domOn t then s.preempt t else s)

/-- The last byte of a cairn is written (R351, R355). -/
def execCairnSaveDone (t : TileIx) (s : State) : Host.Outcome State Fault Refusal :=
  .next (if s.domOn t then s.saveDone t else s)

/-- The saved task at the head of an idle tile's queue starts restoring (R356). -/
def execCairnRestore (t : TileIx) (s : State) : Host.Outcome State Fault Refusal :=
  .next (if s.domOn t then s.restoreHead t else s)

/-- A restore ends (R356). -/
def execCairnRestoreDone (t : TileIx) (s : State) : Host.Outcome State Fault Refusal :=
  .next (if s.domOn t then s.restoreDone t else s)

/-- Software clears PTN_STATp.CAIRN_FAULT (R357). -/
def execCairnFaultClear (src p : PtnIx) (s : State) : Host.Outcome State Fault Refusal := .next (s.cairnFaultClear src p)

/-- The inherit slice for which tile t waits ends (R364). -/
def execInheritSliceExpiry (t : TileIx) (s : State) : Host.Outcome State Fault Refusal := .next (s.sliceExpiry t)

/-- An arbiter cuts a requester off at its hold limit (R367): that of pseudo-channel `unit`, or of bank `bank` of tile `unit`. -/
def execHoldLimitCut (hbm : Bool) (unit : Fin 128) (holder : Holder) (s : State) : Host.Outcome State Fault Refusal :=
  if holdUnitOk hbm unit then .next (s.holdCut hbm unit holder.bank.toNat holder.requester.toNat)
  else .refused (.illFormed "holdLimitCut: a tile of 0 to 63")

/-- A write of CLU_SEMi (R372). -/
def execSemWrite (src : PtnIx) (c : ClusterIx) (sem : Fin 1024) (value : Word) (s : State) : Host.Outcome State Fault Refusal :=
  .next (s.semWrite src c sem value.toNat)

/-- PTN_CTLp.CLR_CNT (R371). -/
def execPtnClrCnt (src p : PtnIx) (s : State) : Host.Outcome State Fault Refusal := .next (s.ptnClrCnt src p)

/-- CLU_CTL.CLR_CNT (R372). -/
def execCluClrCnt (src : PtnIx) (c : ClusterIx) (s : State) : Host.Outcome State Fault Refusal := .next (s.cluClrCnt src c)

/-- The write-back of a partition's ways before EN clears ends (R380). -/
def execWaysWriteBackDone (p : PtnIx) (s : State) : Host.Outcome State Fault Refusal := .next (s.waysDone p)

end Sys2Proof.Machine
end

