-- ==== Sys2Proof/Machine/PowerOps.lean ====
section
/-! DEFINITION. The commands of power, clocks and supply supervision (chapter 20). Temperatures are in degrees, as 32-bit
two's complement. -/
namespace Sys2Proof.Machine

/-- PWR_DOM_CTLd.REQ = ON (R445). -/
def execDomainOn (src : PtnIx) (d : Fin 82) (s : State) : Host.Outcome State Fault Refusal := .next (s.domRequest src d true)

/-- PWR_DOM_CTLd.REQ = OFF (R445). -/
def execDomainOff (src : PtnIx) (d : Fin 82) (s : State) : Host.Outcome State Fault Refusal := .next (s.domRequest src d false)

/-- A domain's drain has ended (R446). -/
def execDomainDrainDone (d : Fin 82) (s : State) : Host.Outcome State Fault Refusal := .next (s.drainDone d)

/-- A domain is isolated (R446). -/
def execDomainIsolateDone (d : Fin 82) (s : State) : Host.Outcome State Fault Refusal := .next (s.isolateDone d)

/-- A domain's switch ramp has ended (R446). -/
def execDomainRampDone (d : Fin 82) (s : State) : Host.Outcome State Fault Refusal := .next (s.rampDone d)

/-- A domain's memories are clear and its resets released (R446). -/
def execDomainRestoreDone (d : Fin 82) (s : State) : Host.Outcome State Fault Refusal := .next (s.restoreDoneDom d)

/-- A write of CLK_CLc_OP.REQ (R448). -/
def execOpReq (src : PtnIx) (c : ClusterIx) (req : Fin 4) (s : State) : Host.Outcome State Fault Refusal :=
  .next (s.opReq src c req)

/-- A cluster's idle PLL locks (R449). -/
def execPllLock (c : ClusterIx) (s : State) : Host.Outcome State Fault Refusal := .next (s.pllLock c)

/-- A regulator reports the target voltage (R449). -/
def execVoltageReached (c : ClusterIx) (s : State) : Host.Outcome State Fault Refusal := .next (s.voltageReached c)

/-- CLK_VSETTLE has passed since the report (R449). -/
def execVsettleExpiry (c : ClusterIx) (s : State) : Host.Outcome State Fault Refusal := .next (s.settled c)

/-- A 1 µs power estimate (R451): averages over 1 ms and 10 µs, and each cluster's estimate, in W. -/
def execPowerEstimate (ms us10 c0 c1 c2 c3 : BitVec 16) (s : State) : Host.Outcome State Fault Refusal :=
  .next (s.powerEstimate ms.toNat us10.toNat fun c => ([c0, c1, c2, c3].getD c 0).toNat)

/-- READ_POUT of the board's regulators, in W (R451). -/
def execPoutCalibrate (watts : BitVec 16) (s : State) : Host.Outcome State Fault Refusal :=
  .next (if s.domOn 79 then { s with power := { s.power with pout := watts.toNat } } else s)

/-- A supply warning begins (R452): the rail, and its reading in mV. -/
def execSagWarn (rail : Fin 8) (mv : BitVec 16) (s : State) : Host.Outcome State Fault Refusal := .next (s.sagWarn rail mv.toNat)

/-- A supply warning ends (R452). -/
def execSagClear (s : State) : Host.Outcome State Fault Refusal := .next s.sagClear

/-- A rail falls below the reset threshold (R453). -/
def execSupplyReset (s : State) : Host.Outcome State Fault Refusal := .next s.supplyReset

/-- Every rail has recovered (R453). -/
def execSupplyRecovery (s : State) : Host.Outcome State Fault Refusal := .next s.supplyRecovered

/-- A write of PWR_SAG (R453). -/
def execPwrSagWrite (src : PtnIx) (value : Word) (s : State) : Host.Outcome State Fault Refusal := .next (s.sagWrite src value.toNat)

/-- A sensor of cluster c reads 100 degrees or more (R454). -/
def execThermWarn (c : ClusterIx) (sensor : BitVec 16) (temp : Word) (s : State) : Host.Outcome State Fault Refusal :=
  .next (s.thermWarn c sensor.toNat temp.toInt)

/-- A step of a cluster's thermal floor (R454). -/
def execThermalFloorStep (c : ClusterIx) (up : Bool) (s : State) : Host.Outcome State Fault Refusal := .next (s.thermalStep c up)

/-- A sensor reads 115 degrees or more (R455). -/
def execThermTrip (sensor : BitVec 16) (temp : Word) (s : State) : Host.Outcome State Fault Refusal :=
  .next (s.thermTrip sensor.toNat temp.toInt)

/-- A write of PWR_STOP with GO (R456). -/
def execStop (src : PtnIx) (keep : Bool) (s : State) : Host.Outcome State Fault Refusal := .next (s.stopWrite src keep)

/-- The RTC reaches the alarm (R457): the oasis sensor, and whether every sensor reads below 115 degrees. -/
def execRtcWake (temp : Word) (cool : Bool) (s : State) : Host.Outcome State Fault Refusal := .next (s.rtcAlarm temp.toInt cool)

/-- The oasis sensor has cooled after a thermal trip, with the alarm already reached (R457). -/
def execThermalTripWake (temp : Word) (cool : Bool) (s : State) : Host.Outcome State Fault Refusal :=
  .next (s.coolWake temp.toInt cool)

/-- The RTC advances (R460). -/
def execRtcTick (s : State) : Host.Outcome State Fault Refusal := .next s.rtcTick

/-- A read of OAS_RTC_SUB (R460). -/
def execRtcSubRead (s : State) : Host.Outcome State Fault Refusal := .next s.rtcLatch

/-- A write of OAS_RTC_HI (R460). -/
def execRtcLoad (src : PtnIx) (hi : Word) (s : State) : Host.Outcome State Fault Refusal := .next (s.rtcLoad src hi.toNat)

/-- A reference clock is lost (R458): 0 REFCLK_100M, 1 TIMECLK, 2 ETH_REFCLK, 3 PCIE_REFCLK. -/
def execClockLoss (r : Fin 4) (s : State) : Host.Outcome State Fault Refusal := .next (s.clockLoss r)

/-- A reference clock returns (R458). -/
def execClockReturn (r : Fin 4) (s : State) : Host.Outcome State Fault Refusal := .next (s.clockReturn r)

/-- PORST_N falls (R513): with a reset by the supply monitor or a thermal trip in the same cycle; VDD_OASIS stays in
tolerance; every sensor reads below 115 degrees. -/
def execPorstFall (supply trip oasis cool : Bool) (s : State) : Host.Outcome State Fault Refusal :=
  .next (s.porstFall supply trip oasis cool)

/-- PORST_N rises (R464, R512): the straps. -/
def execPorstRise (grp : Fin 8) (mode : Fin 4) (s : State) : Host.Outcome State Fault Refusal := .next (s.porstRise grp mode)

/-- The REFCLK_100M PLL locks after a reset (R464): BOOT_MODE as sampled. -/
def execRefclkPllLock (mode : Fin 4) (s : State) : Host.Outcome State Fault Refusal := .next (s.pllLocked mode)

end Sys2Proof.Machine
end

