-- ==== Sys2Proof/Machine/TileOps.lean ====
section
/-! DEFINITION. The commands of the tile sequencer that are no operations of a bundle. -/
namespace Sys2Proof.Machine

/-- A tile with no running task starts the waiting task at the head of its queue (R101, R346). -/
def execTaskStart (t : TileIx) (s : State) : Host.Outcome State Fault Refusal := .next (s.startHead t)

/-- A write through the memory window to program memory (R100, R102). (log 43: DEDUCED) -/
def State.programWrite (s : State) (p t off : Nat) (bs : List Byte) : State :=
  if ¬s.domOn t then s
  else if (s.tile t).state = .idle then s.writeProgram t off bs
  else s.event evWriteIgnored p t [w64 (tileMemBase t + off)]

def execProgramMemoryWrite (p : PtnIx) (t : TileIx) (offset : Fin 131072) (value : Byte) (s : State) :
    Host.Outcome State Fault Refusal :=
  .next (s.programWrite p t (0x1E0000 + offset.val) [value])

/-- The task of tile t ends, if it has nothing left to do (R223). -/
def execTaskEnd (t : TileIx) (s : State) : Host.Outcome State Fault Refusal := .next (s.endTask t)

/-- A pending and enabled interrupt is taken (R126). -/
def execInterruptEntry (t : TileIx) (s : State) : Host.Outcome State Fault Refusal :=
  if s.domOn t then .next (s.enterInterrupt t) else .next s

/-- The cycles until the next result in flight pass, while the next bundle waits for it (R109, R123). -/
def execResultWrite (t : TileIx) (s : State) : Host.Outcome State Fault Refusal :=
  let x := s.tile t
  if ¬s.issues t ∨ x.issuing.isSome ∨ x.halting then .next s
  else
    let b := Bundle.decode (s.fetch t)
    if (x.staticFault b).isSome then .next s
    else
      match s.verdict t b with
      | .stall wait m =>
        let n := x.firstDue m.go
        if n = 0 then .next s
        else
          .next ((s.modTile t fun x =>
            { x.pass n true with state := if wait then .wait else .run, lossX := 0, lossY := 0 }).endCyclesOf t m.go n)
      | _ => .next s

end Sys2Proof.Machine
end

