-- ==== Sys2Proof/Machine/RegRead.lean ====
section
/-! DEFINITION. Reads of registers: the fields that mirror a unit's own record, the reads that latch, pop or draw, and who reads
what. -/
namespace Sys2Proof.Machine

/-- Fields put together: values and the places of their lowest bits. -/
def pack (fs : List (Nat × Nat)) : Nat := fs.foldl (fun w f => w + f.1 * 2 ^ f.2) 0

/-- A mask from a test of each bit. -/
def maskOf (n : Nat) (f : Nat → Bool) : Nat := (List.range n).foldl (fun m k => if f k then m + 2 ^ k else m) 0

/-! ## Tiles -/

/-- TIL_STAT (R130). -/
def Tile.statWord (x : Tile) : Nat :=
  let st := match x.state with
    | .idle => 0
    | .run => 1
    | .wait => 2
    | .save => 3
    | .restore => 3
  pack [(st, 30), (b2n x.inHandler, 29), (b2n x.ie, 28), (x.ld, 25), (x.pc % 4096, 12), (x.ipend.toNat % 8, 0)]

/-- FAILED flags of a set's regions. -/
def Tile.failedMask (x : Tile) (set : Nat) : Nat := maskOf 4 fun q => (x.region set q).failed

/-- ARR_STAT (R152). -/
def Tile.arrWord (x : Tile) : Nat :=
  pack [(x.fill % 16, 8), (x.mq.length % 8, 4), (b2n (x.running.any fun m => m.retry), 1),
    (b2n (!x.loading.isEmpty || !x.running.isEmpty), 0)]

/-- ELE_STAT (R196). -/
def Tile.eleWord (x : Tile) : Nat :=
  match x.krun with
  | none => pack [(x.lastKernel % 16, 24)]
  | some r =>
    pack [(1, 31), (b2n (!r.cal && decide (r.pass ≠ .first)), 30), (b2n r.cal, 29), (r.kernel % 16, 24),
      (((KDesc.ofWords r.desc).m0 + r.row) % 64, 8)]

/-- STM_STAT (R228). -/
def Tile.stmWord (x : Tile) : Nat :=
  let n := fun (st : InstState) => (x.insts.rows.filter fun r => decide (r.2.state = st)).length
  pack [(b2n (n .faultWait != 0), 31), ((x.fences.filter fun f => !f.implicit).length % 16, 24), (n .active % 32, 16),
    (x.reqs.length % 512, 0)]

/-- STM_DSTATd: the current instance, or the last to complete (R221). -/
def Tile.descWord (x : Tile) (d : Nat) : Nat :=
  let gen := fun (i : Option Inst) => (i.map Inst.gen).getD 0
  let st := match (x.insts.find? d).map fun i => i.state with
    | some .queued => 1
    | some .active => 2
    | some .faultWait => 3
    | _ => 0
  pack [(st, 30), (b2n (x.pend.find? d).isSome, 29), (gen (x.insts.find? d), 16), (gen (x.pend.find? d), 8)]

/-- The lowest-numbered descriptor in FAULT_WAIT, with its instance. -/
def Tile.faulted (x : Tile) : Option (Nat × Inst) := x.insts.rows.find? fun r => decide (r.2.state = .faultWait)

/-- Coordinate k of the cursor shown. -/
def Tile.cursor (x : Tile) (k : Nat) : Nat :=
  match x.faulted with
  | some (_, i) => ((i.ins.find? i.faultAt.1).map fun b => (coords i.faultAt.2 b.counts).getD k 0).getD 0
  | none => 0

/-- A register of tile t's window whose word is not the stored one. -/
def State.tileMirror (s : State) (t : Nat) (r : Reg) (d w : Nat) : Nat :=
  let x := s.tile t
  let cut := w % 2 ^ (crcCode (s.fld CRC_CFG.POLY t)).width
  if r = TIL_STAT then x.statWord
  else if r = TIL_TASKCYC then x.taskCyc
  else if r = TIL_STALLCYC then x.stallCyc
  else if r = ARR_CFG then pack [(x.activeSet, 8), (x.split, 4), (x.fmt, 0)]
  else if r = ARR_STAT then x.arrWord
  else if r = ARR_SUBSTAT then
    pack [(x.failedMask (1 - x.activeSet), 8), (x.failedMask x.activeSet, 4), ((x.suspect ||| x.skipQuads) % 16, 0)]
  else if r = ELE_STAT then x.eleWord
  else if r = STM_STAT then x.stmWord
  else if r = STM_CURBLK then (x.faulted.map fun f => f.2.faultAt.1).getD 0
  else if r = STM_CURDESC then (x.faulted.map fun f => 2 ^ 31 + f.1).getD 0
  else if r = STM_CURC then x.cursor d % 2 ^ 24
  else if r = STM_DSTAT then x.descWord d
  else if r = STM_DCNT then ((x.insts.find? d).map fun i => i.delivered).getD 0
  else if r = CRC_VALUE ∨ r = CRC_INIT ∨ r = CRC_EXPECT then cut
  else if r = CRC_RESULT then
    let c := crcCode (s.fld CRC_CFG.POLY t)
    (s.reg CRC_VALUE t ^^^ c.final) % 2 ^ c.width
  else w

/-! ## The other blocks -/

/-- BBX_STAT.STATE (R443): COMMIT under a supply warning, OPEN, DRAIN, IDLE. (log 154: DEDUCED) -/
def State.bbxState (s : State) : Nat :=
  if s.power.sagLow then 3 else if s.bbx.opening.isSome then 2 else if s.bbx.staged.isEmpty then 0 else 1

/-- FHE_CRX_STRIDEn (R235). -/
def State.rxStrideOf (s : State) (n : Nat) : Nat :=
  rxStride (s.cellGrid n).symsPerSlot (s.fld FHE_CRX_CFG.S n) (s.fld FHE_CRX_CFG.NPRB n)

/-- FHE_CTX_STRIDEn (R310). -/
def State.txStrideOf (s : State) (n : Nat) : Nat :=
  txStride (s.cellGrid n).symsPerSlot (s.fld FHE_CTX_CFG.S n) (s.fld FHE_CTX_CFG.NPRB n)

/-- Jobs from a ring, accepted and not yet recorded. -/
def State.ringActive (s : State) (p r : Nat) : Bool :=
  s.jobList.any fun x => x.2.ptn == p && x.2.ring == r && !x.2.posted

/-- HBM_PCHq of pseudo-channel q (R391). (log 106: DEDUCED) -/
def State.pchWord (s : State) (q w : Nat) : Nat :=
  let own := firstFrom (fun p => s.ownsPch p q) 0 16
  setBits w 20 8 (pack [(b2n own.isSome, 12), (own.getD 0, 8), (s.bbx.levels.getD (kPch * 256 + q) 0 % 256, 0)])

/-- A register of a system or cluster block whose word is not the stored one: copy (i, j), stored word w. (log 154: DEDUCED) -/
def State.sysMirror (s : State) (r : Reg) (i j w : Nat) : Nat :=
  if r = JOB_STAT then s.acceptedAll
  else if r = JOB_SQ_STAT then setBits w 0 0 (b2n (s.ringActive i j))
  else if r = JOB_PQ_STAT then setBits w 13 0 (s.acceptedOf i)
  else if r = JOB_BL_STAT then setBits w 22 16 (s.jobPtn i).belay.length
  else if r = FHE_CRX_STRIDE then s.rxStrideOf i
  else if r = FHE_CTX_STRIDE then s.txStrideOf i
  else if r = DEC_STAT then
    setBits (setBits w 27 24 (maskOf 4 fun u => (s.coding.polar.find? u).isSome)) 15 0
      (maskOf 16 fun d => (s.coding.ld.find? d).isSome)
  else if r = ENC_STAT then setBits w 7 0 (maskOf 8 fun u => (s.coding.enc.find? u).isSome)
  else if r = GTH_STAT then
    pack [((s.gather.units.rows.filter fun u => u.2.clu == i).length % 8, 16), (s.rowsOut i % 1024, 0)]
  else if r = PTN_STAT then maskOf 16 fun p => s.ptnOn p
  else if r = PTN_SLOT then s.slotSize i
  else if r = CLU_QDEPTH then
    let q := (s.tile (16 * i + j)).queue
    pack [((q.filter fun e => e.slot.isSome).length % 16, 16), ((q.filter fun e => e.slot.isNone).length % 128, 0)]
  else if r = CLU_SEM then setBits w 16 16 (b2n (s.isMutex i j))
  else if r = HBM_PCH then s.pchWord (32 * i + j) w
  else if r = MMU_STAT then
    let full := decide (ringSize (s.fld MMU_FR_CFG.LOG2SIZE i) ≤ dist32 (s.reg MMU_FR_TAIL i) (s.reg MMU_FR_HEAD i))
    setBits (setBits w 30 30 (b2n full)) 24 16 (s.unresolved i)
  else if r = DGT_STAT then s.dgt.held.length
  else if r = BBX_STAT then setBits (setBits w 31 30 s.bbxState) 17 12 s.bbx.staged.length
  else if r = BBX_LVL then s.bbx.levels.getD (s.fld BBX_LVLSEL.KIND * 256 + s.fld BBX_LVLSEL.INDEX) 0
  else if r = PWR_STAT then setBits w 31 31 (b2n s.power.sagLow)
  else if r = SEC_ROOTHASH then field rootHash (4 * i) 4
  else if r = ACI_HART_STAT then if s.domOn (hartDomain i) then w else setBits w 1 0 2
  else if r = PCI_FN then if i = 0 then setBits w 3 0 s.manager else w
  else w

/-! ## Reads with an effect, and windows outside the catalogue -/

/-- ATU_ETS0-ATU_ETS3 of a popped entry (R64, R67). -/
def EgressStamp.words (e : EgressStamp) : List Nat :=
  [pack [(1, 31), (e.port % 16, 24), (e.msgType % 16, 20), (e.seqId % 65536, 0)], e.ns, e.sec % 2 ^ 32,
   pack [(e.frac % 65536, 16), (e.sec / 2 ^ 32 % 65536, 0)]]

/-- The position of a cell, ATU_CELL_POSn. -/
def State.cellPos (s : State) (n : Nat) : Nat :=
  if s.cellOn n then
    let (f, slot, sym) := (s.cellGrid n).posAt s.now
    pack [(sfnOf f, 22), (slot % 128, 15), (sym % 16, 11)]
  else 0

/-- Reads of the ATU block by partition p (R44, R45, R67). -/
def State.rdAtu (s : State) (p a : Nat) : Nat × State :=
  let o := a - 0x40040000
  let snap := s.atu.snaps.getD p ⟨0, 0⟩
  let g := s.trgStage p
  if o = 0x30 then (s.atu.ns.toNat, s.snapRead p)
  else if o = 0x34 then (snap.sec.toNat % 2 ^ 32, s)
  else if o = 0x38 then (snap.sec.toNat / 2 ^ 32, s)
  else if o = 0x3C then (snap.frac.toNat, s)
  else if 0x1400 ≤ o ∧ o < 0x1580 then (s.cellPos ((o - 0x1400) / 4), s)
  else if o = 0x2000 then (g.w0.toNat, s)
  else if o = 0x2004 then (g.w1.toNat, s)
  else if o = 0x2008 then (g.w2.toNat, s)
  else if o = 0x200C then (g.w3.toNat, s)
  else if o = 0x2014 then (g.stat.toNat, s)
  else if 0x3100 ≤ o ∧ o < 0x3110 then
    if p ≠ s.timeOwner then (0, s)
    else
      let s := if o = 0x3100 then s.etsPop p else s
      (((s.atu.etsLatch.map EgressStamp.words).getD []).getD ((o - 0x3100) / 4) 0, s)
  else ((s.regAt a).toNat, s)

/-- Reads of the SEC block by partition p: mailboxes and report windows read zero for any other (R478, R481); a word of TRNG
data is a free value (R477). -/
def State.rdSec (s : State) (p a : Nat) : Nat × State :=
  let o := a - 0x40180000
  if 0x4000 ≤ o ∧ o < 0x8000 then (if (o - 0x4000) / 0x400 = p then ((s.regAt a).toNat, s) else (0, s))
  else if 0x8000 ≤ o then (if (o - 0x8000) / 0x800 = p then ((s.regAt a).toNat, s) else (0, s))
  else if a = SEC_TRNG_DATA.base then
    if s.flag SEC_STAT.TRNG_OK then
      let (x, s) := s.draw
      (x % 2 ^ 32, s.setFld SEC_TRNG_STAT.VALID 1)
    else (0, s.setFld SEC_TRNG_STAT.VALID 0)
  else
    match rowAt a with
    | some (r, i, j) => (s.sysMirror r.reg i j (s.regAt a).toNat, s)
    | none => (0, s)

/-- Word k of a function's PBA. -/
def PciFn.pbaWord (f : PciFn) (k : Nat) : Nat := maskOf 32 fun b => f.pba.get (fun _ => false) (32 * k + b)

/-- Reads of the PCI block: PF0's MSI-X table and PBA lie in it (R491). (log 154: DEDUCED) -/
def State.rdPci (s : State) (a : Nat) : Nat :=
  let o := a - 0x40160000
  let f := s.pciFns.getD 0 {}
  if 0x8000 ≤ o then (f.tbl.get msixReset ((o - 0x8000) / 4)).toNat
  else if 0x4000 ≤ o ∧ o < 0x4100 then f.pbaWord ((o - 0x4000) / 4)
  else
    match rowAt a with
    | some (r, i, j) => s.sysMirror r.reg i j (s.regAt a).toNat
    | none => 0

/-- The register at local address `a`, a multiple of 4 in a register region, as partition p reads it: its word, and what the
read changes. An undefined offset reads zero (R26). (log 154: DEDUCED) -/
def State.regRead (s : State) (p a : Nat) : Nat × State :=
  match region a with
  | .tileReg t =>
    match rowAt a with
    | some (r, _, d) => (s.tileMirror t r.reg d (s.regAt a).toNat, s)
    | none => (0, s)
  | .cluReg _ =>
    match rowAt a with
    | some (r, i, j) => (s.sysMirror r.reg i j (s.regAt a).toNat, s)
    | none => (0, s)
  | .sysReg =>
    match (a - 0x40000000) / 0x10000 with
    | 3 => if a = OAS_RTC_SUB.base then (s.power.rtc % 32768, s.rtcLatch) else ((s.regAt a).toNat, s)
    | 4 => s.rdAtu p a
    | 22 => (s.rdPci a, s)
    | 24 => s.rdSec p a
    | 27 =>
      if 0x401B4000 ≤ a ∧ a < 0x401B8000 then (s.aplicRead (a - aplicBase), s)
      else
        match rowAt a with
        | some (r, i, j) => (s.sysMirror r.reg i j (s.regAt a).toNat, s)
        | none => (0, s)
    | _ =>
      match rowAt a with
      | some (r, i, j) => (s.sysMirror r.reg i j (s.regAt a).toNat, s)
      | none => (0, s)
  | _ => (0, s)

end Sys2Proof.Machine
end

