-- ==== Sys2Proof/Machine/YalelleOps.lean ====
section
/-! DEFINITION. The commands of the Yalelle links (chapter 17). -/
namespace Sys2Proof.Machine

/-- YAL_LINKk_CTL.EN is written 1 (R398, R411). -/
def execLinkEnable (src : PtnIx) (k : LinkIx) (s : State) : Host.Outcome State Fault Refusal := .next (s.linkEnable src k)

/-- YAL_LINKk_CTL.EN is written 0 (R398). -/
def execLinkDisable (src : PtnIx) (k : LinkIx) (s : State) : Host.Outcome State Fault Refusal := .next (s.linkDisable src k)

/-- Training of link k ends with the lanes locked (R395, R398). -/
def execLinkTrainDone (k : LinkIx) (locked : BitVec 4) (peer : Peer) (s : State) : Host.Outcome State Fault Refusal :=
  .next (s.linkTrained k locked.toNat peer)

/-- Fewer than three lanes have locked by 100 ms (R398). -/
def execLinkTrainTimeout (k : LinkIx) (s : State) : Host.Outcome State Fault Refusal := .next (s.linkTimeout k linkTrain)

/-- YAL_LINKk_CTL.RETRAIN (R398). -/
def execRetrain (src : PtnIx) (k : LinkIx) (s : State) : Host.Outcome State Fault Refusal := .next (s.linkRetrain' src k)

/-- Retraining of link k ends with the lanes locked (R398, R399). -/
def execRetrainDone (k : LinkIx) (locked : BitVec 4) (s : State) : Host.Outcome State Fault Refusal :=
  .next (s.retrained k locked.toNat)

/-- Fewer than three lanes have locked within 40 µs (R398). -/
def execRetrainTimeout (k : LinkIx) (s : State) : Host.Outcome State Fault Refusal := .next (s.linkTimeout k linkRetrain)

/-- A flit of 256 bytes arrives on link k (R396, R397, R401); `fec` names the lanes whose FEC failed on it (R399). -/
def execFlitReceive (k : LinkIx) (flit : List Byte) (fec : BitVec 4) (s : State) : Host.Outcome State Fault Refusal :=
  if flit.length == 256 then .next (s.flitArrives k flit fec.toNat)
  else .refused (.illFormed "flitReceive: a flit of 256 bytes")

/-- A packet with hops to go is forwarded (R405). -/
def execPacketTransit (k : LinkIx) (s : State) : Host.Outcome State Fault Refusal := .next (s.transit k)

/-- A read request has arrived on link k (R407, R408). -/
def execRdReq (k : LinkIx) (err : MemErr) (s : State) : Host.Outcome State Fault Refusal :=
  .next (s.packetOf k pkRdReq (fun _ _ => true) fun p s => s.serveRead p err)

/-- A read response has arrived on link k (R403). -/
def execRdRsp (k : LinkIx) (s : State) : Host.Outcome State Fault Refusal :=
  .next (s.packetOf k pkRdRsp (fun _ _ => true) fun p s => s.serveResponse p)

/-- A write request has arrived on link k (R407-R409). -/
def execWr (k : LinkIx) (err : MemErr) (s : State) : Host.Outcome State Fault Refusal := .next (s.writeArrives k err)

/-- A write acknowledgement has arrived on link k (R403). -/
def execWrAck (k : LinkIx) (s : State) : Host.Outcome State Fault Refusal :=
  .next (s.packetOf k pkWrAck (fun _ _ => true) fun p s => s.serveResponse p)

/-- An atomic request has arrived on link k (R408). -/
def execAtom (k : LinkIx) (err : MemErr) (s : State) : Host.Outcome State Fault Refusal :=
  .next (s.packetOf k pkAtom (fun _ _ => true) fun p s => s.serveAtomic p err)

/-- An atomic response has arrived on link k (R403). -/
def execAtomRsp (k : LinkIx) (s : State) : Host.Outcome State Fault Refusal :=
  .next (s.packetOf k pkAtomRsp (fun _ _ => true) fun p s => s.serveResponse p)

/-- An error response has arrived on link k (R403). -/
def execErrRsp (k : LinkIx) (s : State) : Host.Outcome State Fault Refusal :=
  .next (s.packetOf k pkErrRsp (fun _ _ => true) fun p s => s.serveResponse p)

/-- A BELAY packet has arrived on link k (R93, R96). -/
def execBelay (k : LinkIx) (s : State) : Host.Outcome State Fault Refusal :=
  .next (s.packetOf k pkBelay (fun _ _ => true) fun p s => s.belayArrive p)

/-- A gather pooling request has arrived on link k (R334, R336). -/
def execGpoolReq (k : LinkIx) (s : State) : Host.Outcome State Fault Refusal :=
  .next (s.packetOf k pkGpoolReq (fun _ _ => true) fun p s => s.servePool k p)

/-- A pooling response has arrived on link k (R335). -/
def execGpoolRsp (k : LinkIx) (s : State) : Host.Outcome State Fault Refusal :=
  .next (s.packetOf k pkGpoolRsp (fun _ _ => true) fun p s => s.serveResponse p)

/-- A rope-pair DIGEST packet has arrived on link k (R422). -/
def execDigest (k : LinkIx) (s : State) : Host.Outcome State Fault Refusal := .next (s.digestPacket k)

/-- The message that waits longest for partition q is appended, if its ring can take it (R409). -/
def execMessageAppend (q : PtnIx) (s : State) : Host.Outcome State Fault Refusal := .next (s.messageAppend q)

/-- A message for partition q has waited for YAL_TMO (R409). -/
def execMessageTimeout (q : PtnIx) (s : State) : Host.Outcome State Fault Refusal := .next (s.messageTimeout q)

/-- The request with that tag has had no response within its bound (R410). -/
def execRequestTimeout (tag : BitVec 16) (s : State) : Host.Outcome State Fault Refusal := .next (s.requestTimeout tag.toNat)

/-- A BELAY packet has been held for 1 ms without a path (R405). -/
def execBelayHoldTimeout (s : State) : Host.Outcome State Fault Refusal := .next s.belayHoldTimeout

/-- A write of YAL_RTEi_A, or of YAL_RTEi_B (R406). -/
def execRouteWrite (src : PtnIx) (dst : BitVec 12) (alt : Bool) (value : Word) (s : State) : Host.Outcome State Fault Refusal :=
  .next (s.routeWrite src dst.toNat alt value.toNat)

/-- YAL_CTL.CLR_CNT (R411). -/
def execYalClrCnt (src : PtnIx) (s : State) : Host.Outcome State Fault Refusal := .next (s.yalClrCnt src)

end Sys2Proof.Machine
end

