-- ==== Sys2Proof/Machine/RegWrite.lean ====
section
/-! DEFINITION. Writes of registers (R9, R26): block by block, who may write, what a write waits for, and what it commands. -/
namespace Sys2Proof.Machine

/-- A plain write by the manager partition alone. -/
def State.managerWrite (s : State) (src a v : Nat) : State := if src = s.manager then s.plainWrite a v else s

/-! ## SYS (R36), ATU (R44, R67) -/

/-- The first write of SYS_CHIPID.ID locks it. (log 160: DEDUCED) -/
def State.chipIdWrite (s : State) (v : Nat) : State :=
  if s.flag SYS_CHIPID.ID_SET then s else (s.setFld SYS_CHIPID.ID v).setFld SYS_CHIPID.ID_SET 1

/-- (log 160: DEDUCED) -/
def State.wrSys (s : State) (a v : Nat) : State := if a = SYS_CHIPID.base then s.chipIdWrite (v % 4096) else s

/-- ATU_CTL: its RW fields, the recovered clock's check (R52), SET. -/
def State.atuCtlWrite (s : State) (p v : Nat) : State :=
  let src := fun (s : State) => (s.flag ATU_CTL.RCV_EN, s.fld ATU_CTL.RCV_PORT)
  let old := src s
  let s := s.writeReg ATU_CTL v
  let s := if src s = old then s else s.rcvCheck
  let s := if bit v 0 then s else s.modAtu fun a => { a with holdTicks := 0 }
  if bit v 2 then s.atuSet p else s

/-- The trigger registers, staged for partition p. -/
def State.trgWrite (s : State) (p o v : Nat) : State :=
  let g := s.trgStage p
  let w := BitVec.ofNat 32 v
  if o = 0x2000 then s.setStage p { g with w0 := w }
  else if o = 0x2004 then s.setStage p { g with w1 := w }
  else if o = 0x2008 then s.setStage p { g with w2 := w }
  else if o = 0x200C then s.setStage p { g with w3 := w }
  else if o = 0x2010 then
    match bits v 31 30 with
    | 1 => s.trgArm p (v % 4096)
    | 2 => s.trgDisarm p (v % 4096)
    | 3 => s.trgRead p (v % 4096)
    | _ => s
  else s

/-- (log 139: DEDUCED) -/
def State.wrAtu (s : State) (p a v : Nat) : State :=
  match rowAt a with
  | none => s.trgWrite p (a - 0x40040000) v
  | some (r, i, _) =>
    if r.reg = ATU_STAT then s.plainWrite a v
    else if p ≠ s.timeOwner then s
    else if r.reg = ATU_CTL then s.atuCtlWrite p v
    else if r.reg = ATU_STEP then s.atuStep p v
    else if r.reg = ATU_OFS_IN then s.ofsIn p v true
    else if r.reg = ATU_CELL_CFG then s.cellWrite p i v
    else if r.reg = ATU_CELL_OFS then (if s.flag ATU_CELL_CFG.EN i then s else s.plainWrite a v)
    else if r.reg = ATU_SERVO_CTL then ((s.plainWrite a v).setFld ATU_STAT.SAMPLE_LOST 0).setFld ATU_STAT.STEP_CNT 0
    else s.plainWrite a v

/-! ## JOB (R69, R99) -/

/-- (log 89: DEDUCED) -/
def State.wrJob (s : State) (src a v : Nat) : State :=
  match rowAt a with
  | none => s
  | some (r, p, k) =>
    if r.reg = JOB_CTL then
      if src ≠ s.manager then s
      else
        let s := s.plainWrite a v
        if bit v 1 then s.jobClrStats src else s
    else if ¬s.jobWriter src p then s
    else if r.reg = JOB_SQ_BASE_LO ∨ r.reg = JOB_SQ_BASE_HI then (if s.flag JOB_SQ_CFG.EN p k then s else s.plainWrite a v)
    else if r.reg = JOB_CQ_BASE_LO ∨ r.reg = JOB_CQ_BASE_HI then (if s.flag JOB_CQ_CFG.EN p then s else s.plainWrite a v)
    else if r.reg = JOB_EQ_BASE_LO ∨ r.reg = JOB_EQ_BASE_HI then (if s.flag JOB_EQ_CFG.EN p then s else s.plainWrite a v)
    else if r.reg = JOB_SQ_CFG then s.ringEnable src p k v
    else if r.reg = JOB_CQ_CFG then s.ringEnable src p 16 v
    else if r.reg = JOB_EQ_CFG then s.ringEnable src p 17 v
    else if r.reg = JOB_EQ_STAT then
      let due := s.flag JOB_EQ_STAT.WRITE_FAULT p && bit v 0
      let s := s.plainWrite a v
      if due then s.flushEvents p else s
    else if r.reg = JOB_PQ_CTL then
      let s := if bit v 0 then s.resume src p else s
      if bit v 1 then s.unquiesce src p else s
    else if r.reg = JOB_OT_CMD then
      match bits v 31 30 with
      | 1 => s.objectRegister src p (v % 4096)
      | 2 => s.objectRetire src p (v % 4096)
      | _ => s
    else s.plainWrite a v

/-! ## Tile windows (R130, R152, R168, R179, R196, R228, R304) -/

/-- (log 138: DEDUCED) -/
def State.arrClear (s : State) (t : Nat) : State :=
  ((s.setReg ARR_CKCNT 0 t).setReg ARR_BUSYCYC 0 t).setReg ARR_FILLCYC 0 t

/-- (log 138: DEDUCED) -/
def State.stmClear (s : State) (t : Nat) : State :=
  ((s.setReg STM_REQCNT 0 t).setReg STM_MERGED 0 t).setReg STM_RCNT 0 t

/-- ARR_CTL.CLR_CNT, STM_CTL.CLR_CNT and ELE_CTL.CLR_CNT from partition src. -/
def State.arrClrCnt (s : State) (src t : Nat) : State :=
  if s.domOn t ∧ s.tileOwner t = some src then s.arrClear t else s

def State.stmClrCnt (s : State) (src t : Nat) : State :=
  if s.domOn t ∧ s.tileOwner t = some src then s.stmClear t else s

def State.eleClrCnt (s : State) (src t : Nat) : State :=
  if ¬s.domOn t then s
  else if s.tileOwner t = some src then s.setReg ELE_RUNCNT 0 t
  else s.writeIgnored src t (ELE_CTL.addr t 0)

/-- A write of an ELE register: RM, the limits and the table only from the owner of an idle tile; anything else ignored is told
(R196). (log 138: DEDUCED) -/
def State.wrEle (s : State) (src t a v : Nat) (r : Reg) : State :=
  let idle := decide ((s.tile t).state = .idle)
  if r = ELE_STAT ∨ r = ELE_RUNCNT then s
  else if s.tileOwner t ≠ some src then s.writeIgnored src t a
  else if r = ELE_CTL then (if bit v 0 then s.eleClrCnt src t else s)
  else if r = ELE_FPCSR then
    let rm := bits v 7 5
    let old := s.fld ELE_FPCSR.RM t
    let s := (s.plainWrite a v).setFld ELE_FPCSR.RM old t
    if rm = old then s
    else if ¬idle then s.writeIgnored src t a
    else if 4 < rm then s
    else s.setFld ELE_FPCSR.RM rm t
  else if idle then s.plainWrite a v
  else s.writeIgnored src t a

/-- A write of a check-value register by the tile's owner waits for a block that is being fed (R304, R307). -/
def State.wrCrc (s : State) (t a v : Nat) (r : RegRow) : State :=
  if r.rows.any fun f => decide (f.acc = .rw) then s.crcWrite t a v else s

/-- TIL_NLOG_CFG: EN takes a size of 6 to 20 (R179). -/
def State.nlogCfgWrite (s : State) (t v : Nat) : State :=
  let s := s.writeReg TIL_NLOG_CFG v t
  if 6 ≤ v % 32 ∧ v % 32 ≤ 20 then s else s.setFld TIL_NLOG_CFG.EN 0 t

/-- (log 138: DEDUCED) -/
def State.wrTile (s : State) (src t a v : Nat) : State :=
  match rowAt a with
  | none => s
  | some (r, _, e) =>
    if r.reg = SCL_LO then s.scaleWrite src t e false v
    else if r.reg = SCL_HI then s.scaleWrite src t e true v
    else if (a / 0x10000) % 16 = 2 then s.wrEle src t a v r.reg
    else if s.tileOwner t ≠ some src then s
    else if r.reg = TIL_NLOG_WR then s.nlogWrite src t v
    else if r.reg = TIL_NLOG_CFG then s.nlogCfgWrite t v
    else if r.reg = ARR_CTL then (if bit v 0 then s.arrClear t else s)
    else if r.reg = ARR_GAPFILL then (if bit v 0 then s.plainWrite a v else (s.plainWrite a v).endFill t 15)
    else if r.reg = STM_CTL then (if bit v 0 then s.stmClear t else s)
    else if r.reg = STM_CFG then (if (s.tile t).state = .idle then s.plainWrite a v else s)
    else if (a / 0x10000) % 16 = 5 then s.wrCrc t a v r
    else s.plainWrite a v

/-! ## FHE and PRA (R256, R274, R323) -/

def State.wrFhe (s : State) (src a v : Nat) : State :=
  match rowAt a with
  | none => s
  | some (r, n, _) =>
    if r.reg = FHE_RX_CTL then
      if src ≠ s.manager then s
      else
        let on := (List.range 96).filter fun n => s.rxOn n
        let s := s.plainWrite a v
        let s := if bit v 1 then s.fheRxClrCnt src else s
        forEach (List.range 96) (fun n s => s.rxSwitched n (on.contains n)) s
    else if r.reg = FHE_TX_CTL then
      if src ≠ s.manager then s
      else
        let s := s.plainWrite a v
        let s := if bit v 1 then s.fheTxClrCnt src else s
        forEach (List.range 96) (fun n s => s.syncTx n) s
    else if r.reg = FHE_EAXC_A ∨ r.reg = FHE_EAXC_B ∨ r.reg = FHE_CRX_PTN then s.managerWrite src a v
    else if r.reg = FHE_CTX_PTN then (if s.flag FHE_CTX_CFG.EN n then s else s.managerWrite src a v)
    else if r.reg = FHE_CRX_CFG then s.crxCfgWrite src n v
    else if r.reg = FHE_CTX_CFG then s.ctxCfgWrite src n v
    else
      let tx := decide (0x4013A000 ≤ a)
      if src ≠ (if tx then s.fld FHE_CTX_PTN.PTN n else s.fld FHE_CRX_PTN.PTN n) then s
      else if r.reg = FHE_CRX_STAT ∨ r.reg = FHE_CTX_STAT then s.plainWrite a v
      else if (if tx then s.flag FHE_CTX_CFG.EN n else s.flag FHE_CRX_CFG.EN n) then s
      else s.plainWrite a v

def State.wrPra (s : State) (src a v : Nat) : State :=
  match rowAt a with
  | none => s
  | some (r, c, _) =>
    if r.reg = PRA_CTL then
      if src ≠ s.manager then s
      else
        let s := s.plainWrite a v
        let s := if bit v 1 then s.praClrCnt src else s
        forEach (List.range 64) (fun c s => s.syncPra c) s
    else if r.reg = PRA_CFG_CFG then s.praCfgWrite src c v
    else if src ≠ s.manager ∧ src ≠ s.praPtn c then s
    else if r.reg ≠ PRA_CFG_STAT ∧ s.flag PRA_CFG_CFG.EN c then s
    else s.plainWrite a v

/-! ## DEC, ENC, GTH (R305, R306, R340) -/

def State.wrDec (s : State) (src a v : Nat) : State :=
  match rowAt a with
  | none => s
  | some (r, p, _) =>
    if r.reg = DEC_PSHARE then s.pshareWrite src p v
    else if r.reg = DEC_CTL ∧ bit v 1 then (s.managerWrite src a v).decClrCnt src
    else s.managerWrite src a v

def State.wrEnc (s : State) (src a v : Nat) : State :=
  let s := s.managerWrite src a v
  if a = ENC_CTL.base ∧ bit v 1 then s.encClrCnt src else s

/-! ## PTN and CLU (R342, R343, R371, R372) -/

def State.wrPtn (s : State) (src a v : Nat) : State :=
  match rowAt a with
  | none => s
  | some (r, p, i) =>
    if r.reg = PTN_CTL then s.ptnCtlWrite src v
    else if r.reg = PTN_CFG then s.ptnCfgWrite src p v
    else if r.reg = PTN_PCTL then (if bit v 0 then s.ptnClrCnt src p else s)
    else if r.reg = PTN_PSTAT then (if bit v 0 then s.cairnFaultClear src p else s)
    else if r.reg = PTN_QUANT then s.managerWrite src a v
    else if s.ptnOn p then s
    else if r.reg = PTN_PCH then s.managerWrite src a (maskOf 32 fun b => bit v b && !s.pchRetired (32 * i + b))
    else s.managerWrite src a v

def State.wrClu (s : State) (src c a v : Nat) : State :=
  match rowAt a with
  | none => s
  | some (r, _, i) =>
    if r.reg = CLU_SEM then s.semWrite src c i v
    else if r.reg = CLU_CTL ∧ bit v 2 then (s.managerWrite src a v).cluClrCnt src c
    else if r.reg = GTH_CTL ∧ bit v 1 then (s.managerWrite src a v).gthClrCnt src c
    else s.managerWrite src a v

/-! ## HBM, MMU, SYC (R391-R393) -/

def State.wrHbm (s : State) (src st a v : Nat) : State :=
  if a ≠ HBM_CTL.addr st 0 then s
  else
    let s := if bit v 0 then s.hbmEnable src st else s.hbmDisable src st
    if bit v 1 then s.hbmClrCnt src st else s

def State.wrMmu (s : State) (src a v : Nat) : State :=
  match rowAt a with
  | none => s
  | some (r, p, _) =>
    if ¬s.mmuWriter src p then s
    else if r.reg = MMU_FR_CFG then s.frWrite src p v
    else if r.reg = MMU_FR_LO ∨ r.reg = MMU_FR_HI then (if s.flag MMU_FR_CFG.EN p then s else s.plainWrite a v)
    else if r.reg = MMU_RESOLVE then (s.resolve src p (v % 65536) (bit v 31)).1
    else if r.reg = MMU_INV then
      match v % 4 with
      | 1 => s.invStart src p none
      | 2 => s.invStart src p (some (s.invPage p))
      | _ => if s.mmuWriter src p && s.flag MMU_STAT.INV_BUSY p then s.setFld MMU_STAT.ERR errInvBusy p else s
    else s.plainWrite a v

def State.wrSyc (s : State) (src a v : Nat) : State :=
  let p := bits v 19 16
  if a ≠ SYC_MAINT.base then s
  else if v % 4 = 1 ∨ v % 4 = 2 then s.maintStart src p (v % 4 == 2)
  else if ¬(src = s.manager ∨ src = p) ∨ s.mmu.maint.isSome then s
  else s.plainWrite a v

/-! ## YAL (R411) -/

/-- YAL_LINKk_CTL by the manager. (log 156: DEDUCED) -/
def State.linkCtlWrite (s : State) (src k v : Nat) : State :=
  if src ≠ s.manager then s
  else
    let s := s.setFld YAL_LINK_CTL.LANE_DIS (bits v 7 4) k
    let s := if bit v 0 then s.linkEnable src k else if s.flag YAL_LINK_CTL.EN k then s.linkDisable src k else s
    if bit v 1 then s.linkRetrain' src k else s

/-- YAL_MQp_CFG: while EN is 1 only a write that clears it counts; EN takes a size of 6 to 12, and starts the counts at 0.
(log 156: DEDUCED) -/
def State.mqCfgWrite (s : State) (p v : Nat) : State :=
  if s.flag YAL_MQ_CFG.EN p ∧ bit v 31 then s
  else
    let s := s.writeReg YAL_MQ_CFG v p
    if ¬bit v 31 then s
    else if 6 ≤ v % 32 ∧ v % 32 ≤ 12 then (s.setReg YAL_MQ_HEAD 0 p).setReg YAL_MQ_TAIL 0 p
    else s.setFld YAL_MQ_CFG.EN 0 p

/-- (log 11: DESIGN CHOICE; log 115: DEDUCED) -/
def State.mqHeadWrite (s : State) (p h : Nat) : State :=
  let tail := s.reg YAL_MQ_TAIL p
  if headMoves tail (s.reg YAL_MQ_HEAD p) h then s.setReg YAL_MQ_HEAD h p else s.event evOverpost p 18 []

def State.wrYal (s : State) (src a v : Nat) : State :=
  match rowAt a with
  | none => s
  | some (r, i, _) =>
    if 0x40140400 ≤ a ∧ a < 0x40140600 then
      if src ≠ i ∧ src ≠ s.manager then s
      else if r.reg = YAL_MQ_CFG then s.mqCfgWrite i v
      else if r.reg = YAL_MQ_LO ∨ r.reg = YAL_MQ_HI then (if s.flag YAL_MQ_CFG.EN i then s else s.plainWrite a v)
      else if r.reg = YAL_MQ_HEAD then s.mqHeadWrite i v
      else s.plainWrite a v
    else if r.reg = YAL_RTE_A then s.routeWrite src i false v
    else if r.reg = YAL_RTE_B then s.routeWrite src i true v
    else if r.reg = YAL_LINK_CTL then s.linkCtlWrite src i v
    else if (r.reg = YAL_LINK_CRED0 ∨ r.reg = YAL_LINK_CRED1) ∧ s.flag YAL_LINK_CTL.EN i then s
    else if r.reg = YAL_CTL ∧ bit v 1 then (s.managerWrite src a v).yalClrCnt src
    else s.managerWrite src a v

/-! ## DGT (R418, R420, R424) -/

/-- DGT_SCR_CFGp: clearing EN waits for the area to be unused; EN takes an area within the partition's pseudo-channels. -/
def State.scrCfgWrite (s : State) (p v : Nat) : State :=
  let lg := v % 32
  if s.flag DGT_SCR_CFG.EN p then
    if bit v 31 ∨ s.reg DGT_SCR_USED p ≠ 0 then s else s.writeReg DGT_SCR_CFG v p
  else
    let s := s.writeReg DGT_SCR_CFG (v % 2 ^ 31) p
    if bit v 31 && decide (12 ≤ lg) && decide (lg ≤ 30) && s.ownArea p (s.addrOf DGT_SCR_LO DGT_SCR_HI p) (2 ^ lg) then
      s.setFld DGT_SCR_CFG.EN 1 p
    else s

/-- Partition p has accepted LOCKSTEP jobs that are not recorded. -/
def State.lockstepJobs (s : State) (p : Nat) : Bool := s.jobList.any fun r => r.2.ptn == p && r.2.flag 1 && !r.2.posted

/-- DGT_ROPEp: V takes a valid primary route of one hop to the peer (R420). -/
def State.ropeWrite (s : State) (p v : Nat) : State :=
  if s.lockstepJobs p then s
  else
    let s := s.writeReg DGT_ROPE v p
    let c := v % 4096
    if s.flag YAL_RTE_A.V c ∧ s.fld YAL_RTE_A.HOPS c = 1 then s else s.setFld DGT_ROPE.V 0 p

/-- (log 89: DEDUCED) -/
def State.wrDgt (s : State) (src a v : Nat) : State :=
  match rowAt a with
  | none => s
  | some (r, p, _) =>
    if r.reg = DGT_CTL then (if bit v 0 then s.dgtClrCnt src else s)
    else if src ≠ p ∧ src ≠ s.manager then s
    else if r.reg = DGT_SCR_CFG then s.scrCfgWrite p v
    else if r.reg = DGT_ROPE then s.ropeWrite p v
    else if r.reg = DGT_SCR_LO ∨ r.reg = DGT_SCR_HI then (if s.flag DGT_SCR_CFG.EN p then s else s.plainWrite a v)
    else s.plainWrite a v

/-! ## BBX (R443) -/

def State.wrBbx (s : State) (src a v : Nat) : State :=
  if src ≠ s.manager then s
  else if a = BBX_CTL.base then
    let s := (s.plainWrite a v).pumpFlash
    let s := if bit v 1 then s.bbxClrCnt src else s
    if bit v 2 then s.bankSwitch src else s
  else if a = BBX_MASK.base then s.setReg BBX_MASK (v % 65536 ||| 0x1800)
  else if a = BBX_RETIRE.base then (if bit v 31 then s.retireByCommand src (bits v 10 8) (v % 256) else s)
  else if a = BBX_SWCMD.base then (if bit v 31 then s.softwareRecord src (v % 256) else s.plainWrite a v)
  else s.plainWrite a v

/-! ## PWR, CLK, OAS (R460) and SEC (R478, R481) -/

def State.wrPwr (s : State) (src a v : Nat) : State :=
  match rowAt a with
  | none => s
  | some (r, d, _) =>
    if src ≠ s.manager then s
    else if r.reg = PWR_SAG then s.sagWrite src v
    else if r.reg = PWR_STOP then (if bit v 31 then s.stopWrite src (bit v 0) else s.plainWrite a v)
    else if r.reg = PWR_DOM_CTL then
      match v % 4 with
      | 1 => s.domRequest src d true
      | 2 => s.domRequest src d false
      | _ => s
    else if r.reg = CLK_CL_OP then s.opReq src d (v % 4)
    else if r.reg = OAS_RTC_HI then s.rtcLoad src v
    else s.plainWrite a v

/-- (log 139: DEDUCED) -/
def State.wrSec (s : State) (src a v : Nat) : State :=
  match rowAt a with
  | none => s
  | some (r, p, _) =>
    if r.reg = SEC_MB_CMD then s.mailbox src p (bits v 31 28) (bits v 12 8)
    else if r.reg = SEC_MB_DATA then (if src = p then s.plainWrite a v else s)
    else if src ≠ s.manager then s
    else if r.reg = SEC_CTL then
      let s := if bit v 0 then s.confirmTrial src else s
      if bit v 1 then s.commitFloors src else s
    else if r.reg = SEC_EXTCMD then (if bit v 31 then s.extend src (v % 8) else s.plainWrite a v)
    else s.plainWrite a v

/-! ## ACI, PCI, ETH, XSP (R504) -/

/-- A write of the ACI block by partition p; `hart` says whether a hart makes it, as only harts reach the interrupt files.
(log 152: DEDUCED) -/
def State.wrAci (s : State) (p : Nat) (hart : Bool) (a v : Nat) : State :=
  let o := a - 0x401B0000
  if 0x8000 ≤ o then
    if hart ∧ o < 0x8800 then s.setipnum p ((o - 0x8000) / 0x100) (o % 0x100 / 4) v else s
  else if p ≠ s.manager then s
  else if 0x4000 ≤ o then s.aplicWrite (o - 0x4000) v
  else
    match rowAt a with
    | none => s
    | some (r, h, _) =>
      if r.reg = ACI_HART_CTL then
        let s := s.plainWrite a v
        let s := if bit v 31 then s.hartStart p h else s
        if bit v 30 then s.hartReset p h else s
      else s.plainWrite a v

def State.wrPci (s : State) (src a v : Nat) : State :=
  let o := a - 0x40160000
  if src ≠ s.manager then s
  else if 0x8000 ≤ o then s.msixWrite 0 ((o - 0x8000) / 4) v
  else
    match rowAt a with
    | none => s
    | some (r, f, _) => if r.reg = PCI_FN then s.pciFnWrite f v else s.plainWrite a v

def State.wrEth (s : State) (src a v : Nat) : State :=
  match rowAt a with
  | none => s
  | some (r, i, _) =>
    if 0x40151000 ≤ a then
      if ¬s.ethQWriter src i then s
      else if r.reg = ETH_Q_CFG then s.ethQCfgWrite src i v
      else if r.reg = ETH_Q_RXHEAD then s.ethHead i v
      else if r.reg = ETH_Q_TXTAIL then s.ethTail i v
      else if r.reg = ETH_Q_RX ∨ r.reg = ETH_Q_BUF ∨ r.reg = ETH_Q_TX then s.plainWrite a v
      else s.plainWrite a v
    else if src ≠ s.manager then s
    else if r.reg = ETH_PORT_CTL then s.ethPortWrite src i v
    else if r.reg = ETH_QUAD then s.ethQuadWrite i v
    else s.plainWrite a v

def State.wrXsp (s : State) (src a v : Nat) : State :=
  let s := s.managerWrite src a v
  if a = XSP_CMD.base ∧ bit v 31 then s.xspIssue src
  else if a = XSP_SB_CMD.base ∧ bit v 31 then s.sbIssue src
  else s

/-! ## Any register -/

/-- A 32-bit write of the register at local address `a`, a multiple of 4, by partition `src`; `hart` says whether a hart makes
it. A write to a domain that is not ON is not performed (R445), one to an undefined offset is ignored (R26).
(log 9: DESIGN CHOICE) -/
def State.regWrite (s : State) (src : Nat) (hart : Bool) (a v : Nat) : State :=
  if ¬s.domOn (domainOf a) then s
  else
    match region a with
    | .tileReg t => s.wrTile src t a v
    | .cluReg c => s.wrClu src c a v
    | .sysReg =>
      match (a - 0x40000000) / 0x10000 with
      | 0 => s.wrSys a v
      | 1 => s.wrPwr src a v
      | 2 => s.wrPwr src a v
      | 3 => s.wrPwr src a v
      | 4 => s.wrAtu src a v
      | 5 => s.wrJob src a v
      | 6 => s.wrPtn src a v
      | 7 => s.wrMmu src a v
      | 8 => s.wrHbm src 0 a v
      | 9 => s.wrHbm src 1 a v
      | 10 => s.wrHbm src 2 a v
      | 11 => s.wrHbm src 3 a v
      | 12 => s.wrSyc src a v
      | 16 => s.wrDec src a v
      | 17 => s.wrEnc src a v
      | 18 => s.wrPra src a v
      | 19 => s.wrFhe src a v
      | 20 => s.wrYal src a v
      | 21 => s.wrEth src a v
      | 22 => s.wrPci src a v
      | 23 => s.wrXsp src a v
      | 24 => s.wrSec src a v
      | 25 => s.wrDgt src a v
      | 26 => s.wrBbx src a v
      | 27 => s.wrAci src hart a v
      | _ => s
    | _ => s

end Sys2Proof.Machine
end

