-- ==== Sys2Proof/Machine/Bus.lean ====
section
/-! DEFINITION. Accesses of any part of the local map (R22-R28, R33): doorbell pages (R70, R71), registers, the retained registers
(R440) and memory, as harts, stream engines and PCIe functions make them. -/
namespace Sys2Proof.Machine

/-! ## Doorbell pages and registers -/

/-- Places where an access is a command or a register access. (log 9: DESIGN CHOICE) -/
def isIo (a : Nat) : Bool :=
  match region a with
  | .oasis => true
  | .sysReg => true
  | .tileReg _ => true
  | .cluReg _ => true
  | .doorbell _ _ _ => true
  | _ => false

/-- A write of doorbell page k of partition q by partition p: 32 bits at offset 0, and 64 for a belay command. -/
def State.doorbellWrite (s : State) (p q k off : Nat) (bs : List Byte) : State :=
  if off ≠ 0 then s
  else if k = 18 then (if bs.length = 8 then s.belayEnqueue p q (ofBytes bs) else s)
  else if bs.length < 4 then s
  else if k < 16 then s.sqDoorbell p q k (field bs 0 4)
  else if k = 16 then s.cqDoorbell p q (field bs 0 4)
  else if k = 17 then s.eqDoorbell p q (field bs 0 4)
  else s

/-- The word at offset 0 of doorbell page k of partition q. -/
def State.doorbellRead (s : State) (q k off : Nat) : Nat :=
  if off ≠ 0 then 0
  else if k < 16 then s.reg JOB_SQ_HEAD q k
  else if k = 16 then s.reg JOB_CQ_TAIL q
  else if k = 17 then s.reg JOB_EQ_TAIL q
  else if k = 18 then s.sysMirror JOB_BL_STAT q 0 (s.reg JOB_BL_STAT q)
  else 0

/-- 32-bit writes of registers at rising addresses. -/
def State.writeWords (s : State) (src : Nat) (hart : Bool) (a : Nat) : List Byte → State
  | b0 :: b1 :: b2 :: b3 :: rest => (s.regWrite src hart a (ofBytes [b0, b1, b2, b3])).writeWords src hart (a + 4) rest
  | _ => s

/-- A write of registers or of a doorbell page. Registers take whole 32-bit words. (log 9: DESIGN CHOICE) -/
def State.ioWrite (s : State) (src : Nat) (hart : Bool) (a : Nat) (bs : List Byte) : State :=
  match region a with
  | .oasis => s
  | .doorbell q k off => s.doorbellWrite src q k off bs
  | _ => if a % 4 = 0 ∧ bs.length % 4 = 0 then s.writeWords src hart a bs else s

/-- 32-bit reads at rising addresses. -/
def State.readWords (s : State) (f : Nat → State → Nat × State) (a : Nat) : Nat → List Byte × State
  | 0 => ([], s)
  | k + 1 =>
    let (w, s) := f a s
    let (bs, s) := s.readWords f (a + 4) k
    (bytesOf 4 w ++ bs, s)

/-- A read of registers, a doorbell page or the retained registers: of the words that hold the bytes. (log 9: DESIGN CHOICE) -/
def State.ioRead (s : State) (src a n : Nat) : List Byte × State :=
  match region a with
  | .oasis => (if src = s.manager then s.read a n else List.replicate n 0#8, s)
  | .doorbell q k off => (fitBytes n ((bytesOf 4 (s.doorbellRead q k (off / 4 * 4))).drop (off % 4)), s)
  | _ =>
    let (bs, s) := s.readWords (fun a s => s.regRead src a) (a / 4 * 4) ((a % 4 + n + 3) / 4)
    ((bs.drop (a % 4)).take n, s)

/-! ## A whole access -/

/-- An access of partition p at global address g writes bytes: the state, or its fault code. `cache` is the leaf's CACHE field;
`err` is what the memory met. A write to the program memory of a tile that is not idle is ignored, with its event (R102). -/
def State.busWrite (s : State) (p : Nat) (hart : Bool) (g : Nat) (bs : List Byte) (cache : Nat) (err : MemErr) : State × Nat :=
  let a := localOf g
  let put := fun (s : State) =>
    match s.progRefused g with
    | some t => (s.event evWriteIgnored p t [w64 a], 0)
    | none =>
      match s.devWrite p g bs cache with
      | .ok s => (s, 0)
      | .error c => (s, c)
  if chipOf g ≠ s.chipId then put s
  else
    match s.accessError a bs.length with
    | some c => (s, c)
    | none =>
      if isIo a then (s.ioWrite p hart a bs, 0)
      else
        match s.memError a err with
        | (s, true) => (s, fcParityPersist)
        | (s, false) => put s

/-- An access of partition p at global address g reads n bytes: they, or its fault code. `cache` is the leaf's CACHE field. -/
def State.busRead (s : State) (p g n cache : Nat) (err : MemErr) : Except Nat (List Byte) × State :=
  let a := localOf g
  if chipOf g ≠ s.chipId then s.devRead p g n cache
  else
    match s.accessError a n with
    | some c => (.error c, s)
    | none =>
      if isIo a then
        let (bs, s) := s.ioRead p a n
        (.ok bs, s)
      else
        match s.memError a err with
        | (s, true) => (.error fcParityPersist, s)
        | (s, false) => s.devRead p g n cache

end Sys2Proof.Machine
end

