-- ==== Sys2Proof/Machine/Pcie.lean ====
section
/-! DEFINITION. The PCIe endpoint (R490-R495): inbound requests, what leaves for the host, function-level resets and
PCIE_PERST_N. -/
namespace Sys2Proof.Machine

/-! ## Inbound requests (R491, R492) -/

/-- The partition that a function serves. -/
def State.fnPtn (s : State) (fn : Nat) : Nat := if fn = 0 then s.manager else s.fld PCI_FN.PTN fn

/-- Where an access of a BAR goes: a BAR of a partition that is not enabled, an offset outside the BAR, a local address, the
function's MSI-X table and PBA, the memory window. -/
inductive BarSpace where
  | absent
  | beyond
  | phys (a : Nat)
  | table
  | window
deriving DecidableEq, Repr

/-- (log 142: DEDUCED) -/
def State.barSpace (s : State) (fn : Nat) (bar : Fin 3) (off n : Nat) : BarSpace :=
  let within := fun (lg : Nat) (b : BarSpace) => if off + n ≤ 2 ^ lg then b else .beyond
  if fn ≠ 0 ∧ ¬s.ptnOn (s.fnPtn fn) then .absent
  else
    match bar with
    | 0 => if fn = 0 then within 28 (.phys (0x40000000 + off)) else within 24 (.phys (0x60000000 + s.fnPtn fn * 2 ^ 24 + off))
    | 1 => if fn = 0 then within 28 (.phys (0x60000000 + off)) else within 16 .table
    | 2 => within (s.pciFn fn).winLog2 .window

/-- The word at an offset of a VF's BAR2: its MSI-X table, and its PBA at 0x8000. -/
def PciFn.tableWord (f : PciFn) (o : Nat) : Nat :=
  if o < 0x8000 then (f.tbl.get msixReset (o / 4)).toNat else if o < 0x8100 then f.pbaWord ((o - 0x8000) / 4) else 0

/-- Whole words written to a VF's MSI-X table. (log 142: DEDUCED) -/
def State.tableWrite (s : State) (fn off : Nat) : List Byte → State
  | b0 :: b1 :: b2 :: b3 :: rest =>
    (if off < 0x8000 then s.msixWrite fn (off / 4) (ofBytes [b0, b1, b2, b3]) else s).tableWrite fn (off + 4) rest
  | _ => s

/-- The completion status of a failed request (R26, R492). (log 142: DEDUCED) -/
def cplStatus (code : Nat) : Nat := if code = fcAddrUnmapped then 1 else 4

def State.complete (s : State) (fn status : Nat) (bs : List Byte) : State := { s with out := .completion fn status bs :: s.out }

/-- The completion of a read that the bus has answered. -/
def State.completeRead (s : State) (fn : Nat) (r : Except Nat (List Byte)) : State :=
  match r with
  | .ok bs => s.complete fn 0 bs
  | .error c => s.complete fn (cplStatus c) []

/-- A fault in a function's window: the request `id` is held (R388, R492). (log 140: DESIGN CHOICE) -/
def State.holdTlp (s : State) (fn off id : Nat) (write : Bool) (f : MFault) : State :=
  s.mmuFault (s.fnPtn fn) off write true { kind := 11, unit := 0, handle := id, job := 0, tag := 0 } f

/-- A configuration request of function fn that writes bus-master enable and MSI-X Enable (R491, R494).
(log 141: DESIGN CHOICE) -/
def State.tlpConfig (s : State) (fn : Nat) (bme on : Bool) : State :=
  let f := { s.pciFn fn with bme := bme, msixOn := on }
  (forEach (f.pba.rows.map fun r => r.1) (fun v s => s.unmasked fn v) (s.setPciFn fn f)).complete fn 0 []

/-- Read n bytes at global address g for function fn and complete the request. -/
def State.tlpReadAt (s : State) (fn g n cache : Nat) (err : MemErr) : State :=
  let (r, s) := s.busRead (s.fnPtn fn) g n cache err
  s.completeRead fn r

/-- The words of the MSI-X table that an inbound read of n bytes at offset o takes. -/
def State.tlpReadTable (s : State) (fn o n : Nat) : State :=
  let (bs, s) := s.readWords (fun a s => ((s.pciFn fn).tableWord a, s)) (o / 4 * 4) ((o % 4 + n + 3) / 4)
  s.complete fn 0 ((bs.drop (o % 4)).take n)

/-- An inbound read of n bytes at offset o of a space: the state, and whether it has ended rather than met a WAIT fault. -/
def State.tlpRead (s : State) (id fn : Nat) (space : BarSpace) (o n : Nat) (err : MemErr) : State × Bool :=
  match space with
  | .absent => (s.complete fn 0 (List.replicate n 0#8), true)
  | .beyond => (s.complete fn 1 [], true)
  | .phys a => (s.tlpReadAt fn (s.chipId * 2 ^ 40 + a) n 2 err, true)
  | .table => (s.tlpReadTable fn o n, true)
  | .window =>
    match s.translate (s.fnPtn fn) o false with
    | (.error f, s) => (s.holdTlp fn o id false f, false)
    | (.ok (g, c), s) => (s.tlpReadAt fn g n c err, true)

/-- Write the bytes bs at global address g for function fn. -/
def State.tlpWriteAt (s : State) (fn g : Nat) (bs : List Byte) (cache : Nat) (err : MemErr) : State :=
  (s.busWrite (s.fnPtn fn) false g bs cache err).1

/-- An inbound write of the bytes bs at offset o of a space: the state, and whether it has ended. -/
def State.tlpWrite (s : State) (id fn : Nat) (space : BarSpace) (o : Nat) (bs : List Byte) (err : MemErr) : State × Bool :=
  match space with
  | .absent => (s, true)
  | .beyond => (s, true)
  | .phys a => (s.tlpWriteAt fn (s.chipId * 2 ^ 40 + a) bs 2 err, true)
  | .table => (if o % 4 = 0 ∧ bs.length % 4 = 0 then s.tableWrite fn o bs else s, true)
  | .window =>
    match s.translate (s.fnPtn fn) o true with
    | (.error f, s) => (s.holdTlp fn o id true f, false)
    | (.ok (g, c), s) => (s.tlpWriteAt fn g bs c err, true)

/-- Perform an inbound request of function fn: the state, and whether it has ended rather than met a WAIT fault.
(log 142: DEDUCED) -/
def State.serveTlp (s : State) (id fn : Nat) (tlp : Tlp) (err : MemErr) : State × Bool :=
  match tlp with
  | .config bme on => (s.tlpConfig fn bme on, true)
  | .read bar off n => s.tlpRead id fn (s.barSpace fn bar off.toNat n) off.toNat n err
  | .write bar off bs => s.tlpWrite id fn (s.barSpace fn bar off.toNat bs.length) off.toNat bs err

def tlpIsWrite (t : Tlp) : Bool :=
  match t with
  | .write _ _ _ => true
  | _ => false

/-- The first held request that may be performed: its fault is resolved, and no write of its function is held before it (R73).
(log 157: DEDUCED) -/
def nextHeld (behind : List Nat) : List HeldTlp → Option HeldTlp
  | [] => none
  | h :: hs =>
    if h.ready && !behind.contains h.fn then some h
    else nextHeld (if tlpIsWrite h.tlp then h.fn :: behind else behind) hs

def State.setHeld (s : State) (f : List HeldTlp → List HeldTlp) : State := { s with pci := { s.pci with held := f s.pci.held } }

/-- Perform the held requests that may be performed; `fuel` bounds them. (log 157: DEDUCED) -/
def State.drainLoop (s : State) : Nat → State
  | 0 => s
  | fuel + 1 =>
    match nextHeld [] s.pci.held with
    | none => s
    | some h =>
      match s.serveTlp h.id h.fn h.tlp .none with
      | (s, true) => (s.setHeld fun l => l.filter fun x => x.id != h.id).drainLoop fuel
      | (s, false) => (s.setHeld fun l => l.map fun x => if x.id = h.id then { x with ready := false } else x).drainLoop fuel

/-- What may have been released by a resolve is performed. (log 157: DEDUCED) -/
def State.drainInbound (s : State) : State :=
  let n := s.pci.held.length
  s.drainLoop (n * n + 2 * n + 1)

/-- The request writes a belay doorbell page. (log 140: DESIGN CHOICE) -/
def State.belayTlp (s : State) (fn : Nat) (tlp : Tlp) : Bool :=
  let page := fun (a : Nat) => match region a with
    | .doorbell _ 18 _ => true
    | _ => false
  match tlp with
  | .write bar off bs =>
    match s.barSpace fn bar off.toNat bs.length with
    | .phys a => page a
    | .window =>
      match (s.translate (s.fnPtn fn) off.toNat true).1 with
      | .ok (g, _) => chipOf g == s.chipId && page (localOf g)
      | .error _ => false
    | _ => false
  | _ => false

/-- An inbound request arrives while the link is up; a belay command passes the held requests of its function (R92). -/
def State.tlpArrives (s : State) (fn : Nat) (tlp : Tlp) (err : MemErr) : State :=
  if ¬s.domOn 76 ∨ ¬s.flag PCI_STAT.UP then s
  else
    let id := s.pci.nextId
    let hold := fun (s : State) (ready : Bool) =>
      { s with pci := { s.pci with held := s.pci.held ++ [{ id := id, fn := fn, tlp := tlp, ready := ready }], nextId := id + 1 } }
    if (s.pci.held.any fun h => h.fn == fn && tlpIsWrite h.tlp) && !s.belayTlp fn tlp then hold s true
    else
      match s.serveTlp id fn tlp err with
      | (s, true) => s.drainInbound
      | (s, false) => hold s false

/-! ## Outbound accesses (R493) -/

/-- The posted write that waits longest leaves once the link is up. (log 140: DESIGN CHOICE) -/
def State.postedLeaves (s : State) : State :=
  match s.pci.posted with
  | [] => s
  | w :: ws => if s.flag PCI_STAT.UP then { s with pci := { s.pci with posted := ws }, out := w.out :: s.out } else s

/-- Request `id` of tile t's stream engine, a read that the host is to answer. (log 22: DESIGN CHOICE) -/
def State.hostRead (s : State) (t id : Nat) : Option SReq :=
  (s.tile t).reqs.find? fun r =>
    r.id == id && !r.remote && !r.write && r.atop == 0 && chipOf r.ga == s.chipId && r.mark == .flight
      && (match region (localOf r.ga) with
          | .pcie _ _ => true
          | _ => false)

/-- A hart's load has no answer any more: an access fault. -/
def State.hartFault (s : State) (h : Nat) : State :=
  { s with harts := { s.harts with host := s.harts.host.del h, last := s.harts.last.put h .fault } }

def State.hartValue (s : State) (h v : Nat) : State :=
  { s with harts := { s.harts with host := s.harts.host.del h, last := s.harts.last.put h (.value v) } }

/-- An access of the outbound window is sent; `ans` is what the host completes a read with, none for UR or CA. -/
def State.outbound (s : State) (src : OutSrc) (ans : Option (List Byte)) : State :=
  match src with
  | .posted => s.postedLeaves
  | .stream t id =>
    match s.hostRead t.val id with
    | none => s
    | some r =>
      if (s.pcieTarget (localOf r.ga)).isNone then s.answerReq t.val r fcAddrUnmapped []
      else if ¬s.flag PCI_STAT.UP then s
      else
        match ans with
        | some bs => s.answerReq t.val r 0 bs
        | none => s.answerReq t.val r fcAddrUnmapped []
  | .hart h =>
    match s.harts.host.find? h.val with
    | none => s
    | some (a, n, _) =>
      if (s.pcieTarget a).isNone then s.hartFault h.val
      else if ¬s.flag PCI_STAT.UP then s
      else
        match ans with
        | some bs => s.hartValue h.val (ofBytes (fitBytes n bs))
        | none => s.hartFault h.val

/-- PCI_CTL.CTO, in ticks. (log 165: DEDUCED) -/
def State.ctoTicks (s : State) : Nat := max 1 (s.fld PCI_CTL.CTO) * ticksPerMs

/-- A read has had no completion within PCI_CTL.CTO. -/
def State.cplTimeout (s : State) (src : OutSrc) : State :=
  match src with
  | .posted => s
  | .stream t id =>
    match s.hostRead t.val id with
    | none => s
    | some r => if s.passed r.sent s.ctoTicks then s.answerReq t.val r fcLinkTimeout [] else s
  | .hart h =>
    match s.harts.host.find? h.val with
    | none => s
    | some (_, _, sent) => if s.passed sent s.ctoTicks then s.hartFault h.val else s

/-- The posted write that waits longest has waited CTO with no link. -/
def State.postedDrop (s : State) : State :=
  match s.pci.posted with
  | [] => s
  | w :: ws =>
    if s.flag PCI_STAT.UP ∨ ¬s.passed w.came s.ctoTicks then s
    else
      let s := { s with pci := { s.pci with posted := ws } }
      match w.region with
      | some r => s.event evPcieOutDrop (s.fnPtn (s.fld PCI_OB_CFG.FN r)) r []
      | none => s

/-! ## Resets (R495) -/

/-- The function that an output names. -/
def Output.fn (o : Output) : Option Nat :=
  match o with
  | .msix fn _ _ _ => some fn
  | .hostWrite fn _ _ => some fn
  | .completion fn _ _ => some fn
  | _ => none

/-- Function fn returns to its reset state. (log 143: DEDUCED) -/
def State.fnReset (s : State) (fn : Nat) : State :=
  { s with
    pciFns := s.pciFns.put fn { winLog2 := s.fld PCI_FN.WIN_LOG2 fn }
    pci := { s.pci with held := s.pci.held.filter fun h => h.fn != fn, posted := s.pci.posted.filter fun w => w.out.fn != some fn } }

/-- HALT_PARTITION on partition p as a local belay command. (log 143: DEDUCED) -/
def State.flrHalt (s : State) (p : Nat) : State :=
  s.belayAccept p { op := 5, chip := s.chipId, ptn := p, argA := 0, argB := 0, seq := 0, origin := none, arrived := s.now } none

/-- A function-level reset. (log 143: DEDUCED) -/
def State.flr (s : State) (fn : Nat) : State :=
  let vfs := if fn = 0 then (List.range 16).map (· + 1) else [fn]
  let ps := uniq (vfs.map fun v => s.fnPtn v)
  let s := forEach (if fn = 0 then 0 :: vfs else vfs) (fun f s => s.fnReset f) s
  let s := forEach ps (fun p s => s.flrHalt p) s
  s.devEvent evPcieFlr fn [] ps

/-- The PCI domain resets, with the effect of an FLR of PF0 (R495). (log 143: DEDUCED) -/
def State.pciReset (s : State) : State :=
  let s := (if s.flag PCI_STAT.UP then s.pcieLink false 0 0 else s).flr 0
  { s with regs := s.regs.keep fun a => domainOf a != 76, pciFns := .empty, pci := { nextId := s.pci.nextId } }

/-- PCIE_PERST_N is asserted. (log 143: DEDUCED) -/
def State.perstFalls (s : State) : State :=
  if s.boot.perst then s
  else
    let s := { s with boot := { s.boot with perst := true } }
    if s.boot.state = 0 ∨ ¬s.boot.porst ∨ s.power.stop.isSome then s
    else if s.flag PCI_CTL.PERST_RST then s.deviceReset 32
    else if s.domOn 76 then s.pciReset
    else s

/-- (log 143: DEDUCED) -/
def State.perstRises (s : State) : State := { s with boot := { s.boot with perst := false } }

/-- The link comes up or goes down. It trains only with domain 76 ON and PCIE_PERST_N not asserted (R525).
(log 143: DEDUCED) -/
def State.linkChange (s : State) (up : Bool) (rate width : Nat) : State :=
  if ¬s.domOn 76 ∨ (up ∧ (s.boot.perst ∨ bit (s.fld CLK_STAT.LOSS) 3)) then s
  else if up then s.pcieLink true rate width
  else if s.flag PCI_STAT.UP then s.pcieLink false 0 0
  else s

end Sys2Proof.Machine
end

