-- ==== Sys2Proof/Machine/Cores.lean ====
section
/-! DEFINITION. Accesses of the application cores (R482-R486): the cacheable ranges with what a hart's caches meet, remote
addresses, registers, and the outbound PCIe window. -/
namespace Sys2Proof.Machine

/-- The cacheable ranges (R483). -/
def cacheable (a : Nat) : Bool :=
  match region a with
  | .sram => true
  | .hbm _ => true
  | _ => false

def State.setHarts (s : State) (f : Harts → Harts) : State := { s with harts := f s.harts }

/-- Hart h's access has its answer. -/
def State.coreDone (s : State) (h v : Nat) : State := s.setHarts fun x => { x with last := x.last.put h (.value v) }

/-- Hart h's access raises an access fault that latches nothing. -/
def State.coreFault (s : State) (h : Nat) : State := s.setHarts fun x => { x with last := x.last.put h .fault }

/-! ## Errors of a hart's caches (R486) -/

/-- An uncorrectable error of a line that hart h holds dirty: the line is dropped, and a RAS interrupt is taken. Which fault code
ACI_RASADDR shows for it the spec does not say. -/
def State.coreLineLost (s : State) (h line : Nat) (d : DirtyLine) : State :=
  let a := line * 64
  let s := (s.poke a d.old).setHarts fun x => { x with dirty := x.dirty.del line }
  let (c, s) := s.draw
  let s := (s.setReg ACI_RASADDR_LO (a % 2 ^ 32)).setReg ACI_RASADDR_HI (a / 2 ^ 32 % 2 ^ 20 + c % 256 * 2 ^ 24)
  let s := s.incSat ACI_CERR.LOST 1
  let ident := s.fld ACI_CTL.RAS_ID
  let s := if ident = 0 then s else s.setHarts fun x => { x with imsic := x.imsic.set (fun _ => false) (imsicKey h 0 ident) true }
  s.devEvent evCoreLineLost h [w64 a]

/-- An uncorrectable error in an L2 way: the second one disables the way. (log 149: DESIGN CHOICE) -/
def State.wayError (s : State) (h way : Nat) : State :=
  let n := s.harts.wayErr.getD (h * 16 + way) 0
  let s := s.setHarts fun x => { x with wayErr := x.wayErr.put (h * 16 + way) (min 2 (n + 1)) }
  if n = 1 then (s.incSat ACI_HART_STAT.WAYOFF 1 h).devEvent evCoreWayOff h [w32 way] else s

/-- What hart h's caches met on an access at `a`. (log 149: DESIGN CHOICE) -/
def State.coreError (s : State) (h a : Nat) (e : CoreErr) : State :=
  match e with
  | .none => s
  | .l1 => s
  | .corrected => s.incSat ACI_CERR.CORRECTED 1
  | .uncorrectable way =>
    let s := match s.harts.dirty.find? (a / 64) with
      | some d => if d.way = h then s.coreLineLost h (a / 64) d else s
      | none => s
    s.wayError h way.val

/-! ## Stores of the cacheable ranges -/

/-- Hart h takes a line for a store: it is dirty in its L2, and no other hart keeps a reservation of it. (log 148: DEDUCED) -/
def State.takeLine (s : State) (h line : Nat) : State :=
  let old := match s.harts.dirty.find? line with
    | some d => d.old
    | none => s.read (line * 64) 64
  s.setHarts fun x => { x with
    dirty := x.dirty.put line { way := h, old := old }
    rsv := ⟨x.rsv.rows.filter fun r => r.1 == h || r.2 != line⟩ }

/-- Hart h stores bytes. (log 148: DEDUCED) -/
def State.coreStore (s : State) (h p g : Nat) (bs : List Byte) : State :=
  let a := localOf g
  if cacheable a then
    ((s.takeLine h (a / 64)).takeLine h ((a + bs.length - 1) / 64)).poke a bs
  else
    let (s, c) := s.busWrite p true g bs 2 .none
    if c = 0 then s else s.coreFault h

/-! ## Accesses -/

/-- (log 148: DEDUCED) -/
def coreAmo (op : CoreOp) : Bool :=
  match op with
  | .load => false
  | .store => false
  | _ => true

/-- The operation code of R213 of an AMO that has one. -/
def coreCode (op : CoreOp) : Nat :=
  match op with
  | .amoAdd => 1
  | .amoSwap => 2
  | .amoCas => 3
  | _ => 0

/-- The packet of a remote access (R408, R483); none for an access that raises an access fault. -/
def State.corePacket (s : State) (op : CoreOp) (p g n : Nat) (data : List Byte) : Option Packet :=
  let mk := fun (kind op len : Nat) (data : List Byte) =>
    some { dst := chipOf g, srcPtn := p, src := s.chipId, kind := kind, vc := 1, hops := 0, path := 0, op := op, len := len - 1,
           tag := 0, addr := localOf g, data := data : Packet }
  if 8 < n ∨ g % n ≠ 0 then none
  else
    match op with
    | .load => mk pkRdReq 0 n []
    | .store => mk pkWr 0 n (fitBytes n data)
    | _ =>
      let c := coreCode op
      let d := fitBytes (if c = 3 then 2 * n else n) data
      if c = 0 ∨ n < 4 then none else mk pkAtom c d.length d

/-- A hart's access of another device. (log 148: DEDUCED) -/
def State.coreRemote (s : State) (h p : Nat) (op : CoreOp) (g n : Nat) (data : List Byte) : State :=
  if s.fld SYS_CHIPID.ID_SET = 0 then s.hartAnswer h fcRouteMiss g 0
  else
    match s.corePacket op p g n data with
    | none => s.coreFault h
    | some k =>
      match s.sendRequest k { dst := k.dst, kind := 1, who := h, a := g, b := 0, c := 0 } with
      | .error e => s.hartAnswer h e g 0
      | .ok s => s.setHarts fun x => { x with last := x.last.put h .waiting }

/-- A hart's access of memory. An atomic of memory that is neither cacheable nor cluster memory, or that is misaligned, raises an
access fault. (log 149: DESIGN CHOICE) -/
def State.coreMemory (s : State) (h p : Nat) (op : CoreOp) (g n : Nat) (data : List Byte) : State :=
  let a := localOf g
  let old := s.readNum a n
  let hold := fun (s : State) (l : Option Nat) => s.setHarts fun x => { x with rsv := match l with
    | some v => x.rsv.put h v
    | none => x.rsv.del h }
  if coreAmo op && (a % n != 0 || decide (n < 4) || !(cacheable a || atomicTarget a)) then s.coreFault h
  else
    match op with
    | .load => s.coreDone h old
    | .store => (s.coreDone h 0).coreStore h p g (fitBytes n data)
    | .lr => (hold s (some (a / 64))).coreDone h old
    | .sc kept =>
      if kept ∧ s.harts.rsv.find? h = some (a / 64) then ((hold s none).coreDone h 0).coreStore h p g (fitBytes n data)
      else (hold s none).coreDone h 1
    | .amo => (s.coreDone h old).coreStore h p g (fitBytes n data)
    | _ => (s.coreDone h old).coreStore h p g (bytesOf n (atomicNew (coreCode op) n old (fitBytes (2 * n) data)))

/-- A hart's access of this device. (log 148: DEDUCED) -/
def State.coreLocal (s : State) (h p : Nat) (op : CoreOp) (g n : Nat) (data : List Byte) (err : CoreErr) (mem : MemErr) : State :=
  let a := localOf g
  let foreign := match region a, region (a + n - 1) with
    | .hbm q, .hbm q' => s.flag ACI_CTL.PCH_CHK && p != s.manager && !(s.ownsPch p q && s.ownsPch p q')
    | _, _ => false
  if foreign then s.coreFault h
  else
    match s.accessError a n with
    | some c => if c = fcParityPersist then s.hartAnswer h c g 0 else s.coreFault h
    | none =>
      match region a with
      | .pcie _ _ =>
        if coreAmo op ∨ (s.pcieTarget a).isNone then s.coreFault h
        else if op = .load then s.setHarts fun x => { x with host := x.host.put h (a, n, s.atu.ticks), last := x.last.put h .waiting }
        else (s.coreDone h 0).coreStore h p g (fitBytes n data)
      | _ =>
        if isIo a then
          if coreAmo op then s.coreFault h
          else if op = .load then
            let (bs, s) := s.ioRead p a n
            s.coreDone h (ofBytes bs)
          else ((s.coreDone h 0).coreStore h p g (fitBytes n data)).drainInbound
        else
          let s := if cacheable a then s.coreError h a err else s
          match s.memError a mem with
          | (s, true) => s.hartAnswer h fcParityPersist g 0
          | (s, false) => s.coreMemory h p op g n data

/-- A running hart accesses n bytes at a global address; one whose last access has no answer yet waits. (log 148: DEDUCED) -/
def State.coreAccess (s : State) (h : Nat) (op : CoreOp) (g n : Nat) (data : List Byte) (err : CoreErr) (mem : MemErr) : State :=
  if ¬s.hartRuns h ∨ s.harts.last.find? h = some .waiting then s
  else
    let p := s.hartPtn h
    if chipOf g ≠ s.chipId then s.coreRemote h p op g n data else s.coreLocal h p op g n data err mem

end Sys2Proof.Machine
end

