-- ==== Sys2Proof/Machine/CoresOps.lean ====
section
/-! DEFINITION. The commands of the application cores and their interrupt files (R483-R489). -/
namespace Sys2Proof.Machine

/-- ACI_HARTn_CTL.START (R485). -/
def execStart (src : PtnIx) (h : HartIx) (s : State) : Host.Outcome State Fault Refusal := .next (s.hartStart src h)

/-- ACI_HARTn_CTL.RESET (R485). -/
def execHartReset (src : PtnIx) (h : HartIx) (s : State) : Host.Outcome State Fault Refusal := .next (s.hartReset src h)

/-- Hart h accesses 2^size bytes at a global address (R483); `err` is what its caches met (R486), `mem` what the memory met. -/
def execCoreAccess (h : HartIx) (op : CoreOp) (addr : BitVec 52) (size : Fin 5) (data : List Byte) (err : CoreErr) (mem : MemErr)
    (s : State) : Host.Outcome State Fault Refusal :=
  if coreDataOk op size data then .next (s.coreAccess h op addr.toNat (2 ^ size.val) data err mem)
  else .refused (.illFormed "coreAccess: the data of the access")

/-- Hart h writes setipnum_le of file `file` of hart `target` (R487). -/
def execMsiWrite (h target : HartIx) (file : Fin 16) (value : Word) (s : State) : Host.Outcome State Fault Refusal :=
  if s.hartRuns h then .next (s.setipnum (s.hartPtn h) target file.val value.toNat) else .next s

/-- The wire of APLIC source 1 to 6 changes its level (R489). -/
def execAplicSource (source : Fin 6) (level : Bool) (s : State) : Host.Outcome State Fault Refusal :=
  .next (s.aplicWire (source.val + 1) level)

end Sys2Proof.Machine
end

