-- ==== Sys2Proof/Machine/Ether.lean ====
section
/-! DEFINITION. Ethernet frames (R63-R66, R497-R499): how a received frame is steered, receive and transmit queues, forwarding
with the transparent clock, and priority flow control. A frame is its bytes from the destination address on, without the FCS. -/
namespace Sys2Proof.Machine

/-- The block number of ETH (R25). -/
def ethBlock : Nat := 21

/-! ## Frames -/

def frameTagged (bs : List Byte) : Bool := decide (14 < l2Len bs)

/-- The outer and the inner TCI; zero when absent. -/
def outerTci (bs : List Byte) : Nat := if frameTagged bs then fieldBE bs 14 2 else 0
def innerTci (bs : List Byte) : Nat := if l2Len bs = 22 then fieldBE bs 18 2 else 0

def isPtp (bs : List Byte) : Bool := (frameBody bs).1 == 0x88F7

/-- messageType of a PTP message. -/
def ptpType (bs : List Byte) : Nat := field (frameBody bs).2 0 1 % 16

/-- Seconds, nanoseconds and 2^-16 ns of a time in units; none is before the epoch. -/
def stampParts (t : Int) : Nat × Nat × Nat :=
  let u := t.toNat
  (u / (1000000000 * nsUnit) % 2 ^ 48, u / nsUnit % 1000000000, u % nsUnit / 2 ^ 16)

/-- The corrected egress stamp of a frame that port n commits now (R65). -/
def State.egressTime (s : State) (n : Nat) : Int := (s.now : Int) + corrUnits (s.reg ATU_PORT_EGR n)

/-- A frame leaves port n; a PTP event message leaves its egress timestamp (R64). -/
def State.sendFrame (s : State) (n : Nat) (bs : List Byte) : State :=
  let (sec, ns, frac) := stampParts (s.egressTime n)
  let s := { s with out := .ethFrame n bs :: s.out }
  if isPtp bs ∧ ptpType bs ≤ 3 then
    s.pushEts { port := n, msgType := ptpType bs, seqId := fieldBE (frameBody bs).2 30 2, sec := sec, ns := ns, frac := frac }
  else s

/-- Port n may begin a frame, and the manager has not stopped it whole (R94, R497). -/
def State.portFree (s : State) (n : Nat) (bs : List Byte) : Bool :=
  s.portSends n (pcpOf bs) && !s.job.stops.any fun x => x.kind == 0 && x.port == n && x.whole

/-! ## Priority flow control (R497) -/

/-- Bytes that wait in the device of an ingress port and priority. (log 147: DEDUCED) -/
def State.ingressShare (s : State) (n prio : Nat) : Nat :=
  (s.eth.fwd.rows.flatMap fun r => r.2).foldl
    (fun m (f : FwdFrame) => if f.ingress = n ∧ pcpOf f.bytes = prio then m + f.bytes.length else m) 0

/-- XOFF or XON for a port and a priority, where the share has crossed its level. (log 147: DEDUCED) -/
def State.flowControl (s : State) (n prio : Nat) : State :=
  let k := n * 8 + prio
  let held := s.ingressShare n prio
  if ¬s.eth.xoff.contains k ∧ s.fld ETH_PFC.XOFF * 1024 < held then
    { s with eth := { s.eth with xoff := s.eth.xoff ++ [k] }, out := .pfc n prio true :: s.out }
  else if s.eth.xoff.contains k ∧ held < s.fld ETH_PFC.XON * 1024 then
    { s with eth := { s.eth with xoff := s.eth.xoff.filter fun x => x != k }, out := .pfc n prio false :: s.out }
  else s

/-- A pause or its end for a priority is received. (log 147: DEDUCED) -/
def State.pfcArrives (s : State) (n prio : Nat) (on : Bool) : State :=
  if ¬s.domOn 74 ∨ ¬s.flag ETH_PORT_STAT.LINK n then s
  else s.setFld ETH_PORT_STAT.PAUSED (setBits (s.fld ETH_PORT_STAT.PAUSED n) prio prio (b2n on)) n

/-! ## Receive queues (R499) -/

/-- The metadata record of a frame. -/
def State.rxMeta (s : State) (q port phase : Nat) (bs : List Byte) (copy : Bool) : List Byte :=
  let stamped := isPtp bs || s.flag ETH_Q_CFG.TS_ALL q
  let (sec, ns, frac) := stampParts ((s.now : Int) - corrUnits (s.reg ATU_PORT_IGR port))
  let flags := b2n stamped + 2 * b2n (frameTagged bs) + 4 * b2n (l2Len bs == 22) + 8 * b2n copy
  let ts := if stamped then bytesOf 4 ns ++ bytesOf 6 sec ++ bytesOf 2 frac else []
  fitBytes 64
    (bytesOf 1 phase ++ bytesOf 1 port ++ bytesOf 2 bs.length ++ bytesOf 2 (outerTci bs) ++ bytesOf 2 (innerTci bs)
      ++ bytesOf 8 flags ++ ts)

/-- A frame goes to queue q: written before its metadata, or dropped and counted. A ring in memory that cannot be reached has no
free entry. (log 146: DEDUCED) -/
def State.rxDeliver (s : State) (q port : Nat) (bs : List Byte) (copy : Bool) : State :=
  let lg := s.fld ETH_Q_CFG.LOG2SIZE q
  let cap := ethBufSize (s.fld ETH_Q_CFG.BUFSZ q)
  let tail := s.reg ETH_Q_RXTAIL q
  let i := tail % ringSize lg
  let buf := ethAddr (s.reg ETH_Q_BUF q) + i * cap
  let rec' := ethAddr (s.reg ETH_Q_RX q) + 64 * i
  if cap < bs.length then s.incSat ETH_Q_STAT.TOOLONG 1 q
  else if ringSize lg ≤ dist32 tail (s.reg ETH_Q_RXHEAD q) ∨ (s.accessError buf bs.length).isSome
      ∨ (s.accessError rec' 64).isSome then s.incSat ETH_Q_STAT.NOSPACE 1 q
  else
    let m := s.rxMeta q port (phaseBit tail lg) bs copy
    let s := (s.snoop buf bs.length).poke buf bs
    let s := (s.snoop rec' 64).poke rec' m
    s.setReg ETH_Q_RXTAIL (tail + 1) q

/-! ## Steering (R498) -/

/-- The forwarding entry of a frame: the lowest valid one of its ingress port and outer VLAN ID. (log 146: DEDUCED) -/
def State.fwdEntry (s : State) (port : Nat) (bs : List Byte) : Option Nat :=
  if ¬frameTagged bs then none
  else firstFrom (fun k => s.flag ETH_FWD.V k && s.fld ETH_FWD.IN k == port && s.fld ETH_FWD.VID k == outerTci bs % 4096) 0 64

/-- The queue of a frame by its outer VLAN ID. -/
def State.vidQueue (s : State) (bs : List Byte) : Option Nat :=
  let vid := if frameTagged bs then outerTci bs % 4096 else 0xFFF
  firstFrom (fun q => s.flag ETH_Q_CFG.EN q && s.fld ETH_Q_CFG.VID q == vid) 0 32

/-- Steps 3 to 6; `copy` says that the frame is also forwarded, so that step 6 drops nothing. (log 146: DEDUCED) -/
def State.steer (s : State) (port : Nat) (bs : List Byte) (copy : Bool) : State :=
  if (ecpriOf (s.fld FHE_RX_CTL.UDP_PORT) bs).isSome then s.rxFrame port bs
  else if isPtp bs then
    let q := s.fld ETH_CTL.PTPQ
    if s.flag ETH_Q_CFG.EN q ∧ s.fld ETH_Q_CFG.PTN q = s.timeOwner then s.rxDeliver q port bs copy
    else s.incSat ETH_DROP.COUNT 1
  else
    match s.vidQueue bs with
    | some q => s.rxDeliver q port bs copy
    | none => if copy then s else s.incSat ETH_DROP.COUNT 1

/-- A frame arrives at a port. -/
def State.frameArrives (s : State) (port : Nat) (bs : List Byte) (fcsOk : Bool) : State :=
  if ¬s.domOn 74 ∨ ¬s.flag ETH_PORT_CTL.EN port ∨ ¬s.flag ETH_PORT_STAT.LINK port then s
  else if ¬fcsOk then s.incSat ETH_PORT_STAT.RX_ERR 1 port
  else if s.job.stops.any fun x => x.kind == 0 && x.port == port && x.whole then s
  else
    match s.fwdEntry port bs with
    | none => s.steer port bs false
    | some k =>
      let e := s.fld ETH_FWD.EGR k
      let f : FwdFrame := { bytes := bs, ingress := port, ts := s.now }
      let s := { s with eth := { s.eth with fwd := s.eth.fwd.put e (s.eth.fwd.getD e [] ++ [f]) } }.flowControl port (pcpOf bs)
      if s.flag ETH_FWD.COPY k then s.steer port bs true else s

/-! ## Frames that leave -/

/-- The correctionField of a Sync or Delay_Req that is forwarded takes the residence time, in 2^-16 ns (R66).
(log 147: DEDUCED) -/
def State.residence (s : State) (port : Nat) (f : FwdFrame) : List Byte :=
  if ¬isPtp f.bytes ∨ 1 < ptpType f.bytes then f.bytes
  else
    let o := l2Len f.bytes + 8
    let stay := s.egressTime port - ((f.ts : Int) - corrUnits (s.reg ATU_PORT_IGR f.ingress))
    let sum := sext 64 (fieldBE f.bytes o 8) + stay / 2 ^ 16
    let v := if (2 ^ 63 : Int) ≤ sum then 2 ^ 63 - 1 else toBits 64 sum
    patch f.bytes o (bytesBE 8 v)

/-- The oldest frame to be forwarded leaves port n. (log 146: DEDUCED) -/
def State.forwardFrame (s : State) (n : Nat) : State :=
  match s.eth.fwd.getD n [] with
  | [] => s
  | f :: rest =>
    if ¬s.domOn 74 ∨ ¬s.portFree n f.bytes then s
    else
      let bs := s.residence n f
      let s := s.sendFrame n bs
      let s := { s with eth := { s.eth with fwd := if rest.isEmpty then s.eth.fwd.del n else s.eth.fwd.put n rest } }
      s.flowControl f.ingress (pcpOf f.bytes)

/-- Queue q's next descriptor is done with; its MSI where it asks for one. -/
def State.txAdvance (s : State) (q : Nat) (msi : Bool) : State :=
  let s := s.setReg ETH_Q_TXHEAD (s.reg ETH_Q_TXHEAD q + 1) q
  if msi then (s.msiReg (s.fld ETH_Q_CFG.PTN q) ethBlock (s.reg ETH_Q_MSI q)).done else s

/-- Memory that can hold a frame. -/
def frameMemory (a : Nat) : Bool :=
  match region a with
  | .sram => true
  | .hbm _ => true
  | .tileMem _ _ => true
  | .cluMem _ _ => true
  | _ => false

/-- The frame of queue q's next descriptor leaves its port. A descriptor that names no frame of 60 to 9,224 bytes that can be read
sends nothing. (log 146: DEDUCED) -/
def State.transmit (s : State) (q : Nat) : State :=
  let p := s.fld ETH_Q_CFG.PTN q
  let head := s.reg ETH_Q_TXHEAD q
  let d := ethAddr (s.reg ETH_Q_TX q) + 32 * (head % ringSize (s.fld ETH_Q_CFG.LOG2SIZE q))
  if ¬s.domOn 74 ∨ ¬s.flag ETH_Q_CFG.EN q ∨ head = s.reg ETH_Q_TXTAIL q ∨ (s.accessError d 32).isSome then s
  else
    let (got, s) := s.readLocal p d 32 false
    let r := got.toOption.getD []
    let a := field r 0 6 % 2 ^ 40
    let n := field r 8 2
    if n < 60 ∨ 9224 < n ∨ ¬frameMemory a ∨ (s.accessError a n).isSome then s.txAdvance q false
    else
      match s.readLocal p a n false with
      | (.error _, s) => s.txAdvance q false
      | (.ok bs, s) =>
        let port := field r 10 1 % 16
        if s.portFree port bs then (s.sendFrame port bs).txAdvance q (bit (field r 11 1) 0) else s

/-- A port's link comes up or goes down. -/
def State.ethLinkChange (s : State) (n : Nat) (up : Bool) : State :=
  let ls := s.portLanes n
  if ¬s.domOn 74 then s
  else if ¬up then s.ethLink n false
  else if s.flag ETH_PORT_CTL.EN n && !ls.isEmpty && !(ls.any fun l => s.isRetired kEth l) && !bit (s.fld CLK_STAT.LOSS) 2 then
    s.ethLink n true
  else s

end Sys2Proof.Machine
end

