-- ==== Sys2Proof/Machine/EtherOps.lean ====
section
/-! DEFINITION. The commands of the Ethernet ports (R496-R499). -/
namespace Sys2Proof.Machine

/-- A port's link comes up or goes down (R496, R503). -/
def execEthLinkChange (port : PortIx) (up : Bool) (s : State) : Host.Outcome State Fault Refusal :=
  .next (s.ethLinkChange port.val up)

/-- ETH_PORTn_CTL.EN is written 1 (R496). -/
def execEthPortEnable (src : PtnIx) (port : PortIx) (s : State) : Host.Outcome State Fault Refusal :=
  .next (s.ethPortWrite src port.val 1)

/-- A frame arrives at a port (R498, R499); `frame` holds no FCS. -/
def execEthFrameReceive (port : PortIx) (frame : List Byte) (fcsOk : Bool) (s : State) : Host.Outcome State Fault Refusal :=
  if frameLenOk frame.length then .next (s.frameArrives port.val frame fcsOk)
  else .refused (.illFormed "ethFrameReceive: a frame of 60 to 9,220 bytes")

/-- A PFC frame pauses a priority of a port, or ends the pause (R497). -/
def execPfcReceive (port : PortIx) (prio : Fin 8) (on : Bool) (s : State) : Host.Outcome State Fault Refusal :=
  .next (s.pfcArrives port.val prio.val on)

/-- The next frame of a transmit queue leaves (R499). -/
def execEthFrameTransmit (src : TxSrc) (s : State) : Host.Outcome State Fault Refusal :=
  match src with
  | .queue q => .next (s.transmit q.val)
  | .forwarded port => .next (s.forwardFrame port.val)

/-- A write of ETH_Qq_TXTAIL (R72, R499). -/
def execEthTxtail (src : PtnIx) (q : Fin 32) (tail : Word) (s : State) : Host.Outcome State Fault Refusal :=
  if s.ethQWriter src q.val then .next (s.ethTail q.val tail.toNat) else .next s

end Sys2Proof.Machine
end

