-- ==== Sys2Proof/Machine/Lanes.lean ====
section
/-! DEFINITION. The signal lanes (chapter 08) and the D generators (R117-R119). -/
namespace Sys2Proof.Machine

/-! ## Lanes -/

/-- Bits of a lane of the slot. -/
def laneBits (wide : Bool) : Nat := if wide then 24 else 16
/-- Lanes of the slot. -/
def laneCount (wide : Bool) : Nat := if wide then 16 else 32

/-- The lanes of a register of a class. -/
def Tile.classLanes (x : Tile) (wide : Bool) (i : Nat) : List Int :=
  if wide then lanesOf 24 16 (x.wr i).toNat else lanesOf 16 32 (x.nr i).toNat

/-- The result register of a class. -/
def classWrite (wide : Bool) (i : Nat) (ls : List Int) : Write :=
  if wide then .w i (BitVec.ofNat 384 (packLanes 24 ls)) else .n i (BitVec.ofNat 512 (packLanes 16 ls))

/-- A value delivered in b bits, saturated, and whether it was clamped (R201). -/
def satLane (b : Nat) (v : Int) : Int × Bool :=
  let c := clampInt (-(2 ^ (b - 1))) (2 ^ (b - 1) - 1) v
  (c, c != v)

/-- Entry l of a list of lanes. -/
def lane (ls : List Int) (l : Nat) : Int := ls.getD l 0

/-- One lane of the two-operand and one-operand operations of R201: exact result under `o`, from lane l of va and vb. -/
def laneExact (o shift : Nat) (a b : Int) : Int :=
  match o with
  | 0x01 => a + b
  | 0x02 => a - b
  | 0x03 => Int.tdiv (a * b) (2 ^ shift)
  | 0x0E => a * 2 ^ shift
  | 0x0F => a / 2 ^ shift
  | 0x10 => min a b
  | 0x11 => max a b
  | 0x12 => a.natAbs
  | 0x13 => -a
  | _ => 0

/-- Bitwise operations over b bits. -/
def laneBitwise (o b : Nat) (x y : Int) : Int :=
  let p := toBits b x
  let q := toBits b y
  sext b (match o with
    | 0x0B => p &&& q
    | 0x0C => p ||| q
    | _ => p ^^^ q)

/-- The lanes that a register-writing operation delivers, and how many were clamped (R201). `va`, `vb` are the lanes of
the sources, `acc` those of ACC, `sreg` the s register. -/
def laneResult (wide : Bool) (op : LaneSlot) (va vb acc : List Int) (sreg : Nat) : List Int × Nat :=
  let b := laneBits wide
  let n := laneCount wide
  let sh := op.shift.toNat
  let h := if op.hi = 1 then n / 2 else 0
  let exact := (List.range n).map fun l =>
    match op.o with
    | 0x0A => Int.tdiv (lane acc l) (2 ^ sh)
    | 0x0B => laneBitwise 0x0B b (lane va l) (lane vb l)
    | 0x0C => laneBitwise 0x0C b (lane va l) (lane vb l)
    | 0x0D => laneBitwise 0x0D b (lane va l) (lane vb l)
    | 0x14 => sext b sreg
    | 0x15 => lane va (toBits b (lane vb l) % n)
    | 0x16 => if l % 2 = 0 then lane va (l / 2 + h) else lane vb (l / 2 + h)
    | 0x18 =>
      if wide then lane va (l + if op.hi = 1 then 16 else 0) * 2 ^ sh
      else Int.tdiv (if l < 16 then lane va l else lane vb (l - 16)) (2 ^ sh)
    | o => laneExact o sh (lane va l) (lane vb l)
  let outs := exact.map (satLane b)
  (outs.map (·.1), (outs.filter (·.2)).length)

/-- The contributions of an accumulating operation, lane by lane (R202). (log 38: DEDUCED) -/
def laneContrib (wide : Bool) (o : Nat) (va vb : List Int) : List (Option Int) :=
  (List.range (laneCount wide)).map fun l =>
    let k := l / 2 * 2
    let ar := lane va k
    let ai := lane va (k + 1)
    let br := lane vb k
    let bi := lane vb (k + 1)
    match o with
    | 0x04 => some (lane va l * lane vb l)
    | 0x05 => some (-(lane va l * lane vb l))
    | 0x06 => some (if l % 2 = 0 then ar * br - ai * bi else ar * bi + ai * br)
    | 0x07 => some (if l % 2 = 0 then ar * br + ai * bi else ai * br - ar * bi)
    | 0x08 => if l % 2 = 0 then some (ar * ar + ai * ai) else none
    | _ => if l = 0 then some (va.foldl (· + ·) 0) else none

/-- An N or W operation counts itself where it executes (R207). (log 44: DEDUCED) -/
def State.countLane (s : State) (t : Nat) (wide : Bool) : State :=
  if wide then s.incSat SIG_WOPS.COUNT 1 t else s.incSat SIG_NOPS.COUNT 1 t

/-- The source lanes of an operation: VXW and VXN read the other class. -/
def Tile.laneSources (x : Tile) (wide : Bool) (op : LaneSlot) : List Int × List Int :=
  let cls := if op.o = 0x18 then !wide else wide
  (x.classLanes cls op.va.toNat, x.classLanes cls op.vb.toNat)

/-- The effect of an operation that writes a register. (log 44: DEDUCED) -/
def laneEffect (t : Nat) (wide : Bool) (op : LaneSlot) (s : State) : State :=
  let x := s.tile t
  let (va, vb) := x.laneSources wide op
  let (ls, n) := laneResult wide op va vb (x.accLanes wide op.acc.toNat) (x.sr op.sreg.toNat).toNat
  ((s.countLane t wide).addLaneSat t wide n).stageWrite t (laneLatency op.o) (classWrite wide op.vd.toNat ls)

/-- The effect of an accumulating operation. (log 38: DEDUCED) -/
def accEffect (t : Nat) (wide : Bool) (op : LaneSlot) (s : State) : State :=
  let (va, vb) := (s.tile t).laneSources wide op
  (s.countLane t wide).stageWrite t (laneLatency op.o) (.accAdd wide op.acc.toNat (laneContrib wide op.o va vb))

/-- The N or W operation `o` of the next bundle of tile t issues, with its effect. -/
def State.laneOp (s : State) (t : TileIx) (wide : Bool) (o : Nat) (eff : Nat → Bool → LaneSlot → State → State) :
    Host.Outcome State Fault Refusal :=
  .next (s.issueSlot t (if wide then 2 else 1) (holdsLane wide o) fun b => eff t wide (if wide then b.w else b.n))

/-! ## Meanings -/

def execVadd (t : TileIx) (wide : Bool) (s : State) : Host.Outcome State Fault Refusal := s.laneOp t wide 0x01 laneEffect
def execVsub (t : TileIx) (wide : Bool) (s : State) : Host.Outcome State Fault Refusal := s.laneOp t wide 0x02 laneEffect
def execVmul (t : TileIx) (wide : Bool) (s : State) : Host.Outcome State Fault Refusal := s.laneOp t wide 0x03 laneEffect
def execVmac (t : TileIx) (wide : Bool) (s : State) : Host.Outcome State Fault Refusal := s.laneOp t wide 0x04 accEffect
def execVmsu (t : TileIx) (wide : Bool) (s : State) : Host.Outcome State Fault Refusal := s.laneOp t wide 0x05 accEffect
def execVcmac (t : TileIx) (wide : Bool) (s : State) : Host.Outcome State Fault Refusal := s.laneOp t wide 0x06 accEffect
def execVcmacj (t : TileIx) (wide : Bool) (s : State) : Host.Outcome State Fault Refusal := s.laneOp t wide 0x07 accEffect
def execVmag (t : TileIx) (wide : Bool) (s : State) : Host.Outcome State Fault Refusal := s.laneOp t wide 0x08 accEffect
def execVaclr (t : TileIx) (wide : Bool) (s : State) : Host.Outcome State Fault Refusal :=
  s.laneOp t wide 0x09 fun t wide op s => (s.countLane t wide).stageWrite t 1 (.accClr wide op.acc.toNat)
def execVacrd (t : TileIx) (wide : Bool) (s : State) : Host.Outcome State Fault Refusal := s.laneOp t wide 0x0A laneEffect
def execVand (t : TileIx) (wide : Bool) (s : State) : Host.Outcome State Fault Refusal := s.laneOp t wide 0x0B laneEffect
def execVor (t : TileIx) (wide : Bool) (s : State) : Host.Outcome State Fault Refusal := s.laneOp t wide 0x0C laneEffect
def execVxor (t : TileIx) (wide : Bool) (s : State) : Host.Outcome State Fault Refusal := s.laneOp t wide 0x0D laneEffect
def execVshl (t : TileIx) (wide : Bool) (s : State) : Host.Outcome State Fault Refusal := s.laneOp t wide 0x0E laneEffect
def execVshr (t : TileIx) (wide : Bool) (s : State) : Host.Outcome State Fault Refusal := s.laneOp t wide 0x0F laneEffect
def execVmin (t : TileIx) (wide : Bool) (s : State) : Host.Outcome State Fault Refusal := s.laneOp t wide 0x10 laneEffect
def execVmax (t : TileIx) (wide : Bool) (s : State) : Host.Outcome State Fault Refusal := s.laneOp t wide 0x11 laneEffect
def execVabs (t : TileIx) (wide : Bool) (s : State) : Host.Outcome State Fault Refusal := s.laneOp t wide 0x12 laneEffect
def execVneg (t : TileIx) (wide : Bool) (s : State) : Host.Outcome State Fault Refusal := s.laneOp t wide 0x13 laneEffect
def execVbc (t : TileIx) (wide : Bool) (s : State) : Host.Outcome State Fault Refusal := s.laneOp t wide 0x14 laneEffect
def execVperm (t : TileIx) (wide : Bool) (s : State) : Host.Outcome State Fault Refusal := s.laneOp t wide 0x15 laneEffect
def execVintl (t : TileIx) (wide : Bool) (s : State) : Host.Outcome State Fault Refusal := s.laneOp t wide 0x16 laneEffect
def execVred (t : TileIx) (wide : Bool) (s : State) : Host.Outcome State Fault Refusal := s.laneOp t wide 0x17 accEffect
def execVxw (t : TileIx) (s : State) : Host.Outcome State Fault Refusal := s.laneOp t false 0x18 laneEffect
def execVxn (t : TileIx) (s : State) : Host.Outcome State Fault Refusal := s.laneOp t true 0x18 laneEffect

/-! ## D generators (R118, R119) -/

/-- The 32-bit containers of a w register, lanes sign-extended. -/
def wContainers (v : BitVec 384) : Nat := packLanes 32 (lanesOf 24 16 v.toNat)

/-- A generator's access: the load or the store, and the update of its address register. -/
def dEffect (t : Nat) (y : Bool) (d : DSlot) (s : State) : State :=
  let x := s.tile t
  let k := d.areg.toNat
  let a := (if y then x.ayr k else x.axr k).toNat
  let m := x.mr d.mod.toNat
  let off := (if y then 0x80000 else 0) + 16 * d.address a m
  let r := d.reg.toNat
  let bytes := 16 * d.size
  let s :=
    if d.st = 1 then
      let v := match d.rf.toNat with
        | 0 => (x.nr r).toNat
        | 1 => wContainers (x.wr r)
        | _ => (x.vr r).toNat
      s.stageWrite t 2 (.store off (bytesOf bytes v))
    else
      let v := s.readNum (tileMemBase t + off) bytes
      s.stageWrite t 1 (match d.rf.toNat with
        | 0 => .n r (BitVec.ofNat 512 v)
        | 1 => .w r (BitVec.ofNat 384 (packCodes 24 (codesOf 32 16 v)))
        | _ => .v r (BitVec.ofNat 2048 v))
  if d.am = 0 ∨ d.am = 1 then
    let u := BitVec.ofNat 16 (d.update a m)
    s.stageWrite t 1 (if y then .ay k u else .ax k u)
  else s

def execDLoad (t : TileIx) (y : Bool) (s : State) : Host.Outcome State Fault Refusal :=
  .next (s.issueSlot t (if y then 6 else 5) (holdsD y 0) fun b => dEffect t y (if y then b.dy else b.dx))
def execDStore (t : TileIx) (y : Bool) (s : State) : Host.Outcome State Fault Refusal :=
  .next (s.issueSlot t (if y then 6 else 5) (holdsD y 1) fun b => dEffect t y (if y then b.dy else b.dx))

end Sys2Proof.Machine
end

