-- ==== Sys2Proof/Machine/MatrixOps.lean ====
section
/-! DEFINITION. The operations of the M slot (R114) and what the matrix array does on its own (R139, R148-R151). -/
namespace Sys2Proof.Machine

/-- The M operation `o` of the next bundle of tile t issues, with its effect. -/
def State.matrixOp (s : State) (t : TileIx) (o : Nat) (eff : MSlot → State → State) : Host.Outcome State Fault Refusal :=
  .next (s.issueSlot t 3 (holdsM o) fun b => eff b.m)

/-- The operation joins the matrix queue with the operands it reads. -/
def queueEffect (t : Nat) (m : MSlot) (s : State) : State :=
  s.modTile t fun x => { x with mq := x.mq ++ [x.mopOf m] }.noteIssued (x.mopOf m)

def execMcfg (t : TileIx) (s : State) : Host.Outcome State Fault Refusal := s.matrixOp t 0x01 (queueEffect t)
def execMldw (t : TileIx) (s : State) : Host.Outcome State Fault Refusal := s.matrixOp t 0x02 (queueEffect t)
def execMmul (t : TileIx) (s : State) : Host.Outcome State Fault Refusal := s.matrixOp t 0x03 (queueEffect t)

/-- The wait of R146 being over, the other set becomes the active one as the bundle ends. -/
def execMswap (t : TileIx) (s : State) : Host.Outcome State Fault Refusal :=
  s.matrixOp t 0x04 fun _ s => s.modTile t fun x => { x with issuing := x.issuing.map fun i => { i with swap := true } }

/-- The wait of R147 is over; nothing else happens. -/
def execMwait (t : TileIx) (s : State) : Host.Outcome State Fault Refusal := s.matrixOp t 0x05 fun _ s => s

def execMatrixDispatch (t : TileIx) (s : State) : Host.Outcome State Fault Refusal := .next (s.matrixDispatch t)

def execMldwComplete (t : TileIx) (sub : Fin 4) (s : State) : Host.Outcome State Fault Refusal := .next (s.loadDone t sub)

def execMmulComplete (t : TileIx) (sub : Fin 4) (mismatch : Bool) (s : State) : Host.Outcome State Fault Refusal :=
  .next (s.mulDone t sub mismatch)

/-- The dummy steps of a sub-array have ramped down and stop; how many cycles they took is open. -/
def execGapFillTimeout (t : TileIx) (sub : Fin 4) (s : State) : Host.Outcome State Fault Refusal :=
  .next (s.endFill t (quadsOf (s.tile t).split sub))

end Sys2Proof.Machine
end

