-- ==== Sys2Proof/Machine/MemoryOps.lean ====
section
/-! DEFINITION. The commands of the memory system (chapter 16). -/
namespace Sys2Proof.Machine

/-- A due refresh of pseudo-channel q (R376): the stack's temperature report, whether the channel is under load, and an error that 32
of its bytes have come to hold. -/
def execRefresh (q : Fin 128) (temp : BitVec 8) (rate : Fin 3) (found : RefreshCase) (s : State) :
    Host.Outcome State Fault Refusal :=
  if refreshOk found.flaw then .next (s.refreshPch q.val temp.toNat rate.val found.busy found.flaw)
  else .refused (.illFormed "refresh: an error within the pseudo-channel")

/-- HBM_CTL.EN is written 1 (R391). -/
def execHbmEnable (src : PtnIx) (st : Fin 4) (s : State) : Host.Outcome State Fault Refusal := .next (s.hbmEnable src st.val)

/-- Training of a stack ends (R391). -/
def execHbmTrainDone (st : Fin 4) (ok : Bool) (s : State) : Host.Outcome State Fault Refusal := .next (s.hbmTrained st.val ok)

/-- HBM_CTL.EN is written 0 (R391). -/
def execHbmDisable (src : PtnIx) (st : Fin 4) (s : State) : Host.Outcome State Fault Refusal := .next (s.hbmDisable src st.val)

/-- HBM_CTL.CLR_CNT (R391). -/
def execHbmClrCnt (src : PtnIx) (st : Fin 4) (s : State) : Host.Outcome State Fault Refusal := .next (s.hbmClrCnt src st.val)

/-- The oldest fault of partition p that can be is recorded, or lost (R389). -/
def execMmuFaultRecord (p : PtnIx) (s : State) : Host.Outcome State Fault Refusal := .next (s.recordFault p)

/-- A write of MMU_RESOLVEp with FAIL = 0 (R390). -/
def execMmuResolveRetry (src p : PtnIx) (seq : BitVec 16) (s : State) : Host.Outcome State Fault Refusal :=
  .next (s.resolve src p seq.toNat false).1.drainInbound

/-- A write of MMU_RESOLVEp with FAIL = 1 (R390, R492). -/
def execMmuResolveFail (src p : PtnIx) (seq : BitVec 16) (s : State) : Host.Outcome State Fault Refusal :=
  .next (s.resolve src p seq.toNat true).1.drainInbound

/-- A write of MMU_INVp with scope ALL (R387). -/
def execInvAll (src p : PtnIx) (s : State) : Host.Outcome State Fault Refusal := .next (s.invStart src p none)

/-- A write of MMU_INVp with scope page: the page of MMU_INV_VAp (R387). -/
def execInvPage (src p : PtnIx) (s : State) : Host.Outcome State Fault Refusal := .next (s.invStart src p (some (s.invPage p)))

/-- The invalidation of partition p completes (R387). -/
def execInvDone (p : PtnIx) (s : State) : Host.Outcome State Fault Refusal := .next (s.invEnd p)

/-- A write of MMU_FR_CFGp (R392). -/
def execFrEnable (src p : PtnIx) (value : Word) (s : State) : Host.Outcome State Fault Refusal := .next (s.frWrite src p value.toNat)

/-- A write of SYC_MAINT: write back (R393). -/
def execWriteBack (src p : PtnIx) (s : State) : Host.Outcome State Fault Refusal := .next (s.maintStart src p false)

/-- A write of SYC_MAINT: write back and invalidate (R393). -/
def execWriteBackInvalidate (src p : PtnIx) (s : State) : Host.Outcome State Fault Refusal := .next (s.maintStart src p true)

/-- System-cache maintenance ends (R393). -/
def execMaintDone (s : State) : Host.Outcome State Fault Refusal := .next s.maintEnd

end Sys2Proof.Machine
end

