-- ==== Sys2Proof/Machine/PcieOps.lean ====
section
/-! DEFINITION. The commands of the PCIe endpoint (R490-R495). -/
namespace Sys2Proof.Machine

/-- The link comes up at a generation and a width, or goes down (R490, R503). -/
def execPcieLinkChange (up : Bool) (rate : Fin 7) (width : Fin 17) (s : State) : Host.Outcome State Fault Refusal :=
  if pcieLinkOk up rate width then .next (s.linkChange up rate.val width.val)
  else .refused (.illFormed "pcieLinkChange: a generation and a width")

/-- An inbound request of function fn (R491, R492); `err` is what the memory it reaches met. -/
def execPcieInbound (fn : Fin 17) (tlp : Tlp) (err : MemErr) (s : State) : Host.Outcome State Fault Refusal :=
  if tlp.wf then .next (s.tlpArrives fn.val tlp err)
  else .refused (.illFormed "pcieInbound: a request within a page")

/-- An access of the outbound window is sent to the host (R493); `ans` is the data of a read's completion, none for UR or CA. -/
def execPcieOutbound (src : OutSrc) (ans : Option (List Byte)) (s : State) : Host.Outcome State Fault Refusal :=
  if completionOk ans then .next (s.outbound src ans)
  else .refused (.illFormed "pcieOutbound: a completion of up to 4,096 bytes")

/-- No completion within PCI_CTL.CTO ms (R493). -/
def execPcieCompletionTimeout (src : OutSrc) (s : State) : Host.Outcome State Fault Refusal := .next (s.cplTimeout src)

/-- A posted write has waited CTO ms without a link (R493). -/
def execPostedWriteDrop (s : State) : Host.Outcome State Fault Refusal := .next s.postedDrop

/-- A write clears the mask bit of a function's vector (R494). -/
def execMsixUnmask (fn : Fin 17) (vec : Fin 2048) (s : State) : Host.Outcome State Fault Refusal :=
  .next (s.msixWrite fn.val (4 * vec.val + 3) 0)

/-- A function-level reset (R495). -/
def execFlr (fn : Fin 17) (s : State) : Host.Outcome State Fault Refusal :=
  if s.domOn 76 then .next (s.flr fn.val) else .next s

/-- PCIE_PERST_N is asserted (R495). -/
def execPciePerst (s : State) : Host.Outcome State Fault Refusal := .next s.perstFalls

/-- PCIE_PERST_N is deasserted (R495, R525). -/
def execPciePerstRelease (s : State) : Host.Outcome State Fault Refusal := .next s.perstRises

end Sys2Proof.Machine
end

