-- ==== Sys2Proof/Machine/RegOps.lean ====
section
/-! DEFINITION. Writes of registers as commands (R9, R36), the board ports (R500, R501) and the tile debug access (R502). -/
namespace Sys2Proof.Machine

/-- A write of SYS_CHIPID.ID (R36). -/
def execSysChipidWrite (id : BitVec 12) (s : State) : Host.Outcome State Fault Refusal := .next (s.chipIdWrite id.toNat)

/-- A 32-bit write of the register at a local address by partition `src` (R9, R26). (log 9: DESIGN CHOICE) -/
def execRegisterWrite (src : PtnIx) (addr : BitVec 40) (value : Word) (s : State) : Host.Outcome State Fault Refusal :=
  if addr.toNat % 4 = 0 then .next (s.regWrite src false addr.toNat value.toNat).drainInbound else .next s

/-- ARR_CTL.CLR_CNT of tile t (R152). -/
def execArrClrCnt (src : PtnIx) (t : TileIx) (s : State) : Host.Outcome State Fault Refusal := .next (s.arrClrCnt src t)

/-- ELE_CTL.CLR_CNT of tile t (R196). -/
def execEleClrCnt (src : PtnIx) (t : TileIx) (s : State) : Host.Outcome State Fault Refusal := .next (s.eleClrCnt src t)

/-- STM_CTL.CLR_CNT of tile t (R228). -/
def execStmClrCnt (src : PtnIx) (t : TileIx) (s : State) : Host.Outcome State Fault Refusal := .next (s.stmClrCnt src t)

/-- A write of XSP_CMD with GO (R500). -/
def execXspCmd (src : PtnIx) (value : Word) (s : State) : Host.Outcome State Fault Refusal :=
  .next (s.regWrite src false XSP_CMD.base (setBits value.toNat 31 31 1))

/-- A software flash command ends (R500); `data` is what a command other than an array read answers. -/
def execXspDone (data : List Byte) (s : State) : Host.Outcome State Fault Refusal :=
  if data.length ≤ 256 then .next (s.xspEnd data)
  else .refused (.illFormed "xspDone: up to 256 bytes")

/-- A write of XSP_SB_CMD with GO (R501). -/
def execSbCmd (src : PtnIx) (value : Word) (s : State) : Host.Outcome State Fault Refusal :=
  .next (s.regWrite src false XSP_SB_CMD.base (setBits value.toNat 31 31 1))

/-- A board-bus transfer ends with its status and what the target answered (R501). -/
def execSbDone (err : Fin 4) (data : List Byte) (s : State) : Host.Outcome State Fault Refusal :=
  if data.length ≤ 255 then .next (s.sbEnd err.val data)
  else .refused (.illFormed "sbDone: up to 255 bytes")

/-- What the JTAG port's IDCODE reads, on every stepping and every grade (R5, R502). No command of the table carries a scan of
the port. (log 151: DESIGN CHOICE) -/
def jtagIdcode : Word := 0x196403C5#32

/-- The debug port accesses tile t's memory window while DBG is ON (R366, R368, R502): what it writes is in memory; what it reads
goes to the port. (log 153: DEDUCED) -/
def State.debugAccess (s : State) (t off : Nat) (write : Bool) (data : List Byte) : State :=
  if ¬s.domOn 80 ∨ (s.accessError (tileMemBase t + off) (max 1 data.length)).isSome ∨ ¬write then s
  else if off < 0x1E0000 then s.pokeTile t off data
  else if (s.tile t).state = .idle then s.writeProgram t off data
  else s.event evWriteIgnored ((s.tileOwner t).getD s.manager) t [w64 (tileMemBase t + off)]

def execTileDebugAccess (t : TileIx) (off : Fin 0x200000) (write : Bool) (data : List Byte) (s : State) :
    Host.Outcome State Fault Refusal :=
  if debugOk off write data then .next (s.debugAccess t off.val write data)
  else .refused (.illFormed "tileDebugAccess: an access within the window")

end Sys2Proof.Machine
end

