-- ==== Sys2Proof/Machine/Scalar.lean ====
section
/-! DEFINITION. The operations of the S slot (R110-R112, R120, R122), and NOP. -/
namespace Sys2Proof.Machine

/-- The S operation `o` of the next bundle of tile t issues, with its effect. -/
def State.scalar (s : State) (t : TileIx) (o : Nat) (eff : SSlot → State → State) : Host.Outcome State Fault Refusal :=
  .next (s.issueSlot t 0 (holdsS o) fun b => eff b.s)

/-! ## Effects -/

/-- Second operand of an R-form or I-form operation. -/
def Tile.second (x : Tile) (imm : Bool) (op : SSlot) : Word := if imm then BitVec.ofNat 32 op.imm else x.sr op.rs2

/-- rd = f rs1 b, with Z, N, C and V as `fl` gives them from FLAGS, the operands and the result: latency 1. -/
def aluEffect (t : Nat) (imm : Bool) (f : Word → Word → Word) (fl : Word → Word → Word → BitVec 4) (op : SSlot)
    (s : State) : State :=
  let x := s.tile t
  let a := x.sr op.rs1.toNat
  let b := x.second imm op
  s.stageWrites t 1 [.s op.rd.toNat (f a b), .zncv (fl x.flags a b)]

/-- Flags of a logic or shift operation whose result is `f a b`. -/
def logicFlags (f : Word → Word → Word) (old a b : Word) : BitVec 4 := flagsLogic old (f a b)

def shl (a b : Word) : Word := a <<< (b.toNat % 32)
def shrl (a b : Word) : Word := a >>> (b.toNat % 32)
def shra (a b : Word) : Word := a.sshiftRight (b.toNat % 32)
def mulLow (a b : Word) : Word := a * b
def mulHigh (a b : Word) : Word := BitVec.ofInt 32 (a.toInt * b.toInt / 2 ^ 32)
def sMin (a b : Word) : Word := if b.slt a then b else a
def sMax (a b : Word) : Word := if a.slt b then b else a

/-- rd = f rs1 rs2 with a latency; FLAGS as they were. -/
def plainEffect (t lat : Nat) (f : Word → Word → Word) (op : SSlot) (s : State) : State :=
  let x := s.tile t
  s.stageWrite t lat (.s op.rd.toNat (f (x.sr op.rs1.toNat) (x.sr op.rs2)))

/-- Flags from rs1 - b. -/
def cmpEffect (t : Nat) (imm : Bool) (op : SSlot) (s : State) : State :=
  let x := s.tile t
  s.stageWrite t 1 (.zncv (flagsSub (x.sr op.rs1.toNat) (x.second imm op)))

/-- A 32-bit load from X or Y: latency 4. (log 45: DEDUCED) -/
def loadEffect (t : Nat) (y : Bool) (op : SSlot) (s : State) : State :=
  let a := (s.tile t).scalarAddr op + if y then 0x80000 else 0
  s.stageWrite t 4 (.s op.rd.toNat (BitVec.ofNat 32 (s.readNum (tileMemBase t + a) 4)))

/-- A 32-bit store to X or Y, seen by a load that issues two or more cycles later (R119). (log 45: DEDUCED) -/
def storeEffect (t : Nat) (y : Bool) (op : SSlot) (s : State) : State :=
  let x := s.tile t
  let a := x.scalarAddr op + if y then 0x80000 else 0
  s.stageWrite t 2 (.store a (bytesOf 4 (x.sr op.rd.toNat).toNat))

/-- The issuing bundle branches to `a` after its delay bundle. -/
def State.branchTo (s : State) (t a : Nat) : State :=
  s.modTile t fun x => { x with issuing := x.issuing.map fun i => { i with target := some (a % 4096) } }

/-- A loop of `count` rounds to the end index of the immediate starts, or is skipped where the count is 0 (R120). -/
def loopEffect (t : Nat) (count : Word) (op : SSlot) (s : State) : State :=
  let x := s.tile t
  let e := op.ib 11 0
  if count = 0 then
    s.modTile t fun x => { x with issuing := x.issuing.map fun i => { i with skip := some (e + 1) } }
  else s.stageWrite t 1 (.loop x.ld count (BitVec.ofNat 12 (x.pc + 1)) (BitVec.ofNat 12 e))

/-- An address register moves by a signed count of words, linearly, modulo 32,768 words. -/
def aaddEffect (t : Nat) (op : SSlot) (s : State) : State :=
  let x := s.tile t
  let k := op.ib 7 0
  let a := (if k < 8 then x.axr k else x.ayr (k - 8)).toNat
  let v := BitVec.ofNat 16 (wrapWord ((a : Int) + sext 16 (op.ib 31 16)))
  s.stageWrite t 1 (if k < 8 then .ax k v else .ay (k - 8) v)

/-- A stream fence over every instance started so far (R222, R223). -/
def State.addFence (s : State) (t : Nat) (signal : Option Nat) (implicit : Bool) : State :=
  s.modTile t fun x => { x with fences := x.fences ++ [{ upTo := x.startOrder, signal := signal, implicit := implicit }] }

/-- Nothing beside the wait that the bundle has kept. -/
def noEffect (_ : SSlot) (s : State) : State := s

/-! ## Meanings -/

/-- NOP in slot k, or a bundle with no operation at all (R110, R113, R114, R116). -/
def execNop (t : TileIx) (slot : Fin 7) (s : State) : Host.Outcome State Fault Refusal :=
  .next (s.issueSlot t slot
    (fun b => if (List.range 7).any b.isActive then b.isActive slot && decide (slot.val < 5) && b.opOf slot == 0 else true)
    fun _ s => s)

def execAdd (t : TileIx) (s : State) : Host.Outcome State Fault Refusal :=
  s.scalar t 0x01 (aluEffect t false (· + ·) fun _ => flagsAdd)
def execSub (t : TileIx) (s : State) : Host.Outcome State Fault Refusal :=
  s.scalar t 0x02 (aluEffect t false (· - ·) fun _ => flagsSub)
def execAnd (t : TileIx) (s : State) : Host.Outcome State Fault Refusal :=
  s.scalar t 0x03 (aluEffect t false (· &&& ·) (logicFlags (· &&& ·)))
def execOr (t : TileIx) (s : State) : Host.Outcome State Fault Refusal :=
  s.scalar t 0x04 (aluEffect t false (· ||| ·) (logicFlags (· ||| ·)))
def execXor (t : TileIx) (s : State) : Host.Outcome State Fault Refusal :=
  s.scalar t 0x05 (aluEffect t false (· ^^^ ·) (logicFlags (· ^^^ ·)))
def execSll (t : TileIx) (s : State) : Host.Outcome State Fault Refusal :=
  s.scalar t 0x06 (aluEffect t false shl (logicFlags shl))
def execSrl (t : TileIx) (s : State) : Host.Outcome State Fault Refusal :=
  s.scalar t 0x07 (aluEffect t false shrl (logicFlags shrl))
def execSra (t : TileIx) (s : State) : Host.Outcome State Fault Refusal :=
  s.scalar t 0x08 (aluEffect t false shra (logicFlags shra))
def execMul (t : TileIx) (s : State) : Host.Outcome State Fault Refusal := s.scalar t 0x09 (plainEffect t 3 mulLow)
def execMulh (t : TileIx) (s : State) : Host.Outcome State Fault Refusal := s.scalar t 0x0A (plainEffect t 3 mulHigh)
def execMin (t : TileIx) (s : State) : Host.Outcome State Fault Refusal := s.scalar t 0x0B (plainEffect t 1 sMin)
def execMax (t : TileIx) (s : State) : Host.Outcome State Fault Refusal := s.scalar t 0x0C (plainEffect t 1 sMax)
def execCmp (t : TileIx) (s : State) : Host.Outcome State Fault Refusal := s.scalar t 0x0D (cmpEffect t false)
def execAddi (t : TileIx) (s : State) : Host.Outcome State Fault Refusal :=
  s.scalar t 0x10 (aluEffect t true (· + ·) fun _ => flagsAdd)
def execAndi (t : TileIx) (s : State) : Host.Outcome State Fault Refusal :=
  s.scalar t 0x11 (aluEffect t true (· &&& ·) (logicFlags (· &&& ·)))
def execOri (t : TileIx) (s : State) : Host.Outcome State Fault Refusal :=
  s.scalar t 0x12 (aluEffect t true (· ||| ·) (logicFlags (· ||| ·)))
def execXori (t : TileIx) (s : State) : Host.Outcome State Fault Refusal :=
  s.scalar t 0x13 (aluEffect t true (· ^^^ ·) (logicFlags (· ^^^ ·)))
def execSlli (t : TileIx) (s : State) : Host.Outcome State Fault Refusal :=
  s.scalar t 0x14 (aluEffect t true shl (logicFlags shl))
def execSrli (t : TileIx) (s : State) : Host.Outcome State Fault Refusal :=
  s.scalar t 0x15 (aluEffect t true shrl (logicFlags shrl))
def execSrai (t : TileIx) (s : State) : Host.Outcome State Fault Refusal :=
  s.scalar t 0x16 (aluEffect t true shra (logicFlags shra))
def execLi (t : TileIx) (s : State) : Host.Outcome State Fault Refusal :=
  s.scalar t 0x17 fun op s => s.stageWrite t 1 (.s op.rd.toNat (BitVec.ofNat 32 op.imm))
def execCmpi (t : TileIx) (s : State) : Host.Outcome State Fault Refusal := s.scalar t 0x18 (cmpEffect t true)
def execPset (t : TileIx) (s : State) : Host.Outcome State Fault Refusal :=
  s.scalar t 0x19 fun op s => s.stageWrite t 1 (.p op.rd.toNat (condition (op.ib 3 0) (s.tile t).flags))
def execPlog (t : TileIx) (s : State) : Host.Outcome State Fault Refusal :=
  s.scalar t 0x1A fun op s =>
    let x := s.tile t
    s.stageWrite t 1 (.p op.rd.toNat (plogOp (op.rs2 / 8) (x.pr op.rs1.toNat) (x.pr (op.rs2 % 8))))
def execMfs (t : TileIx) (s : State) : Host.Outcome State Fault Refusal :=
  s.scalar t 0x1B fun op s => s.stageWrite t 1 (.s op.rd.toNat (((s.tile t).mfs (op.ib 7 0)).getD 0))
def execMts (t : TileIx) (s : State) : Host.Outcome State Fault Refusal :=
  s.scalar t 0x1C fun op s => s.stageWrites t 1 ((mtsWrites (op.ib 7 0) ((s.tile t).sr op.rs1.toNat)).getD [])
def execAadd (t : TileIx) (s : State) : Host.Outcome State Fault Refusal := s.scalar t 0x1D (aaddEffect t)
def execLdx (t : TileIx) (s : State) : Host.Outcome State Fault Refusal := s.scalar t 0x20 (loadEffect t false)
def execLdy (t : TileIx) (s : State) : Host.Outcome State Fault Refusal := s.scalar t 0x21 (loadEffect t true)
def execStx (t : TileIx) (s : State) : Host.Outcome State Fault Refusal := s.scalar t 0x22 (storeEffect t false)
def execSty (t : TileIx) (s : State) : Host.Outcome State Fault Refusal := s.scalar t 0x23 (storeEffect t true)
def execBr (t : TileIx) (s : State) : Host.Outcome State Fault Refusal :=
  s.scalar t 0x28 fun op s => s.branchTo t (op.ib 11 0)
def execBrr (t : TileIx) (s : State) : Host.Outcome State Fault Refusal :=
  s.scalar t 0x29 fun op s => s.branchTo t ((s.tile t).sr op.rs1.toNat).toNat
def execCall (t : TileIx) (s : State) : Host.Outcome State Fault Refusal :=
  s.scalar t 0x2A fun op s => (s.stageWrite t 1 (.s 31 (BitVec.ofNat 32 ((s.tile t).pc + 2)))).branchTo t (op.ib 11 0)
def execRet (t : TileIx) (s : State) : Host.Outcome State Fault Refusal :=
  s.scalar t 0x2B fun _ s => s.branchTo t ((s.tile t).sr 31).toNat
def execLoop (t : TileIx) (s : State) : Host.Outcome State Fault Refusal :=
  s.scalar t 0x2C fun op => loopEffect t (BitVec.ofNat 32 (op.ib 31 16)) op
def execLoopr (t : TileIx) (s : State) : Host.Outcome State Fault Refusal :=
  s.scalar t 0x2D fun op s => loopEffect t ((s.tile t).sr op.rs1.toNat) op s
def execLbrk (t : TileIx) (s : State) : Host.Outcome State Fault Refusal :=
  s.scalar t 0x2E fun _ s => s.stageWrite t 1 .lbrk
/-- FLAGS is EFLAGS again after a cycle, and EPC the next bundle after the delay bundle (R127). -/
def execRti (t : TileIx) (s : State) : Host.Outcome State Fault Refusal :=
  s.scalar t 0x2F fun _ s =>
    let x := s.tile t
    ((s.setTile t { x with inHandler := false }).stageWrite t 1 (.flags x.eflags)).branchTo t x.epc.toNat
/-- HALT has found everything idle: the task issues nothing more and its implicit last fence is issued (R110, R223). -/
def execHalt (t : TileIx) (s : State) : Host.Outcome State Fault Refusal :=
  s.scalar t 0x30 fun _ s => (s.addFence t none true).modTile t fun x =>
    { x with halting := true, haltPc := some x.pc }
/-- An executing TRAP is a fault that its bundle meets before it issues (R110, R128). -/
def execTrap (t : TileIx) (s : State) : Host.Outcome State Fault Refusal := s.scalar t 0x31 noEffect
def execWfi (t : TileIx) (s : State) : Host.Outcome State Fault Refusal := s.scalar t 0x32 noEffect
def execSemw (t : TileIx) (s : State) : Host.Outcome State Fault Refusal :=
  s.scalar t 0x33 fun op s =>
    let (c, i, n) := op.sem
    s.takeSem c i n (some t)
def execSems (t : TileIx) (s : State) : Host.Outcome State Fault Refusal :=
  s.scalar t 0x34 fun op s =>
    let (c, i, n) := op.sem
    s.signal c i n
def execSstart (t : TileIx) (s : State) : Host.Outcome State Fault Refusal :=
  s.scalar t 0x35 fun op s => s.startInst t (op.ib 7 0) (s.streamRecord t (op.ib 7 0))
def execSwait (t : TileIx) (s : State) : Host.Outcome State Fault Refusal := s.scalar t 0x36 noEffect
def execSfence (t : TileIx) (s : State) : Host.Outcome State Fault Refusal :=
  s.scalar t 0x37 fun op s => s.addFence t (if bit op.imm 31 then some op.imm else none) false
def execSfwait (t : TileIx) (s : State) : Host.Outcome State Fault Refusal := s.scalar t 0x38 noEffect
def execEwait (t : TileIx) (s : State) : Host.Outcome State Fault Refusal := s.scalar t 0x39 noEffect

end Sys2Proof.Machine
end

