-- ==== Sys2Proof/Machine/StreamOps.lean ====
section
/-! DEFINITION. The answers to a stream engine's requests on this device (R218, R374), and the commands of the stream engine and
of the check-value unit (chapters 09 and 12). -/
namespace Sys2Proof.Machine

/-! ## Answers on this device -/

/-- Far bytes of a request lie in one 64-byte line with those of another: they are performed in issue order (R374). -/
def sameLine (q r : SReq) : Bool :=
  decide (q.ga / 64 ≤ (r.ga + r.len - 1) / 64) && decide (r.ga / 64 ≤ (q.ga + q.len - 1) / 64)

/-- Request `id` of tile t may be answered: it is in flight to this device, and no earlier one of its lines is.
(log 159: DESIGN CHOICE) -/
def State.localReq (s : State) (t id : Nat) : Option SReq :=
  let rs := (s.tile t).reqs
  let mine := fun (q : SReq) => !q.remote && q.mark == .flight
  (rs.find? fun q => q.id == id && mine q).bind fun r =>
    if (rs.takeWhile fun q => q.id != id).any fun q => mine q && sameLine q r then none else some r

/-- An atomic of this device's memory: what the word held (R213). -/
def State.streamAtomic (s : State) (p : Nat) (r : SReq) (err : MemErr) : State × Except Nat (List Byte) :=
  let a := localOf r.ga
  match atomicSize r.atop r.data.length with
  | none => (s, .error fcAddrUnmapped)
  | some n =>
    match s.accessError a n with
    | some c => (s, .error c)
    | none =>
      match s.memError a err with
      | (s, true) => (s, .error fcParityPersist)
      | (s, false) =>
        let old := s.readNum a n
        (s.store p a (bytesOf n (atomicNew r.atop n old r.data)) (r.cache == 0), .ok (bytesOf n old))

/-- A request queued to a pseudo-channel that has been retired since, or to a domain that drains, is still performed (R432, R446).
(log 125: DEDUCED; log 159: DESIGN CHOICE) -/
def State.streamQueued (s : State) (r : SReq) : State × Except Nat (List Byte) :=
  let a := localOf r.ga
  if domainOf a = 76 then
    match s.pcieTarget a with
    | some (k, fn, h) =>
      if r.write ∧ r.atop = 0 then (s.postOut (some k) (.hostWrite fn h r.data), .ok []) else (s, .error fcAddrUnmapped)
    | none => (s, .error fcAddrUnmapped)
  else if r.atop ≠ 0 then
    let n := (atomicSize r.atop r.data.length).getD 4
    (s.poke a (bytesOf n (atomicNew r.atop n (s.readNum a n) r.data)), .ok (s.read a n))
  else if r.write then (s.poke a r.data, .ok [])
  else (s, .ok (s.read a r.len))

/-- Perform a request: its data, or its fault code. (log 182: DEDUCED) -/
def State.streamAccess (s : State) (p : Nat) (r : SReq) (err : MemErr) : State × Except Nat (List Byte) :=
  if r.queued then s.streamQueued r
  else if r.atop ≠ 0 then s.streamAtomic p r err
  else if r.write then
    let (s, c) := s.busWrite p false r.ga r.data r.cache err
    (s, if c = 0 then .ok [] else .error c)
  else
    let (b, s) := s.busRead p r.ga r.len r.cache err
    (s, b)

/-- A read of the outbound window that the host is to complete. -/
def State.awaitsHost (s : State) (r : SReq) : Bool :=
  !r.write && r.atop == 0 && (s.pcieTarget (localOf r.ga)).isSome

/-- Request `id` of tile t is performed on this device, and answered. -/
def State.streamResponse (s : State) (t id : Nat) (err : MemErr) : State :=
  match s.localReq t id with
  | none => s
  | some r =>
    if s.awaitsHost r then s
    else
      let (s, b) := s.streamAccess (s.taskPtn t) r err
      let s := match b with
        | .ok bs => s.answerReq t r 0 bs
        | .error c => s.answerReq t r c []
      s.drainInbound

/-! ## Commands -/

/-- The QUEUED instance started first becomes ACTIVE (R210). -/
def execInstanceActivate (t : TileIx) (s : State) : Host.Outcome State Fault Refusal :=
  if s.streamWorks t then .next (s.modTile t fun x => x.activate) else .next s

/-- The next list entry or traverse of descriptor d's instance arrives (R212-R214); `out` is the output side of DIR 0b10. -/
def execListFetch (t : TileIx) (d : BitVec 8) (out : Bool) (s : State) : Host.Outcome State Fault Refusal :=
  if s.streamWorks t then .next (s.listFetch t d.toNat out) else .next s

/-- The engine issues one request (R217, R218); `out` prefers the output side of DIR 0b10. -/
def execStreamRequestIssue (t : TileIx) (out : Bool) (s : State) : Host.Outcome State Fault Refusal :=
  .next (s.issueRequest t out)

/-- A request to this device is performed and answered (R218, R374); `err` is what the memory met. -/
def execStreamResponse (t : TileIx) (id : Nat) (err : MemErr) (s : State) : Host.Outcome State Fault Refusal :=
  if s.domOn t then .next (s.streamResponse t id err) else .next s

/-- The oldest fence retires (R222). -/
def execFenceRetire (t : TileIx) (s : State) : Host.Outcome State Fault Refusal :=
  if s.domOn t then .next (s.fenceRetire t) else .next s

/-- The check-value unit starts on the next counted block (R302). -/
def execCrcBlockFeed (t : TileIx) (s : State) : Host.Outcome State Fault Refusal :=
  if s.domOn t then .next (s.crcStart t) else .next s

/-- The feed of a block ends (R303, R304). -/
def execCrcFeedEnd (t : TileIx) (s : State) : Host.Outcome State Fault Refusal :=
  if s.domOn t then .next (s.crcEnd t) else .next s

end Sys2Proof.Machine
end

