-- ==== Sys2Proof/Machine/Dispatch.lean ====
section
/-! DEFINITION. The meaning of every command: one arm per constructor, each one direct call of that command's own
meaning. -/
namespace Sys2Proof.Machine

def exec (i : Instr) (s : State) : Host.Outcome State Fault Refusal :=
  match i with
  | .atuTick => Sys2Proof.Machine.execAtuTick s
  | .atuSet p => Sys2Proof.Machine.execAtuSet p s
  | .atuStep p ns => Sys2Proof.Machine.execAtuStep p ns s
  | .timeSnapRead p => Sys2Proof.Machine.execTimeSnapRead p s
  | .atuOfsIn p ofs taken => Sys2Proof.Machine.execAtuOfsIn p ofs taken s
  | .ppsInEdge ofs16 taken => Sys2Proof.Machine.execPpsInEdge ofs16 taken s
  | .syncInEdge ofs16 taken => Sys2Proof.Machine.execSyncInEdge ofs16 taken s
  | .synceGate err => Sys2Proof.Machine.execSynceGate err s
  | .holdoverTimeout => Sys2Proof.Machine.execHoldoverTimeout s
  | .ppsOutRise => Sys2Proof.Machine.execPpsOutRise s
  | .ppsOutFall => Sys2Proof.Machine.execPpsOutFall s
  | .syncOutRise => Sys2Proof.Machine.execSyncOutRise s
  | .syncOutFall => Sys2Proof.Machine.execSyncOutFall s
  | .cellCfgWrite p cell value => Sys2Proof.Machine.execCellCfgWrite p cell value s
  | .arm p index => Sys2Proof.Machine.execArm p index s
  | .disarm p index => Sys2Proof.Machine.execDisarm p index s
  | .trgRead p index => Sys2Proof.Machine.execTrgRead p index s
  | .triggerFire => Sys2Proof.Machine.execTriggerFire s
  | .etsPop p => Sys2Proof.Machine.execEtsPop p s
  | .launchRelease job => Sys2Proof.Machine.execLaunchRelease job s
  | .ringEnable src p ring value => Sys2Proof.Machine.execRingEnable src p ring value s
  | .sqDoorbell src p ring tail => Sys2Proof.Machine.execSqDoorbell src p ring tail s
  | .cqDoorbell src p head => Sys2Proof.Machine.execCqDoorbell src p head s
  | .eqDoorbell src p head => Sys2Proof.Machine.execEqDoorbell src p head s
  | .descriptorFetch p => Sys2Proof.Machine.execDescriptorFetch p s
  | .fetchFaultClear src p ring => Sys2Proof.Machine.execFetchFaultClear src p ring s
  | .jobDispatch p => Sys2Proof.Machine.execJobDispatch p s
  | .deadlineExpiry job => Sys2Proof.Machine.execDeadlineExpiry job s
  | .jobComplete job => Sys2Proof.Machine.execJobComplete job s
  | .cqIrqTimer p events => Sys2Proof.Machine.execCqIrqTimer p events s
  | .otRegister src p index => Sys2Proof.Machine.execOtRegister src p index s
  | .otRegisterDone p => Sys2Proof.Machine.execOtRegisterDone p s
  | .otRetire src p index => Sys2Proof.Machine.execOtRetire src p index s
  | .belayEnqueue src p cmd => Sys2Proof.Machine.execBelayEnqueue src p cmd s
  | .stopPort p => Sys2Proof.Machine.execStopPort p s
  | .cancelTag p => Sys2Proof.Machine.execCancelTag p s
  | .cancelRing p => Sys2Proof.Machine.execCancelRing p s
  | .quiesceStreams p => Sys2Proof.Machine.execQuiesceStreams p s
  | .haltPartition p => Sys2Proof.Machine.execHaltPartition p s
  | .belayDone p => Sys2Proof.Machine.execBelayDone p s
  | .resume src p => Sys2Proof.Machine.execResume src p s
  | .unquiesce src p => Sys2Proof.Machine.execUnquiesce src p s
  | .clrStats src => Sys2Proof.Machine.execClrStats src s
  | .sysChipidWrite id => Sys2Proof.Machine.execSysChipidWrite id s
  | .taskStart t => Sys2Proof.Machine.execTaskStart t s
  | .programMemoryWrite p t offset value => Sys2Proof.Machine.execProgramMemoryWrite p t offset value s
  | .taskEnd t => Sys2Proof.Machine.execTaskEnd t s
  | .nop t slot => Sys2Proof.Machine.execNop t slot s
  | .add t => Sys2Proof.Machine.execAdd t s
  | .sub t => Sys2Proof.Machine.execSub t s
  | .and t => Sys2Proof.Machine.execAnd t s
  | .or t => Sys2Proof.Machine.execOr t s
  | .xor t => Sys2Proof.Machine.execXor t s
  | .sll t => Sys2Proof.Machine.execSll t s
  | .srl t => Sys2Proof.Machine.execSrl t s
  | .sra t => Sys2Proof.Machine.execSra t s
  | .mul t => Sys2Proof.Machine.execMul t s
  | .mulh t => Sys2Proof.Machine.execMulh t s
  | .min t => Sys2Proof.Machine.execMin t s
  | .max t => Sys2Proof.Machine.execMax t s
  | .cmp t => Sys2Proof.Machine.execCmp t s
  | .addi t => Sys2Proof.Machine.execAddi t s
  | .andi t => Sys2Proof.Machine.execAndi t s
  | .ori t => Sys2Proof.Machine.execOri t s
  | .xori t => Sys2Proof.Machine.execXori t s
  | .slli t => Sys2Proof.Machine.execSlli t s
  | .srli t => Sys2Proof.Machine.execSrli t s
  | .srai t => Sys2Proof.Machine.execSrai t s
  | .li t => Sys2Proof.Machine.execLi t s
  | .cmpi t => Sys2Proof.Machine.execCmpi t s
  | .pset t => Sys2Proof.Machine.execPset t s
  | .plog t => Sys2Proof.Machine.execPlog t s
  | .mfs t => Sys2Proof.Machine.execMfs t s
  | .mts t => Sys2Proof.Machine.execMts t s
  | .aadd t => Sys2Proof.Machine.execAadd t s
  | .ldx t => Sys2Proof.Machine.execLdx t s
  | .ldy t => Sys2Proof.Machine.execLdy t s
  | .stx t => Sys2Proof.Machine.execStx t s
  | .sty t => Sys2Proof.Machine.execSty t s
  | .br t => Sys2Proof.Machine.execBr t s
  | .brr t => Sys2Proof.Machine.execBrr t s
  | .call t => Sys2Proof.Machine.execCall t s
  | .ret t => Sys2Proof.Machine.execRet t s
  | .loop t => Sys2Proof.Machine.execLoop t s
  | .loopr t => Sys2Proof.Machine.execLoopr t s
  | .lbrk t => Sys2Proof.Machine.execLbrk t s
  | .rti t => Sys2Proof.Machine.execRti t s
  | .halt t => Sys2Proof.Machine.execHalt t s
  | .trap t => Sys2Proof.Machine.execTrap t s
  | .wfi t => Sys2Proof.Machine.execWfi t s
  | .semw t => Sys2Proof.Machine.execSemw t s
  | .sems t => Sys2Proof.Machine.execSems t s
  | .sstart t => Sys2Proof.Machine.execSstart t s
  | .swait t => Sys2Proof.Machine.execSwait t s
  | .sfence t => Sys2Proof.Machine.execSfence t s
  | .sfwait t => Sys2Proof.Machine.execSfwait t s
  | .ewait t => Sys2Proof.Machine.execEwait t s
  | .vadd t wide => Sys2Proof.Machine.execVadd t wide s
  | .vsub t wide => Sys2Proof.Machine.execVsub t wide s
  | .vmul t wide => Sys2Proof.Machine.execVmul t wide s
  | .vmac t wide => Sys2Proof.Machine.execVmac t wide s
  | .vmsu t wide => Sys2Proof.Machine.execVmsu t wide s
  | .vcmac t wide => Sys2Proof.Machine.execVcmac t wide s
  | .vcmacj t wide => Sys2Proof.Machine.execVcmacj t wide s
  | .vmag t wide => Sys2Proof.Machine.execVmag t wide s
  | .vaclr t wide => Sys2Proof.Machine.execVaclr t wide s
  | .vacrd t wide => Sys2Proof.Machine.execVacrd t wide s
  | .vand t wide => Sys2Proof.Machine.execVand t wide s
  | .vor t wide => Sys2Proof.Machine.execVor t wide s
  | .vxor t wide => Sys2Proof.Machine.execVxor t wide s
  | .vshl t wide => Sys2Proof.Machine.execVshl t wide s
  | .vshr t wide => Sys2Proof.Machine.execVshr t wide s
  | .vmin t wide => Sys2Proof.Machine.execVmin t wide s
  | .vmax t wide => Sys2Proof.Machine.execVmax t wide s
  | .vabs t wide => Sys2Proof.Machine.execVabs t wide s
  | .vneg t wide => Sys2Proof.Machine.execVneg t wide s
  | .vbc t wide => Sys2Proof.Machine.execVbc t wide s
  | .vperm t wide => Sys2Proof.Machine.execVperm t wide s
  | .vintl t wide => Sys2Proof.Machine.execVintl t wide s
  | .vred t wide => Sys2Proof.Machine.execVred t wide s
  | .vxw t => Sys2Proof.Machine.execVxw t s
  | .vxn t => Sys2Proof.Machine.execVxn t s
  | .dLoad t y => Sys2Proof.Machine.execDLoad t y s
  | .dStore t y => Sys2Proof.Machine.execDStore t y s
  | .mcfg t => Sys2Proof.Machine.execMcfg t s
  | .mldw t => Sys2Proof.Machine.execMldw t s
  | .mmul t => Sys2Proof.Machine.execMmul t s
  | .mswap t => Sys2Proof.Machine.execMswap t s
  | .mwait t => Sys2Proof.Machine.execMwait t s
  | .matrixDispatch t => Sys2Proof.Machine.execMatrixDispatch t s
  | .mldwComplete t sub => Sys2Proof.Machine.execMldwComplete t sub s
  | .mmulComplete t sub mismatch => Sys2Proof.Machine.execMmulComplete t sub mismatch s
  | .gapFillTimeout t sub => Sys2Proof.Machine.execGapFillTimeout t sub s
  | .ekrun t => Sys2Proof.Machine.execEkrun t s
  | .ewin t => Sys2Proof.Machine.execEwin t s
  | .eadd t => Sys2Proof.Machine.execEadd t s
  | .esub t => Sys2Proof.Machine.execEsub t s
  | .emul t => Sys2Proof.Machine.execEmul t s
  | .emin t => Sys2Proof.Machine.execEmin t s
  | .emax t => Sys2Proof.Machine.execEmax t s
  | .fadd32 t => Sys2Proof.Machine.execFadd32 t s
  | .fmul32 t => Sys2Proof.Machine.execFmul32 t s
  | .ffma32 t => Sys2Proof.Machine.execFfma32 t s
  | .fadd64 t => Sys2Proof.Machine.execFadd64 t s
  | .fmul64 t => Sys2Proof.Machine.execFmul64 t s
  | .ffma64 t => Sys2Proof.Machine.execFfma64 t s
  | .fdiv32 t => Sys2Proof.Machine.execFdiv32 t s
  | .fsqrt32 t => Sys2Proof.Machine.execFsqrt32 t s
  | .fdiv64 t => Sys2Proof.Machine.execFdiv64 t s
  | .fsqrt64 t => Sys2Proof.Machine.execFsqrt64 t s
  | .ecvt t => Sys2Proof.Machine.execEcvt t s
  | .erq t => Sys2Proof.Machine.execErq t s
  | .elut t => Sys2Proof.Machine.execElut t s
  | .eamax t => Sys2Proof.Machine.execEamax t s
  | .kernelRow t => Sys2Proof.Machine.execKernelRow t s
  | .kernelRunEnd t => Sys2Proof.Machine.execKernelRunEnd t s
  | .scaleWrite p t entry hi value => Sys2Proof.Machine.execScaleWrite p t entry hi value s
  | .nlogWrWrite p t value => Sys2Proof.Machine.execNlogWrWrite p t value s
  | .interruptEntry t => Sys2Proof.Machine.execInterruptEntry t s
  | .instanceActivate t => Sys2Proof.Machine.execInstanceActivate t s
  | .listFetch t d out => Sys2Proof.Machine.execListFetch t d out s
  | .streamRequestIssue t out => Sys2Proof.Machine.execStreamRequestIssue t out s
  | .streamResponse t id err => Sys2Proof.Machine.execStreamResponse t id err s
  | .fenceRetire t => Sys2Proof.Machine.execFenceRetire t s
  | .crcBlockFeed t => Sys2Proof.Machine.execCrcBlockFeed t s
  | .crcFeedEnd t => Sys2Proof.Machine.execCrcFeedEnd t s
  | .fhRxFrame port frame => Sys2Proof.Machine.execFhRxFrame port frame s
  | .rxBufferAssign cell b => Sys2Proof.Machine.execRxBufferAssign cell b s
  | .symbolClose cell => Sys2Proof.Machine.execSymbolClose cell s
  | .fallbackWatermark job => Sys2Proof.Machine.execFallbackWatermark job s
  | .fallbackStart job => Sys2Proof.Machine.execFallbackStart job s
  | .fheCrxEnable src cell value => Sys2Proof.Machine.execFheCrxEnable src cell value s
  | .praCfgEnable src c value => Sys2Proof.Machine.execPraCfgEnable src c value s
  | .occasionClose c => Sys2Proof.Machine.execOccasionClose c s
  | .codeBlockDispatch d => Sys2Proof.Machine.execCodeBlockDispatch d s
  | .harqCombineDone d => Sys2Proof.Machine.execHarqCombineDone d s
  | .codeBlockEnd d err => Sys2Proof.Machine.execCodeBlockEnd d err s
  | .polarDispatch u => Sys2Proof.Machine.execPolarDispatch u s
  | .polarEnd u err => Sys2Proof.Machine.execPolarEnd u err s
  | .encodeDispatch u => Sys2Proof.Machine.execEncodeDispatch u s
  | .encodeEnd u err => Sys2Proof.Machine.execEncodeEnd u err s
  | .decPshareWrite src p value => Sys2Proof.Machine.execDecPshareWrite src p value s
  | .txBufferAssign cell b => Sys2Proof.Machine.execTxBufferAssign cell b s
  | .cplaneWindowOpen cell b => Sys2Proof.Machine.execCplaneWindowOpen cell b s
  | .uplaneWindowOpen cell b => Sys2Proof.Machine.execUplaneWindowOpen cell b s
  | .txPartReady cell b => Sys2Proof.Machine.execTxPartReady cell b s
  | .cplaneWindowClose cell b => Sys2Proof.Machine.execCplaneWindowClose cell b s
  | .uplaneWindowClose cell b => Sys2Proof.Machine.execUplaneWindowClose cell b s
  | .fheCtxEnable src cell value => Sys2Proof.Machine.execFheCtxEnable src cell value s
  | .gatherDispatch p => Sys2Proof.Machine.execGatherDispatch p s
  | .rowReadDone c => Sys2Proof.Machine.execRowReadDone c s
  | .gatherRowUpdate c => Sys2Proof.Machine.execGatherRowUpdate c s
  | .ptnCtlWrite src value => Sys2Proof.Machine.execPtnCtlWrite src value s
  | .ptnCfgEnable src p value => Sys2Proof.Machine.execPtnCfgEnable src p value s
  | .ptnCfgDisable src p => Sys2Proof.Machine.execPtnCfgDisable src p s
  | .steal t => Sys2Proof.Machine.execSteal t s
  | .crossClusterSteal t => Sys2Proof.Machine.execCrossClusterSteal t s
  | .quantumExpiry t => Sys2Proof.Machine.execQuantumExpiry t s
  | .preemption t => Sys2Proof.Machine.execPreemption t s
  | .cairnSaveDone t => Sys2Proof.Machine.execCairnSaveDone t s
  | .cairnRestore t => Sys2Proof.Machine.execCairnRestore t s
  | .cairnRestoreDone t => Sys2Proof.Machine.execCairnRestoreDone t s
  | .cairnFaultClear src p => Sys2Proof.Machine.execCairnFaultClear src p s
  | .inheritSliceExpiry t => Sys2Proof.Machine.execInheritSliceExpiry t s
  | .holdLimitCut hbm unit holder => Sys2Proof.Machine.execHoldLimitCut hbm unit holder s
  | .semWrite src c sem value => Sys2Proof.Machine.execSemWrite src c sem value s
  | .refresh q temp rate found => Sys2Proof.Machine.execRefresh q temp rate found s
  | .hbmEnable src st => Sys2Proof.Machine.execHbmEnable src st s
  | .hbmTrainDone st ok => Sys2Proof.Machine.execHbmTrainDone st ok s
  | .hbmDisable src st => Sys2Proof.Machine.execHbmDisable src st s
  | .mmuFaultRecord p => Sys2Proof.Machine.execMmuFaultRecord p s
  | .mmuResolveRetry src p seq => Sys2Proof.Machine.execMmuResolveRetry src p seq s
  | .mmuResolveFail src p seq => Sys2Proof.Machine.execMmuResolveFail src p seq s
  | .invAll src p => Sys2Proof.Machine.execInvAll src p s
  | .invPage src p => Sys2Proof.Machine.execInvPage src p s
  | .invDone p => Sys2Proof.Machine.execInvDone p s
  | .frEnable src p value => Sys2Proof.Machine.execFrEnable src p value s
  | .writeBack src p => Sys2Proof.Machine.execWriteBack src p s
  | .writeBackInvalidate src p => Sys2Proof.Machine.execWriteBackInvalidate src p s
  | .maintDone => Sys2Proof.Machine.execMaintDone s
  | .linkEnable src k => Sys2Proof.Machine.execLinkEnable src k s
  | .linkDisable src k => Sys2Proof.Machine.execLinkDisable src k s
  | .linkTrainDone k locked peer => Sys2Proof.Machine.execLinkTrainDone k locked peer s
  | .linkTrainTimeout k => Sys2Proof.Machine.execLinkTrainTimeout k s
  | .retrain src k => Sys2Proof.Machine.execRetrain src k s
  | .retrainDone k locked => Sys2Proof.Machine.execRetrainDone k locked s
  | .retrainTimeout k => Sys2Proof.Machine.execRetrainTimeout k s
  | .flitReceive k flit fec => Sys2Proof.Machine.execFlitReceive k flit fec s
  | .packetTransit k => Sys2Proof.Machine.execPacketTransit k s
  | .rdReq k err => Sys2Proof.Machine.execRdReq k err s
  | .rdRsp k => Sys2Proof.Machine.execRdRsp k s
  | .wr k err => Sys2Proof.Machine.execWr k err s
  | .wrAck k => Sys2Proof.Machine.execWrAck k s
  | .atom k err => Sys2Proof.Machine.execAtom k err s
  | .atomRsp k => Sys2Proof.Machine.execAtomRsp k s
  | .errRsp k => Sys2Proof.Machine.execErrRsp k s
  | .belay k => Sys2Proof.Machine.execBelay k s
  | .gpoolReq k => Sys2Proof.Machine.execGpoolReq k s
  | .gpoolRsp k => Sys2Proof.Machine.execGpoolRsp k s
  | .digest k => Sys2Proof.Machine.execDigest k s
  | .messageAppend q => Sys2Proof.Machine.execMessageAppend q s
  | .messageTimeout q => Sys2Proof.Machine.execMessageTimeout q s
  | .requestTimeout tag => Sys2Proof.Machine.execRequestTimeout tag s
  | .belayHoldTimeout => Sys2Proof.Machine.execBelayHoldTimeout s
  | .routeWrite src dst alt value => Sys2Proof.Machine.execRouteWrite src dst alt value s
  | .digestAllocate p => Sys2Proof.Machine.execDigestAllocate p s
  | .digestComputeDone job => Sys2Proof.Machine.execDigestComputeDone job s
  | .lockstepCompareEnd job => Sys2Proof.Machine.execLockstepCompareEnd job s
  | .ropeTimeout job => Sys2Proof.Machine.execRopeTimeout job s
  | .orphanDiscard => Sys2Proof.Machine.execOrphanDiscard s
  | .bucketLeak k => Sys2Proof.Machine.execBucketLeak k s
  | .spareCopyDone c => Sys2Proof.Machine.execSpareCopyDone c s
  | .tileMove t => Sys2Proof.Machine.execTileMove t s
  | .bbxRetire src kind index => Sys2Proof.Machine.execBbxRetire src kind index s
  | .bktWrite src k value => Sys2Proof.Machine.execBktWrite src k value s
  | .pageProgramDone => Sys2Proof.Machine.execPageProgramDone s
  | .bankOpen => Sys2Proof.Machine.execBankOpen s
  | .switch src => Sys2Proof.Machine.execSwitch src s
  | .softwareRecord src event => Sys2Proof.Machine.execSoftwareRecord src event s
  | .domainOn src d => Sys2Proof.Machine.execDomainOn src d s
  | .domainOff src d => Sys2Proof.Machine.execDomainOff src d s
  | .domainDrainDone d => Sys2Proof.Machine.execDomainDrainDone d s
  | .domainIsolateDone d => Sys2Proof.Machine.execDomainIsolateDone d s
  | .domainRampDone d => Sys2Proof.Machine.execDomainRampDone d s
  | .domainRestoreDone d => Sys2Proof.Machine.execDomainRestoreDone d s
  | .opReq src c req => Sys2Proof.Machine.execOpReq src c req s
  | .pllLock c => Sys2Proof.Machine.execPllLock c s
  | .voltageReached c => Sys2Proof.Machine.execVoltageReached c s
  | .vsettleExpiry c => Sys2Proof.Machine.execVsettleExpiry c s
  | .powerEstimate ms us10 c0 c1 c2 c3 => Sys2Proof.Machine.execPowerEstimate ms us10 c0 c1 c2 c3 s
  | .poutCalibrate watts => Sys2Proof.Machine.execPoutCalibrate watts s
  | .sagWarn rail mv => Sys2Proof.Machine.execSagWarn rail mv s
  | .sagClear => Sys2Proof.Machine.execSagClear s
  | .supplyReset => Sys2Proof.Machine.execSupplyReset s
  | .pwrSagWrite src value => Sys2Proof.Machine.execPwrSagWrite src value s
  | .thermWarn c sensor temp => Sys2Proof.Machine.execThermWarn c sensor temp s
  | .thermalFloorStep c up => Sys2Proof.Machine.execThermalFloorStep c up s
  | .thermTrip sensor temp => Sys2Proof.Machine.execThermTrip sensor temp s
  | .stop src keep => Sys2Proof.Machine.execStop src keep s
  | .rtcWake temp cool => Sys2Proof.Machine.execRtcWake temp cool s
  | .rtcSubRead => Sys2Proof.Machine.execRtcSubRead s
  | .rtcLoad src hi => Sys2Proof.Machine.execRtcLoad src hi s
  | .clockLoss r => Sys2Proof.Machine.execClockLoss r s
  | .porstFall supply trip oasis cool => Sys2Proof.Machine.execPorstFall supply trip oasis cool s
  | .porstRise grp mode => Sys2Proof.Machine.execPorstRise grp mode s
  | .bootFlash => Sys2Proof.Machine.execBootFlash s
  | .flashTimeout => Sys2Proof.Machine.execFlashTimeout s
  | .bootCal => Sys2Proof.Machine.execBootCal s
  | .bootFloors => Sys2Proof.Machine.execBootFloors s
  | .bootOwner => Sys2Proof.Machine.execBootOwner s
  | .bootBbx => Sys2Proof.Machine.execBootBbx s
  | .bootImage errA errB => Sys2Proof.Machine.execBootImage errA errB s
  | .bootRebuild => Sys2Proof.Machine.execBootRebuild s
  | .commit src => Sys2Proof.Machine.execCommit src s
  | .commitDone => Sys2Proof.Machine.execCommitDone s
  | .confirm src => Sys2Proof.Machine.execConfirm src s
  | .extend src m => Sys2Proof.Machine.execExtend src m s
  | .attest src p n => Sys2Proof.Machine.execAttest src p n s
  | .verify src p => Sys2Proof.Machine.execVerify src p s
  | .derive src p => Sys2Proof.Machine.execDerive src p s
  | .secDone => Sys2Proof.Machine.execSecDone s
  | .trngFail test => Sys2Proof.Machine.execTrngFail test s
  | .trngStartupTest pass => Sys2Proof.Machine.execTrngStartupTest pass s
  | .start src h => Sys2Proof.Machine.execStart src h s
  | .hartReset src h => Sys2Proof.Machine.execHartReset src h s
  | .coreAccess h op addr size data err mem => Sys2Proof.Machine.execCoreAccess h op addr size data err mem s
  | .msiWrite h target file value => Sys2Proof.Machine.execMsiWrite h target file value s
  | .aplicSource source level => Sys2Proof.Machine.execAplicSource source level s
  | .pcieLinkChange up rate width => Sys2Proof.Machine.execPcieLinkChange up rate width s
  | .pcieInbound fn tlp err => Sys2Proof.Machine.execPcieInbound fn tlp err s
  | .pcieOutbound src ans => Sys2Proof.Machine.execPcieOutbound src ans s
  | .pcieCompletionTimeout src => Sys2Proof.Machine.execPcieCompletionTimeout src s
  | .msixUnmask fn vec => Sys2Proof.Machine.execMsixUnmask fn vec s
  | .flr fn => Sys2Proof.Machine.execFlr fn s
  | .pciePerst => Sys2Proof.Machine.execPciePerst s
  | .ethLinkChange port up => Sys2Proof.Machine.execEthLinkChange port up s
  | .ethPortEnable src port => Sys2Proof.Machine.execEthPortEnable src port s
  | .ethFrameReceive port frame fcsOk => Sys2Proof.Machine.execEthFrameReceive port frame fcsOk s
  | .pfcReceive port prio on => Sys2Proof.Machine.execPfcReceive port prio on s
  | .ethFrameTransmit src => Sys2Proof.Machine.execEthFrameTransmit src s
  | .ethTxtail src q tail => Sys2Proof.Machine.execEthTxtail src q tail s
  | .xspCmd src value => Sys2Proof.Machine.execXspCmd src value s
  | .xspDone data => Sys2Proof.Machine.execXspDone data s
  | .sbCmd src value => Sys2Proof.Machine.execSbCmd src value s
  | .sbDone err data => Sys2Proof.Machine.execSbDone err data s
  | .arrClrCnt src t => Sys2Proof.Machine.execArrClrCnt src t s
  | .eleClrCnt src t => Sys2Proof.Machine.execEleClrCnt src t s
  | .stmClrCnt src t => Sys2Proof.Machine.execStmClrCnt src t s
  | .fheRxClrCnt src => Sys2Proof.Machine.execFheRxClrCnt src s
  | .fheTxClrCnt src => Sys2Proof.Machine.execFheTxClrCnt src s
  | .praClrCnt src => Sys2Proof.Machine.execPraClrCnt src s
  | .decClrCnt src => Sys2Proof.Machine.execDecClrCnt src s
  | .encClrCnt src => Sys2Proof.Machine.execEncClrCnt src s
  | .gthClrCnt src c => Sys2Proof.Machine.execGthClrCnt src c s
  | .ptnClrCnt src p => Sys2Proof.Machine.execPtnClrCnt src p s
  | .cluClrCnt src c => Sys2Proof.Machine.execCluClrCnt src c s
  | .hbmClrCnt src st => Sys2Proof.Machine.execHbmClrCnt src st s
  | .yalClrCnt src => Sys2Proof.Machine.execYalClrCnt src s
  | .dgtClrCnt src => Sys2Proof.Machine.execDgtClrCnt src s
  | .bbxClrCnt src => Sys2Proof.Machine.execBbxClrCnt src s
  | .registerWrite src addr value => Sys2Proof.Machine.execRegisterWrite src addr value s
  | .resultWrite t => Sys2Proof.Machine.execResultWrite t s
  | .supplyRecovery => Sys2Proof.Machine.execSupplyRecovery s
  | .refclkPllLock mode => Sys2Proof.Machine.execRefclkPllLock mode s
  | .clockReturn r => Sys2Proof.Machine.execClockReturn r s
  | .pciePerstRelease => Sys2Proof.Machine.execPciePerstRelease s
  | .postedWriteDrop => Sys2Proof.Machine.execPostedWriteDrop s
  | .thermalTripWake temp cool => Sys2Proof.Machine.execThermalTripWake temp cool s
  | .rtcTick => Sys2Proof.Machine.execRtcTick s
  | .tileDebugAccess t off write data => Sys2Proof.Machine.execTileDebugAccess t off write data s
  | .waysWriteBackDone p => Sys2Proof.Machine.execWaysWriteBackDone p s

end Sys2Proof.Machine
end

