-- ==== Sys2Proof/Safety.lean ====
section
/-! DEFINITION. A safe step, and the invariant that every step keeps. -/
namespace Sys2Proof
open Machine

/-- The next step from `s` answers a next state: neither a fault nor a refusal. -/
def SafeStep (s : Machine.State) : Prop := ∃ t, Machine.step s = .next t

/-- What holds of every state the block can be in, and of every state a command leaves: memory, the flash, the registers and
the levels of the leaky buckets are in their one canonical form, so that equal contents are equal data; the nanoseconds of
the time are below 1,000,000,000 (R40); the RTC stays within its 48 bits of seconds and 15 of a second (R460). -/
structure Inv (s : Machine.State) : Prop where
  mem : Memory.wf s.mem = true
  flash : s.flash.wf flashErased = true
  regs : s.regs.wf regReset = true
  levels : s.bbx.levels.wf (fun _ => 0) = true
  time : s.atu.ns.toNat < 1000000000
  rtc : s.power.rtc < 2 ^ 63

end Sys2Proof
end

