-- ==== Sys2Proof/Certificates/Slice0/Obligations.lean ====
section
/-! DEFINITION. The statements for the provers, and the words they are written in. -/

/-! ## Words of the statements about bundles -/
namespace Sys2Proof.Claims
open Sys2Proof.Machine

/-- The bundle `b` at PC of tile t begins to issue (R107-R112, R123): the tile runs a task, nothing is issuing, the tile does
not halt, the bundle is fetched and legal, and it meets no fault and no stall. -/
structure Begins (s : State) (t : Nat) (b : Bundle) : Prop where
  runs : s.issues t = true
  free : (s.tile t).issuing = none
  goesOn : (s.tile t).halting = false
  fetched : Bundle.decode (s.fetch t) = b
  legal : (s.tile t).staticFault b = none
  clear : s.verdict t b = .go

/-- Slot k of the bundle `b` is next to be performed in tile t: the bundle begins to issue, or it is issuing and the slot is
still due. The last argument is the state in which the slot's effect happens. -/
inductive Turn (s : State) (t k : Nat) (b : Bundle) : State → Prop
  | begins (h : Begins s t b) (turn : slotTurn b k 0 = true) : Turn s t k b (s.beginIssue t (s.fetch t) b)
  | goesOn (i : Issuing) (runs : s.issues t = true) (issuing : (s.tile t).issuing = some i)
      (bundle : Bundle.decode i.bundle = b) (turn : slotTurn b k i.done = true) : Turn s t k b s

/-- Slot k of the issuing bundle executes under its predicate (R108). -/
def slotExecutes (u : State) (t k : Nat) : Bool := ((u.tile t).issuing.map fun i => bit i.ex k).getD false

/-- The command `c` is the operation in slot k of a bundle of tile t that satisfies `fits`: wherever its turn comes, it
completes, with the effect `eff` where its predicate holds and with none where it does not, and the bundle's cycle ends
once every slot has been performed. -/
def Performs (c : Instr) (t k : Nat) (fits : Bundle → Prop) (eff : Bundle → State → State) : Prop :=
  ∀ s b u, Turn s t k b u → fits b →
    exec c s = .next (((if slotExecutes u t k then eff b u else u).markDone t k).tryFinish t)

/-- The S slot is active and holds opcode o. -/
def InS (o : Nat) (b : Bundle) : Prop := b.isActive 0 = true ∧ b.s.o = o
/-- The N slot, or with `wide` the W slot, is active and holds opcode o. -/
def InLane (wide : Bool) (o : Nat) (b : Bundle) : Prop :=
  b.isActive (if wide then 2 else 1) = true ∧ (if wide then b.w else b.n).o = o
def InM (o : Nat) (b : Bundle) : Prop := b.isActive 3 = true ∧ b.m.o = o
def InE (o : Nat) (b : Bundle) : Prop := b.isActive 4 = true ∧ b.e.o = o
/-- Generator DX, or with `y` DY, is enabled for loads (0) or stores (1). -/
def InD (y : Bool) (st : Nat) (b : Bundle) : Prop :=
  b.isActive (if y then 6 else 5) = true ∧ (if y then b.dy else b.dx).st.toNat = st

/-- First operand of an S operation. -/
def opA (t : Nat) (b : Bundle) (u : State) : Word := (u.tile t).sr b.s.rs1.toNat
/-- Second operand: rs2, or the immediate. -/
def opB (t : Nat) (imm : Bool) (b : Bundle) (u : State) : Word :=
  if imm then BitVec.ofNat 32 b.s.imm else (u.tile t).sr b.s.rs2

/-- rd receives `v` and Z, N, C, V become `fl`, after one cycle. -/
def result (t : Nat) (b : Bundle) (v : Word) (fl : BitVec 4) (u : State) : State :=
  (u.stageWrite t 1 (.s b.s.rd.toNat v)).stageWrite t 1 (.zncv fl)

/-- rd receives `v` after `lat` cycles. -/
def resultOnly (t lat : Nat) (b : Bundle) (v : Word) (u : State) : State := u.stageWrite t lat (.s b.s.rd.toNat v)

/-- Z and N of a result; C and V as FLAGS holds them. -/
def zn (t : Nat) (v : Word) (u : State) : BitVec 4 :=
  packFlags (v == 0) v.msb ((u.tile t).flags.getLsbD 2) ((u.tile t).flags.getLsbD 3)

/-- Z, N, C and V of a + b. -/
def znAdd (a b : Word) : BitVec 4 :=
  packFlags (a + b == 0) (a + b).msb (decide (2 ^ 32 ≤ a.toNat + b.toNat)) (a.msb == b.msb && (a + b).msb != a.msb)

/-- Z, N, C and V of a - b. -/
def znSub (a b : Word) : BitVec 4 :=
  packFlags (a - b == 0) (a - b).msb (decide (b.toNat ≤ a.toNat)) (a.msb != b.msb && (a - b).msb != a.msb)

/-- The lanes of an N or W operation (R201): lane l is `f l`, saturated to the lane's width; the operation counts itself and
its clamped lanes, and the register receives the lanes after `lat` cycles. -/
def lanes (t : Nat) (wide : Bool) (lat : Nat) (f : LaneSlot → Tile → Nat → Int) (b : Bundle) (u : State) : State :=
  let op := if wide then b.w else b.n
  let outs := ((List.range (if wide then 16 else 32)).map (f op (u.tile t))).map (satLane (if wide then 24 else 16))
  ((u.incSat (if wide then SIG_WOPS.COUNT else SIG_NOPS.COUNT) 1 t).addLaneSat t wide (outs.filter (·.2)).length).stageWrite t lat
    (classWrite wide op.vd.toNat (outs.map (·.1)))

/-- An accumulating operation (R202): lane l contributes `f l`, if it contributes, after `lat` cycles. -/
def accumulates (t : Nat) (wide : Bool) (lat : Nat) (f : (Nat → Int) → (Nat → Int) → Nat → Option Int) (b : Bundle) (u : State) : State :=
  let op := if wide then b.w else b.n
  let a := fun l => lane ((u.tile t).classLanes wide op.va.toNat) l
  let c := fun l => lane ((u.tile t).classLanes wide op.vb.toNat) l
  (u.incSat (if wide then SIG_WOPS.COUNT else SIG_NOPS.COUNT) 1 t).stageWrite t lat
    (.accAdd wide op.acc.toNat ((List.range (if wide then 16 else 32)).map (f a c)))

/-- Lane l of VA, of VB. -/
def la (wide : Bool) (op : LaneSlot) (x : Tile) (l : Nat) : Int := lane (x.classLanes wide op.va.toNat) l
def lb (wide : Bool) (op : LaneSlot) (x : Tile) (l : Nat) : Int := lane (x.classLanes wide op.vb.toNat) l

/-- An E operation (R182): the v register receives the result after `lat` cycles, with the counts and flags of its lanes. -/
def vResult (t lat : Nat) (r : ESlot → State → VOut) (b : Bundle) (u : State) : State :=
  ((u.addCounts t (r b.e u).counts).addFlags t (r b.e u).flags).stageWrite t lat (.v b.e.vd.toNat (r b.e u).v)

/-- Lane by lane: `f` of the rounding mode and of the `w`-bit lanes of va, vb and the old vd. -/
def eachLane (t w n : Nat) (f : Rm → Nat → Nat → Nat → LaneOut) (e : ESlot) (u : State) : VOut :=
  let x := u.tile t
  vOut w (zip3 (f (rmOf (e.aux.toNat % 8) (u.fld ELE_FPCSR.RM t))) (codesOf w n (x.vr e.va.toNat).toNat)
    (codesOf w n (x.vr e.vb.toNat).toNat) (codesOf w n (x.vr e.vd.toNat).toNat))

/-- Slot S alone is active in bundle `b`, it executes, and tile t has no result in flight, no active loop and no branch
pending: what the operation does is then seen by itself. -/
structure Alone (s : State) (t : Nat) (b : Bundle) : Prop extends Begins s t b where
  only : b.active = 0b100000#6
  executes : (s.tile t).executes b.s.pred = true
  still : (s.tile t).inflight = []
  noLoop : (s.tile t).ld = 0
  noBranch : (s.tile t).branch = none

/-- Tile records that agree on everything but the s registers, FLAGS [3:0], the PC and the sequencer's own bookkeeping of the
bundle: what an S operation leaves alone. -/
structure SameElse (x y : Tile) : Prop where
  p : y.p = x.p
  ax : y.ax = x.ax
  ay : y.ay = x.ay
  m : y.m = x.m
  loops : y.lc = x.lc ∧ y.ls = x.ls ∧ y.le = x.le
  traps : y.epc = x.epc ∧ y.eflags = x.eflags ∧ y.cause = x.cause ∧ y.ivec = x.ivec ∧ y.imask = x.imask ∧ y.ipend = x.ipend
  lanes : y.n = x.n ∧ y.w = x.w ∧ y.v = x.v
  accs : y.na = x.na ∧ y.wa = x.wa ∧ y.acc = x.acc ∧ y.regions = x.regions ∧ y.weights = x.weights
  queues : y.mq = x.mq ∧ y.queue = x.queue ∧ y.task = x.task ∧ y.insts = x.insts ∧ y.fences = x.fences ∧ y.krun = x.krun
  flagsHigh : ∀ k, 4 ≤ k → k < 32 → y.flags.getLsbD k = x.flags.getLsbD k

/-- The command is an S operation of opcode o with two operands that, alone in its bundle, writes `f a b` to rd (nothing to
s0, which reads as zero) and sets FLAGS [3:0] to `fl`, moves PC to the next bundle and changes nothing else of the device. -/
def AluResult (c : TileIx → Instr) (o : Nat) (imm : Bool) (f : Word → Word → Word) (fl : Word → Word → Word → BitVec 4) : Prop :=
  ∀ (t : TileIx) (s : State) (b : Bundle), Alone s t b → b.s.o = o →
    ∃ y : Tile, exec (c t) s = .next (s.setTile t y) ∧ SameElse (s.tile t) y ∧ y.pc = (s.tile t).pc + 1 ∧
      (∀ i, y.sr i = if i = b.s.rd.toNat ∧ i ≠ 0 then f (opA t b s) (opB t imm b s) else (s.tile t).sr i) ∧
      (∀ k, k < 4 → y.flags.getLsbD k = (fl (s.tile t).flags (opA t b s) (opB t imm b s)).getLsbD k)

end Sys2Proof.Claims

open Sys2Proof Sys2Proof.Machine Sys2Proof.Claims

/-! ## Statements: bundles (chapters 04, 05, 07 and 08) -/

/-- R105, R110: the arithmetic, logic and shift operations of the S slot complete with these results and flags. -/
def Obligations.ScalarArithmeticCompletes : Prop := ∀ t : TileIx,
  Performs (.add t) t 0 (InS 0x01) (fun b u => result t b (opA t b u + opB t false b u) (znAdd (opA t b u) (opB t false b u)) u) ∧
  Performs (.sub t) t 0 (InS 0x02) (fun b u => result t b (opA t b u - opB t false b u) (znSub (opA t b u) (opB t false b u)) u) ∧
  Performs (.and t) t 0 (InS 0x03) (fun b u => let v := opA t b u &&& opB t false b u; result t b v (zn t v u) u) ∧
  Performs (.or t) t 0 (InS 0x04) (fun b u => let v := opA t b u ||| opB t false b u; result t b v (zn t v u) u) ∧
  Performs (.xor t) t 0 (InS 0x05) (fun b u => let v := opA t b u ^^^ opB t false b u; result t b v (zn t v u) u) ∧
  Performs (.sll t) t 0 (InS 0x06) (fun b u => let v := opA t b u <<< ((opB t false b u).toNat % 32); result t b v (zn t v u) u) ∧
  Performs (.srl t) t 0 (InS 0x07) (fun b u => let v := opA t b u >>> ((opB t false b u).toNat % 32); result t b v (zn t v u) u) ∧
  Performs (.sra t) t 0 (InS 0x08) (fun b u =>
    let v := (opA t b u).sshiftRight ((opB t false b u).toNat % 32); result t b v (zn t v u) u) ∧
  Performs (.mul t) t 0 (InS 0x09) (fun b u => resultOnly t 3 b (opA t b u * opB t false b u) u) ∧
  Performs (.mulh t) t 0 (InS 0x0A) (fun b u =>
    resultOnly t 3 b (BitVec.ofInt 32 ((opA t b u).toInt * (opB t false b u).toInt / 2 ^ 32)) u) ∧
  Performs (.min t) t 0 (InS 0x0B) (fun b u =>
    resultOnly t 1 b (if (opB t false b u).toInt < (opA t b u).toInt then opB t false b u else opA t b u) u) ∧
  Performs (.max t) t 0 (InS 0x0C) (fun b u =>
    resultOnly t 1 b (if (opA t b u).toInt < (opB t false b u).toInt then opB t false b u else opA t b u) u) ∧
  Performs (.cmp t) t 0 (InS 0x0D) (fun b u => u.stageWrite t 1 (.zncv (znSub (opA t b u) (opB t false b u)))) ∧
  Performs (.addi t) t 0 (InS 0x10) (fun b u => result t b (opA t b u + opB t true b u) (znAdd (opA t b u) (opB t true b u)) u) ∧
  Performs (.andi t) t 0 (InS 0x11) (fun b u => let v := opA t b u &&& opB t true b u; result t b v (zn t v u) u) ∧
  Performs (.ori t) t 0 (InS 0x12) (fun b u => let v := opA t b u ||| opB t true b u; result t b v (zn t v u) u) ∧
  Performs (.xori t) t 0 (InS 0x13) (fun b u => let v := opA t b u ^^^ opB t true b u; result t b v (zn t v u) u) ∧
  Performs (.slli t) t 0 (InS 0x14) (fun b u => let v := opA t b u <<< ((opB t true b u).toNat % 32); result t b v (zn t v u) u) ∧
  Performs (.srli t) t 0 (InS 0x15) (fun b u => let v := opA t b u >>> ((opB t true b u).toNat % 32); result t b v (zn t v u) u) ∧
  Performs (.srai t) t 0 (InS 0x16) (fun b u =>
    let v := (opA t b u).sshiftRight ((opB t true b u).toNat % 32); result t b v (zn t v u) u) ∧
  Performs (.li t) t 0 (InS 0x17) (fun b u => resultOnly t 1 b (BitVec.ofNat 32 b.s.imm) u) ∧
  Performs (.cmpi t) t 0 (InS 0x18) (fun b u => u.stageWrite t 1 (.zncv (znSub (opA t b u) (opB t true b u))))

/-- R105, R106, R110, R111, R122: predicates, special registers, address registers, loads and stores. -/
def Obligations.ScalarMovesComplete : Prop := ∀ t : TileIx,
  Performs (.pset t) t 0 (InS 0x19) (fun b u => u.stageWrite t 1 (.p b.s.rd.toNat (condition (b.s.ib 3 0) (u.tile t).flags))) ∧
  Performs (.plog t) t 0 (InS 0x1A) (fun b u =>
    u.stageWrite t 1 (.p b.s.rd.toNat (plogOp (b.s.rs2 / 8) ((u.tile t).pr b.s.rs1.toNat) ((u.tile t).pr (b.s.rs2 % 8))))) ∧
  Performs (.mfs t) t 0 (InS 0x1B) (fun b u => resultOnly t 1 b (((u.tile t).mfs (b.s.ib 7 0)).getD 0) u) ∧
  Performs (.mts t) t 0 (InS 0x1C) (fun b u => u.stageWrites t 1 ((mtsWrites (b.s.ib 7 0) (opA t b u)).getD [])) ∧
  Performs (.aadd t) t 0 (InS 0x1D) (fun b u =>
    let k := b.s.ib 7 0
    let a := (if k < 8 then (u.tile t).axr k else (u.tile t).ayr (k - 8)).toNat
    let v := BitVec.ofNat 16 (wrapWord ((a : Int) + sext 16 (b.s.ib 31 16)))
    u.stageWrite t 1 (if k < 8 then .ax k v else .ay (k - 8) v)) ∧
  (∀ y : Bool, Performs (if y then .ldy t else .ldx t) t 0 (InS (if y then 0x21 else 0x20)) (fun b u =>
    let a := (opA t b u + BitVec.ofNat 32 b.s.imm).toNat + if y then 0x80000 else 0
    resultOnly t 4 b (BitVec.ofNat 32 (u.readNum (tileMemBase t + a) 4)) u)) ∧
  (∀ y : Bool, Performs (if y then .sty t else .stx t) t 0 (InS (if y then 0x23 else 0x22)) (fun b u =>
    let a := (opA t b u + BitVec.ofNat 32 b.s.imm).toNat + if y then 0x80000 else 0
    u.stageWrite t 2 (.store a (bytesOf 4 ((u.tile t).sr b.s.rd.toNat).toNat))))

/-- R102, R112, R120, R121: branches, loops and the end of a task. -/
def Obligations.ScalarControlCompletes : Prop := ∀ t : TileIx,
  Performs (.br t) t 0 (InS 0x28) (fun b u => u.branchTo t (b.s.ib 11 0)) ∧
  Performs (.brr t) t 0 (InS 0x29) (fun b u => u.branchTo t (opA t b u).toNat) ∧
  Performs (.call t) t 0 (InS 0x2A) (fun b u =>
    (u.stageWrite t 1 (.s 31 (BitVec.ofNat 32 ((u.tile t).pc + 2)))).branchTo t (b.s.ib 11 0)) ∧
  Performs (.ret t) t 0 (InS 0x2B) (fun _ u => u.branchTo t ((u.tile t).sr 31).toNat) ∧
  Performs (.loop t) t 0 (InS 0x2C) (fun b u => loopEffect t (BitVec.ofNat 32 (b.s.ib 31 16)) b.s u) ∧
  Performs (.loopr t) t 0 (InS 0x2D) (fun b u => loopEffect t (opA t b u) b.s u) ∧
  Performs (.lbrk t) t 0 (InS 0x2E) (fun _ u => u.stageWrite t 1 .lbrk) ∧
  Performs (.rti t) t 0 (InS 0x2F) (fun _ u =>
    ((u.modTile t fun x => { x with inHandler := false }).stageWrite t 1 (.flags (u.tile t).eflags)).branchTo t
      (u.tile t).epc.toNat) ∧
  Performs (.halt t) t 0 (InS 0x30) (fun _ u =>
    u.modTile t fun x => { x with fences := x.fences ++ [{ upTo := x.startOrder, signal := none, implicit := true }],
                                     halting := true, haltPc := some x.pc }) ∧
  (∀ s b, s.issues t = true → (s.tile t).issuing = none → (s.tile t).halting = false → Bundle.decode (s.fetch t) = b →
    (s.tile t).staticFault b = none → InS 0x31 b → s.verdict t b = .fault tfTrap 0 [w32 (b.s.ib 15 0)] →
    exec (.trap t) s = .next (s.tileFault t 0x0F03 0 [w32 (b.s.ib 15 0)]))

/-- R110, R111, R221, R222, R362: the operations that wait, once their wait is over, and those that signal and start streams. -/
def Obligations.ScalarWaitsComplete : Prop := ∀ t : TileIx,
  Performs (.wfi t) t 0 (InS 0x32) (fun _ u => u) ∧
  Performs (.semw t) t 0 (InS 0x33) (fun b u => u.takeSem (b.s.ib 11 10) (b.s.ib 9 0) (b.s.ib 27 16) (some t)) ∧
  Performs (.sems t) t 0 (InS 0x34) (fun b u => u.signal (b.s.ib 11 10) (b.s.ib 9 0) (b.s.ib 27 16)) ∧
  Performs (.sstart t) t 0 (InS 0x35) (fun b u => u.startInst t (b.s.ib 7 0) (u.streamRecord t (b.s.ib 7 0))) ∧
  Performs (.swait t) t 0 (InS 0x36) (fun _ u => u) ∧
  Performs (.sfence t) t 0 (InS 0x37) (fun b u =>
    u.modTile t fun x => { x with fences := x.fences ++
      [{ upTo := x.startOrder, signal := if bit b.s.imm 31 then some b.s.imm else none, implicit := false }] }) ∧
  Performs (.sfwait t) t 0 (InS 0x38) (fun _ u => u) ∧
  Performs (.ewait t) t 0 (InS 0x39) (fun _ u => u) ∧
  (∀ slot : Fin 7, Performs (.nop t slot) t slot.val (fun b => b.isActive slot.val = true ∧ slot.val < 5 ∧ b.opOf slot.val = 0) (fun _ u => u)) ∧
  (∀ slot : Fin 7, Performs (.nop t slot) t slot.val (fun b => ∀ k, k < 7 → b.isActive k = false) (fun _ u => u))

/-- R113, R200, R201, R202, R203, R205: the operations of the N and W slots. -/
def Obligations.LaneOperationsComplete : Prop := ∀ (t : TileIx) (wide : Bool),
  let k := if wide then 2 else 1
  let w := if wide then 24 else 16
  Performs (.vadd t wide) t k (InLane wide 0x01) (lanes t wide 1 fun op x l => la wide op x l + lb wide op x l) ∧
  Performs (.vsub t wide) t k (InLane wide 0x02) (lanes t wide 1 fun op x l => la wide op x l - lb wide op x l) ∧
  Performs (.vmul t wide) t k (InLane wide 0x03) (lanes t wide 2 fun op x l =>
    Int.tdiv (la wide op x l * lb wide op x l) (2 ^ op.shift.toNat)) ∧
  Performs (.vmac t wide) t k (InLane wide 0x04) (accumulates t wide 3 fun a b l => some (a l * b l)) ∧
  Performs (.vmsu t wide) t k (InLane wide 0x05) (accumulates t wide 3 fun a b l => some (-(a l * b l))) ∧
  Performs (.vcmac t wide) t k (InLane wide 0x06) (accumulates t wide 3 fun a b l =>
    let r := l / 2 * 2
    some (if l % 2 = 0 then a r * b r - a (r + 1) * b (r + 1) else a r * b (r + 1) + a (r + 1) * b r)) ∧
  Performs (.vcmacj t wide) t k (InLane wide 0x07) (accumulates t wide 3 fun a b l =>
    let r := l / 2 * 2
    some (if l % 2 = 0 then a r * b r + a (r + 1) * b (r + 1) else a (r + 1) * b r - a r * b (r + 1))) ∧
  Performs (.vmag t wide) t k (InLane wide 0x08) (accumulates t wide 3 fun a _ l =>
    if l % 2 = 0 then some (a (l / 2 * 2) * a (l / 2 * 2) + a (l / 2 * 2 + 1) * a (l / 2 * 2 + 1)) else none) ∧
  Performs (.vaclr t wide) t k (InLane wide 0x09) (fun b u =>
    (u.incSat (if wide then SIG_WOPS.COUNT else SIG_NOPS.COUNT) 1 t).stageWrite t 1 (.accClr wide (if wide then b.w else b.n).acc.toNat)) ∧
  Performs (.vacrd t wide) t k (InLane wide 0x0A) (lanes t wide 2 fun op x l =>
    Int.tdiv (lane (x.accLanes wide op.acc.toNat) l) (2 ^ op.shift.toNat)) ∧
  Performs (.vand t wide) t k (InLane wide 0x0B) (lanes t wide 1 fun op x l =>
    sext w (toBits w (la wide op x l) &&& toBits w (lb wide op x l))) ∧
  Performs (.vor t wide) t k (InLane wide 0x0C) (lanes t wide 1 fun op x l =>
    sext w (toBits w (la wide op x l) ||| toBits w (lb wide op x l))) ∧
  Performs (.vxor t wide) t k (InLane wide 0x0D) (lanes t wide 1 fun op x l =>
    sext w (toBits w (la wide op x l) ^^^ toBits w (lb wide op x l))) ∧
  Performs (.vshl t wide) t k (InLane wide 0x0E) (lanes t wide 1 fun op x l => la wide op x l * 2 ^ op.shift.toNat) ∧
  Performs (.vshr t wide) t k (InLane wide 0x0F) (lanes t wide 1 fun op x l => la wide op x l / 2 ^ op.shift.toNat) ∧
  Performs (.vmin t wide) t k (InLane wide 0x10) (lanes t wide 1 fun op x l => min (la wide op x l) (lb wide op x l)) ∧
  Performs (.vmax t wide) t k (InLane wide 0x11) (lanes t wide 1 fun op x l => max (la wide op x l) (lb wide op x l)) ∧
  Performs (.vabs t wide) t k (InLane wide 0x12) (lanes t wide 1 fun op x l => (la wide op x l).natAbs) ∧
  Performs (.vneg t wide) t k (InLane wide 0x13) (lanes t wide 1 fun op x l => -(la wide op x l)) ∧
  Performs (.vbc t wide) t k (InLane wide 0x14) (lanes t wide 1 fun op x _ => sext w (x.sr op.sreg.toNat).toNat) ∧
  Performs (.vperm t wide) t k (InLane wide 0x15) (lanes t wide 2 fun op x l =>
    la wide op x (toBits w (lb wide op x l) % if wide then 16 else 32)) ∧
  Performs (.vintl t wide) t k (InLane wide 0x16) (lanes t wide 2 fun op x l =>
    let h := if op.hi = 1 then (if wide then 8 else 16) else 0
    if l % 2 = 0 then la wide op x (l / 2 + h) else lb wide op x (l / 2 + h)) ∧
  Performs (.vred t wide) t k (InLane wide 0x17) (fun b u =>
    let op := if wide then b.w else b.n
    (u.incSat (if wide then SIG_WOPS.COUNT else SIG_NOPS.COUNT) 1 t).stageWrite t 4
      (.accAdd wide op.acc.toNat ((List.range (if wide then 16 else 32)).map fun l =>
        if l = 0 then some (((u.tile t).classLanes wide op.va.toNat).foldl (· + ·) 0) else none))) ∧
  Performs (.vxw t) t 1 (InLane false 0x18) (lanes t false 2 fun op x l =>
    Int.tdiv (if l < 16 then la true op x l else lb true op x (l - 16)) (2 ^ op.shift.toNat)) ∧
  Performs (.vxn t) t 2 (InLane true 0x18) (lanes t true 2 fun op x l =>
    la false op x (l + if op.hi = 1 then 16 else 0) * 2 ^ op.shift.toNat)

/-- R117, R118, R119: the D generators, for both memories. The access is at the generator's address; a load reaches its
register after one cycle and a store memory after two, and with address modes 0 and 1 the address register moves. -/
def Obligations.GeneratorsComplete : Prop := ∀ (t : TileIx) (y : Bool),
  let gen := fun (b : Bundle) => if y then b.dy else b.dx
  let areg := fun (b : Bundle) (x : Tile) => (if y then x.ayr (gen b).areg.toNat else x.axr (gen b).areg.toNat).toNat
  let mod := fun (b : Bundle) (x : Tile) => x.mr (gen b).mod.toNat
  let off := fun (b : Bundle) (x : Tile) => (if y then 0x80000 else 0) + 16 * (gen b).address (areg b x) (mod b x)
  let move := fun (b : Bundle) (x : Tile) (u : State) =>
    if (gen b).am = 0 ∨ (gen b).am = 1 then
      let v := BitVec.ofNat 16 ((gen b).update (areg b x) (mod b x))
      u.stageWrite t 1 (if y then .ay (gen b).areg.toNat v else .ax (gen b).areg.toNat v)
    else u
  Performs (.dLoad t y) t (if y then 6 else 5) (InD y 0) (fun b u =>
    let v := u.readNum (tileMemBase t + off b (u.tile t)) (16 * (gen b).size)
    let r := (gen b).reg.toNat
    move b (u.tile t) (u.stageWrite t 1 (match (gen b).rf.toNat with
      | 0 => .n r (BitVec.ofNat 512 v)
      | 1 => .w r (BitVec.ofNat 384 (packCodes 24 (codesOf 32 16 v)))
      | _ => .v r (BitVec.ofNat 2048 v)))) ∧
  Performs (.dStore t y) t (if y then 6 else 5) (InD y 1) (fun b u =>
    let x := u.tile t
    let r := (gen b).reg.toNat
    let v := match (gen b).rf.toNat with
      | 0 => (x.nr r).toNat
      | 1 => packLanes 32 (lanesOf 24 16 (x.wr r).toNat)
      | _ => (x.vr r).toNat
    move b x (u.stageWrite t 2 (.store (off b x) (bytesOf (16 * (gen b).size) v))))

/-- R115, R116, R181, R182, R183, R184: the operations of the E slot. -/
def Obligations.ElementOperationsComplete : Prop := ∀ t : TileIx,
  Performs (.ekrun t) t 4 (InE 0x01) (fun b u => (u.startKernel t b.e).getD
    (u.modTile t fun x => { x with issuing := x.issuing.map fun i => { i with kernelBad := true } })) ∧
  Performs (.ewin t) t 4 (InE 0x02) (vResult t 2 fun e u => vOut 32 ((List.range 64).map ((u.tile t).windowLane (e.aux.toNat % 64)))) ∧
  Performs (.eadd t) t 4 (InE 0x03) (vResult t 2 (eachLane t 32 64 fun _ a b _ => int32 (sext 32 a + sext 32 b))) ∧
  Performs (.esub t) t 4 (InE 0x04) (vResult t 2 (eachLane t 32 64 fun _ a b _ => int32 (sext 32 a - sext 32 b))) ∧
  Performs (.emul t) t 4 (InE 0x05) (vResult t 2 (eachLane t 32 64 fun _ a b _ => int32 (sext 32 a * sext 32 b))) ∧
  Performs (.emin t) t 4 (InE 0x06) (vResult t 2 (eachLane t 32 64 fun _ a b _ => plain (if sext 32 b < sext 32 a then b else a))) ∧
  Performs (.emax t) t 4 (InE 0x07) (vResult t 2 (eachLane t 32 64 fun _ a b _ => plain (if sext 32 a < sext 32 b then b else a))) ∧
  Performs (.fadd32 t) t 4 (InE 0x08) (vResult t 4 (eachLane t 32 64 fun rm a b _ => ieee (fAdd fp32 rm a b))) ∧
  Performs (.fmul32 t) t 4 (InE 0x09) (vResult t 4 (eachLane t 32 64 fun rm a b _ => ieee (fMul fp32 rm a b))) ∧
  Performs (.ffma32 t) t 4 (InE 0x0A) (vResult t 4 (eachLane t 32 64 fun rm a b d => ieee (fFma fp32 rm a b d))) ∧
  Performs (.fadd64 t) t 4 (InE 0x0B) (vResult t 6 (eachLane t 64 32 fun rm a b _ => ieee (fAdd fp64 rm a b))) ∧
  Performs (.fmul64 t) t 4 (InE 0x0C) (vResult t 6 (eachLane t 64 32 fun rm a b _ => ieee (fMul fp64 rm a b))) ∧
  Performs (.ffma64 t) t 4 (InE 0x0D) (vResult t 6 (eachLane t 64 32 fun rm a b d => ieee (fFma fp64 rm a b d))) ∧
  Performs (.fdiv32 t) t 4 (InE 0x0E) (vResult t 12 (eachLane t 32 64 fun rm a b _ => ieee (fDiv fp32 rm a b))) ∧
  Performs (.fsqrt32 t) t 4 (InE 0x0F) (vResult t 12 (eachLane t 32 64 fun rm a _ _ => ieee (fSqrt fp32 rm a))) ∧
  Performs (.fdiv64 t) t 4 (InE 0x10) (vResult t 24 (eachLane t 64 32 fun rm a b _ => ieee (fDiv fp64 rm a b))) ∧
  Performs (.fsqrt64 t) t 4 (InE 0x11) (vResult t 24 (eachLane t 64 32 fun rm a _ _ => ieee (fSqrt fp64 rm a))) ∧
  Performs (.ecvt t) t 4 (InE 0x12) (fun b u =>
    let r := ecvt b.e.aux.toNat ((u.tile t).vr b.e.va.toNat)
    let u' := vResult t 3 (fun _ _ => r) b u
    if r.counts = {} then u' else u'.numLog t 3 (u.tile t).pc 0 r.counts 0 0 0) ∧
  Performs (.erq t) t 4 (InE 0x13) (fun b u =>
    let w := (u.tile t).sr (b.e.aux.toNat % 32)
    let r := u.erq t w (b.e.aux.toNat / 32 == 1) ((u.tile t).vr b.e.va.toNat)
    let u' := vResult t 4 (fun _ _ => r) b u
    if r.counts = {} then u' else u'.numLog t 4 (u.tile t).pc 0 r.counts 0 (bits w.toNat 23 12) 0) ∧
  Performs (.elut t) t 4 (InE 0x14) (vResult t 2 fun e u =>
    vOut 32 ((codesOf 32 64 ((u.tile t).vr e.va.toNat).toNat).map fun c => plain (u.reg ELE_LUT t (c % 256)))) ∧
  Performs (.eamax t) t 4 (InE 0x15) (vResult t 6 fun e u =>
    let ls := codesOf 32 64 ((u.tile t).vr e.va.toNat).toNat
    vOut 32 [if e.aux.toNat = 1 then amaxFp ls else amaxInt ls])

/-- R114, R146, R147: the operations of the M slot. -/
def Obligations.MatrixOperationsComplete : Prop := ∀ t : TileIx,
  let queues := fun (b : Bundle) (u : State) => u.modTile t fun x => { x with mq := x.mq ++ [x.mopOf b.m] }.noteIssued (x.mopOf b.m)
  Performs (.mcfg t) t 3 (InM 0x01) queues ∧
  Performs (.mldw t) t 3 (InM 0x02) queues ∧
  Performs (.mmul t) t 3 (InM 0x03) queues ∧
  Performs (.mswap t) t 3 (InM 0x04) (fun _ u => u.modTile t fun x => { x with issuing := x.issuing.map fun i => { i with swap := true } }) ∧
  (∀ (s : State) (i : Issuing) (b : Bundle), i.kernelBad = false → i.skip = none →
    ((s.finishBundle t i b).tile t).activeSet = if i.swap then 1 - (s.tile t).activeSet else (s.tile t).activeSet) ∧
  Performs (.mwait t) t 3 (InM 0x05) (fun _ u => u)

/-- R105, R110, R123: an arithmetic, logic or shift operation, alone in its bundle. -/
def Obligations.ScalarArithmeticResults : Prop :=
  let logic := fun (f : Word → Word → Word) (old a b : Word) => packFlags (f a b == 0) (f a b).msb (old.getLsbD 2) (old.getLsbD 3)
  AluResult .add 0x01 false (· + ·) (fun _ => znAdd) ∧ AluResult .sub 0x02 false (· - ·) (fun _ => znSub) ∧
  AluResult .and 0x03 false (· &&& ·) (logic (· &&& ·)) ∧ AluResult .or 0x04 false (· ||| ·) (logic (· ||| ·)) ∧
  AluResult .xor 0x05 false (· ^^^ ·) (logic (· ^^^ ·)) ∧
  AluResult .sll 0x06 false (fun a b => a <<< (b.toNat % 32)) (logic fun a b => a <<< (b.toNat % 32)) ∧
  AluResult .srl 0x07 false (fun a b => a >>> (b.toNat % 32)) (logic fun a b => a >>> (b.toNat % 32)) ∧
  AluResult .sra 0x08 false (fun a b => a.sshiftRight (b.toNat % 32)) (logic fun a b => a.sshiftRight (b.toNat % 32)) ∧
  AluResult .addi 0x10 true (· + ·) (fun _ => znAdd) ∧ AluResult .andi 0x11 true (· &&& ·) (logic (· &&& ·)) ∧
  AluResult .ori 0x12 true (· ||| ·) (logic (· ||| ·)) ∧ AluResult .xori 0x13 true (· ^^^ ·) (logic (· ^^^ ·)) ∧
  AluResult .slli 0x14 true (fun a b => a <<< (b.toNat % 32)) (logic fun a b => a <<< (b.toNat % 32)) ∧
  AluResult .srli 0x15 true (fun a b => a >>> (b.toNat % 32)) (logic fun a b => a >>> (b.toNat % 32)) ∧
  AluResult .srai 0x16 true (fun a b => a.sshiftRight (b.toNat % 32)) (logic fun a b => a.sshiftRight (b.toNat % 32))

/-- R110, R111, R119, R123: a store by the S slot, alone in its bundle, leaves memory as it is in its own cycle; at the end of
the next cycle the four bytes at its address hold rd and every other byte is as before. -/
def Obligations.ScalarStoreLands : Prop :=
  ∀ (t : TileIx) (y : Bool) (s : State) (b : Bundle), Alone s t b → b.s.o = (if y then 0x23 else 0x22) →
    let a := tileMemBase t + (opA t b s + BitVec.ofNat 32 b.s.imm).toNat + if y then 0x80000 else 0
    ∃ u : State, exec (if y then .sty t else .stx t) s = .next u ∧ (∀ k, u.byte k = s.byte k) ∧
      (∀ k, k < 4 → (u.endCycle t).byte (a + k) = BitVec.ofNat 8 (((s.tile t).sr b.s.rd.toNat).toNat / 256 ^ k % 256)) ∧
      (∀ k, k < a ∨ a + 4 ≤ k → (u.endCycle t).byte k = s.byte k) ∧
      (∀ i, (u.tile t).sr i = (s.tile t).sr i) ∧ (u.tile t).flags = (s.tile t).flags ∧ u.regs = s.regs

/-- R108: an operation that does not execute changes nothing beyond the end of its bundle's cycle. -/
def Obligations.FalsePredicateHasNoEffect : Prop :=
  ∀ (t : TileIx) (s : State) (b : Bundle) (u : State), Turn s t 0 b u → slotExecutes u t 0 = false →
    let fin' : State := (u.markDone t 0).tryFinish t
    (InS 0x01 b → exec (.add t) s = .next fin') ∧ (InS 0x22 b → exec (.stx t) s = .next fin') ∧
    (InS 0x28 b → exec (.br t) s = .next fin') ∧ (InS 0x34 b → exec (.sems t) s = .next fin') ∧
    (InS 0x35 b → exec (.sstart t) s = .next fin') ∧ (InS 0x30 b → exec (.halt t) s = .next fin')

/-- R107: the fields of a bundle and of its slots are recovered from its bits, and no bit of it is dropped. -/
def Obligations.BundleRoundTrip : Prop :=
  (∀ b : Bundle, Bundle.decode b.encode = b) ∧ (∀ w : BitVec 256, (Bundle.decode w).encode = w)

/-! ## Statements: the block -/

/-- One step takes the command at the front of the queue and runs it with the rest; the model's log entry 1 says that an
empty queue idles. -/
def Obligations.StepTakesTheFrontCommand : Prop :=
  (∀ (c : Instr) (rest : List Instr) (s : State), step { s with pending := c :: rest } = exec c { s with pending := rest }) ∧
  (∀ s : State, s.pending = [] → step s = .next s)

/-- A command whose operands are within what its row can carry always completes; one whose operands are not is refused by name.
No command ends in a fault. -/
def Obligations.WellFormedCommandsComplete : Prop :=
  ∀ (c : Instr) (s : State), (c.wf = true → ∃ t, exec c s = .next t) ∧ (c.wf = false → ∃ w, exec c s = .refused (.illFormed w))

/-- R29, R38, R42, R343, R445: what reset leaves of the time, the tile map, the power domains and the partitions; memory that
nothing has written reads 0 (the model's choice for HBM, log entry 5). -/
def Obligations.ResetState : Prop :=
  State.reset.now = 0 ∧ (∀ t : Fin 64, State.reset.fld SYS_TMAP.PTILE t.val = 17 * (t.val / 16) + t.val % 16) ∧
  (∀ d : Fin 82, State.reset.domOn d.val = (d.val == 72 || d.val == 77 || d.val == 78 || d.val == 79 || d.val == 81)) ∧
  (∀ p : Fin 16, State.reset.ptnOn p.val = false) ∧ State.reset.manager = 0 ∧ State.reset.timeOwner = 0 ∧
  (∀ a, State.reset.byte a = 0#8) ∧ Memory.wf State.reset.mem = true ∧ State.reset.regs.wf regReset = true ∧ State.reset.pending = []

/-- R9, R22: The named operations that write memory or registers keep both in their canonical form, whatever they write, and a
byte or register reads back as the last write left it. -/
def Obligations.StoresReadBack : Prop :=
  ∀ (s : State), Memory.wf s.mem = true → s.regs.wf regReset = true →
    (∀ a bs, Memory.wf (s.poke a bs).mem = true ∧ (∀ k, (h : k < bs.length) → (s.poke a bs).byte (a + k) = bs[k]) ∧
      ∀ b, b < a ∨ a + bs.length ≤ b → (s.poke a bs).byte b = s.byte b) ∧
    (∀ lo hi, Memory.wf (s.clearMem lo hi).mem = true ∧ ∀ b, (s.clearMem lo hi).byte b = if lo ≤ b ∧ b < hi then 0#8 else s.byte b) ∧
    (∀ a v, (s.setRegAt a v).regs.wf regReset = true ∧ (s.setRegAt a v).regAt a = v ∧ ∀ b, b ≠ a → (s.setRegAt a v).regAt b = s.regAt b) ∧
    (∀ lo hi, (s.clearRegs lo hi).regs.wf regReset = true ∧
      ∀ b, (s.clearRegs lo hi).regAt b = if lo ≤ b ∧ b < hi then regReset b else s.regAt b)

/-- R9: a plain write of a register changes its RW fields to the written bits, clears a W1C field where a 1 is written, and
leaves every other field as it is. -/
def Obligations.PlainWriteFollowsAccessCodes : Prop :=
  ∀ (s : State) (a v : Nat) (r : RegRow) (i j : Nat), rowAt a = some (r, i, j) → (∀ f ∈ r.rows, f.fld.lo ≤ f.fld.hi ∧ f.fld.hi < 32) →
    (r.rows.Pairwise fun f g => f.fld.hi < g.fld.lo ∨ g.fld.hi < f.fld.lo) →
    ∀ f ∈ r.rows, bits ((s.plainWrite a v).regAt a).toNat f.fld.hi f.fld.lo =
      match f.acc with
      | .rw => bits v f.fld.hi f.fld.lo
      | .w1c => bits (s.regAt a).toNat f.fld.hi f.fld.lo &&& (2 ^ 32 - 1 - bits v f.fld.hi f.fld.lo)
      | _ => bits (s.regAt a).toNat f.fld.hi f.fld.lo

/-! ## Statements: air time (chapter 02) -/

/-- R40, R41: a tick with no step waiting moves the time by NS + FRAC / 2^32 + FADJ / 2^32 ns, with the carries of R40, while
RUN is 1, and the nanoseconds stay below 1,000,000,000; the registers and all other units are as before. The reset increment is
1 + 0x046A_AAAB / 2^32 ns. -/
def Obligations.TickAdvancesTime : Prop :=
  (∀ s : State, s.domOn 77 = true → s.atu.steps = [] →
    let inc : Int := if s.flag ATU_CTL.RUN then
      (s.fld ATU_INCR_NS.NS : Int) * 2 ^ 32 + (s.reg ATU_INCR_FRAC : Int) + (BitVec.ofNat 24 (s.fld ATU_FADJ.FADJ)).toInt else 0
    ∃ t, exec .atuTick s = .next t ∧ (t.now : Int) = ((s.now : Int) + inc) % (2 ^ 48 * 1000000000 * 2 ^ 32) ∧
      t.now = (t.atu.sec.toNat * 1000000000 + t.atu.ns.toNat) * 2 ^ 32 + t.atu.frac.toNat ∧
      t.atu.ns.toNat < 1000000000 ∧ t.regs = s.regs ∧ t.mem = s.mem ∧ t.tiles = s.tiles ∧ t.job = s.job ∧
      t.atu.triggers = s.atu.triggers ∧ t.atu.snaps = s.atu.snaps) ∧
  State.reset.fld ATU_INCR_NS.NS = 1 ∧ State.reset.reg ATU_INCR_FRAC = 0x046AAAAB

/-- R42, R43: a tick that takes a load or a step sets the time to the staged value or moves it, counts the step, resets the
integrator and clears LOCK; a load of more than 999,999,999 ns is refused with SET_ERR. -/
def Obligations.TickTakesOneStep : Prop :=
  ∀ (s : State) (st : ClockStep) (rest : List ClockStep), s.domOn 77 = true → s.atu.steps = st :: rest →
    let u := wrapTime ((s.now : Int) + s.increment)
    ∃ t, exec .atuTick s = .next t ∧ t.atu.steps = rest ∧ t.atu.snaps = s.atu.snaps ∧ t.job.jobs = s.job.jobs ∧ t.flash = s.flash ∧
      match st with
      | .load =>
        t.flag ATU_CTL.SET = false ∧
        if 999999999 < s.fld ATU_SET_NS.NS then
          t.now = u ∧ t.flag ATU_STAT.SET_ERR = true ∧ t.fld ATU_STAT.STEP_CNT = s.fld ATU_STAT.STEP_CNT ∧ t.flag ATU_STAT.TIME_SET = s.flag ATU_STAT.TIME_SET
        else
          t.now = ((s.fld ATU_SET_SEC_HI.SEC_HI * 2 ^ 32 + s.reg ATU_SET_SEC_LO) * 1000000000 + s.fld ATU_SET_NS.NS) * 2 ^ 32 ∧
          t.flag ATU_STAT.TIME_SET = true ∧ t.flag ATU_STAT.LOCK = false ∧ t.atu.integ = 0
      | .move d => t.now = wrapTime ((u : Int) + d) ∧ t.flag ATU_STAT.LOCK = false ∧ t.atu.integ = 0 ∧
          t.fld ATU_STAT.STEP_CNT = min (s.fld ATU_STAT.STEP_CNT + 1) (2 ^ (ATU_STAT.STEP_CNT.hi + 1 - ATU_STAT.STEP_CNT.lo) - 1)

/-- R42, R43, R44, R45, R46, R47, R48, R49, R50, R64: the commands of the time owner and of the time pins. -/
def Obligations.TimeCommandsComplete : Prop := ∀ (p : PtnIx) (s : State),
  (s.domOn 77 = true → p.val = s.timeOwner → s.flag ATU_CTL.SET = false →
    exec (.atuSet p) s = .next ((s.setFld ATU_CTL.SET 1).modAtu fun a => { a with steps := a.steps ++ [.load] })) ∧
  (∀ ns : Word, s.domOn 77 = true → p.val = s.timeOwner →
    exec (.atuStep p ns) s = .next (s.modAtu fun a => { a with steps := a.steps ++ [.move (ns.toInt * 2 ^ 32)] })) ∧
  (s.domOn 77 = true →
    exec (.timeSnapRead p) s = .next (s.modAtu fun a => { a with snaps := a.snaps.put p { sec := a.sec, frac := a.frac } })) ∧
  (∀ (ofs : Word) (taken : Bool), s.domOn 77 = true → p.val = s.timeOwner → s.fld ATU_SERVO_CTL.PHASE_SRC = 1 →
    exec (.atuOfsIn p ofs taken) s = .next (s.phaseSample ofs.toInt taken)) ∧
  (∀ (e : BitVec 8) (taken : Bool), s.domOn 77 = true → s.fld ATU_SERVO_CTL.PHASE_SRC = 2 →
    exec (.ppsInEdge e taken) s = .next (s.phaseSample (nearestOffset (s.edge16 e) 16000000000 (s.fld ATU_PPS_CFG.IN_DLY)) taken)) ∧
  (∀ (e : BitVec 8) (taken : Bool), s.domOn 77 = true → s.fld ATU_SERVO_CTL.PHASE_SRC = 3 → s.flag ATU_SYNC_CFG.LEADER = false →
    exec (.syncInEdge e taken) s = .next (s.phaseSample (nearestOffset (s.edge16 e) 16000000 (s.fld ATU_SYNC_CFG.DLY)) taken)) ∧
  (∀ e : Word, s.domOn 77 = true → s.flag ATU_CTL.RUN = true → s.flag ATU_SERVO_CTL.FREQ_SRC = true →
    s.fld ATU_SERVO_CTL.PHASE_SRC = 0 → s.flag ATU_STAT.HOLDOVER = false →
    exec (.synceGate e) s = .next ((s.modAtu fun a => { a with synceErr := e.toInt }).setFadj (-e.toInt))) ∧
  (s.domOn 77 = true → s.flag ATU_CTL.RUN = true → s.fld ATU_SERVO_CTL.HOLD_TO ≠ 0 → s.fld ATU_SERVO_CTL.PHASE_SRC ≠ 0 →
    s.flag ATU_STAT.HOLDOVER = false → exec .holdoverTimeout s =
      .next ((((s.setFld ATU_STAT.HOLDOVER 1).modAtu fun a => { a with goodRun := 0, badRun := 0 }).setLock false).atuEvent evHoldover 0 [])) ∧
  (s.domOn 77 = true → s.atu.secEdge = true → s.flag ATU_PPS_CFG.OUT_EN = true →
    exec .ppsOutRise s = .next (s.modAtu fun a => { a with ppsOut := true })) ∧
  exec .ppsOutFall s = .next (s.modAtu fun a => { a with ppsOut := false }) ∧
  (s.domOn 77 = true → s.atu.msEdge = true → s.flag ATU_SYNC_CFG.LEADER = true → s.flag ATU_SYNC_CFG.OUT_EN = true →
    exec .syncOutRise s = .next (s.modAtu fun a => { a with syncOut := true })) ∧
  exec .syncOutFall s = .next (s.modAtu fun a => { a with syncOut := false }) ∧
  (s.domOn 77 = true → p.val = s.timeOwner →
    exec (.etsPop p) s = .next (s.modAtu fun a => { a with ets := a.ets.drop 1, etsLatch := a.ets.head? }))

/-- R54, R55, R56, R57, R58: cell timelines and triggers. -/
def Obligations.CellsAndTriggersComplete : Prop := ∀ (p : PtnIx) (s : State), s.domOn 77 = true →
  (∀ (c : Fin 96) (v : Word), p.val = s.timeOwner → s.flag ATU_CELL_CFG.EN c = false →
    let u := (s.setFld ATU_CELL_CFG.ECP (bits v.toNat 30 30) c).setFld ATU_CELL_CFG.MU (bits v.toNat 27 24) c
    let g := u.cellGrid c
    exec (.cellCfgWrite p c v) s = .next
      (if bit v.toNat 31 = true ∧ g.mu ≤ 3 ∧ (g.ecp = true → g.mu = 2) ∧ g.ofs.natAbs < 10000000 then u.setFld ATU_CELL_CFG.EN 1 c else u)) ∧
  (∀ (c : Fin 96) (v : Word), p.val = s.timeOwner → s.flag ATU_CELL_CFG.EN c = true → bit v.toNat 31 = false →
    exec (.cellCfgWrite p c v) s = .next ((s.setFld ATU_CELL_CFG.EN 0 c).cellDisarm c)) ∧
  (∀ i : BitVec 12, s.armError p i.toNat (s.trgStage p) = 0 → exec (.arm p i) s =
    .next ((s.modAtu fun a => { a with triggers := a.triggers.put i.toNat (s.armed p (s.trgStage p)) }).trgErr p 0)) ∧
  (∀ (i : BitVec 12) (e : Nat), s.armError p i.toNat (s.trgStage p) = e → e ≠ 0 → exec (.arm p i) s = .next (s.trgErr p e)) ∧
  (∀ (i : BitVec 12) (g : Trigger), s.ownsTrg p i.toNat = true → s.atu.triggers.find? i.toNat = some g → g.armed = true →
    let g' : Trigger := if g.target ≤ s.now then { g with stopAfter := true } else { g with armed := false }
    exec (.disarm p i) s = .next ((s.modAtu fun a => { a with triggers := a.triggers.put i.toNat g' }).trgErr p 0)) ∧
  (∀ (i : BitVec 12) (g : Trigger), s.ownsTrg p i.toNat = true → s.atu.triggers.find? i.toNat = some g →
    exec (.trgRead p i) s = .next (s.setStage p { w0 := g.w0, w1 := g.w1, w2 := g.w2, w3 := g.w3, stat := BitVec.ofNat 32 g.statWord })) ∧
  (∀ (i : Nat) (g : Trigger), s.flag ATU_CTL.TRG_EN = true → s.flag ATU_CTL.RUN = true → s.atu.firedNow < 16 →
    (s.atu.triggers.rows.find? fun r => decide (s.atu.nextIx ≤ r.1) && r.2.due s.atu.now) = some (i, g) →
    exec .triggerFire s = .next ((s.modAtu fun a =>
      { a with firedNow := a.firedNow + 1, nextIx := i + 1, triggers := a.triggers.put i (s.afterFire g) }).trgAction i g))

/-! ## Statements: rings, jobs and belay commands (chapter 03) -/

/-- R69, R71, R72, R75: rings and their doorbells. A submission tail that passes both checks of R72 becomes the tail; one that
fails sets OVERPOST and raises an event. -/
def Obligations.RingCommandsComplete : Prop := ∀ (p : PtnIx) (s : State),
  (∀ (r : Fin 16) (t : Word), s.flag JOB_SQ_CFG.EN p r = true →
    dist32 t.toNat (s.reg JOB_SQ_HEAD p r) ≤ 2 ^ s.fld JOB_SQ_CFG.LOG2SIZE p r →
    dist32 t.toNat (s.reg JOB_SQ_TAIL p r) ≤ 2 ^ s.fld JOB_SQ_CFG.LOG2SIZE p r → t.toNat ≠ s.reg JOB_SQ_TAIL p r →
    ∃ u, exec (.sqDoorbell p p r t) s = .next u ∧ u.reg JOB_SQ_TAIL p r = t.toNat ∧ u.reg JOB_SQ_HEAD p r = s.reg JOB_SQ_HEAD p r ∧
      u.mem = s.mem ∧ u.tiles = s.tiles ∧ u.job.jobs = s.job.jobs) ∧
  (∀ (r : Fin 16) (t : Word), s.flag JOB_SQ_CFG.EN p r = true →
    ¬(dist32 t.toNat (s.reg JOB_SQ_HEAD p r) ≤ 2 ^ s.fld JOB_SQ_CFG.LOG2SIZE p r ∧
      dist32 t.toNat (s.reg JOB_SQ_TAIL p r) ≤ 2 ^ s.fld JOB_SQ_CFG.LOG2SIZE p r) →
    exec (.sqDoorbell p p r t) s = .next ((s.setFld JOB_SQ_STAT.OVERPOST 1 p r).event evOverpost p r [])) ∧
  (∀ h : Word, s.flag JOB_CQ_CFG.EN p = true →
    dist32 (s.reg JOB_CQ_TAIL p) h.toNat ≤ dist32 (s.reg JOB_CQ_TAIL p) (s.reg JOB_CQ_HEAD p) →
    exec (.cqDoorbell p p h) s = .next ((s.setReg JOB_CQ_HEAD h.toNat p).setFld JOB_CQ_STAT.FULL
      (b2n (decide (2 ^ s.fld JOB_CQ_CFG.LOG2SIZE p ≤ dist32 (s.reg JOB_CQ_TAIL p) h.toNat))) p)) ∧
  (∀ h : Word, s.flag JOB_EQ_CFG.EN p = true →
    dist32 (s.reg JOB_EQ_TAIL p) h.toNat ≤ dist32 (s.reg JOB_EQ_TAIL p) (s.reg JOB_EQ_HEAD p) →
    exec (.eqDoorbell p p h) s = .next ((s.setReg JOB_EQ_HEAD h.toNat p).setFld JOB_EQ_STAT.FULL
      (b2n (decide (2 ^ s.fld JOB_EQ_CFG.LOG2SIZE p ≤ dist32 (s.reg JOB_EQ_TAIL p) h.toNat))) p)) ∧
  (∀ (src : PtnIx) (r : Fin 16) (v : Word), src = p ∨ src.val = s.manager → s.flag JOB_SQ_CFG.EN p r = false →
    bit v.toNat 31 = true → 6 ≤ bits v.toNat 4 0 → bits v.toNat 4 0 ≤ 16 →
    ∃ u, exec (.ringEnable src p ⟨r.val, by omega⟩ v) s = .next u ∧ u.flag JOB_SQ_CFG.EN p r = true ∧ u.reg JOB_SQ_HEAD p r = 0 ∧
      u.reg JOB_SQ_TAIL p r = 0 ∧ u.fld JOB_SQ_CFG.LOG2SIZE p r = bits v.toNat 4 0 ∧ u.mem = s.mem) ∧
  (∀ (src : PtnIx) (r : Fin 16), src = p ∨ src.val = s.manager →
    exec (.fetchFaultClear src p r) s = .next (s.setFld JOB_SQ_STAT.FETCH_FAULT 0 p r))

/-- R61, R74, R79, R80, R81, R82, R88, R90, R91: fetching, dispatching, ending and recording jobs, and registering objects. -/
def Obligations.JobCommandsComplete : Prop := ∀ (p : PtnIx) (s : State),
  (∀ (j : Nat) (x y : Job) (ts : List Nat), s.job? j = some x → x.flag 5 = true → x.launched = false → x.phase ≠ .draining →
    x.launchNs ≤ s.count → let v := ((s.putJob j { x with launched := true }).refresh).modJob j fun x => { x with launchLate := false }
    v.job? j = some y → v.eligible j y = true → v.placing y = .tiles ts → exec (.launchRelease j) s = .next (v.dispatchOn j y ts)) ∧
  (∀ r n : Nat, s.fetchRing p = some (r, n) →
    exec (.descriptorFetch p) s = .next ((s.modJobPtn p fun j => { j with rrRing := r, rrTaken := n }).fetchFrom p r)) ∧
  (∀ (j : Nat) (x : Job) (ts : List Nat),
    (s.firstJob (s.jobList.filter fun r => r.2.ptn == p.val && s.eligible r.1 r.2 && decide (s.placing r.2 ≠ .wait))) = some (j, x) →
    s.placing x = .tiles ts → exec (.jobDispatch p) s = .next (s.dispatchOn j x ts)) ∧
  (∀ (j : Nat) (x : Job), s.job? j = some x → x.missed s.now = true → s.txDue = false → exec (.deadlineExpiry j) s = .next (s.missJob j)) ∧
  (∀ (j : Nat) (x y : Job), s.job? j = some x → x.phase = .draining → x.endTs.isSome = true → s.digestReady j x = true →
    (s.applySignals j x).job? j = some y → (s.applySignals j x).recordTurn j y = true →
    (y.flag 1 = true → y.startTs.isSome = true → ∀ d, (s.applySignals j x).dgt? j = some d → d.compared = true) →
    exec (.jobComplete j) s = .next ((((s.applySignals j x).failedConflict j y).harqOpen y).writeRecord j y)) ∧
  (s.flag JOB_CQ_CFG.IRQ_EN p = true → s.fld JOB_CQ_IRQ.IRQ_TIME p ≠ 0 → (s.jobPtn p).cqSince ≠ 0 →
    s.passed (s.jobPtn p).cqAt (s.fld JOB_CQ_IRQ.IRQ_TIME p * ticksPerUs) = true → exec (.cqIrqTimer p false) s =
    .next (((s.modJobPtn p fun y => { y with cqSince := 0 }).msiReg p 5 (s.reg JOB_CQ_MSI p)).done)) ∧
  (∀ (src : PtnIx) (h : BitVec 12), src = p ∨ src.val = s.manager → s.flag JOB_OT_STAT.BUSY p = false → exec (.otRegister src p h) s =
    .next (((((s.setFld JOB_OT_STAT.BUSY 1 p).setFld JOB_OT_STAT.ERR 0 p).setFld JOB_OT_STAT.INDEX h.toNat p).modJobPtn p fun y =>
      { y with otBusy := some h.toNat, otWait := false }).setObject p h.toNat 1)) ∧
  (∀ (h : Nat), (s.jobPtn p).otBusy = some h → (s.jobPtn p).otWait = false →
    ∀ (e bs : List Byte) (u v w : State), s.vRead p (s.addrOf JOB_OT_BASE_LO JOB_OT_BASE_HI p + 64 * h) 64 = (.ok e, u) →
      (objType e = 1 ∨ objType e = 2) → objectSizeOk e = true → u.vRead p (field e 8 6) (field e 4 4) = (.ok bs, v) →
      v.put p (s.addrOf JOB_OT_BASE_LO JOB_OT_BASE_HI p + 64 * h + 32) (sha256 bs) = (.ok (), w) →
      exec (.otRegisterDone p) s = .next (w.objectEnd p h 0)) ∧
  (∀ (src : PtnIx) (h : BitVec 12) (e : List Byte) (u : State), src = p ∨ src.val = s.manager → s.flag JOB_OT_STAT.BUSY p = false →
    ((s.setFld JOB_OT_STAT.ERR 0 p).setFld JOB_OT_STAT.INDEX h.toNat p).vRead p
      (((s.setFld JOB_OT_STAT.ERR 0 p).setFld JOB_OT_STAT.INDEX h.toNat p).addrOf JOB_OT_BASE_LO JOB_OT_BASE_HI p + 64 * h.toNat) 64 = (.ok e, u) →
    objState e = 2 → exec (.otRetire src p h) s =
      .next (((u.setObject p h.toNat 3).modJobPtn p fun y => { y with retiring := y.retiring ++ [h.toNat] }).freeObjects p))

/-- R93, R94, R95, R96, R98: belay commands and their release. A command is executed from the front of its partition's queue. -/
def Obligations.BelayCommandsComplete : Prop := ∀ (p : PtnIx) (s : State),
  (∀ w : DWord, let c := BelayCmd.ofWord w.toNat none s.now
    1 ≤ c.op → c.op ≤ 5 → c.chip = s.chipId → c.ptn = p.val → exec (.belayEnqueue p p w) s = .next (s.belayAccept p c none)) ∧
  (∀ (c : BelayCmd) (rest : List BelayCmd), (s.jobPtn p).belay = c :: rest → s.belayLocal c = true →
    let u := s.modJobPtn p fun y => { y with belay := rest }
    (c.op = 1 → (bits c.argA 11 8 = 0 ∨ bits c.argA 11 8 = 1 ∧ bits c.argA 3 0 < 8) →
      exec (.stopPort p) s = .next ((u.stopPort p (bits c.argA 11 8) (bits c.argA 3 0) false).belayRan p c [] []
        false (if bits c.argA 11 8 = 1 then [bits c.argA 3 0] else []))) ∧
    (c.op = 2 → exec (.cancelTag p) s = .next
      (let r := u.cancelJobs p fcCancelledBelay fun x =>
        !x.posted && x.tag / 2 ^ bits c.argA 4 0 == c.argB / 2 ^ bits c.argA 4 0;
      r.2.belayRan p c r.1 [] false [])) ∧
    (c.op = 3 → exec (.cancelRing p) s = .next
      (let r := u.cancelJobs p fcCancelledBelay fun x => !x.posted && x.ring == bits c.argA 3 0;
      let q := r.2.cancelPosted p fcCancelledBelay [bits c.argA 3 0];
      q.2.belayRan p c r.1 q.1 false [])) ∧
    (c.op = 4 → exec (.quiesceStreams p) s = .next ((u.setFld JOB_PQ_STAT.QUIESCED 1 p).belayRan p c [] [] true [])) ∧
    (c.op = 5 → exec (.haltPartition p) s = .next
      (let r := (u.setFld JOB_PQ_STAT.HALTED 1 p).cancelJobs p fcPartitionHalted fun x => !x.posted;
      let q := r.2.cancelPosted p fcPartitionHalted (List.range 16);
      let e := forEach (List.range 16) (fun k s => s.stopPort p 0 k true) q.2;
      let y := forEach (List.range 8) (fun k s => s.stopPort p 1 k true) e;
      y.belayRan p c r.1 q.1 true (List.range 8)))) ∧
  (∀ w : BelayWait, ((s.jobPtn p).belayWaits.find? fun w => s.belayReady p w) = some w → w.origin = none → exec (.belayDone p) s =
    .next (let u := (s.modJobPtn p fun y => { y with belayWaits := y.belayWaits.erase w }).setFld JOB_BL_STAT.DONE_SEQ w.seq p;
      u.event evBelayDone p w.seq [w32 u.chipId])) ∧
  (∀ src : PtnIx, src = p ∨ src.val = s.manager → s.belayQueued p 5 = false → exec (.resume src p) s =
    .next (let u := s.setFld JOB_PQ_STAT.HALTED 0 p;
      let v : State := { u with job := { u.job with stops := u.job.stops.filter fun x => !(x.ptn == p.val && x.halt) } };
      v.releaseStopped)) ∧
  (∀ src : PtnIx, src = p ∨ src.val = s.manager → s.belayQueued p 4 = false →
    exec (.unquiesce src p) s = .next (s.setFld JOB_PQ_STAT.QUIESCED 0 p)) ∧
  (p.val = s.manager → ∃ u, exec (.clrStats p) s = .next u ∧ u.reg JOB_BL_MAXLAT = 0 ∧ (∀ q, q < 16 → u.reg JOB_PQ_CNT q = 0) ∧
    u.mem = s.mem ∧ u.job = s.job)

/-! ## Statements: tiles (chapters 04 to 07) -/

/-- R100, R101, R102, R103, R124, R134, R142, R148, R163: tasks, interrupts, the matrix array and the kernels of a tile. -/
def Obligations.TileCommandsComplete : Prop := ∀ (t : TileIx) (s : State),
  (∀ (e : QEntry) (rest : List QEntry), (s.tile t).task = none → s.tileServes t = true → (s.tile t).queue = e :: rest → e.slot = none →
    exec (.taskStart t) s = .next (s.startTask t e.task rest)) ∧
  (∀ (p : PtnIx) (o : Fin 131072) (v : Byte), s.domOn t = true → (s.tile t).state = .idle → ∃ u, exec (.programMemoryWrite p t o v) s = .next u ∧
    u.byte (tileMemBase t + 0x1E0000 + o) = v ∧ (∀ a, a ≠ tileMemBase t + 0x1E0000 + o → u.byte a = s.byte a) ∧
    (u.tile t).loaded = none ∧ u.regs = s.regs) ∧
  (∀ (p : PtnIx) (o : Fin 131072) (v : Byte), s.domOn t = true → (s.tile t).state ≠ .idle →
    exec (.programMemoryWrite p t o v) s = .next (s.event evWriteIgnored p t [w64 (tileMemBase t + (0x1E0000 + o))])) ∧
  (∀ k : Task, (s.tile t).task = some k → (s.tile t).ended = true →
    let u := (((s.drainTile t).retireFences (s.tile t).lastFences).taskTotals t k (s.tile t).stopped).modTile t fun x =>
        { x with state := .idle, task := none, halting := false, stopped := false, preempt := false, sliceEnd := false,
                 fences := [], bound := none, inHandler := false, delay := false, branch := none, paidStall := false,
                 resvWait := none, pend := .empty, insts := ⟨x.insts.rows.map fun r => (r.1, { r.2 with state := .done })⟩ }
    exec (.taskEnd t) s = .next (u.taskDone k.job)) ∧
  (∀ k : Nat, s.domOn t = true → (s.tile t).irqSource = some k → (s.tile t).task.isSome = true →
    (s.tile t).state = .run ∨ (s.tile t).state = .wait → (s.tile t).issuing = none → (s.tile t).halting = false → (s.tile t).ie = true →
    (s.tile t).delay = false → s.preemptDue t = false →
    let v := s.drainTile t
    ∃ u, exec (.interruptEntry t) s = .next u ∧ (u.tile t).epc = BitVec.ofNat 32 (v.tile t).pc ∧ (u.tile t).eflags = (v.tile t).flags ∧
      (u.tile t).pc = (v.tile t).ivec.toNat % 4096 ∧ (u.tile t).cause = BitVec.ofNat 32 k ∧
      (u.tile t).flags = BitVec.ofNat 32 (setBits (v.tile t).flags.toNat 7 4 0) ∧
      (∀ i, i < 32 → (u.tile t).ipend.getLsbD i = ((v.tile t).ipend.getLsbD i && i != k)) ∧ u.mem = v.mem ∧ u.regs = v.regs ∧
      ∀ i, (u.tile t).sr i = (v.tile t).sr i) ∧
  (∀ (b : Bundle) (w : Bool) (m : Moves), s.issues t = true → (s.tile t).issuing = none → (s.tile t).halting = false → Bundle.decode (s.fetch t) = b →
    (s.tile t).staticFault b = none → s.verdict t b = .stall w m → (s.tile t).firstDue m.go ≠ 0 → exec (.resultWrite t) s =
      .next ((s.modTile t fun x => { x.pass ((s.tile t).firstDue m.go) true with
        state := if w then .wait else .run, lossX := 0, lossY := 0 }).endCyclesOf t m.go ((s.tile t).firstDue m.go))) ∧
  (∀ (m : MOp) (rest : List MOp), (s.tile t).mq = m :: rest → m.op = 1 → (s.tile t).running = [] → (s.tile t).loading = [] →
    exec (.matrixDispatch t) s = .next (s.modTile t fun x => { x with mq := rest, fmt := m.fmt, split := m.split, weights := .empty })) ∧
  (∀ (m : MOp) (rest : List MOp), (s.tile t).mq = m :: rest → m.op = 2 → (s.tile t).skips m = false →
    ((s.tile t).wts m.sub).shadow = none → ((s.tile t).loading.any fun k => k.sub == m.sub) = false →
    exec (.matrixDispatch t) s = .next (s.modTile t fun x => { x with mq := rest, loading := x.loading ++ [m] })) ∧
  (∀ (sub : Fin 4) (m : MOp) (a : SubArray), ((s.tile t).loading.find? fun m => m.sub == sub.val) = some m → subArray m.split m.sub = some a →
    m.old.rows = [] →
    let bytes := (List.range (weightRows m.fmt a.w)).flatMap fun u => (List.range 64).flatMap fun i =>
      bytesOf 4 (s.feedWord t m.old 0 (m.base + u) i)
    exec (.mldwComplete t sub) s = .next (s.modTile t fun x =>
      { x with loading := x.loading.filter fun k => k.sub != sub.val,
               weights := x.weights.put sub { x.wts sub with shadow := some { base := m.base, bytes := bytes } } })) ∧
  (∀ (m : MOp) (rest : List MOp), (s.tile t).mq = m :: rest → m.op = 3 → (s.tile t).skips m = false →
    ((s.tile t).loading.any fun k => k.sub == m.sub) = false →
    let w := (s.tile t).wts m.sub
    let blk := if w.shadow.isSome then w.shadow else w.active
    let f := (s.tile t).fill
    exec (.matrixDispatch t) s = .next ((s.endFill t (f - (f &&& (15 - quadsOf m.split m.sub)))).modTile t fun x =>
      { x with mq := rest, weights := x.weights.put m.sub { active := blk, shadow := none }, running := x.running ++ [{ m with block := blk }],
               started := x.started ||| 2 ^ m.sub, fill := x.fill &&& (15 - quadsOf m.split m.sub) })) ∧
  (∀ (sub : Fin 4) (m : MOp) (a : SubArray), ((s.tile t).running.find? fun m => m.sub == sub.val) = some m → subArray m.split m.sub = some a →
    m.old.rows = [] → m.retry = false →
    let u := s.draw.2.incSat ARR_BUSYCYC.CYCLES s.draw.1 t
    let o := mulCompute (u.mulIn t m a 0 0) m.anchor m.add (u.fld ARR_CKTOL.ULP t) ((s.tile t).entry (s.tile t).activeSet)
    (o.ok = true → exec (.mmulComplete t sub false) s = .next (u.mulCommit t m o)) ∧ exec (.mmulComplete t sub true) s = .next (u.mulReplay t sub)) ∧
  (∀ sub : Fin 4, quadsOf (s.tile t).split sub &&& (s.tile t).fill ≠ 0 → ∃ u, exec (.gapFillTimeout t sub) s = .next u ∧
    (u.tile t).fill = (s.tile t).fill - (quadsOf (s.tile t).split sub &&& (s.tile t).fill) ∧ u.mem = s.mem ∧ u.job = s.job)

/-! ## Statements: partitions, tasks and semaphores (chapter 15) -/

/-- R342, R343, R345, R346, R349, R351, R352, R356, R359, R361, R362, R364: the partition unit, its semaphores, stealing,
preemption, cairns and inheritance. -/
def Obligations.PartitionCommandsComplete : Prop := ∀ (t : TileIx) (p : PtnIx) (s : State),
  (∀ v : Word, p.val = s.manager → s.job.ctlLocked = false → exec (.ptnCtlWrite p v) s =
    .next ((({ s with job := { s.job with ctlLocked := true } } : State).setFld PTN_CTL.TIME_OWNER (bits v.toNat 7 4)).setFld PTN_CTL.MGR (bits v.toNat 3 0))) ∧
  (∀ (src : PtnIx) (v : Word), src.val = s.manager → s.ptnOn p = false → exec (.ptnCfgEnable src p v) s =
    .next (((s.setFld PTN_CFG.DEPTH (bits v.toNat 23 20) p).setFld PTN_CFG.MIGR (bits v.toNat 15 0) p).ptnEnable p)) ∧
  (∀ src : PtnIx, src.val = s.manager → s.ptnOn p = true → exec (.ptnCfgDisable src p) s = .next (s.ptnDisable p)) ∧
  (∀ (q v : Nat) (e : QEntry), s.thief t = some q → s.victim q t = some v → (s.stealable q v).getLast? = some e →
    exec (.steal t) s = .next ((s.takeFrom t v e false).incSat CLU_STEALCNT.STEALS 1 (t / 16))) ∧
  (∀ (q v c : Nat) (e : QEntry), s.thief t = some q → s.victim q t = none → s.flag CLU_CTL.XSTEAL_EN (t / 16) = true →
    c = (t / 16 + 1) % 4 → s.domOn (64 + c) = true → s.flag CLU_CTL.XSTEAL_EN c = true → s.farVictim q c = some v →
    ((s.stealable q v).filter fun e => e.task.migratable).getLast? = some e →
    exec (.crossClusterSteal t) s = .next ((s.takeFrom t v e true).incSat CLU_STEALCNT.XSTEALS 1 (v / 16))) ∧
  (s.domOn t = true → s.quantumDue t = true → exec (.quantumExpiry t) s = .next (s.modTile t fun x => { x with preempt := true })) ∧
  (s.domOn t = true → s.preemptDue t = true → ((s.beginDrain t).tile t).drained = false → exec (.preemption t) s = .next (s.beginDrain t)) ∧
  (∀ (k : Task) (j : Nat) (x : Job), s.domOn t = true → s.preemptDue t = false → (s.tile t).task = some k → s.taskJob t = some (j, x) →
    (s.tile t).state = .save → (s.tile t).slot = none → (s.tile t).drained = true → (s.tile t).halting = false →
    exec (.preemption t) s = .next (s.beginSave t k x)) ∧
  (∀ (k : Task) (d j : Nat) (x : Job), s.domOn t = true → (s.tile t).task = some k → (s.tile t).slot = some d → s.taskJob t = some (j, x) →
    (s.tile t).state = .save → (s.tile t).halting = false → ((s.tile t).reqs.any fun r => !r.remote) = false →
    ∀ (u v : State), let b := s.cairnBody x.ptn t (s.tile t)
      b.2.put x.ptn (s.slotAt x.ptn t d + 256) b.1 = (.ok (), u) →
      u.put x.ptn (s.slotAt x.ptn t d) (b.2.cairnHeader t (s.tile t) k x 1 (s.slotSize x.ptn) (crc32c b.1)) = (.ok (), v) →
      ∃ w, exec (.cairnSaveDone t) s = .next w ∧ (w.tile t).task = none ∧
        w.cairns.find? (t.val * 8 + d) = some
          { ptn := x.ptn, ctx := (s.tile t).savedContext { k with inherit := (s.tile t).sliceEnd },
            regs := taskRegs.map (v.taskReg t) } ∧
        w.mem = v.mem) ∧
  (∀ (e : QEntry) (d : Nat) (rest : List QEntry) (x : Job) (bs : List Byte) (u : State), s.domOn t = true → (s.tile t).task = none →
    s.tileServes t = true → (s.tile t).queue = e :: rest → e.slot = some d → s.job? e.task.job = some x →
    let v := (s.setTile t { s.tile t with
      queue := rest, task := some e.task, state := .restore, slot := some d, withheld := false, mismatch := false }).clearTaskRegs t
    v.vRead x.ptn (v.slotAt x.ptn t d) (v.slotSize x.ptn) = (.ok bs, u) →
    exec (.cairnRestore t) s = .next (if field bs 48 4 = crc32c (bs.drop 256) ∧ field bs 52 4 = crc32c (bs.take 52) then u else u.cairnLost t d)) ∧
  (∀ (k : Task) (d j : Nat) (x : Job) (c : Cairn) (bs : List Byte) (u v w : State), s.domOn t = true → (s.tile t).task = some k →
    (s.tile t).slot = some d → s.taskJob t = some (j, x) → (s.tile t).state = .restore → (s.tile t).halting = false →
    s.loadImage t x.ptn k.job (x.program k.fallback).1 k.fallback (x.program k.fallback).2 = (some u, w) →
    u.cairns.find? (t * 8 + d) = some c → u.vRead x.ptn (u.slotAt x.ptn t d) (u.slotSize x.ptn) = (.ok bs, v) →
    exec (.cairnRestoreDone t) s = .next (v.loadCairn t d k x c bs)) ∧
  (∀ src : PtnIx, src.val = s.manager → ∃ u, exec (.cairnFaultClear src p) s = .next u ∧ u.fld PTN_PSTAT.CAIRN_FAULT p = 0 ∧ u.mem = s.mem) ∧
  (∀ (x : Slice) (k : Task), (s.slices.find? fun x => x.waiter == t.val) = some x → s.sliceSpent x = true → s.waitTask x = some k →
    exec (.inheritSliceExpiry t) s = .next ((s.cutSlice x).inheritTimeout k x.sem x.hjob)) ∧
  (∀ (u : Fin 128) (h : Holder), exec (.holdLimitCut true u h) s =
    .next ((s.incSat HBM_CNT3.HOLDCUT 1 (u / 32)).devEvent evHoldCut u [w32 1, w32 h.bank.toNat, w32 h.requester.toNat] ((List.range 16).filter fun p => s.ownsPch p u))) ∧
  (∀ (u : Fin 128) (h : Holder), u.val < 64 → exec (.holdLimitCut false u h) s =
    .next (s.devEvent evHoldCut u [w32 0, w32 h.bank.toNat, w32 h.requester.toNat] (s.tileOwner u).toList)) ∧
  (∀ (c : ClusterIx) (i : Fin 1024) (v : Word), s.semOwner c i = some p.val → s.domOn (64 + c) = true →
    ∃ u, exec (.semWrite p c i v) s = .next u ∧
      u.fld CLU_SEM.VALUE c i = (if s.isMutex c i = true then min (v.toNat % 65536) 1 else v.toNat % 65536) ∧
      u.flag CLU_SEM.HELD c i = false ∧ u.fld CLU_SEM.HOLDER c i = 0 ∧ u.holders.find? (c * 1024 + i) = none ∧ u.mem = s.mem) ∧
  (∀ src : PtnIx, src.val = s.manager → exec (.ptnClrCnt src p) s =
    .next ((((s.setReg PTN_CNT0 0 p).setReg PTN_CNT1 0 p).setReg PTN_INH_NS 0 p).setReg PTN_MAXSAVE 0 p)) ∧
  (∀ (src : PtnIx) (c : ClusterIx), src.val = s.manager → s.domOn (64 + c) = true →
    exec (.cluClrCnt src c) s = .next ((s.setReg CLU_STEALCNT 0 c).setReg CLU_BIVCNT 0 c)) ∧
  (p.val ∈ s.job.closing → ∃ u, exec (.waysWriteBackDone p) s = .next u ∧ u.ptnOn p = false ∧ u.fld PTN_CFG.ERR p = 0 ∧
    (s.mmu.flaws = .empty → u.mem = s.mem) ∧ ∀ l d, u.syc.find? l = some d → bit (s.reg PTN_WAYS p) d.way = false ∨ 16 ≤ d.way)

/-! ## Statements: digests and lockstep (chapter 18) -/

/-- R415, R416, R417, R418, R422, R423, R424: digest areas, digests, the comparison of chunks and the counts. -/
def Obligations.DigestCommandsComplete : Prop := ∀ (p : PtnIx) (s : State),
  (∀ (j : Nat) (x : Job) (u : State), s.allocNext p = some (j, x) → s.flag DGT_SCR_CFG.EN p = true → x.flag 1 = false →
    digestNeed x 0 ≤ 2 ^ s.fld DGT_SCR_CFG.LOG2SIZE p → s.allocate j x (digestNeed x 0) = some u →
    exec (.digestAllocate p) s = .next u) ∧
  (∀ (j : Nat) (x : Job) (d : DgtJob), s.job? j = some x → s.dgt? j = some d → x.phase = .draining → x.endTs.isSome = true →
    x.flag 0 = true → x.status < 0x10 → d.digestDone = false → d.conflict x.inCount x.outCount = none →
    exec (.digestComputeDone j) s =
      .next ((s.putDgt j { d with digestDone := true, digest := some (x.resultDigest d x.inCount x.outCount) }).jobFlag j rfDigestValid)) ∧
  (∀ (j : Nat) (x : Job) (d : DgtJob), s.job? j = some x → s.dgt? j = some d → d.complete = true → d.compared = false →
    exec (.lockstepCompareEnd j) s = .next (s.compareEnd j x d false)) ∧
  (∀ (j : Nat) (x : Job) (d : DgtJob), s.job? j = some x → s.dgt? j = some d → d.endSent = true → d.compared = false →
    s.passed d.endAt (s.ropeTicks x.ptn) = true → exec (.ropeTimeout j) s = .next (s.compareEnd j x d true)) ∧
  (∀ m : HeldPkt, s.dgt.held.find? s.orphan = some m →
    exec .orphanDiscard s = .next (({ s with dgt := { s.dgt with held := s.dgt.held.erase m } } : State).incSat DGT_ORPHAN.COUNT 1)) ∧
  (p.val = s.manager → ∃ u, exec (.dgtClrCnt p) s = .next u ∧ u.reg DGT_ORPHAN = 0 ∧
    (∀ q, q < 16 → u.reg DGT_DCNT q = 0 ∧ u.reg DGT_DIGESTS q = 0 ∧ u.reg DGT_CHUNKS q = 0 ∧ u.reg DGT_RCNT q = 0) ∧
    u.mem = s.mem ∧ u.dgt = s.dgt)

/-! ## Statements: kernels and scale tables (chapters 06 and 07) -/

/-- R163, R165, R174, R175, R179, R188, R192: the rows and the end of a kernel run, the scale tables and the numeric log. -/
def Obligations.KernelCommandsComplete : Prop := ∀ (t : TileIx) (s : State),
  (∀ (r r' : KRun), (s.tile t).krun = some r → r.row < (KDesc.ofWords r.desc).count → ((s.kernelRow t r).tile t).krun = some r' →
    exec (.kernelRow t) s = .next (((s.kernelRow t r).nextPass t r').getD (s.kernelRow t r))) ∧
  (∀ r : KRun, (s.tile t).krun = some r → (KDesc.ofWords r.desc).count ≤ r.row → exec (.kernelRunEnd t) s = .next (s.kernelEnd t r)) ∧
  (∀ (p : PtnIx) (e : BitVec 12) (v : Word), s.domOn t = true → s.ownsTile p t = true → s.ptnOn p = true → (s.tile t).state = .idle →
    exec (.scaleWrite p t e false v) s = .next (s.setReg SCL_LO v.toNat t e.toNat) ∧
    exec (.scaleWrite p t e true v) s = .next (s.setReg SCL_HI (ScaleEntry.ofWords 0 v.toNat).hiWord t e.toNat)) ∧
  (∀ (p : PtnIx) (v : Word), s.domOn t = true → s.ownsTile p t = true → s.ptnOn p = true → ∃ u, exec (.nlogWrWrite p t v) s = .next u ∧
    u.reg TIL_NLOG_WR t = v.toNat ∧ u.flag TIL_NLOG_STAT.FULL t = false ∧ u.fld TIL_NLOG_STAT.LOST t = 0 ∧ u.mem = s.mem ∧ u.tiles = s.tiles)

/-! ## Statements: streams (chapters 09 and 12) -/

/-- R213, R214, R217, R218, R222, R224, R374: the streams of a tile, their lists, requests and responses, fences and the CRC
unit. -/
def Obligations.StreamCommandsComplete : Prop := ∀ (t : TileIx) (s : State),
  (∀ (d : Nat) (i : Inst), s.streamWorks t = true → (s.tile t).activeInsts < 16 → (s.tile t).stopped = false →
    minBy (fun (r : Nat × Inst) => r.2.order) ((s.tile t).insts.rows.filter fun r => r.2.state == .queued) = some (d, i) →
    exec (.instanceActivate t) s = .next (s.modTile t fun x => { x with insts := x.insts.put d { i with state := .active } })) ∧
  (∀ (d : BitVec 8) (i : Inst) (k : Nat) (j : Nat) (x : Job) (bs : List Byte) (u : State), s.streamWorks t = true →
    (s.tile t).insts.find? d.toNat = some i → s.taskJob t = some (j, x) → i.state = .active → (s.tile t).stopped = false →
    i.nextFetch false = some (k, none) → x.suppliedEntry i.listSrc false false = none →
    s.migratedFetch t x.ptn ((i.listBase x false + 32 * (i.first + k)) % 2 ^ 48) = false →
    s.vRead x.ptn ((i.listBase x false + 32 * (i.first + k)) % 2 ^ 48) 32 = (.ok bs, u) →
    exec (.listFetch t d false) s = .next (u.keepEntry t d.toNat k false i (parseEntry bs i.dir false))) ∧
  (∀ (out isOut : Bool) (d : Nat) (i : Inst) (f : Form) (b : Block) (u : State) (ga cache : Nat), s.streamWorks t = true →
    (s.tile t).reqs.length < 256 → s.turn t out = some (d, i, f, isOut) → i.ins.find? f.blk = some b → f.fault = none →
    ((s.tile t).reqs.find? fun r => decide (r.mark = .dropped)) = none →
    s.translate (s.taskPtn t) f.far (isOut || i.dir == 1 || b.kind == 2) = (.ok (ga, cache), u) → u.migratedBad t ga = false →
    b.kind ≠ 2 ∨ atomicTarget ga = true → exec (.streamRequestIssue t out) s = .next (u.issueForm t d i f isOut b ga cache)) ∧
  (∀ (id : Nat) (err : MemErr) (r : SReq) (bs : List Byte) (u : State), s.domOn t = true → s.localReq t id = some r → s.awaitsHost r = false →
    s.streamAccess (s.taskPtn t) r err = (u, .ok bs) → exec (.streamResponse t id err) s = .next (u.answerReq t r 0 bs).drainInbound) ∧
  (∀ (f : Fence) (fs : List Fence), s.domOn t = true → (s.tile t).fences = f :: fs → f.implicit = false → (s.tile t).stopped = false →
    (s.tile t).fenceDone f = true → exec (.fenceRetire t) s = .next ((s.modTile t fun x => { x with fences := fs }).retireFences [f])) ∧
  (∀ (b : CrcBlk) (rest : List CrcBlk), s.domOn t = true → (s.tile t).crcFeed = none → (s.tile t).crcQueue = b :: rest →
    ∃ u, exec (.crcBlockFeed t) s = .next u ∧ u.flag CRC_STAT.FEEDING t = true ∧ (u.tile t).crcFeed = some b ∧ (u.tile t).crcQueue = rest ∧
      u.reg CRC_VALUE t = (if s.flag CRC_CFG.RST t = true then s.reg CRC_INIT t else s.reg CRC_VALUE t) ∧ u.mem = s.mem) ∧
  (∀ b : CrcBlk, s.domOn t = true → (s.tile t).crcFeed = some b → (s.tile t).crcWrites = [] → s.fld CRC_CFG.CMP t = 0 →
    let c := crcCode (s.fld CRC_CFG.POLY t)
    let bs := (List.range b.block.bytes).map fun q =>
      match nearByte b.skew (b.block.nearOf b.nearBase (q / b.block.esize) + (q % b.block.esize : Nat)) with
      | some o => s.byte (tileMemBase t + o)
      | none => 0#8
    let v := crcFeedBits c (s.reg CRC_VALUE t % 2 ^ c.width) (crcBits c bs (s.fld CRC_CFG.TRIM t))
    exec (.crcFeedEnd t) s = .next (((s.setReg CRC_VALUE v t).setFld CRC_STAT.FEEDING 0 t).modTile t fun x => { x with
      crcFeed := none, crcWrites := [], crcPos := if b.last then 0 else b.blk + 1 }))

/-! ## Statements: channel coding and the gather engines (chapters 12 and 14) -/

/-- R277, R281, R283, R288, R291, R293, R296, R299, R305, R306: the decoders, the polar units and the encoders. -/
def Obligations.CodingCommandsComplete : Prop := ∀ (s : State),
  (∀ (d : Fin 16) (j : Nat) (x : Job) (b : CodeBlk), s.codingOn = true → s.flag DEC_CTL.EN = true → s.ldServes d = true →
    s.fld DEC_LMAP.STATE d ≠ 3 → s.coding.ld.find? d = none → s.firstJob (s.ldJobs d) = some (j, x) → s.nextBlock j x = some b →
    let u := s.setCoding { s.coding with again := s.coding.again.filter fun a => a != b,
                                         next := if s.coding.again.contains b then s.coding.next else s.coding.next.put j (b.r + 1) }
    let v := (u.startPiece j x).modJob j fun y => { y with decMask := y.decMask ||| 2 ^ (u.startPiece j x).fld DEC_LMAP.PHYS d }
    exec (.codeBlockDispatch d) s = .next (if b.input.isSome then v.setLd d b else (v.setLd d b).ldRead d b x)) ∧
  (∀ (d : Fin 16) (b : CodeBlk) (x : Job) (llrs : List (List Byte)) (reg : List Byte) (y : List Int × Nat × Nat × Nat), s.coding.ld.find? d = some b →
    s.job? b.job = some x → b.wait = false → b.comb = none → x.phase = .running → b.input = some (llrs, reg) →
    x.combine llrs reg = some y → x.harq = false →
    exec (.harqCombineDone d) s = .next (s.setLd d { b with input := some (llrs, reg), comb := some (y.1, y.2.2.1, y.2.1) })) ∧
  (∀ (d : Fin 16) (b : CodeBlk) (x : Job), s.coding.ld.find? d = some b → s.job? b.job = some x → x.phase = .running → b.wait = false →
    b.comb.isSome = true → exec (.codeBlockEnd d .none) s =
      .next ((s.ldDecoded d b x (if x.model = 0xFFFF then none else some x.weights)).ldBoundary d)) ∧
  (∀ (u : Fin 4) (j : Nat) (x : Job), s.codingOn = true → s.flag DEC_CTL.EN = true → bit (s.fld DEC_STAT.POLAR_RET) u = false →
    s.coding.polar.find? u = none → s.codecJob 4 1 = some (j, x) →
    let v := ((s.takeAgain j).startPiece j x).modJob j fun y => { y with codecMask := y.codecMask ||| 2 ^ u.val }
    exec (.polarDispatch u) s = .next (v.setCoding { v.coding with polar := v.coding.polar.put u { job := j } })) ∧
  (∀ (u : Fin 4) (c : Codec) (x : Job) (llrs : List Byte) (v w : State), s.coding.polar.find? u = some c → s.job? c.job = some x →
    x.phase = .running → c.wait = false → s.vRead x.ptn (x.inBlks.getD 0 (0, 0)).1 (x.inBlks.getD 0 (0, 0)).2 = (.ok llrs, v) →
    let segs := x.uciSegs llrs
    let bits := segs.flatMap fun g => g.bits
    let bytes := packBits ((x.par 4 2 + 7) / 8) (bits.drop (bits.length - x.par 4 2))
    let pass := segs.all fun g => g.pass
    (if pass then v.put x.ptn (x.outBlks.getD 0 (0, 0)).1 bytes else (.ok (), v)) = (.ok (), w) →
    let z := ((if pass then w.codingLeaf c.job x 1 0 bytes else w.jobFlag c.job rfSuppressed).codingLeaf c.job x 0 (x.par 12 4) llrs).modJob
      c.job fun y => { y with classArea := polarArea x segs }
    exec (.polarEnd u .none) s = .next ((z.setCoding { z.coding with polar := z.coding.polar.del u }).taskDone c.job)) ∧
  (∀ (u : Fin 8) (j : Nat) (x : Job), s.codingOn = true → s.flag ENC_CTL.EN = true → bit (s.fld ENC_STAT.RETIRED) u = false →
    s.coding.enc.find? u = none → s.codecJob 5 0 = some (j, x) →
    let v := ((s.takeAgain j).startPiece j x).modJob j fun y => { y with codecMask := y.codecMask ||| 2 ^ (4 + u.val) }
    exec (.encodeDispatch u) s = .next (v.setCoding { v.coding with enc := v.coding.enc.put u { job := j } })) ∧
  (∀ (u : Fin 8) (c : Codec) (x : Job) (bs : List Byte) (v w : State), s.coding.enc.find? u = some c → s.job? c.job = some x →
    x.phase = .running → c.wait = false → s.vRead x.ptn (x.inBlks.getD 0 (0, 0)).1 (x.inBlks.getD 0 (0, 0)).2 = (.ok bs, v) →
    let o := x.outBlks.getD 0 (0, 0)
    let bytes := packBits o.2 (x.encodeBits ((unpackBits bs).take x.parA))
    v.put x.ptn o.1 bytes = (.ok (), w) →
    let z := ((w.codingLeaf c.job x 0 0 bs).codingLeaf c.job x 1 0 bytes).modJob c.job fun y => { y with classArea := x.encodeArea }
    exec (.encodeEnd u .none) s =
      .next (((z.setCoding { z.coding with enc := z.coding.enc.del u }).incSat ENC_CNT.JOBS 1).taskDone c.job)) ∧
  (∀ (p src : PtnIx) (v : Word), src.val = s.manager → s.codingOn = true → (∀ q, q < 16 → q ≠ p.val → s.ded q &&& (v.toNat % 65536) = 0) →
    exec (.decPshareWrite src p v) s =
      .next ((s.setFld DEC_PSHARE.DED (v.toNat % 65536) p).setFld DEC_PSHARE.MAXSH (bits v.toNat 20 16) p)) ∧
  (∀ src : PtnIx, src.val = s.manager → s.codingOn = true →
    exec (.decClrCnt src) s = .next (((s.setReg DEC_CNT0 0).setReg DEC_CNT1 0).setReg DEC_CNT2 0) ∧
    exec (.encClrCnt src) s = .next (s.setReg ENC_CNT 0))

/-- R326, R328, R329, R331, R332, R333, R336, R340: gather jobs, the reads of their rows and the updates of their tables. -/
def Obligations.GatherCommandsComplete : Prop := ∀ (s : State),
  (∀ (p : PtnIx) (j c : Nat) (x : Job), (s.firstJob (s.jobList.filter fun r =>
      r.2.ptn == p && r.2.cls == 6 && s.eligible r.1 r.2 && !(s.gatherEngines r.2).isEmpty)) = some (j, x) →
    minBy s.gathersOn (s.gatherEngines x) = some c →
    exec (.gatherDispatch p) s = .next (((s.dispatched j 1).setGUnit j { clu := c }).gatherStart j { clu := c } x)) ∧
  (∀ (c : ClusterIx) (j : Nat) (u : GUnit) (x : Job), s.domOn (64 + c) = true →
    let v := s.issueRows c 512
    v.gatherTurn c 0 = some (j, u) → v.job? j = some x →
    u.ready = true → u.opened = true → u.todo ≠ [] → u.flight ≠ 0 → v.flag JOB_PQ_STAT.QUIESCED x.ptn = false →
    exec (.rowReadDone c) s =
      .next ((({ v with gather := { v.gather with rr := v.gather.rr.put c j } } : State).poolRow j x u).issueRows c 512)) ∧
  (∀ (c : ClusterIx) (j : Nat) (u : GUnit) (x : Job), s.domOn (64 + c) = true →
    let v := s.issueRows c 512
    v.gatherTurn c 1 = some (j, u) → v.job? j = some x → u.ready = true → exec (.gatherRowUpdate c) s =
      .next ((({ v with gather := { v.gather with rr := v.gather.rr.put c j } } : State).updateRow j x u).issueRows c 512)) ∧
  (∀ (c : ClusterIx) (src : PtnIx), src.val = s.manager → s.domOn (64 + c) = true →
    exec (.gthClrCnt src c) s = .next (((s.setReg GTH_CNT0 0 c).setReg GTH_CNT1 0 c).setReg GTH_CNT2 0 c))

/-! ## Statements: fronthaul and PRACH (chapters 10, 11 and 13) -/

/-- R229, R230, R231, R232, R233, R234, R236, R237, R238, R239, R249, R250: uplink frames, buffers, symbol closes and the
fallback of a job. -/
def Obligations.UplinkCommandsComplete : Prop := ∀ (s : State),
  (∀ (port : PortIx) (frame payload : List Byte) (m : EMsg) (h : UHead) (c a : Nat), s.domOn 74 = true → s.flag FHE_RX_CTL.EN = true →
    frameLenOk frame.length = true → ecpriOf (s.fld FHE_RX_CTL.UDP_PORT) frame = some payload →
    ecpriMessages (payload.length / 4 + 1) payload = some [m] → uHead m.body = some h → s.eaxc m.pcid = some (c, a) →
    s.portStopped 0 port (s.fld FHE_CRX_PTN.PTN c) = false → h.filter = 0 → s.flag FHE_CRX_CFG.EN c = true → s.cellOn c = true →
    let ts := (s.now : Int) - corrUnits (s.reg ATU_PORT_IGR port)
    (s.uPlace c ts h).isSome = true → s.fhHeld + frame.length ≤ fhBufSize →
    exec (.fhRxFrame port frame) s = .next (s.rxMessage c a ts h m m.body.length)) ∧
  (∀ (c : Fin 96) (b : Fin 8) (x : RxCell) (n : Int), s.rxCell? c = some x → x.next.find? b = some n → s.rxOn c = true →
    s.rxOpenAt c n 0 ≤ (s.now : Int) →
    let l := (s.cellGrid c).symsPerSlot
    let nb := nbufOf (s.fld FHE_CRX_CFG.NBUF c)
    let mine := fun (y : RxSlot) => decide (y.slot % (nb : Int) = b)
    let slots := (x.slots.filter fun y => !(mine y && y.closed == l)).map fun y => if mine y then { y with mine := false } else y
    let u := (s.putRxCell c { x with next := x.next.put b (n + nb), slots := insertSlot { slot := n } slots }).rxOverrun c b n
    let v := u.zeroSem (u.fld FHE_CRX_SEM.CLUSTER c) (u.fld FHE_CRX_SEM.FIRST c + b)
    let w := v.rxPut c (v.rxBase c b + v.summaryOff c) (List.replicate 64 0#8)
    exec (.rxBufferAssign c b) s = .next (((w.2.putRxSum c b
      { slot := n, bytes := w.2.summaryLeft c b w.1 (List.replicate 64 0#8) }).refresh).syncRx c)) ∧
  (∀ (c : Fin 96) (x : RxCell) (b : RxSlot), s.rxCell? c = some x →
    (x.slots.find? fun b => decide (b.closed < (s.cellGrid c).symsPerSlot)) = some b → s.rxOn c = true → s.rxCloseAt c b.slot b.closed ≤ (s.now : Int) →
    ∃ u, exec (.symbolClose c) s = .next u ∧ u.fld FHE_CRX_STAT.SYMBOL c = b.closed) ∧
  (∀ (j : Nat) (x : Job), s.job? j = some x → x.cls = 0 → x.phase = .running → x.air.judged = false → s.watermark x ≤ (s.now : Int) →
    x.air.fbDue = false → x.pendMask ≠ 0 →
    exec (.fallbackWatermark j) s = .next ((s.putJob j { x with air := { x.air with
      judged := true, pend := x.pendMask, fbDue := true, path := x.air.path ||| 1 } }).stopTasks j (s.tiles.rows.map fun r => r.1))) ∧
  (∀ (j : Nat) (x : Job), s.job? j = some x → x.phase = .running → x.air.fbDue = true → x.air.fbTs = none → x.air.judged = true →
    s.fbTiles x ≠ [] →
    let ts := s.fbTiles x
    let u := (s.forgetUnits j x).modJob j fun y =>
      { y with air := { y.air with judged := true, fbDue := false, fbTs := some (s.forgetUnits j x).now, pend := y.pendMask },
               nTasks := ts.length, tasksLeft := y.tasksLeft + ts.length, rflags := setFlagBit y.rflags rfFallback }
    exec (.fallbackStart j) s = .next (forEach ((List.range ts.length).zip ts) (fun r s =>
      s.modTile r.2 fun y =>
        { y with queue := insertHead { task := { job := j, index := r.1, fallback := true, migratable := x.migr }, slot := none, head := true } y.queue }) u)) ∧
  (∀ (src : PtnIx) (c : Fin 96) (v : Word), s.domOn 74 = true → src.val = s.fld FHE_CRX_PTN.PTN c → s.flag FHE_CRX_CFG.EN c = false →
    exec (.fheCrxEnable src c v) s = .next ((s.writeReg FHE_CRX_CFG (v.toNat % 2 ^ 31) c).crxEnable c)) ∧
  (∀ src : PtnIx, src.val = s.manager → s.domOn 74 = true → ∃ u, exec (.fheRxClrCnt src) s = .next u ∧ u.reg FHE_RX_DROP0 = 0 ∧
    u.reg FHE_RX_DROP1 = 0 ∧ u.reg FHE_RX_DROP2 = 0 ∧ (∀ n, n < 96 → u.reg FHE_CRX_CNT0 n = 0 ∧ u.reg FHE_CRX_CNT3 n = 0) ∧ u.mem = s.mem)

/-- R309, R311, R312, R313, R314, R315, R316, R319, R323, R324: downlink windows, buffers and messages. -/
def Obligations.DownlinkCommandsComplete : Prop := ∀ (n : Fin 96) (b : Fin 8) (s : State),
  (∀ x : TxBuf, s.txBuf? n b = some x → s.txOn n = true → x.uClosed = 2 ^ (s.cellGrid n).symsPerSlot - 1 →
    let v := if x.cClosed then s else s.endC n b x
    let y := (v.txBuf? n b).getD x
    let u := (v.txOverrun n b y).modTxBuf n b fun _ => { slot := y.slot + nbufOf ((v.txOverrun n b y).fld FHE_CTX_CFG.NBUF n) }
    exec (.txBufferAssign n b) s =
      .next (((u.zeroSem (u.fld FHE_CTX_SEM.CLUSTER n) (u.fld FHE_CTX_SEM.FIRST n + b)).refresh).syncTx n)) ∧
  (∀ x : TxBuf, s.txBuf? n b = some x → s.txOn n = true → x.cOpen = false → s.cOpenAt n x.slot ≤ s.txNow n →
    exec (.cplaneWindowOpen n b) s = .next (((s.modTxBuf n b fun x => { x with cOpen := true }).txServe n (some (b.val, none))).syncTx n)) ∧
  (∀ (x : TxBuf) (sym : Nat), s.txBuf? n b = some x → firstFrom (fun k => !bit x.uOpen k) 0 (s.cellGrid n).symsPerSlot = some sym → s.txOn n = true →
    s.uOpenAt n x.slot sym ≤ s.txNow n →
    exec (.uplaneWindowOpen n b) s = .next (((s.modTxBuf n b fun x => { x with uOpen := x.uOpen ||| 2 ^ sym }).txServe n (some (b.val, some sym))).syncTx n)) ∧
  (s.txOn n = true → (s.txBuf? n b).isSome = true → exec (.txPartReady n b) s = .next (s.txServe n none)) ∧
  (∀ x : TxBuf, s.txBuf? n b = some x → s.txOn n = true → x.cOpen = true → x.cClosed = false → s.cCloseAt n x.slot ≤ s.txNow n →
    exec (.cplaneWindowClose n b) s = .next (s.endC n b x)) ∧
  (∀ (x : TxBuf) (sym : Nat), s.txBuf? n b = some x → firstFrom (fun k => !bit x.uClosed k) 0 (s.cellGrid n).symsPerSlot = some sym →
    s.txOn n = true → s.uCloseAt n x.slot sym ≤ s.txNow n →
    ∃ u, exec (.uplaneWindowClose n b) s = .next u ∧ u.fld FHE_CTX_STAT.SYMBOL n = sym) ∧
  (∀ (src : PtnIx) (v : Word), s.domOn 74 = true → src.val = s.fld FHE_CTX_PTN.PTN n → s.flag FHE_CTX_CFG.EN n = false →
    exec (.fheCtxEnable src n v) s = .next ((s.writeReg FHE_CTX_CFG (v.toNat % 2 ^ 31) n).ctxEnable n)) ∧
  (∀ src : PtnIx, src.val = s.manager → s.domOn 74 = true → ∃ u, exec (.fheTxClrCnt src) s = .next u ∧
    (∀ m, m < 96 → u.reg FHE_CTX_CNT0 m = 0 ∧ u.reg FHE_CTX_CNT1 m = 0 ∧ u.reg FHE_CTX_CNT2 m = 0) ∧ u.mem = s.mem ∧ u.fhe = s.fhe)

/-- R258, R259, R261, R262, R263, R264, R265, R266, R267, R268, R270: PRACH configurations and occasions. -/
def Obligations.PrachCommandsComplete : Prop := ∀ (c : Fin 64) (s : State),
  (∀ (src : PtnIx) (v : Word), s.domOn (domainOf (PRA_CFG_CFG.addr c 0)) = true → src.val = s.praPtn c ∨ src.val = s.manager →
    s.flag PRA_CFG_CFG.EN c = false → exec (.praCfgEnable src c v) s = .next ((s.writeReg PRA_CFG_CFG (v.toNat % 2 ^ 31) c).praEnable c)) ∧
  (∀ (x : PraCfg) (o : Occasion) (v : State), s.pra.find? c = some x → x.next = some o → s.flag PRA_CTL.EN = true → s.praCloseAt c o ≤ (s.now : Int) →
    let d := (x.open'.find? fun d => decide (d.occ = o)).getD { occ := o }
    let k := x.blocks % nbufOf (s.fld PRA_CFG_PAT.NBUF c)
    let u := s.praOverrun c k x
    u.put (u.praPtn c) (u.candAt c k) (s.candBlock c o d (x.srch.isNone || x.lostAt.any fun t => decide (s.praOpenAt c o ≤ (t : Int)))).1 = (.ok (), v) →
    ∃ w, exec (.occasionClose c) s = .next w ∧ w.fld PRA_CFG_STAT.TD c = o.td % 2 ^ (PRA_CFG_STAT.TD.hi + 1 - PRA_CFG_STAT.TD.lo) ∧
      ∃ y, w.pra.find? c = some y ∧ y.blocks = x.blocks + 1 ∧ y.lostAt = x.lostAt) ∧
  (∀ src : PtnIx, src.val = s.manager → s.domOn (domainOf PRA_CTL.base) = true → ∃ u, exec (.praClrCnt src) s = .next u ∧ u.reg PRA_DROP = 0 ∧
    (∀ k, k < 64 → u.reg PRA_CFG_CNT0 k = 0 ∧ u.reg PRA_CFG_CNT1 k = 0) ∧ u.mem = s.mem ∧ u.pra = s.pra)

/-! ## Statements: memory, the MMU and the system cache (chapter 14) -/

/-- R376, R387, R388, R389, R390, R391, R392, R393: stacks, faults and their resolution, invalidations and maintenance. -/
def Obligations.MemoryCommandsComplete : Prop := ∀ (p : PtnIx) (s : State),
  (∀ (q : Fin 128) (temp : BitVec 8) (rate : Fin 3), s.domOn (68 + q / 32) = true →
    let u := (s.settleErrs.setFld HBM_STAT.TEMP temp.toNat (q / 32)).setFld HBM_STAT.RATE rate (q / 32)
    let clear := u.setMmu fun m => { m with postponed := m.postponed.del q }
    exec (.refresh q temp rate ⟨false, none⟩) s = .next clear ∧
    (u.mmu.postponed.getD q 0 < 3 → exec (.refresh q temp rate ⟨true, none⟩) s =
      .next (u.setMmu fun m => { m with postponed := m.postponed.put q (u.mmu.postponed.getD q 0 + 1) })) ∧
    (3 ≤ u.mmu.postponed.getD q 0 → exec (.refresh q temp rate ⟨true, none⟩) s = .next (clear.incSat HBM_CNT2.REVOKES 1 (q / 32)))) ∧
  (∀ k : Fin 4, p.val = s.manager → s.domOn (68 + k) = true → exec (.hbmEnable p k) s = .next (s.setFld HBM_CTL.EN 1 k)) ∧
  (∀ k : Fin 4, s.domOn (68 + k) = true → s.flag HBM_CTL.EN k = true → s.flag HBM_STAT.TRAINED k = false → exec (.hbmTrainDone k true) s =
    .next (((s.setFld HBM_STAT.TRAINED 1 k).setFld HBM_STAT.TRAIN_FAIL 0 k).setFld HBM_STAT.SELF_REFRESH 0 k)) ∧
  (∀ k : Fin 4, p.val = s.manager → s.domOn (68 + k) = true → s.flag HBM_CTL.EN k = true → s.stackUsed k = false →
    ∃ u, exec (.hbmDisable p k) s = .next u ∧ u.flag HBM_CTL.EN k = false ∧ u.flag HBM_STAT.SELF_REFRESH k = true ∧
      u.flag HBM_STAT.TRAINED k = false ∧ u.mem = s.mem) ∧
  (∀ k : Fin 4, p.val = s.manager → s.domOn (68 + k) = true → exec (.hbmClrCnt p k) s =
    .next ((((s.setReg HBM_CNT0 0 k).setReg HBM_CNT1 0 k).setReg HBM_CNT2 0 k).setReg HBM_CNT3 0 k)) ∧
  (∀ (r : FaultRec) (a : Nat), s.faultSlot p = some a →
    (s.mmu.faults.find? fun r => r.ptn == p.val && r.seq.isNone && (!r.wait || decide (s.unresolved p < 256))) = some r →
    ∃ u : State, exec (.mmuFaultRecord p) s = .next (u.faultEvent r ((s.mmu.seqs.getD p 0 + 1) % 65536) false) ∧
      u.reg MMU_FR_TAIL p = (s.reg MMU_FR_TAIL p + 1) % 2 ^ 32 ∧
      (∀ k b, (r.bytes ((s.mmu.seqs.getD p 0 + 1) % 65536) (phaseBit (s.reg MMU_FR_TAIL p) (s.fld MMU_FR_CFG.LOG2SIZE p)))[k]? = some b →
        u.byte (a + k) = b)) ∧
  (∀ (src : PtnIx) (seq : BitVec 16) (r : FaultRec), s.mmuWriter src p = true → s.faultOf p seq.toNat = some r →
    let u : State := { s with mmu := { s.mmu with faults := changeFirst (fun r => r.ptn == p.val && r.seq == some seq.toNat) (fun _ => none) s.mmu.faults } }
    exec (.mmuResolveRetry src p seq) s = .next (forEach r.waiters (fun w s => s.retryWaiter p w) (u.setFld MMU_STAT.ERR 0 p)).drainInbound ∧
    exec (.mmuResolveFail src p seq) s = .next (forEach r.waiters (fun w s => s.failWaiter p w) (u.setFld MMU_STAT.ERR 0 p)).drainInbound) ∧
  (∀ src : PtnIx, s.mmuWriter src p = true → s.flag MMU_STAT.INV_BUSY p = false → ∃ u, exec (.invAll src p) s = .next u ∧
    u.flag MMU_STAT.INV_BUSY p = true ∧ u.fld MMU_STAT.ERR p = 0 ∧ u.mmu.inv.find? p = some none ∧
    u.rootOf p = s.fld MMU_ROOT_LO.ADDR p * 4096 + 2 ^ 32 * s.fld MMU_ROOT_HI.ADDR p ∧ u.mmu.tlb = s.mmu.tlb ∧ u.mem = s.mem) ∧
  (∀ src : PtnIx, s.mmuWriter src p = true → s.flag MMU_STAT.INV_BUSY p = false → ∃ u, exec (.invPage src p) s = .next u ∧
    u.flag MMU_STAT.INV_BUSY p = true ∧ u.fld MMU_STAT.ERR p = 0 ∧ u.mmu.inv.find? p = some (some (s.invPage p)) ∧ u.rootOf p = s.rootOf p ∧
    u.mmu.tlb = s.mmu.tlb ∧ u.mem = s.mem) ∧
  (∀ page : Option Nat, s.mmu.inv.find? p = some page → ∃ u, exec (.invDone p) s = .next u ∧ u.flag MMU_STAT.INV_BUSY p = false ∧
    (∀ va, va < 2 ^ 48 → u.mmu.tlb.find? (tlbKey p va) = if page = none ∨ page = some (va / 4096) then none else s.mmu.tlb.find? (tlbKey p va)) ∧
    (∀ (q : PtnIx) (va : Nat), q ≠ p → va < 2 ^ 48 → u.mmu.tlb.find? (tlbKey q va) = s.mmu.tlb.find? (tlbKey q va)) ∧ u.mem = s.mem) ∧
  (∀ (src : PtnIx) (v : Word), s.mmuWriter src p = true → s.flag MMU_FR_CFG.EN p = false →
    let u := (s.setFld MMU_FR_CFG.EN 0 p).setFld MMU_FR_CFG.LOG2SIZE (bits v.toNat 4 0) p
    let n := 32 * 2 ^ bits v.toNat 4 0
    exec (.frEnable src p v) s = .next
      (if bit v.toNat 31 = true ∧ 6 ≤ bits v.toNat 4 0 ∧ bits v.toNat 4 0 ≤ 12 ∧ isHbm (u.faultRing p) = true ∧
          isHbm (u.faultRing p + n - 1) = true ∧ u.channelsOk p (u.faultRing p) n = true then
        ((u.setFld MMU_FR_CFG.EN 1 p).setReg MMU_FR_HEAD 0 p).setReg MMU_FR_TAIL 0 p else u)) ∧
  (∀ src : PtnIx, src = p ∨ src.val = s.manager → s.mmu.maint = none →
    let u := fun (drop : Bool) =>
      ((s.setMmu fun m => { m with maint := some p.val, maintDrop := drop }).setFld SYC_MAINT.PTN p).setFld SYC_MAINT.BUSY 1
    exec (.writeBack src p) s = .next (u false) ∧ exec (.writeBackInvalidate src p) s = .next (u true)) ∧
  (s.mmu.maint = some p.val → ∃ u, exec .maintDone s = .next u ∧ u.flag SYC_MAINT.BUSY = false ∧ u.mmu.maint = none ∧
    (∀ l d, u.syc.find? l = some d → bit (s.reg PTN_WAYS p) d.way = true → d.way < 16 → s.mmu.maintDrop = false ∧ d.old = none) ∧
    (s.mmu.flaws = .empty → u.mem = s.mem))

/-! ## Statements: Yalelle (chapter 17) -/

namespace Sys2Proof.Claims
open Sys2Proof.Machine

/-- A packet of a type waits at the head of link k at its destination, for this device; its partition's flow is not stopped.
`u` is the state that serves it: the packet taken, its credits owed. -/
structure PacketHere (s : State) (k kind : Nat) (p : Packet) (u : State) : Prop where
  on : s.linksWork = true
  enabled : s.flag YAL_CTL.EN = true
  taken : ∃ r v, (s.takePacket k fun p => p.kind == kind && p.hops == 0 && true) = some (r, v) ∧ r.pkt = p ∧
    u = v.payCredits k p.vc r.flits
  flows : u.ingressStopped k p = false
  hasId : u.fld SYS_CHIPID.ID_SET ≠ 0
  forMe : p.dst = u.chipId

end Sys2Proof.Claims

/-- R396, R397, R398, R399, R401, R405: links, flits and routes. -/
def Obligations.LinkCommandsComplete : Prop := ∀ (k : LinkIx) (src : PtnIx) (s : State), s.domOn 75 = true →
  (src.val = s.manager →
    let v := ({ s with job := { s.job with stops := s.job.stops.filter fun x => !(x.kind == 1 && x.port == k.val && !x.halt) } } : State).releaseStopped
    let cs := (v.linkCredits k).drop 1
    v.flag YAL_LINK_CTL.EN k = false → (cs.take 6).all (· != 0) = true → cs.foldl (· + ·) 0 ≤ 184 →
    exec (.linkEnable src k) s = .next ((v.setFld YAL_LINK_CTL.EN 1 k).setLinkState k linkTrain)) ∧
  (src.val = s.manager → exec (.linkDisable src k) s =
    .next ((s.setFld YAL_LINK_CTL.EN 0 k).setLinkState k linkDown)) ∧
  (∀ (locked : BitVec 4) (peer : Peer), s.linkState k = linkTrain → 3 ≤ popCount (locked.toNat &&& s.lanesOk k) →
    let u := s.setReg YAL_LINK_STAT
      (s.reg YAL_LINK_STAT k % 2 ^ 13 + peer.chip.toNat * 2 ^ 13 + peer.pos * 2 ^ 25 + peer.link * 2 ^ 28 + b2n peer.idSet * 2 ^ 31) k
    let credit := ((List.range 8).zip (u.linkCredits k)).foldl (fun (m : Table Nat) c => m.set (fun _ => 0) c.1 c.2) .empty
    exec (.linkTrainDone k locked peer) s =
      .next (((u.setLink k { u.link k with credit := credit }).linkLanes k (locked.toNat &&& s.lanesOk k)).kick k)) ∧
  (s.linkState k = linkTrain → s.passed (s.link k).since ticksPer100Ms = true → exec (.linkTrainTimeout k) s = .next (s.setLinkState k linkFailed)) ∧
  (src.val = s.manager → s.linkUsable k = true → exec (.retrain src k) s = .next (s.setLinkState k linkRetrain)) ∧
  (∀ locked : BitVec 4, s.linkState k = linkRetrain → 3 ≤ popCount (locked.toNat &&& s.lanesOk k) → s.lanesOk k &&& (15 - (locked.toNat &&& s.lanesOk k)) = 0 →
    let u := s.setFld YAL_LINK_STAT.LANES (locked.toNat &&& s.lanesOk k) k
    let v := u.setLink k { u.link k with replay := (u.link k).replay.map fun f => { f with tries := 0 } }
    exec (.retrainDone k locked) s = .next (((v.linkLanes k (locked.toNat &&& s.lanesOk k)).replayAll k).kick k)) ∧
  (s.linkState k = linkRetrain → s.passed (s.link k).since (40 * ticksPerUs) = true → exec (.retrainTimeout k) s = .next (s.setLinkState k linkFailed)) ∧
  (∀ (flit : List Byte) (fec : BitVec 4), flit.length = 256 → s.linkUsable k = true → (s.fecErrors k fec.toNat).linkUsable k = true →
    exec (.flitReceive k flit fec) s = .next (if field flit 252 4 = crc32c (flit.take 252) then (s.fecErrors k fec.toNat).takeFlit k flit
      else (s.fecErrors k fec.toNat).sendNak k)) ∧
  (∀ (r : RxPkt) (u v : State), s.flag YAL_CTL.EN = true → (s.takePacket k fun p => p.hops != 0) = some (r, u) →
    (u.payCredits k r.pkt.vc r.flits).ingressStopped k r.pkt = false → (u.payCredits k r.pkt.vc r.flits).forwardPacket r.pkt = some v →
    exec (.packetTransit k) s = .next v) ∧
  (∀ (dst : BitVec 12) (v : Word), src.val = s.manager →
    exec (.routeWrite src dst false v) s = .next (s.writeReg YAL_RTE_A v.toNat dst.toNat).retryBelays ∧
    exec (.routeWrite src dst true v) s = .next (s.writeReg YAL_RTE_B v.toNat dst.toNat).retryBelays) ∧
  (src.val = s.manager → ∃ u, exec (.yalClrCnt src) s = .next u ∧ (∀ j, j < 8 → u.reg YAL_LINK_CNT0 j = 0 ∧ u.reg YAL_LINK_CNT1 j = 0) ∧
    (∀ q, q < 16 → u.fld YAL_MQ_STAT.LOST q = 0) ∧ u.mem = s.mem ∧ u.yal = s.yal)

/-- R403, R405, R407, R408, R409, R410: the packets that have reached this device, messages, and requests without an answer. -/
def Obligations.PacketCommandsComplete : Prop := ∀ (k : LinkIx) (s u : State) (p : Packet),
  (∀ v : State, PacketHere s k pkRdReq p u → u.remoteError p.addr (p.len + 1) = none → u.memError p.addr .none = (v, false) →
    (isHbm p.addr = true → v.readFails p.addr (p.len + 1) = false) →
    let w := if isHbm p.addr then v.meetFlaws p.addr (p.len + 1) else v
    exec (.rdReq k .none) s = .next (w.respond (p.reply w.chipId pkRdRsp 0 (w.read p.addr (p.len + 1))))) ∧
  (∀ r : OutReq, PacketHere s k pkRdRsp p u → u.yal.reqs.find? p.tag = some r → r.dst = p.src → p.kind = pkRdRsp →
    exec (.rdRsp k) s = .next (u.closeRequest p.tag r 0 p.data)) ∧
  (∀ (r : RxPkt) (v w z : State), s.linksWork = true → s.flag YAL_CTL.EN = true →
    (s.takePacket k fun p => p.kind == pkWr && p.hops == 0 && !(p.vc == 3 && s.messageAhead k)) = some (r, v) → v.ingressStopped k r.pkt = false →
    isMessage r.pkt.addr (r.pkt.len + 1) = false → w = v.payCredits k r.pkt.vc r.flits → w.fld SYS_CHIPID.ID_SET ≠ 0 → r.pkt.dst = w.chipId →
    w.remoteError r.pkt.addr (r.pkt.len + 1) = none → w.memError r.pkt.addr .none = (z, false) →
    exec (.wr k .none) s = .next ((z.remoteStore r.pkt.addr r.pkt.data).respond (r.pkt.reply z.chipId pkWrAck 0 []))) ∧
  (∀ r : OutReq, PacketHere s k pkWrAck p u → u.yal.reqs.find? p.tag = some r → r.dst = p.src → p.kind = pkWrAck →
    exec (.wrAck k) s = .next (u.closeRequest p.tag r 0 p.data)) ∧
  (∀ (n : Nat) (v : State), PacketHere s k pkAtom p u → atomicSize p.op (p.len + 1) = some n → p.addr % n = 0 → atomicTarget p.addr = true →
    u.remoteError p.addr n = none → u.memError p.addr .none = (v, false) →
    exec (.atom k .none) s = .next ((v.store 0 p.addr (bytesOf n (atomicNew p.op n (v.readNum p.addr n) p.data)) false).respond
      (p.reply v.chipId pkAtomRsp 0 (bytesOf n (v.readNum p.addr n))))) ∧
  (∀ r : OutReq, PacketHere s k pkAtomRsp p u → u.yal.reqs.find? p.tag = some r → r.dst = p.src → p.kind = pkAtomRsp →
    exec (.atomRsp k) s = .next (u.closeRequest p.tag r 0 p.data)) ∧
  (∀ r : OutReq, PacketHere s k pkErrRsp p u → u.yal.reqs.find? p.tag = some r → p.kind = pkErrRsp →
    exec (.errRsp k) s = .next (u.closeRequest p.tag r
      (if r.kind = pkGpoolReq ∧ p.op = 1 then fcGthRemoteDenied else errReports p.op) [])) ∧
  (PacketHere s k pkBelay p u → p.op = 0 → u.flag JOB_PQ_CFG.BL_REMOTE_EN (BelayCmd.ofWord (field p.data 0 8) (some (p.src, p.srcPtn)) u.now).ptn = true →
    1 ≤ (BelayCmd.ofWord (field p.data 0 8) (some (p.src, p.srcPtn)) u.now).op → (BelayCmd.ofWord (field p.data 0 8) (some (p.src, p.srcPtn)) u.now).op ≤ 5 →
    exec (.belay k) s = .next (u.belayAccept (BelayCmd.ofWord (field p.data 0 8) (some (p.src, p.srcPtn)) u.now).ptn
      (BelayCmd.ofWord (field p.data 0 8) (some (p.src, p.srcPtn)) u.now) (some p.tag))) ∧
  (∀ (data bs : List Byte) (v w z : State), PacketHere s k pkGpoolReq p u → u.gatherLong p = (some data, v) → ((GReq.ofBytes data).shards.any fun h => v.portStopped 1 k h.ptn) = false →
    v.poolServe (GReq.ofBytes data) = (.ok bs, w) →
    w.sendLong (p.reply w.chipId pkGpoolRsp 0 bs) = .ok z → exec (.gpoolReq k) s = .next z) ∧
  (∀ (r : OutReq) (data : List Byte) (v : State), PacketHere s k pkGpoolRsp p u → u.yal.reqs.find? p.tag = some r → r.dst = p.src →
    p.kind = pkGpoolRsp → u.gatherLong p = (some data, v) → exec (.gpoolRsp k) s = .next (v.closeRequest p.tag r 0 data)) ∧
  (∀ (r : RxPkt) (v w : State), s.linksWork = true → s.flag YAL_CTL.EN = true →
    (s.takePacket k fun p => p.kind == pkDigest && p.hops == 0 && (s.digestArrive p).isSome) = some (r, v) →
    let u := v.payCredits k r.pkt.vc r.flits
    u.ingressStopped k r.pkt = false → u.fld SYS_CHIPID.ID_SET ≠ 0 → r.pkt.dst = u.chipId → u.digestArrive r.pkt = some w →
    exec (.digest k) s = .next w) ∧
  (∀ (q : PtnIx) (m : HeldMsg) (v w : State), s.waitingMessage q = some m → s.appendMessage q m.rx.pkt m.ts = (some v, w) →
    exec (.messageAppend q) s = .next (v.dropMessage m)) ∧
  (∀ (q : PtnIx) (m : HeldMsg), s.waitingMessage q = some m → s.passed m.came (max 1 (s.fld YAL_TMO.TMO) * ticksPerUs) = true →
    exec (.messageTimeout q) s = .next (((s.dropMessage m).incSat YAL_MQ_STAT.LOST 1 q).refuse m.rx.pkt 1)) ∧
  (∀ (tag : BitVec 16) (r : OutReq), s.yal.reqs.find? tag.toNat = some r → r.due ≤ s.atu.ticks →
    exec (.requestTimeout tag) s = .next (s.closeRequest tag.toNat r fcLinkTimeout [])) ∧
  (∀ (since : Nat) (ps : List (Packet × Nat)), s.yal.belays = (p, since) :: ps → s.passed since ticksPerMs = true →
    exec .belayHoldTimeout s = .next (({ s with yal := { s.yal with belays := ps } } : State).devEvent evBelayHeld 0 [w32 p.dst]))

/-! ## Statements: retirement and the black box (chapter 19) -/

/-- R378, R425, R428, R429, R430, R432, R435, R438, R439, R440, R442, R443: spares, retirement, leaky buckets and the black-box
writer. -/
def Obligations.BlackBoxCommandsComplete : Prop := ∀ (p : PtnIx) (s : State),
  (∀ (k : Fin 8) (i : Nat), i < 256 → s.bbx.levels.wf (fun _ => 0) = true →
    s.passed (s.bbx.leakAt.getD k 0) (s.leakTicks k) = true → ∃ u, exec (.bucketLeak k) s = .next u ∧ u.level k i = s.level k i - 1 ∧
    (∀ j : Fin 8, j ≠ k → u.level j i = s.level j i) ∧ u.mem = s.mem ∧ u.regs = s.regs) ∧
  (∀ (c : ClusterIx) (n : Nat), s.repair.spareFor.find? c = some n →
    exec (.spareCopyDone ⟨c, []⟩) s = .next { s with repair := { s.repair with copied := s.repair.copied.put c true, lost := s.repair.lost.put c [] } }) ∧
  (∀ (c : ClusterIx) (n : Nat) (bad : List (BitVec 12)), s.repair.spareFor.find? c = some n →
    let u : State := { s with repair := { s.repair with copied := s.repair.copied.put c true, lost := s.repair.lost.put c bad } }
    exec (.spareCopyDone ⟨c, bad⟩) s =
      .next (forEach bad (fun e s => s.devEvent evScaleLost n [w32 e.toNat] (s.tileOwner n).toList) u)) ∧
  (∀ t : TileIx, s.fld SYS_TMAP.STATE t = 3 → (s.tile t).task = none → s.repair.spareFor.find? (t / 16) = some t.val →
    s.repair.copied.getD (t / 16) false = true → exec (.tileMove t) s = .next (s.moveToSpare t)) ∧
  (∀ t : TileIx, s.fld SYS_TMAP.STATE t = 3 → (s.tile t).task = none → s.repair.spareFor.find? (t / 16) ≠ some t.val →
    exec (.tileMove t) s = .next (s.goOffline t)) ∧
  (∀ (k : Fin 8) (i : BitVec 8), p.val = s.manager → i.toNat < kindCount k → s.isRetired k i.toNat = false → k.val ≠ kPch →
    exec (.bbxRetire p k i) s = .next (s.retire k i.toNat causeCommanded)) ∧
  (∀ (k : Fin 8) (v : Word), p.val = s.manager → exec (.bktWrite p k v) s =
    .next (({ s with bbx := { s.bbx with leakAt := s.bbx.leakAt.put k s.atu.ticks } } : State).writeReg (bktReg k) v.toNat)) ∧
  (∀ n : Nat, s.bbx.op = some (.page n) → exec .pageProgramDone s = .next (s.opEnds.pageDone n).pumpFlash) ∧
  (∀ n : Nat, s.bbx.op = some (.opening n) → exec .pageProgramDone s = .next (s.opEnds.openingDone n).pumpFlash) ∧
  (s.bbx.live = true → s.bbx.opening = none →
    (s.fld BBX_STAT.LOGEND = 4095 → exec .bankOpen s = .next ({ s with bbx := { s.bbx with opening := some 0 } } : State).pumpFlash) ∧
    (p.val = s.manager → exec (.switch p) s = .next ({ s with bbx := { s.bbx with opening := some 0 } } : State).pumpFlash)) ∧
  (∀ e : BitVec 8, p.val = s.manager → exec (.softwareRecord p e) s = .next
    ((s.setFld BBX_SWCMD.EVENT e.toNat).devEvent (0x0F00 + e.toNat) 0 ((List.range 8).map fun i => w32 ((s.setFld BBX_SWCMD.EVENT e.toNat).reg BBX_SWREC i)))) ∧
  (p.val = s.manager → exec (.bbxClrCnt p) s = .next (s.setReg BBX_CNT 0))

/-! ## Statements: power, clocks and boot (chapters 20 and 21) -/

/-- R445, R446, R447: the power domains go through their states. -/
def Obligations.DomainCommandsComplete : Prop := ∀ (p : PtnIx) (d : Fin 82) (s : State),
  (p.val = s.manager → s.domOn 79 = true → s.power.stop = none → s.domRefusal d true = none → s.domState d = domOff →
    exec (.domainOn p d) s = .next ((s.setFld PWR_DOM_STAT.ERR 0 d).setDom d domPowering)) ∧
  (p.val = s.manager → s.domOn 79 = true → s.power.stop = none → s.domRefusal d false = none → s.domState d = domRun →
    exec (.domainOff p d) s = .next ((s.setFld PWR_DOM_STAT.ERR 0 d).setDom d domDraining)) ∧
  (s.domState d = domDraining → s.domBusy d = false → d.val < 68 → exec (.domainDrainDone d) s = .next (s.setDom d domIsolating)) ∧
  (s.domState d = domIsolating → ((s.loseDomain d).setDom d domOff).flag PWR_DOM_STAT.PENDING_ON d = false →
    exec (.domainIsolateDone d) s = .next ((s.loseDomain d).setDom d domOff).transitionEnded) ∧
  (s.domState d = domPowering → exec (.domainRampDone d) s = .next (s.setDom d domRestoring)) ∧
  (s.domState d = domRestoring → s.flag PWR_DOM_STAT.PENDING_OFF d = false →
    exec (.domainRestoreDone d) s = .next (s.setDom d domRun).transitionEnded)

/-- R448, R449, R450, R451, R452, R453, R454, R455, R456, R457, R458, R512: operating points, supply and temperature, Stop, the
RTC and resets. -/
def Obligations.PowerCommandsComplete : Prop := ∀ (p : PtnIx) (c : ClusterIx) (s : State),
  (∀ r : Fin 4, p.val = s.manager → s.domOn 79 = true →
    exec (.opReq p c r) s = .next ((s.setFld CLK_CL_OP.REQ (if s.boot.calOk then r.val else 3) c).retarget c)) ∧
  (∀ x : OpStep, s.power.steps.find? c = some x →
    let u : State := { s with power := { s.power with idlePll := s.power.idlePll.put c (if x.switched then s.fld CLK_CL_OP.TARGET c else x.target) } }
    exec (.pllLock c) s = .next (u.opAdvance c) ∧
    (s.goesDown c x = false ∨ x.switched = true → exec (.voltageReached c) s =
      .next (s.setStep c { x with reached := true, reachedAt := if x.reached then x.reachedAt else s.atu.ticks })) ∧
    (x.reached = true → s.passed x.reachedAt (s.fld CLK_VSETTLE.US * ticksPerUs) = true → exec (.vsettleExpiry c) s = .next ((s.setStep c { x with settled := true }).opAdvance c))) ∧
  (∀ (ms us10 c0 c1 c2 c3 : BitVec 16), s.domOn 79 = true → 110 * (s.powerLimit) < 100 * us10.toNat →
    let u := s.setFld PWR_STAT.POWER (min ms.toNat 511)
    let low := if 100 * ms.toNat < 95 * s.powerLimit then u.power.below + 1 else 0
    let v : State := { u with power := { u.power with below := low, sinceRaise := min 1000 (u.power.sinceRaise + 1) } }
    exec (.powerEstimate ms us10 c0 c1 c2 c3) s = .next (v.setFld PWR_STAT.FLOORS 0xFF).retargetAll) ∧
  (∀ w : BitVec 16, s.domOn 79 = true → exec (.poutCalibrate w) s = .next { s with power := { s.power with pout := w.toNat } }) ∧
  (∀ (r : Fin 8) (mv : BitVec 16), s.power.sagLow = false → s.sags r mv.toNat = true →
    let u : State := { s with power := { s.power with sagLow := true, sagAt := s.atu.ticks } }
    exec (.sagWarn r mv) s = .next ((u.abandonOpening.devEvent evSagWarn r [w32 mv.toNat]).aplicWire 6 false).pumpFlash.retargetAll) ∧
  (s.power.sagLow = true → s.passed s.power.sagAt (100 * ticksPerUs) = true → exec .sagClear s =
    .next (((({ s with power := { s.power with sagLow := false } } : State).devEvent evSagClear 0 []).aplicWire 6 true).pumpFlash.retargetAll)) ∧
  exec .supplyReset s =
    .next (({ s.draw.2 with boot := { s.boot with railsDown := true } } : State).deviceReset 2 false (s.draw.1 % 2 == 1)) ∧
  exec .supplyRecovery s = .next ({ s with boot := { s.boot with railsDown := false } } : State).leaveReset ∧
  (∀ v : Word, p.val = s.manager → s.domOn 79 = true → 2 ≤ bits v.toNat 3 0 → bits v.toNat 3 0 ≤ 8 → 6 ≤ bits v.toNat 11 8 →
    bits v.toNat 11 8 ≤ 12 → bits v.toNat 3 0 + 2 ≤ bits v.toNat 11 8 →
    exec (.pwrSagWrite p v) s = .next ((s.setFld PWR_SAG.WARN (bits v.toNat 3 0)).setFld PWR_SAG.RST (bits v.toNat 11 8))) ∧
  (∀ (k : BitVec 16) (temp : Word), 100 ≤ temp.toInt → s.power.hot.getD c false = false → exec (.thermWarn c k temp) s =
    .next (({ s with power := { s.power with hot := s.power.hot.put c true } } : State).devEvent evThermWarn k.toNat [w32 (toBits 32 temp.toInt)])) ∧
  (s.power.hot.getD c false = true → ((s.power.thermAt.find? c).all fun t => s.passed t ticksPerMs) = true →
    ∃ u, exec (.thermalFloorStep c true) s = .next u ∧
    u.power.thermal.getD c 0 = min 3 (s.power.thermal.getD c 0 + 1) ∧ u.mem = s.mem) ∧
  (∀ (k : BitVec 16) (temp : Word), 115 ≤ temp.toInt → s.power.tripLow = false → exec (.thermTrip k temp) s =
    .next ((({ s with power := { s.power with tripLow := true } } : State).devEvent evThermTrip k.toNat [w32 (toBits 32 temp.toInt)]).askStop false true)) ∧
  (∀ keep : Bool, p.val = s.manager → s.domOn 79 = true → s.power.stop = none → s.power.stopDue = none →
    exec (.stop p keep) s = .next ((s.setFld PWR_STOP.KEEP (b2n keep)).askStop keep false)) ∧
  (∀ (temp : Word) (cool : Bool) (x : StopState), s.power.stop = some x → x.entered = true → s.flag OAS_CTL.ALARM_EN = true →
    s.power.rtc / 32768 = s.alarmAt → x.thermal = false ∨ temp.toInt < 95 → exec (.rtcWake temp cool) s = .next (s.wake x cool)) ∧
  (∀ (temp : Word) (cool : Bool) (x : StopState), s.power.stop = some x → x.entered = true → x.alarmed = true → temp.toInt < 95 →
    exec (.thermalTripWake temp cool) s = .next (s.wake x cool)) ∧
  (∀ r : Fin 4, r.val = 0 → exec (.clockLoss r) s = .next (s.deviceReset 16)) ∧
  (∀ r : Fin 4, r.val = 1 → s.domOn 79 = true → bit (s.fld CLK_STAT.LOSS) r = false →
    let u := (s.setFld CLK_STAT.LOSS (s.fld CLK_STAT.LOSS ||| 2 ^ r.val)).devEvent evClkLoss r []
    exec (.clockLoss r) s = .next (if u.domOn 77 = true then u.enterHoldover else u)) ∧
  (∀ r : Fin 4, r.val ≠ 0 → bit (s.fld CLK_STAT.LOSS) r = true →
    exec (.clockReturn r) s = .next (s.setFld CLK_STAT.LOSS (s.fld CLK_STAT.LOSS - 2 ^ r.val))) ∧
  (∀ supply trip cool : Bool, ∃ u, exec (.porstFall supply trip true cool) s = .next u ∧ u.boot.porst = false ∧ u.boot.state = 0 ∧
    u.fld OAS_RSTCAUSE.CAUSE = (1 + 2 * b2n supply + 4 * b2n trip) % 2 ^ (OAS_RSTCAUSE.CAUSE.hi + 1 - OAS_RSTCAUSE.CAUSE.lo) ∧ u.pending = s.pending) ∧
  (∀ (grp : Fin 8) (mode : Fin 4), s.boot.porst = false → exec (.porstRise grp mode) s =
    .next (({ s with boot := { s.boot with porst := true, mode := mode.val } } : State).setFld SYS_CHIPID.GRP_POS grp).strapLeader.leaveReset) ∧
  (∀ mode : Fin 4, s.boot.state = 0 → s.boot.pll = false →
    exec (.refclkPllLock mode) s = .next ({ s with boot := { s.boot with pll := true, mode := mode.val } } : State).leaveReset)

/-- R460: the RTC counts 32,768 a second, is read as it was latched and is loaded to a whole second. -/
def Obligations.RtcCounts : Prop := ∀ (p : PtnIx) (s : State),
  (∃ t, exec .rtcTick s = .next t ∧ t.power.rtc = (s.power.rtc + 1) % 2 ^ 63 ∧ t.regs = s.regs ∧ t.mem = s.mem) ∧
  (s.power.rtc < 2 ^ 63 → ∃ t, exec .rtcSubRead s = .next t ∧ t.reg OAS_RTC_SUB = s.power.rtc % 32768 ∧
    t.reg OAS_RTC_LO + 2 ^ 32 * t.reg OAS_RTC_HI = s.power.rtc / 32768 ∧ t.power = s.power ∧ t.mem = s.mem) ∧
  (∀ hi : Word, p.val = s.manager → ∃ t, exec (.rtcLoad p hi) s = .next t ∧
    t.power.rtc = (s.reg OAS_RTC_LO + 2 ^ 32 * (hi.toNat % 65536)) * 32768 ∧ t.reg OAS_RTC_HI = hi.toNat % 65536 ∧ t.reg OAS_RTC_SUB = 0 ∧ t.mem = s.mem) ∧
  (∀ hi : Word, p.val ≠ s.manager → exec (.rtcLoad p hi) s = .next s)

/-- R462, R463, R464, R465, R466, R467, R468, R469, R471, R473, R474, R475: the boot sequence from RESET to RUN, the floors and
the measurements. -/
def Obligations.BootCommandsComplete : Prop := ∀ (p : PtnIx) (s : State),
  (s.boot.state = 1 → s.power.sagLow = false → exec .bootFlash s = .next (s.setBoot 2)) ∧
  (s.boot.state = 1 → s.passed s.boot.since (10 * ticksPerMs) = true → exec .flashTimeout s = .next ((s.setFld SEC_BOOT.FAIL_AT 1).setBoot 10)) ∧
  (∀ n : Nat, s.boot.state = 2 → s.power.sagLow = false → n = field (s.flashRead 0x8008 4) 0 4 → 256 ≤ n → n ≤ 32768 → n % 4 = 0 →
    ∃ u, exec .bootCal s = .next u ∧ u.boot.state = 3 ∧ u.mem = s.mem ∧ u.flash = s.flash ∧
      (calSecret (s.flashRead 0x8000 n) = none → u = s.setBoot 3) ∧
      ((calSecret (s.flashRead 0x8000 n)).isSome = true → u.boot.calOk = true ∧ u.boot.trims = calTrims (s.flashRead 0x8000 n) ∧ u.flag SEC_STAT.CAL_OK = true ∧
        u.reg SEC_CAL_SVN = field (s.flashRead 0x8000 n) 12 4 % 2 ^ 32)) ∧
  (s.boot.state = 3 → s.power.sagLow = false → ∃ u, exec .bootFloors s = .next u ∧ u.boot.state = 4 ∧
    u.reg SEC_IMG_FLOOR = max (if s.floorsHold = true then s.readNum 0x02000004 4 else 0) (if s.boot.calOk = true then s.mirrorFloor 0 else 0) % 2 ^ 32) ∧
  (s.boot.state = 4 → s.power.sagLow = false → ∃ u, exec .bootOwner s = .next u ∧ (s.ownerCopy = none → u = s.bootFail) ∧
    ∀ k : Nat, s.ownerCopy = some k → u.boot.state = 5 ∧ u.boot.debug = bit (field (s.ownerRecord k) 80 4) 0 ∧
      u.reg SEC_OWNER_ID = field (s.ownerRecord k) 12 4 % 2 ^ 32 ∧ u.mem = s.mem) ∧
  (s.boot.state = 5 → s.power.sagLow = false → ∃ u, exec .bootBbx s = .next u ∧ u.boot.state = 6 ∧ u.atu = s.atu ∧ u.sec = s.sec ∧
    u.job.jobs = s.job.jobs) ∧
  (∀ a b : Bool, s.boot.state = 6 → s.power.sagLow = false → s.boot.mode = 3 → exec (.bootImage a b) s = .next (s.setBoot 9)) ∧
  (∀ a b : Bool, s.boot.state = 6 → s.power.sagLow = false → s.boot.mode ≠ 3 →
    let u := if s.boot.mode = 2 then s else s.setReason 0 (s.headerReason 0 a)
    let r := if s.boot.mode = 1 then u else u.setReason 1 (u.headerReason 1 b)
    (r.slotOrder a b = [] → exec (.bootImage a b) s = .next r.bootFail) ∧
    ∀ (i : Nat) (rest : List Nat), r.slotOrder a b = i :: rest →
      let head := r.flashRead (slotBase i) 256
      let body := r.flashRead (slotBase i + 256) (field head 8 4)
      sha256 body = (head.drop 32).take 32 →
      let v := (r.clearMem 0 0x400000).poke 0 body
      let w := ((v.noteTrial i).setFld SEC_BOOT.SLOT i).setReg SEC_SVN (v.slotSvn i)
      exec (.bootImage a b) s =
        .next (((w.setFld SEC_STAT.CONFIRMED 0).setMeas 2 (sha256 (w.flashRead (slotBase i) 256))).setBoot 7)) ∧
  (s.boot.state = 7 → ∃ u, exec .bootRebuild s = .next u ∧ u.boot.state = 8 ∧ u.fld ACI_HART_STAT.STATE 0 = 1) ∧
  (s.secWriter p = true → s.flag SEC_STAT.BUSY = false → ∃ u, exec (.commit p) s = .next u ∧
    u.reg SEC_IMG_FLOOR = max (s.reg SEC_IMG_FLOOR) (s.reg SEC_SVN) ∧ u.reg SEC_OWN_FLOOR = max (s.reg SEC_OWN_FLOOR) (s.reg SEC_OWNER_SEQ) ∧
    u.reg SEC_CAL_FLOOR = max (s.reg SEC_CAL_FLOOR) (s.reg SEC_CAL_SVN)) ∧
  (s.bbx.op = some .floor → exec .commitDone s = .next ((s.opEnds.writeMirror.setFld SEC_STAT.BUSY 0).floorEvent).pumpFlash) ∧
  (s.secWriter p = true → ∃ u, exec (.confirm p) s = .next u ∧ u.flag SEC_STAT.CONFIRMED = true ∧ bit (u.byte 0x02000022).toNat 0 = true ∧
    u.readNum 0x0200003C 4 = crc32c (u.read 0x02000020 28) ∧ ∀ a, a < 0x02000020 ∨ 0x02000040 ≤ a → u.byte a = s.byte a) ∧
  (∀ m : Fin 8, s.secWriter p = true → 4 ≤ m.val → ∃ u, exec (.extend p m) s = .next u ∧
    u.wordBytes SEC_MEAS m 8 = sha256 (s.wordBytes SEC_MEAS m 8 ++ s.wordBytes1 SEC_EXT 8) ∧
    (∀ k, k < 8 → k ≠ m.val → u.wordBytes SEC_MEAS k 8 = s.wordBytes SEC_MEAS k 8) ∧ u.mem = s.mem)

/-- R477, R478, R479: the mailboxes of the security block and its random numbers. -/
def Obligations.SecurityCommandsComplete : Prop := ∀ (p : PtnIx) (s : State), s.domOn 78 = true →
  (s.flag SEC_MB_STAT.BUSY p = false →
    let take := fun (op n : Nat) =>
      let u := ((s.setFld SEC_MB_STAT.BUSY 1 p).setFld SEC_MB_STAT.ERR 0 p).setFld SEC_MB_STAT.PASS 0 p
      ({ u with sec := { u.sec with waiting := u.sec.waiting.put p { ptn := p, op := op, n := n } } } : State).secNext
    (∀ n : Fin 32, n.val ≤ 16 → exec (.attest p p n) s = .next (take 1 n)) ∧ exec (.verify p p) s = .next (take 2 0) ∧
    exec (.derive p p) s = .next (take 3 0)) ∧
  (∀ c : SecCmd, s.sec.serving = some c → c.op = 2 → exec .secDone s = .next ((s.setFld SEC_MB_STAT.PASS
    (b2n (ecdsaVerify (s.mbData c.ptn 0x20 64) (s.mbData c.ptn 0 32) (s.mbData c.ptn 0x60 64))) c.ptn).secEnd c 0)) ∧
  (∀ (c : SecCmd) (k : List Byte), s.sec.serving = some c → c.op = 3 → s.sec.secret = some k → exec .secDone s =
    .next ((forEach (List.range 8) (fun i s => s.setReg SEC_MB_DATA
      (field (hmac (partitionKey k (s.reg SEC_OWNER_ID) c.ptn) (s.mbData c.ptn 0 32)) (4 * i) 4) c.ptn (32 + i)) s).secEnd c 0)) ∧
  (∀ test : Fin 2, s.flag SEC_STAT.TRNG_OK = true → exec (.trngFail test) s =
    .next (((s.setFld SEC_STAT.TRNG_OK 0).setFld SEC_TRNG_STAT.START 1).devEvent evTrngFail 0 [w32 test])) ∧
  (s.flag SEC_STAT.TRNG_OK = false → exec (.trngStartupTest true) s = .next ((s.setFld SEC_STAT.TRNG_OK 1).setFld SEC_TRNG_STAT.START 0))

/-! ## Statements: harts, ports and registers (chapters 01 and 22, and R365-R366) -/

/-- R483, R484, R486, R487, R488, R489: the harts' control, their accesses and their interrupts. -/
def Obligations.HartCommandsComplete : Prop := ∀ (p : PtnIx) (h : HartIx) (s : State),
  (p.val = s.manager → s.domOn (hartDomain h) = true → s.fld ACI_HART_STAT.STATE h = 0 →
    let a := s.fld ACI_HART_RVEC.RVEC h * 4 + 2 ^ 32 * s.fld ACI_HART_RVHI.RVEC h
    exec (.start p h) s = .next (({ s with harts := { s.harts with entry := s.harts.entry.put h a } } : State).setFld ACI_HART_STAT.STATE 1 h)) ∧
  (p.val = s.manager → s.hartRuns h = true → ∃ u, exec (.hartReset p h) s = .next u ∧ u.fld ACI_HART_STAT.STATE h = 0 ∧ u.harts.entry.find? h = none ∧
    u.harts.rsv.find? h = none ∧ (∀ l d, u.harts.dirty.find? l = some d → d.way ≠ h.val) ∧ u.mem = s.mem) ∧
  (∀ (op : CoreOp) (g : BitVec 52) (size : Fin 5) (data : List Byte) (err : CoreErr) (m : MemErr), coreDataOk op size data = true →
    s.hartRuns h = true → s.harts.last.find? h ≠ some .waiting → exec (.coreAccess h op g size data err m) s =
      .next (if chipOf g.toNat ≠ s.chipId then s.coreRemote h (s.hartPtn h) op g.toNat (2 ^ size.val) data
        else s.coreLocal h (s.hartPtn h) op g.toNat (2 ^ size.val) data err m)) ∧
  (∀ (target : HartIx) (f : Fin 16) (v : Word), s.hartRuns h = true → f.val < 9 → f.val ≠ 0 ∨ s.hartPtn h = s.manager → v.toNat < 2048 →
    v.toNat ≠ 0 → s.domOn (hartDomain target) = true → s.fld ACI_HART_STAT.STATE target ≠ 0 →
    ∃ u, exec (.msiWrite h target f v) s = .next u ∧ u.harts.imsic.get (fun _ => false) (imsicKey target f v.toNat) = true ∧
      (∀ k, k ≠ imsicKey target f v.toNat → u.harts.imsic.get (fun _ => false) k = s.harts.imsic.get (fun _ => false) k) ∧
      u.mem = s.mem ∧ u.regs = s.regs) ∧
  (∀ (i : Fin 6) (level : Bool),
    let u : State := { s with harts := { s.harts with wires := s.harts.wires.set wireIdle (i.val + 1) level } }
    let was := s.aplicInput (i.val + 1)
    let is' := u.aplicInput (i.val + 1)
    exec (.aplicSource i level) s = .next (State.aplicDeliver
      (if was = false ∧ is' = true then u.aplicBit aplicIp (i.val + 1) true
       else if is' = false ∧ 6 ≤ u.aplicMode (i.val + 1) then u.aplicBit aplicIp (i.val + 1) false else u)))

/-- R490, R491, R492, R493, R494, R495: the PCIe port. -/
def Obligations.PcieCommandsComplete : Prop := ∀ (fn : Fin 17) (s : State),
  (∀ (rate : Fin 7) (width : Fin 17), s.domOn 76 = true → pcieLinkOk true rate width = true → s.boot.perst = false →
    bit (s.fld CLK_STAT.LOSS) 3 = false → exec (.pcieLinkChange true rate width) s = .next (s.pcieLink true rate width)) ∧
  (∀ (rate : Fin 7) (width : Fin 17), s.domOn 76 = true → pcieLinkOk false rate width = true → s.flag PCI_STAT.UP = true →
    exec (.pcieLinkChange false rate width) s = .next (s.pcieLink false 0 0)) ∧
  (∀ (tlp : Tlp) (err : MemErr) (u : State), s.domOn 76 = true → s.flag PCI_STAT.UP = true → tlp.wf = true → s.pci.held = [] →
    s.serveTlp s.pci.nextId fn tlp err = (u, true) → exec (.pcieInbound fn tlp err) s = .next u.drainInbound) ∧
  (∀ (w : PostedWrite) (ws : List PostedWrite), s.pci.posted = w :: ws → s.flag PCI_STAT.UP = true → exec (.pcieOutbound .posted none) s =
    .next { s with pci := { s.pci with posted := ws }, out := w.out :: s.out }) ∧
  (∀ (t : TileIx) (id : Nat) (r : SReq) (bs : List Byte), bs.length ≤ 4096 → s.hostRead t id = some r → (s.pcieTarget (localOf r.ga)).isSome = true →
    s.flag PCI_STAT.UP = true → exec (.pcieOutbound (.stream t id) (some bs)) s = .next (s.answerReq t r 0 bs)) ∧
  (∀ (h : HartIx) (a n sent : Nat) (bs : List Byte), bs.length ≤ 4096 → s.harts.host.find? h = some (a, n, sent) → (s.pcieTarget a).isSome = true →
    s.flag PCI_STAT.UP = true → exec (.pcieOutbound (.hart h) (some bs)) s = .next (s.hartValue h (ofBytes (fitBytes n bs)))) ∧
  (∀ (t : TileIx) (id : Nat) (r : SReq), s.hostRead t id = some r → s.passed r.sent s.ctoTicks = true →
    exec (.pcieCompletionTimeout (.stream t id)) s = .next (s.answerReq t r fcLinkTimeout [])) ∧
  (∀ (w : PostedWrite) (ws : List PostedWrite) (r : Nat), s.pci.posted = w :: ws → s.flag PCI_STAT.UP = false → s.passed w.came s.ctoTicks = true → w.region = some r →
    let u : State := { s with pci := { s.pci with posted := ws } }
    exec .postedWriteDrop s = .next (u.event evPcieOutDrop (u.fnPtn (u.fld PCI_OB_CFG.FN r)) r [])) ∧
  (∀ v : Fin 2048,
    let f := s.pciFn fn
    let g : PciFn := { f with tbl := f.tbl.set msixReset (4 * v.val + 3) 0 }
    (f.msixOn = true → f.pba.get (fun _ => false) v = true → exec (.msixUnmask fn v) s =
      .next (((s.setPciFn fn g).setPciFn fn { g with pba := g.pba.set (fun _ => false) v false }).sendMsix fn v)) ∧
    (f.msixOn = false ∨ f.pba.get (fun _ => false) v = false → exec (.msixUnmask fn v) s = .next (s.setPciFn fn g))) ∧
  (∀ v : Fin 2048, (s.pciFn fn).msixOn = false → ∃ u, exec (.msixUnmask fn v) s = .next u ∧ (u.pciFn fn).masked v = false ∧ u.mem = s.mem ∧ u.regs = s.regs) ∧
  (s.domOn 76 = true → exec (.flr fn) s = .next (s.flr fn)) ∧
  (s.boot.perst = false → s.boot.state ≠ 0 → s.boot.porst = true → s.power.stop = none →
    let u : State := { s with boot := { s.boot with perst := true } }
    (s.flag PCI_CTL.PERST_RST = true → exec .pciePerst s = .next (u.deviceReset 32)) ∧
    (s.flag PCI_CTL.PERST_RST = false → s.domOn 76 = true → exec .pciePerst s = .next u.pciReset)) ∧
  exec .pciePerstRelease s = .next { s with boot := { s.boot with perst := false } }

/-- R496, R497, R498, R499: the Ethernet ports, their frames and queues. -/
def Obligations.EthernetCommandsComplete : Prop := ∀ (p : PtnIx) (n : PortIx) (s : State), s.domOn 74 = true →
  exec (.ethLinkChange n false) s = .next (s.ethLink n false) ∧
  (s.flag ETH_PORT_CTL.EN n = true → s.portLanes n ≠ [] → ((s.portLanes n).any fun l => s.isRetired kEth l) = false → bit (s.fld CLK_STAT.LOSS) 2 = false →
    exec (.ethLinkChange n true) s = .next (s.ethLink n true)) ∧
  (p.val = s.manager → s.portLanes n ≠ [] → ((s.portLanes n).any fun l => s.isRetired kEth l) = false → ∃ u, exec (.ethPortEnable p n) s = .next u ∧
    u.flag ETH_PORT_CTL.EN n = true ∧ (∀ x, x ∈ u.job.stops ↔ x ∈ s.job.stops ∧ ¬(x.kind = 0 ∧ x.port = n ∧ x.halt = false)) ∧ u.mem = s.mem) ∧
  (∀ frame : List Byte, frameLenOk frame.length = true → s.flag ETH_PORT_CTL.EN n = true → s.flag ETH_PORT_STAT.LINK n = true →
    (s.job.stops.any fun x => x.kind == 0 && x.port == n.val && x.whole) = false → s.fwdEntry n frame = none →
    exec (.ethFrameReceive n frame true) s = .next (s.steer n frame false) ∧
    exec (.ethFrameReceive n frame false) s = .next (s.incSat ETH_PORT_STAT.RX_ERR 1 n)) ∧
  (∀ (prio : Fin 8) (on : Bool), s.flag ETH_PORT_STAT.LINK n = true →
    exec (.pfcReceive n prio on) s = .next (s.setFld ETH_PORT_STAT.PAUSED (setBits (s.fld ETH_PORT_STAT.PAUSED n) prio prio (b2n on)) n)) ∧
  (∀ (q : Fin 32) (r bs : List Byte) (u v : State), s.flag ETH_Q_CFG.EN q = true → s.reg ETH_Q_TXHEAD q ≠ s.reg ETH_Q_TXTAIL q →
    let d := ethAddr (s.reg ETH_Q_TX q) + 32 * (s.reg ETH_Q_TXHEAD q % ringSize (s.fld ETH_Q_CFG.LOG2SIZE q))
    let a := field r 0 6 % 2 ^ 40
    s.accessError d 32 = none → s.readLocal (s.fld ETH_Q_CFG.PTN q) d 32 false = (.ok r, u) → 60 ≤ field r 8 2 → field r 8 2 ≤ 9224 →
    frameMemory a = true → u.accessError a (field r 8 2) = none →
    u.readLocal (s.fld ETH_Q_CFG.PTN q) a (field r 8 2) false = (.ok bs, v) → v.portFree (field r 10 1 % 16) bs = true →
    exec (.ethFrameTransmit (.queue q)) s = .next ((v.sendFrame (field r 10 1 % 16) bs).txAdvance q (bit (field r 11 1) 0))) ∧
  (∀ (f : FwdFrame) (rest : List FwdFrame), s.eth.fwd.getD n [] = f :: rest → s.portFree n f.bytes = true →
    let u := s.sendFrame n (s.residence n f)
    exec (.ethFrameTransmit (.forwarded n)) s = .next (({ u with eth := { u.eth with
      fwd := if rest.isEmpty then u.eth.fwd.del n else u.eth.fwd.put n rest } } : State).flowControl f.ingress (pcpOf f.bytes))) ∧
  (∀ (q : Fin 32) (t : Word), s.ethQWriter p q = true → dist32 t.toNat (s.reg ETH_Q_TXHEAD q) ≤ ringSize (s.fld ETH_Q_CFG.LOG2SIZE q) →
    dist32 t.toNat (s.reg ETH_Q_TXTAIL q) ≤ ringSize (s.fld ETH_Q_CFG.LOG2SIZE q) →
    exec (.ethTxtail p q t) s = .next (s.setReg ETH_Q_TXTAIL t.toNat q))

/-- R9, R36, R304, R500, R501, R502: register writes, the chip id, the counters, the serial ports and the debug port. -/
def Obligations.RegisterCommandsComplete : Prop := ∀ (p : PtnIx) (s : State),
  (∀ id : BitVec 12, (s.flag SYS_CHIPID.ID_SET = false → ∃ u, exec (.sysChipidWrite id) s = .next u ∧ u.chipId = id.toNat ∧
      u.flag SYS_CHIPID.ID_SET = true ∧ u.fld SYS_CHIPID.GRP_POS = s.fld SYS_CHIPID.GRP_POS ∧ u.mem = s.mem) ∧
    (s.flag SYS_CHIPID.ID_SET = true → exec (.sysChipidWrite id) s = .next s)) ∧
  (∀ (a : BitVec 40) (v : Word), a.toNat % 4 = 0 → exec (.registerWrite p a v) s = .next (s.regWrite p false a.toNat v.toNat).drainInbound) ∧
  (∀ t : TileIx, s.domOn t = true → s.tileOwner t = some p.val →
    exec (.arrClrCnt p t) s = .next (((s.setReg ARR_CKCNT 0 t).setReg ARR_BUSYCYC 0 t).setReg ARR_FILLCYC 0 t) ∧
    exec (.eleClrCnt p t) s = .next (s.setReg ELE_RUNCNT 0 t) ∧
    exec (.stmClrCnt p t) s = .next (((s.setReg STM_REQCNT 0 t).setReg STM_MERGED 0 t).setReg STM_RCNT 0 t)) ∧
  (∀ v : Word, p.val = s.manager → s.domOn 79 = true →
    exec (.xspCmd p v) s = .next ((s.plainWrite XSP_CMD.base (setBits v.toNat 31 31 1)).xspIssue p) ∧
    exec (.sbCmd p v) s = .next ((s.plainWrite XSP_SB_CMD.base (setBits v.toNat 31 31 1)).sbIssue p)) ∧
  (∀ (c : XspCmd) (data : List Byte), data.length ≤ 256 → s.bbx.op = some (.xsp c) → c.wr = true →
    exec (.xspDone data) s = .next (((s.opEnds.xspEffect c).setFld XSP_STAT.BUSY 0).aplicPulse 3).pumpFlash) ∧
  (∀ (e : Fin 4) (data : List Byte), data.length ≤ 255 →
    let u := (s.setFld XSP_SB_STAT.BUSY 0).setFld XSP_SB_STAT.ERR e
    exec (.sbDone e data) s = .next (if s.flag XSP_SB_STAT.BUSY = false then s
      else (if e.val = 0 then u.setWindow XSP_SB_DATA (fitBytes (u.fld XSP_SB_CMD.RLEN) data) else u).aplicPulse 2)) ∧
  (∀ (t : TileIx) (off : Fin 0x200000) (data : List Byte), debugOk off true data = true → s.domOn 80 = true →
    s.accessError (tileMemBase t + off) (max 1 data.length) = none →
    exec (.tileDebugAccess t off true data) s = .next (if off.val < 0x1E0000 then s.pokeTile t off data
      else if (s.tile t).state = .idle then s.writeProgram t off data
      else s.event evWriteIgnored ((s.tileOwner t).getD s.manager) t [w64 (tileMemBase t + off)]) ∧
    ∀ d, debugOk off false d = true → exec (.tileDebugAccess t off false d) s = .next s)

/-! ## Statements: rules of the whole block -/

/-- Reset satisfies the invariant of Safety.lean. -/
def Obligations.InvariantHoldsAtReset : Prop := Inv State.reset

/-- The invariant of Safety.lean is kept by every step: whatever command stands at the front of the queue, a state the step
answers has memory, flash, registers and bucket levels in canonical form, the nanoseconds below 1,000,000,000 (R40) and the RTC
within its 48 bits of seconds. -/
def Obligations.EveryStepKeepsTheInvariant : Prop := ∀ s t : State, Inv s → step s = .next t → Inv t

/-- R45: reading SNAP0 answers the nanoseconds and latches seconds and fraction for the reading partition alone; its
SNAP1-SNAP3 then answer the latched tick however the time moves on, and no other partition's snapshot, nor anything else, is
disturbed. -/
def Obligations.SnapshotsAreSeparate : Prop := ∀ (p : PtnIx) (s : State), s.domOn 77 = true →
  ∃ t, exec (.timeSnapRead p) s = .next t ∧ s.rdAtu p 0x40040030 = (s.atu.ns.toNat, t) ∧
    (∀ u : State, u.atu.snaps.getD p ⟨0, 0⟩ = t.atu.snaps.getD p ⟨0, 0⟩ →
      (u.rdAtu p 0x40040034).1 = s.atu.sec.toNat % 2 ^ 32 ∧ (u.rdAtu p 0x40040038).1 = s.atu.sec.toNat / 2 ^ 32 ∧
      (u.rdAtu p 0x4004003C).1 = s.atu.frac.toNat) ∧
    (∀ q : PtnIx, q ≠ p → t.atu.snaps.getD q ⟨0, 0⟩ = s.atu.snaps.getD q ⟨0, 0⟩) ∧
    t.now = s.now ∧ t.regs = s.regs ∧ t.mem = s.mem ∧ t.tiles = s.tiles ∧ t.job = s.job ∧ t.flash = s.flash

/-- R72: a submission tail is taken only if it is at most the ring's size ahead of the head and of the previous tail, a
completion or event head only if it does not pass the tail; a write that fails sets OVERPOST, raises an event and moves no
count. -/
def Obligations.DoorbellsCheckTheirCounts : Prop := ∀ (p : PtnIx) (s : State),
  (∀ (r : Fin 16) (t : Word), s.flag JOB_SQ_CFG.EN p r = true →
    (dist32 t.toNat (s.reg JOB_SQ_HEAD p r) ≤ 2 ^ s.fld JOB_SQ_CFG.LOG2SIZE p r ∧
      dist32 t.toNat (s.reg JOB_SQ_TAIL p r) ≤ 2 ^ s.fld JOB_SQ_CFG.LOG2SIZE p r →
      ∃ u, exec (.sqDoorbell p p r t) s = .next u ∧ u.reg JOB_SQ_TAIL p r = t.toNat ∧
        (∀ a, a ≠ JOB_SQ_TAIL.addr p r → u.regAt a = s.regAt a) ∧ u.mem = s.mem ∧ u.tiles = s.tiles ∧ u.job.jobs = s.job.jobs) ∧
    (¬(dist32 t.toNat (s.reg JOB_SQ_HEAD p r) ≤ 2 ^ s.fld JOB_SQ_CFG.LOG2SIZE p r ∧
      dist32 t.toNat (s.reg JOB_SQ_TAIL p r) ≤ 2 ^ s.fld JOB_SQ_CFG.LOG2SIZE p r) →
      ∃ u, exec (.sqDoorbell p p r t) s = .next u ∧ u = (s.setFld JOB_SQ_STAT.OVERPOST 1 p r).event evOverpost p r [] ∧
        u.reg JOB_SQ_TAIL p r = s.reg JOB_SQ_TAIL p r ∧ u.flag JOB_SQ_STAT.OVERPOST p r = true)) ∧
  (∀ h : Word, s.flag JOB_CQ_CFG.EN p = true →
    (dist32 (s.reg JOB_CQ_TAIL p) h.toNat ≤ dist32 (s.reg JOB_CQ_TAIL p) (s.reg JOB_CQ_HEAD p) →
      ∃ u, exec (.cqDoorbell p p h) s = .next u ∧ u.reg JOB_CQ_HEAD p = h.toNat ∧ u.reg JOB_CQ_TAIL p = s.reg JOB_CQ_TAIL p ∧ u.mem = s.mem) ∧
    (dist32 (s.reg JOB_CQ_TAIL p) (s.reg JOB_CQ_HEAD p) < dist32 (s.reg JOB_CQ_TAIL p) h.toNat →
      ∃ u, exec (.cqDoorbell p p h) s = .next u ∧ (∃ unit, u = (s.setFld JOB_CQ_STAT.OVERPOST 1 p).event evOverpost p unit []) ∧
        u.reg JOB_CQ_HEAD p = s.reg JOB_CQ_HEAD p ∧ u.flag JOB_CQ_STAT.OVERPOST p = true)) ∧
  (∀ h : Word, s.flag JOB_EQ_CFG.EN p = true →
    (dist32 (s.reg JOB_EQ_TAIL p) h.toNat ≤ dist32 (s.reg JOB_EQ_TAIL p) (s.reg JOB_EQ_HEAD p) →
      ∃ u, exec (.eqDoorbell p p h) s = .next u ∧ u.reg JOB_EQ_HEAD p = h.toNat ∧ u.reg JOB_EQ_TAIL p = s.reg JOB_EQ_TAIL p ∧ u.mem = s.mem) ∧
    (dist32 (s.reg JOB_EQ_TAIL p) (s.reg JOB_EQ_HEAD p) < dist32 (s.reg JOB_EQ_TAIL p) h.toNat →
      ∃ u, exec (.eqDoorbell p p h) s = .next u ∧ (∃ unit, u = (s.setFld JOB_EQ_STAT.OVERPOST 1 p).event evOverpost p unit []) ∧
        u.reg JOB_EQ_HEAD p = s.reg JOB_EQ_HEAD p))

/-- R447: a request against the transition in progress is remembered and follows when it ends, one along it forgets the
remembered one, and each arrival in ON or OFF raises DOM_STATE. -/
def Obligations.DomainRequestsWaitForTransitions : Prop := ∀ (p : PtnIx) (d : Fin 82) (s : State),
  (p.val = s.manager → s.domOn 79 = true → s.power.stop = none →
    (s.domRefusal d true = none → s.domState d = domDraining ∨ s.domState d = domIsolating →
      exec (.domainOn p d) s = .next ((s.setFld PWR_DOM_STAT.ERR 0 d).setFld PWR_DOM_STAT.PENDING_ON 1 d)) ∧
    (s.domRefusal d false = none → s.domState d = domPowering ∨ s.domState d = domRestoring →
      exec (.domainOff p d) s = .next ((s.setFld PWR_DOM_STAT.ERR 0 d).setFld PWR_DOM_STAT.PENDING_OFF 1 d)) ∧
    (s.domRefusal d true = none → s.domState d = domPowering ∨ s.domState d = domRestoring →
      exec (.domainOn p d) s = .next ((s.setFld PWR_DOM_STAT.ERR 0 d).setFld PWR_DOM_STAT.PENDING_OFF 0 d)) ∧
    (s.domRefusal d false = none → s.domState d = domDraining ∨ s.domState d = domIsolating →
      exec (.domainOff p d) s = .next ((s.setFld PWR_DOM_STAT.ERR 0 d).setFld PWR_DOM_STAT.PENDING_ON 0 d))) ∧
  (s.domState d = domIsolating → ((s.loseDomain d).setDom d domOff).flag PWR_DOM_STAT.PENDING_ON d = true →
    exec (.domainIsolateDone d) s =
      .next ((((s.loseDomain d).setDom d domOff).setFld PWR_DOM_STAT.PENDING_ON 0 d).setDom d domPowering).transitionEnded) ∧
  (s.domState d = domRestoring → (s.setDom d domRun).flag PWR_DOM_STAT.PENDING_OFF d = true →
    exec (.domainRestoreDone d) s =
      .next (((s.setDom d domRun).setFld PWR_DOM_STAT.PENDING_OFF 0 d).setDom d domDraining).transitionEnded) ∧
  (∀ st, st = domRun ∨ st = domOff → ∃ data owners, s.setDom d st = (s.setFld PWR_DOM_STAT.STATE st d).devEvent evDomState d data owners)

/-- R13-R15: a steal moves one waiting task of the thief's own partition, never a started one, from another tile of its
cluster, or a migratable one from another cluster; nothing else changes but the count of steals. -/
def Obligations.StealsStayInThePartition : Prop := ∀ (t : TileIx) (s : State),
  (∃ u, exec (.steal t) s = .next u ∧ (u = s ∨ ∃ (p v : Nat) (e : QEntry), s.tileOwner t = some p ∧ s.ownsTile p v = true ∧
    v ≠ t.val ∧ v / 16 = t.val / 16 ∧ e ∈ (s.tile v).queue ∧ e.slot = none ∧ (s.job? e.task.job).map (fun j => j.ptn) = some p ∧
    (s.tile t).task = none ∧ (s.tile t).queue = [] ∧ (u.tile t).queue.map (fun q => q.task) = [e.task] ∧
    (u.tile v).queue = (s.tile v).queue.erase e ∧ (∀ k, k ≠ t.val → k ≠ v → u.tile k = s.tile k) ∧ u.mem = s.mem ∧ u.job = s.job ∧
    ∀ a, a ≠ CLU_STEALCNT.addr (t / 16) 0 → u.regAt a = s.regAt a)) ∧
  (∃ u, exec (.crossClusterSteal t) s = .next u ∧ (u = s ∨ ∃ (p v : Nat) (e : QEntry), s.tileOwner t = some p ∧
    v / 16 ≠ t.val / 16 ∧ e ∈ (s.tile v).queue ∧ e.slot = none ∧ (s.job? e.task.job).map (fun j => j.ptn) = some p ∧
    e.task.migratable = true ∧ (s.tile t).task = none ∧ (s.tile t).queue = [] ∧
    (u.tile t).queue.map (fun q => q.task) = [{ e.task with migrated := true }] ∧ (u.tile v).queue = (s.tile v).queue.erase e ∧
    (∀ k, k ≠ t.val → k ≠ v → u.tile k = s.tile k) ∧ u.mem = s.mem ∧ u.job = s.job ∧
    ∀ a, a ≠ CLU_STEALCNT.addr (v / 16) 0 → u.regAt a = s.regAt a))

/-- R342, R371, R372, R340, R391, R411, R443, R460, R504: what only the manager partition may command changes nothing when
another partition commands it. -/
def Obligations.OthersCannotManage : Prop := ∀ (p q : PtnIx) (s : State), p.val ≠ s.manager →
  (∀ v : Word, exec (.ptnCtlWrite p v) s = .next s ∧ exec (.ptnCfgEnable p q v) s = .next s ∧ exec (.pwrSagWrite p v) s = .next s ∧
    exec (.rtcLoad p v) s = .next s) ∧
  exec (.ptnCfgDisable p q) s = .next s ∧ exec (.ptnClrCnt p q) s = .next s ∧
  (∀ d : Fin 82, exec (.domainOn p d) s = .next s ∧ exec (.domainOff p d) s = .next s) ∧
  (∀ (c : ClusterIx) (r : Fin 4), exec (.opReq p c r) s = .next s ∧ exec (.cluClrCnt p c) s = .next s ∧ exec (.gthClrCnt p c) s = .next s) ∧
  (∀ keep : Bool, exec (.stop p keep) s = .next s) ∧
  (∀ st : Fin 4, exec (.hbmEnable p st) s = .next s ∧ exec (.hbmDisable p st) s = .next s ∧ exec (.hbmClrCnt p st) s = .next s) ∧
  (∀ k : LinkIx, exec (.linkEnable p k) s = .next s ∧ exec (.linkDisable p k) s = .next s ∧ exec (.retrain p k) s = .next s) ∧
  (∀ (dst : BitVec 12) (alt : Bool) (v : Word), exec (.routeWrite p dst alt v) s = .next s) ∧
  (∀ h : HartIx, exec (.start p h) s = .next s ∧ exec (.hartReset p h) s = .next s) ∧
  (∀ (k : Fin 8) (i : BitVec 8) (v : Word), exec (.bbxRetire p k i) s = .next s ∧ exec (.bktWrite p k v) s = .next s) ∧
  exec (.switch p) s = .next s ∧ exec (.bbxClrCnt p) s = .next s ∧ exec (.yalClrCnt p) s = .next s

/-- R445: a register of a domain that is not ON takes no write. -/
def Obligations.OffDomainsTakeNoWrites : Prop := ∀ (p : PtnIx) (a : BitVec 40) (v : Word) (s : State),
  s.domOn (domainOf a.toNat) = false → s.pci.held = [] → exec (.registerWrite p a v) s = .next s

/-- R79, R80, R362: a signal adds its count to one semaphore, which stays at 65,535, a mutex at 1, where the sum would pass it;
no other semaphore, and nothing of the air time, the flash or the queue of commands, changes. -/
def Obligations.SignalsSaturate : Prop := ∀ (s : State) (c : ClusterIx) (i : Fin 1024) (n : Nat), s.domOn (64 + c.val) = true →
  (s.signal c i n).fld CLU_SEM.VALUE c i = min (s.fld CLU_SEM.VALUE c i + n) (if s.isMutex c i then 1 else 65535) ∧
  (∀ (k : ClusterIx) (j : Fin 1024), (k, j) ≠ (c, i) → (s.signal c i n).reg CLU_SEM k j = s.reg CLU_SEM k j) ∧
  (s.signal c i n).atu = s.atu ∧ (s.signal c i n).flash = s.flash ∧ (s.signal c i n).pending = s.pending

/-- R36: the first write of SYS_CHIPID.ID locks it until the next reset; every reset of the device returns ID and ID_SET to 0
and keeps GRP_POS, which is latched at a rising edge of PORST_N. -/
def Obligations.ChipIdIsLockedByItsFirstWrite : Prop := ∀ s : State,
  (∀ id : BitVec 12, s.flag SYS_CHIPID.ID_SET = false → ∃ u, exec (.sysChipidWrite id) s = .next u ∧ u.fld SYS_CHIPID.ID = id.toNat ∧
    u.flag SYS_CHIPID.ID_SET = true ∧ u.fld SYS_CHIPID.GRP_POS = s.fld SYS_CHIPID.GRP_POS ∧
    (∀ a, a ≠ SYS_CHIPID.base → u.regAt a = s.regAt a) ∧ u.mem = s.mem ∧ u.tiles = s.tiles ∧ u.job = s.job) ∧
  (∀ id : BitVec 12, s.flag SYS_CHIPID.ID_SET = true → exec (.sysChipidWrite id) s = .next s) ∧
  (∀ (cause : Nat) (keepHbm : Bool), (s.deviceReset cause keepHbm).fld SYS_CHIPID.ID = 0 ∧
    (s.deviceReset cause keepHbm).flag SYS_CHIPID.ID_SET = false ∧
    (s.deviceReset cause keepHbm).fld SYS_CHIPID.GRP_POS = s.fld SYS_CHIPID.GRP_POS) ∧
  (∀ (grp : Fin 8) (mode : Fin 4), s.boot.porst = false → ∃ u, exec (.porstRise grp mode) s = .next u ∧ u.fld SYS_CHIPID.GRP_POS = grp.val)

/-- R88, R398, R405, R410, R422, R425, R449, R452, R464, R493: what a rule lets happen once a time has passed does not happen
before: such a command, given too early by the model's count of ticks, changes nothing. (log 165) -/
def Obligations.TimedCommandsWait : Prop := ∀ s : State,
  (∀ p : PtnIx,
    (s.passed (s.jobPtn p).cqAt (s.fld JOB_CQ_IRQ.IRQ_TIME p * ticksPerUs) = false → exec (.cqIrqTimer p false) s = .next s) ∧
    (s.passed (s.jobPtn p).eqAt (s.fld JOB_EQ_IRQ.IRQ_TIME p * ticksPerUs) = false → exec (.cqIrqTimer p true) s = .next s) ∧
    (∀ m : HeldMsg, s.waitingMessage p = some m → s.passed m.came (max 1 (s.fld YAL_TMO.TMO) * ticksPerUs) = false →
      exec (.messageTimeout p) s = .next s)) ∧
  (∀ (j : Nat) (x : Job) (d : DgtJob), s.job? j = some x → s.dgt? j = some d → s.passed d.endAt (s.ropeTicks x.ptn) = false →
    exec (.ropeTimeout j) s = .next s) ∧
  ((s.dgt.held.all fun h => !s.orphan h) = true → exec .orphanDiscard s = .next s) ∧
  (∀ k : LinkIx,
    (s.passed (s.link k).since ticksPer100Ms = false → exec (.linkTrainTimeout k) s = .next s) ∧
    (s.passed (s.link k).since (40 * ticksPerUs) = false → exec (.retrainTimeout k) s = .next s)) ∧
  (∀ (tag : BitVec 16) (r : OutReq), s.yal.reqs.find? tag.toNat = some r → s.atu.ticks < r.due →
    exec (.requestTimeout tag) s = .next s) ∧
  (∀ (p : Packet) (since : Nat) (ps : List (Packet × Nat)), s.yal.belays = (p, since) :: ps → s.passed since ticksPerMs = false →
    exec .belayHoldTimeout s = .next s) ∧
  (∀ (t : TileIx) (id : Nat) (r : SReq), s.hostRead t id = some r → s.passed r.sent s.ctoTicks = false →
    exec (.pcieCompletionTimeout (.stream t id)) s = .next s) ∧
  (∀ (w : PostedWrite) (ws : List PostedWrite), s.pci.posted = w :: ws → s.passed w.came s.ctoTicks = false →
    exec .postedWriteDrop s = .next s) ∧
  (∀ k : Fin 8, s.passed (s.bbx.leakAt.getD k 0) (s.leakTicks k) = false → exec (.bucketLeak k) s = .next s) ∧
  (∀ (c : ClusterIx) (x : OpStep), s.power.steps.find? c = some x → s.passed x.reachedAt (s.fld CLK_VSETTLE.US * ticksPerUs) = false →
    exec (.vsettleExpiry c) s = .next s) ∧
  (s.passed s.power.sagAt (100 * ticksPerUs) = false → exec .sagClear s = .next s) ∧
  (s.passed s.boot.since (10 * ticksPerMs) = false → exec .flashTimeout s = .next s)
end

