-- ==== Sys2Proof/Laws/Dispatch.lean ====
section
/-! SUPPORT. Every arm of `exec`, as an equation: a command is its meaning. -/
namespace Sys2Proof.Machine

@[simp] theorem exec_atuTick (s : State) : exec (.atuTick) s = execAtuTick s := rfl
@[simp] theorem exec_atuSet (p : PtnIx) (s : State) : exec (.atuSet p) s = execAtuSet p s := rfl
@[simp] theorem exec_atuStep (p : PtnIx) (ns : Word) (s : State) : exec (.atuStep p ns) s = execAtuStep p ns s := rfl
@[simp] theorem exec_timeSnapRead (p : PtnIx) (s : State) : exec (.timeSnapRead p) s = execTimeSnapRead p s := rfl
@[simp] theorem exec_atuOfsIn (p : PtnIx) (ofs : Word) (taken : Bool) (s : State) : exec (.atuOfsIn p ofs taken) s = execAtuOfsIn p ofs taken s := rfl
@[simp] theorem exec_ppsInEdge (ofs16 : BitVec 8) (taken : Bool) (s : State) : exec (.ppsInEdge ofs16 taken) s = execPpsInEdge ofs16 taken s := rfl
@[simp] theorem exec_syncInEdge (ofs16 : BitVec 8) (taken : Bool) (s : State) : exec (.syncInEdge ofs16 taken) s = execSyncInEdge ofs16 taken s := rfl
@[simp] theorem exec_synceGate (err : BitVec 32) (s : State) : exec (.synceGate err) s = execSynceGate err s := rfl
@[simp] theorem exec_holdoverTimeout (s : State) : exec (.holdoverTimeout) s = execHoldoverTimeout s := rfl
@[simp] theorem exec_ppsOutRise (s : State) : exec (.ppsOutRise) s = execPpsOutRise s := rfl
@[simp] theorem exec_ppsOutFall (s : State) : exec (.ppsOutFall) s = execPpsOutFall s := rfl
@[simp] theorem exec_syncOutRise (s : State) : exec (.syncOutRise) s = execSyncOutRise s := rfl
@[simp] theorem exec_syncOutFall (s : State) : exec (.syncOutFall) s = execSyncOutFall s := rfl
@[simp] theorem exec_cellCfgWrite (p : PtnIx) (cell : Fin 96) (value : Word) (s : State) : exec (.cellCfgWrite p cell value) s = execCellCfgWrite p cell value s := rfl
@[simp] theorem exec_arm (p : PtnIx) (index : BitVec 12) (s : State) : exec (.arm p index) s = execArm p index s := rfl
@[simp] theorem exec_disarm (p : PtnIx) (index : BitVec 12) (s : State) : exec (.disarm p index) s = execDisarm p index s := rfl
@[simp] theorem exec_trgRead (p : PtnIx) (index : BitVec 12) (s : State) : exec (.trgRead p index) s = execTrgRead p index s := rfl
@[simp] theorem exec_triggerFire (s : State) : exec (.triggerFire) s = execTriggerFire s := rfl
@[simp] theorem exec_etsPop (p : PtnIx) (s : State) : exec (.etsPop p) s = execEtsPop p s := rfl
@[simp] theorem exec_launchRelease (job : Nat) (s : State) : exec (.launchRelease job) s = execLaunchRelease job s := rfl
@[simp] theorem exec_ringEnable (src p : PtnIx) (ring : Fin 18) (value : Word) (s : State) : exec (.ringEnable src p ring value) s = execRingEnable src p ring value s := rfl
@[simp] theorem exec_sqDoorbell (src p : PtnIx) (ring : Fin 16) (tail : Word) (s : State) : exec (.sqDoorbell src p ring tail) s = execSqDoorbell src p ring tail s := rfl
@[simp] theorem exec_cqDoorbell (src p : PtnIx) (head : Word) (s : State) : exec (.cqDoorbell src p head) s = execCqDoorbell src p head s := rfl
@[simp] theorem exec_eqDoorbell (src p : PtnIx) (head : Word) (s : State) : exec (.eqDoorbell src p head) s = execEqDoorbell src p head s := rfl
@[simp] theorem exec_descriptorFetch (p : PtnIx) (s : State) : exec (.descriptorFetch p) s = execDescriptorFetch p s := rfl
@[simp] theorem exec_fetchFaultClear (src p : PtnIx) (ring : Fin 16) (s : State) : exec (.fetchFaultClear src p ring) s = execFetchFaultClear src p ring s := rfl
@[simp] theorem exec_jobDispatch (p : PtnIx) (s : State) : exec (.jobDispatch p) s = execJobDispatch p s := rfl
@[simp] theorem exec_deadlineExpiry (job : Nat) (s : State) : exec (.deadlineExpiry job) s = execDeadlineExpiry job s := rfl
@[simp] theorem exec_jobComplete (job : Nat) (s : State) : exec (.jobComplete job) s = execJobComplete job s := rfl
@[simp] theorem exec_cqIrqTimer (p : PtnIx) (events : Bool) (s : State) : exec (.cqIrqTimer p events) s = execCqIrqTimer p events s := rfl
@[simp] theorem exec_otRegister (src p : PtnIx) (index : BitVec 12) (s : State) : exec (.otRegister src p index) s = execOtRegister src p index s := rfl
@[simp] theorem exec_otRegisterDone (p : PtnIx) (s : State) : exec (.otRegisterDone p) s = execOtRegisterDone p s := rfl
@[simp] theorem exec_otRetire (src p : PtnIx) (index : BitVec 12) (s : State) : exec (.otRetire src p index) s = execOtRetire src p index s := rfl
@[simp] theorem exec_belayEnqueue (src p : PtnIx) (cmd : DWord) (s : State) : exec (.belayEnqueue src p cmd) s = execBelayEnqueue src p cmd s := rfl
@[simp] theorem exec_stopPort (p : PtnIx) (s : State) : exec (.stopPort p) s = execStopPort p s := rfl
@[simp] theorem exec_cancelTag (p : PtnIx) (s : State) : exec (.cancelTag p) s = execCancelTag p s := rfl
@[simp] theorem exec_cancelRing (p : PtnIx) (s : State) : exec (.cancelRing p) s = execCancelRing p s := rfl
@[simp] theorem exec_quiesceStreams (p : PtnIx) (s : State) : exec (.quiesceStreams p) s = execQuiesceStreams p s := rfl
@[simp] theorem exec_haltPartition (p : PtnIx) (s : State) : exec (.haltPartition p) s = execHaltPartition p s := rfl
@[simp] theorem exec_belayDone (p : PtnIx) (s : State) : exec (.belayDone p) s = execBelayDone p s := rfl
@[simp] theorem exec_resume (src p : PtnIx) (s : State) : exec (.resume src p) s = execResume src p s := rfl
@[simp] theorem exec_unquiesce (src p : PtnIx) (s : State) : exec (.unquiesce src p) s = execUnquiesce src p s := rfl
@[simp] theorem exec_clrStats (src : PtnIx) (s : State) : exec (.clrStats src) s = execClrStats src s := rfl
@[simp] theorem exec_sysChipidWrite (id : BitVec 12) (s : State) : exec (.sysChipidWrite id) s = execSysChipidWrite id s := rfl
@[simp] theorem exec_taskStart (t : TileIx) (s : State) : exec (.taskStart t) s = execTaskStart t s := rfl
@[simp] theorem exec_programMemoryWrite (p : PtnIx) (t : TileIx) (offset : Fin 131072) (value : Byte) (s : State) : exec (.programMemoryWrite p t offset value) s = execProgramMemoryWrite p t offset value s := rfl
@[simp] theorem exec_taskEnd (t : TileIx) (s : State) : exec (.taskEnd t) s = execTaskEnd t s := rfl
@[simp] theorem exec_nop (t : TileIx) (slot : Fin 7) (s : State) : exec (.nop t slot) s = execNop t slot s := rfl
@[simp] theorem exec_add (t : TileIx) (s : State) : exec (.add t) s = execAdd t s := rfl
@[simp] theorem exec_sub (t : TileIx) (s : State) : exec (.sub t) s = execSub t s := rfl
@[simp] theorem exec_and (t : TileIx) (s : State) : exec (.and t) s = execAnd t s := rfl
@[simp] theorem exec_or (t : TileIx) (s : State) : exec (.or t) s = execOr t s := rfl
@[simp] theorem exec_xor (t : TileIx) (s : State) : exec (.xor t) s = execXor t s := rfl
@[simp] theorem exec_sll (t : TileIx) (s : State) : exec (.sll t) s = execSll t s := rfl
@[simp] theorem exec_srl (t : TileIx) (s : State) : exec (.srl t) s = execSrl t s := rfl
@[simp] theorem exec_sra (t : TileIx) (s : State) : exec (.sra t) s = execSra t s := rfl
@[simp] theorem exec_mul (t : TileIx) (s : State) : exec (.mul t) s = execMul t s := rfl
@[simp] theorem exec_mulh (t : TileIx) (s : State) : exec (.mulh t) s = execMulh t s := rfl
@[simp] theorem exec_min (t : TileIx) (s : State) : exec (.min t) s = execMin t s := rfl
@[simp] theorem exec_max (t : TileIx) (s : State) : exec (.max t) s = execMax t s := rfl
@[simp] theorem exec_cmp (t : TileIx) (s : State) : exec (.cmp t) s = execCmp t s := rfl
@[simp] theorem exec_addi (t : TileIx) (s : State) : exec (.addi t) s = execAddi t s := rfl
@[simp] theorem exec_andi (t : TileIx) (s : State) : exec (.andi t) s = execAndi t s := rfl
@[simp] theorem exec_ori (t : TileIx) (s : State) : exec (.ori t) s = execOri t s := rfl
@[simp] theorem exec_xori (t : TileIx) (s : State) : exec (.xori t) s = execXori t s := rfl
@[simp] theorem exec_slli (t : TileIx) (s : State) : exec (.slli t) s = execSlli t s := rfl
@[simp] theorem exec_srli (t : TileIx) (s : State) : exec (.srli t) s = execSrli t s := rfl
@[simp] theorem exec_srai (t : TileIx) (s : State) : exec (.srai t) s = execSrai t s := rfl
@[simp] theorem exec_li (t : TileIx) (s : State) : exec (.li t) s = execLi t s := rfl
@[simp] theorem exec_cmpi (t : TileIx) (s : State) : exec (.cmpi t) s = execCmpi t s := rfl
@[simp] theorem exec_pset (t : TileIx) (s : State) : exec (.pset t) s = execPset t s := rfl
@[simp] theorem exec_plog (t : TileIx) (s : State) : exec (.plog t) s = execPlog t s := rfl
@[simp] theorem exec_mfs (t : TileIx) (s : State) : exec (.mfs t) s = execMfs t s := rfl
@[simp] theorem exec_mts (t : TileIx) (s : State) : exec (.mts t) s = execMts t s := rfl
@[simp] theorem exec_aadd (t : TileIx) (s : State) : exec (.aadd t) s = execAadd t s := rfl
@[simp] theorem exec_ldx (t : TileIx) (s : State) : exec (.ldx t) s = execLdx t s := rfl
@[simp] theorem exec_ldy (t : TileIx) (s : State) : exec (.ldy t) s = execLdy t s := rfl
@[simp] theorem exec_stx (t : TileIx) (s : State) : exec (.stx t) s = execStx t s := rfl
@[simp] theorem exec_sty (t : TileIx) (s : State) : exec (.sty t) s = execSty t s := rfl
@[simp] theorem exec_br (t : TileIx) (s : State) : exec (.br t) s = execBr t s := rfl
@[simp] theorem exec_brr (t : TileIx) (s : State) : exec (.brr t) s = execBrr t s := rfl
@[simp] theorem exec_call (t : TileIx) (s : State) : exec (.call t) s = execCall t s := rfl
@[simp] theorem exec_ret (t : TileIx) (s : State) : exec (.ret t) s = execRet t s := rfl
@[simp] theorem exec_loop (t : TileIx) (s : State) : exec (.loop t) s = execLoop t s := rfl
@[simp] theorem exec_loopr (t : TileIx) (s : State) : exec (.loopr t) s = execLoopr t s := rfl
@[simp] theorem exec_lbrk (t : TileIx) (s : State) : exec (.lbrk t) s = execLbrk t s := rfl
@[simp] theorem exec_rti (t : TileIx) (s : State) : exec (.rti t) s = execRti t s := rfl
@[simp] theorem exec_halt (t : TileIx) (s : State) : exec (.halt t) s = execHalt t s := rfl
@[simp] theorem exec_trap (t : TileIx) (s : State) : exec (.trap t) s = execTrap t s := rfl
@[simp] theorem exec_wfi (t : TileIx) (s : State) : exec (.wfi t) s = execWfi t s := rfl
@[simp] theorem exec_semw (t : TileIx) (s : State) : exec (.semw t) s = execSemw t s := rfl
@[simp] theorem exec_sems (t : TileIx) (s : State) : exec (.sems t) s = execSems t s := rfl
@[simp] theorem exec_sstart (t : TileIx) (s : State) : exec (.sstart t) s = execSstart t s := rfl
@[simp] theorem exec_swait (t : TileIx) (s : State) : exec (.swait t) s = execSwait t s := rfl
@[simp] theorem exec_sfence (t : TileIx) (s : State) : exec (.sfence t) s = execSfence t s := rfl
@[simp] theorem exec_sfwait (t : TileIx) (s : State) : exec (.sfwait t) s = execSfwait t s := rfl
@[simp] theorem exec_ewait (t : TileIx) (s : State) : exec (.ewait t) s = execEwait t s := rfl
@[simp] theorem exec_vadd (t : TileIx) (wide : Bool) (s : State) : exec (.vadd t wide) s = execVadd t wide s := rfl
@[simp] theorem exec_vsub (t : TileIx) (wide : Bool) (s : State) : exec (.vsub t wide) s = execVsub t wide s := rfl
@[simp] theorem exec_vmul (t : TileIx) (wide : Bool) (s : State) : exec (.vmul t wide) s = execVmul t wide s := rfl
@[simp] theorem exec_vmac (t : TileIx) (wide : Bool) (s : State) : exec (.vmac t wide) s = execVmac t wide s := rfl
@[simp] theorem exec_vmsu (t : TileIx) (wide : Bool) (s : State) : exec (.vmsu t wide) s = execVmsu t wide s := rfl
@[simp] theorem exec_vcmac (t : TileIx) (wide : Bool) (s : State) : exec (.vcmac t wide) s = execVcmac t wide s := rfl
@[simp] theorem exec_vcmacj (t : TileIx) (wide : Bool) (s : State) : exec (.vcmacj t wide) s = execVcmacj t wide s := rfl
@[simp] theorem exec_vmag (t : TileIx) (wide : Bool) (s : State) : exec (.vmag t wide) s = execVmag t wide s := rfl
@[simp] theorem exec_vaclr (t : TileIx) (wide : Bool) (s : State) : exec (.vaclr t wide) s = execVaclr t wide s := rfl
@[simp] theorem exec_vacrd (t : TileIx) (wide : Bool) (s : State) : exec (.vacrd t wide) s = execVacrd t wide s := rfl
@[simp] theorem exec_vand (t : TileIx) (wide : Bool) (s : State) : exec (.vand t wide) s = execVand t wide s := rfl
@[simp] theorem exec_vor (t : TileIx) (wide : Bool) (s : State) : exec (.vor t wide) s = execVor t wide s := rfl
@[simp] theorem exec_vxor (t : TileIx) (wide : Bool) (s : State) : exec (.vxor t wide) s = execVxor t wide s := rfl
@[simp] theorem exec_vshl (t : TileIx) (wide : Bool) (s : State) : exec (.vshl t wide) s = execVshl t wide s := rfl
@[simp] theorem exec_vshr (t : TileIx) (wide : Bool) (s : State) : exec (.vshr t wide) s = execVshr t wide s := rfl
@[simp] theorem exec_vmin (t : TileIx) (wide : Bool) (s : State) : exec (.vmin t wide) s = execVmin t wide s := rfl
@[simp] theorem exec_vmax (t : TileIx) (wide : Bool) (s : State) : exec (.vmax t wide) s = execVmax t wide s := rfl
@[simp] theorem exec_vabs (t : TileIx) (wide : Bool) (s : State) : exec (.vabs t wide) s = execVabs t wide s := rfl
@[simp] theorem exec_vneg (t : TileIx) (wide : Bool) (s : State) : exec (.vneg t wide) s = execVneg t wide s := rfl
@[simp] theorem exec_vbc (t : TileIx) (wide : Bool) (s : State) : exec (.vbc t wide) s = execVbc t wide s := rfl
@[simp] theorem exec_vperm (t : TileIx) (wide : Bool) (s : State) : exec (.vperm t wide) s = execVperm t wide s := rfl
@[simp] theorem exec_vintl (t : TileIx) (wide : Bool) (s : State) : exec (.vintl t wide) s = execVintl t wide s := rfl
@[simp] theorem exec_vred (t : TileIx) (wide : Bool) (s : State) : exec (.vred t wide) s = execVred t wide s := rfl
@[simp] theorem exec_vxw (t : TileIx) (s : State) : exec (.vxw t) s = execVxw t s := rfl
@[simp] theorem exec_vxn (t : TileIx) (s : State) : exec (.vxn t) s = execVxn t s := rfl
@[simp] theorem exec_dLoad (t : TileIx) (y : Bool) (s : State) : exec (.dLoad t y) s = execDLoad t y s := rfl
@[simp] theorem exec_dStore (t : TileIx) (y : Bool) (s : State) : exec (.dStore t y) s = execDStore t y s := rfl
@[simp] theorem exec_mcfg (t : TileIx) (s : State) : exec (.mcfg t) s = execMcfg t s := rfl
@[simp] theorem exec_mldw (t : TileIx) (s : State) : exec (.mldw t) s = execMldw t s := rfl
@[simp] theorem exec_mmul (t : TileIx) (s : State) : exec (.mmul t) s = execMmul t s := rfl
@[simp] theorem exec_mswap (t : TileIx) (s : State) : exec (.mswap t) s = execMswap t s := rfl
@[simp] theorem exec_mwait (t : TileIx) (s : State) : exec (.mwait t) s = execMwait t s := rfl
@[simp] theorem exec_matrixDispatch (t : TileIx) (s : State) : exec (.matrixDispatch t) s = execMatrixDispatch t s := rfl
@[simp] theorem exec_mldwComplete (t : TileIx) (sub : Fin 4) (s : State) : exec (.mldwComplete t sub) s = execMldwComplete t sub s := rfl
@[simp] theorem exec_mmulComplete (t : TileIx) (sub : Fin 4) (mismatch : Bool) (s : State) : exec (.mmulComplete t sub mismatch) s = execMmulComplete t sub mismatch s := rfl
@[simp] theorem exec_gapFillTimeout (t : TileIx) (sub : Fin 4) (s : State) : exec (.gapFillTimeout t sub) s = execGapFillTimeout t sub s := rfl
@[simp] theorem exec_ekrun (t : TileIx) (s : State) : exec (.ekrun t) s = execEkrun t s := rfl
@[simp] theorem exec_ewin (t : TileIx) (s : State) : exec (.ewin t) s = execEwin t s := rfl
@[simp] theorem exec_eadd (t : TileIx) (s : State) : exec (.eadd t) s = execEadd t s := rfl
@[simp] theorem exec_esub (t : TileIx) (s : State) : exec (.esub t) s = execEsub t s := rfl
@[simp] theorem exec_emul (t : TileIx) (s : State) : exec (.emul t) s = execEmul t s := rfl
@[simp] theorem exec_emin (t : TileIx) (s : State) : exec (.emin t) s = execEmin t s := rfl
@[simp] theorem exec_emax (t : TileIx) (s : State) : exec (.emax t) s = execEmax t s := rfl
@[simp] theorem exec_fadd32 (t : TileIx) (s : State) : exec (.fadd32 t) s = execFadd32 t s := rfl
@[simp] theorem exec_fmul32 (t : TileIx) (s : State) : exec (.fmul32 t) s = execFmul32 t s := rfl
@[simp] theorem exec_ffma32 (t : TileIx) (s : State) : exec (.ffma32 t) s = execFfma32 t s := rfl
@[simp] theorem exec_fadd64 (t : TileIx) (s : State) : exec (.fadd64 t) s = execFadd64 t s := rfl
@[simp] theorem exec_fmul64 (t : TileIx) (s : State) : exec (.fmul64 t) s = execFmul64 t s := rfl
@[simp] theorem exec_ffma64 (t : TileIx) (s : State) : exec (.ffma64 t) s = execFfma64 t s := rfl
@[simp] theorem exec_fdiv32 (t : TileIx) (s : State) : exec (.fdiv32 t) s = execFdiv32 t s := rfl
@[simp] theorem exec_fsqrt32 (t : TileIx) (s : State) : exec (.fsqrt32 t) s = execFsqrt32 t s := rfl
@[simp] theorem exec_fdiv64 (t : TileIx) (s : State) : exec (.fdiv64 t) s = execFdiv64 t s := rfl
@[simp] theorem exec_fsqrt64 (t : TileIx) (s : State) : exec (.fsqrt64 t) s = execFsqrt64 t s := rfl
@[simp] theorem exec_ecvt (t : TileIx) (s : State) : exec (.ecvt t) s = execEcvt t s := rfl
@[simp] theorem exec_erq (t : TileIx) (s : State) : exec (.erq t) s = execErq t s := rfl
@[simp] theorem exec_elut (t : TileIx) (s : State) : exec (.elut t) s = execElut t s := rfl
@[simp] theorem exec_eamax (t : TileIx) (s : State) : exec (.eamax t) s = execEamax t s := rfl
@[simp] theorem exec_kernelRow (t : TileIx) (s : State) : exec (.kernelRow t) s = execKernelRow t s := rfl
@[simp] theorem exec_kernelRunEnd (t : TileIx) (s : State) : exec (.kernelRunEnd t) s = execKernelRunEnd t s := rfl
@[simp] theorem exec_scaleWrite (p : PtnIx) (t : TileIx) (entry : BitVec 12) (hi : Bool) (value : Word) (s : State) : exec (.scaleWrite p t entry hi value) s = execScaleWrite p t entry hi value s := rfl
@[simp] theorem exec_nlogWrWrite (p : PtnIx) (t : TileIx) (value : Word) (s : State) : exec (.nlogWrWrite p t value) s = execNlogWrWrite p t value s := rfl
@[simp] theorem exec_interruptEntry (t : TileIx) (s : State) : exec (.interruptEntry t) s = execInterruptEntry t s := rfl
@[simp] theorem exec_instanceActivate (t : TileIx) (s : State) : exec (.instanceActivate t) s = execInstanceActivate t s := rfl
@[simp] theorem exec_listFetch (t : TileIx) (d : BitVec 8) (out : Bool) (s : State) : exec (.listFetch t d out) s = execListFetch t d out s := rfl
@[simp] theorem exec_streamRequestIssue (t : TileIx) (out : Bool) (s : State) : exec (.streamRequestIssue t out) s = execStreamRequestIssue t out s := rfl
@[simp] theorem exec_streamResponse (t : TileIx) (id : Nat) (err : MemErr) (s : State) : exec (.streamResponse t id err) s = execStreamResponse t id err s := rfl
@[simp] theorem exec_fenceRetire (t : TileIx) (s : State) : exec (.fenceRetire t) s = execFenceRetire t s := rfl
@[simp] theorem exec_crcBlockFeed (t : TileIx) (s : State) : exec (.crcBlockFeed t) s = execCrcBlockFeed t s := rfl
@[simp] theorem exec_crcFeedEnd (t : TileIx) (s : State) : exec (.crcFeedEnd t) s = execCrcFeedEnd t s := rfl
@[simp] theorem exec_fhRxFrame (port : PortIx) (frame : List Byte) (s : State) : exec (.fhRxFrame port frame) s = execFhRxFrame port frame s := rfl
@[simp] theorem exec_rxBufferAssign (cell : Fin 96) (b : Fin 8) (s : State) : exec (.rxBufferAssign cell b) s = execRxBufferAssign cell b s := rfl
@[simp] theorem exec_symbolClose (cell : Fin 96) (s : State) : exec (.symbolClose cell) s = execSymbolClose cell s := rfl
@[simp] theorem exec_fallbackWatermark (job : Nat) (s : State) : exec (.fallbackWatermark job) s = execFallbackWatermark job s := rfl
@[simp] theorem exec_fallbackStart (job : Nat) (s : State) : exec (.fallbackStart job) s = execFallbackStart job s := rfl
@[simp] theorem exec_fheCrxEnable (src : PtnIx) (cell : Fin 96) (value : Word) (s : State) : exec (.fheCrxEnable src cell value) s = execFheCrxEnable src cell value s := rfl
@[simp] theorem exec_praCfgEnable (src : PtnIx) (c : Fin 64) (value : Word) (s : State) : exec (.praCfgEnable src c value) s = execPraCfgEnable src c value s := rfl
@[simp] theorem exec_occasionClose (c : Fin 64) (s : State) : exec (.occasionClose c) s = execOccasionClose c s := rfl
@[simp] theorem exec_codeBlockDispatch (d : Fin 16) (s : State) : exec (.codeBlockDispatch d) s = execCodeBlockDispatch d s := rfl
@[simp] theorem exec_harqCombineDone (d : Fin 16) (s : State) : exec (.harqCombineDone d) s = execHarqCombineDone d s := rfl
@[simp] theorem exec_codeBlockEnd (d : Fin 16) (err : MemErr) (s : State) : exec (.codeBlockEnd d err) s = execCodeBlockEnd d err s := rfl
@[simp] theorem exec_polarDispatch (u : Fin 4) (s : State) : exec (.polarDispatch u) s = execPolarDispatch u s := rfl
@[simp] theorem exec_polarEnd (u : Fin 4) (err : MemErr) (s : State) : exec (.polarEnd u err) s = execPolarEnd u err s := rfl
@[simp] theorem exec_encodeDispatch (u : Fin 8) (s : State) : exec (.encodeDispatch u) s = execEncodeDispatch u s := rfl
@[simp] theorem exec_encodeEnd (u : Fin 8) (err : MemErr) (s : State) : exec (.encodeEnd u err) s = execEncodeEnd u err s := rfl
@[simp] theorem exec_decPshareWrite (src p : PtnIx) (value : Word) (s : State) : exec (.decPshareWrite src p value) s = execDecPshareWrite src p value s := rfl
@[simp] theorem exec_txBufferAssign (cell : Fin 96) (b : Fin 8) (s : State) : exec (.txBufferAssign cell b) s = execTxBufferAssign cell b s := rfl
@[simp] theorem exec_cplaneWindowOpen (cell : Fin 96) (b : Fin 8) (s : State) : exec (.cplaneWindowOpen cell b) s = execCplaneWindowOpen cell b s := rfl
@[simp] theorem exec_uplaneWindowOpen (cell : Fin 96) (b : Fin 8) (s : State) : exec (.uplaneWindowOpen cell b) s = execUplaneWindowOpen cell b s := rfl
@[simp] theorem exec_txPartReady (cell : Fin 96) (b : Fin 8) (s : State) : exec (.txPartReady cell b) s = execTxPartReady cell b s := rfl
@[simp] theorem exec_cplaneWindowClose (cell : Fin 96) (b : Fin 8) (s : State) : exec (.cplaneWindowClose cell b) s = execCplaneWindowClose cell b s := rfl
@[simp] theorem exec_uplaneWindowClose (cell : Fin 96) (b : Fin 8) (s : State) : exec (.uplaneWindowClose cell b) s = execUplaneWindowClose cell b s := rfl
@[simp] theorem exec_fheCtxEnable (src : PtnIx) (cell : Fin 96) (value : Word) (s : State) : exec (.fheCtxEnable src cell value) s = execFheCtxEnable src cell value s := rfl
@[simp] theorem exec_gatherDispatch (p : PtnIx) (s : State) : exec (.gatherDispatch p) s = execGatherDispatch p s := rfl
@[simp] theorem exec_rowReadDone (c : ClusterIx) (s : State) : exec (.rowReadDone c) s = execRowReadDone c s := rfl
@[simp] theorem exec_gatherRowUpdate (c : ClusterIx) (s : State) : exec (.gatherRowUpdate c) s = execGatherRowUpdate c s := rfl
@[simp] theorem exec_ptnCtlWrite (src : PtnIx) (value : Word) (s : State) : exec (.ptnCtlWrite src value) s = execPtnCtlWrite src value s := rfl
@[simp] theorem exec_ptnCfgEnable (src p : PtnIx) (value : Word) (s : State) : exec (.ptnCfgEnable src p value) s = execPtnCfgEnable src p value s := rfl
@[simp] theorem exec_ptnCfgDisable (src p : PtnIx) (s : State) : exec (.ptnCfgDisable src p) s = execPtnCfgDisable src p s := rfl
@[simp] theorem exec_steal (t : TileIx) (s : State) : exec (.steal t) s = execSteal t s := rfl
@[simp] theorem exec_crossClusterSteal (t : TileIx) (s : State) : exec (.crossClusterSteal t) s = execCrossClusterSteal t s := rfl
@[simp] theorem exec_quantumExpiry (t : TileIx) (s : State) : exec (.quantumExpiry t) s = execQuantumExpiry t s := rfl
@[simp] theorem exec_preemption (t : TileIx) (s : State) : exec (.preemption t) s = execPreemption t s := rfl
@[simp] theorem exec_cairnSaveDone (t : TileIx) (s : State) : exec (.cairnSaveDone t) s = execCairnSaveDone t s := rfl
@[simp] theorem exec_cairnRestore (t : TileIx) (s : State) : exec (.cairnRestore t) s = execCairnRestore t s := rfl
@[simp] theorem exec_cairnRestoreDone (t : TileIx) (s : State) : exec (.cairnRestoreDone t) s = execCairnRestoreDone t s := rfl
@[simp] theorem exec_cairnFaultClear (src p : PtnIx) (s : State) : exec (.cairnFaultClear src p) s = execCairnFaultClear src p s := rfl
@[simp] theorem exec_inheritSliceExpiry (t : TileIx) (s : State) : exec (.inheritSliceExpiry t) s = execInheritSliceExpiry t s := rfl
@[simp] theorem exec_holdLimitCut (hbm : Bool) (unit : Fin 128) (holder : Holder) (s : State) : exec (.holdLimitCut hbm unit holder) s = execHoldLimitCut hbm unit holder s := rfl
@[simp] theorem exec_semWrite (src : PtnIx) (c : ClusterIx) (sem : Fin 1024) (value : Word) (s : State) : exec (.semWrite src c sem value) s = execSemWrite src c sem value s := rfl
@[simp] theorem exec_refresh (q : Fin 128) (temp : BitVec 8) (rate : Fin 3) (found : RefreshCase) (s : State) : exec (.refresh q temp rate found) s = execRefresh q temp rate found s := rfl
@[simp] theorem exec_hbmEnable (src : PtnIx) (st : Fin 4) (s : State) : exec (.hbmEnable src st) s = execHbmEnable src st s := rfl
@[simp] theorem exec_hbmTrainDone (st : Fin 4) (ok : Bool) (s : State) : exec (.hbmTrainDone st ok) s = execHbmTrainDone st ok s := rfl
@[simp] theorem exec_hbmDisable (src : PtnIx) (st : Fin 4) (s : State) : exec (.hbmDisable src st) s = execHbmDisable src st s := rfl
@[simp] theorem exec_mmuFaultRecord (p : PtnIx) (s : State) : exec (.mmuFaultRecord p) s = execMmuFaultRecord p s := rfl
@[simp] theorem exec_mmuResolveRetry (src p : PtnIx) (seq : BitVec 16) (s : State) : exec (.mmuResolveRetry src p seq) s = execMmuResolveRetry src p seq s := rfl
@[simp] theorem exec_mmuResolveFail (src p : PtnIx) (seq : BitVec 16) (s : State) : exec (.mmuResolveFail src p seq) s = execMmuResolveFail src p seq s := rfl
@[simp] theorem exec_invAll (src p : PtnIx) (s : State) : exec (.invAll src p) s = execInvAll src p s := rfl
@[simp] theorem exec_invPage (src p : PtnIx) (s : State) : exec (.invPage src p) s = execInvPage src p s := rfl
@[simp] theorem exec_invDone (p : PtnIx) (s : State) : exec (.invDone p) s = execInvDone p s := rfl
@[simp] theorem exec_frEnable (src p : PtnIx) (value : Word) (s : State) : exec (.frEnable src p value) s = execFrEnable src p value s := rfl
@[simp] theorem exec_writeBack (src p : PtnIx) (s : State) : exec (.writeBack src p) s = execWriteBack src p s := rfl
@[simp] theorem exec_writeBackInvalidate (src p : PtnIx) (s : State) : exec (.writeBackInvalidate src p) s = execWriteBackInvalidate src p s := rfl
@[simp] theorem exec_maintDone (s : State) : exec (.maintDone) s = execMaintDone s := rfl
@[simp] theorem exec_linkEnable (src : PtnIx) (k : LinkIx) (s : State) : exec (.linkEnable src k) s = execLinkEnable src k s := rfl
@[simp] theorem exec_linkDisable (src : PtnIx) (k : LinkIx) (s : State) : exec (.linkDisable src k) s = execLinkDisable src k s := rfl
@[simp] theorem exec_linkTrainDone (k : LinkIx) (locked : BitVec 4) (peer : Peer) (s : State) : exec (.linkTrainDone k locked peer) s = execLinkTrainDone k locked peer s := rfl
@[simp] theorem exec_linkTrainTimeout (k : LinkIx) (s : State) : exec (.linkTrainTimeout k) s = execLinkTrainTimeout k s := rfl
@[simp] theorem exec_retrain (src : PtnIx) (k : LinkIx) (s : State) : exec (.retrain src k) s = execRetrain src k s := rfl
@[simp] theorem exec_retrainDone (k : LinkIx) (locked : BitVec 4) (s : State) : exec (.retrainDone k locked) s = execRetrainDone k locked s := rfl
@[simp] theorem exec_retrainTimeout (k : LinkIx) (s : State) : exec (.retrainTimeout k) s = execRetrainTimeout k s := rfl
@[simp] theorem exec_flitReceive (k : LinkIx) (flit : List Byte) (fec : BitVec 4) (s : State) : exec (.flitReceive k flit fec) s = execFlitReceive k flit fec s := rfl
@[simp] theorem exec_packetTransit (k : LinkIx) (s : State) : exec (.packetTransit k) s = execPacketTransit k s := rfl
@[simp] theorem exec_rdReq (k : LinkIx) (err : MemErr) (s : State) : exec (.rdReq k err) s = execRdReq k err s := rfl
@[simp] theorem exec_rdRsp (k : LinkIx) (s : State) : exec (.rdRsp k) s = execRdRsp k s := rfl
@[simp] theorem exec_wr (k : LinkIx) (err : MemErr) (s : State) : exec (.wr k err) s = execWr k err s := rfl
@[simp] theorem exec_wrAck (k : LinkIx) (s : State) : exec (.wrAck k) s = execWrAck k s := rfl
@[simp] theorem exec_atom (k : LinkIx) (err : MemErr) (s : State) : exec (.atom k err) s = execAtom k err s := rfl
@[simp] theorem exec_atomRsp (k : LinkIx) (s : State) : exec (.atomRsp k) s = execAtomRsp k s := rfl
@[simp] theorem exec_errRsp (k : LinkIx) (s : State) : exec (.errRsp k) s = execErrRsp k s := rfl
@[simp] theorem exec_belay (k : LinkIx) (s : State) : exec (.belay k) s = execBelay k s := rfl
@[simp] theorem exec_gpoolReq (k : LinkIx) (s : State) : exec (.gpoolReq k) s = execGpoolReq k s := rfl
@[simp] theorem exec_gpoolRsp (k : LinkIx) (s : State) : exec (.gpoolRsp k) s = execGpoolRsp k s := rfl
@[simp] theorem exec_digest (k : LinkIx) (s : State) : exec (.digest k) s = execDigest k s := rfl
@[simp] theorem exec_messageAppend (q : PtnIx) (s : State) : exec (.messageAppend q) s = execMessageAppend q s := rfl
@[simp] theorem exec_messageTimeout (q : PtnIx) (s : State) : exec (.messageTimeout q) s = execMessageTimeout q s := rfl
@[simp] theorem exec_requestTimeout (tag : BitVec 16) (s : State) : exec (.requestTimeout tag) s = execRequestTimeout tag s := rfl
@[simp] theorem exec_belayHoldTimeout (s : State) : exec (.belayHoldTimeout) s = execBelayHoldTimeout s := rfl
@[simp] theorem exec_routeWrite (src : PtnIx) (dst : BitVec 12) (alt : Bool) (value : Word) (s : State) : exec (.routeWrite src dst alt value) s = execRouteWrite src dst alt value s := rfl
@[simp] theorem exec_digestAllocate (p : PtnIx) (s : State) : exec (.digestAllocate p) s = execDigestAllocate p s := rfl
@[simp] theorem exec_digestComputeDone (job : Nat) (s : State) : exec (.digestComputeDone job) s = execDigestComputeDone job s := rfl
@[simp] theorem exec_lockstepCompareEnd (job : Nat) (s : State) : exec (.lockstepCompareEnd job) s = execLockstepCompareEnd job s := rfl
@[simp] theorem exec_ropeTimeout (job : Nat) (s : State) : exec (.ropeTimeout job) s = execRopeTimeout job s := rfl
@[simp] theorem exec_orphanDiscard (s : State) : exec (.orphanDiscard) s = execOrphanDiscard s := rfl
@[simp] theorem exec_bucketLeak (k : Fin 8) (s : State) : exec (.bucketLeak k) s = execBucketLeak k s := rfl
@[simp] theorem exec_spareCopyDone (c : SpareCopy) (s : State) : exec (.spareCopyDone c) s = execSpareCopyDone c s := rfl
@[simp] theorem exec_tileMove (t : TileIx) (s : State) : exec (.tileMove t) s = execTileMove t s := rfl
@[simp] theorem exec_bbxRetire (src : PtnIx) (kind : Fin 8) (index : BitVec 8) (s : State) : exec (.bbxRetire src kind index) s = execBbxRetire src kind index s := rfl
@[simp] theorem exec_bktWrite (src : PtnIx) (k : Fin 8) (value : Word) (s : State) : exec (.bktWrite src k value) s = execBktWrite src k value s := rfl
@[simp] theorem exec_pageProgramDone (s : State) : exec (.pageProgramDone) s = execPageProgramDone s := rfl
@[simp] theorem exec_bankOpen (s : State) : exec (.bankOpen) s = execBankOpen s := rfl
@[simp] theorem exec_switch (src : PtnIx) (s : State) : exec (.switch src) s = execSwitch src s := rfl
@[simp] theorem exec_softwareRecord (src : PtnIx) (event : BitVec 8) (s : State) : exec (.softwareRecord src event) s = execSoftwareRecord src event s := rfl
@[simp] theorem exec_domainOn (src : PtnIx) (d : Fin 82) (s : State) : exec (.domainOn src d) s = execDomainOn src d s := rfl
@[simp] theorem exec_domainOff (src : PtnIx) (d : Fin 82) (s : State) : exec (.domainOff src d) s = execDomainOff src d s := rfl
@[simp] theorem exec_domainDrainDone (d : Fin 82) (s : State) : exec (.domainDrainDone d) s = execDomainDrainDone d s := rfl
@[simp] theorem exec_domainIsolateDone (d : Fin 82) (s : State) : exec (.domainIsolateDone d) s = execDomainIsolateDone d s := rfl
@[simp] theorem exec_domainRampDone (d : Fin 82) (s : State) : exec (.domainRampDone d) s = execDomainRampDone d s := rfl
@[simp] theorem exec_domainRestoreDone (d : Fin 82) (s : State) : exec (.domainRestoreDone d) s = execDomainRestoreDone d s := rfl
@[simp] theorem exec_opReq (src : PtnIx) (c : ClusterIx) (req : Fin 4) (s : State) : exec (.opReq src c req) s = execOpReq src c req s := rfl
@[simp] theorem exec_pllLock (c : ClusterIx) (s : State) : exec (.pllLock c) s = execPllLock c s := rfl
@[simp] theorem exec_voltageReached (c : ClusterIx) (s : State) : exec (.voltageReached c) s = execVoltageReached c s := rfl
@[simp] theorem exec_vsettleExpiry (c : ClusterIx) (s : State) : exec (.vsettleExpiry c) s = execVsettleExpiry c s := rfl
@[simp] theorem exec_powerEstimate (ms us10 c0 c1 c2 c3 : BitVec 16) (s : State) : exec (.powerEstimate ms us10 c0 c1 c2 c3) s = execPowerEstimate ms us10 c0 c1 c2 c3 s := rfl
@[simp] theorem exec_poutCalibrate (watts : BitVec 16) (s : State) : exec (.poutCalibrate watts) s = execPoutCalibrate watts s := rfl
@[simp] theorem exec_sagWarn (rail : Fin 8) (mv : BitVec 16) (s : State) : exec (.sagWarn rail mv) s = execSagWarn rail mv s := rfl
@[simp] theorem exec_sagClear (s : State) : exec (.sagClear) s = execSagClear s := rfl
@[simp] theorem exec_supplyReset (s : State) : exec (.supplyReset) s = execSupplyReset s := rfl
@[simp] theorem exec_pwrSagWrite (src : PtnIx) (value : Word) (s : State) : exec (.pwrSagWrite src value) s = execPwrSagWrite src value s := rfl
@[simp] theorem exec_thermWarn (c : ClusterIx) (sensor : BitVec 16) (temp : Word) (s : State) : exec (.thermWarn c sensor temp) s = execThermWarn c sensor temp s := rfl
@[simp] theorem exec_thermalFloorStep (c : ClusterIx) (up : Bool) (s : State) : exec (.thermalFloorStep c up) s = execThermalFloorStep c up s := rfl
@[simp] theorem exec_thermTrip (sensor : BitVec 16) (temp : Word) (s : State) : exec (.thermTrip sensor temp) s = execThermTrip sensor temp s := rfl
@[simp] theorem exec_stop (src : PtnIx) (keep : Bool) (s : State) : exec (.stop src keep) s = execStop src keep s := rfl
@[simp] theorem exec_rtcWake (temp : Word) (cool : Bool) (s : State) : exec (.rtcWake temp cool) s = execRtcWake temp cool s := rfl
@[simp] theorem exec_rtcSubRead (s : State) : exec (.rtcSubRead) s = execRtcSubRead s := rfl
@[simp] theorem exec_rtcLoad (src : PtnIx) (hi : Word) (s : State) : exec (.rtcLoad src hi) s = execRtcLoad src hi s := rfl
@[simp] theorem exec_clockLoss (r : Fin 4) (s : State) : exec (.clockLoss r) s = execClockLoss r s := rfl
@[simp] theorem exec_porstFall (supply trip oasis cool : Bool) (s : State) : exec (.porstFall supply trip oasis cool) s = execPorstFall supply trip oasis cool s := rfl
@[simp] theorem exec_porstRise (grp : Fin 8) (mode : Fin 4) (s : State) : exec (.porstRise grp mode) s = execPorstRise grp mode s := rfl
@[simp] theorem exec_bootFlash (s : State) : exec (.bootFlash) s = execBootFlash s := rfl
@[simp] theorem exec_flashTimeout (s : State) : exec (.flashTimeout) s = execFlashTimeout s := rfl
@[simp] theorem exec_bootCal (s : State) : exec (.bootCal) s = execBootCal s := rfl
@[simp] theorem exec_bootFloors (s : State) : exec (.bootFloors) s = execBootFloors s := rfl
@[simp] theorem exec_bootOwner (s : State) : exec (.bootOwner) s = execBootOwner s := rfl
@[simp] theorem exec_bootBbx (s : State) : exec (.bootBbx) s = execBootBbx s := rfl
@[simp] theorem exec_bootImage (errA errB : Bool) (s : State) : exec (.bootImage errA errB) s = execBootImage errA errB s := rfl
@[simp] theorem exec_bootRebuild (s : State) : exec (.bootRebuild) s = execBootRebuild s := rfl
@[simp] theorem exec_commit (src : PtnIx) (s : State) : exec (.commit src) s = execCommit src s := rfl
@[simp] theorem exec_commitDone (s : State) : exec (.commitDone) s = execCommitDone s := rfl
@[simp] theorem exec_confirm (src : PtnIx) (s : State) : exec (.confirm src) s = execConfirm src s := rfl
@[simp] theorem exec_extend (src : PtnIx) (m : Fin 8) (s : State) : exec (.extend src m) s = execExtend src m s := rfl
@[simp] theorem exec_attest (src p : PtnIx) (n : Fin 32) (s : State) : exec (.attest src p n) s = execAttest src p n s := rfl
@[simp] theorem exec_verify (src p : PtnIx) (s : State) : exec (.verify src p) s = execVerify src p s := rfl
@[simp] theorem exec_derive (src p : PtnIx) (s : State) : exec (.derive src p) s = execDerive src p s := rfl
@[simp] theorem exec_secDone (s : State) : exec (.secDone) s = execSecDone s := rfl
@[simp] theorem exec_trngFail (test : Fin 2) (s : State) : exec (.trngFail test) s = execTrngFail test s := rfl
@[simp] theorem exec_trngStartupTest (pass : Bool) (s : State) : exec (.trngStartupTest pass) s = execTrngStartupTest pass s := rfl
@[simp] theorem exec_start (src : PtnIx) (h : HartIx) (s : State) : exec (.start src h) s = execStart src h s := rfl
@[simp] theorem exec_hartReset (src : PtnIx) (h : HartIx) (s : State) : exec (.hartReset src h) s = execHartReset src h s := rfl
@[simp] theorem exec_coreAccess (h : HartIx) (op : CoreOp) (addr : BitVec 52) (size : Fin 5) (data : List Byte) (err : CoreErr) (mem : MemErr) (s : State) : exec (.coreAccess h op addr size data err mem) s = execCoreAccess h op addr size data err mem s := rfl
@[simp] theorem exec_msiWrite (h target : HartIx) (file : Fin 16) (value : Word) (s : State) : exec (.msiWrite h target file value) s = execMsiWrite h target file value s := rfl
@[simp] theorem exec_aplicSource (source : Fin 6) (level : Bool) (s : State) : exec (.aplicSource source level) s = execAplicSource source level s := rfl
@[simp] theorem exec_pcieLinkChange (up : Bool) (rate : Fin 7) (width : Fin 17) (s : State) : exec (.pcieLinkChange up rate width) s = execPcieLinkChange up rate width s := rfl
@[simp] theorem exec_pcieInbound (fn : Fin 17) (tlp : Tlp) (err : MemErr) (s : State) : exec (.pcieInbound fn tlp err) s = execPcieInbound fn tlp err s := rfl
@[simp] theorem exec_pcieOutbound (src : OutSrc) (ans : Option (List Byte)) (s : State) : exec (.pcieOutbound src ans) s = execPcieOutbound src ans s := rfl
@[simp] theorem exec_pcieCompletionTimeout (src : OutSrc) (s : State) : exec (.pcieCompletionTimeout src) s = execPcieCompletionTimeout src s := rfl
@[simp] theorem exec_msixUnmask (fn : Fin 17) (vec : Fin 2048) (s : State) : exec (.msixUnmask fn vec) s = execMsixUnmask fn vec s := rfl
@[simp] theorem exec_flr (fn : Fin 17) (s : State) : exec (.flr fn) s = execFlr fn s := rfl
@[simp] theorem exec_pciePerst (s : State) : exec (.pciePerst) s = execPciePerst s := rfl
@[simp] theorem exec_ethLinkChange (port : PortIx) (up : Bool) (s : State) : exec (.ethLinkChange port up) s = execEthLinkChange port up s := rfl
@[simp] theorem exec_ethPortEnable (src : PtnIx) (port : PortIx) (s : State) : exec (.ethPortEnable src port) s = execEthPortEnable src port s := rfl
@[simp] theorem exec_ethFrameReceive (port : PortIx) (frame : List Byte) (fcsOk : Bool) (s : State) : exec (.ethFrameReceive port frame fcsOk) s = execEthFrameReceive port frame fcsOk s := rfl
@[simp] theorem exec_pfcReceive (port : PortIx) (prio : Fin 8) (on : Bool) (s : State) : exec (.pfcReceive port prio on) s = execPfcReceive port prio on s := rfl
@[simp] theorem exec_ethFrameTransmit (src : TxSrc) (s : State) : exec (.ethFrameTransmit src) s = execEthFrameTransmit src s := rfl
@[simp] theorem exec_ethTxtail (src : PtnIx) (q : Fin 32) (tail : Word) (s : State) : exec (.ethTxtail src q tail) s = execEthTxtail src q tail s := rfl
@[simp] theorem exec_xspCmd (src : PtnIx) (value : Word) (s : State) : exec (.xspCmd src value) s = execXspCmd src value s := rfl
@[simp] theorem exec_xspDone (data : List Byte) (s : State) : exec (.xspDone data) s = execXspDone data s := rfl
@[simp] theorem exec_sbCmd (src : PtnIx) (value : Word) (s : State) : exec (.sbCmd src value) s = execSbCmd src value s := rfl
@[simp] theorem exec_sbDone (err : Fin 4) (data : List Byte) (s : State) : exec (.sbDone err data) s = execSbDone err data s := rfl
@[simp] theorem exec_arrClrCnt (src : PtnIx) (t : TileIx) (s : State) : exec (.arrClrCnt src t) s = execArrClrCnt src t s := rfl
@[simp] theorem exec_eleClrCnt (src : PtnIx) (t : TileIx) (s : State) : exec (.eleClrCnt src t) s = execEleClrCnt src t s := rfl
@[simp] theorem exec_stmClrCnt (src : PtnIx) (t : TileIx) (s : State) : exec (.stmClrCnt src t) s = execStmClrCnt src t s := rfl
@[simp] theorem exec_fheRxClrCnt (src : PtnIx) (s : State) : exec (.fheRxClrCnt src) s = execFheRxClrCnt src s := rfl
@[simp] theorem exec_fheTxClrCnt (src : PtnIx) (s : State) : exec (.fheTxClrCnt src) s = execFheTxClrCnt src s := rfl
@[simp] theorem exec_praClrCnt (src : PtnIx) (s : State) : exec (.praClrCnt src) s = execPraClrCnt src s := rfl
@[simp] theorem exec_decClrCnt (src : PtnIx) (s : State) : exec (.decClrCnt src) s = execDecClrCnt src s := rfl
@[simp] theorem exec_encClrCnt (src : PtnIx) (s : State) : exec (.encClrCnt src) s = execEncClrCnt src s := rfl
@[simp] theorem exec_gthClrCnt (src : PtnIx) (c : ClusterIx) (s : State) : exec (.gthClrCnt src c) s = execGthClrCnt src c s := rfl
@[simp] theorem exec_ptnClrCnt (src p : PtnIx) (s : State) : exec (.ptnClrCnt src p) s = execPtnClrCnt src p s := rfl
@[simp] theorem exec_cluClrCnt (src : PtnIx) (c : ClusterIx) (s : State) : exec (.cluClrCnt src c) s = execCluClrCnt src c s := rfl
@[simp] theorem exec_hbmClrCnt (src : PtnIx) (st : Fin 4) (s : State) : exec (.hbmClrCnt src st) s = execHbmClrCnt src st s := rfl
@[simp] theorem exec_yalClrCnt (src : PtnIx) (s : State) : exec (.yalClrCnt src) s = execYalClrCnt src s := rfl
@[simp] theorem exec_dgtClrCnt (src : PtnIx) (s : State) : exec (.dgtClrCnt src) s = execDgtClrCnt src s := rfl
@[simp] theorem exec_bbxClrCnt (src : PtnIx) (s : State) : exec (.bbxClrCnt src) s = execBbxClrCnt src s := rfl
@[simp] theorem exec_registerWrite (src : PtnIx) (addr : BitVec 40) (value : Word) (s : State) : exec (.registerWrite src addr value) s = execRegisterWrite src addr value s := rfl
@[simp] theorem exec_resultWrite (t : TileIx) (s : State) : exec (.resultWrite t) s = execResultWrite t s := rfl
@[simp] theorem exec_supplyRecovery (s : State) : exec (.supplyRecovery) s = execSupplyRecovery s := rfl
@[simp] theorem exec_refclkPllLock (mode : Fin 4) (s : State) : exec (.refclkPllLock mode) s = execRefclkPllLock mode s := rfl
@[simp] theorem exec_clockReturn (r : Fin 4) (s : State) : exec (.clockReturn r) s = execClockReturn r s := rfl
@[simp] theorem exec_pciePerstRelease (s : State) : exec (.pciePerstRelease) s = execPciePerstRelease s := rfl
@[simp] theorem exec_postedWriteDrop (s : State) : exec (.postedWriteDrop) s = execPostedWriteDrop s := rfl
@[simp] theorem exec_thermalTripWake (temp : Word) (cool : Bool) (s : State) : exec (.thermalTripWake temp cool) s = execThermalTripWake temp cool s := rfl
@[simp] theorem exec_rtcTick (s : State) : exec (.rtcTick) s = execRtcTick s := rfl
@[simp] theorem exec_tileDebugAccess (t : TileIx) (off : Fin 0x200000) (write : Bool) (data : List Byte) (s : State) : exec (.tileDebugAccess t off write data) s = execTileDebugAccess t off write data s := rfl
@[simp] theorem exec_waysWriteBackDone (p : PtnIx) (s : State) : exec (.waysWriteBackDone p) s = execWaysWriteBackDone p s := rfl

end Sys2Proof.Machine
end

