-- ==== Sys2Proof/Laws/State.lean ====
section
/-! SUPPORT. The fields of State under its named updates: one lemma per field and update, each true by unfolding once. -/
namespace Sys2Proof.Machine

variable (s : State)

/-! ## setRegAt -/

@[simp] theorem State.setRegAt_mem (a : Nat) (v : Word) : (s.setRegAt a v).mem = s.mem := rfl
@[simp] theorem State.setRegAt_flash (a : Nat) (v : Word) : (s.setRegAt a v).flash = s.flash := rfl
@[simp] theorem State.setRegAt_atu (a : Nat) (v : Word) : (s.setRegAt a v).atu = s.atu := rfl
@[simp] theorem State.setRegAt_job (a : Nat) (v : Word) : (s.setRegAt a v).job = s.job := rfl
@[simp] theorem State.setRegAt_tiles (a : Nat) (v : Word) : (s.setRegAt a v).tiles = s.tiles := rfl
@[simp] theorem State.setRegAt_cairns (a : Nat) (v : Word) : (s.setRegAt a v).cairns = s.cairns := rfl
@[simp] theorem State.setRegAt_repair (a : Nat) (v : Word) : (s.setRegAt a v).repair = s.repair := rfl
@[simp] theorem State.setRegAt_holders (a : Nat) (v : Word) : (s.setRegAt a v).holders = s.holders := rfl
@[simp] theorem State.setRegAt_slices (a : Nat) (v : Word) : (s.setRegAt a v).slices = s.slices := rfl
@[simp] theorem State.setRegAt_dgt (a : Nat) (v : Word) : (s.setRegAt a v).dgt = s.dgt := rfl
@[simp] theorem State.setRegAt_coding (a : Nat) (v : Word) : (s.setRegAt a v).coding = s.coding := rfl
@[simp] theorem State.setRegAt_gather (a : Nat) (v : Word) : (s.setRegAt a v).gather = s.gather := rfl
@[simp] theorem State.setRegAt_fhe (a : Nat) (v : Word) : (s.setRegAt a v).fhe = s.fhe := rfl
@[simp] theorem State.setRegAt_pra (a : Nat) (v : Word) : (s.setRegAt a v).pra = s.pra := rfl
@[simp] theorem State.setRegAt_yal (a : Nat) (v : Word) : (s.setRegAt a v).yal = s.yal := rfl
@[simp] theorem State.setRegAt_mmu (a : Nat) (v : Word) : (s.setRegAt a v).mmu = s.mmu := rfl
@[simp] theorem State.setRegAt_syc (a : Nat) (v : Word) : (s.setRegAt a v).syc = s.syc := rfl
@[simp] theorem State.setRegAt_harts (a : Nat) (v : Word) : (s.setRegAt a v).harts = s.harts := rfl
@[simp] theorem State.setRegAt_pciFns (a : Nat) (v : Word) : (s.setRegAt a v).pciFns = s.pciFns := rfl
@[simp] theorem State.setRegAt_pci (a : Nat) (v : Word) : (s.setRegAt a v).pci = s.pci := rfl
@[simp] theorem State.setRegAt_eth (a : Nat) (v : Word) : (s.setRegAt a v).eth = s.eth := rfl
@[simp] theorem State.setRegAt_bbx (a : Nat) (v : Word) : (s.setRegAt a v).bbx = s.bbx := rfl
@[simp] theorem State.setRegAt_power (a : Nat) (v : Word) : (s.setRegAt a v).power = s.power := rfl
@[simp] theorem State.setRegAt_boot (a : Nat) (v : Word) : (s.setRegAt a v).boot = s.boot := rfl
@[simp] theorem State.setRegAt_sec (a : Nat) (v : Word) : (s.setRegAt a v).sec = s.sec := rfl
@[simp] theorem State.setRegAt_out (a : Nat) (v : Word) : (s.setRegAt a v).out = s.out := rfl
@[simp] theorem State.setRegAt_freeCtr (a : Nat) (v : Word) : (s.setRegAt a v).freeCtr = s.freeCtr := rfl
@[simp] theorem State.setRegAt_pending (a : Nat) (v : Word) : (s.setRegAt a v).pending = s.pending := rfl

/-! ## setReg -/

@[simp] theorem State.setReg_mem (r : Reg) (v i j : Nat) : (s.setReg r v i j).mem = s.mem := rfl
@[simp] theorem State.setReg_flash (r : Reg) (v i j : Nat) : (s.setReg r v i j).flash = s.flash := rfl
@[simp] theorem State.setReg_atu (r : Reg) (v i j : Nat) : (s.setReg r v i j).atu = s.atu := rfl
@[simp] theorem State.setReg_job (r : Reg) (v i j : Nat) : (s.setReg r v i j).job = s.job := rfl
@[simp] theorem State.setReg_tiles (r : Reg) (v i j : Nat) : (s.setReg r v i j).tiles = s.tiles := rfl
@[simp] theorem State.setReg_cairns (r : Reg) (v i j : Nat) : (s.setReg r v i j).cairns = s.cairns := rfl
@[simp] theorem State.setReg_repair (r : Reg) (v i j : Nat) : (s.setReg r v i j).repair = s.repair := rfl
@[simp] theorem State.setReg_holders (r : Reg) (v i j : Nat) : (s.setReg r v i j).holders = s.holders := rfl
@[simp] theorem State.setReg_slices (r : Reg) (v i j : Nat) : (s.setReg r v i j).slices = s.slices := rfl
@[simp] theorem State.setReg_dgt (r : Reg) (v i j : Nat) : (s.setReg r v i j).dgt = s.dgt := rfl
@[simp] theorem State.setReg_coding (r : Reg) (v i j : Nat) : (s.setReg r v i j).coding = s.coding := rfl
@[simp] theorem State.setReg_gather (r : Reg) (v i j : Nat) : (s.setReg r v i j).gather = s.gather := rfl
@[simp] theorem State.setReg_fhe (r : Reg) (v i j : Nat) : (s.setReg r v i j).fhe = s.fhe := rfl
@[simp] theorem State.setReg_pra (r : Reg) (v i j : Nat) : (s.setReg r v i j).pra = s.pra := rfl
@[simp] theorem State.setReg_yal (r : Reg) (v i j : Nat) : (s.setReg r v i j).yal = s.yal := rfl
@[simp] theorem State.setReg_mmu (r : Reg) (v i j : Nat) : (s.setReg r v i j).mmu = s.mmu := rfl
@[simp] theorem State.setReg_syc (r : Reg) (v i j : Nat) : (s.setReg r v i j).syc = s.syc := rfl
@[simp] theorem State.setReg_harts (r : Reg) (v i j : Nat) : (s.setReg r v i j).harts = s.harts := rfl
@[simp] theorem State.setReg_pciFns (r : Reg) (v i j : Nat) : (s.setReg r v i j).pciFns = s.pciFns := rfl
@[simp] theorem State.setReg_pci (r : Reg) (v i j : Nat) : (s.setReg r v i j).pci = s.pci := rfl
@[simp] theorem State.setReg_eth (r : Reg) (v i j : Nat) : (s.setReg r v i j).eth = s.eth := rfl
@[simp] theorem State.setReg_bbx (r : Reg) (v i j : Nat) : (s.setReg r v i j).bbx = s.bbx := rfl
@[simp] theorem State.setReg_power (r : Reg) (v i j : Nat) : (s.setReg r v i j).power = s.power := rfl
@[simp] theorem State.setReg_boot (r : Reg) (v i j : Nat) : (s.setReg r v i j).boot = s.boot := rfl
@[simp] theorem State.setReg_sec (r : Reg) (v i j : Nat) : (s.setReg r v i j).sec = s.sec := rfl
@[simp] theorem State.setReg_out (r : Reg) (v i j : Nat) : (s.setReg r v i j).out = s.out := rfl
@[simp] theorem State.setReg_freeCtr (r : Reg) (v i j : Nat) : (s.setReg r v i j).freeCtr = s.freeCtr := rfl
@[simp] theorem State.setReg_pending (r : Reg) (v i j : Nat) : (s.setReg r v i j).pending = s.pending := rfl

/-! ## setFld -/

@[simp] theorem State.setFld_mem (f : Fld) (v i j : Nat) : (s.setFld f v i j).mem = s.mem := rfl
@[simp] theorem State.setFld_flash (f : Fld) (v i j : Nat) : (s.setFld f v i j).flash = s.flash := rfl
@[simp] theorem State.setFld_atu (f : Fld) (v i j : Nat) : (s.setFld f v i j).atu = s.atu := rfl
@[simp] theorem State.setFld_job (f : Fld) (v i j : Nat) : (s.setFld f v i j).job = s.job := rfl
@[simp] theorem State.setFld_tiles (f : Fld) (v i j : Nat) : (s.setFld f v i j).tiles = s.tiles := rfl
@[simp] theorem State.setFld_cairns (f : Fld) (v i j : Nat) : (s.setFld f v i j).cairns = s.cairns := rfl
@[simp] theorem State.setFld_repair (f : Fld) (v i j : Nat) : (s.setFld f v i j).repair = s.repair := rfl
@[simp] theorem State.setFld_holders (f : Fld) (v i j : Nat) : (s.setFld f v i j).holders = s.holders := rfl
@[simp] theorem State.setFld_slices (f : Fld) (v i j : Nat) : (s.setFld f v i j).slices = s.slices := rfl
@[simp] theorem State.setFld_dgt (f : Fld) (v i j : Nat) : (s.setFld f v i j).dgt = s.dgt := rfl
@[simp] theorem State.setFld_coding (f : Fld) (v i j : Nat) : (s.setFld f v i j).coding = s.coding := rfl
@[simp] theorem State.setFld_gather (f : Fld) (v i j : Nat) : (s.setFld f v i j).gather = s.gather := rfl
@[simp] theorem State.setFld_fhe (f : Fld) (v i j : Nat) : (s.setFld f v i j).fhe = s.fhe := rfl
@[simp] theorem State.setFld_pra (f : Fld) (v i j : Nat) : (s.setFld f v i j).pra = s.pra := rfl
@[simp] theorem State.setFld_yal (f : Fld) (v i j : Nat) : (s.setFld f v i j).yal = s.yal := rfl
@[simp] theorem State.setFld_mmu (f : Fld) (v i j : Nat) : (s.setFld f v i j).mmu = s.mmu := rfl
@[simp] theorem State.setFld_syc (f : Fld) (v i j : Nat) : (s.setFld f v i j).syc = s.syc := rfl
@[simp] theorem State.setFld_harts (f : Fld) (v i j : Nat) : (s.setFld f v i j).harts = s.harts := rfl
@[simp] theorem State.setFld_pciFns (f : Fld) (v i j : Nat) : (s.setFld f v i j).pciFns = s.pciFns := rfl
@[simp] theorem State.setFld_pci (f : Fld) (v i j : Nat) : (s.setFld f v i j).pci = s.pci := rfl
@[simp] theorem State.setFld_eth (f : Fld) (v i j : Nat) : (s.setFld f v i j).eth = s.eth := rfl
@[simp] theorem State.setFld_bbx (f : Fld) (v i j : Nat) : (s.setFld f v i j).bbx = s.bbx := rfl
@[simp] theorem State.setFld_power (f : Fld) (v i j : Nat) : (s.setFld f v i j).power = s.power := rfl
@[simp] theorem State.setFld_boot (f : Fld) (v i j : Nat) : (s.setFld f v i j).boot = s.boot := rfl
@[simp] theorem State.setFld_sec (f : Fld) (v i j : Nat) : (s.setFld f v i j).sec = s.sec := rfl
@[simp] theorem State.setFld_out (f : Fld) (v i j : Nat) : (s.setFld f v i j).out = s.out := rfl
@[simp] theorem State.setFld_freeCtr (f : Fld) (v i j : Nat) : (s.setFld f v i j).freeCtr = s.freeCtr := rfl
@[simp] theorem State.setFld_pending (f : Fld) (v i j : Nat) : (s.setFld f v i j).pending = s.pending := rfl

/-! ## incSat -/

@[simp] theorem State.incSat_mem (f : Fld) (n i j : Nat) : (s.incSat f n i j).mem = s.mem := rfl
@[simp] theorem State.incSat_flash (f : Fld) (n i j : Nat) : (s.incSat f n i j).flash = s.flash := rfl
@[simp] theorem State.incSat_atu (f : Fld) (n i j : Nat) : (s.incSat f n i j).atu = s.atu := rfl
@[simp] theorem State.incSat_job (f : Fld) (n i j : Nat) : (s.incSat f n i j).job = s.job := rfl
@[simp] theorem State.incSat_tiles (f : Fld) (n i j : Nat) : (s.incSat f n i j).tiles = s.tiles := rfl
@[simp] theorem State.incSat_cairns (f : Fld) (n i j : Nat) : (s.incSat f n i j).cairns = s.cairns := rfl
@[simp] theorem State.incSat_repair (f : Fld) (n i j : Nat) : (s.incSat f n i j).repair = s.repair := rfl
@[simp] theorem State.incSat_holders (f : Fld) (n i j : Nat) : (s.incSat f n i j).holders = s.holders := rfl
@[simp] theorem State.incSat_slices (f : Fld) (n i j : Nat) : (s.incSat f n i j).slices = s.slices := rfl
@[simp] theorem State.incSat_dgt (f : Fld) (n i j : Nat) : (s.incSat f n i j).dgt = s.dgt := rfl
@[simp] theorem State.incSat_coding (f : Fld) (n i j : Nat) : (s.incSat f n i j).coding = s.coding := rfl
@[simp] theorem State.incSat_gather (f : Fld) (n i j : Nat) : (s.incSat f n i j).gather = s.gather := rfl
@[simp] theorem State.incSat_fhe (f : Fld) (n i j : Nat) : (s.incSat f n i j).fhe = s.fhe := rfl
@[simp] theorem State.incSat_pra (f : Fld) (n i j : Nat) : (s.incSat f n i j).pra = s.pra := rfl
@[simp] theorem State.incSat_yal (f : Fld) (n i j : Nat) : (s.incSat f n i j).yal = s.yal := rfl
@[simp] theorem State.incSat_mmu (f : Fld) (n i j : Nat) : (s.incSat f n i j).mmu = s.mmu := rfl
@[simp] theorem State.incSat_syc (f : Fld) (n i j : Nat) : (s.incSat f n i j).syc = s.syc := rfl
@[simp] theorem State.incSat_harts (f : Fld) (n i j : Nat) : (s.incSat f n i j).harts = s.harts := rfl
@[simp] theorem State.incSat_pciFns (f : Fld) (n i j : Nat) : (s.incSat f n i j).pciFns = s.pciFns := rfl
@[simp] theorem State.incSat_pci (f : Fld) (n i j : Nat) : (s.incSat f n i j).pci = s.pci := rfl
@[simp] theorem State.incSat_eth (f : Fld) (n i j : Nat) : (s.incSat f n i j).eth = s.eth := rfl
@[simp] theorem State.incSat_bbx (f : Fld) (n i j : Nat) : (s.incSat f n i j).bbx = s.bbx := rfl
@[simp] theorem State.incSat_power (f : Fld) (n i j : Nat) : (s.incSat f n i j).power = s.power := rfl
@[simp] theorem State.incSat_boot (f : Fld) (n i j : Nat) : (s.incSat f n i j).boot = s.boot := rfl
@[simp] theorem State.incSat_sec (f : Fld) (n i j : Nat) : (s.incSat f n i j).sec = s.sec := rfl
@[simp] theorem State.incSat_out (f : Fld) (n i j : Nat) : (s.incSat f n i j).out = s.out := rfl
@[simp] theorem State.incSat_freeCtr (f : Fld) (n i j : Nat) : (s.incSat f n i j).freeCtr = s.freeCtr := rfl
@[simp] theorem State.incSat_pending (f : Fld) (n i j : Nat) : (s.incSat f n i j).pending = s.pending := rfl

/-! ## incWrap -/

@[simp] theorem State.incWrap_mem (f : Fld) (n i j : Nat) : (s.incWrap f n i j).mem = s.mem := rfl
@[simp] theorem State.incWrap_flash (f : Fld) (n i j : Nat) : (s.incWrap f n i j).flash = s.flash := rfl
@[simp] theorem State.incWrap_atu (f : Fld) (n i j : Nat) : (s.incWrap f n i j).atu = s.atu := rfl
@[simp] theorem State.incWrap_job (f : Fld) (n i j : Nat) : (s.incWrap f n i j).job = s.job := rfl
@[simp] theorem State.incWrap_tiles (f : Fld) (n i j : Nat) : (s.incWrap f n i j).tiles = s.tiles := rfl
@[simp] theorem State.incWrap_cairns (f : Fld) (n i j : Nat) : (s.incWrap f n i j).cairns = s.cairns := rfl
@[simp] theorem State.incWrap_repair (f : Fld) (n i j : Nat) : (s.incWrap f n i j).repair = s.repair := rfl
@[simp] theorem State.incWrap_holders (f : Fld) (n i j : Nat) : (s.incWrap f n i j).holders = s.holders := rfl
@[simp] theorem State.incWrap_slices (f : Fld) (n i j : Nat) : (s.incWrap f n i j).slices = s.slices := rfl
@[simp] theorem State.incWrap_dgt (f : Fld) (n i j : Nat) : (s.incWrap f n i j).dgt = s.dgt := rfl
@[simp] theorem State.incWrap_coding (f : Fld) (n i j : Nat) : (s.incWrap f n i j).coding = s.coding := rfl
@[simp] theorem State.incWrap_gather (f : Fld) (n i j : Nat) : (s.incWrap f n i j).gather = s.gather := rfl
@[simp] theorem State.incWrap_fhe (f : Fld) (n i j : Nat) : (s.incWrap f n i j).fhe = s.fhe := rfl
@[simp] theorem State.incWrap_pra (f : Fld) (n i j : Nat) : (s.incWrap f n i j).pra = s.pra := rfl
@[simp] theorem State.incWrap_yal (f : Fld) (n i j : Nat) : (s.incWrap f n i j).yal = s.yal := rfl
@[simp] theorem State.incWrap_mmu (f : Fld) (n i j : Nat) : (s.incWrap f n i j).mmu = s.mmu := rfl
@[simp] theorem State.incWrap_syc (f : Fld) (n i j : Nat) : (s.incWrap f n i j).syc = s.syc := rfl
@[simp] theorem State.incWrap_harts (f : Fld) (n i j : Nat) : (s.incWrap f n i j).harts = s.harts := rfl
@[simp] theorem State.incWrap_pciFns (f : Fld) (n i j : Nat) : (s.incWrap f n i j).pciFns = s.pciFns := rfl
@[simp] theorem State.incWrap_pci (f : Fld) (n i j : Nat) : (s.incWrap f n i j).pci = s.pci := rfl
@[simp] theorem State.incWrap_eth (f : Fld) (n i j : Nat) : (s.incWrap f n i j).eth = s.eth := rfl
@[simp] theorem State.incWrap_bbx (f : Fld) (n i j : Nat) : (s.incWrap f n i j).bbx = s.bbx := rfl
@[simp] theorem State.incWrap_power (f : Fld) (n i j : Nat) : (s.incWrap f n i j).power = s.power := rfl
@[simp] theorem State.incWrap_boot (f : Fld) (n i j : Nat) : (s.incWrap f n i j).boot = s.boot := rfl
@[simp] theorem State.incWrap_sec (f : Fld) (n i j : Nat) : (s.incWrap f n i j).sec = s.sec := rfl
@[simp] theorem State.incWrap_out (f : Fld) (n i j : Nat) : (s.incWrap f n i j).out = s.out := rfl
@[simp] theorem State.incWrap_freeCtr (f : Fld) (n i j : Nat) : (s.incWrap f n i j).freeCtr = s.freeCtr := rfl
@[simp] theorem State.incWrap_pending (f : Fld) (n i j : Nat) : (s.incWrap f n i j).pending = s.pending := rfl

/-! ## clearRegs -/

@[simp] theorem State.clearRegs_mem (lo hi : Nat) : (s.clearRegs lo hi).mem = s.mem := rfl
@[simp] theorem State.clearRegs_flash (lo hi : Nat) : (s.clearRegs lo hi).flash = s.flash := rfl
@[simp] theorem State.clearRegs_atu (lo hi : Nat) : (s.clearRegs lo hi).atu = s.atu := rfl
@[simp] theorem State.clearRegs_job (lo hi : Nat) : (s.clearRegs lo hi).job = s.job := rfl
@[simp] theorem State.clearRegs_tiles (lo hi : Nat) : (s.clearRegs lo hi).tiles = s.tiles := rfl
@[simp] theorem State.clearRegs_cairns (lo hi : Nat) : (s.clearRegs lo hi).cairns = s.cairns := rfl
@[simp] theorem State.clearRegs_repair (lo hi : Nat) : (s.clearRegs lo hi).repair = s.repair := rfl
@[simp] theorem State.clearRegs_holders (lo hi : Nat) : (s.clearRegs lo hi).holders = s.holders := rfl
@[simp] theorem State.clearRegs_slices (lo hi : Nat) : (s.clearRegs lo hi).slices = s.slices := rfl
@[simp] theorem State.clearRegs_dgt (lo hi : Nat) : (s.clearRegs lo hi).dgt = s.dgt := rfl
@[simp] theorem State.clearRegs_coding (lo hi : Nat) : (s.clearRegs lo hi).coding = s.coding := rfl
@[simp] theorem State.clearRegs_gather (lo hi : Nat) : (s.clearRegs lo hi).gather = s.gather := rfl
@[simp] theorem State.clearRegs_fhe (lo hi : Nat) : (s.clearRegs lo hi).fhe = s.fhe := rfl
@[simp] theorem State.clearRegs_pra (lo hi : Nat) : (s.clearRegs lo hi).pra = s.pra := rfl
@[simp] theorem State.clearRegs_yal (lo hi : Nat) : (s.clearRegs lo hi).yal = s.yal := rfl
@[simp] theorem State.clearRegs_mmu (lo hi : Nat) : (s.clearRegs lo hi).mmu = s.mmu := rfl
@[simp] theorem State.clearRegs_syc (lo hi : Nat) : (s.clearRegs lo hi).syc = s.syc := rfl
@[simp] theorem State.clearRegs_harts (lo hi : Nat) : (s.clearRegs lo hi).harts = s.harts := rfl
@[simp] theorem State.clearRegs_pciFns (lo hi : Nat) : (s.clearRegs lo hi).pciFns = s.pciFns := rfl
@[simp] theorem State.clearRegs_pci (lo hi : Nat) : (s.clearRegs lo hi).pci = s.pci := rfl
@[simp] theorem State.clearRegs_eth (lo hi : Nat) : (s.clearRegs lo hi).eth = s.eth := rfl
@[simp] theorem State.clearRegs_bbx (lo hi : Nat) : (s.clearRegs lo hi).bbx = s.bbx := rfl
@[simp] theorem State.clearRegs_power (lo hi : Nat) : (s.clearRegs lo hi).power = s.power := rfl
@[simp] theorem State.clearRegs_boot (lo hi : Nat) : (s.clearRegs lo hi).boot = s.boot := rfl
@[simp] theorem State.clearRegs_sec (lo hi : Nat) : (s.clearRegs lo hi).sec = s.sec := rfl
@[simp] theorem State.clearRegs_out (lo hi : Nat) : (s.clearRegs lo hi).out = s.out := rfl
@[simp] theorem State.clearRegs_freeCtr (lo hi : Nat) : (s.clearRegs lo hi).freeCtr = s.freeCtr := rfl
@[simp] theorem State.clearRegs_pending (lo hi : Nat) : (s.clearRegs lo hi).pending = s.pending := rfl

/-! ## poke -/

@[simp] theorem State.poke_regs (a : Nat) (bs : List Byte) : (s.poke a bs).regs = s.regs := rfl
@[simp] theorem State.poke_flash (a : Nat) (bs : List Byte) : (s.poke a bs).flash = s.flash := rfl
@[simp] theorem State.poke_atu (a : Nat) (bs : List Byte) : (s.poke a bs).atu = s.atu := rfl
@[simp] theorem State.poke_job (a : Nat) (bs : List Byte) : (s.poke a bs).job = s.job := rfl
@[simp] theorem State.poke_tiles (a : Nat) (bs : List Byte) : (s.poke a bs).tiles = s.tiles := rfl
@[simp] theorem State.poke_cairns (a : Nat) (bs : List Byte) : (s.poke a bs).cairns = s.cairns := rfl
@[simp] theorem State.poke_repair (a : Nat) (bs : List Byte) : (s.poke a bs).repair = s.repair := rfl
@[simp] theorem State.poke_holders (a : Nat) (bs : List Byte) : (s.poke a bs).holders = s.holders := rfl
@[simp] theorem State.poke_slices (a : Nat) (bs : List Byte) : (s.poke a bs).slices = s.slices := rfl
@[simp] theorem State.poke_dgt (a : Nat) (bs : List Byte) : (s.poke a bs).dgt = s.dgt := rfl
@[simp] theorem State.poke_coding (a : Nat) (bs : List Byte) : (s.poke a bs).coding = s.coding := rfl
@[simp] theorem State.poke_gather (a : Nat) (bs : List Byte) : (s.poke a bs).gather = s.gather := rfl
@[simp] theorem State.poke_fhe (a : Nat) (bs : List Byte) : (s.poke a bs).fhe = s.fhe := rfl
@[simp] theorem State.poke_pra (a : Nat) (bs : List Byte) : (s.poke a bs).pra = s.pra := rfl
@[simp] theorem State.poke_yal (a : Nat) (bs : List Byte) : (s.poke a bs).yal = s.yal := rfl
@[simp] theorem State.poke_mmu (a : Nat) (bs : List Byte) : (s.poke a bs).mmu = s.mmu := rfl
@[simp] theorem State.poke_syc (a : Nat) (bs : List Byte) : (s.poke a bs).syc = s.syc := rfl
@[simp] theorem State.poke_harts (a : Nat) (bs : List Byte) : (s.poke a bs).harts = s.harts := rfl
@[simp] theorem State.poke_pciFns (a : Nat) (bs : List Byte) : (s.poke a bs).pciFns = s.pciFns := rfl
@[simp] theorem State.poke_pci (a : Nat) (bs : List Byte) : (s.poke a bs).pci = s.pci := rfl
@[simp] theorem State.poke_eth (a : Nat) (bs : List Byte) : (s.poke a bs).eth = s.eth := rfl
@[simp] theorem State.poke_bbx (a : Nat) (bs : List Byte) : (s.poke a bs).bbx = s.bbx := rfl
@[simp] theorem State.poke_power (a : Nat) (bs : List Byte) : (s.poke a bs).power = s.power := rfl
@[simp] theorem State.poke_boot (a : Nat) (bs : List Byte) : (s.poke a bs).boot = s.boot := rfl
@[simp] theorem State.poke_sec (a : Nat) (bs : List Byte) : (s.poke a bs).sec = s.sec := rfl
@[simp] theorem State.poke_out (a : Nat) (bs : List Byte) : (s.poke a bs).out = s.out := rfl
@[simp] theorem State.poke_freeCtr (a : Nat) (bs : List Byte) : (s.poke a bs).freeCtr = s.freeCtr := rfl
@[simp] theorem State.poke_pending (a : Nat) (bs : List Byte) : (s.poke a bs).pending = s.pending := rfl

/-! ## clearMem -/

@[simp] theorem State.clearMem_regs (lo hi : Nat) : (s.clearMem lo hi).regs = s.regs := rfl
@[simp] theorem State.clearMem_flash (lo hi : Nat) : (s.clearMem lo hi).flash = s.flash := rfl
@[simp] theorem State.clearMem_atu (lo hi : Nat) : (s.clearMem lo hi).atu = s.atu := rfl
@[simp] theorem State.clearMem_job (lo hi : Nat) : (s.clearMem lo hi).job = s.job := rfl
@[simp] theorem State.clearMem_tiles (lo hi : Nat) : (s.clearMem lo hi).tiles = s.tiles := rfl
@[simp] theorem State.clearMem_cairns (lo hi : Nat) : (s.clearMem lo hi).cairns = s.cairns := rfl
@[simp] theorem State.clearMem_repair (lo hi : Nat) : (s.clearMem lo hi).repair = s.repair := rfl
@[simp] theorem State.clearMem_holders (lo hi : Nat) : (s.clearMem lo hi).holders = s.holders := rfl
@[simp] theorem State.clearMem_slices (lo hi : Nat) : (s.clearMem lo hi).slices = s.slices := rfl
@[simp] theorem State.clearMem_dgt (lo hi : Nat) : (s.clearMem lo hi).dgt = s.dgt := rfl
@[simp] theorem State.clearMem_coding (lo hi : Nat) : (s.clearMem lo hi).coding = s.coding := rfl
@[simp] theorem State.clearMem_gather (lo hi : Nat) : (s.clearMem lo hi).gather = s.gather := rfl
@[simp] theorem State.clearMem_fhe (lo hi : Nat) : (s.clearMem lo hi).fhe = s.fhe := rfl
@[simp] theorem State.clearMem_pra (lo hi : Nat) : (s.clearMem lo hi).pra = s.pra := rfl
@[simp] theorem State.clearMem_yal (lo hi : Nat) : (s.clearMem lo hi).yal = s.yal := rfl
@[simp] theorem State.clearMem_mmu (lo hi : Nat) : (s.clearMem lo hi).mmu = s.mmu := rfl
@[simp] theorem State.clearMem_syc (lo hi : Nat) : (s.clearMem lo hi).syc = s.syc := rfl
@[simp] theorem State.clearMem_harts (lo hi : Nat) : (s.clearMem lo hi).harts = s.harts := rfl
@[simp] theorem State.clearMem_pciFns (lo hi : Nat) : (s.clearMem lo hi).pciFns = s.pciFns := rfl
@[simp] theorem State.clearMem_pci (lo hi : Nat) : (s.clearMem lo hi).pci = s.pci := rfl
@[simp] theorem State.clearMem_eth (lo hi : Nat) : (s.clearMem lo hi).eth = s.eth := rfl
@[simp] theorem State.clearMem_bbx (lo hi : Nat) : (s.clearMem lo hi).bbx = s.bbx := rfl
@[simp] theorem State.clearMem_power (lo hi : Nat) : (s.clearMem lo hi).power = s.power := rfl
@[simp] theorem State.clearMem_boot (lo hi : Nat) : (s.clearMem lo hi).boot = s.boot := rfl
@[simp] theorem State.clearMem_sec (lo hi : Nat) : (s.clearMem lo hi).sec = s.sec := rfl
@[simp] theorem State.clearMem_out (lo hi : Nat) : (s.clearMem lo hi).out = s.out := rfl
@[simp] theorem State.clearMem_freeCtr (lo hi : Nat) : (s.clearMem lo hi).freeCtr = s.freeCtr := rfl
@[simp] theorem State.clearMem_pending (lo hi : Nat) : (s.clearMem lo hi).pending = s.pending := rfl

/-! ## setTile -/

@[simp] theorem State.setTile_regs (t : Nat) (x : Tile) : (s.setTile t x).regs = s.regs := rfl
@[simp] theorem State.setTile_mem (t : Nat) (x : Tile) : (s.setTile t x).mem = s.mem := rfl
@[simp] theorem State.setTile_flash (t : Nat) (x : Tile) : (s.setTile t x).flash = s.flash := rfl
@[simp] theorem State.setTile_atu (t : Nat) (x : Tile) : (s.setTile t x).atu = s.atu := rfl
@[simp] theorem State.setTile_job (t : Nat) (x : Tile) : (s.setTile t x).job = s.job := rfl
@[simp] theorem State.setTile_cairns (t : Nat) (x : Tile) : (s.setTile t x).cairns = s.cairns := rfl
@[simp] theorem State.setTile_repair (t : Nat) (x : Tile) : (s.setTile t x).repair = s.repair := rfl
@[simp] theorem State.setTile_holders (t : Nat) (x : Tile) : (s.setTile t x).holders = s.holders := rfl
@[simp] theorem State.setTile_slices (t : Nat) (x : Tile) : (s.setTile t x).slices = s.slices := rfl
@[simp] theorem State.setTile_dgt (t : Nat) (x : Tile) : (s.setTile t x).dgt = s.dgt := rfl
@[simp] theorem State.setTile_coding (t : Nat) (x : Tile) : (s.setTile t x).coding = s.coding := rfl
@[simp] theorem State.setTile_gather (t : Nat) (x : Tile) : (s.setTile t x).gather = s.gather := rfl
@[simp] theorem State.setTile_fhe (t : Nat) (x : Tile) : (s.setTile t x).fhe = s.fhe := rfl
@[simp] theorem State.setTile_pra (t : Nat) (x : Tile) : (s.setTile t x).pra = s.pra := rfl
@[simp] theorem State.setTile_yal (t : Nat) (x : Tile) : (s.setTile t x).yal = s.yal := rfl
@[simp] theorem State.setTile_mmu (t : Nat) (x : Tile) : (s.setTile t x).mmu = s.mmu := rfl
@[simp] theorem State.setTile_syc (t : Nat) (x : Tile) : (s.setTile t x).syc = s.syc := rfl
@[simp] theorem State.setTile_harts (t : Nat) (x : Tile) : (s.setTile t x).harts = s.harts := rfl
@[simp] theorem State.setTile_pciFns (t : Nat) (x : Tile) : (s.setTile t x).pciFns = s.pciFns := rfl
@[simp] theorem State.setTile_pci (t : Nat) (x : Tile) : (s.setTile t x).pci = s.pci := rfl
@[simp] theorem State.setTile_eth (t : Nat) (x : Tile) : (s.setTile t x).eth = s.eth := rfl
@[simp] theorem State.setTile_bbx (t : Nat) (x : Tile) : (s.setTile t x).bbx = s.bbx := rfl
@[simp] theorem State.setTile_power (t : Nat) (x : Tile) : (s.setTile t x).power = s.power := rfl
@[simp] theorem State.setTile_boot (t : Nat) (x : Tile) : (s.setTile t x).boot = s.boot := rfl
@[simp] theorem State.setTile_sec (t : Nat) (x : Tile) : (s.setTile t x).sec = s.sec := rfl
@[simp] theorem State.setTile_out (t : Nat) (x : Tile) : (s.setTile t x).out = s.out := rfl
@[simp] theorem State.setTile_freeCtr (t : Nat) (x : Tile) : (s.setTile t x).freeCtr = s.freeCtr := rfl
@[simp] theorem State.setTile_pending (t : Nat) (x : Tile) : (s.setTile t x).pending = s.pending := rfl

/-! ## modTile -/

@[simp] theorem State.modTile_regs (t : Nat) (f : Tile → Tile) : (s.modTile t f).regs = s.regs := rfl
@[simp] theorem State.modTile_mem (t : Nat) (f : Tile → Tile) : (s.modTile t f).mem = s.mem := rfl
@[simp] theorem State.modTile_flash (t : Nat) (f : Tile → Tile) : (s.modTile t f).flash = s.flash := rfl
@[simp] theorem State.modTile_atu (t : Nat) (f : Tile → Tile) : (s.modTile t f).atu = s.atu := rfl
@[simp] theorem State.modTile_job (t : Nat) (f : Tile → Tile) : (s.modTile t f).job = s.job := rfl
@[simp] theorem State.modTile_cairns (t : Nat) (f : Tile → Tile) : (s.modTile t f).cairns = s.cairns := rfl
@[simp] theorem State.modTile_repair (t : Nat) (f : Tile → Tile) : (s.modTile t f).repair = s.repair := rfl
@[simp] theorem State.modTile_holders (t : Nat) (f : Tile → Tile) : (s.modTile t f).holders = s.holders := rfl
@[simp] theorem State.modTile_slices (t : Nat) (f : Tile → Tile) : (s.modTile t f).slices = s.slices := rfl
@[simp] theorem State.modTile_dgt (t : Nat) (f : Tile → Tile) : (s.modTile t f).dgt = s.dgt := rfl
@[simp] theorem State.modTile_coding (t : Nat) (f : Tile → Tile) : (s.modTile t f).coding = s.coding := rfl
@[simp] theorem State.modTile_gather (t : Nat) (f : Tile → Tile) : (s.modTile t f).gather = s.gather := rfl
@[simp] theorem State.modTile_fhe (t : Nat) (f : Tile → Tile) : (s.modTile t f).fhe = s.fhe := rfl
@[simp] theorem State.modTile_pra (t : Nat) (f : Tile → Tile) : (s.modTile t f).pra = s.pra := rfl
@[simp] theorem State.modTile_yal (t : Nat) (f : Tile → Tile) : (s.modTile t f).yal = s.yal := rfl
@[simp] theorem State.modTile_mmu (t : Nat) (f : Tile → Tile) : (s.modTile t f).mmu = s.mmu := rfl
@[simp] theorem State.modTile_syc (t : Nat) (f : Tile → Tile) : (s.modTile t f).syc = s.syc := rfl
@[simp] theorem State.modTile_harts (t : Nat) (f : Tile → Tile) : (s.modTile t f).harts = s.harts := rfl
@[simp] theorem State.modTile_pciFns (t : Nat) (f : Tile → Tile) : (s.modTile t f).pciFns = s.pciFns := rfl
@[simp] theorem State.modTile_pci (t : Nat) (f : Tile → Tile) : (s.modTile t f).pci = s.pci := rfl
@[simp] theorem State.modTile_eth (t : Nat) (f : Tile → Tile) : (s.modTile t f).eth = s.eth := rfl
@[simp] theorem State.modTile_bbx (t : Nat) (f : Tile → Tile) : (s.modTile t f).bbx = s.bbx := rfl
@[simp] theorem State.modTile_power (t : Nat) (f : Tile → Tile) : (s.modTile t f).power = s.power := rfl
@[simp] theorem State.modTile_boot (t : Nat) (f : Tile → Tile) : (s.modTile t f).boot = s.boot := rfl
@[simp] theorem State.modTile_sec (t : Nat) (f : Tile → Tile) : (s.modTile t f).sec = s.sec := rfl
@[simp] theorem State.modTile_out (t : Nat) (f : Tile → Tile) : (s.modTile t f).out = s.out := rfl
@[simp] theorem State.modTile_freeCtr (t : Nat) (f : Tile → Tile) : (s.modTile t f).freeCtr = s.freeCtr := rfl
@[simp] theorem State.modTile_pending (t : Nat) (f : Tile → Tile) : (s.modTile t f).pending = s.pending := rfl

/-! ## stageWrite -/

@[simp] theorem State.stageWrite_regs (t lat : Nat) (w : Write) : (s.stageWrite t lat w).regs = s.regs := rfl
@[simp] theorem State.stageWrite_mem (t lat : Nat) (w : Write) : (s.stageWrite t lat w).mem = s.mem := rfl
@[simp] theorem State.stageWrite_flash (t lat : Nat) (w : Write) : (s.stageWrite t lat w).flash = s.flash := rfl
@[simp] theorem State.stageWrite_atu (t lat : Nat) (w : Write) : (s.stageWrite t lat w).atu = s.atu := rfl
@[simp] theorem State.stageWrite_job (t lat : Nat) (w : Write) : (s.stageWrite t lat w).job = s.job := rfl
@[simp] theorem State.stageWrite_cairns (t lat : Nat) (w : Write) : (s.stageWrite t lat w).cairns = s.cairns := rfl
@[simp] theorem State.stageWrite_repair (t lat : Nat) (w : Write) : (s.stageWrite t lat w).repair = s.repair := rfl
@[simp] theorem State.stageWrite_holders (t lat : Nat) (w : Write) : (s.stageWrite t lat w).holders = s.holders := rfl
@[simp] theorem State.stageWrite_slices (t lat : Nat) (w : Write) : (s.stageWrite t lat w).slices = s.slices := rfl
@[simp] theorem State.stageWrite_dgt (t lat : Nat) (w : Write) : (s.stageWrite t lat w).dgt = s.dgt := rfl
@[simp] theorem State.stageWrite_coding (t lat : Nat) (w : Write) : (s.stageWrite t lat w).coding = s.coding := rfl
@[simp] theorem State.stageWrite_gather (t lat : Nat) (w : Write) : (s.stageWrite t lat w).gather = s.gather := rfl
@[simp] theorem State.stageWrite_fhe (t lat : Nat) (w : Write) : (s.stageWrite t lat w).fhe = s.fhe := rfl
@[simp] theorem State.stageWrite_pra (t lat : Nat) (w : Write) : (s.stageWrite t lat w).pra = s.pra := rfl
@[simp] theorem State.stageWrite_yal (t lat : Nat) (w : Write) : (s.stageWrite t lat w).yal = s.yal := rfl
@[simp] theorem State.stageWrite_mmu (t lat : Nat) (w : Write) : (s.stageWrite t lat w).mmu = s.mmu := rfl
@[simp] theorem State.stageWrite_syc (t lat : Nat) (w : Write) : (s.stageWrite t lat w).syc = s.syc := rfl
@[simp] theorem State.stageWrite_harts (t lat : Nat) (w : Write) : (s.stageWrite t lat w).harts = s.harts := rfl
@[simp] theorem State.stageWrite_pciFns (t lat : Nat) (w : Write) : (s.stageWrite t lat w).pciFns = s.pciFns := rfl
@[simp] theorem State.stageWrite_pci (t lat : Nat) (w : Write) : (s.stageWrite t lat w).pci = s.pci := rfl
@[simp] theorem State.stageWrite_eth (t lat : Nat) (w : Write) : (s.stageWrite t lat w).eth = s.eth := rfl
@[simp] theorem State.stageWrite_bbx (t lat : Nat) (w : Write) : (s.stageWrite t lat w).bbx = s.bbx := rfl
@[simp] theorem State.stageWrite_power (t lat : Nat) (w : Write) : (s.stageWrite t lat w).power = s.power := rfl
@[simp] theorem State.stageWrite_boot (t lat : Nat) (w : Write) : (s.stageWrite t lat w).boot = s.boot := rfl
@[simp] theorem State.stageWrite_sec (t lat : Nat) (w : Write) : (s.stageWrite t lat w).sec = s.sec := rfl
@[simp] theorem State.stageWrite_out (t lat : Nat) (w : Write) : (s.stageWrite t lat w).out = s.out := rfl
@[simp] theorem State.stageWrite_freeCtr (t lat : Nat) (w : Write) : (s.stageWrite t lat w).freeCtr = s.freeCtr := rfl
@[simp] theorem State.stageWrite_pending (t lat : Nat) (w : Write) : (s.stageWrite t lat w).pending = s.pending := rfl

/-! ## setJobPtn -/

@[simp] theorem State.setJobPtn_regs (p : Nat) (x : JobPtn) : (s.setJobPtn p x).regs = s.regs := rfl
@[simp] theorem State.setJobPtn_mem (p : Nat) (x : JobPtn) : (s.setJobPtn p x).mem = s.mem := rfl
@[simp] theorem State.setJobPtn_flash (p : Nat) (x : JobPtn) : (s.setJobPtn p x).flash = s.flash := rfl
@[simp] theorem State.setJobPtn_atu (p : Nat) (x : JobPtn) : (s.setJobPtn p x).atu = s.atu := rfl
@[simp] theorem State.setJobPtn_tiles (p : Nat) (x : JobPtn) : (s.setJobPtn p x).tiles = s.tiles := rfl
@[simp] theorem State.setJobPtn_cairns (p : Nat) (x : JobPtn) : (s.setJobPtn p x).cairns = s.cairns := rfl
@[simp] theorem State.setJobPtn_repair (p : Nat) (x : JobPtn) : (s.setJobPtn p x).repair = s.repair := rfl
@[simp] theorem State.setJobPtn_holders (p : Nat) (x : JobPtn) : (s.setJobPtn p x).holders = s.holders := rfl
@[simp] theorem State.setJobPtn_slices (p : Nat) (x : JobPtn) : (s.setJobPtn p x).slices = s.slices := rfl
@[simp] theorem State.setJobPtn_dgt (p : Nat) (x : JobPtn) : (s.setJobPtn p x).dgt = s.dgt := rfl
@[simp] theorem State.setJobPtn_coding (p : Nat) (x : JobPtn) : (s.setJobPtn p x).coding = s.coding := rfl
@[simp] theorem State.setJobPtn_gather (p : Nat) (x : JobPtn) : (s.setJobPtn p x).gather = s.gather := rfl
@[simp] theorem State.setJobPtn_fhe (p : Nat) (x : JobPtn) : (s.setJobPtn p x).fhe = s.fhe := rfl
@[simp] theorem State.setJobPtn_pra (p : Nat) (x : JobPtn) : (s.setJobPtn p x).pra = s.pra := rfl
@[simp] theorem State.setJobPtn_yal (p : Nat) (x : JobPtn) : (s.setJobPtn p x).yal = s.yal := rfl
@[simp] theorem State.setJobPtn_mmu (p : Nat) (x : JobPtn) : (s.setJobPtn p x).mmu = s.mmu := rfl
@[simp] theorem State.setJobPtn_syc (p : Nat) (x : JobPtn) : (s.setJobPtn p x).syc = s.syc := rfl
@[simp] theorem State.setJobPtn_harts (p : Nat) (x : JobPtn) : (s.setJobPtn p x).harts = s.harts := rfl
@[simp] theorem State.setJobPtn_pciFns (p : Nat) (x : JobPtn) : (s.setJobPtn p x).pciFns = s.pciFns := rfl
@[simp] theorem State.setJobPtn_pci (p : Nat) (x : JobPtn) : (s.setJobPtn p x).pci = s.pci := rfl
@[simp] theorem State.setJobPtn_eth (p : Nat) (x : JobPtn) : (s.setJobPtn p x).eth = s.eth := rfl
@[simp] theorem State.setJobPtn_bbx (p : Nat) (x : JobPtn) : (s.setJobPtn p x).bbx = s.bbx := rfl
@[simp] theorem State.setJobPtn_power (p : Nat) (x : JobPtn) : (s.setJobPtn p x).power = s.power := rfl
@[simp] theorem State.setJobPtn_boot (p : Nat) (x : JobPtn) : (s.setJobPtn p x).boot = s.boot := rfl
@[simp] theorem State.setJobPtn_sec (p : Nat) (x : JobPtn) : (s.setJobPtn p x).sec = s.sec := rfl
@[simp] theorem State.setJobPtn_out (p : Nat) (x : JobPtn) : (s.setJobPtn p x).out = s.out := rfl
@[simp] theorem State.setJobPtn_freeCtr (p : Nat) (x : JobPtn) : (s.setJobPtn p x).freeCtr = s.freeCtr := rfl
@[simp] theorem State.setJobPtn_pending (p : Nat) (x : JobPtn) : (s.setJobPtn p x).pending = s.pending := rfl

/-! ## modJobPtn -/

@[simp] theorem State.modJobPtn_regs (p : Nat) (f : JobPtn → JobPtn) : (s.modJobPtn p f).regs = s.regs := rfl
@[simp] theorem State.modJobPtn_mem (p : Nat) (f : JobPtn → JobPtn) : (s.modJobPtn p f).mem = s.mem := rfl
@[simp] theorem State.modJobPtn_flash (p : Nat) (f : JobPtn → JobPtn) : (s.modJobPtn p f).flash = s.flash := rfl
@[simp] theorem State.modJobPtn_atu (p : Nat) (f : JobPtn → JobPtn) : (s.modJobPtn p f).atu = s.atu := rfl
@[simp] theorem State.modJobPtn_tiles (p : Nat) (f : JobPtn → JobPtn) : (s.modJobPtn p f).tiles = s.tiles := rfl
@[simp] theorem State.modJobPtn_cairns (p : Nat) (f : JobPtn → JobPtn) : (s.modJobPtn p f).cairns = s.cairns := rfl
@[simp] theorem State.modJobPtn_repair (p : Nat) (f : JobPtn → JobPtn) : (s.modJobPtn p f).repair = s.repair := rfl
@[simp] theorem State.modJobPtn_holders (p : Nat) (f : JobPtn → JobPtn) : (s.modJobPtn p f).holders = s.holders := rfl
@[simp] theorem State.modJobPtn_slices (p : Nat) (f : JobPtn → JobPtn) : (s.modJobPtn p f).slices = s.slices := rfl
@[simp] theorem State.modJobPtn_dgt (p : Nat) (f : JobPtn → JobPtn) : (s.modJobPtn p f).dgt = s.dgt := rfl
@[simp] theorem State.modJobPtn_coding (p : Nat) (f : JobPtn → JobPtn) : (s.modJobPtn p f).coding = s.coding := rfl
@[simp] theorem State.modJobPtn_gather (p : Nat) (f : JobPtn → JobPtn) : (s.modJobPtn p f).gather = s.gather := rfl
@[simp] theorem State.modJobPtn_fhe (p : Nat) (f : JobPtn → JobPtn) : (s.modJobPtn p f).fhe = s.fhe := rfl
@[simp] theorem State.modJobPtn_pra (p : Nat) (f : JobPtn → JobPtn) : (s.modJobPtn p f).pra = s.pra := rfl
@[simp] theorem State.modJobPtn_yal (p : Nat) (f : JobPtn → JobPtn) : (s.modJobPtn p f).yal = s.yal := rfl
@[simp] theorem State.modJobPtn_mmu (p : Nat) (f : JobPtn → JobPtn) : (s.modJobPtn p f).mmu = s.mmu := rfl
@[simp] theorem State.modJobPtn_syc (p : Nat) (f : JobPtn → JobPtn) : (s.modJobPtn p f).syc = s.syc := rfl
@[simp] theorem State.modJobPtn_harts (p : Nat) (f : JobPtn → JobPtn) : (s.modJobPtn p f).harts = s.harts := rfl
@[simp] theorem State.modJobPtn_pciFns (p : Nat) (f : JobPtn → JobPtn) : (s.modJobPtn p f).pciFns = s.pciFns := rfl
@[simp] theorem State.modJobPtn_pci (p : Nat) (f : JobPtn → JobPtn) : (s.modJobPtn p f).pci = s.pci := rfl
@[simp] theorem State.modJobPtn_eth (p : Nat) (f : JobPtn → JobPtn) : (s.modJobPtn p f).eth = s.eth := rfl
@[simp] theorem State.modJobPtn_bbx (p : Nat) (f : JobPtn → JobPtn) : (s.modJobPtn p f).bbx = s.bbx := rfl
@[simp] theorem State.modJobPtn_power (p : Nat) (f : JobPtn → JobPtn) : (s.modJobPtn p f).power = s.power := rfl
@[simp] theorem State.modJobPtn_boot (p : Nat) (f : JobPtn → JobPtn) : (s.modJobPtn p f).boot = s.boot := rfl
@[simp] theorem State.modJobPtn_sec (p : Nat) (f : JobPtn → JobPtn) : (s.modJobPtn p f).sec = s.sec := rfl
@[simp] theorem State.modJobPtn_out (p : Nat) (f : JobPtn → JobPtn) : (s.modJobPtn p f).out = s.out := rfl
@[simp] theorem State.modJobPtn_freeCtr (p : Nat) (f : JobPtn → JobPtn) : (s.modJobPtn p f).freeCtr = s.freeCtr := rfl
@[simp] theorem State.modJobPtn_pending (p : Nat) (f : JobPtn → JobPtn) : (s.modJobPtn p f).pending = s.pending := rfl

/-! ## putJob -/

@[simp] theorem State.putJob_regs (j : Nat) (x : Job) : (s.putJob j x).regs = s.regs := rfl
@[simp] theorem State.putJob_mem (j : Nat) (x : Job) : (s.putJob j x).mem = s.mem := rfl
@[simp] theorem State.putJob_flash (j : Nat) (x : Job) : (s.putJob j x).flash = s.flash := rfl
@[simp] theorem State.putJob_atu (j : Nat) (x : Job) : (s.putJob j x).atu = s.atu := rfl
@[simp] theorem State.putJob_tiles (j : Nat) (x : Job) : (s.putJob j x).tiles = s.tiles := rfl
@[simp] theorem State.putJob_cairns (j : Nat) (x : Job) : (s.putJob j x).cairns = s.cairns := rfl
@[simp] theorem State.putJob_repair (j : Nat) (x : Job) : (s.putJob j x).repair = s.repair := rfl
@[simp] theorem State.putJob_holders (j : Nat) (x : Job) : (s.putJob j x).holders = s.holders := rfl
@[simp] theorem State.putJob_slices (j : Nat) (x : Job) : (s.putJob j x).slices = s.slices := rfl
@[simp] theorem State.putJob_dgt (j : Nat) (x : Job) : (s.putJob j x).dgt = s.dgt := rfl
@[simp] theorem State.putJob_coding (j : Nat) (x : Job) : (s.putJob j x).coding = s.coding := rfl
@[simp] theorem State.putJob_gather (j : Nat) (x : Job) : (s.putJob j x).gather = s.gather := rfl
@[simp] theorem State.putJob_fhe (j : Nat) (x : Job) : (s.putJob j x).fhe = s.fhe := rfl
@[simp] theorem State.putJob_pra (j : Nat) (x : Job) : (s.putJob j x).pra = s.pra := rfl
@[simp] theorem State.putJob_yal (j : Nat) (x : Job) : (s.putJob j x).yal = s.yal := rfl
@[simp] theorem State.putJob_mmu (j : Nat) (x : Job) : (s.putJob j x).mmu = s.mmu := rfl
@[simp] theorem State.putJob_syc (j : Nat) (x : Job) : (s.putJob j x).syc = s.syc := rfl
@[simp] theorem State.putJob_harts (j : Nat) (x : Job) : (s.putJob j x).harts = s.harts := rfl
@[simp] theorem State.putJob_pciFns (j : Nat) (x : Job) : (s.putJob j x).pciFns = s.pciFns := rfl
@[simp] theorem State.putJob_pci (j : Nat) (x : Job) : (s.putJob j x).pci = s.pci := rfl
@[simp] theorem State.putJob_eth (j : Nat) (x : Job) : (s.putJob j x).eth = s.eth := rfl
@[simp] theorem State.putJob_bbx (j : Nat) (x : Job) : (s.putJob j x).bbx = s.bbx := rfl
@[simp] theorem State.putJob_power (j : Nat) (x : Job) : (s.putJob j x).power = s.power := rfl
@[simp] theorem State.putJob_boot (j : Nat) (x : Job) : (s.putJob j x).boot = s.boot := rfl
@[simp] theorem State.putJob_sec (j : Nat) (x : Job) : (s.putJob j x).sec = s.sec := rfl
@[simp] theorem State.putJob_out (j : Nat) (x : Job) : (s.putJob j x).out = s.out := rfl
@[simp] theorem State.putJob_freeCtr (j : Nat) (x : Job) : (s.putJob j x).freeCtr = s.freeCtr := rfl
@[simp] theorem State.putJob_pending (j : Nat) (x : Job) : (s.putJob j x).pending = s.pending := rfl

/-! ## modAtu -/

@[simp] theorem State.modAtu_regs (f : Atu → Atu) : (s.modAtu f).regs = s.regs := rfl
@[simp] theorem State.modAtu_mem (f : Atu → Atu) : (s.modAtu f).mem = s.mem := rfl
@[simp] theorem State.modAtu_flash (f : Atu → Atu) : (s.modAtu f).flash = s.flash := rfl
@[simp] theorem State.modAtu_job (f : Atu → Atu) : (s.modAtu f).job = s.job := rfl
@[simp] theorem State.modAtu_tiles (f : Atu → Atu) : (s.modAtu f).tiles = s.tiles := rfl
@[simp] theorem State.modAtu_cairns (f : Atu → Atu) : (s.modAtu f).cairns = s.cairns := rfl
@[simp] theorem State.modAtu_repair (f : Atu → Atu) : (s.modAtu f).repair = s.repair := rfl
@[simp] theorem State.modAtu_holders (f : Atu → Atu) : (s.modAtu f).holders = s.holders := rfl
@[simp] theorem State.modAtu_slices (f : Atu → Atu) : (s.modAtu f).slices = s.slices := rfl
@[simp] theorem State.modAtu_dgt (f : Atu → Atu) : (s.modAtu f).dgt = s.dgt := rfl
@[simp] theorem State.modAtu_coding (f : Atu → Atu) : (s.modAtu f).coding = s.coding := rfl
@[simp] theorem State.modAtu_gather (f : Atu → Atu) : (s.modAtu f).gather = s.gather := rfl
@[simp] theorem State.modAtu_fhe (f : Atu → Atu) : (s.modAtu f).fhe = s.fhe := rfl
@[simp] theorem State.modAtu_pra (f : Atu → Atu) : (s.modAtu f).pra = s.pra := rfl
@[simp] theorem State.modAtu_yal (f : Atu → Atu) : (s.modAtu f).yal = s.yal := rfl
@[simp] theorem State.modAtu_mmu (f : Atu → Atu) : (s.modAtu f).mmu = s.mmu := rfl
@[simp] theorem State.modAtu_syc (f : Atu → Atu) : (s.modAtu f).syc = s.syc := rfl
@[simp] theorem State.modAtu_harts (f : Atu → Atu) : (s.modAtu f).harts = s.harts := rfl
@[simp] theorem State.modAtu_pciFns (f : Atu → Atu) : (s.modAtu f).pciFns = s.pciFns := rfl
@[simp] theorem State.modAtu_pci (f : Atu → Atu) : (s.modAtu f).pci = s.pci := rfl
@[simp] theorem State.modAtu_eth (f : Atu → Atu) : (s.modAtu f).eth = s.eth := rfl
@[simp] theorem State.modAtu_bbx (f : Atu → Atu) : (s.modAtu f).bbx = s.bbx := rfl
@[simp] theorem State.modAtu_power (f : Atu → Atu) : (s.modAtu f).power = s.power := rfl
@[simp] theorem State.modAtu_boot (f : Atu → Atu) : (s.modAtu f).boot = s.boot := rfl
@[simp] theorem State.modAtu_sec (f : Atu → Atu) : (s.modAtu f).sec = s.sec := rfl
@[simp] theorem State.modAtu_out (f : Atu → Atu) : (s.modAtu f).out = s.out := rfl
@[simp] theorem State.modAtu_freeCtr (f : Atu → Atu) : (s.modAtu f).freeCtr = s.freeCtr := rfl
@[simp] theorem State.modAtu_pending (f : Atu → Atu) : (s.modAtu f).pending = s.pending := rfl

/-! ## draw -/

@[simp] theorem State.draw_regs : s.draw.2.regs = s.regs := rfl
@[simp] theorem State.draw_mem : s.draw.2.mem = s.mem := rfl
@[simp] theorem State.draw_flash : s.draw.2.flash = s.flash := rfl
@[simp] theorem State.draw_atu : s.draw.2.atu = s.atu := rfl
@[simp] theorem State.draw_job : s.draw.2.job = s.job := rfl
@[simp] theorem State.draw_tiles : s.draw.2.tiles = s.tiles := rfl
@[simp] theorem State.draw_cairns : s.draw.2.cairns = s.cairns := rfl
@[simp] theorem State.draw_repair : s.draw.2.repair = s.repair := rfl
@[simp] theorem State.draw_holders : s.draw.2.holders = s.holders := rfl
@[simp] theorem State.draw_slices : s.draw.2.slices = s.slices := rfl
@[simp] theorem State.draw_dgt : s.draw.2.dgt = s.dgt := rfl
@[simp] theorem State.draw_coding : s.draw.2.coding = s.coding := rfl
@[simp] theorem State.draw_gather : s.draw.2.gather = s.gather := rfl
@[simp] theorem State.draw_fhe : s.draw.2.fhe = s.fhe := rfl
@[simp] theorem State.draw_pra : s.draw.2.pra = s.pra := rfl
@[simp] theorem State.draw_yal : s.draw.2.yal = s.yal := rfl
@[simp] theorem State.draw_mmu : s.draw.2.mmu = s.mmu := rfl
@[simp] theorem State.draw_syc : s.draw.2.syc = s.syc := rfl
@[simp] theorem State.draw_harts : s.draw.2.harts = s.harts := rfl
@[simp] theorem State.draw_pciFns : s.draw.2.pciFns = s.pciFns := rfl
@[simp] theorem State.draw_pci : s.draw.2.pci = s.pci := rfl
@[simp] theorem State.draw_eth : s.draw.2.eth = s.eth := rfl
@[simp] theorem State.draw_bbx : s.draw.2.bbx = s.bbx := rfl
@[simp] theorem State.draw_power : s.draw.2.power = s.power := rfl
@[simp] theorem State.draw_boot : s.draw.2.boot = s.boot := rfl
@[simp] theorem State.draw_sec : s.draw.2.sec = s.sec := rfl
@[simp] theorem State.draw_out : s.draw.2.out = s.out := rfl
@[simp] theorem State.draw_pending : s.draw.2.pending = s.pending := rfl
@[simp] theorem State.draw_freeCtr : s.draw.2.freeCtr = s.freeCtr + 1 := rfl

/-! ## What the updates change -/

@[simp] theorem State.setRegAt_regs (a : Nat) (v : Word) : (s.setRegAt a v).regs = s.regs.set regReset a v := rfl
@[simp] theorem State.poke_mem (a : Nat) (bs : List Byte) : (s.poke a bs).mem = pokeMem s.mem a bs := rfl
@[simp] theorem State.setTile_tiles (t : Nat) (x : Tile) : (s.setTile t x).tiles = s.tiles.put t x := rfl
@[simp] theorem State.modAtu_atu (f : Atu → Atu) : (s.modAtu f).atu = f s.atu := rfl

end Sys2Proof.Machine
end

