-- ==== Sys2Proof/Laws/Table.lean ====
section
/-! SUPPORT. Laws of sparse tables: what is read back after a write, and that the canonical form is kept. -/
namespace Sys2Proof.Machine

variable {β : Type}

theorem findRow_putRow_same (k : Nat) (v : β) (m : List (Nat × β)) : findRow k (putRow k v m) = some v := by
  induction m with
  | nil => simp [putRow, findRow]
  | cons r m ih =>
    obtain ⟨k', v'⟩ := r
    simp only [putRow]
    split
    · simp [findRow]
    · split
      · simp [findRow]
      · rename_i h _
        simp [findRow, h, ih]

theorem findRow_putRow_other {k j : Nat} (h : j ≠ k) (v : β) (m : List (Nat × β)) :
    findRow j (putRow k v m) = findRow j m := by
  induction m with
  | nil => simp [putRow, findRow, Ne.symm h]
  | cons r m ih =>
    obtain ⟨k', v'⟩ := r
    simp only [putRow]
    split
    · rename_i e
      simp [findRow, e, Ne.symm h]
    · split
      · simp [findRow, Ne.symm h]
      · simp [findRow, ih]

theorem findRow_delRow_same (k : Nat) (m : List (Nat × β)) : findRow k (delRow k m) = none := by
  induction m with
  | nil => rfl
  | cons r m ih =>
    obtain ⟨k', v'⟩ := r
    simp only [delRow]
    split
    · exact ih
    · rename_i h
      simp [findRow, h, ih]

theorem findRow_delRow_other {k j : Nat} (h : j ≠ k) (m : List (Nat × β)) : findRow j (delRow k m) = findRow j m := by
  induction m with
  | nil => rfl
  | cons r m ih =>
    obtain ⟨k', v'⟩ := r
    simp only [delRow]
    split
    · rename_i e
      subst e
      simp [findRow, Ne.symm h, ih]
    · simp [findRow, ih]

@[simp] theorem Table.find?_put_same (m : Table β) (k : Nat) (v : β) : (m.put k v).find? k = some v :=
  findRow_putRow_same k v m.rows

theorem Table.find?_put_other (m : Table β) {k j : Nat} (h : j ≠ k) (v : β) : (m.put k v).find? j = m.find? j :=
  findRow_putRow_other h v m.rows

@[simp] theorem Table.find?_del_same (m : Table β) (k : Nat) : (m.del k).find? k = none := findRow_delRow_same k m.rows

theorem Table.find?_del_other (m : Table β) {k j : Nat} (h : j ≠ k) : (m.del k).find? j = m.find? j :=
  findRow_delRow_other h m.rows

@[simp] theorem Table.find?_empty (k : Nat) : (Table.empty : Table β).find? k = none := rfl

@[simp] theorem Table.getD_put_same (m : Table β) (k : Nat) (v d : β) : (m.put k v).getD k d = v := by
  simp [Table.getD]

theorem Table.getD_put_other (m : Table β) {k j : Nat} (h : j ≠ k) (v d : β) : (m.put k v).getD j d = m.getD j d := by
  simp [Table.getD, Table.find?_put_other m h]

/-- A second put under the same key replaces the first. -/
@[simp] theorem Table.put_put (m : Table β) (k : Nat) (v w : β) : (m.put k v).put k w = m.put k w := by
  have h : ∀ l : List (Nat × β), putRow k w (putRow k v l) = putRow k w l := by
    intro l
    induction l with
    | nil => simp [putRow]
    | cons r l ih =>
      obtain ⟨k', v'⟩ := r
      by_cases e : k' = k
      · subst e; simp [putRow]
      · by_cases lt : k < k'
        · simp [putRow, e, lt]
        · simp [putRow, e, lt, ih]
  simp [Table.put, h]

section Defaults
variable [DecidableEq β]

@[simp] theorem Table.get_set_same (m : Table β) (d : Nat → β) (k : Nat) (v : β) : (m.set d k v).get d k = v := by
  unfold Table.get Table.set
  split
  · rename_i h; simp [h]
  · simp

theorem Table.get_set_other (m : Table β) (d : Nat → β) {k j : Nat} (h : j ≠ k) (v : β) :
    (m.set d k v).get d j = m.get d j := by
  unfold Table.get Table.set
  split
  · simp [Table.find?_del_other m h]
  · simp [Table.find?_put_other m h]

@[simp] theorem Table.getD_set_same (m : Table β) (c : β) (k : Nat) (v : β) : (m.set (fun _ => c) k v).getD k c = v :=
  Table.get_set_same m (fun _ => c) k v

theorem Table.getD_set_other (m : Table β) (c : β) {k j : Nat} (h : j ≠ k) (v : β) :
    (m.set (fun _ => c) k v).getD j c = m.getD j c := Table.get_set_other m (fun _ => c) h v

@[simp] theorem Table.get_empty (d : Nat → β) (k : Nat) : (Table.empty : Table β).get d k = d k := rfl

end Defaults

/-! ## The canonical form -/

/-- The keys rise from above `lo`. -/
theorem keysRise_some_iff {lo : Nat} {k : Nat} {v : β} {m : List (Nat × β)} :
    keysRise (some lo) ((k, v) :: m) = true ↔ lo < k ∧ keysRise (some k) m = true := by simp [keysRise]

theorem keysRise_weaken {lo lo' : Nat} (h : lo' ≤ lo) {m : List (Nat × β)} (hm : keysRise (some lo) m = true) :
    keysRise (some lo') m = true := by
  cases m with
  | nil => rfl
  | cons r m =>
    obtain ⟨k, v⟩ := r
    rw [keysRise_some_iff] at hm ⊢
    exact ⟨by omega, hm.2⟩

theorem keysRise_forget {lo : Nat} {m : List (Nat × β)} (hm : keysRise (some lo) m = true) : keysRise none m = true := by
  cases m with
  | nil => rfl
  | cons r m =>
    obtain ⟨k, v⟩ := r
    rw [keysRise_some_iff] at hm
    simpa [keysRise] using hm.2

theorem keysRise_put {k : Nat} (v : β) {lo : Nat} (hk : lo < k) {m : List (Nat × β)} (hm : keysRise (some lo) m = true) :
    keysRise (some lo) (putRow k v m) = true := by
  induction m generalizing lo with
  | nil => simp [putRow, keysRise, hk]
  | cons r m ih =>
    obtain ⟨k', v'⟩ := r
    rw [keysRise_some_iff] at hm
    simp only [putRow]
    split
    · rename_i e; subst e; exact keysRise_some_iff.2 hm
    · split
      · rename_i lt
        exact keysRise_some_iff.2 ⟨hk, keysRise_some_iff.2 ⟨lt, hm.2⟩⟩
      · exact keysRise_some_iff.2 ⟨hm.1, ih (by omega) hm.2⟩

theorem keysRise_put_none (k : Nat) (v : β) {m : List (Nat × β)} (hm : keysRise none m = true) :
    keysRise none (putRow k v m) = true := by
  cases m with
  | nil => rfl
  | cons r m =>
    obtain ⟨k', v'⟩ := r
    have hm' : keysRise (some k') m = true := by simpa [keysRise] using hm
    simp only [putRow]
    split
    · rename_i e; subst e; simpa [keysRise] using hm'
    · split
      · rename_i lt
        simpa [keysRise, lt] using hm'
      · simpa [keysRise] using keysRise_put v (by omega) hm'

theorem keysRise_del (k : Nat) {lo : Nat} {m : List (Nat × β)} (hm : keysRise (some lo) m = true) :
    keysRise (some lo) (delRow k m) = true := by
  induction m generalizing lo with
  | nil => rfl
  | cons r m ih =>
    obtain ⟨k', v'⟩ := r
    rw [keysRise_some_iff] at hm
    simp only [delRow]
    split
    · exact keysRise_weaken (Nat.le_of_lt hm.1) (ih hm.2)
    · exact keysRise_some_iff.2 ⟨hm.1, ih hm.2⟩

theorem keysRise_del_none (k : Nat) {m : List (Nat × β)} (hm : keysRise none m = true) : keysRise none (delRow k m) = true := by
  cases m with
  | nil => rfl
  | cons r m =>
    obtain ⟨k', v'⟩ := r
    have hm' : keysRise (some k') m = true := by simpa [keysRise] using hm
    simp only [delRow]
    split
    · exact keysRise_forget (keysRise_del k hm')
    · simpa [keysRise] using keysRise_del k hm'

theorem keysRise_filter (p : Nat × β → Bool) {lo : Nat} {m : List (Nat × β)} (hm : keysRise (some lo) m = true) :
    keysRise (some lo) (m.filter p) = true := by
  induction m generalizing lo with
  | nil => rfl
  | cons r m ih =>
    obtain ⟨k', v'⟩ := r
    rw [keysRise_some_iff] at hm
    simp only [List.filter]
    split
    · exact keysRise_some_iff.2 ⟨hm.1, ih hm.2⟩
    · exact keysRise_weaken (Nat.le_of_lt hm.1) (ih hm.2)

theorem keysRise_filter_none (p : Nat × β → Bool) {m : List (Nat × β)} (hm : keysRise none m = true) :
    keysRise none (m.filter p) = true := by
  cases m with
  | nil => rfl
  | cons r m =>
    obtain ⟨k', v'⟩ := r
    have hm' : keysRise (some k') m = true := by simpa [keysRise] using hm
    simp only [List.filter]
    split
    · simpa [keysRise] using keysRise_filter p hm'
    · exact keysRise_forget (keysRise_filter p hm')

section Defaults
variable [DecidableEq β]

theorem noDefault_put (d : Nat → β) (k : Nat) {v : β} (hv : v ≠ d k) {m : List (Nat × β)} (hm : noDefault d m = true) :
    noDefault d (putRow k v m) = true := by
  induction m with
  | nil => simp [putRow, noDefault, hv]
  | cons r m ih =>
    obtain ⟨k', v'⟩ := r
    have hm' : v' ≠ d k' ∧ noDefault d m = true := by simpa [noDefault] using hm
    simp only [putRow]
    split
    · simp [noDefault, hv, hm'.2]
    · split
      · simp [noDefault, hv, hm'.1, hm'.2]
      · simp [noDefault, hm'.1, ih hm'.2]

theorem noDefault_del (d : Nat → β) (k : Nat) {m : List (Nat × β)} (hm : noDefault d m = true) :
    noDefault d (delRow k m) = true := by
  induction m with
  | nil => rfl
  | cons r m ih =>
    obtain ⟨k', v'⟩ := r
    have hm' : v' ≠ d k' ∧ noDefault d m = true := by simpa [noDefault] using hm
    simp only [delRow]
    split
    · exact ih hm'.2
    · simp [noDefault, hm'.1, ih hm'.2]

theorem noDefault_filter (d : Nat → β) (p : Nat × β → Bool) {m : List (Nat × β)} (hm : noDefault d m = true) :
    noDefault d (m.filter p) = true := by
  induction m with
  | nil => rfl
  | cons r m ih =>
    obtain ⟨k', v'⟩ := r
    have hm' : v' ≠ d k' ∧ noDefault d m = true := by simpa [noDefault] using hm
    simp only [List.filter]
    split
    · simp [noDefault, hm'.1, ih hm'.2]
    · exact ih hm'.2

/-- Setting a value keeps the canonical form. -/
theorem Table.wf_set (m : Table β) (d : Nat → β) (k : Nat) (v : β) (h : m.wf d = true) : (m.set d k v).wf d = true := by
  simp only [Table.wf, Bool.and_eq_true] at h
  unfold Table.set
  split
  · simp [Table.wf, Table.del, keysRise_del_none k h.1, noDefault_del d k h.2]
  · rename_i hv
    simp [Table.wf, Table.put, keysRise_put_none k v h.1, noDefault_put d k hv h.2]

/-- Keeping part of the rows keeps the canonical form. -/
theorem Table.wf_keep (m : Table β) (d : Nat → β) (p : Nat → Bool) (h : m.wf d = true) : (m.keep p).wf d = true := by
  simp only [Table.wf, Bool.and_eq_true] at h
  simp [Table.wf, Table.keep, keysRise_filter_none _ h.1, noDefault_filter d _ h.2]

@[simp] theorem Table.wf_empty (d : Nat → β) : (Table.empty : Table β).wf d = true := rfl

theorem findRow_filter (p : Nat → Bool) (k : Nat) (m : List (Nat × β)) :
    findRow k (m.filter fun r => p r.1) = if p k then findRow k m else none := by
  induction m with
  | nil => simp [findRow]
  | cons r m ih =>
    obtain ⟨k', v'⟩ := r
    by_cases e : k' = k
    · subst e
      cases h : p k' <;> simp [List.filter, h, findRow, ih]
    · cases h : p k' <;> simp [List.filter, h, findRow, ih, e]

/-- What is read of a table of which part is kept. -/
theorem Table.get_keep (m : Table β) (d : Nat → β) (p : Nat → Bool) (k : Nat) :
    (m.keep p).get d k = if p k then m.get d k else d k := by
  have h := findRow_filter p k m.rows
  cases hp : p k <;> simp [Table.get, Table.keep, Table.find?, h, hp]

/-- A key at or below the bound is not listed. -/
theorem findRow_none_of_rise {lo : Nat} {m : List (Nat × β)} (hm : keysRise (some lo) m = true) {k : Nat} (hk : k ≤ lo) :
    findRow k m = none := by
  induction m generalizing lo with
  | nil => rfl
  | cons r m ih =>
    obtain ⟨k', v'⟩ := r
    rw [keysRise_some_iff] at hm
    have : k' ≠ k := by omega
    simp [findRow, this, ih hm.2 (by omega)]

end Defaults
end Sys2Proof.Machine
end

