-- ==== Sys2Proof/Laws/Memory.lean ====
section
/-! SUPPORT. Laws of memory: a read after a write, what a write leaves alone, and that every memory operation keeps the
canonical form. -/
namespace Sys2Proof.Machine

/-! ## Reads after writes -/

/-- Bytes outside the written ones read as before. -/
theorem get_pokeMem_other (m : Table Byte) (a : Nat) (bs : List Byte) {b : Nat} (h : b < a ∨ a + bs.length ≤ b) :
    (pokeMem m a bs).get memReset b = m.get memReset b := by
  induction bs generalizing m a with
  | nil => rfl
  | cons x xs ih =>
    simp only [pokeMem]
    rw [ih _ _ (by simp only [List.length_cons] at h; omega),
      Table.get_set_other _ _ (by simp only [List.length_cons] at h; omega)]

/-- A written byte reads as written. -/
theorem get_pokeMem_same (m : Table Byte) (a : Nat) (bs : List Byte) {k : Nat} (h : k < bs.length) :
    (pokeMem m a bs).get memReset (a + k) = bs[k] := by
  induction bs generalizing m a k with
  | nil => simp at h
  | cons x xs ih =>
    simp only [pokeMem]
    cases k with
    | zero => rw [get_pokeMem_other _ _ _ (by omega)]; simp
    | succ k =>
      have := ih (m.set memReset a x) (a + 1) (k := k) (by simpa using h)
      rw [show a + (k + 1) = a + 1 + k by omega, this]
      rfl

variable (s : State)

theorem State.byte_poke_other (a : Nat) (bs : List Byte) {b : Nat} (h : b < a ∨ a + bs.length ≤ b) :
    (s.poke a bs).byte b = s.byte b := get_pokeMem_other s.mem a bs h

theorem State.byte_poke_same (a : Nat) (bs : List Byte) {k : Nat} (h : k < bs.length) : (s.poke a bs).byte (a + k) = bs[k] :=
  get_pokeMem_same s.mem a bs h

/-- A state with the same memory reads the same bytes. -/
theorem State.byte_congr {s t : State} (h : t.mem = s.mem) (a : Nat) : t.byte a = s.byte a := by simp [State.byte, h]

theorem State.byte_clearMem (lo hi b : Nat) : (s.clearMem lo hi).byte b = if lo ≤ b ∧ b < hi then 0#8 else s.byte b := by
  simp only [State.byte, State.clearMem, Table.get_keep, memReset]
  by_cases h : lo ≤ b ∧ b < hi
  · simp [h.1, h.2]
  · have : b < lo ∨ hi ≤ b := by omega
    simp [this, h]

/-! ## The canonical form -/

theorem Memory.wf_pokeMem (m : Table Byte) (a : Nat) (bs : List Byte) (h : Memory.wf m = true) : Memory.wf (pokeMem m a bs) = true := by
  induction bs generalizing m a with
  | nil => exact h
  | cons x xs ih => exact ih _ _ (Table.wf_set m memReset a x h)

theorem State.poke_wf (a : Nat) (bs : List Byte) (h : Memory.wf s.mem = true) : Memory.wf (s.poke a bs).mem = true :=
  Memory.wf_pokeMem s.mem a bs h

theorem State.clearMem_wf (lo hi : Nat) (h : Memory.wf s.mem = true) : Memory.wf (s.clearMem lo hi).mem = true :=
  Table.wf_keep s.mem memReset _ h

theorem State.setRegAt_wf (a : Nat) (v : Word) (h : s.regs.wf regReset = true) : (s.setRegAt a v).regs.wf regReset = true :=
  Table.wf_set s.regs regReset a v h

theorem State.clearRegs_wf (lo hi : Nat) (h : s.regs.wf regReset = true) : (s.clearRegs lo hi).regs.wf regReset = true :=
  Table.wf_keep s.regs regReset _ h

theorem Memory.wf_reset : Memory.wf State.reset.mem = true := rfl

end Sys2Proof.Machine
end

