-- ==== Sys2Proof/Laws/Registers.lean ====
section
/-! SUPPORT. Laws of bit fields, registers and unit records: a read after a write, and what a write leaves alone. -/
namespace Sys2Proof.Machine

/-! ## Bit fields of numbers -/

theorem bits_lt (x hi lo : Nat) : bits x hi lo < 2 ^ (hi + 1 - lo) := Nat.mod_lt _ (Nat.two_pow_pos _)

/-- A number splits at a field into what lies above it, the field and what lies below. -/
theorem bits_split (x : Nat) {hi lo : Nat} (h : lo ≤ hi) :
    x = x / 2 ^ (hi + 1) * 2 ^ (hi + 1) + bits x hi lo * 2 ^ lo + x % 2 ^ lo := by
  have hp : (2 : Nat) ^ (hi + 1) = 2 ^ lo * 2 ^ (hi + 1 - lo) := by
    rw [← Nat.pow_add]; congr 1; omega
  have h1 := Nat.div_add_mod x (2 ^ lo)
  have h2 := Nat.div_add_mod (x / 2 ^ lo) (2 ^ (hi + 1 - lo))
  rw [Nat.div_div_eq_div_mul, ← hp] at h2
  unfold bits
  calc x = 2 ^ lo * (x / 2 ^ lo) + x % 2 ^ lo := h1.symm
    _ = 2 ^ lo * (2 ^ (hi + 1 - lo) * (x / 2 ^ (hi + 1)) + x / 2 ^ lo % 2 ^ (hi + 1 - lo)) + x % 2 ^ lo := by rw [h2]
    _ = _ := by rw [hp]; ring

/-- Replacing a field leaves what lies above and below it. -/
theorem setBits_split (x v : Nat) {hi lo : Nat} (h : lo ≤ hi) :
    setBits x hi lo v = x / 2 ^ (hi + 1) * 2 ^ (hi + 1) + v % 2 ^ (hi + 1 - lo) * 2 ^ lo + x % 2 ^ lo := by
  have := bits_split x h
  unfold setBits
  omega

/-- A field's value and what lies under it stay below the bit above the field. -/
theorem field_lt (v y : Nat) {hi lo : Nat} (h : lo ≤ hi) (hy : y < 2 ^ lo) :
    v % 2 ^ (hi + 1 - lo) * 2 ^ lo + y < 2 ^ (hi + 1) := by
  have hp : (2 : Nat) ^ (hi + 1) = 2 ^ (hi + 1 - lo) * 2 ^ lo := by
    rw [← Nat.pow_add]; congr 1; omega
  have hv : v % 2 ^ (hi + 1 - lo) < 2 ^ (hi + 1 - lo) := Nat.mod_lt _ (Nat.two_pow_pos _)
  rw [hp]
  calc v % 2 ^ (hi + 1 - lo) * 2 ^ lo + y < v % 2 ^ (hi + 1 - lo) * 2 ^ lo + 2 ^ lo := by omega
    _ = (v % 2 ^ (hi + 1 - lo) + 1) * 2 ^ lo := by ring
    _ ≤ _ := Nat.mul_le_mul_right _ hv

/-- The field itself after it is replaced. -/
theorem bits_setBits_same (x v : Nat) {hi lo : Nat} (h : lo ≤ hi) : bits (setBits x hi lo v) hi lo = v % 2 ^ (hi + 1 - lo) := by
  have hp : (2 : Nat) ^ (hi + 1) = 2 ^ lo * 2 ^ (hi + 1 - lo) := by
    rw [← Nat.pow_add]; congr 1; omega
  have hx : x % 2 ^ lo < 2 ^ lo := Nat.mod_lt _ (Nat.two_pow_pos _)
  rw [setBits_split x v h]
  unfold bits
  have : x / 2 ^ (hi + 1) * 2 ^ (hi + 1) + v % 2 ^ (hi + 1 - lo) * 2 ^ lo + x % 2 ^ lo
      = (x / 2 ^ (hi + 1) * 2 ^ (hi + 1 - lo) + v % 2 ^ (hi + 1 - lo)) * 2 ^ lo + x % 2 ^ lo := by rw [hp]; ring
  rw [this, Nat.add_comm, Nat.add_mul_div_right _ _ (Nat.two_pow_pos _), Nat.div_eq_of_lt hx, Nat.zero_add, Nat.add_comm,
    Nat.add_mul_mod_self_right, Nat.mod_mod]

/-- A field above the replaced one. -/
theorem bits_setBits_above (x v : Nat) {hi lo hi' lo' : Nat} (h : lo ≤ hi) (ha : hi < lo') :
    bits (setBits x hi lo v) hi' lo' = bits x hi' lo' := by
  have hx : x % 2 ^ lo < 2 ^ lo := Nat.mod_lt _ (Nat.two_pow_pos _)
  have hp : (2 : Nat) ^ lo' = 2 ^ (hi + 1) * 2 ^ (lo' - (hi + 1)) := by
    rw [← Nat.pow_add]; congr 1; omega
  have hd : setBits x hi lo v / 2 ^ (hi + 1) = x / 2 ^ (hi + 1) := by
    rw [setBits_split x v h, Nat.add_assoc, Nat.add_comm, Nat.add_mul_div_right _ _ (Nat.two_pow_pos _),
      Nat.div_eq_of_lt (field_lt v _ h hx), Nat.zero_add]
  unfold bits
  rw [hp, ← Nat.div_div_eq_div_mul, ← Nat.div_div_eq_div_mul, hd]

/-- A field below the replaced one. -/
theorem bits_setBits_below (x v : Nat) {hi lo hi' lo' : Nat} (h : lo ≤ hi) (hb : hi' < lo) (h' : lo' ≤ hi') :
    bits (setBits x hi lo v) hi' lo' = bits x hi' lo' := by
  have key : ∀ y : Nat, bits y hi' lo' = bits (y % 2 ^ lo) hi' lo' := by
    intro y
    have hp : (2 : Nat) ^ lo = 2 ^ lo' * 2 ^ (lo - lo') := by
      rw [← Nat.pow_add]; congr 1; omega
    unfold bits
    rw [hp, Nat.mod_mul_right_div_self, Nat.mod_mod_of_dvd]
    exact Nat.pow_dvd_pow 2 (by omega)
  have hm : setBits x hi lo v % 2 ^ lo = x % 2 ^ lo := by
    have hp : (2 : Nat) ^ (hi + 1) = 2 ^ (hi + 1 - lo) * 2 ^ lo := by
      rw [← Nat.pow_add]; congr 1; omega
    rw [setBits_split x v h, hp]
    have : x / (2 ^ (hi + 1 - lo) * 2 ^ lo) * (2 ^ (hi + 1 - lo) * 2 ^ lo) + v % 2 ^ (hi + 1 - lo) * 2 ^ lo + x % 2 ^ lo
      = x % 2 ^ lo + 2 ^ lo * (x / (2 ^ (hi + 1 - lo) * 2 ^ lo) * 2 ^ (hi + 1 - lo) + v % 2 ^ (hi + 1 - lo)) := by ring
    rw [this, Nat.add_mul_mod_self_left, Nat.mod_mod]
  rw [key, hm, ← key]

/-- A word stays a word. -/
theorem setBits_lt {x v hi lo n : Nat} (h : lo ≤ hi) (hn : hi < n) (hx : x < 2 ^ n) : setBits x hi lo v < 2 ^ n := by
  rw [setBits_split x v h]
  have hp : (2 : Nat) ^ n = 2 ^ (n - (hi + 1)) * 2 ^ (hi + 1) := by
    rw [← Nat.pow_add]; congr 1; omega
  have hd : x / 2 ^ (hi + 1) < 2 ^ (n - (hi + 1)) := by
    rw [Nat.div_lt_iff_lt_mul (Nat.two_pow_pos _), ← hp]; exact hx
  have hf := field_lt v (x % 2 ^ lo) h (Nat.mod_lt _ (Nat.two_pow_pos _))
  rw [hp]
  calc x / 2 ^ (hi + 1) * 2 ^ (hi + 1) + v % 2 ^ (hi + 1 - lo) * 2 ^ lo + x % 2 ^ lo
      < x / 2 ^ (hi + 1) * 2 ^ (hi + 1) + 2 ^ (hi + 1) := by omega
    _ = (x / 2 ^ (hi + 1) + 1) * 2 ^ (hi + 1) := by ring
    _ ≤ _ := Nat.mul_le_mul_right _ hd

/-! ## Registers -/

variable (s : State)

@[simp] theorem State.regAt_setRegAt_same (a : Nat) (v : Word) : (s.setRegAt a v).regAt a = v := by
  simp [State.regAt]

theorem State.regAt_setRegAt_other {a b : Nat} (h : b ≠ a) (v : Word) : (s.setRegAt a v).regAt b = s.regAt b := by
  simp [State.regAt, Table.get_set_other _ _ h]

@[simp] theorem State.reg_setReg_same (r : Reg) (v i j : Nat) : (s.setReg r v i j).reg r i j = v % 2 ^ 32 := by
  simp [State.reg, State.setReg]

theorem State.reg_setReg_other {r q : Reg} {i j k l : Nat} (h : q.addr k l ≠ r.addr i j) (v : Nat) :
    (s.setReg r v i j).reg q k l = s.reg q k l := by
  simp [State.reg, State.setReg, State.regAt_setRegAt_other s h]

theorem State.reg_lt (r : Reg) (i j : Nat) : s.reg r i j < 2 ^ 32 := (s.regAt (r.addr i j)).isLt

/-- A field reads as it was set. -/
theorem State.fld_setFld_same (f : Fld) (v i j : Nat) (h : f.lo ≤ f.hi) (h31 : f.hi < 32) :
    (s.setFld f v i j).fld f i j = v % 2 ^ (f.hi + 1 - f.lo) := by
  have hlt := setBits_lt (v := v) h h31 (s.reg_lt f.reg i j)
  unfold State.fld State.setFld
  rw [State.reg_setReg_same, Nat.mod_eq_of_lt hlt, bits_setBits_same _ _ h]

/-- Another field of the same register keeps its value. -/
theorem State.fld_setFld_disjoint (f g : Fld) (v i j : Nat) (hr : g.reg = f.reg) (h : f.lo ≤ f.hi) (h31 : f.hi < 32)
    (hg : g.lo ≤ g.hi) (hd : f.hi < g.lo ∨ g.hi < f.lo) : (s.setFld f v i j).fld g i j = s.fld g i j := by
  have hlt := setBits_lt (v := v) h h31 (s.reg_lt f.reg i j)
  unfold State.fld State.setFld
  rw [hr, State.reg_setReg_same, Nat.mod_eq_of_lt hlt]
  rcases hd with hd | hd
  · exact bits_setBits_above _ _ h hd
  · exact bits_setBits_below _ _ h hd hg

/-- A field of another register keeps its value. -/
theorem State.fld_setFld_other (f g : Fld) (v i j k l : Nat) (h : g.reg.addr k l ≠ f.reg.addr i j) :
    (s.setFld f v i j).fld g k l = s.fld g k l := by
  simp [State.fld, State.setFld, State.reg_setReg_other s h]

theorem State.fld_setReg_other (r : Reg) (g : Fld) (v i j k l : Nat) (h : g.reg.addr k l ≠ r.addr i j) :
    (s.setReg r v i j).fld g k l = s.fld g k l := by
  simp [State.fld, State.reg_setReg_other s h]

theorem State.reg_setFld_other (f : Fld) (r : Reg) (v i j k l : Nat) (h : r.addr k l ≠ f.reg.addr i j) :
    (s.setFld f v i j).reg r k l = s.reg r k l := by
  simp [State.setFld, State.reg_setReg_other s h]

/-! ## Unit records -/

@[simp] theorem State.tile_setTile_same (t : Nat) (x : Tile) : (s.setTile t x).tile t = x := by
  simp [State.tile]

/-- While their domain is ON the links work. -/
theorem State.linksWork_of_domOn (h : s.domOn 75 = true) : s.linksWork = true := by
  simp only [State.domOn, beq_iff_eq] at h
  simp [State.linksWork, h]

theorem State.tile_setTile_other {t u : Nat} (h : u ≠ t) (x : Tile) : (s.setTile t x).tile u = s.tile u := by
  simp [State.tile, Table.getD_put_other _ h]

@[simp] theorem State.tile_modTile_same (t : Nat) (f : Tile → Tile) : (s.modTile t f).tile t = f (s.tile t) := by
  simp [State.modTile]

theorem State.tile_modTile_other {t u : Nat} (h : u ≠ t) (f : Tile → Tile) : (s.modTile t f).tile u = s.tile u := by
  simp [State.modTile, State.tile_setTile_other s h]

/-- Two changes of one tile are one. -/
@[simp] theorem State.setTile_setTile (t : Nat) (x y : Tile) : (s.setTile t x).setTile t y = s.setTile t y := by
  simp [State.setTile]

@[simp] theorem State.modTile_modTile (t : Nat) (f g : Tile → Tile) :
    (s.modTile t f).modTile t g = s.modTile t fun x => g (f x) := by
  simp [State.modTile]

@[simp] theorem State.modTile_setTile (t : Nat) (x : Tile) (f : Tile → Tile) : (s.setTile t x).modTile t f = s.setTile t (f x) := by
  simp [State.modTile]

@[simp] theorem State.jobPtn_setJobPtn_same (p : Nat) (x : JobPtn) : (s.setJobPtn p x).jobPtn p = x := by
  simp [State.jobPtn, State.setJobPtn]

theorem State.jobPtn_setJobPtn_other {p q : Nat} (h : q ≠ p) (x : JobPtn) : (s.setJobPtn p x).jobPtn q = s.jobPtn q := by
  simp [State.jobPtn, State.setJobPtn, Table.getD_put_other _ h]

@[simp] theorem State.job?_putJob_same (j : Nat) (x : Job) : (s.putJob j x).job? j = some x := by
  simp [State.job?, State.putJob]

theorem State.job?_putJob_other {j k : Nat} (h : k ≠ j) (x : Job) : (s.putJob j x).job? k = s.job? k := by
  simp [State.job?, State.putJob, Table.find?_put_other _ h]

end Sys2Proof.Machine
end

