-- ==== Sys2Proof/Laws/Events.lean ====
section
/-! SUPPORT. What writing a record can do: raising an event touches its rings, the stage and the units through which its
bytes travel, and nothing else. Later proofs cite `State.raise_recorded` and never unfold an event. -/
namespace Sys2Proof.Machine

/-- What a store to a tile's memory leaves alone: all but what its matrix operations and loaded image keep of that memory. -/
def Tile.face (x : Tile) : Tile := { x with mq := [], loading := [], running := [], loaded := none }

/-- Registers that recording may write: the tails and status of the event rings, and those of the black box and of the cores. -/
def recordReg (a : Nat) : Bool :=
  (decide (0x40051000 ≤ a) && decide (a < 0x40059000) && (decide (a % 0x800 = 0x230) || decide (a % 0x800 = 0x234)) ||
    decide (0x401A0000 ≤ a) && decide (a < 0x401C0000))

/-- `t` is `s` after records have been written and interrupts sent. -/
structure Recorded (s t : State) : Prop where
  regs : ∀ a, recordReg a = false → t.regAt a = s.regAt a
  regsWf : s.regs.wf regReset = true → t.regs.wf regReset = true
  memWf : Memory.wf s.mem = true → Memory.wf t.mem = true
  tiles : ∀ k, (t.tile k).face = (s.tile k).face
  atu : t.atu = s.atu
  jobs : t.job.jobs = s.job.jobs
  flows : t.job.coverage = s.job.coverage ∧ t.job.stops = s.job.stops ∧ t.job.cancels = s.job.cancels ∧ t.job.nextSeq = s.job.nextSeq
  flash : t.flash = s.flash
  tasks : t.cairns = s.cairns ∧ t.holders = s.holders ∧ t.slices = s.slices ∧ t.repair = s.repair
  units : t.dgt = s.dgt ∧ t.coding = s.coding ∧ t.gather = s.gather ∧ t.fhe = s.fhe ∧ t.pra = s.pra ∧ t.eth = s.eth
  supply : t.power = s.power ∧ t.boot = s.boot ∧ t.sec = s.sec
  pending : t.pending = s.pending

theorem Recorded.refl (s : State) : Recorded s s :=
  ⟨fun _ _ => rfl, id, id, fun _ => rfl, rfl, rfl, ⟨rfl, rfl, rfl, rfl⟩, rfl, ⟨rfl, rfl, rfl, rfl⟩, ⟨rfl, rfl, rfl, rfl, rfl, rfl⟩,
    ⟨rfl, rfl, rfl⟩, rfl⟩

theorem Recorded.trans {s t u : State} (h : Recorded s t) (k : Recorded t u) : Recorded s u where
  regs a ha := (k.regs a ha).trans (h.regs a ha)
  regsWf := k.regsWf ∘ h.regsWf
  memWf := k.memWf ∘ h.memWf
  tiles x := (k.tiles x).trans (h.tiles x)
  atu := k.atu.trans h.atu
  jobs := k.jobs.trans h.jobs
  flows := ⟨k.flows.1.trans h.flows.1, k.flows.2.1.trans h.flows.2.1, k.flows.2.2.1.trans h.flows.2.2.1, k.flows.2.2.2.trans h.flows.2.2.2⟩
  flash := k.flash.trans h.flash
  tasks := ⟨k.tasks.1.trans h.tasks.1, k.tasks.2.1.trans h.tasks.2.1, k.tasks.2.2.1.trans h.tasks.2.2.1, k.tasks.2.2.2.trans h.tasks.2.2.2⟩
  units := ⟨k.units.1.trans h.units.1, k.units.2.1.trans h.units.2.1, k.units.2.2.1.trans h.units.2.2.1, k.units.2.2.2.1.trans h.units.2.2.2.1,
    k.units.2.2.2.2.1.trans h.units.2.2.2.2.1, k.units.2.2.2.2.2.trans h.units.2.2.2.2.2⟩
  supply := ⟨k.supply.1.trans h.supply.1, k.supply.2.1.trans h.supply.2.1, k.supply.2.2.trans h.supply.2.2⟩
  pending := k.pending.trans h.pending

variable {s t : State}

/-- A change of the fields that recording is free in. -/
theorem Recorded.fields (s : State) (mmu : Mmu) (yal : Yal) (syc : Table SycLine) (harts : Harts) (fns : Table PciFn) (pci : Pci) (bbx : BlackBox)
    (ptns : Table JobPtn) (out : List Output) (n : Nat) :
    Recorded s { s with mmu := mmu, yal := yal, syc := syc, harts := harts, pciFns := fns, pci := pci, bbx := bbx, out := out, freeCtr := n,
                        job := { s.job with ptns := ptns } } :=
  { Recorded.refl s with }

theorem Recorded.setRegAt (s : State) (a : Nat) (v : Word) (h : recordReg a = true) : Recorded s (s.setRegAt a v) :=
  { Recorded.refl s with
    regs := fun b hb => State.regAt_setRegAt_other s (by rintro rfl; simp [h] at hb) v
    regsWf := s.setRegAt_wf a v }

theorem Recorded.setReg (s : State) (r : Reg) (v i j : Nat) (h : recordReg (r.addr i j) = true) : Recorded s (s.setReg r v i j) :=
  Recorded.setRegAt s _ _ h

theorem Recorded.setFld (s : State) (f : Fld) (v i j : Nat) (h : recordReg (f.reg.addr i j) = true) : Recorded s (s.setFld f v i j) :=
  Recorded.setRegAt s _ _ h

theorem Recorded.incSat (s : State) (f : Fld) (n i j : Nat) (h : recordReg (f.reg.addr i j) = true) : Recorded s (s.incSat f n i j) :=
  Recorded.setFld s _ _ _ _ h

theorem Recorded.poke (s : State) (a : Nat) (bs : List Byte) : Recorded s (s.poke a bs) :=
  { Recorded.refl s with memWf := s.poke_wf a bs }

theorem Recorded.putTile (s : State) (k : Nat) (x : Tile) (h : x.face = (s.tile k).face) : Recorded s { s with tiles := s.tiles.put k x } :=
  { Recorded.refl s with
    tiles := fun j => by
      by_cases e : j = k
      · subst e; simpa [State.tile] using h
      · simp [State.tile, Table.getD_put_other _ e] }

theorem Recorded.draw (s : State) : Recorded s s.draw.2 := { Recorded.refl s with }

/-! ## Memory -/

theorem noteFeed_face (x : Tile) (old : Nat → Byte) (off : Nat) (bs : List Byte) : (noteFeed x old off bs).face = x.face := by
  unfold noteFeed
  split
  · rfl
  · split <;> rfl

theorem Recorded.pokeTile (s : State) (k off : Nat) (bs : List Byte) : Recorded s (s.pokeTile k off bs) := by
  unfold State.pokeTile
  refine .trans ?_ (.poke _ _ _)
  split
  · rename_i x hx
    refine .putTile s k _ ?_
    rw [noteFeed_face]; simp [State.tile, Table.getD, hx]
  · exact .refl s

theorem Recorded.writeProgram (s : State) (k off : Nat) (bs : List Byte) : Recorded s (s.writeProgram k off bs) := by
  unfold State.writeProgram
  dsimp only
  split
  · exact .trans (.putTile s k { s.tile k with loaded := none } rfl) (.poke _ _ _)
  · exact .refl s

theorem Recorded.forEach {α : Type} (xs : List α) {f : α → State → State} (h : ∀ x s, Recorded s (f x s)) (s : State) :
    Recorded s (Machine.forEach xs f s) := by
  induction xs generalizing s with
  | nil => exact .refl s
  | cons x xs ih => exact .trans (h x s) (ih _)

theorem Recorded.meetFlaw (s : State) (g : Nat) (e : MemErr) : Recorded s (s.meetFlaw g e) := by
  unfold State.meetFlaw
  dsimp only
  split
  all_goals try exact { Recorded.refl s with }
  split
  · exact .trans (t := { s.healed g with syc := s.syc.del (g / 2) }) { Recorded.refl s with }
      (.trans (.poke _ _ _) { Recorded.refl _ with })
  · exact { Recorded.refl s with }

theorem Recorded.meetFlaws (s : State) (a n : Nat) : Recorded s (s.meetFlaws a n) :=
  Recorded.forEach (s.flawsIn a n) (f := fun r s => s.meetFlaw r.1 r.2) (fun r s => Recorded.meetFlaw s r.1 r.2) s

theorem Recorded.allocLine (s : State) (p line : Nat) : Recorded s (s.allocLine p line) := by
  unfold State.allocLine
  dsimp only
  generalize (if (List.filter (fun w => (s.sycAt line w).isNone) (bitsSet 16 (s.reg PTN_WAYS p))).isEmpty = true then _ else _) = among
  split
  · exact .refl s
  · refine .trans (.draw s) ?_
    generalize s.draw = x
    split
    · exact .trans (.meetFlaws _ _ _) { Recorded.refl _ with }
    · exact { Recorded.refl _ with }

theorem Recorded.lookLine (s : State) (p line : Nat) (alloc : Bool) : Recorded s (s.lookLine p line alloc) := by
  unfold State.lookLine
  split
  · exact .allocLine _ _ _
  · exact .refl s

theorem Recorded.markDirty (s : State) (p line : Nat) (alloc : Bool) : Recorded s (s.markDirty p line alloc) := by
  unfold State.markDirty
  refine .trans (.lookLine s p line alloc) ?_
  dsimp only
  split
  · exact { Recorded.refl _ with }
  · exact .refl _

theorem Recorded.markLines (s : State) (p line : Nat) (alloc : Bool) (n : Nat) : Recorded s (s.markLines p line alloc n) := by
  induction n generalizing s line with
  | zero => exact .refl s
  | succ n ih => exact .trans (.markDirty s p line alloc) (ih _ _)

theorem Recorded.snoop (s : State) (a n : Nat) : Recorded s (s.snoop a n) := by
  unfold State.snoop
  dsimp only
  split
  · exact .refl s
  · exact { Recorded.refl s with }

theorem Recorded.store (s : State) (p a : Nat) (bs : List Byte) (c : Bool) : Recorded s (s.store p a bs c) := by
  unfold State.store
  refine .trans (.trans ?_ (.snoop _ _ _)) (.poke _ _ _)
  split
  · exact .markLines _ _ _ _ _
  · exact .refl s

theorem Recorded.postOut (s : State) (r : Option Nat) (o : Output) : Recorded s (s.postOut r o) := by
  unfold State.postOut
  split <;> exact { Recorded.refl s with }

/-! ## Requests to another device -/

theorem Recorded.setLink (s : State) (k : Nat) (x : Link) : Recorded s (s.setLink k x) := { Recorded.refl s with }

theorem Recorded.putNumbered (s : State) (k : Nat) (pay : Option (Nat × List Byte)) : Recorded s (s.putNumbered k pay) :=
  { Recorded.refl s with }

theorem Recorded.pump (s : State) (k n : Nat) : Recorded s (s.pump k n) := by
  induction n generalizing s with
  | zero => exact .refl s
  | succ n ih =>
    unfold State.pump
    dsimp only
    split
    · exact .refl s
    · split
      · exact .refl s
      · split
        · exact .refl s
        · exact .trans (.setLink _ _ _) (.trans (.putNumbered _ _ _) (ih _))

theorem Recorded.forwardPacket {p : Packet} (h : s.forwardPacket p = some t) : Recorded s t := by
  unfold State.forwardPacket at h
  dsimp only at h
  split at h
  · cases h
  · split at h
    · cases h; exact .setLink _ _ _
    · cases h; exact .trans (.setLink _ _ _) (.pump _ _ _)

theorem Recorded.originate {q : Packet} (h : s.originate q = .ok t) : Recorded s t := by
  unfold State.originate at h
  dsimp only at h
  split at h
  · cases h
  · split at h
    · cases h
    · split at h
      · cases h
      · split at h
        · cases h; exact { Recorded.refl s with }
        · split at h
          · rename_i hw; cases h
            exact .trans (.fields s _ { s.yal with paths := _ } _ _ _ _ _ _ _ _) (.forwardPacket hw)
          · cases h

theorem Recorded.sendFar {p g n : Nat} {data : Option (List Byte)} (h : s.sendFar p g n data = .ok t) : Recorded s t := by
  unfold State.sendFar State.sendRequest at h
  generalize hq : s.originate _ = r at h
  cases r with
  | error e => cases h
  | ok u => cases h; exact .trans (.originate hq) { Recorded.refl u with }

theorem Recorded.devWrite {p g : Nat} {bs : List Byte} {c : Nat} (h : s.devWrite p g bs c = .ok t) : Recorded s t := by
  unfold State.devWrite at h
  split at h
  · exact .sendFar h
  · dsimp only at h
    split at h
    · cases h
    · split at h
      · split at h
        · cases h; exact .postOut _ _ _
        · cases h
      · cases h; exact .trans (.snoop _ _ _) (.poke _ _ _)
      · cases h; exact .store _ _ _ _ _
      · cases h; exact .poke _ _ _
      · split at h <;> cases h
        · exact .pokeTile _ _ _ _
        · exact .writeProgram _ _ _ _
      · cases h; exact .refl s

theorem Recorded.walked (s : State) (p va : Nat) : Recorded s (s.walked p va) := .forEach _ (fun a s => .meetFlaws s a 8) s

theorem Recorded.lookup (s : State) (p va : Nat) : Recorded s (s.lookup p va).2 := by
  unfold State.lookup
  dsimp only
  split
  · exact .trans (.walked s p va) { Recorded.refl _ with }
  · exact .walked s p va
  · split
    · exact .refl s
    · split <;> exact { Recorded.refl s with }
  · split <;> exact { Recorded.refl s with }

theorem Recorded.translate (s : State) (p va : Nat) (w : Bool) : Recorded s (s.translate p va w).2 := by
  have := Recorded.lookup s p va
  unfold State.translate
  split
  · rename_i h; rw [h] at this; exact this
  · rename_i h; rw [h] at this
    split <;> exact this

theorem Recorded.vWrite (s : State) (p va : Nat) (bs : List Byte) : Recorded s (s.vWrite p va bs).2 := by
  have := Recorded.translate s p va true
  unfold State.vWrite
  split
  · rename_i h; rw [h] at this; exact this
  · rename_i h; rw [h] at this
    split
    · rename_i h'; exact .trans this (.devWrite h')
    · exact this

theorem Recorded.mmuFault (s : State) (p va : Nat) (w x : Bool) (who : Requester) (f : MFault) : Recorded s (s.mmuFault p va w x who f) :=
  { Recorded.refl s with }

theorem Recorded.modJobPtn (s : State) (p : Nat) (f : JobPtn → JobPtn) : Recorded s (s.modJobPtn p f) :=
  { Recorded.refl s with }

/-! ## Interrupts and rings -/

theorem Recorded.dropMsi (s : State) (p : Option Nat) (a b c d : Nat) : Recorded s (dropMsi s p a b c d).1 :=
  .incSat s _ _ _ _ (by decide)

theorem Recorded.msiHart (s : State) (p : Option Nat) (a h id : Nat) : Recorded s (s.msiHart p a h id).1 := by
  unfold State.msiHart
  split
  · exact .dropMsi _ _ _ _ _ _
  · exact { Recorded.refl s with }

theorem Recorded.msiX (s : State) (p a v : Nat) : Recorded s (s.msiX p a v).1 := by
  unfold State.msiX
  split
  · exact .dropMsi _ _ _ _ _ _
  · dsimp only
    split
    · exact .dropMsi _ _ _ _ _ _
    · split
      · exact .postOut _ _ _
      · exact { Recorded.refl s with }

theorem Recorded.msiReg (s : State) (p a v : Nat) : Recorded s (s.msiReg p a v).1 := by
  unfold State.msiReg
  split
  · exact .msiX _ _ _ _
  · exact .msiHart _ _ _ _ _

theorem Recorded.eqAppend (s : State) {p : Nat} (hp : p < 16) (r : List Byte) : Recorded s (s.eqAppend p r).1 := by
  have hreg : ∀ q : Reg, q.base = 0x40051230 ∨ q.base = 0x40051234 → q.st1 = 0x800 → recordReg (q.addr p 0) = true := by
    intro q h1 h3
    simp only [recordReg, Reg.addr, Bool.or_eq_true, Bool.and_eq_true, decide_eq_true_eq, h3]
    left; omega
  have htail := hreg JOB_EQ_TAIL (.inl rfl) rfl
  have hstat := hreg JOB_EQ_STAT (.inr rfl) rfl
  unfold State.eqAppend
  dsimp only
  split
  · dsimp only; exact .modJobPtn _ _ _
  · split
    · dsimp only; exact .trans (.incSat s JOB_EQ_STAT.LOST 1 p 0 hstat) (.modJobPtn _ _ _)
    · have hv := Recorded.vWrite s p (s.addrOf JOB_EQ_BASE_LO JOB_EQ_BASE_HI p + 64 * (s.reg JOB_EQ_TAIL p % ringSize (s.fld JOB_EQ_CFG.LOG2SIZE p)))
        (withByte0 (phaseBit (s.reg JOB_EQ_TAIL p) (s.fld JOB_EQ_CFG.LOG2SIZE p) + 2 * b2n (s.jobPtn p).lostFlag) r)
      split
      · rename_i h; rw [h] at hv
        dsimp only at hv ⊢
        exact .trans hv (.trans (.setFld _ JOB_EQ_STAT.WRITE_FAULT 1 p 0 hstat) (.trans (.mmuFault _ _ _ _ _ _ _) (.modJobPtn _ _ _)))
      · rename_i h; rw [h] at hv
        have h2 : ∀ (u : State) (a b : Nat), Recorded u ((u.setReg JOB_EQ_TAIL a p).setFld JOB_EQ_STAT.FULL b p) := fun u a b =>
          .trans (.setReg u JOB_EQ_TAIL a p 0 htail) (.setFld _ JOB_EQ_STAT.FULL b p 0 hstat)
        dsimp only at hv ⊢
        split
        · exact .trans hv (.trans (h2 _ _ _) (.trans (.modJobPtn _ _ _) (.msiReg _ _ _ _)))
        · dsimp only; exact .trans hv (.trans (h2 _ _ _) (.modJobPtn _ _ _))

theorem Recorded.appendAll (s : State) (r : List Byte) (ps : List Nat) (h : ∀ p ∈ ps, p < 16) : Recorded s (appendAll r ps s).1 := by
  induction ps generalizing s with
  | nil => exact .refl s
  | cons p ps ih =>
    simp only [Machine.appendAll]
    exact .trans (.eqAppend s (h p (by simp)) r) (ih _ fun q hq => h q (by simp [hq]))

/-! ## The stage -/

theorem Recorded.syncStage (s : State) : Recorded s s.syncStage := by
  unfold State.syncStage
  exact .trans (.poke _ _ _) (.setFld _ _ _ _ _ (by decide))

theorem Recorded.pumpFlash (s : State) : Recorded s s.pumpFlash := by
  unfold State.pumpFlash
  split
  · exact .refl s
  · split <;> first | exact .refl s | exact { Recorded.refl s with }

theorem Recorded.stage {r : List Byte} {w : Bool} (h : s.stage r w = some t) : Recorded s t := by
  unfold State.stage at h
  dsimp only at h
  generalize (if w = true then 55 else 54) = n at h
  split at h
  · cases h
  · cases h
    exact .trans (.poke s (0x02000200 + 64 * (s.bbx.tail % 56)) (withByte0 0 r)) { Recorded.refl _ with }

/-! ## Events -/

/-- The event's rings are rings of partitions. -/
def Event.inRange (e : Event) : Prop := (∀ p ∈ e.ptn, p < 16) ∧ ∀ p ∈ e.owners, p < 16

theorem mem_uniq {x : Nat} {xs : List Nat} (h : x ∈ uniq xs) : x ∈ xs := by
  induction xs with
  | nil => simp [uniq] at h
  | cons y ys ih =>
    simp only [uniq, List.mem_cons, List.mem_filter] at h ⊢
    rcases h with h | ⟨h, -⟩
    · exact .inl h
    · exact .inr (ih h)

theorem State.manager_lt (s : State) : s.manager < 16 := by
  have := bits_lt (s.reg PTN_CTL.MGR.reg 0 0) PTN_CTL.MGR.hi PTN_CTL.MGR.lo
  exact this

theorem State.eventRings_lt (s : State) {e : Event} (h : e.inRange) : ∀ p ∈ s.eventRings e, p < 16 := by
  intro p hp
  unfold State.eventRings at hp
  split at hp
  · rename_i q hq; simp only [List.mem_singleton] at hp; exact hp ▸ h.1 q (by simp [hq])
  · have := mem_uniq hp
    simp only [List.mem_cons] at this
    rcases this with rfl | h'
    · exact s.manager_lt
    · exact h.2 p h'

theorem appendAll_inRange (s : State) (r : List Byte) (ps : List Nat) (h : ∀ p ∈ ps, p < 16) : ∀ e ∈ (appendAll r ps s).2, e.inRange := by
  have one : ∀ (s : State) (p : Nat), p < 16 → ∀ e ∈ (s.eqAppend p r).2, e.inRange := by
    intro s p hp
    have hx : ∀ (s : State) (a v : Nat), ∀ e ∈ (s.msiReg p a v).2, e.inRange := by
      intro s a v e he
      have hd : ∀ (s : State) (a b c d : Nat), ∀ e ∈ (dropMsi s (some p) a b c d).2, e.inRange := by
        intro s a b c d e he
        simp only [dropMsi, List.mem_singleton] at he
        subst he
        exact ⟨by simp [hp], by simp⟩
      simp only [State.msiReg, State.msiX, State.msiHart] at he
      repeat' split at he
      all_goals first | exact hd _ _ _ _ _ _ he | simp at he
    have hi : ∀ va, ∀ e ∈ s.ignoredAt p va, e.inRange := by
      intro va e he
      unfold State.ignoredAt at he
      repeat' split at he
      all_goals try simp at he
      all_goals (subst he; exact ⟨by simp [hp], by simp⟩)
    unfold State.eqAppend
    dsimp only
    repeat' split
    all_goals try simp only [List.append_nil, List.mem_append, List.not_mem_nil, false_imp_iff, implies_true]
    all_goals first
      | exact hi _
      | exact fun e he => he.elim (hi _ e) (hx _ _ _ e)
  induction ps generalizing s with
  | nil => simp [Machine.appendAll]
  | cons p ps ih =>
    simp only [Machine.appendAll, List.mem_append]
    rintro e (he | he)
    · exact one s p (h p (by simp)) e he
    · exact ih _ (fun q hq => h q (by simp [hq])) e he

theorem State.raiseOne_recorded (s : State) {e : Event} (he : e.inRange) :
    Recorded s (s.raiseOne e).1 ∧ ∀ x ∈ (s.raiseOne e).2, x.inRange := by
  have h0 : ∀ (u : State) (b : BlackBox) (n : Nat), Recorded u ({ u with bbx := b }.setReg BBX_RSEQ n) := fun u b n =>
    .trans (t := { u with bbx := b }) { Recorded.refl u with } (.setReg _ BBX_RSEQ n 0 0 (by decide))
  have hr := s.eventRings_lt he
  unfold State.raiseOne
  dsimp only
  have hring : ∀ u : State, (∀ a, recordReg a = false → u.regAt a = s.regAt a) → ∀ p ∈ u.eventRings e, p < 16 := fun u _ => u.eventRings_lt he
  generalize hu : ({ s with bbx := { s.bbx with rseq := (s.bbx.rseq + 1) % 2 ^ 32 } } : State).setReg BBX_RSEQ (s.bbx.rseq + 1) = u
  have hsu : Recorded s u := hu ▸ h0 _ _ _
  generalize hv : Machine.appendAll (eventBytes s e) (u.eventRings e) u = v
  have hsv : Recorded s v.1 := .trans hsu (hv ▸ .appendAll _ _ _ (u.eventRings_lt he))
  have hev : ∀ x ∈ v.2, x.inRange := hv ▸ appendAll_inRange _ _ _ (u.eventRings_lt he)
  split
  · split
    · rename_i h
      exact ⟨.trans hsv (.trans (.stage h) (.trans (.syncStage _) (.pumpFlash _))), hev⟩
    · have : Recorded s (v.1.incSat BBX_CNT.DROPPED 1).syncStage := .trans hsv (.trans (.incSat _ BBX_CNT.DROPPED 1 0 0 (by decide)) (.syncStage _))
      split
      · exact ⟨this, hev⟩
      · refine ⟨this, fun x hx => ?_⟩
        rcases List.mem_append.mp hx with h | h
        · exact hev x h
        · simp only [List.mem_singleton] at h; subst h; exact ⟨by simp, by simp⟩
  · exact ⟨.trans hsv (.syncStage _), hev⟩

theorem raiseLoop_recorded (n : Nat) (es : List Event) (s : State) (h : ∀ e ∈ es, e.inRange) : Recorded s (raiseLoop n es s) := by
  induction n generalizing es s with
  | zero => cases es <;> exact .refl s
  | succ n ih =>
    cases es with
    | nil => exact .refl s
    | cons e es =>
      have h1 := s.raiseOne_recorded (h e (by simp))
      refine .trans h1.1 (ih _ _ fun x hx => ?_)
      rcases List.mem_append.mp hx with h' | h'
      · exact h x (by simp [h'])
      · exact h1.2 x h'

/-- Raising events records them, and does nothing else. -/
theorem State.raiseAll_recorded (s : State) {es : List Event} (h : ∀ e ∈ es, e.inRange) : Recorded s (s.raiseAll es) :=
  raiseLoop_recorded _ es s h

theorem State.raise_recorded (s : State) {e : Event} (h : e.inRange) : Recorded s (s.raise e) :=
  s.raiseAll_recorded (by simpa using h)

theorem State.event_recorded (s : State) (code : Nat) {p : Nat} (unit : Nat) (data : List (Nat × Nat)) (h : p < 16) :
    Recorded s (s.event code p unit data) := s.raise_recorded ⟨by simp [h], by simp⟩

theorem State.devEvent_recorded (s : State) (code unit : Nat) (data : List (Nat × Nat)) {owners : List Nat} (h : ∀ p ∈ owners, p < 16) :
    Recorded s (s.devEvent code unit data owners) := s.raise_recorded ⟨by simp, h⟩

/-! ## What recording leaves readable -/

theorem Recorded.reg (h : Recorded s t) (r : Reg) (i j : Nat) (hr : recordReg (r.addr i j) = false) : t.reg r i j = s.reg r i j := by
  simp [State.reg, h.regs _ hr]

theorem Recorded.fld (h : Recorded s t) (f : Fld) (i j : Nat) (hr : recordReg (f.reg.addr i j) = false) : t.fld f i j = s.fld f i j := by
  simp [State.fld, h.reg _ _ _ hr]

theorem Recorded.flag (h : Recorded s t) (f : Fld) (i j : Nat) (hr : recordReg (f.reg.addr i j) = false) : t.flag f i j = s.flag f i j := by
  simp [State.flag, h.fld _ _ _ hr]

theorem Recorded.now (h : Recorded s t) : t.now = s.now := by simp [State.now, h.atu]

end Sys2Proof.Machine
end

