-- ==== Sys2Proof/Laws/Inv.lean ====
section
/-! SUPPORT. The invariant and the operations every unit is written with: each keeps it. -/
namespace Sys2Proof.Machine

/-- The fields the invariant speaks of. -/
abbrev InvParts (mem flash : Table Byte) (regs : Table Word) (levels : Table Nat) (ns : BitVec 30) (rtc : Nat) : Prop :=
  Memory.wf mem = true ∧ flash.wf flashErased = true ∧ regs.wf regReset = true ∧ levels.wf (fun _ => 0) = true ∧
    ns.toNat < 1000000000 ∧ rtc < 2 ^ 63

theorem inv_iff {s : State} : Inv s ↔ InvParts s.mem s.flash s.regs s.bbx.levels s.atu.ns s.power.rtc :=
  ⟨fun h => ⟨h.mem, h.flash, h.regs, h.levels, h.time, h.rtc⟩, fun h => ⟨h.1, h.2.1, h.2.2.1, h.2.2.2.1, h.2.2.2.2.1, h.2.2.2.2.2⟩⟩

theorem inv_parts {s : State} (h : Inv s) : InvParts s.mem s.flash s.regs s.bbx.levels s.atu.ns s.power.rtc := inv_iff.1 h

theorem inv_mk {f1 f2 f3 f4 f5 f6 f7 f8 f9 f10 f11 f12 f13 f14 f15 f16 f17 f18 f19 f20 f21 f22 f23 f24 f25 f26 f27 f28 f29} :
    Inv (State.mk f1 f2 f3 f4 f5 f6 f7 f8 f9 f10 f11 f12 f13 f14 f15 f16 f17 f18 f19 f20 f21 f22 f23 f24 f25 f26 f27 f28 f29) ↔
      InvParts f2 f3 f1 f23.levels f4.ns f24.rtc := inv_iff

theorem inv_snd {α : Type} {p : α × State} {a : α} {t : State} (e : p = (a, t)) (h : Inv p.2) : Inv t := by subst e; exact h
theorem inv_fst {α : Type} {p : State × α} {a : α} {t : State} (e : p = (t, a)) (h : Inv p.1) : Inv t := by subst e; exact h

theorem inv_ite {c : Prop} [Decidable c] {s t : State} (h : Inv s) (k : Inv t) : Inv (if c then s else t) := by
  split <;> assumption
theorem inv_ite_fst {α : Type} {c : Prop} [Decidable c] {p q : State × α} (h : Inv p.1) (k : Inv q.1) : Inv (if c then p else q).1 := by
  split <;> assumption
theorem inv_ite_snd {α : Type} {c : Prop} [Decidable c] {p q : α × State} (h : Inv p.2) (k : Inv q.2) : Inv (if c then p else q).2 := by
  split <;> assumption
theorem inv_pair_fst {α : Type} {s : State} {a : α} (h : Inv s) : Inv (s, a).1 := h
theorem inv_pair_snd {α : Type} {s : State} {a : α} (h : Inv s) : Inv (a, s).2 := h

/-- Every state an optional state, an outcome or a result holds is in the invariant. -/
def InvSome (o : Option State) : Prop := ∀ t, o = some t → Inv t
def InvSomeS {α : Type} (o : Option (α × State)) : Prop := ∀ a t, o = some (a, t) → Inv t
def InvOk {ε : Type} (o : Except ε State) : Prop := ∀ t, o = .ok t → Inv t
def InvOkS {ε α : Type} (o : Except ε (α × State)) : Prop := ∀ a t, o = .ok (a, t) → Inv t
def InvOkF {ε α : Type} (o : Except ε (State × α)) : Prop := ∀ t a, o = .ok (t, a) → Inv t
def InvNext (o : Host.Outcome State Fault Refusal) : Prop := ∀ t, o = .next t → Inv t

def InvBoth (p : Option State × State) : Prop := InvSome p.1 ∧ Inv p.2

theorem inv_both_ite {c : Prop} [Decidable c] {p q : Option State × State} (h : InvBoth p) (k : InvBoth q) :
    InvBoth (if c then p else q) := by
  split <;> assumption
theorem inv_both_fst {p : Option State × State} {t u : State} (e : p = (some t, u)) (h : InvBoth p) : Inv t :=
  h.1 t (by rw [e])
theorem inv_both_snd {p : Option State × State} {o : Option State} {u : State} (e : p = (o, u)) (h : InvBoth p) : Inv u := by
  subst e; exact h.2

theorem inv_both_none {s : State} (h : Inv s) : InvBoth (none, s) := ⟨fun _ e => (nomatch e), h⟩
theorem inv_both_some {s t : State} (h : Inv s) (k : Inv t) : InvBoth (some s, t) := ⟨fun _ e => Option.some.inj e ▸ h, k⟩

theorem invSome_none : InvSome none := fun _ e => nomatch e
theorem invSome_some {s : State} (h : Inv s) : InvSome (some s) := fun _ e => Option.some.inj e ▸ h
theorem invSomeS_none {α : Type} : InvSomeS (none : Option (α × State)) := fun _ _ e => nomatch e
theorem invSomeS_some {α : Type} {a : α} {s : State} (h : Inv s) : InvSomeS (some (a, s)) := fun _ _ e =>
  (Prod.mk.inj (Option.some.inj e)).2 ▸ h
theorem invOk_error {ε : Type} {x : ε} : InvOk (.error x) := fun _ e => nomatch e
theorem invOk_ok {ε : Type} {s : State} (h : Inv s) : InvOk (.ok s : Except ε State) := fun _ e => Except.ok.inj e ▸ h
theorem invOkS_error {ε α : Type} {x : ε} : InvOkS (.error x : Except ε (α × State)) := fun _ _ e => nomatch e
theorem invOkS_ok {ε α : Type} {a : α} {s : State} (h : Inv s) : InvOkS (.ok (a, s) : Except ε (α × State)) := fun _ _ e =>
  (Prod.mk.inj (Except.ok.inj e)).2 ▸ h
theorem invOkF_error {ε α : Type} {x : ε} : InvOkF (.error x : Except ε (State × α)) := fun _ _ e => nomatch e
theorem invOkF_ok {ε α : Type} {a : α} {s : State} (h : Inv s) : InvOkF (.ok (s, a) : Except ε (State × α)) := fun _ _ e =>
  (Prod.mk.inj (Except.ok.inj e)).1 ▸ h
theorem invNext_next {s : State} (h : Inv s) : InvNext (.next s) := fun _ e => Host.Outcome.next.inj e ▸ h
theorem invNext_refused {r : Refusal} : InvNext (.refused r) := fun _ e => nomatch e

theorem inv_of_some {o : Option State} {t : State} (e : o = some t) (h : InvSome o) : Inv t := h t e
theorem inv_of_someS {α : Type} {o : Option (α × State)} {a : α} {t : State} (e : o = some (a, t)) (h : InvSomeS o) : Inv t := h a t e
theorem inv_of_ok {ε : Type} {o : Except ε State} {t : State} (e : o = .ok t) (h : InvOk o) : Inv t := h t e
theorem inv_of_okS {ε α : Type} {o : Except ε (α × State)} {a : α} {t : State} (e : o = .ok (a, t)) (h : InvOkS o) : Inv t := h a t e
theorem inv_of_okF {ε α : Type} {o : Except ε (State × α)} {a : α} {t : State} (e : o = .ok (t, a)) (h : InvOkF o) : Inv t := h t a e

theorem inv_getD {o : Option State} {s : State} (ho : InvSome o) (h : Inv s) : Inv (o.getD s) := by
  cases o with
  | none => exact h
  | some t => exact ho t rfl

theorem invNext_ite {c : Prop} [Decidable c] {p q : Host.Outcome State Fault Refusal} (h : InvNext p) (k : InvNext q) :
    InvNext (if c then p else q) := by
  split <;> assumption

theorem foldl_inv {α : Type} {xs : List α} {f : State → α → State} {s : State} (hf : ∀ s x, Inv s → Inv (f s x)) (h : Inv s) :
    Inv (xs.foldl f s) := by
  induction xs generalizing s with
  | nil => exact h
  | cons x xs ih => exact ih (hf s x h)

theorem foldl_inv_fst {α β : Type} {xs : List α} {f : State × β → α → State × β} {p : State × β}
    (hf : ∀ p x, Inv p.1 → Inv (f p x).1) (h : Inv p.1) : Inv (xs.foldl f p).1 := by
  induction xs generalizing p with
  | nil => exact h
  | cons x xs ih => exact ih (hf p x h)

theorem foldl_inv_snd {α β : Type} {xs : List α} {f : β × State → α → β × State} {p : β × State}
    (hf : ∀ p x, Inv p.2 → Inv (f p x).2) (h : Inv p.2) : Inv (xs.foldl f p).2 := by
  induction xs generalizing p with
  | nil => exact h
  | cons x xs ih => exact ih (hf p x h)

theorem Atu.setNow_time (a : Atu) (u : Nat) : (a.setNow u).ns.toNat < 1000000000 := by
  have : (u / nsUnit % 1000000000) < 1000000000 := Nat.mod_lt _ (by decide)
  simp only [Atu.setNow, BitVec.toNat_ofNat]
  omega

theorem foldl_invOk {ε α : Type} {xs : List α} {f : Except ε State → α → Except ε State} {a : Except ε State}
    (hf : ∀ a x, InvOk a → InvOk (f a x)) (h : InvOk a) : InvOk (xs.foldl f a) := by
  induction xs generalizing a with
  | nil => exact h
  | cons x xs ih => exact ih (hf a x h)

theorem foldl_invOkF {ε α β : Type} {xs : List α} {f : Except ε (State × β) → α → Except ε (State × β)} {a : Except ε (State × β)}
    (hf : ∀ a x, InvOkF a → InvOkF (f a x)) (h : InvOkF a) : InvOkF (xs.foldl f a) := by
  induction xs generalizing a with
  | nil => exact h
  | cons x xs ih => exact ih (hf a x h)

theorem flashPut_wf (m : Table Byte) (a : Nat) (bs : List Byte) (h : m.wf flashErased = true) : (flashPut m a bs).wf flashErased = true := by
  induction bs generalizing m a with
  | nil => exact h
  | cons b bs ih => exact ih _ _ (Table.wf_set _ _ _ _ h)

/-- Dropping or changing the values of a table's entries keeps the order of its keys. -/
theorem keysRise_filterMap {β γ : Type} (f : Nat × β → Option (Nat × γ)) (hf : ∀ r q, f r = some q → q.1 = r.1) {lo : Nat}
    {m : List (Nat × β)} (hm : keysRise (some lo) m = true) : keysRise (some lo) (m.filterMap f) = true := by
  induction m generalizing lo with
  | nil => rfl
  | cons r m ih =>
    obtain ⟨k, v⟩ := r
    rw [keysRise_some_iff] at hm
    cases h : f (k, v) with
    | none => rw [List.filterMap_cons_none h]; exact ih (keysRise_weaken (by omega) hm.2)
    | some q =>
      obtain ⟨k', v'⟩ := q
      obtain rfl : k' = k := hf _ _ h
      rw [List.filterMap_cons_some h, keysRise_some_iff]
      exact ⟨hm.1, ih hm.2⟩

theorem keysRise_filterMap_none {β γ : Type} (f : Nat × β → Option (Nat × γ)) (hf : ∀ r q, f r = some q → q.1 = r.1)
    {m : List (Nat × β)} (hm : keysRise none m = true) : keysRise none (m.filterMap f) = true := by
  cases m with
  | nil => rfl
  | cons r m =>
    obtain ⟨k, v⟩ := r
    have hm : keysRise (some k) m = true := hm
    cases h : f (k, v) with
    | none => rw [List.filterMap_cons_none h]; exact keysRise_forget (keysRise_filterMap f hf hm)
    | some q =>
      obtain ⟨k', v'⟩ := q
      obtain rfl : k' = k := hf _ _ h
      rw [List.filterMap_cons_some h]
      exact keysRise_filterMap f hf hm

theorem noDefault_filterMap {β γ : Type} [DecidableEq β] [DecidableEq γ] (d : Nat → β) (e : Nat → γ) (f : Nat × β → Option (Nat × γ))
    (hf : ∀ r q, r.2 ≠ d r.1 → f r = some q → q.2 ≠ e q.1) {m : List (Nat × β)} (hm : noDefault d m = true) :
    noDefault e (m.filterMap f) = true := by
  induction m with
  | nil => rfl
  | cons r m ih =>
    obtain ⟨k, v⟩ := r
    simp only [noDefault, Bool.and_eq_true, decide_eq_true_eq] at hm
    cases h : f (k, v) with
    | none => rw [List.filterMap_cons_none h]; exact ih hm.2
    | some q =>
      rw [List.filterMap_cons_some h]
      simp only [noDefault, Bool.and_eq_true, decide_eq_true_eq]
      exact ⟨hf _ _ hm.1 h, ih hm.2⟩

theorem forEach_inv {α : Type} {xs : List α} {f : α → State → State} {s : State} (hf : ∀ x s, Inv s → Inv (f x s)) (h : Inv s) :
    Inv (forEach xs f s) := by
  unfold forEach
  induction xs generalizing s with
  | nil => exact h
  | cons x xs ih => exact ih (hf x s h)

end Sys2Proof.Machine
end

