-- ==== Sys2Proof/Laws/InvEvents.lean ====
section
/-! SUPPORT. Every definition of registers, packets, memory access, the flash, events and the air-time unit that answers a state keeps the invariant
`Inv` of Safety.lean: one lemma per definition, named after it with the ending _inv. -/
namespace Sys2Proof.Machine

theorem State.setRegAt_inv {s : State} {a : Nat} {v : Word} (hs : Inv s) : Inv (State.setRegAt s a v) := by
  have p := inv_parts hs
  exact inv_mk.2 ⟨p.1, p.2.1, Table.wf_set _ _ _ _ p.2.2.1, p.2.2.2⟩

theorem State.setReg_inv {s : State} {r : Reg} {v : Nat} {i : Nat} {j : Nat} (hs : Inv s) :
    Inv (State.setReg s r v i j) := by
  unfold State.setReg
  try dsimp only
  repeat' (first | with_reducible assumption | with_reducible refine State.setRegAt_inv ?_)

theorem State.setFld_inv {s : State} {f : Fld} {v : Nat} {i : Nat} {j : Nat} (hs : Inv s) :
    Inv (State.setFld s f v i j) := by
  unfold State.setFld
  try dsimp only
  repeat' (first | with_reducible assumption | with_reducible refine State.setReg_inv ?_)

theorem State.incSat_inv {s : State} {f : Fld} {n : Nat} {i : Nat} {j : Nat} (hs : Inv s) :
    Inv (State.incSat s f n i j) := by
  unfold State.incSat
  try dsimp only
  repeat' (first | with_reducible assumption | with_reducible refine State.setFld_inv ?_)

theorem State.incWrap_inv {s : State} {f : Fld} {n : Nat} {i : Nat} {j : Nat} (hs : Inv s) :
    Inv (State.incWrap s f n i j) := by
  unfold State.incWrap
  try dsimp only
  repeat' (first | with_reducible assumption | with_reducible refine State.setFld_inv ?_)

theorem State.plainWrite_inv {s : State} {a : Nat} {v : Nat} (hs : Inv s) : Inv (State.plainWrite s a v) := by
  unfold State.plainWrite
  try dsimp only
  repeat'
    first
      | with_reducible assumption | with_reducible refine State.setRegAt_inv ?_ | with_reducible refine inv_ite ?_ ?_ | split

theorem State.writeReg_inv {s : State} {r : Reg} {v : Nat} {i : Nat} {j : Nat} (hs : Inv s) :
    Inv (State.writeReg s r v i j) := by
  unfold State.writeReg
  try dsimp only
  repeat' (first | with_reducible assumption | with_reducible refine State.plainWrite_inv ?_)

theorem State.draw_inv {s : State} (hs : Inv s) : Inv (State.draw s).2 := by
  unfold State.draw
  try dsimp only
  repeat'
    first
      | with_reducible assumption | with_reducible refine inv_ite ?_ ?_ | with_reducible refine inv_ite_snd ?_ ?_ | dsimp only
      | (simp only [inv_mk]; refine inv_parts ?_)

theorem State.poke_inv {s : State} {a : Nat} {bs : List Byte} (hs : Inv s) : Inv (State.poke s a bs) := by
  have p := inv_parts hs
  exact inv_mk.2 ⟨Memory.wf_pokeMem _ _ _ p.1, p.2⟩

theorem State.clearMem_inv {s : State} {lo : Nat} {hi : Nat} (hs : Inv s) : Inv (State.clearMem s lo hi) := by
  have p := inv_parts hs
  exact inv_mk.2 ⟨Table.wf_keep _ _ _ p.1, p.2⟩

theorem State.clearRegs_inv {s : State} {lo : Nat} {hi : Nat} (hs : Inv s) : Inv (State.clearRegs s lo hi) := by
  have p := inv_parts hs
  exact inv_mk.2 ⟨p.1, p.2.1, Table.wf_keep _ _ _ p.2.2.1, p.2.2.2⟩

theorem State.setTile_inv {s : State} {t : Nat} {x : Tile} (hs : Inv s) : Inv (State.setTile s t x) := by
  unfold State.setTile
  try dsimp only
  repeat'
    first
      | with_reducible assumption | with_reducible refine State.put_inv ?_ | with_reducible refine inv_snd (by assumption) ?_
      | with_reducible refine inv_fst (by assumption) ?_ | with_reducible refine inv_ite ?_ ?_
      | (simp only [inv_mk]; refine inv_parts ?_)

theorem State.modTile_inv {s : State} {t : Nat} {f : Tile → Tile} (hs : Inv s) : Inv (State.modTile s t f) := by
  unfold State.modTile
  try dsimp only
  repeat' (first | with_reducible assumption | with_reducible refine State.setTile_inv ?_)

theorem State.setJobPtn_inv {s : State} {p : Nat} {x : JobPtn} (hs : Inv s) : Inv (State.setJobPtn s p x) := by
  unfold State.setJobPtn
  try dsimp only
  repeat'
    first
      | with_reducible assumption | with_reducible refine State.put_inv ?_ | with_reducible refine inv_snd (by assumption) ?_
      | with_reducible refine inv_fst (by assumption) ?_ | with_reducible refine inv_ite ?_ ?_
      | (simp only [inv_mk]; refine inv_parts ?_)

theorem State.modJobPtn_inv {s : State} {p : Nat} {f : JobPtn → JobPtn} (hs : Inv s) : Inv (State.modJobPtn s p f) := by
  unfold State.modJobPtn
  try dsimp only
  repeat' (first | with_reducible assumption | with_reducible refine State.setJobPtn_inv ?_)

theorem State.putJob_inv {s : State} {j : Nat} {x : Job} (hs : Inv s) : Inv (State.putJob s j x) := by
  unfold State.putJob
  try dsimp only
  repeat'
    first
      | with_reducible assumption | with_reducible refine State.put_inv ?_ | with_reducible refine inv_snd (by assumption) ?_
      | with_reducible refine inv_fst (by assumption) ?_ | with_reducible refine inv_ite ?_ ?_
      | (simp only [inv_mk]; refine inv_parts ?_)

theorem State.modJob_inv {s : State} {j : Nat} {f : Job → Job} (hs : Inv s) : Inv (State.modJob s j f) := by
  unfold State.modJob
  try dsimp only
  repeat'
    first
      | with_reducible assumption | with_reducible refine State.putJob_inv ?_ | with_reducible refine inv_ite ?_ ?_ | split

theorem State.setLink_inv {s : State} {k : Nat} {x : Link} (hs : Inv s) : Inv (State.setLink s k x) := by
  unfold State.setLink
  try dsimp only
  repeat'
    first
      | with_reducible assumption | with_reducible refine State.put_inv ?_ | with_reducible refine inv_snd (by assumption) ?_
      | with_reducible refine inv_fst (by assumption) ?_ | with_reducible refine inv_ite ?_ ?_
      | (simp only [inv_mk]; refine inv_parts ?_)

theorem State.putNumbered_inv {s : State} {k : Nat} {pay : Option (Nat × List Byte)} (hs : Inv s) :
    Inv (State.putNumbered s k pay) := by
  unfold State.putNumbered
  try dsimp only
  repeat'
    first
      | with_reducible assumption | with_reducible refine State.setLink_inv ?_ | (simp only [inv_mk]; refine inv_parts ?_)

theorem State.putIdle_inv {s : State} {k : Nat} {nak : Bool} (hs : Inv s) : Inv (State.putIdle s k nak) := by
  unfold State.putIdle
  try dsimp only
  repeat'
    first
      | with_reducible assumption | (simp only [inv_mk]; refine inv_parts ?_)

theorem State.pump_inv {s : State} {k : Nat} {z0 : Nat} (hs : Inv s) : Inv (State.pump s k z0) := by
  induction z0 generalizing s with
  | zero => exact hs
  | succ k ih =>
    unfold State.pump
    try dsimp only
    repeat'
      first
        | with_reducible refine ih ?_ | with_reducible assumption | with_reducible refine State.setLink_inv ?_
        | with_reducible refine State.putNumbered_inv ?_ | split

theorem State.returnCredits_inv {s : State} {k : Nat} {z0 : Nat} (hs : Inv s) : Inv (State.returnCredits s k z0) := by
  induction z0 generalizing s with
  | zero => exact hs
  | succ k ih =>
    unfold State.returnCredits
    try dsimp only
    repeat'
      first
        | with_reducible refine ih ?_ | with_reducible assumption | with_reducible refine State.putNumbered_inv ?_
        | with_reducible refine inv_ite ?_ ?_

theorem State.queuePacket_inv {s : State} {k : Nat} {p : Packet} (hs : Inv s) : Inv (State.queuePacket s k p) := by
  unfold State.queuePacket
  try dsimp only
  repeat'
    first
      | with_reducible assumption | with_reducible refine State.setLink_inv ?_ | with_reducible refine State.pump_inv ?_

theorem State.forwardPacket_inv {s : State} {p : Packet} (hs : Inv s) : InvSome (State.forwardPacket s p) := by
  unfold State.forwardPacket
  try dsimp only
  repeat'
    first
      | with_reducible assumption | with_reducible refine State.setLink_inv ?_ | with_reducible refine State.queuePacket_inv ?_
      | exact invSome_none | with_reducible refine invSome_some ?_ | with_reducible refine inv_ite ?_ ?_ | split

theorem State.originate_inv {s : State} {p : Packet} (hs : Inv s) : InvOk (State.originate s p) := by
  unfold State.originate
  try dsimp only
  repeat'
    first
      | with_reducible assumption | with_reducible refine State.put_inv ?_ | with_reducible refine State.forwardPacket_inv ?_
      | with_reducible refine inv_snd (by assumption) ?_ | with_reducible refine inv_fst (by assumption) ?_
      | with_reducible refine inv_of_some (by assumption) ?_ | exact invOk_error | with_reducible refine invOk_ok ?_
      | with_reducible refine inv_ite ?_ ?_ | (simp only [inv_mk]; refine inv_parts ?_) | split

theorem State.noteRequest_inv {s : State} {r : OutReq} (hs : Inv s) : Inv (State.noteRequest s r) := by
  unfold State.noteRequest
  try dsimp only
  repeat'
    first
      | with_reducible assumption | (simp only [inv_mk]; refine inv_parts ?_)

theorem State.sendRequest_inv {s : State} {p : Packet} {r : OutReq} (hs : Inv s) : InvOk (State.sendRequest s p r) := by
  unfold State.sendRequest
  try dsimp only
  repeat'
    first
      | with_reducible assumption | with_reducible refine State.originate_inv ?_ | with_reducible refine State.noteRequest_inv ?_
      | with_reducible refine inv_of_ok (by assumption) ?_ | exact invOk_error | with_reducible refine invOk_ok ?_ | split

theorem State.sendLong_inv {s : State} {p : Packet} (hs : Inv s) : InvOk (State.sendLong s p) := by
  unfold State.sendLong
  try dsimp only
  repeat'
    first
      | with_reducible assumption | with_reducible refine State.originate_inv ?_
      | with_reducible refine inv_of_ok (by assumption) ?_ | exact invOk_error | with_reducible refine invOk_ok ?_
      | exact inv_of_ok rfl (by assumption) | exact inv_of_okF rfl (by assumption) | exact invOk_error | exact invOkF_error
      | with_reducible refine invOk_ok ?_ | with_reducible refine invOkF_ok ?_
      | with_reducible refine foldl_invOk (fun _ _ _ => ?_) ?_ | with_reducible refine foldl_invOkF (fun _ _ _ => ?_) ?_
      | refine foldl_inv (fun _ _ _ => ?_) ?_ | refine foldl_inv_fst (fun _ _ _ => ?_) ?_
      | refine foldl_inv_snd (fun _ _ _ => ?_) ?_ | with_reducible refine inv_ite ?_ ?_ | split

theorem State.requestLong_inv {s : State} {p : Packet} {r : OutReq} (hs : Inv s) : InvOk (State.requestLong s p r) := by
  unfold State.requestLong
  try dsimp only
  repeat'
    first
      | with_reducible assumption | with_reducible refine State.sendLong_inv ?_ | with_reducible refine State.noteRequest_inv ?_
      | with_reducible refine inv_of_ok (by assumption) ?_ | exact invOk_error | with_reducible refine invOk_ok ?_ | split

theorem State.respond_inv {s : State} {p : Packet} (hs : Inv s) : Inv (State.respond s p) := by
  unfold State.respond
  try dsimp only
  repeat'
    first
      | with_reducible assumption | with_reducible refine State.originate_inv ?_
      | with_reducible refine inv_of_ok (by assumption) ?_ | with_reducible refine inv_ite ?_ ?_ | split

theorem State.sendFar_inv {s : State} {p : Nat} {g : Nat} {n : Nat} {data : Option (List Byte)} (hs : Inv s) :
    InvOk (State.sendFar s p g n data) := by
  unfold State.sendFar
  try dsimp only
  repeat'
    first
      | with_reducible assumption | with_reducible refine State.sendRequest_inv ?_

theorem State.setMmu_inv {s : State} {f : Mmu → Mmu} (hs : Inv s) : Inv (State.setMmu s f) := by
  unfold State.setMmu
  try dsimp only
  repeat'
    first
      | with_reducible assumption | with_reducible refine inv_ite ?_ ?_ | (simp only [inv_mk]; refine inv_parts ?_)

theorem State.noteErr_inv {s : State} {a : Nat} {e : MemErr} {way : Nat} (hs : Inv s) : Inv (State.noteErr s a e way) := by
  unfold State.noteErr
  try dsimp only
  repeat'
    first
      | with_reducible assumption | with_reducible refine State.setMmu_inv ?_

theorem State.healed_inv {s : State} {g : Nat} (hs : Inv s) : Inv (State.healed s g) := by
  unfold State.healed
  try dsimp only
  repeat'
    first
      | with_reducible assumption | with_reducible refine State.setMmu_inv ?_

theorem State.meetFlaw_inv {s : State} {g : Nat} {e : MemErr} (hs : Inv s) : Inv (State.meetFlaw s g e) := by
  unfold State.meetFlaw
  try dsimp only
  repeat'
    first
      | with_reducible assumption | with_reducible refine State.noteErr_inv ?_ | with_reducible refine State.healed_inv ?_
      | with_reducible refine State.lineLost_inv ?_ | with_reducible refine State.poke_inv ?_
      | with_reducible refine inv_ite ?_ ?_ | (simp only [inv_mk]; refine inv_parts ?_) | split

theorem State.meetFlaws_inv {s : State} {a : Nat} {n : Nat} (hs : Inv s) : Inv (State.meetFlaws s a n) := by
  unfold State.meetFlaws
  try dsimp only
  repeat'
    first
      | with_reducible assumption | with_reducible refine State.meetFlaw_inv ?_ | refine forEach_inv (fun _ _ _ => ?_) ?_

theorem State.allocLine_inv {s : State} {p : Nat} {line : Nat} (hs : Inv s) : Inv (State.allocLine s p line) := by
  unfold State.allocLine
  try dsimp only
  repeat'
    first
      | with_reducible assumption | with_reducible refine State.draw_inv ?_ | with_reducible refine State.meetFlaws_inv ?_
      | with_reducible refine State.put_inv ?_ | with_reducible refine inv_snd (by assumption) ?_
      | with_reducible refine inv_fst (by assumption) ?_ | with_reducible refine inv_ite ?_ ?_
      | (simp only [inv_mk]; refine inv_parts ?_) | split

theorem State.lookLine_inv {s : State} {p : Nat} {line : Nat} {alloc : Bool} (hs : Inv s) :
    Inv (State.lookLine s p line alloc) := by
  unfold State.lookLine
  try dsimp only
  repeat'
    first
      | with_reducible assumption | with_reducible refine State.allocLine_inv ?_ | with_reducible refine inv_ite ?_ ?_

theorem State.lookLines_inv {s : State} {p : Nat} {line : Nat} {alloc : Bool} {z0 : Nat} (hs : Inv s) :
    Inv (State.lookLines s p line alloc z0) := by
  induction z0 generalizing s line with
  | zero => exact hs
  | succ k ih =>
    unfold State.lookLines
    try dsimp only
    repeat'
      first
        | with_reducible refine ih ?_ | with_reducible assumption | with_reducible refine State.lookLine_inv ?_

theorem State.markDirty_inv {s : State} {p : Nat} {line : Nat} {alloc : Bool} (hs : Inv s) :
    Inv (State.markDirty s p line alloc) := by
  unfold State.markDirty
  try dsimp only
  repeat'
    first
      | with_reducible assumption | with_reducible refine State.lookLine_inv ?_ | with_reducible refine State.put_inv ?_
      | with_reducible refine inv_snd (by assumption) ?_ | with_reducible refine inv_fst (by assumption) ?_
      | with_reducible refine inv_ite ?_ ?_ | (simp only [inv_mk]; refine inv_parts ?_) | split

theorem State.markLines_inv {s : State} {p : Nat} {line : Nat} {alloc : Bool} {z0 : Nat} (hs : Inv s) :
    Inv (State.markLines s p line alloc z0) := by
  induction z0 generalizing s line with
  | zero => exact hs
  | succ n ih => exact ih (State.markDirty_inv hs)

theorem State.writeBack_inv {s : State} {ways : List Nat} {drop : Bool} (hs : Inv s) : Inv (State.writeBack s ways drop) := by
  unfold State.writeBack
  try dsimp only
  repeat'
    first
      | with_reducible assumption | with_reducible refine State.meetFlaws_inv ?_ | refine forEach_inv (fun _ _ _ => ?_) ?_
      | with_reducible refine inv_ite ?_ ?_ | (simp only [inv_mk]; refine inv_parts ?_)

theorem State.readHbm_inv {s : State} {p : Nat} {a : Nat} {n : Nat} {alloc : Bool} (hs : Inv s) :
    Inv (State.readHbm s p a n alloc).2 := by
  unfold State.readHbm
  try dsimp only
  repeat'
    first
      | with_reducible assumption | with_reducible refine State.meetFlaws_inv ?_ | with_reducible refine State.lookLines_inv ?_
      | with_reducible refine inv_ite ?_ ?_ | with_reducible refine inv_ite_snd ?_ ?_

theorem State.readLocal_inv {s : State} {p : Nat} {a : Nat} {n : Nat} {alloc : Bool} (hs : Inv s) :
    Inv (State.readLocal s p a n alloc).2 := by
  unfold State.readLocal
  try dsimp only
  repeat'
    first
      | with_reducible assumption | with_reducible refine State.readHbm_inv ?_ | with_reducible refine inv_snd (by assumption) ?_
      | with_reducible refine inv_fst (by assumption) ?_ | with_reducible refine inv_ite ?_ ?_
      | with_reducible refine inv_ite_snd ?_ ?_

theorem State.walked_inv {s : State} {p : Nat} {va : Nat} (hs : Inv s) : Inv (State.walked s p va) := by
  unfold State.walked
  try dsimp only
  repeat'
    first
      | with_reducible assumption | with_reducible refine State.meetFlaws_inv ?_ | refine forEach_inv (fun _ _ _ => ?_) ?_

theorem State.lookup_inv {s : State} {p : Nat} {va : Nat} (hs : Inv s) : Inv (State.lookup s p va).2 := by
  unfold State.lookup
  try dsimp only
  repeat'
    first
      | with_reducible assumption | with_reducible refine State.put_inv ?_ | with_reducible refine State.walked_inv ?_
      | with_reducible refine State.draw_inv ?_ | with_reducible refine inv_snd (by assumption) ?_
      | with_reducible refine inv_fst (by assumption) ?_ | with_reducible refine inv_ite ?_ ?_
      | with_reducible refine inv_ite_snd ?_ ?_ | dsimp only | (simp only [inv_mk]; refine inv_parts ?_) | split

theorem State.translate_inv {s : State} {p : Nat} {va : Nat} {write : Bool} (hs : Inv s) :
    Inv (State.translate s p va write).2 := by
  unfold State.translate
  try dsimp only
  repeat'
    first
      | with_reducible assumption | with_reducible refine State.lookup_inv ?_ | with_reducible refine inv_snd (by assumption) ?_
      | with_reducible refine inv_fst (by assumption) ?_ | with_reducible refine inv_ite ?_ ?_
      | with_reducible refine inv_ite_snd ?_ ?_ | dsimp only | split

theorem State.mmuFault_inv {s : State} {p : Nat} {va : Nat} {write : Bool} {wait : Bool} {who : Requester} {f : MFault} (hs : Inv s) :
    Inv (State.mmuFault s p va write wait who f) := by
  unfold State.mmuFault
  try dsimp only
  repeat'
    first
      | with_reducible assumption | with_reducible refine inv_ite ?_ ?_ | (simp only [inv_mk]; refine inv_parts ?_)

theorem State.snoop_inv {s : State} {a : Nat} {n : Nat} (hs : Inv s) : Inv (State.snoop s a n) := by
  unfold State.snoop
  try dsimp only
  repeat'
    first
      | with_reducible assumption | with_reducible refine inv_ite ?_ ?_ | (simp only [inv_mk]; refine inv_parts ?_)

theorem State.store_inv {s : State} {p : Nat} {a : Nat} {bs : List Byte} {alloc : Bool} (hs : Inv s) :
    Inv (State.store s p a bs alloc) := by
  unfold State.store
  try dsimp only
  repeat'
    first
      | with_reducible assumption | with_reducible refine State.markLines_inv ?_ | with_reducible refine State.snoop_inv ?_
      | with_reducible refine State.poke_inv ?_ | with_reducible refine inv_ite ?_ ?_

theorem State.pokeTile_inv {s : State} {t : Nat} {off : Nat} {bs : List Byte} (hs : Inv s) :
    Inv (State.pokeTile s t off bs) := by
  unfold State.pokeTile
  try dsimp only
  repeat'
    first
      | with_reducible assumption | with_reducible refine State.put_inv ?_ | with_reducible refine State.poke_inv ?_
      | with_reducible refine inv_snd (by assumption) ?_ | with_reducible refine inv_fst (by assumption) ?_
      | with_reducible refine inv_ite ?_ ?_ | (simp only [inv_mk]; refine inv_parts ?_) | split

theorem State.writeProgram_inv {s : State} {t : Nat} {off : Nat} {bs : List Byte} (hs : Inv s) :
    Inv (State.writeProgram s t off bs) := by
  unfold State.writeProgram
  try dsimp only
  repeat'
    first
      | with_reducible assumption | with_reducible refine State.put_inv ?_ | with_reducible refine State.poke_inv ?_
      | with_reducible refine inv_snd (by assumption) ?_ | with_reducible refine inv_fst (by assumption) ?_
      | with_reducible refine inv_ite ?_ ?_ | (simp only [inv_mk]; refine inv_parts ?_)

theorem State.postOut_inv {s : State} {region : Option Nat} {o : Output} (hs : Inv s) : Inv (State.postOut s region o) := by
  unfold State.postOut
  try dsimp only
  repeat'
    first
      | with_reducible assumption | with_reducible refine inv_ite ?_ ?_ | (simp only [inv_mk]; refine inv_parts ?_)

theorem State.devWrite_inv {s : State} {p : Nat} {g : Nat} {bs : List Byte} {cache : Nat} (hs : Inv s) :
    InvOk (State.devWrite s p g bs cache) := by
  unfold State.devWrite
  try dsimp only
  repeat'
    first
      | with_reducible assumption | with_reducible refine State.sendFar_inv ?_ | with_reducible refine State.postOut_inv ?_
      | with_reducible refine State.snoop_inv ?_ | with_reducible refine State.poke_inv ?_
      | with_reducible refine State.store_inv ?_ | with_reducible refine State.pokeTile_inv ?_
      | with_reducible refine State.writeProgram_inv ?_ | with_reducible refine inv_of_ok (by assumption) ?_ | exact invOk_error
      | with_reducible refine invOk_ok ?_ | with_reducible refine inv_ite ?_ ?_ | split

theorem State.devRead_inv {s : State} {p : Nat} {g : Nat} {n : Nat} {cache : Nat} (hs : Inv s) :
    Inv (State.devRead s p g n cache).2 := by
  unfold State.devRead
  try dsimp only
  repeat'
    first
      | with_reducible assumption | with_reducible refine State.draw_inv ?_ | with_reducible refine State.sendFar_inv ?_
      | with_reducible refine State.readLocal_inv ?_ | with_reducible refine inv_snd (by assumption) ?_
      | with_reducible refine inv_fst (by assumption) ?_ | with_reducible refine inv_of_ok (by assumption) ?_
      | with_reducible refine inv_ite ?_ ?_ | with_reducible refine inv_ite_snd ?_ ?_ | dsimp only | split

theorem State.vWrite_inv {s : State} {p : Nat} {va : Nat} {bs : List Byte} (hs : Inv s) :
    Inv (State.vWrite s p va bs).2 := by
  unfold State.vWrite
  try dsimp only
  repeat'
    first
      | with_reducible assumption | with_reducible refine State.translate_inv ?_ | with_reducible refine State.devWrite_inv ?_
      | with_reducible refine inv_snd (by assumption) ?_ | with_reducible refine inv_fst (by assumption) ?_
      | with_reducible refine inv_of_ok (by assumption) ?_ | with_reducible refine inv_ite ?_ ?_
      | with_reducible refine inv_ite_snd ?_ ?_ | dsimp only | split

theorem State.vReadPage_inv {s : State} {p : Nat} {va : Nat} {n : Nat} (hs : Inv s) : Inv (State.vReadPage s p va n).2 := by
  unfold State.vReadPage
  try dsimp only
  repeat'
    first
      | with_reducible assumption | with_reducible refine State.translate_inv ?_ | with_reducible refine State.devRead_inv ?_
      | with_reducible refine inv_snd (by assumption) ?_ | with_reducible refine inv_fst (by assumption) ?_
      | with_reducible refine inv_ite ?_ ?_ | with_reducible refine inv_ite_snd ?_ ?_ | dsimp only | split

theorem State.vReadLoop_inv {s : State} {p : Nat} {va : Nat} {n : Nat} {acc : List Byte} {z0 : Nat} (hs : Inv s) :
    Inv (State.vReadLoop s p va n acc z0).2 := by
  induction z0 generalizing s va n acc with
  | zero => exact hs
  | succ k ih =>
    unfold State.vReadLoop
    dsimp only
    refine inv_ite_snd hs ?_
    split
    · exact ih (inv_snd (by assumption) (State.vReadPage_inv hs))
    · exact inv_snd (by assumption) (State.vReadPage_inv hs)

theorem State.vRead_inv {s : State} {p : Nat} {va : Nat} {n : Nat} (hs : Inv s) : Inv (State.vRead s p va n).2 := by
  unfold State.vRead
  try dsimp only
  repeat' (first | with_reducible assumption | with_reducible refine State.vReadLoop_inv ?_)

theorem State.vWriteLoop_inv {s : State} {p : Nat} {va : Nat} {bs : List Byte} {z0 : Nat} (hs : Inv s) :
    Inv (State.vWriteLoop s p va bs z0).2 := by
  induction z0 generalizing s va bs with
  | zero => exact hs
  | succ k ih =>
    unfold State.vWriteLoop
    dsimp only
    refine inv_ite_snd hs ?_
    split
    · exact ih (inv_snd (by assumption) (State.vWrite_inv hs))
    · exact inv_snd (by assumption) (State.vWrite_inv hs)

theorem State.vWriteAll_inv {s : State} {p : Nat} {va : Nat} {bs : List Byte} (hs : Inv s) :
    Inv (State.vWriteAll s p va bs).2 := by
  unfold State.vWriteAll
  try dsimp only
  repeat' (first | with_reducible assumption | with_reducible refine State.vWriteLoop_inv ?_)

theorem State.refresh_inv {s : State} (hs : Inv s) : Inv (State.refresh s) := by
  unfold State.refresh
  try dsimp only
  repeat'
    first
      | with_reducible assumption | with_reducible refine inv_ite ?_ ?_ | (simp only [inv_mk]; refine inv_parts ?_)

theorem State.flashProgram_inv {s : State} {a : Nat} {bs : List Byte} (hs : Inv s) : Inv (State.flashProgram s a bs) := by
  have p := inv_parts hs
  exact inv_mk.2 ⟨p.1, flashPut_wf _ _ _ p.2.1, p.2.2⟩

theorem State.flashErase_inv {s : State} {a : Nat} {n : Nat} (hs : Inv s) : Inv (State.flashErase s a n) := by
  have p := inv_parts hs
  exact inv_mk.2 ⟨p.1, Table.wf_keep _ _ _ p.2.1, p.2.2⟩

theorem State.flashTornProgram_inv {s : State} {a : Nat} {z0 : List Byte} (hs : Inv s) :
    Inv (State.flashTornProgram s a z0) := by
  induction z0 generalizing s a with
  | nil => exact hs
  | cons b bs ih => exact ih (State.flashProgram_inv (State.draw_inv hs))

theorem State.flashTornErase_inv {s : State} {a : Nat} {n : Nat} (hs : Inv s) : Inv (State.flashTornErase s a n) := by
  refine foldl_inv (fun t r h => ?_) hs
  have p := inv_parts (State.draw_inv h)
  exact inv_mk.2 ⟨p.1, Table.wf_set _ _ _ _ p.2.1, p.2.2⟩

theorem State.syncStage_inv {s : State} (hs : Inv s) : Inv (State.syncStage s) := by
  unfold State.syncStage
  try dsimp only
  repeat'
    first
      | with_reducible assumption | with_reducible refine State.poke_inv ?_ | with_reducible refine State.setFld_inv ?_

theorem State.pumpFlash_inv {s : State} (hs : Inv s) : Inv (State.pumpFlash s) := by
  unfold State.pumpFlash
  try dsimp only
  repeat'
    first
      | with_reducible assumption | with_reducible refine inv_ite ?_ ?_ | (simp only [inv_mk]; refine inv_parts ?_) | split

theorem State.setCurrent_inv {s : State} {b : Nat} {seq : Nat} (hs : Inv s) : Inv (State.setCurrent s b seq) := by
  unfold State.setCurrent
  try dsimp only
  repeat'
    first
      | with_reducible assumption | with_reducible refine State.setFld_inv ?_ | with_reducible refine State.setReg_inv ?_

theorem State.openingDone_inv {s : State} {k : Nat} (hs : Inv s) : Inv (State.openingDone s k) := by
  unfold State.openingDone
  try dsimp only
  repeat'
    first
      | with_reducible assumption | with_reducible refine State.flashErase_inv ?_
      | with_reducible refine State.flashProgram_inv ?_ | with_reducible refine State.setCurrent_inv ?_
      | with_reducible refine State.setFld_inv ?_ | with_reducible refine inv_ite ?_ ?_
      | (simp only [inv_mk]; refine inv_parts ?_)

theorem State.pageDone_inv {s : State} {n : Nat} (hs : Inv s) : Inv (State.pageDone s n) := by
  unfold State.pageDone
  try dsimp only
  repeat'
    first
      | with_reducible assumption | with_reducible refine State.flashProgram_inv ?_ | with_reducible refine State.setFld_inv ?_
      | with_reducible refine State.syncStage_inv ?_ | with_reducible refine inv_ite ?_ ?_
      | (simp only [inv_mk]; refine inv_parts ?_)

theorem State.opEnds_inv {s : State} (hs : Inv s) : Inv (State.opEnds s) := by
  unfold State.opEnds
  try dsimp only
  repeat'
    first
      | with_reducible assumption | with_reducible refine inv_ite ?_ ?_ | (simp only [inv_mk]; refine inv_parts ?_)

theorem State.writerDone_inv {s : State} (hs : Inv s) : Inv (State.writerDone s) := by
  unfold State.writerDone
  try dsimp only
  repeat'
    first
      | with_reducible assumption | with_reducible refine State.opEnds_inv ?_ | with_reducible refine State.pageDone_inv ?_
      | with_reducible refine State.pumpFlash_inv ?_ | with_reducible refine State.openingDone_inv ?_
      | with_reducible refine inv_ite ?_ ?_ | split

theorem State.openBank_inv {s : State} (hs : Inv s) : Inv (State.openBank s) := by
  unfold State.openBank
  try dsimp only
  repeat'
    first
      | with_reducible assumption | with_reducible refine State.pumpFlash_inv ?_ | with_reducible refine inv_ite ?_ ?_
      | (simp only [inv_mk]; refine inv_parts ?_)

theorem State.abandonOpening_inv {s : State} (hs : Inv s) : Inv (State.abandonOpening s) := by
  unfold State.abandonOpening
  try dsimp only
  repeat'
    first
      | with_reducible assumption | with_reducible refine State.opEnds_inv ?_ | with_reducible refine State.flashTornErase_inv ?_
      | with_reducible refine inv_ite ?_ ?_ | (simp only [inv_mk]; refine inv_parts ?_) | split

theorem XspCmd.program_inv {c : XspCmd} {f : State → Nat → List Byte → State} {s : State} (hf : ∀ y0 y1 y2, Inv y0 → Inv (f y0 y1 y2)) (hs : Inv s) :
    Inv (XspCmd.program c f s) := by
  unfold XspCmd.program
  dsimp only
  exact hf _ _ _ (hf _ _ _ hs)

theorem State.xspEffect_inv {s : State} {c : XspCmd} (hs : Inv s) : Inv (State.xspEffect s c) := by
  unfold State.xspEffect
  try dsimp only
  repeat'
    first
      | with_reducible assumption | with_reducible refine State.flashErase_inv ?_ | with_reducible refine XspCmd.program_inv ?_ ?_
      | with_reducible refine State.flashProgram_inv ?_ | with_reducible refine inv_ite ?_ ?_ | split | intro _ _

theorem State.flashCut_inv {s : State} {old : Nat} (hs : Inv s) : Inv (State.flashCut s old) := by
  unfold State.flashCut
  try dsimp only
  repeat'
    first
      | with_reducible assumption | with_reducible refine State.opEnds_inv ?_
      | with_reducible refine State.flashTornProgram_inv ?_ | with_reducible refine State.flashTornErase_inv ?_
      | with_reducible refine XspCmd.program_inv ?_ ?_ | with_reducible refine inv_ite ?_ ?_ | split | intro _ _

theorem dropMsi_inv {s : State} {ptn : Option Nat} {src : Nat} {target : Nat} {file : Nat} {vec : Nat} (hs : Inv s) :
    Inv (dropMsi s ptn src target file vec).1 := by
  unfold dropMsi
  try dsimp only
  repeat' (first | with_reducible assumption | with_reducible refine State.incSat_inv ?_)

theorem State.msiHart_inv {s : State} {ptn : Option Nat} {src : Nat} {h : Nat} {id : Nat} (hs : Inv s) :
    Inv (State.msiHart s ptn src h id).1 := by
  unfold State.msiHart
  try dsimp only
  repeat'
    first
      | with_reducible assumption | with_reducible refine dropMsi_inv ?_ | with_reducible refine inv_snd (by assumption) ?_
      | with_reducible refine inv_fst (by assumption) ?_ | with_reducible refine inv_ite ?_ ?_
      | with_reducible refine inv_ite_fst ?_ ?_ | dsimp only | (simp only [inv_mk]; refine inv_parts ?_)

theorem State.sendMsix_inv {s : State} {fn : Nat} {vec : Nat} (hs : Inv s) : Inv (State.sendMsix s fn vec) := by
  unfold State.sendMsix
  try dsimp only
  repeat' (first | with_reducible assumption | with_reducible refine State.postOut_inv ?_)

theorem State.msiX_inv {s : State} {p : Nat} {src : Nat} {vec : Nat} (hs : Inv s) : Inv (State.msiX s p src vec).1 := by
  unfold State.msiX
  try dsimp only
  repeat'
    first
      | with_reducible assumption | with_reducible refine dropMsi_inv ?_ | with_reducible refine State.sendMsix_inv ?_
      | with_reducible refine State.put_inv ?_ | with_reducible refine inv_snd (by assumption) ?_
      | with_reducible refine inv_fst (by assumption) ?_ | with_reducible refine inv_ite ?_ ?_
      | with_reducible refine inv_ite_fst ?_ ?_ | dsimp only | (simp only [inv_mk]; refine inv_parts ?_) | split

theorem State.msiReg_inv {s : State} {p : Nat} {src : Nat} {reg : Nat} (hs : Inv s) : Inv (State.msiReg s p src reg).1 := by
  unfold State.msiReg
  try dsimp only
  repeat'
    first
      | with_reducible assumption | with_reducible refine State.msiX_inv ?_ | with_reducible refine State.msiHart_inv ?_
      | with_reducible refine inv_snd (by assumption) ?_ | with_reducible refine inv_fst (by assumption) ?_
      | with_reducible refine inv_ite ?_ ?_ | with_reducible refine inv_ite_fst ?_ ?_

theorem State.eqAppend_inv {s : State} {p : Nat} {r : List Byte} (hs : Inv s) : Inv (State.eqAppend s p r).1 := by
  unfold State.eqAppend
  try dsimp only
  repeat'
    first
      | with_reducible assumption | with_reducible refine State.modJobPtn_inv ?_ | with_reducible refine State.incSat_inv ?_
      | with_reducible refine State.vWrite_inv ?_ | with_reducible refine State.setFld_inv ?_
      | with_reducible refine State.mmuFault_inv ?_ | with_reducible refine State.setReg_inv ?_
      | with_reducible refine State.msiReg_inv ?_ | with_reducible refine inv_snd (by assumption) ?_
      | with_reducible refine inv_fst (by assumption) ?_ | with_reducible refine inv_ite ?_ ?_
      | with_reducible refine inv_ite_fst ?_ ?_ | dsimp only | split

theorem State.stage_inv {s : State} {r : List Byte} {warning : Bool} (hs : Inv s) : InvSome (State.stage s r warning) := by
  unfold State.stage
  try dsimp only
  repeat'
    first
      | with_reducible assumption | with_reducible refine State.poke_inv ?_ | exact invSome_none
      | with_reducible refine invSome_some ?_ | with_reducible refine inv_ite ?_ ?_ | (simp only [inv_mk]; refine inv_parts ?_)
      | split

theorem appendAll_inv {r : List Byte} {z0 : List Nat} {z1 : State} (hz1 : Inv z1) : Inv (appendAll r z0 z1).1 := by
  induction z0 generalizing z1 with
  | nil => exact hz1
  | cons p ps ih => exact ih (State.eqAppend_inv hz1)

theorem State.raiseOne_inv {s : State} {e : Event} (hs : Inv s) : Inv (State.raiseOne s e).1 := by
  unfold State.raiseOne
  try dsimp only
  repeat'
    first
      | with_reducible assumption | with_reducible refine State.setReg_inv ?_ | with_reducible refine appendAll_inv ?_
      | with_reducible refine State.stage_inv ?_ | with_reducible refine State.syncStage_inv ?_
      | with_reducible refine State.pumpFlash_inv ?_ | with_reducible refine State.incSat_inv ?_
      | with_reducible refine inv_snd (by assumption) ?_ | with_reducible refine inv_fst (by assumption) ?_
      | with_reducible refine inv_of_some (by assumption) ?_ | with_reducible refine inv_ite ?_ ?_
      | with_reducible refine inv_ite_fst ?_ ?_ | dsimp only | (simp only [inv_mk]; refine inv_parts ?_) | split

theorem raiseLoop_inv {z0 : Nat} {z1 : List Event} {z2 : State} (hz2 : Inv z2) : Inv (raiseLoop z0 z1 z2) := by
  induction z0 generalizing z1 z2 with
  | zero => cases z1 <;> exact hz2
  | succ k ih =>
    cases z1 with
    | nil => exact hz2
    | cons e es => exact ih (State.raiseOne_inv hz2)

theorem State.raiseAll_inv {s : State} {es : List Event} (hs : Inv s) : Inv (State.raiseAll s es) := by
  unfold State.raiseAll
  try dsimp only
  repeat' (first | with_reducible assumption | with_reducible refine raiseLoop_inv ?_)

theorem State.raise_inv {s : State} {e : Event} (hs : Inv s) : Inv (State.raise s e) := by
  unfold State.raise
  try dsimp only
  repeat' (first | with_reducible assumption | with_reducible refine State.raiseAll_inv ?_)

theorem MsiResult.done_inv {r : MsiResult} (hr : Inv r.1) : Inv (MsiResult.done r) := by
  exact State.raiseAll_inv hr

theorem State.event_inv {s : State} {code : Nat} {p : Nat} {unit : Nat} {data : List (Nat × Nat)} (hs : Inv s) :
    Inv (State.event s code p unit data) := by
  unfold State.event
  try dsimp only
  repeat' (first | with_reducible assumption | with_reducible refine State.raise_inv ?_)

theorem State.devEvent_inv {s : State} {code : Nat} {unit : Nat} {data : List (Nat × Nat)} {owners : List Nat} (hs : Inv s) :
    Inv (State.devEvent s code unit data owners) := by
  unfold State.devEvent
  try dsimp only
  repeat' (first | with_reducible assumption | with_reducible refine State.raise_inv ?_)

theorem State.endSlices_inv {s : State} {c : Nat} {i : Nat} (hs : Inv s) : Inv (State.endSlices s c i) := by
  unfold State.endSlices
  try dsimp only
  repeat'
    first
      | with_reducible assumption | with_reducible refine State.incSat_inv ?_ | with_reducible refine State.modTile_inv ?_
      | refine forEach_inv (fun _ _ _ => ?_) ?_ | with_reducible refine inv_ite ?_ ?_ | (simp only [inv_mk]; refine inv_parts ?_)
      | split

theorem State.signal_inv {s : State} {c : Nat} {i : Nat} {n : Nat} (hs : Inv s) : Inv (State.signal s c i n) := by
  unfold State.signal
  try dsimp only
  repeat'
    first
      | with_reducible assumption | with_reducible refine State.setFld_inv ?_ | with_reducible refine State.endSlices_inv ?_
      | with_reducible refine State.refresh_inv ?_ | with_reducible refine State.raise_inv ?_
      | with_reducible refine inv_ite ?_ ?_ | (simp only [inv_mk]; refine inv_parts ?_)

theorem State.signalEntry_inv {s : State} {e : Nat} (hs : Inv s) : Inv (State.signalEntry s e) := by
  unfold State.signalEntry
  try dsimp only
  repeat'
    first
      | with_reducible assumption | with_reducible refine State.signal_inv ?_ | with_reducible refine inv_ite ?_ ?_

theorem State.takeSem_inv {s : State} {c : Nat} {i : Nat} {n : Nat} {tile : Option Nat} (hs : Inv s) :
    Inv (State.takeSem s c i n tile) := by
  unfold State.takeSem
  try dsimp only
  repeat'
    first
      | with_reducible assumption | with_reducible refine State.setFld_inv ?_ | with_reducible refine State.refresh_inv ?_
      | with_reducible refine State.put_inv ?_ | with_reducible refine inv_snd (by assumption) ?_
      | with_reducible refine inv_fst (by assumption) ?_ | with_reducible refine inv_ite ?_ ?_
      | (simp only [inv_mk]; refine inv_parts ?_) | split

theorem State.tileIrq_inv {s : State} {t : Nat} {k : Nat} (hs : Inv s) : Inv (State.tileIrq s t k) := by
  unfold State.tileIrq
  try dsimp only
  repeat' (first | with_reducible assumption | with_reducible refine State.modTile_inv ?_)

theorem State.modAtu_inv {s : State} {f : Atu → Atu} (hs : Inv s) (hf : ∀ a : Atu, a.ns.toNat < 1000000000 → (f a).ns.toNat < 1000000000) :
    Inv (State.modAtu s f) := by
  have p := inv_parts hs
  exact inv_mk.2 ⟨p.1, p.2.1, p.2.2.1, p.2.2.2.1, hf _ p.2.2.2.2.1, p.2.2.2.2.2⟩

theorem State.atuEvent_inv {s : State} {code : Nat} {unit : Nat} {data : List (Nat × Nat)} (hs : Inv s) :
    Inv (State.atuEvent s code unit data) := by
  unfold State.atuEvent
  try dsimp only
  repeat' (first | with_reducible assumption | with_reducible refine State.devEvent_inv ?_)

theorem State.setLock_inv {s : State} {b : Bool} (hs : Inv s) : Inv (State.setLock s b) := by
  unfold State.setLock
  try dsimp only
  repeat'
    first
      | with_reducible assumption | with_reducible refine State.setFld_inv ?_ | with_reducible refine State.atuEvent_inv ?_
      | with_reducible refine inv_ite ?_ ?_

theorem State.setFadj_inv {s : State} {x : Int} (hs : Inv s) : Inv (State.setFadj s x) := by
  unfold State.setFadj
  try dsimp only
  repeat' (first | with_reducible assumption | with_reducible refine State.setFld_inv ?_)

theorem State.lockSample_inv {s : State} {good : Bool} (hs : Inv s) : Inv (State.lockSample s good) := by
  unfold State.lockSample
  try dsimp only
  repeat'
    first
      | with_reducible assumption | with_reducible refine State.modAtu_inv ?_ ?_
      | with_reducible exact fun _ _ => Atu.setNow_time _ _ | with_reducible exact fun _ h => h
      | with_reducible refine State.setLock_inv ?_ | with_reducible refine inv_ite ?_ ?_

theorem State.servo_inv {s : State} {e : Int} (hs : Inv s) : Inv (State.servo s e) := by
  unfold State.servo
  try dsimp only
  repeat'
    first
      | with_reducible assumption | with_reducible refine State.setFld_inv ?_ | with_reducible refine State.lockSample_inv ?_
      | with_reducible refine State.modAtu_inv ?_ ?_ | with_reducible exact fun _ _ => Atu.setNow_time _ _
      | with_reducible exact fun _ h => h | with_reducible refine State.setFadj_inv ?_ | with_reducible refine inv_ite ?_ ?_

theorem State.takeSample_inv {s : State} {e : Int} (hs : Inv s) : Inv (State.takeSample s e) := by
  unfold State.takeSample
  try dsimp only
  repeat'
    first
      | with_reducible assumption | with_reducible refine State.modAtu_inv ?_ ?_
      | with_reducible exact fun _ _ => Atu.setNow_time _ _ | with_reducible exact fun _ h => h
      | with_reducible refine State.servo_inv ?_

theorem State.stepDone_inv {s : State} {old : Nat} {new : Nat} {moved : Int} (hs : Inv s) :
    Inv (State.stepDone s old new moved) := by
  unfold State.stepDone
  try dsimp only
  repeat'
    first
      | with_reducible assumption | with_reducible refine State.modAtu_inv ?_ ?_
      | with_reducible exact fun _ _ => Atu.setNow_time _ _ | with_reducible exact fun _ h => h
      | with_reducible refine State.incSat_inv ?_ | with_reducible refine State.setLock_inv ?_
      | with_reducible refine State.atuEvent_inv ?_

theorem State.applyStep_inv {s : State} {u : Nat} {st : ClockStep} (hs : Inv s) : Inv (State.applyStep s u st) := by
  unfold State.applyStep
  try dsimp only
  repeat'
    first
      | with_reducible assumption | with_reducible refine State.setFld_inv ?_ | with_reducible refine State.modAtu_inv ?_ ?_
      | with_reducible exact fun _ _ => Atu.setNow_time _ _ | with_reducible exact fun _ h => h
      | with_reducible refine State.stepDone_inv ?_ | with_reducible refine inv_ite ?_ ?_ | split

theorem State.atuTick_inv {s : State} (hs : Inv s) : Inv (State.atuTick s) := by
  unfold State.atuTick
  try dsimp only
  repeat'
    first
      | with_reducible assumption | with_reducible refine State.modAtu_inv ?_ ?_
      | with_reducible exact fun _ _ => Atu.setNow_time _ _ | with_reducible exact fun _ h => h
      | with_reducible refine State.applyStep_inv ?_ | with_reducible refine State.takeSample_inv ?_
      | with_reducible refine inv_ite ?_ ?_ | split

theorem execAtuTick_inv {s : State} (hs : Inv s) : InvNext (execAtuTick s) := by
  unfold execAtuTick
  try dsimp only
  repeat'
    first
      | with_reducible assumption | with_reducible refine State.atuTick_inv ?_ | with_reducible refine State.modAtu_inv ?_ ?_
      | with_reducible exact fun _ _ => Atu.setNow_time _ _ | with_reducible exact fun _ h => h | exact invNext_refused
      | with_reducible refine invNext_next ?_ | with_reducible refine invNext_ite ?_ ?_ | with_reducible refine inv_ite ?_ ?_
      | (simp only [inv_mk]; refine inv_parts ?_) | split | (intros; assumption)

theorem State.atuSet_inv {s : State} {p : Nat} (hs : Inv s) : Inv (State.atuSet s p) := by
  unfold State.atuSet
  try dsimp only
  repeat'
    first
      | with_reducible assumption | with_reducible refine State.setFld_inv ?_ | with_reducible refine State.modAtu_inv ?_ ?_
      | with_reducible exact fun _ _ => Atu.setNow_time _ _ | with_reducible exact fun _ h => h
      | with_reducible refine inv_ite ?_ ?_

theorem execAtuSet_inv {p : PtnIx} {s : State} (hs : Inv s) : InvNext (execAtuSet p s) := by
  unfold execAtuSet
  try dsimp only
  repeat'
    first
      | with_reducible assumption | with_reducible refine State.atuSet_inv ?_ | exact invNext_refused
      | with_reducible refine invNext_next ?_

theorem State.atuStep_inv {s : State} {p : Nat} {ns : Nat} (hs : Inv s) : Inv (State.atuStep s p ns) := by
  unfold State.atuStep
  try dsimp only
  repeat'
    first
      | with_reducible assumption | with_reducible refine State.modAtu_inv ?_ ?_
      | with_reducible exact fun _ _ => Atu.setNow_time _ _ | with_reducible exact fun _ h => h
      | with_reducible refine inv_ite ?_ ?_

theorem execAtuStep_inv {p : PtnIx} {ns : Word} {s : State} (hs : Inv s) : InvNext (execAtuStep p ns s) := by
  unfold execAtuStep
  try dsimp only
  repeat'
    first
      | with_reducible assumption | with_reducible refine State.atuStep_inv ?_ | exact invNext_refused
      | with_reducible refine invNext_next ?_

theorem State.snapRead_inv {s : State} {p : Nat} (hs : Inv s) : Inv (State.snapRead s p) := by
  unfold State.snapRead
  try dsimp only
  repeat'
    first
      | with_reducible assumption | with_reducible refine State.modAtu_inv ?_ ?_
      | with_reducible exact fun _ _ => Atu.setNow_time _ _ | with_reducible exact fun _ h => h
      | with_reducible refine State.put_inv ?_ | with_reducible refine inv_snd (by assumption) ?_
      | with_reducible refine inv_fst (by assumption) ?_ | with_reducible refine inv_ite ?_ ?_

theorem execTimeSnapRead_inv {p : PtnIx} {s : State} (hs : Inv s) : InvNext (execTimeSnapRead p s) := by
  unfold execTimeSnapRead
  try dsimp only
  repeat'
    first
      | with_reducible assumption | with_reducible refine State.snapRead_inv ?_ | exact invNext_refused
      | with_reducible refine invNext_next ?_

theorem State.phaseSample_inv {s : State} {e : Int} {taken : Bool} (hs : Inv s) : Inv (State.phaseSample s e taken) := by
  unfold State.phaseSample
  try dsimp only
  repeat'
    first
      | with_reducible assumption | with_reducible refine State.incSat_inv ?_ | with_reducible refine State.modAtu_inv ?_ ?_
      | with_reducible exact fun _ _ => Atu.setNow_time _ _ | with_reducible exact fun _ h => h
      | with_reducible refine State.takeSample_inv ?_ | with_reducible refine inv_ite ?_ ?_

theorem State.ofsIn_inv {s : State} {p : Nat} {ofs : Nat} {taken : Bool} (hs : Inv s) : Inv (State.ofsIn s p ofs taken) := by
  unfold State.ofsIn
  try dsimp only
  repeat'
    first
      | with_reducible assumption | with_reducible refine State.phaseSample_inv ?_ | with_reducible refine inv_ite ?_ ?_

theorem execAtuOfsIn_inv {p : PtnIx} {ofs : Word} {taken : Bool} {s : State} (hs : Inv s) :
    InvNext (execAtuOfsIn p ofs taken s) := by
  unfold execAtuOfsIn
  try dsimp only
  repeat'
    first
      | with_reducible assumption | with_reducible refine State.ofsIn_inv ?_ | exact invNext_refused
      | with_reducible refine invNext_next ?_

theorem execPpsInEdge_inv {ofs16 : BitVec 8} {taken : Bool} {s : State} (hs : Inv s) :
    InvNext (execPpsInEdge ofs16 taken s) := by
  unfold execPpsInEdge
  try dsimp only
  repeat'
    first
      | with_reducible assumption | with_reducible refine State.phaseSample_inv ?_ | exact invNext_refused
      | with_reducible refine invNext_next ?_ | with_reducible refine invNext_ite ?_ ?_ | with_reducible refine inv_ite ?_ ?_

theorem execSyncInEdge_inv {ofs16 : BitVec 8} {taken : Bool} {s : State} (hs : Inv s) :
    InvNext (execSyncInEdge ofs16 taken s) := by
  unfold execSyncInEdge
  try dsimp only
  repeat'
    first
      | with_reducible assumption | with_reducible refine State.phaseSample_inv ?_ | exact invNext_refused
      | with_reducible refine invNext_next ?_ | with_reducible refine invNext_ite ?_ ?_ | with_reducible refine inv_ite ?_ ?_

theorem execSynceGate_inv {err : BitVec 32} {s : State} (hs : Inv s) : InvNext (execSynceGate err s) := by
  unfold execSynceGate
  try dsimp only
  repeat'
    first
      | with_reducible assumption | with_reducible refine State.modAtu_inv ?_ ?_
      | with_reducible exact fun _ _ => Atu.setNow_time _ _ | with_reducible exact fun _ h => h
      | with_reducible refine State.setFadj_inv ?_ | exact invNext_refused | with_reducible refine invNext_next ?_
      | with_reducible refine invNext_ite ?_ ?_ | with_reducible refine inv_ite ?_ ?_

theorem State.enterHoldover_inv {s : State} (hs : Inv s) : Inv (State.enterHoldover s) := by
  unfold State.enterHoldover
  try dsimp only
  repeat'
    first
      | with_reducible assumption | with_reducible refine State.setFld_inv ?_ | with_reducible refine State.modAtu_inv ?_ ?_
      | with_reducible exact fun _ _ => Atu.setNow_time _ _ | with_reducible exact fun _ h => h
      | with_reducible refine State.setLock_inv ?_ | with_reducible refine State.atuEvent_inv ?_
      | with_reducible refine inv_ite ?_ ?_

theorem execHoldoverTimeout_inv {s : State} (hs : Inv s) : InvNext (execHoldoverTimeout s) := by
  unfold execHoldoverTimeout
  try dsimp only
  repeat'
    first
      | with_reducible assumption | with_reducible refine State.enterHoldover_inv ?_ | exact invNext_refused
      | with_reducible refine invNext_next ?_ | with_reducible refine invNext_ite ?_ ?_ | with_reducible refine inv_ite ?_ ?_

theorem execPpsOutRise_inv {s : State} (hs : Inv s) : InvNext (execPpsOutRise s) := by
  unfold execPpsOutRise
  try dsimp only
  repeat'
    first
      | with_reducible assumption | with_reducible refine State.modAtu_inv ?_ ?_
      | with_reducible exact fun _ _ => Atu.setNow_time _ _ | with_reducible exact fun _ h => h | exact invNext_refused
      | with_reducible refine invNext_next ?_ | with_reducible refine invNext_ite ?_ ?_ | with_reducible refine inv_ite ?_ ?_

theorem execPpsOutFall_inv {s : State} (hs : Inv s) : InvNext (execPpsOutFall s) := by
  unfold execPpsOutFall
  try dsimp only
  repeat'
    first
      | with_reducible assumption | with_reducible refine State.modAtu_inv ?_ ?_
      | with_reducible exact fun _ _ => Atu.setNow_time _ _ | with_reducible exact fun _ h => h | exact invNext_refused
      | with_reducible refine invNext_next ?_ | with_reducible refine invNext_ite ?_ ?_ | with_reducible refine inv_ite ?_ ?_

theorem execSyncOutRise_inv {s : State} (hs : Inv s) : InvNext (execSyncOutRise s) := by
  unfold execSyncOutRise
  try dsimp only
  repeat'
    first
      | with_reducible assumption | with_reducible refine State.modAtu_inv ?_ ?_
      | with_reducible exact fun _ _ => Atu.setNow_time _ _ | with_reducible exact fun _ h => h | exact invNext_refused
      | with_reducible refine invNext_next ?_ | with_reducible refine invNext_ite ?_ ?_ | with_reducible refine inv_ite ?_ ?_

theorem execSyncOutFall_inv {s : State} (hs : Inv s) : InvNext (execSyncOutFall s) := by
  unfold execSyncOutFall
  try dsimp only
  repeat'
    first
      | with_reducible assumption | with_reducible refine State.modAtu_inv ?_ ?_
      | with_reducible exact fun _ _ => Atu.setNow_time _ _ | with_reducible exact fun _ h => h | exact invNext_refused
      | with_reducible refine invNext_next ?_ | with_reducible refine invNext_ite ?_ ?_ | with_reducible refine inv_ite ?_ ?_

theorem State.rcvCheck_inv {s : State} (hs : Inv s) : Inv (State.rcvCheck s) := by
  unfold State.rcvCheck
  try dsimp only
  repeat'
    first
      | with_reducible assumption | with_reducible refine State.devEvent_inv ?_ | with_reducible refine inv_ite ?_ ?_

theorem State.cellDisarm_inv {s : State} {c : Nat} (hs : Inv s) : Inv (State.cellDisarm s c) := by
  unfold State.cellDisarm
  try dsimp only
  repeat'
    first
      | with_reducible assumption | with_reducible refine State.modAtu_inv ?_ ?_
      | with_reducible exact fun _ _ => Atu.setNow_time _ _ | with_reducible exact fun _ h => h
      | with_reducible refine State.atuEvent_inv ?_

theorem State.cellCfgWrite_inv {s : State} {p : Nat} {c : Nat} {v : Nat} (hs : Inv s) :
    Inv (State.cellCfgWrite s p c v) := by
  unfold State.cellCfgWrite
  try dsimp only
  repeat'
    first
      | with_reducible assumption | with_reducible refine State.setFld_inv ?_ | with_reducible refine State.cellDisarm_inv ?_
      | with_reducible refine inv_ite ?_ ?_

theorem State.setStage_inv {s : State} {p : Nat} {g : TrgStage} (hs : Inv s) : Inv (State.setStage s p g) := by
  unfold State.setStage
  try dsimp only
  repeat'
    first
      | with_reducible assumption | with_reducible refine State.modAtu_inv ?_ ?_
      | with_reducible exact fun _ _ => Atu.setNow_time _ _ | with_reducible exact fun _ h => h

theorem State.trgErr_inv {s : State} {p : Nat} {e : Nat} (hs : Inv s) : Inv (State.trgErr s p e) := by
  unfold State.trgErr
  try dsimp only
  repeat' (first | with_reducible assumption | with_reducible refine State.setStage_inv ?_)

theorem State.trgArm_inv {s : State} {p : Nat} {i : Nat} (hs : Inv s) : Inv (State.trgArm s p i) := by
  unfold State.trgArm
  try dsimp only
  repeat'
    first
      | with_reducible assumption | with_reducible refine State.modAtu_inv ?_ ?_
      | with_reducible exact fun _ _ => Atu.setNow_time _ _ | with_reducible exact fun _ h => h
      | with_reducible refine State.put_inv ?_ | with_reducible refine State.trgErr_inv ?_
      | with_reducible refine inv_snd (by assumption) ?_ | with_reducible refine inv_fst (by assumption) ?_
      | with_reducible refine inv_ite ?_ ?_ | split

theorem execArm_inv {p : PtnIx} {index : BitVec 12} {s : State} (hs : Inv s) : InvNext (execArm p index s) := by
  unfold execArm
  try dsimp only
  repeat'
    first
      | with_reducible assumption | with_reducible refine State.trgArm_inv ?_ | exact invNext_refused
      | with_reducible refine invNext_next ?_ | with_reducible refine invNext_ite ?_ ?_ | with_reducible refine inv_ite ?_ ?_

theorem State.trgDisarm_inv {s : State} {p : Nat} {i : Nat} (hs : Inv s) : Inv (State.trgDisarm s p i) := by
  unfold State.trgDisarm
  try dsimp only
  repeat'
    first
      | with_reducible assumption | with_reducible refine State.trgErr_inv ?_ | with_reducible refine State.modAtu_inv ?_ ?_
      | with_reducible exact fun _ _ => Atu.setNow_time _ _ | with_reducible exact fun _ h => h
      | with_reducible refine State.put_inv ?_ | with_reducible refine inv_snd (by assumption) ?_
      | with_reducible refine inv_fst (by assumption) ?_ | with_reducible refine inv_ite ?_ ?_ | split

theorem execDisarm_inv {p : PtnIx} {index : BitVec 12} {s : State} (hs : Inv s) : InvNext (execDisarm p index s) := by
  unfold execDisarm
  try dsimp only
  repeat'
    first
      | with_reducible assumption | with_reducible refine State.trgDisarm_inv ?_ | exact invNext_refused
      | with_reducible refine invNext_next ?_ | with_reducible refine invNext_ite ?_ ?_ | with_reducible refine inv_ite ?_ ?_

theorem State.trgRead_inv {s : State} {p : Nat} {i : Nat} (hs : Inv s) : Inv (State.trgRead s p i) := by
  unfold State.trgRead
  try dsimp only
  repeat'
    first
      | with_reducible assumption | with_reducible refine State.trgErr_inv ?_ | with_reducible refine State.setStage_inv ?_
      | with_reducible refine inv_ite ?_ ?_ | split

theorem execTrgRead_inv {p : PtnIx} {index : BitVec 12} {s : State} (hs : Inv s) : InvNext (execTrgRead p index s) := by
  unfold execTrgRead
  try dsimp only
  repeat'
    first
      | with_reducible assumption | with_reducible refine State.trgRead_inv ?_ | exact invNext_refused
      | with_reducible refine invNext_next ?_ | with_reducible refine invNext_ite ?_ ?_ | with_reducible refine inv_ite ?_ ?_

theorem State.trgAction_inv {s : State} {i : Nat} {t : Trigger} (hs : Inv s) : Inv (State.trgAction s i t) := by
  unfold State.trgAction
  try dsimp only
  repeat'
    first
      | with_reducible assumption | with_reducible refine State.tileIrq_inv ?_ | with_reducible refine State.signal_inv ?_
      | with_reducible refine State.msiHart_inv ?_ | with_reducible refine MsiResult.done_inv ?_
      | with_reducible refine State.event_inv ?_ | with_reducible refine inv_snd (by assumption) ?_
      | with_reducible refine inv_fst (by assumption) ?_ | with_reducible refine inv_ite ?_ ?_ | split

theorem State.triggerFire_inv {s : State} (hs : Inv s) : Inv (State.triggerFire s) := by
  unfold State.triggerFire
  try dsimp only
  repeat'
    first
      | with_reducible assumption | with_reducible refine State.modAtu_inv ?_ ?_
      | with_reducible exact fun _ _ => Atu.setNow_time _ _ | with_reducible exact fun _ h => h
      | with_reducible refine State.put_inv ?_ | with_reducible refine State.trgAction_inv ?_
      | with_reducible refine inv_snd (by assumption) ?_ | with_reducible refine inv_fst (by assumption) ?_
      | with_reducible refine inv_ite ?_ ?_ | split

theorem execTriggerFire_inv {s : State} (hs : Inv s) : InvNext (execTriggerFire s) := by
  unfold execTriggerFire
  try dsimp only
  repeat'
    first
      | with_reducible assumption | with_reducible refine State.triggerFire_inv ?_ | exact invNext_refused
      | with_reducible refine invNext_next ?_

theorem State.etsPop_inv {s : State} {p : Nat} (hs : Inv s) : Inv (State.etsPop s p) := by
  unfold State.etsPop
  try dsimp only
  repeat'
    first
      | with_reducible assumption | with_reducible refine State.modAtu_inv ?_ ?_
      | with_reducible exact fun _ _ => Atu.setNow_time _ _ | with_reducible exact fun _ h => h
      | with_reducible refine inv_ite ?_ ?_

theorem execEtsPop_inv {p : PtnIx} {s : State} (hs : Inv s) : InvNext (execEtsPop p s) := by
  unfold execEtsPop
  try dsimp only
  repeat'
    first
      | with_reducible assumption | with_reducible refine State.etsPop_inv ?_ | exact invNext_refused
      | with_reducible refine invNext_next ?_

theorem State.pushEts_inv {s : State} {e : EgressStamp} (hs : Inv s) : Inv (State.pushEts s e) := by
  unfold State.pushEts
  try dsimp only
  repeat'
    first
      | with_reducible assumption | with_reducible refine State.setFld_inv ?_ | with_reducible refine State.modAtu_inv ?_ ?_
      | with_reducible exact fun _ _ => Atu.setNow_time _ _ | with_reducible exact fun _ h => h
      | with_reducible refine inv_ite ?_ ?_

end Sys2Proof.Machine
end

