-- ==== Sys2Proof/Laws/InvTile.lean ====
section
/-! SUPPORT. Every definition of task queues, tiles, the arrays and streams that answers a state keeps the invariant
`Inv` of Safety.lean: one lemma per definition, named after it with the ending _inv. -/
namespace Sys2Proof.Machine

theorem State.returnHolder_inv {s : State} {x : Slice} (hs : Inv s) : Inv (State.returnHolder s x) := by
  unfold State.returnHolder
  try dsimp only
  repeat'
    first
      | with_reducible assumption | with_reducible refine State.setTile_inv ?_ | with_reducible refine inv_ite ?_ ?_ | split

theorem State.cutSlice_inv {s : State} {x : Slice} (hs : Inv s) : Inv (State.cutSlice s x) := by
  unfold State.cutSlice
  try dsimp only
  repeat'
    first
      | with_reducible assumption | with_reducible refine State.incSat_inv ?_ | with_reducible refine State.returnHolder_inv ?_
      | refine forEach_inv (fun _ _ _ => ?_) ?_ | with_reducible refine inv_ite ?_ ?_ | (simp only [inv_mk]; refine inv_parts ?_)
      | split

theorem State.cutSlicesOf_inv {s : State} {j : Nat} (hs : Inv s) : Inv (State.cutSlicesOf s j) := by
  unfold State.cutSlicesOf
  try dsimp only
  repeat'
    first
      | with_reducible assumption | with_reducible refine State.cutSlice_inv ?_ | refine forEach_inv (fun _ _ _ => ?_) ?_
      | with_reducible refine inv_ite ?_ ?_

theorem State.jobFlag_inv {s : State} {j : Nat} {k : Nat} (hs : Inv s) : Inv (State.jobFlag s j k) := by
  unfold State.jobFlag
  try dsimp only
  repeat' (first | with_reducible assumption | with_reducible refine State.modJob_inv ?_)

theorem State.jobEvent_inv {s : State} {j : Nat} {code : Nat} {unit : Nat} {data : List (Nat × Nat)} (hs : Inv s) :
    Inv (State.jobEvent s j code unit data) := by
  unfold State.jobEvent
  try dsimp only
  repeat'
    first
      | with_reducible assumption | with_reducible refine State.raise_inv ?_ | with_reducible refine inv_ite ?_ ?_ | split

theorem State.releaseGranules_inv {s : State} {c : Nat} {x : Tile} (hs : Inv s) : Inv (State.releaseGranules s c x) := by
  unfold State.releaseGranules
  try dsimp only
  repeat' (first | with_reducible assumption | with_reducible refine State.setFld_inv ?_)

theorem State.takeCairn_inv {s : State} {t : Nat} {slot : Nat} {c : Cairn} (hs : Inv s) :
    Inv (State.takeCairn s t slot c) := by
  unfold State.takeCairn
  try dsimp only
  repeat'
    first
      | with_reducible assumption | with_reducible refine State.setFld_inv ?_ | with_reducible refine inv_ite ?_ ?_
      | (simp only [inv_mk]; refine inv_parts ?_)

theorem State.freeCairn_inv {s : State} {t : Nat} {slot : Nat} (hs : Inv s) : Inv (State.freeCairn s t slot) := by
  unfold State.freeCairn
  try dsimp only
  repeat'
    first
      | with_reducible assumption | with_reducible refine State.takeCairn_inv ?_
      | with_reducible refine State.releaseGranules_inv ?_ | with_reducible refine inv_ite ?_ ?_ | split

theorem State.stopTile_inv {s : State} {t : Nat} (hs : Inv s) : Inv (State.stopTile s t) := by
  unfold State.stopTile
  try dsimp only
  repeat' (first | with_reducible assumption | with_reducible refine State.modTile_inv ?_)

theorem State.setTaskReg_inv {s : State} {t : Nat} {r : Reg} {v : Nat} (hs : Inv s) : Inv (State.setTaskReg s t r v) := by
  unfold State.setTaskReg
  try dsimp only
  repeat'
    first
      | with_reducible assumption | with_reducible refine State.setReg_inv ?_ | with_reducible refine inv_ite ?_ ?_

theorem State.addTotals_inv {s : State} {j : Nat} {sat : Nat} {flush : Nat} {nan : Nat} (hs : Inv s) :
    Inv (State.addTotals s j sat flush nan) := by
  unfold State.addTotals
  try dsimp only
  repeat'
    first
      | with_reducible assumption | with_reducible refine State.modJob_inv ?_

theorem State.dropSaved_inv {s : State} {t : Nat} {slot : Nat} (hs : Inv s) : Inv (State.dropSaved s t slot) := by
  unfold State.dropSaved
  try dsimp only
  repeat'
    first
      | with_reducible assumption | with_reducible refine State.freeCairn_inv ?_ | with_reducible refine State.addTotals_inv ?_
      | with_reducible refine State.jobFlag_inv ?_ | split

theorem State.dropQueued_inv {s : State} {j : Nat} {t : Nat} (hs : Inv s) : Inv (State.dropQueued s j t).1 := by
  unfold State.dropQueued
  try dsimp only
  repeat'
    first
      | with_reducible assumption | with_reducible refine State.setTile_inv ?_ | with_reducible refine State.dropSaved_inv ?_
      | refine forEach_inv (fun _ _ _ => ?_) ?_ | with_reducible refine inv_ite ?_ ?_ | with_reducible refine inv_ite_fst ?_ ?_

theorem State.stopTasks_inv {s : State} {j : Nat} {ts : List Nat} (hs : Inv s) : Inv (State.stopTasks s j ts) := by
  unfold State.stopTasks
  try dsimp only
  repeat'
    first
      | with_reducible assumption | with_reducible refine State.dropQueued_inv ?_ | with_reducible refine State.modJob_inv ?_
      | with_reducible refine State.stopTile_inv ?_ | refine forEach_inv (fun _ _ _ => ?_) ?_
      | with_reducible refine inv_snd (by assumption) ?_ | with_reducible refine inv_fst (by assumption) ?_
      | with_reducible refine inv_ite ?_ ?_ | split

theorem State.countEnd_inv {s : State} (hs : Inv s) : Inv (State.countEnd s) := by
  unfold State.countEnd
  try dsimp only
  repeat'
    first
      | with_reducible assumption | (simp only [inv_mk]; refine inv_parts ?_)

theorem State.workEnded_inv {s : State} {j : Nat} (hs : Inv s) : Inv (State.workEnded s j) := by
  unfold State.workEnded
  try dsimp only
  repeat'
    first
      | with_reducible assumption | with_reducible refine State.putJob_inv ?_ | with_reducible refine State.countEnd_inv ?_
      | split

theorem State.setCoding_inv {s : State} {c : Coding} (hs : Inv s) : Inv (State.setCoding s c) := by
  unfold State.setCoding
  try dsimp only
  repeat'
    first
      | with_reducible assumption | with_reducible refine inv_ite ?_ ?_ | (simp only [inv_mk]; refine inv_parts ?_)

theorem State.forgetCoding_inv {s : State} {j : Nat} (hs : Inv s) : Inv (State.forgetCoding s j) := by
  unfold State.forgetCoding
  try dsimp only
  repeat' (first | with_reducible assumption | with_reducible refine State.setCoding_inv ?_)

theorem State.stopCodecs_inv {s : State} {j : Nat} (hs : Inv s) : Inv (State.stopCodecs s j) := by
  unfold State.stopCodecs
  try dsimp only
  repeat'
    first
      | with_reducible assumption | with_reducible refine State.setCoding_inv ?_ | with_reducible refine State.forgetCoding_inv ?_
      | with_reducible refine inv_ite ?_ ?_

theorem State.endJob_inv {s : State} {j : Nat} {status : Nat} {fault : Nat} {flags : List Nat} (hs : Inv s) :
    Inv (State.endJob s j status fault flags) := by
  unfold State.endJob
  try dsimp only
  repeat'
    first
      | with_reducible assumption | with_reducible refine State.putJob_inv ?_ | with_reducible refine State.cutSlicesOf_inv ?_
      | with_reducible refine State.modJob_inv ?_ | with_reducible refine State.stopCodecs_inv ?_
      | with_reducible refine State.stopTasks_inv ?_ | with_reducible refine State.workEnded_inv ?_
      | refine foldl_inv (fun _ _ _ => ?_) ?_ | refine foldl_inv_fst (fun _ _ _ => ?_) ?_
      | refine foldl_inv_snd (fun _ _ _ => ?_) ?_ | with_reducible refine inv_ite ?_ ?_ | split

theorem State.failJob_inv {s : State} {j : Nat} {fault : Nat} (hs : Inv s) : Inv (State.failJob s j fault) := by
  unfold State.failJob
  try dsimp only
  repeat' (first | with_reducible assumption | with_reducible refine State.endJob_inv ?_)

theorem State.missJob_inv {s : State} {j : Nat} (hs : Inv s) : Inv (State.missJob s j) := by
  unfold State.missJob
  try dsimp only
  repeat'
    first
      | with_reducible assumption | with_reducible refine State.endJob_inv ?_ | with_reducible refine State.modJob_inv ?_
      | with_reducible refine inv_ite ?_ ?_ | split

theorem State.taskDone_inv {s : State} {j : Nat} (hs : Inv s) : Inv (State.taskDone s j) := by
  unfold State.taskDone
  try dsimp only
  repeat'
    first
      | with_reducible assumption | with_reducible refine State.putJob_inv ?_ | with_reducible refine State.workEnded_inv ?_
      | with_reducible refine inv_ite ?_ ?_ | split

theorem State.failTask_inv {s : State} {j : Nat} {code : Nat} {fb : Bool} (hs : Inv s) :
    Inv (State.failTask s j code fb) := by
  unfold State.failTask
  try dsimp only
  repeat'
    first
      | with_reducible assumption | with_reducible refine State.putJob_inv ?_ | with_reducible refine State.stopTasks_inv ?_
      | with_reducible refine State.failJob_inv ?_ | with_reducible refine inv_ite ?_ ?_ | split

theorem State.unitDelivered_inv {s : State} {j : Nat} {e : Nat} {fb : Bool} (hs : Inv s) :
    Inv (State.unitDelivered s j e fb) := by
  unfold State.unitDelivered
  try dsimp only
  repeat'
    first
      | with_reducible assumption | with_reducible refine State.putJob_inv ?_ | with_reducible refine State.signalEntry_inv ?_
      | with_reducible refine State.workEnded_inv ?_ | with_reducible refine inv_ite ?_ ?_ | split

theorem State.dispatched_inv {s : State} {j : Nat} {n : Nat} (hs : Inv s) : Inv (State.dispatched s j n) := by
  unfold State.dispatched
  try dsimp only
  repeat'
    first
      | with_reducible assumption | with_reducible refine State.putJob_inv ?_ | with_reducible refine State.takeSem_inv ?_
      | with_reducible refine State.refresh_inv ?_ | refine forEach_inv (fun _ _ _ => ?_) ?_ | with_reducible refine inv_ite ?_ ?_
      | split

theorem State.putPage_inv {s : State} {p : Nat} {va : Nat} {bs : List Byte} (hs : Inv s) :
    Inv (State.putPage s p va bs).2 := by
  unfold State.putPage
  try dsimp only
  repeat'
    first
      | with_reducible assumption | with_reducible refine State.translate_inv ?_ | with_reducible refine State.event_inv ?_
      | with_reducible refine State.devWrite_inv ?_ | with_reducible refine inv_snd (by assumption) ?_
      | with_reducible refine inv_fst (by assumption) ?_ | with_reducible refine inv_of_ok (by assumption) ?_
      | with_reducible refine inv_ite ?_ ?_ | with_reducible refine inv_ite_snd ?_ ?_ | dsimp only | split

theorem State.putLoop_inv {s : State} {p : Nat} {va : Nat} {bs : List Byte} {z0 : Nat} (hs : Inv s) :
    Inv (State.putLoop s p va bs z0).2 := by
  induction z0 generalizing s va bs with
  | zero => exact hs
  | succ k ih =>
    unfold State.putLoop
    try dsimp only
    repeat'
      first
        | with_reducible refine ih ?_ | with_reducible assumption | with_reducible refine State.putPage_inv ?_
        | with_reducible refine inv_snd (by assumption) ?_ | with_reducible refine inv_fst (by assumption) ?_
        | with_reducible refine inv_ite ?_ ?_ | with_reducible refine inv_ite_snd ?_ ?_ | dsimp only | split

theorem State.put_inv {s : State} {p : Nat} {va : Nat} {bs : List Byte} (hs : Inv s) : Inv (State.put s p va bs).2 := by
  unfold State.put
  try dsimp only
  repeat' (first | with_reducible assumption | with_reducible refine State.putLoop_inv ?_)

theorem State.putAll_inv {s : State} {p : Nat} {z0 : List (Nat × List Byte)} (hs : Inv s) : Inv (State.putAll s p z0).2 := by
  induction z0 generalizing s with
  | nil => exact hs
  | cons b bs ih =>
    unfold State.putAll
    try dsimp only
    repeat'
      first
        | with_reducible refine ih ?_ | with_reducible assumption | with_reducible refine State.put_inv ?_
        | with_reducible refine inv_snd (by assumption) ?_ | with_reducible refine inv_fst (by assumption) ?_
        | with_reducible refine inv_ite ?_ ?_ | with_reducible refine inv_ite_snd ?_ ?_ | dsimp only | split

theorem State.getAll_inv {s : State} {p : Nat} {z0 : List (Nat × Nat)} (hs : Inv s) : Inv (State.getAll s p z0).2 := by
  induction z0 generalizing s with
  | nil => exact hs
  | cons b bs ih =>
    unfold State.getAll
    try dsimp only
    repeat'
      first
        | with_reducible refine ih ?_ | with_reducible assumption | with_reducible refine State.vRead_inv ?_
        | with_reducible refine inv_snd (by assumption) ?_ | with_reducible refine inv_fst (by assumption) ?_
        | with_reducible refine inv_ite ?_ ?_ | with_reducible refine inv_ite_snd ?_ ?_ | dsimp only | split

theorem State.linearEntries_inv {s : State} {p : Nat} {want : List (Nat × Nat)} (hs : Inv s) :
    Inv (State.linearEntries s p want).2 := by
  unfold State.linearEntries
  try dsimp only
  repeat'
    first
      | with_reducible assumption | with_reducible refine State.getAll_inv ?_ | with_reducible refine inv_snd (by assumption) ?_
      | with_reducible refine inv_fst (by assumption) ?_ | with_reducible refine inv_ite ?_ ?_
      | with_reducible refine inv_ite_snd ?_ ?_ | dsimp only | split

theorem State.sealMap_inv {s : State} (hs : Inv s) : Inv (State.sealMap s) := by
  unfold State.sealMap
  try dsimp only
  repeat' (first | with_reducible assumption | with_reducible refine State.poke_inv ?_)

theorem State.markRetired_inv {s : State} {k : Nat} {i : Nat} (hs : Inv s) : Inv (State.markRetired s k i) := by
  unfold State.markRetired
  try dsimp only
  repeat'
    first
      | with_reducible assumption | with_reducible refine State.poke_inv ?_ | with_reducible refine State.sealMap_inv ?_

theorem State.setLevel_inv {s : State} {k : Nat} {i : Nat} {v : Nat} (hs : Inv s) : Inv (State.setLevel s k i v) := by
  have p := inv_parts hs
  exact inv_mk.2 ⟨p.1, p.2.1, p.2.2.1, Table.wf_set _ _ _ _ p.2.2.2.1, p.2.2.2.2⟩

theorem State.raiseLevel_inv {s : State} {k : Nat} {i : Nat} {w : Nat} (hs : Inv s) : Inv (State.raiseLevel s k i w).1 := by
  unfold State.raiseLevel
  try dsimp only
  repeat'
    first
      | with_reducible assumption | with_reducible refine State.setLevel_inv ?_ | with_reducible refine State.devEvent_inv ?_
      | with_reducible refine inv_ite ?_ ?_ | with_reducible refine inv_ite_fst ?_ ?_

theorem State.setTmap_inv {s : State} {n : Nat} {st : Nat} {pt : Nat} (hs : Inv s) : Inv (State.setTmap s n st pt) := by
  unfold State.setTmap
  try dsimp only
  repeat'
    first
      | with_reducible assumption | with_reducible refine State.setFld_inv ?_ | with_reducible refine State.devEvent_inv ?_

theorem State.setSpare_inv {s : State} {f : Fld} {c : Nat} (hs : Inv s) : Inv (State.setSpare s f c) := by
  unfold State.setSpare
  try dsimp only
  repeat' (first | with_reducible assumption | with_reducible refine State.setFld_inv ?_)

theorem State.clearSpare_inv {s : State} {f : Fld} {c : Nat} (hs : Inv s) : Inv (State.clearSpare s f c) := by
  unfold State.clearSpare
  try dsimp only
  repeat'
    first
      | with_reducible assumption | with_reducible refine State.setFld_inv ?_ | with_reducible refine inv_ite ?_ ?_

theorem State.retireTile_inv {s : State} {pt : Nat} {cause : Nat} (hs : Inv s) : Inv (State.retireTile s pt cause) := by
  unfold State.retireTile
  try dsimp only
  repeat'
    first
      | with_reducible assumption | with_reducible refine State.markRetired_inv ?_ | with_reducible refine State.setSpare_inv ?_
      | with_reducible refine State.devEvent_inv ?_ | with_reducible refine State.poke_inv ?_
      | with_reducible refine State.sealMap_inv ?_ | with_reducible refine State.incSat_inv ?_
      | with_reducible refine State.setTmap_inv ?_ | with_reducible refine State.put_inv ?_
      | with_reducible refine inv_snd (by assumption) ?_ | with_reducible refine inv_fst (by assumption) ?_
      | with_reducible refine inv_ite ?_ ?_ | (simp only [inv_mk]; refine inv_parts ?_) | split

theorem State.tileTransient_inv {s : State} {pt : Nat} (hs : Inv s) : Inv (State.tileTransient s pt) := by
  unfold State.tileTransient
  try dsimp only
  repeat'
    first
      | with_reducible assumption | with_reducible refine State.raiseLevel_inv ?_ | with_reducible refine State.retireTile_inv ?_
      | with_reducible refine inv_snd (by assumption) ?_ | with_reducible refine inv_fst (by assumption) ?_
      | with_reducible refine inv_ite ?_ ?_

theorem State.addCounts_inv {s : State} {t : Nat} {c : Counts} (hs : Inv s) : Inv (State.addCounts s t c) := by
  unfold State.addCounts
  try dsimp only
  repeat'
    first
      | with_reducible assumption | with_reducible refine State.incSat_inv ?_ | with_reducible refine inv_ite ?_ ?_

theorem State.addLaneSat_inv {s : State} {t : Nat} {wide : Bool} {n : Nat} (hs : Inv s) :
    Inv (State.addLaneSat s t wide n) := by
  unfold State.addLaneSat
  try dsimp only
  repeat'
    first
      | with_reducible assumption | with_reducible refine State.addCounts_inv ?_ | with_reducible refine State.incSat_inv ?_
      | with_reducible refine inv_ite ?_ ?_

theorem State.writeResult_inv {s : State} {t : Nat} {w : Write} (hs : Inv s) : Inv (State.writeResult s t w) := by
  unfold State.writeResult
  try dsimp only
  repeat'
    first
      | with_reducible assumption | with_reducible refine State.store_inv ?_ | with_reducible refine State.pokeTile_inv ?_
      | with_reducible refine State.modTile_inv ?_ | with_reducible refine inv_ite ?_ ?_ | split

theorem State.writeAcc_inv {s : State} {t : Nat} {wide : Bool} {i : Nat} {due : List Write} (hs : Inv s) :
    Inv (State.writeAcc s t wide i due) := by
  unfold State.writeAcc
  try dsimp only
  repeat'
    first
      | with_reducible assumption | with_reducible refine State.setTile_inv ?_ | with_reducible refine State.setFld_inv ?_
      | with_reducible refine State.addLaneSat_inv ?_ | with_reducible refine inv_ite ?_ ?_

theorem State.writeDue_inv {s : State} {t : Nat} {due : List Write} (hs : Inv s) : Inv (State.writeDue s t due) := by
  unfold State.writeDue
  try dsimp only
  repeat'
    first
      | with_reducible assumption | with_reducible refine State.writeResult_inv ?_ | with_reducible refine State.writeAcc_inv ?_
      | refine forEach_inv (fun _ _ _ => ?_) ?_

theorem State.endCycleOf_inv {s : State} {t : Nat} {go : Write → Bool} (hs : Inv s) : Inv (State.endCycleOf s t go) := by
  unfold State.endCycleOf
  try dsimp only
  repeat'
    first
      | with_reducible assumption | with_reducible refine State.setTile_inv ?_ | with_reducible refine State.writeDue_inv ?_

theorem State.endCycle_inv {s : State} {t : Nat} (hs : Inv s) : Inv (State.endCycle s t) := by
  unfold State.endCycle
  try dsimp only
  repeat'
    first
      | with_reducible assumption | with_reducible refine State.endCycleOf_inv ?_

theorem State.endCyclesOf_inv {s : State} {t : Nat} {go : Write → Bool} {z0 : Nat} (hs : Inv s) :
    Inv (State.endCyclesOf s t go z0) := by
  induction z0 generalizing s with
  | zero => exact hs
  | succ k ih =>
    unfold State.endCyclesOf
    try dsimp only
    repeat'
      first
        | with_reducible refine ih ?_ | with_reducible assumption | with_reducible refine State.endCycleOf_inv ?_

theorem State.endCycles_inv {s : State} {t : Nat} {n : Nat} (hs : Inv s) : Inv (State.endCycles s t n) := by
  unfold State.endCycles
  try dsimp only
  repeat'
    first
      | with_reducible assumption | with_reducible refine State.endCyclesOf_inv ?_

theorem State.drainTile_inv {s : State} {t : Nat} (hs : Inv s) : Inv (State.drainTile s t) := by
  unfold State.drainTile
  try dsimp only
  repeat' (first | with_reducible assumption | with_reducible refine State.endCycles_inv ?_)

theorem State.stageWrite_inv {s : State} {t : Nat} {lat : Nat} {w : Write} (hs : Inv s) :
    Inv (State.stageWrite s t lat w) := by
  unfold State.stageWrite
  try dsimp only
  repeat' (first | with_reducible assumption | with_reducible refine State.modTile_inv ?_)

theorem State.stageWrites_inv {s : State} {t : Nat} {lat : Nat} {ws : List Write} (hs : Inv s) :
    Inv (State.stageWrites s t lat ws) := by
  unfold State.stageWrites
  try dsimp only
  repeat'
    first
      | with_reducible assumption | with_reducible refine State.stageWrite_inv ?_ | refine forEach_inv (fun _ _ _ => ?_) ?_

theorem State.numLog_inv {s : State} {t : Nat} {kind : Nat} {pc : Nat} {sub : Nat} {c : Counts} {value : Nat} {sidx : Nat}
    {flags : Nat} (hs : Inv s) :
    Inv (State.numLog s t kind pc sub c value sidx flags) := by
  unfold State.numLog
  try dsimp only
  repeat'
    first
      | with_reducible assumption | with_reducible refine State.setTile_inv ?_ | with_reducible refine State.incSat_inv ?_
      | with_reducible refine State.put_inv ?_ | with_reducible refine State.mmuFault_inv ?_
      | with_reducible refine State.setFld_inv ?_ | with_reducible refine State.setReg_inv ?_
      | with_reducible refine inv_snd (by assumption) ?_ | split

theorem State.tileFault_inv {s : State} {t : Nat} {code : Nat} {slot : Nat} {extra : List (Nat × Nat)} (hs : Inv s) :
    Inv (State.tileFault s t code slot extra) := by
  unfold State.tileFault
  try dsimp only
  repeat'
    first
      | with_reducible assumption | with_reducible refine State.drainTile_inv ?_ | with_reducible refine State.setReg_inv ?_
      | with_reducible refine State.stopTile_inv ?_ | with_reducible refine State.jobEvent_inv ?_
      | with_reducible refine State.failTask_inv ?_ | with_reducible refine inv_ite ?_ ?_ | split

theorem State.streamFault_inv {s : State} {t : Nat} {d : Nat} {blk : Nat} {code : Nat} (hs : Inv s) :
    Inv (State.streamFault s t d blk code) := by
  unfold State.streamFault
  try dsimp only
  repeat'
    first
      | with_reducible assumption | with_reducible refine State.setReg_inv ?_ | with_reducible refine State.tileFault_inv ?_
      | with_reducible refine State.stopTile_inv ?_ | with_reducible refine State.failTask_inv ?_
      | with_reducible refine inv_ite ?_ ?_ | split

theorem State.loadDone_inv {s : State} {t : Nat} {sub : Nat} (hs : Inv s) : Inv (State.loadDone s t sub) := by
  unfold State.loadDone
  try dsimp only
  repeat'
    first
      | with_reducible assumption | with_reducible refine State.draw_inv ?_ | with_reducible refine State.modTile_inv ?_
      | with_reducible refine State.put_inv ?_ | with_reducible refine inv_snd (by assumption) ?_
      | with_reducible refine inv_fst (by assumption) ?_ | with_reducible refine inv_ite ?_ ?_ | split

theorem State.endFill_inv {s : State} {t : Nat} {qs : Nat} (hs : Inv s) : Inv (State.endFill s t qs) := by
  unfold State.endFill
  try dsimp only
  repeat'
    first
      | with_reducible assumption | with_reducible refine State.draw_inv ?_ | with_reducible refine State.put_inv ?_
      | with_reducible refine State.setTile_inv ?_ | with_reducible refine State.incSat_inv ?_
      | with_reducible refine inv_snd (by assumption) ?_ | with_reducible refine inv_fst (by assumption) ?_
      | refine foldl_inv (fun _ _ _ => ?_) ?_ | refine foldl_inv_fst (fun _ _ _ => ?_) ?_
      | refine foldl_inv_snd (fun _ _ _ => ?_) ?_ | with_reducible refine inv_ite ?_ ?_

theorem State.matrixDispatch_inv {s : State} {t : Nat} (hs : Inv s) : Inv (State.matrixDispatch s t) := by
  unfold State.matrixDispatch
  try dsimp only
  repeat'
    first
      | with_reducible assumption | with_reducible refine State.endFill_inv ?_ | with_reducible refine State.modTile_inv ?_

theorem State.mulReplay_inv {s : State} {t : Nat} {sub : Nat} (hs : Inv s) : Inv (State.mulReplay s t sub) := by
  unfold State.mulReplay
  try dsimp only
  repeat'
    first
      | with_reducible assumption | with_reducible refine State.modTile_inv ?_ | with_reducible refine State.modJob_inv ?_
      | with_reducible refine State.jobFlag_inv ?_ | with_reducible refine inv_ite ?_ ?_ | split

theorem State.mulFailed_inv {s : State} {t : Nat} {m : MOp} (hs : Inv s) : Inv (State.mulFailed s t m) := by
  unfold State.mulFailed
  try dsimp only
  repeat'
    first
      | with_reducible assumption | with_reducible refine State.incSat_inv ?_ | with_reducible refine State.setTile_inv ?_
      | with_reducible refine State.retireTile_inv ?_

theorem State.mulCommit_inv {s : State} {t : Nat} {m : MOp} {o : MulOut} (hs : Inv s) : Inv (State.mulCommit s t m o) := by
  unfold State.mulCommit
  try dsimp only
  repeat'
    first
      | with_reducible assumption | with_reducible refine State.put_inv ?_ | with_reducible refine State.setTile_inv ?_
      | with_reducible refine State.incSat_inv ?_ | with_reducible refine State.tileTransient_inv ?_
      | with_reducible refine State.addCounts_inv ?_ | with_reducible refine State.numLog_inv ?_
      | with_reducible refine inv_snd (by assumption) ?_ | with_reducible refine inv_fst (by assumption) ?_
      | refine foldl_inv (fun _ _ _ => ?_) ?_ | refine foldl_inv_fst (fun _ _ _ => ?_) ?_
      | refine foldl_inv_snd (fun _ _ _ => ?_) ?_ | with_reducible refine inv_ite ?_ ?_

theorem State.mulDone_inv {s : State} {t : Nat} {sub : Nat} {bad : Bool} (hs : Inv s) : Inv (State.mulDone s t sub bad) := by
  unfold State.mulDone
  try dsimp only
  repeat'
    first
      | with_reducible assumption | with_reducible refine State.endFill_inv ?_ | with_reducible refine State.draw_inv ?_
      | with_reducible refine State.incSat_inv ?_ | with_reducible refine State.mulCommit_inv ?_
      | with_reducible refine State.mulFailed_inv ?_ | with_reducible refine State.mulReplay_inv ?_ | split

theorem State.setScale_inv {s : State} {t : Nat} {i : Nat} {e : ScaleEntry} (hs : Inv s) : Inv (State.setScale s t i e) := by
  unfold State.setScale
  try dsimp only
  repeat' (first | with_reducible assumption | with_reducible refine State.setReg_inv ?_)

theorem State.addFlags_inv {s : State} {t : Nat} {f : Nat} (hs : Inv s) : Inv (State.addFlags s t f) := by
  unfold State.addFlags
  try dsimp only
  repeat'
    first
      | with_reducible assumption | with_reducible refine State.setReg_inv ?_ | with_reducible refine inv_ite ?_ ?_

theorem State.feedPut_inv {s : State} {t : Nat} {fmt : Nat} {row : Nat} {lane : Nat} {e : Nat} {code : Nat} (hs : Inv s) :
    Inv (State.feedPut s t fmt row lane e code) := by
  unfold State.feedPut
  try dsimp only
  repeat'
    first
      | with_reducible assumption | with_reducible refine State.pokeTile_inv ?_ | with_reducible refine inv_ite ?_ ?_

theorem State.rowPut_inv {s : State} {t : Nat} {base : Nat} {b : Nat} {codes : List Nat} {held : Nat → Bool} (hs : Inv s) :
    Inv (State.rowPut s t base b codes held) := by
  unfold State.rowPut
  try dsimp only
  repeat'
    first
      | with_reducible assumption | with_reducible refine State.pokeTile_inv ?_ | refine forEach_inv (fun _ _ _ => ?_) ?_
      | with_reducible refine inv_ite ?_ ?_

theorem State.kernelOut_inv {s : State} {t : Nat} {set : Nat} {ks : List KOp} {d : KDesc} {u : Nat} {codes : List Nat}
    {scales : List Nat} (hs : Inv s) :
    Inv (State.kernelOut s t set ks d u codes scales) := by
  unfold State.kernelOut
  try dsimp only
  repeat'
    first
      | with_reducible assumption | with_reducible refine State.modTile_inv ?_ | with_reducible refine State.feedPut_inv ?_
      | with_reducible refine State.pokeTile_inv ?_ | with_reducible refine State.rowPut_inv ?_
      | refine forEach_inv (fun _ _ _ => ?_) ?_ | with_reducible refine inv_ite ?_ ?_

theorem State.kernelRow_inv {s : State} {t : Nat} {r : KRun} (hs : Inv s) : Inv (State.kernelRow s t r) := by
  unfold State.kernelRow
  try dsimp only
  repeat'
    first
      | with_reducible assumption | with_reducible refine State.setTile_inv ?_ | with_reducible refine State.kernelOut_inv ?_
      | refine foldl_inv (fun _ _ _ => ?_) ?_ | refine foldl_inv_fst (fun _ _ _ => ?_) ?_
      | refine foldl_inv_snd (fun _ _ _ => ?_) ?_ | with_reducible refine inv_ite ?_ ?_

theorem State.writeCalib_inv {s : State} {t : Nat} {r : KRun} {d : KDesc} (hs : Inv s) : Inv (State.writeCalib s t r d) := by
  unfold State.writeCalib
  try dsimp only
  repeat'
    first
      | with_reducible assumption | with_reducible refine State.setScale_inv ?_ | refine forEach_inv (fun _ _ _ => ?_) ?_

theorem State.writeRescale_inv {s : State} {t : Nat} {r : KRun} {d : KDesc} (hs : Inv s) :
    Inv (State.writeRescale s t r d) := by
  unfold State.writeRescale
  try dsimp only
  repeat'
    first
      | with_reducible assumption | with_reducible refine State.setScale_inv ?_ | with_reducible refine State.numLog_inv ?_
      | refine forEach_inv (fun _ _ _ => ?_) ?_

theorem State.nextPass_inv {s : State} {t : Nat} {r : KRun} (hs : Inv s) : InvSome (State.nextPass s t r) := by
  unfold State.nextPass
  try dsimp only
  repeat'
    first
      | with_reducible assumption | with_reducible refine State.writeCalib_inv ?_
      | with_reducible refine State.writeRescale_inv ?_ | with_reducible refine State.modTile_inv ?_ | exact invSome_none
      | with_reducible refine invSome_some ?_ | with_reducible refine inv_ite ?_ ?_ | split

theorem State.kernelEnd_inv {s : State} {t : Nat} {r : KRun} (hs : Inv s) : Inv (State.kernelEnd s t r) := by
  unfold State.kernelEnd
  try dsimp only
  repeat'
    first
      | with_reducible assumption | with_reducible refine State.modTile_inv ?_ | with_reducible refine State.addCounts_inv ?_
      | with_reducible refine State.addFlags_inv ?_ | with_reducible refine State.incSat_inv ?_
      | with_reducible refine State.jobFlag_inv ?_ | with_reducible refine State.numLog_inv ?_
      | with_reducible refine inv_ite ?_ ?_ | split

theorem State.startKernel_inv {s : State} {t : Nat} {e : ESlot} (hs : Inv s) : InvSome (State.startKernel s t e) := by
  unfold State.startKernel
  try dsimp only
  repeat'
    first
      | with_reducible assumption | with_reducible refine State.setTile_inv ?_ | exact invSome_none
      | with_reducible refine invSome_some ?_ | with_reducible refine inv_ite ?_ ?_ | split

theorem State.startInst_inv {s : State} {t : Nat} {d : Nat} {r : List Byte} (hs : Inv s) :
    Inv (State.startInst s t d r) := by
  unfold State.startInst
  try dsimp only
  repeat'
    first
      | with_reducible assumption | with_reducible refine State.setTile_inv ?_ | with_reducible refine State.put_inv ?_
      | with_reducible refine State.incSat_inv ?_ | with_reducible refine inv_snd (by assumption) ?_
      | with_reducible refine inv_fst (by assumption) ?_ | with_reducible refine inv_ite ?_ ?_ | split

theorem State.loadImage_inv {s : State} {t : Nat} {p : Nat} {j : Nat} {h : Nat} {fb : Bool} {e : List Byte} (hs : Inv s) :
    InvBoth (State.loadImage s t p j h fb e) := by
  unfold State.loadImage
  try dsimp only
  repeat'
    first
      | with_reducible assumption | with_reducible refine State.vRead_inv ?_ | with_reducible refine State.modTile_inv ?_
      | with_reducible refine State.poke_inv ?_ | with_reducible refine State.mmuFault_inv ?_
      | with_reducible refine State.failTask_inv ?_ | with_reducible refine inv_snd (by assumption) ?_
      | with_reducible refine inv_fst (by assumption) ?_ | with_reducible refine inv_both_ite ?_ ?_
      | with_reducible refine inv_both_some ?_ ?_ | with_reducible refine inv_both_none ?_ | with_reducible refine inv_ite ?_ ?_
      | split

theorem State.clearTaskRegs_inv {s : State} {t : Nat} (hs : Inv s) : Inv (State.clearTaskRegs s t) := by
  unfold State.clearTaskRegs
  try dsimp only
  repeat'
    first
      | with_reducible assumption | with_reducible refine State.setReg_inv ?_ | refine forEach_inv (fun _ _ _ => ?_) ?_

theorem State.notePlace_inv {s : State} {j : Nat} {t : Nat} (hs : Inv s) : Inv (State.notePlace s j t) := by
  unfold State.notePlace
  try dsimp only
  repeat' (first | with_reducible assumption | with_reducible refine State.modJob_inv ?_)

theorem State.crcPerform_inv {s : State} {t : Nat} {a : Nat} {v : Nat} (hs : Inv s) : Inv (State.crcPerform s t a v) := by
  unfold State.crcPerform
  try dsimp only
  repeat'
    first
      | with_reducible assumption | with_reducible refine State.setRegAt_inv ?_ | split

theorem State.startTask_inv {s : State} {t : Nat} {k : Task} {rest : List QEntry} (hs : Inv s) :
    Inv (State.startTask s t k rest) := by
  unfold State.startTask
  try dsimp only
  repeat'
    first
      | with_reducible assumption | with_reducible refine State.crcPerform_inv ?_ | with_reducible refine State.endFill_inv ?_
      | with_reducible refine State.modTile_inv ?_ | with_reducible refine State.pokeTile_inv ?_
      | with_reducible refine State.clearTaskRegs_inv ?_ | with_reducible refine State.notePlace_inv ?_
      | with_reducible refine State.startInst_inv ?_ | with_reducible refine XspCmd.program_inv ?_ ?_
      | with_reducible refine State.loadImage_inv ?_ | refine forEach_inv (fun _ _ _ => ?_) ?_
      | with_reducible refine inv_both_fst (by assumption) ?_ | with_reducible refine inv_both_snd (by assumption) ?_
      | with_reducible refine inv_both_fst (by assumption) ?_ | with_reducible refine inv_both_snd (by assumption) ?_
      | with_reducible refine inv_ite ?_ ?_ | split

theorem State.startHead_inv {s : State} {t : Nat} (hs : Inv s) : Inv (State.startHead s t) := by
  unfold State.startHead
  try dsimp only
  repeat'
    first
      | with_reducible assumption | with_reducible refine State.startTask_inv ?_ | with_reducible refine inv_ite ?_ ?_ | split

theorem State.retireFences_inv {s : State} {fs : List Fence} (hs : Inv s) : Inv (State.retireFences s fs) := by
  unfold State.retireFences
  try dsimp only
  repeat'
    first
      | with_reducible assumption | with_reducible refine State.signal_inv ?_ | refine forEach_inv (fun _ _ _ => ?_) ?_
      | with_reducible refine inv_ite ?_ ?_ | split

theorem State.taskTotals_inv {s : State} {t : Nat} {k : Task} {stopped : Bool} (hs : Inv s) :
    Inv (State.taskTotals s t k stopped) := by
  unfold State.taskTotals
  try dsimp only
  repeat'
    first
      | with_reducible assumption | with_reducible refine State.numLog_inv ?_ | with_reducible refine State.addTotals_inv ?_
      | with_reducible refine State.jobFlag_inv ?_ | with_reducible refine State.failTask_inv ?_
      | with_reducible refine inv_ite ?_ ?_

theorem State.endTask_inv {s : State} {t : Nat} (hs : Inv s) : Inv (State.endTask s t) := by
  unfold State.endTask
  try dsimp only
  repeat'
    first
      | with_reducible assumption | with_reducible refine State.drainTile_inv ?_ | with_reducible refine State.retireFences_inv ?_
      | with_reducible refine State.taskTotals_inv ?_ | with_reducible refine State.modTile_inv ?_
      | with_reducible refine MsiResult.done_inv ?_ | with_reducible refine State.taskDone_inv ?_
      | with_reducible refine inv_ite ?_ ?_ | split

theorem State.enterInterrupt_inv {s : State} {t : Nat} (hs : Inv s) : Inv (State.enterInterrupt s t) := by
  unfold State.enterInterrupt
  try dsimp only
  repeat'
    first
      | with_reducible assumption | with_reducible refine State.drainTile_inv ?_ | with_reducible refine State.modTile_inv ?_
      | with_reducible refine inv_ite ?_ ?_ | split

theorem State.dropLink_inv {s : State} {k : Nat} (hs : Inv s) : Inv (State.dropLink s k) := by
  unfold State.dropLink
  try dsimp only
  repeat'
    first
      | with_reducible assumption | with_reducible refine State.setLink_inv ?_ | (simp only [inv_mk]; refine inv_parts ?_)

theorem State.setLinkState_inv {s : State} {k : Nat} {st : Nat} (hs : Inv s) : Inv (State.setLinkState s k st) := by
  unfold State.setLinkState
  try dsimp only
  repeat'
    first
      | with_reducible assumption | with_reducible refine State.setFld_inv ?_ | with_reducible refine State.incSat_inv ?_
      | with_reducible refine State.setLink_inv ?_ | with_reducible refine State.dropLink_inv ?_
      | with_reducible refine State.devEvent_inv ?_ | with_reducible refine inv_ite ?_ ?_
      | (simp only [inv_mk]; refine inv_parts ?_)

theorem State.holdUnbegun_inv {s : State} (hs : Inv s) : Inv (State.holdUnbegun s) := by
  unfold State.holdUnbegun
  try dsimp only
  repeat'
    first
      | with_reducible assumption | with_reducible refine State.setLink_inv ?_ | refine forEach_inv (fun _ _ _ => ?_) ?_

theorem State.releaseStopped_inv {s : State} (hs : Inv s) : Inv (State.releaseStopped s) := by
  unfold State.releaseStopped
  try dsimp only
  repeat'
    first
      | with_reducible assumption | with_reducible refine State.queuePacket_inv ?_ | with_reducible refine State.setLink_inv ?_
      | refine forEach_inv (fun _ _ _ => ?_) ?_ | with_reducible refine inv_ite ?_ ?_

theorem State.putDgt_inv {s : State} {j : Nat} {d : DgtJob} (hs : Inv s) : Inv (State.putDgt s j d) := by
  unfold State.putDgt
  try dsimp only
  repeat'
    first
      | with_reducible assumption | with_reducible refine State.put_inv ?_ | with_reducible refine inv_snd (by assumption) ?_
      | with_reducible refine inv_fst (by assumption) ?_ | with_reducible refine inv_ite ?_ ?_
      | (simp only [inv_mk]; refine inv_parts ?_)

theorem State.addLeaf_inv {s : State} {j : Nat} {list : Nat} {entry : Nat} {leaf : List Byte} (hs : Inv s) :
    Inv (State.addLeaf s j list entry leaf) := by
  unfold State.addLeaf
  try dsimp only
  repeat'
    first
      | with_reducible assumption | with_reducible refine State.putDgt_inv ?_ | with_reducible refine State.put_inv ?_
      | with_reducible refine inv_snd (by assumption) ?_ | with_reducible refine inv_fst (by assumption) ?_
      | with_reducible refine inv_ite ?_ ?_ | split

theorem State.sendDigest_inv {s : State} {p : Nat} {data : List Byte} (hs : Inv s) : Inv (State.sendDigest s p data) := by
  unfold State.sendDigest
  try dsimp only
  repeat'
    first
      | with_reducible assumption | with_reducible refine State.originate_inv ?_
      | with_reducible refine inv_of_ok (by assumption) ?_ | with_reducible refine inv_ite ?_ ?_ | split

theorem State.addChunks_inv {s : State} {j : Nat} {entry : Nat} {bytes : List Byte} (hs : Inv s) :
    Inv (State.addChunks s j entry bytes) := by
  unfold State.addChunks
  try dsimp only
  repeat'
    first
      | with_reducible assumption | with_reducible refine State.put_inv ?_ | with_reducible refine State.putDgt_inv ?_
      | with_reducible refine State.sendDigest_inv ?_ | refine forEach_inv (fun _ _ _ => ?_) ?_
      | with_reducible refine inv_snd (by assumption) ?_ | with_reducible refine inv_fst (by assumption) ?_
      | refine foldl_inv (fun _ _ _ => ?_) ?_ | refine foldl_inv_fst (fun _ _ _ => ?_) ?_
      | refine foldl_inv_snd (fun _ _ _ => ?_) ?_ | with_reducible refine inv_ite ?_ ?_ | split

theorem State.delivered_inv {s : State} {j : Nat} {list : Nat} {entry : Nat} {leaf : Bool} {bytes : List Byte} (hs : Inv s) :
    Inv (State.delivered s j list entry leaf bytes) := by
  unfold State.delivered
  try dsimp only
  repeat'
    first
      | with_reducible assumption | with_reducible refine State.addLeaf_inv ?_ | with_reducible refine State.addChunks_inv ?_
      | with_reducible refine inv_ite ?_ ?_

theorem State.allocate_inv {s : State} {j : Nat} {x : Job} {n : Nat} (hs : Inv s) : InvSome (State.allocate s j x n) := by
  unfold State.allocate
  try dsimp only
  repeat'
    first
      | with_reducible assumption | with_reducible refine State.putDgt_inv ?_ | with_reducible refine State.setReg_inv ?_
      | exact invSome_none | with_reducible refine invSome_some ?_ | with_reducible refine inv_ite ?_ ?_ | split

theorem State.freeArea_inv {s : State} {j : Nat} {p : Nat} (hs : Inv s) : Inv (State.freeArea s j p) := by
  unfold State.freeArea
  try dsimp only
  repeat'
    first
      | with_reducible assumption | with_reducible refine State.setReg_inv ?_ | with_reducible refine inv_ite ?_ ?_
      | (simp only [inv_mk]; refine inv_parts ?_) | split

theorem State.noteConflict_inv {s : State} {j : Nat} {x : Job} {list : Nat} {entry : Nat} (hs : Inv s) :
    Inv (State.noteConflict s j x list entry) := by
  unfold State.noteConflict
  try dsimp only
  repeat'
    first
      | with_reducible assumption | with_reducible refine State.incSat_inv ?_ | with_reducible refine State.jobEvent_inv ?_

theorem State.modInst_inv {s : State} {t : Nat} {d : Nat} {f : Inst → Inst} (hs : Inv s) : Inv (State.modInst s t d f) := by
  unfold State.modInst
  try dsimp only
  repeat'
    first
      | with_reducible assumption | with_reducible refine State.modTile_inv ?_ | with_reducible refine State.put_inv ?_
      | with_reducible refine inv_snd (by assumption) ?_ | with_reducible refine inv_fst (by assumption) ?_
      | with_reducible refine inv_ite ?_ ?_ | split

theorem State.faultWait_inv {s : State} {t : Nat} {d : Nat} {va : Nat} {write : Bool} {blk : Nat} {elt : Nat} {f : MFault}
    (hs : Inv s) :
    Inv (State.faultWait s t d va write blk elt f) := by
  unfold State.faultWait
  try dsimp only
  repeat'
    first
      | with_reducible assumption | with_reducible refine State.mmuFault_inv ?_ | with_reducible refine State.incSat_inv ?_
      | with_reducible refine State.modInst_inv ?_

theorem State.keepEntry_inv {s : State} {t : Nat} {d : Nat} {k : Nat} {out : Bool} {i : Inst} {b : Option Block} (hs : Inv s) :
    Inv (State.keepEntry s t d k out i b) := by
  unfold State.keepEntry
  try dsimp only
  repeat'
    first
      | with_reducible assumption | with_reducible refine State.streamFault_inv ?_ | with_reducible refine State.modInst_inv ?_
      | with_reducible refine State.put_inv ?_ | with_reducible refine inv_snd (by assumption) ?_
      | with_reducible refine inv_fst (by assumption) ?_ | with_reducible refine inv_ite ?_ ?_ | split

theorem State.listFetch_inv {s : State} {t : Nat} {d : Nat} {out : Bool} (hs : Inv s) : Inv (State.listFetch s t d out) := by
  unfold State.listFetch
  try dsimp only
  repeat'
    first
      | with_reducible assumption | with_reducible refine State.vRead_inv ?_ | with_reducible refine State.streamFault_inv ?_
      | with_reducible refine State.faultWait_inv ?_ | with_reducible refine State.keepEntry_inv ?_
      | with_reducible refine inv_snd (by assumption) ?_ | split

theorem State.nearWrite_inv {s : State} {t : Nat} {d : Nat} {blk : Nat} {z0 : Nat} {z1 : List Byte} (hs : Inv s) :
    Inv (State.nearWrite s t d blk z0 z1) := by
  induction z1 generalizing s z0 with
  | nil => unfold State.nearWrite; exact hs
  | cons b bs ih =>
    unfold State.nearWrite
    repeat'
      first
        | with_reducible assumption | with_reducible refine ih ?_ | with_reducible refine State.pokeTile_inv ?_
        | with_reducible refine State.modInst_inv ?_ | split | dsimp only

theorem State.dataArrives_inv {s : State} {t : Nat} {r : SReq} {bs : List Byte} (hs : Inv s) :
    Inv (State.dataArrives s t r bs) := by
  unfold State.dataArrives
  try dsimp only
  repeat'
    first
      | with_reducible assumption | with_reducible refine State.modInst_inv ?_ | with_reducible refine State.nearWrite_inv ?_
      | with_reducible refine State.put_inv ?_ | with_reducible refine inv_snd (by assumption) ?_
      | with_reducible refine inv_fst (by assumption) ?_ | with_reducible refine inv_ite ?_ ?_ | split

theorem State.writeDone_inv {s : State} {t : Nat} {r : SReq} (hs : Inv s) : Inv (State.writeDone s t r) := by
  unfold State.writeDone
  try dsimp only
  repeat'
    first
      | with_reducible assumption | with_reducible refine State.modInst_inv ?_ | with_reducible refine State.put_inv ?_
      | with_reducible refine inv_snd (by assumption) ?_ | with_reducible refine inv_fst (by assumption) ?_
      | with_reducible refine inv_ite ?_ ?_ | split

theorem State.reportUnit_inv {s : State} {t : Nat} {i : Inst} {k : Nat} (hs : Inv s) : Inv (State.reportUnit s t i k) := by
  unfold State.reportUnit
  try dsimp only
  repeat'
    first
      | with_reducible assumption | with_reducible refine State.unitDelivered_inv ?_ | with_reducible refine inv_ite ?_ ?_ | split

theorem State.reportBlock_inv {s : State} {t : Nat} {i : Inst} {k : Nat} {b : Block} (hs : Inv s) :
    Inv (State.reportBlock s t i k b) := by
  unfold State.reportBlock
  try dsimp only
  repeat'
    first
      | with_reducible assumption | with_reducible refine State.delivered_inv ?_ | with_reducible refine State.addLeaf_inv ?_
      | with_reducible refine inv_ite ?_ ?_ | split

theorem State.crcTake_inv {s : State} {t : Nat} {d : Nat} {i : Inst} {k : Nat} {b : Block} (hs : Inv s) :
    Inv (State.crcTake s t d i k b) := by
  unfold State.crcTake
  try dsimp only
  repeat'
    first
      | with_reducible assumption | with_reducible refine State.incSat_inv ?_ | with_reducible refine State.modTile_inv ?_
      | with_reducible refine inv_ite ?_ ?_

theorem State.instDone_inv {s : State} {t : Nat} {d : Nat} {i : Inst} (hs : Inv s) : Inv (State.instDone s t d i) := by
  unfold State.instDone
  try dsimp only
  repeat'
    first
      | with_reducible assumption | with_reducible refine State.signalEntry_inv ?_ | with_reducible refine State.modTile_inv ?_

theorem State.deliver_inv {s : State} {t : Nat} {d : Nat} {z0 : Nat} (hs : Inv s) : Inv (State.deliver s t d z0) := by
  induction z0 generalizing s with
  | zero => exact hs
  | succ k ih =>
    unfold State.deliver
    try dsimp only
    repeat'
      first
        | with_reducible refine ih ?_ | with_reducible assumption | with_reducible refine State.delivered_inv ?_
        | with_reducible refine State.complete_inv ?_ | with_reducible refine State.reportBlock_inv ?_
        | with_reducible refine State.reportUnit_inv ?_ | with_reducible refine State.modInst_inv ?_
        | with_reducible refine MsiResult.done_inv ?_ | with_reducible refine State.signalEntry_inv ?_
        | with_reducible refine State.tileIrq_inv ?_ | with_reducible refine State.crcTake_inv ?_
        | with_reducible refine State.instDone_inv ?_ | with_reducible refine inv_ite ?_ ?_ | split

theorem State.dropReq_inv {s : State} {t : Nat} {id : Nat} (hs : Inv s) : Inv (State.dropReq s t id) := by
  unfold State.dropReq
  try dsimp only
  repeat' (first | with_reducible assumption | with_reducible refine State.modTile_inv ?_)

theorem State.reqDone_inv {s : State} {t : Nat} {r : SReq} {bs : List Byte} (hs : Inv s) : Inv (State.reqDone s t r bs) := by
  unfold State.reqDone
  try dsimp only
  repeat'
    first
      | with_reducible assumption | with_reducible refine State.dropReq_inv ?_ | with_reducible refine State.writeDone_inv ?_
      | with_reducible refine State.dataArrives_inv ?_ | with_reducible refine State.deliver_inv ?_
      | with_reducible refine inv_ite ?_ ?_

theorem State.reqFailed_inv {s : State} {t : Nat} {r : SReq} {code : Nat} (hs : Inv s) :
    Inv (State.reqFailed s t r code) := by
  unfold State.reqFailed
  try dsimp only
  repeat'
    first
      | with_reducible assumption | with_reducible refine State.dropReq_inv ?_ | with_reducible refine State.streamFault_inv ?_

theorem State.fenceRetire_inv {s : State} {t : Nat} (hs : Inv s) : Inv (State.fenceRetire s t) := by
  unfold State.fenceRetire
  try dsimp only
  repeat'
    first
      | with_reducible assumption | with_reducible refine State.modTile_inv ?_ | with_reducible refine State.retireFences_inv ?_
      | with_reducible refine inv_ite ?_ ?_ | split

theorem State.crcWrite_inv {s : State} {t : Nat} {a : Nat} {v : Nat} (hs : Inv s) : Inv (State.crcWrite s t a v) := by
  unfold State.crcWrite
  try dsimp only
  repeat'
    first
      | with_reducible assumption | with_reducible refine State.setTile_inv ?_ | with_reducible refine State.crcPerform_inv ?_
      | with_reducible refine inv_ite ?_ ?_

theorem State.crcStart_inv {s : State} {t : Nat} (hs : Inv s) : Inv (State.crcStart s t) := by
  unfold State.crcStart
  try dsimp only
  repeat'
    first
      | with_reducible assumption | with_reducible refine State.setTile_inv ?_ | with_reducible refine State.setFld_inv ?_
      | with_reducible refine State.setReg_inv ?_ | with_reducible refine inv_ite ?_ ?_ | split

theorem State.crcEnd_inv {s : State} {t : Nat} (hs : Inv s) : Inv (State.crcEnd s t) := by
  unfold State.crcEnd
  try dsimp only
  repeat'
    first
      | with_reducible assumption | with_reducible refine State.setReg_inv ?_ | with_reducible refine State.setFld_inv ?_
      | with_reducible refine State.incSat_inv ?_ | with_reducible refine State.tileIrq_inv ?_
      | with_reducible refine State.signal_inv ?_ | with_reducible refine State.modTile_inv ?_
      | with_reducible refine State.crcPerform_inv ?_ | refine forEach_inv (fun _ _ _ => ?_) ?_
      | with_reducible refine inv_ite ?_ ?_ | split

theorem State.sendStream_inv {s : State} {t : Nat} {r : SReq} (hs : Inv s) : InvOkS (State.sendStream s t r) := by
  unfold State.sendStream
  try dsimp only
  repeat'
    first
      | with_reducible assumption | with_reducible refine State.sendRequest_inv ?_ | with_reducible refine State.setFld_inv ?_
      | with_reducible refine inv_of_ok (by assumption) ?_ | exact invOkS_error | with_reducible refine invOkS_ok ?_
      | with_reducible refine inv_ite ?_ ?_ | split

theorem State.issueForm_inv {s : State} {t : Nat} {d : Nat} {i : Inst} {f : Form} {isOut : Bool} {b : Block} {ga : Nat} {cache : Nat} (hs : Inv s) :
    Inv (State.issueForm s t d i f isOut b ga cache) := by
  unfold State.issueForm
  try dsimp only
  repeat'
    first
      | with_reducible assumption | with_reducible refine State.incSat_inv ?_ | with_reducible refine State.modTile_inv ?_
      | with_reducible refine State.put_inv ?_ | with_reducible refine State.sendStream_inv ?_
      | with_reducible refine State.streamFault_inv ?_ | with_reducible refine inv_snd (by assumption) ?_
      | with_reducible refine inv_fst (by assumption) ?_ | with_reducible refine inv_of_okS (by assumption) ?_
      | with_reducible refine inv_ite ?_ ?_ | split

theorem State.answerReq_inv {s : State} {t : Nat} {r : SReq} {code : Nat} {bs : List Byte} (hs : Inv s) :
    Inv (State.answerReq s t r code bs) := by
  unfold State.answerReq
  try dsimp only
  repeat'
    first
      | with_reducible assumption | with_reducible refine State.reqDone_inv ?_ | with_reducible refine State.reqFailed_inv ?_
      | with_reducible refine inv_ite ?_ ?_

theorem State.unreserve_inv {s : State} {c : Nat} (hs : Inv s) : Inv (State.unreserve s c) := by
  unfold State.unreserve
  try dsimp only
  repeat' (first | with_reducible assumption | with_reducible refine State.setFld_inv ?_)

theorem State.park_inv {s : State} {c : Nat} {x : Tile} {r : SReq} {code : Nat} {bs : List Byte} (hs : Inv s) :
    Inv (State.park s c x r code bs).2 := by
  unfold State.park
  try dsimp only
  repeat'
    first
      | with_reducible assumption | with_reducible refine State.setFld_inv ?_ | with_reducible refine State.incSat_inv ?_
      | with_reducible refine inv_ite ?_ ?_ | with_reducible refine inv_ite_snd ?_ ?_

theorem State.streamAnswer_inv {s : State} {t : Nat} {id : Nat} {reserved : Bool} {code : Nat} {bs : List Byte} (hs : Inv s) :
    Inv (State.streamAnswer s t id reserved code bs) := by
  unfold State.streamAnswer
  try dsimp only
  repeat'
    first
      | with_reducible assumption | with_reducible refine State.park_inv ?_ | with_reducible refine State.setTile_inv ?_
      | with_reducible refine State.unreserve_inv ?_ | with_reducible refine State.answerReq_inv ?_
      | with_reducible refine State.put_inv ?_ | with_reducible refine inv_snd (by assumption) ?_
      | with_reducible refine inv_fst (by assumption) ?_ | with_reducible refine inv_ite ?_ ?_
      | (simp only [inv_mk]; refine inv_parts ?_) | split

theorem State.reissue_inv {s : State} {t : Nat} {r : SReq} (hs : Inv s) : Inv (State.reissue s t r) := by
  unfold State.reissue
  try dsimp only
  repeat'
    first
      | with_reducible assumption | with_reducible refine State.dropReq_inv ?_ | with_reducible refine State.incSat_inv ?_
      | with_reducible refine State.sendStream_inv ?_ | with_reducible refine State.modTile_inv ?_
      | with_reducible refine State.reqFailed_inv ?_ | with_reducible refine inv_of_okS (by assumption) ?_
      | with_reducible refine inv_ite ?_ ?_ | split

theorem State.unpark_inv {s : State} {t : Nat} (hs : Inv s) : Inv (State.unpark s t) := by
  unfold State.unpark
  try dsimp only
  repeat'
    first
      | with_reducible assumption | with_reducible refine State.releaseGranules_inv ?_
      | with_reducible refine State.setTile_inv ?_ | with_reducible refine State.answerReq_inv ?_
      | with_reducible refine State.reissue_inv ?_ | refine forEach_inv (fun _ _ _ => ?_) ?_ | with_reducible refine inv_ite ?_ ?_
      | split

theorem State.issueNew_inv {s : State} {t : Nat} {out : Bool} (hs : Inv s) : Inv (State.issueNew s t out) := by
  unfold State.issueNew
  try dsimp only
  repeat'
    first
      | with_reducible assumption | with_reducible refine State.streamFault_inv ?_ | with_reducible refine State.translate_inv ?_
      | with_reducible refine State.faultWait_inv ?_ | with_reducible refine State.issueForm_inv ?_
      | with_reducible refine inv_snd (by assumption) ?_ | split

theorem State.issueRequest_inv {s : State} {t : Nat} {out : Bool} (hs : Inv s) : Inv (State.issueRequest s t out) := by
  unfold State.issueRequest
  try dsimp only
  repeat'
    first
      | with_reducible assumption | with_reducible refine State.reissue_inv ?_ | with_reducible refine State.issueNew_inv ?_
      | split

end Sys2Proof.Machine
end

