-- ==== Sys2Proof/Laws/InvEngines.lean ====
section
/-! SUPPORT. Every definition of the fronthaul, PRACH, coding and gather engines that answers a state keeps the invariant
`Inv` of Safety.lean: one lemma per definition, named after it with the ending _inv. -/
namespace Sys2Proof.Machine

theorem State.zeroSem_inv {s : State} {c : Nat} {i : Nat} (hs : Inv s) : Inv (State.zeroSem s c i) := by
  unfold State.zeroSem
  try dsimp only
  repeat'
    first
      | with_reducible assumption | with_reducible refine State.setFld_inv ?_ | with_reducible refine State.refresh_inv ?_
      | with_reducible refine inv_ite ?_ ?_

theorem State.putRxCell_inv {s : State} {c : Nat} {x : RxCell} (hs : Inv s) : Inv (State.putRxCell s c x) := by
  unfold State.putRxCell
  try dsimp only
  repeat'
    first
      | with_reducible assumption | with_reducible refine State.put_inv ?_ | with_reducible refine inv_snd (by assumption) ?_
      | with_reducible refine inv_fst (by assumption) ?_ | with_reducible refine inv_ite ?_ ?_
      | (simp only [inv_mk]; refine inv_parts ?_)

theorem State.modRxSlot_inv {s : State} {c : Nat} {slot : Int} {f : RxSlot → RxSlot} (hs : Inv s) :
    Inv (State.modRxSlot s c slot f) := by
  unfold State.modRxSlot
  try dsimp only
  repeat'
    first
      | with_reducible assumption | with_reducible refine State.putRxCell_inv ?_ | with_reducible refine inv_ite ?_ ?_ | split

theorem State.putRxSum_inv {s : State} {c : Nat} {b : Nat} {x : RxSum} (hs : Inv s) : Inv (State.putRxSum s c b x) := by
  unfold State.putRxSum
  try dsimp only
  repeat'
    first
      | with_reducible assumption | (simp only [inv_mk]; refine inv_parts ?_)

theorem State.syncRx_inv {s : State} {c : Nat} (hs : Inv s) : Inv (State.syncRx s c) := by
  unfold State.syncRx
  try dsimp only
  repeat' (first | with_reducible assumption | with_reducible refine State.setFld_inv ?_)

theorem State.rxPut_inv {s : State} {c : Nat} {va : Nat} {bs : List Byte} (hs : Inv s) : Inv (State.rxPut s c va bs).2 := by
  unfold State.rxPut
  dsimp only
  split
  · exact inv_snd (by assumption) (State.put_inv hs)
  · have h := inv_snd (by assumption) (State.put_inv hs)
    exact State.setFld_inv (State.mmuFault_inv (inv_mk.2 ⟨(inv_parts hs).1, (inv_parts h).2⟩))
  · have h := inv_snd (by assumption) (State.put_inv hs)
    exact State.setFld_inv (inv_mk.2 ⟨(inv_parts hs).1, (inv_parts h).2⟩)

theorem State.rxOverrun_inv {s : State} {c : Nat} {b : Nat} {t : Int} (hs : Inv s) : Inv (State.rxOverrun s c b t) := by
  unfold State.rxOverrun
  try dsimp only
  repeat'
    first
      | with_reducible assumption | with_reducible refine State.failJob_inv ?_ | with_reducible refine State.setFld_inv ?_
      | with_reducible refine State.event_inv ?_ | refine forEach_inv (fun _ _ _ => ?_) ?_ | with_reducible refine inv_ite ?_ ?_

theorem State.rxAssign_inv {s : State} {c : Nat} {b : Nat} (hs : Inv s) : Inv (State.rxAssign s c b) := by
  unfold State.rxAssign
  try dsimp only
  repeat'
    first
      | with_reducible assumption | with_reducible refine State.putRxCell_inv ?_ | with_reducible refine State.rxOverrun_inv ?_
      | with_reducible refine State.zeroSem_inv ?_ | with_reducible refine State.rxPut_inv ?_
      | with_reducible refine State.putRxSum_inv ?_ | with_reducible refine State.refresh_inv ?_
      | with_reducible refine State.syncRx_inv ?_ | split

theorem State.rxCount_inv {s : State} {c : Nat} {slot : Int} {late : Nat} {early : Nat} {dup : Nat} {gap : Nat} (hs : Inv s) :
    Inv (State.rxCount s c slot late early dup gap) := by
  unfold State.rxCount
  try dsimp only
  repeat'
    first
      | with_reducible assumption | with_reducible refine State.modRxSlot_inv ?_ | with_reducible refine State.incSat_inv ?_

theorem State.trackSeq_inv {s : State} {pcid : Nat} {seq : Nat} (hs : Inv s) : Inv (State.trackSeq s pcid seq).2 := by
  unfold State.trackSeq
  try dsimp only
  repeat'
    first
      | with_reducible assumption | with_reducible refine State.put_inv ?_ | with_reducible refine inv_snd (by assumption) ?_
      | with_reducible refine inv_fst (by assumption) ?_ | with_reducible refine inv_ite ?_ ?_
      | with_reducible refine inv_ite_snd ?_ ?_ | dsimp only | (simp only [inv_mk]; refine inv_parts ?_)

theorem State.keepPrb_inv {s : State} {c : Nat} {slot : Int} {l : Nat} {a : Nat} {n : Nat} {bfp : Bool} {w : Nat} {bs : List Byte} (hs : Inv s) :
    Inv (State.keepPrb s c slot l a n bfp w bs) := by
  unfold State.keepPrb
  try dsimp only
  repeat'
    first
      | with_reducible assumption | with_reducible refine State.rxCount_inv ?_ | with_reducible refine State.modRxSlot_inv ?_
      | with_reducible refine State.put_inv ?_ | with_reducible refine State.incSat_inv ?_
      | with_reducible refine inv_snd (by assumption) ?_ | with_reducible refine inv_fst (by assumption) ?_
      | with_reducible refine inv_ite ?_ ?_ | split

theorem State.rxSections_inv {s : State} {c : Nat} {a : Nat} {slot : Int} {sym : Nat} {body : List Byte} (hs : Inv s) :
    Inv (State.rxSections s c a slot sym body) := by
  unfold State.rxSections
  try dsimp only
  repeat'
    first
      | with_reducible assumption | with_reducible refine State.incSat_inv ?_ | with_reducible refine State.keepPrb_inv ?_
      | refine forEach_inv (fun _ _ _ => ?_) ?_ | with_reducible refine inv_ite ?_ ?_

theorem State.rxMessage_inv {s : State} {c : Nat} {a : Nat} {ts : Int} {h : UHead} {m : EMsg} {size : Nat} (hs : Inv s) :
    Inv (State.rxMessage s c a ts h m size) := by
  unfold State.rxMessage
  try dsimp only
  repeat'
    first
      | with_reducible assumption | with_reducible refine State.rxCount_inv ?_ | with_reducible refine State.rxAssign_inv ?_
      | with_reducible refine State.trackSeq_inv ?_ | with_reducible refine State.modRxSlot_inv ?_
      | with_reducible refine State.rxSections_inv ?_ | with_reducible refine inv_snd (by assumption) ?_
      | with_reducible refine inv_fst (by assumption) ?_ | with_reducible refine inv_ite ?_ ?_ | split

theorem State.closeStream_inv {s : State} {c : Nat} {slot : Int} {l : Nat} {a : Nat} (hs : Inv s) :
    Inv (State.closeStream s c slot l a) := by
  unfold State.closeStream
  try dsimp only
  repeat'
    first
      | with_reducible assumption | with_reducible refine State.rxPut_inv ?_ | with_reducible refine State.modRxSlot_inv ?_
      | with_reducible refine State.incSat_inv ?_ | with_reducible refine State.event_inv ?_
      | with_reducible refine inv_snd (by assumption) ?_ | with_reducible refine inv_fst (by assumption) ?_
      | refine foldl_inv (fun _ _ _ => ?_) ?_ | refine foldl_inv_fst (fun _ _ _ => ?_) ?_
      | refine foldl_inv_snd (fun _ _ _ => ?_) ?_ | with_reducible refine inv_ite ?_ ?_ | split

theorem State.closeSlot_inv {s : State} {c : Nat} {x : RxSlot} (hs : Inv s) : Inv (State.closeSlot s c x) := by
  unfold State.closeSlot
  try dsimp only
  repeat'
    first
      | with_reducible assumption | with_reducible refine State.rxPut_inv ?_ | with_reducible refine State.putRxSum_inv ?_
      | with_reducible refine inv_snd (by assumption) ?_ | with_reducible refine inv_fst (by assumption) ?_
      | with_reducible refine inv_ite ?_ ?_

theorem State.symbolClose_inv {s : State} {c : Nat} (hs : Inv s) : Inv (State.symbolClose s c) := by
  unfold State.symbolClose
  try dsimp only
  repeat'
    first
      | with_reducible assumption | with_reducible refine State.closeStream_inv ?_ | with_reducible refine State.modRxSlot_inv ?_
      | with_reducible refine State.closeSlot_inv ?_ | with_reducible refine State.setFld_inv ?_
      | with_reducible refine State.putRxCell_inv ?_ | with_reducible refine State.syncRx_inv ?_
      | with_reducible refine State.signal_inv ?_ | refine forEach_inv (fun _ _ _ => ?_) ?_ | with_reducible refine inv_ite ?_ ?_
      | split

theorem State.rxCheck_inv {s : State} {x : Job} (hs : Inv s) : Inv (State.rxCheck s x).2 := by
  unfold State.rxCheck
  try dsimp only
  repeat'
    first
      | with_reducible assumption | with_reducible refine State.linearEntries_inv ?_
      | with_reducible refine inv_snd (by assumption) ?_ | with_reducible refine inv_fst (by assumption) ?_
      | with_reducible refine inv_ite ?_ ?_ | with_reducible refine inv_ite_snd ?_ ?_ | dsimp only | split

theorem State.judge_inv {s : State} {j : Nat} (hs : Inv s) : Inv (State.judge s j) := by
  unfold State.judge
  try dsimp only
  repeat'
    first
      | with_reducible assumption | with_reducible refine State.putJob_inv ?_ | with_reducible refine State.stopTasks_inv ?_
      | with_reducible refine inv_ite ?_ ?_ | split

theorem State.forgetUnits_inv {s : State} {j : Nat} {x : Job} (hs : Inv s) : Inv (State.forgetUnits s j x) := by
  unfold State.forgetUnits
  try dsimp only
  repeat'
    first
      | with_reducible assumption | with_reducible refine State.modJob_inv ?_ | with_reducible refine State.put_inv ?_
      | with_reducible refine inv_snd (by assumption) ?_ | with_reducible refine inv_fst (by assumption) ?_
      | with_reducible refine inv_ite ?_ ?_ | (simp only [inv_mk]; refine inv_parts ?_) | split

theorem State.fallbackStart_inv {s : State} {j : Nat} (hs : Inv s) : Inv (State.fallbackStart s j) := by
  unfold State.fallbackStart
  try dsimp only
  repeat'
    first
      | with_reducible assumption | with_reducible refine State.failJob_inv ?_ | with_reducible refine State.forgetUnits_inv ?_
      | with_reducible refine State.modJob_inv ?_ | with_reducible refine State.modTile_inv ?_
      | refine forEach_inv (fun _ _ _ => ?_) ?_ | with_reducible refine inv_ite ?_ ?_ | split

theorem State.rxBegin_inv {s : State} {n : Nat} (hs : Inv s) : Inv (State.rxBegin s n) := by
  unfold State.rxBegin
  try dsimp only
  repeat'
    first
      | with_reducible assumption | with_reducible refine State.putRxCell_inv ?_

theorem State.rxSwitched_inv {s : State} {n : Nat} {was : Bool} (hs : Inv s) : Inv (State.rxSwitched s n was) := by
  unfold State.rxSwitched
  try dsimp only
  repeat'
    first
      | with_reducible assumption | with_reducible refine State.syncRx_inv ?_ | with_reducible refine State.rxBegin_inv ?_
      | with_reducible refine inv_ite ?_ ?_ | (simp only [inv_mk]; refine inv_parts ?_)

theorem State.crxEnable_inv {s : State} {n : Nat} (hs : Inv s) : Inv (State.crxEnable s n) := by
  unfold State.crxEnable
  try dsimp only
  repeat'
    first
      | with_reducible assumption | with_reducible refine State.rxBegin_inv ?_ | with_reducible refine State.setFld_inv ?_
      | with_reducible refine inv_ite ?_ ?_

theorem State.syncPra_inv {s : State} {c : Nat} (hs : Inv s) : Inv (State.syncPra s c) := by
  unfold State.syncPra
  try dsimp only
  repeat'
    first
      | with_reducible assumption | with_reducible refine State.setFld_inv ?_ | refine forEach_inv (fun _ _ _ => ?_) ?_
      | with_reducible refine inv_ite ?_ ?_ | split

theorem State.praEnable_inv {s : State} {c : Nat} (hs : Inv s) : Inv (State.praEnable s c) := by
  unfold State.praEnable
  try dsimp only
  repeat'
    first
      | with_reducible assumption | with_reducible refine State.setFld_inv ?_ | with_reducible refine State.put_inv ?_
      | with_reducible refine State.syncPra_inv ?_ | with_reducible refine State.refresh_inv ?_
      | with_reducible refine inv_snd (by assumption) ?_ | with_reducible refine inv_fst (by assumption) ?_
      | with_reducible refine inv_ite ?_ ?_ | (simp only [inv_mk]; refine inv_parts ?_) | split

theorem State.praOff_inv {s : State} {f : Nat → Bool} (hs : Inv s) : Inv (State.praOff s f) := by
  unfold State.praOff
  try dsimp only
  repeat'
    first
      | with_reducible assumption | with_reducible refine State.failJob_inv ?_ | refine forEach_inv (fun _ _ _ => ?_) ?_

theorem State.praDispatch_inv {s : State} {j : Nat} (hs : Inv s) : Inv (State.praDispatch s j) := by
  unfold State.praDispatch
  try dsimp only
  repeat'
    first
      | with_reducible assumption | with_reducible refine State.putJob_inv ?_ | with_reducible refine inv_ite ?_ ?_ | split

theorem State.praSection_inv {s : State} {c : Nat} {o : Occasion} {rep : Nat} {a : Nat} {u : USec} (hs : Inv s) :
    Inv (State.praSection s c o rep a u) := by
  unfold State.praSection
  try dsimp only
  repeat'
    first
      | with_reducible assumption | with_reducible refine State.incSat_inv ?_ | with_reducible refine State.put_inv ?_
      | with_reducible refine inv_snd (by assumption) ?_ | with_reducible refine inv_fst (by assumption) ?_
      | refine foldl_inv (fun _ _ _ => ?_) ?_ | refine foldl_inv_fst (fun _ _ _ => ?_) ?_
      | refine foldl_inv_snd (fun _ _ _ => ?_) ?_ | with_reducible refine inv_ite ?_ ?_
      | (simp only [inv_mk]; refine inv_parts ?_) | split

theorem State.praTake_inv {s : State} {c : Nat} {a : Nat} {ts : Int} {h : UHead} {secs : List USec} (hs : Inv s) :
    Inv (State.praTake s c a ts h secs).2 := by
  unfold State.praTake
  try dsimp only
  repeat'
    first
      | with_reducible assumption | with_reducible refine State.incSat_inv ?_ | with_reducible refine State.praSection_inv ?_
      | refine forEach_inv (fun _ _ _ => ?_) ?_ | with_reducible refine inv_ite ?_ ?_ | with_reducible refine inv_ite_snd ?_ ?_
      | dsimp only | split

theorem State.praMessage_inv {s : State} {cell : Nat} {a : Nat} {ts : Int} {h : UHead} {m : EMsg} (hs : Inv s) :
    Inv (State.praMessage s cell a ts h m) := by
  unfold State.praMessage
  try dsimp only
  repeat'
    first
      | with_reducible assumption | with_reducible refine State.incSat_inv ?_ | with_reducible refine State.praTake_inv ?_
      | with_reducible refine State.trackSeq_inv ?_ | with_reducible refine inv_snd (by assumption) ?_
      | with_reducible refine inv_fst (by assumption) ?_ | refine foldl_inv (fun _ _ _ => ?_) ?_
      | refine foldl_inv_fst (fun _ _ _ => ?_) ?_ | refine foldl_inv_snd (fun _ _ _ => ?_) ?_
      | with_reducible refine inv_ite ?_ ?_

theorem State.praOverrun_inv {s : State} {c : Nat} {k : Nat} {x : PraCfg} (hs : Inv s) : Inv (State.praOverrun s c k x) := by
  unfold State.praOverrun
  try dsimp only
  repeat'
    first
      | with_reducible assumption | with_reducible refine State.failJob_inv ?_ | with_reducible refine State.setFld_inv ?_
      | with_reducible refine State.event_inv ?_ | refine forEach_inv (fun _ _ _ => ?_) ?_ | with_reducible refine inv_ite ?_ ?_

theorem State.putCandidates_inv {s : State} {c : Nat} {p : Nat} {va : Nat} {unit : Nat} {bs : List Byte} (hs : Inv s) :
    Inv (State.putCandidates s c p va unit bs).2 := by
  unfold State.putCandidates
  split
  · exact State.incSat_inv (inv_snd (by assumption) (State.put_inv hs))
  · have h := inv_snd (by assumption) (State.put_inv hs)
    exact State.mmuFault_inv (inv_mk.2 ⟨(inv_parts hs).1, (inv_parts h).2⟩)
  · have h := inv_snd (by assumption) (State.put_inv hs)
    exact inv_mk.2 ⟨(inv_parts hs).1, (inv_parts h).2⟩

theorem State.occasionClose_inv {s : State} {c : Nat} (hs : Inv s) : Inv (State.occasionClose s c) := by
  unfold State.occasionClose
  try dsimp only
  repeat'
    first
      | with_reducible assumption | with_reducible refine State.praOverrun_inv ?_
      | with_reducible refine State.putCandidates_inv ?_ | with_reducible refine State.put_inv ?_
      | with_reducible refine State.setFld_inv ?_ | with_reducible refine State.event_inv ?_
      | with_reducible refine State.failJob_inv ?_ | with_reducible refine State.modJob_inv ?_
      | with_reducible refine State.refresh_inv ?_ | with_reducible refine State.signal_inv ?_
      | refine forEach_inv (fun _ _ _ => ?_) ?_ | with_reducible refine inv_snd (by assumption) ?_
      | with_reducible refine inv_fst (by assumption) ?_ | with_reducible refine inv_ite ?_ ?_
      | (simp only [inv_mk]; refine inv_parts ?_) | split

theorem State.praMove_inv {s : State} {c : Nat} {x : PraCfg} {place : Option Nat} (hs : Inv s) :
    Inv (State.praMove s c x place) := by
  unfold State.praMove
  try dsimp only
  repeat'
    first
      | with_reducible assumption | with_reducible refine State.syncPra_inv ?_ | with_reducible refine State.event_inv ?_
      | (simp only [inv_mk]; refine inv_parts ?_)

theorem State.praRetry_inv {s : State} (hs : Inv s) : Inv (State.praRetry s) := by
  unfold State.praRetry
  try dsimp only
  repeat'
    first
      | with_reducible assumption | with_reducible refine State.praMove_inv ?_ | refine forEach_inv (fun _ _ _ => ?_) ?_
      | refine foldl_inv (fun _ _ _ => ?_) ?_ | refine foldl_inv_fst (fun _ _ _ => ?_) ?_
      | refine foldl_inv_snd (fun _ _ _ => ?_) ?_ | split

theorem State.retirePra_inv {s : State} {u : Nat} {cause : Nat} (hs : Inv s) : Inv (State.retirePra s u cause) := by
  unfold State.retirePra
  try dsimp only
  repeat'
    first
      | with_reducible assumption | with_reducible refine State.markRetired_inv ?_ | with_reducible refine State.devEvent_inv ?_
      | with_reducible refine State.setFld_inv ?_ | with_reducible refine State.praMove_inv ?_
      | refine forEach_inv (fun _ _ _ => ?_) ?_ | (simp only [inv_mk]; refine inv_parts ?_) | split

theorem State.praCfgWrite_inv {s : State} {src : Nat} {c : Nat} {v : Nat} (hs : Inv s) : Inv (State.praCfgWrite s src c v) := by
  unfold State.praCfgWrite
  try dsimp only
  repeat'
    first
      | with_reducible assumption | with_reducible refine State.writeReg_inv ?_ | with_reducible refine State.syncPra_inv ?_
      | with_reducible refine State.praOff_inv ?_ | with_reducible refine State.praRetry_inv ?_
      | with_reducible refine State.praEnable_inv ?_ | with_reducible refine inv_ite ?_ ?_
      | (simp only [inv_mk]; refine inv_parts ?_)

theorem State.crxCfgWrite_inv {s : State} {src : Nat} {n : Nat} {v : Nat} (hs : Inv s) :
    Inv (State.crxCfgWrite s src n v) := by
  unfold State.crxCfgWrite
  try dsimp only
  repeat'
    first
      | with_reducible assumption | with_reducible refine State.setFld_inv ?_ | with_reducible refine State.syncRx_inv ?_
      | with_reducible refine State.praOff_inv ?_ | with_reducible refine State.writeReg_inv ?_
      | with_reducible refine State.crxEnable_inv ?_ | with_reducible refine inv_ite ?_ ?_
      | (simp only [inv_mk]; refine inv_parts ?_)

theorem State.cellWrite_inv {s : State} {p : Nat} {n : Nat} {v : Nat} (hs : Inv s) : Inv (State.cellWrite s p n v) := by
  unfold State.cellWrite
  try dsimp only
  repeat'
    first
      | with_reducible assumption | with_reducible refine State.cellCfgWrite_inv ?_
      | with_reducible refine State.rxSwitched_inv ?_ | with_reducible refine State.praOff_inv ?_
      | with_reducible refine inv_ite ?_ ?_

theorem State.rxFrame_inv {s : State} {port : Nat} {bs : List Byte} (hs : Inv s) : Inv (State.rxFrame s port bs) := by
  unfold State.rxFrame
  try dsimp only
  repeat'
    first
      | with_reducible assumption | with_reducible refine State.incSat_inv ?_ | with_reducible refine State.rxMessage_inv ?_
      | with_reducible refine State.praMessage_inv ?_ | refine forEach_inv (fun _ _ _ => ?_) ?_
      | with_reducible refine inv_ite ?_ ?_ | split

theorem State.modTxBuf_inv {s : State} {n : Nat} {b : Nat} {f : TxBuf → TxBuf} (hs : Inv s) :
    Inv (State.modTxBuf s n b f) := by
  unfold State.modTxBuf
  try dsimp only
  repeat'
    first
      | with_reducible assumption | with_reducible refine State.put_inv ?_ | with_reducible refine inv_snd (by assumption) ?_
      | with_reducible refine inv_fst (by assumption) ?_ | with_reducible refine inv_ite ?_ ?_
      | (simp only [inv_mk]; refine inv_parts ?_) | split

theorem State.syncTx_inv {s : State} {n : Nat} (hs : Inv s) : Inv (State.syncTx s n) := by
  unfold State.syncTx
  try dsimp only
  repeat' (first | with_reducible assumption | with_reducible refine State.setFld_inv ?_)

theorem State.txCount_inv {s : State} {n : Nat} {b : Nat} {cp : Nat} {late : Nat} {flush : Nat} {miss : Nat} (hs : Inv s) :
    Inv (State.txCount s n b cp late flush miss) := by
  unfold State.txCount
  try dsimp only
  repeat'
    first
      | with_reducible assumption | with_reducible refine State.modTxBuf_inv ?_ | with_reducible refine State.incSat_inv ?_

theorem State.readTable_inv {s : State} {n : Nat} {b : Nat} {x : TxBuf} (hs : Inv s) : Inv (State.readTable s n b x) := by
  unfold State.readTable
  try dsimp only
  repeat'
    first
      | with_reducible assumption | with_reducible refine State.modTxBuf_inv ?_ | with_reducible refine State.event_inv ?_
      | with_reducible refine State.vRead_inv ?_ | with_reducible refine State.mmuFault_inv ?_
      | with_reducible refine State.txCount_inv ?_ | with_reducible refine inv_snd (by assumption) ?_
      | with_reducible refine inv_fst (by assumption) ?_ | with_reducible refine inv_ite ?_ ?_ | split

theorem State.takeSeq_inv {s : State} {plane : Nat} {pcid : Nat} (hs : Inv s) : Inv (State.takeSeq s plane pcid).2 := by
  unfold State.takeSeq
  try dsimp only
  repeat'
    first
      | with_reducible assumption | with_reducible refine inv_ite ?_ ?_ | with_reducible refine inv_ite_snd ?_ ?_ | dsimp only
      | (simp only [inv_mk]; refine inv_parts ?_)

theorem State.fheSend_inv {s : State} {n : Nat} {plane : Nat} {pcid : Nat} {body : List Byte} (hs : Inv s) :
    Inv (State.fheSend s n plane pcid body) := by
  unfold State.fheSend
  try dsimp only
  repeat'
    first
      | with_reducible assumption | with_reducible refine State.takeSeq_inv ?_ | with_reducible refine inv_snd (by assumption) ?_
      | with_reducible refine inv_fst (by assumption) ?_ | with_reducible refine inv_ite ?_ ?_
      | (simp only [inv_mk]; refine inv_parts ?_) | split

theorem State.noteCover_inv {s : State} {n : Nat} {slot : Int} {e : List Byte} {a : Nat} (hs : Inv s) :
    Inv (State.noteCover s n slot e a) := by
  unfold State.noteCover
  try dsimp only
  repeat'
    first
      | with_reducible assumption | with_reducible refine State.put_inv ?_ | with_reducible refine inv_snd (by assumption) ?_
      | with_reducible refine inv_fst (by assumption) ?_ | with_reducible refine inv_ite ?_ ?_
      | (simp only [inv_mk]; refine inv_parts ?_) | split

theorem State.sendC_inv {s : State} {n : Nat} {b : Nat} {x : TxBuf} {es : List (List Byte)} {late : Bool} (hs : Inv s) :
    Inv (State.sendC s n b x es late) := by
  unfold State.sendC
  try dsimp only
  repeat'
    first
      | with_reducible assumption | with_reducible refine State.txCount_inv ?_ | with_reducible refine State.fheSend_inv ?_
      | with_reducible refine State.noteCover_inv ?_ | with_reducible refine State.modTxBuf_inv ?_
      | refine forEach_inv (fun _ _ _ => ?_) ?_ | with_reducible refine inv_ite ?_ ?_ | split

theorem State.sendRun_inv {s : State} {n : Nat} {b : Nat} {x : TxBuf} {sym : Nat} {a : Nat} {e : List Byte} {late : Bool} {r : Nat × Nat} (hs : Inv s) :
    Inv (State.sendRun s n b x sym a e late r) := by
  unfold State.sendRun
  try dsimp only
  repeat'
    first
      | with_reducible assumption | with_reducible refine State.modTxBuf_inv ?_ | with_reducible refine State.vRead_inv ?_
      | with_reducible refine State.mmuFault_inv ?_ | with_reducible refine State.fheSend_inv ?_
      | with_reducible refine State.txCount_inv ?_ | with_reducible refine inv_snd (by assumption) ?_
      | with_reducible refine inv_fst (by assumption) ?_ | refine foldl_inv (fun _ _ _ => ?_) ?_
      | refine foldl_inv_fst (fun _ _ _ => ?_) ?_ | refine foldl_inv_snd (fun _ _ _ => ?_) ?_
      | with_reducible refine inv_ite ?_ ?_ | split

theorem State.sendU_inv {s : State} {n : Nat} {b : Nat} {x : TxBuf} {es : List (List Byte)} {sym : Nat} {late : Bool} (hs : Inv s) :
    Inv (State.sendU s n b x es sym late) := by
  unfold State.sendU
  try dsimp only
  repeat'
    first
      | with_reducible assumption | with_reducible refine State.sendRun_inv ?_ | with_reducible refine State.modTxBuf_inv ?_
      | refine forEach_inv (fun _ _ _ => ?_) ?_

theorem State.seeTable_inv {s : State} {n : Nat} {b : Nat} (hs : Inv s) : Inv (State.seeTable s n b) := by
  unfold State.seeTable
  try dsimp only
  repeat'
    first
      | with_reducible assumption | with_reducible refine State.readTable_inv ?_ | split

theorem State.sendPart_inv {s : State} {late : Bool} {p : TxPart} (hs : Inv s) : Inv (State.sendPart s late p) := by
  unfold State.sendPart
  try dsimp only
  repeat'
    first
      | with_reducible assumption | with_reducible refine State.sendC_inv ?_ | with_reducible refine State.sendU_inv ?_ | split

theorem State.txServe_inv {s : State} {n : Nat} {fresh : Option (Nat × Option Nat)} (hs : Inv s) :
    Inv (State.txServe s n fresh) := by
  unfold State.txServe
  try dsimp only
  repeat'
    first
      | with_reducible assumption | with_reducible refine State.seeTable_inv ?_ | with_reducible refine State.sendPart_inv ?_
      | refine forEach_inv (fun _ _ _ => ?_) ?_

theorem State.cplaneOpen_inv {s : State} {n : Nat} {b : Nat} (hs : Inv s) : Inv (State.cplaneOpen s n b) := by
  unfold State.cplaneOpen
  try dsimp only
  repeat'
    first
      | with_reducible assumption | with_reducible refine State.modTxBuf_inv ?_ | with_reducible refine State.txServe_inv ?_
      | with_reducible refine State.syncTx_inv ?_ | with_reducible refine inv_ite ?_ ?_ | split

theorem State.uplaneOpen_inv {s : State} {n : Nat} {b : Nat} (hs : Inv s) : Inv (State.uplaneOpen s n b) := by
  unfold State.uplaneOpen
  try dsimp only
  repeat'
    first
      | with_reducible assumption | with_reducible refine State.modTxBuf_inv ?_ | with_reducible refine State.txServe_inv ?_
      | with_reducible refine State.syncTx_inv ?_ | with_reducible refine inv_ite ?_ ?_ | split

theorem State.txPartReady_inv {s : State} {n : Nat} {b : Nat} (hs : Inv s) : Inv (State.txPartReady s n b) := by
  unfold State.txPartReady
  try dsimp only
  repeat'
    first
      | with_reducible assumption | with_reducible refine State.txServe_inv ?_ | with_reducible refine inv_ite ?_ ?_

theorem State.txMissEvent_inv {s : State} {n : Nat} {b : Nat} (hs : Inv s) : Inv (State.txMissEvent s n b) := by
  unfold State.txMissEvent
  try dsimp only
  repeat'
    first
      | with_reducible assumption | with_reducible refine State.event_inv ?_ | split

theorem State.endC_inv {s : State} {n : Nat} {b : Nat} {x : TxBuf} (hs : Inv s) : Inv (State.endC s n b x) := by
  unfold State.endC
  try dsimp only
  repeat'
    first
      | with_reducible assumption | with_reducible refine State.modTxBuf_inv ?_ | with_reducible refine State.txCount_inv ?_
      | with_reducible refine State.txMissEvent_inv ?_ | with_reducible refine inv_ite ?_ ?_

theorem State.cplaneClose_inv {s : State} {n : Nat} {b : Nat} (hs : Inv s) : Inv (State.cplaneClose s n b) := by
  unfold State.cplaneClose
  try dsimp only
  repeat'
    first
      | with_reducible assumption | with_reducible refine State.endC_inv ?_ | with_reducible refine inv_ite ?_ ?_ | split

theorem State.uplaneClose_inv {s : State} {n : Nat} {b : Nat} (hs : Inv s) : Inv (State.uplaneClose s n b) := by
  unfold State.uplaneClose
  try dsimp only
  repeat'
    first
      | with_reducible assumption | with_reducible refine State.modTxBuf_inv ?_ | with_reducible refine State.txCount_inv ?_
      | with_reducible refine State.setFld_inv ?_ | with_reducible refine State.syncTx_inv ?_
      | with_reducible refine State.txMissEvent_inv ?_ | with_reducible refine inv_ite ?_ ?_ | split

theorem State.txOverrun_inv {s : State} {n : Nat} {b : Nat} {old : TxBuf} (hs : Inv s) :
    Inv (State.txOverrun s n b old) := by
  unfold State.txOverrun
  try dsimp only
  repeat'
    first
      | with_reducible assumption | with_reducible refine State.modJob_inv ?_ | with_reducible refine State.missJob_inv ?_
      | with_reducible refine State.failJob_inv ?_ | with_reducible refine State.setFld_inv ?_
      | with_reducible refine State.event_inv ?_ | refine forEach_inv (fun _ _ _ => ?_) ?_ | with_reducible refine inv_ite ?_ ?_

theorem State.txAssign_inv {s : State} {n : Nat} {b : Nat} (hs : Inv s) : Inv (State.txAssign s n b) := by
  unfold State.txAssign
  try dsimp only
  repeat'
    first
      | with_reducible assumption | with_reducible refine State.endC_inv ?_ | with_reducible refine State.txOverrun_inv ?_
      | with_reducible refine State.modTxBuf_inv ?_ | with_reducible refine State.zeroSem_inv ?_
      | with_reducible refine State.refresh_inv ?_ | with_reducible refine State.syncTx_inv ?_
      | with_reducible refine inv_ite ?_ ?_ | split

theorem State.ctxEnable_inv {s : State} {n : Nat} (hs : Inv s) : Inv (State.ctxEnable s n) := by
  unfold State.ctxEnable
  try dsimp only
  repeat'
    first
      | with_reducible assumption | with_reducible refine State.vRead_inv ?_ | with_reducible refine State.mmuFault_inv ?_
      | with_reducible refine State.put_inv ?_ | with_reducible refine State.zeroSem_inv ?_
      | with_reducible refine State.setFld_inv ?_ | with_reducible refine State.refresh_inv ?_
      | refine forEach_inv (fun _ _ _ => ?_) ?_ | with_reducible refine inv_snd (by assumption) ?_
      | with_reducible refine inv_fst (by assumption) ?_ | with_reducible refine inv_ite ?_ ?_
      | (simp only [inv_mk]; refine inv_parts ?_) | split

theorem State.ctxCfgWrite_inv {s : State} {src : Nat} {n : Nat} {v : Nat} (hs : Inv s) :
    Inv (State.ctxCfgWrite s src n v) := by
  unfold State.ctxCfgWrite
  try dsimp only
  repeat'
    first
      | with_reducible assumption | with_reducible refine State.setFld_inv ?_ | with_reducible refine State.syncTx_inv ?_
      | with_reducible refine State.writeReg_inv ?_ | with_reducible refine State.ctxEnable_inv ?_
      | with_reducible refine inv_ite ?_ ?_ | (simp only [inv_mk]; refine inv_parts ?_)

theorem State.weightsOk_inv {s : State} {x : Job} (hs : Inv s) : Inv (State.weightsOk s x).2 := by
  unfold State.weightsOk
  try dsimp only
  repeat'
    first
      | with_reducible assumption | with_reducible refine State.vRead_inv ?_ | with_reducible refine inv_snd (by assumption) ?_
      | with_reducible refine inv_fst (by assumption) ?_ | with_reducible refine inv_ite ?_ ?_
      | with_reducible refine inv_ite_snd ?_ ?_ | dsimp only | split

theorem State.codingCheck_inv {s : State} {x : Job} (hs : Inv s) : Inv (State.codingCheck s x).2 := by
  unfold State.codingCheck
  try dsimp only
  repeat'
    first
      | with_reducible assumption | with_reducible refine State.linearEntries_inv ?_
      | with_reducible refine State.weightsOk_inv ?_ | with_reducible refine inv_snd (by assumption) ?_
      | with_reducible refine inv_fst (by assumption) ?_ | with_reducible refine inv_ite ?_ ?_
      | with_reducible refine inv_ite_snd ?_ ?_ | dsimp only | split

theorem State.unitFault_inv {s : State} {x : Job} {j : Nat} {va : Nat} {write : Bool} {who : Requester} {e : VFault} {wait : State → State} (hs : Inv s) (hwait : ∀ y0, Inv y0 → Inv (wait y0)) :
    Inv (State.unitFault s x j va write who e wait) := by
  unfold State.unitFault
  try dsimp only
  repeat'
    first
      | with_reducible assumption | with_reducible refine State.mmuFault_inv ?_ | with_reducible refine State.failJob_inv ?_
      | with_reducible refine hwait _ ?_ | with_reducible refine inv_ite ?_ ?_ | split

theorem State.startPiece_inv {s : State} {j : Nat} {x : Job} (hs : Inv s) : Inv (State.startPiece s j x) := by
  unfold State.startPiece
  try dsimp only
  repeat'
    first
      | with_reducible assumption | with_reducible refine State.dispatched_inv ?_ | with_reducible refine inv_ite ?_ ?_

theorem State.pagesLocal_inv {s : State} {p : Nat} {va : Nat} {n : Nat} {write : Bool} (hs : Inv s) :
    Inv (State.pagesLocal s p va n write).2 := by
  unfold State.pagesLocal
  try dsimp only
  repeat'
    first
      | with_reducible assumption | with_reducible refine State.translate_inv ?_
      | with_reducible refine inv_snd (by assumption) ?_ | with_reducible refine inv_fst (by assumption) ?_
      | exact inv_of_ok rfl (by assumption) | exact inv_of_okF rfl (by assumption) | exact invOk_error | exact invOkF_error
      | with_reducible refine invOk_ok ?_ | with_reducible refine invOkF_ok ?_
      | with_reducible refine foldl_invOk (fun _ _ _ => ?_) ?_ | with_reducible refine foldl_invOkF (fun _ _ _ => ?_) ?_
      | refine foldl_inv (fun _ _ _ => ?_) ?_ | refine foldl_inv_fst (fun _ _ _ => ?_) ?_
      | refine foldl_inv_snd (fun _ _ _ => ?_) ?_ | with_reducible refine inv_ite ?_ ?_ | with_reducible refine inv_ite_snd ?_ ?_
      | dsimp only | split

theorem State.setLd_inv {s : State} {d : Nat} {b : CodeBlk} (hs : Inv s) : Inv (State.setLd s d b) := by
  unfold State.setLd
  try dsimp only
  repeat' (first | with_reducible assumption | with_reducible refine State.setCoding_inv ?_)

theorem State.dropLd_inv {s : State} {d : Nat} (hs : Inv s) : Inv (State.dropLd s d) := by
  unfold State.dropLd
  try dsimp only
  repeat' (first | with_reducible assumption | with_reducible refine State.setCoding_inv ?_)

theorem State.ldRead_inv {s : State} {d : Nat} {b : CodeBlk} {x : Job} (hs : Inv s) : Inv (State.ldRead s d b x) := by
  unfold State.ldRead
  try dsimp only
  repeat'
    first
      | with_reducible assumption | with_reducible refine State.setLd_inv ?_ | with_reducible refine State.getAll_inv ?_
      | with_reducible refine State.unitFault_inv ?_ ?_ | with_reducible refine State.pagesLocal_inv ?_
      | with_reducible refine State.failJob_inv ?_ | with_reducible refine State.vRead_inv ?_
      | with_reducible refine inv_snd (by assumption) ?_ | with_reducible refine inv_fst (by assumption) ?_
      | with_reducible refine inv_ite ?_ ?_ | split | intro _ _

theorem State.dispatchBlock_inv {s : State} {d : Nat} (hs : Inv s) : Inv (State.dispatchBlock s d) := by
  unfold State.dispatchBlock
  try dsimp only
  repeat'
    first
      | with_reducible assumption | with_reducible refine State.setCoding_inv ?_ | with_reducible refine State.put_inv ?_
      | with_reducible refine State.startPiece_inv ?_ | with_reducible refine State.modJob_inv ?_
      | with_reducible refine State.setLd_inv ?_ | with_reducible refine State.ldRead_inv ?_
      | with_reducible refine inv_snd (by assumption) ?_ | with_reducible refine inv_fst (by assumption) ?_
      | with_reducible refine inv_ite ?_ ?_ | split

theorem State.ldCombine_inv {s : State} {d : Nat} (hs : Inv s) : Inv (State.ldCombine s d) := by
  unfold State.ldCombine
  try dsimp only
  repeat'
    first
      | with_reducible assumption | with_reducible refine State.ldRead_inv ?_ | with_reducible refine State.failJob_inv ?_
      | with_reducible refine State.setLd_inv ?_ | with_reducible refine State.put_inv ?_
      | with_reducible refine State.unitFault_inv ?_ ?_ | with_reducible refine inv_snd (by assumption) ?_
      | with_reducible refine inv_fst (by assumption) ?_ | with_reducible refine inv_ite ?_ ?_ | split | intro _ _

theorem State.ldFinish_inv {s : State} {d : Nat} {b : CodeBlk} {x : Job} {outs : List CbOut} (hs : Inv s) :
    Inv (State.ldFinish s d b x outs) := by
  unfold State.ldFinish
  try dsimp only
  repeat'
    first
      | with_reducible assumption | with_reducible refine State.putAll_inv ?_ | with_reducible refine State.unitFault_inv ?_ ?_
      | with_reducible refine State.setLd_inv ?_ | with_reducible refine State.jobFlag_inv ?_
      | with_reducible refine State.modJob_inv ?_ | with_reducible refine State.addLeaf_inv ?_
      | with_reducible refine State.addChunks_inv ?_ | with_reducible refine State.dropLd_inv ?_
      | with_reducible refine State.forgetCoding_inv ?_ | with_reducible refine State.taskDone_inv ?_
      | refine forEach_inv (fun _ _ _ => ?_) ?_ | with_reducible refine inv_snd (by assumption) ?_
      | with_reducible refine inv_fst (by assumption) ?_ | with_reducible refine inv_ite ?_ ?_ | split | refine inv_getD ?_ ?_
      | intro _ _

theorem State.ldDecoded_inv {s : State} {d : Nat} {b : CodeBlk} {x : Job} {obj : Option (List Byte)} (hs : Inv s) :
    Inv (State.ldDecoded s d b x obj) := by
  unfold State.ldDecoded
  try dsimp only
  repeat'
    first
      | with_reducible assumption | with_reducible refine State.setCoding_inv ?_ | with_reducible refine State.put_inv ?_
      | with_reducible refine State.modJob_inv ?_ | with_reducible refine State.incSat_inv ?_
      | with_reducible refine State.dropLd_inv ?_ | with_reducible refine State.taskDone_inv ?_
      | with_reducible refine State.ldFinish_inv ?_ | with_reducible refine inv_snd (by assumption) ?_
      | with_reducible refine inv_fst (by assumption) ?_ | with_reducible refine inv_ite ?_ ?_ | split

theorem State.setLmap_inv {s : State} {d : Nat} {st : Nat} {ph : Nat} (hs : Inv s) : Inv (State.setLmap s d st ph) := by
  unfold State.setLmap
  try dsimp only
  repeat'
    first
      | with_reducible assumption | with_reducible refine State.setFld_inv ?_ | with_reducible refine State.devEvent_inv ?_
      | with_reducible refine inv_ite ?_ ?_

theorem State.remapLd_inv {s : State} {d : Nat} (hs : Inv s) : Inv (State.remapLd s d) := by
  unfold State.remapLd
  try dsimp only
  repeat'
    first
      | with_reducible assumption | with_reducible refine State.setFld_inv ?_ | with_reducible refine State.setLmap_inv ?_
      | with_reducible refine inv_ite ?_ ?_ | split

theorem State.rerunLd_inv {s : State} {d : Nat} (hs : Inv s) : Inv (State.rerunLd s d) := by
  unfold State.rerunLd
  try dsimp only
  repeat'
    first
      | with_reducible assumption | with_reducible refine State.modJob_inv ?_ | with_reducible refine State.setLd_inv ?_
      | with_reducible refine State.setCoding_inv ?_ | with_reducible refine inv_ite ?_ ?_ | split

theorem State.retireLd_inv {s : State} {pd : Nat} {cause : Nat} (hs : Inv s) : Inv (State.retireLd s pd cause) := by
  unfold State.retireLd
  try dsimp only
  repeat'
    first
      | with_reducible assumption | with_reducible refine State.markRetired_inv ?_ | with_reducible refine State.setFld_inv ?_
      | with_reducible refine State.devEvent_inv ?_ | with_reducible refine State.setLmap_inv ?_
      | with_reducible refine State.remapLd_inv ?_ | with_reducible refine State.rerunLd_inv ?_
      | with_reducible refine inv_ite ?_ ?_ | split

theorem State.ldTransient_inv {s : State} {pd : Nat} (hs : Inv s) : Inv (State.ldTransient s pd) := by
  unfold State.ldTransient
  try dsimp only
  repeat'
    first
      | with_reducible assumption | with_reducible refine State.raiseLevel_inv ?_ | with_reducible refine State.retireLd_inv ?_
      | with_reducible refine inv_snd (by assumption) ?_ | with_reducible refine inv_fst (by assumption) ?_
      | with_reducible refine inv_ite ?_ ?_

theorem State.retirePolar_inv {s : State} {u : Nat} {cause : Nat} (hs : Inv s) : Inv (State.retirePolar s u cause) := by
  unfold State.retirePolar
  try dsimp only
  repeat'
    first
      | with_reducible assumption | with_reducible refine State.markRetired_inv ?_ | with_reducible refine State.setFld_inv ?_
      | with_reducible refine State.devEvent_inv ?_ | with_reducible refine State.modJob_inv ?_
      | with_reducible refine State.setCoding_inv ?_ | with_reducible refine inv_ite ?_ ?_ | split

theorem State.retireEnc_inv {s : State} {u : Nat} {cause : Nat} (hs : Inv s) : Inv (State.retireEnc s u cause) := by
  unfold State.retireEnc
  try dsimp only
  repeat'
    first
      | with_reducible assumption | with_reducible refine State.markRetired_inv ?_ | with_reducible refine State.setFld_inv ?_
      | with_reducible refine State.devEvent_inv ?_ | with_reducible refine State.modJob_inv ?_
      | with_reducible refine State.setCoding_inv ?_ | with_reducible refine inv_ite ?_ ?_ | split

theorem State.codecTransient_inv {s : State} {k : Nat} {u : Nat} (hs : Inv s) : Inv (State.codecTransient s k u) := by
  unfold State.codecTransient
  try dsimp only
  repeat'
    first
      | with_reducible assumption | with_reducible refine State.raiseLevel_inv ?_ | with_reducible refine State.retirePolar_inv ?_
      | with_reducible refine State.retireEnc_inv ?_ | with_reducible refine inv_snd (by assumption) ?_
      | with_reducible refine inv_fst (by assumption) ?_ | with_reducible refine inv_ite ?_ ?_

theorem State.ldBoundary_inv {s : State} {d : Nat} (hs : Inv s) : Inv (State.ldBoundary s d) := by
  unfold State.ldBoundary
  try dsimp only
  repeat'
    first
      | with_reducible assumption | with_reducible refine State.remapLd_inv ?_ | with_reducible refine inv_ite ?_ ?_

theorem State.ldEnd_inv {s : State} {d : Nat} {err : MemErr} (hs : Inv s) : Inv (State.ldEnd s d err) := by
  unfold State.ldEnd
  try dsimp only
  repeat'
    first
      | with_reducible assumption | with_reducible refine State.dropLd_inv ?_ | with_reducible refine State.taskDone_inv ?_
      | with_reducible refine State.forgetCoding_inv ?_ | with_reducible refine State.ldBoundary_inv ?_
      | with_reducible refine State.retireLd_inv ?_ | with_reducible refine State.ldTransient_inv ?_
      | with_reducible refine State.ldDecoded_inv ?_ | with_reducible refine State.vRead_inv ?_
      | with_reducible refine State.unitFault_inv ?_ ?_ | with_reducible refine State.setLd_inv ?_
      | with_reducible refine inv_snd (by assumption) ?_ | with_reducible refine inv_fst (by assumption) ?_
      | with_reducible refine inv_ite ?_ ?_ | split

theorem State.takeAgain_inv {s : State} {j : Nat} (hs : Inv s) : Inv (State.takeAgain s j) := by
  unfold State.takeAgain
  try dsimp only
  repeat' (first | with_reducible assumption | with_reducible refine State.setCoding_inv ?_)

theorem State.dispatchPolar_inv {s : State} {u : Nat} (hs : Inv s) : Inv (State.dispatchPolar s u) := by
  unfold State.dispatchPolar
  try dsimp only
  repeat'
    first
      | with_reducible assumption | with_reducible refine State.takeAgain_inv ?_ | with_reducible refine State.startPiece_inv ?_
      | with_reducible refine State.modJob_inv ?_ | with_reducible refine State.setCoding_inv ?_
      | with_reducible refine State.put_inv ?_ | with_reducible refine inv_snd (by assumption) ?_
      | with_reducible refine inv_fst (by assumption) ?_ | with_reducible refine inv_ite ?_ ?_ | split

theorem State.dispatchEnc_inv {s : State} {u : Nat} (hs : Inv s) : Inv (State.dispatchEnc s u) := by
  unfold State.dispatchEnc
  try dsimp only
  repeat'
    first
      | with_reducible assumption | with_reducible refine State.takeAgain_inv ?_ | with_reducible refine State.startPiece_inv ?_
      | with_reducible refine State.modJob_inv ?_ | with_reducible refine State.setCoding_inv ?_
      | with_reducible refine State.put_inv ?_ | with_reducible refine inv_snd (by assumption) ?_
      | with_reducible refine inv_fst (by assumption) ?_ | with_reducible refine inv_ite ?_ ?_ | split

theorem State.codingLeaf_inv {s : State} {j : Nat} {x : Job} {list : Nat} {entry : Nat} {bs : List Byte} (hs : Inv s) :
    Inv (State.codingLeaf s j x list entry bs) := by
  unfold State.codingLeaf
  try dsimp only
  repeat' (first | with_reducible assumption | with_reducible refine State.delivered_inv ?_)

theorem State.polarEnd_inv {s : State} {u : Nat} {err : MemErr} (hs : Inv s) : Inv (State.polarEnd s u err) := by
  unfold State.polarEnd
  try dsimp only
  repeat'
    first
      | with_reducible assumption | with_reducible refine State.setCoding_inv ?_ | with_reducible refine State.put_inv ?_
      | with_reducible refine State.taskDone_inv ?_ | with_reducible refine State.retirePolar_inv ?_
      | with_reducible refine State.codecTransient_inv ?_ | with_reducible refine State.vRead_inv ?_
      | with_reducible refine State.unitFault_inv ?_ ?_ | with_reducible refine State.codingLeaf_inv ?_
      | with_reducible refine State.jobFlag_inv ?_ | with_reducible refine State.modJob_inv ?_
      | with_reducible refine inv_snd (by assumption) ?_ | with_reducible refine inv_fst (by assumption) ?_
      | with_reducible refine inv_ite ?_ ?_ | split | refine inv_getD ?_ ?_ | intro _ _

theorem State.encEnd_inv {s : State} {u : Nat} {err : MemErr} (hs : Inv s) : Inv (State.encEnd s u err) := by
  unfold State.encEnd
  try dsimp only
  repeat'
    first
      | with_reducible assumption | with_reducible refine State.setCoding_inv ?_ | with_reducible refine State.put_inv ?_
      | with_reducible refine State.taskDone_inv ?_ | with_reducible refine State.retireEnc_inv ?_
      | with_reducible refine State.codecTransient_inv ?_ | with_reducible refine State.vRead_inv ?_
      | with_reducible refine State.unitFault_inv ?_ ?_ | with_reducible refine State.codingLeaf_inv ?_
      | with_reducible refine State.modJob_inv ?_ | with_reducible refine State.incSat_inv ?_
      | with_reducible refine inv_snd (by assumption) ?_ | with_reducible refine inv_fst (by assumption) ?_
      | with_reducible refine inv_ite ?_ ?_ | split | refine inv_getD ?_ ?_ | intro _ _

theorem State.gatherFixed_inv {s : State} {x : Job} (hs : Inv s) : Inv (State.gatherFixed s x).2 := by
  unfold State.gatherFixed
  try dsimp only
  repeat'
    first
      | with_reducible assumption | with_reducible refine State.linearEntries_inv ?_ | with_reducible refine State.getAll_inv ?_
      | with_reducible refine inv_snd (by assumption) ?_ | split

theorem State.gatherCheck_inv {s : State} {x : Job} (hs : Inv s) : Inv (State.gatherCheck s x).2 := by
  unfold State.gatherCheck
  try dsimp only
  repeat'
    first
      | with_reducible assumption | with_reducible refine State.vRead_inv ?_ | with_reducible refine State.gatherFixed_inv ?_
      | with_reducible refine State.linearEntries_inv ?_ | with_reducible refine inv_snd (by assumption) ?_ | split

theorem State.rowLocal_inv {s : State} {p : Nat} {va : Nat} {n : Nat} {write : Bool} (hs : Inv s) :
    Inv (State.rowLocal s p va n write).2 := by
  unfold State.rowLocal
  try dsimp only
  repeat'
    first
      | with_reducible assumption | with_reducible refine State.translate_inv ?_
      | with_reducible refine inv_snd (by assumption) ?_ | with_reducible refine inv_fst (by assumption) ?_
      | with_reducible refine inv_ite ?_ ?_ | with_reducible refine inv_ite_snd ?_ ?_ | dsimp only | split

theorem State.readRow_inv {s : State} {p : Nat} {va : Nat} {n : Nat} (hs : Inv s) : Inv (State.readRow s p va n).2 := by
  unfold State.readRow
  try dsimp only
  repeat'
    first
      | with_reducible assumption | with_reducible refine State.rowLocal_inv ?_ | with_reducible refine State.vRead_inv ?_
      | with_reducible refine inv_snd (by assumption) ?_ | with_reducible refine inv_fst (by assumption) ?_
      | with_reducible refine inv_ite ?_ ?_ | with_reducible refine inv_ite_snd ?_ ?_ | dsimp only | split

theorem State.writeRow_inv {s : State} {p : Nat} {va : Nat} {bs : List Byte} (hs : Inv s) : Inv (State.writeRow s p va bs).2 := by
  unfold State.writeRow
  try dsimp only
  repeat'
    first
      | with_reducible assumption | with_reducible refine State.rowLocal_inv ?_ | with_reducible refine State.put_inv ?_
      | with_reducible refine inv_snd (by assumption) ?_ | split

theorem State.changeRow_inv {s : State} {p : Nat} {va : Nat} {fmt : Nat} {dim : Nat} {add : Bool} {data : List Byte} (hs : Inv s) :
    Inv (State.changeRow s p va fmt dim add data).2 := by
  unfold State.changeRow
  try dsimp only
  repeat'
    first
      | with_reducible assumption | with_reducible refine State.readRow_inv ?_ | with_reducible refine State.writeRow_inv ?_
      | with_reducible refine inv_snd (by assumption) ?_ | with_reducible refine inv_fst (by assumption) ?_
      | with_reducible refine inv_ite ?_ ?_ | with_reducible refine inv_ite_snd ?_ ?_ | dsimp only | split

theorem State.poolServe_inv {s : State} {r : GReq} (hs : Inv s) : Inv (State.poolServe s r).2 := by
  unfold State.poolServe
  try dsimp only
  repeat'
    first
      | with_reducible assumption | with_reducible refine State.mmuFault_inv ?_ | with_reducible refine State.readRow_inv ?_
      | with_reducible refine State.changeRow_inv ?_ | with_reducible refine inv_snd (by assumption) ?_
      | with_reducible refine inv_fst (by assumption) ?_ | exact inv_of_ok rfl (by assumption)
      | exact inv_of_okF rfl (by assumption) | exact invOk_error | exact invOkF_error | with_reducible refine invOk_ok ?_
      | with_reducible refine invOkF_ok ?_ | with_reducible refine foldl_invOk (fun _ _ _ => ?_) ?_
      | with_reducible refine foldl_invOkF (fun _ _ _ => ?_) ?_ | refine foldl_inv (fun _ _ _ => ?_) ?_
      | refine foldl_inv_fst (fun _ _ _ => ?_) ?_ | refine foldl_inv_snd (fun _ _ _ => ?_) ?_
      | with_reducible refine inv_ite ?_ ?_ | with_reducible refine inv_ite_snd ?_ ?_ | dsimp only | split

theorem State.setGUnit_inv {s : State} {j : Nat} {u : GUnit} (hs : Inv s) : Inv (State.setGUnit s j u) := by
  unfold State.setGUnit
  try dsimp only
  repeat'
    first
      | with_reducible assumption | with_reducible refine State.put_inv ?_ | with_reducible refine inv_snd (by assumption) ?_
      | with_reducible refine inv_fst (by assumption) ?_ | with_reducible refine inv_ite ?_ ?_
      | (simp only [inv_mk]; refine inv_parts ?_)

theorem State.dropGUnit_inv {s : State} {j : Nat} (hs : Inv s) : Inv (State.dropGUnit s j) := by
  unfold State.dropGUnit
  try dsimp only
  repeat'
    first
      | with_reducible assumption | with_reducible refine inv_ite ?_ ?_ | (simp only [inv_mk]; refine inv_parts ?_)

theorem State.gatherLeave_inv {s : State} {j : Nat} (hs : Inv s) : Inv (State.gatherLeave s j) := by
  unfold State.gatherLeave
  try dsimp only
  repeat'
    first
      | with_reducible assumption | with_reducible refine State.dropGUnit_inv ?_ | with_reducible refine State.modJob_inv ?_
      | with_reducible refine State.taskDone_inv ?_ | with_reducible refine inv_ite ?_ ?_ | split

theorem State.gatherFail_inv {s : State} {j : Nat} {code : Nat} (hs : Inv s) : Inv (State.gatherFail s j code) := by
  unfold State.gatherFail
  try dsimp only
  repeat'
    first
      | with_reducible assumption | with_reducible refine State.failJob_inv ?_ | with_reducible refine State.setGUnit_inv ?_
      | with_reducible refine State.gatherLeave_inv ?_ | split

theorem State.gatherFault_inv {s : State} {j : Nat} {va : Nat} {write : Bool} {e : RowFail} (hs : Inv s) :
    Inv (State.gatherFault s j va write e) := by
  unfold State.gatherFault
  try dsimp only
  repeat'
    first
      | with_reducible assumption | with_reducible refine State.setGUnit_inv ?_ | with_reducible refine State.mmuFault_inv ?_
      | with_reducible refine State.gatherFail_inv ?_ | with_reducible refine inv_ite ?_ ?_ | split

theorem State.gatherStart_inv {s : State} {j : Nat} {u : GUnit} {x : Job} (hs : Inv s) :
    Inv (State.gatherStart s j u x) := by
  unfold State.gatherStart
  try dsimp only
  repeat'
    first
      | with_reducible assumption | with_reducible refine State.vRead_inv ?_ | with_reducible refine State.gatherFault_inv ?_
      | with_reducible refine State.gatherFail_inv ?_ | with_reducible refine State.getAll_inv ?_
      | with_reducible refine State.setGUnit_inv ?_ | with_reducible refine inv_snd (by assumption) ?_
      | with_reducible refine inv_fst (by assumption) ?_ | with_reducible refine inv_ite ?_ ?_ | split

theorem State.askChip_inv {s : State} {j : Nat} {x : Job} {u : GUnit} {op : Nat} {chip : Nat} {k : Nat}
    {places : List (Nat × Nat)} {data : List Byte} (hs : Inv s) :
    InvOk (State.askChip s j x u op chip k places data) := by
  unfold State.askChip
  dsimp only
  split
  · exact invOk_error
  · exact invOk_ok (State.incSat_inv (inv_of_ok (by assumption) (State.requestLong_inv hs)))

theorem State.openBag_inv {s : State} {j : Nat} {x : Job} {u : GUnit} (hs : Inv s) : Inv (State.openBag s j x u) := by
  unfold State.openBag
  extract_lets ids rows places mine away chips u' ask
  have hr : Inv (chips.foldl ask (none, s)).2 := by
    refine foldl_inv_snd (fun p c hp => ?_) hs
    dsimp only [ask]
    split
    · exact hp
    · split
      · exact hp
      · exact inv_of_ok (by assumption) (State.askChip_inv hp)
  clear_value u'
  split
  · exact State.setGUnit_inv (inv_snd (by assumption) hr)
  · exact State.gatherFail_inv (State.setGUnit_inv (inv_snd (by assumption) hr))

theorem State.writeBag_inv {s : State} {j : Nat} {x : Job} {u : GUnit} (hs : Inv s) : Inv (State.writeBag s j x u) := by
  unfold State.writeBag
  try dsimp only
  repeat'
    first
      | with_reducible assumption | with_reducible refine State.put_inv ?_ | with_reducible refine State.gatherFault_inv ?_
      | with_reducible refine State.modJob_inv ?_ | with_reducible refine State.incSat_inv ?_
      | with_reducible refine State.setGUnit_inv ?_ | with_reducible refine MsiResult.done_inv ?_
      | with_reducible refine inv_snd (by assumption) ?_ | with_reducible refine inv_fst (by assumption) ?_
      | refine foldl_inv (fun _ _ _ => ?_) ?_ | refine foldl_inv_fst (fun _ _ _ => ?_) ?_
      | refine foldl_inv_snd (fun _ _ _ => ?_) ?_ | with_reducible refine inv_ite ?_ ?_ | split

theorem State.gatherEnd_inv {s : State} {j : Nat} {x : Job} {u : GUnit} (hs : Inv s) : Inv (State.gatherEnd s j x u) := by
  unfold State.gatherEnd
  try dsimp only
  repeat'
    first
      | with_reducible assumption | with_reducible refine State.addLeaf_inv ?_ | with_reducible refine State.delivered_inv ?_
      | with_reducible refine State.signalEntry_inv ?_ | with_reducible refine State.gatherLeave_inv ?_
      | with_reducible refine inv_ite ?_ ?_

theorem State.bags_inv {s : State} {j : Nat} {z0 : Nat} (hs : Inv s) : Inv (State.bags s j z0) := by
  induction z0 generalizing s with
  | zero => exact hs
  | succ k ih =>
    unfold State.bags
    try dsimp only
    repeat'
      first
        | with_reducible refine ih ?_ | with_reducible assumption | with_reducible refine State.writeBag_inv ?_
        | with_reducible refine State.gatherLeave_inv ?_ | with_reducible refine State.gatherEnd_inv ?_
        | with_reducible refine State.openBag_inv ?_ | with_reducible refine inv_ite ?_ ?_ | split

theorem State.issueRows_inv {s : State} {c : Nat} {z0 : Nat} (hs : Inv s) : Inv (State.issueRows s c z0) := by
  induction z0 generalizing s with
  | zero => exact hs
  | succ k ih =>
    unfold State.issueRows
    try dsimp only
    repeat'
      first
        | with_reducible refine ih ?_ | with_reducible assumption | with_reducible refine State.setGUnit_inv ?_ | split

theorem State.poolRow_inv {s : State} {j : Nat} {x : Job} {u : GUnit} (hs : Inv s) : Inv (State.poolRow s j x u) := by
  unfold State.poolRow
  try dsimp only
  repeat'
    first
      | with_reducible assumption | with_reducible refine State.gatherFail_inv ?_ | with_reducible refine State.readRow_inv ?_
      | with_reducible refine State.gatherFault_inv ?_ | with_reducible refine State.incSat_inv ?_
      | with_reducible refine State.setGUnit_inv ?_ | with_reducible refine State.bags_inv ?_
      | with_reducible refine inv_snd (by assumption) ?_ | with_reducible refine inv_fst (by assumption) ?_
      | with_reducible refine inv_ite ?_ ?_ | split

theorem State.rowCounts_inv {s : State} {j : Nat} {k : Counts} (hs : Inv s) : Inv (State.rowCounts s j k) := by
  unfold State.rowCounts
  try dsimp only
  repeat' (first | with_reducible assumption | with_reducible refine State.modJob_inv ?_)

theorem State.updateRow_inv {s : State} {j : Nat} {x : Job} {u : GUnit} (hs : Inv s) : Inv (State.updateRow s j x u) := by
  unfold State.updateRow
  try dsimp only
  repeat'
    first
      | with_reducible assumption | with_reducible refine State.gatherLeave_inv ?_ | with_reducible refine State.gatherEnd_inv ?_
      | with_reducible refine State.setGUnit_inv ?_ | with_reducible refine State.gatherFail_inv ?_
      | with_reducible refine State.changeRow_inv ?_ | with_reducible refine State.gatherFault_inv ?_
      | with_reducible refine State.incSat_inv ?_ | with_reducible refine State.rowCounts_inv ?_
      | with_reducible refine State.askChip_inv ?_ | with_reducible refine inv_snd (by assumption) ?_
      | with_reducible refine inv_of_ok (by assumption) ?_ | split

theorem State.dispatchGather_inv {s : State} {p : Nat} (hs : Inv s) : Inv (State.dispatchGather s p) := by
  unfold State.dispatchGather
  try dsimp only
  repeat'
    first
      | with_reducible assumption | with_reducible refine State.dispatched_inv ?_ | with_reducible refine State.setGUnit_inv ?_
      | with_reducible refine State.gatherStart_inv ?_ | with_reducible refine inv_ite ?_ ?_ | split

theorem State.gatherStep_inv {s : State} {c : Nat} {kind : Nat} (hs : Inv s) : Inv (State.gatherStep s c kind) := by
  unfold State.gatherStep
  try dsimp only
  repeat'
    first
      | with_reducible assumption | with_reducible refine State.put_inv ?_ | with_reducible refine State.dropGUnit_inv ?_
      | with_reducible refine State.gatherStart_inv ?_ | with_reducible refine State.gatherLeave_inv ?_
      | with_reducible refine State.updateRow_inv ?_ | with_reducible refine State.poolRow_inv ?_
      | with_reducible refine State.bags_inv ?_ | with_reducible refine inv_snd (by assumption) ?_
      | with_reducible refine inv_fst (by assumption) ?_ | with_reducible refine inv_ite ?_ ?_
      | (simp only [inv_mk]; refine inv_parts ?_) | split

theorem State.engineStep_inv {s : State} {c : Nat} {kind : Nat} (hs : Inv s) : Inv (State.engineStep s c kind) := by
  unfold State.engineStep
  try dsimp only
  repeat'
    first
      | with_reducible assumption | with_reducible refine State.issueRows_inv ?_ | with_reducible refine State.gatherStep_inv ?_
      | with_reducible refine inv_ite ?_ ?_

theorem State.poolLost_inv {s : State} {j : Nat} {chip : Nat} {code : Nat} (hs : Inv s) : Inv (State.poolLost s j chip code) := by
  unfold State.poolLost
  try dsimp only
  repeat'
    first
      | with_reducible assumption | with_reducible refine State.setGUnit_inv ?_ | with_reducible refine State.gatherFail_inv ?_
      | split

theorem State.poolAnswer_inv {s : State} {j : Nat} {chip : Nat} {k : Nat} {bs : List Byte} (hs : Inv s) :
    Inv (State.poolAnswer s j chip k bs) := by
  unfold State.poolAnswer
  try dsimp only
  repeat'
    first
      | with_reducible assumption | with_reducible refine State.setGUnit_inv ?_ | with_reducible refine State.bags_inv ?_
      | with_reducible refine State.rowCounts_inv ?_ | with_reducible refine State.gatherLeave_inv ?_ | split

end Sys2Proof.Machine
end

