-- ==== Sys2Proof/Laws/InvJob.lean ====
section
/-! SUPPORT. Every definition of jobs, the memory system, belay commands and the digest that answers a state keeps the invariant
`Inv` of Safety.lean: one lemma per definition, named after it with the ending _inv. -/
namespace Sys2Proof.Machine

theorem State.flushEvents_inv {s : State} {p : Nat} (hs : Inv s) : Inv (State.flushEvents s p) := by
  unfold State.flushEvents
  try dsimp only
  repeat'
    first
      | with_reducible assumption | with_reducible refine State.modJobPtn_inv ?_ | with_reducible refine State.eqAppend_inv ?_
      | with_reducible refine State.raiseAll_inv ?_ | with_reducible refine inv_snd (by assumption) ?_
      | with_reducible refine inv_fst (by assumption) ?_ | refine foldl_inv (fun _ _ _ => ?_) ?_
      | refine foldl_inv_fst (fun _ _ _ => ?_) ?_

theorem State.sqCfg_inv {s : State} {p : Nat} {r : Nat} {value : Nat} (hs : Inv s) : Inv (State.sqCfg s p r value) := by
  unfold State.sqCfg
  try dsimp only
  repeat'
    first
      | with_reducible assumption | with_reducible refine State.setFld_inv ?_ | with_reducible refine State.setReg_inv ?_
      | with_reducible refine inv_ite ?_ ?_ | (simp only [inv_mk]; refine inv_parts ?_)

theorem State.cqCfg_inv {s : State} {p : Nat} {value : Nat} (hs : Inv s) : Inv (State.cqCfg s p value) := by
  unfold State.cqCfg
  try dsimp only
  repeat'
    first
      | with_reducible assumption | with_reducible refine State.setFld_inv ?_ | with_reducible refine State.setReg_inv ?_
      | with_reducible refine inv_ite ?_ ?_

theorem State.eqCfg_inv {s : State} {p : Nat} {value : Nat} (hs : Inv s) : Inv (State.eqCfg s p value) := by
  unfold State.eqCfg
  try dsimp only
  repeat'
    first
      | with_reducible assumption | with_reducible refine State.setFld_inv ?_ | with_reducible refine State.setReg_inv ?_
      | with_reducible refine State.flushEvents_inv ?_ | with_reducible refine inv_ite ?_ ?_

theorem State.ringEnable_inv {s : State} {src : Nat} {p : Nat} {ring : Nat} {value : Nat} (hs : Inv s) :
    Inv (State.ringEnable s src p ring value) := by
  unfold State.ringEnable
  try dsimp only
  repeat'
    first
      | with_reducible assumption | with_reducible refine State.sqCfg_inv ?_ | with_reducible refine State.cqCfg_inv ?_
      | with_reducible refine State.eqCfg_inv ?_ | with_reducible refine inv_ite ?_ ?_

theorem State.sqDoorbell_inv {s : State} {src : Nat} {p : Nat} {r : Nat} {tail : Nat} (hs : Inv s) :
    Inv (State.sqDoorbell s src p r tail) := by
  unfold State.sqDoorbell
  try dsimp only
  repeat'
    first
      | with_reducible assumption | with_reducible refine State.setReg_inv ?_ | with_reducible refine State.setFld_inv ?_
      | with_reducible refine State.event_inv ?_ | with_reducible refine inv_ite ?_ ?_ | (simp only [inv_mk]; refine inv_parts ?_)

theorem State.cqDoorbell_inv {s : State} {src : Nat} {p : Nat} {head : Nat} (hs : Inv s) :
    Inv (State.cqDoorbell s src p head) := by
  unfold State.cqDoorbell
  try dsimp only
  repeat'
    first
      | with_reducible assumption | with_reducible refine State.setReg_inv ?_ | with_reducible refine State.setFld_inv ?_
      | with_reducible refine State.event_inv ?_ | with_reducible refine inv_ite ?_ ?_

theorem State.eqDoorbell_inv {s : State} {src : Nat} {p : Nat} {head : Nat} (hs : Inv s) :
    Inv (State.eqDoorbell s src p head) := by
  unfold State.eqDoorbell
  try dsimp only
  repeat'
    first
      | with_reducible assumption | with_reducible refine State.setReg_inv ?_ | with_reducible refine State.setFld_inv ?_
      | with_reducible refine State.event_inv ?_ | with_reducible refine inv_ite ?_ ?_

theorem State.readObjects_inv {s : State} {x : Job} (hs : Inv s) : Inv (State.readObjects s x).2 := by
  unfold State.readObjects
  try dsimp only
  repeat' (first | with_reducible assumption | with_reducible refine State.getAll_inv ?_)

theorem State.classCheck_inv {s : State} {x : Job} (hs : Inv s) : Inv (State.classCheck s x).2 := by
  unfold State.classCheck
  try dsimp only
  repeat'
    first
      | with_reducible assumption | with_reducible refine State.rxCheck_inv ?_ | with_reducible refine State.codingCheck_inv ?_
      | with_reducible refine State.gatherCheck_inv ?_ | with_reducible refine inv_snd (by assumption) ?_
      | with_reducible refine inv_fst (by assumption) ?_ | with_reducible refine inv_ite ?_ ?_
      | with_reducible refine inv_ite_snd ?_ ?_ | dsimp only | split

theorem State.checkJob_inv {s : State} {x : Job} (hs : Inv s) : Inv (State.checkJob s x).2 := by
  unfold State.checkJob
  try dsimp only
  repeat'
    first
      | with_reducible assumption | with_reducible refine State.readObjects_inv ?_ | with_reducible refine State.vRead_inv ?_
      | with_reducible refine State.classCheck_inv ?_ | with_reducible refine inv_snd (by assumption) ?_
      | with_reducible refine inv_fst (by assumption) ?_ | with_reducible refine inv_ite ?_ ?_
      | with_reducible refine inv_ite_snd ?_ ?_ | dsimp only | split

theorem State.joinSeries_inv {s : State} {j : Nat} {x : Job} (hs : Inv s) : Inv (State.joinSeries s j x) := by
  unfold State.joinSeries
  try dsimp only
  repeat'
    first
      | with_reducible assumption | with_reducible refine State.putJob_inv ?_ | with_reducible refine State.endJob_inv ?_
      | with_reducible refine State.incSat_inv ?_ | with_reducible refine inv_ite ?_ ?_ | split

theorem State.acceptJob_inv {s : State} {j : Nat} {x : Job} (hs : Inv s) : Inv (State.acceptJob s j x) := by
  unfold State.acceptJob
  try dsimp only
  repeat'
    first
      | with_reducible assumption | with_reducible refine State.joinSeries_inv ?_ | with_reducible refine State.missJob_inv ?_
      | with_reducible refine State.failJob_inv ?_ | with_reducible refine State.refresh_inv ?_
      | with_reducible refine inv_ite ?_ ?_

theorem State.refuseJob_inv {s : State} {j : Nat} {x : Job} {status : Nat} {code : Nat} (hs : Inv s) :
    Inv (State.refuseJob s j x status code) := by
  unfold State.refuseJob
  try dsimp only
  repeat'
    first
      | with_reducible assumption | with_reducible refine State.putJob_inv ?_ | with_reducible refine State.countEnd_inv ?_

theorem State.advanceHead_inv {s : State} {p : Nat} {r : Nat} (hs : Inv s) : Inv (State.advanceHead s p r) := by
  unfold State.advanceHead
  try dsimp only
  repeat'
    first
      | with_reducible assumption | with_reducible refine State.setReg_inv ?_ | with_reducible refine inv_ite ?_ ?_
      | (simp only [inv_mk]; refine inv_parts ?_)

theorem State.fetchFault_inv {s : State} {p : Nat} {r : Nat} {va : Nat} {e : VFault} (hs : Inv s) :
    Inv (State.fetchFault s p r va e) := by
  unfold State.fetchFault
  try dsimp only
  repeat'
    first
      | with_reducible assumption | with_reducible refine State.setFld_inv ?_ | with_reducible refine State.event_inv ?_
      | with_reducible refine State.mmuFault_inv ?_ | with_reducible refine inv_ite ?_ ?_ | split

theorem State.fetchFrom_inv {s : State} {p : Nat} {r : Nat} (hs : Inv s) : Inv (State.fetchFrom s p r) := by
  unfold State.fetchFrom
  try dsimp only
  repeat'
    first
      | with_reducible assumption | with_reducible refine State.vRead_inv ?_ | with_reducible refine State.fetchFault_inv ?_
      | with_reducible refine State.advanceHead_inv ?_ | with_reducible refine State.refuseJob_inv ?_
      | with_reducible refine State.checkJob_inv ?_ | with_reducible refine State.acceptJob_inv ?_
      | with_reducible refine inv_snd (by assumption) ?_ | with_reducible refine inv_fst (by assumption) ?_
      | with_reducible refine inv_ite ?_ ?_ | (simp only [inv_mk]; refine inv_parts ?_) | split

theorem State.fetchDescriptor_inv {s : State} {p : Nat} (hs : Inv s) : Inv (State.fetchDescriptor s p) := by
  unfold State.fetchDescriptor
  try dsimp only
  repeat'
    first
      | with_reducible assumption | with_reducible refine State.modJobPtn_inv ?_ | with_reducible refine State.fetchFrom_inv ?_
      | with_reducible refine inv_ite ?_ ?_ | split

theorem State.inHbm_inv {s : State} {p : Nat} {va : Nat} (hs : Inv s) : Inv (State.inHbm s p va).2 := by
  unfold State.inHbm
  try dsimp only
  repeat'
    first
      | with_reducible assumption | with_reducible refine State.translate_inv ?_
      | with_reducible refine inv_snd (by assumption) ?_ | with_reducible refine inv_fst (by assumption) ?_
      | with_reducible refine inv_ite ?_ ?_ | with_reducible refine inv_ite_snd ?_ ?_ | dsimp only | split

theorem State.entryInHbm_inv {s : State} {x : Job} {e : Nat} (hs : Inv s) : Inv (State.entryInHbm s x e).2 := by
  unfold State.entryInHbm
  extract_lets got
  have h : Inv got.2.2 := by
    dsimp only [got]
    split
    · exact hs
    · exact State.vRead_inv (State.inHbm_inv hs)
  clear_value got
  split
  · exact inv_snd rfl h
  · exact inv_snd rfl h
  · dsimp only at h
    split
    · exact h
    · split
      · exact inv_snd (by assumption) (State.inHbm_inv h)
      · split
        · exact inv_snd (by assumption) (State.inHbm_inv h)
        · exact State.inHbm_inv (inv_snd (by assumption) (State.inHbm_inv h))

theorem State.entriesInHbm_inv {s : State} {x : Job} {e : Nat} {z0 : Nat} (hs : Inv s) :
    Inv (State.entriesInHbm s x e z0).2 := by
  induction z0 generalizing s e with
  | zero => exact hs
  | succ k ih =>
    unfold State.entriesInHbm
    try dsimp only
    repeat'
      first
        | with_reducible refine ih ?_ | with_reducible assumption | with_reducible refine State.entryInHbm_inv ?_
        | with_reducible refine inv_snd (by assumption) ?_ | with_reducible refine inv_fst (by assumption) ?_
        | with_reducible refine inv_ite ?_ ?_ | with_reducible refine inv_ite_snd ?_ ?_ | dsimp only | split

theorem State.migratable_inv {s : State} {x : Job} (hs : Inv s) : Inv (State.migratable s x).2 := by
  unfold State.migratable
  try dsimp only
  repeat'
    first
      | with_reducible assumption | with_reducible refine State.entriesInHbm_inv ?_
      | with_reducible refine inv_snd (by assumption) ?_ | with_reducible refine inv_fst (by assumption) ?_
      | with_reducible refine inv_ite ?_ ?_ | with_reducible refine inv_ite_snd ?_ ?_

theorem State.placeTasks_inv {s : State} {j : Nat} {fb : Bool} {migr : Bool} {ts : List Nat} (hs : Inv s) :
    Inv (State.placeTasks s j fb migr ts) := by
  unfold State.placeTasks
  try dsimp only
  repeat'
    first
      | with_reducible assumption | with_reducible refine State.modTile_inv ?_ | refine forEach_inv (fun _ _ _ => ?_) ?_
      | with_reducible refine inv_ite ?_ ?_ | split

theorem State.startLate_inv {s : State} {j : Nat} {x : Job} (hs : Inv s) : Inv (State.startLate s j x).2 := by
  unfold State.startLate
  try dsimp only
  repeat'
    first
      | with_reducible assumption | with_reducible refine State.modJob_inv ?_ | with_reducible refine inv_ite ?_ ?_
      | with_reducible refine inv_ite_snd ?_ ?_

theorem State.endFences_inv {s : State} (hs : Inv s) : Inv (State.endFences s) := by
  unfold State.endFences
  try dsimp only
  repeat'
    first
      | with_reducible assumption | with_reducible refine State.workEnded_inv ?_ | refine forEach_inv (fun _ _ _ => ?_) ?_
      | with_reducible refine inv_ite ?_ ?_

theorem State.adoptHeld_inv {s : State} {j : Nat} (hs : Inv s) : Inv (State.adoptHeld s j) := by
  unfold State.adoptHeld
  try dsimp only
  repeat'
    first
      | with_reducible assumption | with_reducible refine State.putDgt_inv ?_ | refine foldl_inv (fun _ _ _ => ?_) ?_
      | refine foldl_inv_fst (fun _ _ _ => ?_) ?_ | refine foldl_inv_snd (fun _ _ _ => ?_) ?_
      | with_reducible refine inv_ite ?_ ?_ | (simp only [inv_mk]; refine inv_parts ?_) | split

theorem State.dispatchOn_inv {s : State} {j : Nat} {x : Job} {ts : List Nat} (hs : Inv s) :
    Inv (State.dispatchOn s j x ts) := by
  unfold State.dispatchOn
  try dsimp only
  repeat'
    first
      | with_reducible assumption | with_reducible refine State.migratable_inv ?_ | with_reducible refine State.dispatched_inv ?_
      | with_reducible refine State.modJob_inv ?_ | with_reducible refine State.praDispatch_inv ?_
      | with_reducible refine State.startLate_inv ?_ | with_reducible refine State.adoptHeld_inv ?_
      | with_reducible refine State.placeTasks_inv ?_ | with_reducible refine State.endFences_inv ?_
      | with_reducible refine inv_snd (by assumption) ?_ | with_reducible refine inv_fst (by assumption) ?_
      | with_reducible refine inv_ite ?_ ?_ | split

theorem State.dispatchJob_inv {s : State} {p : Nat} (hs : Inv s) : Inv (State.dispatchJob s p) := by
  unfold State.dispatchJob
  try dsimp only
  repeat'
    first
      | with_reducible assumption | with_reducible refine State.dispatchOn_inv ?_ | with_reducible refine State.failJob_inv ?_
      | with_reducible refine inv_ite ?_ ?_ | split

theorem State.launchRelease_inv {s : State} {j : Nat} (hs : Inv s) : Inv (State.launchRelease s j) := by
  unfold State.launchRelease
  try dsimp only
  repeat'
    first
      | with_reducible assumption | with_reducible refine State.putJob_inv ?_ | with_reducible refine State.refresh_inv ?_
      | with_reducible refine State.modJob_inv ?_ | with_reducible refine State.dispatchOn_inv ?_
      | with_reducible refine State.failJob_inv ?_ | with_reducible refine inv_ite ?_ ?_ | split

theorem State.deadlineExpiry_inv {s : State} {j : Nat} (hs : Inv s) : Inv (State.deadlineExpiry s j) := by
  unfold State.deadlineExpiry
  try dsimp only
  repeat'
    first
      | with_reducible assumption | with_reducible refine State.missJob_inv ?_ | with_reducible refine inv_ite ?_ ?_ | split

theorem State.applySignals_inv {s : State} {j : Nat} {x : Job} (hs : Inv s) : Inv (State.applySignals s j x) := by
  unfold State.applySignals
  try dsimp only
  repeat'
    first
      | with_reducible assumption | with_reducible refine State.modJob_inv ?_ | with_reducible refine State.signalEntry_inv ?_
      | refine forEach_inv (fun _ _ _ => ?_) ?_ | with_reducible refine inv_ite ?_ ?_

theorem State.setObject_inv {s : State} {p : Nat} {h : Nat} {st : Nat} (hs : Inv s) : Inv (State.setObject s p h st) := by
  unfold State.setObject
  try dsimp only
  repeat'
    first
      | with_reducible assumption | with_reducible refine State.put_inv ?_ | with_reducible refine State.mmuFault_inv ?_
      | with_reducible refine inv_snd (by assumption) ?_ | split

theorem State.objectEvent_inv {s : State} {p : Nat} {h : Nat} {st : Nat} (hs : Inv s) :
    Inv (State.objectEvent s p h st) := by
  unfold State.objectEvent
  try dsimp only
  repeat' (first | with_reducible assumption | with_reducible refine State.event_inv ?_)

theorem State.freeObjects_inv {s : State} {p : Nat} (hs : Inv s) : Inv (State.freeObjects s p) := by
  unfold State.freeObjects
  try dsimp only
  repeat'
    first
      | with_reducible assumption | with_reducible refine State.modJobPtn_inv ?_ | with_reducible refine State.setObject_inv ?_
      | with_reducible refine State.objectEvent_inv ?_ | refine forEach_inv (fun _ _ _ => ?_) ?_

theorem State.recordMsi_inv {s : State} {p : Nat} {irq : Bool} (hs : Inv s) : Inv (State.recordMsi s p irq) := by
  unfold State.recordMsi
  try dsimp only
  repeat'
    first
      | with_reducible assumption | with_reducible refine State.modJobPtn_inv ?_ | with_reducible refine State.msiReg_inv ?_
      | with_reducible refine MsiResult.done_inv ?_ | with_reducible refine inv_snd (by assumption) ?_
      | with_reducible refine inv_fst (by assumption) ?_ | with_reducible refine inv_ite ?_ ?_

theorem State.nextInSeries_inv {s : State} {x : Job} (hs : Inv s) : Inv (State.nextInSeries s x) := by
  unfold State.nextInSeries
  try dsimp only
  repeat'
    first
      | with_reducible assumption | with_reducible refine State.putJob_inv ?_ | with_reducible refine inv_ite ?_ ?_ | split

theorem State.recorded_inv {s : State} {j : Nat} {x : Job} (hs : Inv s) : Inv (State.recorded s j x) := by
  unfold State.recorded
  try dsimp only
  repeat'
    first
      | with_reducible assumption | with_reducible refine State.freeArea_inv ?_ | with_reducible refine State.nextInSeries_inv ?_
      | with_reducible refine State.freeObjects_inv ?_ | with_reducible refine State.endFences_inv ?_
      | with_reducible refine State.refresh_inv ?_ | with_reducible refine inv_ite ?_ ?_
      | (simp only [inv_mk]; refine inv_parts ?_)

theorem State.keepDigest_inv {s : State} {p : Nat} {d : Nat × Nat × List Byte} (hs : Inv s) :
    Inv (State.keepDigest s p d) := by
  unfold State.keepDigest
  try dsimp only
  repeat'
    first
      | with_reducible assumption | with_reducible refine State.put_inv ?_ | with_reducible refine inv_snd (by assumption) ?_
      | with_reducible refine inv_fst (by assumption) ?_ | with_reducible refine inv_ite ?_ ?_
      | (simp only [inv_mk]; refine inv_parts ?_)

theorem State.writeRecord_inv {s : State} {j : Nat} {x : Job} (hs : Inv s) : Inv (State.writeRecord s j x) := by
  unfold State.writeRecord
  try dsimp only
  repeat'
    first
      | with_reducible assumption | with_reducible refine State.put_inv ?_ | with_reducible refine State.setFld_inv ?_
      | with_reducible refine State.mmuFault_inv ?_ | with_reducible refine State.setReg_inv ?_
      | with_reducible refine State.incSat_inv ?_ | with_reducible refine State.keepDigest_inv ?_
      | with_reducible refine State.recorded_inv ?_ | with_reducible refine State.recordMsi_inv ?_
      | with_reducible refine inv_snd (by assumption) ?_ | split

theorem State.sendEnd_inv {s : State} {j : Nat} {x : Job} {d : DgtJob} (hs : Inv s) : Inv (State.sendEnd s j x d) := by
  unfold State.sendEnd
  try dsimp only
  repeat'
    first
      | with_reducible assumption | with_reducible refine State.putDgt_inv ?_ | with_reducible refine State.sendDigest_inv ?_
      | with_reducible refine inv_ite ?_ ?_

theorem State.harqOpen_inv {s : State} {x : Job} (hs : Inv s) : Inv (State.harqOpen s x) := by
  unfold State.harqOpen
  try dsimp only
  repeat'
    first
      | with_reducible assumption | with_reducible refine State.draw_inv ?_ | with_reducible refine State.pagesLocal_inv ?_
      | with_reducible refine State.put_inv ?_ | with_reducible refine inv_snd (by assumption) ?_ | split

theorem State.failedConflict_inv {s : State} {j : Nat} {x : Job} (hs : Inv s) : Inv (State.failedConflict s j x) := by
  unfold State.failedConflict
  try dsimp only
  repeat'
    first
      | with_reducible assumption | with_reducible refine State.noteConflict_inv ?_ | split

theorem State.recordJob_inv {s : State} {j : Nat} {x : Job} (hs : Inv s) : Inv (State.recordJob s j x) := by
  unfold State.recordJob
  try dsimp only
  repeat'
    first
      | with_reducible assumption | with_reducible refine State.failedConflict_inv ?_
      | with_reducible refine State.harqOpen_inv ?_ | with_reducible refine State.writeRecord_inv ?_
      | with_reducible refine inv_ite ?_ ?_

theorem State.completeJob_inv {s : State} {j : Nat} (hs : Inv s) : Inv (State.completeJob s j) := by
  unfold State.completeJob
  try dsimp only
  repeat'
    first
      | with_reducible assumption | with_reducible refine State.applySignals_inv ?_ | with_reducible refine State.sendEnd_inv ?_
      | with_reducible refine State.recordJob_inv ?_ | split

theorem State.irqTimer_inv {s : State} {p : Nat} {events : Bool} (hs : Inv s) : Inv (State.irqTimer s p events) := by
  unfold State.irqTimer
  try dsimp only
  repeat'
    first
      | with_reducible assumption | with_reducible refine State.modJobPtn_inv ?_ | with_reducible refine State.msiReg_inv ?_
      | with_reducible refine MsiResult.done_inv ?_ | with_reducible refine inv_snd (by assumption) ?_
      | with_reducible refine inv_fst (by assumption) ?_ | with_reducible refine inv_ite ?_ ?_

theorem State.objectRegister_inv {s : State} {src : Nat} {p : Nat} {h : Nat} (hs : Inv s) :
    Inv (State.objectRegister s src p h) := by
  unfold State.objectRegister
  try dsimp only
  repeat'
    first
      | with_reducible assumption | with_reducible refine State.setFld_inv ?_ | with_reducible refine State.modJobPtn_inv ?_
      | with_reducible refine State.setObject_inv ?_ | with_reducible refine inv_ite ?_ ?_

theorem State.objectEnd_inv {s : State} {p : Nat} {h : Nat} {err : Nat} (hs : Inv s) : Inv (State.objectEnd s p h err) := by
  unfold State.objectEnd
  try dsimp only
  repeat'
    first
      | with_reducible assumption | with_reducible refine State.setFld_inv ?_ | with_reducible refine State.modJobPtn_inv ?_
      | with_reducible refine State.setObject_inv ?_ | with_reducible refine State.objectEvent_inv ?_

theorem State.objectRead_inv {s : State} {p : Nat} (hs : Inv s) : Inv (State.objectRead s p) := by
  unfold State.objectRead
  try dsimp only
  repeat'
    first
      | with_reducible assumption | with_reducible refine State.vRead_inv ?_ | with_reducible refine State.mmuFault_inv ?_
      | with_reducible refine State.objectEnd_inv ?_ | with_reducible refine State.modJobPtn_inv ?_
      | with_reducible refine State.put_inv ?_ | with_reducible refine inv_snd (by assumption) ?_
      | with_reducible refine inv_fst (by assumption) ?_ | with_reducible refine inv_ite ?_ ?_ | split

theorem State.objectRetire_inv {s : State} {src : Nat} {p : Nat} {h : Nat} (hs : Inv s) :
    Inv (State.objectRetire s src p h) := by
  unfold State.objectRetire
  try dsimp only
  repeat'
    first
      | with_reducible assumption | with_reducible refine State.setFld_inv ?_ | with_reducible refine State.vRead_inv ?_
      | with_reducible refine State.mmuFault_inv ?_ | with_reducible refine State.setObject_inv ?_
      | with_reducible refine State.modJobPtn_inv ?_ | with_reducible refine State.freeObjects_inv ?_
      | with_reducible refine inv_snd (by assumption) ?_ | with_reducible refine inv_fst (by assumption) ?_
      | with_reducible refine inv_ite ?_ ?_ | split

theorem State.retirePch_inv {s : State} {q : Nat} {cause : Nat} (hs : Inv s) : Inv (State.retirePch s q cause) := by
  unfold State.retirePch
  try dsimp only
  repeat'
    first
      | with_reducible assumption | with_reducible refine State.markRetired_inv ?_ | with_reducible refine State.setFld_inv ?_
      | with_reducible refine State.setReg_inv ?_ | with_reducible refine State.devEvent_inv ?_
      | refine forEach_inv (fun _ _ _ => ?_) ?_ | with_reducible refine inv_ite ?_ ?_ | (simp only [inv_mk]; refine inv_parts ?_)

theorem State.pchTransient_inv {s : State} {q : Nat} {w : Nat} (hs : Inv s) : Inv (State.pchTransient s q w) := by
  unfold State.pchTransient
  try dsimp only
  repeat'
    first
      | with_reducible assumption | with_reducible refine State.raiseLevel_inv ?_ | with_reducible refine State.retirePch_inv ?_
      | with_reducible refine inv_snd (by assumption) ?_ | with_reducible refine inv_fst (by assumption) ?_
      | with_reducible refine inv_ite ?_ ?_

theorem State.lostLine_inv {s : State} {line : Nat} {way : Nat} (hs : Inv s) : Inv (State.lostLine s line way) := by
  unfold State.lostLine
  try dsimp only
  repeat'
    first
      | with_reducible assumption | with_reducible refine State.incSat_inv ?_ | with_reducible refine State.setReg_inv ?_
      | with_reducible refine State.devEvent_inv ?_

theorem State.lineLost_inv {s : State} {line : Nat} (hs : Inv s) : Inv (State.lineLost s line) := by
  unfold State.lineLost
  try dsimp only
  repeat'
    first
      | with_reducible assumption | with_reducible refine State.poke_inv ?_ | with_reducible refine State.lostLine_inv ?_
      | (simp only [inv_mk]; refine inv_parts ?_) | split

theorem State.memError_inv {s : State} {a : Nat} {e : MemErr} (hs : Inv s) : Inv (State.memError s a e).1 := by
  unfold State.memError
  try dsimp only
  repeat'
    first
      | with_reducible assumption | with_reducible refine State.incSat_inv ?_ | with_reducible refine State.pchTransient_inv ?_
      | with_reducible refine State.retirePch_inv ?_ | with_reducible refine State.lineLost_inv ?_
      | with_reducible refine State.tileTransient_inv ?_ | with_reducible refine State.retireTile_inv ?_
      | with_reducible refine State.devEvent_inv ?_ | with_reducible refine inv_ite ?_ ?_
      | with_reducible refine inv_ite_fst ?_ ?_ | dsimp only | split

theorem State.settleErr_inv {s : State} {m : MetErr} (hs : Inv s) : Inv (State.settleErr s m) := by
  unfold State.settleErr
  try dsimp only
  repeat'
    first
      | with_reducible assumption | with_reducible refine State.lostLine_inv ?_ | with_reducible refine State.incSat_inv ?_
      | with_reducible refine State.memError_inv ?_ | split

theorem State.settleErrs_inv {s : State} (hs : Inv s) : Inv (State.settleErrs s) := by
  unfold State.settleErrs
  try dsimp only
  repeat'
    first
      | with_reducible assumption | with_reducible refine State.settleErr_inv ?_ | with_reducible refine State.setMmu_inv ?_
      | refine forEach_inv (fun _ _ _ => ?_) ?_

theorem State.faultEvent_inv {s : State} {r : FaultRec} {seq : Nat} {lost : Bool} (hs : Inv s) :
    Inv (State.faultEvent s r seq lost) := by
  unfold State.faultEvent
  try dsimp only
  repeat' (first | with_reducible assumption | with_reducible refine State.raise_inv ?_)

theorem State.recordFault_inv {s : State} {p : Nat} (hs : Inv s) : Inv (State.recordFault s p) := by
  unfold State.recordFault
  try dsimp only
  repeat'
    first
      | with_reducible assumption | with_reducible refine State.store_inv ?_ | with_reducible refine State.setReg_inv ?_
      | with_reducible refine State.faultEvent_inv ?_ | with_reducible refine State.incSat_inv ?_
      | (simp only [inv_mk]; refine inv_parts ?_) | split

theorem State.wakeStream_inv {s : State} {t : Nat} {j : Nat} {d : Nat} (hs : Inv s) : Inv (State.wakeStream s t j d) := by
  unfold State.wakeStream
  try dsimp only
  repeat'
    first
      | with_reducible assumption | with_reducible refine State.modTile_inv ?_ | with_reducible refine State.wake_inv ?_
      | with_reducible refine inv_ite ?_ ?_ | (simp only [inv_mk]; refine inv_parts ?_)

theorem State.wakePiece_inv {s : State} {w : Requester} (hs : Inv s) : Inv (State.wakePiece s w) := by
  unfold State.wakePiece
  try dsimp only
  repeat'
    first
      | with_reducible assumption | with_reducible refine State.setGUnit_inv ?_ | with_reducible refine inv_ite ?_ ?_
      | (simp only [inv_mk]; refine inv_parts ?_) | split

theorem State.failTlp_inv {s : State} {p : Nat} {id : Nat} (hs : Inv s) : Inv (State.failTlp s p id) := by
  unfold State.failTlp
  try dsimp only
  repeat'
    first
      | with_reducible assumption | with_reducible refine State.event_inv ?_ | with_reducible refine inv_ite ?_ ?_
      | (simp only [inv_mk]; refine inv_parts ?_) | split

theorem State.retryWaiter_inv {s : State} {p : Nat} {w : Requester} (hs : Inv s) : Inv (State.retryWaiter s p w) := by
  unfold State.retryWaiter
  try dsimp only
  repeat'
    first
      | with_reducible assumption | with_reducible refine State.wakeStream_inv ?_ | with_reducible refine State.modJobPtn_inv ?_
      | with_reducible refine State.wakePiece_inv ?_ | with_reducible refine inv_ite ?_ ?_
      | (simp only [inv_mk]; refine inv_parts ?_) | split

theorem State.failWaiter_inv {s : State} {p : Nat} {w : Requester} (hs : Inv s) : Inv (State.failWaiter s p w) := by
  unfold State.failWaiter
  try dsimp only
  repeat'
    first
      | with_reducible assumption | with_reducible refine State.streamFault_inv ?_ | with_reducible refine State.failTask_inv ?_
      | with_reducible refine State.wakePiece_inv ?_ | with_reducible refine State.gatherFail_inv ?_
      | with_reducible refine State.objectEnd_inv ?_ | with_reducible refine State.failTlp_inv ?_
      | with_reducible refine State.failJob_inv ?_ | split

theorem State.resolve_inv {s : State} {src : Nat} {p : Nat} {seq : Nat} {fail : Bool} (hs : Inv s) :
    Inv (State.resolve s src p seq fail).1 := by
  unfold State.resolve
  try dsimp only
  repeat'
    first
      | with_reducible assumption | with_reducible refine State.setFld_inv ?_ | with_reducible refine State.failWaiter_inv ?_
      | with_reducible refine State.retryWaiter_inv ?_ | refine forEach_inv (fun _ _ _ => ?_) ?_
      | with_reducible refine inv_ite ?_ ?_ | with_reducible refine inv_ite_fst ?_ ?_ | dsimp only
      | (simp only [inv_mk]; refine inv_parts ?_) | split

theorem State.invStart_inv {s : State} {src : Nat} {p : Nat} {page : Option Nat} (hs : Inv s) :
    Inv (State.invStart s src p page) := by
  unfold State.invStart
  try dsimp only
  repeat'
    first
      | with_reducible assumption | with_reducible refine State.setFld_inv ?_ | with_reducible refine State.put_inv ?_
      | with_reducible refine inv_snd (by assumption) ?_ | with_reducible refine inv_fst (by assumption) ?_
      | with_reducible refine inv_ite ?_ ?_ | (simp only [inv_mk]; refine inv_parts ?_)

theorem State.invEnd_inv {s : State} {p : Nat} (hs : Inv s) : Inv (State.invEnd s p) := by
  unfold State.invEnd
  try dsimp only
  repeat'
    first
      | with_reducible assumption | with_reducible refine State.setFld_inv ?_ | with_reducible refine inv_ite ?_ ?_
      | (simp only [inv_mk]; refine inv_parts ?_) | split

theorem State.frWrite_inv {s : State} {src : Nat} {p : Nat} {v : Nat} (hs : Inv s) : Inv (State.frWrite s src p v) := by
  unfold State.frWrite
  try dsimp only
  repeat'
    first
      | with_reducible assumption | with_reducible refine State.setFld_inv ?_ | with_reducible refine State.setReg_inv ?_
      | with_reducible refine inv_ite ?_ ?_

theorem State.maintStart_inv {s : State} {src : Nat} {p : Nat} {drop : Bool} (hs : Inv s) :
    Inv (State.maintStart s src p drop) := by
  unfold State.maintStart
  try dsimp only
  repeat'
    first
      | with_reducible assumption | with_reducible refine State.setMmu_inv ?_ | with_reducible refine State.setFld_inv ?_
      | with_reducible refine inv_ite ?_ ?_

theorem State.maintEnd_inv {s : State} (hs : Inv s) : Inv (State.maintEnd s) := by
  unfold State.maintEnd
  try dsimp only
  repeat'
    first
      | with_reducible assumption | with_reducible refine State.writeBack_inv ?_ | with_reducible refine State.setMmu_inv ?_
      | with_reducible refine State.setFld_inv ?_ | with_reducible refine inv_ite ?_ ?_ | split

theorem State.cellFlaw_inv {s : State} {q : Nat} {g : Nat} {e : MemErr} (hs : Inv s) : Inv (State.cellFlaw s q g e) := by
  unfold State.cellFlaw
  try dsimp only
  repeat'
    first
      | with_reducible assumption | with_reducible refine State.setMmu_inv ?_

theorem State.refreshDue_inv {s : State} {q : Nat} {busy : Bool} (hs : Inv s) : Inv (State.refreshDue s q busy) := by
  unfold State.refreshDue
  try dsimp only
  repeat'
    first
      | with_reducible assumption | with_reducible refine State.setMmu_inv ?_ | with_reducible refine State.put_inv ?_
      | with_reducible refine State.incSat_inv ?_ | with_reducible refine inv_snd (by assumption) ?_
      | with_reducible refine inv_fst (by assumption) ?_ | with_reducible refine inv_ite ?_ ?_

theorem State.refreshPch_inv {s : State} {q : Nat} {temp : Nat} {rate : Nat} {busy : Bool} {flaw : Option (Nat × MemErr)}
    (hs : Inv s) :
    Inv (State.refreshPch s q temp rate busy flaw) := by
  unfold State.refreshPch
  try dsimp only
  repeat'
    first
      | with_reducible assumption | with_reducible refine State.settleErrs_inv ?_ | with_reducible refine State.setFld_inv ?_
      | with_reducible refine State.refreshDue_inv ?_ | with_reducible refine State.cellFlaw_inv ?_ | split

theorem State.hbmEnable_inv {s : State} {src : Nat} {st : Nat} (hs : Inv s) : Inv (State.hbmEnable s src st) := by
  unfold State.hbmEnable
  try dsimp only
  repeat'
    first
      | with_reducible assumption | with_reducible refine State.setFld_inv ?_ | with_reducible refine inv_ite ?_ ?_

theorem State.hbmTrained_inv {s : State} {st : Nat} {ok : Bool} (hs : Inv s) : Inv (State.hbmTrained s st ok) := by
  unfold State.hbmTrained
  try dsimp only
  repeat'
    first
      | with_reducible assumption | with_reducible refine State.setFld_inv ?_ | with_reducible refine inv_ite ?_ ?_

theorem State.hbmDisable_inv {s : State} {src : Nat} {st : Nat} (hs : Inv s) : Inv (State.hbmDisable s src st) := by
  unfold State.hbmDisable
  try dsimp only
  repeat'
    first
      | with_reducible assumption | with_reducible refine State.setFld_inv ?_ | with_reducible refine inv_ite ?_ ?_

theorem State.hbmClrCnt_inv {s : State} {src : Nat} {st : Nat} (hs : Inv s) : Inv (State.hbmClrCnt s src st) := by
  unfold State.hbmClrCnt
  try dsimp only
  repeat'
    first
      | with_reducible assumption | with_reducible refine State.setReg_inv ?_ | with_reducible refine inv_ite ?_ ?_

theorem State.sendBelayAt_inv {s : State} {p : Packet} {since : Nat} (hs : Inv s) : Inv (State.sendBelayAt s p since) := by
  unfold State.sendBelayAt
  try dsimp only
  repeat'
    first
      | with_reducible assumption | with_reducible refine State.originate_inv ?_
      | with_reducible refine inv_of_ok (by assumption) ?_ | (simp only [inv_mk]; refine inv_parts ?_) | split

theorem State.sendBelay_inv {s : State} {p : Packet} (hs : Inv s) : Inv (State.sendBelay s p) := by
  unfold State.sendBelay
  try dsimp only
  repeat'
    first
      | with_reducible assumption | with_reducible refine State.sendBelayAt_inv ?_

theorem State.belayDrop_inv {s : State} {p : Nat} {w : Nat} (hs : Inv s) : Inv (State.belayDrop s p w) := by
  unfold State.belayDrop
  try dsimp only
  repeat' (first | with_reducible assumption | with_reducible refine State.event_inv ?_)

theorem State.belayAccept_inv {s : State} {p : Nat} {c : BelayCmd} {seq : Option Nat} (hs : Inv s) :
    Inv (State.belayAccept s p c seq) := by
  unfold State.belayAccept
  try dsimp only
  repeat'
    first
      | with_reducible assumption | with_reducible refine State.incSat_inv ?_ | with_reducible refine State.belayDrop_inv ?_
      | with_reducible refine State.setJobPtn_inv ?_ | with_reducible refine inv_ite ?_ ?_

theorem State.belayEnqueue_inv {s : State} {src : Nat} {p : Nat} {w : Nat} (hs : Inv s) :
    Inv (State.belayEnqueue s src p w) := by
  unfold State.belayEnqueue
  try dsimp only
  repeat'
    first
      | with_reducible assumption | with_reducible refine State.belayDrop_inv ?_ | with_reducible refine State.belayAccept_inv ?_
      | with_reducible refine inv_ite ?_ ?_

theorem State.belayArrive_inv {s : State} {p : Packet} (hs : Inv s) : Inv (State.belayArrive s p) := by
  unfold State.belayArrive
  try dsimp only
  repeat'
    first
      | with_reducible assumption | with_reducible refine State.setFld_inv ?_ | with_reducible refine State.event_inv ?_
      | with_reducible refine State.sendBelay_inv ?_ | with_reducible refine State.belayDrop_inv ?_
      | with_reducible refine State.belayAccept_inv ?_ | with_reducible refine inv_ite ?_ ?_

theorem State.belayRan_inv {s : State} {p : Nat} {c : BelayCmd} {jobs : List Nat} {rings : List (Nat × Nat)} {drain : Bool}
    {links : List Nat} (hs : Inv s) :
    Inv (State.belayRan s p c jobs rings drain links) := by
  unfold State.belayRan
  try dsimp only
  repeat'
    first
      | with_reducible assumption | with_reducible refine State.modJobPtn_inv ?_ | with_reducible refine State.setReg_inv ?_
      | with_reducible refine inv_ite ?_ ?_

theorem State.belayRun_inv {s : State} {p : Nat} {op : Nat} {eff : BelayCmd → State → State} (hs : Inv s) (heff : ∀ y0 y1, Inv y1 → Inv (eff y0 y1)) :
    Inv (State.belayRun s p op eff) := by
  unfold State.belayRun
  try dsimp only
  repeat'
    first
      | with_reducible assumption | with_reducible refine State.modJobPtn_inv ?_ | with_reducible refine State.sendBelay_inv ?_
      | with_reducible refine heff _ _ ?_ | with_reducible refine inv_ite ?_ ?_ | split

theorem State.stopPort_inv {s : State} {p : Nat} {kind : Nat} {port : Nat} {halt : Bool} (hs : Inv s) :
    Inv (State.stopPort s p kind port halt) := by
  unfold State.stopPort
  try dsimp only
  repeat'
    first
      | with_reducible assumption | with_reducible refine State.holdUnbegun_inv ?_ | with_reducible refine inv_ite ?_ ?_
      | (simp only [inv_mk]; refine inv_parts ?_)

theorem State.belayStopPort_inv {s : State} {p : Nat} (hs : Inv s) : Inv (State.belayStopPort s p) := by
  unfold State.belayStopPort
  try dsimp only
  repeat'
    first
      | with_reducible assumption | with_reducible refine State.belayRun_inv ?_ ?_ | with_reducible refine State.stopPort_inv ?_
      | with_reducible refine State.belayRan_inv ?_ | with_reducible refine inv_ite ?_ ?_ | split | intro _

theorem State.cancelJobs_inv {s : State} {p : Nat} {code : Nat} {f : Job → Bool} (hs : Inv s) :
    Inv (State.cancelJobs s p code f).2 := by
  unfold State.cancelJobs
  try dsimp only
  repeat'
    first
      | with_reducible assumption | with_reducible refine State.endJob_inv ?_ | refine forEach_inv (fun _ _ _ => ?_) ?_

theorem State.cancelPosted_inv {s : State} {p : Nat} {code : Nat} {rings : List Nat} (hs : Inv s) :
    Inv (State.cancelPosted s p code rings).2 := by
  unfold State.cancelPosted
  try dsimp only
  repeat'
    first
      | with_reducible assumption | with_reducible refine inv_ite ?_ ?_ | with_reducible refine inv_ite_snd ?_ ?_ | dsimp only
      | (simp only [inv_mk]; refine inv_parts ?_)

theorem State.belayCancelTag_inv {s : State} {p : Nat} (hs : Inv s) : Inv (State.belayCancelTag s p) := by
  unfold State.belayCancelTag
  try dsimp only
  repeat'
    first
      | with_reducible assumption | with_reducible refine State.belayRun_inv ?_ ?_ | with_reducible refine State.cancelJobs_inv ?_
      | with_reducible refine State.belayRan_inv ?_ | with_reducible refine inv_snd (by assumption) ?_
      | with_reducible refine inv_fst (by assumption) ?_ | with_reducible refine inv_ite ?_ ?_ | split | intro _

theorem State.belayCancelRing_inv {s : State} {p : Nat} (hs : Inv s) : Inv (State.belayCancelRing s p) := by
  unfold State.belayCancelRing
  try dsimp only
  repeat'
    first
      | with_reducible assumption | with_reducible refine State.belayRun_inv ?_ ?_ | with_reducible refine State.cancelJobs_inv ?_
      | with_reducible refine State.cancelPosted_inv ?_ | with_reducible refine State.belayRan_inv ?_
      | with_reducible refine inv_snd (by assumption) ?_ | with_reducible refine inv_fst (by assumption) ?_
      | with_reducible refine inv_ite ?_ ?_ | split | intro _

theorem State.belayQuiesce_inv {s : State} {p : Nat} (hs : Inv s) : Inv (State.belayQuiesce s p) := by
  unfold State.belayQuiesce
  try dsimp only
  repeat'
    first
      | with_reducible assumption | with_reducible refine State.belayRun_inv ?_ ?_ | with_reducible refine State.setFld_inv ?_
      | with_reducible refine State.belayRan_inv ?_ | with_reducible refine inv_ite ?_ ?_ | split | intro _

theorem State.belayHalt_inv {s : State} {p : Nat} (hs : Inv s) : Inv (State.belayHalt s p) := by
  unfold State.belayHalt
  try dsimp only
  repeat'
    first
      | with_reducible assumption | with_reducible refine State.belayRun_inv ?_ ?_ | with_reducible refine State.setFld_inv ?_
      | with_reducible refine State.cancelJobs_inv ?_ | with_reducible refine State.cancelPosted_inv ?_
      | with_reducible refine State.stopPort_inv ?_ | with_reducible refine State.belayRan_inv ?_
      | refine forEach_inv (fun _ _ _ => ?_) ?_ | with_reducible refine inv_snd (by assumption) ?_
      | with_reducible refine inv_fst (by assumption) ?_ | with_reducible refine inv_ite ?_ ?_ | split | intro _

theorem State.belayDone_inv {s : State} {p : Nat} (hs : Inv s) : Inv (State.belayDone s p) := by
  unfold State.belayDone
  try dsimp only
  repeat'
    first
      | with_reducible assumption | with_reducible refine State.modJobPtn_inv ?_ | with_reducible refine State.setFld_inv ?_
      | with_reducible refine State.event_inv ?_ | with_reducible refine State.sendBelay_inv ?_
      | with_reducible refine inv_ite ?_ ?_ | split

theorem State.resume_inv {s : State} {src : Nat} {p : Nat} (hs : Inv s) : Inv (State.resume s src p) := by
  unfold State.resume
  try dsimp only
  repeat'
    first
      | with_reducible assumption | with_reducible refine State.setFld_inv ?_ | with_reducible refine State.releaseStopped_inv ?_
      | with_reducible refine inv_ite ?_ ?_ | (simp only [inv_mk]; refine inv_parts ?_)

theorem State.unquiesce_inv {s : State} {src : Nat} {p : Nat} (hs : Inv s) : Inv (State.unquiesce s src p) := by
  unfold State.unquiesce
  try dsimp only
  repeat'
    first
      | with_reducible assumption | with_reducible refine State.setFld_inv ?_ | with_reducible refine inv_ite ?_ ?_

theorem State.outSize_inv {s : State} {x : Job} {e : Nat} (hs : Inv s) : Inv (State.outSize s x e).2 := by
  unfold State.outSize
  try dsimp only
  repeat'
    first
      | with_reducible assumption | with_reducible refine State.vRead_inv ?_ | with_reducible refine inv_snd (by assumption) ?_
      | with_reducible refine inv_fst (by assumption) ?_ | with_reducible refine inv_ite ?_ ?_
      | with_reducible refine inv_ite_snd ?_ ?_ | dsimp only | split

theorem State.outChunks_inv {s : State} {x : Job} {e : Nat} {acc : Nat} {z0 : Nat} (hs : Inv s) :
    Inv (State.outChunks s x e acc z0).2 := by
  induction z0 generalizing s e acc with
  | zero => exact hs
  | succ k ih =>
    unfold State.outChunks
    try dsimp only
    repeat'
      first
        | with_reducible refine ih ?_ | with_reducible assumption | with_reducible refine State.outSize_inv ?_
        | with_reducible refine inv_snd (by assumption) ?_ | with_reducible refine inv_fst (by assumption) ?_
        | with_reducible refine inv_ite ?_ ?_ | with_reducible refine inv_ite_snd ?_ ?_ | dsimp only | split

theorem State.digestAllocate_inv {s : State} {p : Nat} (hs : Inv s) : Inv (State.digestAllocate s p) := by
  unfold State.digestAllocate
  try dsimp only
  repeat'
    first
      | with_reducible assumption | with_reducible refine State.outChunks_inv ?_ | with_reducible refine State.mmuFault_inv ?_
      | with_reducible refine State.failJob_inv ?_ | with_reducible refine State.endJob_inv ?_
      | with_reducible refine State.allocate_inv ?_ | with_reducible refine inv_snd (by assumption) ?_
      | with_reducible refine inv_fst (by assumption) ?_ | with_reducible refine inv_of_some (by assumption) ?_
      | with_reducible refine inv_ite ?_ ?_ | split | refine inv_getD ?_ ?_

theorem State.digestDone_inv {s : State} {j : Nat} (hs : Inv s) : Inv (State.digestDone s j) := by
  unfold State.digestDone
  try dsimp only
  repeat'
    first
      | with_reducible assumption | with_reducible refine State.putDgt_inv ?_ | with_reducible refine State.noteConflict_inv ?_
      | with_reducible refine State.jobFlag_inv ?_ | split

theorem State.compareEnd_inv {s : State} {j : Nat} {x : Job} {d : DgtJob} {timeout : Bool} (hs : Inv s) :
    Inv (State.compareEnd s j x d timeout) := by
  unfold State.compareEnd
  try dsimp only
  repeat'
    first
      | with_reducible assumption | with_reducible refine State.putDgt_inv ?_ | with_reducible refine State.incSat_inv ?_
      | with_reducible refine State.jobFlag_inv ?_ | with_reducible refine State.jobEvent_inv ?_
      | with_reducible refine inv_ite ?_ ?_

theorem State.digestArrive_inv {s : State} {p : Packet} (hs : Inv s) : InvSome (State.digestArrive s p) := by
  unfold State.digestArrive
  dsimp only
  split
  · intro t e
    obtain ⟨d, _, rfl⟩ := Option.map_eq_some_iff.1 e
    exact State.putDgt_inv hs
  · split
    · exact invSome_none
    · exact invSome_some (inv_mk.2 (inv_parts hs))

theorem execDigestAllocate_inv {p : PtnIx} {s : State} (hs : Inv s) : InvNext (execDigestAllocate p s) := by
  unfold execDigestAllocate
  try dsimp only
  repeat'
    first
      | with_reducible assumption | with_reducible refine State.digestAllocate_inv ?_ | exact invNext_refused
      | with_reducible refine invNext_next ?_

theorem execDigestComputeDone_inv {job : Nat} {s : State} (hs : Inv s) : InvNext (execDigestComputeDone job s) := by
  unfold execDigestComputeDone
  try dsimp only
  repeat'
    first
      | with_reducible assumption | with_reducible refine State.digestDone_inv ?_ | exact invNext_refused
      | with_reducible refine invNext_next ?_

theorem execLockstepCompareEnd_inv {job : Nat} {s : State} (hs : Inv s) : InvNext (execLockstepCompareEnd job s) := by
  unfold execLockstepCompareEnd
  try dsimp only
  repeat'
    first
      | with_reducible assumption | with_reducible refine State.complete_inv ?_ | with_reducible refine State.compareEnd_inv ?_
      | exact invNext_refused | with_reducible refine invNext_next ?_ | with_reducible refine invNext_ite ?_ ?_
      | with_reducible refine inv_ite ?_ ?_ | split

theorem execRopeTimeout_inv {job : Nat} {s : State} (hs : Inv s) : InvNext (execRopeTimeout job s) := by
  unfold execRopeTimeout
  try dsimp only
  repeat'
    first
      | with_reducible assumption | with_reducible refine State.compareEnd_inv ?_ | exact invNext_refused
      | with_reducible refine invNext_next ?_ | with_reducible refine invNext_ite ?_ ?_ | with_reducible refine inv_ite ?_ ?_
      | split

theorem execOrphanDiscard_inv {s : State} (hs : Inv s) : InvNext (execOrphanDiscard s) := by
  unfold execOrphanDiscard
  try dsimp only
  repeat'
    first
      | with_reducible assumption | with_reducible refine State.incSat_inv ?_ | exact invNext_refused
      | with_reducible refine invNext_next ?_ | with_reducible refine invNext_ite ?_ ?_ | with_reducible refine inv_ite ?_ ?_
      | (simp only [inv_mk]; refine inv_parts ?_) | split

theorem State.dgtClrCnt_inv {s : State} {src : Nat} (hs : Inv s) : Inv (State.dgtClrCnt s src) := by
  unfold State.dgtClrCnt
  try dsimp only
  repeat'
    first
      | with_reducible assumption | with_reducible refine State.setReg_inv ?_ | refine forEach_inv (fun _ _ _ => ?_) ?_
      | with_reducible refine inv_ite ?_ ?_

theorem execDgtClrCnt_inv {src : PtnIx} {s : State} (hs : Inv s) : InvNext (execDgtClrCnt src s) := by
  unfold execDgtClrCnt
  try dsimp only
  repeat'
    first
      | with_reducible assumption | with_reducible refine State.dgtClrCnt_inv ?_ | exact invNext_refused
      | with_reducible refine invNext_next ?_

end Sys2Proof.Machine
end

