-- ==== Sys2Proof/Laws/InvLink.lean ====
section
/-! SUPPORT. Every definition of the link, the cairn and the black box that answers a state keeps the invariant
`Inv` of Safety.lean: one lemma per definition, named after it with the ending _inv. -/
namespace Sys2Proof.Machine

theorem State.retireLane_inv {s : State} {i : Nat} {cause : Nat} (hs : Inv s) : Inv (State.retireLane s i cause) := by
  unfold State.retireLane
  try dsimp only
  repeat'
    first
      | with_reducible assumption | with_reducible refine State.markRetired_inv ?_ | with_reducible refine State.devEvent_inv ?_
      | with_reducible refine State.setLinkState_inv ?_ | with_reducible refine inv_ite ?_ ?_

theorem State.linkLanes_inv {s : State} {k : Nat} {lanes : Nat} (hs : Inv s) : Inv (State.linkLanes s k lanes) := by
  unfold State.linkLanes
  try dsimp only
  repeat'
    first
      | with_reducible assumption | with_reducible refine State.setFld_inv ?_ | with_reducible refine State.setLinkState_inv ?_

theorem State.retryBelays_inv {s : State} (hs : Inv s) : Inv (State.retryBelays s) := by
  unfold State.retryBelays
  try dsimp only
  repeat'
    first
      | with_reducible assumption | with_reducible refine State.sendBelayAt_inv ?_ | refine forEach_inv (fun _ _ _ => ?_) ?_
      | (simp only [inv_mk]; refine inv_parts ?_)

theorem State.kick_inv {s : State} {k : Nat} (hs : Inv s) : Inv (State.kick s k) := by
  unfold State.kick
  try dsimp only
  repeat'
    first
      | with_reducible assumption | with_reducible refine State.pump_inv ?_ | with_reducible refine State.returnCredits_inv ?_
      | with_reducible refine State.retryBelays_inv ?_

theorem State.linkEnable_inv {s : State} {src : Nat} {k : Nat} (hs : Inv s) : Inv (State.linkEnable s src k) := by
  unfold State.linkEnable
  try dsimp only
  repeat'
    first
      | with_reducible assumption | with_reducible refine State.releaseStopped_inv ?_ | with_reducible refine State.setFld_inv ?_
      | with_reducible refine State.setLink_inv ?_ | with_reducible refine State.setLinkState_inv ?_
      | refine foldl_inv (fun _ _ _ => ?_) ?_ | refine foldl_inv_fst (fun _ _ _ => ?_) ?_
      | refine foldl_inv_snd (fun _ _ _ => ?_) ?_ | with_reducible refine inv_ite ?_ ?_
      | (simp only [inv_mk]; refine inv_parts ?_)

theorem State.linkDisable_inv {s : State} {src : Nat} {k : Nat} (hs : Inv s) : Inv (State.linkDisable s src k) := by
  unfold State.linkDisable
  try dsimp only
  repeat'
    first
      | with_reducible assumption | with_reducible refine State.setFld_inv ?_ | with_reducible refine State.setLinkState_inv ?_
      | with_reducible refine inv_ite ?_ ?_

theorem State.linkTrained_inv {s : State} {k : Nat} {locked : Nat} {peer : Peer} (hs : Inv s) :
    Inv (State.linkTrained s k locked peer) := by
  unfold State.linkTrained
  try dsimp only
  repeat'
    first
      | with_reducible assumption | with_reducible refine State.setReg_inv ?_ | with_reducible refine State.setLink_inv ?_
      | with_reducible refine State.linkLanes_inv ?_ | with_reducible refine State.kick_inv ?_
      | refine foldl_inv (fun _ _ _ => ?_) ?_ | refine foldl_inv_fst (fun _ _ _ => ?_) ?_
      | refine foldl_inv_snd (fun _ _ _ => ?_) ?_ | with_reducible refine inv_ite ?_ ?_

theorem State.linkTimeout_inv {s : State} {k : Nat} {st : Nat} (hs : Inv s) : Inv (State.linkTimeout s k st) := by
  unfold State.linkTimeout
  try dsimp only
  repeat'
    first
      | with_reducible assumption | with_reducible refine State.setFld_inv ?_ | with_reducible refine State.setLinkState_inv ?_
      | with_reducible refine inv_ite ?_ ?_

theorem State.replayAll_inv {s : State} {k : Nat} (hs : Inv s) : Inv (State.replayAll s k) := by
  unfold State.replayAll
  try dsimp only
  repeat'
    first
      | with_reducible assumption | with_reducible refine State.incSat_inv ?_ | refine forEach_inv (fun _ _ _ => ?_) ?_
      | with_reducible refine inv_ite ?_ ?_ | (simp only [inv_mk]; refine inv_parts ?_)

theorem State.linkRetrain'_inv {s : State} {src : Nat} {k : Nat} (hs : Inv s) : Inv (State.linkRetrain' s src k) := by
  unfold State.linkRetrain'
  try dsimp only
  repeat'
    first
      | with_reducible assumption | with_reducible refine State.setLinkState_inv ?_ | with_reducible refine inv_ite ?_ ?_

theorem State.retrained_inv {s : State} {k : Nat} {locked : Nat} (hs : Inv s) : Inv (State.retrained s k locked) := by
  unfold State.retrained
  try dsimp only
  repeat'
    first
      | with_reducible assumption | with_reducible refine State.setFld_inv ?_ | with_reducible refine State.retireLane_inv ?_
      | with_reducible refine State.setLink_inv ?_ | with_reducible refine State.linkLanes_inv ?_
      | with_reducible refine State.replayAll_inv ?_ | with_reducible refine State.kick_inv ?_
      | refine forEach_inv (fun _ _ _ => ?_) ?_ | with_reducible refine inv_ite ?_ ?_

theorem State.takeNak_inv {s : State} {k : Nat} (hs : Inv s) : Inv (State.takeNak s k) := by
  unfold State.takeNak
  try dsimp only
  repeat'
    first
      | with_reducible assumption | with_reducible refine State.setLinkState_inv ?_ | with_reducible refine State.setLink_inv ?_
      | with_reducible refine State.replayAll_inv ?_ | with_reducible refine inv_ite ?_ ?_

theorem State.sendNak_inv {s : State} {k : Nat} (hs : Inv s) : Inv (State.sendNak s k) := by
  unfold State.sendNak
  try dsimp only
  repeat'
    first
      | with_reducible assumption | with_reducible refine State.setLink_inv ?_ | with_reducible refine State.putIdle_inv ?_

theorem State.fecErrors_inv {s : State} {k : Nat} {lanes : Nat} (hs : Inv s) : Inv (State.fecErrors s k lanes) := by
  unfold State.fecErrors
  try dsimp only
  repeat'
    first
      | with_reducible assumption | with_reducible refine State.incSat_inv ?_ | with_reducible refine State.raiseLevel_inv ?_
      | with_reducible refine State.retireLane_inv ?_ | refine forEach_inv (fun _ _ _ => ?_) ?_
      | with_reducible refine inv_snd (by assumption) ?_ | with_reducible refine inv_fst (by assumption) ?_
      | with_reducible refine inv_ite ?_ ?_

theorem State.takeFlit_inv {s : State} {k : Nat} {bs : List Byte} (hs : Inv s) : Inv (State.takeFlit s k bs) := by
  unfold State.takeFlit
  try dsimp only
  repeat'
    first
      | with_reducible assumption | with_reducible refine State.setLink_inv ?_ | with_reducible refine State.takeNak_inv ?_
      | with_reducible refine State.kick_inv ?_ | with_reducible refine State.putIdle_inv ?_
      | with_reducible refine State.sendNak_inv ?_ | with_reducible refine inv_ite ?_ ?_

theorem State.flitArrives_inv {s : State} {k : Nat} {bs : List Byte} {fec : Nat} (hs : Inv s) :
    Inv (State.flitArrives s k bs fec) := by
  unfold State.flitArrives
  try dsimp only
  repeat'
    first
      | with_reducible assumption | with_reducible refine State.fecErrors_inv ?_ | with_reducible refine State.takeFlit_inv ?_
      | with_reducible refine State.sendNak_inv ?_ | with_reducible refine inv_ite ?_ ?_

theorem State.payCredits_inv {s : State} {k : Nat} {vc : Nat} {n : Nat} (hs : Inv s) : Inv (State.payCredits s k vc n) := by
  unfold State.payCredits
  try dsimp only
  repeat'
    first
      | with_reducible assumption | with_reducible refine State.setLink_inv ?_ | with_reducible refine State.returnCredits_inv ?_
      | with_reducible refine inv_ite ?_ ?_

theorem State.takePacket_inv {s : State} {k : Nat} {f : Packet → Bool} (hs : Inv s) : InvSomeS (State.takePacket s k f) := by
  unfold State.takePacket
  intro r t e
  dsimp only at e
  cases h : firstOfFlow f [] (s.link k).rx with
  | none => rw [h] at e; exact nomatch e
  | some q => rw [h] at e; exact (Prod.mk.inj (Option.some.inj e)).2 ▸ State.setLink_inv hs

theorem State.refuse_inv {s : State} {p : Packet} {code : Nat} (hs : Inv s) : Inv (State.refuse s p code) := by
  unfold State.refuse
  try dsimp only
  repeat'
    first
      | with_reducible assumption | with_reducible refine State.respond_inv ?_ | with_reducible refine inv_ite ?_ ?_

theorem State.arrive_inv {s : State} {k : Nat} {p : Packet} {serve : Packet → State → State} (hs : Inv s) (hserve : ∀ y0 y1, Inv y1 → Inv (serve y0 y1)) :
    Inv (State.arrive s k p serve) := by
  unfold State.arrive
  try dsimp only
  repeat'
    first
      | with_reducible assumption | with_reducible refine State.refuse_inv ?_ | with_reducible refine State.devEvent_inv ?_
      | with_reducible refine hserve _ _ ?_ | with_reducible refine inv_ite ?_ ?_

theorem State.packetOf_inv {s : State} {k : Nat} {kind : Nat} {ready : Packet → State → Bool} {serve : Packet → State → State}
    (hs : Inv s) /- ready : Packet → State → Bool -/ (hserve : ∀ y0 y1, Inv y1 → Inv (serve y0 y1)) :
    Inv (State.packetOf s k kind ready serve) := by
  unfold State.packetOf
  try dsimp only
  repeat'
    first
      | with_reducible assumption | with_reducible refine State.takePacket_inv ?_ | with_reducible refine State.payCredits_inv ?_
      | with_reducible refine State.arrive_inv ?_ ?_ | with_reducible refine inv_of_someS (by assumption) ?_
      | with_reducible refine hserve _ _ ?_ | with_reducible refine inv_ite ?_ ?_ | split

theorem State.transit_inv {s : State} {k : Nat} (hs : Inv s) : Inv (State.transit s k) := by
  unfold State.transit
  try dsimp only
  repeat'
    first
      | with_reducible assumption | with_reducible refine State.takePacket_inv ?_ | with_reducible refine State.payCredits_inv ?_
      | with_reducible refine State.forwardPacket_inv ?_ | with_reducible refine State.refuse_inv ?_
      | with_reducible refine inv_of_some (by assumption) ?_ | with_reducible refine inv_of_someS (by assumption) ?_
      | with_reducible refine inv_ite ?_ ?_ | split

theorem State.serveRead_inv {s : State} {p : Packet} {e : MemErr} (hs : Inv s) : Inv (State.serveRead s p e) := by
  unfold State.serveRead
  try dsimp only
  repeat'
    first
      | with_reducible assumption | with_reducible refine State.refuse_inv ?_ | with_reducible refine State.memError_inv ?_
      | with_reducible refine State.readLocal_inv ?_ | with_reducible refine State.respond_inv ?_
      | with_reducible refine inv_snd (by assumption) ?_ | with_reducible refine inv_fst (by assumption) ?_ | split

theorem State.remoteStore_inv {s : State} {a : Nat} {bs : List Byte} (hs : Inv s) : Inv (State.remoteStore s a bs) := by
  unfold State.remoteStore
  try dsimp only
  repeat'
    first
      | with_reducible assumption | with_reducible refine State.pokeTile_inv ?_ | with_reducible refine State.writeProgram_inv ?_
      | with_reducible refine State.event_inv ?_ | with_reducible refine State.store_inv ?_ | split

theorem State.serveWrite_inv {s : State} {p : Packet} {e : MemErr} (hs : Inv s) : Inv (State.serveWrite s p e) := by
  unfold State.serveWrite
  try dsimp only
  repeat'
    first
      | with_reducible assumption | with_reducible refine State.refuse_inv ?_ | with_reducible refine State.memError_inv ?_
      | with_reducible refine State.remoteStore_inv ?_ | with_reducible refine State.respond_inv ?_
      | with_reducible refine inv_snd (by assumption) ?_ | with_reducible refine inv_fst (by assumption) ?_
      | with_reducible refine inv_ite ?_ ?_ | split

theorem State.serveAtomic_inv {s : State} {p : Packet} {e : MemErr} (hs : Inv s) : Inv (State.serveAtomic s p e) := by
  unfold State.serveAtomic
  try dsimp only
  repeat'
    first
      | with_reducible assumption | with_reducible refine State.refuse_inv ?_ | with_reducible refine State.memError_inv ?_
      | with_reducible refine State.store_inv ?_ | with_reducible refine State.respond_inv ?_
      | with_reducible refine inv_fst (by assumption) ?_ | split

theorem State.appendMessage_inv {s : State} {q : Nat} {m : Packet} {ts : Nat} (hs : Inv s) :
    InvBoth (State.appendMessage s q m ts) := by
  unfold State.appendMessage
  try dsimp only
  repeat'
    first
      | with_reducible assumption | with_reducible refine State.put_inv ?_ | with_reducible refine State.setFld_inv ?_
      | with_reducible refine State.mmuFault_inv ?_ | with_reducible refine State.setReg_inv ?_
      | with_reducible refine State.msiReg_inv ?_ | with_reducible refine MsiResult.done_inv ?_
      | with_reducible refine State.respond_inv ?_ | with_reducible refine inv_snd (by assumption) ?_
      | with_reducible refine inv_both_some ?_ ?_ | with_reducible refine inv_both_none ?_ | split

theorem State.takeMessage_inv {s : State} {k : Nat} {flits : Nat} {p : Packet} (hs : Inv s) :
    Inv (State.takeMessage s k flits p) := by
  unfold State.takeMessage
  try dsimp only
  repeat'
    first
      | with_reducible assumption | with_reducible refine State.payCredits_inv ?_ | with_reducible refine State.refuse_inv ?_
      | with_reducible refine State.appendMessage_inv ?_ | with_reducible refine inv_both_fst (by assumption) ?_
      | with_reducible refine inv_both_snd (by assumption) ?_ | with_reducible refine inv_both_fst (by assumption) ?_
      | with_reducible refine inv_both_snd (by assumption) ?_ | with_reducible refine inv_ite ?_ ?_
      | (simp only [inv_mk]; refine inv_parts ?_) | split

theorem State.writeArrives_inv {s : State} {k : Nat} {e : MemErr} (hs : Inv s) : Inv (State.writeArrives s k e) := by
  unfold State.writeArrives
  try dsimp only
  repeat'
    first
      | with_reducible assumption | with_reducible refine State.takePacket_inv ?_ | with_reducible refine State.payCredits_inv ?_
      | with_reducible refine State.takeMessage_inv ?_ | with_reducible refine State.arrive_inv ?_ ?_
      | with_reducible refine State.serveWrite_inv ?_ | with_reducible refine inv_of_someS (by assumption) ?_
      | with_reducible refine inv_ite ?_ ?_ | split | intro _ _ | intro _

theorem State.dropMessage_inv {s : State} {m : HeldMsg} (hs : Inv s) : Inv (State.dropMessage s m) := by
  unfold State.dropMessage
  try dsimp only
  repeat'
    first
      | with_reducible assumption | with_reducible refine State.payCredits_inv ?_ | with_reducible refine inv_ite ?_ ?_
      | (simp only [inv_mk]; refine inv_parts ?_)

theorem State.messageAppend_inv {s : State} {q : Nat} (hs : Inv s) : Inv (State.messageAppend s q) := by
  unfold State.messageAppend
  try dsimp only
  repeat'
    first
      | with_reducible assumption | with_reducible refine State.appendMessage_inv ?_
      | with_reducible refine State.dropMessage_inv ?_ | with_reducible refine inv_both_fst (by assumption) ?_
      | with_reducible refine inv_both_snd (by assumption) ?_ | with_reducible refine inv_both_fst (by assumption) ?_
      | with_reducible refine inv_both_snd (by assumption) ?_ | with_reducible refine inv_ite ?_ ?_ | split

theorem State.messageTimeout_inv {s : State} {q : Nat} (hs : Inv s) : Inv (State.messageTimeout s q) := by
  unfold State.messageTimeout
  try dsimp only
  repeat'
    first
      | with_reducible assumption | with_reducible refine State.dropMessage_inv ?_ | with_reducible refine State.incSat_inv ?_
      | with_reducible refine State.refuse_inv ?_ | with_reducible refine inv_ite ?_ ?_ | split

theorem State.gatherLong_inv {s : State} {p : Packet} (hs : Inv s) : Inv (State.gatherLong s p).2 := by
  unfold State.gatherLong
  try dsimp only
  repeat'
    first
      | with_reducible assumption | with_reducible refine State.put_inv ?_ | with_reducible refine inv_snd (by assumption) ?_
      | with_reducible refine inv_fst (by assumption) ?_ | with_reducible refine inv_ite ?_ ?_
      | with_reducible refine inv_ite_snd ?_ ?_ | dsimp only | (simp only [inv_mk]; refine inv_parts ?_)

theorem State.servePool_inv {s : State} {k : Nat} {p : Packet} (hs : Inv s) : Inv (State.servePool s k p) := by
  unfold State.servePool
  try dsimp only
  repeat'
    first
      | with_reducible assumption | with_reducible refine State.gatherLong_inv ?_ | with_reducible refine State.poolServe_inv ?_
      | with_reducible refine State.refuse_inv ?_ | with_reducible refine State.sendLong_inv ?_
      | with_reducible refine inv_snd (by assumption) ?_ | with_reducible refine inv_of_ok (by assumption) ?_ | split

theorem State.hartAnswer_inv {s : State} {h : Nat} {code : Nat} {a : Nat} {v : Nat} (hs : Inv s) :
    Inv (State.hartAnswer s h code a v) := by
  unfold State.hartAnswer
  try dsimp only
  repeat'
    first
      | with_reducible assumption | with_reducible refine State.put_inv ?_ | with_reducible refine State.setReg_inv ?_
      | with_reducible refine inv_snd (by assumption) ?_ | with_reducible refine inv_fst (by assumption) ?_
      | with_reducible refine inv_ite ?_ ?_ | (simp only [inv_mk]; refine inv_parts ?_)

theorem State.answerWaiter_inv {s : State} {r : OutReq} {code : Nat} {data : List Byte} (hs : Inv s) :
    Inv (State.answerWaiter s r code data) := by
  unfold State.answerWaiter
  try dsimp only
  repeat'
    first
      | with_reducible assumption | with_reducible refine State.streamAnswer_inv ?_
      | with_reducible refine State.hartAnswer_inv ?_ | with_reducible refine State.poolAnswer_inv ?_
      | with_reducible refine State.poolLost_inv ?_ | split

theorem State.dropRequest_inv {s : State} {tag : Nat} {r : OutReq} (hs : Inv s) : Inv (State.dropRequest s tag r) := by
  unfold State.dropRequest
  try dsimp only
  repeat'
    first
      | with_reducible assumption | (simp only [inv_mk]; refine inv_parts ?_)

theorem State.sendHeld_inv {s : State} {p : Packet} (hs : Inv s) : Inv (State.sendHeld s p) := by
  unfold State.sendHeld
  try dsimp only
  repeat'
    first
      | with_reducible assumption | with_reducible refine State.forwardPacket_inv ?_
      | with_reducible refine State.dropRequest_inv ?_ | with_reducible refine State.answerWaiter_inv ?_
      | with_reducible refine inv_of_some (by assumption) ?_ | split

theorem State.releaseHeld_inv {s : State} {dst : Nat} {z0 : Nat} (hs : Inv s) : Inv (State.releaseHeld s dst z0) := by
  induction z0 generalizing s with
  | zero => exact hs
  | succ k ih =>
    unfold State.releaseHeld
    try dsimp only
    repeat'
      first
        | with_reducible refine ih ?_ | with_reducible assumption | with_reducible refine State.sendHeld_inv ?_
        | refine forEach_inv (fun _ _ _ => ?_) ?_ | (simp only [inv_mk]; refine inv_parts ?_) | split

theorem State.closeRequest_inv {s : State} {tag : Nat} {r : OutReq} {code : Nat} {data : List Byte} (hs : Inv s) :
    Inv (State.closeRequest s tag r code data) := by
  unfold State.closeRequest
  try dsimp only
  repeat'
    first
      | with_reducible assumption | with_reducible refine State.dropRequest_inv ?_
      | with_reducible refine State.answerWaiter_inv ?_ | with_reducible refine State.releaseHeld_inv ?_

theorem State.serveResponse_inv {s : State} {p : Packet} (hs : Inv s) : Inv (State.serveResponse s p) := by
  unfold State.serveResponse
  try dsimp only
  repeat'
    first
      | with_reducible assumption | with_reducible refine State.closeRequest_inv ?_
      | with_reducible refine State.gatherLong_inv ?_ | with_reducible refine inv_snd (by assumption) ?_ | split

theorem State.requestTimeout_inv {s : State} {tag : Nat} (hs : Inv s) : Inv (State.requestTimeout s tag) := by
  unfold State.requestTimeout
  try dsimp only
  repeat'
    first
      | with_reducible assumption | with_reducible refine State.closeRequest_inv ?_ | split

theorem State.digestPacket_inv {s : State} {k : Nat} (hs : Inv s) : Inv (State.digestPacket s k) := by
  refine State.packetOf_inv hs (fun p s h => ?_)
  exact inv_getD (State.digestArrive_inv h) h

theorem State.belayHoldTimeout_inv {s : State} (hs : Inv s) : Inv (State.belayHoldTimeout s) := by
  unfold State.belayHoldTimeout
  try dsimp only
  repeat'
    first
      | with_reducible assumption | with_reducible refine State.devEvent_inv ?_ | with_reducible refine inv_ite ?_ ?_
      | (simp only [inv_mk]; refine inv_parts ?_) | split

theorem State.routeWrite_inv {s : State} {src : Nat} {dst : Nat} {alt : Bool} {v : Nat} (hs : Inv s) :
    Inv (State.routeWrite s src dst alt v) := by
  unfold State.routeWrite
  try dsimp only
  repeat'
    first
      | with_reducible assumption | with_reducible refine State.writeReg_inv ?_ | with_reducible refine State.retryBelays_inv ?_
      | with_reducible refine inv_ite ?_ ?_

theorem State.yalClrCnt_inv {s : State} {src : Nat} (hs : Inv s) : Inv (State.yalClrCnt s src) := by
  unfold State.yalClrCnt
  try dsimp only
  repeat'
    first
      | with_reducible assumption | with_reducible refine State.setReg_inv ?_ | with_reducible refine State.setFld_inv ?_
      | refine forEach_inv (fun _ _ _ => ?_) ?_ | with_reducible refine inv_ite ?_ ?_

theorem State.cairnBody_inv {s : State} {p : Nat} {t : Nat} {x : Tile} (hs : Inv s) : Inv (State.cairnBody s p t x).2 := by
  unfold State.cairnBody
  try dsimp only
  repeat' (first | with_reducible assumption | with_reducible refine State.draw_inv ?_)

theorem State.abandonSave_inv {s : State} {t : Nat} {k : Task} {j : Job} {va : Nat} {e : VFault} (hs : Inv s) :
    Inv (State.abandonSave s t k j va e) := by
  unfold State.abandonSave
  try dsimp only
  repeat'
    first
      | with_reducible assumption | with_reducible refine State.mmuFault_inv ?_ | with_reducible refine State.setFld_inv ?_
      | with_reducible refine State.modTile_inv ?_ | with_reducible refine State.jobEvent_inv ?_
      | with_reducible refine State.unpark_inv ?_ | with_reducible refine inv_ite ?_ ?_ | split

theorem State.beginDrain_inv {s : State} {t : Nat} (hs : Inv s) : Inv (State.beginDrain s t) := by
  unfold State.beginDrain
  try dsimp only
  repeat'
    first
      | with_reducible assumption | with_reducible refine State.drainTile_inv ?_ | with_reducible refine State.modTile_inv ?_

theorem State.beginSave_inv {s : State} {t : Nat} {k : Task} {j : Job} (hs : Inv s) : Inv (State.beginSave s t k j) := by
  unfold State.beginSave
  try dsimp only
  repeat'
    first
      | with_reducible assumption | with_reducible refine State.modTile_inv ?_ | with_reducible refine State.put_inv ?_
      | with_reducible refine State.abandonSave_inv ?_ | with_reducible refine inv_snd (by assumption) ?_
      | with_reducible refine inv_fst (by assumption) ?_ | with_reducible refine inv_ite ?_ ?_ | split

theorem State.preempt_inv {s : State} {t : Nat} (hs : Inv s) : Inv (State.preempt s t) := by
  unfold State.preempt
  try dsimp only
  repeat'
    first
      | with_reducible assumption | with_reducible refine State.beginDrain_inv ?_ | with_reducible refine State.beginSave_inv ?_
      | with_reducible refine inv_ite ?_ ?_ | split

theorem State.endStopped_inv {s : State} {t : Nat} (hs : Inv s) : Inv (State.endStopped s t) := by
  unfold State.endStopped
  try dsimp only
  repeat'
    first
      | with_reducible assumption | with_reducible refine State.modTile_inv ?_ | with_reducible refine State.unpark_inv ?_
      | with_reducible refine State.endTask_inv ?_

theorem State.keepCairn_inv {s : State} {t : Nat} {d : Nat} {p : Nat} {x : Tile} {k : Task} (hs : Inv s) :
    Inv (State.keepCairn s t d p x k) := by
  unfold State.keepCairn
  try dsimp only
  repeat'
    first
      | with_reducible assumption | with_reducible refine State.put_inv ?_ | with_reducible refine State.setTile_inv ?_
      | with_reducible refine State.incSat_inv ?_ | with_reducible refine State.setFld_inv ?_
      | with_reducible refine State.setReg_inv ?_ | with_reducible refine inv_snd (by assumption) ?_
      | with_reducible refine inv_fst (by assumption) ?_ | with_reducible refine inv_ite ?_ ?_
      | (simp only [inv_mk]; refine inv_parts ?_)

theorem State.writeCairn_inv {s : State} {t : Nat} {d : Nat} {x : Tile} {k : Task} {j : Job} {body : List Byte} (hs : Inv s) :
    Inv (State.writeCairn s t d x k j body) := by
  unfold State.writeCairn
  try dsimp only
  repeat'
    first
      | with_reducible assumption | with_reducible refine State.put_inv ?_ | with_reducible refine State.abandonSave_inv ?_
      | with_reducible refine State.keepCairn_inv ?_ | with_reducible refine inv_snd (by assumption) ?_ | split

theorem State.saveDone_inv {s : State} {t : Nat} (hs : Inv s) : Inv (State.saveDone s t) := by
  unfold State.saveDone
  try dsimp only
  repeat'
    first
      | with_reducible assumption | with_reducible refine State.endStopped_inv ?_ | with_reducible refine State.cairnBody_inv ?_
      | with_reducible refine State.writeCairn_inv ?_ | with_reducible refine inv_snd (by assumption) ?_
      | with_reducible refine inv_fst (by assumption) ?_ | with_reducible refine inv_ite ?_ ?_ | split

theorem State.cairnLost_inv {s : State} {t : Nat} {d : Nat} (hs : Inv s) : Inv (State.cairnLost s t d) := by
  unfold State.cairnLost
  try dsimp only
  repeat'
    first
      | with_reducible assumption | with_reducible refine State.dropSaved_inv ?_ | with_reducible refine State.modTile_inv ?_
      | with_reducible refine State.tileFault_inv ?_ | with_reducible refine State.endTask_inv ?_

theorem State.restoreHead_inv {s : State} {t : Nat} (hs : Inv s) : Inv (State.restoreHead s t) := by
  unfold State.restoreHead
  try dsimp only
  repeat'
    first
      | with_reducible assumption | with_reducible refine State.setTile_inv ?_ | with_reducible refine State.clearTaskRegs_inv ?_
      | with_reducible refine State.vRead_inv ?_ | with_reducible refine State.mmuFault_inv ?_
      | with_reducible refine State.cairnLost_inv ?_ | with_reducible refine inv_snd (by assumption) ?_ | split

theorem State.loadCairn_inv {s : State} {t : Nat} {d : Nat} {k : Task} {j : Job} {c : Cairn} {bs : List Byte} (hs : Inv s) :
    Inv (State.loadCairn s t d k j c bs) := by
  unfold State.loadCairn
  try dsimp only
  repeat'
    first
      | with_reducible assumption | with_reducible refine State.pokeTile_inv ?_ | with_reducible refine State.setTaskReg_inv ?_
      | with_reducible refine State.takeCairn_inv ?_ | with_reducible refine State.setTile_inv ?_
      | with_reducible refine State.notePlace_inv ?_ | with_reducible refine State.unpark_inv ?_
      | refine forEach_inv (fun _ _ _ => ?_) ?_ | refine foldl_inv (fun _ _ _ => ?_) ?_
      | refine foldl_inv_fst (fun _ _ _ => ?_) ?_

theorem State.restoreDone_inv {s : State} {t : Nat} (hs : Inv s) : Inv (State.restoreDone s t) := by
  unfold State.restoreDone
  try dsimp only
  repeat'
    first
      | with_reducible assumption | with_reducible refine State.dropSaved_inv ?_ | with_reducible refine State.endStopped_inv ?_
      | with_reducible refine XspCmd.program_inv ?_ ?_ | with_reducible refine State.loadImage_inv ?_
      | with_reducible refine State.vRead_inv ?_ | with_reducible refine State.loadCairn_inv ?_
      | with_reducible refine State.cairnLost_inv ?_ | with_reducible refine inv_both_fst (by assumption) ?_
      | with_reducible refine inv_both_snd (by assumption) ?_ | with_reducible refine inv_snd (by assumption) ?_
      | with_reducible refine inv_fst (by assumption) ?_ | with_reducible refine inv_both_fst (by assumption) ?_
      | with_reducible refine inv_both_snd (by assumption) ?_ | with_reducible refine inv_ite ?_ ?_ | split

theorem State.hartStart_inv {s : State} {src : Nat} {h : Nat} (hs : Inv s) : Inv (State.hartStart s src h) := by
  unfold State.hartStart
  try dsimp only
  repeat'
    first
      | with_reducible assumption | with_reducible refine State.put_inv ?_ | with_reducible refine State.setFld_inv ?_
      | with_reducible refine inv_snd (by assumption) ?_ | with_reducible refine inv_fst (by assumption) ?_
      | with_reducible refine inv_ite ?_ ?_ | (simp only [inv_mk]; refine inv_parts ?_)

theorem State.hartReset_inv {s : State} {src : Nat} {h : Nat} (hs : Inv s) : Inv (State.hartReset s src h) := by
  unfold State.hartReset
  try dsimp only
  repeat'
    first
      | with_reducible assumption | with_reducible refine State.setFld_inv ?_ | with_reducible refine inv_ite ?_ ?_
      | (simp only [inv_mk]; refine inv_parts ?_)

theorem State.setipnum_inv {s : State} {p : Nat} {h : Nat} {f : Nat} {v : Nat} (hs : Inv s) :
    Inv (State.setipnum s p h f v) := by
  unfold State.setipnum
  try dsimp only
  repeat'
    first
      | with_reducible assumption | with_reducible refine State.msiHart_inv ?_ | with_reducible refine MsiResult.done_inv ?_
      | with_reducible refine inv_snd (by assumption) ?_ | with_reducible refine inv_fst (by assumption) ?_
      | with_reducible refine inv_ite ?_ ?_

theorem State.setAplic_inv {s : State} {o : Nat} {v : Nat} (hs : Inv s) : Inv (State.setAplic s o v) := by
  unfold State.setAplic
  try dsimp only
  repeat' (first | with_reducible assumption | with_reducible refine State.setRegAt_inv ?_)

theorem State.aplicBit_inv {s : State} {o : Nat} {i : Nat} {b : Bool} (hs : Inv s) : Inv (State.aplicBit s o i b) := by
  unfold State.aplicBit
  try dsimp only
  repeat' (first | with_reducible assumption | with_reducible refine State.setAplic_inv ?_)

theorem State.aplicDeliver_inv {s : State} (hs : Inv s) : Inv (State.aplicDeliver s) := by
  unfold State.aplicDeliver
  try dsimp only
  repeat'
    first
      | with_reducible assumption | with_reducible refine State.aplicBit_inv ?_ | with_reducible refine State.msiHart_inv ?_
      | with_reducible refine MsiResult.done_inv ?_ | refine forEach_inv (fun _ _ _ => ?_) ?_
      | with_reducible refine inv_snd (by assumption) ?_ | with_reducible refine inv_fst (by assumption) ?_
      | with_reducible refine inv_ite ?_ ?_

theorem State.aplicPend_inv {s : State} {i : Nat} (hs : Inv s) : Inv (State.aplicPend s i) := by
  unfold State.aplicPend
  try dsimp only
  repeat'
    first
      | with_reducible assumption | with_reducible refine State.aplicBit_inv ?_ | with_reducible refine inv_ite ?_ ?_

theorem State.aplicEnable_inv {s : State} {i : Nat} {on : Bool} (hs : Inv s) : Inv (State.aplicEnable s i on) := by
  unfold State.aplicEnable
  try dsimp only
  repeat'
    first
      | with_reducible assumption | with_reducible refine State.aplicBit_inv ?_ | with_reducible refine inv_ite ?_ ?_

theorem State.aplicClear_inv {s : State} {i : Nat} (hs : Inv s) : Inv (State.aplicClear s i) := by
  unfold State.aplicClear
  try dsimp only
  repeat'
    first
      | with_reducible assumption | with_reducible refine State.aplicBit_inv ?_ | with_reducible refine inv_ite ?_ ?_

theorem State.aplicSource_inv {s : State} {i : Nat} {v : Nat} (hs : Inv s) : Inv (State.aplicSource s i v) := by
  unfold State.aplicSource
  try dsimp only
  repeat'
    first
      | with_reducible assumption | with_reducible refine State.setAplic_inv ?_ | with_reducible refine State.aplicBit_inv ?_
      | with_reducible refine State.draw_inv ?_ | with_reducible refine inv_snd (by assumption) ?_
      | with_reducible refine inv_fst (by assumption) ?_ | with_reducible refine inv_ite ?_ ?_

theorem State.aplicWrite_inv {s : State} {o : Nat} {v : Nat} (hs : Inv s) : Inv (State.aplicWrite s o v) := by
  unfold State.aplicWrite
  try dsimp only
  repeat'
    first
      | with_reducible assumption | with_reducible refine State.setAplic_inv ?_ | with_reducible refine State.aplicSource_inv ?_
      | with_reducible refine State.aplicPend_inv ?_ | with_reducible refine State.aplicClear_inv ?_
      | with_reducible refine State.aplicEnable_inv ?_ | with_reducible refine State.msiHart_inv ?_
      | with_reducible refine MsiResult.done_inv ?_ | with_reducible refine State.aplicDeliver_inv ?_
      | refine forEach_inv (fun _ _ _ => ?_) ?_ | with_reducible refine inv_snd (by assumption) ?_
      | with_reducible refine inv_fst (by assumption) ?_ | with_reducible refine inv_ite ?_ ?_

theorem State.aplicWire_inv {s : State} {i : Nat} {level : Bool} (hs : Inv s) : Inv (State.aplicWire s i level) := by
  unfold State.aplicWire
  try dsimp only
  repeat'
    first
      | with_reducible assumption | with_reducible refine State.aplicBit_inv ?_ | with_reducible refine State.aplicDeliver_inv ?_
      | with_reducible refine inv_ite ?_ ?_ | (simp only [inv_mk]; refine inv_parts ?_)

theorem State.aplicPulse_inv {s : State} {i : Nat} (hs : Inv s) : Inv (State.aplicPulse s i) := by
  unfold State.aplicPulse
  try dsimp only
  repeat'
    first
      | with_reducible assumption | with_reducible refine State.aplicWire_inv ?_

theorem State.ethLink_inv {s : State} {n : Nat} {up : Bool} (hs : Inv s) : Inv (State.ethLink s n up) := by
  unfold State.ethLink
  try dsimp only
  repeat'
    first
      | with_reducible assumption | with_reducible refine State.setFld_inv ?_ | with_reducible refine State.devEvent_inv ?_
      | with_reducible refine State.aplicPulse_inv ?_ | with_reducible refine State.rcvCheck_inv ?_
      | with_reducible refine inv_ite ?_ ?_

theorem State.pcieLink_inv {s : State} {up : Bool} {rate : Nat} {width : Nat} (hs : Inv s) :
    Inv (State.pcieLink s up rate width) := by
  unfold State.pcieLink
  try dsimp only
  repeat'
    first
      | with_reducible assumption | with_reducible refine State.setFld_inv ?_ | with_reducible refine State.devEvent_inv ?_
      | with_reducible refine State.aplicPulse_inv ?_

theorem State.retireEth_inv {s : State} {l : Nat} {cause : Nat} (hs : Inv s) : Inv (State.retireEth s l cause) := by
  unfold State.retireEth
  try dsimp only
  repeat'
    first
      | with_reducible assumption | with_reducible refine State.markRetired_inv ?_ | with_reducible refine State.devEvent_inv ?_
      | with_reducible refine State.ethLink_inv ?_ | refine forEach_inv (fun _ _ _ => ?_) ?_ | with_reducible refine inv_ite ?_ ?_

theorem State.holdQueued_inv {s : State} {near : Nat → Bool} (hs : Inv s) : Inv (State.holdQueued s near) := by
  unfold State.holdQueued
  try dsimp only
  repeat'
    first
      | with_reducible assumption | with_reducible refine inv_ite ?_ ?_ | (simp only [inv_mk]; refine inv_parts ?_)

theorem State.retire_inv {s : State} {k : Nat} {i : Nat} {cause : Nat} (hs : Inv s) : Inv (State.retire s k i cause) := by
  unfold State.retire
  try dsimp only
  repeat'
    first
      | with_reducible assumption | with_reducible refine State.retireTile_inv ?_ | with_reducible refine State.retireLd_inv ?_
      | with_reducible refine State.retirePolar_inv ?_ | with_reducible refine State.retireEnc_inv ?_
      | with_reducible refine State.retirePra_inv ?_ | with_reducible refine State.retirePch_inv ?_
      | with_reducible refine State.retireLane_inv ?_ | with_reducible refine State.retireEth_inv ?_
      | with_reducible refine inv_ite ?_ ?_ | split

theorem State.retireByCommand_inv {s : State} {src : Nat} {k : Nat} {i : Nat} (hs : Inv s) :
    Inv (State.retireByCommand s src k i) := by
  unfold State.retireByCommand
  try dsimp only
  repeat'
    first
      | with_reducible assumption | with_reducible refine State.setFld_inv ?_ | with_reducible refine State.holdQueued_inv ?_
      | with_reducible refine State.retire_inv ?_ | with_reducible refine inv_ite ?_ ?_
      | (simp only [inv_mk]; refine inv_parts ?_) | split | (intros; assumption)

theorem State.copyDone_inv {s : State} {c : Nat} {bad : List (BitVec 12)} (hs : Inv s) : Inv (State.copyDone s c bad) := by
  unfold State.copyDone
  try dsimp only
  repeat'
    first
      | with_reducible assumption | with_reducible refine State.devEvent_inv ?_ | refine forEach_inv (fun _ _ _ => ?_) ?_
      | (simp only [inv_mk]; refine inv_parts ?_) | split

theorem State.moveToSpare_inv {s : State} {n : Nat} (hs : Inv s) : Inv (State.moveToSpare s n) := by
  unfold State.moveToSpare
  dsimp only
  refine State.restoreHead_inv (State.startHead_inv (State.setTmap_inv (State.setSpare_inv ?_)))
  refine inv_mk.2 (inv_parts (State.setTile_inv (State.clearMem_inv (forEach_inv (fun _ _ h => State.setReg_inv (State.setReg_inv h)) ?_))))
  have p := inv_parts hs
  exact inv_mk.2 ⟨p.1, p.2.1, Table.wf_keep _ _ _ p.2.2.1, p.2.2.2⟩

theorem State.goOffline_inv {s : State} {n : Nat} (hs : Inv s) : Inv (State.goOffline s n) := by
  unfold State.goOffline
  try dsimp only
  repeat'
    first
      | with_reducible assumption | with_reducible refine State.clearSpare_inv ?_ | with_reducible refine State.setTmap_inv ?_
      | with_reducible refine State.devEvent_inv ?_ | with_reducible refine inv_ite ?_ ?_

theorem State.tileMove_inv {s : State} {n : Nat} (hs : Inv s) : Inv (State.tileMove s n) := by
  unfold State.tileMove
  try dsimp only
  repeat'
    first
      | with_reducible assumption | with_reducible refine State.goOffline_inv ?_ | with_reducible refine State.moveToSpare_inv ?_
      | with_reducible refine inv_ite ?_ ?_

theorem State.leak_inv {s : State} {k : Nat} (hs : Inv s) : Inv (State.leak s k) := by
  unfold State.leak
  dsimp only
  refine inv_ite hs ?_
  have p := inv_parts hs
  refine inv_mk.2 ⟨p.1, p.2.1, p.2.2.1, ?_, p.2.2.2.2⟩
  have h : keysRise none s.bbx.levels.rows = true ∧ noDefault (fun _ => 0) s.bbx.levels.rows = true := by
    simpa [Table.wf] using p.2.2.2.1
  have key : ∀ (r q : Nat × Nat), (if r.1 / 256 ≠ k then some r else if r.2 ≤ 1 then none else some (r.1, r.2 - 1)) = some q →
      q.1 = r.1 ∧ (r.2 ≠ 0 → q.2 ≠ 0) := by
    intro r q e
    split at e
    · obtain rfl := Option.some.inj e; exact ⟨rfl, id⟩
    · split at e
      · exact nomatch e
      · obtain rfl := Option.some.inj e; exact ⟨rfl, fun _ => by dsimp only; omega⟩
  rw [Table.wf, Bool.and_eq_true]
  exact ⟨keysRise_filterMap_none _ (fun r q e => (key r q e).1) h.1, noDefault_filterMap _ _ _ (fun r q n e => (key r q e).2 n) h.2⟩

theorem State.bankFull_inv {s : State} (hs : Inv s) : Inv (State.bankFull s) := by
  unfold State.bankFull
  try dsimp only
  repeat'
    first
      | with_reducible assumption | with_reducible refine State.openBank_inv ?_ | with_reducible refine inv_ite ?_ ?_

theorem State.softwareRecord_inv {s : State} {src : Nat} {ev : Nat} (hs : Inv s) : Inv (State.softwareRecord s src ev) := by
  unfold State.softwareRecord
  try dsimp only
  repeat'
    first
      | with_reducible assumption | with_reducible refine State.setFld_inv ?_ | with_reducible refine State.devEvent_inv ?_
      | with_reducible refine inv_ite ?_ ?_

theorem execBucketLeak_inv {k : Fin 8} {s : State} (hs : Inv s) : InvNext (execBucketLeak k s) := by
  unfold execBucketLeak
  try dsimp only
  repeat'
    first
      | with_reducible assumption | with_reducible refine State.leak_inv ?_ | exact invNext_refused
      | with_reducible refine invNext_next ?_

theorem execSpareCopyDone_inv {c : SpareCopy} {s : State} (hs : Inv s) : InvNext (execSpareCopyDone c s) := by
  unfold execSpareCopyDone
  try dsimp only
  repeat'
    first
      | with_reducible assumption | with_reducible refine State.copyDone_inv ?_ | with_reducible refine invNext_next ?_

theorem execTileMove_inv {t : TileIx} {s : State} (hs : Inv s) : InvNext (execTileMove t s) := by
  unfold execTileMove
  try dsimp only
  repeat'
    first
      | with_reducible assumption | with_reducible refine State.tileMove_inv ?_ | exact invNext_refused
      | with_reducible refine invNext_next ?_

theorem execBbxRetire_inv {src : PtnIx} {kind : Fin 8} {index : BitVec 8} {s : State} (hs : Inv s) :
    InvNext (execBbxRetire src kind index s) := by
  unfold execBbxRetire
  try dsimp only
  repeat'
    first
      | with_reducible assumption | with_reducible refine State.retireByCommand_inv ?_ | exact invNext_refused
      | with_reducible refine invNext_next ?_

theorem State.bktWrite_inv {s : State} {src : Nat} {k : Nat} {v : Nat} (hs : Inv s) : Inv (State.bktWrite s src k v) := by
  unfold State.bktWrite
  try dsimp only
  repeat'
    first
      | with_reducible assumption | with_reducible refine State.put_inv ?_ | with_reducible refine State.writeReg_inv ?_
      | with_reducible refine inv_snd (by assumption) ?_ | with_reducible refine inv_ite ?_ ?_
      | (simp only [inv_mk]; refine inv_parts ?_)

theorem execBktWrite_inv {src : PtnIx} {k : Fin 8} {value : Word} {s : State} (hs : Inv s) :
    InvNext (execBktWrite src k value s) := by
  unfold execBktWrite
  try dsimp only
  repeat'
    first
      | with_reducible assumption | with_reducible refine State.bktWrite_inv ?_ | exact invNext_refused
      | with_reducible refine invNext_next ?_

theorem execPageProgramDone_inv {s : State} (hs : Inv s) : InvNext (execPageProgramDone s) := by
  unfold execPageProgramDone
  try dsimp only
  repeat'
    first
      | with_reducible assumption | with_reducible refine State.writerDone_inv ?_ | exact invNext_refused
      | with_reducible refine invNext_next ?_

theorem execBankOpen_inv {s : State} (hs : Inv s) : InvNext (execBankOpen s) := by
  unfold execBankOpen
  try dsimp only
  repeat'
    first
      | with_reducible assumption | with_reducible refine State.bankFull_inv ?_ | exact invNext_refused
      | with_reducible refine invNext_next ?_

theorem State.bankSwitch_inv {s : State} {src : Nat} (hs : Inv s) : Inv (State.bankSwitch s src) := by
  unfold State.bankSwitch
  try dsimp only
  repeat'
    first
      | with_reducible assumption | with_reducible refine State.openBank_inv ?_ | with_reducible refine inv_ite ?_ ?_

theorem execSwitch_inv {src : PtnIx} {s : State} (hs : Inv s) : InvNext (execSwitch src s) := by
  unfold execSwitch
  try dsimp only
  repeat'
    first
      | with_reducible assumption | with_reducible refine State.bankSwitch_inv ?_ | exact invNext_refused
      | with_reducible refine invNext_next ?_

theorem execSoftwareRecord_inv {src : PtnIx} {event : BitVec 8} {s : State} (hs : Inv s) :
    InvNext (execSoftwareRecord src event s) := by
  unfold execSoftwareRecord
  try dsimp only
  repeat'
    first
      | with_reducible assumption | with_reducible refine State.softwareRecord_inv ?_ | exact invNext_refused
      | with_reducible refine invNext_next ?_

theorem State.bbxClrCnt_inv {s : State} {src : Nat} (hs : Inv s) : Inv (State.bbxClrCnt s src) := by
  unfold State.bbxClrCnt
  try dsimp only
  repeat'
    first
      | with_reducible assumption | with_reducible refine State.setReg_inv ?_ | with_reducible refine inv_ite ?_ ?_

theorem execBbxClrCnt_inv {src : PtnIx} {s : State} (hs : Inv s) : InvNext (execBbxClrCnt src s) := by
  unfold execBbxClrCnt
  try dsimp only
  repeat'
    first
      | with_reducible assumption | with_reducible refine State.bbxClrCnt_inv ?_ | exact invNext_refused
      | with_reducible refine invNext_next ?_

end Sys2Proof.Machine
end

