-- ==== Sys2Proof/Laws/InvPower.lean ====
section
/-! SUPPORT. Every definition of power, reset and boot that answers a state keeps the invariant
`Inv` of Safety.lean: one lemma per definition, named after it with the ending _inv. -/
namespace Sys2Proof.Machine

theorem State.sign_inv {s : State} {d : Nat} {digest : List Byte} {z0 : Nat} (hs : Inv s) :
    Inv (State.sign s d digest z0).2 := by
  induction z0 generalizing s with
  | zero => exact hs
  | succ k ih =>
    unfold State.sign
    try dsimp only
    repeat'
      first
        | with_reducible refine ih ?_ | with_reducible assumption | with_reducible refine State.draw_inv ?_
        | with_reducible refine inv_snd (by assumption) ?_ | with_reducible refine inv_fst (by assumption) ?_
        | with_reducible refine inv_ite ?_ ?_ | with_reducible refine inv_ite_snd ?_ ?_ | dsimp only | split

theorem State.writeMirror_inv {s : State} (hs : Inv s) : Inv (State.writeMirror s) := by
  unfold State.writeMirror
  try dsimp only
  repeat'
    first
      | with_reducible assumption | with_reducible refine State.flashErase_inv ?_
      | with_reducible refine State.flashProgram_inv ?_ | with_reducible refine inv_ite ?_ ?_ | split

theorem State.strapLeader_inv {s : State} (hs : Inv s) : Inv (State.strapLeader s) := by
  unfold State.strapLeader
  try dsimp only
  repeat' (first | with_reducible assumption | with_reducible refine State.setFld_inv ?_)

theorem State.cacheCut_inv {s : State} (hs : Inv s) : Inv (State.cacheCut s) := by
  unfold State.cacheCut
  try dsimp only
  repeat'
    first
      | with_reducible assumption | with_reducible refine State.poke_inv ?_ | refine forEach_inv (fun _ _ _ => ?_) ?_ | split

theorem State.deviceReset_inv {s : State} {cause : Nat} {keepHbm : Bool} {up : Bool} (hs : Inv s) :
    Inv (State.deviceReset s cause keepHbm up) := by
  unfold State.deviceReset
  have h0 : Inv (if keepHbm then s else s.cacheCut) := inv_ite hs (State.cacheCut_inv hs)
  have p := inv_parts (State.flashCut_inv (old := s.mirrorOld) h0)
  dsimp only
  generalize State.flashCut _ s.mirrorOld = u at p
  refine forEach_inv (fun _ _ h => State.setFld_inv h) ?_
  refine State.setFld_inv (State.setReg_inv (State.setFld_inv (State.strapLeader_inv (State.setFld_inv ?_))))
  exact inv_mk.2 ⟨Table.wf_keep _ _ _ p.1, p.2.1, Table.wf_keep _ _ _ p.2.2.1, rfl, (by decide : (0 : Nat) < 1000000000), p.2.2.2.2.2⟩

theorem State.setBoot_inv {s : State} {st : Nat} (hs : Inv s) : Inv (State.setBoot s st) := by
  unfold State.setBoot
  try dsimp only
  repeat'
    first
      | with_reducible assumption | with_reducible refine State.setFld_inv ?_ | with_reducible refine inv_ite ?_ ?_
      | (simp only [inv_mk]; refine inv_parts ?_)

theorem State.powerRecord_inv {s : State} (hs : Inv s) : Inv (State.powerRecord s) := by
  unfold State.powerRecord
  try dsimp only
  repeat' (first | with_reducible assumption | with_reducible refine State.poke_inv ?_)

theorem State.leaveReset_inv {s : State} (hs : Inv s) : Inv (State.leaveReset s) := by
  unfold State.leaveReset
  try dsimp only
  repeat'
    first
      | with_reducible assumption | with_reducible refine State.setBoot_inv ?_ | with_reducible refine State.setFld_inv ?_
      | with_reducible refine State.powerRecord_inv ?_ | with_reducible refine inv_ite ?_ ?_
      | (simp only [inv_mk]; refine inv_parts ?_)

theorem State.porstFall_inv {s : State} {supply : Bool} {trip : Bool} {oasis : Bool} {cool : Bool} (hs : Inv s) :
    Inv (State.porstFall s supply trip oasis cool) := by
  unfold State.porstFall
  have h := State.deviceReset_inv (cause := 1 + 2 * b2n supply + 4 * b2n trip) (keepHbm := false) (up := !supply)
    (s := { s with boot := { s.boot with porst := false } }) (inv_mk.2 (inv_parts hs))
  generalize State.deviceReset _ _ _ _ = u at h
  have h2 : Inv { u with power := { u.power with tripLow := u.power.tripLow && !cool }
                         bbx := { u.bbx with leakAt := ⟨(List.range 8).map fun k => (k, u.atu.ticks)⟩ } } := inv_mk.2 (inv_parts h)
  dsimp only
  refine inv_ite h2 ?_
  refine forEach_inv (fun _ _ k => State.poke_inv (State.draw_inv k)) (State.setFld_inv ?_)
  have p := inv_parts h
  exact inv_mk.2 ⟨p.1, p.2.1, Table.wf_keep _ _ _ p.2.2.1, rfl, p.2.2.2.2.1, Nat.two_pow_pos _⟩

theorem State.porstRise_inv {s : State} {grp : Nat} {mode : Nat} (hs : Inv s) : Inv (State.porstRise s grp mode) := by
  unfold State.porstRise
  try dsimp only
  repeat'
    first
      | with_reducible assumption | with_reducible refine State.setFld_inv ?_
      | with_reducible refine State.strapLeader_inv ?_ | with_reducible refine State.leaveReset_inv ?_
      | with_reducible refine inv_ite ?_ ?_ | (simp only [inv_mk]; refine inv_parts ?_)

theorem State.pllLocked_inv {s : State} {mode : Nat} (hs : Inv s) : Inv (State.pllLocked s mode) := by
  unfold State.pllLocked
  try dsimp only
  repeat'
    first
      | with_reducible assumption | with_reducible refine State.leaveReset_inv ?_ | with_reducible refine inv_ite ?_ ?_
      | (simp only [inv_mk]; refine inv_parts ?_)

theorem State.setDom_inv {s : State} {d : Nat} {st : Nat} (hs : Inv s) : Inv (State.setDom s d st) := by
  unfold State.setDom
  try dsimp only
  repeat'
    first
      | with_reducible assumption | with_reducible refine State.setFld_inv ?_ | with_reducible refine State.holdQueued_inv ?_
      | with_reducible refine State.devEvent_inv ?_ | with_reducible refine inv_ite ?_ ?_
      | (simp only [inv_mk]; refine inv_parts ?_) | split | (intros; assumption)

theorem State.domRequest_inv {s : State} {src : Nat} {d : Nat} {on : Bool} (hs : Inv s) :
    Inv (State.domRequest s src d on) := by
  unfold State.domRequest
  try dsimp only
  repeat'
    first
      | with_reducible assumption | with_reducible refine State.setFld_inv ?_ | with_reducible refine State.setDom_inv ?_
      | with_reducible refine inv_ite ?_ ?_ | split

theorem State.loseUnits_inv {s : State} {d : Nat} (hs : Inv s) : Inv (State.loseUnits s d) := by
  unfold State.loseUnits
  dsimp only
  have p := inv_parts hs
  have ha : Inv { s with atu := { ticks := s.atu.ticks } } :=
    inv_mk.2 ⟨p.1, p.2.1, p.2.2.1, p.2.2.2.1, (by decide : (0 : Nat) < 1000000000), p.2.2.2.2.2⟩
  refine inv_ite (inv_mk.2 p) (inv_ite (inv_mk.2 p) (inv_ite ?_ (inv_ite ?_ (inv_ite ?_ (inv_ite (inv_mk.2 p) (inv_ite (inv_mk.2 p)
    (inv_ite (State.strapLeader_inv ha) (inv_ite (inv_mk.2 p) hs))))))))
  · exact forEach_inv (fun _ _ h => inv_ite (State.setFld_inv h) h) (State.setFld_inv hs)
  · exact inv_mk.2 (inv_parts (forEach_inv (fun _ _ h => State.setFld_inv h) hs))
  · exact State.praOff_inv (inv_mk.2 p)

theorem State.loseDomain_inv {s : State} {d : Nat} (hs : Inv s) : Inv (State.loseDomain s d) := by
  unfold State.loseDomain
  have p := inv_parts hs
  have h := State.loseUnits_inv (s := { s with
    regs := s.regs.keep fun a => domainOf a != d || inRetained a
    mem := s.mem.keep fun a => domainOf a != d || isHbm a }) (d := d)
    (inv_mk.2 ⟨Table.wf_keep _ _ _ p.1, p.2.1, Table.wf_keep _ _ _ p.2.2.1, p.2.2.2⟩)
  exact inv_ite (State.rcvCheck_inv h) h

theorem State.enterStop_inv {s : State} {x : StopState} (hs : Inv s) : Inv (State.enterStop s x) := by
  unfold State.enterStop
  try dsimp only
  repeat'
    first
      | with_reducible assumption | with_reducible refine State.setDom_inv ?_ | with_reducible refine State.deviceReset_inv ?_
      | with_reducible refine State.setFld_inv ?_ | refine forEach_inv (fun _ _ _ => ?_) ?_
      | (simp only [inv_mk]; refine inv_parts ?_)

theorem State.stopStep_inv {s : State} (hs : Inv s) : Inv (State.stopStep s) := by
  unfold State.stopStep
  try dsimp only
  repeat'
    first
      | with_reducible assumption | with_reducible refine State.setDom_inv ?_ | with_reducible refine State.enterStop_inv ?_
      | with_reducible refine inv_ite ?_ ?_ | (simp only [inv_mk]; refine inv_parts ?_) | split

theorem State.tryStop_inv {s : State} (hs : Inv s) : Inv (State.tryStop s) := by
  unfold State.tryStop
  try dsimp only
  repeat'
    first
      | with_reducible assumption | with_reducible refine State.stopStep_inv ?_ | with_reducible refine inv_ite ?_ ?_
      | (simp only [inv_mk]; refine inv_parts ?_) | split

theorem State.askStop_inv {s : State} {keep : Bool} {thermal : Bool} (hs : Inv s) : Inv (State.askStop s keep thermal) := by
  unfold State.askStop
  try dsimp only
  repeat'
    first
      | with_reducible assumption | with_reducible refine State.tryStop_inv ?_ | with_reducible refine inv_ite ?_ ?_
      | (simp only [inv_mk]; refine inv_parts ?_) | split

theorem State.stopWrite_inv {s : State} {src : Nat} {keep : Bool} (hs : Inv s) : Inv (State.stopWrite s src keep) := by
  unfold State.stopWrite
  try dsimp only
  repeat'
    first
      | with_reducible assumption | with_reducible refine State.setFld_inv ?_ | with_reducible refine State.askStop_inv ?_
      | with_reducible refine inv_ite ?_ ?_

theorem State.wake_inv {s : State} {x : StopState} {cool : Bool} (hs : Inv s) : Inv (State.wake s x cool) := by
  unfold State.wake
  try dsimp only
  repeat'
    first
      | with_reducible assumption | with_reducible refine State.devEvent_inv ?_ | with_reducible refine State.deviceReset_inv ?_
      | (simp only [inv_mk]; refine inv_parts ?_)

theorem State.rtcAlarm_inv {s : State} {temp : Int} {cool : Bool} (hs : Inv s) : Inv (State.rtcAlarm s temp cool) := by
  unfold State.rtcAlarm
  try dsimp only
  repeat'
    first
      | with_reducible assumption | with_reducible refine State.wake_inv ?_ | with_reducible refine inv_ite ?_ ?_
      | (simp only [inv_mk]; refine inv_parts ?_) | split

theorem State.coolWake_inv {s : State} {temp : Int} {cool : Bool} (hs : Inv s) : Inv (State.coolWake s temp cool) := by
  unfold State.coolWake
  try dsimp only
  repeat'
    first
      | with_reducible assumption | with_reducible refine State.wake_inv ?_ | with_reducible refine inv_ite ?_ ?_ | split

theorem State.transitionEnded_inv {s : State} (hs : Inv s) : Inv (State.transitionEnded s) := by
  unfold State.transitionEnded
  try dsimp only
  repeat'
    first
      | with_reducible assumption | with_reducible refine State.stopStep_inv ?_ | with_reducible refine State.tryStop_inv ?_

theorem State.drainDone_inv {s : State} {d : Nat} (hs : Inv s) : Inv (State.drainDone s d) := by
  unfold State.drainDone
  try dsimp only
  repeat'
    first
      | with_reducible assumption | with_reducible refine State.setDom_inv ?_ | with_reducible refine State.setFld_inv ?_
      | with_reducible refine inv_ite ?_ ?_

theorem State.isolateDone_inv {s : State} {d : Nat} (hs : Inv s) : Inv (State.isolateDone s d) := by
  unfold State.isolateDone
  try dsimp only
  repeat'
    first
      | with_reducible assumption | with_reducible refine State.loseDomain_inv ?_ | with_reducible refine State.setDom_inv ?_
      | with_reducible refine State.setFld_inv ?_ | with_reducible refine State.transitionEnded_inv ?_
      | with_reducible refine inv_ite ?_ ?_

theorem State.rampDone_inv {s : State} {d : Nat} (hs : Inv s) : Inv (State.rampDone s d) := by
  unfold State.rampDone
  try dsimp only
  repeat'
    first
      | with_reducible assumption | with_reducible refine State.setDom_inv ?_ | with_reducible refine inv_ite ?_ ?_

theorem State.restoreDoneDom_inv {s : State} {d : Nat} (hs : Inv s) : Inv (State.restoreDoneDom s d) := by
  unfold State.restoreDoneDom
  try dsimp only
  repeat'
    first
      | with_reducible assumption | with_reducible refine State.setDom_inv ?_ | with_reducible refine State.setFld_inv ?_
      | with_reducible refine State.transitionEnded_inv ?_ | with_reducible refine inv_ite ?_ ?_

theorem State.setPowerFloor_inv {s : State} {c : Nat} {v : Nat} (hs : Inv s) : Inv (State.setPowerFloor s c v) := by
  unfold State.setPowerFloor
  try dsimp only
  repeat' (first | with_reducible assumption | with_reducible refine State.setFld_inv ?_)

theorem State.setStep_inv {s : State} {c : Nat} {x : OpStep} (hs : Inv s) : Inv (State.setStep s c x) := by
  unfold State.setStep
  try dsimp only
  repeat'
    first
      | with_reducible assumption | with_reducible refine State.put_inv ?_ | with_reducible refine inv_snd (by assumption) ?_
      | with_reducible refine inv_fst (by assumption) ?_ | with_reducible refine inv_ite ?_ ?_
      | (simp only [inv_mk]; refine inv_parts ?_)

theorem State.retarget_inv {s : State} {c : Nat} (hs : Inv s) : Inv (State.retarget s c) := by
  unfold State.retarget
  try dsimp only
  repeat'
    first
      | with_reducible assumption | with_reducible refine State.setFld_inv ?_ | with_reducible refine State.setStep_inv ?_
      | with_reducible refine inv_ite ?_ ?_ | (simp only [inv_mk]; refine inv_parts ?_) | split

theorem State.retargetAll_inv {s : State} (hs : Inv s) : Inv (State.retargetAll s) := by
  unfold State.retargetAll
  try dsimp only
  repeat'
    first
      | with_reducible assumption | with_reducible refine State.retarget_inv ?_ | refine forEach_inv (fun _ _ _ => ?_) ?_

theorem State.opDone_inv {s : State} {c : Nat} {x : OpStep} (hs : Inv s) : Inv (State.opDone s c x) := by
  unfold State.opDone
  try dsimp only
  repeat'
    first
      | with_reducible assumption | with_reducible refine State.setFld_inv ?_ | with_reducible refine State.devEvent_inv ?_
      | with_reducible refine State.retarget_inv ?_ | with_reducible refine inv_ite ?_ ?_
      | (simp only [inv_mk]; refine inv_parts ?_)

theorem State.opAdvance_inv {s : State} {c : Nat} (hs : Inv s) : Inv (State.opAdvance s c) := by
  unfold State.opAdvance
  try dsimp only
  repeat'
    first
      | with_reducible assumption | with_reducible refine State.settled_inv ?_ | with_reducible refine State.opDone_inv ?_
      | with_reducible refine State.setStep_inv ?_ | with_reducible refine inv_ite ?_ ?_
      | (simp only [inv_mk]; refine inv_parts ?_) | split

theorem State.pllLock_inv {s : State} {c : Nat} (hs : Inv s) : Inv (State.pllLock s c) := by
  unfold State.pllLock
  try dsimp only
  repeat'
    first
      | with_reducible assumption | with_reducible refine State.put_inv ?_ | with_reducible refine State.opAdvance_inv ?_
      | with_reducible refine inv_snd (by assumption) ?_ | with_reducible refine inv_fst (by assumption) ?_
      | with_reducible refine inv_ite ?_ ?_ | (simp only [inv_mk]; refine inv_parts ?_) | split

theorem State.voltageReached_inv {s : State} {c : Nat} (hs : Inv s) : Inv (State.voltageReached s c) := by
  unfold State.voltageReached
  try dsimp only
  repeat'
    first
      | with_reducible assumption | with_reducible refine State.setStep_inv ?_ | with_reducible refine inv_ite ?_ ?_ | split

theorem State.settled_inv {s : State} {c : Nat} (hs : Inv s) : Inv (State.settled s c) := by
  unfold State.settled
  try dsimp only
  repeat'
    first
      | with_reducible assumption | with_reducible refine State.setStep_inv ?_ | with_reducible refine State.opAdvance_inv ?_
      | with_reducible refine inv_ite ?_ ?_ | split

theorem State.opReq_inv {s : State} {src : Nat} {c : Nat} {v : Nat} (hs : Inv s) : Inv (State.opReq s src c v) := by
  unfold State.opReq
  try dsimp only
  repeat'
    first
      | with_reducible assumption | with_reducible refine State.setFld_inv ?_ | with_reducible refine State.retarget_inv ?_
      | with_reducible refine inv_ite ?_ ?_

theorem State.powerEstimate_inv {s : State} {ms : Nat} {us10 : Nat} {est : Nat → Nat} (hs : Inv s) :
    Inv (State.powerEstimate s ms us10 est) := by
  unfold State.powerEstimate
  try dsimp only
  repeat'
    first
      | with_reducible assumption | with_reducible refine State.setFld_inv ?_
      | with_reducible refine State.retargetAll_inv ?_ | with_reducible refine State.setPowerFloor_inv ?_
      | with_reducible refine State.devEvent_inv ?_ | with_reducible refine State.retarget_inv ?_
      | with_reducible refine inv_ite ?_ ?_ | (simp only [inv_mk]; refine inv_parts ?_) | split

theorem State.sagWarn_inv {s : State} {rail : Nat} {mv : Nat} (hs : Inv s) : Inv (State.sagWarn s rail mv) := by
  unfold State.sagWarn
  try dsimp only
  repeat'
    first
      | with_reducible assumption | with_reducible refine State.abandonOpening_inv ?_
      | with_reducible refine State.devEvent_inv ?_ | with_reducible refine State.aplicWire_inv ?_
      | with_reducible refine State.pumpFlash_inv ?_ | with_reducible refine State.retargetAll_inv ?_
      | with_reducible refine inv_ite ?_ ?_ | (simp only [inv_mk]; refine inv_parts ?_)

theorem State.sagClear_inv {s : State} (hs : Inv s) : Inv (State.sagClear s) := by
  unfold State.sagClear
  try dsimp only
  repeat'
    first
      | with_reducible assumption | with_reducible refine State.devEvent_inv ?_ | with_reducible refine State.aplicWire_inv ?_
      | with_reducible refine State.pumpFlash_inv ?_ | with_reducible refine State.retargetAll_inv ?_
      | with_reducible refine inv_ite ?_ ?_ | (simp only [inv_mk]; refine inv_parts ?_)

theorem State.supplyReset_inv {s : State} (hs : Inv s) : Inv (State.supplyReset s) := by
  unfold State.supplyReset
  try dsimp only
  repeat'
    first
      | with_reducible assumption | with_reducible refine State.deviceReset_inv ?_
      | (simp only [inv_mk]; refine inv_parts ?_) | with_reducible refine State.draw_inv ?_

theorem State.supplyRecovered_inv {s : State} (hs : Inv s) : Inv (State.supplyRecovered s) := by
  unfold State.supplyRecovered
  try dsimp only
  repeat'
    first
      | with_reducible assumption | with_reducible refine State.leaveReset_inv ?_ | with_reducible refine inv_ite ?_ ?_
      | (simp only [inv_mk]; refine inv_parts ?_)

theorem State.sagWrite_inv {s : State} {src : Nat} {v : Nat} (hs : Inv s) : Inv (State.sagWrite s src v) := by
  unfold State.sagWrite
  try dsimp only
  repeat'
    first
      | with_reducible assumption | with_reducible refine State.setFld_inv ?_ | with_reducible refine inv_ite ?_ ?_

theorem State.thermWarn_inv {s : State} {c : Nat} {sensor : Nat} {temp : Int} (hs : Inv s) :
    Inv (State.thermWarn s c sensor temp) := by
  unfold State.thermWarn
  try dsimp only
  repeat'
    first
      | with_reducible assumption | with_reducible refine State.put_inv ?_ | with_reducible refine State.devEvent_inv ?_
      | with_reducible refine inv_snd (by assumption) ?_ | with_reducible refine inv_fst (by assumption) ?_
      | with_reducible refine inv_ite ?_ ?_ | (simp only [inv_mk]; refine inv_parts ?_)

theorem State.thermalStep_inv {s : State} {c : Nat} {up : Bool} (hs : Inv s) : Inv (State.thermalStep s c up) := by
  unfold State.thermalStep
  try dsimp only
  repeat'
    first
      | with_reducible assumption | with_reducible refine State.retarget_inv ?_ | with_reducible refine State.devEvent_inv ?_
      | with_reducible refine inv_ite ?_ ?_ | (simp only [inv_mk]; refine inv_parts ?_)

theorem State.thermTrip_inv {s : State} {sensor : Nat} {temp : Int} (hs : Inv s) : Inv (State.thermTrip s sensor temp) := by
  unfold State.thermTrip
  try dsimp only
  repeat'
    first
      | with_reducible assumption | with_reducible refine State.devEvent_inv ?_ | with_reducible refine State.askStop_inv ?_
      | with_reducible refine inv_ite ?_ ?_ | (simp only [inv_mk]; refine inv_parts ?_)

theorem State.clockLoss_inv {s : State} {r : Nat} (hs : Inv s) : Inv (State.clockLoss s r) := by
  unfold State.clockLoss
  try dsimp only
  repeat'
    first
      | with_reducible assumption | with_reducible refine State.deviceReset_inv ?_
      | with_reducible refine State.setFld_inv ?_ | with_reducible refine State.devEvent_inv ?_
      | with_reducible refine State.enterHoldover_inv ?_ | with_reducible refine State.ethLink_inv ?_
      | with_reducible refine State.pcieLink_inv ?_ | refine forEach_inv (fun _ _ _ => ?_) ?_
      | with_reducible refine inv_ite ?_ ?_

theorem State.clockReturn_inv {s : State} {r : Nat} (hs : Inv s) : Inv (State.clockReturn s r) := by
  unfold State.clockReturn
  try dsimp only
  repeat'
    first
      | with_reducible assumption | with_reducible refine State.setFld_inv ?_ | with_reducible refine inv_ite ?_ ?_

theorem State.rtcTick_inv {s : State} (hs : Inv s) : Inv (State.rtcTick s) := by
  have p := inv_parts hs
  exact inv_mk.2 ⟨p.1, p.2.1, p.2.2.1, p.2.2.2.1, p.2.2.2.2.1, Nat.mod_lt _ (by decide)⟩

theorem State.rtcLatch_inv {s : State} (hs : Inv s) : Inv (State.rtcLatch s) := by
  unfold State.rtcLatch
  try dsimp only
  repeat' (first | with_reducible assumption | with_reducible refine State.setReg_inv ?_)

theorem State.rtcLoad_inv {s : State} {src : Nat} {hi : Nat} (hs : Inv s) : Inv (State.rtcLoad s src hi) := by
  unfold State.rtcLoad
  refine inv_ite hs ?_
  dsimp only
  have p := inv_parts (State.setReg_inv (r := OAS_RTC_SUB) (v := 0) (i := 0) (j := 0) (State.setReg_inv (r := OAS_RTC_HI) (v := hi % 65536) (i := 0) (j := 0) hs))
  refine inv_mk.2 ⟨p.1, p.2.1, p.2.2.1, p.2.2.2.1, p.2.2.2.2.1, ?_⟩
  have := State.reg_lt ((s.setReg OAS_RTC_HI (hi % 65536)).setReg OAS_RTC_SUB 0) OAS_RTC_LO 0 0
  have := Nat.mod_lt hi (show 0 < 65536 by decide)
  dsimp only
  omega

theorem State.bootFail_inv {s : State} (hs : Inv s) : Inv (State.bootFail s) := by
  unfold State.bootFail
  try dsimp only
  repeat'
    first
      | with_reducible assumption | with_reducible refine State.setFld_inv ?_ | with_reducible refine State.setBoot_inv ?_

theorem State.setWords_inv {s : State} {r : Reg} {i : Nat} {bs : List Byte} {z0 : Nat} (hs : Inv s) :
    Inv (State.setWords s r i bs z0) := by
  induction z0 generalizing s with
  | zero => exact hs
  | succ k ih =>
    unfold State.setWords
    try dsimp only
    repeat'
      first
        | with_reducible refine ih ?_ | with_reducible assumption | with_reducible refine State.setReg_inv ?_

theorem State.setWords1_inv {s : State} {r : Reg} {bs : List Byte} {n : Nat} (hs : Inv s) :
    Inv (State.setWords1 s r bs n) := by
  unfold State.setWords1
  try dsimp only
  repeat'
    first
      | with_reducible assumption | with_reducible refine State.setReg_inv ?_ | refine forEach_inv (fun _ _ _ => ?_) ?_

theorem State.setMeas_inv {s : State} {k : Nat} {d : List Byte} (hs : Inv s) : Inv (State.setMeas s k d) := by
  unfold State.setMeas
  try dsimp only
  repeat'
    first
      | with_reducible assumption | with_reducible refine State.put_inv ?_ | with_reducible refine inv_snd (by assumption) ?_
      | with_reducible refine inv_fst (by assumption) ?_ | with_reducible refine inv_ite ?_ ?_
      | (simp only [inv_mk]; refine inv_parts ?_)

theorem State.bootCal_inv {s : State} (hs : Inv s) : Inv (State.bootCal s) := by
  unfold State.bootCal
  try dsimp only
  repeat'
    first
      | with_reducible assumption | with_reducible refine State.setBoot_inv ?_ | with_reducible refine State.setFld_inv ?_
      | with_reducible refine State.setReg_inv ?_ | with_reducible refine State.setMeas_inv ?_
      | with_reducible refine State.setWords1_inv ?_ | with_reducible refine inv_ite ?_ ?_
      | (simp only [inv_mk]; refine inv_parts ?_) | split

theorem State.writeFloors_inv {s : State} (hs : Inv s) : Inv (State.writeFloors s) := by
  unfold State.writeFloors
  try dsimp only
  repeat' (first | with_reducible assumption | with_reducible refine State.poke_inv ?_)

theorem State.bootFloors_inv {s : State} (hs : Inv s) : Inv (State.bootFloors s) := by
  unfold State.bootFloors
  try dsimp only
  repeat'
    first
      | with_reducible assumption | with_reducible refine State.setReg_inv ?_
      | with_reducible refine State.writeFloors_inv ?_ | with_reducible refine State.writeMirror_inv ?_
      | with_reducible refine State.setFld_inv ?_ | with_reducible refine State.setWords1_inv ?_
      | with_reducible refine State.setBoot_inv ?_ | with_reducible refine inv_ite ?_ ?_
      | (simp only [inv_mk]; refine inv_parts ?_)

theorem State.bootOwner_inv {s : State} (hs : Inv s) : Inv (State.bootOwner s) := by
  unfold State.bootOwner
  try dsimp only
  repeat'
    first
      | with_reducible assumption | with_reducible refine State.bootFail_inv ?_ | with_reducible refine State.setReg_inv ?_
      | with_reducible refine State.setWords1_inv ?_ | with_reducible refine State.setFld_inv ?_
      | with_reducible refine State.setMeas_inv ?_ | with_reducible refine State.setBoot_inv ?_
      | with_reducible refine inv_ite ?_ ?_ | (simp only [inv_mk]; refine inv_parts ?_) | split

theorem State.openNow_inv {s : State} {b : Nat} {seq : Nat} (hs : Inv s) : Inv (State.openNow s b seq) := by
  unfold State.openNow
  try dsimp only
  repeat'
    first
      | with_reducible assumption | with_reducible refine State.flashErase_inv ?_
      | with_reducible refine State.flashProgram_inv ?_ | with_reducible refine State.setCurrent_inv ?_
      | with_reducible refine State.setFld_inv ?_

theorem State.appendNow_inv {s : State} {r : List Byte} (hs : Inv s) : Inv (State.appendNow s r) := by
  unfold State.appendNow
  try dsimp only
  repeat'
    first
      | with_reducible assumption | with_reducible refine State.openNow_inv ?_
      | with_reducible refine State.flashProgram_inv ?_ | with_reducible refine State.setFld_inv ?_
      | with_reducible refine inv_ite ?_ ?_

theorem State.selectBank_inv {s : State} (hs : Inv s) : Inv (State.selectBank s) := by
  unfold State.selectBank
  try dsimp only
  repeat'
    first
      | with_reducible assumption | with_reducible refine State.setCurrent_inv ?_ | with_reducible refine State.setFld_inv ?_
      | with_reducible refine State.openNow_inv ?_ | refine foldl_inv (fun _ _ _ => ?_) ?_
      | refine foldl_inv_fst (fun _ _ _ => ?_) ?_ | refine foldl_inv_snd (fun _ _ _ => ?_) ?_
      | with_reducible refine inv_ite ?_ ?_ | split

theorem State.bootBbx_inv {s : State} (hs : Inv s) : Inv (State.bootBbx s) := by
  unfold State.bootBbx
  refine inv_ite hs ?_
  have h := State.selectBank_inv (State.setReg_inv (r := BBX_BANK1) (v := 0x50000) (i := 0) (j := 0) (State.setReg_inv (r := BBX_BANK0) (v := 0x10000) (i := 0) (j := 0) hs))
  extract_lets u cur torn last ok staged due rseq tail v w x0 x y
  clear_value cur torn last ok staged due rseq tail
  have hv : Inv v := State.incSat_inv h
  clear_value v
  have hw : Inv w := forEach_inv (fun _ _ k => State.appendNow_inv k) hv
  clear_value w
  have hx : Inv x := inv_mk.2 (inv_parts hw)
  clear_value x
  have hy : Inv y := State.syncStage_inv (State.setFld_inv (State.setReg_inv hx))
  clear_value y
  exact State.setBoot_inv (State.devEvent_inv hy)

theorem State.setReason_inv {s : State} {i : Nat} {r : Nat} (hs : Inv s) : Inv (State.setReason s i r) := by
  unfold State.setReason
  try dsimp only
  repeat' (first | with_reducible assumption | with_reducible refine State.setFld_inv ?_)

theorem State.loadSlots_inv {s : State} {z0 : List Nat} (hs : Inv s) : Inv (State.loadSlots s z0).2 := by
  induction z0 generalizing s with
  | nil => exact hs
  | cons b bs ih =>
    unfold State.loadSlots
    try dsimp only
    repeat'
      first
        | with_reducible refine ih ?_ | with_reducible assumption | with_reducible refine State.clearMem_inv ?_
        | with_reducible refine State.poke_inv ?_ | with_reducible refine State.setReason_inv ?_
        | with_reducible refine inv_ite ?_ ?_ | with_reducible refine inv_ite_snd ?_ ?_

theorem State.noteTrial_inv {s : State} {i : Nat} (hs : Inv s) : Inv (State.noteTrial s i) := by
  unfold State.noteTrial
  try dsimp only
  repeat'
    first
      | with_reducible assumption | with_reducible refine State.poke_inv ?_ | with_reducible refine State.setFld_inv ?_

theorem State.bootImage_inv {s : State} {errA : Bool} {errB : Bool} (hs : Inv s) : Inv (State.bootImage s errA errB) := by
  unfold State.bootImage
  try dsimp only
  repeat'
    first
      | with_reducible assumption | with_reducible refine State.setBoot_inv ?_ | with_reducible refine State.setReason_inv ?_
      | with_reducible refine State.loadSlots_inv ?_ | with_reducible refine State.bootFail_inv ?_
      | with_reducible refine State.noteTrial_inv ?_ | with_reducible refine State.setFld_inv ?_
      | with_reducible refine State.setReg_inv ?_ | with_reducible refine State.setMeas_inv ?_
      | with_reducible refine inv_snd (by assumption) ?_ | with_reducible refine inv_fst (by assumption) ?_
      | with_reducible refine inv_ite ?_ ?_ | split

theorem State.addRetired_inv {s : State} {k : Nat} {i : Nat} (hs : Inv s) : Inv (State.addRetired s k i) := by
  unfold State.addRetired
  try dsimp only
  repeat' (first | with_reducible assumption | with_reducible refine State.poke_inv ?_)

theorem State.addRecord_inv {s : State} {r : List Byte} (hs : Inv s) : Inv (State.addRecord s r) := by
  unfold State.addRecord
  try dsimp only
  repeat'
    first
      | with_reducible assumption | with_reducible refine State.addRetired_inv ?_ | with_reducible refine State.poke_inv ?_
      | with_reducible refine inv_ite ?_ ?_

theorem State.joinMap_inv {s : State} {m : List Byte} (hs : Inv s) : Inv (State.joinMap s m) := by
  unfold State.joinMap
  try dsimp only
  repeat'
    first
      | with_reducible assumption | with_reducible refine State.poke_inv ?_ | refine forEach_inv (fun _ _ _ => ?_) ?_
      | with_reducible refine inv_ite ?_ ?_

theorem State.rebuildMap_inv {s : State} (hs : Inv s) : Inv (State.rebuildMap s) := by
  unfold State.rebuildMap
  refine State.sealMap_inv (forEach_inv (fun _ _ h => State.addRecord_inv h) (forEach_inv (fun _ _ h => State.addRecord_inv h) ?_))
  have h : Inv (if mapGood (s.read mapBase 64) then s else s.poke mapBase (List.replicate 64 0#8)) := inv_ite hs (State.poke_inv hs)
  exact inv_ite (State.joinMap_inv h) h

theorem State.rebuildTiles_inv {s : State} {c : Nat} (hs : Inv s) : Inv (State.rebuildTiles s c) := by
  unfold State.rebuildTiles
  try dsimp only
  repeat'
    first
      | with_reducible assumption | with_reducible refine State.setSpare_inv ?_ | with_reducible refine State.setFld_inv ?_
      | refine forEach_inv (fun _ _ _ => ?_) ?_ | with_reducible refine inv_ite ?_ ?_

theorem State.rebuildDecoders_inv {s : State} (hs : Inv s) : Inv (State.rebuildDecoders s) := by
  unfold State.rebuildDecoders
  try dsimp only
  repeat'
    first
      | with_reducible assumption | with_reducible refine State.setFld_inv ?_ | refine forEach_inv (fun _ _ _ => ?_) ?_
      | with_reducible refine inv_ite ?_ ?_ | split

theorem State.rebuildUnits_inv {s : State} (hs : Inv s) : Inv (State.rebuildUnits s) := by
  unfold State.rebuildUnits
  try dsimp only
  repeat'
    first
      | with_reducible assumption | with_reducible refine State.setFld_inv ?_ | refine forEach_inv (fun _ _ _ => ?_) ?_

theorem State.bootRebuild_inv {s : State} (hs : Inv s) : Inv (State.bootRebuild s) := by
  unfold State.bootRebuild
  try dsimp only
  repeat'
    first
      | with_reducible assumption | with_reducible refine State.rebuildTiles_inv ?_
      | with_reducible refine State.rebuildMap_inv ?_ | with_reducible refine State.rebuildDecoders_inv ?_
      | with_reducible refine State.rebuildUnits_inv ?_ | with_reducible refine State.setWords_inv ?_
      | with_reducible refine State.setFld_inv ?_ | with_reducible refine State.setBoot_inv ?_
      | refine forEach_inv (fun _ _ _ => ?_) ?_ | with_reducible refine inv_ite ?_ ?_

theorem State.floorEvent_inv {s : State} (hs : Inv s) : Inv (State.floorEvent s) := by
  unfold State.floorEvent
  try dsimp only
  repeat' (first | with_reducible assumption | with_reducible refine State.devEvent_inv ?_)

theorem State.commitFloors_inv {s : State} {src : Nat} (hs : Inv s) : Inv (State.commitFloors s src) := by
  unfold State.commitFloors
  try dsimp only
  repeat'
    first
      | with_reducible assumption | with_reducible refine State.setReg_inv ?_
      | with_reducible refine State.writeFloors_inv ?_ | with_reducible refine State.floorEvent_inv ?_
      | with_reducible refine State.setFld_inv ?_ | with_reducible refine State.pumpFlash_inv ?_
      | with_reducible refine inv_ite ?_ ?_ | (simp only [inv_mk]; refine inv_parts ?_)

theorem State.commitDone_inv {s : State} (hs : Inv s) : Inv (State.commitDone s) := by
  unfold State.commitDone
  try dsimp only
  repeat'
    first
      | with_reducible assumption | with_reducible refine State.opEnds_inv ?_
      | with_reducible refine State.writeMirror_inv ?_ | with_reducible refine State.setFld_inv ?_
      | with_reducible refine State.floorEvent_inv ?_ | with_reducible refine State.pumpFlash_inv ?_
      | with_reducible refine inv_ite ?_ ?_

theorem State.confirmTrial_inv {s : State} {src : Nat} (hs : Inv s) : Inv (State.confirmTrial s src) := by
  unfold State.confirmTrial
  try dsimp only
  repeat'
    first
      | with_reducible assumption | with_reducible refine State.poke_inv ?_ | with_reducible refine State.setFld_inv ?_
      | with_reducible refine inv_ite ?_ ?_

theorem State.extend_inv {s : State} {src : Nat} {m : Nat} (hs : Inv s) : Inv (State.extend s src m) := by
  unfold State.extend
  try dsimp only
  repeat'
    first
      | with_reducible assumption | with_reducible refine State.setFld_inv ?_ | with_reducible refine State.setWords_inv ?_
      | with_reducible refine inv_ite ?_ ?_

theorem State.secNext_inv {s : State} (hs : Inv s) : Inv (State.secNext s) := by
  unfold State.secNext
  try dsimp only
  repeat'
    first
      | with_reducible assumption | with_reducible refine inv_ite ?_ ?_ | (simp only [inv_mk]; refine inv_parts ?_) | split

theorem State.mailbox_inv {s : State} {src : Nat} {p : Nat} {op : Nat} {n : Nat} (hs : Inv s) :
    Inv (State.mailbox s src p op n) := by
  unfold State.mailbox
  try dsimp only
  repeat'
    first
      | with_reducible assumption | with_reducible refine State.setFld_inv ?_ | with_reducible refine State.put_inv ?_
      | with_reducible refine State.secNext_inv ?_ | with_reducible refine inv_snd (by assumption) ?_
      | with_reducible refine inv_fst (by assumption) ?_ | with_reducible refine inv_ite ?_ ?_
      | (simp only [inv_mk]; refine inv_parts ?_)

theorem State.secEnd_inv {s : State} {c : SecCmd} {err : Nat} (hs : Inv s) : Inv (State.secEnd s c err) := by
  unfold State.secEnd
  try dsimp only
  repeat'
    first
      | with_reducible assumption | with_reducible refine State.setFld_inv ?_ | with_reducible refine State.event_inv ?_
      | with_reducible refine State.secNext_inv ?_ | with_reducible refine inv_ite ?_ ?_
      | (simp only [inv_mk]; refine inv_parts ?_)

theorem State.secDone_inv {s : State} (hs : Inv s) : Inv (State.secDone s) := by
  unfold State.secDone
  try dsimp only
  repeat'
    first
      | with_reducible assumption | with_reducible refine State.setFld_inv ?_ | with_reducible refine State.secEnd_inv ?_
      | with_reducible refine State.setReg_inv ?_ | with_reducible refine State.sign_inv ?_
      | with_reducible refine State.setWords_inv ?_ | refine forEach_inv (fun _ _ _ => ?_) ?_
      | with_reducible refine inv_snd (by assumption) ?_ | with_reducible refine inv_fst (by assumption) ?_
      | with_reducible refine inv_ite ?_ ?_ | split

theorem State.trngFail_inv {s : State} {test : Nat} (hs : Inv s) : Inv (State.trngFail s test) := by
  unfold State.trngFail
  try dsimp only
  repeat'
    first
      | with_reducible assumption | with_reducible refine State.setFld_inv ?_ | with_reducible refine State.devEvent_inv ?_
      | with_reducible refine inv_ite ?_ ?_

theorem State.trngStartup_inv {s : State} {pass : Bool} (hs : Inv s) : Inv (State.trngStartup s pass) := by
  unfold State.trngStartup
  try dsimp only
  repeat'
    first
      | with_reducible assumption | with_reducible refine State.setFld_inv ?_ | with_reducible refine inv_ite ?_ ?_

theorem execBootFlash_inv {s : State} (hs : Inv s) : InvNext (execBootFlash s) := by
  unfold execBootFlash
  try dsimp only
  repeat'
    first
      | with_reducible assumption | with_reducible refine State.setBoot_inv ?_ | exact invNext_refused
      | with_reducible refine invNext_next ?_ | with_reducible refine invNext_ite ?_ ?_ | with_reducible refine inv_ite ?_ ?_

theorem execFlashTimeout_inv {s : State} (hs : Inv s) : InvNext (execFlashTimeout s) := by
  unfold execFlashTimeout
  try dsimp only
  repeat'
    first
      | with_reducible assumption | with_reducible refine State.bootFail_inv ?_ | exact invNext_refused
      | with_reducible refine invNext_next ?_ | with_reducible refine invNext_ite ?_ ?_ | with_reducible refine inv_ite ?_ ?_

theorem execBootCal_inv {s : State} (hs : Inv s) : InvNext (execBootCal s) := by
  unfold execBootCal
  try dsimp only
  repeat'
    first
      | with_reducible assumption | with_reducible refine State.bootCal_inv ?_ | exact invNext_refused
      | with_reducible refine invNext_next ?_

theorem execBootFloors_inv {s : State} (hs : Inv s) : InvNext (execBootFloors s) := by
  unfold execBootFloors
  try dsimp only
  repeat'
    first
      | with_reducible assumption | with_reducible refine State.bootFloors_inv ?_ | exact invNext_refused
      | with_reducible refine invNext_next ?_

theorem execBootOwner_inv {s : State} (hs : Inv s) : InvNext (execBootOwner s) := by
  unfold execBootOwner
  try dsimp only
  repeat'
    first
      | with_reducible assumption | with_reducible refine State.bootOwner_inv ?_ | exact invNext_refused
      | with_reducible refine invNext_next ?_

theorem execBootBbx_inv {s : State} (hs : Inv s) : InvNext (execBootBbx s) := by
  unfold execBootBbx
  try dsimp only
  repeat'
    first
      | with_reducible assumption | with_reducible refine State.bootBbx_inv ?_ | exact invNext_refused
      | with_reducible refine invNext_next ?_

theorem execBootImage_inv {errA : Bool} {errB : Bool} {s : State} (hs : Inv s) : InvNext (execBootImage errA errB s) := by
  unfold execBootImage
  try dsimp only
  repeat'
    first
      | with_reducible assumption | with_reducible refine State.bootImage_inv ?_ | exact invNext_refused
      | with_reducible refine invNext_next ?_

theorem execBootRebuild_inv {s : State} (hs : Inv s) : InvNext (execBootRebuild s) := by
  unfold execBootRebuild
  try dsimp only
  repeat'
    first
      | with_reducible assumption | with_reducible refine State.bootRebuild_inv ?_ | exact invNext_refused
      | with_reducible refine invNext_next ?_

theorem execCommit_inv {src : PtnIx} {s : State} (hs : Inv s) : InvNext (execCommit src s) := by
  unfold execCommit
  try dsimp only
  repeat'
    first
      | with_reducible assumption | with_reducible refine State.commitFloors_inv ?_ | exact invNext_refused
      | with_reducible refine invNext_next ?_

theorem execCommitDone_inv {s : State} (hs : Inv s) : InvNext (execCommitDone s) := by
  unfold execCommitDone
  try dsimp only
  repeat'
    first
      | with_reducible assumption | with_reducible refine State.commitDone_inv ?_ | exact invNext_refused
      | with_reducible refine invNext_next ?_

theorem execConfirm_inv {src : PtnIx} {s : State} (hs : Inv s) : InvNext (execConfirm src s) := by
  unfold execConfirm
  try dsimp only
  repeat'
    first
      | with_reducible assumption | with_reducible refine State.confirmTrial_inv ?_ | exact invNext_refused
      | with_reducible refine invNext_next ?_

theorem execExtend_inv {src : PtnIx} {m : Fin 8} {s : State} (hs : Inv s) : InvNext (execExtend src m s) := by
  unfold execExtend
  try dsimp only
  repeat'
    first
      | with_reducible assumption | with_reducible refine State.extend_inv ?_ | exact invNext_refused
      | with_reducible refine invNext_next ?_

theorem execAttest_inv {src : PtnIx} {p : PtnIx} {n : Fin 32} {s : State} (hs : Inv s) : InvNext (execAttest src p n s) := by
  unfold execAttest
  try dsimp only
  repeat'
    first
      | with_reducible assumption | with_reducible refine State.mailbox_inv ?_ | exact invNext_refused
      | with_reducible refine invNext_next ?_

theorem execVerify_inv {src : PtnIx} {p : PtnIx} {s : State} (hs : Inv s) : InvNext (execVerify src p s) := by
  unfold execVerify
  try dsimp only
  repeat'
    first
      | with_reducible assumption | with_reducible refine State.mailbox_inv ?_ | exact invNext_refused
      | with_reducible refine invNext_next ?_

theorem execDerive_inv {src : PtnIx} {p : PtnIx} {s : State} (hs : Inv s) : InvNext (execDerive src p s) := by
  unfold execDerive
  try dsimp only
  repeat'
    first
      | with_reducible assumption | with_reducible refine State.mailbox_inv ?_ | exact invNext_refused
      | with_reducible refine invNext_next ?_

theorem execSecDone_inv {s : State} (hs : Inv s) : InvNext (execSecDone s) := by
  unfold execSecDone
  try dsimp only
  repeat'
    first
      | with_reducible assumption | with_reducible refine State.secDone_inv ?_ | exact invNext_refused
      | with_reducible refine invNext_next ?_

theorem execTrngFail_inv {test : Fin 2} {s : State} (hs : Inv s) : InvNext (execTrngFail test s) := by
  unfold execTrngFail
  try dsimp only
  repeat'
    first
      | with_reducible assumption | with_reducible refine State.trngFail_inv ?_ | exact invNext_refused
      | with_reducible refine invNext_next ?_

theorem execTrngStartupTest_inv {pass : Bool} {s : State} (hs : Inv s) : InvNext (execTrngStartupTest pass s) := by
  unfold execTrngStartupTest
  try dsimp only
  repeat'
    first
      | with_reducible assumption | with_reducible refine State.trngStartup_inv ?_ | exact invNext_refused
      | with_reducible refine invNext_next ?_

end Sys2Proof.Machine
end

