-- ==== Sys2Proof/Laws/InvCommands.lean ====
section
/-! SUPPORT. Every definition of the commands of the engines, jobs, partitions, power and the link that answers a state keeps the invariant
`Inv` of Safety.lean: one lemma per definition, named after it with the ending _inv. -/
namespace Sys2Proof.Machine

theorem execCodeBlockDispatch_inv {d : Fin 16} {s : State} (hs : Inv s) : InvNext (execCodeBlockDispatch d s) := by
  unfold execCodeBlockDispatch
  try dsimp only
  repeat'
    first
      | with_reducible assumption | with_reducible refine State.dispatchBlock_inv ?_ | exact invNext_refused
      | with_reducible refine invNext_next ?_

theorem execHarqCombineDone_inv {d : Fin 16} {s : State} (hs : Inv s) : InvNext (execHarqCombineDone d s) := by
  unfold execHarqCombineDone
  try dsimp only
  repeat'
    first
      | with_reducible assumption | with_reducible refine State.ldCombine_inv ?_ | exact invNext_refused
      | with_reducible refine invNext_next ?_

theorem execCodeBlockEnd_inv {d : Fin 16} {err : MemErr} {s : State} (hs : Inv s) : InvNext (execCodeBlockEnd d err s) := by
  unfold execCodeBlockEnd
  try dsimp only
  repeat'
    first
      | with_reducible assumption | with_reducible refine State.ldEnd_inv ?_ | exact invNext_refused
      | with_reducible refine invNext_next ?_

theorem execPolarDispatch_inv {u : Fin 4} {s : State} (hs : Inv s) : InvNext (execPolarDispatch u s) := by
  unfold execPolarDispatch
  try dsimp only
  repeat'
    first
      | with_reducible assumption | with_reducible refine State.dispatchPolar_inv ?_ | exact invNext_refused
      | with_reducible refine invNext_next ?_

theorem execPolarEnd_inv {u : Fin 4} {err : MemErr} {s : State} (hs : Inv s) : InvNext (execPolarEnd u err s) := by
  unfold execPolarEnd
  try dsimp only
  repeat'
    first
      | with_reducible assumption | with_reducible refine State.polarEnd_inv ?_ | exact invNext_refused
      | with_reducible refine invNext_next ?_

theorem execEncodeDispatch_inv {u : Fin 8} {s : State} (hs : Inv s) : InvNext (execEncodeDispatch u s) := by
  unfold execEncodeDispatch
  try dsimp only
  repeat'
    first
      | with_reducible assumption | with_reducible refine State.dispatchEnc_inv ?_ | exact invNext_refused
      | with_reducible refine invNext_next ?_

theorem execEncodeEnd_inv {u : Fin 8} {err : MemErr} {s : State} (hs : Inv s) : InvNext (execEncodeEnd u err s) := by
  unfold execEncodeEnd
  try dsimp only
  repeat'
    first
      | with_reducible assumption | with_reducible refine State.encEnd_inv ?_ | exact invNext_refused
      | with_reducible refine invNext_next ?_

theorem State.pshareWrite_inv {s : State} {src : Nat} {p : Nat} {v : Nat} (hs : Inv s) :
    Inv (State.pshareWrite s src p v) := by
  unfold State.pshareWrite
  try dsimp only
  repeat'
    first
      | with_reducible assumption | with_reducible refine State.event_inv ?_ | with_reducible refine State.setFld_inv ?_
      | with_reducible refine inv_ite ?_ ?_

theorem execDecPshareWrite_inv {src : PtnIx} {p : PtnIx} {value : Word} {s : State} (hs : Inv s) :
    InvNext (execDecPshareWrite src p value s) := by
  unfold execDecPshareWrite
  try dsimp only
  repeat'
    first
      | with_reducible assumption | with_reducible refine State.pshareWrite_inv ?_ | exact invNext_refused
      | with_reducible refine invNext_next ?_

theorem State.decClrCnt_inv {s : State} {src : Nat} (hs : Inv s) : Inv (State.decClrCnt s src) := by
  unfold State.decClrCnt
  try dsimp only
  repeat'
    first
      | with_reducible assumption | with_reducible refine State.setReg_inv ?_ | with_reducible refine inv_ite ?_ ?_

theorem execDecClrCnt_inv {src : PtnIx} {s : State} (hs : Inv s) : InvNext (execDecClrCnt src s) := by
  unfold execDecClrCnt
  try dsimp only
  repeat'
    first
      | with_reducible assumption | with_reducible refine State.decClrCnt_inv ?_ | exact invNext_refused
      | with_reducible refine invNext_next ?_

theorem State.encClrCnt_inv {s : State} {src : Nat} (hs : Inv s) : Inv (State.encClrCnt s src) := by
  unfold State.encClrCnt
  try dsimp only
  repeat'
    first
      | with_reducible assumption | with_reducible refine State.setReg_inv ?_ | with_reducible refine inv_ite ?_ ?_

theorem execEncClrCnt_inv {src : PtnIx} {s : State} (hs : Inv s) : InvNext (execEncClrCnt src s) := by
  unfold execEncClrCnt
  try dsimp only
  repeat'
    first
      | with_reducible assumption | with_reducible refine State.encClrCnt_inv ?_ | exact invNext_refused
      | with_reducible refine invNext_next ?_

theorem State.inheritTimeout_inv {s : State} {k : Task} {i : Nat} {hjob : Nat} (hs : Inv s) :
    Inv (State.inheritTimeout s k i hjob) := by
  unfold State.inheritTimeout
  try dsimp only
  repeat'
    first
      | with_reducible assumption | with_reducible refine State.incSat_inv ?_ | with_reducible refine State.jobEvent_inv ?_
      | with_reducible refine State.failTask_inv ?_ | with_reducible refine inv_ite ?_ ?_ | split

theorem State.startSlice_inv {s : State} {t : Nat} {c : Nat} {i : Nat} (hs : Inv s) : Inv (State.startSlice s t c i) := by
  unfold State.startSlice
  try dsimp only
  repeat'
    first
      | with_reducible assumption | with_reducible refine State.inheritTimeout_inv ?_ | with_reducible refine State.modTile_inv ?_
      | with_reducible refine State.incSat_inv ?_ | with_reducible refine inv_ite ?_ ?_
      | (simp only [inv_mk]; refine inv_parts ?_) | split

theorem State.sliceExpiry_inv {s : State} {t : Nat} (hs : Inv s) : Inv (State.sliceExpiry s t) := by
  unfold State.sliceExpiry
  try dsimp only
  repeat'
    first
      | with_reducible assumption | with_reducible refine State.cutSlice_inv ?_
      | with_reducible refine State.inheritTimeout_inv ?_ | with_reducible refine inv_ite ?_ ?_ | split

theorem State.stallOnce_inv {s : State} {t : Nat} {b : Bundle} {wait : Bool} {moves : Moves} (hs : Inv s) :
    Inv (State.stallOnce s t b wait moves) := by
  unfold State.stallOnce
  try dsimp only
  repeat'
    first
      | with_reducible assumption | with_reducible refine State.modTile_inv ?_ | with_reducible refine State.endCycleOf_inv ?_
      | with_reducible refine State.startSlice_inv ?_ | with_reducible refine inv_ite ?_ ?_

theorem State.stallLost_inv {s : State} {t : Nat} {b : Bundle} {y : Bool} (hs : Inv s) : Inv (State.stallLost s t b y) := by
  unfold State.stallLost
  try dsimp only
  repeat'
    first
      | with_reducible assumption | with_reducible refine State.stallOnce_inv ?_ | with_reducible refine State.modTile_inv ?_
      | with_reducible refine State.draw_inv ?_

theorem State.beginIssue_inv {s : State} {t : Nat} {w : BitVec 256} {b : Bundle} (hs : Inv s) : Inv (State.beginIssue s t w b) := by
  unfold State.beginIssue
  try dsimp only
  repeat'
    first
      | with_reducible assumption | with_reducible refine State.draw_inv ?_ | with_reducible refine State.modTile_inv ?_
      | with_reducible refine inv_snd (by assumption) ?_ | with_reducible refine inv_fst (by assumption) ?_
      | with_reducible refine inv_ite ?_ ?_

theorem State.finishBundle_inv {s : State} {t : Nat} {i : Issuing} {b : Bundle} (hs : Inv s) :
    Inv (State.finishBundle s t i b) := by
  unfold State.finishBundle
  try dsimp only
  repeat'
    first
      | with_reducible assumption | with_reducible refine State.modTile_inv ?_ | with_reducible refine State.tileFault_inv ?_
      | with_reducible refine State.setTile_inv ?_ | with_reducible refine State.endCycle_inv ?_
      | with_reducible refine inv_ite ?_ ?_

theorem State.markDone_inv {s : State} {t : Nat} {k : Nat} (hs : Inv s) : Inv (State.markDone s t k) := by
  unfold State.markDone
  try dsimp only
  repeat' (first | with_reducible assumption | with_reducible refine State.modTile_inv ?_)

theorem State.tryFinish_inv {s : State} {t : Nat} (hs : Inv s) : Inv (State.tryFinish s t) := by
  unfold State.tryFinish
  try dsimp only
  repeat'
    first
      | with_reducible assumption | with_reducible refine State.complete_inv ?_ | with_reducible refine State.finishBundle_inv ?_
      | with_reducible refine inv_ite ?_ ?_ | split

theorem State.performSlot_inv {s : State} {t : Nat} {k : Nat} {i : Issuing} {b : Bundle} {eff : Bundle → State → State} (hs : Inv s) (heff : ∀ y0 y1, Inv y1 → Inv (eff y0 y1)) :
    Inv (State.performSlot s t k i b eff) := by
  unfold State.performSlot
  try dsimp only
  repeat'
    first
      | with_reducible assumption | with_reducible refine State.markDone_inv ?_ | with_reducible refine State.tryFinish_inv ?_
      | with_reducible refine heff _ _ ?_ | with_reducible refine inv_ite ?_ ?_

theorem State.issueSlot_inv {s : State} {t : Nat} {k : Nat} {fits : Bundle → Bool} {eff : Bundle → State → State} (hs : Inv s)
    (heff : ∀ y0 y1, Inv y1 → Inv (eff y0 y1)) :
    Inv (State.issueSlot s t k fits eff) := by
  unfold State.issueSlot
  try dsimp only
  repeat'
    first
      | with_reducible assumption | with_reducible refine MsiResult.done_inv ?_
      | with_reducible refine State.performSlot_inv ?_ ?_ | with_reducible refine State.tileFault_inv ?_
      | with_reducible refine State.stallOnce_inv ?_ | with_reducible refine State.modTile_inv ?_
      | with_reducible refine State.stallLost_inv ?_ | with_reducible refine State.beginIssue_inv ?_
      | with_reducible refine heff _ _ ?_ | with_reducible refine inv_ite ?_ ?_ | split

theorem State.elementOp_inv {s : State} {t : TileIx} {o : Nat} {eff : ESlot → State → State} (hs : Inv s) (heff : ∀ y0 y1, Inv y1 → Inv (eff y0 y1)) :
    InvNext (State.elementOp s t o eff) := by
  unfold State.elementOp
  try dsimp only
  repeat'
    first
      | with_reducible assumption | with_reducible refine State.issueSlot_inv ?_ ?_ | exact invNext_refused
      | with_reducible refine invNext_next ?_ | with_reducible refine heff _ _ ?_ | with_reducible refine invNext_ite ?_ ?_
      | with_reducible refine inv_ite ?_ ?_ | split | intro _ _ | intro _

theorem vEffect_inv {t : Nat} {e : ESlot} {s : State} (hs : Inv s) : Inv (vEffect t e s) := by
  unfold vEffect
  try dsimp only
  repeat'
    first
      | with_reducible assumption | with_reducible refine State.addCounts_inv ?_ | with_reducible refine State.addFlags_inv ?_
      | with_reducible refine State.stageWrite_inv ?_

theorem vLogged_inv {t : Nat} {kind : Nat} {e : ESlot} {s : State} (hs : Inv s) : Inv (vLogged t kind e s) := by
  unfold vLogged
  try dsimp only
  repeat'
    first
      | with_reducible assumption | with_reducible refine vEffect_inv ?_ | with_reducible refine State.numLog_inv ?_
      | with_reducible refine inv_ite ?_ ?_

theorem execEkrun_inv {t : TileIx} {s : State} (hs : Inv s) : InvNext (execEkrun t s) := by
  unfold execEkrun
  try dsimp only
  repeat'
    first
      | with_reducible assumption | with_reducible refine State.elementOp_inv ?_ ?_
      | with_reducible refine State.startKernel_inv ?_ | with_reducible refine State.modTile_inv ?_
      | with_reducible refine inv_of_some (by assumption) ?_ | exact invNext_refused | with_reducible refine invNext_next ?_
      | with_reducible refine invNext_ite ?_ ?_ | with_reducible refine inv_ite ?_ ?_ | split | intro _ _ | intro _

theorem execEwin_inv {t : TileIx} {s : State} (hs : Inv s) : InvNext (execEwin t s) := by
  unfold execEwin
  try dsimp only
  repeat'
    first
      | with_reducible assumption | with_reducible refine State.elementOp_inv ?_ ?_ | with_reducible refine vEffect_inv ?_
      | exact invNext_refused | with_reducible refine invNext_next ?_ | with_reducible refine invNext_ite ?_ ?_
      | with_reducible refine inv_ite ?_ ?_ | split | intro _ _ | intro _

theorem execEadd_inv {t : TileIx} {s : State} (hs : Inv s) : InvNext (execEadd t s) := by
  unfold execEadd
  try dsimp only
  repeat'
    first
      | with_reducible assumption | with_reducible refine State.elementOp_inv ?_ ?_ | with_reducible refine vEffect_inv ?_
      | exact invNext_refused | with_reducible refine invNext_next ?_ | with_reducible refine invNext_ite ?_ ?_
      | with_reducible refine inv_ite ?_ ?_ | split | intro _ _ | intro _

theorem execEsub_inv {t : TileIx} {s : State} (hs : Inv s) : InvNext (execEsub t s) := by
  unfold execEsub
  try dsimp only
  repeat'
    first
      | with_reducible assumption | with_reducible refine State.elementOp_inv ?_ ?_ | with_reducible refine vEffect_inv ?_
      | exact invNext_refused | with_reducible refine invNext_next ?_ | with_reducible refine invNext_ite ?_ ?_
      | with_reducible refine inv_ite ?_ ?_ | split | intro _ _ | intro _

theorem execEmul_inv {t : TileIx} {s : State} (hs : Inv s) : InvNext (execEmul t s) := by
  unfold execEmul
  try dsimp only
  repeat'
    first
      | with_reducible assumption | with_reducible refine State.elementOp_inv ?_ ?_ | with_reducible refine vEffect_inv ?_
      | exact invNext_refused | with_reducible refine invNext_next ?_ | with_reducible refine invNext_ite ?_ ?_
      | with_reducible refine inv_ite ?_ ?_ | split | intro _ _ | intro _

theorem execEmin_inv {t : TileIx} {s : State} (hs : Inv s) : InvNext (execEmin t s) := by
  unfold execEmin
  try dsimp only
  repeat'
    first
      | with_reducible assumption | with_reducible refine State.elementOp_inv ?_ ?_ | with_reducible refine vEffect_inv ?_
      | exact invNext_refused | with_reducible refine invNext_next ?_ | with_reducible refine invNext_ite ?_ ?_
      | with_reducible refine inv_ite ?_ ?_ | split | intro _ _ | intro _

theorem execEmax_inv {t : TileIx} {s : State} (hs : Inv s) : InvNext (execEmax t s) := by
  unfold execEmax
  try dsimp only
  repeat'
    first
      | with_reducible assumption | with_reducible refine State.elementOp_inv ?_ ?_ | with_reducible refine vEffect_inv ?_
      | exact invNext_refused | with_reducible refine invNext_next ?_ | with_reducible refine invNext_ite ?_ ?_
      | with_reducible refine inv_ite ?_ ?_ | split | intro _ _ | intro _

theorem execFadd32_inv {t : TileIx} {s : State} (hs : Inv s) : InvNext (execFadd32 t s) := by
  unfold execFadd32
  try dsimp only
  repeat'
    first
      | with_reducible assumption | with_reducible refine State.elementOp_inv ?_ ?_ | with_reducible refine vEffect_inv ?_
      | exact invNext_refused | with_reducible refine invNext_next ?_ | with_reducible refine invNext_ite ?_ ?_
      | with_reducible refine inv_ite ?_ ?_ | split | intro _ _ | intro _

theorem execFmul32_inv {t : TileIx} {s : State} (hs : Inv s) : InvNext (execFmul32 t s) := by
  unfold execFmul32
  try dsimp only
  repeat'
    first
      | with_reducible assumption | with_reducible refine State.elementOp_inv ?_ ?_ | with_reducible refine vEffect_inv ?_
      | exact invNext_refused | with_reducible refine invNext_next ?_ | with_reducible refine invNext_ite ?_ ?_
      | with_reducible refine inv_ite ?_ ?_ | split | intro _ _ | intro _

theorem execFfma32_inv {t : TileIx} {s : State} (hs : Inv s) : InvNext (execFfma32 t s) := by
  unfold execFfma32
  try dsimp only
  repeat'
    first
      | with_reducible assumption | with_reducible refine State.elementOp_inv ?_ ?_ | with_reducible refine vEffect_inv ?_
      | exact invNext_refused | with_reducible refine invNext_next ?_ | with_reducible refine invNext_ite ?_ ?_
      | with_reducible refine inv_ite ?_ ?_ | split | intro _ _ | intro _

theorem execFadd64_inv {t : TileIx} {s : State} (hs : Inv s) : InvNext (execFadd64 t s) := by
  unfold execFadd64
  try dsimp only
  repeat'
    first
      | with_reducible assumption | with_reducible refine State.elementOp_inv ?_ ?_ | with_reducible refine vEffect_inv ?_
      | exact invNext_refused | with_reducible refine invNext_next ?_ | with_reducible refine invNext_ite ?_ ?_
      | with_reducible refine inv_ite ?_ ?_ | split | intro _ _ | intro _

theorem execFmul64_inv {t : TileIx} {s : State} (hs : Inv s) : InvNext (execFmul64 t s) := by
  unfold execFmul64
  try dsimp only
  repeat'
    first
      | with_reducible assumption | with_reducible refine State.elementOp_inv ?_ ?_ | with_reducible refine vEffect_inv ?_
      | exact invNext_refused | with_reducible refine invNext_next ?_ | with_reducible refine invNext_ite ?_ ?_
      | with_reducible refine inv_ite ?_ ?_ | split | intro _ _ | intro _

theorem execFfma64_inv {t : TileIx} {s : State} (hs : Inv s) : InvNext (execFfma64 t s) := by
  unfold execFfma64
  try dsimp only
  repeat'
    first
      | with_reducible assumption | with_reducible refine State.elementOp_inv ?_ ?_ | with_reducible refine vEffect_inv ?_
      | exact invNext_refused | with_reducible refine invNext_next ?_ | with_reducible refine invNext_ite ?_ ?_
      | with_reducible refine inv_ite ?_ ?_ | split | intro _ _ | intro _

theorem execFdiv32_inv {t : TileIx} {s : State} (hs : Inv s) : InvNext (execFdiv32 t s) := by
  unfold execFdiv32
  try dsimp only
  repeat'
    first
      | with_reducible assumption | with_reducible refine State.elementOp_inv ?_ ?_ | with_reducible refine vEffect_inv ?_
      | exact invNext_refused | with_reducible refine invNext_next ?_ | with_reducible refine invNext_ite ?_ ?_
      | with_reducible refine inv_ite ?_ ?_ | split | intro _ _ | intro _

theorem execFsqrt32_inv {t : TileIx} {s : State} (hs : Inv s) : InvNext (execFsqrt32 t s) := by
  unfold execFsqrt32
  try dsimp only
  repeat'
    first
      | with_reducible assumption | with_reducible refine State.elementOp_inv ?_ ?_ | with_reducible refine vEffect_inv ?_
      | exact invNext_refused | with_reducible refine invNext_next ?_ | with_reducible refine invNext_ite ?_ ?_
      | with_reducible refine inv_ite ?_ ?_ | split | intro _ _ | intro _

theorem execFdiv64_inv {t : TileIx} {s : State} (hs : Inv s) : InvNext (execFdiv64 t s) := by
  unfold execFdiv64
  try dsimp only
  repeat'
    first
      | with_reducible assumption | with_reducible refine State.elementOp_inv ?_ ?_ | with_reducible refine vEffect_inv ?_
      | exact invNext_refused | with_reducible refine invNext_next ?_ | with_reducible refine invNext_ite ?_ ?_
      | with_reducible refine inv_ite ?_ ?_ | split | intro _ _ | intro _

theorem execFsqrt64_inv {t : TileIx} {s : State} (hs : Inv s) : InvNext (execFsqrt64 t s) := by
  unfold execFsqrt64
  try dsimp only
  repeat'
    first
      | with_reducible assumption | with_reducible refine State.elementOp_inv ?_ ?_ | with_reducible refine vEffect_inv ?_
      | exact invNext_refused | with_reducible refine invNext_next ?_ | with_reducible refine invNext_ite ?_ ?_
      | with_reducible refine inv_ite ?_ ?_ | split | intro _ _ | intro _

theorem execEcvt_inv {t : TileIx} {s : State} (hs : Inv s) : InvNext (execEcvt t s) := by
  unfold execEcvt
  try dsimp only
  repeat'
    first
      | with_reducible assumption | with_reducible refine State.elementOp_inv ?_ ?_ | with_reducible refine vLogged_inv ?_
      | exact invNext_refused | with_reducible refine invNext_next ?_ | with_reducible refine invNext_ite ?_ ?_
      | with_reducible refine inv_ite ?_ ?_ | split | intro _ _ | intro _

theorem execErq_inv {t : TileIx} {s : State} (hs : Inv s) : InvNext (execErq t s) := by
  unfold execErq
  try dsimp only
  repeat'
    first
      | with_reducible assumption | with_reducible refine State.elementOp_inv ?_ ?_ | with_reducible refine vLogged_inv ?_
      | exact invNext_refused | with_reducible refine invNext_next ?_ | with_reducible refine invNext_ite ?_ ?_
      | with_reducible refine inv_ite ?_ ?_ | split | intro _ _ | intro _

theorem execElut_inv {t : TileIx} {s : State} (hs : Inv s) : InvNext (execElut t s) := by
  unfold execElut
  try dsimp only
  repeat'
    first
      | with_reducible assumption | with_reducible refine State.elementOp_inv ?_ ?_ | with_reducible refine vEffect_inv ?_
      | exact invNext_refused | with_reducible refine invNext_next ?_ | with_reducible refine invNext_ite ?_ ?_
      | with_reducible refine inv_ite ?_ ?_ | split | intro _ _ | intro _

theorem execEamax_inv {t : TileIx} {s : State} (hs : Inv s) : InvNext (execEamax t s) := by
  unfold execEamax
  try dsimp only
  repeat'
    first
      | with_reducible assumption | with_reducible refine State.elementOp_inv ?_ ?_ | with_reducible refine vEffect_inv ?_
      | exact invNext_refused | with_reducible refine invNext_next ?_ | with_reducible refine invNext_ite ?_ ?_
      | with_reducible refine inv_ite ?_ ?_ | split | intro _ _ | intro _

theorem execKernelRow_inv {t : TileIx} {s : State} (hs : Inv s) : InvNext (execKernelRow t s) := by
  unfold execKernelRow
  try dsimp only
  repeat'
    first
      | with_reducible assumption | with_reducible refine State.kernelRow_inv ?_ | with_reducible refine State.nextPass_inv ?_
      | with_reducible refine inv_of_some (by assumption) ?_ | exact invNext_refused | with_reducible refine invNext_next ?_
      | with_reducible refine invNext_ite ?_ ?_ | with_reducible refine inv_ite ?_ ?_ | split | refine inv_getD ?_ ?_

theorem execKernelRunEnd_inv {t : TileIx} {s : State} (hs : Inv s) : InvNext (execKernelRunEnd t s) := by
  unfold execKernelRunEnd
  try dsimp only
  repeat'
    first
      | with_reducible assumption | with_reducible refine State.kernelEnd_inv ?_ | exact invNext_refused
      | with_reducible refine invNext_next ?_ | with_reducible refine invNext_ite ?_ ?_ | with_reducible refine inv_ite ?_ ?_
      | split

theorem State.writeIgnored_inv {s : State} {p : Nat} {t : Nat} {a : Nat} (hs : Inv s) :
    Inv (State.writeIgnored s p t a) := by
  unfold State.writeIgnored
  try dsimp only
  repeat' (first | with_reducible assumption | with_reducible refine State.event_inv ?_)

theorem State.scaleWrite_inv {s : State} {p : Nat} {t : Nat} {e : Nat} {hi : Bool} {v : Nat} (hs : Inv s) :
    Inv (State.scaleWrite s p t e hi v) := by
  unfold State.scaleWrite
  try dsimp only
  repeat'
    first
      | with_reducible assumption | with_reducible refine State.setReg_inv ?_ | with_reducible refine State.writeIgnored_inv ?_
      | with_reducible refine inv_ite ?_ ?_

theorem execScaleWrite_inv {p : PtnIx} {t : TileIx} {entry : BitVec 12} {hi : Bool} {value : Word} {s : State} (hs : Inv s) :
    InvNext (execScaleWrite p t entry hi value s) := by
  unfold execScaleWrite
  try dsimp only
  repeat'
    first
      | with_reducible assumption | with_reducible refine State.scaleWrite_inv ?_ | exact invNext_refused
      | with_reducible refine invNext_next ?_

theorem State.nlogWrite_inv {s : State} {p : Nat} {t : Nat} {v : Nat} (hs : Inv s) : Inv (State.nlogWrite s p t v) := by
  unfold State.nlogWrite
  try dsimp only
  repeat'
    first
      | with_reducible assumption | with_reducible refine State.setReg_inv ?_ | with_reducible refine State.setFld_inv ?_
      | with_reducible refine inv_ite ?_ ?_

theorem execNlogWrWrite_inv {p : PtnIx} {t : TileIx} {value : Word} {s : State} (hs : Inv s) :
    InvNext (execNlogWrWrite p t value s) := by
  unfold execNlogWrWrite
  try dsimp only
  repeat'
    first
      | with_reducible assumption | with_reducible refine State.nlogWrite_inv ?_ | exact invNext_refused
      | with_reducible refine invNext_next ?_

theorem execCellCfgWrite_inv {p : PtnIx} {cell : Fin 96} {value : Word} {s : State} (hs : Inv s) :
    InvNext (execCellCfgWrite p cell value s) := by
  unfold execCellCfgWrite
  try dsimp only
  repeat'
    first
      | with_reducible assumption | with_reducible refine State.cellWrite_inv ?_ | with_reducible refine invNext_next ?_

theorem execFhRxFrame_inv {port : PortIx} {frame : List Byte} {s : State} (hs : Inv s) :
    InvNext (execFhRxFrame port frame s) := by
  unfold execFhRxFrame
  try dsimp only
  repeat'
    first
      | with_reducible assumption | with_reducible refine State.rxFrame_inv ?_ | exact invNext_refused
      | with_reducible refine invNext_next ?_ | with_reducible refine invNext_ite ?_ ?_

theorem execRxBufferAssign_inv {cell : Fin 96} {b : Fin 8} {s : State} (hs : Inv s) :
    InvNext (execRxBufferAssign cell b s) := by
  unfold execRxBufferAssign
  try dsimp only
  repeat'
    first
      | with_reducible assumption | with_reducible refine State.rxAssign_inv ?_ | exact invNext_refused
      | with_reducible refine invNext_next ?_

theorem execSymbolClose_inv {cell : Fin 96} {s : State} (hs : Inv s) : InvNext (execSymbolClose cell s) := by
  unfold execSymbolClose
  try dsimp only
  repeat'
    first
      | with_reducible assumption | with_reducible refine State.symbolClose_inv ?_ | exact invNext_refused
      | with_reducible refine invNext_next ?_

theorem execFallbackWatermark_inv {job : Nat} {s : State} (hs : Inv s) : InvNext (execFallbackWatermark job s) := by
  unfold execFallbackWatermark
  try dsimp only
  repeat'
    first
      | with_reducible assumption | with_reducible refine State.judge_inv ?_ | exact invNext_refused
      | with_reducible refine invNext_next ?_

theorem execFallbackStart_inv {job : Nat} {s : State} (hs : Inv s) : InvNext (execFallbackStart job s) := by
  unfold execFallbackStart
  try dsimp only
  repeat'
    first
      | with_reducible assumption | with_reducible refine State.fallbackStart_inv ?_ | exact invNext_refused
      | with_reducible refine invNext_next ?_

theorem execFheCrxEnable_inv {src : PtnIx} {cell : Fin 96} {value : Word} {s : State} (hs : Inv s) :
    InvNext (execFheCrxEnable src cell value s) := by
  unfold execFheCrxEnable
  try dsimp only
  repeat'
    first
      | with_reducible assumption | with_reducible refine State.crxCfgWrite_inv ?_ | exact invNext_refused
      | with_reducible refine invNext_next ?_

theorem execPraCfgEnable_inv {src : PtnIx} {c : Fin 64} {value : Word} {s : State} (hs : Inv s) :
    InvNext (execPraCfgEnable src c value s) := by
  unfold execPraCfgEnable
  try dsimp only
  repeat'
    first
      | with_reducible assumption | with_reducible refine State.praCfgWrite_inv ?_ | exact invNext_refused
      | with_reducible refine invNext_next ?_

theorem execOccasionClose_inv {c : Fin 64} {s : State} (hs : Inv s) : InvNext (execOccasionClose c s) := by
  unfold execOccasionClose
  try dsimp only
  repeat'
    first
      | with_reducible assumption | with_reducible refine State.occasionClose_inv ?_ | exact invNext_refused
      | with_reducible refine invNext_next ?_

theorem State.fheRxClrCnt_inv {s : State} {src : Nat} (hs : Inv s) : Inv (State.fheRxClrCnt s src) := by
  unfold State.fheRxClrCnt
  try dsimp only
  repeat'
    first
      | with_reducible assumption | with_reducible refine State.setReg_inv ?_ | refine forEach_inv (fun _ _ _ => ?_) ?_
      | with_reducible refine inv_ite ?_ ?_

theorem execFheRxClrCnt_inv {src : PtnIx} {s : State} (hs : Inv s) : InvNext (execFheRxClrCnt src s) := by
  unfold execFheRxClrCnt
  try dsimp only
  repeat'
    first
      | with_reducible assumption | with_reducible refine State.fheRxClrCnt_inv ?_ | exact invNext_refused
      | with_reducible refine invNext_next ?_

theorem State.praClrCnt_inv {s : State} {src : Nat} (hs : Inv s) : Inv (State.praClrCnt s src) := by
  unfold State.praClrCnt
  try dsimp only
  repeat'
    first
      | with_reducible assumption | with_reducible refine State.setReg_inv ?_ | refine forEach_inv (fun _ _ _ => ?_) ?_
      | with_reducible refine inv_ite ?_ ?_

theorem execPraClrCnt_inv {src : PtnIx} {s : State} (hs : Inv s) : InvNext (execPraClrCnt src s) := by
  unfold execPraClrCnt
  try dsimp only
  repeat'
    first
      | with_reducible assumption | with_reducible refine State.praClrCnt_inv ?_ | exact invNext_refused
      | with_reducible refine invNext_next ?_

theorem execTxBufferAssign_inv {cell : Fin 96} {b : Fin 8} {s : State} (hs : Inv s) :
    InvNext (execTxBufferAssign cell b s) := by
  unfold execTxBufferAssign
  try dsimp only
  repeat'
    first
      | with_reducible assumption | with_reducible refine State.txAssign_inv ?_ | exact invNext_refused
      | with_reducible refine invNext_next ?_

theorem execCplaneWindowOpen_inv {cell : Fin 96} {b : Fin 8} {s : State} (hs : Inv s) :
    InvNext (execCplaneWindowOpen cell b s) := by
  unfold execCplaneWindowOpen
  try dsimp only
  repeat'
    first
      | with_reducible assumption | with_reducible refine State.cplaneOpen_inv ?_ | exact invNext_refused
      | with_reducible refine invNext_next ?_

theorem execUplaneWindowOpen_inv {cell : Fin 96} {b : Fin 8} {s : State} (hs : Inv s) :
    InvNext (execUplaneWindowOpen cell b s) := by
  unfold execUplaneWindowOpen
  try dsimp only
  repeat'
    first
      | with_reducible assumption | with_reducible refine State.uplaneOpen_inv ?_ | exact invNext_refused
      | with_reducible refine invNext_next ?_

theorem execTxPartReady_inv {cell : Fin 96} {b : Fin 8} {s : State} (hs : Inv s) : InvNext (execTxPartReady cell b s) := by
  unfold execTxPartReady
  try dsimp only
  repeat'
    first
      | with_reducible assumption | with_reducible refine State.txPartReady_inv ?_ | exact invNext_refused
      | with_reducible refine invNext_next ?_

theorem execCplaneWindowClose_inv {cell : Fin 96} {b : Fin 8} {s : State} (hs : Inv s) :
    InvNext (execCplaneWindowClose cell b s) := by
  unfold execCplaneWindowClose
  try dsimp only
  repeat'
    first
      | with_reducible assumption | with_reducible refine State.cplaneClose_inv ?_ | exact invNext_refused
      | with_reducible refine invNext_next ?_

theorem execUplaneWindowClose_inv {cell : Fin 96} {b : Fin 8} {s : State} (hs : Inv s) :
    InvNext (execUplaneWindowClose cell b s) := by
  unfold execUplaneWindowClose
  try dsimp only
  repeat'
    first
      | with_reducible assumption | with_reducible refine State.uplaneClose_inv ?_ | exact invNext_refused
      | with_reducible refine invNext_next ?_

theorem execFheCtxEnable_inv {src : PtnIx} {cell : Fin 96} {value : Word} {s : State} (hs : Inv s) :
    InvNext (execFheCtxEnable src cell value s) := by
  unfold execFheCtxEnable
  try dsimp only
  repeat'
    first
      | with_reducible assumption | with_reducible refine State.ctxCfgWrite_inv ?_ | exact invNext_refused
      | with_reducible refine invNext_next ?_

theorem State.fheTxClrCnt_inv {s : State} {src : Nat} (hs : Inv s) : Inv (State.fheTxClrCnt s src) := by
  unfold State.fheTxClrCnt
  try dsimp only
  repeat'
    first
      | with_reducible assumption | with_reducible refine State.setReg_inv ?_ | refine forEach_inv (fun _ _ _ => ?_) ?_
      | with_reducible refine inv_ite ?_ ?_

theorem execFheTxClrCnt_inv {src : PtnIx} {s : State} (hs : Inv s) : InvNext (execFheTxClrCnt src s) := by
  unfold execFheTxClrCnt
  try dsimp only
  repeat'
    first
      | with_reducible assumption | with_reducible refine State.fheTxClrCnt_inv ?_ | exact invNext_refused
      | with_reducible refine invNext_next ?_

theorem execGatherDispatch_inv {p : PtnIx} {s : State} (hs : Inv s) : InvNext (execGatherDispatch p s) := by
  unfold execGatherDispatch
  try dsimp only
  repeat'
    first
      | with_reducible assumption | with_reducible refine State.dispatchGather_inv ?_ | exact invNext_refused
      | with_reducible refine invNext_next ?_

theorem execRowReadDone_inv {c : ClusterIx} {s : State} (hs : Inv s) : InvNext (execRowReadDone c s) := by
  unfold execRowReadDone
  try dsimp only
  repeat'
    first
      | with_reducible assumption | with_reducible refine State.engineStep_inv ?_ | with_reducible refine invNext_next ?_

theorem execGatherRowUpdate_inv {c : ClusterIx} {s : State} (hs : Inv s) : InvNext (execGatherRowUpdate c s) := by
  unfold execGatherRowUpdate
  try dsimp only
  repeat'
    first
      | with_reducible assumption | with_reducible refine State.engineStep_inv ?_ | with_reducible refine invNext_next ?_

theorem State.gthClrCnt_inv {s : State} {src : Nat} {c : Nat} (hs : Inv s) : Inv (State.gthClrCnt s src c) := by
  unfold State.gthClrCnt
  try dsimp only
  repeat'
    first
      | with_reducible assumption | with_reducible refine State.setReg_inv ?_ | with_reducible refine inv_ite ?_ ?_

theorem execGthClrCnt_inv {src : PtnIx} {c : ClusterIx} {s : State} (hs : Inv s) : InvNext (execGthClrCnt src c s) := by
  unfold execGthClrCnt
  try dsimp only
  repeat'
    first
      | with_reducible assumption | with_reducible refine State.gthClrCnt_inv ?_ | exact invNext_refused
      | with_reducible refine invNext_next ?_

theorem execLaunchRelease_inv {job : Nat} {s : State} (hs : Inv s) : InvNext (execLaunchRelease job s) := by
  unfold execLaunchRelease
  try dsimp only
  repeat'
    first
      | with_reducible assumption | with_reducible refine State.launchRelease_inv ?_ | exact invNext_refused
      | with_reducible refine invNext_next ?_

theorem execRingEnable_inv {src : PtnIx} {p : PtnIx} {ring : Fin 18} {value : Word} {s : State} (hs : Inv s) :
    InvNext (execRingEnable src p ring value s) := by
  unfold execRingEnable
  try dsimp only
  repeat'
    first
      | with_reducible assumption | with_reducible refine State.ringEnable_inv ?_ | exact invNext_refused
      | with_reducible refine invNext_next ?_

theorem execSqDoorbell_inv {src : PtnIx} {p : PtnIx} {ring : Fin 16} {tail : Word} {s : State} (hs : Inv s) :
    InvNext (execSqDoorbell src p ring tail s) := by
  unfold execSqDoorbell
  try dsimp only
  repeat'
    first
      | with_reducible assumption | with_reducible refine State.sqDoorbell_inv ?_ | exact invNext_refused
      | with_reducible refine invNext_next ?_

theorem execCqDoorbell_inv {src : PtnIx} {p : PtnIx} {head : Word} {s : State} (hs : Inv s) :
    InvNext (execCqDoorbell src p head s) := by
  unfold execCqDoorbell
  try dsimp only
  repeat'
    first
      | with_reducible assumption | with_reducible refine State.cqDoorbell_inv ?_ | exact invNext_refused
      | with_reducible refine invNext_next ?_

theorem execEqDoorbell_inv {src : PtnIx} {p : PtnIx} {head : Word} {s : State} (hs : Inv s) :
    InvNext (execEqDoorbell src p head s) := by
  unfold execEqDoorbell
  try dsimp only
  repeat'
    first
      | with_reducible assumption | with_reducible refine State.eqDoorbell_inv ?_ | exact invNext_refused
      | with_reducible refine invNext_next ?_

theorem execDescriptorFetch_inv {p : PtnIx} {s : State} (hs : Inv s) : InvNext (execDescriptorFetch p s) := by
  unfold execDescriptorFetch
  try dsimp only
  repeat'
    first
      | with_reducible assumption | with_reducible refine State.fetchDescriptor_inv ?_ | exact invNext_refused
      | with_reducible refine invNext_next ?_

theorem State.fetchFaultClear_inv {s : State} {src : Nat} {p : Nat} {ring : Nat} (hs : Inv s) :
    Inv (State.fetchFaultClear s src p ring) := by
  unfold State.fetchFaultClear
  try dsimp only
  repeat'
    first
      | with_reducible assumption | with_reducible refine State.setFld_inv ?_ | with_reducible refine inv_ite ?_ ?_

theorem execFetchFaultClear_inv {src : PtnIx} {p : PtnIx} {ring : Fin 16} {s : State} (hs : Inv s) :
    InvNext (execFetchFaultClear src p ring s) := by
  unfold execFetchFaultClear
  try dsimp only
  repeat'
    first
      | with_reducible assumption | with_reducible refine State.fetchFaultClear_inv ?_ | exact invNext_refused
      | with_reducible refine invNext_next ?_

theorem execJobDispatch_inv {p : PtnIx} {s : State} (hs : Inv s) : InvNext (execJobDispatch p s) := by
  unfold execJobDispatch
  try dsimp only
  repeat'
    first
      | with_reducible assumption | with_reducible refine State.dispatchJob_inv ?_ | exact invNext_refused
      | with_reducible refine invNext_next ?_

theorem execDeadlineExpiry_inv {job : Nat} {s : State} (hs : Inv s) : InvNext (execDeadlineExpiry job s) := by
  unfold execDeadlineExpiry
  try dsimp only
  repeat'
    first
      | with_reducible assumption | with_reducible refine State.deadlineExpiry_inv ?_ | exact invNext_refused
      | with_reducible refine invNext_next ?_

theorem execJobComplete_inv {job : Nat} {s : State} (hs : Inv s) : InvNext (execJobComplete job s) := by
  unfold execJobComplete
  try dsimp only
  repeat'
    first
      | with_reducible assumption | with_reducible refine State.completeJob_inv ?_ | exact invNext_refused
      | with_reducible refine invNext_next ?_

theorem execCqIrqTimer_inv {p : PtnIx} {events : Bool} {s : State} (hs : Inv s) : InvNext (execCqIrqTimer p events s) := by
  unfold execCqIrqTimer
  try dsimp only
  repeat'
    first
      | with_reducible assumption | with_reducible refine State.irqTimer_inv ?_ | exact invNext_refused
      | with_reducible refine invNext_next ?_

theorem execOtRegister_inv {src : PtnIx} {p : PtnIx} {index : BitVec 12} {s : State} (hs : Inv s) :
    InvNext (execOtRegister src p index s) := by
  unfold execOtRegister
  try dsimp only
  repeat'
    first
      | with_reducible assumption | with_reducible refine State.objectRegister_inv ?_ | exact invNext_refused
      | with_reducible refine invNext_next ?_

theorem execOtRegisterDone_inv {p : PtnIx} {s : State} (hs : Inv s) : InvNext (execOtRegisterDone p s) := by
  unfold execOtRegisterDone
  try dsimp only
  repeat'
    first
      | with_reducible assumption | with_reducible refine State.objectRead_inv ?_ | exact invNext_refused
      | with_reducible refine invNext_next ?_

theorem execOtRetire_inv {src : PtnIx} {p : PtnIx} {index : BitVec 12} {s : State} (hs : Inv s) :
    InvNext (execOtRetire src p index s) := by
  unfold execOtRetire
  try dsimp only
  repeat'
    first
      | with_reducible assumption | with_reducible refine State.objectRetire_inv ?_ | exact invNext_refused
      | with_reducible refine invNext_next ?_

theorem execBelayEnqueue_inv {src : PtnIx} {p : PtnIx} {cmd : DWord} {s : State} (hs : Inv s) :
    InvNext (execBelayEnqueue src p cmd s) := by
  unfold execBelayEnqueue
  try dsimp only
  repeat'
    first
      | with_reducible assumption | with_reducible refine State.belayEnqueue_inv ?_ | exact invNext_refused
      | with_reducible refine invNext_next ?_

theorem execStopPort_inv {p : PtnIx} {s : State} (hs : Inv s) : InvNext (execStopPort p s) := by
  unfold execStopPort
  try dsimp only
  repeat'
    first
      | with_reducible assumption | with_reducible refine State.belayStopPort_inv ?_ | exact invNext_refused
      | with_reducible refine invNext_next ?_

theorem execCancelTag_inv {p : PtnIx} {s : State} (hs : Inv s) : InvNext (execCancelTag p s) := by
  unfold execCancelTag
  try dsimp only
  repeat'
    first
      | with_reducible assumption | with_reducible refine State.belayCancelTag_inv ?_ | exact invNext_refused
      | with_reducible refine invNext_next ?_

theorem execCancelRing_inv {p : PtnIx} {s : State} (hs : Inv s) : InvNext (execCancelRing p s) := by
  unfold execCancelRing
  try dsimp only
  repeat'
    first
      | with_reducible assumption | with_reducible refine State.belayCancelRing_inv ?_ | exact invNext_refused
      | with_reducible refine invNext_next ?_

theorem execQuiesceStreams_inv {p : PtnIx} {s : State} (hs : Inv s) : InvNext (execQuiesceStreams p s) := by
  unfold execQuiesceStreams
  try dsimp only
  repeat'
    first
      | with_reducible assumption | with_reducible refine State.belayQuiesce_inv ?_ | exact invNext_refused
      | with_reducible refine invNext_next ?_

theorem execHaltPartition_inv {p : PtnIx} {s : State} (hs : Inv s) : InvNext (execHaltPartition p s) := by
  unfold execHaltPartition
  try dsimp only
  repeat'
    first
      | with_reducible assumption | with_reducible refine State.belayHalt_inv ?_ | exact invNext_refused
      | with_reducible refine invNext_next ?_

theorem execBelayDone_inv {p : PtnIx} {s : State} (hs : Inv s) : InvNext (execBelayDone p s) := by
  unfold execBelayDone
  try dsimp only
  repeat'
    first
      | with_reducible assumption | with_reducible refine State.belayDone_inv ?_ | exact invNext_refused
      | with_reducible refine invNext_next ?_

theorem execResume_inv {src : PtnIx} {p : PtnIx} {s : State} (hs : Inv s) : InvNext (execResume src p s) := by
  unfold execResume
  try dsimp only
  repeat'
    first
      | with_reducible assumption | with_reducible refine State.resume_inv ?_ | exact invNext_refused
      | with_reducible refine invNext_next ?_

theorem execUnquiesce_inv {src : PtnIx} {p : PtnIx} {s : State} (hs : Inv s) : InvNext (execUnquiesce src p s) := by
  unfold execUnquiesce
  try dsimp only
  repeat'
    first
      | with_reducible assumption | with_reducible refine State.unquiesce_inv ?_ | exact invNext_refused
      | with_reducible refine invNext_next ?_

theorem State.jobClrStats_inv {s : State} {src : Nat} (hs : Inv s) : Inv (State.jobClrStats s src) := by
  unfold State.jobClrStats
  try dsimp only
  repeat'
    first
      | with_reducible assumption | with_reducible refine State.setReg_inv ?_ | refine forEach_inv (fun _ _ _ => ?_) ?_
      | with_reducible refine inv_ite ?_ ?_

theorem execClrStats_inv {src : PtnIx} {s : State} (hs : Inv s) : InvNext (execClrStats src s) := by
  unfold execClrStats
  try dsimp only
  repeat'
    first
      | with_reducible assumption | with_reducible refine State.jobClrStats_inv ?_ | exact invNext_refused
      | with_reducible refine invNext_next ?_

theorem State.ptnEnable_inv {s : State} {p : Nat} (hs : Inv s) : Inv (State.ptnEnable s p) := by
  unfold State.ptnEnable
  try dsimp only
  repeat'
    first
      | with_reducible assumption | with_reducible refine State.setFld_inv ?_ | with_reducible refine inv_ite ?_ ?_

theorem State.ptnDisable_inv {s : State} {p : Nat} (hs : Inv s) : Inv (State.ptnDisable s p) := by
  unfold State.ptnDisable
  try dsimp only
  repeat'
    first
      | with_reducible assumption | with_reducible refine State.setFld_inv ?_ | with_reducible refine inv_ite ?_ ?_
      | (simp only [inv_mk]; refine inv_parts ?_)

theorem State.ptnCfgWrite_inv {s : State} {src : Nat} {p : Nat} {v : Nat} (hs : Inv s) :
    Inv (State.ptnCfgWrite s src p v) := by
  unfold State.ptnCfgWrite
  try dsimp only
  repeat'
    first
      | with_reducible assumption | with_reducible refine State.ptnDisable_inv ?_ | with_reducible refine State.setFld_inv ?_
      | with_reducible refine State.ptnEnable_inv ?_ | with_reducible refine inv_ite ?_ ?_

theorem State.waysDone_inv {s : State} {p : Nat} (hs : Inv s) : Inv (State.waysDone s p) := by
  unfold State.waysDone
  try dsimp only
  repeat'
    first
      | with_reducible assumption | with_reducible refine State.writeBack_inv ?_ | with_reducible refine State.setFld_inv ?_
      | with_reducible refine inv_ite ?_ ?_ | (simp only [inv_mk]; refine inv_parts ?_)

theorem State.ptnCtlWrite_inv {s : State} {src : Nat} {v : Nat} (hs : Inv s) : Inv (State.ptnCtlWrite s src v) := by
  unfold State.ptnCtlWrite
  try dsimp only
  repeat'
    first
      | with_reducible assumption | with_reducible refine State.setFld_inv ?_ | with_reducible refine inv_ite ?_ ?_
      | (simp only [inv_mk]; refine inv_parts ?_)

theorem State.ptnClrCnt_inv {s : State} {src : Nat} {p : Nat} (hs : Inv s) : Inv (State.ptnClrCnt s src p) := by
  unfold State.ptnClrCnt
  try dsimp only
  repeat'
    first
      | with_reducible assumption | with_reducible refine State.setReg_inv ?_ | with_reducible refine inv_ite ?_ ?_

theorem State.cluClrCnt_inv {s : State} {src : Nat} {c : Nat} (hs : Inv s) : Inv (State.cluClrCnt s src c) := by
  unfold State.cluClrCnt
  try dsimp only
  repeat'
    first
      | with_reducible assumption | with_reducible refine State.setReg_inv ?_ | with_reducible refine inv_ite ?_ ?_

theorem State.cairnFaultClear_inv {s : State} {src : Nat} {p : Nat} (hs : Inv s) : Inv (State.cairnFaultClear s src p) := by
  unfold State.cairnFaultClear
  try dsimp only
  repeat'
    first
      | with_reducible assumption | with_reducible refine State.modTile_inv ?_ | with_reducible refine State.setFld_inv ?_
      | refine forEach_inv (fun _ _ _ => ?_) ?_ | with_reducible refine inv_ite ?_ ?_

theorem State.semWrite_inv {s : State} {src : Nat} {c : Nat} {i : Nat} {v : Nat} (hs : Inv s) :
    Inv (State.semWrite s src c i v) := by
  unfold State.semWrite
  try dsimp only
  repeat'
    first
      | with_reducible assumption | with_reducible refine State.setFld_inv ?_ | with_reducible refine State.endSlices_inv ?_
      | with_reducible refine State.refresh_inv ?_ | with_reducible refine inv_ite ?_ ?_
      | (simp only [inv_mk]; refine inv_parts ?_)

theorem State.takeFrom_inv {s : State} {t : Nat} {v : Nat} {e : QEntry} {far : Bool} (hs : Inv s) :
    Inv (State.takeFrom s t v e far) := by
  unfold State.takeFrom
  try dsimp only
  repeat' (first | with_reducible assumption | with_reducible refine State.modTile_inv ?_)

theorem State.steal_inv {s : State} {t : Nat} (hs : Inv s) : Inv (State.steal s t) := by
  unfold State.steal
  try dsimp only
  repeat'
    first
      | with_reducible assumption | with_reducible refine State.takeFrom_inv ?_ | with_reducible refine State.incSat_inv ?_
      | with_reducible refine inv_ite ?_ ?_ | split

theorem State.farSteal_inv {s : State} {t : Nat} (hs : Inv s) : Inv (State.farSteal s t) := by
  unfold State.farSteal
  try dsimp only
  repeat'
    first
      | with_reducible assumption | with_reducible refine State.migratable_inv ?_ | with_reducible refine State.takeFrom_inv ?_
      | with_reducible refine State.incSat_inv ?_ | with_reducible refine inv_snd (by assumption) ?_
      | with_reducible refine inv_fst (by assumption) ?_ | with_reducible refine inv_ite ?_ ?_ | split

theorem State.quantumExpiry_inv {s : State} {t : Nat} (hs : Inv s) : Inv (State.quantumExpiry s t) := by
  unfold State.quantumExpiry
  try dsimp only
  repeat'
    first
      | with_reducible assumption | with_reducible refine State.modTile_inv ?_ | with_reducible refine inv_ite ?_ ?_

theorem State.holdCut_inv {s : State} {hbm : Bool} {unit : Nat} {bank : Nat} {requester : Nat} (hs : Inv s) :
    Inv (State.holdCut s hbm unit bank requester) := by
  unfold State.holdCut
  try dsimp only
  repeat'
    first
      | with_reducible assumption | with_reducible refine State.incSat_inv ?_ | with_reducible refine State.devEvent_inv ?_
      | with_reducible refine inv_ite ?_ ?_

theorem execPtnCtlWrite_inv {src : PtnIx} {value : Word} {s : State} (hs : Inv s) :
    InvNext (execPtnCtlWrite src value s) := by
  unfold execPtnCtlWrite
  try dsimp only
  repeat'
    first
      | with_reducible assumption | with_reducible refine State.ptnCtlWrite_inv ?_ | exact invNext_refused
      | with_reducible refine invNext_next ?_

theorem execPtnCfgEnable_inv {src : PtnIx} {p : PtnIx} {value : Word} {s : State} (hs : Inv s) :
    InvNext (execPtnCfgEnable src p value s) := by
  unfold execPtnCfgEnable
  try dsimp only
  repeat'
    first
      | with_reducible assumption | with_reducible refine State.ptnCfgWrite_inv ?_ | exact invNext_refused
      | with_reducible refine invNext_next ?_

theorem execPtnCfgDisable_inv {src : PtnIx} {p : PtnIx} {s : State} (hs : Inv s) : InvNext (execPtnCfgDisable src p s) := by
  unfold execPtnCfgDisable
  try dsimp only
  repeat'
    first
      | with_reducible assumption | with_reducible refine State.ptnCfgWrite_inv ?_ | exact invNext_refused
      | with_reducible refine invNext_next ?_ | with_reducible refine invNext_ite ?_ ?_ | with_reducible refine inv_ite ?_ ?_

theorem execSteal_inv {t : TileIx} {s : State} (hs : Inv s) : InvNext (execSteal t s) := by
  unfold execSteal
  try dsimp only
  repeat'
    first
      | with_reducible assumption | with_reducible refine State.steal_inv ?_ | exact invNext_refused
      | with_reducible refine invNext_next ?_

theorem execCrossClusterSteal_inv {t : TileIx} {s : State} (hs : Inv s) : InvNext (execCrossClusterSteal t s) := by
  unfold execCrossClusterSteal
  try dsimp only
  repeat'
    first
      | with_reducible assumption | with_reducible refine State.farSteal_inv ?_ | exact invNext_refused
      | with_reducible refine invNext_next ?_

theorem execQuantumExpiry_inv {t : TileIx} {s : State} (hs : Inv s) : InvNext (execQuantumExpiry t s) := by
  unfold execQuantumExpiry
  try dsimp only
  repeat'
    first
      | with_reducible assumption | with_reducible refine State.quantumExpiry_inv ?_ | exact invNext_refused
      | with_reducible refine invNext_next ?_

theorem execPreemption_inv {t : TileIx} {s : State} (hs : Inv s) : InvNext (execPreemption t s) := by
  unfold execPreemption
  try dsimp only
  repeat'
    first
      | with_reducible assumption | with_reducible refine State.preempt_inv ?_ | exact invNext_refused
      | with_reducible refine invNext_next ?_ | with_reducible refine invNext_ite ?_ ?_ | with_reducible refine inv_ite ?_ ?_

theorem execCairnSaveDone_inv {t : TileIx} {s : State} (hs : Inv s) : InvNext (execCairnSaveDone t s) := by
  unfold execCairnSaveDone
  try dsimp only
  repeat'
    first
      | with_reducible assumption | with_reducible refine State.saveDone_inv ?_ | exact invNext_refused
      | with_reducible refine invNext_next ?_ | with_reducible refine invNext_ite ?_ ?_ | with_reducible refine inv_ite ?_ ?_

theorem execCairnRestore_inv {t : TileIx} {s : State} (hs : Inv s) : InvNext (execCairnRestore t s) := by
  unfold execCairnRestore
  try dsimp only
  repeat'
    first
      | with_reducible assumption | with_reducible refine State.restoreHead_inv ?_ | exact invNext_refused
      | with_reducible refine invNext_next ?_ | with_reducible refine invNext_ite ?_ ?_ | with_reducible refine inv_ite ?_ ?_

theorem execCairnRestoreDone_inv {t : TileIx} {s : State} (hs : Inv s) : InvNext (execCairnRestoreDone t s) := by
  unfold execCairnRestoreDone
  try dsimp only
  repeat'
    first
      | with_reducible assumption | with_reducible refine State.restoreDone_inv ?_ | exact invNext_refused
      | with_reducible refine invNext_next ?_ | with_reducible refine invNext_ite ?_ ?_ | with_reducible refine inv_ite ?_ ?_

theorem execCairnFaultClear_inv {src : PtnIx} {p : PtnIx} {s : State} (hs : Inv s) :
    InvNext (execCairnFaultClear src p s) := by
  unfold execCairnFaultClear
  try dsimp only
  repeat'
    first
      | with_reducible assumption | with_reducible refine State.cairnFaultClear_inv ?_ | exact invNext_refused
      | with_reducible refine invNext_next ?_

theorem execInheritSliceExpiry_inv {t : TileIx} {s : State} (hs : Inv s) : InvNext (execInheritSliceExpiry t s) := by
  unfold execInheritSliceExpiry
  try dsimp only
  repeat'
    first
      | with_reducible assumption | with_reducible refine State.sliceExpiry_inv ?_ | exact invNext_refused
      | with_reducible refine invNext_next ?_

theorem execHoldLimitCut_inv {hbm : Bool} {unit : Fin 128} {holder : Holder} {s : State} (hs : Inv s) :
    InvNext (execHoldLimitCut hbm unit holder s) := by
  unfold execHoldLimitCut
  try dsimp only
  repeat'
    first
      | with_reducible assumption | with_reducible refine State.holdCut_inv ?_ | exact invNext_refused
      | with_reducible refine invNext_next ?_ | with_reducible refine invNext_ite ?_ ?_

theorem execSemWrite_inv {src : PtnIx} {c : ClusterIx} {sem : Fin 1024} {value : Word} {s : State} (hs : Inv s) :
    InvNext (execSemWrite src c sem value s) := by
  unfold execSemWrite
  try dsimp only
  repeat'
    first
      | with_reducible assumption | with_reducible refine State.semWrite_inv ?_ | exact invNext_refused
      | with_reducible refine invNext_next ?_

theorem execPtnClrCnt_inv {src : PtnIx} {p : PtnIx} {s : State} (hs : Inv s) : InvNext (execPtnClrCnt src p s) := by
  unfold execPtnClrCnt
  try dsimp only
  repeat'
    first
      | with_reducible assumption | with_reducible refine State.ptnClrCnt_inv ?_ | exact invNext_refused
      | with_reducible refine invNext_next ?_

theorem execCluClrCnt_inv {src : PtnIx} {c : ClusterIx} {s : State} (hs : Inv s) : InvNext (execCluClrCnt src c s) := by
  unfold execCluClrCnt
  try dsimp only
  repeat'
    first
      | with_reducible assumption | with_reducible refine State.cluClrCnt_inv ?_ | exact invNext_refused
      | with_reducible refine invNext_next ?_

theorem execWaysWriteBackDone_inv {p : PtnIx} {s : State} (hs : Inv s) : InvNext (execWaysWriteBackDone p s) := by
  unfold execWaysWriteBackDone
  try dsimp only
  repeat'
    first
      | with_reducible assumption | with_reducible refine State.waysDone_inv ?_ | exact invNext_refused
      | with_reducible refine invNext_next ?_

theorem execDomainOn_inv {src : PtnIx} {d : Fin 82} {s : State} (hs : Inv s) : InvNext (execDomainOn src d s) := by
  unfold execDomainOn
  try dsimp only
  repeat'
    first
      | with_reducible assumption | with_reducible refine State.domRequest_inv ?_ | exact invNext_refused
      | with_reducible refine invNext_next ?_

theorem execDomainOff_inv {src : PtnIx} {d : Fin 82} {s : State} (hs : Inv s) : InvNext (execDomainOff src d s) := by
  unfold execDomainOff
  try dsimp only
  repeat'
    first
      | with_reducible assumption | with_reducible refine State.domRequest_inv ?_ | exact invNext_refused
      | with_reducible refine invNext_next ?_

theorem execDomainDrainDone_inv {d : Fin 82} {s : State} (hs : Inv s) : InvNext (execDomainDrainDone d s) := by
  unfold execDomainDrainDone
  try dsimp only
  repeat'
    first
      | with_reducible assumption | with_reducible refine State.drainDone_inv ?_ | exact invNext_refused
      | with_reducible refine invNext_next ?_

theorem execDomainIsolateDone_inv {d : Fin 82} {s : State} (hs : Inv s) : InvNext (execDomainIsolateDone d s) := by
  unfold execDomainIsolateDone
  try dsimp only
  repeat'
    first
      | with_reducible assumption | with_reducible refine State.isolateDone_inv ?_ | exact invNext_refused
      | with_reducible refine invNext_next ?_

theorem execDomainRampDone_inv {d : Fin 82} {s : State} (hs : Inv s) : InvNext (execDomainRampDone d s) := by
  unfold execDomainRampDone
  try dsimp only
  repeat'
    first
      | with_reducible assumption | with_reducible refine State.rampDone_inv ?_ | exact invNext_refused
      | with_reducible refine invNext_next ?_

theorem execDomainRestoreDone_inv {d : Fin 82} {s : State} (hs : Inv s) : InvNext (execDomainRestoreDone d s) := by
  unfold execDomainRestoreDone
  try dsimp only
  repeat'
    first
      | with_reducible assumption | with_reducible refine State.restoreDoneDom_inv ?_ | exact invNext_refused
      | with_reducible refine invNext_next ?_

theorem execOpReq_inv {src : PtnIx} {c : ClusterIx} {req : Fin 4} {s : State} (hs : Inv s) :
    InvNext (execOpReq src c req s) := by
  unfold execOpReq
  try dsimp only
  repeat'
    first
      | with_reducible assumption | with_reducible refine State.opReq_inv ?_ | exact invNext_refused
      | with_reducible refine invNext_next ?_

theorem execPllLock_inv {c : ClusterIx} {s : State} (hs : Inv s) : InvNext (execPllLock c s) := by
  unfold execPllLock
  try dsimp only
  repeat'
    first
      | with_reducible assumption | with_reducible refine State.pllLock_inv ?_ | exact invNext_refused
      | with_reducible refine invNext_next ?_

theorem execVoltageReached_inv {c : ClusterIx} {s : State} (hs : Inv s) : InvNext (execVoltageReached c s) := by
  unfold execVoltageReached
  try dsimp only
  repeat'
    first
      | with_reducible assumption | with_reducible refine State.voltageReached_inv ?_ | exact invNext_refused
      | with_reducible refine invNext_next ?_

theorem execVsettleExpiry_inv {c : ClusterIx} {s : State} (hs : Inv s) : InvNext (execVsettleExpiry c s) := by
  unfold execVsettleExpiry
  try dsimp only
  repeat'
    first
      | with_reducible assumption | with_reducible refine State.settled_inv ?_ | exact invNext_refused
      | with_reducible refine invNext_next ?_

theorem execPowerEstimate_inv {ms : BitVec 16} {us10 : BitVec 16} {c0 : BitVec 16} {c1 : BitVec 16} {c2 : BitVec 16} {c3 : BitVec 16} {s : State} (hs : Inv s) :
    InvNext (execPowerEstimate ms us10 c0 c1 c2 c3 s) := by
  unfold execPowerEstimate
  try dsimp only
  repeat'
    first
      | with_reducible assumption | with_reducible refine State.powerEstimate_inv ?_ | exact invNext_refused
      | with_reducible refine invNext_next ?_

theorem execPoutCalibrate_inv {watts : BitVec 16} {s : State} (hs : Inv s) : InvNext (execPoutCalibrate watts s) := by
  unfold execPoutCalibrate
  try dsimp only
  repeat'
    first
      | with_reducible assumption | exact invNext_refused | with_reducible refine invNext_next ?_
      | with_reducible refine invNext_ite ?_ ?_ | with_reducible refine inv_ite ?_ ?_ | (simp only [inv_mk]; refine inv_parts ?_)

theorem execSagWarn_inv {rail : Fin 8} {mv : BitVec 16} {s : State} (hs : Inv s) : InvNext (execSagWarn rail mv s) := by
  unfold execSagWarn
  try dsimp only
  repeat'
    first
      | with_reducible assumption | with_reducible refine State.sagWarn_inv ?_ | exact invNext_refused
      | with_reducible refine invNext_next ?_

theorem execSagClear_inv {s : State} (hs : Inv s) : InvNext (execSagClear s) := by
  unfold execSagClear
  try dsimp only
  repeat'
    first
      | with_reducible assumption | with_reducible refine State.sagClear_inv ?_ | exact invNext_refused
      | with_reducible refine invNext_next ?_

theorem execSupplyReset_inv {s : State} (hs : Inv s) : InvNext (execSupplyReset s) := by
  unfold execSupplyReset
  try dsimp only
  repeat'
    first
      | with_reducible assumption | with_reducible refine State.supplyReset_inv ?_ | with_reducible refine invNext_next ?_

theorem execSupplyRecovery_inv {s : State} (hs : Inv s) : InvNext (execSupplyRecovery s) := by
  unfold execSupplyRecovery
  try dsimp only
  repeat'
    first
      | with_reducible assumption | with_reducible refine State.supplyRecovered_inv ?_ | exact invNext_refused
      | with_reducible refine invNext_next ?_

theorem execPwrSagWrite_inv {src : PtnIx} {value : Word} {s : State} (hs : Inv s) :
    InvNext (execPwrSagWrite src value s) := by
  unfold execPwrSagWrite
  try dsimp only
  repeat'
    first
      | with_reducible assumption | with_reducible refine State.sagWrite_inv ?_ | exact invNext_refused
      | with_reducible refine invNext_next ?_

theorem execThermWarn_inv {c : ClusterIx} {sensor : BitVec 16} {temp : Word} {s : State} (hs : Inv s) :
    InvNext (execThermWarn c sensor temp s) := by
  unfold execThermWarn
  try dsimp only
  repeat'
    first
      | with_reducible assumption | with_reducible refine State.thermWarn_inv ?_ | exact invNext_refused
      | with_reducible refine invNext_next ?_

theorem execThermalFloorStep_inv {c : ClusterIx} {up : Bool} {s : State} (hs : Inv s) :
    InvNext (execThermalFloorStep c up s) := by
  unfold execThermalFloorStep
  try dsimp only
  repeat'
    first
      | with_reducible assumption | with_reducible refine State.thermalStep_inv ?_ | exact invNext_refused
      | with_reducible refine invNext_next ?_

theorem execThermTrip_inv {sensor : BitVec 16} {temp : Word} {s : State} (hs : Inv s) :
    InvNext (execThermTrip sensor temp s) := by
  unfold execThermTrip
  try dsimp only
  repeat'
    first
      | with_reducible assumption | with_reducible refine State.thermTrip_inv ?_ | exact invNext_refused
      | with_reducible refine invNext_next ?_

theorem execStop_inv {src : PtnIx} {keep : Bool} {s : State} (hs : Inv s) : InvNext (execStop src keep s) := by
  unfold execStop
  try dsimp only
  repeat'
    first
      | with_reducible assumption | with_reducible refine State.stopWrite_inv ?_ | exact invNext_refused
      | with_reducible refine invNext_next ?_

theorem execRtcWake_inv {temp : Word} {cool : Bool} {s : State} (hs : Inv s) : InvNext (execRtcWake temp cool s) := by
  unfold execRtcWake
  try dsimp only
  repeat'
    first
      | with_reducible assumption | with_reducible refine State.rtcAlarm_inv ?_ | exact invNext_refused
      | with_reducible refine invNext_next ?_

theorem execThermalTripWake_inv {temp : Word} {cool : Bool} {s : State} (hs : Inv s) :
    InvNext (execThermalTripWake temp cool s) := by
  unfold execThermalTripWake
  try dsimp only
  repeat'
    first
      | with_reducible assumption | with_reducible refine State.coolWake_inv ?_ | exact invNext_refused
      | with_reducible refine invNext_next ?_

theorem execRtcTick_inv {s : State} (hs : Inv s) : InvNext (execRtcTick s) := by
  unfold execRtcTick
  try dsimp only
  repeat'
    first
      | with_reducible assumption | with_reducible refine State.rtcTick_inv ?_ | exact invNext_refused
      | with_reducible refine invNext_next ?_

theorem execRtcSubRead_inv {s : State} (hs : Inv s) : InvNext (execRtcSubRead s) := by
  unfold execRtcSubRead
  try dsimp only
  repeat'
    first
      | with_reducible assumption | with_reducible refine State.rtcLatch_inv ?_ | exact invNext_refused
      | with_reducible refine invNext_next ?_

theorem execRtcLoad_inv {src : PtnIx} {hi : Word} {s : State} (hs : Inv s) : InvNext (execRtcLoad src hi s) := by
  unfold execRtcLoad
  try dsimp only
  repeat'
    first
      | with_reducible assumption | with_reducible refine State.rtcLoad_inv ?_ | exact invNext_refused
      | with_reducible refine invNext_next ?_

theorem execClockLoss_inv {r : Fin 4} {s : State} (hs : Inv s) : InvNext (execClockLoss r s) := by
  unfold execClockLoss
  try dsimp only
  repeat'
    first
      | with_reducible assumption | with_reducible refine State.clockLoss_inv ?_ | exact invNext_refused
      | with_reducible refine invNext_next ?_

theorem execClockReturn_inv {r : Fin 4} {s : State} (hs : Inv s) : InvNext (execClockReturn r s) := by
  unfold execClockReturn
  try dsimp only
  repeat'
    first
      | with_reducible assumption | with_reducible refine State.clockReturn_inv ?_ | exact invNext_refused
      | with_reducible refine invNext_next ?_

theorem execPorstFall_inv {supply : Bool} {trip : Bool} {oasis : Bool} {cool : Bool} {s : State} (hs : Inv s) :
    InvNext (execPorstFall supply trip oasis cool s) := by
  unfold execPorstFall
  try dsimp only
  repeat'
    first
      | with_reducible assumption | with_reducible refine State.porstFall_inv ?_ | exact invNext_refused
      | with_reducible refine invNext_next ?_

theorem execPorstRise_inv {grp : Fin 8} {mode : Fin 4} {s : State} (hs : Inv s) : InvNext (execPorstRise grp mode s) := by
  unfold execPorstRise
  try dsimp only
  repeat'
    first
      | with_reducible assumption | with_reducible refine State.porstRise_inv ?_ | exact invNext_refused
      | with_reducible refine invNext_next ?_

theorem execRefclkPllLock_inv {mode : Fin 4} {s : State} (hs : Inv s) : InvNext (execRefclkPllLock mode s) := by
  unfold execRefclkPllLock
  try dsimp only
  repeat'
    first
      | with_reducible assumption | with_reducible refine State.pllLocked_inv ?_ | exact invNext_refused
      | with_reducible refine invNext_next ?_

theorem execTaskStart_inv {t : TileIx} {s : State} (hs : Inv s) : InvNext (execTaskStart t s) := by
  unfold execTaskStart
  try dsimp only
  repeat'
    first
      | with_reducible assumption | with_reducible refine State.startHead_inv ?_ | exact invNext_refused
      | with_reducible refine invNext_next ?_

theorem State.programWrite_inv {s : State} {p : Nat} {t : Nat} {off : Nat} {bs : List Byte} (hs : Inv s) :
    Inv (State.programWrite s p t off bs) := by
  unfold State.programWrite
  try dsimp only
  repeat'
    first
      | with_reducible assumption | with_reducible refine State.writeProgram_inv ?_ | with_reducible refine State.event_inv ?_
      | with_reducible refine inv_ite ?_ ?_

theorem execProgramMemoryWrite_inv {p : PtnIx} {t : TileIx} {offset : Fin 131072} {value : Byte} {s : State} (hs : Inv s) :
    InvNext (execProgramMemoryWrite p t offset value s) := by
  unfold execProgramMemoryWrite
  try dsimp only
  repeat'
    first
      | with_reducible assumption | with_reducible refine State.programWrite_inv ?_ | exact invNext_refused
      | with_reducible refine invNext_next ?_

theorem execTaskEnd_inv {t : TileIx} {s : State} (hs : Inv s) : InvNext (execTaskEnd t s) := by
  unfold execTaskEnd
  try dsimp only
  repeat'
    first
      | with_reducible assumption | with_reducible refine State.endTask_inv ?_ | exact invNext_refused
      | with_reducible refine invNext_next ?_

theorem execInterruptEntry_inv {t : TileIx} {s : State} (hs : Inv s) : InvNext (execInterruptEntry t s) := by
  unfold execInterruptEntry
  try dsimp only
  repeat'
    first
      | with_reducible assumption | with_reducible refine State.enterInterrupt_inv ?_ | exact invNext_refused
      | with_reducible refine invNext_next ?_ | with_reducible refine invNext_ite ?_ ?_

theorem execResultWrite_inv {t : TileIx} {s : State} (hs : Inv s) : InvNext (execResultWrite t s) := by
  unfold execResultWrite
  try dsimp only
  repeat'
    first
      | with_reducible assumption | with_reducible refine State.modTile_inv ?_ | with_reducible refine State.endCyclesOf_inv ?_
      | exact invNext_refused | with_reducible refine invNext_next ?_ | with_reducible refine invNext_ite ?_ ?_
      | with_reducible refine inv_ite ?_ ?_ | split

theorem State.rdAtu_inv {s : State} {p : Nat} {a : Nat} (hs : Inv s) : Inv (State.rdAtu s p a).2 := by
  unfold State.rdAtu
  extract_lets o snap g
  clear_value o snap g
  refine inv_ite_snd (State.snapRead_inv hs) (inv_ite_snd hs (inv_ite_snd hs (inv_ite_snd hs (inv_ite_snd hs
    (inv_ite_snd hs (inv_ite_snd hs (inv_ite_snd hs (inv_ite_snd hs (inv_ite_snd hs (inv_ite_snd (inv_ite_snd hs ?_) hs))))))))))
  exact inv_ite (State.etsPop_inv hs) hs

theorem State.rdSec_inv {s : State} {p : Nat} {a : Nat} (hs : Inv s) : Inv (State.rdSec s p a).2 := by
  unfold State.rdSec
  extract_lets o
  clear_value o
  refine inv_ite_snd (inv_ite_snd hs hs) (inv_ite_snd (inv_ite_snd hs hs) (inv_ite_snd (inv_ite_snd ?_ (State.setFld_inv hs)) ?_))
  · exact State.setFld_inv (State.draw_inv hs)
  · split <;> exact hs

theorem State.regRead_inv {s : State} {p : Nat} {a : Nat} (hs : Inv s) : Inv (State.regRead s p a).2 := by
  unfold State.regRead
  try dsimp only
  repeat'
    first
      | with_reducible assumption | with_reducible refine State.rtcLatch_inv ?_ | with_reducible refine State.rdAtu_inv ?_
      | with_reducible refine State.rdSec_inv ?_ | with_reducible refine inv_snd (by assumption) ?_
      | with_reducible refine inv_fst (by assumption) ?_ | with_reducible refine inv_ite ?_ ?_
      | with_reducible refine inv_ite_snd ?_ ?_ | dsimp only | split

theorem State.setPciFn_inv {s : State} {fn : Nat} {f : PciFn} (hs : Inv s) : Inv (State.setPciFn s fn f) := by
  unfold State.setPciFn
  try dsimp only
  repeat'
    first
      | with_reducible assumption | with_reducible refine State.put_inv ?_ | with_reducible refine inv_snd (by assumption) ?_
      | with_reducible refine inv_fst (by assumption) ?_ | with_reducible refine inv_ite ?_ ?_
      | (simp only [inv_mk]; refine inv_parts ?_)

theorem State.unmasked_inv {s : State} {fn : Nat} {vec : Nat} (hs : Inv s) : Inv (State.unmasked s fn vec) := by
  unfold State.unmasked
  try dsimp only
  repeat'
    first
      | with_reducible assumption | with_reducible refine State.setPciFn_inv ?_ | with_reducible refine State.sendMsix_inv ?_
      | with_reducible refine inv_ite ?_ ?_

theorem State.msixWrite_inv {s : State} {fn : Nat} {k : Nat} {v : Nat} (hs : Inv s) : Inv (State.msixWrite s fn k v) := by
  unfold State.msixWrite
  try dsimp only
  repeat'
    first
      | with_reducible assumption | with_reducible refine State.setPciFn_inv ?_ | with_reducible refine State.unmasked_inv ?_

theorem State.pciFnWrite_inv {s : State} {f : Nat} {v : Nat} (hs : Inv s) : Inv (State.pciFnWrite s f v) := by
  unfold State.pciFnWrite
  try dsimp only
  repeat'
    first
      | with_reducible assumption | with_reducible refine State.setFld_inv ?_ | with_reducible refine inv_ite ?_ ?_

theorem State.ethPortWrite_inv {s : State} {src : Nat} {n : Nat} {v : Nat} (hs : Inv s) :
    Inv (State.ethPortWrite s src n v) := by
  unfold State.ethPortWrite
  try dsimp only
  repeat'
    first
      | with_reducible assumption | with_reducible refine State.setFld_inv ?_ | with_reducible refine State.ethLink_inv ?_
      | with_reducible refine inv_ite ?_ ?_ | (simp only [inv_mk]; refine inv_parts ?_)

theorem State.ethQuadWrite_inv {s : State} {q : Nat} {v : Nat} (hs : Inv s) : Inv (State.ethQuadWrite s q v) := by
  unfold State.ethQuadWrite
  try dsimp only
  repeat'
    first
      | with_reducible assumption | with_reducible refine State.setFld_inv ?_ | with_reducible refine inv_ite ?_ ?_

theorem State.ethQCfgWrite_inv {s : State} {src : Nat} {q : Nat} {v : Nat} (hs : Inv s) :
    Inv (State.ethQCfgWrite s src q v) := by
  unfold State.ethQCfgWrite
  try dsimp only
  repeat' (first | with_reducible assumption | with_reducible refine State.setReg_inv ?_)

theorem State.ethTail_inv {s : State} {q : Nat} {t : Nat} (hs : Inv s) : Inv (State.ethTail s q t) := by
  unfold State.ethTail
  try dsimp only
  repeat'
    first
      | with_reducible assumption | with_reducible refine State.setReg_inv ?_ | with_reducible refine State.event_inv ?_
      | with_reducible refine inv_ite ?_ ?_

theorem State.ethHead_inv {s : State} {q : Nat} {h : Nat} (hs : Inv s) : Inv (State.ethHead s q h) := by
  unfold State.ethHead
  try dsimp only
  repeat'
    first
      | with_reducible assumption | with_reducible refine State.setReg_inv ?_ | with_reducible refine State.event_inv ?_
      | with_reducible refine inv_ite ?_ ?_

theorem State.setWindow_inv {s : State} {r : Reg} {bs : List Byte} (hs : Inv s) : Inv (State.setWindow s r bs) := by
  unfold State.setWindow
  try dsimp only
  repeat'
    first
      | with_reducible assumption | with_reducible refine State.setReg_inv ?_ | refine forEach_inv (fun _ _ _ => ?_) ?_

theorem State.xspIssue_inv {s : State} {src : Nat} (hs : Inv s) : Inv (State.xspIssue s src) := by
  unfold State.xspIssue
  try dsimp only
  repeat'
    first
      | with_reducible assumption | with_reducible refine State.setFld_inv ?_ | with_reducible refine State.pumpFlash_inv ?_
      | with_reducible refine inv_ite ?_ ?_ | (simp only [inv_mk]; refine inv_parts ?_)

theorem State.xspEnd_inv {s : State} {data : List Byte} (hs : Inv s) : Inv (State.xspEnd s data) := by
  unfold State.xspEnd
  try dsimp only
  repeat'
    first
      | with_reducible assumption | with_reducible refine State.opEnds_inv ?_ | with_reducible refine State.xspEffect_inv ?_
      | with_reducible refine State.setWindow_inv ?_ | with_reducible refine State.setFld_inv ?_
      | with_reducible refine State.aplicPulse_inv ?_ | with_reducible refine State.pumpFlash_inv ?_ | split

theorem State.sbIssue_inv {s : State} {src : Nat} (hs : Inv s) : Inv (State.sbIssue s src) := by
  unfold State.sbIssue
  try dsimp only
  repeat'
    first
      | with_reducible assumption | with_reducible refine State.setFld_inv ?_ | with_reducible refine inv_ite ?_ ?_

theorem State.sbEnd_inv {s : State} {err : Nat} {data : List Byte} (hs : Inv s) : Inv (State.sbEnd s err data) := by
  unfold State.sbEnd
  try dsimp only
  repeat'
    first
      | with_reducible assumption | with_reducible refine State.setFld_inv ?_ | with_reducible refine State.setWindow_inv ?_
      | with_reducible refine State.aplicPulse_inv ?_ | with_reducible refine inv_ite ?_ ?_

theorem execLinkEnable_inv {src : PtnIx} {k : LinkIx} {s : State} (hs : Inv s) : InvNext (execLinkEnable src k s) := by
  unfold execLinkEnable
  try dsimp only
  repeat'
    first
      | with_reducible assumption | with_reducible refine State.linkEnable_inv ?_ | exact invNext_refused
      | with_reducible refine invNext_next ?_

theorem execLinkDisable_inv {src : PtnIx} {k : LinkIx} {s : State} (hs : Inv s) : InvNext (execLinkDisable src k s) := by
  unfold execLinkDisable
  try dsimp only
  repeat'
    first
      | with_reducible assumption | with_reducible refine State.linkDisable_inv ?_ | exact invNext_refused
      | with_reducible refine invNext_next ?_

theorem execLinkTrainDone_inv {k : LinkIx} {locked : BitVec 4} {peer : Peer} {s : State} (hs : Inv s) :
    InvNext (execLinkTrainDone k locked peer s) := by
  unfold execLinkTrainDone
  try dsimp only
  repeat'
    first
      | with_reducible assumption | with_reducible refine State.linkTrained_inv ?_ | exact invNext_refused
      | with_reducible refine invNext_next ?_

theorem execLinkTrainTimeout_inv {k : LinkIx} {s : State} (hs : Inv s) : InvNext (execLinkTrainTimeout k s) := by
  unfold execLinkTrainTimeout
  try dsimp only
  repeat'
    first
      | with_reducible assumption | with_reducible refine State.linkTimeout_inv ?_ | exact invNext_refused
      | with_reducible refine invNext_next ?_

theorem execRetrain_inv {src : PtnIx} {k : LinkIx} {s : State} (hs : Inv s) : InvNext (execRetrain src k s) := by
  unfold execRetrain
  try dsimp only
  repeat'
    first
      | with_reducible assumption | with_reducible refine State.linkRetrain'_inv ?_ | exact invNext_refused
      | with_reducible refine invNext_next ?_

theorem execRetrainDone_inv {k : LinkIx} {locked : BitVec 4} {s : State} (hs : Inv s) :
    InvNext (execRetrainDone k locked s) := by
  unfold execRetrainDone
  try dsimp only
  repeat'
    first
      | with_reducible assumption | with_reducible refine State.retrained_inv ?_ | exact invNext_refused
      | with_reducible refine invNext_next ?_

theorem execRetrainTimeout_inv {k : LinkIx} {s : State} (hs : Inv s) : InvNext (execRetrainTimeout k s) := by
  unfold execRetrainTimeout
  try dsimp only
  repeat'
    first
      | with_reducible assumption | with_reducible refine State.linkTimeout_inv ?_ | exact invNext_refused
      | with_reducible refine invNext_next ?_

theorem execFlitReceive_inv {k : LinkIx} {flit : List Byte} {fec : BitVec 4} {s : State} (hs : Inv s) :
    InvNext (execFlitReceive k flit fec s) := by
  unfold execFlitReceive
  try dsimp only
  repeat'
    first
      | with_reducible assumption | with_reducible refine State.flitArrives_inv ?_ | exact invNext_refused
      | with_reducible refine invNext_next ?_ | with_reducible refine invNext_ite ?_ ?_

theorem execPacketTransit_inv {k : LinkIx} {s : State} (hs : Inv s) : InvNext (execPacketTransit k s) := by
  unfold execPacketTransit
  try dsimp only
  repeat'
    first
      | with_reducible assumption | with_reducible refine State.transit_inv ?_ | exact invNext_refused
      | with_reducible refine invNext_next ?_

theorem execRdReq_inv {k : LinkIx} {err : MemErr} {s : State} (hs : Inv s) : InvNext (execRdReq k err s) := by
  unfold execRdReq
  try dsimp only
  repeat'
    first
      | with_reducible assumption | with_reducible refine State.packetOf_inv ?_ ?_ | with_reducible refine State.serveRead_inv ?_
      | exact invNext_refused | with_reducible refine invNext_next ?_ | with_reducible refine invNext_ite ?_ ?_
      | with_reducible refine inv_ite ?_ ?_ | split | intro _ _ | intro _

theorem execRdRsp_inv {k : LinkIx} {s : State} (hs : Inv s) : InvNext (execRdRsp k s) := by
  unfold execRdRsp
  try dsimp only
  repeat'
    first
      | with_reducible assumption | with_reducible refine State.packetOf_inv ?_ ?_
      | with_reducible refine State.serveResponse_inv ?_ | exact invNext_refused | with_reducible refine invNext_next ?_
      | with_reducible refine invNext_ite ?_ ?_ | with_reducible refine inv_ite ?_ ?_ | split | intro _ _ | intro _

theorem execWr_inv {k : LinkIx} {err : MemErr} {s : State} (hs : Inv s) : InvNext (execWr k err s) := by
  unfold execWr
  try dsimp only
  repeat'
    first
      | with_reducible assumption | with_reducible refine State.writeArrives_inv ?_ | exact invNext_refused
      | with_reducible refine invNext_next ?_

theorem execWrAck_inv {k : LinkIx} {s : State} (hs : Inv s) : InvNext (execWrAck k s) := by
  unfold execWrAck
  try dsimp only
  repeat'
    first
      | with_reducible assumption | with_reducible refine State.packetOf_inv ?_ ?_
      | with_reducible refine State.serveResponse_inv ?_ | exact invNext_refused | with_reducible refine invNext_next ?_
      | with_reducible refine invNext_ite ?_ ?_ | with_reducible refine inv_ite ?_ ?_ | split | intro _ _ | intro _

theorem execAtom_inv {k : LinkIx} {err : MemErr} {s : State} (hs : Inv s) : InvNext (execAtom k err s) := by
  unfold execAtom
  try dsimp only
  repeat'
    first
      | with_reducible assumption | with_reducible refine State.packetOf_inv ?_ ?_
      | with_reducible refine State.serveAtomic_inv ?_ | exact invNext_refused | with_reducible refine invNext_next ?_
      | with_reducible refine invNext_ite ?_ ?_ | with_reducible refine inv_ite ?_ ?_ | split | intro _ _ | intro _

theorem execAtomRsp_inv {k : LinkIx} {s : State} (hs : Inv s) : InvNext (execAtomRsp k s) := by
  unfold execAtomRsp
  try dsimp only
  repeat'
    first
      | with_reducible assumption | with_reducible refine State.packetOf_inv ?_ ?_
      | with_reducible refine State.serveResponse_inv ?_ | exact invNext_refused | with_reducible refine invNext_next ?_
      | with_reducible refine invNext_ite ?_ ?_ | with_reducible refine inv_ite ?_ ?_ | split | intro _ _ | intro _

theorem execErrRsp_inv {k : LinkIx} {s : State} (hs : Inv s) : InvNext (execErrRsp k s) := by
  unfold execErrRsp
  try dsimp only
  repeat'
    first
      | with_reducible assumption | with_reducible refine State.packetOf_inv ?_ ?_
      | with_reducible refine State.serveResponse_inv ?_ | exact invNext_refused | with_reducible refine invNext_next ?_
      | with_reducible refine invNext_ite ?_ ?_ | with_reducible refine inv_ite ?_ ?_ | split | intro _ _ | intro _

theorem execBelay_inv {k : LinkIx} {s : State} (hs : Inv s) : InvNext (execBelay k s) := by
  unfold execBelay
  try dsimp only
  repeat'
    first
      | with_reducible assumption | with_reducible refine State.packetOf_inv ?_ ?_
      | with_reducible refine State.belayArrive_inv ?_ | exact invNext_refused | with_reducible refine invNext_next ?_
      | with_reducible refine invNext_ite ?_ ?_ | with_reducible refine inv_ite ?_ ?_ | split | intro _ _ | intro _

theorem execGpoolReq_inv {k : LinkIx} {s : State} (hs : Inv s) : InvNext (execGpoolReq k s) := by
  unfold execGpoolReq
  try dsimp only
  repeat'
    first
      | with_reducible assumption | with_reducible refine State.packetOf_inv ?_ ?_ | with_reducible refine State.servePool_inv ?_
      | exact invNext_refused | with_reducible refine invNext_next ?_ | with_reducible refine invNext_ite ?_ ?_
      | with_reducible refine inv_ite ?_ ?_ | split | intro _ _ | intro _

theorem execGpoolRsp_inv {k : LinkIx} {s : State} (hs : Inv s) : InvNext (execGpoolRsp k s) := by
  unfold execGpoolRsp
  try dsimp only
  repeat'
    first
      | with_reducible assumption | with_reducible refine State.packetOf_inv ?_ ?_
      | with_reducible refine State.serveResponse_inv ?_ | exact invNext_refused | with_reducible refine invNext_next ?_
      | with_reducible refine invNext_ite ?_ ?_ | with_reducible refine inv_ite ?_ ?_ | split | intro _ _ | intro _

theorem execDigest_inv {k : LinkIx} {s : State} (hs : Inv s) : InvNext (execDigest k s) := by
  unfold execDigest
  try dsimp only
  repeat'
    first
      | with_reducible assumption | with_reducible refine State.digestPacket_inv ?_ | exact invNext_refused
      | with_reducible refine invNext_next ?_

theorem execMessageAppend_inv {q : PtnIx} {s : State} (hs : Inv s) : InvNext (execMessageAppend q s) := by
  unfold execMessageAppend
  try dsimp only
  repeat'
    first
      | with_reducible assumption | with_reducible refine State.messageAppend_inv ?_ | exact invNext_refused
      | with_reducible refine invNext_next ?_

theorem execMessageTimeout_inv {q : PtnIx} {s : State} (hs : Inv s) : InvNext (execMessageTimeout q s) := by
  unfold execMessageTimeout
  try dsimp only
  repeat'
    first
      | with_reducible assumption | with_reducible refine State.messageTimeout_inv ?_ | exact invNext_refused
      | with_reducible refine invNext_next ?_

theorem execRequestTimeout_inv {tag : BitVec 16} {s : State} (hs : Inv s) : InvNext (execRequestTimeout tag s) := by
  unfold execRequestTimeout
  try dsimp only
  repeat'
    first
      | with_reducible assumption | with_reducible refine State.requestTimeout_inv ?_ | exact invNext_refused
      | with_reducible refine invNext_next ?_

theorem execBelayHoldTimeout_inv {s : State} (hs : Inv s) : InvNext (execBelayHoldTimeout s) := by
  unfold execBelayHoldTimeout
  try dsimp only
  repeat'
    first
      | with_reducible assumption | with_reducible refine State.belayHoldTimeout_inv ?_ | exact invNext_refused
      | with_reducible refine invNext_next ?_

theorem execRouteWrite_inv {src : PtnIx} {dst : BitVec 12} {alt : Bool} {value : Word} {s : State} (hs : Inv s) :
    InvNext (execRouteWrite src dst alt value s) := by
  unfold execRouteWrite
  try dsimp only
  repeat'
    first
      | with_reducible assumption | with_reducible refine State.routeWrite_inv ?_ | exact invNext_refused
      | with_reducible refine invNext_next ?_

theorem execYalClrCnt_inv {src : PtnIx} {s : State} (hs : Inv s) : InvNext (execYalClrCnt src s) := by
  unfold execYalClrCnt
  try dsimp only
  repeat'
    first
      | with_reducible assumption | with_reducible refine State.yalClrCnt_inv ?_ | exact invNext_refused
      | with_reducible refine invNext_next ?_

end Sys2Proof.Machine
end

