-- ==== Sys2Proof/Laws/InvPorts.lean ====
section
/-! SUPPORT. Every definition of register writes, the PCIe and Ethernet ports and the cores that answers a state keeps the invariant
`Inv` of Safety.lean: one lemma per definition, named after it with the ending _inv. -/
namespace Sys2Proof.Machine

theorem State.managerWrite_inv {s : State} {src : Nat} {a : Nat} {v : Nat} (hs : Inv s) :
    Inv (State.managerWrite s src a v) := by
  unfold State.managerWrite
  try dsimp only
  repeat'
    first
      | with_reducible assumption | with_reducible refine State.plainWrite_inv ?_ | with_reducible refine inv_ite ?_ ?_

theorem State.chipIdWrite_inv {s : State} {v : Nat} (hs : Inv s) : Inv (State.chipIdWrite s v) := by
  unfold State.chipIdWrite
  try dsimp only
  repeat'
    first
      | with_reducible assumption | with_reducible refine State.setFld_inv ?_ | with_reducible refine inv_ite ?_ ?_

theorem State.wrSys_inv {s : State} {a : Nat} {v : Nat} (hs : Inv s) : Inv (State.wrSys s a v) := by
  unfold State.wrSys
  try dsimp only
  repeat'
    first
      | with_reducible assumption | with_reducible refine State.chipIdWrite_inv ?_ | with_reducible refine inv_ite ?_ ?_

theorem State.atuCtlWrite_inv {s : State} {p : Nat} {v : Nat} (hs : Inv s) : Inv (State.atuCtlWrite s p v) := by
  unfold State.atuCtlWrite
  try dsimp only
  repeat'
    first
      | with_reducible assumption | with_reducible refine State.writeReg_inv ?_ | with_reducible refine State.rcvCheck_inv ?_
      | with_reducible refine State.modAtu_inv ?_ ?_ | with_reducible exact fun _ _ => Atu.setNow_time _ _
      | with_reducible exact fun _ h => h | with_reducible refine State.atuSet_inv ?_ | with_reducible refine inv_ite ?_ ?_

theorem State.trgWrite_inv {s : State} {p : Nat} {o : Nat} {v : Nat} (hs : Inv s) : Inv (State.trgWrite s p o v) := by
  unfold State.trgWrite
  try dsimp only
  repeat'
    first
      | with_reducible assumption | with_reducible refine State.setStage_inv ?_ | with_reducible refine State.trgArm_inv ?_
      | with_reducible refine State.trgDisarm_inv ?_ | with_reducible refine State.trgRead_inv ?_
      | with_reducible refine inv_ite ?_ ?_ | split

theorem State.wrAtu_inv {s : State} {p : Nat} {a : Nat} {v : Nat} (hs : Inv s) : Inv (State.wrAtu s p a v) := by
  unfold State.wrAtu
  try dsimp only
  repeat'
    first
      | with_reducible assumption | with_reducible refine State.trgWrite_inv ?_ | with_reducible refine State.plainWrite_inv ?_
      | with_reducible refine State.atuCtlWrite_inv ?_ | with_reducible refine State.atuStep_inv ?_
      | with_reducible refine State.ofsIn_inv ?_ | with_reducible refine State.cellWrite_inv ?_
      | with_reducible refine State.setFld_inv ?_ | split

theorem State.wrJob_inv {s : State} {src : Nat} {a : Nat} {v : Nat} (hs : Inv s) : Inv (State.wrJob s src a v) := by
  unfold State.wrJob
  try dsimp only
  repeat'
    first
      | with_reducible assumption | with_reducible refine State.plainWrite_inv ?_ | with_reducible refine State.jobClrStats_inv ?_
      | with_reducible refine State.ringEnable_inv ?_ | with_reducible refine State.flushEvents_inv ?_
      | with_reducible refine State.resume_inv ?_ | with_reducible refine State.unquiesce_inv ?_
      | with_reducible refine State.objectRegister_inv ?_ | with_reducible refine State.objectRetire_inv ?_
      | with_reducible refine inv_ite ?_ ?_ | split

theorem State.arrClear_inv {s : State} {t : Nat} (hs : Inv s) : Inv (State.arrClear s t) := by
  unfold State.arrClear
  try dsimp only
  repeat' (first | with_reducible assumption | with_reducible refine State.setReg_inv ?_)

theorem State.stmClear_inv {s : State} {t : Nat} (hs : Inv s) : Inv (State.stmClear s t) := by
  unfold State.stmClear
  try dsimp only
  repeat' (first | with_reducible assumption | with_reducible refine State.setReg_inv ?_)

theorem State.arrClrCnt_inv {s : State} {src : Nat} {t : Nat} (hs : Inv s) : Inv (State.arrClrCnt s src t) := by
  unfold State.arrClrCnt
  try dsimp only
  repeat'
    first
      | with_reducible assumption | with_reducible refine State.arrClear_inv ?_ | with_reducible refine inv_ite ?_ ?_

theorem State.stmClrCnt_inv {s : State} {src : Nat} {t : Nat} (hs : Inv s) : Inv (State.stmClrCnt s src t) := by
  unfold State.stmClrCnt
  try dsimp only
  repeat'
    first
      | with_reducible assumption | with_reducible refine State.stmClear_inv ?_ | with_reducible refine inv_ite ?_ ?_

theorem State.eleClrCnt_inv {s : State} {src : Nat} {t : Nat} (hs : Inv s) : Inv (State.eleClrCnt s src t) := by
  unfold State.eleClrCnt
  try dsimp only
  repeat'
    first
      | with_reducible assumption | with_reducible refine State.setReg_inv ?_ | with_reducible refine State.writeIgnored_inv ?_
      | with_reducible refine inv_ite ?_ ?_

theorem State.wrEle_inv {s : State} {src : Nat} {t : Nat} {a : Nat} {v : Nat} {r : Reg} (hs : Inv s) :
    Inv (State.wrEle s src t a v r) := by
  unfold State.wrEle
  try dsimp only
  repeat'
    first
      | with_reducible assumption | with_reducible refine State.writeIgnored_inv ?_ | with_reducible refine State.eleClrCnt_inv ?_
      | with_reducible refine State.plainWrite_inv ?_ | with_reducible refine State.setFld_inv ?_
      | with_reducible refine inv_ite ?_ ?_

theorem State.wrCrc_inv {s : State} {t : Nat} {a : Nat} {v : Nat} {r : RegRow} (hs : Inv s) :
    Inv (State.wrCrc s t a v r) := by
  unfold State.wrCrc
  try dsimp only
  repeat'
    first
      | with_reducible assumption | with_reducible refine State.crcWrite_inv ?_ | with_reducible refine inv_ite ?_ ?_

theorem State.nlogCfgWrite_inv {s : State} {t : Nat} {v : Nat} (hs : Inv s) : Inv (State.nlogCfgWrite s t v) := by
  unfold State.nlogCfgWrite
  try dsimp only
  repeat'
    first
      | with_reducible assumption | with_reducible refine State.writeReg_inv ?_ | with_reducible refine State.setFld_inv ?_
      | with_reducible refine inv_ite ?_ ?_

theorem State.wrTile_inv {s : State} {src : Nat} {t : Nat} {a : Nat} {v : Nat} (hs : Inv s) : Inv (State.wrTile s src t a v) := by
  unfold State.wrTile
  try dsimp only
  repeat'
    first
      | with_reducible assumption | with_reducible refine State.scaleWrite_inv ?_ | with_reducible refine State.wrEle_inv ?_
      | with_reducible refine State.nlogWrite_inv ?_ | with_reducible refine State.nlogCfgWrite_inv ?_
      | with_reducible refine State.arrClear_inv ?_ | with_reducible refine State.plainWrite_inv ?_
      | with_reducible refine State.endFill_inv ?_ | with_reducible refine State.stmClear_inv ?_
      | with_reducible refine State.wrCrc_inv ?_ | with_reducible refine inv_ite ?_ ?_ | split

theorem State.wrFhe_inv {s : State} {src : Nat} {a : Nat} {v : Nat} (hs : Inv s) : Inv (State.wrFhe s src a v) := by
  unfold State.wrFhe
  try dsimp only
  repeat'
    first
      | with_reducible assumption | with_reducible refine State.plainWrite_inv ?_ | with_reducible refine State.fheRxClrCnt_inv ?_
      | with_reducible refine State.rxSwitched_inv ?_ | with_reducible refine State.fheTxClrCnt_inv ?_
      | with_reducible refine State.syncTx_inv ?_ | with_reducible refine State.managerWrite_inv ?_
      | with_reducible refine State.crxCfgWrite_inv ?_ | with_reducible refine State.ctxCfgWrite_inv ?_
      | refine forEach_inv (fun _ _ _ => ?_) ?_ | split

theorem State.wrPra_inv {s : State} {src : Nat} {a : Nat} {v : Nat} (hs : Inv s) : Inv (State.wrPra s src a v) := by
  unfold State.wrPra
  try dsimp only
  repeat'
    first
      | with_reducible assumption | with_reducible refine State.plainWrite_inv ?_ | with_reducible refine State.praClrCnt_inv ?_
      | with_reducible refine State.syncPra_inv ?_ | with_reducible refine State.praCfgWrite_inv ?_
      | refine forEach_inv (fun _ _ _ => ?_) ?_ | with_reducible refine inv_ite ?_ ?_ | split

theorem State.wrDec_inv {s : State} {src : Nat} {a : Nat} {v : Nat} (hs : Inv s) : Inv (State.wrDec s src a v) := by
  unfold State.wrDec
  try dsimp only
  repeat'
    first
      | with_reducible assumption | with_reducible refine State.pshareWrite_inv ?_
      | with_reducible refine State.managerWrite_inv ?_ | with_reducible refine State.decClrCnt_inv ?_
      | with_reducible refine inv_ite ?_ ?_ | split

theorem State.wrEnc_inv {s : State} {src : Nat} {a : Nat} {v : Nat} (hs : Inv s) : Inv (State.wrEnc s src a v) := by
  unfold State.wrEnc
  try dsimp only
  repeat'
    first
      | with_reducible assumption | with_reducible refine State.managerWrite_inv ?_ | with_reducible refine State.encClrCnt_inv ?_
      | with_reducible refine inv_ite ?_ ?_

theorem State.wrPtn_inv {s : State} {src : Nat} {a : Nat} {v : Nat} (hs : Inv s) : Inv (State.wrPtn s src a v) := by
  unfold State.wrPtn
  try dsimp only
  repeat'
    first
      | with_reducible assumption | with_reducible refine State.ptnCtlWrite_inv ?_
      | with_reducible refine State.ptnCfgWrite_inv ?_ | with_reducible refine State.ptnClrCnt_inv ?_
      | with_reducible refine State.cairnFaultClear_inv ?_ | with_reducible refine State.managerWrite_inv ?_
      | with_reducible refine inv_ite ?_ ?_ | split

theorem State.wrClu_inv {s : State} {src : Nat} {c : Nat} {a : Nat} {v : Nat} (hs : Inv s) :
    Inv (State.wrClu s src c a v) := by
  unfold State.wrClu
  try dsimp only
  repeat'
    first
      | with_reducible assumption | with_reducible refine State.semWrite_inv ?_ | with_reducible refine State.managerWrite_inv ?_
      | with_reducible refine State.cluClrCnt_inv ?_ | with_reducible refine State.gthClrCnt_inv ?_
      | with_reducible refine inv_ite ?_ ?_ | split

theorem State.wrHbm_inv {s : State} {src : Nat} {st : Nat} {a : Nat} {v : Nat} (hs : Inv s) :
    Inv (State.wrHbm s src st a v) := by
  unfold State.wrHbm
  try dsimp only
  repeat'
    first
      | with_reducible assumption | with_reducible refine State.hbmEnable_inv ?_ | with_reducible refine State.hbmDisable_inv ?_
      | with_reducible refine State.hbmClrCnt_inv ?_ | with_reducible refine inv_ite ?_ ?_

theorem State.wrMmu_inv {s : State} {src : Nat} {a : Nat} {v : Nat} (hs : Inv s) : Inv (State.wrMmu s src a v) := by
  unfold State.wrMmu
  try dsimp only
  repeat'
    first
      | with_reducible assumption | with_reducible refine State.frWrite_inv ?_ | with_reducible refine State.plainWrite_inv ?_
      | with_reducible refine State.resolve_inv ?_ | with_reducible refine State.invStart_inv ?_
      | with_reducible refine State.setFld_inv ?_ | split

theorem State.wrSyc_inv {s : State} {src : Nat} {a : Nat} {v : Nat} (hs : Inv s) : Inv (State.wrSyc s src a v) := by
  unfold State.wrSyc
  try dsimp only
  repeat'
    first
      | with_reducible assumption | with_reducible refine State.maintStart_inv ?_ | with_reducible refine State.plainWrite_inv ?_
      | with_reducible refine inv_ite ?_ ?_

theorem State.linkCtlWrite_inv {s : State} {src : Nat} {k : Nat} {v : Nat} (hs : Inv s) :
    Inv (State.linkCtlWrite s src k v) := by
  unfold State.linkCtlWrite
  try dsimp only
  repeat'
    first
      | with_reducible assumption | with_reducible refine State.setFld_inv ?_ | with_reducible refine State.linkEnable_inv ?_
      | with_reducible refine State.linkDisable_inv ?_ | with_reducible refine State.linkRetrain'_inv ?_
      | with_reducible refine inv_ite ?_ ?_

theorem State.mqCfgWrite_inv {s : State} {p : Nat} {v : Nat} (hs : Inv s) : Inv (State.mqCfgWrite s p v) := by
  unfold State.mqCfgWrite
  try dsimp only
  repeat'
    first
      | with_reducible assumption | with_reducible refine State.writeReg_inv ?_ | with_reducible refine State.setReg_inv ?_
      | with_reducible refine State.setFld_inv ?_ | with_reducible refine inv_ite ?_ ?_

theorem State.mqHeadWrite_inv {s : State} {p : Nat} {h : Nat} (hs : Inv s) : Inv (State.mqHeadWrite s p h) := by
  unfold State.mqHeadWrite
  try dsimp only
  repeat'
    first
      | with_reducible assumption | with_reducible refine State.setReg_inv ?_ | with_reducible refine State.event_inv ?_
      | with_reducible refine inv_ite ?_ ?_

theorem State.wrYal_inv {s : State} {src : Nat} {a : Nat} {v : Nat} (hs : Inv s) : Inv (State.wrYal s src a v) := by
  unfold State.wrYal
  try dsimp only
  repeat'
    first
      | with_reducible assumption | with_reducible refine State.mqCfgWrite_inv ?_ | with_reducible refine State.plainWrite_inv ?_
      | with_reducible refine State.mqHeadWrite_inv ?_ | with_reducible refine State.routeWrite_inv ?_
      | with_reducible refine State.linkCtlWrite_inv ?_ | with_reducible refine State.managerWrite_inv ?_
      | with_reducible refine State.yalClrCnt_inv ?_ | with_reducible refine inv_ite ?_ ?_ | split

theorem State.scrCfgWrite_inv {s : State} {p : Nat} {v : Nat} (hs : Inv s) : Inv (State.scrCfgWrite s p v) := by
  unfold State.scrCfgWrite
  try dsimp only
  repeat'
    first
      | with_reducible assumption | with_reducible refine State.writeReg_inv ?_ | with_reducible refine State.setFld_inv ?_
      | with_reducible refine inv_ite ?_ ?_

theorem State.ropeWrite_inv {s : State} {p : Nat} {v : Nat} (hs : Inv s) : Inv (State.ropeWrite s p v) := by
  unfold State.ropeWrite
  try dsimp only
  repeat'
    first
      | with_reducible assumption | with_reducible refine State.writeReg_inv ?_ | with_reducible refine State.setFld_inv ?_
      | with_reducible refine inv_ite ?_ ?_

theorem State.wrDgt_inv {s : State} {src : Nat} {a : Nat} {v : Nat} (hs : Inv s) : Inv (State.wrDgt s src a v) := by
  unfold State.wrDgt
  try dsimp only
  repeat'
    first
      | with_reducible assumption | with_reducible refine State.dgtClrCnt_inv ?_ | with_reducible refine State.scrCfgWrite_inv ?_
      | with_reducible refine State.ropeWrite_inv ?_ | with_reducible refine State.plainWrite_inv ?_
      | with_reducible refine inv_ite ?_ ?_ | split

theorem State.wrBbx_inv {s : State} {src : Nat} {a : Nat} {v : Nat} (hs : Inv s) : Inv (State.wrBbx s src a v) := by
  unfold State.wrBbx
  try dsimp only
  repeat'
    first
      | with_reducible assumption | with_reducible refine State.plainWrite_inv ?_ | with_reducible refine State.pumpFlash_inv ?_
      | with_reducible refine State.bbxClrCnt_inv ?_ | with_reducible refine State.bankSwitch_inv ?_
      | with_reducible refine State.setReg_inv ?_ | with_reducible refine State.retireByCommand_inv ?_
      | with_reducible refine State.softwareRecord_inv ?_ | with_reducible refine inv_ite ?_ ?_

theorem State.wrPwr_inv {s : State} {src : Nat} {a : Nat} {v : Nat} (hs : Inv s) : Inv (State.wrPwr s src a v) := by
  unfold State.wrPwr
  try dsimp only
  repeat'
    first
      | with_reducible assumption | with_reducible refine State.sagWrite_inv ?_ | with_reducible refine State.stopWrite_inv ?_
      | with_reducible refine State.plainWrite_inv ?_ | with_reducible refine State.domRequest_inv ?_
      | with_reducible refine State.opReq_inv ?_ | with_reducible refine State.rtcLoad_inv ?_
      | with_reducible refine inv_ite ?_ ?_ | split

theorem State.wrSec_inv {s : State} {src : Nat} {a : Nat} {v : Nat} (hs : Inv s) : Inv (State.wrSec s src a v) := by
  unfold State.wrSec
  try dsimp only
  repeat'
    first
      | with_reducible assumption | with_reducible refine State.mailbox_inv ?_ | with_reducible refine State.plainWrite_inv ?_
      | with_reducible refine State.confirmTrial_inv ?_ | with_reducible refine State.commitFloors_inv ?_
      | with_reducible refine State.extend_inv ?_ | with_reducible refine inv_ite ?_ ?_ | split

theorem State.wrAci_inv {s : State} {p : Nat} {hart : Bool} {a : Nat} {v : Nat} (hs : Inv s) :
    Inv (State.wrAci s p hart a v) := by
  unfold State.wrAci
  try dsimp only
  repeat'
    first
      | with_reducible assumption | with_reducible refine State.setipnum_inv ?_ | with_reducible refine State.aplicWrite_inv ?_
      | with_reducible refine State.plainWrite_inv ?_ | with_reducible refine State.hartStart_inv ?_
      | with_reducible refine State.hartReset_inv ?_ | with_reducible refine inv_ite ?_ ?_ | split

theorem State.wrPci_inv {s : State} {src : Nat} {a : Nat} {v : Nat} (hs : Inv s) : Inv (State.wrPci s src a v) := by
  unfold State.wrPci
  try dsimp only
  repeat'
    first
      | with_reducible assumption | with_reducible refine State.msixWrite_inv ?_ | with_reducible refine State.pciFnWrite_inv ?_
      | with_reducible refine State.plainWrite_inv ?_ | with_reducible refine inv_ite ?_ ?_ | split

theorem State.wrEth_inv {s : State} {src : Nat} {a : Nat} {v : Nat} (hs : Inv s) : Inv (State.wrEth s src a v) := by
  unfold State.wrEth
  try dsimp only
  repeat'
    first
      | with_reducible assumption | with_reducible refine State.ethQCfgWrite_inv ?_ | with_reducible refine State.ethHead_inv ?_
      | with_reducible refine State.ethTail_inv ?_ | with_reducible refine State.plainWrite_inv ?_
      | with_reducible refine State.ethPortWrite_inv ?_ | with_reducible refine State.ethQuadWrite_inv ?_
      | with_reducible refine inv_ite ?_ ?_ | split

theorem State.wrXsp_inv {s : State} {src : Nat} {a : Nat} {v : Nat} (hs : Inv s) : Inv (State.wrXsp s src a v) := by
  unfold State.wrXsp
  try dsimp only
  repeat'
    first
      | with_reducible assumption | with_reducible refine State.managerWrite_inv ?_ | with_reducible refine State.xspIssue_inv ?_
      | with_reducible refine State.sbIssue_inv ?_ | with_reducible refine inv_ite ?_ ?_

theorem State.regWrite_inv {s : State} {src : Nat} {hart : Bool} {a : Nat} {v : Nat} (hs : Inv s) :
    Inv (State.regWrite s src hart a v) := by
  unfold State.regWrite
  try dsimp only
  repeat'
    first
      | with_reducible assumption | with_reducible refine State.wrTile_inv ?_ | with_reducible refine State.wrClu_inv ?_
      | with_reducible refine State.wrSys_inv ?_ | with_reducible refine State.wrPwr_inv ?_
      | with_reducible refine State.wrAtu_inv ?_ | with_reducible refine State.wrJob_inv ?_
      | with_reducible refine State.wrPtn_inv ?_ | with_reducible refine State.wrMmu_inv ?_
      | with_reducible refine State.wrHbm_inv ?_ | with_reducible refine State.wrSyc_inv ?_
      | with_reducible refine State.wrDec_inv ?_ | with_reducible refine State.wrEnc_inv ?_
      | with_reducible refine State.wrPra_inv ?_ | with_reducible refine State.wrFhe_inv ?_
      | with_reducible refine State.wrYal_inv ?_ | with_reducible refine State.wrEth_inv ?_
      | with_reducible refine State.wrPci_inv ?_ | with_reducible refine State.wrXsp_inv ?_
      | with_reducible refine State.wrSec_inv ?_ | with_reducible refine State.wrDgt_inv ?_
      | with_reducible refine State.wrBbx_inv ?_ | with_reducible refine State.wrAci_inv ?_ | with_reducible refine inv_ite ?_ ?_
      | split

theorem State.doorbellWrite_inv {s : State} {p : Nat} {q : Nat} {k : Nat} {off : Nat} {bs : List Byte} (hs : Inv s) :
    Inv (State.doorbellWrite s p q k off bs) := by
  unfold State.doorbellWrite
  try dsimp only
  repeat'
    first
      | with_reducible assumption | with_reducible refine State.belayEnqueue_inv ?_
      | with_reducible refine State.sqDoorbell_inv ?_ | with_reducible refine State.cqDoorbell_inv ?_
      | with_reducible refine State.eqDoorbell_inv ?_ | with_reducible refine inv_ite ?_ ?_

theorem State.writeWords_inv {s : State} {src : Nat} {hart : Bool} {a : Nat} {z0 : List Byte} (hs : Inv s) :
    Inv (State.writeWords s src hart a z0) := by
  have : ∀ n (l : List Byte) (s : State) (a : Nat), l.length ≤ n → Inv s → Inv (s.writeWords src hart a l) := by
    intro n
    induction n with
    | zero =>
      intro l s a hl h
      have : l = [] := List.length_eq_zero_iff.1 (by omega)
      subst this; exact h
    | succ n ih =>
      intro l s a hl h
      match l with
      | [] => exact h
      | [_] => exact h
      | [_, _] => exact h
      | [_, _, _] => exact h
      | b0 :: b1 :: b2 :: b3 :: rest => exact ih rest _ _ (by simp at hl; omega) (State.regWrite_inv h)
  exact this _ _ _ _ (Nat.le_refl _) hs

theorem State.ioWrite_inv {s : State} {src : Nat} {hart : Bool} {a : Nat} {bs : List Byte} (hs : Inv s) :
    Inv (State.ioWrite s src hart a bs) := by
  unfold State.ioWrite
  try dsimp only
  repeat'
    first
      | with_reducible assumption | with_reducible refine State.doorbellWrite_inv ?_
      | with_reducible refine State.writeWords_inv ?_ | with_reducible refine inv_ite ?_ ?_ | split

theorem State.readWords_inv {s : State} {f : Nat → State → Nat × State} {a : Nat} {z0 : Nat}
    (hs : Inv s) /- f : Nat → State → Nat × State -/ (hf : ∀ x s, Inv s → Inv (f x s).2) :
    Inv (State.readWords s f a z0).2 := by
  induction z0 generalizing s a with
  | zero => exact hs
  | succ k ih => exact ih (hf _ _ hs)

theorem State.ioRead_inv {s : State} {src : Nat} {a : Nat} {n : Nat} (hs : Inv s) : Inv (State.ioRead s src a n).2 := by
  unfold State.ioRead
  try dsimp only
  repeat'
    first
      | with_reducible assumption | with_reducible refine State.readWords_inv ?_ ?_ | with_reducible refine State.regRead_inv ?_
      | with_reducible refine inv_snd (by assumption) ?_ | with_reducible refine inv_fst (by assumption) ?_
      | with_reducible refine inv_ite ?_ ?_ | with_reducible refine inv_ite_snd ?_ ?_ | dsimp only | split | intro _ _ | intro _

theorem State.busWrite_inv {s : State} {p : Nat} {hart : Bool} {g : Nat} {bs : List Byte} {cache : Nat} {err : MemErr} (hs : Inv s) :
    Inv (State.busWrite s p hart g bs cache err).1 := by
  unfold State.busWrite
  try dsimp only
  repeat'
    first
      | with_reducible assumption | with_reducible refine State.event_inv ?_ | with_reducible refine State.devWrite_inv ?_
      | with_reducible refine State.ioWrite_inv ?_ | with_reducible refine State.memError_inv ?_
      | with_reducible refine inv_snd (by assumption) ?_ | with_reducible refine inv_fst (by assumption) ?_
      | with_reducible refine inv_of_ok (by assumption) ?_ | with_reducible refine inv_ite ?_ ?_
      | with_reducible refine inv_ite_fst ?_ ?_ | dsimp only | split

theorem State.busRead_inv {s : State} {p : Nat} {g : Nat} {n : Nat} {cache : Nat} {err : MemErr} (hs : Inv s) :
    Inv (State.busRead s p g n cache err).2 := by
  unfold State.busRead
  try dsimp only
  repeat'
    first
      | with_reducible assumption | with_reducible refine State.devRead_inv ?_ | with_reducible refine State.ioRead_inv ?_
      | with_reducible refine State.memError_inv ?_ | with_reducible refine inv_fst (by assumption) ?_ | split

theorem State.tableWrite_inv {s : State} {fn : Nat} {off : Nat} {z0 : List Byte} (hs : Inv s) :
    Inv (State.tableWrite s fn off z0) := by
  have : ∀ n (l : List Byte) (s : State) (off : Nat), l.length ≤ n → Inv s → Inv (s.tableWrite fn off l) := by
    intro n
    induction n with
    | zero =>
      intro l s a hl h
      have : l = [] := List.length_eq_zero_iff.1 (by omega)
      subst this; exact h
    | succ n ih =>
      intro l s a hl h
      match l with
      | [] => exact h
      | [_] => exact h
      | [_, _] => exact h
      | [_, _, _] => exact h
      | b0 :: b1 :: b2 :: b3 :: rest => exact ih rest _ _ (by simp at hl; omega) (inv_ite (State.msixWrite_inv h) h)
  exact this _ _ _ _ (Nat.le_refl _) hs

theorem State.complete_inv {s : State} {fn : Nat} {status : Nat} {bs : List Byte} (hs : Inv s) :
    Inv (State.complete s fn status bs) := by
  unfold State.complete
  try dsimp only
  repeat'
    first
      | with_reducible assumption | with_reducible refine inv_ite ?_ ?_ | (simp only [inv_mk]; refine inv_parts ?_)

theorem State.completeRead_inv {s : State} {fn : Nat} {r : Except Nat (List Byte)} (hs : Inv s) :
    Inv (State.completeRead s fn r) := by
  unfold State.completeRead
  try dsimp only
  repeat'
    first
      | with_reducible assumption | with_reducible refine State.complete_inv ?_ | with_reducible refine inv_ite ?_ ?_ | split

theorem State.holdTlp_inv {s : State} {fn : Nat} {off : Nat} {id : Nat} {write : Bool} {f : MFault} (hs : Inv s) :
    Inv (State.holdTlp s fn off id write f) := by
  unfold State.holdTlp
  try dsimp only
  repeat' (first | with_reducible assumption | with_reducible refine State.mmuFault_inv ?_)

theorem State.tlpConfig_inv {s : State} {fn : Nat} {bme : Bool} {on : Bool} (hs : Inv s) :
    Inv (State.tlpConfig s fn bme on) := by
  exact State.complete_inv (forEach_inv (fun _ _ h => State.unmasked_inv h) (State.setPciFn_inv hs))

theorem State.tlpReadAt_inv {s : State} {fn : Nat} {g : Nat} {n : Nat} {cache : Nat} {err : MemErr} (hs : Inv s) :
    Inv (State.tlpReadAt s fn g n cache err) := by
  exact State.completeRead_inv (State.busRead_inv hs)

theorem State.tlpReadTable_inv {s : State} {fn : Nat} {o : Nat} {n : Nat} (hs : Inv s) :
    Inv (State.tlpReadTable s fn o n) := by
  exact State.complete_inv (State.readWords_inv hs (fun _ _ h => h))

theorem State.tlpRead_inv {s : State} {id : Nat} {fn : Nat} {space : BarSpace} {o : Nat} {n : Nat} {err : MemErr} (hs : Inv s) :
    Inv (State.tlpRead s id fn space o n err).1 := by
  cases space with
  | absent => exact State.complete_inv hs
  | beyond => exact State.complete_inv hs
  | phys a => exact State.tlpReadAt_inv hs
  | table => exact State.tlpReadTable_inv hs
  | window =>
    unfold State.tlpRead
    have h := State.translate_inv (p := s.fnPtn fn) (va := o) (write := false) hs
    generalize State.translate s (s.fnPtn fn) o false = q at h
    obtain ⟨r, t⟩ := q
    cases r with
    | error f => exact State.holdTlp_inv h
    | ok g => exact State.tlpReadAt_inv h

theorem State.tlpWriteAt_inv {s : State} {fn : Nat} {g : Nat} {bs : List Byte} {cache : Nat} {err : MemErr} (hs : Inv s) :
    Inv (State.tlpWriteAt s fn g bs cache err) := by
  exact State.busWrite_inv hs

theorem State.tlpWrite_inv {s : State} {id : Nat} {fn : Nat} {space : BarSpace} {o : Nat} {bs : List Byte} {err : MemErr} (hs : Inv s) :
    Inv (State.tlpWrite s id fn space o bs err).1 := by
  cases space with
  | absent => exact hs
  | beyond => exact hs
  | phys a => exact State.tlpWriteAt_inv hs
  | table => exact inv_ite (State.tableWrite_inv hs) hs
  | window =>
    unfold State.tlpWrite
    have h := State.translate_inv (p := s.fnPtn fn) (va := o) (write := true) hs
    generalize State.translate s (s.fnPtn fn) o true = q at h
    obtain ⟨r, t⟩ := q
    cases r with
    | error f => exact State.holdTlp_inv h
    | ok g => exact State.tlpWriteAt_inv h

theorem State.serveTlp_inv {s : State} {id : Nat} {fn : Nat} {tlp : Tlp} {err : MemErr} (hs : Inv s) :
    Inv (State.serveTlp s id fn tlp err).1 := by
  unfold State.serveTlp
  cases tlp with
  | config bme on => exact State.tlpConfig_inv hs
  | read bar off n => exact State.tlpRead_inv hs
  | write bar off bs => exact State.tlpWrite_inv hs

theorem State.setHeld_inv {s : State} {f : List HeldTlp → List HeldTlp} (hs : Inv s) : Inv (State.setHeld s f) := by
  unfold State.setHeld
  try dsimp only
  repeat'
    first
      | with_reducible assumption | with_reducible refine inv_ite ?_ ?_ | (simp only [inv_mk]; refine inv_parts ?_)

theorem State.drainLoop_inv {s : State} {z0 : Nat} (hs : Inv s) : Inv (State.drainLoop s z0) := by
  induction z0 generalizing s with
  | zero => exact hs
  | succ k ih =>
    unfold State.drainLoop
    try dsimp only
    repeat'
      first
        | with_reducible refine ih ?_ | with_reducible assumption | with_reducible refine State.serveTlp_inv ?_
        | with_reducible refine State.setHeld_inv ?_ | with_reducible refine inv_snd (by assumption) ?_
        | with_reducible refine inv_fst (by assumption) ?_ | with_reducible refine inv_ite ?_ ?_ | split

theorem State.drainInbound_inv {s : State} (hs : Inv s) : Inv (State.drainInbound s) := by
  unfold State.drainInbound
  try dsimp only
  repeat' (first | with_reducible assumption | with_reducible refine State.drainLoop_inv ?_)

theorem State.tlpArrives_inv {s : State} {fn : Nat} {tlp : Tlp} {err : MemErr} (hs : Inv s) :
    Inv (State.tlpArrives s fn tlp err) := by
  unfold State.tlpArrives
  try dsimp only
  repeat'
    first
      | with_reducible assumption | with_reducible refine State.serveTlp_inv ?_ | with_reducible refine State.drainInbound_inv ?_
      | with_reducible refine inv_snd (by assumption) ?_ | with_reducible refine inv_fst (by assumption) ?_
      | with_reducible refine inv_ite ?_ ?_ | (simp only [inv_mk]; refine inv_parts ?_) | split

theorem State.postedLeaves_inv {s : State} (hs : Inv s) : Inv (State.postedLeaves s) := by
  unfold State.postedLeaves
  try dsimp only
  repeat'
    first
      | with_reducible assumption | with_reducible refine inv_ite ?_ ?_ | (simp only [inv_mk]; refine inv_parts ?_) | split

theorem State.hartFault_inv {s : State} {h : Nat} (hs : Inv s) : Inv (State.hartFault s h) := by
  unfold State.hartFault
  try dsimp only
  repeat'
    first
      | with_reducible assumption | with_reducible refine State.put_inv ?_ | with_reducible refine inv_snd (by assumption) ?_
      | with_reducible refine inv_fst (by assumption) ?_ | with_reducible refine inv_ite ?_ ?_
      | (simp only [inv_mk]; refine inv_parts ?_)

theorem State.hartValue_inv {s : State} {h : Nat} {v : Nat} (hs : Inv s) : Inv (State.hartValue s h v) := by
  unfold State.hartValue
  try dsimp only
  repeat'
    first
      | with_reducible assumption | with_reducible refine State.put_inv ?_ | with_reducible refine inv_snd (by assumption) ?_
      | with_reducible refine inv_fst (by assumption) ?_ | with_reducible refine inv_ite ?_ ?_
      | (simp only [inv_mk]; refine inv_parts ?_)

theorem State.outbound_inv {s : State} {src : OutSrc} {ans : Option (List Byte)} (hs : Inv s) :
    Inv (State.outbound s src ans) := by
  unfold State.outbound
  try dsimp only
  repeat'
    first
      | with_reducible assumption | with_reducible refine State.postedLeaves_inv ?_ | with_reducible refine State.answerReq_inv ?_
      | with_reducible refine State.hartFault_inv ?_ | with_reducible refine State.hartValue_inv ?_
      | with_reducible refine inv_ite ?_ ?_ | split

theorem State.cplTimeout_inv {s : State} {src : OutSrc} (hs : Inv s) : Inv (State.cplTimeout s src) := by
  unfold State.cplTimeout
  try dsimp only
  repeat'
    first
      | with_reducible assumption | with_reducible refine State.answerReq_inv ?_ | with_reducible refine State.hartFault_inv ?_
      | with_reducible refine inv_ite ?_ ?_ | split

theorem State.postedDrop_inv {s : State} (hs : Inv s) : Inv (State.postedDrop s) := by
  unfold State.postedDrop
  try dsimp only
  repeat'
    first
      | with_reducible assumption | with_reducible refine State.event_inv ?_ | with_reducible refine inv_ite ?_ ?_
      | (simp only [inv_mk]; refine inv_parts ?_) | split

theorem State.fnReset_inv {s : State} {fn : Nat} (hs : Inv s) : Inv (State.fnReset s fn) := by
  unfold State.fnReset
  try dsimp only
  repeat'
    first
      | with_reducible assumption | with_reducible refine State.put_inv ?_ | with_reducible refine inv_snd (by assumption) ?_
      | with_reducible refine inv_fst (by assumption) ?_ | with_reducible refine inv_ite ?_ ?_
      | (simp only [inv_mk]; refine inv_parts ?_)

theorem State.flrHalt_inv {s : State} {p : Nat} (hs : Inv s) : Inv (State.flrHalt s p) := by
  unfold State.flrHalt
  try dsimp only
  repeat' (first | with_reducible assumption | with_reducible refine State.belayAccept_inv ?_)

theorem State.flr_inv {s : State} {fn : Nat} (hs : Inv s) : Inv (State.flr s fn) := by
  unfold State.flr
  try dsimp only
  repeat'
    first
      | with_reducible assumption | with_reducible refine State.fnReset_inv ?_ | with_reducible refine State.flrHalt_inv ?_
      | with_reducible refine State.devEvent_inv ?_ | refine forEach_inv (fun _ _ _ => ?_) ?_

theorem State.pciReset_inv {s : State} (hs : Inv s) : Inv (State.pciReset s) := by
  unfold State.pciReset
  dsimp only
  have h := State.flr_inv (fn := 0) (inv_ite (c := s.flag PCI_STAT.UP) (State.pcieLink_inv (up := false) (rate := 0) (width := 0) hs) hs)
  have p := inv_parts h
  exact inv_mk.2 ⟨p.1, p.2.1, Table.wf_keep _ _ _ p.2.2.1, p.2.2.2⟩

theorem State.perstFalls_inv {s : State} (hs : Inv s) : Inv (State.perstFalls s) := by
  unfold State.perstFalls
  try dsimp only
  repeat'
    first
      | with_reducible assumption | with_reducible refine State.deviceReset_inv ?_ | with_reducible refine State.pciReset_inv ?_
      | with_reducible refine inv_ite ?_ ?_ | (simp only [inv_mk]; refine inv_parts ?_)

theorem State.perstRises_inv {s : State} (hs : Inv s) : Inv (State.perstRises s) := by
  unfold State.perstRises
  try dsimp only
  repeat'
    first
      | with_reducible assumption | with_reducible refine inv_ite ?_ ?_ | (simp only [inv_mk]; refine inv_parts ?_)

theorem State.linkChange_inv {s : State} {up : Bool} {rate : Nat} {width : Nat} (hs : Inv s) :
    Inv (State.linkChange s up rate width) := by
  unfold State.linkChange
  try dsimp only
  repeat'
    first
      | with_reducible assumption | with_reducible refine State.pcieLink_inv ?_ | with_reducible refine inv_ite ?_ ?_

theorem State.setHarts_inv {s : State} {f : Harts → Harts} (hs : Inv s) : Inv (State.setHarts s f) := by
  unfold State.setHarts
  try dsimp only
  repeat'
    first
      | with_reducible assumption | with_reducible refine inv_ite ?_ ?_ | (simp only [inv_mk]; refine inv_parts ?_)

theorem State.coreDone_inv {s : State} {h : Nat} {v : Nat} (hs : Inv s) : Inv (State.coreDone s h v) := by
  unfold State.coreDone
  try dsimp only
  repeat' (first | with_reducible assumption | with_reducible refine State.setHarts_inv ?_)

theorem State.coreFault_inv {s : State} {h : Nat} (hs : Inv s) : Inv (State.coreFault s h) := by
  unfold State.coreFault
  try dsimp only
  repeat' (first | with_reducible assumption | with_reducible refine State.setHarts_inv ?_)

theorem State.coreLineLost_inv {s : State} {h : Nat} {line : Nat} {d : DirtyLine} (hs : Inv s) :
    Inv (State.coreLineLost s h line d) := by
  unfold State.coreLineLost
  try dsimp only
  repeat'
    first
      | with_reducible assumption | with_reducible refine State.poke_inv ?_ | with_reducible refine State.setHarts_inv ?_
      | with_reducible refine State.draw_inv ?_ | with_reducible refine State.setReg_inv ?_
      | with_reducible refine State.incSat_inv ?_ | with_reducible refine State.devEvent_inv ?_
      | with_reducible refine inv_snd (by assumption) ?_ | with_reducible refine inv_fst (by assumption) ?_
      | with_reducible refine inv_ite ?_ ?_

theorem State.wayError_inv {s : State} {h : Nat} {way : Nat} (hs : Inv s) : Inv (State.wayError s h way) := by
  unfold State.wayError
  try dsimp only
  repeat'
    first
      | with_reducible assumption | with_reducible refine State.setHarts_inv ?_ | with_reducible refine State.put_inv ?_
      | with_reducible refine State.incSat_inv ?_ | with_reducible refine State.devEvent_inv ?_
      | with_reducible refine inv_snd (by assumption) ?_ | with_reducible refine inv_fst (by assumption) ?_
      | with_reducible refine inv_ite ?_ ?_

theorem State.coreError_inv {s : State} {h : Nat} {a : Nat} {e : CoreErr} (hs : Inv s) : Inv (State.coreError s h a e) := by
  unfold State.coreError
  try dsimp only
  repeat'
    first
      | with_reducible assumption | with_reducible refine State.incSat_inv ?_ | with_reducible refine State.coreLineLost_inv ?_
      | with_reducible refine State.wayError_inv ?_ | with_reducible refine inv_ite ?_ ?_ | split

theorem State.takeLine_inv {s : State} {h : Nat} {line : Nat} (hs : Inv s) : Inv (State.takeLine s h line) := by
  unfold State.takeLine
  try dsimp only
  repeat' (first | with_reducible assumption | with_reducible refine State.setHarts_inv ?_)

theorem State.coreStore_inv {s : State} {h : Nat} {p : Nat} {g : Nat} {bs : List Byte} (hs : Inv s) :
    Inv (State.coreStore s h p g bs) := by
  unfold State.coreStore
  try dsimp only
  repeat'
    first
      | with_reducible assumption | with_reducible refine State.takeLine_inv ?_ | with_reducible refine State.poke_inv ?_
      | with_reducible refine State.busWrite_inv ?_ | with_reducible refine State.coreFault_inv ?_
      | with_reducible refine inv_snd (by assumption) ?_ | with_reducible refine inv_fst (by assumption) ?_
      | with_reducible refine inv_ite ?_ ?_

theorem State.coreRemote_inv {s : State} {h : Nat} {p : Nat} {op : CoreOp} {g : Nat} {n : Nat} {data : List Byte} (hs : Inv s) :
    Inv (State.coreRemote s h p op g n data) := by
  unfold State.coreRemote
  try dsimp only
  repeat'
    first
      | with_reducible assumption | with_reducible refine State.hartAnswer_inv ?_ | with_reducible refine State.coreFault_inv ?_
      | with_reducible refine State.sendRequest_inv ?_ | with_reducible refine State.setHarts_inv ?_
      | with_reducible refine State.put_inv ?_ | with_reducible refine inv_snd (by assumption) ?_
      | with_reducible refine inv_fst (by assumption) ?_ | with_reducible refine inv_of_ok (by assumption) ?_
      | with_reducible refine inv_ite ?_ ?_ | split

theorem State.coreMemory_inv {s : State} {h : Nat} {p : Nat} {op : CoreOp} {g : Nat} {n : Nat} {data : List Byte} (hs : Inv s) :
    Inv (State.coreMemory s h p op g n data) := by
  unfold State.coreMemory
  try dsimp only
  repeat'
    first
      | with_reducible assumption | with_reducible refine State.setHarts_inv ?_ | with_reducible refine State.put_inv ?_
      | with_reducible refine State.coreFault_inv ?_ | with_reducible refine State.coreDone_inv ?_
      | with_reducible refine State.store_inv ?_ | with_reducible refine State.coreStore_inv ?_
      | with_reducible refine inv_snd (by assumption) ?_ | with_reducible refine inv_fst (by assumption) ?_
      | with_reducible refine inv_ite ?_ ?_ | split

theorem State.coreLocal_inv {s : State} {h : Nat} {p : Nat} {op : CoreOp} {g : Nat} {n : Nat} {data : List Byte} {err : CoreErr} {mem : MemErr} (hs : Inv s) :
    Inv (State.coreLocal s h p op g n data err mem) := by
  unfold State.coreLocal
  try dsimp only
  repeat'
    first
      | with_reducible assumption | with_reducible refine State.coreFault_inv ?_ | with_reducible refine State.hartAnswer_inv ?_
      | with_reducible refine State.setHarts_inv ?_ | with_reducible refine State.put_inv ?_
      | with_reducible refine State.coreDone_inv ?_ | with_reducible refine State.coreStore_inv ?_
      | with_reducible refine State.ioRead_inv ?_ | with_reducible refine State.drainInbound_inv ?_
      | with_reducible refine State.coreError_inv ?_ | with_reducible refine State.memError_inv ?_
      | with_reducible refine State.coreMemory_inv ?_ | with_reducible refine inv_snd (by assumption) ?_
      | with_reducible refine inv_fst (by assumption) ?_ | with_reducible refine inv_ite ?_ ?_ | split

theorem State.coreAccess_inv {s : State} {h : Nat} {op : CoreOp} {g : Nat} {n : Nat} {data : List Byte} {err : CoreErr} {mem : MemErr} (hs : Inv s) :
    Inv (State.coreAccess s h op g n data err mem) := by
  unfold State.coreAccess
  try dsimp only
  repeat'
    first
      | with_reducible assumption | with_reducible refine State.coreRemote_inv ?_ | with_reducible refine State.coreLocal_inv ?_
      | with_reducible refine inv_ite ?_ ?_

theorem execStart_inv {src : PtnIx} {h : HartIx} {s : State} (hs : Inv s) : InvNext (execStart src h s) := by
  unfold execStart
  try dsimp only
  repeat'
    first
      | with_reducible assumption | with_reducible refine State.hartStart_inv ?_ | exact invNext_refused
      | with_reducible refine invNext_next ?_

theorem execHartReset_inv {src : PtnIx} {h : HartIx} {s : State} (hs : Inv s) : InvNext (execHartReset src h s) := by
  unfold execHartReset
  try dsimp only
  repeat'
    first
      | with_reducible assumption | with_reducible refine State.hartReset_inv ?_ | exact invNext_refused
      | with_reducible refine invNext_next ?_

theorem execCoreAccess_inv {h : HartIx} {op : CoreOp} {addr : BitVec 52} {size : Fin 5} {data : List Byte} {err : CoreErr} {mem : MemErr} {s : State} (hs : Inv s) :
    InvNext (execCoreAccess h op addr size data err mem s) := by
  unfold execCoreAccess
  try dsimp only
  repeat'
    first
      | with_reducible assumption | with_reducible refine State.coreAccess_inv ?_ | exact invNext_refused
      | with_reducible refine invNext_next ?_ | with_reducible refine invNext_ite ?_ ?_

theorem execMsiWrite_inv {h : HartIx} {target : HartIx} {file : Fin 16} {value : Word} {s : State} (hs : Inv s) :
    InvNext (execMsiWrite h target file value s) := by
  unfold execMsiWrite
  try dsimp only
  repeat'
    first
      | with_reducible assumption | with_reducible refine State.setipnum_inv ?_ | exact invNext_refused
      | with_reducible refine invNext_next ?_ | with_reducible refine invNext_ite ?_ ?_

theorem execAplicSource_inv {source : Fin 6} {level : Bool} {s : State} (hs : Inv s) :
    InvNext (execAplicSource source level s) := by
  unfold execAplicSource
  try dsimp only
  repeat'
    first
      | with_reducible assumption | with_reducible refine State.aplicWire_inv ?_ | exact invNext_refused
      | with_reducible refine invNext_next ?_

theorem State.sendFrame_inv {s : State} {n : Nat} {bs : List Byte} (hs : Inv s) : Inv (State.sendFrame s n bs) := by
  unfold State.sendFrame
  try dsimp only
  repeat'
    first
      | with_reducible assumption | with_reducible refine State.pushEts_inv ?_ | with_reducible refine inv_ite ?_ ?_
      | (simp only [inv_mk]; refine inv_parts ?_)

theorem State.flowControl_inv {s : State} {n : Nat} {prio : Nat} (hs : Inv s) : Inv (State.flowControl s n prio) := by
  unfold State.flowControl
  try dsimp only
  repeat'
    first
      | with_reducible assumption | with_reducible refine inv_ite ?_ ?_ | (simp only [inv_mk]; refine inv_parts ?_)

theorem State.pfcArrives_inv {s : State} {n : Nat} {prio : Nat} {on : Bool} (hs : Inv s) :
    Inv (State.pfcArrives s n prio on) := by
  unfold State.pfcArrives
  try dsimp only
  repeat'
    first
      | with_reducible assumption | with_reducible refine State.setFld_inv ?_ | with_reducible refine inv_ite ?_ ?_

theorem State.rxDeliver_inv {s : State} {q : Nat} {port : Nat} {bs : List Byte} {copy : Bool} (hs : Inv s) :
    Inv (State.rxDeliver s q port bs copy) := by
  unfold State.rxDeliver
  try dsimp only
  repeat'
    first
      | with_reducible assumption | with_reducible refine State.incSat_inv ?_ | with_reducible refine State.snoop_inv ?_
      | with_reducible refine State.poke_inv ?_ | with_reducible refine State.setReg_inv ?_ | with_reducible refine inv_ite ?_ ?_

theorem State.steer_inv {s : State} {port : Nat} {bs : List Byte} {copy : Bool} (hs : Inv s) :
    Inv (State.steer s port bs copy) := by
  unfold State.steer
  try dsimp only
  repeat'
    first
      | with_reducible assumption | with_reducible refine State.rxFrame_inv ?_ | with_reducible refine State.rxDeliver_inv ?_
      | with_reducible refine State.incSat_inv ?_ | with_reducible refine inv_ite ?_ ?_ | split

theorem State.frameArrives_inv {s : State} {port : Nat} {bs : List Byte} {fcsOk : Bool} (hs : Inv s) :
    Inv (State.frameArrives s port bs fcsOk) := by
  unfold State.frameArrives
  try dsimp only
  repeat'
    first
      | with_reducible assumption | with_reducible refine State.incSat_inv ?_ | with_reducible refine State.steer_inv ?_
      | with_reducible refine State.put_inv ?_ | with_reducible refine State.flowControl_inv ?_
      | with_reducible refine inv_snd (by assumption) ?_ | with_reducible refine inv_fst (by assumption) ?_
      | with_reducible refine inv_ite ?_ ?_ | (simp only [inv_mk]; refine inv_parts ?_) | split

theorem State.forwardFrame_inv {s : State} {n : Nat} (hs : Inv s) : Inv (State.forwardFrame s n) := by
  unfold State.forwardFrame
  try dsimp only
  repeat'
    first
      | with_reducible assumption | with_reducible refine State.sendFrame_inv ?_ | with_reducible refine State.put_inv ?_
      | with_reducible refine State.flowControl_inv ?_ | with_reducible refine inv_snd (by assumption) ?_
      | with_reducible refine inv_fst (by assumption) ?_ | with_reducible refine inv_ite ?_ ?_
      | (simp only [inv_mk]; refine inv_parts ?_) | split

theorem State.txAdvance_inv {s : State} {q : Nat} {msi : Bool} (hs : Inv s) : Inv (State.txAdvance s q msi) := by
  unfold State.txAdvance
  try dsimp only
  repeat'
    first
      | with_reducible assumption | with_reducible refine State.setReg_inv ?_ | with_reducible refine State.msiReg_inv ?_
      | with_reducible refine MsiResult.done_inv ?_ | with_reducible refine inv_snd (by assumption) ?_
      | with_reducible refine inv_fst (by assumption) ?_ | with_reducible refine inv_ite ?_ ?_

theorem State.transmit_inv {s : State} {q : Nat} (hs : Inv s) : Inv (State.transmit s q) := by
  unfold State.transmit
  try dsimp only
  repeat'
    first
      | with_reducible assumption | with_reducible refine State.readLocal_inv ?_ | with_reducible refine State.txAdvance_inv ?_
      | with_reducible refine State.sendFrame_inv ?_ | with_reducible refine inv_snd (by assumption) ?_ | split

theorem State.ethLinkChange_inv {s : State} {n : Nat} {up : Bool} (hs : Inv s) : Inv (State.ethLinkChange s n up) := by
  unfold State.ethLinkChange
  try dsimp only
  repeat'
    first
      | with_reducible assumption | with_reducible refine State.ethLink_inv ?_ | with_reducible refine inv_ite ?_ ?_

theorem execEthLinkChange_inv {port : PortIx} {up : Bool} {s : State} (hs : Inv s) :
    InvNext (execEthLinkChange port up s) := by
  unfold execEthLinkChange
  try dsimp only
  repeat'
    first
      | with_reducible assumption | with_reducible refine State.ethLinkChange_inv ?_ | exact invNext_refused
      | with_reducible refine invNext_next ?_

theorem execEthPortEnable_inv {src : PtnIx} {port : PortIx} {s : State} (hs : Inv s) :
    InvNext (execEthPortEnable src port s) := by
  unfold execEthPortEnable
  try dsimp only
  repeat'
    first
      | with_reducible assumption | with_reducible refine State.ethPortWrite_inv ?_ | exact invNext_refused
      | with_reducible refine invNext_next ?_

theorem execEthFrameReceive_inv {port : PortIx} {frame : List Byte} {fcsOk : Bool} {s : State} (hs : Inv s) :
    InvNext (execEthFrameReceive port frame fcsOk s) := by
  unfold execEthFrameReceive
  try dsimp only
  repeat'
    first
      | with_reducible assumption | with_reducible refine State.frameArrives_inv ?_ | exact invNext_refused
      | with_reducible refine invNext_next ?_ | with_reducible refine invNext_ite ?_ ?_

theorem execPfcReceive_inv {port : PortIx} {prio : Fin 8} {on : Bool} {s : State} (hs : Inv s) :
    InvNext (execPfcReceive port prio on s) := by
  unfold execPfcReceive
  try dsimp only
  repeat'
    first
      | with_reducible assumption | with_reducible refine State.pfcArrives_inv ?_ | exact invNext_refused
      | with_reducible refine invNext_next ?_

theorem execEthFrameTransmit_inv {src : TxSrc} {s : State} (hs : Inv s) : InvNext (execEthFrameTransmit src s) := by
  unfold execEthFrameTransmit
  try dsimp only
  repeat'
    first
      | with_reducible assumption | with_reducible refine State.transmit_inv ?_ | with_reducible refine State.forwardFrame_inv ?_
      | exact invNext_refused | with_reducible refine invNext_next ?_ | with_reducible refine invNext_ite ?_ ?_
      | with_reducible refine inv_ite ?_ ?_ | split

theorem execEthTxtail_inv {src : PtnIx} {q : Fin 32} {tail : Word} {s : State} (hs : Inv s) :
    InvNext (execEthTxtail src q tail s) := by
  unfold execEthTxtail
  try dsimp only
  repeat'
    first
      | with_reducible assumption | with_reducible refine State.ethTail_inv ?_ | exact invNext_refused
      | with_reducible refine invNext_next ?_ | with_reducible refine invNext_ite ?_ ?_

end Sys2Proof.Machine
end

