-- ==== Sys2Proof/Laws/InvLanes.lean ====
section
/-! SUPPORT. Every definition of the bundle slots of a tile and the remaining commands that answers a state keeps the invariant
`Inv` of Safety.lean: one lemma per definition, named after it with the ending _inv. -/
namespace Sys2Proof.Machine

theorem State.countLane_inv {s : State} {t : Nat} {wide : Bool} (hs : Inv s) : Inv (State.countLane s t wide) := by
  unfold State.countLane
  try dsimp only
  repeat'
    first
      | with_reducible assumption | with_reducible refine State.incSat_inv ?_ | with_reducible refine inv_ite ?_ ?_

theorem laneEffect_inv {t : Nat} {wide : Bool} {op : LaneSlot} {s : State} (hs : Inv s) : Inv (laneEffect t wide op s) := by
  unfold laneEffect
  try dsimp only
  repeat'
    first
      | with_reducible assumption | with_reducible refine State.countLane_inv ?_ | with_reducible refine State.addLaneSat_inv ?_
      | with_reducible refine State.stageWrite_inv ?_

theorem accEffect_inv {t : Nat} {wide : Bool} {op : LaneSlot} {s : State} (hs : Inv s) : Inv (accEffect t wide op s) := by
  unfold accEffect
  try dsimp only
  repeat'
    first
      | with_reducible assumption | with_reducible refine State.countLane_inv ?_ | with_reducible refine State.stageWrite_inv ?_

theorem State.laneOp_inv {s : State} {t : TileIx} {wide : Bool} {o : Nat} {eff : Nat → Bool → LaneSlot → State → State} (hs : Inv s) (heff : ∀ y0 y1 y2 y3, Inv y3 → Inv (eff y0 y1 y2 y3)) :
    InvNext (State.laneOp s t wide o eff) := by
  unfold State.laneOp
  try dsimp only
  repeat'
    first
      | with_reducible assumption | with_reducible refine State.issueSlot_inv ?_ ?_ | exact invNext_refused
      | with_reducible refine invNext_next ?_ | with_reducible refine heff _ _ _ _ ?_ | with_reducible refine invNext_ite ?_ ?_
      | with_reducible refine inv_ite ?_ ?_ | split | intro _ _ | intro _

theorem execVadd_inv {t : TileIx} {wide : Bool} {s : State} (hs : Inv s) : InvNext (execVadd t wide s) := by
  unfold execVadd
  try dsimp only
  repeat'
    first
      | with_reducible assumption | with_reducible refine State.laneOp_inv ?_ ?_ | with_reducible refine laneEffect_inv ?_
      | exact invNext_refused | with_reducible refine invNext_next ?_ | with_reducible refine invNext_ite ?_ ?_
      | with_reducible refine inv_ite ?_ ?_ | split | intro _ _ | intro _

theorem execVsub_inv {t : TileIx} {wide : Bool} {s : State} (hs : Inv s) : InvNext (execVsub t wide s) := by
  unfold execVsub
  try dsimp only
  repeat'
    first
      | with_reducible assumption | with_reducible refine State.laneOp_inv ?_ ?_ | with_reducible refine laneEffect_inv ?_
      | exact invNext_refused | with_reducible refine invNext_next ?_ | with_reducible refine invNext_ite ?_ ?_
      | with_reducible refine inv_ite ?_ ?_ | split | intro _ _ | intro _

theorem execVmul_inv {t : TileIx} {wide : Bool} {s : State} (hs : Inv s) : InvNext (execVmul t wide s) := by
  unfold execVmul
  try dsimp only
  repeat'
    first
      | with_reducible assumption | with_reducible refine State.laneOp_inv ?_ ?_ | with_reducible refine laneEffect_inv ?_
      | exact invNext_refused | with_reducible refine invNext_next ?_ | with_reducible refine invNext_ite ?_ ?_
      | with_reducible refine inv_ite ?_ ?_ | split | intro _ _ | intro _

theorem execVmac_inv {t : TileIx} {wide : Bool} {s : State} (hs : Inv s) : InvNext (execVmac t wide s) := by
  unfold execVmac
  try dsimp only
  repeat'
    first
      | with_reducible assumption | with_reducible refine State.laneOp_inv ?_ ?_ | with_reducible refine accEffect_inv ?_
      | exact invNext_refused | with_reducible refine invNext_next ?_ | with_reducible refine invNext_ite ?_ ?_
      | with_reducible refine inv_ite ?_ ?_ | split | intro _ _ | intro _

theorem execVmsu_inv {t : TileIx} {wide : Bool} {s : State} (hs : Inv s) : InvNext (execVmsu t wide s) := by
  unfold execVmsu
  try dsimp only
  repeat'
    first
      | with_reducible assumption | with_reducible refine State.laneOp_inv ?_ ?_ | with_reducible refine accEffect_inv ?_
      | exact invNext_refused | with_reducible refine invNext_next ?_ | with_reducible refine invNext_ite ?_ ?_
      | with_reducible refine inv_ite ?_ ?_ | split | intro _ _ | intro _

theorem execVcmac_inv {t : TileIx} {wide : Bool} {s : State} (hs : Inv s) : InvNext (execVcmac t wide s) := by
  unfold execVcmac
  try dsimp only
  repeat'
    first
      | with_reducible assumption | with_reducible refine State.laneOp_inv ?_ ?_ | with_reducible refine accEffect_inv ?_
      | exact invNext_refused | with_reducible refine invNext_next ?_ | with_reducible refine invNext_ite ?_ ?_
      | with_reducible refine inv_ite ?_ ?_ | split | intro _ _ | intro _

theorem execVcmacj_inv {t : TileIx} {wide : Bool} {s : State} (hs : Inv s) : InvNext (execVcmacj t wide s) := by
  unfold execVcmacj
  try dsimp only
  repeat'
    first
      | with_reducible assumption | with_reducible refine State.laneOp_inv ?_ ?_ | with_reducible refine accEffect_inv ?_
      | exact invNext_refused | with_reducible refine invNext_next ?_ | with_reducible refine invNext_ite ?_ ?_
      | with_reducible refine inv_ite ?_ ?_ | split | intro _ _ | intro _

theorem execVmag_inv {t : TileIx} {wide : Bool} {s : State} (hs : Inv s) : InvNext (execVmag t wide s) := by
  unfold execVmag
  try dsimp only
  repeat'
    first
      | with_reducible assumption | with_reducible refine State.laneOp_inv ?_ ?_ | with_reducible refine accEffect_inv ?_
      | exact invNext_refused | with_reducible refine invNext_next ?_ | with_reducible refine invNext_ite ?_ ?_
      | with_reducible refine inv_ite ?_ ?_ | split | intro _ _ | intro _

theorem execVaclr_inv {t : TileIx} {wide : Bool} {s : State} (hs : Inv s) : InvNext (execVaclr t wide s) := by
  unfold execVaclr
  try dsimp only
  repeat'
    first
      | with_reducible assumption | with_reducible refine State.laneOp_inv ?_ ?_ | with_reducible refine State.countLane_inv ?_
      | with_reducible refine State.stageWrite_inv ?_ | exact invNext_refused | with_reducible refine invNext_next ?_
      | with_reducible refine invNext_ite ?_ ?_ | with_reducible refine inv_ite ?_ ?_ | split | intro _ _ | intro _

theorem execVacrd_inv {t : TileIx} {wide : Bool} {s : State} (hs : Inv s) : InvNext (execVacrd t wide s) := by
  unfold execVacrd
  try dsimp only
  repeat'
    first
      | with_reducible assumption | with_reducible refine State.laneOp_inv ?_ ?_ | with_reducible refine laneEffect_inv ?_
      | exact invNext_refused | with_reducible refine invNext_next ?_ | with_reducible refine invNext_ite ?_ ?_
      | with_reducible refine inv_ite ?_ ?_ | split | intro _ _ | intro _

theorem execVand_inv {t : TileIx} {wide : Bool} {s : State} (hs : Inv s) : InvNext (execVand t wide s) := by
  unfold execVand
  try dsimp only
  repeat'
    first
      | with_reducible assumption | with_reducible refine State.laneOp_inv ?_ ?_ | with_reducible refine laneEffect_inv ?_
      | exact invNext_refused | with_reducible refine invNext_next ?_ | with_reducible refine invNext_ite ?_ ?_
      | with_reducible refine inv_ite ?_ ?_ | split | intro _ _ | intro _

theorem execVor_inv {t : TileIx} {wide : Bool} {s : State} (hs : Inv s) : InvNext (execVor t wide s) := by
  unfold execVor
  try dsimp only
  repeat'
    first
      | with_reducible assumption | with_reducible refine State.laneOp_inv ?_ ?_ | with_reducible refine laneEffect_inv ?_
      | exact invNext_refused | with_reducible refine invNext_next ?_ | with_reducible refine invNext_ite ?_ ?_
      | with_reducible refine inv_ite ?_ ?_ | split | intro _ _ | intro _

theorem execVxor_inv {t : TileIx} {wide : Bool} {s : State} (hs : Inv s) : InvNext (execVxor t wide s) := by
  unfold execVxor
  try dsimp only
  repeat'
    first
      | with_reducible assumption | with_reducible refine State.laneOp_inv ?_ ?_ | with_reducible refine laneEffect_inv ?_
      | exact invNext_refused | with_reducible refine invNext_next ?_ | with_reducible refine invNext_ite ?_ ?_
      | with_reducible refine inv_ite ?_ ?_ | split | intro _ _ | intro _

theorem execVshl_inv {t : TileIx} {wide : Bool} {s : State} (hs : Inv s) : InvNext (execVshl t wide s) := by
  unfold execVshl
  try dsimp only
  repeat'
    first
      | with_reducible assumption | with_reducible refine State.laneOp_inv ?_ ?_ | with_reducible refine laneEffect_inv ?_
      | exact invNext_refused | with_reducible refine invNext_next ?_ | with_reducible refine invNext_ite ?_ ?_
      | with_reducible refine inv_ite ?_ ?_ | split | intro _ _ | intro _

theorem execVshr_inv {t : TileIx} {wide : Bool} {s : State} (hs : Inv s) : InvNext (execVshr t wide s) := by
  unfold execVshr
  try dsimp only
  repeat'
    first
      | with_reducible assumption | with_reducible refine State.laneOp_inv ?_ ?_ | with_reducible refine laneEffect_inv ?_
      | exact invNext_refused | with_reducible refine invNext_next ?_ | with_reducible refine invNext_ite ?_ ?_
      | with_reducible refine inv_ite ?_ ?_ | split | intro _ _ | intro _

theorem execVmin_inv {t : TileIx} {wide : Bool} {s : State} (hs : Inv s) : InvNext (execVmin t wide s) := by
  unfold execVmin
  try dsimp only
  repeat'
    first
      | with_reducible assumption | with_reducible refine State.laneOp_inv ?_ ?_ | with_reducible refine laneEffect_inv ?_
      | exact invNext_refused | with_reducible refine invNext_next ?_ | with_reducible refine invNext_ite ?_ ?_
      | with_reducible refine inv_ite ?_ ?_ | split | intro _ _ | intro _

theorem execVmax_inv {t : TileIx} {wide : Bool} {s : State} (hs : Inv s) : InvNext (execVmax t wide s) := by
  unfold execVmax
  try dsimp only
  repeat'
    first
      | with_reducible assumption | with_reducible refine State.laneOp_inv ?_ ?_ | with_reducible refine laneEffect_inv ?_
      | exact invNext_refused | with_reducible refine invNext_next ?_ | with_reducible refine invNext_ite ?_ ?_
      | with_reducible refine inv_ite ?_ ?_ | split | intro _ _ | intro _

theorem execVabs_inv {t : TileIx} {wide : Bool} {s : State} (hs : Inv s) : InvNext (execVabs t wide s) := by
  unfold execVabs
  try dsimp only
  repeat'
    first
      | with_reducible assumption | with_reducible refine State.laneOp_inv ?_ ?_ | with_reducible refine laneEffect_inv ?_
      | exact invNext_refused | with_reducible refine invNext_next ?_ | with_reducible refine invNext_ite ?_ ?_
      | with_reducible refine inv_ite ?_ ?_ | split | intro _ _ | intro _

theorem execVneg_inv {t : TileIx} {wide : Bool} {s : State} (hs : Inv s) : InvNext (execVneg t wide s) := by
  unfold execVneg
  try dsimp only
  repeat'
    first
      | with_reducible assumption | with_reducible refine State.laneOp_inv ?_ ?_ | with_reducible refine laneEffect_inv ?_
      | exact invNext_refused | with_reducible refine invNext_next ?_ | with_reducible refine invNext_ite ?_ ?_
      | with_reducible refine inv_ite ?_ ?_ | split | intro _ _ | intro _

theorem execVbc_inv {t : TileIx} {wide : Bool} {s : State} (hs : Inv s) : InvNext (execVbc t wide s) := by
  unfold execVbc
  try dsimp only
  repeat'
    first
      | with_reducible assumption | with_reducible refine State.laneOp_inv ?_ ?_ | with_reducible refine laneEffect_inv ?_
      | exact invNext_refused | with_reducible refine invNext_next ?_ | with_reducible refine invNext_ite ?_ ?_
      | with_reducible refine inv_ite ?_ ?_ | split | intro _ _ | intro _

theorem execVperm_inv {t : TileIx} {wide : Bool} {s : State} (hs : Inv s) : InvNext (execVperm t wide s) := by
  unfold execVperm
  try dsimp only
  repeat'
    first
      | with_reducible assumption | with_reducible refine State.laneOp_inv ?_ ?_ | with_reducible refine laneEffect_inv ?_
      | exact invNext_refused | with_reducible refine invNext_next ?_ | with_reducible refine invNext_ite ?_ ?_
      | with_reducible refine inv_ite ?_ ?_ | split | intro _ _ | intro _

theorem execVintl_inv {t : TileIx} {wide : Bool} {s : State} (hs : Inv s) : InvNext (execVintl t wide s) := by
  unfold execVintl
  try dsimp only
  repeat'
    first
      | with_reducible assumption | with_reducible refine State.laneOp_inv ?_ ?_ | with_reducible refine laneEffect_inv ?_
      | exact invNext_refused | with_reducible refine invNext_next ?_ | with_reducible refine invNext_ite ?_ ?_
      | with_reducible refine inv_ite ?_ ?_ | split | intro _ _ | intro _

theorem execVred_inv {t : TileIx} {wide : Bool} {s : State} (hs : Inv s) : InvNext (execVred t wide s) := by
  unfold execVred
  try dsimp only
  repeat'
    first
      | with_reducible assumption | with_reducible refine State.laneOp_inv ?_ ?_ | with_reducible refine accEffect_inv ?_
      | exact invNext_refused | with_reducible refine invNext_next ?_ | with_reducible refine invNext_ite ?_ ?_
      | with_reducible refine inv_ite ?_ ?_ | split | intro _ _ | intro _

theorem execVxw_inv {t : TileIx} {s : State} (hs : Inv s) : InvNext (execVxw t s) := by
  unfold execVxw
  try dsimp only
  repeat'
    first
      | with_reducible assumption | with_reducible refine State.laneOp_inv ?_ ?_ | with_reducible refine laneEffect_inv ?_
      | exact invNext_refused | with_reducible refine invNext_next ?_ | with_reducible refine invNext_ite ?_ ?_
      | with_reducible refine inv_ite ?_ ?_ | split | intro _ _ | intro _

theorem execVxn_inv {t : TileIx} {s : State} (hs : Inv s) : InvNext (execVxn t s) := by
  unfold execVxn
  try dsimp only
  repeat'
    first
      | with_reducible assumption | with_reducible refine State.laneOp_inv ?_ ?_ | with_reducible refine laneEffect_inv ?_
      | exact invNext_refused | with_reducible refine invNext_next ?_ | with_reducible refine invNext_ite ?_ ?_
      | with_reducible refine inv_ite ?_ ?_ | split | intro _ _ | intro _

theorem dEffect_inv {t : Nat} {y : Bool} {d : DSlot} {s : State} (hs : Inv s) : Inv (dEffect t y d s) := by
  unfold dEffect
  try dsimp only
  repeat'
    first
      | with_reducible assumption | with_reducible refine State.stageWrite_inv ?_ | with_reducible refine State.store_inv ?_
      | with_reducible refine inv_ite ?_ ?_

theorem execDLoad_inv {t : TileIx} {y : Bool} {s : State} (hs : Inv s) : InvNext (execDLoad t y s) := by
  unfold execDLoad
  try dsimp only
  repeat'
    first
      | with_reducible assumption | with_reducible refine State.issueSlot_inv ?_ ?_ | with_reducible refine dEffect_inv ?_
      | exact invNext_refused | with_reducible refine invNext_next ?_ | with_reducible refine invNext_ite ?_ ?_
      | with_reducible refine inv_ite ?_ ?_ | split | intro _ _ | intro _

theorem execDStore_inv {t : TileIx} {y : Bool} {s : State} (hs : Inv s) : InvNext (execDStore t y s) := by
  unfold execDStore
  try dsimp only
  repeat'
    first
      | with_reducible assumption | with_reducible refine State.issueSlot_inv ?_ ?_ | with_reducible refine dEffect_inv ?_
      | exact invNext_refused | with_reducible refine invNext_next ?_ | with_reducible refine invNext_ite ?_ ?_
      | with_reducible refine inv_ite ?_ ?_ | split | intro _ _ | intro _

theorem State.matrixOp_inv {s : State} {t : TileIx} {o : Nat} {eff : MSlot → State → State} (hs : Inv s) (heff : ∀ y0 y1, Inv y1 → Inv (eff y0 y1)) :
    InvNext (State.matrixOp s t o eff) := by
  unfold State.matrixOp
  try dsimp only
  repeat'
    first
      | with_reducible assumption | with_reducible refine State.issueSlot_inv ?_ ?_ | exact invNext_refused
      | with_reducible refine invNext_next ?_ | with_reducible refine heff _ _ ?_ | with_reducible refine invNext_ite ?_ ?_
      | with_reducible refine inv_ite ?_ ?_ | split | intro _ _ | intro _

theorem queueEffect_inv {t : Nat} {m : MSlot} {s : State} (hs : Inv s) : Inv (queueEffect t m s) := by
  unfold queueEffect
  try dsimp only
  repeat' (first | with_reducible assumption | with_reducible refine State.modTile_inv ?_)

theorem execMcfg_inv {t : TileIx} {s : State} (hs : Inv s) : InvNext (execMcfg t s) := by
  unfold execMcfg
  try dsimp only
  repeat'
    first
      | with_reducible assumption | with_reducible refine State.matrixOp_inv ?_ ?_ | with_reducible refine queueEffect_inv ?_
      | exact invNext_refused | with_reducible refine invNext_next ?_ | with_reducible refine invNext_ite ?_ ?_
      | with_reducible refine inv_ite ?_ ?_ | split | intro _ _ | intro _

theorem execMldw_inv {t : TileIx} {s : State} (hs : Inv s) : InvNext (execMldw t s) := by
  unfold execMldw
  try dsimp only
  repeat'
    first
      | with_reducible assumption | with_reducible refine State.matrixOp_inv ?_ ?_ | with_reducible refine queueEffect_inv ?_
      | exact invNext_refused | with_reducible refine invNext_next ?_ | with_reducible refine invNext_ite ?_ ?_
      | with_reducible refine inv_ite ?_ ?_ | split | intro _ _ | intro _

theorem execMmul_inv {t : TileIx} {s : State} (hs : Inv s) : InvNext (execMmul t s) := by
  unfold execMmul
  try dsimp only
  repeat'
    first
      | with_reducible assumption | with_reducible refine State.matrixOp_inv ?_ ?_ | with_reducible refine queueEffect_inv ?_
      | exact invNext_refused | with_reducible refine invNext_next ?_ | with_reducible refine invNext_ite ?_ ?_
      | with_reducible refine inv_ite ?_ ?_ | split | intro _ _ | intro _

theorem execMswap_inv {t : TileIx} {s : State} (hs : Inv s) : InvNext (execMswap t s) := by
  unfold execMswap
  try dsimp only
  repeat'
    first
      | with_reducible assumption | with_reducible refine State.matrixOp_inv ?_ ?_ | with_reducible refine State.modTile_inv ?_
      | exact invNext_refused | with_reducible refine invNext_next ?_ | with_reducible refine invNext_ite ?_ ?_
      | with_reducible refine inv_ite ?_ ?_ | split | intro _ _ | intro _

theorem execMwait_inv {t : TileIx} {s : State} (hs : Inv s) : InvNext (execMwait t s) := by
  unfold execMwait
  try dsimp only
  repeat'
    first
      | with_reducible assumption | with_reducible refine State.matrixOp_inv ?_ ?_ | exact invNext_refused
      | with_reducible refine invNext_next ?_ | with_reducible refine invNext_ite ?_ ?_ | with_reducible refine inv_ite ?_ ?_
      | split | (intros; assumption)

theorem execMatrixDispatch_inv {t : TileIx} {s : State} (hs : Inv s) : InvNext (execMatrixDispatch t s) := by
  unfold execMatrixDispatch
  try dsimp only
  repeat'
    first
      | with_reducible assumption | with_reducible refine State.matrixDispatch_inv ?_ | with_reducible refine invNext_next ?_

theorem execMldwComplete_inv {t : TileIx} {sub : Fin 4} {s : State} (hs : Inv s) : InvNext (execMldwComplete t sub s) := by
  unfold execMldwComplete
  try dsimp only
  repeat'
    first
      | with_reducible assumption | with_reducible refine State.loadDone_inv ?_ | exact invNext_refused
      | with_reducible refine invNext_next ?_

theorem execMmulComplete_inv {t : TileIx} {sub : Fin 4} {mismatch : Bool} {s : State} (hs : Inv s) :
    InvNext (execMmulComplete t sub mismatch s) := by
  unfold execMmulComplete
  try dsimp only
  repeat'
    first
      | with_reducible assumption | with_reducible refine State.mulDone_inv ?_ | exact invNext_refused
      | with_reducible refine invNext_next ?_

theorem execGapFillTimeout_inv {t : TileIx} {sub : Fin 4} {s : State} (hs : Inv s) : InvNext (execGapFillTimeout t sub s) := by
  unfold execGapFillTimeout
  try dsimp only
  repeat'
    first
      | with_reducible assumption | with_reducible refine State.endFill_inv ?_ | with_reducible refine invNext_next ?_

theorem execRefresh_inv {q : Fin 128} {temp : BitVec 8} {rate : Fin 3} {found : RefreshCase} {s : State} (hs : Inv s) :
    InvNext (execRefresh q temp rate found s) := by
  unfold execRefresh
  try dsimp only
  repeat'
    first
      | with_reducible assumption | with_reducible refine State.refreshPch_inv ?_ | exact invNext_refused
      | with_reducible refine invNext_next ?_ | with_reducible refine invNext_ite ?_ ?_

theorem execHbmEnable_inv {src : PtnIx} {st : Fin 4} {s : State} (hs : Inv s) : InvNext (execHbmEnable src st s) := by
  unfold execHbmEnable
  try dsimp only
  repeat'
    first
      | with_reducible assumption | with_reducible refine State.hbmEnable_inv ?_ | exact invNext_refused
      | with_reducible refine invNext_next ?_

theorem execHbmTrainDone_inv {st : Fin 4} {ok : Bool} {s : State} (hs : Inv s) : InvNext (execHbmTrainDone st ok s) := by
  unfold execHbmTrainDone
  try dsimp only
  repeat'
    first
      | with_reducible assumption | with_reducible refine State.hbmTrained_inv ?_ | exact invNext_refused
      | with_reducible refine invNext_next ?_

theorem execHbmDisable_inv {src : PtnIx} {st : Fin 4} {s : State} (hs : Inv s) : InvNext (execHbmDisable src st s) := by
  unfold execHbmDisable
  try dsimp only
  repeat'
    first
      | with_reducible assumption | with_reducible refine State.hbmDisable_inv ?_ | exact invNext_refused
      | with_reducible refine invNext_next ?_

theorem execHbmClrCnt_inv {src : PtnIx} {st : Fin 4} {s : State} (hs : Inv s) : InvNext (execHbmClrCnt src st s) := by
  unfold execHbmClrCnt
  try dsimp only
  repeat'
    first
      | with_reducible assumption | with_reducible refine State.hbmClrCnt_inv ?_ | exact invNext_refused
      | with_reducible refine invNext_next ?_

theorem execMmuFaultRecord_inv {p : PtnIx} {s : State} (hs : Inv s) : InvNext (execMmuFaultRecord p s) := by
  unfold execMmuFaultRecord
  try dsimp only
  repeat'
    first
      | with_reducible assumption | with_reducible refine State.recordFault_inv ?_ | exact invNext_refused
      | with_reducible refine invNext_next ?_

theorem execMmuResolveRetry_inv {src : PtnIx} {p : PtnIx} {seq : BitVec 16} {s : State} (hs : Inv s) :
    InvNext (execMmuResolveRetry src p seq s) := by
  unfold execMmuResolveRetry
  try dsimp only
  repeat'
    first
      | with_reducible assumption | with_reducible refine State.resolve_inv ?_ | with_reducible refine State.drainInbound_inv ?_
      | with_reducible refine inv_snd (by assumption) ?_ | with_reducible refine inv_fst (by assumption) ?_
      | exact invNext_refused | with_reducible refine invNext_next ?_

theorem execMmuResolveFail_inv {src : PtnIx} {p : PtnIx} {seq : BitVec 16} {s : State} (hs : Inv s) :
    InvNext (execMmuResolveFail src p seq s) := by
  unfold execMmuResolveFail
  try dsimp only
  repeat'
    first
      | with_reducible assumption | with_reducible refine State.resolve_inv ?_ | with_reducible refine State.drainInbound_inv ?_
      | with_reducible refine inv_snd (by assumption) ?_ | with_reducible refine inv_fst (by assumption) ?_
      | exact invNext_refused | with_reducible refine invNext_next ?_

theorem execInvAll_inv {src : PtnIx} {p : PtnIx} {s : State} (hs : Inv s) : InvNext (execInvAll src p s) := by
  unfold execInvAll
  try dsimp only
  repeat'
    first
      | with_reducible assumption | with_reducible refine State.invStart_inv ?_ | exact invNext_refused
      | with_reducible refine invNext_next ?_

theorem execInvPage_inv {src : PtnIx} {p : PtnIx} {s : State} (hs : Inv s) : InvNext (execInvPage src p s) := by
  unfold execInvPage
  try dsimp only
  repeat'
    first
      | with_reducible assumption | with_reducible refine State.invStart_inv ?_ | exact invNext_refused
      | with_reducible refine invNext_next ?_

theorem execInvDone_inv {p : PtnIx} {s : State} (hs : Inv s) : InvNext (execInvDone p s) := by
  unfold execInvDone
  try dsimp only
  repeat'
    first
      | with_reducible assumption | with_reducible refine State.invEnd_inv ?_ | exact invNext_refused
      | with_reducible refine invNext_next ?_

theorem execFrEnable_inv {src : PtnIx} {p : PtnIx} {value : Word} {s : State} (hs : Inv s) :
    InvNext (execFrEnable src p value s) := by
  unfold execFrEnable
  try dsimp only
  repeat'
    first
      | with_reducible assumption | with_reducible refine State.frWrite_inv ?_ | exact invNext_refused
      | with_reducible refine invNext_next ?_

theorem execWriteBack_inv {src : PtnIx} {p : PtnIx} {s : State} (hs : Inv s) : InvNext (execWriteBack src p s) := by
  unfold execWriteBack
  try dsimp only
  repeat'
    first
      | with_reducible assumption | with_reducible refine State.maintStart_inv ?_ | exact invNext_refused
      | with_reducible refine invNext_next ?_

theorem execWriteBackInvalidate_inv {src : PtnIx} {p : PtnIx} {s : State} (hs : Inv s) :
    InvNext (execWriteBackInvalidate src p s) := by
  unfold execWriteBackInvalidate
  try dsimp only
  repeat'
    first
      | with_reducible assumption | with_reducible refine State.maintStart_inv ?_ | exact invNext_refused
      | with_reducible refine invNext_next ?_

theorem execMaintDone_inv {s : State} (hs : Inv s) : InvNext (execMaintDone s) := by
  unfold execMaintDone
  try dsimp only
  repeat'
    first
      | with_reducible assumption | with_reducible refine State.maintEnd_inv ?_ | exact invNext_refused
      | with_reducible refine invNext_next ?_

theorem execPcieLinkChange_inv {up : Bool} {rate : Fin 7} {width : Fin 17} {s : State} (hs : Inv s) :
    InvNext (execPcieLinkChange up rate width s) := by
  unfold execPcieLinkChange
  try dsimp only
  repeat'
    first
      | with_reducible assumption | with_reducible refine State.linkChange_inv ?_ | exact invNext_refused
      | with_reducible refine invNext_next ?_ | with_reducible refine invNext_ite ?_ ?_

theorem execPcieInbound_inv {fn : Fin 17} {tlp : Tlp} {err : MemErr} {s : State} (hs : Inv s) :
    InvNext (execPcieInbound fn tlp err s) := by
  unfold execPcieInbound
  try dsimp only
  repeat'
    first
      | with_reducible assumption | with_reducible refine State.tlpArrives_inv ?_ | exact invNext_refused
      | with_reducible refine invNext_next ?_ | with_reducible refine invNext_ite ?_ ?_

theorem execPcieOutbound_inv {src : OutSrc} {ans : Option (List Byte)} {s : State} (hs : Inv s) :
    InvNext (execPcieOutbound src ans s) := by
  unfold execPcieOutbound
  try dsimp only
  repeat'
    first
      | with_reducible assumption | with_reducible refine State.outbound_inv ?_ | exact invNext_refused
      | with_reducible refine invNext_next ?_ | with_reducible refine invNext_ite ?_ ?_

theorem execPcieCompletionTimeout_inv {src : OutSrc} {s : State} (hs : Inv s) :
    InvNext (execPcieCompletionTimeout src s) := by
  unfold execPcieCompletionTimeout
  try dsimp only
  repeat'
    first
      | with_reducible assumption | with_reducible refine State.cplTimeout_inv ?_ | exact invNext_refused
      | with_reducible refine invNext_next ?_

theorem execPostedWriteDrop_inv {s : State} (hs : Inv s) : InvNext (execPostedWriteDrop s) := by
  unfold execPostedWriteDrop
  try dsimp only
  repeat'
    first
      | with_reducible assumption | with_reducible refine State.postedDrop_inv ?_ | exact invNext_refused
      | with_reducible refine invNext_next ?_

theorem execMsixUnmask_inv {fn : Fin 17} {vec : Fin 2048} {s : State} (hs : Inv s) : InvNext (execMsixUnmask fn vec s) := by
  unfold execMsixUnmask
  try dsimp only
  repeat'
    first
      | with_reducible assumption | with_reducible refine State.msixWrite_inv ?_ | exact invNext_refused
      | with_reducible refine invNext_next ?_

theorem execFlr_inv {fn : Fin 17} {s : State} (hs : Inv s) : InvNext (execFlr fn s) := by
  unfold execFlr
  try dsimp only
  repeat'
    first
      | with_reducible assumption | with_reducible refine State.flr_inv ?_ | exact invNext_refused
      | with_reducible refine invNext_next ?_ | with_reducible refine invNext_ite ?_ ?_

theorem execPciePerst_inv {s : State} (hs : Inv s) : InvNext (execPciePerst s) := by
  unfold execPciePerst
  try dsimp only
  repeat'
    first
      | with_reducible assumption | with_reducible refine State.perstFalls_inv ?_ | exact invNext_refused
      | with_reducible refine invNext_next ?_

theorem execPciePerstRelease_inv {s : State} (hs : Inv s) : InvNext (execPciePerstRelease s) := by
  unfold execPciePerstRelease
  try dsimp only
  repeat'
    first
      | with_reducible assumption | with_reducible refine State.perstRises_inv ?_ | exact invNext_refused
      | with_reducible refine invNext_next ?_

theorem execSysChipidWrite_inv {id : BitVec 12} {s : State} (hs : Inv s) : InvNext (execSysChipidWrite id s) := by
  unfold execSysChipidWrite
  try dsimp only
  repeat'
    first
      | with_reducible assumption | with_reducible refine State.chipIdWrite_inv ?_ | exact invNext_refused
      | with_reducible refine invNext_next ?_

theorem execRegisterWrite_inv {src : PtnIx} {addr : BitVec 40} {value : Word} {s : State} (hs : Inv s) :
    InvNext (execRegisterWrite src addr value s) := by
  unfold execRegisterWrite
  try dsimp only
  repeat'
    first
      | with_reducible assumption | with_reducible refine State.regWrite_inv ?_ | with_reducible refine State.drainInbound_inv ?_
      | exact invNext_refused | with_reducible refine invNext_next ?_ | with_reducible refine invNext_ite ?_ ?_

theorem execArrClrCnt_inv {src : PtnIx} {t : TileIx} {s : State} (hs : Inv s) : InvNext (execArrClrCnt src t s) := by
  unfold execArrClrCnt
  try dsimp only
  repeat'
    first
      | with_reducible assumption | with_reducible refine State.arrClrCnt_inv ?_ | exact invNext_refused
      | with_reducible refine invNext_next ?_

theorem execEleClrCnt_inv {src : PtnIx} {t : TileIx} {s : State} (hs : Inv s) : InvNext (execEleClrCnt src t s) := by
  unfold execEleClrCnt
  try dsimp only
  repeat'
    first
      | with_reducible assumption | with_reducible refine State.eleClrCnt_inv ?_ | exact invNext_refused
      | with_reducible refine invNext_next ?_

theorem execStmClrCnt_inv {src : PtnIx} {t : TileIx} {s : State} (hs : Inv s) : InvNext (execStmClrCnt src t s) := by
  unfold execStmClrCnt
  try dsimp only
  repeat'
    first
      | with_reducible assumption | with_reducible refine State.stmClrCnt_inv ?_ | exact invNext_refused
      | with_reducible refine invNext_next ?_

theorem execXspCmd_inv {src : PtnIx} {value : Word} {s : State} (hs : Inv s) : InvNext (execXspCmd src value s) := by
  unfold execXspCmd
  try dsimp only
  repeat'
    first
      | with_reducible assumption | with_reducible refine State.regWrite_inv ?_ | exact invNext_refused
      | with_reducible refine invNext_next ?_

theorem execXspDone_inv {data : List Byte} {s : State} (hs : Inv s) : InvNext (execXspDone data s) := by
  unfold execXspDone
  try dsimp only
  repeat'
    first
      | with_reducible assumption | with_reducible refine State.xspEnd_inv ?_ | exact invNext_refused
      | with_reducible refine invNext_next ?_ | with_reducible refine invNext_ite ?_ ?_

theorem execSbCmd_inv {src : PtnIx} {value : Word} {s : State} (hs : Inv s) : InvNext (execSbCmd src value s) := by
  unfold execSbCmd
  try dsimp only
  repeat'
    first
      | with_reducible assumption | with_reducible refine State.regWrite_inv ?_ | exact invNext_refused
      | with_reducible refine invNext_next ?_

theorem execSbDone_inv {err : Fin 4} {data : List Byte} {s : State} (hs : Inv s) : InvNext (execSbDone err data s) := by
  unfold execSbDone
  try dsimp only
  repeat'
    first
      | with_reducible assumption | with_reducible refine State.sbEnd_inv ?_ | exact invNext_refused
      | with_reducible refine invNext_next ?_ | with_reducible refine invNext_ite ?_ ?_

theorem State.debugAccess_inv {s : State} {t : Nat} {off : Nat} {write : Bool} {data : List Byte} (hs : Inv s) :
    Inv (State.debugAccess s t off write data) := by
  unfold State.debugAccess
  try dsimp only
  repeat'
    first
      | with_reducible assumption | with_reducible refine State.pokeTile_inv ?_ | with_reducible refine State.writeProgram_inv ?_
      | with_reducible refine State.event_inv ?_ | with_reducible refine inv_ite ?_ ?_

theorem execTileDebugAccess_inv {t : TileIx} {off : Fin 0x200000} {write : Bool} {data : List Byte} {s : State} (hs : Inv s) :
    InvNext (execTileDebugAccess t off write data s) := by
  unfold execTileDebugAccess
  try dsimp only
  repeat'
    first
      | with_reducible assumption | with_reducible refine State.debugAccess_inv ?_ | exact invNext_refused
      | with_reducible refine invNext_next ?_ | with_reducible refine invNext_ite ?_ ?_

theorem State.scalar_inv {s : State} {t : TileIx} {o : Nat} {eff : SSlot → State → State} (hs : Inv s) (heff : ∀ y0 y1, Inv y1 → Inv (eff y0 y1)) :
    InvNext (State.scalar s t o eff) := by
  unfold State.scalar
  try dsimp only
  repeat'
    first
      | with_reducible assumption | with_reducible refine State.issueSlot_inv ?_ ?_ | exact invNext_refused
      | with_reducible refine invNext_next ?_ | with_reducible refine heff _ _ ?_ | with_reducible refine invNext_ite ?_ ?_
      | with_reducible refine inv_ite ?_ ?_ | split | intro _ _ | intro _

theorem aluEffect_inv {t : Nat} {imm : Bool} {f : Word → Word → Word} {fl : Word → Word → Word → BitVec 4} {op : SSlot} {s : State} (hs : Inv s) :
    Inv (aluEffect t imm f fl op s) := by
  unfold aluEffect
  try dsimp only
  repeat' (first | with_reducible assumption | with_reducible refine State.stageWrites_inv ?_)

theorem plainEffect_inv {t : Nat} {lat : Nat} {f : Word → Word → Word} {op : SSlot} {s : State} (hs : Inv s) :
    Inv (plainEffect t lat f op s) := by
  unfold plainEffect
  try dsimp only
  repeat' (first | with_reducible assumption | with_reducible refine State.stageWrite_inv ?_)

theorem cmpEffect_inv {t : Nat} {imm : Bool} {op : SSlot} {s : State} (hs : Inv s) : Inv (cmpEffect t imm op s) := by
  unfold cmpEffect
  try dsimp only
  repeat' (first | with_reducible assumption | with_reducible refine State.stageWrite_inv ?_)

theorem loadEffect_inv {t : Nat} {y : Bool} {op : SSlot} {s : State} (hs : Inv s) : Inv (loadEffect t y op s) := by
  unfold loadEffect
  try dsimp only
  repeat' (first | with_reducible assumption | with_reducible refine State.stageWrite_inv ?_)

theorem storeEffect_inv {t : Nat} {y : Bool} {op : SSlot} {s : State} (hs : Inv s) : Inv (storeEffect t y op s) := by
  unfold storeEffect
  try dsimp only
  repeat' (first | with_reducible assumption | with_reducible refine State.stageWrite_inv ?_)

theorem State.branchTo_inv {s : State} {t : Nat} {a : Nat} (hs : Inv s) : Inv (State.branchTo s t a) := by
  unfold State.branchTo
  try dsimp only
  repeat' (first | with_reducible assumption | with_reducible refine State.modTile_inv ?_)

theorem loopEffect_inv {t : Nat} {count : Word} {op : SSlot} {s : State} (hs : Inv s) : Inv (loopEffect t count op s) := by
  unfold loopEffect
  try dsimp only
  repeat'
    first
      | with_reducible assumption | with_reducible refine State.modTile_inv ?_ | with_reducible refine State.stageWrite_inv ?_
      | with_reducible refine inv_ite ?_ ?_

theorem aaddEffect_inv {t : Nat} {op : SSlot} {s : State} (hs : Inv s) : Inv (aaddEffect t op s) := by
  unfold aaddEffect
  try dsimp only
  repeat' (first | with_reducible assumption | with_reducible refine State.stageWrite_inv ?_)

theorem State.addFence_inv {s : State} {t : Nat} {signal : Option Nat} {implicit : Bool} (hs : Inv s) :
    Inv (State.addFence s t signal implicit) := by
  unfold State.addFence
  try dsimp only
  repeat' (first | with_reducible assumption | with_reducible refine State.modTile_inv ?_)

theorem noEffect_inv {u0 : SSlot} {s : State} (hs : Inv s) : Inv (noEffect u0 s) := by
  unfold noEffect
  try dsimp only
  repeat' (first | with_reducible assumption)

theorem execNop_inv {t : TileIx} {slot : Fin 7} {s : State} (hs : Inv s) : InvNext (execNop t slot s) := by
  unfold execNop
  try dsimp only
  repeat'
    first
      | with_reducible assumption | with_reducible refine State.issueSlot_inv ?_ ?_ | exact invNext_refused
      | with_reducible refine invNext_next ?_ | with_reducible refine invNext_ite ?_ ?_ | with_reducible refine inv_ite ?_ ?_
      | split | (intros; assumption)

theorem execAdd_inv {t : TileIx} {s : State} (hs : Inv s) : InvNext (execAdd t s) := by
  unfold execAdd
  try dsimp only
  repeat'
    first
      | with_reducible assumption | with_reducible refine State.scalar_inv ?_ ?_ | with_reducible refine aluEffect_inv ?_
      | exact invNext_refused | with_reducible refine invNext_next ?_ | with_reducible refine invNext_ite ?_ ?_
      | with_reducible refine inv_ite ?_ ?_ | split | intro _ _ | intro _

theorem execSub_inv {t : TileIx} {s : State} (hs : Inv s) : InvNext (execSub t s) := by
  unfold execSub
  try dsimp only
  repeat'
    first
      | with_reducible assumption | with_reducible refine State.scalar_inv ?_ ?_ | with_reducible refine aluEffect_inv ?_
      | exact invNext_refused | with_reducible refine invNext_next ?_ | with_reducible refine invNext_ite ?_ ?_
      | with_reducible refine inv_ite ?_ ?_ | split | intro _ _ | intro _

theorem execAnd_inv {t : TileIx} {s : State} (hs : Inv s) : InvNext (execAnd t s) := by
  unfold execAnd
  try dsimp only
  repeat'
    first
      | with_reducible assumption | with_reducible refine State.scalar_inv ?_ ?_ | with_reducible refine aluEffect_inv ?_
      | exact invNext_refused | with_reducible refine invNext_next ?_ | with_reducible refine invNext_ite ?_ ?_
      | with_reducible refine inv_ite ?_ ?_ | split | intro _ _ | intro _

theorem execOr_inv {t : TileIx} {s : State} (hs : Inv s) : InvNext (execOr t s) := by
  unfold execOr
  try dsimp only
  repeat'
    first
      | with_reducible assumption | with_reducible refine State.scalar_inv ?_ ?_ | with_reducible refine aluEffect_inv ?_
      | exact invNext_refused | with_reducible refine invNext_next ?_ | with_reducible refine invNext_ite ?_ ?_
      | with_reducible refine inv_ite ?_ ?_ | split | intro _ _ | intro _

theorem execXor_inv {t : TileIx} {s : State} (hs : Inv s) : InvNext (execXor t s) := by
  unfold execXor
  try dsimp only
  repeat'
    first
      | with_reducible assumption | with_reducible refine State.scalar_inv ?_ ?_ | with_reducible refine aluEffect_inv ?_
      | exact invNext_refused | with_reducible refine invNext_next ?_ | with_reducible refine invNext_ite ?_ ?_
      | with_reducible refine inv_ite ?_ ?_ | split | intro _ _ | intro _

theorem execSll_inv {t : TileIx} {s : State} (hs : Inv s) : InvNext (execSll t s) := by
  unfold execSll
  try dsimp only
  repeat'
    first
      | with_reducible assumption | with_reducible refine State.scalar_inv ?_ ?_ | with_reducible refine aluEffect_inv ?_
      | exact invNext_refused | with_reducible refine invNext_next ?_ | with_reducible refine invNext_ite ?_ ?_
      | with_reducible refine inv_ite ?_ ?_ | split | intro _ _ | intro _

theorem execSrl_inv {t : TileIx} {s : State} (hs : Inv s) : InvNext (execSrl t s) := by
  unfold execSrl
  try dsimp only
  repeat'
    first
      | with_reducible assumption | with_reducible refine State.scalar_inv ?_ ?_ | with_reducible refine aluEffect_inv ?_
      | exact invNext_refused | with_reducible refine invNext_next ?_ | with_reducible refine invNext_ite ?_ ?_
      | with_reducible refine inv_ite ?_ ?_ | split | intro _ _ | intro _

theorem execSra_inv {t : TileIx} {s : State} (hs : Inv s) : InvNext (execSra t s) := by
  unfold execSra
  try dsimp only
  repeat'
    first
      | with_reducible assumption | with_reducible refine State.scalar_inv ?_ ?_ | with_reducible refine aluEffect_inv ?_
      | exact invNext_refused | with_reducible refine invNext_next ?_ | with_reducible refine invNext_ite ?_ ?_
      | with_reducible refine inv_ite ?_ ?_ | split | intro _ _ | intro _

theorem execMul_inv {t : TileIx} {s : State} (hs : Inv s) : InvNext (execMul t s) := by
  unfold execMul
  try dsimp only
  repeat'
    first
      | with_reducible assumption | with_reducible refine State.scalar_inv ?_ ?_ | with_reducible refine plainEffect_inv ?_
      | exact invNext_refused | with_reducible refine invNext_next ?_ | with_reducible refine invNext_ite ?_ ?_
      | with_reducible refine inv_ite ?_ ?_ | split | intro _ _ | intro _

theorem execMulh_inv {t : TileIx} {s : State} (hs : Inv s) : InvNext (execMulh t s) := by
  unfold execMulh
  try dsimp only
  repeat'
    first
      | with_reducible assumption | with_reducible refine State.scalar_inv ?_ ?_ | with_reducible refine plainEffect_inv ?_
      | exact invNext_refused | with_reducible refine invNext_next ?_ | with_reducible refine invNext_ite ?_ ?_
      | with_reducible refine inv_ite ?_ ?_ | split | intro _ _ | intro _

theorem execMin_inv {t : TileIx} {s : State} (hs : Inv s) : InvNext (execMin t s) := by
  unfold execMin
  try dsimp only
  repeat'
    first
      | with_reducible assumption | with_reducible refine State.scalar_inv ?_ ?_ | with_reducible refine plainEffect_inv ?_
      | exact invNext_refused | with_reducible refine invNext_next ?_ | with_reducible refine invNext_ite ?_ ?_
      | with_reducible refine inv_ite ?_ ?_ | split | intro _ _ | intro _

theorem execMax_inv {t : TileIx} {s : State} (hs : Inv s) : InvNext (execMax t s) := by
  unfold execMax
  try dsimp only
  repeat'
    first
      | with_reducible assumption | with_reducible refine State.scalar_inv ?_ ?_ | with_reducible refine plainEffect_inv ?_
      | exact invNext_refused | with_reducible refine invNext_next ?_ | with_reducible refine invNext_ite ?_ ?_
      | with_reducible refine inv_ite ?_ ?_ | split | intro _ _ | intro _

theorem execCmp_inv {t : TileIx} {s : State} (hs : Inv s) : InvNext (execCmp t s) := by
  unfold execCmp
  try dsimp only
  repeat'
    first
      | with_reducible assumption | with_reducible refine State.scalar_inv ?_ ?_ | with_reducible refine cmpEffect_inv ?_
      | exact invNext_refused | with_reducible refine invNext_next ?_ | with_reducible refine invNext_ite ?_ ?_
      | with_reducible refine inv_ite ?_ ?_ | split | intro _ _ | intro _

theorem execAddi_inv {t : TileIx} {s : State} (hs : Inv s) : InvNext (execAddi t s) := by
  unfold execAddi
  try dsimp only
  repeat'
    first
      | with_reducible assumption | with_reducible refine State.scalar_inv ?_ ?_ | with_reducible refine aluEffect_inv ?_
      | exact invNext_refused | with_reducible refine invNext_next ?_ | with_reducible refine invNext_ite ?_ ?_
      | with_reducible refine inv_ite ?_ ?_ | split | intro _ _ | intro _

theorem execAndi_inv {t : TileIx} {s : State} (hs : Inv s) : InvNext (execAndi t s) := by
  unfold execAndi
  try dsimp only
  repeat'
    first
      | with_reducible assumption | with_reducible refine State.scalar_inv ?_ ?_ | with_reducible refine aluEffect_inv ?_
      | exact invNext_refused | with_reducible refine invNext_next ?_ | with_reducible refine invNext_ite ?_ ?_
      | with_reducible refine inv_ite ?_ ?_ | split | intro _ _ | intro _

theorem execOri_inv {t : TileIx} {s : State} (hs : Inv s) : InvNext (execOri t s) := by
  unfold execOri
  try dsimp only
  repeat'
    first
      | with_reducible assumption | with_reducible refine State.scalar_inv ?_ ?_ | with_reducible refine aluEffect_inv ?_
      | exact invNext_refused | with_reducible refine invNext_next ?_ | with_reducible refine invNext_ite ?_ ?_
      | with_reducible refine inv_ite ?_ ?_ | split | intro _ _ | intro _

theorem execXori_inv {t : TileIx} {s : State} (hs : Inv s) : InvNext (execXori t s) := by
  unfold execXori
  try dsimp only
  repeat'
    first
      | with_reducible assumption | with_reducible refine State.scalar_inv ?_ ?_ | with_reducible refine aluEffect_inv ?_
      | exact invNext_refused | with_reducible refine invNext_next ?_ | with_reducible refine invNext_ite ?_ ?_
      | with_reducible refine inv_ite ?_ ?_ | split | intro _ _ | intro _

theorem execSlli_inv {t : TileIx} {s : State} (hs : Inv s) : InvNext (execSlli t s) := by
  unfold execSlli
  try dsimp only
  repeat'
    first
      | with_reducible assumption | with_reducible refine State.scalar_inv ?_ ?_ | with_reducible refine aluEffect_inv ?_
      | exact invNext_refused | with_reducible refine invNext_next ?_ | with_reducible refine invNext_ite ?_ ?_
      | with_reducible refine inv_ite ?_ ?_ | split | intro _ _ | intro _

theorem execSrli_inv {t : TileIx} {s : State} (hs : Inv s) : InvNext (execSrli t s) := by
  unfold execSrli
  try dsimp only
  repeat'
    first
      | with_reducible assumption | with_reducible refine State.scalar_inv ?_ ?_ | with_reducible refine aluEffect_inv ?_
      | exact invNext_refused | with_reducible refine invNext_next ?_ | with_reducible refine invNext_ite ?_ ?_
      | with_reducible refine inv_ite ?_ ?_ | split | intro _ _ | intro _

theorem execSrai_inv {t : TileIx} {s : State} (hs : Inv s) : InvNext (execSrai t s) := by
  unfold execSrai
  try dsimp only
  repeat'
    first
      | with_reducible assumption | with_reducible refine State.scalar_inv ?_ ?_ | with_reducible refine aluEffect_inv ?_
      | exact invNext_refused | with_reducible refine invNext_next ?_ | with_reducible refine invNext_ite ?_ ?_
      | with_reducible refine inv_ite ?_ ?_ | split | intro _ _ | intro _

theorem execLi_inv {t : TileIx} {s : State} (hs : Inv s) : InvNext (execLi t s) := by
  unfold execLi
  try dsimp only
  repeat'
    first
      | with_reducible assumption | with_reducible refine State.scalar_inv ?_ ?_ | with_reducible refine State.stageWrite_inv ?_
      | exact invNext_refused | with_reducible refine invNext_next ?_ | with_reducible refine invNext_ite ?_ ?_
      | with_reducible refine inv_ite ?_ ?_ | split | intro _ _ | intro _

theorem execCmpi_inv {t : TileIx} {s : State} (hs : Inv s) : InvNext (execCmpi t s) := by
  unfold execCmpi
  try dsimp only
  repeat'
    first
      | with_reducible assumption | with_reducible refine State.scalar_inv ?_ ?_ | with_reducible refine cmpEffect_inv ?_
      | exact invNext_refused | with_reducible refine invNext_next ?_ | with_reducible refine invNext_ite ?_ ?_
      | with_reducible refine inv_ite ?_ ?_ | split | intro _ _ | intro _

theorem execPset_inv {t : TileIx} {s : State} (hs : Inv s) : InvNext (execPset t s) := by
  unfold execPset
  try dsimp only
  repeat'
    first
      | with_reducible assumption | with_reducible refine State.scalar_inv ?_ ?_ | with_reducible refine State.stageWrite_inv ?_
      | exact invNext_refused | with_reducible refine invNext_next ?_ | with_reducible refine invNext_ite ?_ ?_
      | with_reducible refine inv_ite ?_ ?_ | split | intro _ _ | intro _

theorem execPlog_inv {t : TileIx} {s : State} (hs : Inv s) : InvNext (execPlog t s) := by
  unfold execPlog
  try dsimp only
  repeat'
    first
      | with_reducible assumption | with_reducible refine State.scalar_inv ?_ ?_ | with_reducible refine State.stageWrite_inv ?_
      | exact invNext_refused | with_reducible refine invNext_next ?_ | with_reducible refine invNext_ite ?_ ?_
      | with_reducible refine inv_ite ?_ ?_ | split | intro _ _ | intro _

theorem execMfs_inv {t : TileIx} {s : State} (hs : Inv s) : InvNext (execMfs t s) := by
  unfold execMfs
  try dsimp only
  repeat'
    first
      | with_reducible assumption | with_reducible refine State.scalar_inv ?_ ?_ | with_reducible refine State.stageWrite_inv ?_
      | exact invNext_refused | with_reducible refine invNext_next ?_ | with_reducible refine invNext_ite ?_ ?_
      | with_reducible refine inv_ite ?_ ?_ | split | refine inv_getD ?_ ?_ | intro _ _ | intro _

theorem execMts_inv {t : TileIx} {s : State} (hs : Inv s) : InvNext (execMts t s) := by
  unfold execMts
  try dsimp only
  repeat'
    first
      | with_reducible assumption | with_reducible refine State.scalar_inv ?_ ?_ | with_reducible refine State.stageWrites_inv ?_
      | exact invNext_refused | with_reducible refine invNext_next ?_ | with_reducible refine invNext_ite ?_ ?_
      | with_reducible refine inv_ite ?_ ?_ | split | refine inv_getD ?_ ?_ | intro _ _ | intro _

theorem execAadd_inv {t : TileIx} {s : State} (hs : Inv s) : InvNext (execAadd t s) := by
  unfold execAadd
  try dsimp only
  repeat'
    first
      | with_reducible assumption | with_reducible refine State.scalar_inv ?_ ?_ | with_reducible refine aaddEffect_inv ?_
      | exact invNext_refused | with_reducible refine invNext_next ?_ | with_reducible refine invNext_ite ?_ ?_
      | with_reducible refine inv_ite ?_ ?_ | split | intro _ _ | intro _

theorem execLdx_inv {t : TileIx} {s : State} (hs : Inv s) : InvNext (execLdx t s) := by
  unfold execLdx
  try dsimp only
  repeat'
    first
      | with_reducible assumption | with_reducible refine State.scalar_inv ?_ ?_ | with_reducible refine loadEffect_inv ?_
      | exact invNext_refused | with_reducible refine invNext_next ?_ | with_reducible refine invNext_ite ?_ ?_
      | with_reducible refine inv_ite ?_ ?_ | split | intro _ _ | intro _

theorem execLdy_inv {t : TileIx} {s : State} (hs : Inv s) : InvNext (execLdy t s) := by
  unfold execLdy
  try dsimp only
  repeat'
    first
      | with_reducible assumption | with_reducible refine State.scalar_inv ?_ ?_ | with_reducible refine loadEffect_inv ?_
      | exact invNext_refused | with_reducible refine invNext_next ?_ | with_reducible refine invNext_ite ?_ ?_
      | with_reducible refine inv_ite ?_ ?_ | split | intro _ _ | intro _

theorem execStx_inv {t : TileIx} {s : State} (hs : Inv s) : InvNext (execStx t s) := by
  unfold execStx
  try dsimp only
  repeat'
    first
      | with_reducible assumption | with_reducible refine State.scalar_inv ?_ ?_ | with_reducible refine storeEffect_inv ?_
      | exact invNext_refused | with_reducible refine invNext_next ?_ | with_reducible refine invNext_ite ?_ ?_
      | with_reducible refine inv_ite ?_ ?_ | split | intro _ _ | intro _

theorem execSty_inv {t : TileIx} {s : State} (hs : Inv s) : InvNext (execSty t s) := by
  unfold execSty
  try dsimp only
  repeat'
    first
      | with_reducible assumption | with_reducible refine State.scalar_inv ?_ ?_ | with_reducible refine storeEffect_inv ?_
      | exact invNext_refused | with_reducible refine invNext_next ?_ | with_reducible refine invNext_ite ?_ ?_
      | with_reducible refine inv_ite ?_ ?_ | split | intro _ _ | intro _

theorem execBr_inv {t : TileIx} {s : State} (hs : Inv s) : InvNext (execBr t s) := by
  unfold execBr
  try dsimp only
  repeat'
    first
      | with_reducible assumption | with_reducible refine State.scalar_inv ?_ ?_ | with_reducible refine State.branchTo_inv ?_
      | exact invNext_refused | with_reducible refine invNext_next ?_ | with_reducible refine invNext_ite ?_ ?_
      | with_reducible refine inv_ite ?_ ?_ | split | intro _ _ | intro _

theorem execBrr_inv {t : TileIx} {s : State} (hs : Inv s) : InvNext (execBrr t s) := by
  unfold execBrr
  try dsimp only
  repeat'
    first
      | with_reducible assumption | with_reducible refine State.scalar_inv ?_ ?_ | with_reducible refine State.branchTo_inv ?_
      | exact invNext_refused | with_reducible refine invNext_next ?_ | with_reducible refine invNext_ite ?_ ?_
      | with_reducible refine inv_ite ?_ ?_ | split | intro _ _ | intro _

theorem execCall_inv {t : TileIx} {s : State} (hs : Inv s) : InvNext (execCall t s) := by
  unfold execCall
  try dsimp only
  repeat'
    first
      | with_reducible assumption | with_reducible refine State.scalar_inv ?_ ?_ | with_reducible refine State.stageWrite_inv ?_
      | with_reducible refine State.branchTo_inv ?_ | exact invNext_refused | with_reducible refine invNext_next ?_
      | with_reducible refine invNext_ite ?_ ?_ | with_reducible refine inv_ite ?_ ?_ | split | intro _ _ | intro _

theorem execRet_inv {t : TileIx} {s : State} (hs : Inv s) : InvNext (execRet t s) := by
  unfold execRet
  try dsimp only
  repeat'
    first
      | with_reducible assumption | with_reducible refine State.scalar_inv ?_ ?_ | with_reducible refine State.branchTo_inv ?_
      | exact invNext_refused | with_reducible refine invNext_next ?_ | with_reducible refine invNext_ite ?_ ?_
      | with_reducible refine inv_ite ?_ ?_ | split | intro _ _ | intro _

theorem execLoop_inv {t : TileIx} {s : State} (hs : Inv s) : InvNext (execLoop t s) := by
  unfold execLoop
  try dsimp only
  repeat'
    first
      | with_reducible assumption | with_reducible refine State.scalar_inv ?_ ?_ | with_reducible refine loopEffect_inv ?_
      | exact invNext_refused | with_reducible refine invNext_next ?_ | with_reducible refine invNext_ite ?_ ?_
      | with_reducible refine inv_ite ?_ ?_ | split | intro _ _ | intro _

theorem execLoopr_inv {t : TileIx} {s : State} (hs : Inv s) : InvNext (execLoopr t s) := by
  unfold execLoopr
  try dsimp only
  repeat'
    first
      | with_reducible assumption | with_reducible refine State.scalar_inv ?_ ?_ | with_reducible refine loopEffect_inv ?_
      | exact invNext_refused | with_reducible refine invNext_next ?_ | with_reducible refine invNext_ite ?_ ?_
      | with_reducible refine inv_ite ?_ ?_ | split | intro _ _ | intro _

theorem execLbrk_inv {t : TileIx} {s : State} (hs : Inv s) : InvNext (execLbrk t s) := by
  unfold execLbrk
  try dsimp only
  repeat'
    first
      | with_reducible assumption | with_reducible refine State.scalar_inv ?_ ?_ | with_reducible refine State.stageWrite_inv ?_
      | exact invNext_refused | with_reducible refine invNext_next ?_ | with_reducible refine invNext_ite ?_ ?_
      | with_reducible refine inv_ite ?_ ?_ | split | intro _ _ | intro _

theorem execRti_inv {t : TileIx} {s : State} (hs : Inv s) : InvNext (execRti t s) := by
  unfold execRti
  try dsimp only
  repeat'
    first
      | with_reducible assumption | with_reducible refine State.scalar_inv ?_ ?_ | with_reducible refine State.setTile_inv ?_
      | with_reducible refine State.stageWrite_inv ?_ | with_reducible refine State.branchTo_inv ?_ | exact invNext_refused
      | with_reducible refine invNext_next ?_ | with_reducible refine invNext_ite ?_ ?_ | with_reducible refine inv_ite ?_ ?_
      | split | intro _ _ | intro _

theorem execHalt_inv {t : TileIx} {s : State} (hs : Inv s) : InvNext (execHalt t s) := by
  unfold execHalt
  try dsimp only
  repeat'
    first
      | with_reducible assumption | with_reducible refine State.scalar_inv ?_ ?_ | with_reducible refine State.addFence_inv ?_
      | with_reducible refine State.modTile_inv ?_ | exact invNext_refused | with_reducible refine invNext_next ?_
      | with_reducible refine invNext_ite ?_ ?_ | with_reducible refine inv_ite ?_ ?_ | split | intro _ _ | intro _

theorem execTrap_inv {t : TileIx} {s : State} (hs : Inv s) : InvNext (execTrap t s) := by
  unfold execTrap
  try dsimp only
  repeat'
    first
      | with_reducible assumption | with_reducible refine State.scalar_inv ?_ ?_ | with_reducible refine noEffect_inv ?_
      | exact invNext_refused | with_reducible refine invNext_next ?_ | with_reducible refine invNext_ite ?_ ?_
      | with_reducible refine inv_ite ?_ ?_ | split | (intros; assumption)

theorem execWfi_inv {t : TileIx} {s : State} (hs : Inv s) : InvNext (execWfi t s) := by
  unfold execWfi
  try dsimp only
  repeat'
    first
      | with_reducible assumption | with_reducible refine State.scalar_inv ?_ ?_ | with_reducible refine noEffect_inv ?_
      | exact invNext_refused | with_reducible refine invNext_next ?_ | with_reducible refine invNext_ite ?_ ?_
      | with_reducible refine inv_ite ?_ ?_ | split | (intros; assumption)

theorem execSemw_inv {t : TileIx} {s : State} (hs : Inv s) : InvNext (execSemw t s) := by
  unfold execSemw
  try dsimp only
  repeat'
    first
      | with_reducible assumption | with_reducible refine State.scalar_inv ?_ ?_ | with_reducible refine State.takeSem_inv ?_
      | exact invNext_refused | with_reducible refine invNext_next ?_ | with_reducible refine invNext_ite ?_ ?_
      | with_reducible refine inv_ite ?_ ?_ | split | intro _ _ | intro _

theorem execSems_inv {t : TileIx} {s : State} (hs : Inv s) : InvNext (execSems t s) := by
  unfold execSems
  try dsimp only
  repeat'
    first
      | with_reducible assumption | with_reducible refine State.scalar_inv ?_ ?_ | with_reducible refine State.signal_inv ?_
      | exact invNext_refused | with_reducible refine invNext_next ?_ | with_reducible refine invNext_ite ?_ ?_
      | with_reducible refine inv_ite ?_ ?_ | split | intro _ _ | intro _

theorem execSstart_inv {t : TileIx} {s : State} (hs : Inv s) : InvNext (execSstart t s) := by
  unfold execSstart
  try dsimp only
  repeat'
    first
      | with_reducible assumption | with_reducible refine State.scalar_inv ?_ ?_ | with_reducible refine State.startInst_inv ?_
      | exact invNext_refused | with_reducible refine invNext_next ?_ | with_reducible refine invNext_ite ?_ ?_
      | with_reducible refine inv_ite ?_ ?_ | split | intro _ _ | intro _

theorem execSwait_inv {t : TileIx} {s : State} (hs : Inv s) : InvNext (execSwait t s) := by
  unfold execSwait
  try dsimp only
  repeat'
    first
      | with_reducible assumption | with_reducible refine State.scalar_inv ?_ ?_ | with_reducible refine noEffect_inv ?_
      | exact invNext_refused | with_reducible refine invNext_next ?_ | with_reducible refine invNext_ite ?_ ?_
      | with_reducible refine inv_ite ?_ ?_ | split | (intros; assumption)

theorem execSfence_inv {t : TileIx} {s : State} (hs : Inv s) : InvNext (execSfence t s) := by
  unfold execSfence
  try dsimp only
  repeat'
    first
      | with_reducible assumption | with_reducible refine State.scalar_inv ?_ ?_ | with_reducible refine State.addFence_inv ?_
      | exact invNext_refused | with_reducible refine invNext_next ?_ | with_reducible refine invNext_ite ?_ ?_
      | with_reducible refine inv_ite ?_ ?_ | split | intro _ _ | intro _

theorem execSfwait_inv {t : TileIx} {s : State} (hs : Inv s) : InvNext (execSfwait t s) := by
  unfold execSfwait
  try dsimp only
  repeat'
    first
      | with_reducible assumption | with_reducible refine State.scalar_inv ?_ ?_ | with_reducible refine noEffect_inv ?_
      | exact invNext_refused | with_reducible refine invNext_next ?_ | with_reducible refine invNext_ite ?_ ?_
      | with_reducible refine inv_ite ?_ ?_ | split | (intros; assumption)

theorem execEwait_inv {t : TileIx} {s : State} (hs : Inv s) : InvNext (execEwait t s) := by
  unfold execEwait
  try dsimp only
  repeat'
    first
      | with_reducible assumption | with_reducible refine State.scalar_inv ?_ ?_ | with_reducible refine noEffect_inv ?_
      | exact invNext_refused | with_reducible refine invNext_next ?_ | with_reducible refine invNext_ite ?_ ?_
      | with_reducible refine inv_ite ?_ ?_ | split | (intros; assumption)

theorem State.streamAtomic_inv {s : State} {p : Nat} {r : SReq} {err : MemErr} (hs : Inv s) :
    Inv (State.streamAtomic s p r err).1 := by
  unfold State.streamAtomic
  try dsimp only
  repeat'
    first
      | with_reducible assumption | with_reducible refine State.memError_inv ?_ | with_reducible refine State.store_inv ?_
      | with_reducible refine inv_snd (by assumption) ?_ | with_reducible refine inv_fst (by assumption) ?_
      | with_reducible refine inv_ite ?_ ?_ | with_reducible refine inv_ite_fst ?_ ?_ | dsimp only | split

theorem State.streamQueued_inv {s : State} {r : SReq} (hs : Inv s) : Inv (State.streamQueued s r).1 := by
  unfold State.streamQueued
  try dsimp only
  repeat'
    first
      | with_reducible assumption | with_reducible refine State.poke_inv ?_ | with_reducible refine State.postOut_inv ?_
      | with_reducible refine inv_ite ?_ ?_ | with_reducible refine inv_ite_fst ?_ ?_ | split

theorem State.streamAccess_inv {s : State} {p : Nat} {r : SReq} {err : MemErr} (hs : Inv s) :
    Inv (State.streamAccess s p r err).1 := by
  unfold State.streamAccess
  try dsimp only
  repeat'
    first
      | with_reducible assumption | with_reducible refine State.streamQueued_inv ?_
      | with_reducible refine State.streamAtomic_inv ?_ | with_reducible refine State.busWrite_inv ?_
      | with_reducible refine State.busRead_inv ?_ | with_reducible refine inv_snd (by assumption) ?_
      | with_reducible refine inv_fst (by assumption) ?_ | with_reducible refine inv_ite ?_ ?_
      | with_reducible refine inv_ite_fst ?_ ?_

theorem State.streamResponse_inv {s : State} {t : Nat} {id : Nat} {err : MemErr} (hs : Inv s) :
    Inv (State.streamResponse s t id err) := by
  unfold State.streamResponse
  try dsimp only
  repeat'
    first
      | with_reducible assumption | with_reducible refine State.streamAccess_inv ?_ | with_reducible refine State.answerReq_inv ?_
      | with_reducible refine State.drainInbound_inv ?_ | with_reducible refine inv_snd (by assumption) ?_
      | with_reducible refine inv_fst (by assumption) ?_ | with_reducible refine inv_ite ?_ ?_ | split

theorem execInstanceActivate_inv {t : TileIx} {s : State} (hs : Inv s) : InvNext (execInstanceActivate t s) := by
  unfold execInstanceActivate
  try dsimp only
  repeat'
    first
      | with_reducible assumption | with_reducible refine State.modTile_inv ?_ | exact invNext_refused
      | with_reducible refine invNext_next ?_ | with_reducible refine invNext_ite ?_ ?_

theorem execListFetch_inv {t : TileIx} {d : BitVec 8} {out : Bool} {s : State} (hs : Inv s) :
    InvNext (execListFetch t d out s) := by
  unfold execListFetch
  try dsimp only
  repeat'
    first
      | with_reducible assumption | with_reducible refine State.listFetch_inv ?_ | exact invNext_refused
      | with_reducible refine invNext_next ?_ | with_reducible refine invNext_ite ?_ ?_

theorem execStreamRequestIssue_inv {t : TileIx} {out : Bool} {s : State} (hs : Inv s) :
    InvNext (execStreamRequestIssue t out s) := by
  unfold execStreamRequestIssue
  try dsimp only
  repeat'
    first
      | with_reducible assumption | with_reducible refine State.issueRequest_inv ?_ | exact invNext_refused
      | with_reducible refine invNext_next ?_

theorem execStreamResponse_inv {t : TileIx} {id : Nat} {err : MemErr} {s : State} (hs : Inv s) :
    InvNext (execStreamResponse t id err s) := by
  unfold execStreamResponse
  try dsimp only
  repeat'
    first
      | with_reducible assumption | with_reducible refine State.streamResponse_inv ?_ | exact invNext_refused
      | with_reducible refine invNext_next ?_ | with_reducible refine invNext_ite ?_ ?_

theorem execFenceRetire_inv {t : TileIx} {s : State} (hs : Inv s) : InvNext (execFenceRetire t s) := by
  unfold execFenceRetire
  try dsimp only
  repeat'
    first
      | with_reducible assumption | with_reducible refine State.fenceRetire_inv ?_ | exact invNext_refused
      | with_reducible refine invNext_next ?_ | with_reducible refine invNext_ite ?_ ?_

theorem execCrcBlockFeed_inv {t : TileIx} {s : State} (hs : Inv s) : InvNext (execCrcBlockFeed t s) := by
  unfold execCrcBlockFeed
  try dsimp only
  repeat'
    first
      | with_reducible assumption | with_reducible refine State.crcStart_inv ?_ | exact invNext_refused
      | with_reducible refine invNext_next ?_ | with_reducible refine invNext_ite ?_ ?_

theorem execCrcFeedEnd_inv {t : TileIx} {s : State} (hs : Inv s) : InvNext (execCrcFeedEnd t s) := by
  unfold execCrcFeedEnd
  try dsimp only
  repeat'
    first
      | with_reducible assumption | with_reducible refine State.crcEnd_inv ?_ | exact invNext_refused
      | with_reducible refine invNext_next ?_ | with_reducible refine invNext_ite ?_ ?_

end Sys2Proof.Machine
end

