-- ==== Sys2Proof/Laws/Issue.lean ====
section
/-! SUPPORT. Laws of issuing: what the command of a slot does when the slot's turn has come, and what the end of a bundle
does when a tile has nothing else in hand. -/
namespace Sys2Proof.Machine
open Sys2Proof.Claims

/-- The tile of a bundle that begins to issue. -/
theorem State.beginIssue_tile (s : State) (t : Nat) (w : BitVec 256) (b : Bundle) :
    (s.beginIssue t w b).tile t = { s.tile t with
      state := .run, bound := none, paidStall := false,
      lossX := if exec? ((s.tile t).exMask b) 5 then (s.tile t).lossX + 1 else 0,
      lossY := if exec? ((s.tile t).exMask b) 6 then (s.tile t).lossY + 1 else 0,
      issuing := some { bundle := w, ex := (s.tile t).exMask b, done := 0, target := none, skip := none, kernelBad := false } } := by
  have h : ∀ c : Prop, ∀ [Decidable c], (if c then s.draw.2 else s).tile t = s.tile t := by
    intro c _; split <;> rfl
  simp [State.beginIssue, h]

/-- A bundle that begins to issue stands as the issuing bundle, its executing slots noted and none performed. -/
theorem State.beginIssue_issuing (s : State) (t : Nat) (w : BitVec 256) (b : Bundle) :
    ((s.beginIssue t w b).tile t).issuing =
      some { bundle := w, ex := (s.tile t).exMask b, done := 0, target := none, skip := none, kernelBad := false } := by
  rw [State.beginIssue_tile]

/-- The command of a slot whose turn has come performs the slot (R108, R123). -/
theorem State.issueSlot_turn {s u : State} {t k : Nat} {b : Bundle} (h : Turn s t k b u) {fits : Bundle → Bool}
    (hf : fits b = true) (eff : Bundle → State → State) :
    s.issueSlot t k fits eff = ((if slotExecutes u t k then eff b u else u).markDone t k).tryFinish t := by
  cases h with
  | begins h turn =>
    have hi := s.beginIssue_issuing t (s.fetch t) b
    simp only [State.issueSlot, h.runs, h.free, h.goesOn, h.fetched, h.legal, h.clear, hf, turn, hi, State.performSlot,
      slotExecutes, not_true_eq_false, if_false, and_self, Bool.false_eq_true, Option.map_some, Option.getD_some]
  | goesOn i runs issuing bundle turn =>
    simp only [State.issueSlot, runs, issuing, bundle, hf, turn, State.performSlot, slotExecutes, not_true_eq_false, if_false,
      Bool.and_self, if_true, Option.map_some, Option.getD_some]

/-! ## A bundle with one S operation, alone in its tile -/

/-- The tile after a bundle whose S slot alone was active and did not branch, before the results due are written. -/
def Tile.past (x : Tile) : Tile :=
  { x.pass 1 false with
    state := .run, bound := none, paidStall := false, lossX := 0, lossY := 0, issuing := none, pc := x.pc + 1, branch := none, delay := false,
    flags := BitVec.ofNat 32 (setBits x.flags.toNat 7 5 0) }

/-- Only the S slot is active. -/
theorem slots_of_only {b : Bundle} (h : b.active = 0b100000#6) (k : Nat) : b.isActive k = (k == 0) := by
  match k with
  | 0 => simp [Bundle.isActive, h, bit]
  | 1 => simp [Bundle.isActive, h, bit]
  | 2 => simp [Bundle.isActive, h, bit]
  | 3 => simp [Bundle.isActive, h, bit]
  | 4 => simp [Bundle.isActive, h, bit]
  | 5 => simp [Bundle.isActive, h, bit]
  | 6 => simp [Bundle.isActive, h, bit]
  | k + 7 => simp [Bundle.isActive]

theorem exMask_of_only {x : Tile} {b : Bundle} (h : b.active = 0b100000#6) (he : x.executes b.s.pred = true) : x.exMask b = 1 := by
  have : List.range 7 = [0,1,2,3,4,5,6] := by decide
  simp [Tile.exMask, this, slots_of_only h, Bundle.predOf, he]

/-- Staged writes are tile updates. -/
theorem State.stageWrites_eq (s : State) (t lat : Nat) (ws : List Write) :
    s.stageWrites t lat ws = if ws = [] then s else s.modTile t fun x => { x with inflight := x.inflight ++ ws.map fun w => ⟨lat, w⟩ } := by
  induction ws generalizing s with
  | nil => rfl
  | cons w ws ih =>
    have : s.stageWrites t lat (w :: ws) = (s.stageWrite t lat w).stageWrites t lat ws := rfl
    rw [this, ih]
    by_cases h : ws = []
    · subst h; simp [State.stageWrite]
    · simp [h, State.stageWrite]
variable {s : State} {t : Nat} {b : Bundle}

theorem Tile.loopStep_zero (x : Tile) (a : Nat) :
    x.loopStep a 0 = ({ x with flags := BitVec.ofNat 32 (setBits x.flags.toNat 7 5 0) }, a + 1) := rfl

/-- The end of the cycle of a bundle that holds one S operation, alone in its tile, that does not branch. -/
theorem alone_done (h : Alone s t b) (hb : isBranch b.s.o = false) (lat : Nat) (ws : List Write) :
    (((s.beginIssue t (s.fetch t) b).stageWrites t lat ws).markDone t 0).tryFinish t =
      (s.setTile t { (s.tile t).past with inflight := ws.map fun w => ⟨lat, w⟩ }).endCycle t := by
  have hm : (s.tile t).exMask b = 1 := exMask_of_only h.only h.executes
  have hx : ∀ k, k ≠ 0 → exec? 1 k = false := by
    intro k hk
    cases k with
    | zero => exact absurd rfl hk
    | succ k =>
      have : 1 < 2 ^ (k + 1) := Nat.one_lt_two_pow (by omega)
      simp [exec?, bit, Nat.div_eq_of_lt this]
  have h0 : (s.beginIssue t (s.fetch t) b) = s.modTile t fun x => { x with
      state := .run, bound := none, paidStall := false, lossX := 0, lossY := 0,
      issuing := some { bundle := s.fetch t, ex := x.exMask b, done := 0, target := none, skip := none, kernelBad := false } } := by
    simp [State.beginIssue, Tile.vies, hm, hx, State.modTile]
  have h1 : (((s.beginIssue t (s.fetch t) b).stageWrites t lat ws).markDone t 0) = s.modTile t fun x => { x with
      state := .run, bound := none, paidStall := false, lossX := 0, lossY := 0, inflight := x.inflight ++ ws.map fun w => ⟨lat, w⟩,
      issuing := some { bundle := s.fetch t, ex := x.exMask b, done := 1, target := none, skip := none, kernelBad := false } } := by
    rw [h0, State.stageWrites_eq]
    split
    · rename_i hw; subst hw; simp [State.markDone]
    · simp [State.markDone]
  rw [h1]
  unfold State.tryFinish
  have hc : ∀ i : Issuing, i.done = 1 → i.complete b = true := by
    intro i hi
    simp only [Issuing.complete, List.all_eq_true, slots_of_only h.only, hi]
    intro k hk
    by_cases k0 : k = 0
    · subst k0; rfl
    · simp [k0]
  simp only [State.tile_modTile_same, h.fetched]
  rw [if_pos (hc _ rfl)]
  have hn := h.noLoop
  have hl : ∀ (y : Tile) (a : Nat), y.flags = (s.tile t).flags →
      y.loopStep a y.ld = ({ y with flags := BitVec.ofNat 32 (setBits y.flags.toNat 7 5 0) }, a + 1) := by
    intro y a hy
    have : y.ld = 0 := by rw [Tile.ld, hy]; exact hn
    rw [this]; rfl
  simp only [State.finishBundle, Bool.false_eq_true, if_false, State.tile_modTile_same, Option.isSome_none]
  rw [hl]
  · simp [h.noBranch, h.still, hb, Tile.past, State.modTile, Tile.pass]
  · rfl

/-- With no loop active, the loop hardware leaves FLAGS alone. -/
theorem Tile.wr_flags (x : Tile) (h : x.ld = 0) : BitVec.ofNat 32 (setBits x.flags.toNat 7 5 0) = x.flags := by
  have : setBits x.flags.toNat 7 5 0 = x.flags.toNat := by
    unfold setBits
    have h' : bits x.flags.toNat 7 5 = 0 := h
    simp [h']
  rw [this]
  simp

/-- Results of latency 1 that are registers of the tile are written at once. -/
theorem endCycle_writes (x : Tile) (ws : List Write) (hx : x.inflight = ws.map fun w => ⟨1, w⟩)
    (hw : ∀ w ∈ ws, (∃ i v, w = .s i v) ∨ (∃ v, w = .zncv v)) :
    (s.setTile t x).endCycle t = s.setTile t (ws.foldl Tile.write { x with inflight := [] }) := by
  have hdue : (x.inflight.filter fun f => true && decide (f.left ≤ 1)).map (·.write) = ws := by
    rw [hx]; clear hx hw
    induction ws with
    | nil => rfl
    | cons w ws ih => simpa using ih
  have hrest : (x.inflight.filter fun f => !true || decide (1 < f.left)) = [] := by
    rw [hx]; simp
  have hres : ∀ (vs : List Write) (y : Tile), (∀ w ∈ vs, (∃ i v, w = .s i v) ∨ (∃ v, w = .zncv v)) →
      forEach vs (fun w s => s.writeResult t w) (s.setTile t y) = s.setTile t (vs.foldl Tile.write y) := by
    intro vs
    induction vs with
    | nil => intro y _; rfl
    | cons v vs ih =>
      intro y hv
      have h1 : (s.setTile t y).writeResult t v = s.setTile t (y.write v) := by
        rcases hv v (by simp) with ⟨i, u, rfl⟩ | ⟨u, rfl⟩ <;> simp [State.writeResult]
      have h2 := ih (y.write v) (fun w hw => hv w (by simp [hw]))
      simpa [forEach, h1] using h2
  have hacc : ∀ (i : Nat) (wide : Bool) (r : State), r.writeAcc t wide i ws = r := by
    intro i wide r
    have hc : (ws.any fun w => decide (w = .accClr wide i)) = false := by
      rw [List.any_eq_false]
      intro w hm
      rcases hw w hm with ⟨j, u, rfl⟩ | ⟨u, rfl⟩ <;> simp
    unfold State.writeAcc
    dsimp only
    rw [if_pos]
    rw [Bool.and_eq_true]
    refine ⟨by simp [hc], ?_⟩
    rw [List.isEmpty_iff, List.filterMap_eq_nil_iff]
    intro w hm
    rcases hw w hm with ⟨j, u, rfl⟩ | ⟨u, rfl⟩ <;> rfl
  unfold State.endCycle State.endCycleOf
  simp only [State.tile_setTile_same, State.setTile_setTile, hdue, hrest, List.map_nil, State.writeDue, hres ws _ hw]
  simp [forEach, hacc]
/-- s registers after a result: s0 keeps reading zero. -/
theorem Tile.sr_write_s (x : Tile) (i : Nat) (v : Word) (j : Nat) :
    (x.write (.s i v)).sr j = if j = i ∧ j ≠ 0 then v else x.sr j := by
  unfold Tile.write Tile.sr
  by_cases hj : j = 0
  · simp [hj]
  · by_cases hi : i = 0
    · subst hi; simp [hj]
    · simp only [hi, hj, if_false]
      by_cases e : j = i
      · subst e; simp [hj]
      · simp [e, Table.getD_set_other _ _ e]


/-- A bit is a field of width one. -/
theorem testBit_bits (x k : Nat) : x.testBit k = (bits x k k == 1) := by
  unfold bits
  rw [show k + 1 - k = 1 by omega, Nat.testBit_eq_decide_div_mod_eq]
  rfl
/-- FLAGS after Z, N, C and V are replaced: above them, and they themselves. -/
theorem zncv_high (f : Word) (v : BitVec 4) (k : Nat) (h4 : 4 ≤ k) (hk : k < 32) :
    (BitVec.ofNat 32 (setBits f.toNat 3 0 v.toNat)).getLsbD k = f.getLsbD k := by
  rw [BitVec.getLsbD_ofNat, testBit_bits, bits_setBits_above _ _ (by omega) (by omega), ← testBit_bits]
  simp [hk, BitVec.getLsbD]
theorem zncv_low (f : Word) (v : BitVec 4) (k : Nat) (hk : k < 4) :
    (BitVec.ofNat 32 (setBits f.toNat 3 0 v.toNat)).getLsbD k = v.getLsbD k := by
  have h := bits_setBits_same f.toNat v.toNat (hi := 3) (lo := 0) (by omega)
  have h2 : setBits f.toNat 3 0 v.toNat % 2 ^ 4 = v.toNat := by
    have := v.isLt
    simp only [bits] at h
    simpa [Nat.mod_eq_of_lt this] using h
  have h3 : v.getLsbD k = (setBits f.toNat 3 0 v.toNat).testBit k := by
    rw [BitVec.getLsbD]
    conv_lhs => rw [← h2]
    rw [Nat.testBit_mod_two_pow]
    simp [hk]
  have h32 : k < 32 := by omega
  rw [h3, BitVec.getLsbD_ofNat]
  simp [h32]
/-- The bytes of a number, one by one. -/
theorem bytesOf_getElem (n x k : Nat) (h : k < (bytesOf n x).length) : (bytesOf n x)[k] = BitVec.ofNat 8 (x / 256 ^ k % 256) := by
  induction n generalizing x k with
  | zero => simp [bytesOf] at h
  | succ n ih =>
    cases k with
    | zero => simp [bytesOf]
    | succ k =>
      simp only [bytesOf, List.getElem_cons_succ]
      rw [ih, Nat.div_div_eq_div_mul, ← Nat.pow_succ']
theorem bytesOf_length (n x : Nat) : (bytesOf n x).length = n := by
  induction n generalizing x with
  | zero => rfl
  | succ n ih => simp [bytesOf, ih]

section
variable {s : State} {t : Nat}
/-- Results that name no accumulator leave every accumulator alone. -/
theorem writeAcc_other (r : State) (t : Nat) (wide : Bool) (i : Nat) (due : List Write)
    (h : ∀ w ∈ due, w ≠ .accClr wide i ∧ ∀ k ls, w ≠ .accAdd wide k ls) : r.writeAcc t wide i due = r := by
  unfold State.writeAcc
  dsimp only
  rw [if_pos]
  rw [Bool.and_eq_true]
  constructor
  · simp only [Bool.not_eq_true', List.any_eq_false, decide_eq_true_eq]
    exact fun w hw => (h w hw).1
  · rw [List.isEmpty_iff, List.filterMap_eq_nil_iff]
    intro w hw
    cases w <;> try rfl
    rename_i wd k ls
    have := (h _ hw).2 k ls
    have hne : wd ≠ wide := fun e => this (by rw [e])
    simp [hne]
theorem writeDue_plain (r : State) (t : Nat) (due : List Write)
    (h : ∀ w ∈ due, ∀ wide i, w ≠ .accClr wide i ∧ ∀ k ls, w ≠ .accAdd wide k ls) :
    r.writeDue t due = forEach due (fun w s => s.writeResult t w) r := by
  have : ∀ (u : State) i wide, u.writeAcc t wide i due = u := fun u i wide => writeAcc_other u t wide i due (fun w hw => h w hw wide i)
  simp [State.writeDue, forEach, this]
/-- A result with cycles left waits for them. -/
theorem endCycle_wait (x : Tile) (l : Nat) (w : Write) (hx : x.inflight = [⟨l+2, w⟩]) :
    (s.setTile t x).endCycle t = s.setTile t { x with inflight := [⟨l+1, w⟩] } := by
  unfold State.endCycle State.endCycleOf
  simp only [State.tile_setTile_same, State.setTile_setTile, hx]
  simp [writeDue_plain, forEach]
/-- Bytes of a tile memory after a write to them, and of all memory beside them. -/
theorem pokeTile_byte_same (r : State) (t off : Nat) (bs : List Byte) (k : Nat) (h : k < bs.length) :
    (r.pokeTile t off bs).byte (tileMemBase t + off + k) = bs[k] := by
  unfold State.pokeTile
  exact State.byte_poke_same _ _ _ h
theorem pokeTile_byte_other (r : State) (t off : Nat) (bs : List Byte) (k : Nat) (h : k < tileMemBase t + off ∨ tileMemBase t + off + bs.length ≤ k) :
    (r.pokeTile t off bs).byte k = r.byte k := by
  unfold State.pokeTile
  dsimp only
  rw [State.byte_poke_other _ _ _ h]
  split <;> rfl
/-- A store that is due writes its bytes. -/
theorem endCycle_store (x : Tile) (off : Nat) (bs : List Byte) (hx : x.inflight = [⟨1, .store off bs⟩]) :
    (s.setTile t x).endCycle t = (s.setTile t { x with inflight := [] }).pokeTile t off bs := by
  unfold State.endCycle State.endCycleOf
  simp only [State.tile_setTile_same, State.setTile_setTile, hx]
  simp [writeDue_plain, forEach, State.writeResult]
end

end Sys2Proof.Machine
end

