-- ==== Sys2Proof/Tests/Slice0.lean ====
section
/-! SUPPORT. The model's own tests: ill-formed commands are refused, and every statement that has hypotheses has states
and operands that meet them. -/
namespace Sys2Proof.Tests
open Sys2Proof Sys2Proof.Machine Sys2Proof.Claims

set_option Elab.async false

/-! ## Well-formedness: one ill-formed command for each check -/

/-- The command is refused as ill-formed. -/
def refused (c : Instr) : Bool := decide (c.wf = false) && (match exec c State.reset with | .refused (.illFormed _) => true | _ => false)

theorem test_wf_rx_frame : refused (.fhRxFrame 0 [0]) = true := by decide +kernel
theorem test_wf_eth_frame : refused (.ethFrameReceive 0 (List.replicate 59 0) true) = true := by decide +kernel
theorem test_wf_flit : refused (.flitReceive 0 (List.replicate 255 0) 0) = true := by decide +kernel
theorem test_wf_arbiter : refused (.holdLimitCut false 64 ⟨0, 0⟩) = true := by decide +kernel
theorem test_wf_pcie_link : refused (.pcieLinkChange true 0 4) = true := by decide +kernel
theorem test_wf_tlp_page : refused (.pcieInbound 0 (.read 0 4000 97) .none) = true := by decide +kernel
theorem test_wf_completion : refused (.pcieOutbound .posted (some (List.replicate 4097 0))) = true := by decide +kernel
theorem test_wf_core : refused (.coreAccess 0 .amoCas 0 3 [0] .none .none) = true := by decide +kernel
theorem test_wf_xsp : refused (.xspDone (List.replicate 257 0)) = true := by decide +kernel
theorem test_wf_sideband : refused (.sbDone 0 (List.replicate 256 0)) = true := by decide +kernel
theorem test_wf_debug : refused (.tileDebugAccess 0 0x1FFFFF true [0, 0]) = true := by decide +kernel

/-! ## Small states -/

/-- Set fields in turn: each row is a field, its value and its two indexes. -/
def put (s : State) (l : List (Fld × Nat × Nat × Nat)) : State := l.foldl (fun s r => s.setFld r.1 r.2.1 r.2.2.1 r.2.2.2) s
/-- Set registers in turn. -/
def putR (s : State) (l : List (Reg × Nat × Nat × Nat)) : State := l.foldl (fun s r => s.setReg r.1 r.2.1 r.2.2.1 r.2.2.2) s
/-- The state after reset with these domains on as well. -/
def on (ds : List Nat) : State := put State.reset (ds.map fun d => (PWR_DOM_STAT.STATE, domRun, d, 0))

/-! ## Bundles -/

/-- Tile 0 of s with a task and the record x, and the bundle w in the first place of its program memory. -/
def running (s : State) (x : Tile) (w : Nat) : State :=
  (s.setTile 0 { x with task := some { job := 0, index := 0 }, state := .run,
                        loaded := some { ptn := 0, handle := 0, digest := [], len := 64 } }).poke
    (tileMemBase 0 + 0x1E0000) (bytesOf 32 w)

/-- A bundle with one operation, in slot S, N or W, M, E, DX or DY. -/
def sWord (o low : Nat) : Nat := 2 ^ 255 + o * 2 ^ 238 + low * 2 ^ 192
def laneWord (wide : Bool) (o : Nat) : Nat := if wide then 2 ^ 253 + o * 2 ^ 142 else 2 ^ 254 + o * 2 ^ 182
def mWord (o low : Nat) : Nat := 2 ^ 252 + o * 2 ^ 102 + low * 2 ^ 80
def eWord (o low : Nat) : Nat := 2 ^ 251 + o * 2 ^ 70 + low * 2 ^ 48
def dWord (y : Bool) (st : Nat) : Nat := 2 ^ 250 + (2 ^ 23 + st * 2 ^ 18) * if y then 2 ^ 24 else 1

/-- The bundle at PC of tile 0. -/
def bundle (s : State) : Bundle := Bundle.decode (s.fetch 0)

/-- It begins to issue. -/
def begins (s : State) : Bool :=
  s.issues 0 && (s.tile 0).issuing.isNone && !(s.tile 0).halting && (s.tile 0).staticFault (bundle s) == none
    && s.verdict 0 (bundle s) == .go

theorem begins_of {s : State} (h : begins s = true) : Begins s 0 (bundle s) := by
  simp only [begins, Bool.and_eq_true, Bool.not_eq_true', beq_iff_eq, Option.isNone_iff_eq_none] at h
  exact ⟨h.1.1.1.1, h.1.1.1.2, h.1.1.2, rfl, h.1.2, h.2⟩

/-- It begins to issue, the turn of slot k is next, and it fits. -/
def turns (s : State) (k : Nat) (fits : Bundle → Bool) : Bool := begins s && slotTurn (bundle s) k 0 && fits (bundle s)

theorem turn_of {s : State} {k : Nat} {fits : Bundle → Bool} (h : turns s k fits = true) :
    Turn s 0 k (bundle s) (s.beginIssue 0 (s.fetch 0) (bundle s)) ∧ fits (bundle s) = true := by
  simp only [turns, Bool.and_eq_true] at h
  exact ⟨.begins (begins_of h.1.1) h.1.2, h.2⟩

/-- A bundle begins to issue whose slot k is next and which fits. -/
def Reached (k : Nat) (fits : Bundle → Prop) : Prop := ∃ s b u, Turn s 0 k b u ∧ fits b

theorem reached_of {s : State} {k : Nat} {fits : Bundle → Bool} (h : turns s k fits = true) : Reached k fun b => fits b = true :=
  ⟨s, _, _, turn_of h⟩

/-- The scalar operations among the witnesses: the opcode, the other bits of the slot, the tile, the state around it. -/
def scalarAt (o : Nat) : State :=
  if o = 0x2C ∨ o = 0x2D then running (on [0]) {} (sWord o (if o = 0x2C then 2 ^ 16 + 1 else 1))
  else if o = 0x32 then running (on [0]) { ipend := 1, imask := 1 } (sWord o 0)
  else if o = 0x33 ∨ o = 0x34 then
    running (put (on [0]) [(PTN_SEM.V, 1, 0, 0), (CLU_SEM.VALUE, 1, 0, 0)]) {} (sWord o (2 ^ 16))
  else if o = 0x35 then (running (on [0]) {} (sWord o 0)).poke (tileMemBase 0 + 0x7C008) [1]
  else running (on [0]) {} (sWord o 0)

theorem inS_reached {l : List Nat} (h : (l.all fun o => turns (scalarAt o) 0 fun b => b.isActive 0 && b.s.o == o) = true) :
    ∀ o ∈ l, Reached 0 (InS o) := by
  intro o ho
  obtain ⟨s, b, u, t, f⟩ := reached_of (List.all_eq_true.mp h o ho)
  exact ⟨s, b, u, t, by simpa [InS] using f⟩

theorem witness_ScalarArithmeticCompletes : ∀ o ∈ [0x01, 0x02, 0x03, 0x04, 0x05, 0x06, 0x07, 0x08, 0x09, 0x0A, 0x0B, 0x0C, 0x0D,
    0x10, 0x11, 0x12, 0x13, 0x14, 0x15, 0x16, 0x17, 0x18], Reached 0 (InS o) := inS_reached (by decide +kernel)

theorem witness_ScalarMovesComplete : ∀ o ∈ [0x19, 0x1A, 0x1B, 0x1C, 0x1D, 0x20, 0x21, 0x22, 0x23], Reached 0 (InS o) :=
  inS_reached (by decide +kernel)

theorem witness_ScalarControlCompletes :
    (∀ o ∈ [0x28, 0x29, 0x2A, 0x2B, 0x2C, 0x2D, 0x2E, 0x2F, 0x30], Reached 0 (InS o)) ∧
    ∃ (s : State) (b : Bundle), s.issues 0 = true ∧ (s.tile 0).issuing = none ∧ (s.tile 0).halting = false ∧ Bundle.decode (s.fetch 0) = b ∧
      (s.tile 0).staticFault b = none ∧ InS 0x31 b ∧ s.verdict 0 b = .fault tfTrap 0 [w32 (b.s.ib 15 0)] :=
  ⟨inS_reached (by decide +kernel), scalarAt 0x31, bundle (scalarAt 0x31), by decide +kernel, by decide +kernel,
    by decide +kernel, rfl, by decide +kernel, by unfold InS; decide +kernel, by decide +kernel⟩

theorem witness_ScalarWaitsComplete :
    (∀ o ∈ [0x32, 0x33, 0x34, 0x35, 0x36, 0x37, 0x38, 0x39], Reached 0 (InS o)) ∧
    (Reached 0 fun b => (b.isActive 0 && b.opOf 0 == 0) = true) ∧ (Reached 1 fun b => (b.isActive 1 && b.opOf 1 == 0) = true) ∧
    (Reached 2 fun b => (b.isActive 2 && b.opOf 2 == 0) = true) ∧ (Reached 3 fun b => (b.isActive 3 && b.opOf 3 == 0) = true) ∧
    (Reached 4 fun b => (b.isActive 4 && b.opOf 4 == 0) = true) ∧
    ∀ k < 7, Reached k fun b => ((List.range 7).all fun k => !b.isActive k) = true :=
  ⟨inS_reached (by decide +kernel), reached_of (s := running (on [0]) {} (sWord 0 0)) (by decide +kernel),
    reached_of (s := running (on [0]) {} (laneWord false 0)) (by decide +kernel),
    reached_of (s := running (on [0]) {} (laneWord true 0)) (by decide +kernel),
    reached_of (s := running (on [0]) {} (mWord 0 0)) (by decide +kernel),
    reached_of (s := running (on [0]) {} (eWord 0 0)) (by decide +kernel), fun k hk =>
    reached_of (s := running (on [0]) {} 0) (by revert k; decide +kernel)⟩

theorem inLane_reached {wide : Bool} {l : List Nat}
    (h : (l.all fun o => turns (running (on [0]) {} (laneWord wide o)) (if wide then 2 else 1)
      fun b => b.isActive (if wide then 2 else 1) && (if wide then b.w else b.n).o == o) = true) :
    ∀ o ∈ l, Reached (if wide then 2 else 1) (InLane wide o) := by
  intro o ho
  obtain ⟨s, b, u, t, f⟩ := reached_of (List.all_eq_true.mp h o ho)
  exact ⟨s, b, u, t, by simpa [InLane] using f⟩

theorem witness_LaneOperationsComplete :
    (∀ o ∈ [0x01, 0x02, 0x03, 0x04, 0x05, 0x06, 0x07, 0x08, 0x09, 0x0A, 0x0B, 0x0C, 0x0D, 0x0E, 0x0F, 0x10, 0x11, 0x12, 0x13,
      0x14, 0x15, 0x16, 0x17, 0x18], Reached 1 (InLane false o)) ∧
    (∀ o ∈ [0x01, 0x02, 0x03, 0x04, 0x05, 0x06, 0x07, 0x08, 0x09, 0x0A, 0x0B, 0x0C, 0x0D, 0x0E, 0x0F, 0x10, 0x11, 0x12, 0x13,
      0x14, 0x15, 0x16, 0x17, 0x18], Reached 2 (InLane true o)) :=
  ⟨inLane_reached (wide := false) (by decide +kernel), inLane_reached (wide := true) (by decide +kernel)⟩

theorem witness_GeneratorsComplete : ∀ y : Bool, ∀ st < 2, Reached (if y then 6 else 5) (InD y st) := by
  intro y st hs
  have h : turns (running (on [0]) {} (dWord y st)) (if y then 6 else 5)
      (fun b => b.isActive (if y then 6 else 5) && (if y then b.dy else b.dx).st.toNat == st) = true := by
    revert st y; decide +kernel
  obtain ⟨s, b, u, t, f⟩ := reached_of h
  exact ⟨s, b, u, t, by simpa [InD] using f⟩

/-- An E operation: EKRUN finds its run descriptor in s1 to s4. -/
def elementAt (o : Nat) : State :=
  running (on [0]) (if o = 1 then { s := (Table.empty).put 1 64 } else {}) (eWord o (if o = 1 then 2 ^ 12 else 0))

theorem witness_ElementOperationsComplete : ∀ o ∈ [0x01, 0x02, 0x03, 0x04, 0x05, 0x06, 0x07, 0x08, 0x09, 0x0A, 0x0B, 0x0C, 0x0D,
    0x0E, 0x0F, 0x10, 0x11, 0x12, 0x13, 0x14, 0x15], Reached 4 (InE o) := by
  intro o ho
  have h : turns (elementAt o) 4 (fun b => b.isActive 4 && b.e.o == o) = true := by revert o; decide +kernel
  obtain ⟨s, b, u, t, f⟩ := reached_of h
  exact ⟨s, b, u, t, by simpa [InE] using f⟩

/-- An M operation: MMUL finds a weight block active and a row count in s1. -/
def matrixAt (o : Nat) : State :=
  running (on [0]) { s := (Table.empty).put 1 1, issuedW := 1, weights := (Table.empty).put 0 { active := some { base := 0, bytes := [] } } }
    (mWord o (if o = 3 then 2 ^ 10 else 0))

theorem witness_MatrixOperationsComplete : ∀ o ∈ [0x01, 0x02, 0x03, 0x04, 0x05], Reached 3 (InM o) := by
  intro o ho
  have h : turns (matrixAt o) 3 (fun b => b.isActive 3 && b.m.o == o) = true := by revert o; decide +kernel
  obtain ⟨s, b, u, t, f⟩ := reached_of h
  exact ⟨s, b, u, t, by simpa [InM] using f⟩

/-- A bundle in slot N that is issuing already. -/
def halfway : Issuing :=
  { bundle := BitVec.ofNat 256 (laneWord false 1), ex := 2, done := 0, target := none, skip := none, kernelBad := false }

theorem witness_Performs_goesOn : ∃ (s : State) (b : Bundle), Turn s 0 1 b s ∧ InLane false 0x01 b :=
  ⟨running (on [0]) { issuing := some halfway } 0, Bundle.decode halfway.bundle,
    .goesOn halfway (by decide +kernel) (by decide +kernel) rfl (by decide +kernel), by unfold InLane; decide +kernel⟩

/-- The bundle of `scalarAt o` is alone in its tile. -/
def alone (s : State) : Bool :=
  begins s && (bundle s).active == 0b100000#6 && (s.tile 0).executes (bundle s).s.pred && (s.tile 0).inflight.isEmpty
    && (s.tile 0).ld == 0 && (s.tile 0).branch.isNone

theorem alone_of {s : State} (h : alone s = true) : Alone s 0 (bundle s) := by
  simp only [alone, Bool.and_eq_true, beq_iff_eq, Option.isNone_iff_eq_none, List.isEmpty_iff] at h
  obtain ⟨⟨⟨⟨⟨h, a⟩, b⟩, c⟩, d⟩, e⟩ := h
  exact { begins_of h with only := a, executes := b, still := c, noLoop := d, noBranch := e }

theorem witness_ScalarArithmeticResults : ∀ o ∈ [0x01, 0x02, 0x03, 0x04, 0x05, 0x06, 0x07, 0x08, 0x10, 0x11, 0x12, 0x13, 0x14,
    0x15, 0x16], ∃ s b, Alone s 0 b ∧ b.s.o = o := by
  intro o ho
  have h : (alone (scalarAt o) && (bundle (scalarAt o)).s.o == o) = true := by revert o; decide +kernel
  simp only [Bool.and_eq_true, beq_iff_eq] at h
  exact ⟨_, _, alone_of h.1, h.2⟩

theorem witness_ScalarStoreLands : ∀ y : Bool, ∃ s b, Alone s 0 b ∧ b.s.o = (if y then 0x23 else 0x22) := by
  intro y
  have h : (alone (scalarAt (if y then 0x23 else 0x22)) &&
      (bundle (scalarAt (if y then 0x23 else 0x22))).s.o == (if y then 0x23 else 0x22)) = true := by
    revert y; decide +kernel
  simp only [Bool.and_eq_true, beq_iff_eq] at h
  exact ⟨_, _, alone_of h.1, h.2⟩

/-- An S operation under predicate p1, which is false. -/
theorem witness_FalsePredicateHasNoEffect : ∀ o ∈ [0x01, 0x22, 0x28, 0x34, 0x35, 0x30],
    ∃ s b u, Turn s 0 0 b u ∧ slotExecutes u 0 0 = false ∧ InS o b := by
  intro o ho
  let s := running (on [0]) {} (sWord o (2 ^ 52 + if o = 0x34 then 2 ^ 16 else 0))
  have h : turns s 0 (fun b => b.isActive 0 && b.s.o == o) = true := by revert o; decide +kernel
  have e : slotExecutes (s.beginIssue 0 (s.fetch 0) (bundle s)) 0 0 = false := by revert o; decide +kernel
  obtain ⟨t, f⟩ := turn_of h
  exact ⟨s, _, _, t, e, by simpa [InS] using f⟩

/-! ### A save: 221,184 bytes, written to memory of another device -/

/-- A packet that waits for the way to device 1. -/
def waits1 : Packet :=
  { dst := 1, srcPtn := 0, src := 0, kind := pkWr, vc := 0, hops := 1, path := 0, op := 0, len := 0, tag := 0, addr := 0, data := [] }

/-- Partition 0 maps the first gigabyte of its virtual addresses to device 1; this device knows its own number and the way over
link 0, where a packet waits already. -/
def far : State :=
  ({ putR (on [0, 68, 75]) [(PTN_PCH, 1, 0, 0), (YAL_RTE_A, 2 ^ 31 + 2 ^ 27, 1, 0)] with
      mmu := { roots := ⟨[(0, hbmBase + 0x1000)]⟩ }, yal := { held := [waits1] } } : State)
    |> (put · [(HBM_STAT.TRAINED, 1, 0, 0), (SYS_CHIPID.ID_SET, 1, 0, 0), (YAL_CTL.EN, 1, 0, 0), (YAL_LINK_STAT.STATE, linkUp, 0, 0)])
    |>.poke (hbmBase + 0x1000) (bytesOf 8 (hbmBase + 0x2001)) |>.poke (hbmBase + 0x2000) (bytesOf 8 (2 ^ 40 + hbmBase + 0x2F))

/-- Memory, registers, roots and errors as in `far`, packets waiting for the way to device 1, and only such translations cached. -/
structure Far (s : State) : Prop where
  mem : s.mem = far.mem
  regs : s.regs = far.regs
  roots : s.mmu.roots = far.mmu.roots
  tlb : ∀ k c, s.mmu.tlb.find? k = some c → c.w = true ∧ 2 ^ 40 ≤ c.base ∧ c.base < 2 ^ 41 - 4096
  flaws : s.mmu.flaws = far.mmu.flaws
  met : s.mmu.met = far.mmu.met
  waits : (s.yal.held.any fun h => h.dst == 1) = true

theorem far_sound {s : State} (h : Far s) (a n : Nat) : s.flawsIn a n = [] := by
  rw [State.flawsIn, h.flaws]; rfl

theorem far_walked {s : State} (h : Far s) (p va : Nat) : s.walked p va = s := by
  have k : ∀ xs : List Nat, forEach xs (fun a s => s.meetFlaws a 8) s = s := fun xs => by
    unfold forEach
    induction xs with
    | nil => rfl
    | cons a xs ih =>
      have e : s.meetFlaws a 8 = s := by unfold State.meetFlaws; rw [far_sound h]; rfl
      rw [List.foldl_cons]; dsimp only; rw [e]; exact ih
  exact k _

theorem far_walk {s : State} (h : Far s) (va : Nat) : ∀ (ls : List Nat) (tbl : Nat), s.walk 0 va tbl ls = far.walk 0 va tbl ls := by
  have fl : ∀ F i j, s.fld F i j = far.fld F i j := fun F i j => by
    simp only [State.fld, State.reg, State.regAt, h.regs]
  have rg : ∀ R i j, s.reg R i j = far.reg R i j := fun R i j => by simp only [State.reg, State.regAt, h.regs]
  have up : ∀ a, s.hbmUp a = far.hbmUp a := fun a => by simp only [State.hbmUp, State.domOn, State.flag, fl]
  have rt : ∀ q, s.pchRetired q = far.pchRetired q := fun q => by simp only [State.pchRetired, fl, h.met]
  have rd : ∀ n a, s.read a n = far.read a n := fun n => by
    induction n with
    | zero => intro a; rfl
    | succ n ih => intro a; simp only [State.read, State.byte, h.mem, ih]
  have ck : ∀ e l, s.checkLeaf 0 e l va = far.checkLeaf 0 e l va := fun e l => by
    simp only [State.checkLeaf, State.chipId, State.channelsOk, State.ownsPch, fl, rg, rt]; rfl
  have rn : ∀ a n, s.readNum a n = far.readNum a n := fun a n => by rw [State.readNum, State.readNum, rd]
  have ci : s.chipId = far.chipId := fl _ _ _
  have rf : ∀ a n, s.readFails a n = false := fun a n => by rw [State.readFails, far_sound h]; rfl
  have rg' : ∀ a n, far.readFails a n = false := fun a n => rfl
  intro ls
  induction ls with
  | nil => intro tbl; rfl
  | cons l ls ih => intro tbl; rw [State.walk, State.walk]; simp only [up, rt, rn, ck, ih, ci, rf, rg']

theorem far_root {s : State} (h : Far s) {va : Nat} (hv : va < 2 ^ 30) :
    s.walkRoot 0 va = .ok (leafOf (2 ^ 40 + hbmBase + 0x2F) 2 va) := by
  have hr : s.rootOf 0 = hbmBase + 0x1000 := by rw [State.rootOf, h.roots]; decide +kernel
  have i3 : va / 2 ^ (12 + 9 * 3) % 512 = 0 := by rw [Nat.div_eq_of_lt (by omega)]
  have i2 : va / 2 ^ (12 + 9 * 2) % 512 = 0 := by rw [Nat.div_eq_of_lt (by omega)]
  rw [State.walkRoot, far_walk h, hr, State.walk, i3, if_neg (by decide +kernel)]
  simp only []
  rw [if_neg (by decide +kernel), if_neg (by decide +kernel), if_neg (by decide +kernel), if_neg (by decide +kernel),
    if_neg (by decide +kernel), State.walk, i2, if_neg (by decide +kernel)]
  simp only []
  rw [if_neg (by decide +kernel), if_neg (by decide +kernel), if_pos (by decide +kernel), State.checkLeaf]
  rw [if_neg (by decide +kernel), if_neg (by decide +kernel), if_neg (by decide +kernel)]
  have e : far.readNum (localOf (bits (far.readNum (hbmBase + 4096 + 8 * 0) 8) 51 12 * 4096) + 8 * 0) 8 = 2 ^ 40 + hbmBase + 0x2F := by
    decide +kernel
  rw [e]

theorem far_lookup {s : State} (h : Far s) {va : Nat} (hv : va < 2 ^ 30) :
    ∃ c, (s.lookup 0 va).1 = .ok c ∧ c.w = true ∧ (2 ^ 40 ≤ c.base ∧ c.base < 2 ^ 41 - 4096) ∧ Far (s.lookup 0 va).2 := by
  have hw := far_root h hv
  have lw : (leafOf (2 ^ 40 + hbmBase + 0x2F) 2 va).w = true := by simp only [leafOf]; decide +kernel
  have lb : 2 ^ 40 ≤ (leafOf (2 ^ 40 + hbmBase + 0x2F) 2 va).base ∧
      (leafOf (2 ^ 40 + hbmBase + 0x2F) 2 va).base < 2 ^ 41 - 4096 := by
    have e : bits (2 ^ 40 + hbmBase + 0x2F) 51 12 * 4096 / 2 ^ (12 + 9 * 2) * 2 ^ (12 + 9 * 2) = 2 ^ 40 + hbmBase := by decide +kernel
    have b : hbmBase < 2 ^ 39 := by decide +kernel
    simp only [leafOf, e]; omega
  have kept : ∀ (t : State), Far t → Far { t with mmu := { t.mmu with tlb := t.mmu.tlb.put (tlbKey 0 va) (leafOf (2 ^ 40 + hbmBase + 0x2F) 2 va) } } := by
    intro t ht
    refine ⟨ht.mem, ht.regs, ht.roots, fun k c hc => ?_, ht.flaws, ht.met, ht.waits⟩
    by_cases hk : k = tlbKey 0 va
    · subst hk; rw [Table.find?_put_same] at hc; cases hc; exact ⟨lw, lb⟩
    · rw [Table.find?_put_other _ hk] at hc; exact ht.tlb k c hc
  have drawn : Far s.draw.2 := ⟨h.mem, h.regs, h.roots, h.tlb, h.flaws, h.met, h.waits⟩
  rw [State.lookup, hw]
  simp only []
  split
  · rename_i heq; cases heq; exact ⟨_, rfl, lw, lb, by rw [far_walked h]; exact kept s h⟩
  · rename_i heq; cases heq
  · rename_i c l hc heq
    cases heq
    have hl := h.tlb _ _ hc
    split
    · exact ⟨_, rfl, lw, lb, h⟩
    · split
      · exact ⟨_, rfl, hl.1, hl.2, drawn⟩
      · exact ⟨_, rfl, lw, lb, kept _ drawn⟩
  · rename_i heq; cases heq

theorem far_putPage {s : State} (h : Far s) {va : Nat} (hv : va < 2 ^ 30) (bs : List Byte) :
    (s.putPage 0 va bs).1 = .ok () ∧ Far (s.putPage 0 va bs).2 := by
  obtain ⟨c, h1, h2, h3, h4⟩ := far_lookup h hv
  have e : s.translate 0 va true = (.ok (c.base + va % 4096, c.cache), (s.lookup 0 va).2) := by
    rw [State.translate]
    generalize hx : s.lookup 0 va = x at *
    obtain ⟨a, u⟩ := x
    cases h1
    simp [h2]
  have fl : ∀ F i j, (s.lookup 0 va).2.fld F i j = far.fld F i j := fun F i j => by
    simp only [State.fld, State.reg, State.regAt, h4.regs]
  have rg : ∀ R i j, (s.lookup 0 va).2.reg R i j = far.reg R i j := fun R i j => by simp only [State.reg, State.regAt, h4.regs]
  have hd : (c.base + va % 4096) / 2 ^ 40 = 1 := by omega
  have hc : chipOf (c.base + va % 4096) ≠ (s.lookup 0 va).2.chipId := by
    rw [show (s.lookup 0 va).2.chipId = far.chipId from fl _ _ _, chipOf, hd]; decide +kernel
  have ho : ∀ p : Packet, p.dst = 1 → pkIsRequest p.kind = true → ∃ q, (s.lookup 0 va).2.originate p =
      .ok { (s.lookup 0 va).2 with yal := { (s.lookup 0 va).2.yal with held := (s.lookup 0 va).2.yal.held ++ [q] } } := by
    intro p hp hk
    have h1 : ¬(pkIsRequest p.kind = true ∧ (s.lookup 0 va).2.fld SYS_CHIPID.ID_SET = 0) := fun x => by
      rw [fl] at x; exact absurd x.2 (by decide +kernel)
    rw [State.originate, if_neg, if_neg h1, hp]
    · rw [show (s.lookup 0 va).2.route 1 = .ok (2 ^ 31 + 2 ^ 27) from by
        simp only [State.route, State.pathValid, State.linkUsable, State.linkState, State.chipId, fl, rg]; decide +kernel]
      exact ⟨_, if_pos (Or.inr h4.waits)⟩
    · simp only [State.domOn, State.linksWork, State.flag, fl, hk]; decide +kernel
  have hn : (s.lookup 0 va).2.progRefused (c.base + va % 4096) = none := by
    unfold State.progRefused
    split
    · rw [if_neg fun x => hc x.1]
    · rfl
  rw [State.putPage, e]
  simp only [hn]
  rw [State.devWrite, if_pos hc, State.sendFar, State.sendRequest]
  obtain ⟨q, hq⟩ := ho
    { dst := (c.base + va % 4096) / 2 ^ 40, srcPtn := 0, src := (s.lookup 0 va).2.chipId, kind := pkWr,
      vc := accessVc true ((c.base + va % 4096) % 2 ^ 40) bs.length, hops := 0, path := 0, op := 0, len := bs.length - 1,
      tag := (s.lookup 0 va).2.yal.nextTag, addr := (c.base + va % 4096) % 2 ^ 40, data := bs } hd rfl
  simp only [Option.isSome_some, if_true, Option.getD_some] at *
  rw [hq]
  exact ⟨rfl, h4.mem, h4.regs, h4.roots, h4.tlb, h4.flaws, h4.met, by
    simp only [State.noteRequest, List.any_append, h4.waits, Bool.true_or]⟩

theorem far_loop : ∀ (k : Nat) (s : State) (va : Nat) (bs : List Byte), Far s → va + bs.length ≤ 2 ^ 30 →
    (s.putLoop 0 va bs k).1 = .ok () ∧ Far (s.putLoop 0 va bs k).2
  | 0, _, _, _, h, _ => ⟨rfl, h⟩
  | k + 1, s, va, bs, h, hv => by
    rw [State.putLoop]
    split
    · exact ⟨rfl, h⟩
    · rename_i hb
      have hl : 0 < bs.length := by
        cases bs with
        | nil => simp at hb
        | cons => simp
      obtain ⟨h1, h2⟩ := far_putPage h (va := va) (by omega) (bs.take (4096 - va % 4096))
      dsimp only
      generalize s.putPage 0 va (bs.take (4096 - va % 4096)) = x at h1 h2 ⊢
      obtain ⟨a, u⟩ := x
      cases h1
      by_cases hm : 4096 - va % 4096 ≤ bs.length
      · exact far_loop k u _ _ h2 (by simp only [List.length_drop]; omega)
      · rw [List.drop_of_length_le (by omega)]
        cases k with
        | zero => exact ⟨rfl, h2⟩
        | succ k => exact ⟨rfl, h2⟩

theorem far_put {s : State} (h : Far s) {va : Nat} {bs : List Byte} (hv : va + bs.length ≤ 2 ^ 30) :
    (s.put 0 va bs).1 = .ok () ∧ Far (s.put 0 va bs).2 := far_loop _ s va bs h hv

theorem each_length {n m : Nat} {f : Nat → List Byte} (h : ∀ i, (f i).length = m) : (each n f).length = n * m := by
  rw [each]
  induction n with
  | zero => simp
  | succ n ih => rw [List.range_succ, List.flatMap_append, List.length_append, ih]; simp [h]; ring

theorem fitBytes_length (n : Nat) (bs : List Byte) : (fitBytes n bs).length = n := by simp [fitBytes]

theorem read_length (s : State) (a n : Nat) : (s.read a n).length = n := by
  induction n generalizing a with
  | zero => rfl
  | succ n ih => rw [State.read, List.length_cons, ih]

theorem draw_regs (s : State) : s.draw.2.regs = s.regs := rfl

theorem far_body {s : State} (h : Far s) (t : Nat) (x : Tile) : (s.cairnBody 0 t x).1.length ≤ 2 ^ 20 := by
  have fl : ∀ F i j, s.draw.2.draw.2.draw.2.draw.2.fld F i j = far.fld F i j := fun F i j => by
    simp only [State.fld, State.reg, State.regAt, draw_regs, h.regs]
  have hx : far.fld PTN_TMEM0.XCNT 0 = 0 := by decide +kernel
  have hy : far.fld PTN_TMEM0.YCNT 0 = 0 := by decide +kernel
  have hf : far.fld PTN_TMEM1.FCNT 0 = 0 := by decide +kernel
  simp only [State.cairnBody, List.length_append, fitBytes_length, Tile.scalarBytes, Tile.accBytes, Tile.weightBytes, State.laneBytes, State.savedRanges,
    each_length (m := 4) (fun i => bytesOf_length _ _), each_length (m := 2) (fun i => bytesOf_length _ _),
    each_length (m := 12) (fun i => bytesOf_length _ _), each_length (m := 256) (fun i => bytesOf_length _ _), bytesOf_length,
    List.flatMap_cons, List.flatMap_nil, List.length_nil, read_length, fl, hx, hy, hf]
  norm_num

/-! ## The other statements -/

/-- A running job; a state that holds one job, under handle 5. -/
def job0 : Job := { ptn := 0, ring := 0, seq := 1, desc := [], submit := 0, deadline := none, phase := .running }
def jobs (s : State) (x : Job) : State := { s with job := { s.job with jobs := ⟨[(5, x)]⟩ } }
/-- Set what JOB keeps of partition 0; a tile; the time unit. -/
def ptn (s : State) (y : JobPtn) : State := s.setJobPtn 0 y
def task0 : Task := { job := 5, index := 0 }
def atu (a : Atu) : State := { State.reset with atu := a }
/-- A long time later. -/
def late (s : State) : State := { s with atu := { s.atu with ticks := 2 ^ 40 } }

def trigger0 : Trigger :=
  { w0 := 0x40000000, w1 := 0, w2 := 0, w3 := 0, owner := 0, armed := true, target := 0, frame := 0, slot := 0, sym := 0,
    lateDue := false, fresh := false, jumpTo := 0, jumped := false, stopAfter := false, late := false, stepped := false, missed := 0 }

/-- The value of a successful access. -/
def okOf {ε α : Type} (d : α) : Except ε α → α
  | .ok x => x
  | .error _ => d
def isOk {ε α : Type} : Except ε α → Bool
  | .ok _ => true
  | .error _ => false

theorem ok_eq {ε α : Type} {x : Except ε α × State} (d : α) (h : isOk x.1 = true) : x = (.ok (okOf d x.1), x.2) := by
  obtain ⟨e | a, s⟩ := x
  · simp [isOk] at h
  · rfl

/-- Partition 0 maps the first gigabyte of its virtual addresses to the first of HBM: the root table and the next one. -/
def mapped : State :=
  ({ putR (on [0, 68]) [(PTN_PCH, 1, 0, 0)] with mmu := { roots := ⟨[(0, hbmBase + 0x1000)]⟩ } }.setFld HBM_STAT.TRAINED 1).poke
    (hbmBase + 0x1000) (bytesOf 8 (hbmBase + 0x2001)) |>.poke (hbmBase + 0x2000) (bytesOf 8 (hbmBase + 0xF))
/-- With an object table at VA 0 whose first entry is e. -/
def objects (y : JobPtn) (e : List Byte) : State := ptn (mapped.poke hbmBase e) y

def jobW : Job := { job0 with phase := .waiting, eligibleAt := some 0, desc := bytesOf 4 9 }
def jobL : Job := { job0 with phase := .waiting, eligibleAt := some 0, desc := bytesOf 4 0x200009 }
def jobE : Job := { job0 with phase := .draining, endTs := some 0 }
def belay0 (op : Nat) : BelayCmd := { op := op, chip := 0, ptn := 0, argA := 0, argB := 0, seq := 0, origin := none, arrived := 0 }
def belaying (op : Nat) : State := ptn State.reset { belay := [belay0 op] }
/-- Tile 0, on, with the record x. -/
def tile (x : Tile) : State := (on [0]).setTile 0 x
def mop (op : Nat) : MOp := { op := op, fmt := 0, split := 0 }
def stalled : State := running (on [0]) { inflight := [{ left := 2, write := .s 1 0 }] } (sWord 0x30 0)
def entry0 : QEntry := { task := task0, slot := none, head := false }

theorem some_eq {α : Type} {o : Option α} (h : o.isSome = true) : o = some (o.get h) := by simp

/-- Partition 0 with tiles 0, 1 and 16, stealing allowed, and a task waiting on tile v, which runs another. -/
def waitingOn (v : Nat) (e : QEntry) : State :=
  jobs ((putR (put (on [0, 1, 64, 65]) [(PTN_CFG.EN, 1, 0, 0), (CLU_CTL.STEAL_EN, 1, 0, 0), (CLU_CTL.XSTEAL_EN, 1, 0, 0),
      (CLU_CTL.XSTEAL_EN, 1, 1, 0), (CLU_STEAL_WM.WM, 0, 1, 0)]) [(PTN_TILE_LO, 0x10003, 0, 0)]).setTile v { task := some task0, state := .run, queue := [e] }) job0
def task1 : Task := { task0 with migratable := true }
def entry1 : QEntry := { entry0 with task := task1 }
/-- Tile 0 of partition 0 runs the task of job 5. -/
def busy (x : Tile) : State := jobs (put (tile x) [(PTN_CFG.DEPTH, 1, 0, 0), (PTN_CFG.EN, 1, 0, 0)]) job0
def saving : Tile := { task := some task0, state := .save, slot := some 0 }
def savingTo : State := jobs (far.setTile 0 saving) job0
/-- The same in a state in which partition 0 has memory. -/
def busyMapped (x : Tile) : State := jobs (mapped.setTile 0 x) job0
def slice0 : Slice := { waiter := 0, waitJob := 5, clu := 0, sem := 0, htile := 1, hjob := 5, hindex := 1, depth := 1, began := 0 }
def loaded0 : Loaded := { ptn := 0, handle := 0, digest := [], len := 0 }
def jobA : Job := { jobW with desc := bytesOf 4 0x10000 }
def jobD : Job := { jobE with desc := bytesOf 4 0x10000 }
def dgt (d : DgtJob) (x : Job) : State := { jobs State.reset x with dgt := { jobs := ⟨[(5, d)]⟩ } }
def held0 : HeldPkt := { src := 0, srcPtn := 0, data := [] }
def krun0 : KRun := { kernel := 0, desc := [64], ops := [], outTo := none, pc := 0 }

theorem done_eq {x : Except VFault Unit × State} (h : x.1 = .ok ()) : x = (.ok (), x.2) := by rw [← h]

theorem far_savingTo : Far savingTo := ⟨rfl, rfl, rfl, fun _ _ h => (nomatch h), rfl, rfl, rfl⟩

theorem witness_save : ∃ u v, (savingTo.cairnBody 0 0 saving).2.put 0 (savingTo.slotAt 0 0 0 + 256)
      (savingTo.cairnBody 0 0 saving).1 = (.ok (), u) ∧
    u.put 0 (savingTo.slotAt 0 0 0) ((savingTo.cairnBody 0 0 saving).2.cairnHeader 0 saving task0 job0 1 (savingTo.slotSize 0)
      (crc32c (savingTo.cairnBody 0 0 saving).1)) = (.ok (), v) := by
  have ha : savingTo.slotAt 0 0 0 = 0 := by decide +kernel
  have hb : Far (savingTo.cairnBody 0 0 saving).2 := ⟨rfl, rfl, rfl, fun _ _ h => (nomatch h), rfl, rfl, rfl⟩
  have hl := far_body far_savingTo 0 saving
  obtain ⟨h1, h2⟩ := far_put hb (va := savingTo.slotAt 0 0 0 + 256) (bs := (savingTo.cairnBody 0 0 saving).1)
    (by rw [ha]; omega)
  have h3 := (far_put h2 (va := savingTo.slotAt 0 0 0) (bs := (savingTo.cairnBody 0 0 saving).2.cairnHeader 0 saving task0 job0 1
    (savingTo.slotSize 0) (crc32c (savingTo.cairnBody 0 0 saving).1)) (by rw [ha, State.cairnHeader, fitBytes_length]; norm_num)).1
  exact ⟨_, _, done_eq h1, done_eq h3⟩

def inst1 : Inst := { record := bytesOf 64 (2 ^ 64), state := .active, order := 0 }
def block2 : Block :=
  { addr := 0, near := 0, kind := 0, irq := false, atop := 0, sem := 0, trav := none, esize := 1, counts := [16], farStr := [1], nearStr := [1] }
def inst2 : Inst := { inst1 with ins := ⟨[(0, block2)]⟩ }
def req0 : SReq := { id := 7, desc := 3, order := 0, blk := 0, pos := 0, va := 0, ga := hbmBase, cache := 0, len := 16, write := false, data := [] }
def fence0 : Fence := { upTo := 0, signal := none, implicit := false }
def crc0 : CrcBlk := { desc := 3, blk := 0, last := true, block := block2, nearBase := 0, skew := false }

theorem access_eq {x : State × Except Nat (List Byte)} (h : isOk x.2 = true) : x = (x.1, .ok (okOf [] x.2)) := by
  obtain ⟨s, e | a⟩ := x
  · simp [isOk] at h
  · rfl

def form2 : Form := inst2.formIn.get (by decide +kernel)

/-- A running job of class k with the parameter bytes n, and one not yet dispatched. -/
def jobOf (k n : Nat) : Job := { job0 with desc := bytesOf 36 k, params := bytesOf 96 n }
def jobNew (k n : Nat) : Job := { jobOf k n with phase := .waiting, eligibleAt := some 0 }
def coding (s : State) (x : Job) (c : Coding) : State := { jobs s x with coding := c }
def block0 : CodeBlk := { job := 5, r := 0 }
def block1 : CodeBlk := { block0 with input := some ([], []) }
def gather (x : Job) (u : GUnit) : State := { jobs (on [64]) x with gather := { units := ⟨[(5, u)]⟩ } }

/-- An eCPRI frame with one U-plane message without sections. -/
def frame0 : List Byte := List.replicate 12 0 ++ [0xAE, 0xFE, 0x10, 0, 0, 8, 0, 0, 0, 0x80, 0x10, 0, 0, 0] ++ List.replicate 34 0
def rxState (s : State) (x : RxCell) : State :=
  { put s [(FHE_RX_CTL.EN, 1, 0, 0), (FHE_CRX_CFG.EN, 1, 0, 0), (ATU_CELL_CFG.EN, 1, 0, 0), (FHE_CRX_CFG.S, 1, 0, 0),
      (FHE_EAXC_A.VALID, 1, 0, 0)] with
    fhe := { rx := ⟨[(0, x)]⟩ }, atu := { sec := 400000000 } }
def txState (x : TxBuf) : State :=
  { put (on [74]) [(FHE_TX_CTL.EN, 1, 0, 0), (FHE_CTX_CFG.EN, 1, 0, 0), (ATU_CELL_CFG.EN, 1, 0, 0)] with
    fhe := { tx := ⟨[(0, { tmpl := [], bufs := ⟨[(0, x)]⟩ })]⟩ }, atu := { sec := 400000000 } }
def jobAir (a : AirJob) : Job := { job0 with air := a }
def unit0 : AirUnit := { u := 0, first := 0, n := 1, sem := 0 }
def occ0 : Occasion := { slot := -100, td := 0 }
def pra0 : PraCfg := { srch := none, load := 0, next := some occ0 }
def praState : State := { mapped.setFld PRA_CTL.EN 1 with pra := ⟨[(0, pra0)]⟩, atu := { sec := 400000000 } }
def asker : Requester := { kind := 0, unit := 0, handle := 0, job := 5, tag := 0 }
def fault0 : FaultRec :=
  { ptn := 0, va := 0, cause := 1, level := 3, write := false, wait := true, by' := asker, ts := 0, seq := none, merged := 0, waiters := [] }
def faulting (r : FaultRec) : State :=
  { put mapped [(MMU_FR_CFG.EN, 1, 0, 0), (MMU_FR_HI.ADDR, 0x10, 0, 0)] with mmu := { faults := [r] } }

/-! ### Packets -/

/-- A packet of a kind for address a, from device 1, with the data bs. -/
def packet (kind a len : Nat) (bs : List Byte) : Packet :=
  { dst := 0, srcPtn := 0, src := 1, kind := kind, vc := 2, hops := 0, path := 0, op := 0, len := len, tag := 3, addr := a, data := bs }
/-- It has arrived on link 0 of s, which works; the clusters' memory is exported, and so is partition 0's pooling; device 1
is one hop away; a request with tag 3 waits for an answer of device 1. -/
def here (s : State) (p : Packet) : State :=
  { (put s [(PWR_DOM_STAT.STATE, domRun, 64, 0), (PWR_DOM_STAT.STATE, domRun, 75, 0), (YAL_CTL.EN, 1, 0, 0), (SYS_CHIPID.ID_SET, 1, 0, 0),
      (YAL_IEXP4.CLUSTER, 1, 0, 0), (YAL_GEXP.GEXP, 1, 0, 0), (YAL_LINK_STAT.STATE, linkUp, 0, 0),
      (JOB_PQ_CFG.BL_REMOTE_EN, 1, 0, 0)]).setReg YAL_RTE_A 0x88000000 1 with
    yal := { links := ⟨[(0, { rx := [{ pkt := p, flits := 1 }] })]⟩,
             reqs := ⟨[(3, { dst := 1, kind := 1, who := 1, a := 0, b := 0, c := 0 })]⟩ } }
def req3 : OutReq := { dst := 1, kind := 1, who := 1, a := 0, b := 0, c := 0 }
/-- The state that serves it. -/
def after (p : Packet) (f : Packet → Bool) : State :=
  match (here State.reset p).takePacket 0 f with
  | some (r, v) => v.payCredits 0 p.vc r.flits
  | none => State.reset
def isKind (kind : Nat) (p : Packet) : Bool := p.kind == kind && p.hops == 0 && true

/-- What PacketHere asks of a packet. -/
def arrives (kind : Nat) (p : Packet) : Bool :=
  let u := after p (isKind kind)
  (((here State.reset p).takePacket 0 (isKind kind)).map fun r => r.1.pkt) == some p && !u.ingressStopped 0 p
    && u.fld SYS_CHIPID.ID_SET != 0 && p.dst == u.chipId && (here State.reset p).linksWork && (here State.reset p).flag YAL_CTL.EN

theorem packet_here {kind : Nat} {p : Packet} (h : arrives kind p = true) :
    PacketHere (here State.reset p) 0 kind p (after p (isKind kind)) := by
  simp only [arrives, Bool.and_eq_true, Bool.not_eq_true', bne_iff_ne, beq_iff_eq, Option.map_eq_some_iff] at h
  obtain ⟨⟨⟨⟨⟨⟨⟨r, v⟩, ht, hr⟩, hs⟩, hi⟩, hd⟩, ho⟩, he⟩ := h
  refine ⟨ho, he, ⟨r, v, ht, hr, ?_⟩, hs, hi, hd⟩
  simp only [after, ht]

def pRd : Packet := packet pkRdReq 0x0200000000 3 []
def pRdRsp : Packet := packet pkRdRsp 0x0200000000 3 [0, 0, 0, 0]
def pWr : Packet := packet pkWr 0x0200000000 3 [0, 0, 0, 0]
def pWrAck : Packet := packet pkWrAck 0x0200000000 0 []
def pAtom : Packet := { packet pkAtom 0x0200000000 3 [0, 0, 0, 0] with op := 1 }
def pAtomRsp : Packet := packet pkAtomRsp 0x0200000000 3 [0, 0, 0, 0]
def pErr : Packet := packet pkErrRsp 0x0200000000 0 []
def pBelay : Packet := packet pkBelay 0 7 (bytesOf 8 0x1000000000000000)
def pPool : Packet := packet pkGpoolReq 0 31 (List.replicate 32 0)
def pPoolRsp : Packet := packet pkGpoolRsp 0 31 (List.replicate 32 0)
def pDigest : Packet := packet pkDigest 0 47 (List.replicate 48 0)
def message0 : HeldMsg := { link := 0, rx := { pkt := packet pkWr 0x40146000 63 (List.replicate 64 0), flits := 1 }, ts := 0 }
def messages : State := { (put mapped [(YAL_MQ_CFG.EN, 1, 0, 0)]) with yal := { msgs := [message0] } }

theorem someFst_eq {α : Type} {x : Option α × State} (h : x.1.isSome = true) : x = (some (x.1.get h), x.2) := by
  obtain ⟨o, s⟩ := x
  cases o with
  | none => simp at h
  | some a => rfl

theorem okState_eq {α β : Type} {x : Except α β} (d : β) (h : isOk x = true) : x = .ok (okOf d x) := by
  cases x with
  | error e => simp [isOk] at h
  | ok a => rfl

def link0 (l : Nat) : State := put (on [75]) [(YAL_LINK_STAT.STATE, l, 0, 0)]
def pHop : Packet := { pRd with hops := 1 }

theorem witness_PacketCommandsComplete :
    (∃ (s u : State) (p : Packet) (v : State), PacketHere s 0 pkRdReq p u ∧ u.remoteError p.addr (p.len + 1) = none ∧
      u.memError p.addr .none = (v, false) ∧ (isHbm p.addr = true → v.readFails p.addr (p.len + 1) = false)) ∧
    (∃ (s u : State) (p : Packet) (r : OutReq), PacketHere s 0 pkRdRsp p u ∧ u.yal.reqs.find? p.tag = some r ∧ r.dst = p.src ∧
      p.kind = pkRdRsp) ∧
    (∃ (s : State) (r : RxPkt) (v w z : State), s.linksWork = true ∧ s.flag YAL_CTL.EN = true ∧
      (s.takePacket 0 fun p => p.kind == pkWr && p.hops == 0 && !(p.vc == 3 && s.messageAhead 0)) = some (r, v) ∧
      v.ingressStopped 0 r.pkt = false ∧ isMessage r.pkt.addr (r.pkt.len + 1) = false ∧ w = v.payCredits 0 r.pkt.vc r.flits ∧
      w.fld SYS_CHIPID.ID_SET ≠ 0 ∧ r.pkt.dst = w.chipId ∧ w.remoteError r.pkt.addr (r.pkt.len + 1) = none ∧
      w.memError r.pkt.addr .none = (z, false)) ∧
    (∃ (s u : State) (p : Packet) (r : OutReq), PacketHere s 0 pkWrAck p u ∧ u.yal.reqs.find? p.tag = some r ∧ r.dst = p.src ∧
      p.kind = pkWrAck) ∧
    (∃ (s u : State) (p : Packet) (n : Nat) (v : State), PacketHere s 0 pkAtom p u ∧ atomicSize p.op (p.len + 1) = some n ∧
      p.addr % n = 0 ∧ atomicTarget p.addr = true ∧ u.remoteError p.addr n = none ∧ u.memError p.addr .none = (v, false)) ∧
    (∃ (s u : State) (p : Packet) (r : OutReq), PacketHere s 0 pkAtomRsp p u ∧ u.yal.reqs.find? p.tag = some r ∧ r.dst = p.src ∧
      p.kind = pkAtomRsp) ∧
    (∃ (s u : State) (p : Packet) (r : OutReq), PacketHere s 0 pkErrRsp p u ∧ u.yal.reqs.find? p.tag = some r ∧ p.kind = pkErrRsp) ∧
    (∃ (s u : State) (p : Packet), PacketHere s 0 pkBelay p u ∧ p.op = 0 ∧
      u.flag JOB_PQ_CFG.BL_REMOTE_EN (BelayCmd.ofWord (field p.data 0 8) (some (p.src, p.srcPtn)) u.now).ptn = true ∧
      1 ≤ (BelayCmd.ofWord (field p.data 0 8) (some (p.src, p.srcPtn)) u.now).op ∧
      (BelayCmd.ofWord (field p.data 0 8) (some (p.src, p.srcPtn)) u.now).op ≤ 5) ∧
    (∃ (s u : State) (p : Packet) (data bs : List Byte) (v w z : State), PacketHere s 0 pkGpoolReq p u ∧ u.gatherLong p = (some data, v) ∧
      ((GReq.ofBytes data).shards.any fun h => v.portStopped 1 0 h.ptn) = false ∧ v.poolServe (GReq.ofBytes data) = (.ok bs, w) ∧ w.sendLong (p.reply w.chipId pkGpoolRsp 0 bs) = .ok z) ∧
    (∃ (s u : State) (p : Packet) (r : OutReq) (data : List Byte) (v : State), PacketHere s 0 pkGpoolRsp p u ∧
      u.yal.reqs.find? p.tag = some r ∧ r.dst = p.src ∧ p.kind = pkGpoolRsp ∧ u.gatherLong p = (some data, v)) ∧
    (∃ (s : State) (r : RxPkt) (v w : State), s.linksWork = true ∧ s.flag YAL_CTL.EN = true ∧
      (s.takePacket 0 fun p => p.kind == pkDigest && p.hops == 0 && (s.digestArrive p).isSome) = some (r, v) ∧
      (v.payCredits 0 r.pkt.vc r.flits).ingressStopped 0 r.pkt = false ∧ (v.payCredits 0 r.pkt.vc r.flits).fld SYS_CHIPID.ID_SET ≠ 0 ∧
      r.pkt.dst = (v.payCredits 0 r.pkt.vc r.flits).chipId ∧ (v.payCredits 0 r.pkt.vc r.flits).digestArrive r.pkt = some w) ∧
    (∃ (s : State) (m : HeldMsg) (v w : State), s.waitingMessage 0 = some m ∧ s.appendMessage 0 m.rx.pkt m.ts = (some v, w)) ∧
    (∃ (s : State) (m : HeldMsg), s.waitingMessage 0 = some m ∧ s.passed m.came (max 1 (s.fld YAL_TMO.TMO) * ticksPerUs) = true) ∧
    (∃ (s : State) (r : OutReq), s.yal.reqs.find? (3#16).toNat = some r ∧ r.due ≤ s.atu.ticks) ∧
    (∃ (s : State) (p : Packet) (since : Nat) (ps : List (Packet × Nat)), s.yal.belays = (p, since) :: ps ∧ s.passed since ticksPerMs = true) :=
  ⟨⟨_, _, pRd, _, packet_here (by decide +kernel), by decide +kernel, rfl, by decide +kernel⟩,
    ⟨_, _, pRdRsp, req3, packet_here (by decide +kernel), by decide +kernel⟩,
    ⟨here State.reset pWr, { pkt := pWr, flits := 1 }, _, _, _, by decide +kernel, by decide +kernel, rfl, by decide +kernel,
      by decide +kernel, rfl, by decide +kernel, by decide +kernel, by decide +kernel, rfl⟩,
    ⟨_, _, pWrAck, req3, packet_here (by decide +kernel), by decide +kernel⟩,
    ⟨_, _, pAtom, 4, _, packet_here (by decide +kernel), by decide +kernel, by decide +kernel, by decide +kernel, by decide +kernel, rfl⟩,
    ⟨_, _, pAtomRsp, req3, packet_here (by decide +kernel), by decide +kernel⟩,
    ⟨_, _, pErr, req3, packet_here (by decide +kernel), by decide +kernel⟩,
    ⟨_, _, pBelay, packet_here (by decide +kernel), by decide +kernel⟩,
    ⟨_, _, pPool, _, _, _, _, _, packet_here (by decide +kernel), rfl, by decide +kernel, ok_eq [] (by decide +kernel),
      okState_eq State.reset (by decide +kernel)⟩,
    ⟨_, _, pPoolRsp, req3, _, _, packet_here (by decide +kernel), by decide +kernel, by decide +kernel, by decide +kernel, rfl⟩,
    ⟨here State.reset pDigest, { pkt := pDigest, flits := 1 }, _, _, by decide +kernel, by decide +kernel, rfl, by decide +kernel,
      by decide +kernel, by decide +kernel, some_eq (by decide +kernel)⟩,
    ⟨messages, message0, _, _, by decide +kernel, someFst_eq (by decide +kernel)⟩,
    ⟨late messages, message0, by decide +kernel⟩,
    ⟨here State.reset pRd, req3, by decide +kernel⟩,
    ⟨late { State.reset with yal := { belays := [(pBelay, 0)] } }, pBelay, 0, [], by decide +kernel⟩⟩

/-! ### The rest -/

def bbx (b : BlackBox) : State := { State.reset with bbx := b }
def power (s : State) (p : Power) : State := { s with power := p }
def boot (b : Boot) : State := { State.reset with boot := b }
def xsp0 : XspCmd := { cs := 0, wr := true, op := 2, addr := 0, len := 0, data := [] }
def dom (d st : Nat) : State := put State.reset [(PWR_DOM_STAT.STATE, st, d, 0)]
def hart1 : State := put State.reset [(ACI_HART_STAT.STATE, 1, 0, 0), (ACI_HART_STAT.STATE, 1, 1, 0)]
/-- The PCIe link is up; function 0 may write to the host, and outbound region 0 leads there. -/
def host : State :=
  { put (on [76]) [(PCI_STAT.UP, 1, 0, 0), (PCI_OB_CFG.EN, 1, 0, 0)] with pciFns := ⟨[(0, { bme := true })]⟩ }
def posted0 : PostedWrite := { region := some 0, out := .hostWrite 0 0 [] }
def hostReq : SReq := { req0 with ga := 0x8000000000 }
/-- Port 0 runs as one lane, and its link is up. -/
def port0 : State :=
  put (on [74]) [(ETH_QUAD.MODE, 3, 0, 0), (ETH_PORT_CTL.EN, 1, 0, 0), (ETH_PORT_STAT.LINK, 1, 0, 0), (ETH_Q_CFG.EN, 1, 0, 0)]
def fwd0 : FwdFrame := { bytes := frame0, ingress := 1, ts := 0 }

theorem witness_StoresReadBack : ∃ s : State, Memory.wf s.mem = true ∧ s.regs.wf regReset = true ∧ s.mem ≠ .empty ∧ s.regs ≠ .empty :=
  ⟨mapped, by decide +kernel⟩

theorem witness_PlainWriteFollowsAccessCodes : ∃ (r : RegRow) (i j : Nat), rowAt (JOB_CQ_IRQ.addr 0 0) = some (r, i, j) ∧
    (∀ f ∈ r.rows, f.fld.lo ≤ f.fld.hi ∧ f.fld.hi < 32) ∧
    (r.rows.Pairwise fun f g => f.fld.hi < g.fld.lo ∨ g.fld.hi < f.fld.lo) ∧ r.rows ≠ [] :=
  ⟨((rowAt (JOB_CQ_IRQ.addr 0 0)).get (by decide +kernel)).1, ((rowAt (JOB_CQ_IRQ.addr 0 0)).get (by decide +kernel)).2.1,
    ((rowAt (JOB_CQ_IRQ.addr 0 0)).get (by decide +kernel)).2.2, by decide +kernel⟩

theorem witness_EveryStepKeepsTheInvariant : ∃ s t : State, Inv s ∧ step s = .next t :=
  ⟨mapped, mapped, ⟨by decide +kernel, by decide +kernel, by decide +kernel, by decide +kernel, by decide +kernel, by decide +kernel⟩, rfl⟩

/-- Reading the object table's entry 0, then the image that it names, then writing its digest. -/
def objS : State := objects { otBusy := some 0 } (bytesOf 16 (1 + 32 * 2 ^ 32 + 0x400 * 2 ^ 64))
def objP : PtnIx := 0
def objRead : Except VFault (List Byte) × State :=
  objS.vRead objP (objS.addrOf JOB_OT_BASE_LO JOB_OT_BASE_HI objP + 64 * 0) 64
def objEntry : List Byte := okOf [] objRead.1
def objImage : Except VFault (List Byte) × State := objRead.2.vRead objP (field objEntry 8 6) (field objEntry 4 4)
def objBytes : List Byte := okOf [] objImage.1
def objWrite : Except VFault Unit × State :=
  objImage.2.put objP (objS.addrOf JOB_OT_BASE_LO JOB_OT_BASE_HI objP + 64 * 0 + 32) (sha256 objBytes)

theorem objRead_ok : objS.vRead objP (objS.addrOf JOB_OT_BASE_LO JOB_OT_BASE_HI objP + 64 * 0) 64 = (.ok objEntry, objRead.2) :=
  ok_eq (x := objRead) [] (by decide +kernel)
theorem objImage_ok : objRead.2.vRead objP (field objEntry 8 6) (field objEntry 4 4) = (.ok objBytes, objImage.2) :=
  ok_eq (x := objImage) [] (by decide +kernel)
theorem objWrite_ok : objImage.2.put objP (objS.addrOf JOB_OT_BASE_LO JOB_OT_BASE_HI objP + 64 * 0 + 32) (sha256 objBytes) =
    (.ok (), objWrite.2) := ok_eq (x := objWrite) () (by decide +kernel)
theorem objRead_type : objType objEntry = 1 ∨ objType objEntry = 2 := by decide +kernel
theorem objRead_size : objectSizeOk objEntry = true := by decide +kernel


/-- A bootable image in slot A: its 64 body bytes are zero, and the owner's key 5 has signed its header with the nonce 7. -/
def imageBytes : List Byte :=
  bytesOf 32 0x40000000014d495a54 ++ bytesOf 32 0x4bfb5927a93198eae8f0d920233d00439b9709d36eef982730206ad142fda5f5 ++
  bytesOf 32 0xed33d0c30d4a552124e55b1ffd828cefdf8f660856c884d7d24051517a0b5951 ++ bytesOf 32 0xa46da1fd44bbd0d18808d8d4002f010d26798abf36bfe18a7d724a90a87dc1e0 ++
  bytesOf 32 0xa3b28731702806305bef0fa8b8f8f97e60fb017c6630bb25467bbfa06f3b538e ++ bytesOf 32 0xa360423a01297785c574b965b844efbea55fd14b0389e777b87c083504892907 ++
  List.replicate 64 0 ++
  List.replicate 64 0
def imageState : State :=
  { (boot { state := 6, mode := 1 }).setWords1 SEC_OWNHASH
      (bytesOf 32 0xdcf1580934712d5aa04237e17200460789b4ade768ee8a1c9fdc1011e2ddb92d) 8 with
    flash := ⟨(List.range' (slotBase 0) 320).zip imageBytes⟩ }

theorem image_header : imageState.headerReason 0 false = 0 := by decide +kernel
theorem image_regs : (imageState.setReason 0 0).regs = imageState.regs := by decide +kernel
theorem reason_same {s : State} (h : (s.setReason 0 0).regs = s.regs) : s.setReason 0 0 = s := by
  show ({ s with regs := (s.setReason 0 0).regs } : State) = s
  rw [h]
theorem image_same : imageState.setReason 0 (imageState.headerReason 0 false) = imageState := by
  rw [image_header]; exact reason_same image_regs
theorem image_order : imageState.slotOrder false false = [0] := by
  have h : (imageState.headerReason 0 false == 0) = true := by rw [image_header]; rfl
  show [0].filter (fun i => imageState.headerReason i (if i = 0 then false else false) == 0) = [0]
  exact List.filter_cons_of_pos h

/-- No slot holds an image. -/
theorem witness_noImage : let s := boot { state := 6, mode := 1 }
    s.boot.state = 6 ∧ s.power.sagLow = false ∧ s.boot.mode ≠ 3 ∧ (s.setReason 0 (s.headerReason 0 false)).slotOrder false false = [] := by
  decide +kernel

/-- The first descriptor of queue 0 names a frame of 60 bytes. -/
def ethSrc : State := (port0.setReg ETH_Q_TXTAIL 1).poke 0 (bytesOf 16 (0x1000 + 60 * 2 ^ 64))
theorem read_sram (s : State) (p : Nat) {a : Nat} (n : Nat) (h : isHbm a = false) : s.readLocal p a n false = (.ok (s.read a n), s) := by
  rw [State.readLocal, h]; rfl
theorem witness_StepTakesTheFrontCommand :
    (∃ (s : State), s.pending = []) :=
  ⟨State.reset, by decide +kernel⟩

theorem witness_WellFormedCommandsComplete :
    (∃ (c : Instr), c.wf = true) ∧
    (∃ (c : Instr), c.wf = false) :=
  ⟨⟨.atuTick, by decide +kernel⟩,
    ⟨.ethFrameReceive 0 [] true, by decide +kernel⟩⟩

theorem witness_TickAdvancesTime :
    (∃ (s : State), s.domOn 77 = true ∧ s.atu.steps = []) :=
  ⟨State.reset, by decide +kernel⟩

theorem witness_TickTakesOneStep :
    (∃ (s : State) (st : ClockStep) (rest : List ClockStep), s.domOn 77 = true ∧ s.atu.steps = st :: rest) :=
  ⟨atu { steps := [.load] }, .load, [], by decide +kernel⟩

theorem witness_TimeCommandsComplete :
    (∃ (p : PtnIx) (s : State), s.domOn 77 = true ∧ p.val = s.timeOwner ∧ s.flag ATU_CTL.SET = false) ∧
    (∃ (p : PtnIx) (s : State), s.domOn 77 = true ∧ p.val = s.timeOwner) ∧
    (∃ (s : State), s.domOn 77 = true) ∧
    (∃ (p : PtnIx) (s : State), s.domOn 77 = true ∧ p.val = s.timeOwner ∧ s.fld ATU_SERVO_CTL.PHASE_SRC = 1) ∧
    (∃ (s : State), s.domOn 77 = true ∧ s.fld ATU_SERVO_CTL.PHASE_SRC = 2) ∧
    (∃ (s : State), s.domOn 77 = true ∧ s.fld ATU_SERVO_CTL.PHASE_SRC = 3 ∧ s.flag ATU_SYNC_CFG.LEADER = false) ∧
    (∃ (s : State), s.domOn 77 = true ∧ s.flag ATU_CTL.RUN = true ∧ s.flag ATU_SERVO_CTL.FREQ_SRC = true ∧ s.fld
    ATU_SERVO_CTL.PHASE_SRC = 0 ∧ s.flag ATU_STAT.HOLDOVER = false) ∧
    (∃ (s : State), s.domOn 77 = true ∧ s.flag ATU_CTL.RUN = true ∧ s.fld ATU_SERVO_CTL.HOLD_TO ≠ 0 ∧ s.fld
    ATU_SERVO_CTL.PHASE_SRC ≠ 0 ∧ s.flag ATU_STAT.HOLDOVER = false) ∧
    (∃ (s : State), s.domOn 77 = true ∧ s.atu.secEdge = true ∧ s.flag ATU_PPS_CFG.OUT_EN = true) ∧
    (∃ (s : State), s.domOn 77 = true ∧ s.atu.msEdge = true ∧ s.flag ATU_SYNC_CFG.LEADER = true ∧ s.flag ATU_SYNC_CFG.OUT_EN =
    true) :=
  ⟨⟨0, State.reset, by decide +kernel⟩,
    ⟨0, State.reset, by decide +kernel⟩,
    ⟨State.reset, by decide +kernel⟩,
    ⟨0, put State.reset [(ATU_SERVO_CTL.PHASE_SRC, 1, 0, 0)], by decide +kernel⟩,
    ⟨put State.reset [(ATU_SERVO_CTL.PHASE_SRC, 2, 0, 0)], by decide +kernel⟩,
    ⟨put State.reset [(ATU_SERVO_CTL.PHASE_SRC, 3, 0, 0), (ATU_SYNC_CFG.LEADER, 0, 0, 0)], by decide +kernel⟩,
    ⟨put State.reset [(ATU_CTL.RUN, 1, 0, 0), (ATU_SERVO_CTL.FREQ_SRC, 1, 0, 0)], by decide +kernel⟩,
    ⟨put State.reset [(ATU_CTL.RUN, 1, 0, 0), (ATU_SERVO_CTL.HOLD_TO, 1, 0, 0), (ATU_SERVO_CTL.PHASE_SRC, 1, 0, 0)],
      by decide +kernel⟩,
    ⟨put (atu { secEdge := true }) [(ATU_PPS_CFG.OUT_EN, 1, 0, 0)], by decide +kernel⟩,
    ⟨put (atu { msEdge := true }) [(ATU_SYNC_CFG.LEADER, 1, 0, 0), (ATU_SYNC_CFG.OUT_EN, 1, 0, 0)], by decide +kernel⟩⟩

theorem witness_CellsAndTriggersComplete :
    (∃ (p : PtnIx) (s : State) (c : Fin 96), s.domOn 77 = true ∧ p.val = s.timeOwner ∧ s.flag ATU_CELL_CFG.EN c = false) ∧
    (∃ (p : PtnIx) (s : State) (c : Fin 96) (v : Word), s.domOn 77 = true ∧ p.val = s.timeOwner ∧ s.flag ATU_CELL_CFG.EN c = true
    ∧ bit v.toNat 31 = false) ∧
    (∃ (p : PtnIx) (s : State) (i : BitVec 12), s.domOn 77 = true ∧ s.armError p i.toNat (s.trgStage p) = 0) ∧
    (∃ (p : PtnIx) (s : State) (i : BitVec 12) (e : Nat), s.domOn 77 = true ∧ s.armError p i.toNat (s.trgStage p) = e ∧ e ≠ 0) ∧
    (∃ (p : PtnIx) (s : State) (i : BitVec 12) (g : Trigger), s.domOn 77 = true ∧ s.ownsTrg p i.toNat = true ∧
    s.atu.triggers.find? i.toNat = some g ∧ g.armed = true) ∧
    (∃ (p : PtnIx) (s : State) (i : BitVec 12) (g : Trigger), s.domOn 77 = true ∧ s.ownsTrg p i.toNat = true ∧
    s.atu.triggers.find? i.toNat = some g) ∧
    (∃ (s : State) (i : Nat) (g : Trigger), s.domOn 77 = true ∧ s.flag ATU_CTL.TRG_EN = true ∧ s.flag ATU_CTL.RUN = true ∧
    s.atu.firedNow < 16 ∧ (s.atu.triggers.rows.find? fun r => decide (s.atu.nextIx ≤ r.1) && r.2.due s.atu.now) = some (i, g)) :=
  ⟨⟨0, State.reset, 0, by decide +kernel⟩,
    ⟨0, put State.reset [(ATU_CELL_CFG.EN, 1, 0, 0)], 0, 0, by decide +kernel⟩,
    ⟨0, put (atu { trgStage := ⟨[(0, { w0 := 0x42000000 })]⟩ }) [(PTN_TRG.V, 1, 0, 0)], 0, by decide +kernel⟩,
    ⟨0, State.reset, 0, 1, by decide +kernel⟩,
    ⟨0, put (atu { triggers := ⟨[(0, trigger0)]⟩ }) [(PTN_TRG.V, 1, 0, 0)], 0, trigger0, by decide +kernel⟩,
    ⟨0, put (atu { triggers := ⟨[(0, trigger0)]⟩ }) [(PTN_TRG.V, 1, 0, 0)], 0, trigger0, by decide +kernel⟩,
    ⟨put (atu { triggers := ⟨[(0, trigger0)]⟩ }) [(ATU_CTL.TRG_EN, 1, 0, 0), (ATU_CTL.RUN, 1, 0, 0)], 0, trigger0,
      by decide +kernel⟩⟩

theorem witness_RingCommandsComplete :
    (∃ (p : PtnIx) (s : State) (r : Fin 16) (t : Word), s.flag JOB_SQ_CFG.EN p r = true ∧ dist32 t.toNat (s.reg JOB_SQ_HEAD p r) ≤
    2 ^ s.fld JOB_SQ_CFG.LOG2SIZE p r ∧ dist32 t.toNat (s.reg JOB_SQ_TAIL p r) ≤ 2 ^ s.fld JOB_SQ_CFG.LOG2SIZE p r ∧ t.toNat ≠
    s.reg JOB_SQ_TAIL p r) ∧
    (∃ (p : PtnIx) (s : State) (r : Fin 16) (t : Word), s.flag JOB_SQ_CFG.EN p r = true ∧ (¬(dist32 t.toNat (s.reg JOB_SQ_HEAD p
    r) ≤ 2 ^ s.fld JOB_SQ_CFG.LOG2SIZE p r ∧ dist32 t.toNat (s.reg JOB_SQ_TAIL p r) ≤ 2 ^ s.fld JOB_SQ_CFG.LOG2SIZE p r))) ∧
    (∃ (p : PtnIx) (s : State) (h : Word), s.flag JOB_CQ_CFG.EN p = true ∧ dist32 (s.reg JOB_CQ_TAIL p) h.toNat ≤ dist32 (s.reg
    JOB_CQ_TAIL p) (s.reg JOB_CQ_HEAD p)) ∧
    (∃ (p : PtnIx) (s : State) (h : Word), s.flag JOB_EQ_CFG.EN p = true ∧ dist32 (s.reg JOB_EQ_TAIL p) h.toNat ≤ dist32 (s.reg
    JOB_EQ_TAIL p) (s.reg JOB_EQ_HEAD p)) ∧
    (∃ (p : PtnIx) (s : State) (src : PtnIx) (r : Fin 16) (v : Word), (src = p ∨ src.val = s.manager) ∧ s.flag JOB_SQ_CFG.EN p r =
    false ∧ bit v.toNat 31 = true ∧ 6 ≤ bits v.toNat 4 0 ∧ bits v.toNat 4 0 ≤ 16) ∧
    (∃ (p : PtnIx) (s : State) (src : PtnIx), (src = p ∨ src.val = s.manager)) :=
  ⟨⟨0, put State.reset [(JOB_SQ_CFG.EN, 1, 0, 0), (JOB_SQ_CFG.LOG2SIZE, 6, 0, 0)], 0, 64, by decide +kernel⟩,
    ⟨0, put State.reset [(JOB_SQ_CFG.EN, 1, 0, 0), (JOB_SQ_CFG.LOG2SIZE, 6, 0, 0)], 0, 65, by decide +kernel⟩,
    ⟨0, put State.reset [(JOB_CQ_CFG.EN, 1, 0, 0)], 0, by decide +kernel⟩,
    ⟨0, put State.reset [(JOB_EQ_CFG.EN, 1, 0, 0)], 0, by decide +kernel⟩,
    ⟨0, State.reset, 0, 0, 0x80000010, by decide +kernel⟩,
    ⟨0, State.reset, 0, by decide +kernel⟩⟩

theorem witness_DoorbellsCheckTheirCounts :
    (∃ (p : PtnIx) (s : State) (r : Fin 16) (t : Word), s.flag JOB_SQ_CFG.EN p r = true ∧ (dist32 t.toNat (s.reg JOB_SQ_HEAD p r)
    ≤ 2 ^ s.fld JOB_SQ_CFG.LOG2SIZE p r ∧ dist32 t.toNat (s.reg JOB_SQ_TAIL p r) ≤ 2 ^ s.fld JOB_SQ_CFG.LOG2SIZE p r)) ∧
    (∃ (p : PtnIx) (s : State) (r : Fin 16) (t : Word), s.flag JOB_SQ_CFG.EN p r = true ∧ (¬(dist32 t.toNat (s.reg JOB_SQ_HEAD p
    r) ≤ 2 ^ s.fld JOB_SQ_CFG.LOG2SIZE p r ∧ dist32 t.toNat (s.reg JOB_SQ_TAIL p r) ≤ 2 ^ s.fld JOB_SQ_CFG.LOG2SIZE p r))) ∧
    (∃ (p : PtnIx) (s : State) (h : Word), s.flag JOB_CQ_CFG.EN p = true ∧ dist32 (s.reg JOB_CQ_TAIL p) h.toNat ≤ dist32 (s.reg
    JOB_CQ_TAIL p) (s.reg JOB_CQ_HEAD p)) ∧
    (∃ (p : PtnIx) (s : State) (h : Word), s.flag JOB_CQ_CFG.EN p = true ∧ dist32 (s.reg JOB_CQ_TAIL p) (s.reg JOB_CQ_HEAD p) <
    dist32 (s.reg JOB_CQ_TAIL p) h.toNat) ∧
    (∃ (p : PtnIx) (s : State) (h : Word), s.flag JOB_EQ_CFG.EN p = true ∧ dist32 (s.reg JOB_EQ_TAIL p) h.toNat ≤ dist32 (s.reg
    JOB_EQ_TAIL p) (s.reg JOB_EQ_HEAD p)) ∧
    (∃ (p : PtnIx) (s : State) (h : Word), s.flag JOB_EQ_CFG.EN p = true ∧ dist32 (s.reg JOB_EQ_TAIL p) (s.reg JOB_EQ_HEAD p) <
    dist32 (s.reg JOB_EQ_TAIL p) h.toNat) :=
  ⟨⟨0, put State.reset [(JOB_SQ_CFG.EN, 1, 0, 0), (JOB_SQ_CFG.LOG2SIZE, 6, 0, 0)], 0, 64, by decide +kernel⟩,
    ⟨0, put State.reset [(JOB_SQ_CFG.EN, 1, 0, 0), (JOB_SQ_CFG.LOG2SIZE, 6, 0, 0)], 0, 65, by decide +kernel⟩,
    ⟨0, put State.reset [(JOB_CQ_CFG.EN, 1, 0, 0)], 0, by decide +kernel⟩,
    ⟨0, put State.reset [(JOB_CQ_CFG.EN, 1, 0, 0)], 1, by decide +kernel⟩,
    ⟨0, put State.reset [(JOB_EQ_CFG.EN, 1, 0, 0)], 0, by decide +kernel⟩,
    ⟨0, put State.reset [(JOB_EQ_CFG.EN, 1, 0, 0)], 1, by decide +kernel⟩⟩

theorem witness_SnapshotsAreSeparate :
    (∃ (s : State), s.domOn 77 = true) :=
  ⟨State.reset, by decide +kernel⟩

theorem jobCommandsComplete_clause_9 :
    ∃ (p : PtnIx) (s : State) (src : PtnIx) (h : BitVec 12) (e : List Byte) (u : State), (src = p ∨ src.val = s.manager) ∧ s.flag
    JOB_OT_STAT.BUSY p = false ∧ ((s.setFld JOB_OT_STAT.ERR 0 p).setFld JOB_OT_STAT.INDEX h.toNat p).vRead p (((s.setFld
    JOB_OT_STAT.ERR 0 p).setFld JOB_OT_STAT.INDEX h.toNat p).addrOf JOB_OT_BASE_LO JOB_OT_BASE_HI p + 64 * h.toNat) 64 = (.ok
    e, u) ∧ objState e = 2 :=
  ⟨0, objects {} (bytesOf 2 0x201), 0, 0, _, _, by decide +kernel, by decide +kernel, ok_eq [] (by decide +kernel),
      by decide +kernel⟩

theorem witness_JobCommandsComplete :
    (∃ (s : State) (j : Nat) (x : Job) (y : Job) (ts : List Nat), s.job? j = some x ∧ x.flag 5 = true ∧ x.launched = false ∧
    x.phase ≠ .draining ∧ x.launchNs ≤ s.count ∧ (((s.putJob j { x with launched := true }).refresh).modJob j fun x =>
    { x with launchLate := false }).job? j = some y ∧ (((s.putJob j { x with launched := true }).refresh).modJob j fun x =>
    { x with launchLate := false }).eligible j y = true ∧ (((s.putJob j { x with launched := true }).refresh).modJob j fun x
    => { x with launchLate := false }).placing y = .tiles ts) ∧
    (∃ (p : PtnIx) (s : State) (r : Nat) (n : Nat), s.fetchRing p = some (r, n)) ∧
    (∃ (p : PtnIx) (s : State) (j : Nat) (x : Job) (ts : List Nat), (s.firstJob (s.jobList.filter fun r => r.2.ptn == p.val &&
    s.eligible r.1 r.2 && decide (s.placing r.2 ≠ .wait))) = some (j, x) ∧ s.placing x = .tiles ts) ∧
    (∃ (s : State) (j : Nat) (x : Job), s.job? j = some x ∧ x.missed s.now = true ∧ s.txDue = false) ∧
    (∃ (s : State) (j : Nat) (x : Job) (y : Job), s.job? j = some x ∧ x.phase = .draining ∧ x.endTs.isSome = true ∧ s.digestReady
    j x = true ∧ (s.applySignals j x).job? j = some y ∧ (s.applySignals j x).recordTurn j y = true ∧ (y.flag 1 = true →
    y.startTs.isSome = true → ∀ d, (s.applySignals j x).dgt? j = some d → d.compared = true)) ∧
    (∃ (p : PtnIx) (s : State), s.flag JOB_CQ_CFG.IRQ_EN p = true ∧ s.fld JOB_CQ_IRQ.IRQ_TIME p ≠ 0 ∧ (s.jobPtn p).cqSince ≠ 0 ∧
    s.passed (s.jobPtn p).cqAt (s.fld JOB_CQ_IRQ.IRQ_TIME p * ticksPerUs) = true) ∧
    (∃ (p : PtnIx) (s : State) (src : PtnIx), (src = p ∨ src.val = s.manager) ∧ s.flag JOB_OT_STAT.BUSY p = false) ∧
    (∃ (p : PtnIx) (s : State) (h : Nat) (e : List Byte) (bs : List Byte) (u : State) (v : State) (w : State), (s.jobPtn p).otBusy
    = some h ∧ (s.jobPtn p).otWait = false ∧ s.vRead p (s.addrOf JOB_OT_BASE_LO JOB_OT_BASE_HI p + 64 * h) 64 = (.ok e, u) ∧
    ((objType e = 1 ∨ objType e = 2)) ∧ objectSizeOk e = true ∧ u.vRead p (field e 8 6) (field e 4 4) = (.ok bs, v) ∧ v.put p
    (s.addrOf JOB_OT_BASE_LO JOB_OT_BASE_HI p + 64 * h + 32) (sha256 bs) = (.ok (), w)) ∧
    (∃ (p : PtnIx) (s : State) (src : PtnIx) (h : BitVec 12) (e : List Byte) (u : State), (src = p ∨ src.val = s.manager) ∧ s.flag
    JOB_OT_STAT.BUSY p = false ∧ ((s.setFld JOB_OT_STAT.ERR 0 p).setFld JOB_OT_STAT.INDEX h.toNat p).vRead p (((s.setFld
    JOB_OT_STAT.ERR 0 p).setFld JOB_OT_STAT.INDEX h.toNat p).addrOf JOB_OT_BASE_LO JOB_OT_BASE_HI p + 64 * h.toNat) 64 = (.ok
    e, u) ∧ objState e = 2) :=
  ⟨⟨jobs State.reset jobL, 5, jobL, { jobL with launched := true }, [], by decide +kernel⟩,
    ⟨0, putR (put State.reset [(JOB_SQ_CFG.EN, 1, 0, 0), (JOB_CQ_CFG.LOG2SIZE, 6, 0, 0), (JOB_CTL.EN, 1, 0, 0), (JOB_PQ_CFG.QUOTA,
      1, 0, 0), (PTN_CFG.EN, 1, 0, 0)]) [(JOB_SQ_TAIL, 1, 0, 0)], 0, 1, by decide +kernel⟩,
    ⟨0, jobs State.reset jobW, 5, jobW, [], by decide +kernel⟩,
    ⟨jobs State.reset { job0 with deadline := some 0 }, 5, { job0 with deadline := some 0 }, by decide +kernel⟩,
    ⟨jobs State.reset jobE, 5, jobE, { jobE with signalled := true }, by decide +kernel⟩,
    ⟨0, late (ptn (put State.reset [(JOB_CQ_CFG.IRQ_EN, 1, 0, 0), (JOB_CQ_IRQ.IRQ_TIME, 1, 0, 0)]) { cqSince := 1 }),
      by decide +kernel⟩,
    ⟨0, State.reset, 0, by decide +kernel⟩,
    ⟨objP, objS, 0, objEntry, objBytes, objRead.2, objImage.2, objWrite.2, by decide +kernel, by decide +kernel, objRead_ok,
      objRead_type, objRead_size, objImage_ok, objWrite_ok⟩,
    jobCommandsComplete_clause_9⟩

theorem witness_BelayCommandsComplete :
    (∃ (p : PtnIx) (s : State) (w : DWord), 1 ≤ (BelayCmd.ofWord w.toNat none s.now).op ∧ (BelayCmd.ofWord w.toNat none s.now).op
    ≤ 5 ∧ (BelayCmd.ofWord w.toNat none s.now).chip = s.chipId ∧ (BelayCmd.ofWord w.toNat none s.now).ptn = p.val) ∧
    (∃ (p : PtnIx) (s : State) (c : BelayCmd) (rest : List BelayCmd), (s.jobPtn p).belay = c :: rest ∧ s.belayLocal c = true ∧
    c.op = 1 ∧ ((bits c.argA 11 8 = 0 ∨ bits c.argA 11 8 = 1 ∧ bits c.argA 3 0 < 8))) ∧
    (∃ (p : PtnIx) (s : State) (c : BelayCmd) (rest : List BelayCmd), (s.jobPtn p).belay = c :: rest ∧ s.belayLocal c = true ∧
    c.op = 2) ∧
    (∃ (p : PtnIx) (s : State) (c : BelayCmd) (rest : List BelayCmd), (s.jobPtn p).belay = c :: rest ∧ s.belayLocal c = true ∧
    c.op = 3) ∧
    (∃ (p : PtnIx) (s : State) (c : BelayCmd) (rest : List BelayCmd), (s.jobPtn p).belay = c :: rest ∧ s.belayLocal c = true ∧
    c.op = 4) ∧
    (∃ (p : PtnIx) (s : State) (c : BelayCmd) (rest : List BelayCmd), (s.jobPtn p).belay = c :: rest ∧ s.belayLocal c = true ∧
    c.op = 5) ∧
    (∃ (p : PtnIx) (s : State) (w : BelayWait), ((s.jobPtn p).belayWaits.find? fun w => s.belayReady p w) = some w ∧ w.origin =
    none) ∧
    (∃ (p : PtnIx) (s : State) (src : PtnIx), (src = p ∨ src.val = s.manager) ∧ s.belayQueued p 5 = false) ∧
    (∃ (p : PtnIx) (s : State) (src : PtnIx), (src = p ∨ src.val = s.manager) ∧ s.belayQueued p 4 = false) ∧
    (∃ (p : PtnIx) (s : State), p.val = s.manager) :=
  ⟨⟨0, State.reset, 0x1000000000000000, by decide +kernel⟩,
    ⟨0, belaying 1, belay0 1, [], by decide +kernel⟩,
    ⟨0, belaying 2, belay0 2, [], by decide +kernel⟩,
    ⟨0, belaying 3, belay0 3, [], by decide +kernel⟩,
    ⟨0, belaying 4, belay0 4, [], by decide +kernel⟩,
    ⟨0, belaying 5, belay0 5, [], by decide +kernel⟩,
    ⟨0, ptn State.reset { belayWaits := [{ seq := 0, origin := none, jobs := [] }] }, { seq := 0, origin := none, jobs := [] },
      by decide +kernel⟩,
    ⟨0, State.reset, 0, by decide +kernel⟩,
    ⟨0, State.reset, 0, by decide +kernel⟩,
    ⟨0, State.reset, by decide +kernel⟩⟩

theorem witness_TileCommandsComplete :
    (∃ (t : TileIx) (s : State) (e : QEntry) (rest : List QEntry), (s.tile t).task = none ∧ s.tileServes t = true ∧ (s.tile
    t).queue = e :: rest ∧ e.slot = none) ∧
    (∃ (t : TileIx) (s : State), s.domOn t = true ∧ (s.tile t).state = .idle) ∧
    (∃ (t : TileIx) (s : State), s.domOn t = true ∧ (s.tile t).state ≠ .idle) ∧
    (∃ (t : TileIx) (s : State) (k : Task), (s.tile t).task = some k ∧ (s.tile t).ended = true) ∧
    (∃ (t : TileIx) (s : State) (k : Nat), s.domOn t = true ∧ (s.tile t).irqSource = some k ∧ (s.tile t).task.isSome = true ∧
    ((s.tile t).state = .run ∨ (s.tile t).state = .wait) ∧ (s.tile t).issuing = none ∧ (s.tile t).halting = false ∧ (s.tile
    t).ie = true ∧ (s.tile t).delay = false ∧ s.preemptDue t = false) ∧
    (∃ (t : TileIx) (s : State) (b : Bundle) (w : Bool) (m : Moves), s.issues t = true ∧ (s.tile t).issuing = none ∧ (s.tile
    t).halting = false ∧ Bundle.decode (s.fetch t) = b ∧ (s.tile t).staticFault b = none ∧ s.verdict t b = .stall w m ∧
    (s.tile t).firstDue m.go ≠ 0) ∧
    (∃ (t : TileIx) (s : State) (m : MOp) (rest : List MOp), (s.tile t).mq = m :: rest ∧ m.op = 1 ∧ (s.tile t).running = [] ∧
    (s.tile t).loading = []) ∧
    (∃ (t : TileIx) (s : State) (m : MOp) (rest : List MOp), (s.tile t).mq = m :: rest ∧ m.op = 2 ∧ (s.tile t).skips m = false ∧
    ((s.tile t).wts m.sub).shadow = none ∧ ((s.tile t).loading.any fun k => k.sub == m.sub) = false) ∧
    (∃ (t : TileIx) (s : State) (sub : Fin 4) (m : MOp) (a : SubArray), ((s.tile t).loading.find? fun m => m.sub == sub.val) =
    some m ∧ subArray m.split m.sub = some a ∧ m.old.rows = []) ∧
    (∃ (t : TileIx) (s : State) (m : MOp) (rest : List MOp), (s.tile t).mq = m :: rest ∧ m.op = 3 ∧ (s.tile t).skips m = false ∧
    ((s.tile t).loading.any fun k => k.sub == m.sub) = false) ∧
    (∃ (t : TileIx) (s : State) (sub : Fin 4) (m : MOp) (a : SubArray), ((s.tile t).running.find? fun m => m.sub == sub.val) =
    some m ∧ subArray m.split m.sub = some a ∧ m.old.rows = [] ∧ m.retry = false ∧ (mulCompute ((s.draw.2.incSat
    ARR_BUSYCYC.CYCLES s.draw.1 t).mulIn t m a 0 0) m.anchor m.add ((s.draw.2.incSat ARR_BUSYCYC.CYCLES s.draw.1 t).fld
    ARR_CKTOL.ULP t) ((s.tile t).entry (s.tile t).activeSet)).ok = true) ∧
    (∃ (t : TileIx) (s : State) (sub : Fin 4) (m : MOp) (a : SubArray), ((s.tile t).running.find? fun m => m.sub == sub.val) =
    some m ∧ subArray m.split m.sub = some a ∧ m.old.rows = [] ∧ m.retry = false) ∧
    (∃ (t : TileIx) (s : State) (sub : Fin 4), quadsOf (s.tile t).split sub &&& (s.tile t).fill ≠ 0) :=
  ⟨⟨0, tile { queue := [entry0] }, entry0, [], by decide +kernel⟩,
    ⟨0, on [0], by decide +kernel⟩,
    ⟨0, tile { state := .run }, by decide +kernel⟩,
    ⟨0, tile { task := some task0, state := .run, halting := true }, task0, by decide +kernel⟩,
    ⟨0, tile { task := some task0, state := .run, ipend := 1, imask := 1, flags := 16 }, 0, by decide +kernel⟩,
    ⟨0, stalled, bundle stalled, true, .all, by decide +kernel⟩,
    ⟨0, tile { mq := [mop 1] }, mop 1, [], by decide +kernel⟩,
    ⟨0, tile { mq := [mop 2] }, mop 2, [], by decide +kernel⟩,
    ⟨0, tile { loading := [mop 2] }, 0, mop 2, _, by decide +kernel, rfl, by decide +kernel⟩,
    ⟨0, tile { mq := [mop 3] }, mop 3, [], by decide +kernel⟩,
    ⟨0, tile { running := [mop 3] }, 0, mop 3, _, by decide +kernel, rfl, by decide +kernel, by decide +kernel, by decide +kernel⟩,
    ⟨0, tile { running := [mop 3] }, 0, mop 3, _, by decide +kernel, rfl, by decide +kernel, by decide +kernel⟩,
    ⟨0, tile { fill := 15 }, 0, by decide +kernel⟩⟩

theorem partitionCommandsComplete_clause_11 :
    ∃ (t : TileIx) (s : State) (k : Task) (d : Nat) (j : Nat) (x : Job) (c : Cairn) (bs : List Byte) (u : State) (v : State) (w :
    State), s.domOn t = true ∧ (s.tile t).task = some k ∧ (s.tile t).slot = some d ∧ s.taskJob t = some (j, x) ∧ (s.tile
    t).state = .restore ∧ (s.tile t).halting = false ∧ s.loadImage t x.ptn k.job (x.program k.fallback).1 k.fallback
    (x.program k.fallback).2 = (some u, w) ∧ u.cairns.find? (t * 8 + d) = some c ∧ u.vRead x.ptn (u.slotAt x.ptn t d)
    (u.slotSize x.ptn) = (.ok bs, v) :=
  ⟨0,
      { busyMapped { task := some task0, slot := some 0, state := .restore, loaded := some loaded0 } with cairns := ⟨[(0, { ptn := 0, ctx := {} })]⟩ },
      task0, 0, 5, job0, { ptn := 0, ctx := {} }, _, _, _, _, by decide +kernel, by decide +kernel, by decide +kernel,
      by decide +kernel, by decide +kernel, by decide +kernel, rfl, by decide +kernel, ok_eq [] (by decide +kernel)⟩

theorem witness_PartitionCommandsComplete :
    (∃ (p : PtnIx) (s : State), p.val = s.manager ∧ s.job.ctlLocked = false) ∧
    (∃ (p : PtnIx) (s : State) (src : PtnIx), src.val = s.manager ∧ s.ptnOn p = false) ∧
    (∃ (p : PtnIx) (s : State) (src : PtnIx), src.val = s.manager ∧ s.ptnOn p = true) ∧
    (∃ (t : TileIx) (s : State) (q : Nat) (v : Nat) (e : QEntry), s.thief t = some q ∧ s.victim q t = some v ∧ (s.stealable q
    v).getLast? = some e) ∧
    (∃ (t : TileIx) (s : State) (q : Nat) (v : Nat) (c : Nat) (e : QEntry), s.thief t = some q ∧ s.victim q t = none ∧ s.flag
    CLU_CTL.XSTEAL_EN (t / 16) = true ∧ c = (t / 16 + 1) % 4 ∧ s.domOn (64 + c) = true ∧ s.flag CLU_CTL.XSTEAL_EN c = true ∧
    s.farVictim q c = some v ∧ ((s.stealable q v).filter fun e => e.task.migratable).getLast? = some e) ∧
    (∃ (t : TileIx) (s : State), s.domOn t = true ∧ s.quantumDue t = true) ∧
    (∃ (t : TileIx) (s : State), s.domOn t = true ∧ s.preemptDue t = true ∧ ((s.beginDrain t).tile t).drained = false) ∧
    (∃ (t : TileIx) (s : State) (k : Task) (j : Nat) (x : Job), s.domOn t = true ∧ s.preemptDue t = false ∧ (s.tile t).task = some
    k ∧ s.taskJob t = some (j, x) ∧ (s.tile t).state = .save ∧ (s.tile t).slot = none ∧ (s.tile t).drained = true ∧ (s.tile
    t).halting = false) ∧
    (∃ (t : TileIx) (s : State) (k : Task) (d : Nat) (j : Nat) (x : Job) (u : State) (v : State), s.domOn t = true ∧ (s.tile
    t).task = some k ∧ (s.tile t).slot = some d ∧ s.taskJob t = some (j, x) ∧ (s.tile t).state = .save ∧ (s.tile t).halting =
    false ∧ ((s.tile t).reqs.any fun r => !r.remote) = false ∧ (s.cairnBody x.ptn t (s.tile t)).2.put x.ptn (s.slotAt x.ptn t
    d + 256) (s.cairnBody x.ptn t (s.tile t)).1 = (.ok (), u) ∧ u.put x.ptn (s.slotAt x.ptn t d) ((s.cairnBody x.ptn t (s.tile
    t)).2.cairnHeader t (s.tile t) k x 1 (s.slotSize x.ptn) (crc32c (s.cairnBody x.ptn t (s.tile t)).1)) = (.ok (), v)) ∧
    (∃ (t : TileIx) (s : State) (e : QEntry) (d : Nat) (rest : List QEntry) (x : Job), s.domOn t = true ∧ (s.tile t).task = none ∧
    s.tileServes t = true ∧ (s.tile t).queue = e :: rest ∧ e.slot = some d ∧ s.job? e.task.job = some x) ∧
    (∃ (t : TileIx) (s : State) (k : Task) (d : Nat) (j : Nat) (x : Job) (c : Cairn) (bs : List Byte) (u : State) (v : State) (w :
    State), s.domOn t = true ∧ (s.tile t).task = some k ∧ (s.tile t).slot = some d ∧ s.taskJob t = some (j, x) ∧ (s.tile
    t).state = .restore ∧ (s.tile t).halting = false ∧ s.loadImage t x.ptn k.job (x.program k.fallback).1 k.fallback
    (x.program k.fallback).2 = (some u, w) ∧ u.cairns.find? (t * 8 + d) = some c ∧ u.vRead x.ptn (u.slotAt x.ptn t d)
    (u.slotSize x.ptn) = (.ok bs, v)) ∧
    (∃ (s : State) (src : PtnIx), src.val = s.manager) ∧
    (∃ (t : TileIx) (s : State) (x : Slice) (k : Task), (s.slices.find? fun x => x.waiter == t.val) = some x ∧ s.sliceSpent x =
    true ∧ s.waitTask x = some k) ∧
    (∃ (u : Fin 128), u.val < 64) ∧
    (∃ (p : PtnIx) (s : State) (c : ClusterIx) (i : Fin 1024), s.semOwner c i = some p.val ∧ s.domOn (64 + c) = true) ∧
    (∃ (s : State) (src : PtnIx) (c : ClusterIx), src.val = s.manager ∧ s.domOn (64 + c) = true) ∧
    (∃ (p : PtnIx) (s : State), p.val ∈ s.job.closing) :=
  ⟨⟨0, State.reset, by decide +kernel⟩,
    ⟨0, State.reset, 0, by decide +kernel⟩,
    ⟨0, put State.reset [(PTN_CFG.EN, 1, 0, 0)], 0, by decide +kernel⟩,
    ⟨0, waitingOn 1 entry0, 0, 1, entry0, by decide +kernel⟩,
    ⟨0, waitingOn 16 entry1, 0, 16, 1, entry1, by decide +kernel⟩,
    ⟨0, tile { task := some task0, queue := [entry0] }, by decide +kernel⟩,
    ⟨0, busy { task := some task0, state := .run, sliceEnd := true, running := [mop 3] }, by decide +kernel⟩,
    ⟨0, busy { task := some task0, state := .save }, task0, 5, job0, by decide +kernel⟩,
    ⟨0, savingTo, task0, 0, 5, job0, witness_save.choose, witness_save.choose_spec.choose, by decide +kernel, by decide +kernel,
      by decide +kernel, by decide +kernel, by decide +kernel, by decide +kernel, by decide +kernel,
      witness_save.choose_spec.choose_spec.1, witness_save.choose_spec.choose_spec.2⟩,
    ⟨0, busyMapped { queue := [{ entry0 with slot := some 0 }] }, { entry0 with slot := some 0 }, 0, [], job0, by decide +kernel,
      by decide +kernel, by decide +kernel, by decide +kernel, by decide +kernel, by decide +kernel⟩,
    partitionCommandsComplete_clause_11,
    ⟨State.reset, 0, by decide +kernel⟩,
    ⟨0, { tile { task := some task0 } with slices := [slice0], atu := { sec := 400000000 } }, slice0, task0, by decide +kernel⟩,
    ⟨63, by decide +kernel⟩,
    ⟨0, put (on [64]) [(PTN_SEM.V, 1, 0, 0), (PTN_CFG.EN, 1, 0, 0)], 0, 0, by decide +kernel⟩,
    ⟨on [64], 0, 0, by decide +kernel⟩,
    ⟨0, { State.reset with job := { closing := [0] } }, by decide +kernel⟩⟩

theorem witness_DigestCommandsComplete :
    (∃ (p : PtnIx) (s : State) (j : Nat) (x : Job) (u : State), s.allocNext p = some (j, x) ∧ s.flag DGT_SCR_CFG.EN p = true ∧
    x.flag 1 = false ∧ digestNeed x 0 ≤ 2 ^ s.fld DGT_SCR_CFG.LOG2SIZE p ∧ s.allocate j x (digestNeed x 0) = some u) ∧
    (∃ (s : State) (j : Nat) (x : Job) (d : DgtJob), s.job? j = some x ∧ s.dgt? j = some d ∧ x.phase = .draining ∧ x.endTs.isSome
    = true ∧ x.flag 0 = true ∧ x.status < 0x10 ∧ d.digestDone = false ∧ d.conflict x.inCount x.outCount = none) ∧
    (∃ (s : State) (j : Nat) (x : Job) (d : DgtJob), s.job? j = some x ∧ s.dgt? j = some d ∧ d.complete = true ∧ d.compared =
    false) ∧
    (∃ (s : State) (j : Nat) (x : Job) (d : DgtJob), s.job? j = some x ∧ s.dgt? j = some d ∧ d.endSent = true ∧ d.compared = false
    ∧ s.passed d.endAt (s.ropeTicks x.ptn) = true) ∧
    (∃ (s : State) (m : HeldPkt), s.dgt.held.find? s.orphan = some m) ∧
    (∃ (p : PtnIx) (s : State), p.val = s.manager) :=
  ⟨⟨0, jobs (put State.reset [(DGT_SCR_CFG.EN, 1, 0, 0)]) jobA, 5, jobA, _, by decide +kernel, by decide +kernel,
      by decide +kernel, by decide +kernel, some_eq (by decide +kernel)⟩,
    ⟨dgt { area := (0, 0) } jobD, 5, jobD, { area := (0, 0) }, by decide +kernel⟩,
    ⟨dgt { area := (0, 0), endSent := true, endGot := some 0 } job0, 5, job0,
      { area := (0, 0), endSent := true, endGot := some 0 }, by decide +kernel⟩,
    ⟨late (dgt { area := (0, 0), endSent := true, endGot := some 0 } job0), 5, job0,
      { area := (0, 0), endSent := true, endGot := some 0 }, by decide +kernel⟩,
    ⟨{ State.reset with dgt := { held := [held0] } }, held0, by decide +kernel⟩,
    ⟨0, State.reset, by decide +kernel⟩⟩

theorem witness_KernelCommandsComplete :
    (∃ (t : TileIx) (s : State) (r : KRun) (r' : KRun), (s.tile t).krun = some r ∧ r.row < (KDesc.ofWords r.desc).count ∧
    ((s.kernelRow t r).tile t).krun = some r') ∧
    (∃ (t : TileIx) (s : State) (r : KRun), (s.tile t).krun = some r ∧ (KDesc.ofWords r.desc).count ≤ r.row) ∧
    (∃ (t : TileIx) (s : State) (p : PtnIx), s.domOn t = true ∧ s.ownsTile p t = true ∧ s.ptnOn p = true ∧ (s.tile t).state =
    .idle) ∧
    (∃ (t : TileIx) (s : State) (p : PtnIx), s.domOn t = true ∧ s.ownsTile p t = true ∧ s.ptnOn p = true) :=
  ⟨⟨0, tile { krun := some krun0 }, krun0, _, by decide +kernel, by decide +kernel, some_eq (by decide +kernel)⟩,
    ⟨0, tile { krun := some { krun0 with row := 1 } }, { krun0 with row := 1 }, by decide +kernel⟩,
    ⟨0, waitingOn 1 entry0, 0, by decide +kernel⟩,
    ⟨0, waitingOn 1 entry0, 0, by decide +kernel⟩⟩

theorem streamCommandsComplete_clause_2 :
    ∃ (t : TileIx) (s : State) (d : BitVec 8) (i : Inst) (k : Nat) (j : Nat) (x : Job) (bs : List Byte) (u : State), s.streamWorks
    t = true ∧ (s.tile t).insts.find? d.toNat = some i ∧ s.taskJob t = some (j, x) ∧ i.state = .active ∧ (s.tile t).stopped =
    false ∧ i.nextFetch false = some (k, none) ∧ x.suppliedEntry i.listSrc false false = none ∧ s.migratedFetch t x.ptn
    ((i.listBase x false + 32 * (i.first + k)) % 2 ^ 48) = false ∧ s.vRead x.ptn ((i.listBase x false + 32 * (i.first + k)) %
    2 ^ 48) 32 = (.ok bs, u) :=
  ⟨0, busyMapped { task := some task0, state := .run, insts := ⟨[(3, inst1)]⟩ }, 3, inst1, 0, 5, job0, _, _, by decide +kernel,
      by decide +kernel, by decide +kernel, by decide +kernel, by decide +kernel, by decide +kernel, by decide +kernel,
      by decide +kernel, ok_eq [] (by decide +kernel)⟩

theorem streamCommandsComplete_clause_3 :
    ∃ (t : TileIx) (s : State) (out : Bool) (isOut : Bool) (d : Nat) (i : Inst) (f : Form) (b : Block) (u : State) (ga : Nat)
    (cache : Nat), s.streamWorks t = true ∧ (s.tile t).reqs.length < 256 ∧ s.turn t out = some (d, i, f, isOut) ∧ i.ins.find?
    f.blk = some b ∧ f.fault = none ∧ ((s.tile t).reqs.find? fun r => decide (r.mark = .dropped)) = none ∧ s.translate
    (s.taskPtn t) f.far (isOut || i.dir == 1 || b.kind == 2) = (.ok (ga, cache), u) ∧ u.migratedBad t ga = false ∧ (b.kind ≠ 2
    ∨ atomicTarget ga = true) :=
  ⟨0, busyMapped { task := some task0, state := .run, insts := ⟨[(3, inst2)]⟩ }, false, false, 3, inst2, form2, block2, _, _, _,
      by decide +kernel, by decide +kernel, by decide +kernel, by decide +kernel, by decide +kernel, by decide +kernel, ok_eq
      (0, 0) (by decide +kernel), by decide +kernel, by decide +kernel⟩

theorem streamCommandsComplete_clause_4 :
    ∃ (t : TileIx) (s : State) (id : Nat) (err : MemErr) (r : SReq) (bs : List Byte) (u : State), s.domOn t = true ∧ s.localReq t
    id = some r ∧ s.awaitsHost r = false ∧ s.streamAccess (s.taskPtn t) r err = (u, .ok bs) :=
  ⟨0, busyMapped { reqs := [req0] }, 7, .none, req0, _, _, by decide +kernel, by decide +kernel, by decide +kernel, access_eq
      (by decide +kernel)⟩

theorem witness_StreamCommandsComplete :
    (∃ (t : TileIx) (s : State) (d : Nat) (i : Inst), s.streamWorks t = true ∧ (s.tile t).activeInsts < 16 ∧ (s.tile t).stopped =
    false ∧ minBy (fun (r : Nat × Inst) => r.2.order) ((s.tile t).insts.rows.filter fun r => r.2.state == .queued) = some (d,
    i)) ∧
    (∃ (t : TileIx) (s : State) (d : BitVec 8) (i : Inst) (k : Nat) (j : Nat) (x : Job) (bs : List Byte) (u : State),
    s.streamWorks t = true ∧ (s.tile t).insts.find? d.toNat = some i ∧ s.taskJob t = some (j, x) ∧ i.state = .active ∧ (s.tile
    t).stopped = false ∧ i.nextFetch false = some (k, none) ∧ x.suppliedEntry i.listSrc false false = none ∧ s.migratedFetch t
    x.ptn ((i.listBase x false + 32 * (i.first + k)) % 2 ^ 48) = false ∧ s.vRead x.ptn ((i.listBase x false + 32 * (i.first +
    k)) % 2 ^ 48) 32 = (.ok bs, u)) ∧
    (∃ (t : TileIx) (s : State) (out : Bool) (isOut : Bool) (d : Nat) (i : Inst) (f : Form) (b : Block) (u : State) (ga : Nat)
    (cache : Nat), s.streamWorks t = true ∧ (s.tile t).reqs.length < 256 ∧ s.turn t out = some (d, i, f, isOut) ∧ i.ins.find?
    f.blk = some b ∧ f.fault = none ∧ ((s.tile t).reqs.find? fun r => decide (r.mark = .dropped)) = none ∧ s.translate
    (s.taskPtn t) f.far (isOut || i.dir == 1 || b.kind == 2) = (.ok (ga, cache), u) ∧ u.migratedBad t ga = false ∧ (b.kind ≠ 2
    ∨ atomicTarget ga = true)) ∧
    (∃ (t : TileIx) (s : State) (id : Nat) (err : MemErr) (r : SReq) (bs : List Byte) (u : State), s.domOn t = true ∧ s.localReq t
    id = some r ∧ s.awaitsHost r = false ∧ s.streamAccess (s.taskPtn t) r err = (u, .ok bs)) ∧
    (∃ (t : TileIx) (s : State) (f : Fence) (fs : List Fence), s.domOn t = true ∧ (s.tile t).fences = f :: fs ∧ f.implicit = false
    ∧ (s.tile t).stopped = false ∧ (s.tile t).fenceDone f = true) ∧
    (∃ (t : TileIx) (s : State) (b : CrcBlk) (rest : List CrcBlk), s.domOn t = true ∧ (s.tile t).crcFeed = none ∧ (s.tile
    t).crcQueue = b :: rest) ∧
    (∃ (t : TileIx) (s : State) (b : CrcBlk), s.domOn t = true ∧ (s.tile t).crcFeed = some b ∧ (s.tile t).crcWrites = [] ∧ s.fld
    CRC_CFG.CMP t = 0) :=
  ⟨⟨0, busy { task := some task0, state := .run, insts := ⟨[(3, { inst1 with state := .queued })]⟩ }, 3,
      { inst1 with state := .queued }, by decide +kernel⟩,
    streamCommandsComplete_clause_2,
    streamCommandsComplete_clause_3,
    streamCommandsComplete_clause_4,
    ⟨0, busy { fences := [fence0] }, fence0, [], by decide +kernel⟩,
    ⟨0, busy { crcQueue := [crc0] }, crc0, [], by decide +kernel⟩,
    ⟨0, busy { crcFeed := some crc0 }, crc0, by decide +kernel⟩⟩

theorem codingCommandsComplete_clause_5 :
    ∃ (s : State) (u : Fin 4) (c : Codec) (x : Job) (llrs : List Byte) (v : State) (w : State), s.coding.polar.find? u = some c ∧
    s.job? c.job = some x ∧ x.phase = .running ∧ c.wait = false ∧ s.vRead x.ptn (x.inBlks.getD 0 (0, 0)).1 (x.inBlks.getD 0
    (0, 0)).2 = (.ok llrs, v) ∧ (if ((x.uciSegs llrs).all fun g => g.pass) then v.put x.ptn (x.outBlks.getD 0 (0, 0)).1
    (packBits ((x.par 4 2 + 7) / 8) (((x.uciSegs llrs).flatMap fun g => g.bits).drop (((x.uciSegs llrs).flatMap fun g =>
    g.bits).length - x.par 4 2))) else (.ok (), v)) = (.ok (), w) :=
  ⟨coding mapped (jobOf 4 0x10000) { polar := ⟨[(0, { job := 5 })]⟩ }, 0, { job := 5 }, jobOf 4 0x10000, _, _, _,
      by decide +kernel, by decide +kernel, by decide +kernel, by decide +kernel, ok_eq [] (by decide +kernel), done_eq (by
      split <;> rfl)⟩

theorem codingCommandsComplete_clause_7 :
    ∃ (s : State) (u : Fin 8) (c : Codec) (x : Job) (bs : List Byte) (v : State) (w : State), s.coding.enc.find? u = some c ∧
    s.job? c.job = some x ∧ x.phase = .running ∧ c.wait = false ∧ s.vRead x.ptn (x.inBlks.getD 0 (0, 0)).1 (x.inBlks.getD 0
    (0, 0)).2 = (.ok bs, v) ∧ v.put x.ptn (x.outBlks.getD 0 (0, 0)).1 (packBits (x.outBlks.getD 0 (0, 0)).2 (x.encodeBits
    ((unpackBits bs).take x.parA))) = (.ok (), w) :=
  ⟨coding mapped (jobOf 5 0) { enc := ⟨[(0, { job := 5 })]⟩ }, 0, { job := 5 }, jobOf 5 0, _, _, _, by decide +kernel,
      by decide +kernel, by decide +kernel, by decide +kernel, ok_eq [] (by decide +kernel), done_eq (by rfl)⟩

theorem witness_CodingCommandsComplete :
    (∃ (s : State) (d : Fin 16) (j : Nat) (x : Job) (b : CodeBlk), s.codingOn = true ∧ s.flag DEC_CTL.EN = true ∧ s.ldServes d =
    true ∧ s.fld DEC_LMAP.STATE d ≠ 3 ∧ s.coding.ld.find? d = none ∧ s.firstJob (s.ldJobs d) = some (j, x) ∧ s.nextBlock j x =
    some b) ∧
    (∃ (s : State) (d : Fin 16) (b : CodeBlk) (x : Job) (llrs : List (List Byte)) (reg : List Byte) (y : List Int × Nat × Nat ×
    Nat), s.coding.ld.find? d = some b ∧ s.job? b.job = some x ∧ b.wait = false ∧ b.comb = none ∧ x.phase = .running ∧ b.input
    = some (llrs, reg) ∧ x.combine llrs reg = some y ∧ x.harq = false) ∧
    (∃ (s : State) (d : Fin 16) (b : CodeBlk) (x : Job), s.coding.ld.find? d = some b ∧ s.job? b.job = some x ∧ x.phase = .running
    ∧ b.wait = false ∧ b.comb.isSome = true) ∧
    (∃ (s : State) (u : Fin 4) (j : Nat) (x : Job), s.codingOn = true ∧ s.flag DEC_CTL.EN = true ∧ bit (s.fld DEC_STAT.POLAR_RET)
    u = false ∧ s.coding.polar.find? u = none ∧ s.codecJob 4 1 = some (j, x)) ∧
    (∃ (s : State) (u : Fin 4) (c : Codec) (x : Job) (llrs : List Byte) (v : State) (w : State), s.coding.polar.find? u = some c ∧
    s.job? c.job = some x ∧ x.phase = .running ∧ c.wait = false ∧ s.vRead x.ptn (x.inBlks.getD 0 (0, 0)).1 (x.inBlks.getD 0
    (0, 0)).2 = (.ok llrs, v) ∧ (if ((x.uciSegs llrs).all fun g => g.pass) then v.put x.ptn (x.outBlks.getD 0 (0, 0)).1
    (packBits ((x.par 4 2 + 7) / 8) (((x.uciSegs llrs).flatMap fun g => g.bits).drop (((x.uciSegs llrs).flatMap fun g =>
    g.bits).length - x.par 4 2))) else (.ok (), v)) = (.ok (), w)) ∧
    (∃ (s : State) (u : Fin 8) (j : Nat) (x : Job), s.codingOn = true ∧ s.flag ENC_CTL.EN = true ∧ bit (s.fld ENC_STAT.RETIRED) u
    = false ∧ s.coding.enc.find? u = none ∧ s.codecJob 5 0 = some (j, x)) ∧
    (∃ (s : State) (u : Fin 8) (c : Codec) (x : Job) (bs : List Byte) (v : State) (w : State), s.coding.enc.find? u = some c ∧
    s.job? c.job = some x ∧ x.phase = .running ∧ c.wait = false ∧ s.vRead x.ptn (x.inBlks.getD 0 (0, 0)).1 (x.inBlks.getD 0
    (0, 0)).2 = (.ok bs, v) ∧ v.put x.ptn (x.outBlks.getD 0 (0, 0)).1 (packBits (x.outBlks.getD 0 (0, 0)).2 (x.encodeBits
    ((unpackBits bs).take x.parA))) = (.ok (), w)) ∧
    (∃ (s : State) (p : PtnIx) (src : PtnIx) (v : Word), src.val = s.manager ∧ s.codingOn = true ∧ (∀ q, q < 16 → q ≠ p.val →
    s.ded q &&& (v.toNat % 65536) = 0)) ∧
    (∃ (s : State) (src : PtnIx), src.val = s.manager ∧ s.codingOn = true) :=
  ⟨⟨coding (put State.reset [(DEC_CTL.EN, 1, 0, 0), (DEC_PSHARE.DED, 1, 0, 0)]) (jobNew 4 0) {}, 0, 5, jobNew 4 0, block0,
      by decide +kernel⟩,
    ⟨coding State.reset (jobOf 4 0) { ld := ⟨[(0, block1)]⟩ }, 0, block1, jobOf 4 0, [], [], _, by decide +kernel,
      by decide +kernel, by decide +kernel, by decide +kernel, by decide +kernel, by decide +kernel, some_eq
      (by decide +kernel), by decide +kernel⟩,
    ⟨coding State.reset (jobOf 4 0) { ld := ⟨[(0, { block0 with comb := some ([], 0, 0) })]⟩ }, 0,
      { block0 with comb := some ([], 0, 0) }, jobOf 4 0, by decide +kernel⟩,
    ⟨coding (put State.reset [(DEC_CTL.EN, 1, 0, 0)]) (jobNew 4 0x10000) {}, 0, 5, jobNew 4 0x10000, by decide +kernel⟩,
    codingCommandsComplete_clause_5,
    ⟨coding (put State.reset [(ENC_CTL.EN, 1, 0, 0)]) (jobNew 5 0) {}, 0, 5, jobNew 5 0, by decide +kernel⟩,
    codingCommandsComplete_clause_7,
    ⟨State.reset, 0, 0, 0xFFFF, by decide +kernel⟩,
    ⟨State.reset, 0, by decide +kernel⟩⟩

theorem witness_GatherCommandsComplete :
    (∃ (s : State) (p : PtnIx) (j : Nat) (c : Nat) (x : Job), (s.firstJob (s.jobList.filter fun r => r.2.ptn == p && r.2.cls == 6
    && s.eligible r.1 r.2 && !(s.gatherEngines r.2).isEmpty)) = some (j, x) ∧ minBy s.gathersOn (s.gatherEngines x) = some c) ∧
    (∃ (s : State) (c : ClusterIx) (j : Nat) (u : GUnit) (x : Job), s.domOn (64 + c) = true ∧ (s.issueRows c 512).gatherTurn c 0 =
    some (j, u) ∧ (s.issueRows c 512).job? j = some x ∧ u.ready = true ∧ u.opened = true ∧ u.todo ≠ [] ∧ u.flight ≠ 0 ∧
    (s.issueRows c 512).flag JOB_PQ_STAT.QUIESCED x.ptn = false) ∧
    (∃ (s : State) (c : ClusterIx) (j : Nat) (u : GUnit) (x : Job), s.domOn (64 + c) = true ∧ (s.issueRows c 512).gatherTurn c 1 =
    some (j, u) ∧ (s.issueRows c 512).job? j = some x ∧ u.ready = true) ∧
    (∃ (s : State) (c : ClusterIx) (src : PtnIx), src.val = s.manager ∧ s.domOn (64 + c) = true) :=
  ⟨⟨jobs (put (on [64]) [(GTH_CTL.EN, 1, 0, 0)]) (jobNew 6 (2 ^ 40)), 0, 5, 0, jobNew 6 (2 ^ 40), by decide +kernel⟩,
    ⟨gather (jobOf 6 0) { clu := 0, ready := true, opened := true, todo := [(0, 0)], flight := 1 }, 0, 5,
      { clu := 0, ready := true, opened := true, todo := [(0, 0)], flight := 1 }, jobOf 6 0, by decide +kernel⟩,
    ⟨gather (jobOf 6 0x10000) { clu := 0, ready := true }, 0, 5, { clu := 0, ready := true }, jobOf 6 0x10000, by decide +kernel⟩,
    ⟨on [64], 0, 0, by decide +kernel⟩⟩

theorem witness_UplinkCommandsComplete :
    (∃ (s : State) (port : PortIx) (frame : List Byte) (payload : List Byte) (m : EMsg) (h : UHead) (c : Nat) (a : Nat), s.domOn
    74 = true ∧ s.flag FHE_RX_CTL.EN = true ∧ frameLenOk frame.length = true ∧ ecpriOf (s.fld FHE_RX_CTL.UDP_PORT) frame =
    some payload ∧ ecpriMessages (payload.length / 4 + 1) payload = some [m] ∧ uHead m.body = some h ∧ s.eaxc m.pcid = some
    (c, a) ∧ s.portStopped 0 port (s.fld FHE_CRX_PTN.PTN c) = false ∧ h.filter = 0 ∧ s.flag FHE_CRX_CFG.EN c = true ∧ s.cellOn
    c = true ∧ (s.uPlace c ((s.now : Int) - corrUnits (s.reg ATU_PORT_IGR port)) h).isSome = true ∧ s.fhHeld + frame.length ≤
    fhBufSize) ∧
    (∃ (s : State) (c : Fin 96) (b : Fin 8) (x : RxCell) (n : Int), s.rxCell? c = some x ∧ x.next.find? b = some n ∧ s.rxOn c =
    true ∧ s.rxOpenAt c n 0 ≤ (s.now : Int)) ∧
    (∃ (s : State) (c : Fin 96) (x : RxCell) (b : RxSlot), s.rxCell? c = some x ∧ (x.slots.find? fun b => decide (b.closed <
    (s.cellGrid c).symsPerSlot)) = some b ∧ s.rxOn c = true ∧ s.rxCloseAt c b.slot b.closed ≤ (s.now : Int)) ∧
    (∃ (s : State) (j : Nat) (x : Job), s.job? j = some x ∧ x.cls = 0 ∧ x.phase = .running ∧ x.air.judged = false ∧ s.watermark x
    ≤ (s.now : Int) ∧ x.air.fbDue = false ∧ x.pendMask ≠ 0) ∧
    (∃ (s : State) (j : Nat) (x : Job), s.job? j = some x ∧ x.phase = .running ∧ x.air.fbDue = true ∧ x.air.fbTs = none ∧
    x.air.judged = true ∧ s.fbTiles x ≠ []) ∧
    (∃ (s : State) (src : PtnIx) (c : Fin 96), s.domOn 74 = true ∧ src.val = s.fld FHE_CRX_PTN.PTN c ∧ s.flag FHE_CRX_CFG.EN c =
    false) ∧
    (∃ (s : State) (src : PtnIx), src.val = s.manager ∧ s.domOn 74 = true) :=
  ⟨⟨rxState (on [74]) {}, 0, frame0, frame0.drop 14, { pcid := 0, seq := 0, body := [0x10, 0, 0, 0] }, ⟨0, 0, 0, 0, 0⟩, 0, 0,
      by decide +kernel⟩,
    ⟨rxState State.reset { next := ⟨[(0, -100)]⟩ }, 0, 0, { next := ⟨[(0, -100)]⟩ }, -100, by decide +kernel⟩,
    ⟨rxState State.reset { slots := [{ slot := -100 }] }, 0, { slots := [{ slot := -100 }] }, { slot := -100 }, by decide +kernel⟩,
    ⟨jobs State.reset (jobAir { units := [unit0] }), 5, jobAir { units := [unit0] }, by decide +kernel⟩,
    ⟨jobs (on [0]) (jobAir { fbDue := true, judged := true, tiles := [0] }), 5, jobAir
      { fbDue := true, judged := true, tiles := [0] }, by decide +kernel⟩,
    ⟨on [74], 0, 0, by decide +kernel⟩,
    ⟨on [74], 0, by decide +kernel⟩⟩

theorem witness_DownlinkCommandsComplete :
    (∃ (n : Fin 96) (b : Fin 8) (s : State) (x : TxBuf), s.txBuf? n b = some x ∧ s.txOn n = true ∧ x.uClosed = 2 ^ (s.cellGrid
    n).symsPerSlot - 1) ∧
    (∃ (n : Fin 96) (b : Fin 8) (s : State) (x : TxBuf), s.txBuf? n b = some x ∧ s.txOn n = true ∧ x.cOpen = false ∧ s.cOpenAt n
    x.slot ≤ s.txNow n) ∧
    (∃ (n : Fin 96) (b : Fin 8) (s : State) (x : TxBuf) (sym : Nat), s.txBuf? n b = some x ∧ firstFrom (fun k => !bit x.uOpen k) 0
    (s.cellGrid n).symsPerSlot = some sym ∧ s.txOn n = true ∧ s.uOpenAt n x.slot sym ≤ s.txNow n) ∧
    (∃ (n : Fin 96) (b : Fin 8) (s : State), s.txOn n = true ∧ (s.txBuf? n b).isSome = true) ∧
    (∃ (n : Fin 96) (b : Fin 8) (s : State) (x : TxBuf), s.txBuf? n b = some x ∧ s.txOn n = true ∧ x.cOpen = true ∧ x.cClosed =
    false ∧ s.cCloseAt n x.slot ≤ s.txNow n) ∧
    (∃ (n : Fin 96) (b : Fin 8) (s : State) (x : TxBuf) (sym : Nat), s.txBuf? n b = some x ∧ firstFrom (fun k => !bit x.uClosed k)
    0 (s.cellGrid n).symsPerSlot = some sym ∧ s.txOn n = true ∧ s.uCloseAt n x.slot sym ≤ s.txNow n) ∧
    (∃ (n : Fin 96) (s : State) (src : PtnIx), s.domOn 74 = true ∧ src.val = s.fld FHE_CTX_PTN.PTN n ∧ s.flag FHE_CTX_CFG.EN n =
    false) ∧
    (∃ (s : State) (src : PtnIx), src.val = s.manager ∧ s.domOn 74 = true) :=
  ⟨⟨0, 0, txState { slot := 0, uClosed := 16383, cClosed := true }, { slot := 0, uClosed := 16383, cClosed := true },
      by decide +kernel⟩,
    ⟨0, 0, txState { slot := -100 }, { slot := -100 }, by decide +kernel⟩,
    ⟨0, 0, txState { slot := -100 }, { slot := -100 }, 0, by decide +kernel⟩,
    ⟨0, 0, txState { slot := 0 }, by decide +kernel⟩,
    ⟨0, 0, txState { slot := -100, cOpen := true }, { slot := -100, cOpen := true }, by decide +kernel⟩,
    ⟨0, 0, txState { slot := -100 }, { slot := -100 }, 0, by decide +kernel⟩,
    ⟨0, on [74], 0, by decide +kernel⟩,
    ⟨on [74], 0, by decide +kernel⟩⟩

theorem witness_PrachCommandsComplete :
    (∃ (c : Fin 64) (s : State) (src : PtnIx), s.domOn (domainOf (PRA_CFG_CFG.addr c 0)) = true ∧ (src.val = s.praPtn c ∨ src.val
    = s.manager) ∧ s.flag PRA_CFG_CFG.EN c = false) ∧
    (∃ (c : Fin 64) (s : State) (x : PraCfg) (o : Occasion) (v : State), s.pra.find? c = some x ∧ x.next = some o ∧ s.flag
    PRA_CTL.EN = true ∧ s.praCloseAt c o ≤ (s.now : Int) ∧ (s.praOverrun c (x.blocks % nbufOf (s.fld PRA_CFG_PAT.NBUF c))
    x).put ((s.praOverrun c (x.blocks % nbufOf (s.fld PRA_CFG_PAT.NBUF c)) x).praPtn c) ((s.praOverrun c (x.blocks % nbufOf
    (s.fld PRA_CFG_PAT.NBUF c)) x).candAt c (x.blocks % nbufOf (s.fld PRA_CFG_PAT.NBUF c))) (s.candBlock c o ((x.open'.find?
    fun d => decide (d.occ = o)).getD { occ := o }) (x.srch.isNone || x.lostAt.any fun t => decide (s.praOpenAt c o ≤ (t :
    Int)))).1 = (.ok (), v)) ∧
    (∃ (s : State) (src : PtnIx), src.val = s.manager ∧ s.domOn (domainOf PRA_CTL.base) = true) :=
  ⟨⟨0, on [74], 0, by decide +kernel⟩,
    ⟨0, praState, pra0, occ0, _, by decide +kernel, by decide +kernel, by decide +kernel, by decide +kernel, done_eq (by rfl)⟩,
    ⟨on [74], 0, by decide +kernel⟩⟩

theorem witness_MemoryCommandsComplete :
    (∃ (s : State) (q : Fin 128), s.domOn (68 + q / 32) = true) ∧
    (∃ (s : State) (q : Fin 128) (temp : BitVec 8) (rate : Fin 3), s.domOn (68 + q / 32) = true ∧ ((s.settleErrs.setFld
    HBM_STAT.TEMP temp.toNat (q / 32)).setFld HBM_STAT.RATE rate (q / 32)).mmu.postponed.getD q 0 < 3) ∧
    (∃ (s : State) (q : Fin 128) (temp : BitVec 8) (rate : Fin 3), s.domOn (68 + q / 32) = true ∧ 3 ≤ ((s.settleErrs.setFld
    HBM_STAT.TEMP temp.toNat (q / 32)).setFld HBM_STAT.RATE rate (q / 32)).mmu.postponed.getD q 0) ∧
    (∃ (p : PtnIx) (s : State) (k : Fin 4), p.val = s.manager ∧ s.domOn (68 + k) = true) ∧
    (∃ (s : State) (k : Fin 4), s.domOn (68 + k) = true ∧ s.flag HBM_CTL.EN k = true ∧ s.flag HBM_STAT.TRAINED k = false) ∧
    (∃ (p : PtnIx) (s : State) (k : Fin 4), p.val = s.manager ∧ s.domOn (68 + k) = true ∧ s.flag HBM_CTL.EN k = true ∧ s.stackUsed
    k = false) ∧
    (∃ (p : PtnIx) (s : State) (r : FaultRec) (a : Nat), s.faultSlot p = some a ∧ (s.mmu.faults.find? fun r => r.ptn == p.val &&
    r.seq.isNone && (!r.wait || decide (s.unresolved p < 256))) = some r) ∧
    (∃ (p : PtnIx) (s : State) (src : PtnIx) (seq : BitVec 16) (r : FaultRec), s.mmuWriter src p = true ∧ s.faultOf p seq.toNat =
    some r) ∧
    (∃ (p : PtnIx) (s : State) (src : PtnIx), s.mmuWriter src p = true ∧ s.flag MMU_STAT.INV_BUSY p = false) ∧
    (∃ (p : PtnIx) (s : State) (page : Option Nat), s.mmu.inv.find? p = some page) ∧
    (∃ (p : PtnIx) (s : State) (src : PtnIx), s.mmuWriter src p = true ∧ s.flag MMU_FR_CFG.EN p = false) ∧
    (∃ (p : PtnIx) (s : State) (src : PtnIx), (src = p ∨ src.val = s.manager) ∧ s.mmu.maint = none) ∧
    (∃ (p : PtnIx) (s : State), s.mmu.maint = some p.val) :=
  ⟨⟨on [71], 127, by decide +kernel⟩,
    ⟨on [71], 127, 100, 0, by decide +kernel⟩,
    ⟨{ on [71] with mmu := { postponed := ⟨[(127, 3)]⟩ } }, 127, 100, 0, by decide +kernel⟩,
    ⟨0, on [71], 3, by decide +kernel⟩,
    ⟨put (on [71]) [(HBM_CTL.EN, 1, 3, 0)], 3, by decide +kernel⟩,
    ⟨0, put (on [71]) [(HBM_CTL.EN, 1, 3, 0)], 3, by decide +kernel⟩,
    ⟨0, faulting fault0, fault0, hbmBase, by decide +kernel⟩,
    ⟨0, faulting { fault0 with seq := some 7 }, 0, 7, { fault0 with seq := some 7 }, by decide +kernel⟩,
    ⟨0, State.reset, 0, by decide +kernel⟩,
    ⟨0, { State.reset with mmu := { inv := ⟨[(0, none)]⟩ } }, none, by decide +kernel⟩,
    ⟨0, State.reset, 0, by decide +kernel⟩,
    ⟨0, State.reset, 0, by decide +kernel⟩,
    ⟨0, { State.reset with mmu := { maint := some 0 } }, by decide +kernel⟩⟩

theorem linkCommandsComplete_clause_9 :
    ∃ (k : LinkIx) (s : State) (r : RxPkt) (u : State) (v : State), s.domOn 75 = true ∧ s.flag YAL_CTL.EN = true ∧ (s.takePacket k
    fun p => p.hops != 0) = some (r, u) ∧ (u.payCredits k r.pkt.vc r.flits).ingressStopped k r.pkt = false ∧ (u.payCredits k
    r.pkt.vc r.flits).forwardPacket r.pkt = some v :=
  ⟨0, here State.reset pHop, { pkt := pHop, flits := 1 }, _, _, by decide +kernel, by decide +kernel, rfl, by decide +kernel,
      some_eq (by decide +kernel)⟩

theorem witness_LinkCommandsComplete :
    (∃ (k : LinkIx) (src : PtnIx) (s : State), s.domOn 75 = true ∧ src.val = s.manager ∧
    (({ s with job := { s.job with stops := s.job.stops.filter fun x => !(x.kind == 1 && x.port == k.val && !x.halt) } } :
    State).releaseStopped).flag YAL_LINK_CTL.EN k = false ∧
    ((((({ s with job := { s.job with stops := s.job.stops.filter fun x => !(x.kind == 1 && x.port == k.val && !x.halt) } } :
    State).releaseStopped).linkCredits k).drop 1).take 6).all (· != 0) = true ∧
    (((({ s with job := { s.job with stops := s.job.stops.filter fun x => !(x.kind == 1 && x.port == k.val && !x.halt) } } :
    State).releaseStopped).linkCredits k).drop 1).foldl (· + ·) 0 ≤ 184) ∧
    (∃ (src : PtnIx) (s : State), s.domOn 75 = true ∧ src.val = s.manager) ∧
    (∃ (k : LinkIx) (s : State) (locked : BitVec 4), s.domOn 75 = true ∧ s.linkState k = linkTrain ∧ 3 ≤ popCount (locked.toNat
    &&& s.lanesOk k)) ∧
    (∃ (k : LinkIx) (s : State), s.domOn 75 = true ∧ s.linkState k = linkTrain ∧ s.passed (s.link k).since ticksPer100Ms = true) ∧
    (∃ (k : LinkIx) (src : PtnIx) (s : State), s.domOn 75 = true ∧ src.val = s.manager ∧ s.linkUsable k = true) ∧
    (∃ (k : LinkIx) (s : State) (locked : BitVec 4), s.domOn 75 = true ∧ s.linkState k = linkRetrain ∧ 3 ≤ popCount (locked.toNat
    &&& s.lanesOk k) ∧ s.lanesOk k &&& (15 - (locked.toNat &&& s.lanesOk k)) = 0) ∧
    (∃ (k : LinkIx) (s : State), s.domOn 75 = true ∧ s.linkState k = linkRetrain ∧ s.passed (s.link k).since (40 * ticksPerUs) =
    true) ∧
    (∃ (k : LinkIx) (s : State) (flit : List Byte) (fec : BitVec 4), s.domOn 75 = true ∧ flit.length = 256 ∧ s.linkUsable k = true
    ∧ (s.fecErrors k fec.toNat).linkUsable k = true) ∧
    (∃ (k : LinkIx) (s : State) (r : RxPkt) (u : State) (v : State), s.domOn 75 = true ∧ s.flag YAL_CTL.EN = true ∧ (s.takePacket
    k fun p => p.hops != 0) = some (r, u) ∧ (u.payCredits k r.pkt.vc r.flits).ingressStopped k r.pkt = false ∧ (u.payCredits k
    r.pkt.vc r.flits).forwardPacket r.pkt = some v) :=
  ⟨⟨0, 0, on [75], by decide +kernel⟩,
    ⟨0, on [75], by decide +kernel⟩,
    ⟨0, link0 linkTrain, 0b111, by decide +kernel⟩,
    ⟨0, late (link0 linkTrain), by decide +kernel⟩,
    ⟨0, 0, link0 linkUp, by decide +kernel⟩,
    ⟨0, link0 linkRetrain, 0b1111, by decide +kernel⟩,
    ⟨0, late (link0 linkRetrain), by decide +kernel⟩,
    ⟨0, link0 linkUp, List.replicate 256 0, 0, by decide +kernel⟩,
    linkCommandsComplete_clause_9⟩

theorem witness_BlackBoxCommandsComplete :
    (∃ (s : State) (k : Fin 8) (i : Nat), i < 256 ∧ s.bbx.levels.wf (fun _ => 0) = true ∧ s.passed (s.bbx.leakAt.getD k 0)
    (s.leakTicks k) = true) ∧
    (∃ (s : State) (c : ClusterIx) (n : Nat), s.repair.spareFor.find? c = some n) ∧
    (∃ (s : State) (t : TileIx), s.fld SYS_TMAP.STATE t = 3 ∧ (s.tile t).task = none ∧ s.repair.spareFor.find? (t / 16) = some
    t.val ∧ s.repair.copied.getD (t / 16) false = true) ∧
    (∃ (s : State) (t : TileIx), s.fld SYS_TMAP.STATE t = 3 ∧ (s.tile t).task = none ∧ s.repair.spareFor.find? (t / 16) ≠ some
    t.val) ∧
    (∃ (p : PtnIx) (s : State) (k : Fin 8) (i : BitVec 8), p.val = s.manager ∧ i.toNat < kindCount k ∧ s.isRetired k i.toNat =
    false ∧ k.val ≠ kPch) ∧
    (∃ (p : PtnIx) (s : State), p.val = s.manager) ∧
    (∃ (s : State) (n : Nat), s.bbx.op = some (.page n)) ∧
    (∃ (s : State) (n : Nat), s.bbx.op = some (.opening n)) ∧
    (∃ (s : State), s.bbx.live = true ∧ s.bbx.opening = none ∧ s.fld BBX_STAT.LOGEND = 4095) ∧
    (∃ (p : PtnIx) (s : State), s.bbx.live = true ∧ s.bbx.opening = none ∧ p.val = s.manager) :=
  ⟨⟨late State.reset, 0, 255, by decide +kernel⟩,
    ⟨{ State.reset with repair := { spareFor := ⟨[(0, 15)]⟩ } }, 0, 15, by decide +kernel⟩,
    ⟨{ put State.reset [(SYS_TMAP.STATE, 3, 0, 0)] with repair := { spareFor := ⟨[(0, 0)]⟩, copied := ⟨[(0, true)]⟩ } }, 0,
      by decide +kernel⟩,
    ⟨put State.reset [(SYS_TMAP.STATE, 3, 0, 0)], 0, by decide +kernel⟩,
    ⟨0, State.reset, 7, 15, by decide +kernel⟩,
    ⟨0, State.reset, by decide +kernel⟩,
    ⟨bbx { op := some (.page 1) }, 1, by decide +kernel⟩,
    ⟨bbx { op := some (.opening 0) }, 0, by decide +kernel⟩,
    ⟨(bbx { live := true }).setFld BBX_STAT.LOGEND 4095, by decide +kernel⟩,
    ⟨0, bbx { live := true }, by decide +kernel⟩⟩

theorem witness_DomainCommandsComplete :
    (∃ (p : PtnIx) (d : Fin 82) (s : State), p.val = s.manager ∧ s.domOn 79 = true ∧ s.power.stop = none ∧ s.domRefusal d true =
    none ∧ s.domState d = domOff) ∧
    (∃ (p : PtnIx) (d : Fin 82) (s : State), p.val = s.manager ∧ s.domOn 79 = true ∧ s.power.stop = none ∧ s.domRefusal d false =
    none ∧ s.domState d = domRun) ∧
    (∃ (d : Fin 82) (s : State), s.domState d = domDraining ∧ s.domBusy d = false ∧ d.val < 68) ∧
    (∃ (d : Fin 82) (s : State), s.domState d = domIsolating ∧ ((s.loseDomain d).setDom d domOff).flag PWR_DOM_STAT.PENDING_ON d =
    false) ∧
    (∃ (d : Fin 82) (s : State), s.domState d = domPowering) ∧
    (∃ (d : Fin 82) (s : State), s.domState d = domRestoring ∧ s.flag PWR_DOM_STAT.PENDING_OFF d = false) :=
  ⟨⟨0, 0, on [64], by decide +kernel⟩,
    ⟨0, 0, on [0], by decide +kernel⟩,
    ⟨67, dom 67 domDraining, by decide +kernel⟩,
    ⟨0, dom 0 domIsolating, by decide +kernel⟩,
    ⟨0, dom 0 domPowering, by decide +kernel⟩,
    ⟨0, dom 0 domRestoring, by decide +kernel⟩⟩

theorem witness_DomainRequestsWaitForTransitions :
    (∃ (p : PtnIx) (d : Fin 82) (s : State), p.val = s.manager ∧ s.domOn 79 = true ∧ s.power.stop = none ∧ s.domRefusal d true =
    none ∧ (s.domState d = domDraining ∨ s.domState d = domIsolating)) ∧
    (∃ (p : PtnIx) (d : Fin 82) (s : State), p.val = s.manager ∧ s.domOn 79 = true ∧ s.power.stop = none ∧ s.domRefusal d false =
    none ∧ (s.domState d = domPowering ∨ s.domState d = domRestoring)) ∧
    (∃ (p : PtnIx) (d : Fin 82) (s : State), p.val = s.manager ∧ s.domOn 79 = true ∧ s.power.stop = none ∧ s.domRefusal d true =
    none ∧ (s.domState d = domPowering ∨ s.domState d = domRestoring)) ∧
    (∃ (p : PtnIx) (d : Fin 82) (s : State), p.val = s.manager ∧ s.domOn 79 = true ∧ s.power.stop = none ∧ s.domRefusal d false =
    none ∧ (s.domState d = domDraining ∨ s.domState d = domIsolating)) ∧
    (∃ (d : Fin 82) (s : State), s.domState d = domIsolating ∧ ((s.loseDomain d).setDom d domOff).flag PWR_DOM_STAT.PENDING_ON d =
    true) ∧
    (∃ (d : Fin 82) (s : State), s.domState d = domRestoring ∧ (s.setDom d domRun).flag PWR_DOM_STAT.PENDING_OFF d = true) ∧
    (∃ st, (st = domRun ∨ st = domOff)) :=
  ⟨⟨0, 74, dom 74 domDraining, by decide +kernel⟩,
    ⟨0, 74, dom 74 domPowering, by decide +kernel⟩,
    ⟨0, 74, dom 74 domRestoring, by decide +kernel⟩,
    ⟨0, 74, dom 74 domIsolating, by decide +kernel⟩,
    ⟨0, (dom 0 domIsolating).setFld PWR_DOM_STAT.PENDING_ON 1, by decide +kernel⟩,
    ⟨0, (dom 0 domRestoring).setFld PWR_DOM_STAT.PENDING_OFF 1, by decide +kernel⟩,
    ⟨domOff, by decide +kernel⟩⟩

theorem witness_PowerCommandsComplete :
    (∃ (p : PtnIx) (s : State), p.val = s.manager ∧ s.domOn 79 = true) ∧
    (∃ (c : ClusterIx) (s : State) (x : OpStep), s.power.steps.find? c = some x) ∧
    (∃ (c : ClusterIx) (s : State) (x : OpStep), s.power.steps.find? c = some x ∧ (s.goesDown c x = false ∨ x.switched = true)) ∧
    (∃ (c : ClusterIx) (s : State) (x : OpStep), s.power.steps.find? c = some x ∧ x.reached = true ∧ s.passed x.reachedAt (s.fld
    CLK_VSETTLE.US * ticksPerUs) = true) ∧
    (∃ (s : State) (us10 : BitVec 16), s.domOn 79 = true ∧ 110 * (s.powerLimit) < 100 * us10.toNat) ∧
    (∃ (s : State), s.domOn 79 = true) ∧
    (∃ (s : State) (r : Fin 8) (mv : BitVec 16), s.power.sagLow = false ∧ s.sags r mv.toNat = true) ∧
    (∃ (s : State), s.power.sagLow = true ∧ s.passed s.power.sagAt (100 * ticksPerUs) = true) ∧
    (∃ (p : PtnIx) (s : State) (v : Word), p.val = s.manager ∧ s.domOn 79 = true ∧ 2 ≤ bits v.toNat 3 0 ∧ bits v.toNat 3 0 ≤ 8 ∧ 6
    ≤ bits v.toNat 11 8 ∧ bits v.toNat 11 8 ≤ 12 ∧ bits v.toNat 3 0 + 2 ≤ bits v.toNat 11 8) ∧
    (∃ (c : ClusterIx) (s : State) (temp : Word), 100 ≤ temp.toInt ∧ s.power.hot.getD c false = false) ∧
    (∃ (c : ClusterIx) (s : State), s.power.hot.getD c false = true ∧ ((s.power.thermAt.find? c).all fun t => s.passed t
    ticksPerMs) = true) ∧
    (∃ (s : State) (temp : Word), 115 ≤ temp.toInt ∧ s.power.tripLow = false) ∧
    (∃ (p : PtnIx) (s : State), p.val = s.manager ∧ s.domOn 79 = true ∧ s.power.stop = none ∧ s.power.stopDue = none) ∧
    (∃ (s : State) (temp : Word) (x : StopState), s.power.stop = some x ∧ x.entered = true ∧ s.flag OAS_CTL.ALARM_EN = true ∧
    s.power.rtc / 32768 = s.alarmAt ∧ (x.thermal = false ∨ temp.toInt < 95)) ∧
    (∃ (s : State) (temp : Word) (x : StopState), s.power.stop = some x ∧ x.entered = true ∧ x.alarmed = true ∧ temp.toInt < 95) ∧
    (∃ (r : Fin 4), r.val = 0) ∧
    (∃ (s : State) (r : Fin 4), r.val = 1 ∧ s.domOn 79 = true ∧ bit (s.fld CLK_STAT.LOSS) r = false) ∧
    (∃ (s : State) (r : Fin 4), r.val ≠ 0 ∧ bit (s.fld CLK_STAT.LOSS) r = true) ∧
    (∃ (s : State), s.boot.porst = false) ∧
    (∃ (s : State), s.boot.state = 0 ∧ s.boot.pll = false) :=
  ⟨⟨0, State.reset, by decide +kernel⟩,
    ⟨0, power State.reset { steps := ⟨[(0, { target := 1 })]⟩ }, { target := 1 }, by decide +kernel⟩,
    ⟨0, power State.reset { steps := ⟨[(0, { target := 1, switched := true })]⟩ }, { target := 1, switched := true },
      by decide +kernel⟩,
    ⟨0, late (power State.reset { steps := ⟨[(0, { target := 1, reached := true })]⟩ }), { target := 1, reached := true },
      by decide +kernel⟩,
    ⟨State.reset, 65535, by decide +kernel⟩,
    ⟨State.reset, by decide +kernel⟩,
    ⟨State.reset, 0, 0, by decide +kernel⟩,
    ⟨late (power State.reset { sagLow := true }), by decide +kernel⟩,
    ⟨0, State.reset, 0x602, by decide +kernel⟩,
    ⟨0, State.reset, 100, by decide +kernel⟩,
    ⟨0, power State.reset { hot := ⟨[(0, true)]⟩ }, by decide +kernel⟩,
    ⟨State.reset, 115, by decide +kernel⟩,
    ⟨0, State.reset, by decide +kernel⟩,
    ⟨power (put State.reset [(OAS_CTL.ALARM_EN, 1, 0, 0)]) { stop := some { keep := true, thermal := true, entered := true } },
      94, { keep := true, thermal := true, entered := true }, by decide +kernel⟩,
    ⟨power State.reset { stop := some { keep := true, thermal := true, entered := true, alarmed := true } }, 94,
      { keep := true, thermal := true, entered := true, alarmed := true }, by decide +kernel⟩,
    ⟨0, by decide +kernel⟩,
    ⟨State.reset, 1, by decide +kernel⟩,
    ⟨put State.reset [(CLK_STAT.LOSS, 2, 0, 0)], 1, by decide +kernel⟩,
    ⟨State.reset, by decide +kernel⟩,
    ⟨State.reset, by decide +kernel⟩⟩

theorem witness_RtcCounts :
    (∃ (s : State), s.power.rtc < 2 ^ 63) ∧
    (∃ (p : PtnIx) (s : State), p.val = s.manager) ∧
    (∃ (p : PtnIx) (s : State), p.val ≠ s.manager) :=
  ⟨⟨State.reset, by decide +kernel⟩,
    ⟨0, State.reset, by decide +kernel⟩,
    ⟨1, State.reset, by decide +kernel⟩⟩

theorem witness_BootCommandsComplete :
    (∃ (s : State), s.boot.state = 1 ∧ s.power.sagLow = false) ∧
    (∃ (s : State), s.boot.state = 1 ∧ s.passed s.boot.since (10 * ticksPerMs) = true) ∧
    (∃ (s : State) (n : Nat), s.boot.state = 2 ∧ s.power.sagLow = false ∧ n = field (s.flashRead 0x8008 4) 0 4 ∧ 256 ≤ n ∧ n ≤
    32768 ∧ n % 4 = 0) ∧
    (∃ (s : State), s.boot.state = 3 ∧ s.power.sagLow = false) ∧
    (∃ (s : State), s.boot.state = 4 ∧ s.power.sagLow = false) ∧
    (∃ (s : State), s.boot.state = 5 ∧ s.power.sagLow = false) ∧
    (∃ (s : State), s.boot.state = 6 ∧ s.power.sagLow = false ∧ s.boot.mode = 3) ∧
    (∃ s : State, s.boot.state = 6 ∧ s.power.sagLow = false ∧ s.boot.mode ≠ 3 ∧ s.boot.mode ≠ 2 ∧ (s.setReason 0 (s.headerReason 0
    false)).slotOrder false false = [0] ∧ sha256 ((s.setReason 0 (s.headerReason 0 false)).flashRead (slotBase 0 + 256) (field
    ((s.setReason 0 (s.headerReason 0 false)).flashRead (slotBase 0) 256) 8 4)) = (((s.setReason 0 (s.headerReason 0
    false)).flashRead (slotBase 0) 256).drop 32).take 32) ∧
    (∃ (s : State), s.boot.state = 7) ∧
    (∃ (p : PtnIx) (s : State), s.secWriter p = true ∧ s.flag SEC_STAT.BUSY = false) ∧
    (∃ (s : State), s.bbx.op = some .floor) ∧
    (∃ (p : PtnIx) (s : State), s.secWriter p = true) ∧
    (∃ (p : PtnIx) (s : State) (m : Fin 8), s.secWriter p = true ∧ 4 ≤ m.val) :=
  ⟨⟨boot { state := 1 }, by decide +kernel⟩,
    ⟨late (boot { state := 1 }), by decide +kernel⟩,
    ⟨{ boot { state := 2 } with flash := ⟨[(0x8008, 0), (0x8009, 1), (0x800A, 0), (0x800B, 0)]⟩ }, 256, by decide +kernel⟩,
    ⟨boot { state := 3 }, by decide +kernel⟩,
    ⟨boot { state := 4 }, by decide +kernel⟩,
    ⟨boot { state := 5 }, by decide +kernel⟩,
    ⟨boot { state := 6, mode := 3 }, by decide +kernel⟩,
    ⟨imageState, by decide +kernel, by decide +kernel, by decide +kernel, by decide +kernel, by rw [image_same, image_order], by
      rw [image_same]; decide +kernel⟩,
    ⟨boot { state := 7 }, by decide +kernel⟩,
    ⟨0, State.reset, by decide +kernel⟩,
    ⟨bbx { op := some .floor }, by decide +kernel⟩,
    ⟨0, State.reset, by decide +kernel⟩,
    ⟨0, State.reset, 4, by decide +kernel⟩⟩

theorem witness_SecurityCommandsComplete :
    (∃ (p : PtnIx) (s : State), s.domOn 78 = true ∧ s.flag SEC_MB_STAT.BUSY p = false) ∧
    (∃ (s : State) (c : SecCmd), s.domOn 78 = true ∧ s.sec.serving = some c ∧ c.op = 2) ∧
    (∃ (s : State) (c : SecCmd) (k : List Byte), s.domOn 78 = true ∧ s.sec.serving = some c ∧ c.op = 3 ∧ s.sec.secret = some k) ∧
    (∃ (s : State), s.domOn 78 = true ∧ s.flag SEC_STAT.TRNG_OK = true) ∧
    (∃ (s : State), s.domOn 78 = true ∧ s.flag SEC_STAT.TRNG_OK = false) :=
  ⟨⟨0, State.reset, by decide +kernel⟩,
    ⟨{ State.reset with sec := { serving := some { ptn := 0, op := 2, n := 0 } } }, { ptn := 0, op := 2, n := 0 },
      by decide +kernel⟩,
    ⟨{ State.reset with sec := { serving := some { ptn := 0, op := 3, n := 0 }, secret := some [] } },
      { ptn := 0, op := 3, n := 0 }, [], by decide +kernel⟩,
    ⟨put State.reset [(SEC_STAT.TRNG_OK, 1, 0, 0)], by decide +kernel⟩,
    ⟨put State.reset [(SEC_STAT.TRNG_OK, 0, 0, 0)], by decide +kernel⟩⟩

theorem witness_HartCommandsComplete :
    (∃ (p : PtnIx) (h : HartIx) (s : State), p.val = s.manager ∧ s.domOn (hartDomain h) = true ∧ s.fld ACI_HART_STAT.STATE h = 0) ∧
    (∃ (p : PtnIx) (h : HartIx) (s : State), p.val = s.manager ∧ s.hartRuns h = true) ∧
    (∃ (h : HartIx) (s : State) (op : CoreOp) (size : Fin 5) (data : List Byte), coreDataOk op size data = true ∧ s.hartRuns h =
    true ∧ s.harts.last.find? h ≠ some .waiting) ∧
    (∃ (h : HartIx) (s : State) (target : HartIx) (f : Fin 16) (v : Word), s.hartRuns h = true ∧ f.val < 9 ∧ (f.val ≠ 0 ∨
    s.hartPtn h = s.manager) ∧ v.toNat < 2048 ∧ v.toNat ≠ 0 ∧ s.domOn (hartDomain target) = true ∧ s.fld ACI_HART_STAT.STATE
    target ≠ 0) :=
  ⟨⟨0, 0, State.reset, by decide +kernel⟩,
    ⟨0, 0, hart1, by decide +kernel⟩,
    ⟨0, hart1, .load, 2, [], by decide +kernel⟩,
    ⟨0, hart1, 1, 8, 2047, by decide +kernel⟩⟩

theorem witness_PcieCommandsComplete :
    (∃ (s : State) (rate : Fin 7) (width : Fin 17), s.domOn 76 = true ∧ pcieLinkOk true rate width = true ∧ s.boot.perst = false ∧
    bit (s.fld CLK_STAT.LOSS) 3 = false) ∧
    (∃ (s : State) (rate : Fin 7) (width : Fin 17), s.domOn 76 = true ∧ pcieLinkOk false rate width = true ∧ s.flag PCI_STAT.UP =
    true) ∧
    (∃ (fn : Fin 17) (s : State) (tlp : Tlp) (err : MemErr) (u : State), s.domOn 76 = true ∧ s.flag PCI_STAT.UP = true ∧ tlp.wf =
    true ∧ s.pci.held = [] ∧ s.serveTlp s.pci.nextId fn tlp err = (u, true)) ∧
    (∃ (s : State) (w : PostedWrite) (ws : List PostedWrite), s.pci.posted = w :: ws ∧ s.flag PCI_STAT.UP = true) ∧
    (∃ (s : State) (t : TileIx) (id : Nat) (r : SReq) (bs : List Byte), bs.length ≤ 4096 ∧ s.hostRead t id = some r ∧
    (s.pcieTarget (localOf r.ga)).isSome = true ∧ s.flag PCI_STAT.UP = true) ∧
    (∃ (s : State) (h : HartIx) (a : Nat) (n : Nat) (sent : Nat) (bs : List Byte), bs.length ≤ 4096 ∧ s.harts.host.find? h = some
    (a, n, sent) ∧ (s.pcieTarget a).isSome = true ∧ s.flag PCI_STAT.UP = true) ∧
    (∃ (s : State) (t : TileIx) (id : Nat) (r : SReq), s.hostRead t id = some r ∧ s.passed r.sent s.ctoTicks = true) ∧
    (∃ (s : State) (w : PostedWrite) (ws : List PostedWrite) (r : Nat), s.pci.posted = w :: ws ∧ s.flag PCI_STAT.UP = false ∧
    s.passed w.came s.ctoTicks = true ∧ w.region = some r) ∧
    (∃ (fn : Fin 17) (s : State) (v : Fin 2048), (s.pciFn fn).msixOn = true ∧ (s.pciFn fn).pba.get (fun _ => false) v = true) ∧
    (∃ (fn : Fin 17) (s : State) (v : Fin 2048), ((s.pciFn fn).msixOn = false ∨ (s.pciFn fn).pba.get (fun _ => false) v = false)) ∧
    (∃ (fn : Fin 17) (s : State), (s.pciFn fn).msixOn = false) ∧
    (∃ (s : State), s.domOn 76 = true) ∧
    (∃ (s : State), s.boot.perst = false ∧ s.boot.state ≠ 0 ∧ s.boot.porst = true ∧ s.power.stop = none ∧ s.flag PCI_CTL.PERST_RST
    = true) ∧
    (∃ (s : State), s.boot.perst = false ∧ s.boot.state ≠ 0 ∧ s.boot.porst = true ∧ s.power.stop = none ∧ s.flag PCI_CTL.PERST_RST
    = false ∧ s.domOn 76 = true) :=
  ⟨⟨on [76], 1, 1, by decide +kernel⟩,
    ⟨host, 0, 0, by decide +kernel⟩,
    ⟨0, host, .config true true, .none, _, by decide +kernel, by decide +kernel, by decide +kernel, by decide +kernel, rfl⟩,
    ⟨{ host with pci := { posted := [posted0] } }, posted0, [], by decide +kernel⟩,
    ⟨host.setTile 0 { reqs := [hostReq] }, 0, 7, hostReq, [], by decide +kernel⟩,
    ⟨{ host with harts := { host := ⟨[(0, (0x8000000000, 4, 0))]⟩ } }, 0, 0x8000000000, 4, 0, [], by decide +kernel⟩,
    ⟨late (host.setTile 0 { reqs := [hostReq] }), 0, 7, hostReq, by decide +kernel⟩,
    ⟨late { on [76] with pci := { posted := [posted0] } }, posted0, [], 0, by decide +kernel⟩,
    ⟨0, { State.reset with pciFns := ⟨[(0, { msixOn := true, pba := ⟨[(0, true)]⟩ })]⟩ }, 0, by decide +kernel⟩,
    ⟨0, State.reset, 0, by decide +kernel⟩,
    ⟨0, State.reset, by decide +kernel⟩,
    ⟨on [76], by decide +kernel⟩,
    ⟨{ put State.reset [(PCI_CTL.PERST_RST, 1, 0, 0)] with boot := { state := 7, porst := true } }, by decide +kernel⟩,
    ⟨{ put (on [76]) [(PCI_CTL.PERST_RST, 0, 0, 0)] with boot := { state := 7, porst := true } }, by decide +kernel⟩⟩

theorem witness_EthernetCommandsComplete :
    (∃ (s : State), s.domOn 74 = true) ∧
    (∃ (n : PortIx) (s : State), s.domOn 74 = true ∧ s.flag ETH_PORT_CTL.EN n = true ∧ s.portLanes n ≠ [] ∧ ((s.portLanes n).any
    fun l => s.isRetired kEth l) = false ∧ bit (s.fld CLK_STAT.LOSS) 2 = false) ∧
    (∃ (p : PtnIx) (n : PortIx) (s : State), s.domOn 74 = true ∧ p.val = s.manager ∧ s.portLanes n ≠ [] ∧ ((s.portLanes n).any fun
    l => s.isRetired kEth l) = false) ∧
    (∃ (n : PortIx) (s : State) (frame : List Byte), s.domOn 74 = true ∧ frameLenOk frame.length = true ∧ s.flag ETH_PORT_CTL.EN n
    = true ∧ s.flag ETH_PORT_STAT.LINK n = true ∧ (s.job.stops.any fun x => x.kind == 0 && x.port == n.val && x.whole) = false
    ∧ s.fwdEntry n frame = none) ∧
    (∃ (n : PortIx) (s : State), s.domOn 74 = true ∧ s.flag ETH_PORT_STAT.LINK n = true) ∧
    (∃ (s : State) (q : Fin 32) (r : List Byte) (bs : List Byte) (u : State) (v : State), s.domOn 74 = true ∧ s.flag ETH_Q_CFG.EN
    q = true ∧ s.reg ETH_Q_TXHEAD q ≠ s.reg ETH_Q_TXTAIL q ∧ s.accessError (ethAddr (s.reg ETH_Q_TX q) + 32 * (s.reg
    ETH_Q_TXHEAD q % ringSize (s.fld ETH_Q_CFG.LOG2SIZE q))) 32 = none ∧ s.readLocal (s.fld ETH_Q_CFG.PTN q) (ethAddr (s.reg
    ETH_Q_TX q) + 32 * (s.reg ETH_Q_TXHEAD q % ringSize (s.fld ETH_Q_CFG.LOG2SIZE q))) 32 false = (.ok r, u) ∧ 60 ≤ field r 8
    2 ∧ field r 8 2 ≤ 9224 ∧ frameMemory (field r 0 6 % 2 ^ 40) = true ∧ u.accessError (field r 0 6 % 2 ^ 40) (field r 8 2) =
    none ∧ u.readLocal (s.fld ETH_Q_CFG.PTN q) (field r 0 6 % 2 ^ 40) (field r 8 2) false = (.ok bs, v) ∧ v.portFree (field r
    10 1 % 16) bs = true) ∧
    (∃ (n : PortIx) (s : State) (f : FwdFrame) (rest : List FwdFrame), s.domOn 74 = true ∧ s.eth.fwd.getD n [] = f :: rest ∧
    s.portFree n f.bytes = true) ∧
    (∃ (p : PtnIx) (s : State) (q : Fin 32) (t : Word), s.domOn 74 = true ∧ s.ethQWriter p q = true ∧ dist32 t.toNat (s.reg
    ETH_Q_TXHEAD q) ≤ ringSize (s.fld ETH_Q_CFG.LOG2SIZE q) ∧ dist32 t.toNat (s.reg ETH_Q_TXTAIL q) ≤ ringSize (s.fld
    ETH_Q_CFG.LOG2SIZE q)) :=
  ⟨⟨on [74], by decide +kernel⟩,
    ⟨0, port0, by decide +kernel⟩,
    ⟨0, 0, port0, by decide +kernel⟩,
    ⟨0, port0, frame0, by decide +kernel⟩,
    ⟨0, port0, by decide +kernel⟩,
    ⟨ethSrc, 0, ethSrc.read 0 32, ethSrc.read 0x1000 60, ethSrc, ethSrc, by decide +kernel, by decide +kernel, by decide +kernel,
      by decide +kernel, read_sram _ _ _ (by decide +kernel), by decide +kernel, by decide +kernel, by decide +kernel,
      by decide +kernel, read_sram _ _ _ (by decide +kernel), by decide +kernel⟩,
    ⟨0, { port0 with eth := { fwd := ⟨[(0, [fwd0])]⟩ } }, fwd0, [], by decide +kernel⟩,
    ⟨0, port0, 0, 0, by decide +kernel⟩⟩

theorem witness_RegisterCommandsComplete :
    (∃ (s : State), s.flag SYS_CHIPID.ID_SET = false) ∧
    (∃ (s : State), s.flag SYS_CHIPID.ID_SET = true) ∧
    (∃ (a : BitVec 40), a.toNat % 4 = 0) ∧
    (∃ (p : PtnIx) (s : State) (t : TileIx), s.domOn t = true ∧ s.tileOwner t = some p.val) ∧
    (∃ (p : PtnIx) (s : State), p.val = s.manager ∧ s.domOn 79 = true) ∧
    (∃ (s : State) (c : XspCmd) (data : List Byte), data.length ≤ 256 ∧ s.bbx.op = some (.xsp c) ∧ c.wr = true) ∧
    (∃ (data : List Byte), data.length ≤ 255) ∧
    (∃ (t : TileIx) (off : Fin 0x200000) (s : State) (data : List Byte), debugOk off true data = true ∧ s.domOn 80 = true ∧
    s.accessError (tileMemBase t + off) (max 1 data.length) = none) :=
  ⟨⟨State.reset, by decide +kernel⟩,
    ⟨put State.reset [(SYS_CHIPID.ID_SET, 1, 0, 0)], by decide +kernel⟩,
    ⟨0, by decide +kernel⟩,
    ⟨0, waitingOn 1 entry0, 0, by decide +kernel⟩,
    ⟨0, State.reset, by decide +kernel⟩,
    ⟨bbx { op := some (.xsp xsp0) }, xsp0, [], by decide +kernel⟩,
    ⟨[], by decide +kernel⟩,
    ⟨0, 0x1FFFFF, on [0, 80], [0], by decide +kernel⟩⟩

theorem witness_OthersCannotManage :
    (∃ (p : PtnIx) (s : State), p.val ≠ s.manager) :=
  ⟨1, State.reset, by decide +kernel⟩

theorem witness_OffDomainsTakeNoWrites :
    (∃ (a : BitVec 40) (s : State), s.domOn (domainOf a.toNat) = false ∧ s.pci.held = []) :=
  ⟨0x40150000, State.reset, by decide +kernel⟩

theorem witness_SignalsSaturate :
    (∃ (s : State) (c : ClusterIx), s.domOn (64 + c.val) = true) ∧
    (∃ (s : State) (c : ClusterIx) (i : Fin 1024) (k : ClusterIx) (j : Fin 1024), s.domOn (64 + c.val) = true ∧ (k, j) ≠ (c, i)) :=
  ⟨⟨on [64], 0, by decide +kernel⟩,
    ⟨on [64], 0, 0, 0, 1, by decide +kernel⟩⟩

theorem witness_ChipIdIsLockedByItsFirstWrite :
    (∃ (s : State), s.flag SYS_CHIPID.ID_SET = false) ∧
    (∃ (s : State), s.flag SYS_CHIPID.ID_SET = true) ∧
    (∃ (s : State), s.boot.porst = false) :=
  ⟨⟨State.reset, by decide +kernel⟩,
    ⟨put State.reset [(SYS_CHIPID.ID_SET, 1, 0, 0)], by decide +kernel⟩,
    ⟨State.reset, by decide +kernel⟩⟩

theorem witness_TimedCommandsWait :
    (∃ (s : State) (p : PtnIx), s.passed (s.jobPtn p).cqAt (s.fld JOB_CQ_IRQ.IRQ_TIME p * ticksPerUs) = false) ∧
    (∃ (s : State) (p : PtnIx), s.passed (s.jobPtn p).eqAt (s.fld JOB_EQ_IRQ.IRQ_TIME p * ticksPerUs) = false) ∧
    (∃ (s : State) (p : PtnIx) (m : HeldMsg), s.waitingMessage p = some m ∧ s.passed m.came (max 1 (s.fld YAL_TMO.TMO) *
    ticksPerUs) = false) ∧
    (∃ (s : State) (j : Nat) (x : Job) (d : DgtJob), s.job? j = some x ∧ s.dgt? j = some d ∧ s.passed d.endAt (s.ropeTicks x.ptn)
    = false) ∧
    (∃ (s : State), (s.dgt.held.all fun h => !s.orphan h) = true) ∧
    (∃ (s : State) (k : LinkIx), s.passed (s.link k).since ticksPer100Ms = false) ∧
    (∃ (s : State) (k : LinkIx), s.passed (s.link k).since (40 * ticksPerUs) = false) ∧
    (∃ (s : State) (tag : BitVec 16) (r : OutReq), s.yal.reqs.find? tag.toNat = some r ∧ s.atu.ticks < r.due) ∧
    (∃ (s : State) (p : Packet) (since : Nat) (ps : List (Packet × Nat)), s.yal.belays = (p, since) :: ps ∧ s.passed since
    ticksPerMs = false) ∧
    (∃ (s : State) (t : TileIx) (id : Nat) (r : SReq), s.hostRead t id = some r ∧ s.passed r.sent s.ctoTicks = false) ∧
    (∃ (s : State) (w : PostedWrite) (ws : List PostedWrite), s.pci.posted = w :: ws ∧ s.passed w.came s.ctoTicks = false) ∧
    (∃ (s : State) (k : Fin 8), s.passed (s.bbx.leakAt.getD k 0) (s.leakTicks k) = false) ∧
    (∃ (s : State) (c : ClusterIx) (x : OpStep), s.power.steps.find? c = some x ∧ s.passed x.reachedAt (s.fld CLK_VSETTLE.US *
    ticksPerUs) = false) ∧
    (∃ (s : State), s.passed s.power.sagAt (100 * ticksPerUs) = false) ∧
    (∃ (s : State), s.passed s.boot.since (10 * ticksPerMs) = false) :=
  ⟨⟨put State.reset [(JOB_CQ_IRQ.IRQ_TIME, 1, 0, 0)], 0, by decide +kernel⟩,
    ⟨put State.reset [(JOB_EQ_IRQ.IRQ_TIME, 1, 0, 0)], 0, by decide +kernel⟩,
    ⟨messages, 0, message0, by decide +kernel⟩,
    ⟨dgt { area := (0, 0), endSent := true, endGot := some 0 } job0, 5, job0,
      { area := (0, 0), endSent := true, endGot := some 0 }, by decide +kernel⟩,
    ⟨{ put State.reset [(DGT_ROPE.V, 1, 0, 0), (DGT_ROPE.PEER_CHIP, 0, 0, 0)] with dgt := { held := [held0] } },
      by decide +kernel⟩,
    ⟨State.reset, 0, by decide +kernel⟩,
    ⟨State.reset, 0, by decide +kernel⟩,
    ⟨{ State.reset with yal := { reqs := ⟨[(3, { req3 with due := 1 })]⟩ } }, 3, { req3 with due := 1 }, by decide +kernel⟩,
    ⟨{ State.reset with yal := { belays := [(pBelay, 0)] } }, pBelay, 0, [], by decide +kernel⟩,
    ⟨host.setTile 0 { reqs := [hostReq] }, 0, 7, hostReq, by decide +kernel⟩,
    ⟨{ host with pci := { posted := [posted0] } }, posted0, [], by decide +kernel⟩,
    ⟨State.reset, 0, by decide +kernel⟩,
    ⟨power (put State.reset [(CLK_VSETTLE.US, 5, 0, 0)]) { steps := ⟨[(0, { target := 1 })]⟩ }, 0, { target := 1 },
      by decide +kernel⟩,
    ⟨State.reset, by decide +kernel⟩,
    ⟨State.reset, by decide +kernel⟩⟩

/-! ## Worked examples of the spec -/

/-- Chapter 01: Y memory of logical tile 37. -/
theorem test_tile_window : region 0x014A080000 = .tileMem 37 0x80000 ∧ domainOf 0x014A080000 = 37 := by decide +kernel

/-- Chapter 02, after R55: symbol 3 of a slot of a cell with µ = 1 starts 211,456 Tc after the slot. -/
theorem test_symbol_start :
    (⟨1, false, 0⟩ : CellGrid).posTc 7 3 - (⟨1, false, 0⟩ : CellGrid).posTc 7 0 = 211456 ∧
    (⟨1, false, 0⟩ : CellGrid).posTc 7 0 * 2 = 7 * 1966080 := by decide +kernel

/-- Chapter 02, after R60: the low 32 bits of 1,748,051,689.172 s. -/
theorem test_stamp : stamp32 ((1748051689 * 1000000000 + 172000000) * nsUnit) = 3994967296 := by decide +kernel

/-- Chapter 02, after R66: the residence time of a Sync message with correctionField 164 ns is 1,860.5 ns. -/
theorem test_corrections :
    (400001850 * nsUnit + 3 * nsUnit / 4 : Int) + corrUnits 0x00308000 - (400000100 * nsUnit - corrUnits 0x003D4000) + 0xA40000 * 2 ^ 16
      = 0x07E88000 * 2 ^ 16 := by decide +kernel

/-- Chapter 04, after R119: DX cycles over three n vectors; DY reads eight in bit-reversed order and wraps. -/
theorem test_generators :
    let dx : DSlot := { en := 1, pred := ⟨0, 0⟩, st := 0, rf := 0, reg := 0, areg := 1, mod := 2, am := 0, rsv := 0 }
    (List.range 9).map (fun k => (dx.update · 0x400C0004)^[k] 0x200) = [0x200, 0x204, 0x208, 0x200, 0x204, 0x208, 0x200, 0x204, 0x208] ∧
    (List.range 9).map (fun k => (dx.update · 0x80030004)^[k] 0x400) = [0x400, 0x410, 0x408, 0x418, 0x404, 0x414, 0x40C, 0x41C, 0x400] := by
  decide +kernel

/-- Chapter 05, after R134: element a[6][5] of an INT8 block at feed row 256. -/
theorem test_feed_offset : feedOff (256 + 1 + 5) 5 2 = 0x110616 := by decide +kernel

/-- Chapter 06, after R166: an MXFP8 E4M3 block, its scale code, its codes and its two flushes. -/
theorem test_mx_block :
    let b := mxEncode 0x0C ([⟨200, 1⟩, ⟨-3, 1⟩, ⟨2, 100⟩, ⟨9, 10000⟩, ⟨-5, 10000⟩].map RV.num ++ List.replicate 27 (.num ⟨0, 1⟩))
    b.1 = 0x7E ∧ (b.2.take 6).map (·.1) = [0x7C, 0xCC, 0x12, 0, 0, 0] ∧ (b.2.filter fun c => c.2 == .flush).length = 2 ∧
      (b.2.filter fun c => c.2 == .sat).length = 0 := by decide +kernel

/-- Chapter 10, after R235: the buffers of a cell with 32 streams and 273 PRBs. -/
theorem test_rx_stride : gridSize 14 32 273 = 5870592 ∧ rxStride 14 32 273 = 5881856 := by decide +kernel

/-- Chapter 11, after R268: zones of format B4 with NCS 23. -/
theorem test_prach_zones : zoneOf 139 256 23 0 = (0, 43) ∧ zoneOf 139 256 23 1 = (214, 256) ∧ zoneOf 139 256 23 2 = (172, 214) := by
  decide +kernel

/-- Chapter 12, after R295: a transport block of 49,992 bits. -/
theorem test_ldpc_code :
    let l := (deriveCode 49992 1).getD { bg := 0, a := 0, c := 0, kp := 0, zc := 0 }
    l.c = 6 ∧ l.kp = 8360 ∧ l.zc = 384 ∧ l.k = 8448 ∧ l.n = 25344 ∧ l.er 83328 2 6 0 = 13884 ∧ l.er 83328 2 6 3 = 13884 ∧
      l.er 83328 2 6 4 = 13896 ∧ l.er 83328 2 6 5 = 13896 ∧ l.rAct 13972 = 17 ∧ l.rAct 13984 = 17 := by decide +kernel

/-- Chapter 13, after R317: a PRB at width 9. -/
theorem test_bfp : bfpExp 9 [5000, -4100, 17] 0 15 = 5 ∧ [5000, -4100, 17].map (truncDiv · (2 ^ 5)) = [156, -128, 0] := by
  decide +kernel

/-- Chapter 15, after R365: the slot of a partition that saves 64 + 32 pages and 16 feed blocks. -/
theorem test_slot_size :
    (put State.reset [(PTN_TMEM0.XCNT, 64, 2, 0), (PTN_TMEM0.YCNT, 32, 2, 0), (PTN_TMEM1.FCNT, 16, 2, 0)]).slotSize 2 = 876544 := by
  decide +kernel

/-- Chapter 16, after R390: the leaf of a 2 MiB page in pseudo-channel 37 of chip 0x014. -/
theorem test_leaf : leafOf 0x0000141A6860000F 1 0x7F500000 = { base := 0x141A68700000, r := true, w := true, cache := 0 } ∧
    region (localOf 0x141A68700000) = .hbm 37 := by decide +kernel

/-- Chapter 18, after R423: two blocks make four chunks; with DIGEST and seven entries the area takes 512 bytes. -/
theorem test_digest_need : digestNeed { job0 with desc := bytesOf 72 (0x30000 + 5 * 2 ^ 512 + 2 * 2 ^ 544) } 4 = 512 := by decide +kernel

end Sys2Proof.Tests
end

section
/-! Stores, plain register writes and the register commands (chapters 00, 01 and 22). -/
namespace Sys2Proof.Machine

/-! ## Stores read back -/

/-- A cleared range of registers reads its reset words, every other register as before. -/
theorem State.regAt_clearRegs (s : State) (lo hi b : Nat) :
    (s.clearRegs lo hi).regAt b = if lo ≤ b ∧ b < hi then regReset b else s.regAt b := by
  simp only [State.regAt, State.clearRegs, Table.get_keep]
  by_cases h : lo ≤ b ∧ b < hi
  · simp [h.1, h.2]
  · have hout : b < lo ∨ hi ≤ b := by omega
    simp [hout, h]

/-- Settles O16: each operation writes its table through `Table.set` or `Table.keep`, whose laws give both halves. -/
theorem storesReadBack : Obligations.StoresReadBack := by
  unfold Obligations.StoresReadBack
  intro s hmem hregs
  refine ⟨fun a bs => ?_, fun lo hi => ?_, fun a v => ?_, fun lo hi => ?_⟩
  · exact ⟨s.poke_wf a bs hmem, fun _ hk => s.byte_poke_same a bs hk, fun _ hb => s.byte_poke_other a bs hb⟩
  · exact ⟨s.clearMem_wf lo hi hmem, s.byte_clearMem lo hi⟩
  · exact ⟨s.setRegAt_wf a v hregs, s.regAt_setRegAt_same a v, fun _ hb => s.regAt_setRegAt_other hb v⟩
  · exact ⟨s.clearRegs_wf lo hi hregs, s.regAt_clearRegs lo hi⟩

/-! ## Plain writes under the access codes (R9) -/

/-- Writing back what a field holds changes nothing. -/
theorem setBits_bits (x : Nat) {hi lo : Nat} (h : lo ≤ hi) : setBits x hi lo (bits x hi lo) = x := by
  rw [setBits_split x _ h, Nat.mod_eq_of_lt (bits_lt x hi lo), ← bits_split x h]

/-- A field that shares no bit with the replaced one. -/
theorem bits_setBits_disjoint (x v : Nat) {hi lo hi' lo' : Nat} (h : lo ≤ hi) (h' : lo' ≤ hi') (hd : hi < lo' ∨ hi' < lo) :
    bits (setBits x hi lo v) hi' lo' = bits x hi' lo' := by
  rcases hd with above | below
  · exact bits_setBits_above x v h above
  · exact bits_setBits_below x v h below h'

/-- What R9 leaves in a field when `v` is written over a word that holds `old`. -/
def fieldAfterWrite (old v : Nat) (f : FldRow) : Nat :=
  match f.acc with
  | .rw => bits v f.fld.hi f.fld.lo
  | .w1c => bits old f.fld.hi f.fld.lo &&& (2 ^ 32 - 1 - bits v f.fld.hi f.fld.lo)
  | _ => bits old f.fld.hi f.fld.lo

theorem fieldAfterWrite_lt (old v : Nat) (f : FldRow) : fieldAfterWrite old v f < 2 ^ (f.fld.hi + 1 - f.fld.lo) := by
  unfold fieldAfterWrite
  split
  · exact bits_lt _ _ _
  · exact Nat.lt_of_le_of_lt Nat.and_le_left (bits_lt _ _ _)
  · exact bits_lt _ _ _

/-- Only the field itself decides what it holds after a write. -/
theorem fieldAfterWrite_congr {old old' : Nat} (v : Nat) {f : FldRow}
    (h : bits old f.fld.hi f.fld.lo = bits old' f.fld.hi f.fld.lo) : fieldAfterWrite old v f = fieldAfterWrite old' v f := by
  simp only [fieldAfterWrite, h]

/-- The model writes a word field by field, each as R9 says: a field that keeps its value is written back. -/
theorem writtenWord_cons (old v : Nat) {f : FldRow} (fs : List FldRow) (h : f.fld.lo ≤ f.fld.hi) :
    writtenWord old v (f :: fs) = writtenWord (setBits old f.fld.hi f.fld.lo (fieldAfterWrite old v f)) v fs := by
  cases hacc : f.acc <;> simp [writtenWord, fieldAfterWrite, hacc, setBits_bits old h]

theorem writtenWord_lt {old : Nat} (v : Nat) {fs : List FldRow} (hfs : ∀ f ∈ fs, f.fld.lo ≤ f.fld.hi ∧ f.fld.hi < 32)
    (hold : old < 2 ^ 32) : writtenWord old v fs < 2 ^ 32 := by
  induction fs generalizing old with
  | nil => exact hold
  | cons f fs ih =>
    rw [List.forall_mem_cons] at hfs
    obtain ⟨⟨hf, hf32⟩, hfs⟩ := hfs
    rw [writtenWord_cons old v fs hf]
    exact ih hfs (setBits_lt hf hf32 hold)

/-- Bits that lie in no field of the table keep their value. -/
theorem bits_writtenWord_disjoint (old v : Nat) {hi lo : Nat} {fs : List FldRow} (h : lo ≤ hi)
    (hfs : ∀ f ∈ fs, f.fld.lo ≤ f.fld.hi) (hd : ∀ f ∈ fs, f.fld.hi < lo ∨ hi < f.fld.lo) :
    bits (writtenWord old v fs) hi lo = bits old hi lo := by
  induction fs generalizing old with
  | nil => rfl
  | cons f fs ih =>
    rw [List.forall_mem_cons] at hfs hd
    rw [writtenWord_cons old v fs hfs.1, ih _ hfs.2 hd.2, bits_setBits_disjoint old _ hfs.1 h hd.1]

/-- Each field of a table of disjoint fields holds what R9 says, whatever is written before and after it. -/
theorem bits_writtenWord_of_mem (old v : Nat) {fs : List FldRow} (hfs : ∀ f ∈ fs, f.fld.lo ≤ f.fld.hi)
    (hd : fs.Pairwise fun f g => f.fld.hi < g.fld.lo ∨ g.fld.hi < f.fld.lo) {g : FldRow} (hg : g ∈ fs) :
    bits (writtenWord old v fs) g.fld.hi g.fld.lo = fieldAfterWrite old v g := by
  induction fs generalizing old with
  | nil => cases hg
  | cons f fs ih =>
    rw [List.forall_mem_cons] at hfs
    rw [List.pairwise_cons] at hd
    obtain ⟨hf, hfs⟩ := hfs
    obtain ⟨hfd, hd⟩ := hd
    rw [writtenWord_cons old v fs hf]
    rcases List.mem_cons.1 hg with rfl | hg
    · rw [bits_writtenWord_disjoint _ v hf hfs fun k hk => (hfd k hk).symm, bits_setBits_same _ _ hf,
        Nat.mod_eq_of_lt (fieldAfterWrite_lt old v g)]
    · rw [ih _ hfs hd hg]
      exact fieldAfterWrite_congr v (bits_setBits_disjoint old _ hf (hfs g hg) (hfd g hg))

/-- The word a plain write leaves in a register of the catalogue. -/
theorem State.regAt_plainWrite (s : State) {a v : Nat} {r : RegRow} {i j : Nat} (hrow : rowAt a = some (r, i, j))
    (hrows : ∀ f ∈ r.rows, f.fld.lo ≤ f.fld.hi ∧ f.fld.hi < 32) :
    ((s.plainWrite a v).regAt a).toNat = writtenWord (s.regAt a).toNat v r.rows := by
  simp only [State.plainWrite, hrow, State.regAt_setRegAt_same, BitVec.toNat_ofNat]
  exact Nat.mod_eq_of_lt (writtenWord_lt v hrows (s.regAt a).isLt)

/-- Settles O17: the register reads as the written word, in which each of its disjoint fields is what R9 says. -/
theorem plainWriteFollowsAccessCodes : Obligations.PlainWriteFollowsAccessCodes := by
  unfold Obligations.PlainWriteFollowsAccessCodes
  intro s a v r i j hrow hrows hd f hf
  rw [s.regAt_plainWrite hrow hrows]
  exact bits_writtenWord_of_mem _ v (fun g hg => (hrows g hg).1) hd hf

/-! ## Register commands -/

/-- The first write of the chip id sets it and ID_SET, and leaves GRP_POS (R36). -/
theorem State.chipIdWrite_unset {s : State} {v : Nat} (hv : v < 4096) (h : s.flag SYS_CHIPID.ID_SET = false) :
    (s.chipIdWrite v).chipId = v ∧ (s.chipIdWrite v).flag SYS_CHIPID.ID_SET = true ∧
      (s.chipIdWrite v).fld SYS_CHIPID.GRP_POS = s.fld SYS_CHIPID.GRP_POS ∧ (s.chipIdWrite v).mem = s.mem := by
  have hwrite : s.chipIdWrite v = (s.setFld SYS_CHIPID.ID v).setFld SYS_CHIPID.ID_SET 1 := by simp [State.chipIdWrite, h]
  rw [hwrite]
  refine ⟨?_, ?_, ?_, by simp only [State.setFld_mem]⟩
  · rw [State.chipId, State.fld_setFld_disjoint _ SYS_CHIPID.ID_SET SYS_CHIPID.ID _ _ _ rfl (by decide) (by decide) (by decide)
      (by decide), State.fld_setFld_same _ _ _ _ _ (by decide) (by decide)]
    exact Nat.mod_eq_of_lt hv
  · rw [State.flag, State.fld_setFld_same _ _ _ _ _ (by decide) (by decide)]
    rfl
  · rw [State.fld_setFld_disjoint _ SYS_CHIPID.ID_SET SYS_CHIPID.GRP_POS _ _ _ rfl (by decide) (by decide) (by decide) (by decide),
      State.fld_setFld_disjoint _ SYS_CHIPID.ID SYS_CHIPID.GRP_POS _ _ _ rfl (by decide) (by decide) (by decide) (by decide)]

/-- Once ID_SET is 1 a write of the chip id changes nothing (R36). -/
theorem State.chipIdWrite_set {s : State} (v : Nat) (h : s.flag SYS_CHIPID.ID_SET = true) : s.chipIdWrite v = s := by
  simp [State.chipIdWrite, h]

/-- Bit 31 of a command word with GO set. -/
theorem bit_setBits_go (v : Nat) : bit (setBits v 31 31 1) 31 = true := by
  have h := bits_setBits_same v 1 (Nat.le_refl 31)
  simpa [bit, bits] using h

/-- A write of a register of block 23 while domain 79 is ON is a write of the XSP. -/
theorem State.regWrite_xsp {s : State} {src a v : Nat} {hart : Bool} (hon : s.domOn 79 = true) (hlo : 0x40170000 ≤ a)
    (hhi : a < 0x40180000) : s.regWrite src hart a v = s.wrXsp src a v := by
  have hregion : region a = .sysReg := by
    rw [region, if_neg (by omega), if_neg (by omega), if_pos ⟨by omega, by omega⟩]
  have hblock : (a - 0x40000000) / 0x10000 = 23 := by omega
  have hdom : domainOf a = 79 := by simp [domainOf, hregion, hblock]
  simp [State.regWrite, hdom, hon, hregion, hblock]

/-- The manager's XSP_CMD with GO is written and issued (R500). -/
theorem State.wrXsp_cmd {s : State} {p : Nat} (v : Nat) (hp : p = s.manager) :
    s.wrXsp p XSP_CMD.base (setBits v 31 31 1) = (s.plainWrite XSP_CMD.base (setBits v 31 31 1)).xspIssue p := by
  simp [State.wrXsp, State.managerWrite, hp, bit_setBits_go]

/-- The manager's XSP_SB_CMD with GO is written and started (R501). -/
theorem State.wrXsp_sbCmd {s : State} {p : Nat} (v : Nat) (hp : p = s.manager) :
    s.wrXsp p XSP_SB_CMD.base (setBits v 31 31 1) = (s.plainWrite XSP_SB_CMD.base (setBits v 31 31 1)).sbIssue p := by
  have hne : XSP_SB_CMD.base ≠ XSP_CMD.base := by decide
  simp [State.wrXsp, State.managerWrite, hp, bit_setBits_go, hne]

/-- A software command that writes ends: its effect, BUSY clear, the pulse of source 3 (R500). -/
theorem State.xspEnd_write {s : State} {c : XspCmd} (data : List Byte) (hop : s.bbx.op = some (.xsp c)) (hwr : c.wr = true) :
    s.xspEnd data = (((s.opEnds.xspEffect c).setFld XSP_STAT.BUSY 0).aplicPulse 3).pumpFlash := by
  simp [State.xspEnd, hop, hwr]

/-- A debug access that writes, while DBG is ON and the window takes the access. -/
theorem State.debugAccess_write {s : State} {t off : Nat} {data : List Byte} (hon : s.domOn 80 = true)
    (herr : s.accessError (tileMemBase t + off) (max 1 data.length) = none) :
    s.debugAccess t off true data = if off < 0x1E0000 then s.pokeTile t off data
      else if (s.tile t).state = .idle then s.writeProgram t off data
      else s.event evWriteIgnored ((s.tileOwner t).getD s.manager) t [w64 (tileMemBase t + off)] := by
  simp [State.debugAccess, hon, herr]

/-- A debug access that reads changes nothing of the device. -/
theorem State.debugAccess_read (s : State) (t off : Nat) (data : List Byte) : s.debugAccess t off false data = s := by
  simp [State.debugAccess]

/-- Settles O47, command by command. The clauses of the model's own choosing are the windows' data and the ends of transfers
(log 137), the pulses to the APLIC (log 150, beside R489), and who is told of an ignored debug write (logs 153 and 43). -/
theorem registerCommandsComplete : Obligations.RegisterCommandsComplete := by
  unfold Obligations.RegisterCommandsComplete
  intro p s
  refine ⟨fun id => ⟨fun hid => ?_, fun hid => ?_⟩, fun a v ha => ?_, fun t hon hown => ⟨?_, ?_, ?_⟩,
    fun v hp hon => ⟨?_, ?_⟩, fun c data hlen hop hwr => ?_, fun e data hlen => ?_,
    fun t off data hok hon herr => ⟨?_, fun d hd => ?_⟩⟩
  · exact ⟨s.chipIdWrite id.toNat, rfl, State.chipIdWrite_unset id.isLt hid⟩
  · rw [exec_sysChipidWrite, execSysChipidWrite, State.chipIdWrite_set _ hid]
  · rw [exec_registerWrite, execRegisterWrite, if_pos ha]
  · rw [exec_arrClrCnt, execArrClrCnt, State.arrClrCnt, if_pos ⟨hon, hown⟩, State.arrClear]
  · rw [exec_eleClrCnt, execEleClrCnt, State.eleClrCnt, if_neg (not_not_intro hon), if_pos hown]
  · rw [exec_stmClrCnt, execStmClrCnt, State.stmClrCnt, if_pos ⟨hon, hown⟩, State.stmClear]
  · rw [exec_xspCmd, execXspCmd, State.regWrite_xsp hon (by decide) (by decide), State.wrXsp_cmd _ hp]
  · rw [exec_sbCmd, execSbCmd, State.regWrite_xsp hon (by decide) (by decide), State.wrXsp_sbCmd _ hp]
  · rw [exec_xspDone, execXspDone, if_pos hlen, State.xspEnd_write data hop hwr]
  · rw [exec_sbDone, execSbDone, if_pos hlen]
    simp [State.sbEnd]
  · rw [exec_tileDebugAccess, execTileDebugAccess, if_pos hok, State.debugAccess_write hon herr]
  · rw [exec_tileDebugAccess, execTileDebugAccess, if_pos hd, State.debugAccess_read]

end Sys2Proof.Machine
end

section
/-! Stealing, the chip id and the state after reset (chapters 01 and 15). -/
namespace Sys2Proof.Machine

/-! ## Frames -/

/-- A register keeps its word when a field of another is set. -/
theorem State.regAt_setFld_other (s : State) {f : Fld} {i j a : Nat} (h : a ≠ f.reg.addr i j) (v : Nat) :
    (s.setFld f v i j).regAt a = s.regAt a :=
  s.regAt_setRegAt_other h _

theorem State.regAt_setReg_other (s : State) {r : Reg} {i j a : Nat} (h : a ≠ r.addr i j) (v : Nat) :
    (s.setReg r v i j).regAt a = s.regAt a :=
  s.regAt_setRegAt_other h _

theorem State.regAt_incSat_other (s : State) {f : Fld} {i j a : Nat} (h : a ≠ f.reg.addr i j) (n : Nat) :
    (s.incSat f n i j).regAt a = s.regAt a :=
  s.regAt_setFld_other h _

theorem State.regAt_congr {s t : State} (h : t.regs = s.regs) (a : Nat) : t.regAt a = s.regAt a := by simp [State.regAt, h]

/-- Setting a field of registers that hold the same word leaves the same word. -/
theorem State.regAt_setFld_congr {s t : State} {f : Fld} {i j : Nat}
    (h : t.regAt (f.reg.addr i j) = s.regAt (f.reg.addr i j)) (v : Nat) :
    (t.setFld f v i j).regAt (f.reg.addr i j) = (s.setFld f v i j).regAt (f.reg.addr i j) := by
  simp [State.setFld, State.setReg, State.reg, h]

/-- A field is read from its register's word alone. -/
theorem State.fld_congr_regAt {s t : State} {f : Fld} {i j : Nat} (h : t.regAt (f.reg.addr i j) = s.regAt (f.reg.addr i j)) :
    t.fld f i j = s.fld f i j := by
  simp [State.fld, State.reg, h]

/-- What every step of a sequence keeps, the sequence keeps. -/
theorem forEach_keeps {α : Type} {P : State → Prop} {f : α → State → State} (hf : ∀ x s, P s → P (f x s)) (xs : List α) {s : State}
    (h : P s) : P (forEach xs f s) := by
  unfold forEach
  induction xs generalizing s with
  | nil => exact h
  | cons x xs ih => exact ih (hf x s h)

/-! ## Steals (R13-R15) -/

theorem minBy_mem {α : Type} {key : α → Nat} {xs : List α} {x : α} (h : minBy key xs = some x) : x ∈ xs := by
  induction xs generalizing x with
  | nil => cases h
  | cons y ys ih =>
    rw [minBy] at h
    split at h
    · cases h
      exact List.mem_cons_self
    · rename_i z hz
      split at h <;> cases h
      · exact List.mem_cons_of_mem _ (ih hz)
      · exact List.mem_cons_self

/-- A thief is its partition's and has nothing to do. -/
theorem State.thief_some {s : State} {t p : Nat} (h : s.thief t = some p) :
    s.tileOwner t = some p ∧ (s.tile t).task = none ∧ (s.tile t).queue = [] := by
  rw [State.thief] at h
  split at h
  next hidle =>
    obtain ⟨-, htask, hqueue, -⟩ := hidle
    exact ⟨h, Option.isNone_iff_eq_none.1 htask, List.isEmpty_iff.1 hqueue⟩
  next => cases h

/-- What may be stolen is a waiting task of the partition. -/
theorem State.of_mem_stealable {s : State} {p v : Nat} {e : QEntry} (h : e ∈ s.stealable p v) :
    e ∈ (s.tile v).queue ∧ e.slot = none ∧ (s.job? e.task.job).map (fun j => j.ptn) = some p := by
  have hwait : e ∈ s.waitingOf p v := (List.mem_filter.1 h).1
  obtain ⟨hqueue, hcond⟩ := List.mem_filter.1 hwait
  rw [Bool.and_eq_true, beq_iff_eq, Option.isNone_iff_eq_none] at hcond
  exact ⟨hqueue, hcond⟩

/-- The candidates are the other fifteen tiles of the thief's cluster (R14). -/
theorem State.victim_some {s : State} {p t v : Nat} (h : s.victim p t = some v) :
    s.ownsTile p v = true ∧ v ≠ t ∧ v / 16 = t / 16 := by
  have hmem := List.mem_of_find?_eq_some h
  have hcond := List.find?_some h
  obtain ⟨k, hk, rfl⟩ := List.mem_map.1 hmem
  simp only [Bool.and_eq_true] at hcond
  obtain ⟨⟨⟨howns, -⟩, -⟩, -⟩ := hcond
  have hk15 : k < 15 := List.mem_range.1 hk
  exact ⟨howns, by omega, by omega⟩

theorem State.farVictim_some {s : State} {p c v : Nat} (h : s.farVictim p c = some v) : v / 16 = c := by
  rw [State.farVictim] at h
  split at h
  next => cases h
  next =>
    obtain ⟨k, hk, rfl⟩ := List.mem_map.1 (List.mem_filter.1 (minBy_mem h)).1
    have hk16 : k < 16 := List.mem_range.1 hk
    omega

/-- The task that a thief receives: one from another cluster is marked as migrated. -/
def stolenTask (e : QEntry) (far : Bool) : Task := if far then { e.task with migrated := true } else e.task

/-- `u` is `s` after tile t has taken entry e of tile v's queue, counted in the register at `cnt`. -/
structure Stolen (s u : State) (t v : Nat) (e : QEntry) (far : Bool) (cnt : Nat) : Prop where
  thief : (u.tile t).queue.map (fun q => q.task) = [stolenTask e far]
  victim : (u.tile v).queue = (s.tile v).queue.erase e
  others : ∀ k, k ≠ t → k ≠ v → u.tile k = s.tile k
  mem : u.mem = s.mem
  job : u.job = s.job
  regs : ∀ a, a ≠ cnt → u.regAt a = s.regAt a

theorem State.tile_incSat (s : State) (f : Fld) (n i j k : Nat) : (s.incSat f n i j).tile k = s.tile k := rfl

theorem State.stolen_takeFrom (s : State) {t v : Nat} (hne : v ≠ t) (e : QEntry) (far : Bool) (f : Fld) (c : Nat) :
    Stolen s ((s.takeFrom t v e far).incSat f 1 c) t v e far (f.reg.addr c 0) where
  thief := by
    simp only [State.tile_incSat, State.takeFrom, State.tile_modTile_same]
    rfl
  victim := by simp only [State.tile_incSat, State.takeFrom, State.tile_modTile_other _ hne, State.tile_modTile_same]
  others k ht hv := by
    simp only [State.tile_incSat, State.takeFrom, State.tile_modTile_other _ ht, State.tile_modTile_other _ hv]
  mem := rfl
  job := rfl
  regs a ha := (State.regAt_incSat_other _ ha 1).trans (State.regAt_congr (t := s.takeFrom t v e far) rfl a)

/-- All that a steal can do. -/
theorem State.steal_cases (s : State) (t : Nat) : s.steal t = s ∨ ∃ p v e, s.thief t = some p ∧ s.victim p t = some v ∧
    e ∈ s.stealable p v ∧ s.steal t = (s.takeFrom t v e false).incSat CLU_STEALCNT.STEALS 1 (t / 16) := by
  rw [State.steal]
  split
  · exact .inl rfl
  next p hp =>
    split
    · exact .inl rfl
    next v hv =>
      split
      · exact .inl rfl
      next e he => exact .inr ⟨p, v, e, hp, hv, List.mem_of_getLast? he, rfl⟩

/-- All that a steal across clusters can do: the victim is in one of the three other clusters. -/
theorem State.farSteal_cases (s : State) (t : TileIx) : s.farSteal t = s ∨ ∃ p v e, s.thief t = some p ∧
    v / 16 ≠ t.val / 16 ∧ e ∈ s.stealable p v ∧ e.task.migratable = true ∧
    s.farSteal t = (s.takeFrom t v e true).incSat CLU_STEALCNT.XSTEALS 1 (v / 16) := by
  have ht : t.val < 64 := t.isLt
  rw [State.farSteal]
  split
  · exact .inl rfl
  next p hp =>
    split
    · exact .inl rfl
    dsimp only
    split
    · exact .inl rfl
    next v e hfar =>
      obtain ⟨k, hk, hfound⟩ := List.exists_of_findSome?_eq_some hfar
      have hk3 : k < 3 := List.mem_range.1 hk
      split at hfound
      next =>
        obtain ⟨w, hw, hlast⟩ := Option.bind_eq_some_iff.1 hfound
        obtain ⟨e', he', heq⟩ := Option.map_eq_some_iff.1 hlast
        cases heq
        obtain ⟨hmem, hmig⟩ := List.mem_filter.1 (List.mem_of_getLast? he')
        have hcluster := State.farVictim_some hw
        exact .inr ⟨p, v, e, hp, by omega, hmem, hmig, rfl⟩
      next => cases hfound

/-- Settles O53: by the cases of the two steals; what the chosen entry, thief and victim are, each selector's lemma says. -/
theorem stealsStayInThePartition : Obligations.StealsStayInThePartition := by
  unfold Obligations.StealsStayInThePartition
  intro t s
  refine ⟨⟨s.steal t, rfl, ?_⟩, ⟨s.farSteal t, rfl, ?_⟩⟩
  · rcases s.steal_cases t with hsame | ⟨p, v, e, hthief, hvictim, he, hsteal⟩
    · exact .inl hsame
    · obtain ⟨howner, htask, hqueue⟩ := State.thief_some hthief
      obtain ⟨howns, hne, hcluster⟩ := State.victim_some hvictim
      obtain ⟨hmem, hslot, hptn⟩ := State.of_mem_stealable he
      have moved := s.stolen_takeFrom hne e false CLU_STEALCNT.STEALS (t / 16)
      rw [← hsteal] at moved
      exact .inr ⟨p, v, e, howner, howns, hne, hcluster, hmem, hslot, hptn, htask, hqueue, moved.thief, moved.victim,
        moved.others, moved.mem, moved.job, moved.regs⟩
  · rcases s.farSteal_cases t with hsame | ⟨p, v, e, hthief, hcluster, he, hmig, hsteal⟩
    · exact .inl hsame
    · obtain ⟨howner, htask, hqueue⟩ := State.thief_some hthief
      obtain ⟨hmem, hslot, hptn⟩ := State.of_mem_stealable he
      have hne : v ≠ t.val := fun h => hcluster (congrArg (· / 16) h)
      have moved := s.stolen_takeFrom hne e true CLU_STEALCNT.XSTEALS (v / 16)
      rw [← hsteal] at moved
      exact .inr ⟨p, v, e, howner, hcluster, hmem, hslot, hptn, hmig, htask, hqueue, moved.thief, moved.victim, moved.others,
        moved.mem, moved.job, moved.regs⟩

/-! ## The chip id (R36) -/

theorem State.cacheCut_regs (s : State) : s.cacheCut.regs = s.regs := by
  refine forEach_keeps (P := fun u => u.regs = s.regs) (fun r u hu => ?_) _ rfl
  split <;> exact hu

theorem State.flashTornProgram_regs (s : State) (a : Nat) (bs : List Byte) : (s.flashTornProgram a bs).regs = s.regs := by
  induction bs generalizing s a with
  | nil => rfl
  | cons b bs ih => exact ih _ _

theorem State.flashTornErase_regs (s : State) (a n : Nat) : (s.flashTornErase a n).regs = s.regs := by
  rw [State.flashTornErase]
  generalize s.flash.rows.filter _ = rows
  induction rows generalizing s with
  | nil => rfl
  | cons r rows ih => exact ih _

/-- Loss of power in the middle of a flash operation tears the flash alone. -/
theorem State.flashCut_regs (s : State) (old : Nat) : (s.flashCut old).regs = s.regs := by
  have hends : s.opEnds.regs = s.regs := rfl
  rw [State.flashCut]
  split
  · rfl
  · rw [State.flashTornProgram_regs, hends]
  · dsimp only
    split
    · rw [State.flashTornErase_regs, hends]
    · rw [State.flashTornProgram_regs, hends]
  · rw [State.flashTornErase_regs, hends]
  · split
    · rw [State.flashTornErase_regs, hends]
    · split
      · rw [XspCmd.program, State.flashTornProgram_regs, State.flashTornProgram_regs, hends]
      · exact hends

theorem State.regAt_strapLeader_chipId (s : State) : s.strapLeader.regAt SYS_CHIPID.base = s.regAt SYS_CHIPID.base :=
  s.regAt_setFld_other (by decide) _

/-- A reset leaves the chip id register as after power-on, but for GRP_POS. -/
theorem State.regAt_deviceReset_chipId (s : State) (cause : Nat) (keepHbm up : Bool) :
    (s.deviceReset cause keepHbm up).regAt SYS_CHIPID.base =
      (State.reset.setFld SYS_CHIPID.GRP_POS (s.fld SYS_CHIPID.GRP_POS)).regAt SYS_CHIPID.base := by
  have hcut : ((if keepHbm then s else s.cacheCut).flashCut s.mirrorOld).regs = s.regs := by
    rw [State.flashCut_regs]
    split
    · rfl
    · exact s.cacheCut_regs
  have hgrp := State.fld_congr_regAt (f := SYS_CHIPID.GRP_POS) (i := 0) (j := 0) (State.regAt_congr hcut _)
  rw [State.deviceReset]
  dsimp only
  refine forEach_keeps (P := fun u => u.regAt SYS_CHIPID.base = _) (fun st u hu => ?_) _ ?_
  · rw [State.regAt_setFld_other _ (by simp [Reg.addr, SYS_CHIPID, HBM_STAT.SELF_REFRESH, HBM_STAT]; omega), hu]
  rw [State.regAt_setFld_other _ (by decide), State.regAt_setReg_other _ (by decide), State.regAt_setFld_other _ (by decide),
    State.regAt_strapLeader_chipId, hgrp]
  refine State.regAt_setFld_congr (f := SYS_CHIPID.GRP_POS) (i := 0) (j := 0) ?_ _
  have hout : inOasis (SYS_CHIPID.GRP_POS.reg.addr 0 0) = false := by decide
  simp [State.regAt, State.reset, Table.get_keep, hout]

/-- A reset clears a field of the chip id register that does not meet GRP_POS. -/
theorem State.fld_deviceReset_chipId (s : State) (cause : Nat) (keepHbm up : Bool) {f : Fld} (hreg : f.reg = SYS_CHIPID)
    (hf : f.lo ≤ f.hi) (hlow : f.hi < SYS_CHIPID.GRP_POS.lo) :
    (s.deviceReset cause keepHbm up).fld f = State.reset.fld f := by
  have haddr : f.reg.addr 0 0 = SYS_CHIPID.base := by rw [hreg]; rfl
  have hword := s.regAt_deviceReset_chipId cause keepHbm up
  rw [← haddr] at hword
  rw [State.fld_congr_regAt hword,
    State.fld_setFld_disjoint _ SYS_CHIPID.GRP_POS f _ _ _ hreg (by decide) (by decide) hf (.inr hlow)]

theorem State.grpPos_deviceReset (s : State) (cause : Nat) (keepHbm up : Bool) :
    (s.deviceReset cause keepHbm up).fld SYS_CHIPID.GRP_POS = s.fld SYS_CHIPID.GRP_POS := by
  rw [State.fld_congr_regAt (s.regAt_deviceReset_chipId cause keepHbm up),
    State.fld_setFld_same _ _ _ _ _ (by decide) (by decide)]
  exact Nat.mod_eq_of_lt (bits_lt _ 19 17)

theorem State.regAt_leaveReset_chipId (s : State) : s.leaveReset.regAt SYS_CHIPID.base = s.regAt SYS_CHIPID.base := by
  rw [State.leaveReset]
  dsimp only
  split
  · rw [State.powerRecord, State.regAt_congr (State.poke_regs _ _ _), State.regAt_setFld_other _ (by decide), State.setBoot,
      State.regAt_setFld_other _ (by decide)]
    rfl
  · rfl

/-- A rising edge of PORST_N latches the position pins. -/
theorem State.grpPos_porstRise {s : State} (grp : Fin 8) (mode : Nat) (h : s.boot.porst = false) :
    (s.porstRise grp mode).fld SYS_CHIPID.GRP_POS = grp := by
  rw [State.porstRise, if_neg (by simp [h]), State.fld_congr_regAt (State.regAt_leaveReset_chipId _),
    State.fld_congr_regAt (State.regAt_strapLeader_chipId _), State.fld_setFld_same _ _ _ _ _ (by decide) (by decide)]
  exact Nat.mod_eq_of_lt grp.isLt

/-- A write of the chip id touches its register alone. -/
theorem State.chipIdWrite_frame (s : State) (v : Nat) :
    (∀ a, a ≠ SYS_CHIPID.base → (s.chipIdWrite v).regAt a = s.regAt a) ∧ (s.chipIdWrite v).mem = s.mem ∧
      (s.chipIdWrite v).tiles = s.tiles ∧ (s.chipIdWrite v).job = s.job := by
  rw [State.chipIdWrite]
  split
  · exact ⟨fun _ _ => rfl, rfl, rfl, rfl⟩
  · refine ⟨fun a ha => ?_, by rw [State.setFld_mem, State.setFld_mem], by rw [State.setFld_tiles, State.setFld_tiles],
      by rw [State.setFld_job, State.setFld_job]⟩
    rw [State.regAt_setFld_other _ ha, State.regAt_setFld_other _ ha]

/-- Settles O57: the write by `State.chipIdWrite_unset` and `State.chipIdWrite_set`, the reset and the latch of GRP_POS each by
the lemma that says what is left of the chip id register. -/
theorem chipIdIsLockedByItsFirstWrite : Obligations.ChipIdIsLockedByItsFirstWrite := by
  unfold Obligations.ChipIdIsLockedByItsFirstWrite
  intro s
  refine ⟨fun id hunset => ⟨s.chipIdWrite id.toNat, rfl, ?_⟩, fun id hset => ?_, fun cause keepHbm => ⟨?_, ?_, ?_⟩,
    fun grp mode hlow => ⟨s.porstRise grp mode, rfl, s.grpPos_porstRise grp mode hlow⟩⟩
  · obtain ⟨hid, hlock, hgrp, -⟩ := State.chipIdWrite_unset id.isLt hunset
    exact ⟨hid, hlock, hgrp, s.chipIdWrite_frame _⟩
  · rw [exec_sysChipidWrite, execSysChipidWrite, State.chipIdWrite_set _ hset]
  · rw [s.fld_deviceReset_chipId cause keepHbm true rfl (by decide) (by decide)]
    decide
  · rw [State.flag, s.fld_deviceReset_chipId cause keepHbm true rfl (by decide) (by decide)]
    decide
  · exact s.grpPos_deviceReset cause keepHbm true

/-! ## The state after reset (R29, R38, R42, R343, R445) -/

/-- Each logical tile stands at its home (R38). -/
theorem State.ptile_reset : ∀ t : Fin 64, State.reset.fld SYS_TMAP.PTILE t.val = 17 * (t.val / 16) + t.val % 16 := by decide

/-- The domains that are ON at reset (R444, R445). -/
theorem State.domOn_reset :
    ∀ d : Fin 82, State.reset.domOn d.val = (d.val == 72 || d.val == 77 || d.val == 78 || d.val == 79 || d.val == 81) := by
  decide

theorem State.ptnOn_reset : ∀ p : Fin 16, State.reset.ptnOn p.val = false := by decide

/-- Settles O15: the registers by their reset words in the catalogue, the memory by the empty table. -/
theorem resetState : Obligations.ResetState := by
  unfold Obligations.ResetState
  have hmanager : State.reset.manager = 0 := by decide
  have howner : State.reset.timeOwner = 0 := by decide
  exact ⟨rfl, State.ptile_reset, State.domOn_reset, State.ptnOn_reset, hmanager, howner, Table.get_empty memReset,
    Memory.wf_reset, Table.wf_empty regReset, rfl⟩

end Sys2Proof.Machine
end

section
/-! The invariant of the whole block, and the snapshots of the time (chapter 02). -/
namespace Sys2Proof.Machine

/-! ## The invariant (Safety.lean) -/

/-- Settles O48: memory, flash and levels are empty tables, the registers are at their reset words. -/
theorem invariantHoldsAtReset : Obligations.InvariantHoldsAtReset := by
  unfold Obligations.InvariantHoldsAtReset
  exact {
    mem := Memory.wf_reset
    flash := Table.wf_empty flashErased
    regs := Table.wf_empty regReset
    levels := Table.wf_empty _
    time := by decide
    rtc := by decide }

/-- The invariant does not speak of the queue of commands. -/
theorem State.pending_inv {s : State} (hs : Inv s) (rest : List Instr) : Inv { s with pending := rest } :=
  inv_mk.2 (inv_parts hs)

/-- Every command keeps the invariant: by its own lemma, in the order of `exec`. -/
theorem exec_inv {s : State} (hs : Inv s) : ∀ c : Instr, InvNext (exec c s)
  | .atuTick => execAtuTick_inv hs
  | .atuSet _ => execAtuSet_inv hs
  | .atuStep _ _ => execAtuStep_inv hs
  | .timeSnapRead _ => execTimeSnapRead_inv hs
  | .atuOfsIn _ _ _ => execAtuOfsIn_inv hs
  | .ppsInEdge _ _ => execPpsInEdge_inv hs
  | .syncInEdge _ _ => execSyncInEdge_inv hs
  | .synceGate _ => execSynceGate_inv hs
  | .holdoverTimeout => execHoldoverTimeout_inv hs
  | .ppsOutRise => execPpsOutRise_inv hs
  | .ppsOutFall => execPpsOutFall_inv hs
  | .syncOutRise => execSyncOutRise_inv hs
  | .syncOutFall => execSyncOutFall_inv hs
  | .cellCfgWrite _ _ _ => execCellCfgWrite_inv hs
  | .arm _ _ => execArm_inv hs
  | .disarm _ _ => execDisarm_inv hs
  | .trgRead _ _ => execTrgRead_inv hs
  | .triggerFire => execTriggerFire_inv hs
  | .etsPop _ => execEtsPop_inv hs
  | .launchRelease _ => execLaunchRelease_inv hs
  | .ringEnable _ _ _ _ => execRingEnable_inv hs
  | .sqDoorbell _ _ _ _ => execSqDoorbell_inv hs
  | .cqDoorbell _ _ _ => execCqDoorbell_inv hs
  | .eqDoorbell _ _ _ => execEqDoorbell_inv hs
  | .descriptorFetch _ => execDescriptorFetch_inv hs
  | .fetchFaultClear _ _ _ => execFetchFaultClear_inv hs
  | .jobDispatch _ => execJobDispatch_inv hs
  | .deadlineExpiry _ => execDeadlineExpiry_inv hs
  | .jobComplete _ => execJobComplete_inv hs
  | .cqIrqTimer _ _ => execCqIrqTimer_inv hs
  | .otRegister _ _ _ => execOtRegister_inv hs
  | .otRegisterDone _ => execOtRegisterDone_inv hs
  | .otRetire _ _ _ => execOtRetire_inv hs
  | .belayEnqueue _ _ _ => execBelayEnqueue_inv hs
  | .stopPort _ => execStopPort_inv hs
  | .cancelTag _ => execCancelTag_inv hs
  | .cancelRing _ => execCancelRing_inv hs
  | .quiesceStreams _ => execQuiesceStreams_inv hs
  | .haltPartition _ => execHaltPartition_inv hs
  | .belayDone _ => execBelayDone_inv hs
  | .resume _ _ => execResume_inv hs
  | .unquiesce _ _ => execUnquiesce_inv hs
  | .clrStats _ => execClrStats_inv hs
  | .sysChipidWrite _ => execSysChipidWrite_inv hs
  | .taskStart _ => execTaskStart_inv hs
  | .programMemoryWrite _ _ _ _ => execProgramMemoryWrite_inv hs
  | .taskEnd _ => execTaskEnd_inv hs
  | .nop _ _ => execNop_inv hs
  | .add _ => execAdd_inv hs
  | .sub _ => execSub_inv hs
  | .and _ => execAnd_inv hs
  | .or _ => execOr_inv hs
  | .xor _ => execXor_inv hs
  | .sll _ => execSll_inv hs
  | .srl _ => execSrl_inv hs
  | .sra _ => execSra_inv hs
  | .mul _ => execMul_inv hs
  | .mulh _ => execMulh_inv hs
  | .min _ => execMin_inv hs
  | .max _ => execMax_inv hs
  | .cmp _ => execCmp_inv hs
  | .addi _ => execAddi_inv hs
  | .andi _ => execAndi_inv hs
  | .ori _ => execOri_inv hs
  | .xori _ => execXori_inv hs
  | .slli _ => execSlli_inv hs
  | .srli _ => execSrli_inv hs
  | .srai _ => execSrai_inv hs
  | .li _ => execLi_inv hs
  | .cmpi _ => execCmpi_inv hs
  | .pset _ => execPset_inv hs
  | .plog _ => execPlog_inv hs
  | .mfs _ => execMfs_inv hs
  | .mts _ => execMts_inv hs
  | .aadd _ => execAadd_inv hs
  | .ldx _ => execLdx_inv hs
  | .ldy _ => execLdy_inv hs
  | .stx _ => execStx_inv hs
  | .sty _ => execSty_inv hs
  | .br _ => execBr_inv hs
  | .brr _ => execBrr_inv hs
  | .call _ => execCall_inv hs
  | .ret _ => execRet_inv hs
  | .loop _ => execLoop_inv hs
  | .loopr _ => execLoopr_inv hs
  | .lbrk _ => execLbrk_inv hs
  | .rti _ => execRti_inv hs
  | .halt _ => execHalt_inv hs
  | .trap _ => execTrap_inv hs
  | .wfi _ => execWfi_inv hs
  | .semw _ => execSemw_inv hs
  | .sems _ => execSems_inv hs
  | .sstart _ => execSstart_inv hs
  | .swait _ => execSwait_inv hs
  | .sfence _ => execSfence_inv hs
  | .sfwait _ => execSfwait_inv hs
  | .ewait _ => execEwait_inv hs
  | .vadd _ _ => execVadd_inv hs
  | .vsub _ _ => execVsub_inv hs
  | .vmul _ _ => execVmul_inv hs
  | .vmac _ _ => execVmac_inv hs
  | .vmsu _ _ => execVmsu_inv hs
  | .vcmac _ _ => execVcmac_inv hs
  | .vcmacj _ _ => execVcmacj_inv hs
  | .vmag _ _ => execVmag_inv hs
  | .vaclr _ _ => execVaclr_inv hs
  | .vacrd _ _ => execVacrd_inv hs
  | .vand _ _ => execVand_inv hs
  | .vor _ _ => execVor_inv hs
  | .vxor _ _ => execVxor_inv hs
  | .vshl _ _ => execVshl_inv hs
  | .vshr _ _ => execVshr_inv hs
  | .vmin _ _ => execVmin_inv hs
  | .vmax _ _ => execVmax_inv hs
  | .vabs _ _ => execVabs_inv hs
  | .vneg _ _ => execVneg_inv hs
  | .vbc _ _ => execVbc_inv hs
  | .vperm _ _ => execVperm_inv hs
  | .vintl _ _ => execVintl_inv hs
  | .vred _ _ => execVred_inv hs
  | .vxw _ => execVxw_inv hs
  | .vxn _ => execVxn_inv hs
  | .dLoad _ _ => execDLoad_inv hs
  | .dStore _ _ => execDStore_inv hs
  | .mcfg _ => execMcfg_inv hs
  | .mldw _ => execMldw_inv hs
  | .mmul _ => execMmul_inv hs
  | .mswap _ => execMswap_inv hs
  | .mwait _ => execMwait_inv hs
  | .matrixDispatch _ => execMatrixDispatch_inv hs
  | .mldwComplete _ _ => execMldwComplete_inv hs
  | .mmulComplete _ _ _ => execMmulComplete_inv hs
  | .gapFillTimeout _ _ => execGapFillTimeout_inv hs
  | .ekrun _ => execEkrun_inv hs
  | .ewin _ => execEwin_inv hs
  | .eadd _ => execEadd_inv hs
  | .esub _ => execEsub_inv hs
  | .emul _ => execEmul_inv hs
  | .emin _ => execEmin_inv hs
  | .emax _ => execEmax_inv hs
  | .fadd32 _ => execFadd32_inv hs
  | .fmul32 _ => execFmul32_inv hs
  | .ffma32 _ => execFfma32_inv hs
  | .fadd64 _ => execFadd64_inv hs
  | .fmul64 _ => execFmul64_inv hs
  | .ffma64 _ => execFfma64_inv hs
  | .fdiv32 _ => execFdiv32_inv hs
  | .fsqrt32 _ => execFsqrt32_inv hs
  | .fdiv64 _ => execFdiv64_inv hs
  | .fsqrt64 _ => execFsqrt64_inv hs
  | .ecvt _ => execEcvt_inv hs
  | .erq _ => execErq_inv hs
  | .elut _ => execElut_inv hs
  | .eamax _ => execEamax_inv hs
  | .kernelRow _ => execKernelRow_inv hs
  | .kernelRunEnd _ => execKernelRunEnd_inv hs
  | .scaleWrite _ _ _ _ _ => execScaleWrite_inv hs
  | .nlogWrWrite _ _ _ => execNlogWrWrite_inv hs
  | .interruptEntry _ => execInterruptEntry_inv hs
  | .instanceActivate _ => execInstanceActivate_inv hs
  | .listFetch _ _ _ => execListFetch_inv hs
  | .streamRequestIssue _ _ => execStreamRequestIssue_inv hs
  | .streamResponse _ _ _ => execStreamResponse_inv hs
  | .fenceRetire _ => execFenceRetire_inv hs
  | .crcBlockFeed _ => execCrcBlockFeed_inv hs
  | .crcFeedEnd _ => execCrcFeedEnd_inv hs
  | .fhRxFrame _ _ => execFhRxFrame_inv hs
  | .rxBufferAssign _ _ => execRxBufferAssign_inv hs
  | .symbolClose _ => execSymbolClose_inv hs
  | .fallbackWatermark _ => execFallbackWatermark_inv hs
  | .fallbackStart _ => execFallbackStart_inv hs
  | .fheCrxEnable _ _ _ => execFheCrxEnable_inv hs
  | .praCfgEnable _ _ _ => execPraCfgEnable_inv hs
  | .occasionClose _ => execOccasionClose_inv hs
  | .codeBlockDispatch _ => execCodeBlockDispatch_inv hs
  | .harqCombineDone _ => execHarqCombineDone_inv hs
  | .codeBlockEnd _ _ => execCodeBlockEnd_inv hs
  | .polarDispatch _ => execPolarDispatch_inv hs
  | .polarEnd _ _ => execPolarEnd_inv hs
  | .encodeDispatch _ => execEncodeDispatch_inv hs
  | .encodeEnd _ _ => execEncodeEnd_inv hs
  | .decPshareWrite _ _ _ => execDecPshareWrite_inv hs
  | .txBufferAssign _ _ => execTxBufferAssign_inv hs
  | .cplaneWindowOpen _ _ => execCplaneWindowOpen_inv hs
  | .uplaneWindowOpen _ _ => execUplaneWindowOpen_inv hs
  | .txPartReady _ _ => execTxPartReady_inv hs
  | .cplaneWindowClose _ _ => execCplaneWindowClose_inv hs
  | .uplaneWindowClose _ _ => execUplaneWindowClose_inv hs
  | .fheCtxEnable _ _ _ => execFheCtxEnable_inv hs
  | .gatherDispatch _ => execGatherDispatch_inv hs
  | .rowReadDone _ => execRowReadDone_inv hs
  | .gatherRowUpdate _ => execGatherRowUpdate_inv hs
  | .ptnCtlWrite _ _ => execPtnCtlWrite_inv hs
  | .ptnCfgEnable _ _ _ => execPtnCfgEnable_inv hs
  | .ptnCfgDisable _ _ => execPtnCfgDisable_inv hs
  | .steal _ => execSteal_inv hs
  | .crossClusterSteal _ => execCrossClusterSteal_inv hs
  | .quantumExpiry _ => execQuantumExpiry_inv hs
  | .preemption _ => execPreemption_inv hs
  | .cairnSaveDone _ => execCairnSaveDone_inv hs
  | .cairnRestore _ => execCairnRestore_inv hs
  | .cairnRestoreDone _ => execCairnRestoreDone_inv hs
  | .cairnFaultClear _ _ => execCairnFaultClear_inv hs
  | .inheritSliceExpiry _ => execInheritSliceExpiry_inv hs
  | .holdLimitCut _ _ _ => execHoldLimitCut_inv hs
  | .semWrite _ _ _ _ => execSemWrite_inv hs
  | .refresh _ _ _ _ => execRefresh_inv hs
  | .hbmEnable _ _ => execHbmEnable_inv hs
  | .hbmTrainDone _ _ => execHbmTrainDone_inv hs
  | .hbmDisable _ _ => execHbmDisable_inv hs
  | .mmuFaultRecord _ => execMmuFaultRecord_inv hs
  | .mmuResolveRetry _ _ _ => execMmuResolveRetry_inv hs
  | .mmuResolveFail _ _ _ => execMmuResolveFail_inv hs
  | .invAll _ _ => execInvAll_inv hs
  | .invPage _ _ => execInvPage_inv hs
  | .invDone _ => execInvDone_inv hs
  | .frEnable _ _ _ => execFrEnable_inv hs
  | .writeBack _ _ => execWriteBack_inv hs
  | .writeBackInvalidate _ _ => execWriteBackInvalidate_inv hs
  | .maintDone => execMaintDone_inv hs
  | .linkEnable _ _ => execLinkEnable_inv hs
  | .linkDisable _ _ => execLinkDisable_inv hs
  | .linkTrainDone _ _ _ => execLinkTrainDone_inv hs
  | .linkTrainTimeout _ => execLinkTrainTimeout_inv hs
  | .retrain _ _ => execRetrain_inv hs
  | .retrainDone _ _ => execRetrainDone_inv hs
  | .retrainTimeout _ => execRetrainTimeout_inv hs
  | .flitReceive _ _ _ => execFlitReceive_inv hs
  | .packetTransit _ => execPacketTransit_inv hs
  | .rdReq _ _ => execRdReq_inv hs
  | .rdRsp _ => execRdRsp_inv hs
  | .wr _ _ => execWr_inv hs
  | .wrAck _ => execWrAck_inv hs
  | .atom _ _ => execAtom_inv hs
  | .atomRsp _ => execAtomRsp_inv hs
  | .errRsp _ => execErrRsp_inv hs
  | .belay _ => execBelay_inv hs
  | .gpoolReq _ => execGpoolReq_inv hs
  | .gpoolRsp _ => execGpoolRsp_inv hs
  | .digest _ => execDigest_inv hs
  | .messageAppend _ => execMessageAppend_inv hs
  | .messageTimeout _ => execMessageTimeout_inv hs
  | .requestTimeout _ => execRequestTimeout_inv hs
  | .belayHoldTimeout => execBelayHoldTimeout_inv hs
  | .routeWrite _ _ _ _ => execRouteWrite_inv hs
  | .digestAllocate _ => execDigestAllocate_inv hs
  | .digestComputeDone _ => execDigestComputeDone_inv hs
  | .lockstepCompareEnd _ => execLockstepCompareEnd_inv hs
  | .ropeTimeout _ => execRopeTimeout_inv hs
  | .orphanDiscard => execOrphanDiscard_inv hs
  | .bucketLeak _ => execBucketLeak_inv hs
  | .spareCopyDone _ => execSpareCopyDone_inv hs
  | .tileMove _ => execTileMove_inv hs
  | .bbxRetire _ _ _ => execBbxRetire_inv hs
  | .bktWrite _ _ _ => execBktWrite_inv hs
  | .pageProgramDone => execPageProgramDone_inv hs
  | .bankOpen => execBankOpen_inv hs
  | .switch _ => execSwitch_inv hs
  | .softwareRecord _ _ => execSoftwareRecord_inv hs
  | .domainOn _ _ => execDomainOn_inv hs
  | .domainOff _ _ => execDomainOff_inv hs
  | .domainDrainDone _ => execDomainDrainDone_inv hs
  | .domainIsolateDone _ => execDomainIsolateDone_inv hs
  | .domainRampDone _ => execDomainRampDone_inv hs
  | .domainRestoreDone _ => execDomainRestoreDone_inv hs
  | .opReq _ _ _ => execOpReq_inv hs
  | .pllLock _ => execPllLock_inv hs
  | .voltageReached _ => execVoltageReached_inv hs
  | .vsettleExpiry _ => execVsettleExpiry_inv hs
  | .powerEstimate _ _ _ _ _ _ => execPowerEstimate_inv hs
  | .poutCalibrate _ => execPoutCalibrate_inv hs
  | .sagWarn _ _ => execSagWarn_inv hs
  | .sagClear => execSagClear_inv hs
  | .supplyReset => execSupplyReset_inv hs
  | .pwrSagWrite _ _ => execPwrSagWrite_inv hs
  | .thermWarn _ _ _ => execThermWarn_inv hs
  | .thermalFloorStep _ _ => execThermalFloorStep_inv hs
  | .thermTrip _ _ => execThermTrip_inv hs
  | .stop _ _ => execStop_inv hs
  | .rtcWake _ _ => execRtcWake_inv hs
  | .rtcSubRead => execRtcSubRead_inv hs
  | .rtcLoad _ _ => execRtcLoad_inv hs
  | .clockLoss _ => execClockLoss_inv hs
  | .porstFall _ _ _ _ => execPorstFall_inv hs
  | .porstRise _ _ => execPorstRise_inv hs
  | .bootFlash => execBootFlash_inv hs
  | .flashTimeout => execFlashTimeout_inv hs
  | .bootCal => execBootCal_inv hs
  | .bootFloors => execBootFloors_inv hs
  | .bootOwner => execBootOwner_inv hs
  | .bootBbx => execBootBbx_inv hs
  | .bootImage _ _ => execBootImage_inv hs
  | .bootRebuild => execBootRebuild_inv hs
  | .commit _ => execCommit_inv hs
  | .commitDone => execCommitDone_inv hs
  | .confirm _ => execConfirm_inv hs
  | .extend _ _ => execExtend_inv hs
  | .attest _ _ _ => execAttest_inv hs
  | .verify _ _ => execVerify_inv hs
  | .derive _ _ => execDerive_inv hs
  | .secDone => execSecDone_inv hs
  | .trngFail _ => execTrngFail_inv hs
  | .trngStartupTest _ => execTrngStartupTest_inv hs
  | .start _ _ => execStart_inv hs
  | .hartReset _ _ => execHartReset_inv hs
  | .coreAccess _ _ _ _ _ _ _ => execCoreAccess_inv hs
  | .msiWrite _ _ _ _ => execMsiWrite_inv hs
  | .aplicSource _ _ => execAplicSource_inv hs
  | .pcieLinkChange _ _ _ => execPcieLinkChange_inv hs
  | .pcieInbound _ _ _ => execPcieInbound_inv hs
  | .pcieOutbound _ _ => execPcieOutbound_inv hs
  | .pcieCompletionTimeout _ => execPcieCompletionTimeout_inv hs
  | .msixUnmask _ _ => execMsixUnmask_inv hs
  | .flr _ => execFlr_inv hs
  | .pciePerst => execPciePerst_inv hs
  | .ethLinkChange _ _ => execEthLinkChange_inv hs
  | .ethPortEnable _ _ => execEthPortEnable_inv hs
  | .ethFrameReceive _ _ _ => execEthFrameReceive_inv hs
  | .pfcReceive _ _ _ => execPfcReceive_inv hs
  | .ethFrameTransmit _ => execEthFrameTransmit_inv hs
  | .ethTxtail _ _ _ => execEthTxtail_inv hs
  | .xspCmd _ _ => execXspCmd_inv hs
  | .xspDone _ => execXspDone_inv hs
  | .sbCmd _ _ => execSbCmd_inv hs
  | .sbDone _ _ => execSbDone_inv hs
  | .arrClrCnt _ _ => execArrClrCnt_inv hs
  | .eleClrCnt _ _ => execEleClrCnt_inv hs
  | .stmClrCnt _ _ => execStmClrCnt_inv hs
  | .fheRxClrCnt _ => execFheRxClrCnt_inv hs
  | .fheTxClrCnt _ => execFheTxClrCnt_inv hs
  | .praClrCnt _ => execPraClrCnt_inv hs
  | .decClrCnt _ => execDecClrCnt_inv hs
  | .encClrCnt _ => execEncClrCnt_inv hs
  | .gthClrCnt _ _ => execGthClrCnt_inv hs
  | .ptnClrCnt _ _ => execPtnClrCnt_inv hs
  | .cluClrCnt _ _ => execCluClrCnt_inv hs
  | .hbmClrCnt _ _ => execHbmClrCnt_inv hs
  | .yalClrCnt _ => execYalClrCnt_inv hs
  | .dgtClrCnt _ => execDgtClrCnt_inv hs
  | .bbxClrCnt _ => execBbxClrCnt_inv hs
  | .registerWrite _ _ _ => execRegisterWrite_inv hs
  | .resultWrite _ => execResultWrite_inv hs
  | .supplyRecovery => execSupplyRecovery_inv hs
  | .refclkPllLock _ => execRefclkPllLock_inv hs
  | .clockReturn _ => execClockReturn_inv hs
  | .pciePerstRelease => execPciePerstRelease_inv hs
  | .postedWriteDrop => execPostedWriteDrop_inv hs
  | .thermalTripWake _ _ => execThermalTripWake_inv hs
  | .rtcTick => execRtcTick_inv hs
  | .tileDebugAccess _ _ _ _ => execTileDebugAccess_inv hs
  | .waysWriteBackDone _ => execWaysWriteBackDone_inv hs

/-- Settles O49: on an empty queue the block idles; the command at the front keeps the invariant of the state without it. -/
theorem everyStepKeepsTheInvariant : Obligations.EveryStepKeepsTheInvariant := by
  unfold Obligations.EveryStepKeepsTheInvariant
  intro s t hs hstep
  rw [step] at hstep
  split at hstep
  next => exact invNext_next hs t hstep
  next c rest _ => exact exec_inv (State.pending_inv hs rest) c t hstep

/-! ## Snapshots of the time (R45) -/

/-- A partition's snapshot answers at SNAP1-SNAP3 what it holds. -/
theorem State.rdAtu_snap (s : State) (p : Nat) :
    (s.rdAtu p 0x40040034).1 = (s.atu.snaps.getD p ⟨0, 0⟩).sec.toNat % 2 ^ 32 ∧
      (s.rdAtu p 0x40040038).1 = (s.atu.snaps.getD p ⟨0, 0⟩).sec.toNat / 2 ^ 32 ∧
      (s.rdAtu p 0x4004003C).1 = (s.atu.snaps.getD p ⟨0, 0⟩).frac.toNat :=
  ⟨rfl, rfl, rfl⟩

/-- Reading SNAP0 latches for the reading partition. -/
theorem State.snapRead_on {s : State} (hon : s.domOn 77 = true) (p : Nat) :
    s.snapRead p = s.modAtu fun a => { a with snaps := a.snaps.put p { sec := a.sec, frac := a.frac } } := by
  rw [State.snapRead, if_pos hon]

/-- Settles O50: the latch is one row of the table of snapshots, and SNAP1-SNAP3 read that row alone. -/
theorem snapshotsAreSeparate : Obligations.SnapshotsAreSeparate := by
  unfold Obligations.SnapshotsAreSeparate
  intro p s hon
  have hlatch := State.snapRead_on hon p
  have hsame : (s.snapRead p).atu.snaps.getD p ⟨0, 0⟩ = ⟨s.atu.sec, s.atu.frac⟩ := by
    simp [hlatch]
  have hother : ∀ q : PtnIx, q ≠ p → (s.snapRead p).atu.snaps.getD q ⟨0, 0⟩ = s.atu.snaps.getD q ⟨0, 0⟩ := by
    intro q hq
    have hne : q.val ≠ p.val := fun h => hq (Fin.ext h)
    simp [hlatch, Table.getD_put_other _ hne]
  refine ⟨s.snapRead p, rfl, rfl, fun u hu => ?_, hother, ?_⟩
  · have hread := u.rdAtu_snap p
    rw [hu, hsame] at hread
    exact hread
  · rw [hlatch]
    exact ⟨rfl, rfl, rfl, rfl, rfl, rfl⟩

end Sys2Proof.Machine
end

section
/-! The commands of JOB in their enabled cases (chapter 03). -/
namespace Sys2Proof.Machine

/-! ## Who may write (R72, R91) -/

/-- A partition writes its own JOB registers, the manager every partition's. -/
theorem State.jobWriter_of {s : State} {src p : PtnIx} (h : src = p ∨ src.val = s.manager) : s.jobWriter src p = true := by
  rcases h with rfl | hmanager
  · simp [State.jobWriter]
  · simp [State.jobWriter, hmanager]

/-! ## Fetch, launch and dispatch (R61, R74, R79, R81) -/

theorem State.fetchDescriptor_some {s : State} {p r n : Nat} (hring : s.fetchRing p = some (r, n)) :
    s.fetchDescriptor p = (s.modJobPtn p fun j => { j with rrRing := r, rrTaken := n }).fetchFrom p r := by
  rw [State.fetchDescriptor, hring]

/-- A held job whose count has come is dispatched where its tasks fit; `v` is the state in which it counts as launched. -/
theorem State.launchRelease_tiles {s v : State} {j : Nat} {x y : Job} {ts : List Nat} (hjob : s.job? j = some x)
    (hflag : x.flag 5 = true) (hheld : x.launched = false) (hphase : x.phase ≠ .draining) (hdue : x.launchNs ≤ s.count)
    (hv : ((s.putJob j { x with launched := true }).refresh).modJob j (fun x => { x with launchLate := false }) = v)
    (hy : v.job? j = some y) (heligible : v.eligible j y = true) (hplace : v.placing y = .tiles ts) :
    s.launchRelease j = v.dispatchOn j y ts := by
  have hopen : ¬(¬x.flag 5 = true ∨ x.launched = true ∨ x.phase = .draining ∨ s.count < x.launchNs) := by
    simp [hflag, hheld, hphase, hdue]
  rw [State.launchRelease, hjob]
  dsimp only
  rw [if_neg hopen, hv, hy]
  dsimp only
  rw [if_pos heligible, hplace]

theorem State.dispatchJob_tiles {s : State} {p j : Nat} {x : Job} {ts : List Nat}
    (hfirst : s.firstJob (s.jobList.filter fun r =>
      r.2.ptn == p && s.eligible r.1 r.2 && decide (s.placing r.2 ≠ .wait)) = some (j, x))
    (hplace : s.placing x = .tiles ts) : s.dispatchJob p = s.dispatchOn j x ts := by
  rw [State.dispatchJob, hfirst]
  dsimp only
  rw [hplace]

/-! ## Ends (R80, R82, R87, R88) -/

theorem State.deadlineExpiry_missed {s : State} {j : Nat} {x : Job} (hjob : s.job? j = some x) (hmissed : x.missed s.now = true)
    (hdue : s.txDue = false) : s.deadlineExpiry j = s.missJob j := by
  rw [State.deadlineExpiry, hjob]
  dsimp only
  rw [if_pos ⟨hmissed, by simp [hdue]⟩]

/-- A job compares no longer once what it has of a digest is compared. -/
theorem State.not_comparing {s : State} {j : Nat} {x : Job}
    (h : x.flag 1 = true → x.startTs.isSome = true → ∀ d, s.dgt? j = some d → d.compared = true) : s.comparing j x = false := by
  cases hflag : x.flag 1 with
  | false => simp [State.comparing, hflag]
  | true =>
    cases hstart : x.startTs.isSome with
    | false => simp [State.comparing, hstart]
    | true =>
      cases hdgt : s.dgt? j with
      | none => simp [State.comparing, hdgt]
      | some d => simp [State.comparing, hdgt, h hflag hstart d hdgt]

/-- An ended job that has nothing to compare comes to its record; `v` is the state with its signals given. -/
theorem State.completeJob_records {s v : State} {j : Nat} {x y : Job} (hjob : s.job? j = some x) (hphase : x.phase = .draining)
    (hend : x.endTs.isSome = true) (hready : s.digestReady j x = true) (hv : s.applySignals j x = v) (hy : v.job? j = some y)
    (hcompare : v.comparing j y = false) : s.completeJob j = v.recordJob j y := by
  have hended : ¬(x.phase ≠ .draining ∨ x.endTs.isNone = true ∨ ¬s.digestReady j x = true) := by
    simp [hphase, hready, Option.isSome_iff_ne_none.1 hend]
  rw [State.completeJob, hjob]
  dsimp only
  rw [if_neg hended, hv, hy]
  cases v.dgt? j with
  | none => rfl
  | some d => simp [hcompare]

theorem State.recordJob_inTurn {s : State} {j : Nat} {x : Job} (h : s.recordTurn j x = true) :
    s.recordJob j x = ((s.failedConflict j x).harqOpen x).writeRecord j x := by
  rw [State.recordJob, if_pos h]

/-- What JOB keeps of a partition is no register. -/
theorem State.reg_modJobPtn (s : State) (p : Nat) (f : JobPtn → JobPtn) (r : Reg) (i j : Nat) :
    (s.modJobPtn p f).reg r i j = s.reg r i j := rfl

theorem State.irqTimer_completions {s : State} {p : Nat} (hen : s.flag JOB_CQ_CFG.IRQ_EN p = true)
    (htime : s.fld JOB_CQ_IRQ.IRQ_TIME p ≠ 0) (hsince : (s.jobPtn p).cqSince ≠ 0)
    (hpassed : s.passed (s.jobPtn p).cqAt (s.fld JOB_CQ_IRQ.IRQ_TIME p * ticksPerUs) = true) :
    s.irqTimer p false = ((s.modJobPtn p fun y => { y with cqSince := 0 }).msiReg p 5 (s.reg JOB_CQ_MSI p)).done := by
  simp [State.irqTimer, hen, htime, hsince, hpassed, State.reg_modJobPtn]

/-! ## The object table (R90, R91) -/

theorem State.objectRegister_free {s : State} {src p h : Nat} (hsrc : s.jobWriter src p = true)
    (hbusy : s.flag JOB_OT_STAT.BUSY p = false) : s.objectRegister src p h =
      ((((s.setFld JOB_OT_STAT.BUSY 1 p).setFld JOB_OT_STAT.ERR 0 p).setFld JOB_OT_STAT.INDEX h p).modJobPtn p fun y =>
        { y with otBusy := some h, otWait := false }).setObject p h 1 := by
  simp [State.objectRegister, hsrc, hbusy]

/-- A registration whose three accesses succeed ends without an error. -/
theorem State.objectRead_ok {s u v w : State} {p h : Nat} {e bs : List Byte} (hbusy : (s.jobPtn p).otBusy = some h)
    (hwait : (s.jobPtn p).otWait = false)
    (hentry : s.vRead p (s.addrOf JOB_OT_BASE_LO JOB_OT_BASE_HI p + 64 * h) 64 = (.ok e, u)) (htype : objType e = 1 ∨ objType e = 2)
    (hsize : objectSizeOk e = true) (himage : u.vRead p (field e 8 6) (field e 4 4) = (.ok bs, v))
    (hdigest : v.put p (s.addrOf JOB_OT_BASE_LO JOB_OT_BASE_HI p + 64 * h + 32) (sha256 bs) = (.ok (), w)) :
    s.objectRead p = w.objectEnd p h 0 := by
  have hknown : ¬(objType e ≠ 1 ∧ objType e ≠ 2) := by omega
  rw [State.objectRead, hbusy]
  dsimp only
  rw [if_neg (by simp [hwait]), hentry]
  dsimp only
  rw [if_neg hknown, if_neg (by simp [hsize]), himage]
  dsimp only
  rw [hdigest]

/-- A registered object is retired; `v` is the state with the command's index shown. -/
theorem State.objectRetire_registered {s u v : State} {src p h : Nat} {e : List Byte} (hsrc : s.jobWriter src p = true)
    (hbusy : s.flag JOB_OT_STAT.BUSY p = false) (hv : (s.setFld JOB_OT_STAT.ERR 0 p).setFld JOB_OT_STAT.INDEX h p = v)
    (hentry : v.vRead p (v.addrOf JOB_OT_BASE_LO JOB_OT_BASE_HI p + 64 * h) 64 = (.ok e, u)) (hstate : objState e = 2) :
    s.objectRetire src p h =
      ((u.setObject p h 3).modJobPtn p fun y => { y with retiring := y.retiring ++ [h] }).freeObjects p := by
  rw [State.objectRetire, if_neg (by simp [hsrc]), if_neg (by simp [hbusy])]
  dsimp only
  rw [hv, hentry]
  dsimp only
  rw [if_neg (by simp [hstate])]

/-- Settles O23: each command by the lemma of its operation. -/
theorem jobCommandsComplete : Obligations.JobCommandsComplete := by
  unfold Obligations.JobCommandsComplete
  intro p s
  refine ⟨?launch, ?fetch, ?dispatch, ?deadline, ?complete, ?timer, ?register, ?registerDone, ?retire⟩
  case launch =>
    intro j x y ts hjob hflag hheld hphase hdue v hy heligible hplace
    rw [exec_launchRelease, execLaunchRelease, State.launchRelease_tiles hjob hflag hheld hphase hdue rfl hy heligible hplace]
  case fetch =>
    intro r n hring
    rw [exec_descriptorFetch, execDescriptorFetch, State.fetchDescriptor_some hring]
  case dispatch =>
    intro j x ts hfirst hplace
    rw [exec_jobDispatch, execJobDispatch, State.dispatchJob_tiles hfirst hplace]
  case deadline =>
    intro j x hjob hmissed hdue
    rw [exec_deadlineExpiry, execDeadlineExpiry, State.deadlineExpiry_missed hjob hmissed hdue]
  case complete =>
    intro j x y hjob hphase hend hready hy hturn hcompared
    rw [exec_jobComplete, execJobComplete,
      State.completeJob_records hjob hphase hend hready rfl hy (State.not_comparing hcompared), State.recordJob_inTurn hturn]
  case timer =>
    intro hen htime hsince hpassed
    rw [exec_cqIrqTimer, execCqIrqTimer, State.irqTimer_completions hen htime hsince hpassed]
  case register =>
    intro src h hsrc hbusy
    rw [exec_otRegister, execOtRegister, State.objectRegister_free (State.jobWriter_of hsrc) hbusy]
  case registerDone =>
    intro h hbusy hwait e bs u v w hentry htype hsize himage hdigest
    rw [exec_otRegisterDone, execOtRegisterDone, State.objectRead_ok hbusy hwait hentry htype hsize himage hdigest]
  case retire =>
    intro src h e u hsrc hbusy hentry hstate
    rw [exec_otRetire, execOtRetire, State.objectRetire_registered (State.jobWriter_of hsrc) hbusy rfl hentry hstate]

end Sys2Proof.Machine
end

section
/-! Rings and their doorbells (chapter 03, R69-R75). -/
namespace Sys2Proof.Machine

/-! ## What an event leaves readable -/

/-- A JOB register below the tail and status of its partition's event ring. -/
theorem recordReg_below_eqTail {q : Reg} {p j : Nat} (hp : p < 16) (hstep : q.st1 = 0x800) (hlo : 0x40051000 ≤ q.base)
    (hhi : q.base + q.st2 * j < 0x40051230) : recordReg (q.addr p j) = false := by
  have haddr : q.addr p j = q.base + q.st2 * j + 0x800 * p := by rw [Reg.addr, hstep]; omega
  have hlow : q.base ≤ q.base + q.st2 * j := Nat.le_add_right _ _
  rw [haddr]
  simp only [recordReg, Bool.or_eq_false_iff, Bool.and_eq_false_iff, decide_eq_false_iff_not]
  omega

/-- Registers laid out with the same steps differ in every copy as they do in the first. -/
theorem Reg.addr_ne (q r : Reg) (h : q.st1 = r.st1 ∧ q.st2 = r.st2 ∧ q.base ≠ r.base) (i j : Nat) : q.addr i j ≠ r.addr i j := by
  obtain ⟨h1, h2, hbase⟩ := h
  simp [Reg.addr, h1, h2, hbase]

theorem State.reg_setReg_word (s : State) (r : Reg) (v : Word) (i j : Nat) : (s.setReg r v.toNat i j).reg r i j = v.toNat := by
  rw [State.reg_setReg_same, Nat.mod_eq_of_lt v.isLt]

/-- A flag that is set before an event reads 1 after it. -/
theorem State.flag_setFld_event (s : State) (f : Fld) (i j : Nat) {p : Nat} (hbit : f.lo = f.hi) (h31 : f.hi < 32) (hp : p < 16)
    (hrec : recordReg (f.reg.addr i j) = false) (code unit : Nat) (data : List (Nat × Nat)) :
    ((s.setFld f 1 i j).event code p unit data).flag f i j = true := by
  rw [(State.event_recorded _ code unit data hp).flag f i j hrec, State.flag, State.fld_setFld_same _ _ _ _ _ hbit.le h31, hbit]
  simp

/-- A register keeps its word when a field of another is set and an event is raised. -/
theorem State.reg_setFld_event_other (s : State) {f : Fld} {r : Reg} {i j p : Nat} (hp : p < 16)
    (hne : r.addr i j ≠ f.reg.addr i j) (hrec : recordReg (r.addr i j) = false) (v code unit : Nat) (data : List (Nat × Nat)) :
    ((s.setFld f v i j).event code p unit data).reg r i j = s.reg r i j := by
  rw [(State.event_recorded _ code unit data hp).reg r i j hrec, State.reg_setFld_other _ _ _ _ _ _ _ _ hne]

/-! ## Doorbells (R72) -/

/-- A tail that passes both checks becomes the tail; JOB notes at most when it came. -/
theorem State.sqDoorbell_taken {s : State} {p r t : Nat} (hen : s.flag JOB_SQ_CFG.EN p r = true)
    (hhead : dist32 t (s.reg JOB_SQ_HEAD p r) ≤ 2 ^ s.fld JOB_SQ_CFG.LOG2SIZE p r)
    (htail : dist32 t (s.reg JOB_SQ_TAIL p r) ≤ 2 ^ s.fld JOB_SQ_CFG.LOG2SIZE p r) :
    ∃ cov, s.sqDoorbell p p r t = { s.setReg JOB_SQ_TAIL t p r with job := { s.job with coverage := cov } } := by
  rw [State.sqDoorbell, if_neg (by simp [hen])]
  dsimp only
  rw [if_pos ⟨hhead, htail⟩]
  split
  · exact ⟨s.job.coverage, rfl⟩
  · exact ⟨_, rfl⟩

theorem State.sqDoorbell_overpost {s : State} {p r t : Nat} (hen : s.flag JOB_SQ_CFG.EN p r = true)
    (hfar : ¬(dist32 t (s.reg JOB_SQ_HEAD p r) ≤ 2 ^ s.fld JOB_SQ_CFG.LOG2SIZE p r ∧
      dist32 t (s.reg JOB_SQ_TAIL p r) ≤ 2 ^ s.fld JOB_SQ_CFG.LOG2SIZE p r)) :
    s.sqDoorbell p p r t = (s.setFld JOB_SQ_STAT.OVERPOST 1 p r).event evOverpost p r [] := by
  rw [State.sqDoorbell, if_neg (by simp [hen])]
  exact if_neg hfar

theorem State.cqDoorbell_moves {s : State} {p h : Nat} (hen : s.flag JOB_CQ_CFG.EN p = true)
    (hle : dist32 (s.reg JOB_CQ_TAIL p) h ≤ dist32 (s.reg JOB_CQ_TAIL p) (s.reg JOB_CQ_HEAD p)) :
    s.cqDoorbell p p h = (s.setReg JOB_CQ_HEAD h p).setFld JOB_CQ_STAT.FULL
      (b2n (decide (2 ^ s.fld JOB_CQ_CFG.LOG2SIZE p ≤ dist32 (s.reg JOB_CQ_TAIL p) h))) p := by
  rw [State.cqDoorbell, if_neg (by simp [hen]), headMoves, if_pos (decide_eq_true hle), ringSize]

theorem State.cqDoorbell_overpost {s : State} {p h : Nat} (hen : s.flag JOB_CQ_CFG.EN p = true)
    (hlt : dist32 (s.reg JOB_CQ_TAIL p) (s.reg JOB_CQ_HEAD p) < dist32 (s.reg JOB_CQ_TAIL p) h) :
    s.cqDoorbell p p h = (s.setFld JOB_CQ_STAT.OVERPOST 1 p).event evOverpost p 16 [] := by
  rw [State.cqDoorbell, if_neg (by simp [hen]), if_neg (by simp [headMoves, hlt])]

theorem State.eqDoorbell_moves {s : State} {p h : Nat} (hen : s.flag JOB_EQ_CFG.EN p = true)
    (hle : dist32 (s.reg JOB_EQ_TAIL p) h ≤ dist32 (s.reg JOB_EQ_TAIL p) (s.reg JOB_EQ_HEAD p)) :
    s.eqDoorbell p p h = (s.setReg JOB_EQ_HEAD h p).setFld JOB_EQ_STAT.FULL
      (b2n (decide (2 ^ s.fld JOB_EQ_CFG.LOG2SIZE p ≤ dist32 (s.reg JOB_EQ_TAIL p) h))) p := by
  rw [State.eqDoorbell, if_neg (by simp [hen]), headMoves, if_pos (decide_eq_true hle), ringSize]

theorem State.eqDoorbell_overpost {s : State} {p h : Nat} (hen : s.flag JOB_EQ_CFG.EN p = true)
    (hlt : dist32 (s.reg JOB_EQ_TAIL p) (s.reg JOB_EQ_HEAD p) < dist32 (s.reg JOB_EQ_TAIL p) h) :
    s.eqDoorbell p p h = (s.setFld JOB_EQ_STAT.OVERPOST 1 p).event evOverpost p 17 [] := by
  rw [State.eqDoorbell, if_neg (by simp [hen]), if_neg (by simp [headMoves, hlt])]

/-- A head that is taken reads as written, and the tail stays: of a ring whose head, tail and status lie in one block. -/
theorem State.reg_head_tail_of_moved (s : State) {head tail : Reg} {full : Fld} (hht : tail.addr p 0 ≠ head.addr p 0)
    (hhf : head.addr p 0 ≠ full.reg.addr p 0) (htf : tail.addr p 0 ≠ full.reg.addr p 0) (h : Word) (v : Nat) :
    ((s.setReg head h.toNat p).setFld full v p).reg head p = h.toNat ∧
      ((s.setReg head h.toNat p).setFld full v p).reg tail p = s.reg tail p := by
  rw [State.reg_setFld_other _ _ _ _ _ _ _ _ hhf, State.reg_setFld_other _ _ _ _ _ _ _ _ htf, State.reg_setReg_other _ hht,
    State.reg_setReg_word]
  exact ⟨rfl, rfl⟩

/-- Settles O51: a count that is taken is one register written, and an event after OVERPOST leaves the counts readable. -/
theorem doorbellsCheckTheirCounts : Obligations.DoorbellsCheckTheirCounts := by
  unfold Obligations.DoorbellsCheckTheirCounts
  intro p s
  refine ⟨fun r t hen => ⟨?sqTaken, ?sqOverpost⟩, fun h hen => ⟨?cqMoves, ?cqOverpost⟩,
    fun h hen => ⟨?eqMoves, ?eqOverpost⟩⟩
  case sqTaken =>
    rintro ⟨hhead, htail⟩
    obtain ⟨cov, hu⟩ := State.sqDoorbell_taken hen hhead htail
    exact ⟨_, congrArg Host.Outcome.next hu, s.reg_setReg_word JOB_SQ_TAIL t p r,
      fun a ha => s.regAt_setReg_other ha t.toNat, rfl, rfl, rfl⟩
  case sqOverpost =>
    intro hfar
    have hr : 0x20 * r.val ≤ 0x1E0 := by omega
    refine ⟨_, congrArg Host.Outcome.next (State.sqDoorbell_overpost hen hfar), rfl, ?_, ?_⟩
    · exact s.reg_setFld_event_other p.isLt (Reg.addr_ne JOB_SQ_TAIL JOB_SQ_STAT (by decide) p r)
        (recordReg_below_eqTail p.isLt rfl (by decide) (by simp only [JOB_SQ_TAIL]; omega)) _ _ _ _
    · exact s.flag_setFld_event JOB_SQ_STAT.OVERPOST p r rfl (by decide) p.isLt
        (recordReg_below_eqTail (q := JOB_SQ_STAT) p.isLt rfl (by decide) (by simp only [JOB_SQ_STAT]; omega)) _ _ _
  case cqMoves =>
    intro hle
    have hcounts := s.reg_head_tail_of_moved (full := JOB_CQ_STAT.FULL) (Reg.addr_ne JOB_CQ_TAIL JOB_CQ_HEAD (by decide) p 0)
      (Reg.addr_ne JOB_CQ_HEAD JOB_CQ_STAT (by decide) p 0) (Reg.addr_ne JOB_CQ_TAIL JOB_CQ_STAT (by decide) p 0) h
    exact ⟨_, congrArg Host.Outcome.next (State.cqDoorbell_moves hen hle), and_assoc.1 ⟨hcounts _, rfl⟩⟩
  case cqOverpost =>
    intro hlt
    refine ⟨_, congrArg Host.Outcome.next (State.cqDoorbell_overpost hen hlt), ⟨16, rfl⟩, ?_, ?_⟩
    · exact s.reg_setFld_event_other p.isLt (Reg.addr_ne JOB_CQ_HEAD JOB_CQ_STAT (by decide) p 0)
        (recordReg_below_eqTail p.isLt rfl (by decide) (by decide)) _ _ _ _
    · exact s.flag_setFld_event JOB_CQ_STAT.OVERPOST p 0 rfl (by decide) p.isLt
        (recordReg_below_eqTail p.isLt rfl (by decide) (by decide)) _ _ _
  case eqMoves =>
    intro hle
    have hcounts := s.reg_head_tail_of_moved (full := JOB_EQ_STAT.FULL) (Reg.addr_ne JOB_EQ_TAIL JOB_EQ_HEAD (by decide) p 0)
      (Reg.addr_ne JOB_EQ_HEAD JOB_EQ_STAT (by decide) p 0) (Reg.addr_ne JOB_EQ_TAIL JOB_EQ_STAT (by decide) p 0) h
    exact ⟨_, congrArg Host.Outcome.next (State.eqDoorbell_moves hen hle), and_assoc.1 ⟨hcounts _, rfl⟩⟩
  case eqOverpost =>
    intro hlt
    refine ⟨_, congrArg Host.Outcome.next (State.eqDoorbell_overpost hen hlt), ⟨17, rfl⟩, ?_⟩
    exact s.reg_setFld_event_other p.isLt (Reg.addr_ne JOB_EQ_HEAD JOB_EQ_STAT (by decide) p 0)
      (recordReg_below_eqTail p.isLt rfl (by decide) (by decide)) _ _ _ _

/-! ## Ring configuration (R69, R75) -/

/-- EN takes a size of 6 to 16 while the ring is disabled. -/
theorem ringCfg_enables {v : Nat} (hbit : bit v 31 = true) (hlo : 6 ≤ bits v 4 0) (hhi : bits v 4 0 ≤ 16) (log2 : Nat) :
    ringCfg false log2 v = (true, bits v 4 0) := by
  have hbits : bits v 4 0 = v % 32 := by simp [bits]
  rw [hbits] at hlo hhi ⊢
  simp [ringCfg, hbit, hlo, hhi]

theorem State.sqCfg_regs_enabled {s : State} {p r v : Nat} (hoff : s.flag JOB_SQ_CFG.EN p r = false) (hbit : bit v 31 = true)
    (hlo : 6 ≤ bits v 4 0) (hhi : bits v 4 0 ≤ 16) :
    (s.sqCfg p r v).regs = ((((s.setFld JOB_SQ_CFG.EN 1 p r).setFld JOB_SQ_CFG.LOG2SIZE (bits v 4 0) p r).setReg
        JOB_SQ_HEAD 0 p r).setReg JOB_SQ_TAIL 0 p r).regs := by
  rw [State.sqCfg, hoff]
  simp only [ringCfg_enables hbit hlo hhi, Bool.not_false, Bool.and_true, if_true, b2n]

theorem State.sqCfg_mem (s : State) (p r v : Nat) : (s.sqCfg p r v).mem = s.mem := by
  unfold State.sqCfg
  generalize s.flag JOB_SQ_CFG.EN p r = on
  generalize ringCfg on (s.fld JOB_SQ_CFG.LOG2SIZE p r) v = cfg
  obtain ⟨en, lg⟩ := cfg
  dsimp only
  split
  · rw [State.setReg_mem, State.setReg_mem, State.setFld_mem, State.setFld_mem]
  · rw [State.setFld_mem, State.setFld_mem]

/-- Enabling a submission ring sets EN and its size and returns its counts to 0. -/
theorem State.sqCfg_enables {s : State} {p r v : Nat} (hoff : s.flag JOB_SQ_CFG.EN p r = false) (hbit : bit v 31 = true)
    (hlo : 6 ≤ bits v 4 0) (hhi : bits v 4 0 ≤ 16) :
    (s.sqCfg p r v).flag JOB_SQ_CFG.EN p r = true ∧ (s.sqCfg p r v).reg JOB_SQ_HEAD p r = 0 ∧
      (s.sqCfg p r v).reg JOB_SQ_TAIL p r = 0 ∧ (s.sqCfg p r v).fld JOB_SQ_CFG.LOG2SIZE p r = bits v 4 0 := by
  have hword := State.regAt_congr (State.sqCfg_regs_enabled hoff hbit hlo hhi)
  have hhead := Reg.addr_ne JOB_SQ_CFG JOB_SQ_HEAD (by decide) p r
  have htail := Reg.addr_ne JOB_SQ_CFG JOB_SQ_TAIL (by decide) p r
  have hcounts := Reg.addr_ne JOB_SQ_HEAD JOB_SQ_TAIL (by decide) p r
  refine ⟨?_, ?_, ?_, ?_⟩
  · rw [State.flag, State.fld_congr_regAt (hword _), State.fld_setReg_other _ _ _ _ _ _ _ _ htail,
      State.fld_setReg_other _ _ _ _ _ _ _ _ hhead,
      State.fld_setFld_disjoint _ JOB_SQ_CFG.LOG2SIZE JOB_SQ_CFG.EN _ _ _ rfl (by decide) (by decide) (by decide) (by decide),
      State.fld_setFld_same _ _ _ _ _ (by decide) (by decide)]
    rfl
  · rw [State.reg, hword, State.regAt_setReg_other _ hcounts, State.setReg, State.regAt_setRegAt_same]
    rfl
  · rw [State.reg, hword, State.setReg, State.regAt_setRegAt_same]
    rfl
  · rw [State.fld_congr_regAt (hword _), State.fld_setReg_other _ _ _ _ _ _ _ _ htail,
      State.fld_setReg_other _ _ _ _ _ _ _ _ hhead, State.fld_setFld_same _ _ _ _ _ (by decide) (by decide)]
    exact Nat.mod_eq_of_lt (bits_lt _ _ _)

/-- Settles O22: each command by the lemma of its operation. -/
theorem ringCommandsComplete : Obligations.RingCommandsComplete := by
  unfold Obligations.RingCommandsComplete
  intro p s
  refine ⟨?taken, ?overpost, ?completions, ?events, ?enable, ?clear⟩
  case taken =>
    intro r t hen hhead htail _
    obtain ⟨cov, hu⟩ := State.sqDoorbell_taken hen hhead htail
    exact ⟨_, congrArg Host.Outcome.next hu, s.reg_setReg_word JOB_SQ_TAIL t p r,
      s.reg_setReg_other (Reg.addr_ne JOB_SQ_HEAD JOB_SQ_TAIL (by decide) p r) t.toNat, rfl, rfl, rfl⟩
  case overpost =>
    intro r t hen hfar
    rw [exec_sqDoorbell, execSqDoorbell, State.sqDoorbell_overpost hen hfar]
  case completions =>
    intro h hen hle
    rw [exec_cqDoorbell, execCqDoorbell, State.cqDoorbell_moves hen hle]
  case events =>
    intro h hen hle
    rw [exec_eqDoorbell, execEqDoorbell, State.eqDoorbell_moves hen hle]
  case enable =>
    intro src r v hsrc hoff hbit hlo hhi
    have hring : s.ringEnable src p r v.toNat = s.sqCfg p r v.toNat := by
      rw [State.ringEnable, if_neg (by simp [State.jobWriter_of hsrc]), if_pos r.isLt]
    obtain ⟨hon, hhead, htail, hsize⟩ := State.sqCfg_enables hoff hbit hlo hhi
    exact ⟨_, congrArg Host.Outcome.next hring, hon, hhead, htail, hsize, s.sqCfg_mem p r v.toNat⟩
  case clear =>
    intro src r hsrc
    rw [exec_fetchFaultClear, execFetchFaultClear, State.fetchFaultClear, if_pos (State.jobWriter_of hsrc)]

end Sys2Proof.Machine
end

section
/-! Belay commands and their release (chapter 03, R93-R98). -/
namespace Sys2Proof.Machine

/-! ## The queue (R93, R95) -/

/-- A command for this partition of this device enters its own queue. -/
theorem State.belayEnqueue_local {s : State} {p w : Nat} (hlo : 1 ≤ (BelayCmd.ofWord w none s.now).op)
    (hhi : (BelayCmd.ofWord w none s.now).op ≤ 5) (hchip : (BelayCmd.ofWord w none s.now).chip = s.chipId)
    (hptn : (BelayCmd.ofWord w none s.now).ptn = p) :
    s.belayEnqueue p p w = s.belayAccept p (BelayCmd.ofWord w none s.now) none := by
  have hop : ¬((BelayCmd.ofWord w none s.now).op = 0 ∨ 5 < (BelayCmd.ofWord w none s.now).op) := by omega
  rw [State.belayEnqueue, if_neg (not_not_intro rfl)]
  dsimp only
  rw [if_neg hop, if_pos hchip, if_pos hptn]

/-- The command at the front is taken off the queue and has its effect. -/
theorem State.belayRun_front {s : State} {p op : Nat} {c : BelayCmd} {rest : List BelayCmd} (hq : (s.jobPtn p).belay = c :: rest)
    (hlocal : s.belayLocal c = true) (hop : c.op = op) (eff : BelayCmd → State → State) :
    s.belayRun p op eff = eff c (s.modJobPtn p fun y => { y with belay := rest }) := by
  rw [State.belayRun, hq]
  dsimp only
  rw [if_neg (not_not_intro hop), if_pos hlocal]

/-! ## The end of a command (R96) -/

/-- A command of this device reports the chip's own number, and to nobody else. -/
theorem State.belayDone_local {s : State} {p : Nat} {w : BelayWait}
    (hfirst : ((s.jobPtn p).belayWaits.find? fun w => s.belayReady p w) = some w) (horigin : w.origin = none) :
    s.belayDone p =
      let u := (s.modJobPtn p fun y => { y with belayWaits := y.belayWaits.erase w }).setFld JOB_BL_STAT.DONE_SEQ w.seq p
      u.event evBelayDone p w.seq [w32 u.chipId] := by
  rw [State.belayDone, hfirst]
  dsimp only
  rw [horigin]

/-! ## Release and the counts (R98, R99) -/

theorem State.resume_released {s : State} {src p : Nat} (hsrc : s.jobWriter src p = true) (hqueued : s.belayQueued p 5 = false) :
    s.resume src p =
      let u := s.setFld JOB_PQ_STAT.HALTED 0 p
      let v : State := { u with job := { u.job with stops := u.job.stops.filter fun x => !(x.ptn == p && x.halt) } }
      v.releaseStopped := by
  rw [State.resume, if_neg (by simp [hsrc, hqueued])]

theorem State.unquiesce_released {s : State} {src p : Nat} (hsrc : s.jobWriter src p = true) (hqueued : s.belayQueued p 4 = false) :
    s.unquiesce src p = s.setFld JOB_PQ_STAT.QUIESCED 0 p := by
  rw [State.unquiesce, if_neg (by simp [hsrc, hqueued])]

/-- What each step reaches for its own element, and the other steps keep, holds of every element at the end. -/
theorem forEach_reaches {α : Type} {P : α → State → Prop} {f : α → State → State} (hdone : ∀ x s, P x (f x s))
    (hkeep : ∀ x y s, P x s → P x (f y s)) (xs : List α) (s : State) : ∀ x ∈ xs, P x (forEach xs f s) := by
  induction xs generalizing s with
  | nil => exact fun x hx => nomatch hx
  | cons y ys ih =>
    intro x hx
    rcases List.mem_cons.1 hx with rfl | hx
    · exact forEach_keeps (hkeep x) ys (hdone x s)
    · exact ih (f y s) x hx

theorem State.reg_pqCnt_clear (s : State) (p q : Nat) (h : q = p ∨ s.reg JOB_PQ_CNT q = 0) :
    (s.setReg JOB_PQ_CNT 0 p).reg JOB_PQ_CNT q = 0 := by
  by_cases hqp : q = p
  · rw [hqp, State.reg_setReg_same, Nat.zero_mod]
  · have haddr : JOB_PQ_CNT.addr q 0 ≠ JOB_PQ_CNT.addr p 0 := by simpa [Reg.addr, JOB_PQ_CNT] using hqp
    rw [State.reg_setReg_other _ haddr]
    exact h.resolve_left hqp

/-- The manager's CLR_STATS returns the counts of every partition to 0 and touches nothing but registers. -/
theorem State.jobClrStats_manager {s : State} {src : Nat} (hsrc : src = s.manager) :
    (s.jobClrStats src).reg JOB_BL_MAXLAT = 0 ∧ (∀ q, q < 16 → (s.jobClrStats src).reg JOB_PQ_CNT q = 0) ∧
      (s.jobClrStats src).mem = s.mem ∧ (s.jobClrStats src).job = s.job := by
  have hlat : ∀ (p : Nat) (u : State), u.reg JOB_BL_MAXLAT = 0 → (u.setReg JOB_PQ_CNT 0 p).reg JOB_BL_MAXLAT = 0 := by
    intro p u hu
    have haddr : JOB_BL_MAXLAT.addr 0 0 ≠ JOB_PQ_CNT.addr p 0 := by
      simp only [Reg.addr, JOB_BL_MAXLAT, JOB_PQ_CNT]
      omega
    rw [State.reg_setReg_other _ haddr, hu]
  rw [State.jobClrStats, if_neg (not_not_intro hsrc)]
  refine ⟨?_, fun q hq => ?_, ?_, ?_⟩
  · exact forEach_keeps (P := fun u => u.reg JOB_BL_MAXLAT = 0) hlat _ (s.reg_setReg_same JOB_BL_MAXLAT 0 0 0)
  · exact forEach_reaches (P := fun q u => u.reg JOB_PQ_CNT q = 0) (f := fun p u => u.setReg JOB_PQ_CNT 0 p)
      (fun p u => u.reg_pqCnt_clear p p (.inl rfl)) (fun q p u h => u.reg_pqCnt_clear p q (.inr h)) _ _ q (List.mem_range.2 hq)
  · exact forEach_keeps (P := fun u => u.mem = s.mem) (fun p u hu => (u.setReg_mem JOB_PQ_CNT 0 p 0).trans hu) _
      (s.setReg_mem JOB_BL_MAXLAT 0 0 0)
  · exact forEach_keeps (P := fun u => u.job = s.job) (fun p u hu => (u.setReg_job JOB_PQ_CNT 0 p 0).trans hu) _
      (s.setReg_job JOB_BL_MAXLAT 0 0 0)

/-- Settles O24: each command by the lemma of its operation; the five that run from the queue differ in their effect alone. -/
theorem belayCommandsComplete : Obligations.BelayCommandsComplete := by
  unfold Obligations.BelayCommandsComplete
  intro p s
  refine ⟨?enqueue, fun c rest hq hlocal => ⟨?stopPort, ?cancelTag, ?cancelRing, ?quiesce, ?halt⟩, ?done, ?resume,
    ?unquiesce, ?clear⟩
  case enqueue =>
    intro w c hlo hhi hchip hptn
    rw [exec_belayEnqueue, execBelayEnqueue, State.belayEnqueue_local hlo hhi hchip hptn]
  case stopPort =>
    intro hop hport
    rw [exec_stopPort, execStopPort, State.belayStopPort, State.belayRun_front hq hlocal hop]
    dsimp only
    rw [if_pos hport]
  case cancelTag =>
    intro hop
    rw [exec_cancelTag, execCancelTag, State.belayCancelTag, State.belayRun_front hq hlocal hop]
  case cancelRing =>
    intro hop
    rw [exec_cancelRing, execCancelRing, State.belayCancelRing, State.belayRun_front hq hlocal hop]
  case quiesce =>
    intro hop
    rw [exec_quiesceStreams, execQuiesceStreams, State.belayQuiesce, State.belayRun_front hq hlocal hop]
  case halt =>
    intro hop
    rw [exec_haltPartition, execHaltPartition, State.belayHalt, State.belayRun_front hq hlocal hop]
  case done =>
    intro w hfirst horigin
    rw [exec_belayDone, execBelayDone, State.belayDone_local hfirst horigin]
  case resume =>
    intro src hsrc hqueued
    rw [exec_resume, execResume, State.resume_released (State.jobWriter_of hsrc) hqueued]
  case unquiesce =>
    intro src hsrc hqueued
    rw [exec_unquiesce, execUnquiesce, State.unquiesce_released (State.jobWriter_of hsrc) hqueued]
  case clear =>
    intro hmanager
    exact ⟨s.jobClrStats p, rfl, State.jobClrStats_manager hmanager⟩

end Sys2Proof.Machine
end

section
/-! What waits for a time does not happen before it (R88, R398, R405, R410, R422, R425, R449, R452, R464, R493). -/
namespace Sys2Proof.Machine

variable {s : State}

theorem State.irqTimer_early (events : Bool) {p : Nat}
    (h : s.passed (if events then (s.jobPtn p).eqAt else (s.jobPtn p).cqAt)
      ((if events then s.fld JOB_EQ_IRQ.IRQ_TIME p else s.fld JOB_CQ_IRQ.IRQ_TIME p) * ticksPerUs) = false) :
    s.irqTimer p events = s := by
  cases events with
  | false => exact if_pos (by simpa using fun _ _ _ => h)
  | true => exact if_pos (by simpa using fun _ _ _ => h)

theorem State.messageTimeout_early {p : Nat} {m : HeldMsg} (hfirst : s.waitingMessage p = some m)
    (h : s.passed m.came (max 1 (s.fld YAL_TMO.TMO) * ticksPerUs) = false) : s.messageTimeout p = s := by
  rw [State.messageTimeout, hfirst]
  exact if_neg (by simp [h])

theorem State.linkTimeout_early {k st : Nat}
    (h : s.passed (s.link k).since (if st = linkTrain then ticksPer100Ms else 40 * ticksPerUs) = false) : s.linkTimeout k st = s :=
  if_pos (.inr (.inr (by simp [h])))

theorem State.requestTimeout_early {tag : Nat} {r : OutReq} (hreq : s.yal.reqs.find? tag = some r) (h : s.atu.ticks < r.due) :
    s.requestTimeout tag = s := by
  rw [State.requestTimeout, hreq]
  exact if_neg (by omega)

theorem State.belayHoldTimeout_early {p : Packet} {since : Nat} {ps : List (Packet × Nat)} (hfirst : s.yal.belays = (p, since) :: ps)
    (h : s.passed since ticksPerMs = false) : s.belayHoldTimeout = s := by
  rw [State.belayHoldTimeout, hfirst]
  exact if_neg (by simp [h])

theorem State.cplTimeout_stream_early {t : TileIx} {id : Nat} {r : SReq} (hread : s.hostRead t id = some r)
    (h : s.passed r.sent s.ctoTicks = false) : s.cplTimeout (.stream t id) = s := by
  rw [State.cplTimeout, hread]
  exact if_neg (by simp [h])

theorem State.postedDrop_early {w : PostedWrite} {ws : List PostedWrite} (hfirst : s.pci.posted = w :: ws)
    (h : s.passed w.came s.ctoTicks = false) : s.postedDrop = s := by
  rw [State.postedDrop, hfirst]
  exact if_pos (.inr (by simp [h]))

theorem State.leak_early {k : Nat} (h : s.passed (s.bbx.leakAt.getD k 0) (s.leakTicks k) = false) : s.leak k = s :=
  if_pos (by simp [h])

theorem State.settled_early {c : Nat} {x : OpStep} (hstep : s.power.steps.find? c = some x)
    (h : s.passed x.reachedAt (s.fld CLK_VSETTLE.US * ticksPerUs) = false) : s.settled c = s := by
  rw [State.settled, hstep]
  exact if_neg (by simp [h])

theorem State.sagClear_early (h : s.passed s.power.sagAt (100 * ticksPerUs) = false) : s.sagClear = s :=
  if_pos (.inr (by simp [h]))

/-- The end of a comparison waits for R422's time, whatever else holds of it. -/
theorem execRopeTimeout_early {j : Nat} {x : Job} {d : DgtJob} (hjob : s.job? j = some x) (hdgt : s.dgt? j = some d)
    (h : s.passed d.endAt (s.ropeTicks x.ptn) = false) : execRopeTimeout j s = .next s := by
  rw [execRopeTimeout, hjob, hdgt]
  simp [h]

theorem execOrphanDiscard_none (h : (s.dgt.held.all fun x => !s.orphan x) = true) : execOrphanDiscard s = .next s := by
  have hnone : s.dgt.held.find? s.orphan = none := by simpa using h
  rw [execOrphanDiscard, hnone]

/-- Settles O58: each command's time is one of the conditions under which it does anything. -/
theorem timedCommandsWait : Obligations.TimedCommandsWait := by
  unfold Obligations.TimedCommandsWait
  intro s
  refine ⟨fun p => ⟨?completions, ?events, ?message⟩, ?rope, ?orphan, fun k => ⟨?train, ?retrain⟩, ?request, ?belay, ?read,
    ?write, ?leak, ?settle, ?sag, ?flash⟩
  case completions =>
    intro h
    rw [exec_cqIrqTimer, execCqIrqTimer, State.irqTimer_early false h]
  case events =>
    intro h
    rw [exec_cqIrqTimer, execCqIrqTimer, State.irqTimer_early true h]
  case message =>
    intro m hfirst h
    rw [exec_messageTimeout, execMessageTimeout, State.messageTimeout_early hfirst h]
  case rope =>
    intro j x d hjob hdgt h
    rw [exec_ropeTimeout, execRopeTimeout_early hjob hdgt h]
  case orphan =>
    intro h
    rw [exec_orphanDiscard, execOrphanDiscard_none h]
  case train =>
    intro h
    rw [exec_linkTrainTimeout, execLinkTrainTimeout, State.linkTimeout_early h]
  case retrain =>
    intro h
    rw [exec_retrainTimeout, execRetrainTimeout, State.linkTimeout_early h]
  case request =>
    intro tag r hreq h
    rw [exec_requestTimeout, execRequestTimeout, State.requestTimeout_early hreq h]
  case belay =>
    intro p since ps hfirst h
    rw [exec_belayHoldTimeout, execBelayHoldTimeout, State.belayHoldTimeout_early hfirst h]
  case read =>
    intro t id r hread h
    rw [exec_pcieCompletionTimeout, execPcieCompletionTimeout, State.cplTimeout_stream_early hread h]
  case write =>
    intro w ws hfirst h
    rw [exec_postedWriteDrop, execPostedWriteDrop, State.postedDrop_early hfirst h]
  case leak =>
    intro k h
    rw [exec_bucketLeak, execBucketLeak, State.leak_early h]
  case settle =>
    intro c x hstep h
    rw [exec_vsettleExpiry, execVsettleExpiry, State.settled_early hstep h]
  case sag =>
    intro h
    rw [exec_sagClear, execSagClear, State.sagClear_early h]
  case flash =>
    intro h
    rw [exec_flashTimeout, execFlashTimeout, if_neg (by simp [h])]

end Sys2Proof.Machine
end

section
/-! Signals of semaphores (R79, R80, R362): what one leaves alone, and a state in which it does not. -/
namespace Sys2Proof.Machine

/-! ## What leaves semaphores alone -/

/-- `t` has the air time, the flash and the queue of commands of `s`, and its semaphores where `K` holds of their place. -/
structure SemKept (K : ClusterIx × Fin 1024 → Prop) (s t : State) : Prop where
  words : ∀ (k : ClusterIx) (j : Fin 1024), K (k, j) → t.reg CLU_SEM k j = s.reg CLU_SEM k j
  atu : t.atu = s.atu
  flash : t.flash = s.flash
  pending : t.pending = s.pending

variable {K : ClusterIx × Fin 1024 → Prop}

theorem SemKept.trans {s t u : State} (h : SemKept K s t) (k : SemKept K t u) : SemKept K s u where
  words c j hK := (k.words c j hK).trans (h.words c j hK)
  atu := k.atu.trans h.atu
  flash := k.flash.trans h.flash
  pending := k.pending.trans h.pending

theorem SemKept.value {s t : State} (h : SemKept K s t) {c : ClusterIx} {i : Fin 1024} (hK : K (c, i)) :
    t.fld CLU_SEM.VALUE c i = s.fld CLU_SEM.VALUE c i := by
  have hreg : CLU_SEM.VALUE.reg = CLU_SEM := rfl
  rw [State.fld, State.fld, hreg, h.words c i hK]

theorem SemKept.setReg_other (s : State) {r : Reg} {i j : Nat} (h : ∀ (c : ClusterIx) (k : Fin 1024), K (c, k) →
    CLU_SEM.addr c k ≠ r.addr i j) (v : Nat) : SemKept K s (s.setReg r v i j) :=
  ⟨fun c k hK => s.reg_setReg_other (h c k hK) v, State.setReg_atu .., State.setReg_flash .., State.setReg_pending ..⟩

/-- A field of one semaphore is no word of another. -/
theorem SemKept.setFld_sem (s : State) {f : Fld} (hf : f.reg = CLU_SEM) (v : Nat) (c : ClusterIx) (i : Fin 1024) :
    SemKept (· ≠ (c, i)) s (s.setFld f v c i) := by
  refine .setReg_other s (fun k j hne haddr => hne ?_) _
  simp only [hf, Reg.addr, CLU_SEM] at haddr
  exact Prod.ext (Fin.ext (show k.val = c.val by omega)) (Fin.ext (show j.val = i.val by omega))

/-- The time that an inherit slice charges is counted in a register of a partition, which is no semaphore. -/
theorem SemKept.incSat_inhNs (s : State) (n : Nat) {p : Nat} (hp : p < 16) : SemKept K s (s.incSat PTN_INH_NS.NS n p) := by
  refine .setReg_other s (fun k j _ => ?_) _
  simp only [Reg.addr, CLU_SEM, PTN_INH_NS, PTN_INH_NS.NS]
  omega

theorem SemKept.modTile (s : State) (t : Nat) (f : Tile → Tile) : SemKept K s (s.modTile t f) :=
  ⟨fun _ _ _ => rfl, rfl, rfl, rfl⟩

theorem SemKept.refresh (s : State) : SemKept K s s.refresh :=
  ⟨fun _ _ _ => rfl, rfl, rfl, rfl⟩

theorem SemKept.raise (s : State) {e : Event} (he : e.inRange) : SemKept K s (s.raise e) := by
  have h := s.raise_recorded he
  refine ⟨fun k j _ => h.reg CLU_SEM k j ?_, h.atu, h.flash, h.pending⟩
  have haddr : 0x401C0000 ≤ CLU_SEM.addr k j := by
    simp only [Reg.addr, CLU_SEM]
    omega
  simp only [recordReg, Bool.or_eq_false_iff, Bool.and_eq_false_iff, decide_eq_false_iff_not]
  omega

/-- Every job belongs to one of the sixteen partitions. -/
def State.JobsInRange (s : State) : Prop := ∀ j x, s.job? j = some x → x.ptn < 16

/-- Ending the inherit slices of a mutex charges their jobs' partitions and marks the holders' tiles. -/
theorem SemKept.endSlices {s : State} (hjobs : s.JobsInRange) (c i : Nat) : SemKept K s (s.endSlices c i) := by
  suffices h : SemKept K s (s.endSlices c i) ∧ (s.endSlices c i).job = s.job from h.1
  unfold State.endSlices
  dsimp only
  refine forEach_keeps (P := fun u => SemKept K s u ∧ u.job = s.job) (fun x u hu => ?_) _ ⟨⟨fun _ _ _ => rfl, rfl, rfl, rfl⟩, rfl⟩
  have hcharged : ∀ y, u.job? x.hjob = some y →
      SemKept K s (u.incSat PTN_INH_NS.NS ((u.now - x.began) / nsUnit) y.ptn) ∧
        (u.incSat PTN_INH_NS.NS ((u.now - x.began) / nsUnit) y.ptn).job = s.job := by
    intro y hy
    have hp : y.ptn < 16 := hjobs x.hjob y (by rwa [State.job?, hu.2] at hy)
    exact ⟨hu.1.trans (.incSat_inhNs u _ hp), (State.incSat_job ..).trans hu.2⟩
  have hmarked : ∀ (v : State) (t : Nat) (f : Tile → Tile), SemKept K s v ∧ v.job = s.job →
      SemKept K s (v.modTile t f) ∧ (v.modTile t f).job = s.job :=
    fun v t f hv => ⟨hv.1.trans (.modTile v t f), (State.modTile_job ..).trans hv.2⟩
  repeat' split
  all_goals solve_by_elim

/-! ## A signal (R80, R362) -/

/-- Nobody is noted as the holder of mutex `k`. -/
def State.dropHolder (s : State) (k : Nat) : State := { s with holders := s.holders.del k }

theorem State.dropHolder_job (s : State) (k : Nat) : (s.dropHolder k).job = s.job := rfl
theorem State.dropHolder_fld (s : State) (k : Nat) (f : Fld) (i j : Nat) : (s.dropHolder k).fld f i j = s.fld f i j := rfl

theorem SemKept.dropHolder (s : State) (k : Nat) : SemKept K s (s.dropHolder k) :=
  ⟨fun _ _ _ => rfl, rfl, rfl, rfl⟩

/-- A mutex that has no holder any more. -/
def State.mutexFreed (s : State) (c i : Nat) : State :=
  (((s.setFld CLU_SEM.HELD 0 c i).setFld CLU_SEM.HOLDER 0 c i).setFld CLU_SEM.JOB_HOLDER 0 c i).dropHolder (c * 1024 + i)

theorem State.mutexFreed_job (s : State) (c i : Nat) : (s.mutexFreed c i).job = s.job := by
  rw [State.mutexFreed, State.dropHolder_job, State.setFld_job, State.setFld_job, State.setFld_job]

theorem State.mutexFreed_value (s : State) (c i : Nat) : (s.mutexFreed c i).fld CLU_SEM.VALUE c i = s.fld CLU_SEM.VALUE c i := by
  have hfield : ∀ (u : State) (f : Fld), f.reg = CLU_SEM ∧ CLU_SEM.VALUE.hi < f.lo ∧ f.lo ≤ f.hi ∧ f.hi < 32 →
      (u.setFld f 0 c i).fld CLU_SEM.VALUE c i = u.fld CLU_SEM.VALUE c i := fun u f ⟨hreg, habove, hle, h32⟩ =>
    u.fld_setFld_disjoint f CLU_SEM.VALUE 0 c i hreg.symm hle h32 (by decide) (.inr habove)
  rw [State.mutexFreed, State.dropHolder_fld, hfield _ _ (by decide), hfield _ _ (by decide), hfield _ _ (by decide)]

theorem SemKept.mutexFreed (s : State) (c : ClusterIx) (i : Fin 1024) : SemKept (· ≠ (c, i)) s (s.mutexFreed c i) :=
  (((SemKept.setFld_sem s (f := CLU_SEM.HELD) rfl 0 c i).trans (.setFld_sem _ (f := CLU_SEM.HOLDER) rfl 0 c i)).trans
    (.setFld_sem _ (f := CLU_SEM.JOB_HOLDER) rfl 0 c i)).trans (.dropHolder _ _)

/-- The state with the signal's sum in the semaphore, and with a mutex's holder gone. -/
def State.semWritten (s : State) (c i n : Nat) : State :=
  let w := s.setFld CLU_SEM.VALUE (min (s.fld CLU_SEM.VALUE c i + n) (s.semTop c i)) c i
  if s.isMutex c i then w.mutexFreed c i else w

theorem State.semWritten_job (s : State) (c i n : Nat) : (s.semWritten c i n).job = s.job := by
  rw [State.semWritten]
  split
  · rw [State.mutexFreed_job, State.setFld_job]
  · rw [State.setFld_job]

/-- The write itself changes one semaphore. -/
theorem SemKept.semWritten (s : State) (c : ClusterIx) (i : Fin 1024) (n : Nat) : SemKept (· ≠ (c, i)) s (s.semWritten c i n) := by
  have hvalue := SemKept.setFld_sem s (f := CLU_SEM.VALUE) rfl (min (s.fld CLU_SEM.VALUE c i + n) (s.semTop c i)) c i
  rw [State.semWritten]
  split
  · exact hvalue.trans (.mutexFreed _ c i)
  · exact hvalue

theorem State.semWritten_value (s : State) (c i n : Nat) :
    (s.semWritten c i n).fld CLU_SEM.VALUE c i = min (s.fld CLU_SEM.VALUE c i + n) (s.semTop c i) := by
  have htop : s.semTop c i < 2 ^ 16 := by
    rw [State.semTop]
    split <;> decide
  have hvalue : (s.setFld CLU_SEM.VALUE (min (s.fld CLU_SEM.VALUE c i + n) (s.semTop c i)) c i).fld CLU_SEM.VALUE c i =
      min (s.fld CLU_SEM.VALUE c i + n) (s.semTop c i) := by
    rw [State.fld_setFld_same _ _ _ _ _ (by decide) (by decide)]
    exact Nat.mod_eq_of_lt (Nat.lt_of_le_of_lt (Nat.min_le_right _ _) htop)
  rw [State.semWritten]
  split
  · rw [State.mutexFreed_value, hvalue]
  · exact hvalue

/-- After the write come the end of the mutex's slices, the eligibility of the jobs and the event of saturation. -/
theorem State.signal_eq {s : State} {c : Nat} (hon : s.domOn (64 + c) = true) (i n : Nat) : s.signal c i n =
    let u := (if s.isMutex c i then (s.semWritten c i n).endSlices c i else s.semWritten c i n).refresh
    if s.semTop c i < s.fld CLU_SEM.VALUE c i + n then u.raise { code := evSemSat, ptn := s.semOwner c i, unit := i, data := [w32 c] }
    else u := by
  rw [State.signal, if_neg (by simp [hon])]
  cases hmutex : s.isMutex c i <;>
    simp only [State.semWritten, State.mutexFreed, State.dropHolder, hmutex, if_true, Bool.false_eq_true, if_false]

theorem firstFrom_lt {p : Nat → Bool} {lo k n : Nat} (h : firstFrom p lo k = some n) : n < lo + k := by
  induction k generalizing lo with
  | zero => cases h
  | succ k ih =>
    rw [firstFrom] at h
    split at h
    · cases h
      omega
    · have := ih h
      omega

theorem State.semOwner_lt {s : State} {c i p : Nat} (h : s.semOwner c i = some p) : p < 16 :=
  firstFrom_lt h

/-- After its write a signal leaves every semaphore alone. -/
theorem State.signal_semKept {s : State} (hjobs : s.JobsInRange) {c : Nat} (hon : s.domOn (64 + c) = true) (i n : Nat) :
    SemKept K (s.semWritten c i n) (s.signal c i n) := by
  have hjobs' : (s.semWritten c i n).JobsInRange := by
    intro j x hx
    rw [State.job?, State.semWritten_job] at hx
    exact hjobs j x hx
  have hslices : SemKept K (s.semWritten c i n)
      (if s.isMutex c i then (s.semWritten c i n).endSlices c i else s.semWritten c i n).refresh := by
    split
    · exact (SemKept.endSlices hjobs' c i).trans (.refresh _)
    · exact .refresh _
  rw [State.signal_eq hon]
  dsimp only
  split
  · exact hslices.trans (.raise _ ⟨fun p hp => State.semOwner_lt hp, by simp⟩)
  · exact hslices

/-- What O56 asks for, where every job belongs to one of the sixteen partitions (R79, R80, R362). -/
theorem State.signal_saturates {s : State} (hjobs : s.JobsInRange) {c : ClusterIx} (hon : s.domOn (64 + c.val) = true)
    (i : Fin 1024) (n : Nat) :
    (s.signal c i n).fld CLU_SEM.VALUE c i = min (s.fld CLU_SEM.VALUE c i + n) (if s.isMutex c i then 1 else 65535) ∧
      (∀ (k : ClusterIx) (j : Fin 1024), (k, j) ≠ (c, i) → (s.signal c i n).reg CLU_SEM k j = s.reg CLU_SEM k j) ∧
      (s.signal c i n).atu = s.atu ∧ (s.signal c i n).flash = s.flash ∧ (s.signal c i n).pending = s.pending := by
  have hafter : SemKept (fun _ => True) (s.semWritten c i n) (s.signal c i n) := State.signal_semKept hjobs hon i n
  have hothers := (SemKept.semWritten s c i n).trans (State.signal_semKept hjobs hon i n)
  refine ⟨?_, fun k j hne => hothers.words k j hne, hothers.atu, hothers.flash, hothers.pending⟩
  rw [hafter.value trivial, State.semWritten_value, State.semTop]

/-! ## A job of no partition -/

/-- Cluster 0 is on and its semaphore 0 a mutex at 0, with an inherit slice since the time 0 for its holder, a job of partition
number `p`; 1 ns has passed. -/
def heldMutex (p : Nat) : State :=
  { ((State.reset.setFld PWR_DOM_STAT.STATE domRun 64).setFld PTN_CFG.EN 1).setReg PTN_SEM (2 ^ 31 + 2 ^ 20) with
    atu := { ns := 1 }
    slices := [{ waiter := 1, waitJob := 1, clu := 0, sem := 0, htile := 0, hjob := 0, hindex := 0, depth := 1, began := 0 }]
    job := { jobs := Table.empty.put 0 { ptn := p, ring := 0, seq := 0, desc := [], submit := 0, deadline := none, phase := .running } } }

/-- In range the mutex takes its signal and stays at 1 (R362). -/
theorem witness_signal_saturates : ((heldMutex 0).signal 0 0 1).fld CLU_SEM.VALUE 0 0 = 1 := by
  have hjobs : (heldMutex 0).JobsInRange := by
    intro j x hx
    simp only [State.job?, heldMutex, Table.find?, Table.put, Table.empty, putRow, findRow] at hx
    split at hx
    · cases hx
      decide
    · cases hx
  exact (State.signal_saturates hjobs (c := 0) (by decide +kernel) 0 1).1.trans (by decide +kernel)

/-- Refutes O56: the clause that no other semaphore changes fails where the charged register of R363, PTN_INH_NS of the job's
partition, is taken for a number far outside the sixteen partitions: copy 0x17FA00 of it lies at the address of semaphore 22.
The statement does not bound the partitions that a state's jobs name; `State.signal_saturates` is the statement with that bound. -/
theorem not_signalsSaturate : ¬ Obligations.SignalsSaturate := by
  unfold Obligations.SignalsSaturate
  intro h
  have hon : (heldMutex 0x17FA00).domOn 64 = true := by decide +kernel
  have hbefore : (heldMutex 0x17FA00).reg CLU_SEM 0 22 = 0 := by decide +kernel
  have hafter : ((heldMutex 0x17FA00).signal 0 0 1).reg CLU_SEM 0 22 = 1 := by decide +kernel
  obtain ⟨-, hothers, -⟩ := h (heldMutex 0x17FA00) 0 0 1 hon
  have hkept := (hothers 0 22 (by decide)).trans hbefore
  exact absurd (hafter.symm.trans hkept) (by decide)

end Sys2Proof.Machine
end

section
/-! The bits of a bundle and its fields (chapter 04, R107, R109). -/
namespace Sys2Proof.Machine

/-! ## Parts of a word, each lemma for a part of known width -/

/-- What lies above the last `w` bits is read from the part before them. -/
theorem extract_above {v : Nat} (w : Nat) {hi : BitVec v} {lo : BitVec w} {start len : Nat} (h : w ≤ start) :
    (hi ++ lo).extractLsb' start len = hi.extractLsb' (start - w) len := BitVec.extractLsb'_append_eq_of_le h

theorem extract_last {v : Nat} (w : Nat) {hi : BitVec v} {lo : BitVec w} : (hi ++ lo).extractLsb' 0 w = lo :=
  BitVec.extractLsb'_append_eq_right

/-- Two neighbouring pieces of a word, put together again, are one piece of it. -/
theorem extract_join {n w : Nat} (m : Nat) {x : BitVec w} {above start : Nat} (h : above = start + m) :
    x.extractLsb' above n ++ x.extractLsb' start m = x.extractLsb' start (n + m) :=
  BitVec.extractLsb'_append_extractLsb'_eq_extractLsb' h

/-! ## Predicates and slots -/

@[simp] theorem Pred.decode_encode (p : Pred) : Pred.decode p.encode = p := by
  simp [Pred.decode, Pred.encode, extract_above 3, extract_last 3]

@[simp] theorem Pred.encode_decode (x : BitVec 4) : (Pred.decode x).encode = x := by
  simp [Pred.encode, Pred.decode, extract_join 3]

@[simp] theorem SSlot.decode_encode (s : SSlot) : SSlot.decode s.encode = s := by
  simp [SSlot.decode, SSlot.encode, extract_above 36, extract_above 5, extract_above 6, extract_last 36, extract_last 5,
    extract_last 6]

@[simp] theorem SSlot.encode_decode (x : BitVec 56) : (SSlot.decode x).encode = x := by
  simp [SSlot.encode, SSlot.decode, extract_join 6, extract_join 5, extract_join 36]

@[simp] theorem LaneSlot.decode_encode (s : LaneSlot) : LaneSlot.decode s.encode = s := by
  simp [LaneSlot.decode, LaneSlot.encode, extract_above 5, extract_above 4, extract_above 1, extract_above 6, extract_above 2,
    extract_last 5, extract_last 4, extract_last 1, extract_last 6, extract_last 2]

@[simp] theorem LaneSlot.encode_decode (x : BitVec 40) : (LaneSlot.decode x).encode = x := by
  simp [LaneSlot.encode, LaneSlot.decode, extract_join 6, extract_join 4, extract_join 2, extract_join 1, extract_join 5]

@[simp] theorem MSlot.decode_encode (s : MSlot) : MSlot.decode s.encode = s := by
  simp [MSlot.decode, MSlot.encode, extract_above 10, extract_above 5, extract_above 2, extract_above 6, extract_last 10,
    extract_last 5, extract_last 2, extract_last 6]

@[simp] theorem MSlot.encode_decode (x : BitVec 32) : (MSlot.decode x).encode = x := by
  simp [MSlot.encode, MSlot.decode, extract_join 6, extract_join 2, extract_join 5, extract_join 10]

@[simp] theorem ESlot.decode_encode (s : ESlot) : ESlot.decode s.encode = s := by
  simp [ESlot.decode, ESlot.encode, extract_above 7, extract_above 5, extract_above 6, extract_last 7, extract_last 5,
    extract_last 6]

@[simp] theorem ESlot.encode_decode (x : BitVec 32) : (ESlot.decode x).encode = x := by
  simp [ESlot.encode, ESlot.decode, extract_join 6, extract_join 5, extract_join 7]

@[simp] theorem DSlot.decode_encode (s : DSlot) : DSlot.decode s.encode = s := by
  simp [DSlot.decode, DSlot.encode, extract_above 3, extract_above 2, extract_above 5, extract_above 1, extract_above 4,
    extract_last 3, extract_last 2, extract_last 5, extract_last 1, extract_last 4]

@[simp] theorem DSlot.encode_decode (x : BitVec 24) : (DSlot.decode x).encode = x := by
  simp [DSlot.encode, DSlot.decode, extract_join 4, extract_join 1, extract_join 2, extract_join 5, extract_join 3]

/-! ## The bundle -/

theorem Bundle.decode_encode (b : Bundle) : Bundle.decode b.encode = b := by
  simp [Bundle.decode, Bundle.encode, extract_above 24, extract_above 32, extract_above 40, extract_above 56, extract_above 2,
    extract_last 24, extract_last 32, extract_last 40, extract_last 56, extract_last 2]

theorem Bundle.encode_decode (w : BitVec 256) : (Bundle.decode w).encode = w := by
  simp [Bundle.encode, Bundle.decode, extract_join 2, extract_join 56, extract_join 40, extract_join 32, extract_join 24]

/-- Settles O12: the slots' fields and the bundle's slots lie side by side and fill the word, and each slot is recovered from its bits
by the lemma of its form. -/
theorem bundleRoundTrip : Obligations.BundleRoundTrip := by
  unfold Obligations.BundleRoundTrip
  exact ⟨Bundle.decode_encode, Bundle.encode_decode⟩

end Sys2Proof.Machine
end

section
/-! The operations of the S slot when their turn has come (chapter 04, R105-R112, R120-R122), and operations whose predicate is
false (R108). -/
namespace Sys2Proof.Machine
open Sys2Proof.Claims

/-! ## Slots -/

/-- A command that issues slot k performs the operation: `fits'` is the test that the model makes of the bundle, `eff'` the effect that
the model gives the operation. -/
theorem performs_of_issueSlot {c : Instr} {t k : Nat} {fits : Bundle → Prop} {fits' : Bundle → Bool}
    {eff eff' : Bundle → State → State} (hexec : ∀ s, exec c s = .next (s.issueSlot t k fits' eff'))
    (hfits : ∀ b, fits b → fits' b = true) (heff : ∀ b u, fits b → eff' b u = eff b u) : Performs c t k fits eff := by
  intro s b u turn fit
  rw [hexec, State.issueSlot_turn turn (hfits b fit), heff b u fit]

theorem holdsS_of_inS {o : Nat} {b : Bundle} (h : InS o b) : holdsS o b = true := by simp [holdsS, h.1, h.2]

theorem performs_scalar {c : Instr} {t : TileIx} {o : Nat} {eff : SSlot → State → State} {eff' : Bundle → State → State}
    (hexec : ∀ s, exec c s = s.scalar t o eff) (heff : ∀ b u, InS o b → eff b.s u = eff' b u) : Performs c t 0 (InS o) eff' :=
  performs_of_issueSlot hexec (fun _ => holdsS_of_inS) heff

/-! ## Arithmetic (R105, R110) -/

/-- A sum or a difference, a logic operation or a shift: rd and the flags are functions of FLAGS and the two operands. -/
theorem performs_alu {c : Instr} {t : TileIx} {o : Nat} {imm : Bool} {f : Word → Word → Word} {fl : Word → Word → Word → BitVec 4}
    (hexec : ∀ s, exec c s = s.scalar t o (aluEffect t imm f fl)) :
    Performs c t 0 (InS o) fun b u =>
      result t b (f (opA t b u) (opB t imm b u)) (fl (u.tile t).flags (opA t b u) (opB t imm b u)) u :=
  performs_scalar hexec fun _ _ _ => rfl

theorem performs_plain {c : Instr} {t : TileIx} {o lat : Nat} {f : Word → Word → Word}
    (hexec : ∀ s, exec c s = s.scalar t o (plainEffect t lat f)) :
    Performs c t 0 (InS o) fun b u => resultOnly t lat b (f (opA t b u) (opB t false b u)) u :=
  performs_scalar hexec fun _ _ _ => rfl

theorem performs_cmp {c : Instr} {t : TileIx} {o : Nat} {imm : Bool} (hexec : ∀ s, exec c s = s.scalar t o (cmpEffect t imm)) :
    Performs c t 0 (InS o) fun b u => u.stageWrite t 1 (.zncv (znSub (opA t b u) (opB t imm b u))) :=
  performs_scalar hexec fun _ _ _ => rfl

theorem sMin_eq_ite (a b : Word) : sMin a b = if b.toInt < a.toInt then b else a := by simp [sMin, BitVec.slt]

theorem sMax_eq_ite (a b : Word) : sMax a b = if a.toInt < b.toInt then b else a := by simp [sMax, BitVec.slt]

/-- Settles O1: each operation by the lemma of its form. -/
theorem scalarArithmeticCompletes : Obligations.ScalarArithmeticCompletes := by
  unfold Obligations.ScalarArithmeticCompletes
  intro t
  refine ⟨(performs_alu (exec_add t) :), (performs_alu (exec_sub t) :), (performs_alu (exec_and t) :), (performs_alu (exec_or t) :),
    (performs_alu (exec_xor t) :), (performs_alu (exec_sll t) :), (performs_alu (exec_srl t) :), (performs_alu (exec_sra t) :),
    (performs_plain (exec_mul t) :), (performs_plain (exec_mulh t) :), ?min, ?max, (performs_cmp (exec_cmp t) :),
    (performs_alu (exec_addi t) :), (performs_alu (exec_andi t) :), (performs_alu (exec_ori t) :), (performs_alu (exec_xori t) :),
    (performs_alu (exec_slli t) :), (performs_alu (exec_srli t) :), (performs_alu (exec_srai t) :),
    performs_scalar (exec_li t) fun _ _ _ => rfl, (performs_cmp (exec_cmpi t) :)⟩
  case min => simpa only [sMin_eq_ite] using performs_plain (exec_min t)
  case max => simpa only [sMax_eq_ite] using performs_plain (exec_max t)

/-! ## Predicates, special registers, address registers and memory (R105, R106, R110, R111, R122) -/

theorem performs_load {t : TileIx} (y : Bool) :
    Performs (if y then .ldy t else .ldx t) t 0 (InS (if y then 0x21 else 0x20)) fun b u =>
      let a := (opA t b u + BitVec.ofNat 32 b.s.imm).toNat + if y then 0x80000 else 0
      resultOnly t 4 b (BitVec.ofNat 32 (u.readNum (tileMemBase t + a) 4)) u := by
  cases y with
  | false => exact performs_scalar (exec_ldx t) fun _ _ _ => rfl
  | true => exact performs_scalar (exec_ldy t) fun _ _ _ => rfl

theorem performs_store {t : TileIx} (y : Bool) :
    Performs (if y then .sty t else .stx t) t 0 (InS (if y then 0x23 else 0x22)) fun b u =>
      let a := (opA t b u + BitVec.ofNat 32 b.s.imm).toNat + if y then 0x80000 else 0
      u.stageWrite t 2 (.store a (bytesOf 4 ((u.tile t).sr b.s.rd.toNat).toNat)) := by
  cases y with
  | false => exact performs_scalar (exec_stx t) fun _ _ _ => rfl
  | true => exact performs_scalar (exec_sty t) fun _ _ _ => rfl

/-- Settles O2: each operation's effect is the model's; that a write stands in flight for its latency is log 45. -/
theorem scalarMovesComplete : Obligations.ScalarMovesComplete := by
  unfold Obligations.ScalarMovesComplete
  intro t
  exact ⟨performs_scalar (exec_pset t) fun _ _ _ => rfl, performs_scalar (exec_plog t) fun _ _ _ => rfl,
    performs_scalar (exec_mfs t) fun _ _ _ => rfl, performs_scalar (exec_mts t) fun _ _ _ => rfl,
    performs_scalar (exec_aadd t) fun _ _ _ => rfl, performs_load, performs_store⟩

/-! ## Branches, loops and the end of a task (R102, R112, R120, R121) -/

/-- The end of a task: the implicit last fence and the stop of issue are one update of the tile. -/
theorem haltEffect_eq (s : State) (t : Nat) :
    ((s.addFence t none true).modTile t fun x => { x with halting := true, haltPc := some x.pc }) =
      s.modTile t fun x => { x with fences := x.fences ++ [{ upTo := x.startOrder, signal := none, implicit := true }],
                                    halting := true, haltPc := some x.pc } := by
  simp [State.addFence, State.modTile]

/-- A slot's command that meets a fault of its bundle stops the tile with it. -/
theorem State.issueSlot_fault {s : State} {t k : Nat} {b : Bundle} (runs : s.issues t = true) (free : (s.tile t).issuing = none)
    (goesOn : (s.tile t).halting = false) (fetched : Bundle.decode (s.fetch t) = b) (legal : (s.tile t).staticFault b = none)
    {fits : Bundle → Bool} (fit : fits b = true) (turn : slotTurn b k 0 = true) {code slot : Nat} {more : List (Nat × Nat)}
    (fault : s.verdict t b = .fault code slot more) (eff : Bundle → State → State) :
    s.issueSlot t k fits eff = s.tileFault t code slot more := by
  simp [State.issueSlot, runs, free, goesOn, fetched, legal, fit, turn, fault]

/-- Settles O3: each operation's effect is the model's; a trap is a fault that its bundle meets. -/
theorem scalarControlCompletes : Obligations.ScalarControlCompletes := by
  unfold Obligations.ScalarControlCompletes
  intro t
  refine ⟨performs_scalar (exec_br t) fun _ _ _ => rfl, performs_scalar (exec_brr t) fun _ _ _ => rfl,
    performs_scalar (exec_call t) fun _ _ _ => rfl, performs_scalar (exec_ret t) fun _ _ _ => rfl,
    performs_scalar (exec_loop t) fun _ _ _ => rfl, performs_scalar (exec_loopr t) fun _ _ _ => rfl,
    performs_scalar (exec_lbrk t) fun _ _ _ => rfl, performs_scalar (exec_rti t) fun _ _ _ => rfl,
    performs_scalar (exec_halt t) fun _ u _ => haltEffect_eq u t, ?trap⟩
  intro s b runs free goesOn fetched legal inS fault
  rw [exec_trap, execTrap, State.scalar,
    State.issueSlot_fault runs free goesOn fetched legal (holdsS_of_inS inS) rfl fault, tfTrap]

/-! ## Waits, signals and streams (R110, R111, R221, R222, R362) -/

/-- NOP in a slot that is active. -/
theorem performs_nop {t : TileIx} (slot : Fin 7) :
    Performs (.nop t slot) t slot.val (fun b => b.isActive slot.val = true ∧ slot.val < 5 ∧ b.opOf slot.val = 0) fun _ u => u := by
  refine performs_of_issueSlot (exec_nop t slot) (fun b fit => ?_) fun _ _ _ => rfl
  obtain ⟨active, lane, nop⟩ := fit
  have some' : (List.range 7).any b.isActive = true := List.any_eq_true.2 ⟨slot, List.mem_range.2 slot.isLt, active⟩
  simp [some', active, lane, nop]

/-- The command of a bundle that holds no operation. -/
theorem performs_nop_empty {t : TileIx} (slot : Fin 7) :
    Performs (.nop t slot) t slot.val (fun b => ∀ k, k < 7 → b.isActive k = false) fun _ u => u := by
  refine performs_of_issueSlot (exec_nop t slot) (fun b fit => ?_) fun _ _ _ => rfl
  have none' : (List.range 7).any b.isActive = false := List.any_eq_false.2 fun k hk => by simp [fit k (List.mem_range.1 hk)]
  simp [none']

/-- Settles O4: a wait that is over has no effect of its own; the other operations' effects are the model's. -/
theorem scalarWaitsComplete : Obligations.ScalarWaitsComplete := by
  unfold Obligations.ScalarWaitsComplete
  intro t
  exact ⟨performs_scalar (exec_wfi t) fun _ _ _ => rfl, performs_scalar (exec_semw t) fun _ _ _ => rfl,
    performs_scalar (exec_sems t) fun _ _ _ => rfl, performs_scalar (exec_sstart t) fun _ _ _ => rfl,
    performs_scalar (exec_swait t) fun _ _ _ => rfl, performs_scalar (exec_sfence t) fun _ _ _ => rfl,
    performs_scalar (exec_sfwait t) fun _ _ _ => rfl, performs_scalar (exec_ewait t) fun _ _ _ => rfl,
    performs_nop, performs_nop_empty⟩

/-! ## False predicates (R108) -/

/-- What a slot's command does where the slot's predicate is false: the slot counts as performed, and nothing else. -/
theorem skipped_of_performs {c : Instr} {t k : Nat} {fits : Bundle → Prop} {eff : Bundle → State → State} (h : Performs c t k fits eff)
    {s u : State} {b : Bundle} (turn : Turn s t k b u) (off : slotExecutes u t k = false) (fit : fits b) :
    exec c s = .next ((u.markDone t k).tryFinish t) := by
  rw [h s b u turn fit, off]
  rfl

/-- Settles O11: what each of these commands does is given for either value of the predicate. -/
theorem falsePredicateHasNoEffect : Obligations.FalsePredicateHasNoEffect := by
  unfold Obligations.FalsePredicateHasNoEffect
  intro t s b u turn off
  obtain ⟨add, -⟩ := scalarArithmeticCompletes t
  obtain ⟨br, -, -, -, -, -, -, -, halt, -⟩ := scalarControlCompletes t
  obtain ⟨-, -, sems, sstart, -⟩ := scalarWaitsComplete t
  exact ⟨skipped_of_performs add turn off, skipped_of_performs (performs_store false) turn off, skipped_of_performs br turn off,
    skipped_of_performs sems turn off, skipped_of_performs sstart turn off, skipped_of_performs halt turn off⟩

end Sys2Proof.Machine
end

section
/-! The operations of the N and W slots and the D generators when their turn has come (chapters 04 and 08, R113, R117-R119,
R200-R205). -/
namespace Sys2Proof.Machine
open Sys2Proof.Claims

/-! ## Lanes (R200-R205) -/

theorem holdsLane_of_inLane {wide : Bool} {o : Nat} {b : Bundle} (h : InLane wide o b) : holdsLane wide o b = true := by
  cases wide <;> simpa [holdsLane, InLane] using h

theorem performs_lane {c : Instr} {t : TileIx} {wide : Bool} {o : Nat} {eff : Nat → Bool → LaneSlot → State → State}
    {eff' : Bundle → State → State} (hexec : ∀ s, exec c s = s.laneOp t wide o eff)
    (heff : ∀ b u, (if wide then b.w else b.n).o = o → eff t wide (if wide then b.w else b.n) u = eff' b u) :
    Performs c t (if wide then 2 else 1) (InLane wide o) eff' :=
  performs_of_issueSlot hexec (fun _ => holdsLane_of_inLane) fun b u h => heff b u h.2

theorem State.countLane_eq (s : State) (t : Nat) (wide : Bool) :
    s.countLane t wide = s.incSat (if wide then SIG_WOPS.COUNT else SIG_NOPS.COUNT) 1 t := by
  cases wide <;> rfl

/-- Exact lanes saturated to the slot's width, and how many of them were clamped (R201). -/
def satLanes (wide : Bool) (exact : List Int) : List Int × Nat :=
  let outs := exact.map (satLane (if wide then 24 else 16))
  (outs.map (·.1), (outs.filter (·.2)).length)

/-- What the operation `op` delivers to its register, from the registers of the tile. -/
def Tile.laneOut (x : Tile) (wide : Bool) (op : LaneSlot) : List Int × Nat :=
  laneResult wide op (x.laneSources wide op).1 (x.laneSources wide op).2 (x.accLanes wide op.acc.toNat) (x.sr op.sreg.toNat).toNat

theorem laneEffect_eq (t : Nat) (wide : Bool) (op : LaneSlot) (s : State) :
    laneEffect t wide op s =
      ((s.countLane t wide).addLaneSat t wide ((s.tile t).laneOut wide op).2).stageWrite t (laneLatency op.o)
        (classWrite wide op.vd.toNat ((s.tile t).laneOut wide op).1) := rfl

/-- An operation that writes a register: `f` gives its exact lanes. (log 44: DEDUCED) -/
theorem performs_lanes {c : Instr} {t : TileIx} {wide : Bool} {o lat : Nat} {f : LaneSlot → Tile → Nat → Int}
    (hexec : ∀ s, exec c s = s.laneOp t wide o laneEffect) (hlat : laneLatency o = lat)
    (hout : ∀ (op : LaneSlot) (x : Tile), op.o = o →
      x.laneOut wide op = satLanes wide ((List.range (if wide then 16 else 32)).map (f op x))) :
    Performs c t (if wide then 2 else 1) (InLane wide o) (lanes t wide lat f) := by
  refine performs_lane hexec fun b u ho => ?_
  rw [laneEffect_eq, hout _ _ ho, ho, hlat, State.countLane_eq]
  rfl

/-- An accumulating operation reads the lanes of its own class. -/
theorem accEffect_eq {t : Nat} {wide : Bool} {op : LaneSlot} {o : Nat} {s : State} (ho : op.o = o) (hown : o ≠ 0x18) :
    accEffect t wide op s =
      (s.incSat (if wide then SIG_WOPS.COUNT else SIG_NOPS.COUNT) 1 t).stageWrite t (laneLatency o)
        (.accAdd wide op.acc.toNat
          (laneContrib wide o ((s.tile t).classLanes wide op.va.toNat) ((s.tile t).classLanes wide op.vb.toNat))) := by
  subst ho
  simp only [accEffect, Tile.laneSources, if_neg hown, State.countLane_eq]

theorem performs_accumulates {c : Instr} {t : TileIx} {wide : Bool} {o lat : Nat}
    {f : (Nat → Int) → (Nat → Int) → Nat → Option Int} (hexec : ∀ s, exec c s = s.laneOp t wide o accEffect)
    (hown : o ≠ 0x18) (hlat : laneLatency o = lat)
    (hcontrib : ∀ va vb, laneContrib wide o va vb = (List.range (if wide then 16 else 32)).map (f (lane va) (lane vb))) :
    Performs c t (if wide then 2 else 1) (InLane wide o) (accumulates t wide lat f) := by
  refine performs_lane hexec fun b u ho => ?_
  rw [accEffect_eq ho hown, hlat, hcontrib]
  rfl

/-- Settles O5: register-writing and accumulating operations each by the lemma of their form, with the operation's row of R201 or
R202. That a clamped lane counts when its operation issues is log 44. -/
theorem laneOperationsComplete : Obligations.LaneOperationsComplete := by
  unfold Obligations.LaneOperationsComplete
  intro t wide
  refine ⟨performs_lanes (exec_vadd t wide) rfl ?_, performs_lanes (exec_vsub t wide) rfl ?_,
    performs_lanes (exec_vmul t wide) rfl ?_, performs_accumulates (exec_vmac t wide) (by decide) rfl fun _ _ => rfl,
    performs_accumulates (exec_vmsu t wide) (by decide) rfl fun _ _ => rfl,
    performs_accumulates (exec_vcmac t wide) (by decide) rfl fun _ _ => rfl,
    performs_accumulates (exec_vcmacj t wide) (by decide) rfl fun _ _ => rfl,
    performs_accumulates (exec_vmag t wide) (by decide) rfl fun _ _ => rfl, ?vaclr,
    performs_lanes (exec_vacrd t wide) rfl ?_, performs_lanes (exec_vand t wide) rfl ?_,
    performs_lanes (exec_vor t wide) rfl ?_, performs_lanes (exec_vxor t wide) rfl ?_,
    performs_lanes (exec_vshl t wide) rfl ?_, performs_lanes (exec_vshr t wide) rfl ?_,
    performs_lanes (exec_vmin t wide) rfl ?_, performs_lanes (exec_vmax t wide) rfl ?_,
    performs_lanes (exec_vabs t wide) rfl ?_, performs_lanes (exec_vneg t wide) rfl ?_,
    performs_lanes (exec_vbc t wide) rfl ?_, performs_lanes (exec_vperm t wide) rfl ?_,
    performs_lanes (exec_vintl t wide) rfl ?vintl, ?vred,
    performs_lanes (wide := false) (exec_vxw t) rfl ?_, performs_lanes (wide := true) (exec_vxn t) rfl ?_⟩
  case vaclr => exact performs_lane (exec_vaclr t wide) fun b u _ => by rw [State.countLane_eq]
  case vred =>
    refine performs_lane (exec_vred t wide) fun b u ho => ?_
    rw [accEffect_eq ho (by decide)]
    rfl
  case vintl =>
    intro op x ho
    simp only [Tile.laneOut, laneResult, Tile.laneSources, ho]
    cases wide <;> rfl
  all_goals
    intro op x ho
    simp only [Tile.laneOut, laneResult, Tile.laneSources, ho]
    rfl

/-! ## D generators (R117-R119) -/

theorem holdsD_of_inD {y : Bool} {st : Nat} {b : Bundle} (h : InD y st b) : holdsD y st b = true := by
  cases y <;> simpa [holdsD, InD] using h

/-- Settles O6: the kind of access decides between the two effects of `dEffect`. -/
theorem generatorsComplete : Obligations.GeneratorsComplete := by
  unfold Obligations.GeneratorsComplete
  intro t y
  refine ⟨performs_of_issueSlot (exec_dLoad t y) (fun _ => holdsD_of_inD) ?load,
    performs_of_issueSlot (exec_dStore t y) (fun _ => holdsD_of_inD) ?store⟩
  case load =>
    intro b u h
    have hst : (if y then b.dy else b.dx).st ≠ 1 := fun e => by simpa [e] using h.2
    simp only [dEffect, if_neg hst] <;> rfl
  case store =>
    intro b u h
    have hst : (if y then b.dy else b.dx).st = 1 := BitVec.eq_of_toNat_eq h.2
    simp only [dEffect, if_pos hst]
    rfl

end Sys2Proof.Machine
end

section
/-! The operations of the E and M slots when their turn has come (chapters 04, 05 and 07, R114-R116, R146, R147, R181-R184). -/
namespace Sys2Proof.Machine
open Sys2Proof.Claims

/-! ## Elements (R115, R116, R181-R184) -/

theorem holdsE_of_inE {o : Nat} {b : Bundle} (h : InE o b) : holdsE o b = true := by simp [holdsE, h.1, h.2]

theorem performs_element {c : Instr} {t : TileIx} {o : Nat} {eff : ESlot → State → State} {eff' : Bundle → State → State}
    (hexec : ∀ s, exec c s = s.elementOp t o eff) (heff : ∀ b u, b.e.o = o → eff b.e u = eff' b u) :
    Performs c t 4 (InE o) eff' :=
  performs_of_issueSlot hexec (fun _ => holdsE_of_inE) fun b u h => heff b u h.2

theorem vEffect_eq {t o lat : Nat} {r : ESlot → State → VOut} (hlat : eLatency o = lat)
    (hresult : ∀ (e : ESlot) (u : State), e.o = o → u.eResult t e = r e u) {b : Bundle} (ho : b.e.o = o) (u : State) :
    vEffect t b.e u = vResult t lat r b u := by
  simp only [vEffect, vResult, hresult b.e u ho, ho, hlat]

/-- An operation that writes a v register: `r` is its result. -/
theorem performs_vector {c : Instr} {t : TileIx} {o lat : Nat} {r : ESlot → State → VOut}
    (hexec : ∀ s, exec c s = s.elementOp t o (vEffect t)) (hlat : eLatency o = lat)
    (hresult : ∀ (e : ESlot) (u : State), e.o = o → u.eResult t e = r e u) : Performs c t 4 (InE o) (vResult t lat r) :=
  performs_element hexec fun _ u ho => vEffect_eq hlat hresult ho u

/-- A conversion enters the numeric log where its result counts something (R163). -/
theorem performs_logged {c : Instr} {t : TileIx} {o lat kind : Nat} {r : ESlot → State → VOut} {sidx : ESlot → State → Nat}
    (hexec : ∀ s, exec c s = s.elementOp t o (vLogged t kind)) (hlat : eLatency o = lat)
    (hresult : ∀ (e : ESlot) (u : State), e.o = o → u.eResult t e = r e u)
    (hsidx : ∀ (e : ESlot) (u : State),
      (if kind = logErq then (erqFields ((u.tile t).sr (e.aux.toNat % 32))).2.1 else 0) = sidx e u) :
    Performs c t 4 (InE o) fun b u =>
      let u' := vResult t lat (fun _ _ => r b.e u) b u
      if (r b.e u).counts = {} then u' else u'.numLog t kind (u.tile t).pc 0 (r b.e u).counts 0 (sidx b.e u) 0 :=
  performs_element hexec fun b u ho => by
    simp only [vLogged, vEffect_eq hlat hresult ho u, hresult b.e u ho, hsidx]
    rfl

/-- Settles O7: vector operations by the lemma of their form, with the operation's row of R182; the conversions add their log entry. -/
theorem elementOperationsComplete : Obligations.ElementOperationsComplete := by
  unfold Obligations.ElementOperationsComplete
  intro t
  refine ⟨?ekrun, performs_vector (exec_ewin t) rfl ?_,
    performs_vector (exec_eadd t) rfl ?_, performs_vector (exec_esub t) rfl ?_, performs_vector (exec_emul t) rfl ?_,
    performs_vector (exec_emin t) rfl ?_, performs_vector (exec_emax t) rfl ?_, performs_vector (exec_fadd32 t) rfl ?_,
    performs_vector (exec_fmul32 t) rfl ?_, performs_vector (exec_ffma32 t) rfl ?_, performs_vector (exec_fadd64 t) rfl ?_,
    performs_vector (exec_fmul64 t) rfl ?_, performs_vector (exec_ffma64 t) rfl ?_, performs_vector (exec_fdiv32 t) rfl ?_,
    performs_vector (exec_fsqrt32 t) rfl ?_, performs_vector (exec_fdiv64 t) rfl ?_, performs_vector (exec_fsqrt64 t) rfl ?_,
    performs_logged (r := fun e u => ecvt e.aux.toNat ((u.tile t).vr e.va.toNat)) (sidx := fun _ _ => 0) (exec_ecvt t) rfl ?_ fun _ _ => rfl,
    performs_logged (r := fun e u => u.erq t ((u.tile t).sr (e.aux.toNat % 32)) (e.aux.toNat / 32 == 1) ((u.tile t).vr e.va.toNat))
      (sidx := fun e u => bits ((u.tile t).sr (e.aux.toNat % 32)).toNat 23 12) (exec_erq t) rfl ?_ fun _ _ => rfl,
    performs_vector (exec_elut t) rfl ?_, performs_vector (exec_eamax t) rfl ?_⟩
  case ekrun =>
    refine performs_element (exec_ekrun t) fun b u _ => ?_
    cases u.startKernel t b.e <;> rfl
  all_goals
    intro e u ho
    simp only [State.eResult, ho]
    rfl

/-! ## The matrix array (R114, R146, R147) -/

theorem holdsM_of_inM {o : Nat} {b : Bundle} (h : InM o b) : holdsM o b = true := by simp [holdsM, h.1, h.2]

theorem performs_matrix {c : Instr} {t : TileIx} {o : Nat} {eff : MSlot → State → State}
    (hexec : ∀ s, exec c s = s.matrixOp t o eff) : Performs c t 3 (InM o) fun b => eff b.m :=
  performs_of_issueSlot hexec (fun _ => holdsM_of_inM) fun _ _ _ => rfl

/-! ## What keeps the active set

Only the end of a bundle with MSWAP changes it (R146); the results that the same cycle writes leave it alone. -/

theorem Tile.loopStep_activeSet (x : Tile) (a n : Nat) : (x.loopStep a n).1.activeSet = x.activeSet := by
  induction n generalizing x with
  | zero => rfl
  | succ n ih =>
    rw [Tile.loopStep]
    split
    · split
      · rfl
      · exact ih _
    · rfl

theorem Tile.write_activeSet (x : Tile) (w : Write) : (x.write w).activeSet = x.activeSet := by
  cases w with
  | s i v => exact apply_ite Tile.activeSet _ _ _ |>.trans (ite_self _)
  | p i v => exact apply_ite Tile.activeSet _ _ _ |>.trans (ite_self _)
  | _ => rfl

theorem noteFeed_activeSet (x : Tile) (old : Nat → Byte) (off : Nat) (bs : List Byte) :
    (noteFeed x old off bs).activeSet = x.activeSet := by
  unfold noteFeed
  split
  · rfl
  · split <;> rfl

theorem State.pokeTile_activeSet (s : State) (t off : Nat) (bs : List Byte) :
    ((s.pokeTile t off bs).tile t).activeSet = (s.tile t).activeSet := by
  unfold State.pokeTile
  cases h : s.tiles.find? t with
  | none => rfl
  | some x => simp [State.tile, noteFeed_activeSet, Table.getD, h]

theorem State.writeResult_activeSet (s : State) (t : Nat) (w : Write) :
    ((s.writeResult t w).tile t).activeSet = (s.tile t).activeSet := by
  unfold State.writeResult
  split
  · exact s.pokeTile_activeSet t _ _
  · rw [State.tile_modTile_same, Tile.write_activeSet]

theorem State.addCounts_tiles (s : State) (t : Nat) (c : Counts) : (s.addCounts t c).tiles = s.tiles := by
  simp only [State.addCounts, apply_ite State.tiles, State.incSat_tiles, ite_self]

theorem State.addLaneSat_tile (s : State) (t : Nat) (wide : Bool) (n k : Nat) : (s.addLaneSat t wide n).tile k = s.tile k := by
  have tiles : (s.addLaneSat t wide n).tiles = s.tiles := by
    simp only [State.addLaneSat, apply_ite State.tiles, State.incSat_tiles, State.addCounts_tiles, ite_self]
  rw [State.tile, tiles, State.tile]

theorem State.tile_setFld (s : State) (f : Fld) (v i j k : Nat) : (s.setFld f v i j).tile k = s.tile k := rfl

theorem State.ite_tile {c : Prop} [Decidable c] (s u : State) (t : Nat) :
    (if c then s else u).tile t = if c then s.tile t else u.tile t := apply_ite (State.tile · t) c s u

theorem Tile.setAcc_activeSet (x : Tile) (wide : Bool) (i : Nat) (ls : List Int) : (x.setAcc wide i ls).activeSet = x.activeSet := by
  cases wide <;> rfl

theorem State.writeAcc_activeSet (s : State) (t : Nat) (wide : Bool) (i : Nat) (due : List Write) :
    ((s.writeAcc t wide i due).tile t).activeSet = (s.tile t).activeSet := by
  unfold State.writeAcc
  simp only [State.ite_tile, apply_ite Tile.activeSet, State.addLaneSat_tile, State.tile_setFld, State.tile_setTile_same,
    Tile.setAcc_activeSet, ite_self]

theorem State.endCycle_activeSet (s : State) (t : Nat) : ((s.endCycle t).tile t).activeSet = (s.tile t).activeSet := by
  unfold State.endCycle State.endCycleOf State.writeDue
  refine forEach_keeps (P := fun u => (u.tile t).activeSet = (s.tile t).activeSet) (fun i u hu => ?_) _ ?_
  · rw [State.writeAcc_activeSet, State.writeAcc_activeSet, hu]
  · refine forEach_keeps (P := fun u => (u.tile t).activeSet = (s.tile t).activeSet) (fun w u hu => ?_) _ ?_
    · rw [State.writeResult_activeSet, hu]
    · rw [State.tile_setTile_same]

/-- The set that MSWAP names becomes the active one as its bundle ends (R146). -/
theorem State.finishBundle_activeSet (s : State) (t : Nat) {i : Issuing} (b : Bundle) (hkernel : i.kernelBad = false)
    (hskip : i.skip = none) :
    ((s.finishBundle t i b).tile t).activeSet = if i.swap then 1 - (s.tile t).activeSet else (s.tile t).activeSet := by
  simp [State.finishBundle, hkernel, hskip, State.endCycle_activeSet, Tile.loopStep_activeSet]

/-- Settles O8: each operation's effect is the model's; the active set at the bundle's end by `State.finishBundle_activeSet`. -/
theorem matrixOperationsComplete : Obligations.MatrixOperationsComplete := by
  unfold Obligations.MatrixOperationsComplete
  intro t
  exact ⟨(performs_matrix (exec_mcfg t) :), (performs_matrix (exec_mldw t) :), (performs_matrix (exec_mmul t) :),
    (performs_matrix (exec_mswap t) :), fun s i b => s.finishBundle_activeSet t b, (performs_matrix (exec_mwait t) :)⟩

end Sys2Proof.Machine
end

section
/-! What an S operation does that is alone in its bundle and in its tile (chapter 04, R105, R110, R111, R119, R123). -/
namespace Sys2Proof.Machine
open Sys2Proof.Claims

variable {s : State} {t : Nat} {b : Bundle}

/-! ## The bundle and its cycle -/

theorem State.beginIssue_sr (s : State) (t : Nat) (w : BitVec 256) (b : Bundle) (i : Nat) :
    ((s.beginIssue t w b).tile t).sr i = (s.tile t).sr i := by
  rw [State.beginIssue_tile]
  rfl

theorem State.beginIssue_flags (s : State) (t : Nat) (w : BitVec 256) (b : Bundle) :
    ((s.beginIssue t w b).tile t).flags = (s.tile t).flags := by
  rw [State.beginIssue_tile]

theorem slotExecutes_beginIssue (h : Alone s t b) : slotExecutes (s.beginIssue t (s.fetch t) b) t 0 = true := by
  rw [slotExecutes, State.beginIssue_issuing, exMask_of_only h.only h.executes]
  simp [bit]

/-- The whole of a bundle with one S operation that only puts results in flight: it issues, and its cycle ends. -/
theorem State.scalar_alone {t : TileIx} (h : Alone s t b) {o : Nat} (ho : b.s.o = o) (hbranch : isBranch o = false)
    {eff : SSlot → State → State} {lat : Nat} {ws : List Write}
    (heff : eff b.s (s.beginIssue t (s.fetch t) b) = (s.beginIssue t (s.fetch t) b).stageWrites t lat ws) :
    s.scalar t o eff = .next ((s.setTile t { (s.tile t).past with inflight := ws.map fun w => ⟨lat, w⟩ }).endCycle t) := by
  have turn : Turn s t 0 b (s.beginIssue t (s.fetch t) b) := .begins h.toBegins rfl
  have holds : holdsS o b = true := holdsS_of_inS ⟨slots_of_only h.only 0, ho⟩
  rw [State.scalar, State.issueSlot_turn turn holds, if_pos (slotExecutes_beginIssue h), heff,
    alone_done h (ho ▸ hbranch)]

/-! ## Arithmetic (R105, R110) -/

theorem Tile.write_s (x : Tile) (i : Nat) (v : Word) :
    x.write (.s i v) = { x with s := if i = 0 then x.s else x.s.set (fun _ => 0) i v } := by
  by_cases h : i = 0 <;> simp [Tile.write, h]

theorem Tile.write_zncv_flags (x : Tile) (v : BitVec 4) :
    (x.write (.zncv v)).flags = BitVec.ofNat 32 (setBits x.flags.toNat 3 0 v.toNat) := rfl

/-- The tile after an operation that writes `v` to s[i] and `fl` to FLAGS [3:0]. -/
def Tile.afterAlu (x : Tile) (i : Nat) (v : Word) (fl : BitVec 4) : Tile :=
  (({ x.past with inflight := [] } : Tile).write (.s i v)).write (.zncv fl)

theorem Tile.afterAlu_sr (x : Tile) (i : Nat) (v : Word) (fl : BitVec 4) (j : Nat) :
    (x.afterAlu i v fl).sr j = if j = i ∧ j ≠ 0 then v else x.sr j :=
  Tile.sr_write_s _ i v j

theorem Tile.afterAlu_flags {x : Tile} (hloop : x.ld = 0) (i : Nat) (v : Word) (fl : BitVec 4) :
    (x.afterAlu i v fl).flags = BitVec.ofNat 32 (setBits x.flags.toNat 3 0 fl.toNat) := by
  have past : (({ x.past with inflight := [] } : Tile).write (.s i v)).flags = x.flags := by
    rw [Tile.write_s]
    exact x.wr_flags hloop
  rw [Tile.afterAlu, Tile.write_zncv_flags, past]

theorem Tile.afterAlu_sameElse {x : Tile} (hloop : x.ld = 0) (i : Nat) (v : Word) (fl : BitVec 4) :
    SameElse x (x.afterAlu i v fl) := by
  have flagsHigh : ∀ k, 4 ≤ k → k < 32 → (x.afterAlu i v fl).flags.getLsbD k = x.flags.getLsbD k := fun k h4 hk => by
    rw [Tile.afterAlu_flags hloop, zncv_high x.flags fl k h4 hk]
  rw [Tile.afterAlu, Tile.write_s] at flagsHigh ⊢
  exact ⟨rfl, rfl, rfl, rfl, ⟨rfl, rfl, rfl⟩, ⟨rfl, rfl, rfl, rfl, rfl, rfl⟩, ⟨rfl, rfl, rfl⟩, ⟨rfl, rfl, rfl, rfl, rfl⟩,
    ⟨rfl, rfl, rfl, rfl, rfl, rfl⟩, flagsHigh⟩

theorem aluResult_of {c : TileIx → Instr} {o : Nat} {imm : Bool} {f : Word → Word → Word} {fl : Word → Word → Word → BitVec 4}
    (hexec : ∀ t s, exec (c t) s = s.scalar t o (aluEffect t imm f fl)) (hbranch : isBranch o = false) :
    AluResult c o imm f fl := by
  intro t s b h ho
  let v := f (opA t b s) (opB t imm b s)
  let flags := fl (s.tile t).flags (opA t b s) (opB t imm b s)
  have heff : aluEffect t imm f fl b.s (s.beginIssue t (s.fetch t) b) =
      (s.beginIssue t (s.fetch t) b).stageWrites t 1 [.s b.s.rd.toNat v, .zncv flags] := by
    simp only [aluEffect, Tile.second, State.beginIssue_sr, State.beginIssue_flags]
    rfl
  have hwrites : ∀ w ∈ [Write.s b.s.rd.toNat v, .zncv flags], (∃ i v, w = .s i v) ∨ (∃ v, w = .zncv v) := by
    simp
  refine ⟨(s.tile t).afterAlu b.s.rd.toNat v flags, ?_, Tile.afterAlu_sameElse h.noLoop _ _ _, ?_, Tile.afterAlu_sr _ _ _ _, ?_⟩
  · rw [hexec, State.scalar_alone h ho hbranch heff, endCycle_writes _ _ rfl hwrites]
    rfl
  · rw [Tile.afterAlu, Tile.write_s]
    rfl
  · intro k hk
    rw [Tile.afterAlu_flags h.noLoop, zncv_low _ _ k hk]

/-- Settles O9: one lemma for every operation with a result and flags. -/
theorem scalarArithmeticResults : Obligations.ScalarArithmeticResults := by
  unfold Obligations.ScalarArithmeticResults
  exact ⟨aluResult_of exec_add rfl, aluResult_of exec_sub rfl, aluResult_of exec_and rfl, aluResult_of exec_or rfl,
    aluResult_of exec_xor rfl, aluResult_of exec_sll rfl, aluResult_of exec_srl rfl, aluResult_of exec_sra rfl,
    aluResult_of exec_addi rfl, aluResult_of exec_andi rfl, aluResult_of exec_ori rfl, aluResult_of exec_xori rfl,
    aluResult_of exec_slli rfl, aluResult_of exec_srli rfl, aluResult_of exec_srai rfl⟩

/-! ## Stores (R111, R119) -/

/-- The address of a scalar access in its tile's memory window. -/
def storeOffset (s : State) (t : Nat) (y : Bool) (b : Bundle) : Nat :=
  (opA t b s + BitVec.ofNat 32 b.s.imm).toNat + if y then 0x80000 else 0

/-- The tile one cycle after a store that is alone: the bytes of rd wait for the end of the next cycle. -/
def Tile.afterStore (x : Tile) (off : Nat) (v : Word) : Tile := { x.past with inflight := [⟨1, .store off (bytesOf 4 v.toNat)⟩] }

theorem exec_store_alone {t : TileIx} (y : Bool) (h : Alone s t b) (ho : b.s.o = if y then 0x23 else 0x22) :
    exec (if y then .sty t else .stx t) s =
      .next (s.setTile t ((s.tile t).afterStore (storeOffset s t y b) ((s.tile t).sr b.s.rd.toNat))) := by
  have hexec : exec (if y then .sty t else .stx t) s = s.scalar t (if y then 0x23 else 0x22) (storeEffect t y) := by
    cases y <;> rfl
  have hbranch : isBranch (if y then 0x23 else 0x22) = false := by cases y <;> rfl
  have heff : storeEffect t y b.s (s.beginIssue t (s.fetch t) b) = (s.beginIssue t (s.fetch t) b).stageWrites t 2
      [.store (storeOffset s t y b) (bytesOf 4 ((s.tile t).sr b.s.rd.toNat).toNat)] := by
    simp only [storeEffect, Tile.scalarAddr, State.beginIssue_sr]
    rfl
  rw [hexec, State.scalar_alone h ho hbranch heff, endCycle_wait _ 0 _ rfl]
  rfl

/-- Settles O10: the store waits a cycle in flight and is then written; the two cycles are log 45's. -/
theorem scalarStoreLands : Obligations.ScalarStoreLands := by
  unfold Obligations.ScalarStoreLands
  intro t y s b h ho
  let v := (s.tile t).sr b.s.rd.toNat
  let off := storeOffset s t y b
  have hat : tileMemBase t + (opA t b s + BitVec.ofNat 32 b.s.imm).toNat + (if y then 0x80000 else 0) = tileMemBase t + off :=
    Nat.add_assoc ..
  have hend := endCycle_store (s := s) (t := t) ((s.tile t).afterStore off v) off (bytesOf 4 v.toNat) rfl
  have hlen : (bytesOf 4 v.toNat).length = 4 := bytesOf_length 4 _
  refine ⟨_, exec_store_alone y h ho, fun _ => rfl, fun k hk => ?_, fun k hk => ?_, fun i => ?_, ?_, rfl⟩
  · rw [hat, hend, pokeTile_byte_same _ _ _ _ _ (hlen ▸ hk), bytesOf_getElem]
  · rw [hat] at hk
    rw [hend, pokeTile_byte_other _ _ _ _ _ (hlen ▸ hk)]
    rfl
  · rw [State.tile_setTile_same]
    rfl
  · rw [State.tile_setTile_same]
    exact (s.tile t).wr_flags h.noLoop

end Sys2Proof.Machine
end

section
/-! Tasks, interrupts and the matrix array of a tile, apart from its bundles (chapters 04 and 05, R100-R103, R126, R139, R148-R151). -/
namespace Sys2Proof.Machine
open Sys2Proof.Claims

variable {s : State} {t : Nat}

/-! ## Tasks (R100-R102, R223) -/

theorem State.startHead_waiting {e : QEntry} {rest : List QEntry} (htask : (s.tile t).task = none) (hserves : s.tileServes t = true)
    (hqueue : (s.tile t).queue = e :: rest) (hslot : e.slot = none) : s.startHead t = s.startTask t e.task rest := by
  obtain ⟨task, slot⟩ := e
  subst hslot
  simp [State.startHead, htask, hserves, hqueue]

/-- An idle tile takes the byte, and its record of the loaded image is cleared (R100). -/
theorem State.programWrite_idle (p off : Nat) (bs : List Byte) (hon : s.domOn t = true) (hidle : (s.tile t).state = .idle) :
    s.programWrite p t off bs = (s.modTile t fun x => { x with loaded := none }).poke (tileMemBase t + off) bs := by
  simp [State.programWrite, State.writeProgram, hon, hidle, State.modTile, State.setTile]

theorem State.programWrite_busy (p off : Nat) (bs : List Byte) (hon : s.domOn t = true) (hbusy : (s.tile t).state ≠ .idle) :
    s.programWrite p t off bs = s.event evWriteIgnored p t [w64 (tileMemBase t + off)] := by
  simp [State.programWrite, hon, hbusy]

theorem State.endTask_ended {k : Task} (htask : (s.tile t).task = some k) (hended : (s.tile t).ended = true) :
    s.endTask t =
      ((((s.drainTile t).retireFences (s.tile t).lastFences).taskTotals t k (s.tile t).stopped).modTile t fun x =>
        { x with state := .idle, task := none, halting := false, stopped := false, preempt := false, sliceEnd := false,
                 fences := [], bound := none, inHandler := false, delay := false, branch := none, paidStall := false,
                 resvWait := none, pend := .empty, insts := ⟨x.insts.rows.map fun r => (r.1, { r.2 with state := .done })⟩ }).taskDone
        k.job := by
  simp [State.endTask, htask, hended]

/-! ## Interrupts and stall cycles (R109, R123, R126) -/

/-- The tile's record once it has taken the interrupt of source k. -/
def Tile.interrupted (x : Tile) (k : Nat) : Tile :=
  { x with epc := BitVec.ofNat 32 x.pc, eflags := x.flags,
           flags := BitVec.ofNat 32 (setBits x.flags.toNat 7 4 0), cause := BitVec.ofNat 32 k,
           ipend := x.ipend &&& ~~~BitVec.ofNat 32 (2 ^ k), pc := x.ivec.toNat % 4096, inHandler := true,
           state := .run, bound := none, paidStall := false }

theorem State.enterInterrupt_taken {k : Nat} (hsource : (s.tile t).irqSource = some k) (htask : (s.tile t).task.isSome = true)
    (hstate : (s.tile t).state = .run ∨ (s.tile t).state = .wait) (hissuing : (s.tile t).issuing = none)
    (hhalting : (s.tile t).halting = false) (hie : (s.tile t).ie = true) (hdelay : (s.tile t).delay = false)
    (hpreempt : s.preemptDue t = false) : s.enterInterrupt t = (s.drainTile t).modTile t (·.interrupted k) := by
  have hstate' : ((s.tile t).state == .run || (s.tile t).state == .wait) = true := by simpa using hstate
  rw [State.enterInterrupt, hsource]
  dsimp only
  rw [if_neg (by simp [htask, hstate', hissuing, hhalting, hie, hdelay, hpreempt])]
  rfl

/-- Only the bit of the source that is taken clears. -/
theorem Tile.interrupted_ipend (x : Tile) (k i : Nat) (hi : i < 32) :
    (x.interrupted k).ipend.getLsbD i = (x.ipend.getLsbD i && i != k) := by
  rw [Tile.interrupted, BitVec.getLsbD_and, BitVec.getLsbD_not, BitVec.getLsbD_ofNat, Nat.testBit_two_pow]
  by_cases hik : i = k
  · simp [hik]
  · simp [hi, hik, Ne.symm hik]

theorem execResultWrite_stall {t : TileIx} {b : Bundle} {wait : Bool} {m : Moves} (hissues : s.issues t = true)
    (hissuing : (s.tile t).issuing = none) (hhalting : (s.tile t).halting = false) (hfetch : Bundle.decode (s.fetch t) = b)
    (hlegal : (s.tile t).staticFault b = none) (hstall : s.verdict t b = .stall wait m) (hdue : (s.tile t).firstDue m.go ≠ 0) :
    execResultWrite t s = .next ((s.modTile t fun x => { x.pass ((s.tile t).firstDue m.go) true with
      state := if wait then .wait else .run, lossX := 0, lossY := 0 }).endCyclesOf t m.go ((s.tile t).firstDue m.go)) := by
  simp [execResultWrite, hissues, hissuing, hhalting, hfetch, hlegal, hstall, hdue]

/-! ## The matrix queue (R139, R151) -/

theorem Tile.dispatch_mcfg {x : Tile} {m : MOp} {rest : List MOp} (hqueue : x.mq = m :: rest) (hop : m.op = 1) (hrunning : x.running = [])
    (hloading : x.loading = []) : x.dispatch = { x with mq := rest, fmt := m.fmt, split := m.split, weights := .empty } := by
  simp [Tile.dispatch, hqueue, hop, hrunning, hloading]

theorem Tile.dispatch_mldw {x : Tile} {m : MOp} {rest : List MOp} (hqueue : x.mq = m :: rest) (hop : m.op = 2) (hskip : x.skips m = false)
    (hshadow : (x.wts m.sub).shadow = none) (hloading : (x.loading.any fun k => k.sub == m.sub) = false) :
    x.dispatch = { x with mq := rest, loading := x.loading ++ [m] } := by
  simp [Tile.dispatch, hqueue, hop, hskip, hshadow, hloading]

theorem Tile.dispatch_mmul {x : Tile} {m : MOp} {rest : List MOp} (hqueue : x.mq = m :: rest) (hop : m.op = 3) (hskip : x.skips m = false)
    (hloading : (x.loading.any fun k => k.sub == m.sub) = false) :
    x.dispatch =
      let w := x.wts m.sub
      let blk := if w.shadow.isSome then w.shadow else w.active
      { x with mq := rest, weights := x.weights.put m.sub { active := blk, shadow := none }, running := x.running ++ [{ m with block := blk }],
               started := x.started ||| 2 ^ m.sub, fill := x.fill &&& (15 - quadsOf m.split m.sub) } := by
  simp [Tile.dispatch, hqueue, hop, hskip, hloading]

/-! ## Dummy steps (R151) -/

theorem State.endFill_none {qs : Nat} (h : qs &&& (s.tile t).fill = 0) : s.endFill t qs = s := if_pos h

/-- The end of dummy steps changes FILL and the LFSRs of the tile's record, and no other field. (log 36: DESIGN CHOICE) -/
theorem State.endFill_tile (s : State) (t qs : Nat) : ∃ lfsr,
    (s.endFill t qs).tile t = { s.tile t with fill := (s.tile t).fill - (qs &&& (s.tile t).fill), lfsr := lfsr } := by
  by_cases h : qs &&& (s.tile t).fill = 0
  · exact ⟨(s.tile t).lfsr, by rw [State.endFill_none h, h, Nat.sub_zero]⟩
  · rw [State.endFill, if_neg h]
    exact ⟨_, State.tile_setTile_same ..⟩

theorem State.endFill_frame (s : State) (t qs : Nat) : (s.endFill t qs).mem = s.mem ∧ (s.endFill t qs).job = s.job := by
  by_cases h : qs &&& (s.tile t).fill = 0
  · rw [State.endFill_none h]
    exact ⟨rfl, rfl⟩
  · rw [State.endFill, if_neg h]
    exact ⟨rfl, rfl⟩

/-! ## Dispatch and completion (R139, R148, R149) -/

/-- A dispatch that leaves the dummy steps running is an update of the tile alone. -/
theorem State.matrixDispatch_sameFill {x : Tile} (hx : (s.tile t).dispatch = x) (hfill : x.fill = (s.tile t).fill) :
    s.matrixDispatch t = s.setTile t x := by
  rw [State.matrixDispatch, hx, hfill, Nat.sub_self, State.endFill_none (Nat.zero_and _), State.modTile, hx]

/-- An MMUL that starts ends the dummy steps of its quadrants. -/
theorem State.matrixDispatch_mmul {m : MOp} {rest : List MOp} (hqueue : (s.tile t).mq = m :: rest) (hop : m.op = 3)
    (hskip : (s.tile t).skips m = false) (hloading : ((s.tile t).loading.any fun k => k.sub == m.sub) = false) :
    s.matrixDispatch t =
      let w := (s.tile t).wts m.sub
      let blk := if w.shadow.isSome then w.shadow else w.active
      let f := (s.tile t).fill
      (s.endFill t (f - (f &&& (15 - quadsOf m.split m.sub)))).modTile t fun x =>
        { x with mq := rest, weights := x.weights.put m.sub { active := blk, shadow := none },
                 running := x.running ++ [{ m with block := blk }],
                 started := x.started ||| 2 ^ m.sub, fill := x.fill &&& (15 - quadsOf m.split m.sub) } := by
  rw [State.matrixDispatch, Tile.dispatch_mmul hqueue hop hskip hloading]
  dsimp only
  generalize (s.tile t).fill - ((s.tile t).fill &&& (15 - quadsOf m.split m.sub)) = qs
  obtain ⟨lfsr, htile⟩ := s.endFill_tile t qs
  rw [State.modTile, State.modTile, htile]
  exact congrArg _ (Tile.dispatch_mmul (x := { s.tile t with fill := _, lfsr := lfsr }) hqueue hop hskip hloading)

theorem State.loadDone_clean {sub : Nat} {m : MOp} {a : SubArray} (hfirst : ((s.tile t).loading.find? fun m => m.sub == sub) = some m)
    (hsub : subArray m.split m.sub = some a) (hold : m.old.rows = []) :
    s.loadDone t sub =
      let bytes := (List.range (weightRows m.fmt a.w)).flatMap fun u => (List.range 64).flatMap fun i =>
        bytesOf 4 (s.feedWord t m.old 0 (m.base + u) i)
      s.modTile t fun x =>
        { x with loading := x.loading.filter fun k => k.sub != sub,
                 weights := x.weights.put sub { x.wts sub with shadow := some { base := m.base, bytes := bytes } } } := by
  rw [State.loadDone, hfirst]
  simp only [hsub, hold, List.isEmpty_nil, if_true]

/-- The first run of an MMUL whose operands nothing has written over: only the count of its cycles is free (log 36), and the
comparison decides between its commit and its replay. -/
theorem State.mulDone_first {sub : Nat} {m : MOp} {a : SubArray} (bad : Bool)
    (hfirst : ((s.tile t).running.find? fun m => m.sub == sub) = some m)
    (hsub : subArray m.split m.sub = some a) (hold : m.old.rows = []) (hretry : m.retry = false) :
    s.mulDone t sub bad =
      let u := s.draw.2.incSat ARR_BUSYCYC.CYCLES s.draw.1 t
      let o := mulCompute (u.mulIn t m a 0 0) m.anchor m.add (u.fld ARR_CKTOL.ULP t) ((s.tile t).entry (s.tile t).activeSet)
      if ¬bad ∧ o.ok then u.mulCommit t m o else u.mulReplay t sub := by
  rw [State.mulDone, hfirst]
  simp only [hsub, hold, hretry, List.isEmpty_nil, if_true, Bool.false_and, Bool.false_eq_true, if_false]

/-- Settles O25: each command by the lemma of its operation. That ARR_BUSYCYC grows by a free value is log 36's choice. -/
theorem tileCommandsComplete : Obligations.TileCommandsComplete := by
  unfold Obligations.TileCommandsComplete
  intro t s
  refine ⟨?start, ?write, ?ignored, ?ended, ?interrupt, ?stall, ?mcfg, ?mldw, ?loaded, ?mmul, ?done, ?gap⟩
  case start =>
    intro e rest htask hserves hqueue hslot
    rw [exec_taskStart, execTaskStart, State.startHead_waiting htask hserves hqueue hslot]
  case write =>
    intro p o v hon hidle
    have hexec : exec (.programMemoryWrite p t o v) s =
        .next ((s.modTile t fun x => { x with loaded := none }).poke (tileMemBase t + (0x1E0000 + o)) [v]) := by
      rw [exec_programMemoryWrite, execProgramMemoryWrite, State.programWrite_idle p _ _ hon hidle]
    have hloaded : ((s.modTile t fun x => { x with loaded := none }).tile t).loaded = none := by rw [State.tile_modTile_same]
    refine ⟨_, hexec, ?_, fun a ha => ?_, hloaded, rfl⟩
    · rw [Nat.add_assoc]
      exact State.byte_poke_same _ _ [v] (k := 0) Nat.zero_lt_one
    · have hother : a < tileMemBase t + (0x1E0000 + o) ∨ tileMemBase t + (0x1E0000 + o) + [v].length ≤ a := by
        rw [List.length_singleton]
        omega
      exact State.byte_poke_other _ _ _ hother
  case ignored =>
    intro p o v hon hbusy
    exact congrArg _ (State.programWrite_busy p _ _ hon hbusy)
  case ended =>
    intro k htask hended
    rw [exec_taskEnd, execTaskEnd, State.endTask_ended htask hended]
  case interrupt =>
    intro k hon hsource htask hstate hissuing hhalting hie hdelay hpreempt
    have htaken := State.enterInterrupt_taken hsource htask hstate hissuing hhalting hie hdelay hpreempt
    refine ⟨_, by rw [exec_interruptEntry, execInterruptEntry, if_pos hon, htaken], ?_⟩
    simp only [State.tile_modTile_same]
    exact ⟨rfl, rfl, rfl, rfl, rfl, Tile.interrupted_ipend _ k, rfl, rfl, fun _ => rfl⟩
  case stall =>
    intro b wait m hissues hissuing hhalting hfetch hlegal hstall hdue
    rw [exec_resultWrite, execResultWrite_stall hissues hissuing hhalting hfetch hlegal hstall hdue]
  case mcfg =>
    intro m rest hqueue hop hrunning hloading
    exact congrArg _ (State.matrixDispatch_sameFill (Tile.dispatch_mcfg hqueue hop hrunning hloading) rfl)
  case mldw =>
    intro m rest hqueue hop hskip hshadow hloading
    exact congrArg _ (State.matrixDispatch_sameFill (Tile.dispatch_mldw hqueue hop hskip hshadow hloading) rfl)
  case loaded =>
    intro sub m a hfirst hsub hold
    rw [exec_mldwComplete, execMldwComplete, State.loadDone_clean hfirst hsub hold]
  case mmul =>
    intro m rest hqueue hop hskip hloading
    rw [exec_matrixDispatch, execMatrixDispatch, State.matrixDispatch_mmul hqueue hop hskip hloading]
  case done =>
    intro sub m a hfirst hsub hold hretry
    refine ⟨fun hok => ?_, ?_⟩
    · rw [exec_mmulComplete, execMmulComplete, State.mulDone_first false hfirst hsub hold hretry]
      exact congrArg _ (if_pos ⟨Bool.false_ne_true, hok⟩)
    · rw [exec_mmulComplete, execMmulComplete, State.mulDone_first true hfirst hsub hold hretry]
      exact congrArg _ (if_neg fun h => h.1 rfl)
  case gap =>
    intro sub _
    obtain ⟨lfsr, htile⟩ := s.endFill_tile t (quadsOf (s.tile t).split sub)
    exact ⟨_, rfl, by rw [htile], s.endFill_frame t _⟩

end Sys2Proof.Machine
end

section
/-! The rows and the end of a kernel run, the scale tables and the numeric log (chapters 06 and 07, R163, R165, R174, R175, R179,
R188, R192). -/
namespace Sys2Proof.Machine

variable {s : State}

/-! ## Kernel runs (R174, R175, R188, R192) -/

/-- A row that is left to its pass runs, and the pass that follows starts if one does. -/
theorem execKernelRow_left {t : TileIx} {r r' : KRun} (hrun : (s.tile t).krun = some r) (hleft : r.row < (KDesc.ofWords r.desc).count)
    (hnext : ((s.kernelRow t r).tile t).krun = some r') :
    execKernelRow t s = .next (((s.kernelRow t r).nextPass t r').getD (s.kernelRow t r)) := by
  rw [execKernelRow, hrun]
  dsimp only
  rw [if_neg hleft.not_ge, hnext]

/-- A run whose rows are all written ends. -/
theorem execKernelRunEnd_written {t : TileIx} {r : KRun} (hrun : (s.tile t).krun = some r) (hall : (KDesc.ofWords r.desc).count ≤ r.row) :
    execKernelRunEnd t s = .next (s.kernelEnd t r) := by
  rw [execKernelRunEnd, hrun]
  exact if_pos hall

/-! ## Scale tables (R163, R165) -/

/-- The owner of an idle tile sets a half of an entry; of a high half only the fields of the entry are kept. -/
theorem State.scaleWrite_idle {p t : Nat} (e : Nat) (hi : Bool) (v : Nat) (hon : s.domOn t = true) (howns : s.ownsTile p t = true)
    (hptn : s.ptnOn p = true) (hidle : (s.tile t).state = .idle) :
    s.scaleWrite p t e hi v = s.setReg (if hi then SCL_HI else SCL_LO) (if hi then (ScaleEntry.ofWords 0 v).hiWord else v) t e := by
  rw [State.scaleWrite, if_neg (not_not_intro hon), if_pos ⟨howns, hptn, hidle⟩]

/-! ## The numeric log (R179) -/

theorem State.nlogWrite_owner {p t : Nat} (v : Nat) (hon : s.domOn t = true) (howns : s.ownsTile p t = true) (hptn : s.ptnOn p = true) :
    s.nlogWrite p t v = ((s.setReg TIL_NLOG_WR v t).setFld TIL_NLOG_STAT.FULL 0 t).setFld TIL_NLOG_STAT.LOST 0 t :=
  if_pos ⟨hon, howns, hptn⟩

/-- After the owner's write the log holds the number written and shows neither FULL nor a lost entry. -/
theorem State.nlogWrite_regs {p t : Nat} (v : Word) (hon : s.domOn t = true) (howns : s.ownsTile p t = true) (hptn : s.ptnOn p = true) :
    (s.nlogWrite p t v.toNat).reg TIL_NLOG_WR t = v.toNat ∧ (s.nlogWrite p t v.toNat).flag TIL_NLOG_STAT.FULL t = false ∧
      (s.nlogWrite p t v.toNat).fld TIL_NLOG_STAT.LOST t = 0 := by
  rw [State.nlogWrite_owner v.toNat hon howns hptn]
  have hstat := Reg.addr_ne TIL_NLOG_WR TIL_NLOG_STAT (by decide) t 0
  refine ⟨?_, ?_, ?_⟩
  · rw [State.reg_setFld_other _ TIL_NLOG_STAT.LOST _ _ _ _ _ _ hstat, State.reg_setFld_other _ TIL_NLOG_STAT.FULL _ _ _ _ _ _ hstat,
      State.reg_setReg_word]
  · rw [State.flag, State.fld_setFld_disjoint _ TIL_NLOG_STAT.LOST TIL_NLOG_STAT.FULL _ _ _ rfl (by decide) (by decide) (by decide)
      (by decide), State.fld_setFld_same _ _ _ _ _ (by decide) (by decide)]
    rfl
  · rw [State.fld_setFld_same _ _ _ _ _ (by decide) (by decide), Nat.zero_mod]

/-- The owner's write changes neither memory nor a tile's record. -/
theorem State.nlogWrite_frame {p t : Nat} (v : Nat) (hon : s.domOn t = true) (howns : s.ownsTile p t = true) (hptn : s.ptnOn p = true) :
    (s.nlogWrite p t v).mem = s.mem ∧ (s.nlogWrite p t v).tiles = s.tiles := by
  rw [State.nlogWrite_owner v hon howns hptn]
  exact ⟨rfl, rfl⟩

/-- Settles O28: each command by the lemma of its operation. -/
theorem kernelCommandsComplete : Obligations.KernelCommandsComplete := by
  unfold Obligations.KernelCommandsComplete
  intro t s
  refine ⟨?row, ?runEnd, ?scale, ?log⟩
  case row =>
    intro r r' hrun hleft hnext
    rw [exec_kernelRow, execKernelRow_left hrun hleft hnext]
  case runEnd =>
    intro r hrun hall
    rw [exec_kernelRunEnd, execKernelRunEnd_written hrun hall]
  case scale =>
    intro p e v hon howns hptn hidle
    exact ⟨congrArg Host.Outcome.next (State.scaleWrite_idle e.toNat false v.toNat hon howns hptn hidle),
      congrArg Host.Outcome.next (State.scaleWrite_idle e.toNat true v.toNat hon howns hptn hidle)⟩
  case log =>
    intro p v hon howns hptn
    obtain ⟨hwr, hfull, hlost⟩ := State.nlogWrite_regs v hon howns hptn
    exact ⟨_, exec_nlogWrWrite p t v s, hwr, hfull, hlost, State.nlogWrite_frame v.toNat hon howns hptn⟩

end Sys2Proof.Machine
end

section
/-! The streams of a tile: activation, list fetches, requests and responses, fences and the check-value unit (chapters 09 and 12,
R210, R212-R214, R217, R218, R222, R302, R303, R374). -/
namespace Sys2Proof.Machine

variable {s : State} {t : Nat}

/-! ## Activation (R210) -/

/-- While the engine has a place free, the queued instance that was started first takes it. -/
theorem Tile.activate_first {x : Tile} {d : Nat} {i : Inst} (hplace : x.activeInsts < 16) (hgoing : x.stopped = false)
    (hfirst : minBy (fun (r : Nat × Inst) => r.2.order) (x.insts.rows.filter fun r => r.2.state == .queued) = some (d, i)) :
    x.activate = { x with insts := x.insts.put d { i with state := .active } } := by
  rw [Tile.activate, if_neg (by simp [hgoing, hplace]), hfirst]

/-! ## List fetches (R212-R214) -/

/-- The next entry of the input list is read where the list keeps it, and is kept. -/
theorem State.listFetch_entry {d k j : Nat} {i : Inst} {x : Job} {bs : List Byte} {u : State} (hinst : (s.tile t).insts.find? d = some i)
    (hjob : s.taskJob t = some (j, x)) (hactive : i.state = .active) (hgoing : (s.tile t).stopped = false)
    (hnext : i.nextFetch false = some (k, none)) (hlist : x.suppliedEntry i.listSrc false false = none)
    (hplace : s.migratedFetch t x.ptn ((i.listBase x false + 32 * (i.first + k)) % 2 ^ 48) = false)
    (hread : s.vRead x.ptn ((i.listBase x false + 32 * (i.first + k)) % 2 ^ 48) 32 = (.ok bs, u)) :
    s.listFetch t d false = u.keepEntry t d k false i (parseEntry bs i.dir false) := by
  simp only [State.listFetch, hinst, hjob, hactive, hgoing, hnext, Option.isSome_none, hlist, hplace, hread, Bool.false_and,
    Bool.false_eq_true, false_and, ne_eq, not_true, or_self, if_false]

/-! ## Requests and responses (R217, R218, R374) -/

theorem State.issueRequest_fresh (out : Bool) (hworks : s.streamWorks t = true) (hroom : (s.tile t).reqs.length < 256)
    (hkept : ((s.tile t).reqs.find? fun r => decide (r.mark = .dropped)) = none) : s.issueRequest t out = s.issueNew t out := by
  rw [State.issueRequest, if_neg (not_not_intro hworks), hkept]
  exact if_neg hroom.not_ge

/-- The request in turn goes out once its address is translated and its instance may access what lies there. -/
theorem State.issueNew_translated {out isOut : Bool} {d ga cache : Nat} {i : Inst} {f : Form} {b : Block} {u : State}
    (hturn : s.turn t out = some (d, i, f, isOut)) (hblk : i.ins.find? f.blk = some b) (hfault : f.fault = none)
    (htrans : s.translate (s.taskPtn t) f.far (isOut || i.dir == 1 || b.kind == 2) = (.ok (ga, cache), u))
    (hplace : u.migratedBad t ga = false) (htarget : b.kind ≠ 2 ∨ atomicTarget ga = true) :
    s.issueNew t out = u.issueForm t d i f isOut b ga cache := by
  have hallowed : ¬(b.kind = 2 ∧ ¬atomicTarget ga = true) := fun ⟨hkind, hno⟩ => htarget.elim (· hkind) hno
  simp only [State.issueNew, hturn, hblk, hfault, htrans, hplace, if_neg hallowed, Bool.false_eq_true, if_false]

/-- A request whose access succeeds is answered with the data that the access gives. -/
theorem State.streamResponse_answered {id : Nat} {err : MemErr} {r : SReq} {bs : List Byte} {u : State} (hreq : s.localReq t id = some r)
    (hhere : s.awaitsHost r = false) (haccess : s.streamAccess (s.taskPtn t) r err = (u, .ok bs)) :
    s.streamResponse t id err = (u.answerReq t r 0 bs).drainInbound := by
  simp only [State.streamResponse, hreq, hhere, haccess, Bool.false_eq_true, if_false]

/-! ## Fences (R222) -/

theorem State.fenceRetire_done {f : Fence} {fs : List Fence} (holdest : (s.tile t).fences = f :: fs) (hissued : f.implicit = false)
    (hdone : (s.tile t).fenceDone f = true) :
    s.fenceRetire t = (s.modTile t fun x => { x with fences := fs }).retireFences [f] := by
  rw [State.fenceRetire, holdest]
  exact if_neg (by simp [hissued, hdone])

/-! ## The check-value unit (R302-R304) -/

/-- Tile t's unit feeds block b, and `rest` waits behind it. -/
def State.crcTaken (s : State) (t : Nat) (b : CrcBlk) (rest : List CrcBlk) : State :=
  (s.modTile t fun x => { x with crcFeed := some b, crcQueue := rest }).setFld CRC_STAT.FEEDING 1 t

theorem State.crcTaken_tile (b : CrcBlk) (rest : List CrcBlk) :
    (s.crcTaken t b rest).tile t = { s.tile t with crcFeed := some b, crcQueue := rest } := by
  rw [State.crcTaken, State.tile_setFld, State.tile_modTile_same]

theorem State.crcTaken_feeding (b : CrcBlk) (rest : List CrcBlk) : (s.crcTaken t b rest).fld CRC_STAT.FEEDING t = 1 :=
  State.fld_setFld_same _ CRC_STAT.FEEDING _ _ _ (by decide) (by decide)

theorem State.crcTaken_reg_other (b : CrcBlk) (rest : List CrcBlk) {r : Reg} (h : r.addr t 0 ≠ CRC_STAT.addr t 0) :
    (s.crcTaken t b rest).reg r t = s.reg r t := State.reg_setFld_other _ CRC_STAT.FEEDING r _ _ _ _ _ h

/-- The idle unit takes the block at the head of its queue; with RST its running value starts from CRC_INIT. -/
theorem State.crcStart_queued {b : CrcBlk} {rest : List CrcBlk} (hidle : (s.tile t).crcFeed = none)
    (hqueue : (s.tile t).crcQueue = b :: rest) :
    s.crcStart t = if s.flag CRC_CFG.RST t = true then (s.crcTaken t b rest).setReg CRC_VALUE (s.reg CRC_INIT t) t
      else s.crcTaken t b rest := by
  have hrst : (s.crcTaken t b rest).flag CRC_CFG.RST t = s.flag CRC_CFG.RST t := by
    simp only [State.flag, State.fld, CRC_CFG.RST, State.crcTaken_reg_other b rest (Reg.addr_ne CRC_CFG CRC_STAT (by decide) t 0)]
  rw [← hrst, ← State.crcTaken_reg_other b rest (Reg.addr_ne CRC_INIT CRC_STAT (by decide) t 0), State.crcStart, hidle, hqueue]
  rfl

/-- The start of a feed shows in CRC_STAT, moves the block out of the queue, and sets the running value under RST alone. -/
theorem State.crcStart_feeds {b : CrcBlk} {rest : List CrcBlk} (hidle : (s.tile t).crcFeed = none)
    (hqueue : (s.tile t).crcQueue = b :: rest) :
    (s.crcStart t).flag CRC_STAT.FEEDING t = true ∧ ((s.crcStart t).tile t).crcFeed = some b ∧
      ((s.crcStart t).tile t).crcQueue = rest ∧
      (s.crcStart t).reg CRC_VALUE t = (if s.flag CRC_CFG.RST t = true then s.reg CRC_INIT t else s.reg CRC_VALUE t) ∧
      (s.crcStart t).mem = s.mem := by
  have hfeeding := State.crcTaken_feeding (s := s) (t := t) b rest
  have htile := State.crcTaken_tile (s := s) (t := t) b rest
  rw [State.crcStart_queued hidle hqueue]
  cases s.flag CRC_CFG.RST t with
  | true =>
    have hshown := State.fld_setReg_other (s.crcTaken t b rest) CRC_VALUE CRC_STAT.FEEDING (s.reg CRC_INIT t) _ _ _ _
      (Reg.addr_ne CRC_STAT CRC_VALUE (by decide) t 0)
    exact ⟨beq_iff_eq.mpr (hshown.trans hfeeding), congrArg Tile.crcFeed htile, congrArg Tile.crcQueue htile,
      (State.reg_setReg_same ..).trans (Nat.mod_eq_of_lt (s.reg_lt CRC_INIT t 0)), rfl⟩
  | false =>
    exact ⟨beq_iff_eq.mpr hfeeding, congrArg Tile.crcFeed htile, congrArg Tile.crcQueue htile,
      State.crcTaken_reg_other b rest (Reg.addr_ne CRC_VALUE CRC_STAT (by decide) t 0), rfl⟩

/-- The running value once block b is fed (R302, R303). -/
def State.crcFed (s : State) (t : Nat) (b : CrcBlk) : Nat :=
  let c := crcCode (s.fld CRC_CFG.POLY t)
  let bs := (List.range b.block.bytes).map fun q =>
    match nearByte b.skew (b.block.nearOf b.nearBase (q / b.block.esize) + (q % b.block.esize : Nat)) with
    | some o => s.byte (tileMemBase t + o)
    | none => 0#8
  crcFeedBits c (s.reg CRC_VALUE t % 2 ^ c.width) (crcBits c bs (s.fld CRC_CFG.TRIM t))

/-- A feed without compare ends with the new running value; no register write has waited for it. -/
theorem State.crcEnd_uncompared {b : CrcBlk} (hfeed : (s.tile t).crcFeed = some b) (hwrites : (s.tile t).crcWrites = [])
    (hcmp : s.fld CRC_CFG.CMP t = 0) :
    s.crcEnd t = ((s.setReg CRC_VALUE (s.crcFed t b) t).setFld CRC_STAT.FEEDING 0 t).modTile t fun x => { x with
      crcFeed := none, crcWrites := [], crcPos := if b.last then 0 else b.blk + 1 } := by
  have hkept (v : Nat) : ((s.setReg CRC_VALUE v t).setFld CRC_STAT.FEEDING 0 t).fld CRC_CFG.CMP t = 0 := by
    rw [State.fld_setFld_other _ CRC_STAT.FEEDING CRC_CFG.CMP _ _ _ _ _ (Reg.addr_ne CRC_CFG CRC_STAT (by decide) t 0),
      State.fld_setReg_other _ CRC_VALUE CRC_CFG.CMP _ _ _ _ _ (Reg.addr_ne CRC_CFG CRC_VALUE (by decide) t 0), hcmp]
  rw [State.crcEnd, hfeed, hwrites]
  dsimp only
  rw [hkept, if_neg (by simp)]
  rfl

/-- Settles O29: each command by the lemma of its operation. That a request to this device is performed when its response comes is
log 159's choice. -/
theorem streamCommandsComplete : Obligations.StreamCommandsComplete := by
  unfold Obligations.StreamCommandsComplete
  intro t s
  refine ⟨?activate, ?fetch, ?issue, ?response, ?fence, ?feed, ?feedEnd⟩
  case activate =>
    intro d i hworks hplace hgoing hfirst
    rw [exec_instanceActivate, execInstanceActivate, if_pos hworks, State.modTile, Tile.activate_first hplace hgoing hfirst]
    rfl
  case fetch =>
    intro d i k j x bs u hworks hinst hjob hactive hgoing hnext hlist hplace hread
    rw [exec_listFetch, execListFetch, if_pos hworks, State.listFetch_entry hinst hjob hactive hgoing hnext hlist hplace hread]
  case issue =>
    intro out isOut d i f b u ga cache hworks hroom hturn hblk hfault hkept htrans hplace htarget
    rw [exec_streamRequestIssue, execStreamRequestIssue, State.issueRequest_fresh out hworks hroom hkept,
      State.issueNew_translated hturn hblk hfault htrans hplace htarget]
  case response =>
    intro id err r bs u hon hreq hhere haccess
    rw [exec_streamResponse, execStreamResponse, if_pos hon, State.streamResponse_answered hreq hhere haccess]
  case fence =>
    intro f fs hon holdest hissued _ hdone
    rw [exec_fenceRetire, execFenceRetire, if_pos hon, State.fenceRetire_done holdest hissued hdone]
  case feed =>
    intro b rest hon hidle hqueue
    exact ⟨_, by rw [exec_crcBlockFeed, execCrcBlockFeed, if_pos hon], State.crcStart_feeds hidle hqueue⟩
  case feedEnd =>
    intro b hon hfeed hwrites hcmp
    rw [exec_crcFeedEnd, execCrcFeedEnd, if_pos hon, State.crcEnd_uncompared hfeed hwrites hcmp]
    rfl

end Sys2Proof.Machine
end

section
/-! Symbol close of fronthaul ingress (R236-R238): what its status says after the signal of the slot's semaphore, and a state in
which that signal charges an inherit slice (R363) to the status itself. -/
namespace Sys2Proof.Machine

/-! ## Writes of slot buffers leave the jobs alone -/

theorem Recorded.putPage (s : State) {p : Nat} (hp : p < 16) (va : Nat) (bs : List Byte) : Recorded s (s.putPage p va bs).2 := by
  have htranslated := Recorded.translate s p va true
  rw [State.putPage]
  split
  next h => rwa [h] at htranslated
  next h =>
    rw [h] at htranslated
    split
    next => exact htranslated.trans (State.event_recorded _ _ _ _ hp)
    next =>
      split
      next hwritten => exact htranslated.trans (.devWrite hwritten)
      next => exact htranslated

theorem Recorded.putLoop (s : State) {p : Nat} (hp : p < 16) (va : Nat) (bs : List Byte) (k : Nat) :
    Recorded s (s.putLoop p va bs k).2 := by
  induction k generalizing s va bs with
  | zero => exact .refl s
  | succ k ih =>
    have hpage := Recorded.putPage s hp va (bs.take (4096 - va % 4096))
    rw [State.putLoop]
    split
    · exact .refl s
    · dsimp only
      split
      next h => rw [h] at hpage; exact hpage.trans (ih _ _ _)
      next h => rwa [h] at hpage

/-- The partition of a cell is one of the sixteen. -/
theorem State.crxPtn_lt (s : State) (c : Nat) : s.fld FHE_CRX_PTN.PTN c < 16 := bits_lt _ 3 0

theorem State.rxPut_jobs (s : State) (c va : Nat) (bs : List Byte) : (s.rxPut c va bs).2.job.jobs = s.job.jobs := by
  have hput : (s.put (s.fld FHE_CRX_PTN.PTN c) va bs).2.job.jobs = s.job.jobs := (Recorded.putLoop s (s.crxPtn_lt c) va bs _).jobs
  rw [State.rxPut]
  dsimp only
  split <;> next h => rw [h] at hput; exact hput

theorem State.modRxSlot_jobs (s : State) (c : Nat) (slot : Int) (f : RxSlot → RxSlot) :
    (s.modRxSlot c slot f).job.jobs = s.job.jobs := by
  rw [State.modRxSlot]
  split <;> rfl

theorem ite_jobs {p : Prop} [Decidable p] {s t : State} {jobs : Table Job} (hs : s.job.jobs = jobs) (ht : t.job.jobs = jobs) :
    (if p then s else t).job.jobs = jobs := by
  split <;> assumption

theorem State.closeStream_jobs (s : State) (c : Nat) (slot : Int) (l a : Nat) :
    (s.closeStream c slot l a).job.jobs = s.job.jobs := by
  rw [State.closeStream]
  split
  next =>
    have hcounted (u v : State) (va wa : Nat) (bs cs : List Byte) (f : RxSlot → RxSlot) (n : Nat) (hu : u = (s.rxPut c va bs).2)
        (hv : v = (u.rxPut c wa cs).2) : ((v.modRxSlot c slot f).incSat FHE_CRX_CNT2.PRB_MISSING n c).job.jobs = s.job.jobs := by
      rw [State.incSat_job, State.modRxSlot_jobs, hv, State.rxPut_jobs, hu, State.rxPut_jobs]
    dsimp only
    refine ite_jobs ?_ ?_
    · exact hcounted _ _ _ _ _ _ _ _ rfl rfl
    · exact (State.event_recorded _ _ _ _ (State.crxPtn_lt _ c)).jobs.trans (hcounted _ _ _ _ _ _ _ _ rfl rfl)
  next => rfl

theorem State.closeSlot_jobs (s : State) (c : Nat) (x : RxSlot) : (s.closeSlot c x).job.jobs = s.job.jobs := by
  rw [State.closeSlot]
  dsimp only
  split
  · exact s.rxPut_jobs ..
  · exact s.rxPut_jobs ..

theorem State.JobsInRange.congr {s t : State} (hs : s.JobsInRange) (h : t.job.jobs = s.job.jobs) : t.JobsInRange :=
  fun j x hx => hs j x (by rwa [State.job?, h] at hx)

/-! ## A signal leaves the status of a cell's ingress alone -/

theorem crxStat_addr (c : Fin 96) : 0x40131018 ≤ FHE_CRX_STAT.addr c 0 ∧ FHE_CRX_STAT.addr c 0 < 0x40133000 := by
  have hc := c.isLt
  simp only [Reg.addr, FHE_CRX_STAT]
  omega

theorem recordReg_crxStat (c : Fin 96) : recordReg (FHE_CRX_STAT.addr c 0) = false := by
  have haddr := crxStat_addr c
  simp only [recordReg, Bool.or_eq_false_iff, Bool.and_eq_false_iff, decide_eq_false_iff_not]
  omega

theorem crxStat_ne_sem (c : Fin 96) (k j : Nat) : FHE_CRX_STAT.addr c 0 ≠ CLU_SEM.addr k j := by
  have haddr := crxStat_addr c
  simp only [Reg.addr, CLU_SEM] at haddr ⊢
  omega

theorem crxStat_ne_inhNs (c : Fin 96) {p : Nat} (hp : p < 16) : FHE_CRX_STAT.addr c 0 ≠ PTN_INH_NS.addr p 0 := by
  have haddr := crxStat_addr c
  simp only [Reg.addr, PTN_INH_NS] at haddr ⊢
  omega

theorem State.dropHolder_regAt (s : State) (k a : Nat) : (s.dropHolder k).regAt a = s.regAt a := rfl

theorem State.crxStat_semWritten (s : State) (c : Fin 96) (k i n : Nat) :
    (s.semWritten k i n).regAt (FHE_CRX_STAT.addr c 0) = s.regAt (FHE_CRX_STAT.addr c 0) := by
  have hfield (u : State) (f : Fld) (v : Nat) (hf : f.reg = CLU_SEM) :
      (u.setFld f v k i).regAt (FHE_CRX_STAT.addr c 0) = u.regAt (FHE_CRX_STAT.addr c 0) :=
    u.regAt_setFld_other (by rw [hf]; exact crxStat_ne_sem c k i) v
  have hfreed (u : State) : (u.mutexFreed k i).regAt (FHE_CRX_STAT.addr c 0) = u.regAt (FHE_CRX_STAT.addr c 0) := by
    rw [State.mutexFreed, State.dropHolder_regAt, hfield _ CLU_SEM.JOB_HOLDER _ rfl, hfield _ CLU_SEM.HOLDER _ rfl,
      hfield _ CLU_SEM.HELD _ rfl]
  rw [State.semWritten]
  split
  · rw [hfreed, hfield _ CLU_SEM.VALUE _ rfl]
  · rw [hfield _ CLU_SEM.VALUE _ rfl]

/-- `u` has the jobs of `s` and the status of the cell's ingress. -/
structure CrxStatKept (c : Fin 96) (s u : State) : Prop where
  stat : u.regAt (FHE_CRX_STAT.addr c 0) = s.regAt (FHE_CRX_STAT.addr c 0)
  job : u.job = s.job

theorem CrxStatKept.modTile {c : Fin 96} {s u : State} (h : CrxStatKept c s u) (t : Nat) (f : Tile → Tile) :
    CrxStatKept c s (u.modTile t f) :=
  ⟨h.stat, (State.modTile_job ..).trans h.job⟩

theorem CrxStatKept.incSat_inhNs {c : Fin 96} {s u : State} (h : CrxStatKept c s u) (n : Nat) {p : Nat} (hp : p < 16) :
    CrxStatKept c s (u.incSat PTN_INH_NS.NS n p) :=
  ⟨(State.regAt_incSat_other u (f := PTN_INH_NS.NS) (crxStat_ne_inhNs c hp) n).trans h.stat, (State.incSat_job ..).trans h.job⟩

/-- Ending the inherit slices of a mutex charges their jobs' partitions and marks the holders' tiles. -/
theorem State.crxStat_endSlices {s : State} (hjobs : s.JobsInRange) (c : Fin 96) (k i : Nat) :
    (s.endSlices k i).regAt (FHE_CRX_STAT.addr c 0) = s.regAt (FHE_CRX_STAT.addr c 0) := by
  suffices h : CrxStatKept c s (s.endSlices k i) from h.stat
  unfold State.endSlices
  dsimp only
  refine forEach_keeps (P := CrxStatKept c s) (fun x u hu => ?_) _ ⟨State.regAt_congr rfl _, rfl⟩
  have hcharged (y : Job) (hy : u.job? x.hjob = some y) (n : Nat) : CrxStatKept c s (u.incSat PTN_INH_NS.NS n y.ptn) :=
    hu.incSat_inhNs n (hjobs x.hjob y (by rwa [State.job?, hu.job] at hy))
  repeat' split
  all_goals solve_by_elim [CrxStatKept.modTile]

theorem State.crxStat_signal {s : State} (hjobs : s.JobsInRange) (c : Fin 96) (k i n : Nat) :
    (s.signal k i n).regAt (FHE_CRX_STAT.addr c 0) = s.regAt (FHE_CRX_STAT.addr c 0) := by
  cases hon : s.domOn (64 + k) with
  | false => rw [State.signal, if_pos (by simp [hon])]
  | true =>
    have hwritten := s.crxStat_semWritten c k i n
    have hslices : (if s.isMutex k i then (s.semWritten k i n).endSlices k i else s.semWritten k i n).refresh.regAt
        (FHE_CRX_STAT.addr c 0) = s.regAt (FHE_CRX_STAT.addr c 0) := by
      split
      · exact (State.crxStat_endSlices (hjobs.congr (by rw [State.semWritten_job])) c k i).trans hwritten
      · exact hwritten
    rw [State.signal_eq hon]
    dsimp only
    split
    · exact ((State.raise_recorded _ ⟨fun p hp => State.semOwner_lt hp, by simp⟩).regs _ (recordReg_crxStat c)).trans hslices
    · exact hslices

/-! ## The status after a symbol's close (R237) -/

theorem CellGrid.symsPerSlot_le (g : CellGrid) : g.symsPerSlot ≤ 14 := by
  rw [CellGrid.symsPerSlot]
  split <;> decide

theorem State.symbol_syncRx (s : State) (c : Nat) : (s.syncRx c).fld FHE_CRX_STAT.SYMBOL c = s.fld FHE_CRX_STAT.SYMBOL c :=
  s.fld_setFld_disjoint FHE_CRX_STAT.ACTIVE FHE_CRX_STAT.SYMBOL _ c 0 rfl (by decide) (by decide) (by decide) (by decide)

theorem State.putRxCell_regs (s : State) (c : Nat) (x : RxCell) : (s.putRxCell c x).regs = s.regs := rfl
theorem State.putRxCell_jobs (s : State) (c : Nat) (x : RxCell) : (s.putRxCell c x).job.jobs = s.job.jobs := rfl

/-- A close of symbol b.closed ends with the cell's ACTIVE and the signal of the slot's semaphore; all before that leaves the jobs
alone, and the last register written is the status with the symbol. -/
theorem State.symbolClose_shape {s : State} {c : Nat} {x : RxCell} {b : RxSlot} (hcell : s.rxCell? c = some x)
    (hslot : (x.slots.find? fun b => decide (b.closed < (s.cellGrid c).symsPerSlot)) = some b) (hon : s.rxOn c = true)
    (hdue : s.rxCloseAt c b.slot b.closed ≤ (s.now : Int)) :
    ∃ (v : State) (k i : Nat), s.symbolClose c = (v.syncRx c).signal k i 1 ∧
      v.fld FHE_CRX_STAT.SYMBOL c = b.closed % 16 ∧ v.job.jobs = s.job.jobs := by
  have hset (u w : State) (h : w.regs = (u.setFld FHE_CRX_STAT.SYMBOL b.closed c).regs) :
      w.fld FHE_CRX_STAT.SYMBOL c = b.closed % 16 :=
    (State.fld_congr_regAt (State.regAt_congr h _)).trans (u.fld_setFld_same FHE_CRX_STAT.SYMBOL _ _ _ (by decide) (by decide))
  have hstreams (n : Nat) : (forEach (List.range n) (fun a s => s.closeStream c b.slot b.closed a) s).job.jobs = s.job.jobs :=
    forEach_keeps (P := fun u => u.job.jobs = s.job.jobs) (fun a u hu => (u.closeStream_jobs ..).trans hu) _ rfl
  have hmarked (f : RxSlot → RxSlot) (n : Nat) :
      ((forEach (List.range n) (fun a s => s.closeStream c b.slot b.closed a) s).modRxSlot c b.slot f).job.jobs = s.job.jobs :=
    (State.modRxSlot_jobs ..).trans (hstreams n)
  have hdue' : ¬(¬s.rxOn c = true ∨ (s.now : Int) < s.rxCloseAt c b.slot b.closed) := by simp [hon, hdue]
  rw [State.symbolClose, hcell]
  dsimp only
  rw [hslot]
  dsimp only
  rw [if_neg hdue']
  refine ⟨_, _, _, rfl, ?symbol, ?jobs⟩
  case symbol =>
    split
    · exact hset _ _ (State.putRxCell_regs ..)
    · exact hset _ _ rfl
  case jobs =>
    split
    on_goal 1 => rw [State.putRxCell_jobs]
    all_goals
      rw [State.setFld_job, State.setFld_job, State.setFld_job]
      split
      · exact ite_jobs ((State.closeSlot_jobs ..).trans (hmarked _ _)) (hmarked _ _)
      · exact hmarked _ _

/-- The clause of O32, where every job belongs to one of the sixteen partitions. -/
theorem State.symbolClose_symbol {s : State} (hjobs : s.JobsInRange) {c : Fin 96} {x : RxCell} {b : RxSlot}
    (hcell : s.rxCell? c = some x) (hslot : (x.slots.find? fun b => decide (b.closed < (s.cellGrid c).symsPerSlot)) = some b)
    (hon : s.rxOn c = true) (hdue : s.rxCloseAt c b.slot b.closed ≤ (s.now : Int)) :
    (s.symbolClose c).fld FHE_CRX_STAT.SYMBOL c = b.closed := by
  have hclosed : b.closed < (s.cellGrid c).symsPerSlot := by simpa using List.find?_some hslot
  have hle := (s.cellGrid c).symsPerSlot_le
  obtain ⟨v, k, i, hclose, hsymbol, hkept⟩ := State.symbolClose_shape hcell hslot hon hdue
  have hjobs' : (v.syncRx c).JobsInRange := hjobs.congr hkept
  rw [hclose, State.fld_congr_regAt (State.crxStat_signal hjobs' c k i 1), State.symbol_syncRx, hsymbol]
  exact Nat.mod_eq_of_lt (by omega)

/-! ## A job of no partition -/

/-- Ingress of cell 1 runs and the window of symbol 0 of its slot -100 has closed; its buffer's semaphore is the mutex of
`heldMutex p`, whose inherit slice charges a job of partition number `p`. -/
def closingCell (p : Nat) : State :=
  { ((((heldMutex p).setFld FHE_RX_CTL.EN 1).setFld FHE_CRX_CFG.EN 1 1).setFld ATU_CELL_CFG.EN 1 1) with
    fhe := { rx := ⟨[(1, { slots := [{ slot := -100 }] })]⟩ }
    atu := { sec := 400000000 } }

theorem heldMutex_jobsInRange {p : Nat} (hp : p < 16) : (heldMutex p).JobsInRange := by
  intro j x hx
  simp only [State.job?, heldMutex, Table.find?, Table.put, Table.empty, putRow, findRow] at hx
  split at hx
  · cases hx
    exact hp
  · cases hx

/-- In range the status names the symbol that has closed (R237). -/
theorem witness_symbolClose_symbol : ((closingCell 0).symbolClose 1).fld FHE_CRX_STAT.SYMBOL 1 = 0 := by
  have hjobs : (closingCell 0).JobsInRange := (heldMutex_jobsInRange (by decide)).congr rfl
  exact State.symbolClose_symbol hjobs (c := 1) (x := { slots := [{ slot := -100 }] }) (b := { slot := -100 })
    (by decide +kernel) (by decide +kernel) (by decide +kernel) (by decide +kernel)

/-- Refutes O32: the clause that the status names the closed symbol fails where the register that the close's signal charges
(R363), PTN_INH_NS of the job's partition, is taken for a number far outside the sixteen partitions: copy 0xD00 of it lies at the
address of FHE_CRX_STAT of cell 1, and the charge saturates all its bits. The statement does not bound the partitions that a
state's jobs name; `State.symbolClose_symbol` is the clause with that bound. -/
theorem not_uplinkCommandsComplete : ¬ Obligations.UplinkCommandsComplete := by
  unfold Obligations.UplinkCommandsComplete
  intro h
  have hafter : ((closingCell 0xD00).symbolClose 1).fld FHE_CRX_STAT.SYMBOL 1 = 15 := by decide +kernel
  obtain ⟨-, -, hclose, -⟩ := h (closingCell 0xD00)
  obtain ⟨u, hu, hsymbol⟩ := hclose 1 { slots := [{ slot := -100 }] } { slot := -100 } (by decide +kernel) (by decide +kernel)
    (by decide +kernel) (by decide +kernel)
  rw [exec_symbolClose, execSymbolClose, Host.Outcome.next.injEq] at hu
  rw [← hu] at hsymbol
  exact absurd (hafter.symm.trans hsymbol) (by decide)

end Sys2Proof.Machine
end

section
/-! The PRACH searchers' commands (chapter 11, R258-R274): enabling a configuration, the close of an occasion, and the clearing of
the counts. -/
namespace Sys2Proof.Machine

/-! ## A signal leaves the configurations and their status alone -/

theorem praStat_addr (c : Fin 64) :
    0x40121024 ≤ PRA_CFG_STAT.addr c 0 ∧ PRA_CFG_STAT.addr c 0 < 0x40123000 ∧ PRA_CFG_STAT.addr c 0 % 0x40 = 0x24 := by
  have hc := c.isLt
  simp only [Reg.addr, PRA_CFG_STAT]
  omega

theorem recordReg_praStat (c : Fin 64) : recordReg (PRA_CFG_STAT.addr c 0) = false := by
  have haddr := praStat_addr c
  simp only [recordReg, Bool.or_eq_false_iff, Bool.and_eq_false_iff, decide_eq_false_iff_not]
  omega

theorem praStat_ne_sem (c : Fin 64) (k i : Nat) : PRA_CFG_STAT.addr c 0 ≠ CLU_SEM.addr k i := by
  have haddr := praStat_addr c
  simp only [Reg.addr, CLU_SEM] at haddr ⊢
  omega

/-- The charged register of R363 is no status, whatever number is taken for the partition. -/
theorem praStat_ne_inhNs (c : Fin 64) (p : Nat) : PRA_CFG_STAT.addr c 0 ≠ PTN_INH_NS.addr p 0 := by
  have haddr := praStat_addr c
  simp only [Reg.addr, PTN_INH_NS] at haddr ⊢
  omega

/-- `u` has the configurations of `s` and the status of configuration c. -/
structure PraKept (c : Fin 64) (s u : State) : Prop where
  stat : u.regAt (PRA_CFG_STAT.addr c 0) = s.regAt (PRA_CFG_STAT.addr c 0)
  pra : u.pra = s.pra

section
variable {c : Fin 64} {s t u : State}

theorem PraKept.refl (s : State) : PraKept c s s := ⟨rfl, rfl⟩

theorem PraKept.trans (h : PraKept c s t) (k : PraKept c t u) : PraKept c s u :=
  ⟨k.stat.trans h.stat, k.pra.trans h.pra⟩

theorem PraKept.modTile (h : PraKept c s u) (n : Nat) (f : Tile → Tile) : PraKept c s (u.modTile n f) :=
  ⟨h.stat, (State.modTile_pra ..).trans h.pra⟩

theorem PraKept.modJob (h : PraKept c s u) (j : Nat) (f : Job → Job) : PraKept c s (u.modJob j f) := by
  rw [State.modJob]
  split
  · exact ⟨h.stat, (State.putJob_pra ..).trans h.pra⟩
  · exact h

theorem PraKept.refresh (h : PraKept c s u) : PraKept c s u.refresh :=
  ⟨(State.regAt_congr rfl _).trans h.stat, h.pra⟩

theorem PraKept.incSat_inhNs (h : PraKept c s u) (n p : Nat) : PraKept c s (u.incSat PTN_INH_NS.NS n p) :=
  ⟨(State.regAt_incSat_other u (f := PTN_INH_NS.NS) (praStat_ne_inhNs c p) n).trans h.stat, (State.incSat_pra ..).trans h.pra⟩

theorem PraKept.setFld_sem (h : PraKept c s u) {f : Fld} (hf : f.reg = CLU_SEM) (v k i : Nat) : PraKept c s (u.setFld f v k i) :=
  ⟨(u.regAt_setFld_other (by rw [hf]; exact praStat_ne_sem c k i) v).trans h.stat, (State.setFld_pra ..).trans h.pra⟩

theorem PraKept.dropHolder (h : PraKept c s u) (k : Nat) : PraKept c s (u.dropHolder k) := ⟨h.stat, h.pra⟩

theorem PraKept.raise (h : PraKept c s u) {e : Event} (he : e.inRange) : PraKept c s (u.raise e) := by
  have hrec := u.raise_recorded he
  obtain ⟨-, -, -, -, hpra, -⟩ := hrec.units
  exact ⟨(hrec.regs _ (recordReg_praStat c)).trans h.stat, hpra.trans h.pra⟩

theorem PraKept.semWritten (h : PraKept c s u) (k i n : Nat) : PraKept c s (u.semWritten k i n) := by
  have hvalue := h.setFld_sem (f := CLU_SEM.VALUE) rfl (min (u.fld CLU_SEM.VALUE k i + n) (u.semTop k i)) k i
  rw [State.semWritten]
  split
  · exact (((hvalue.setFld_sem (f := CLU_SEM.HELD) rfl 0 k i).setFld_sem (f := CLU_SEM.HOLDER) rfl 0 k i).setFld_sem
      (f := CLU_SEM.JOB_HOLDER) rfl 0 k i).dropHolder _
  · exact hvalue

/-- Ending the inherit slices of a mutex charges their jobs' partitions and marks the holders' tiles. -/
theorem PraKept.endSlices (h : PraKept c s u) (k i : Nat) : PraKept c s (u.endSlices k i) := by
  unfold State.endSlices
  dsimp only
  refine forEach_keeps (P := PraKept c s) (fun x v hv => ?_) _ ⟨(State.regAt_congr rfl _).trans h.stat, h.pra⟩
  have hcharged (y : Job) : PraKept c s (v.incSat PTN_INH_NS.NS ((v.now - x.began) / nsUnit) y.ptn) := hv.incSat_inhNs _ _
  repeat' split
  all_goals solve_by_elim [PraKept.modTile]

theorem PraKept.signal (h : PraKept c s u) (k i n : Nat) : PraKept c s (u.signal k i n) := by
  cases hon : u.domOn (64 + k) with
  | false => rwa [State.signal, if_pos (by simp [hon])]
  | true =>
    have hslices : PraKept c s (if u.isMutex k i then (u.semWritten k i n).endSlices k i else u.semWritten k i n) := by
      split
      · exact (h.semWritten k i n).endSlices k i
      · exact h.semWritten k i n
    rw [State.signal_eq hon]
    dsimp only
    split
    · exact hslices.refresh.raise ⟨fun p hp => State.semOwner_lt hp, by simp⟩
    · exact hslices.refresh

end

/-! ## Close of an occasion (R261, R266, R267, R270) -/

/-- A block that is written in full is counted and not lost. -/
theorem State.putCandidates_written {s v : State} {p va : Nat} {bs : List Byte} (h : s.put p va bs = (.ok (), v)) (c unit : Nat) :
    s.putCandidates c p va unit bs = (false, v.incSat PRA_CFG_CNT0.OCCASIONS 1 c) := by
  rw [State.putCandidates, h]

/-- The ring entry that configuration x's next block takes. -/
def State.nextEntry (s : State) (c : Nat) (x : PraCfg) : Nat := x.blocks % nbufOf (s.fld PRA_CFG_PAT.NBUF c)

/-- The block of occasion o of configuration x at its close. -/
def State.closingBlock (s : State) (c : Nat) (x : PraCfg) (o : Occasion) : List Byte :=
  (s.candBlock c o ((x.open'.find? fun d => decide (d.occ = o)).getD { occ := o })
    (x.srch.isNone || x.lostAt.any fun t => decide (s.praOpenAt c o ≤ (t : Int)))).1

/-- The ring entry of a block that is written. -/
def PraCfg.writtenEntry (x : PraCfg) (o : Occasion) (bs : List Byte) : CandEntry :=
  { occ := o, srch := x.srch, head := bs.take 64, len := bs.length, lost := false }

/-- Configuration x once occasion o has closed with entry `e` at place k of its ring; `next` follows. -/
def PraCfg.afterClose (x : PraCfg) (o : Occasion) (next : Option Occasion) (k : Nat) (e : CandEntry) : PraCfg :=
  { x with next := next, blocks := x.blocks + 1, ring := x.ring.put k e, open' := x.open'.filter fun d => o.before d.occ }

/-- The state with configuration c become `y`, and with its status naming occasion o. -/
def State.praBooked (s : State) (c : Nat) (o : Occasion) (y : PraCfg) : State :=
  let u : State := { s with pra := s.pra.put c y }
  let fn := (u.cellGrid (u.praCell c)).split o.slot
  ((u.setFld PRA_CFG_STAT.SFN (sfnOf fn.1) c).setFld PRA_CFG_STAT.SLOT fn.2 c).setFld PRA_CFG_STAT.TD o.td c

/-- The occasion's jobs see the block at entry `e`, and the configuration's semaphore is signalled. -/
def State.praAnnounced (s : State) (c : Nat) (o : Occasion) (e : CandEntry) : State :=
  let u := (forEach (s.jobList.filter fun r => r.2.cls == 2 && r.2.air.cell == c && decide (r.2.occasion = o))
    (fun r s => s.modJob r.1 fun x => x.seeBlock e) s).refresh
  if u.flag PRA_CFG_SEM.V c then u.signal (u.fld PRA_CFG_SEM.CLUSTER c) (u.fld PRA_CFG_SEM.INDEX c) 1 else u

theorem State.praAnnounced_kept (s : State) (c : Fin 64) (o : Occasion) (e : CandEntry) : PraKept c s (s.praAnnounced c o e) := by
  have hseen (js : List (Nat × Job)) : PraKept c s (forEach js (fun r u => u.modJob r.1 fun x => x.seeBlock e) s).refresh :=
    (forEach_keeps (P := PraKept c s) (fun r u hu => hu.modJob r.1 _) js (.refl s)).refresh
  rw [State.praAnnounced]
  split
  · exact (hseen _).signal _ _ _
  · exact hseen _

theorem State.closed_td (s : State) (c : Fin 64) (o : Occasion) (y : PraCfg) (e : CandEntry) :
    ((s.praBooked c o y).praAnnounced c o e).fld PRA_CFG_STAT.TD c = o.td % 2 ^ (PRA_CFG_STAT.TD.hi + 1 - PRA_CFG_STAT.TD.lo) := by
  rw [State.fld_congr_regAt (State.praAnnounced_kept (s.praBooked c o y) c o e).stat]
  exact State.fld_setFld_same _ PRA_CFG_STAT.TD _ _ _ (by decide) (by decide)

theorem State.closed_config (s : State) (c : Fin 64) (o : Occasion) (y : PraCfg) (e : CandEntry) :
    ((s.praBooked c o y).praAnnounced c o e).pra.find? c = some y := by
  rw [(State.praAnnounced_kept (s.praBooked c o y) c o e).pra]
  exact Table.find?_put_same _ _ _

/-- Where its block is written the close counts the occasion, books it and announces it. -/
theorem State.occasionClose_written {s v : State} {c : Nat} {x : PraCfg} {o : Occasion} (hcfg : s.pra.find? c = some x)
    (hnext : x.next = some o) (hon : s.flag PRA_CTL.EN = true) (hdue : s.praCloseAt c o ≤ (s.now : Int))
    (hput : let u := s.praOverrun c (s.nextEntry c x) x
      u.put (u.praPtn c) (u.candAt c (s.nextEntry c x)) (s.closingBlock c x o) = (.ok (), v)) :
    let u := v.incSat PRA_CFG_CNT0.OCCASIONS 1 c
    let e := x.writtenEntry o (s.closingBlock c x o)
    s.occasionClose c = (u.praBooked c o (x.afterClose o (u.praNext c o) (s.nextEntry c x) e)).praAnnounced c o e := by
  have hdue' : ¬(¬s.flag PRA_CTL.EN = true ∨ (s.now : Int) < s.praCloseAt c o) := by simp [hon, hdue]
  have hwritten := State.putCandidates_written hput c (x.srch.getD 0)
  simp only [State.nextEntry, State.closingBlock] at hwritten
  rw [State.occasionClose, hcfg]
  dsimp only
  rw [hnext]
  dsimp only
  rw [if_neg hdue', hwritten]
  rfl

/-! ## Enabling (R258, R259, R274) -/

/-- While EN is 0, a write of the configuration's owner or of the manager that sets EN has the configuration checked and placed. -/
theorem State.praCfgWrite_enables {s : State} {src c : Nat} (v : Nat) (hdom : s.domOn (domainOf (PRA_CFG_CFG.addr c 0)) = true)
    (hsrc : src = s.praPtn c ∨ src = s.manager) (hoff : s.flag PRA_CFG_CFG.EN c = false) :
    s.praCfgWrite src c (v ||| 2 ^ 31) = (s.writeReg PRA_CFG_CFG (v % 2 ^ 31) c).praEnable c := by
  have hallowed : ¬(¬s.domOn (domainOf (PRA_CFG_CFG.addr c 0)) = true ∨ (src ≠ s.manager ∧ src ≠ s.praPtn c)) := by
    rcases hsrc with h | h <;> simp [hdom, h]
  have hbit : bit (v ||| 2 ^ 31) 31 = true := by
    have htest : (v ||| 2 ^ 31).testBit 31 = true := by rw [Nat.testBit_or, Nat.testBit_two_pow_self, Bool.or_true]
    rwa [Nat.testBit_eq_decide_div_mod_eq] at htest
  have hlow : (v ||| 2 ^ 31) % 2 ^ 31 = v % 2 ^ 31 := by rw [Nat.or_mod_two_pow, Nat.mod_self, Nat.or_zero]
  rw [State.praCfgWrite, if_neg hallowed, if_neg (by simp [hoff])]
  dsimp only
  rw [if_pos hbit, hlow]

/-! ## Clearing the counts (R274) -/

/-- Registers that lie in one block of 64 bytes and repeat with it have no address in common between different blocks. -/
theorem Reg.addr_ne_of_block {q r : Reg} (h : q.st1 = 0x40 ∧ r.st1 = 0x40 ∧ q.base / 0x40 = r.base / 0x40) {k c : Nat} (hkc : k ≠ c) :
    q.addr k 0 ≠ r.addr c 0 := by
  obtain ⟨hq, hr, hbase⟩ := h
  rw [Reg.addr, Reg.addr, hq, hr]
  omega

/-- The state with both counts of configuration c at 0. -/
def State.clearPraCnts (s : State) (c : Nat) : State := (s.setReg PRA_CFG_CNT0 0 c).setReg PRA_CFG_CNT1 0 c

theorem State.reg_clearPraCnts_self (s : State) (c : Nat) :
    (s.clearPraCnts c).reg PRA_CFG_CNT0 c = 0 ∧ (s.clearPraCnts c).reg PRA_CFG_CNT1 c = 0 := by
  have haddr : PRA_CFG_CNT0.addr c 0 ≠ PRA_CFG_CNT1.addr c 0 := Reg.addr_ne PRA_CFG_CNT0 PRA_CFG_CNT1 (by decide) c 0
  rw [State.clearPraCnts]
  refine ⟨?_, State.reg_setReg_same _ _ _ _ _⟩
  rw [State.reg_setReg_other _ haddr, State.reg_setReg_same, Nat.zero_mod]

theorem State.reg_clearPraCnts_other (s : State) {r : Reg} {i j c : Nat} (h0 : r.addr i j ≠ PRA_CFG_CNT0.addr c 0)
    (h1 : r.addr i j ≠ PRA_CFG_CNT1.addr c 0) : (s.clearPraCnts c).reg r i j = s.reg r i j := by
  rw [State.clearPraCnts, State.reg_setReg_other _ h1, State.reg_setReg_other _ h0]

/-- Clearing a configuration's counts leaves those of another as they are, at 0 where they were cleared. -/
theorem State.reg_clearPraCnts_kept {s : State} {k : Nat} (c : Nat)
    (h : s.reg PRA_CFG_CNT0 k = 0 ∧ s.reg PRA_CFG_CNT1 k = 0) :
    (s.clearPraCnts c).reg PRA_CFG_CNT0 k = 0 ∧ (s.clearPraCnts c).reg PRA_CFG_CNT1 k = 0 := by
  by_cases hkc : k = c
  · rw [hkc]
    exact s.reg_clearPraCnts_self c
  · rwa [s.reg_clearPraCnts_other (Reg.addr_ne_of_block (by decide) hkc) (Reg.addr_ne_of_block (by decide) hkc),
      s.reg_clearPraCnts_other (Reg.addr_ne_of_block (by decide) hkc) (Reg.addr_ne_of_block (by decide) hkc)]

theorem State.praDrop_clearPraCnts (s : State) (c : Nat) : (s.clearPraCnts c).reg PRA_DROP = s.reg PRA_DROP := by
  refine s.reg_clearPraCnts_other ?_ ?_ <;> simp only [Reg.addr, PRA_DROP, PRA_CFG_CNT0, PRA_CFG_CNT1] <;> omega

theorem State.clearPraCnts_mem (s : State) (c : Nat) : (s.clearPraCnts c).mem = s.mem := rfl
theorem State.clearPraCnts_pra (s : State) (c : Nat) : (s.clearPraCnts c).pra = s.pra := rfl

/-- The manager's CLR_CNT clears the drop counts and then each configuration's. -/
theorem State.praClrCnt_manager {s : State} {src : Nat} (hsrc : src = s.manager) (hdom : s.domOn (domainOf PRA_CTL.base) = true) :
    s.praClrCnt src = forEach (List.range 64) (fun c u => u.clearPraCnts c) (s.setReg PRA_DROP 0) := by
  rw [State.praClrCnt, if_neg (by simp [hsrc, hdom])]
  rfl

/-- Settles O34: each command by the lemma of its operation. What follows the close's write of the status leaves it alone in every
state: no copy of the register that a signal charges lies at a status's address. -/
theorem prachCommandsComplete : Obligations.PrachCommandsComplete := by
  unfold Obligations.PrachCommandsComplete
  intro c s
  refine ⟨?enable, ?close, ?clear⟩
  case enable =>
    intro src v hdom hsrc hoff
    rw [exec_praCfgEnable, execPraCfgEnable, State.praCfgWrite_enables v.toNat hdom hsrc hoff]
  case close =>
    intro x o v hcfg hnext hon hdue d k u hput
    rw [exec_occasionClose, execOccasionClose, State.occasionClose_written hcfg hnext hon hdue hput]
    exact ⟨_, rfl, State.closed_td .., _, State.closed_config .., rfl, rfl⟩
  case clear =>
    intro src hsrc hdom
    refine ⟨_, rfl, ?_⟩
    rw [State.praClrCnt_manager hsrc hdom]
    refine ⟨?drop, fun k hk => ?counts, ?mem, ?pra⟩
    case drop =>
      exact forEach_keeps (P := fun u => u.reg PRA_DROP = 0) (fun k u hu => (u.praDrop_clearPraCnts k).trans hu) _
        (s.reg_setReg_same PRA_DROP 0 0 0)
    case counts =>
      exact forEach_reaches (P := fun k u => u.reg PRA_CFG_CNT0 k = 0 ∧ u.reg PRA_CFG_CNT1 k = 0)
        (f := fun k u => u.clearPraCnts k) (fun k u => u.reg_clearPraCnts_self k)
        (fun _ m _ h => State.reg_clearPraCnts_kept m h) _ _ k (List.mem_range.2 hk)
    case mem =>
      exact forEach_keeps (P := fun u => u.mem = s.mem) (fun k u hu => (u.clearPraCnts_mem k).trans hu) _
        (s.setReg_mem PRA_DROP 0 0 0)
    case pra =>
      exact forEach_keeps (P := fun u => u.pra = s.pra) (fun k u hu => (u.clearPraCnts_pra k).trans hu) _
        (s.setReg_pra PRA_DROP 0 0 0)

end Sys2Proof.Machine
end

section
/-! The coding complex's commands (chapter 12, R277-R306): the LDPC decoders, the polar decoders and the encoders at their pieces,
the manager's dedication of decoders, and the clearing of the counts. -/
namespace Sys2Proof.Machine

variable {s : State}

/-! ## LDPC decoders (R277, R281, R283, R288) -/

/-- The state once decoder d has code block b of job j: the block is no longer to be dispatched, and the job has used the physical
decoder. -/
def State.blockTaken (s : State) (d j : Nat) (x : Job) (b : CodeBlk) : State :=
  let u := (s.setCoding { s.coding with
    again := s.coding.again.filter fun a => a != b,
    next := if s.coding.again.contains b then s.coding.next else s.coding.next.put j (b.r + 1) }).startPiece j x
  u.modJob j fun y => { y with decMask := y.decMask ||| 2 ^ u.fld DEC_LMAP.PHYS d }

/-- A free decoder that serves takes the next block of the first job it may, and reads its inputs unless it has them already. -/
theorem State.dispatchBlock_free {d j : Nat} {x : Job} {b : CodeBlk} (hon : s.codingOn = true) (hen : s.flag DEC_CTL.EN = true)
    (hserves : s.ldServes d = true) (hstays : s.fld DEC_LMAP.STATE d ≠ 3) (hfree : s.coding.ld.find? d = none)
    (hjob : s.firstJob (s.ldJobs d) = some (j, x)) (hblock : s.nextBlock j x = some b) :
    s.dispatchBlock d = if b.input.isSome then (s.blockTaken d j x b).setLd d b
      else ((s.blockTaken d j x b).setLd d b).ldRead d b x := by
  rw [State.dispatchBlock, if_neg (by simp [hon, hen, hserves, hstays, hfree]), hjob]
  dsimp only
  rw [hblock]
  rfl

/-- Without HARQ a block that has its inputs is combined, and no region is written back. -/
theorem State.ldCombine_noHarq {d : Nat} {b : CodeBlk} {x : Job} {llrs : List (List Byte)} {reg : List Byte} {comb : List Int}
    {sat span cnt : Nat} (hblock : s.coding.ld.find? d = some b) (hjob : s.job? b.job = some x) (hwait : b.wait = false)
    (hcomb : b.comb = none) (hrunning : x.phase = .running) (hinput : b.input = some (llrs, reg))
    (hcombine : x.combine llrs reg = some (comb, sat, span, cnt)) (hharq : x.harq = false) :
    s.ldCombine d = s.setLd d { b with input := some (llrs, reg), comb := some (comb, span, sat) } := by
  obtain ⟨job, r, input, comb', wait⟩ := b
  cases hinput
  cases hcomb
  cases hwait
  simp only [State.ldCombine, hblock, hjob, hrunning, hcombine, hharq, Option.isSome_none, Option.isNone_some,
    Bool.false_eq_true, ne_eq, not_true, not_false_eq_true, or_self, if_false, if_true]

/-- A combined block of a running job is decoded where no error was met. -/
theorem State.ldEnd_combined {d : Nat} {b : CodeBlk} {x : Job} (hblock : s.coding.ld.find? d = some b) (hjob : s.job? b.job = some x)
    (hrunning : x.phase = .running) (hwait : b.wait = false) (hcomb : b.comb.isSome = true) :
    s.ldEnd d .none = (s.ldDecoded d b x (if x.model = 0xFFFF then none else some x.weights)).ldBoundary d := by
  obtain ⟨job, r, input, comb, wait⟩ := b
  obtain ⟨c, rfl⟩ := Option.isSome_iff_exists.mp hcomb
  cases hwait
  simp only [State.ldEnd, hblock, hjob, hrunning, MemErr.isCleared, Option.isNone_some, Bool.false_eq_true, reduceCtorEq, or_self,
    if_false]

/-! ## Polar decoders (R277, R291, R293) -/

/-- A free polar decoder that is not retired takes the first KIND 1 job. -/
theorem State.dispatchPolar_free {u j : Nat} {x : Job} (hon : s.codingOn = true) (hen : s.flag DEC_CTL.EN = true)
    (hkept : bit (s.fld DEC_STAT.POLAR_RET) u = false) (hfree : s.coding.polar.find? u = none) (hjob : s.codecJob 4 1 = some (j, x)) :
    let v := ((s.takeAgain j).startPiece j x).modJob j fun y => { y with codecMask := y.codecMask ||| 2 ^ u }
    s.dispatchPolar u = v.setCoding { v.coding with polar := v.coding.polar.put u { job := j } } := by
  rw [State.dispatchPolar, if_neg (by simp [hon, hen, hkept, hfree]), hjob]

/-- Every segment of a UCI job passes its check. -/
def Job.uciPasses (x : Job) (llrs : List Byte) : Bool := (x.uciSegs llrs).all fun g => g.pass

/-- The output bytes of a UCI job: the last A bits of its segments (R293). -/
def Job.uciBytes (x : Job) (llrs : List Byte) : List Byte :=
  let bits := (x.uciSegs llrs).flatMap fun g => g.bits
  packBits ((x.par 4 2 + 7) / 8) (bits.drop (bits.length - x.par 4 2))

/-- A UCI job's leaves, its suppressed output where a segment fails, and its record's class area. -/
def State.uciBooked (s : State) (j : Nat) (x : Job) (llrs : List Byte) : State :=
  ((if x.uciPasses llrs then s.codingLeaf j x 1 0 (x.uciBytes llrs) else s.jobFlag j rfSuppressed).codingLeaf j x 0 (x.par 12 4)
    llrs).modJob j fun y => { y with classArea := polarArea x (x.uciSegs llrs) }

/-- Where the LLRs are read and what passes is written, the job is booked, the unit freed and its piece done. -/
theorem State.polarEnd_written {u : Nat} {c : Codec} {x : Job} {llrs : List Byte} {v w : State}
    (hunit : s.coding.polar.find? u = some c) (hjob : s.job? c.job = some x) (hrunning : x.phase = .running) (hwait : c.wait = false)
    (hread : s.vRead x.ptn (x.inBlks.getD 0 (0, 0)).1 (x.inBlks.getD 0 (0, 0)).2 = (.ok llrs, v))
    (hput : (if x.uciPasses llrs then v.put x.ptn (x.outBlks.getD 0 (0, 0)).1 (x.uciBytes llrs) else (.ok (), v)) = (.ok (), w)) :
    let z := w.uciBooked c.job x llrs
    s.polarEnd u .none = (z.setCoding { z.coding with polar := z.coding.polar.del u }).taskDone c.job := by
  unfold Job.uciPasses Job.uciBytes at hput
  simp only [State.polarEnd, hunit, hjob, hrunning, hwait, hread, hput, MemErr.isCleared, Option.isNone_some, Bool.false_eq_true,
    reduceCtorEq, if_false]
  rfl

/-! ## Encoders (R277, R296) -/

/-- A free encoder that is not retired takes the first ENCODE job. -/
theorem State.dispatchEnc_free {u j : Nat} {x : Job} (hon : s.codingOn = true) (hen : s.flag ENC_CTL.EN = true)
    (hkept : bit (s.fld ENC_STAT.RETIRED) u = false) (hfree : s.coding.enc.find? u = none) (hjob : s.codecJob 5 0 = some (j, x)) :
    let v := ((s.takeAgain j).startPiece j x).modJob j fun y => { y with codecMask := y.codecMask ||| 2 ^ (4 + u) }
    s.dispatchEnc u = v.setCoding { v.coding with enc := v.coding.enc.put u { job := j } } := by
  rw [State.dispatchEnc, if_neg (by simp [hon, hen, hkept, hfree]), hjob]

/-- The output bytes of an ENCODE job from the bytes it reads. -/
def Job.encodedBytes (x : Job) (bs : List Byte) : List Byte :=
  packBits (x.outBlks.getD 0 (0, 0)).2 (x.encodeBits ((unpackBits bs).take x.parA))

/-- An ENCODE job's leaves and its record's class area. -/
def State.encodeBooked (s : State) (j : Nat) (x : Job) (bs : List Byte) : State :=
  ((s.codingLeaf j x 0 0 bs).codingLeaf j x 1 0 (x.encodedBytes bs)).modJob j fun y => { y with classArea := x.encodeArea }

/-- Where the payload is read and the output written, the job is booked, the unit freed, the job counted and its piece done. -/
theorem State.encEnd_written {u : Nat} {c : Codec} {x : Job} {bs : List Byte} {v w : State}
    (hunit : s.coding.enc.find? u = some c) (hjob : s.job? c.job = some x) (hrunning : x.phase = .running) (hwait : c.wait = false)
    (hread : s.vRead x.ptn (x.inBlks.getD 0 (0, 0)).1 (x.inBlks.getD 0 (0, 0)).2 = (.ok bs, v))
    (hput : v.put x.ptn (x.outBlks.getD 0 (0, 0)).1 (x.encodedBytes bs) = (.ok (), w)) :
    let z := w.encodeBooked c.job x bs
    s.encEnd u .none = ((z.setCoding { z.coding with enc := z.coding.enc.del u }).incSat ENC_CNT.JOBS 1).taskDone c.job := by
  simp only [Job.encodedBytes] at hput
  simp only [State.encEnd, hunit, hjob, hrunning, hwait, hread, hput, MemErr.isCleared, Option.isNone_some, Bool.false_eq_true,
    reduceCtorEq, if_false]
  rfl

/-! ## The manager's writes (R305, R306) -/

/-- The manager's dedication of decoders that no other partition has is written. -/
theorem State.pshareWrite_disjoint {src p v : Nat} (hsrc : src = s.manager) (hon : s.codingOn = true)
    (hdisjoint : ∀ q, q < 16 → q ≠ p → s.ded q &&& (v % 65536) = 0) :
    s.pshareWrite src p v = (s.setFld DEC_PSHARE.DED (v % 65536) p).setFld DEC_PSHARE.MAXSH (bits v 20 16) p := by
  have hshared : ((List.range 16).any fun q => q != p && (s.ded q &&& v % 65536) != 0) = false := by
    simp only [List.any_eq_false, List.mem_range, Bool.and_eq_true, bne_iff_ne, not_and, not_not]
    exact hdisjoint
  rw [State.pshareWrite, if_neg (by simp [hsrc, hon]), hshared]
  rfl

theorem State.decClrCnt_manager {src : Nat} (hsrc : src = s.manager) (hon : s.codingOn = true) :
    s.decClrCnt src = ((s.setReg DEC_CNT0 0).setReg DEC_CNT1 0).setReg DEC_CNT2 0 := by
  rw [State.decClrCnt, if_neg (by simp [hsrc, hon])]

theorem State.encClrCnt_manager {src : Nat} (hsrc : src = s.manager) (hon : s.codingOn = true) :
    s.encClrCnt src = s.setReg ENC_CNT 0 := by
  rw [State.encClrCnt, if_neg (by simp [hsrc, hon])]

/-- Settles O30: each command by the lemma of its operation. -/
theorem codingCommandsComplete : Obligations.CodingCommandsComplete := by
  unfold Obligations.CodingCommandsComplete
  intro s
  refine ⟨?block, ?combine, ?blockEnd, ?polar, ?polarEnd, ?encode, ?encodeEnd, ?share, ?clear⟩
  case block =>
    intro d j x b hon hen hserves hstays hfree hjob hblock
    rw [exec_codeBlockDispatch, execCodeBlockDispatch, State.dispatchBlock_free hon hen hserves hstays hfree hjob hblock]
    rfl
  case combine =>
    intro d b x llrs reg y hblock hjob hwait hcomb hrunning hinput hcombine hharq
    rw [exec_harqCombineDone, execHarqCombineDone,
      State.ldCombine_noHarq hblock hjob hwait hcomb hrunning hinput hcombine hharq]
  case blockEnd =>
    intro d b x hblock hjob hrunning hwait hcomb
    rw [exec_codeBlockEnd, execCodeBlockEnd, State.ldEnd_combined hblock hjob hrunning hwait hcomb]
  case polar =>
    intro u j x hon hen hkept hfree hjob
    rw [exec_polarDispatch, execPolarDispatch, State.dispatchPolar_free hon hen hkept hfree hjob]
  case polarEnd =>
    intro u c x llrs v w hunit hjob hrunning hwait hread segs bits bytes pass hput
    rw [exec_polarEnd, execPolarEnd, State.polarEnd_written hunit hjob hrunning hwait hread hput]
    rfl
  case encode =>
    intro u j x hon hen hkept hfree hjob
    rw [exec_encodeDispatch, execEncodeDispatch, State.dispatchEnc_free hon hen hkept hfree hjob]
  case encodeEnd =>
    intro u c x bs v w hunit hjob hrunning hwait hread o bytes hput
    rw [exec_encodeEnd, execEncodeEnd, State.encEnd_written hunit hjob hrunning hwait hread hput]
    rfl
  case share =>
    intro p src v hsrc hon hdisjoint
    rw [exec_decPshareWrite, execDecPshareWrite, State.pshareWrite_disjoint hsrc hon hdisjoint]
  case clear =>
    intro src hsrc hon
    rw [exec_decClrCnt, execDecClrCnt, State.decClrCnt_manager hsrc hon, exec_encClrCnt, execEncClrCnt,
      State.encClrCnt_manager hsrc hon]
    exact ⟨rfl, rfl⟩

end Sys2Proof.Machine
end

section
/-! The downlink's commands (chapter 13, R309-R324): the windows of a slot's buffer, its reassignment, enabling a cell for egress,
and the clearing of the counts. -/
namespace Sys2Proof.Machine

/-! ## The buffers of a cell -/

theorem State.txBuf?_congr {s u : State} (h : u.fhe = s.fhe) (n b : Nat) : u.txBuf? n b = s.txBuf? n b := by
  rw [State.txBuf?, State.txBuf?, h]

/-- A buffer lies in its cell. -/
theorem State.cell_of_txBuf {s : State} {n b : Nat} {x : TxBuf} (h : s.txBuf? n b = some x) :
    ∃ c, s.fhe.tx.find? n = some c ∧ c.bufs.find? b = some x := by
  rw [State.txBuf?] at h
  split at h
  next c hcell => exact ⟨c, hcell, h⟩
  next => cases h

section
variable {s : State} {n b : Nat} {x : TxBuf} (hbuf : s.txBuf? n b = some x)
include hbuf

theorem State.txBuf?_modTxBuf (f : TxBuf → TxBuf) : (s.modTxBuf n b f).txBuf? n b = some (f x) := by
  obtain ⟨c, hcell, hx⟩ := State.cell_of_txBuf hbuf
  rw [State.modTxBuf, hcell]
  dsimp only
  rw [hx, State.txBuf?]
  dsimp only
  rw [Table.find?_put_same]
  exact Table.find?_put_same _ _ _

/-- Counts of a slot go to its buffer too. -/
theorem State.txBuf?_txCount (cp late flush miss : Nat) : (s.txCount n b cp late flush miss).txBuf? n b =
    some { x with cpMiss := x.cpMiss + cp, late := x.late + late, flush := x.flush + flush, txMiss := x.txMiss + miss } :=
  State.txBuf?_modTxBuf hbuf _

end

/-- The partition of a cell is one of the sixteen. -/
theorem State.ctxPtn_lt (s : State) (n : Nat) : s.fld FHE_CTX_PTN.PTN n < 16 := bits_lt _ 3 0

theorem Recorded.ite {p : Prop} [Decidable p] {s t u : State} (ht : Recorded s t) (hu : Recorded s u) :
    Recorded s (if p then t else u) := by
  split <;> assumption

/-- The event of a slot's misses is a record, and nothing else. -/
theorem State.txMissEvent_recorded (s : State) (n b : Nat) : Recorded s (s.txMissEvent n b) := by
  rw [State.txMissEvent]
  split
  next => exact .ite (.refl s) (s.event_recorded _ _ _ (s.ctxPtn_lt n))
  next => exact .refl s

/-- The C-plane messages of a buffer that have not been sent. -/
def TxBuf.unsentC (x : TxBuf) : Nat := if x.cDone then 0 else secMessages (x.table.getD [])

/-- The close of the C-plane window marks the buffer and counts its unsent messages; at most the event of the slot's misses
follows. -/
theorem State.endC_recorded (s : State) (n b : Nat) (x : TxBuf) :
    Recorded ((s.modTxBuf n b fun x => { x with cClosed := true }).txCount n b x.unsentC 0 0 0) (s.endC n b x) :=
  .ite (State.txMissEvent_recorded _ n b) (.refl _)

theorem State.txBuf?_endC {s : State} {n b : Nat} {x : TxBuf} (hbuf : s.txBuf? n b = some x) :
    (s.endC n b x).txBuf? n b = some { x with cClosed := true, cpMiss := x.cpMiss + x.unsentC } := by
  obtain ⟨-, -, -, hfhe, -⟩ := (s.endC_recorded n b x).units
  rw [State.txBuf?_congr hfhe]
  exact State.txBuf?_txCount (State.txBuf?_modTxBuf hbuf _) _ 0 0 0

/-! ## The windows of a slot (R312-R316, R319) -/

section
variable {s : State} {n b : Nat} {x : TxBuf} (hbuf : s.txBuf? n b = some x) (hon : s.txOn n = true)
include hbuf hon

/-- Once its last symbol's window has closed a buffer is reassigned: its C-plane window closes, its jobs end, and it takes the
slot NBUF later with its semaphore at 0. -/
theorem State.txAssign_closed (hclosed : x.uClosed = 2 ^ (s.cellGrid n).symsPerSlot - 1) :
    let v := if x.cClosed then s else s.endC n b x
    let y := (v.txBuf? n b).getD x
    let w := v.txOverrun n b y
    let u := w.modTxBuf n b fun _ => { slot := y.slot + nbufOf (w.fld FHE_CTX_CFG.NBUF n) }
    s.txAssign n b = ((u.zeroSem (u.fld FHE_CTX_SEM.CLUSTER n) (u.fld FHE_CTX_SEM.FIRST n + b)).refresh).syncTx n := by
  have hslot : (((if x.cClosed then s else s.endC n b x).txBuf? n b).getD x).slot = x.slot := by
    split
    · rw [hbuf]; rfl
    · rw [State.txBuf?_endC hbuf]; rfl
  dsimp only
  rw [hslot, State.txAssign, hbuf]
  dsimp only
  rw [if_neg (by simp [hon, hclosed])]

theorem State.cplaneOpen_due (hshut : x.cOpen = false) (hdue : s.cOpenAt n x.slot ≤ s.txNow n) :
    s.cplaneOpen n b = ((s.modTxBuf n b fun x => { x with cOpen := true }).txServe n (some (b, none))).syncTx n := by
  rw [State.cplaneOpen, hbuf]
  dsimp only
  rw [if_neg (by simp [hon, hshut, hdue])]

theorem State.uplaneOpen_due {sym : Nat}
    (hsym : firstFrom (fun k => !bit x.uOpen k) 0 (s.cellGrid n).symsPerSlot = some sym) (hdue : s.uOpenAt n x.slot sym ≤ s.txNow n) :
    s.uplaneOpen n b =
      ((s.modTxBuf n b fun x => { x with uOpen := x.uOpen ||| 2 ^ sym }).txServe n (some (b, some sym))).syncTx n := by
  rw [State.uplaneOpen, hbuf]
  dsimp only
  rw [hsym]
  dsimp only
  rw [if_neg (by simp [hon, hdue])]

theorem State.cplaneClose_due (hopen : x.cOpen = true) (hunclosed : x.cClosed = false) (hdue : s.cCloseAt n x.slot ≤ s.txNow n) :
    s.cplaneClose n b = s.endC n b x := by
  rw [State.cplaneClose, hbuf]
  dsimp only
  rw [if_neg (by simp [hon, hopen, hunclosed, hdue])]

/-- A close of a symbol's window ends with the cell's ACTIVE and at most the event of the slot's misses; the last register
written before them is the status with the symbol. -/
theorem State.uplaneClose_shape {sym : Nat}
    (hsym : firstFrom (fun k => !bit x.uClosed k) 0 (s.cellGrid n).symsPerSlot = some sym)
    (hdue : s.uCloseAt n x.slot sym ≤ s.txNow n) :
    ∃ v : State, Recorded ((v.setFld FHE_CTX_STAT.SYMBOL sym n).syncTx n) (s.uplaneClose n b) := by
  rw [State.uplaneClose, hbuf]
  dsimp only
  rw [hsym]
  dsimp only
  rw [if_neg (by simp [hon, hdue])]
  exact ⟨_, .ite (.refl _) (State.txMissEvent_recorded _ n b)⟩

end

theorem State.txPartReady_on {s : State} {n b : Nat} (hon : s.txOn n = true) (hbuf : (s.txBuf? n b).isSome = true) :
    s.txPartReady n b = s.txServe n none := by
  rw [State.txPartReady, if_pos ⟨hon, hbuf⟩]

/-- No record is written at the status of a cell's egress. -/
theorem recordReg_ctxStat (n : Fin 96) : recordReg (FHE_CTX_STAT.addr n 0) = false := by
  have haddr : 0x4013A02C ≤ FHE_CTX_STAT.addr n 0 ∧ FHE_CTX_STAT.addr n 0 < 0x4013C000 := by
    have hn := n.isLt
    simp only [Reg.addr, FHE_CTX_STAT]
    omega
  simp only [recordReg, Bool.or_eq_false_iff, Bool.and_eq_false_iff, decide_eq_false_iff_not]
  omega

theorem State.symbol_syncTx (s : State) (n : Nat) : (s.syncTx n).fld FHE_CTX_STAT.SYMBOL n = s.fld FHE_CTX_STAT.SYMBOL n :=
  s.fld_setFld_disjoint FHE_CTX_STAT.ACTIVE FHE_CTX_STAT.SYMBOL _ n 0 rfl (by decide) (by decide) (by decide) (by decide)

/-- After a symbol's close the status names the symbol (R324). -/
theorem State.uplaneClose_symbol {s : State} {n : Fin 96} {b : Nat} {x : TxBuf} {sym : Nat} (hbuf : s.txBuf? n b = some x)
    (hon : s.txOn n = true) (hsym : firstFrom (fun k => !bit x.uClosed k) 0 (s.cellGrid n).symsPerSlot = some sym)
    (hdue : s.uCloseAt n x.slot sym ≤ s.txNow n) : (s.uplaneClose n b).fld FHE_CTX_STAT.SYMBOL n = sym := by
  have hlt := firstFrom_lt hsym
  have hle := (s.cellGrid n).symsPerSlot_le
  obtain ⟨v, hrecorded⟩ := State.uplaneClose_shape hbuf hon hsym hdue
  rw [hrecorded.fld FHE_CTX_STAT.SYMBOL n 0 (recordReg_ctxStat n), State.symbol_syncTx,
    State.fld_setFld_same v FHE_CTX_STAT.SYMBOL sym n 0 (by decide) (by decide)]
  exact Nat.mod_eq_of_lt (show sym < 2 ^ 4 by omega)

/-! ## Enabling (R323, R324) -/

theorem bit_or_two_pow (v k : Nat) : bit (v ||| 2 ^ k) k = true := by
  have htest : (v ||| 2 ^ k).testBit k = true := by rw [Nat.testBit_or, Nat.testBit_two_pow_self, Bool.or_true]
  rwa [Nat.testBit_eq_decide_div_mod_eq] at htest

theorem or_two_pow_mod (v k : Nat) : (v ||| 2 ^ k) % 2 ^ k = v % 2 ^ k := by
  rw [Nat.or_mod_two_pow, Nat.mod_self, Nat.or_zero]

/-- While EN is 0, a write of the cell's partition that sets EN has the settings checked and the cell enabled. -/
theorem State.ctxCfgWrite_enables {s : State} {src n : Nat} (v : Nat) (hdom : s.domOn 74 = true)
    (hsrc : src = s.fld FHE_CTX_PTN.PTN n) (hoff : s.flag FHE_CTX_CFG.EN n = false) :
    s.ctxCfgWrite src n (v ||| 2 ^ 31) = (s.writeReg FHE_CTX_CFG (v % 2 ^ 31) n).ctxEnable n := by
  rw [State.ctxCfgWrite, if_neg (by simp [hdom, hsrc]), if_neg (by simp [hoff])]
  dsimp only
  rw [if_pos (bit_or_two_pow v 31), or_two_pow_mod]

/-! ## Clearing the counts (R323) -/

/-- The state with the three count registers of cell n at 0. -/
def State.clearCtxCnts (s : State) (n : Nat) : State :=
  ((s.setReg FHE_CTX_CNT0 0 n).setReg FHE_CTX_CNT1 0 n).setReg FHE_CTX_CNT2 0 n

/-- The three count registers of cell n read 0. -/
def State.CtxCntsZero (n : Nat) (s : State) : Prop :=
  s.reg FHE_CTX_CNT0 n = 0 ∧ s.reg FHE_CTX_CNT1 n = 0 ∧ s.reg FHE_CTX_CNT2 n = 0

theorem State.reg_setReg_zero {s : State} {r : Reg} {i : Nat} (q : Reg) (k : Nat) (h : s.reg r i = 0) :
    (s.setReg q 0 k).reg r i = 0 := by
  by_cases haddr : r.addr i 0 = q.addr k 0
  · rw [State.reg, haddr]
    exact State.reg_setReg_same s q 0 k 0
  · rwa [State.reg_setReg_other s haddr]

theorem State.ctxCntsZero_clearCtxCnts (n : Nat) (s : State) : State.CtxCntsZero n (s.clearCtxCnts n) :=
  ⟨State.reg_setReg_zero _ n (State.reg_setReg_zero _ n (State.reg_setReg_same ..)),
    State.reg_setReg_zero _ n (State.reg_setReg_same ..), State.reg_setReg_same ..⟩

/-- Clearing a cell's counts leaves at 0 what was there. -/
theorem State.CtxCntsZero.clearCtxCnts {n : Nat} {s : State} (m : Nat) (h : State.CtxCntsZero n s) :
    State.CtxCntsZero n (s.clearCtxCnts m) := by
  have hkept {r : Reg} (hr : s.reg r n = 0) : (s.clearCtxCnts m).reg r n = 0 :=
    State.reg_setReg_zero _ m (State.reg_setReg_zero _ m (State.reg_setReg_zero _ m hr))
  obtain ⟨h0, h1, h2⟩ := h
  exact ⟨hkept h0, hkept h1, hkept h2⟩

theorem State.clearCtxCnts_mem (s : State) (n : Nat) : (s.clearCtxCnts n).mem = s.mem := rfl
theorem State.clearCtxCnts_fhe (s : State) (n : Nat) : (s.clearCtxCnts n).fhe = s.fhe := rfl

/-- The manager's CLR_CNT clears each cell's counts. -/
theorem State.fheTxClrCnt_manager {s : State} {src : Nat} (hsrc : src = s.manager) (hdom : s.domOn 74 = true) :
    s.fheTxClrCnt src = forEach (List.range 96) (fun n u => u.clearCtxCnts n) s := by
  rw [State.fheTxClrCnt, if_neg (by simp [hsrc, hdom])]
  rfl

/-- Settles O33: each command by the lemma of its operation. What follows the write of the status at a symbol's close is the cell's
ACTIVE and at most one event, whose records lie elsewhere. -/
theorem downlinkCommandsComplete : Obligations.DownlinkCommandsComplete := by
  unfold Obligations.DownlinkCommandsComplete
  intro n b s
  refine ⟨?assign, ?openC, ?openU, ?ready, ?closeC, ?closeU, ?enable, ?clear⟩
  case assign =>
    intro x hbuf hon hclosed v y u
    rw [exec_txBufferAssign, execTxBufferAssign, State.txAssign_closed hbuf hon hclosed]
  case openC =>
    intro x hbuf hon hshut hdue
    rw [exec_cplaneWindowOpen, execCplaneWindowOpen, State.cplaneOpen_due hbuf hon hshut hdue]
  case openU =>
    intro x sym hbuf hsym hon hdue
    rw [exec_uplaneWindowOpen, execUplaneWindowOpen, State.uplaneOpen_due hbuf hon hsym hdue]
  case ready =>
    intro hon hbuf
    rw [exec_txPartReady, execTxPartReady, State.txPartReady_on hon hbuf]
  case closeC =>
    intro x hbuf hon hopen hunclosed hdue
    rw [exec_cplaneWindowClose, execCplaneWindowClose, State.cplaneClose_due hbuf hon hopen hunclosed hdue]
  case closeU =>
    intro x sym hbuf hsym hon hdue
    exact ⟨_, rfl, State.uplaneClose_symbol hbuf hon hsym hdue⟩
  case enable =>
    intro src v hdom hsrc hoff
    rw [exec_fheCtxEnable, execFheCtxEnable, State.ctxCfgWrite_enables v.toNat hdom hsrc hoff]
  case clear =>
    intro src hsrc hdom
    refine ⟨_, rfl, ?_⟩
    rw [State.fheTxClrCnt_manager hsrc hdom]
    refine ⟨fun m hm => ?counts, ?mem, ?fhe⟩
    case counts =>
      exact forEach_reaches State.ctxCntsZero_clearCtxCnts (fun _ k _ h => h.clearCtxCnts k) _ s m (List.mem_range.2 hm)
    case mem =>
      exact forEach_keeps (P := fun u => u.mem = s.mem) (fun k u hu => (u.clearCtxCnts_mem k).trans hu) _ rfl
    case fhe =>
      exact forEach_keeps (P := fun u => u.fhe = s.fhe) (fun k u hu => (u.clearCtxCnts_fhe k).trans hu) _ rfl

end Sys2Proof.Machine
end

section
/-! One step, the operands of a command, and who may command (chapter 95; R340-R504). -/
namespace Sys2Proof.Machine

/-! ## One step -/

/-- Settles O13: by the two cases of the queue. -/
theorem stepTakesTheFrontCommand : Obligations.StepTakesTheFrontCommand := by
  unfold Obligations.StepTakesTheFrontCommand
  refine ⟨fun c rest s => rfl, fun s hempty => ?_⟩
  rw [step, hempty]

/-! ## Operands -/

/-- What a command answers fits what the check of its operands says: a next state, or its refusal by name. -/
def Answered (wf : Bool) (o : Host.Outcome State Fault Refusal) : Prop :=
  (wf = true → ∃ t, o = .next t) ∧ (wf = false → ∃ w, o = .refused (.illFormed w))

theorem answered_next (t : State) : Answered true (.next t) := ⟨fun _ => ⟨t, rfl⟩, fun h => nomatch h⟩

theorem answered_ite {c : Prop} [Decidable c] {o o' : Host.Outcome State Fault Refusal} (h : Answered true o) (h' : Answered true o') :
    Answered true (if c then o else o') := by
  split
  · exact h
  · exact h'

/-- A command whose operands are checked completes where the check holds and is refused where it does not. -/
theorem answered_checked (wf : Bool) (t : State) (w : String) : Answered wf (if wf = true then .next t else .refused (.illFormed w)) := by
  cases wf
  · exact ⟨fun h => (nomatch h), fun _ => ⟨w, rfl⟩⟩
  · exact answered_next t

/-- The same for a check written as a comparison. -/
theorem answered_decide (c : Prop) [Decidable c] (t : State) (w : String) :
    Answered (decide c) (if c then .next t else .refused (.illFormed w)) := by
  simpa using answered_checked (decide c) t w

theorem execLockstepCompareEnd_answered (j : Nat) (s : State) : Answered true (execLockstepCompareEnd j s) := by
  rw [execLockstepCompareEnd]
  split <;> exact answered_next _

theorem execRopeTimeout_answered (j : Nat) (s : State) : Answered true (execRopeTimeout j s) := by
  rw [execRopeTimeout]
  split <;> exact answered_next _

theorem execOrphanDiscard_answered (s : State) : Answered true (execOrphanDiscard s) := by
  rw [execOrphanDiscard]
  split <;> exact answered_next _

theorem execKernelRow_answered (t : TileIx) (s : State) : Answered true (execKernelRow t s) := by
  rw [execKernelRow]
  split
  · exact answered_next _
  · refine answered_ite (answered_next _) ?_
    dsimp only
    split <;> exact answered_next _

theorem execKernelRunEnd_answered (t : TileIx) (s : State) : Answered true (execKernelRunEnd t s) := by
  rw [execKernelRunEnd]
  split
  · exact answered_next _
  · exact answered_ite (answered_next _) (answered_next _)

theorem execResultWrite_answered (t : TileIx) (s : State) : Answered true (execResultWrite t s) := by
  rw [execResultWrite]
  refine answered_ite (answered_next _) (answered_ite (answered_next _) ?_)
  split
  · exact answered_ite (answered_next _) (answered_next _)
  · exact answered_next _

theorem execEthFrameTransmit_answered (src : TxSrc) (s : State) : Answered true (execEthFrameTransmit src s) := by
  cases src <;> exact answered_next _

/-- A command either checks its operands, or tests its unit's condition and does nothing where it fails, or always completes. -/
theorem exec_answered (c : Instr) (s : State) : Answered c.wf (exec c s) := by
  cases c
  case fhRxFrame => exact answered_checked _ _ _
  case ethFrameReceive => exact answered_checked _ _ _
  case refresh => exact answered_checked _ _ _
  case flitReceive => exact answered_checked _ _ _
  case holdLimitCut => exact answered_checked _ _ _
  case pcieLinkChange => exact answered_checked _ _ _
  case pcieInbound => exact answered_checked _ _ _
  case pcieOutbound => exact answered_checked _ _ _
  case coreAccess => exact answered_checked _ _ _
  case tileDebugAccess => exact answered_checked _ _ _
  case xspDone => exact answered_decide _ _ _
  case sbDone => exact answered_decide _ _ _
  case lockstepCompareEnd => exact execLockstepCompareEnd_answered _ s
  case ropeTimeout => exact execRopeTimeout_answered _ s
  case orphanDiscard => exact execOrphanDiscard_answered s
  case kernelRow => exact execKernelRow_answered _ s
  case kernelRunEnd => exact execKernelRunEnd_answered _ s
  case resultWrite => exact execResultWrite_answered _ s
  case ethFrameTransmit => exact execEthFrameTransmit_answered _ s
  case interruptEntry | msiWrite | ethTxtail | flr | registerWrite | instanceActivate | listFetch | streamResponse | fenceRetire |
    crcBlockFeed | crcFeedEnd => exact answered_ite (answered_next _) (answered_next _)
  all_goals exact answered_next _

/-- Settles O14: each command by its own shape; the check that it makes of its operands is log 155's. -/
theorem wellFormedCommandsComplete : Obligations.WellFormedCommandsComplete := by
  unfold Obligations.WellFormedCommandsComplete
  exact exec_answered

/-! ## Who may command -/

/-- A command whose check fails changes nothing. -/
theorem next_checked {c : Prop} [Decidable c] (h : c) (s t : State) :
    (.next (if c then s else t) : Host.Outcome State Fault Refusal) = .next s := by rw [if_pos h]

theorem next_allowed {c : Prop} [Decidable c] (h : ¬c) (s t : State) :
    (.next (if c then t else s) : Host.Outcome State Fault Refusal) = .next s := by rw [if_neg h]

theorem execPtnCfgDisable_other {p q : PtnIx} {s : State} (h : p.val ≠ s.manager) : execPtnCfgDisable p q s = .next s := by
  rw [execPtnCfgDisable, State.ptnCfgWrite, if_pos h, ite_self]

/-- Settles O54: each of these commands begins with the check that the manager makes it. -/
theorem othersCannotManage : Obligations.OthersCannotManage := by
  unfold Obligations.OthersCannotManage
  intro p q s h
  exact ⟨fun _ => ⟨next_checked (.inl h) _ _, next_checked h _ _, next_checked (.inl h) _ _, next_checked h _ _⟩,
    execPtnCfgDisable_other h, next_checked h _ _,
    fun _ => ⟨next_checked (.inl h) _ _, next_checked (.inl h) _ _⟩,
    fun _ _ => ⟨next_checked (.inl h) _ _, next_checked (.inl h) _ _, next_checked (.inl h) _ _⟩,
    fun _ => next_checked (.inl h) _ _,
    fun _ => ⟨next_checked (.inl h) _ _, next_checked (.inl h) _ _, next_checked (.inl h) _ _⟩,
    fun _ => ⟨next_checked (.inl h) _ _, next_checked (.inl h) _ _, next_checked (.inl h) _ _⟩,
    fun _ _ _ => next_checked (.inl h) _ _,
    fun _ => ⟨next_checked (.inl h) _ _, next_checked (.inl h) _ _⟩,
    fun _ _ _ => ⟨next_checked h _ _, next_checked h _ _⟩,
    next_allowed h _ _, next_allowed h _ _, next_checked (.inl h) _ _⟩

/-! ## Domains that are not ON (R445) -/

theorem State.regWrite_off {s : State} {a : Nat} (hoff : s.domOn (domainOf a) = false) (src : Nat) (hart : Bool) (v : Nat) :
    s.regWrite src hart a v = s := by simp [State.regWrite, hoff]

/-- Where no request of PCIe is held, none is performed. -/
theorem State.drainInbound_none {s : State} (hheld : s.pci.held = []) : s.drainInbound = s := by
  simp [State.drainInbound, State.drainLoop, hheld, nextHeld]

/-- Settles O55: the write is not performed, and no held request waits for it. -/
theorem offDomainsTakeNoWrites : Obligations.OffDomainsTakeNoWrites := by
  unfold Obligations.OffDomainsTakeNoWrites
  intro p a v s hoff hheld
  rw [exec_registerWrite, execRegisterWrite, State.regWrite_off hoff, State.drainInbound_none hheld, ite_self]

/-! ## The real-time clock (R460) -/

theorem State.rtcLatch_sub (s : State) : s.rtcLatch.reg OAS_RTC_SUB = s.power.rtc % 32768 := by
  rw [State.rtcLatch, State.reg_setReg_other _ (by decide), State.reg_setReg_other _ (by decide), State.reg_setReg_same]
  omega

/-- The latched words together are the whole seconds. -/
theorem State.rtcLatch_seconds {s : State} (h : s.power.rtc < 2 ^ 63) :
    s.rtcLatch.reg OAS_RTC_LO + 2 ^ 32 * s.rtcLatch.reg OAS_RTC_HI = s.power.rtc / 32768 := by
  rw [State.rtcLatch, State.reg_setReg_other _ (by decide), State.reg_setReg_same, State.reg_setReg_same]
  omega

theorem State.rtcLoad_manager {s : State} {src hi : Nat} (h : src = s.manager) : s.rtcLoad src hi =
    { (s.setReg OAS_RTC_HI (hi % 65536)).setReg OAS_RTC_SUB 0 with
      power := { s.power with rtc := (s.reg OAS_RTC_LO + 2 ^ 32 * (hi % 65536)) * 32768 } } := by
  rw [State.rtcLoad, if_neg (not_not_intro h)]
  dsimp only
  rw [State.reg_setReg_other _ (by decide), State.reg_setReg_other _ (by decide), State.setReg_power, State.setReg_power]

theorem State.reg_withPower (s : State) (x : Power) (r : Reg) (i j : Nat) : ({ s with power := x } : State).reg r i j = s.reg r i j := rfl

/-- Settles O41: each command by the lemma of its operation. -/
theorem rtcCounts : Obligations.RtcCounts := by
  unfold Obligations.RtcCounts
  intro p s
  refine ⟨⟨_, rfl, rfl, rfl, rfl⟩, fun hrtc => ⟨_, rfl, s.rtcLatch_sub, State.rtcLatch_seconds hrtc, rfl, rfl⟩,
    fun hi hmgr => ?load, fun hi hother => next_checked hother _ _⟩
  case load =>
    refine ⟨_, rfl, ?_⟩
    rw [State.rtcLoad_manager hmgr]
    simp only [State.reg_withPower]
    refine ⟨trivial, ?_, State.reg_setReg_same _ _ _ _ _, rfl⟩
    rw [State.reg_setReg_other _ (by decide), State.reg_setReg_same]
    omega

/-! ## Power domains (R445, R446, R447) -/

section
variable {s : State} {src d : Nat} {on : Bool}

/-- A request that nothing stands against clears ERR and acts by the domain's state. -/
theorem State.domRequest_taken (hsrc : src = s.manager) (hdom : s.domOn 79 = true) (hstop : s.power.stop = none)
    (hok : s.domRefusal d on = none) : s.domRequest src d on =
      let u := s.setFld PWR_DOM_STAT.ERR 0 d
      if on then
        if s.domState d = domOff then u.setDom d domPowering
        else if s.domState d = domDraining ∨ s.domState d = domIsolating then u.setFld PWR_DOM_STAT.PENDING_ON 1 d
        else u.setFld PWR_DOM_STAT.PENDING_OFF 0 d
      else if s.domState d = domRun then u.setDom d domDraining
      else if s.domState d = domPowering ∨ s.domState d = domRestoring then u.setFld PWR_DOM_STAT.PENDING_OFF 1 d
      else u.setFld PWR_DOM_STAT.PENDING_ON 0 d := by
  have hstate : (s.setFld PWR_DOM_STAT.ERR 0 d).domState d = s.domState d :=
    s.fld_setFld_disjoint PWR_DOM_STAT.ERR PWR_DOM_STAT.STATE 0 d 0 rfl (by decide) (by decide) (by decide) (by decide)
  rw [State.domRequest, if_neg (by simp [hsrc, hdom, hstop]), hok]
  dsimp only
  rw [hstate]

theorem State.isolateDone_isolating (h : s.domState d = domIsolating) : s.isolateDone d =
    (if ((s.loseDomain d).setDom d domOff).flag PWR_DOM_STAT.PENDING_ON d then
      (((s.loseDomain d).setDom d domOff).setFld PWR_DOM_STAT.PENDING_ON 0 d).setDom d domPowering
    else (s.loseDomain d).setDom d domOff).transitionEnded := by
  rw [State.isolateDone, if_neg (not_not_intro h)]

theorem State.restoreDoneDom_restoring (h : s.domState d = domRestoring) : s.restoreDoneDom d =
    (if (s.setDom d domRun).flag PWR_DOM_STAT.PENDING_OFF d then
      ((s.setDom d domRun).setFld PWR_DOM_STAT.PENDING_OFF 0 d).setDom d domDraining
    else s.setDom d domRun).transitionEnded := by
  rw [State.restoreDoneDom, if_neg (not_not_intro h)]

/-- A domain other than a stack's begins to isolate when its drain ends. -/
theorem State.drainDone_quiet (h : s.domState d = domDraining) (hquiet : s.domBusy d = false) (hd : d < 68) :
    s.drainDone d = s.setDom d domIsolating := by
  rw [State.drainDone, if_neg (by simp [h, hquiet])]
  exact if_neg fun hstack => absurd hstack.1 (by omega)

theorem State.domOwners_lt : ∀ p ∈ s.domOwners d, p < 16 := by
  intro p hp
  rw [State.domOwners] at hp
  split at hp
  · exact firstFrom_lt (Option.mem_toList.1 hp)
  · split at hp
    · exact List.mem_range.1 (List.mem_filter.1 hp).1
    · cases hp

/-- An arrival in ON or OFF raises DOM_STATE. -/
theorem State.setDom_arrival {st : Nat} (h : st = domRun ∨ st = domOff) :
    s.setDom d st = (s.setFld PWR_DOM_STAT.STATE st d).devEvent evDomState d [w32 st] ((s.setFld PWR_DOM_STAT.STATE st d).domOwners d) := by
  have hdraining : st ≠ domDraining := by rcases h with rfl | rfl <;> decide
  rw [State.setDom, if_neg hdraining]
  exact if_pos h

/-- Recording writes no register outside the rings' block and those of the black box and the cores. -/
theorem recordReg_outside {a : Nat} (h : a < 0x40051000 ∨ 0x40059000 ≤ a ∧ a < 0x401A0000) : recordReg a = false := by
  simp only [recordReg, Bool.or_eq_false_iff, Bool.and_eq_false_iff, decide_eq_false_iff_not]
  omega

theorem recordReg_domStat (d : Fin 82) : recordReg (PWR_DOM_STAT.addr d 0) = false :=
  recordReg_outside (.inl (by simp only [Reg.addr, PWR_DOM_STAT]; omega))

/-- What a domain's status remembers of requests outlasts its arrival. -/
theorem State.flag_setDom_arrival {st : Nat} (h : st = domRun ∨ st = domOff) (d : Fin 82) :
    (s.setDom d st).flag PWR_DOM_STAT.PENDING_OFF d = s.flag PWR_DOM_STAT.PENDING_OFF d := by
  rw [State.setDom_arrival h, (State.devEvent_recorded _ _ _ _ State.domOwners_lt).flag _ _ _ (recordReg_domStat d), State.flag,
    s.fld_setFld_disjoint PWR_DOM_STAT.STATE PWR_DOM_STAT.PENDING_OFF _ _ _ rfl (by decide) (by decide) (by decide) (by decide),
    State.flag]

end

/-- Settles O39: a request by the domain's state, the end of a phase by its own lemma. -/
theorem domainCommandsComplete : Obligations.DomainCommandsComplete := by
  unfold Obligations.DomainCommandsComplete
  intro p d s
  refine ⟨?on, ?off, ?drain, ?isolate, ?ramp, ?restore⟩
  case on =>
    intro hmgr hdom hstop hok hstate
    rw [exec_domainOn, execDomainOn, State.domRequest_taken hmgr hdom hstop hok]
    exact congrArg _ (if_pos hstate)
  case off =>
    intro hmgr hdom hstop hok hstate
    rw [exec_domainOff, execDomainOff, State.domRequest_taken hmgr hdom hstop hok]
    exact congrArg _ (if_pos hstate)
  case drain =>
    intro hstate hquiet hd
    rw [exec_domainDrainDone, execDomainDrainDone, State.drainDone_quiet hstate hquiet hd]
  case isolate =>
    intro hstate hpending
    rw [exec_domainIsolateDone, execDomainIsolateDone, State.isolateDone_isolating hstate, if_neg (by simp [hpending])]
  case ramp =>
    intro hstate
    rw [exec_domainRampDone, execDomainRampDone, State.rampDone, if_neg (not_not_intro hstate)]
  case restore =>
    intro hstate hpending
    rw [exec_domainRestoreDone, execDomainRestoreDone, State.restoreDoneDom_restoring hstate,
      if_neg (by simp [State.flag_setDom_arrival, hpending])]

/-- Settles O52: a request by the domain's state, a transition's end by whether a request was remembered. -/
theorem domainRequestsWaitForTransitions : Obligations.DomainRequestsWaitForTransitions := by
  unfold Obligations.DomainRequestsWaitForTransitions
  intro p d s
  refine ⟨fun hmgr hdom hstop => ⟨?onAgainst, ?offAgainst, ?onAlong, ?offAlong⟩, ?isolate, ?restore, ?arrival⟩
  case onAgainst =>
    intro hok hstate
    rw [exec_domainOn, execDomainOn, State.domRequest_taken hmgr hdom hstop hok]
    rcases hstate with hstate | hstate <;> simp [hstate, domDraining, domIsolating, domOff]
  case offAgainst =>
    intro hok hstate
    rw [exec_domainOff, execDomainOff, State.domRequest_taken hmgr hdom hstop hok]
    rcases hstate with hstate | hstate <;> simp [hstate, domPowering, domRestoring, domRun]
  case onAlong =>
    intro hok hstate
    rw [exec_domainOn, execDomainOn, State.domRequest_taken hmgr hdom hstop hok]
    rcases hstate with hstate | hstate <;> simp [hstate, domDraining, domIsolating, domOff, domPowering, domRestoring]
  case offAlong =>
    intro hok hstate
    rw [exec_domainOff, execDomainOff, State.domRequest_taken hmgr hdom hstop hok]
    rcases hstate with hstate | hstate <;> simp [hstate, domDraining, domIsolating, domRun, domPowering, domRestoring]
  case isolate =>
    intro hstate hpending
    rw [exec_domainIsolateDone, execDomainIsolateDone, State.isolateDone_isolating hstate, if_pos hpending]
  case restore =>
    intro hstate hpending
    rw [exec_domainRestoreDone, execDomainRestoreDone, State.restoreDoneDom_restoring hstate, if_pos hpending]
  case arrival =>
    intro st hst
    exact ⟨_, _, State.setDom_arrival hst⟩

end Sys2Proof.Machine
end

section
/-! The gather engines' commands (chapter 14, R326-R340). -/
namespace Sys2Proof.Machine

/-! ## Who issues (R329, R331) -/

theorem State.setGUnit_regs (s : State) (j : Nat) (u : GUnit) : (s.setGUnit j u).regs = s.regs := rfl

/-- The issue of row reads writes no register. -/
theorem State.issueRows_regs (s : State) (c n : Nat) : (s.issueRows c n).regs = s.regs := by
  induction n generalizing s with
  | zero => rfl
  | succ n ih =>
    rw [State.issueRows]
    split
    · rfl
    · split
      · rfl
      · rw [ih, State.setGUnit_regs]

theorem State.domOn_congr {s t : State} (h : t.regs = s.regs) (d : Nat) : t.domOn d = s.domOn d := by
  simp only [State.domOn, State.fld, State.reg, State.regAt, h]

theorem State.dispatchGather_first {s : State} {p j c : Nat} {x : Job}
    (hfirst : s.firstJob (s.jobList.filter fun r =>
      r.2.ptn == p && r.2.cls == 6 && s.eligible r.1 r.2 && !(s.gatherEngines r.2).isEmpty) = some (j, x))
    (hengine : minBy s.gathersOn (s.gatherEngines x) = some c) :
    s.dispatchGather p = ((s.dispatched j 1).setGUnit j { clu := c }).gatherStart j { clu := c } x := by
  rw [State.dispatchGather]
  dsimp only
  rw [hfirst]
  dsimp only
  rw [hengine]

/-! ## A turn (R331, R332, R336) -/

/-- Job j is the last that engine c served a turn of. -/
def State.gatherTurned (s : State) (c j : Nat) : State := { s with gather := { s.gather with rr := s.gather.rr.put c j } }

/-- A turn for a job whose unit has its table. -/
theorem State.gatherStep_ready {s : State} {c kind j : Nat} {u : GUnit} {x : Job} (hon : s.domOn (64 + c) = true)
    (hjob : s.job? j = some x) (hready : u.ready = true) (hturn : s.gatherTurn c kind = some (j, u)) :
    s.gatherStep c kind =
      if kind = 1 then (s.gatherTurned c j).updateRow j x u
      else if u.opened ∧ ¬u.todo.isEmpty then
        if s.flag JOB_PQ_STAT.QUIESCED x.ptn ∨ u.flight = 0 then s.gatherTurned c j else (s.gatherTurned c j).poolRow j x u
      else (s.gatherTurned c j).bags j (bagFuel u) := by
  have hjob' : (s.gatherTurned c j).job? j = some x := hjob
  rw [State.gatherTurned] at hjob'
  rw [State.gatherStep, if_neg (not_not_intro hon), hturn]
  dsimp only
  rw [hjob']
  dsimp only
  rw [if_neg (not_not_intro hready)]
  rfl

section
variable {s : State} {c j : Nat} {u : GUnit} {x : Job} (hon : s.domOn (64 + c) = true) (hjob : s.job? j = some x) (hready : u.ready = true)
include hon hjob hready

/-- An open bag with a row that has come is pooled. -/
theorem State.gatherStep_pools (hturn : s.gatherTurn c 0 = some (j, u)) (hopened : u.opened = true) (htodo : u.todo ≠ [])
    (hflight : u.flight ≠ 0) (hgoing : s.flag JOB_PQ_STAT.QUIESCED x.ptn = false) :
    s.gatherStep c 0 = (s.gatherTurned c j).poolRow j x u := by
  have hopen : u.opened = true ∧ ¬u.todo.isEmpty = true := ⟨hopened, by simpa using htodo⟩
  rw [State.gatherStep_ready hon hjob hready hturn, if_neg (by decide), if_pos hopen, if_neg (by simp [hgoing, hflight])]

/-- A job that updates its table changes its next row. -/
theorem State.gatherStep_updates (hturn : s.gatherTurn c 1 = some (j, u)) :
    s.gatherStep c 1 = (s.gatherTurned c j).updateRow j x u := by
  rw [State.gatherStep_ready hon hjob hready hturn, if_pos rfl]

end

theorem State.gthClrCnt_manager {s : State} {src c : Nat} (hsrc : src = s.manager) (hon : s.domOn (64 + c) = true) :
    s.gthClrCnt src c = ((s.setReg GTH_CNT0 0 c).setReg GTH_CNT1 0 c).setReg GTH_CNT2 0 c := by
  rw [State.gthClrCnt, if_neg (by simp [hsrc, hon])]

/-- Settles O31: each command by the lemma of its operation; the rows issued before a turn leave the cluster's domain ON. -/
theorem gatherCommandsComplete : Obligations.GatherCommandsComplete := by
  unfold Obligations.GatherCommandsComplete
  intro s
  refine ⟨?dispatch, ?pool, ?update, ?clear⟩
  case dispatch =>
    intro p j c x hfirst hengine
    rw [exec_gatherDispatch, execGatherDispatch, State.dispatchGather_first hfirst hengine]
  case pool =>
    intro c j u x hon v hturn hjob hready hopened htodo hflight hgoing
    have hon' : v.domOn (64 + c) = true := (State.domOn_congr (s.issueRows_regs c 512) _).trans hon
    rw [exec_rowReadDone, execRowReadDone, State.engineStep, if_pos hon,
      State.gatherStep_pools hon' hjob hready hturn hopened htodo hflight hgoing, State.gatherTurned]
  case update =>
    intro c j u x hon v hturn hjob hready
    have hon' : v.domOn (64 + c) = true := (State.domOn_congr (s.issueRows_regs c 512) _).trans hon
    rw [exec_gatherRowUpdate, execGatherRowUpdate, State.engineStep, if_pos hon,
      State.gatherStep_updates hon' hjob hready hturn, State.gatherTurned]
  case clear =>
    intro c src hsrc hon
    rw [exec_gthClrCnt, execGthClrCnt, State.gthClrCnt_manager hsrc hon]

end Sys2Proof.Machine
end

section
/-! The partition unit's commands (chapter 15): a write of a semaphore (R372), and a state in which it is not read back. -/
namespace Sys2Proof.Machine

/-! ## A write of a semaphore (R363, R372) -/

/-- The number that a write leaves in a semaphore: a mutex holds 0 or 1. -/
def State.semStored (s : State) (c i v : Nat) : Nat := if s.isMutex c i = true then min (v % 65536) 1 else v % 65536

theorem State.semStored_lt (s : State) (c i v : Nat) : s.semStored c i v < 2 ^ 16 := by
  rw [State.semStored]
  split <;> omega

/-- The owner's write replaces the value and frees the mutex; then its slices end. -/
theorem State.semWrite_owner {s : State} {src c i : Nat} (howner : s.semOwner c i = some src) (hon : s.domOn (64 + c) = true) (v : Nat) :
    s.semWrite src c i v =
      (((s.setFld CLU_SEM.VALUE (s.semStored c i v) c i).mutexFreed c i).endSlices c i).refresh := by
  rw [State.semWrite, if_neg (by simp [howner, hon]), State.semStored]
  rfl

/-- `t` has the holders of mutexes and the memory of `s`. -/
structure HoldersKept (s t : State) : Prop where
  holders : t.holders = s.holders
  mem : t.mem = s.mem

theorem HoldersKept.incSat {s t : State} (h : HoldersKept s t) (f : Fld) (n i j : Nat) : HoldersKept s (t.incSat f n i j) :=
  ⟨(State.incSat_holders ..).trans h.holders, (State.incSat_mem ..).trans h.mem⟩

theorem HoldersKept.modTile {s t : State} (h : HoldersKept s t) (k : Nat) (f : Tile → Tile) : HoldersKept s (t.modTile k f) :=
  ⟨(State.modTile_holders ..).trans h.holders, (State.modTile_mem ..).trans h.mem⟩

theorem HoldersKept.endSlices (s : State) (c i : Nat) : HoldersKept s (s.endSlices c i) := by
  rw [State.endSlices]
  dsimp only
  refine forEach_keeps (P := HoldersKept s) (fun x u hu => ?_) _ ⟨rfl, rfl⟩
  repeat' split
  all_goals solve_by_elim [HoldersKept.incSat, HoldersKept.modTile]

theorem State.refresh_holders (s : State) : s.refresh.holders = s.holders := rfl
theorem State.refresh_mem (s : State) : s.refresh.mem = s.mem := rfl
theorem State.refresh_fld (s : State) (f : Fld) (i j : Nat) : s.refresh.fld f i j = s.fld f i j := rfl
theorem State.dropHolder_mem (s : State) (k : Nat) : (s.dropHolder k).mem = s.mem := rfl

theorem State.mutexFreed_mem (s : State) (c i : Nat) : (s.mutexFreed c i).mem = s.mem := by
  rw [State.mutexFreed, State.dropHolder_mem, State.setFld_mem, State.setFld_mem, State.setFld_mem]

/-- The fields of a semaphore whose mutex is free. -/
theorem State.mutexFreed_fields (s : State) (c i : Nat) : (s.mutexFreed c i).flag CLU_SEM.HELD c i = false ∧
    (s.mutexFreed c i).fld CLU_SEM.HOLDER c i = 0 ∧ (s.mutexFreed c i).holders.find? (c * 1024 + i) = none := by
  have hkeep : ∀ (u : State) (f g : Fld), f.reg = CLU_SEM ∧ g.reg = CLU_SEM ∧ g.lo ≤ g.hi ∧ g.hi < f.lo ∧ f.lo ≤ f.hi ∧
      f.hi < 32 → (u.setFld f 0 c i).fld g c i = u.fld g c i := fun u f g ⟨hf, hg, hle, habove, hle', h32⟩ =>
    u.fld_setFld_disjoint f g 0 c i (hg.trans hf.symm) hle' h32 hle (.inr habove)
  refine ⟨?_, ?_, Table.find?_del_same _ _⟩
  · rw [State.flag, State.mutexFreed, State.dropHolder_fld, hkeep _ _ _ (by decide), hkeep _ _ _ (by decide),
      State.fld_setFld_same _ _ _ _ _ (by decide) (by decide)]
    simp
  · rw [State.mutexFreed, State.dropHolder_fld, hkeep _ _ _ (by decide), State.fld_setFld_same _ _ _ _ _ (by decide) (by decide)]
    simp

/-- What O26 asks of a write of a semaphore, where every job belongs to one of the sixteen partitions. -/
theorem State.semWrite_stores {s : State} (hjobs : s.JobsInRange) {src : Nat} {c : ClusterIx} {i : Fin 1024}
    (howner : s.semOwner c i = some src) (hon : s.domOn (64 + c) = true) (v : Nat) :
    (s.semWrite src c i v).fld CLU_SEM.VALUE c i = s.semStored c i v ∧ (s.semWrite src c i v).flag CLU_SEM.HELD c i = false ∧
      (s.semWrite src c i v).fld CLU_SEM.HOLDER c i = 0 ∧ (s.semWrite src c i v).holders.find? (c * 1024 + i) = none ∧
      (s.semWrite src c i v).mem = s.mem := by
  rw [State.semWrite_owner howner hon]
  generalize hw : (s.setFld CLU_SEM.VALUE (s.semStored c i v) c i).mutexFreed c i = w
  have hvalue : w.fld CLU_SEM.VALUE c i = s.semStored c i v := by
    rw [← hw, State.mutexFreed_value, State.fld_setFld_same _ _ _ _ _ (by decide) (by decide)]
    exact Nat.mod_eq_of_lt (s.semStored_lt c i v)
  obtain ⟨hheld, hholder, hnone⟩ : w.flag CLU_SEM.HELD c i = false ∧ w.fld CLU_SEM.HOLDER c i = 0 ∧
      w.holders.find? (c * 1024 + i) = none := hw ▸ State.mutexFreed_fields _ _ _
  have hmem : w.mem = s.mem := by rw [← hw, State.mutexFreed_mem, State.setFld_mem]
  have hjobs' : w.JobsInRange := hjobs.congr (by rw [← hw, State.mutexFreed_job, State.setFld_job])
  have hword : (w.endSlices c i).reg CLU_SEM c i = w.reg CLU_SEM c i :=
    (SemKept.endSlices (K := fun _ => True) hjobs' c i).words c i trivial
  have hfld : ∀ f : Fld, f.reg = CLU_SEM → (w.endSlices c i).refresh.fld f c i = w.fld f c i := by
    intro f hf
    rw [State.refresh_fld, State.fld, State.fld, hf, hword]
  have hkept := HoldersKept.endSlices w c i
  refine ⟨(hfld _ rfl).trans hvalue, ?_, (hfld _ rfl).trans hholder, ?_, ?_⟩
  · rw [State.flag, hfld _ rfl]
    exact hheld
  · rw [State.refresh_holders, hkept.holders, hnone]
  · rw [State.refresh_mem, hkept.mem, hmem]

/-! ## A job of no partition -/

/-- Semaphore 22 of cluster 0 is partition 0's; an inherit slice for it charges the job of partition number `p` of
`heldMutex p`. -/
def heldSem (p : Nat) : State :=
  { (heldMutex p).setReg PTN_SEM (2 ^ 31 + 22 * 2 ^ 10 + 22) with
    slices := [{ waiter := 1, waitJob := 1, clu := 0, sem := 22, htile := 0, hjob := 0, hindex := 0, depth := 1, began := 0 }] }

/-- In range the semaphore holds what its owner writes. -/
theorem witness_semWrite_stores : ((heldSem 0).semWrite 0 0 22 0).fld CLU_SEM.VALUE 0 22 = 0 := by
  have hjobs : (heldSem 0).JobsInRange := (heldMutex_jobsInRange (p := 0) (by decide)).congr rfl
  have howner : (heldSem 0).semOwner 0 22 = some 0 := by decide +kernel
  have hon : (heldSem 0).domOn 64 = true := by decide +kernel
  have hstored : (heldSem 0).semStored 0 22 0 = 0 := by decide +kernel
  exact (State.semWrite_stores hjobs (c := 0) (i := 22) howner hon 0).1.trans hstored

/-- Refutes O26: the clause that a semaphore holds what its owner writes fails where the register that the end of its inherit
slice charges (R363), PTN_INH_NS of the job's partition, is taken for a number far outside the sixteen partitions: copy 0x17FA00
of it lies at the address of semaphore 22. The statement does not bound the partitions that a state's jobs name;
`State.semWrite_stores` is the clause with that bound. -/
theorem not_partitionCommandsComplete : ¬ Obligations.PartitionCommandsComplete := by
  unfold Obligations.PartitionCommandsComplete
  intro h
  have hafter : ((heldSem 0x17FA00).semWrite 0 0 22 0).fld CLU_SEM.VALUE 0 22 = 1 := by decide +kernel
  have hstored : (heldSem 0x17FA00).semStored 0 22 0 = 0 := by decide +kernel
  obtain ⟨-, -, -, -, -, -, -, -, -, -, -, -, -, -, -, hwrite, -⟩ := h 0 0 (heldSem 0x17FA00)
  obtain ⟨u, hu, hvalue, -⟩ := hwrite 0 22 0 (by decide +kernel) (by decide +kernel)
  rw [exec_semWrite, execSemWrite, Host.Outcome.next.injEq] at hu
  rw [← hu] at hvalue
  exact absurd (hafter.symm.trans (hvalue.trans hstored)) (by decide)

end Sys2Proof.Machine
end

section
/-! The memory system's commands (chapter 16, R376-R393): refreshes and stacks, fault records and their resolves, invalidation,
the fault ring and the system cache's maintenance. -/
namespace Sys2Proof.Machine

/-! ## Flags read after a write -/

section
variable (s : State)

/-- A one-bit field reads as it was set. -/
theorem State.flag_setFld_same (f : Fld) (v i j : Nat) (hbit : f.lo = f.hi) (h31 : f.hi < 32) :
    (s.setFld f v i j).flag f i j = (v % 2 == 1) := by
  rw [State.flag, State.fld_setFld_same _ _ _ _ _ hbit.le h31, hbit, Nat.add_sub_cancel_left, Nat.pow_one]

/-- A flag of another field of the same register keeps its value. -/
theorem State.flag_setFld_disjoint (f g : Fld) (v i j : Nat) (hr : g.reg = f.reg) (h : f.lo ≤ f.hi) (h31 : f.hi < 32)
    (hg : g.lo ≤ g.hi) (hd : f.hi < g.lo ∨ g.hi < f.lo) : (s.setFld f v i j).flag g i j = s.flag g i j := by
  rw [State.flag, s.fld_setFld_disjoint f g v i j hr h h31 hg hd, State.flag]

theorem State.flag_setFld_other (f g : Fld) (v i j k l : Nat) (h : g.reg.addr k l ≠ f.reg.addr i j) :
    (s.setFld f v i j).flag g k l = s.flag g k l := by
  rw [State.flag, s.fld_setFld_other f g v i j k l h, State.flag]

/-! ## What a change of the MMU's own record leaves -/

theorem State.setMmu_mem (f : Mmu → Mmu) : (s.setMmu f).mem = s.mem := rfl
theorem State.setMmu_syc (f : Mmu → Mmu) : (s.setMmu f).syc = s.syc := rfl
theorem State.setMmu_mmu (f : Mmu → Mmu) : (s.setMmu f).mmu = f s.mmu := rfl
theorem State.setMmu_fld (f : Mmu → Mmu) (g : Fld) (i j : Nat) : (s.setMmu f).fld g i j = s.fld g i j := rfl
theorem State.setMmu_reg (f : Mmu → Mmu) (r : Reg) (i j : Nat) : (s.setMmu f).reg r i j = s.reg r i j := rfl

/-! ## Refreshes and stacks (R376, R391) -/

theorem State.refreshPch_on {q : Nat} (hon : s.domOn (68 + q / 32) = true) (temp rate : Nat) (busy : Bool) :
    s.refreshPch q temp rate busy none =
      ((s.settleErrs.setFld HBM_STAT.TEMP temp (q / 32)).setFld HBM_STAT.RATE rate (q / 32)).refreshDue q busy := by
  rw [State.refreshPch, if_neg (by simp [hon])]

theorem State.refreshDue_idle (q : Nat) :
    s.refreshDue q false = s.setMmu fun m => { m with postponed := m.postponed.del q } := rfl

/-- Under load a refresh is postponed up to three times. -/
theorem State.refreshDue_postponed {q : Nat} (h : s.mmu.postponed.getD q 0 < 3) : s.refreshDue q true =
    s.setMmu fun m => { m with postponed := m.postponed.put q (s.mmu.postponed.getD q 0 + 1) } := by
  rw [State.refreshDue, if_neg (by simp)]
  exact if_pos (by omega)

theorem State.refreshDue_revokes {q : Nat} (h : 3 ≤ s.mmu.postponed.getD q 0) : s.refreshDue q true =
    (s.setMmu fun m => { m with postponed := m.postponed.del q }).incSat HBM_CNT2.REVOKES 1 (q / 32) := by
  rw [State.refreshDue, if_neg (by simp)]
  exact if_neg (by omega)

/-- Where a stack's field of its control register lies, none of its status does. -/
theorem hbmCtl_ne_stat (k : Nat) : HBM_CTL.addr k 0 ≠ HBM_STAT.addr k 0 := Reg.addr_ne _ _ (by decide) _ _

/-- The stack in self-refresh, its controller off. -/
def State.stackOff (s : State) (k : Nat) : State :=
  (((s.setFld HBM_CTL.EN 0 k).setFld HBM_STAT.SELF_REFRESH 1 k).setFld HBM_STAT.TRAINED 0 k).setFld HBM_STAT.TRAIN_FAIL 0 k

theorem State.hbmDisable_manager {src k : Nat} (hsrc : src = s.manager) (hon : s.domOn (68 + k) = true)
    (hen : s.flag HBM_CTL.EN k = true) (hfree : s.stackUsed k = false) : s.hbmDisable src k = s.stackOff k := by
  rw [State.hbmDisable, if_neg (by simp [hsrc, hon, hen, hfree]), State.stackOff]

theorem State.stackOff_flags (k : Nat) : (s.stackOff k).flag HBM_CTL.EN k = false ∧
    (s.stackOff k).flag HBM_STAT.SELF_REFRESH k = true ∧ (s.stackOff k).flag HBM_STAT.TRAINED k = false := by
  have hstat : ∀ (u : State) (f g : Fld) (v : Nat), f.reg = HBM_STAT ∧ g.reg = HBM_STAT ∧ f.lo ≤ f.hi ∧ f.hi < 32 ∧
      g.lo ≤ g.hi ∧ f.hi < g.lo → (u.setFld f v k).flag g k = u.flag g k := fun u f g v ⟨hf, hg, hle, h32, hle', hd⟩ =>
    u.flag_setFld_disjoint f g v k 0 (hg.trans hf.symm) hle h32 hle' (.inl hd)
  have hctl : ∀ (u : State) (f : Fld) (v : Nat), f.reg = HBM_STAT → (u.setFld f v k).flag HBM_CTL.EN k = u.flag HBM_CTL.EN k :=
    fun u f v hf => u.flag_setFld_other f HBM_CTL.EN v k 0 k 0 (hf ▸ hbmCtl_ne_stat k)
  refine ⟨?_, ?_, ?_⟩
  · rw [State.stackOff, hctl _ _ _ rfl, hctl _ _ _ rfl, hctl _ _ _ rfl, State.flag_setFld_same _ _ _ _ _ (by decide) (by decide)]
    decide
  · rw [State.stackOff, hstat _ _ _ _ (by decide), hstat _ _ _ _ (by decide),
      State.flag_setFld_same _ _ _ _ _ (by decide) (by decide)]
    decide
  · rw [State.stackOff, hstat _ _ _ _ (by decide), State.flag_setFld_same _ _ _ _ _ (by decide) (by decide)]
    decide

theorem State.stackOff_mem (k : Nat) : (s.stackOff k).mem = s.mem := by
  rw [State.stackOff, State.setFld_mem, State.setFld_mem, State.setFld_mem, State.setFld_mem]

theorem State.hbmEnable_manager {src k : Nat} (hsrc : src = s.manager) (hon : s.domOn (68 + k) = true) :
    s.hbmEnable src k = s.setFld HBM_CTL.EN 1 k := by
  rw [State.hbmEnable, if_neg (by simp [hsrc, hon])]

theorem State.hbmTrained_ok {k : Nat} (hon : s.domOn (68 + k) = true) (hen : s.flag HBM_CTL.EN k = true)
    (hnew : s.flag HBM_STAT.TRAINED k = false) : s.hbmTrained k true =
      ((s.setFld HBM_STAT.TRAINED 1 k).setFld HBM_STAT.TRAIN_FAIL 0 k).setFld HBM_STAT.SELF_REFRESH 0 k := by
  rw [State.hbmTrained, if_neg (by simp [hon, hen, hnew]), if_pos rfl]

theorem State.hbmClrCnt_manager {src k : Nat} (hsrc : src = s.manager) (hon : s.domOn (68 + k) = true) : s.hbmClrCnt src k =
    (((s.setReg HBM_CNT0 0 k).setReg HBM_CNT1 0 k).setReg HBM_CNT2 0 k).setReg HBM_CNT3 0 k := by
  rw [State.hbmClrCnt, if_neg (by simp [hsrc, hon])]

/-! ## Fault records and resolves (R388, R389, R390) -/

/-- What a partition's fault needs to be recorded. -/
def State.recordDue (s : State) (p : Nat) (r : FaultRec) : Bool :=
  r.ptn == p && r.seq.isNone && (!r.wait || decide (s.unresolved p < 256))

/-- The fault `r`, recorded under SEQ `seq`, stays in the list until its resolve if it waits for one. -/
def Mmu.recordAdded (m : Mmu) (due : FaultRec → Bool) (p seq : Nat) : Mmu :=
  { m with
    seqs := m.seqs.put p seq
    faults := changeFirst due (fun r => if r.wait then some { r with seq := some seq } else none) m.faults }

/-- SEQ of partition p's next record. -/
def State.nextFaultSeq (s : State) (p : Nat) : Nat := (s.mmu.seqs.getD p 0 + 1) % 65536

/-- The bytes of partition p's next record. -/
def State.recordBytes (s : State) (p : Nat) (r : FaultRec) : List Byte :=
  r.bytes (s.nextFaultSeq p) (phaseBit (s.reg MMU_FR_TAIL p) (s.fld MMU_FR_CFG.LOG2SIZE p))

/-- The record's bytes stand in partition p's ring at `a`, its tail is one further. -/
def State.faultRecorded (s : State) (p a : Nat) (r : FaultRec) : State :=
  ((s.store p a (s.recordBytes p r) false).setReg MMU_FR_TAIL (s.reg MMU_FR_TAIL p + 1) p).setMmu fun m =>
    m.recordAdded (s.recordDue p) p (s.nextFaultSeq p)

theorem State.recordFault_slot {p a : Nat} {r : FaultRec} (hslot : s.faultSlot p = some a)
    (hdue : s.mmu.faults.find? (s.recordDue p) = some r) :
    s.recordFault p = (s.faultRecorded p a r).faultEvent r (s.nextFaultSeq p) false := by
  have hsame : (fun r : FaultRec => r.ptn == p && r.seq.isNone && (!r.wait || ((some a).isSome && decide (s.unresolved p < 256)))) =
      s.recordDue p := by
    funext r
    rw [State.recordDue, Option.isSome_some, Bool.true_and]
  rw [State.recordFault]
  dsimp only
  rw [hslot, hsame, hdue]
  dsimp only
  rw [State.faultRecorded, State.setMmu, Mmu.recordAdded, State.recordBytes, State.nextFaultSeq]

theorem State.faultRecorded_tail (p a : Nat) (r : FaultRec) :
    (s.faultRecorded p a r).reg MMU_FR_TAIL p = (s.reg MMU_FR_TAIL p + 1) % 2 ^ 32 := by
  rw [State.faultRecorded, State.setMmu_reg, State.reg_setReg_same]

theorem State.faultRecorded_mem (p a : Nat) (r : FaultRec) :
    (s.faultRecorded p a r).mem = (s.store p a (s.recordBytes p r) false).mem := by
  rw [State.faultRecorded, State.setMmu_mem, State.setReg_mem]

/-- Stored bytes read back. -/
theorem State.byte_store (p a : Nat) (bs : List Byte) (alloc : Bool) {k : Nat} {b : Byte} (h : bs[k]? = some b) :
    (s.store p a bs alloc).byte (a + k) = b := by
  obtain ⟨hk, hb⟩ := List.getElem?_eq_some_iff.1 h
  rw [State.store, State.byte_poke_same _ _ _ hk, hb]

theorem State.resolve_found {src p seq : Nat} {r : FaultRec} (hsrc : s.mmuWriter src p = true) (hfault : s.faultOf p seq = some r)
    (fail : Bool) : (s.resolve src p seq fail).1 =
      forEach r.waiters (fun w u => if fail then u.failWaiter p w else u.retryWaiter p w)
        (({ s with mmu := { s.mmu with
          faults := changeFirst (fun r => r.ptn == p && r.seq == some seq) (fun _ => none) s.mmu.faults } } : State).setFld
            MMU_STAT.ERR 0 p) := by
  rw [State.resolve, if_neg (by simp [hsrc]), hfault]

/-! ## Invalidation and the fault ring (R387, R392) -/

/-- The root table that MMU_ROOTp names. -/
def State.rootNamed (s : State) (p : Nat) : Nat := s.fld MMU_ROOT_LO.ADDR p * 4096 + 2 ^ 32 * s.fld MMU_ROOT_HI.ADDR p

/-- An invalidation of partition p, of a page or of all, stands among those in progress; one of all puts MMU_ROOTp in force. -/
def Mmu.invAdded (m : Mmu) (p root : Nat) (page : Option Nat) : Mmu :=
  { m with inv := m.inv.put p page, roots := if page.isNone then m.roots.put p root else m.roots }

/-- An invalidation of partition p begins. -/
def State.invBegun (s : State) (p : Nat) (page : Option Nat) : State :=
  ((s.setFld MMU_STAT.ERR 0 p).setFld MMU_STAT.INV_BUSY 1 p).setMmu fun m => m.invAdded p (s.rootNamed p) page

theorem State.invStart_free {src p : Nat} (hsrc : s.mmuWriter src p = true) (hfree : s.flag MMU_STAT.INV_BUSY p = false)
    (page : Option Nat) : s.invStart src p page = s.invBegun p page := by
  have hroot : ∀ g : Fld, (g.reg.st1 = MMU_STAT.st1 ∧ g.reg.st2 = MMU_STAT.st2 ∧ g.reg.base ≠ MMU_STAT.base) →
      ((s.setFld MMU_STAT.ERR 0 p).setFld MMU_STAT.INV_BUSY 1 p).fld g p = s.fld g p := fun g h => by
    rw [State.fld_setFld_other _ _ _ _ _ _ _ _ (Reg.addr_ne _ MMU_STAT h p 0),
      State.fld_setFld_other _ _ _ _ _ _ _ _ (Reg.addr_ne _ MMU_STAT h p 0)]
  rw [State.invStart, if_neg (by simp [hsrc]), if_neg (by simp [hfree])]
  dsimp only
  rw [hroot MMU_ROOT_LO.ADDR (by decide), hroot MMU_ROOT_HI.ADDR (by decide), State.invBegun, State.setMmu, Mmu.invAdded,
    State.rootNamed]

theorem State.invBegun_status (p : Nat) (page : Option Nat) :
    (s.invBegun p page).flag MMU_STAT.INV_BUSY p = true ∧ (s.invBegun p page).fld MMU_STAT.ERR p = 0 := by
  refine ⟨?_, ?_⟩
  · rw [State.flag, State.invBegun, State.setMmu_fld, State.fld_setFld_same _ _ _ _ _ (by decide) (by decide)]
    decide
  · rw [State.invBegun, State.setMmu_fld, State.fld_setFld_disjoint _ MMU_STAT.INV_BUSY MMU_STAT.ERR _ _ _ rfl (by decide) (by decide)
      (by decide) (by decide), State.fld_setFld_same _ _ _ _ _ (by decide) (by decide)]
    decide

theorem State.invBegun_mmu (p : Nat) (page : Option Nat) :
    (s.invBegun p page).mmu = s.mmu.invAdded p (s.rootNamed p) page := by
  rw [State.invBegun, State.setMmu_mmu, State.setFld_mmu, State.setFld_mmu]

theorem State.invBegun_mem (p : Nat) (page : Option Nat) : (s.invBegun p page).mem = s.mem := by
  rw [State.invBegun, State.setMmu_mem, State.setFld_mem, State.setFld_mem]

theorem Mmu.invAdded_inv (m : Mmu) (p root : Nat) (page : Option Nat) : (m.invAdded p root page).inv.find? p = some page :=
  Table.find?_put_same _ _ _

theorem Mmu.invAdded_tlb (m : Mmu) (p root : Nat) (page : Option Nat) : (m.invAdded p root page).tlb = m.tlb := rfl

theorem State.rootOf_invBegun_all (p : Nat) : (s.invBegun p none).rootOf p = s.rootNamed p := by
  rw [State.rootOf, State.invBegun_mmu]
  exact Table.getD_put_same _ _ _ _

theorem State.rootOf_invBegun_page (p v : Nat) : (s.invBegun p (some v)).rootOf p = s.rootOf p := by
  rw [State.rootOf, State.invBegun_mmu, State.rootOf]
  rfl

/-- A cached translation is in an invalidation's scope. -/
def tlbHit (p : Nat) (page : Option Nat) (k : Nat) : Bool :=
  k / 2 ^ 36 == p && (match page with
    | some v => k % 2 ^ 36 == v
    | none => true)

/-- The translations in scope are gone. -/
def State.invEnded (s : State) (p : Nat) (page : Option Nat) : State :=
  ({ s with mmu := { s.mmu with tlb := s.mmu.tlb.keep fun k => !tlbHit p page k, inv := s.mmu.inv.del p } } : State).setFld
    MMU_STAT.INV_BUSY 0 p

theorem State.invEnd_found {p : Nat} {page : Option Nat} (h : s.mmu.inv.find? p = some page) : s.invEnd p = s.invEnded p page := by
  rw [State.invEnd, h]
  rfl

theorem Table.find?_keep {β : Type} [DecidableEq β] (m : Table β) (f : Nat → Bool) (k : Nat) :
    (m.keep f).find? k = if f k then m.find? k else none :=
  findRow_filter f k m.rows

theorem State.tlb_invEnded (p : Nat) (page : Option Nat) (k : Nat) :
    (s.invEnded p page).mmu.tlb.find? k = if tlbHit p page k then none else s.mmu.tlb.find? k := by
  rw [State.invEnded, State.setFld_mmu, Table.find?_keep]
  cases tlbHit p page k <;> rfl

/-- The scope of an invalidation, by the partition and the page of a translation. -/
theorem tlbHit_tlbKey {va : Nat} (hva : va < 2 ^ 48) (p q : Nat) (page : Option Nat) :
    tlbHit p page (tlbKey q va) = true ↔ q = p ∧ (page = none ∨ page = some (va / 4096)) := by
  have hdiv : tlbKey q va / 2 ^ 36 = q := by rw [tlbKey]; omega
  have hmod : tlbKey q va % 2 ^ 36 = va / 4096 := by rw [tlbKey]; omega
  unfold tlbHit
  rw [hdiv, hmod]
  cases page with
  | none => simp
  | some v => simp [eq_comm (a := va / 4096)]

theorem State.frWrite_closed {src p v : Nat} (hsrc : s.mmuWriter src p = true) (hoff : s.flag MMU_FR_CFG.EN p = false) :
    s.frWrite src p v =
      let u := (s.setFld MMU_FR_CFG.EN 0 p).setFld MMU_FR_CFG.LOG2SIZE (bits v 4 0) p
      let n := 32 * 2 ^ bits v 4 0
      if bit v 31 = true ∧ 6 ≤ bits v 4 0 ∧ bits v 4 0 ≤ 12 ∧ isHbm (u.faultRing p) = true ∧
          isHbm (u.faultRing p + n - 1) = true ∧ u.channelsOk p (u.faultRing p) n = true then
        ((u.setFld MMU_FR_CFG.EN 1 p).setReg MMU_FR_HEAD 0 p).setReg MMU_FR_TAIL 0 p
      else u := by
  rw [State.frWrite, if_neg (by simp [hsrc]), if_neg (by simp [hoff])]
  dsimp only
  simp only [Bool.and_eq_true, decide_eq_true_eq, and_assoc]

/-! ## Maintenance of the system cache (R393) -/

theorem State.maintStart_free {src p : Nat} (hsrc : src = p ∨ src = s.manager) (hfree : s.mmu.maint = none) (drop : Bool) :
    s.maintStart src p drop =
      ((s.setMmu fun m => { m with maint := some p, maintDrop := drop }).setFld SYC_MAINT.PTN p).setFld SYC_MAINT.BUSY 1 := by
  rw [State.maintStart, if_neg (by simp [hsrc.symm, hfree])]

theorem mem_of_findRow {β : Type} {k : Nat} {v : β} {m : List (Nat × β)} (h : findRow k m = some v) : (k, v) ∈ m := by
  induction m with
  | nil => cases h
  | cons r m ih =>
    obtain ⟨k', v'⟩ := r
    rw [findRow] at h
    split at h
    next heq =>
      subst heq
      cases h
      exact List.mem_cons_self
    next => exact List.mem_cons_of_mem _ (ih h)

/-- Where no errors stand, a read of lines of HBM meets none. -/
theorem State.meetFlaws_clean {s : State} (h : s.mmu.flaws = .empty) (a n : Nat) : s.meetFlaws a n = s := by
  rw [State.meetFlaws, State.flawsIn, h]
  rfl

theorem State.writeBack_mem {s : State} (h : s.mmu.flaws = .empty) (ways : List Nat) (drop : Bool) :
    (s.writeBack ways drop).mem = s.mem := by
  have hkept : ∀ rs : List (Nat × SycLine), forEach rs (fun r u => u.meetFlaws (r.1 * 64) 64) s = s := fun rs =>
    forEach_keeps (P := fun u => u = s) (fun r u hu => by rw [hu, State.meetFlaws_clean h]) rs rfl
  rw [State.writeBack]
  dsimp only
  rw [hkept]

/-- After a write-back no line of the ways is dirty, and with an invalidation none is held. -/
theorem State.writeBack_lines {s : State} {ways : List Nat} {drop : Bool} {l : Nat} {d : SycLine}
    (hline : (s.writeBack ways drop).syc.find? l = some d) (hway : d.way ∈ ways) : drop = false ∧ d.old = none := by
  have hrow := mem_of_findRow hline
  rw [State.writeBack] at hrow
  dsimp only at hrow
  cases drop with
  | true =>
    rw [if_pos rfl, List.mem_filter] at hrow
    exact absurd hrow.2 (by simp [hway])
  | false =>
    rw [if_neg (by decide), List.mem_map] at hrow
    obtain ⟨⟨k, e⟩, -, heq⟩ := hrow
    refine ⟨rfl, ?_⟩
    dsimp only at heq
    split at heq
    next =>
      rw [Prod.mk.injEq] at heq
      rw [← heq.2]
    next hother =>
      rw [Prod.mk.injEq] at heq
      rw [heq.2] at hother
      exact absurd hway (by simpa using hother)

theorem mem_bitsSet {n x k : Nat} : k ∈ bitsSet n x ↔ k < n ∧ bit x k = true := by
  rw [bitsSet, List.mem_filter, List.mem_range]

/-- The maintenance of partition p's ways has ended. -/
def State.maintEnded (s : State) (p : Nat) : State :=
  ((s.writeBack (bitsSet 16 (s.reg PTN_WAYS p)) s.mmu.maintDrop).setMmu fun m => { m with maint := none }).setFld SYC_MAINT.BUSY 0

theorem State.maintEnd_found {p : Nat} (h : s.mmu.maint = some p) : s.maintEnd = s.maintEnded p := by
  rw [State.maintEnd, h, State.maintEnded]

theorem State.maintEnded_frame (p : Nat) :
    (s.maintEnded p).syc = (s.writeBack (bitsSet 16 (s.reg PTN_WAYS p)) s.mmu.maintDrop).syc ∧
      (s.maintEnded p).mem = (s.writeBack (bitsSet 16 (s.reg PTN_WAYS p)) s.mmu.maintDrop).mem ∧ (s.maintEnded p).mmu.maint = none := by
  rw [State.maintEnded, State.setFld_syc, State.setFld_mem, State.setFld_mmu, State.setMmu_syc, State.setMmu_mem]
  exact ⟨rfl, rfl, rfl⟩

theorem State.maintEnded_busy (p : Nat) : (s.maintEnded p).flag SYC_MAINT.BUSY = false := by
  rw [State.maintEnded, State.flag_setFld_same _ _ _ _ _ (by decide) (by decide)]
  decide

end

/-- Settles O35: each command by the lemma of its operation. What a refresh finds as an error is log 177's choice, how refreshes
are postponed log 108's. -/
theorem memoryCommandsComplete : Obligations.MemoryCommandsComplete := by
  unfold Obligations.MemoryCommandsComplete
  intro p s
  refine ⟨?refresh, ?enable, ?trained, ?disable, ?clear, ?record, ?resolve, ?invAll, ?invPage, ?invDone, ?ring, ?maint, ?maintDone⟩
  case refresh =>
    intro q temp rate hon u clear
    have hexec : ∀ busy : Bool, exec (.refresh q temp rate ⟨busy, none⟩) s = .next (u.refreshDue q busy) := fun busy => by
      rw [exec_refresh, execRefresh, if_pos (show refreshOk (RefreshCase.mk busy none).flaw = true from rfl),
        State.refreshPch_on s hon]
    refine ⟨?_, fun hfew => ?_, fun hmany => ?_⟩
    · rw [hexec, State.refreshDue_idle]
    · rw [hexec, State.refreshDue_postponed _ hfew]
    · rw [hexec, State.refreshDue_revokes _ hmany]
  case enable =>
    intro k hmgr hon
    rw [exec_hbmEnable, execHbmEnable, State.hbmEnable_manager s hmgr hon]
  case trained =>
    intro k hon hen hnew
    rw [exec_hbmTrainDone, execHbmTrainDone, State.hbmTrained_ok s hon hen hnew]
  case disable =>
    intro k hmgr hon hen hfree
    obtain ⟨hctl, hself, htrained⟩ := s.stackOff_flags k
    exact ⟨_, congrArg Host.Outcome.next (s.hbmDisable_manager hmgr hon hen hfree), hctl, hself, htrained, s.stackOff_mem k⟩
  case clear =>
    intro k hmgr hon
    rw [exec_hbmClrCnt, execHbmClrCnt, State.hbmClrCnt_manager s hmgr hon]
  case record =>
    intro r a hslot hdue
    refine ⟨_, congrArg Host.Outcome.next (s.recordFault_slot hslot hdue), s.faultRecorded_tail p a r, fun k b hb => ?_⟩
    rw [State.byte_congr (s.faultRecorded_mem p a r)]
    exact State.byte_store _ _ _ _ _ hb
  case resolve =>
    intro src seq r hsrc hfault u
    rw [exec_mmuResolveRetry, execMmuResolveRetry, exec_mmuResolveFail, execMmuResolveFail, State.resolve_found s hsrc hfault,
      State.resolve_found s hsrc hfault]
    exact ⟨rfl, rfl⟩
  case invAll =>
    intro src hsrc hfree
    obtain ⟨hbusy, herr⟩ := s.invBegun_status p none
    refine ⟨_, congrArg Host.Outcome.next (s.invStart_free hsrc hfree none), hbusy, herr, ?_,
      s.rootOf_invBegun_all p, ?_, s.invBegun_mem p none⟩
    · rw [State.invBegun_mmu, Mmu.invAdded_inv]
    · rw [State.invBegun_mmu, Mmu.invAdded_tlb]
  case invPage =>
    intro src hsrc hfree
    obtain ⟨hbusy, herr⟩ := s.invBegun_status p (some (s.invPage p))
    refine ⟨_, congrArg Host.Outcome.next (s.invStart_free hsrc hfree _), hbusy, herr, ?_,
      s.rootOf_invBegun_page p _, ?_, s.invBegun_mem p _⟩
    · rw [State.invBegun_mmu, Mmu.invAdded_inv]
    · rw [State.invBegun_mmu, Mmu.invAdded_tlb]
  case invDone =>
    intro page hpage
    refine ⟨_, congrArg Host.Outcome.next (s.invEnd_found hpage), ?_, fun va hva => ?_, fun q va hq hva => ?_, ?_⟩
    · rw [State.invEnded, State.flag_setFld_same _ _ _ _ _ (by decide) (by decide)]
      decide
    · rw [State.tlb_invEnded]
      exact if_congr ((tlbHit_tlbKey hva p p page).trans (and_iff_right rfl)) rfl rfl
    · rw [State.tlb_invEnded]
      exact if_neg fun hhit => hq (Fin.ext ((tlbHit_tlbKey hva p q page).1 hhit).1)
    · rw [State.invEnded, State.setFld_mem]
  case ring =>
    intro src v hsrc hoff
    rw [exec_frEnable, execFrEnable, State.frWrite_closed s hsrc hoff]
  case maint =>
    intro src hsrc hfree
    have hsrc' : src.val = p.val ∨ src.val = s.manager := hsrc.imp_left (congrArg Fin.val)
    rw [exec_writeBack, execWriteBack, exec_writeBackInvalidate, execWriteBackInvalidate, State.maintStart_free s hsrc' hfree,
      State.maintStart_free s hsrc' hfree]
    exact ⟨rfl, rfl⟩
  case maintDone =>
    intro hmaint
    obtain ⟨hsyc, hmem, hnone⟩ := s.maintEnded_frame p
    refine ⟨_, congrArg Host.Outcome.next (s.maintEnd_found hmaint), s.maintEnded_busy p, hnone,
      fun l d hline hbit hway => ?_, fun hclean => ?_⟩
    · rw [hsyc] at hline
      exact State.writeBack_lines hline (mem_bitsSet.2 ⟨hway, hbit⟩)
    · rw [hmem, State.writeBack_mem hclean]

end Sys2Proof.Machine
end

section
/-! The commands of retirement, live repair, the leaky buckets and the black-box writer (chapter 19, R425-R443). -/
namespace Sys2Proof.Machine

/-! ## Buckets (R425) -/

/-- What is found under a key of a table whose values are changed or dropped. -/
theorem findRow_filterMap {β : Type} [DecidableEq β] (f : Nat × β → Option (Nat × β)) (hf : ∀ r q, f r = some q → q.1 = r.1)
    (k : Nat) {m : List (Nat × β)} (hm : keysRise none m = true) :
    findRow k (m.filterMap f) = (findRow k m).bind fun v => (f (k, v)).map Prod.snd := by
  induction m with
  | nil => rfl
  | cons r m ih =>
    obtain ⟨k', v'⟩ := r
    have hrise : keysRise (some k') m = true := hm
    by_cases heq : k' = k
    · subst heq
      rw [findRow, if_pos rfl, Option.bind_some]
      cases hrow : f (k', v') with
      | none =>
        rw [List.filterMap_cons_none hrow, Option.map_none]
        exact findRow_none_of_rise (keysRise_filterMap f hf hrise) le_rfl
      | some q =>
        rw [List.filterMap_cons_some hrow, ← Prod.mk.eta (p := q), findRow, if_pos (hf _ _ hrow), Option.map_some]
    · rw [findRow, if_neg heq, ← ih (keysRise_forget hrise)]
      cases hrow : f (k', v') with
      | none => rw [List.filterMap_cons_none hrow]
      | some q =>
        have hkey : q.1 ≠ k := fun h => heq ((hf _ _ hrow).symm.trans h)
        rw [List.filterMap_cons_some hrow, ← Prod.mk.eta (p := q), findRow, if_neg hkey]

/-- A leak's change of one level. -/
def leakRow (k : Nat) (r : Nat × Nat) : Option (Nat × Nat) :=
  if r.1 / 256 ≠ k then some r else if r.2 ≤ 1 then none else some (r.1, r.2 - 1)

theorem leakRow_key (k : Nat) (r q : Nat × Nat) (h : leakRow k r = some q) : q.1 = r.1 := by
  rw [leakRow] at h
  split at h
  · cases h
    rfl
  · split at h
    · cases h
    · cases h
      rfl

section
variable {s : State}

theorem State.leak_due {k : Nat} (h : s.passed (s.bbx.leakAt.getD k 0) (s.leakTicks k) = true) : s.leak k =
    { s with bbx := { s.bbx with
        levels := ⟨s.bbx.levels.rows.filterMap (leakRow k)⟩
        leakAt := s.bbx.leakAt.put k (s.bbx.leakAt.getD k 0 + s.leakTicks k) } } := by
  rw [State.leak, if_neg (not_not_intro h)]
  rfl

/-- A leak lowers the levels of its kind by 1, and no other. -/
theorem State.level_leak {k i : Nat} (hi : i < 256) (hwf : s.bbx.levels.wf (fun _ => 0) = true)
    (h : s.passed (s.bbx.leakAt.getD k 0) (s.leakTicks k) = true) (j : Nat) :
    (s.leak k).level j i = if j = k then s.level j i - 1 else s.level j i := by
  have hrise : keysRise none s.bbx.levels.rows = true := by
    rw [Table.wf, Bool.and_eq_true] at hwf
    exact hwf.1
  have hkind : (j * 256 + i) / 256 = j := by omega
  have hfind := findRow_filterMap (leakRow k) (leakRow_key k) (j * 256 + i) hrise
  simp only [State.leak_due h, State.level, Table.get, Table.find?, hfind]
  cases findRow (j * 256 + i) s.bbx.levels.rows with
  | none => simp
  | some v =>
    rw [Option.bind_some, leakRow, hkind]
    by_cases hjk : j = k
    · by_cases hlow : v ≤ 1
      · simp [hjk, hlow]
      · simp [hjk, hlow]
    · simp [hjk]

/-! ## Live repair and retirement (R32, R429, R432) -/

theorem State.copyDone_spare {c n : Nat} (h : s.repair.spareFor.find? c = some n) (bad : List (BitVec 12)) :
    s.copyDone c bad = forEach bad (fun e u => u.devEvent evScaleLost n [w32 e.toNat] (u.tileOwner n).toList)
      { s with repair := { s.repair with copied := s.repair.copied.put c true, lost := s.repair.lost.put c bad } } := by
  rw [State.copyDone, h]

/-- A drained tile moves by whether its cluster's spare is its own. -/
theorem State.tileMove_drained {n : Nat} (hstate : s.fld SYS_TMAP.STATE n = 3) (hfree : (s.tile n).task = none) : s.tileMove n =
    if s.repair.spareFor.find? (n / 16) ≠ some n then s.goOffline n
    else if s.repair.copied.getD (n / 16) false then s.moveToSpare n else s := by
  rw [State.tileMove, if_neg (by simp [hstate, hfree])]

theorem State.retireByCommand_fresh {src k i : Nat} (hsrc : src = s.manager) (hi : i < kindCount k) (hfresh : s.isRetired k i = false)
    (hkind : k ≠ kPch) : s.retireByCommand src k i = s.retire k i causeCommanded := by
  rw [State.retireByCommand, if_neg (not_not_intro hsrc), if_neg (by simp [hfresh, hi]), if_neg hkind]

theorem State.bktWrite_manager {src : Nat} (hsrc : src = s.manager) (k v : Nat) : s.bktWrite src k v =
    ({ s with bbx := { s.bbx with leakAt := s.bbx.leakAt.put k s.atu.ticks } } : State).writeReg (bktReg k) v := by
  rw [State.bktWrite, if_neg (not_not_intro hsrc)]

/-! ## The writer (R439, R442) -/

theorem State.writerDone_page {n : Nat} (h : s.bbx.op = some (.page n)) : s.writerDone = (s.opEnds.pageDone n).pumpFlash := by
  rw [State.writerDone, h]

theorem State.writerDone_opening {n : Nat} (h : s.bbx.op = some (.opening n)) :
    s.writerDone = (s.opEnds.openingDone n).pumpFlash := by
  rw [State.writerDone, h]

theorem State.openBank_free (hlive : s.bbx.live = true) (hfree : s.bbx.opening = none) :
    s.openBank = ({ s with bbx := { s.bbx with opening := some 0 } } : State).pumpFlash := by
  rw [State.openBank, if_neg (by simp [hlive, hfree])]

theorem State.softwareRecord_manager {src : Nat} (hsrc : src = s.manager) (ev : Nat) : s.softwareRecord src ev =
    (s.setFld BBX_SWCMD.EVENT ev).devEvent (0x0F00 + ev) 0
      ((List.range 8).map fun i => w32 ((s.setFld BBX_SWCMD.EVENT ev).reg BBX_SWREC i)) := by
  rw [State.softwareRecord, if_neg (not_not_intro hsrc)]

end

/-- Settles O38: each command by the lemma of its operation. The moment at which a tile moves is log 42's choice. -/
theorem blackBoxCommandsComplete : Obligations.BlackBoxCommandsComplete := by
  unfold Obligations.BlackBoxCommandsComplete
  intro p s
  refine ⟨?leak, ?copied, ?lost, ?moves, ?offline, ?retires, ?bucket, ?page, ?opening, ?bank, ?record, ?clear⟩
  case leak =>
    intro k i hi hwf hdue
    refine ⟨s.leak k, rfl, ?_, fun j hj => ?_, ?_, ?_⟩
    · rw [State.level_leak hi hwf hdue, if_pos rfl]
    · rw [State.level_leak hi hwf hdue, if_neg (Fin.val_ne_of_ne hj)]
    · rw [State.leak_due hdue]
    · rw [State.leak_due hdue]
  case copied =>
    intro c n hspare
    rw [exec_spareCopyDone, execSpareCopyDone, State.copyDone_spare hspare]
    rfl
  case lost =>
    intro c n bad hspare
    rw [exec_spareCopyDone, execSpareCopyDone, State.copyDone_spare hspare]
  case moves =>
    intro t hstate hfree hspare hcopied
    rw [exec_tileMove, execTileMove, State.tileMove_drained hstate hfree, if_neg (not_not_intro hspare), if_pos hcopied]
  case offline =>
    intro t hstate hfree hspare
    rw [exec_tileMove, execTileMove, State.tileMove_drained hstate hfree, if_pos hspare]
  case retires =>
    intro k i hmgr hi hfresh hkind
    rw [exec_bbxRetire, execBbxRetire, State.retireByCommand_fresh hmgr hi hfresh hkind]
  case bucket =>
    intro k v hmgr
    rw [exec_bktWrite, execBktWrite, State.bktWrite_manager hmgr]
  case page =>
    intro n hop
    rw [exec_pageProgramDone, execPageProgramDone, State.writerDone_page hop]
  case opening =>
    intro n hop
    rw [exec_pageProgramDone, execPageProgramDone, State.writerDone_opening hop]
  case bank =>
    intro hlive hfree
    refine ⟨fun hfull => ?_, fun hmgr => ?_⟩
    · rw [exec_bankOpen, execBankOpen, State.bankFull, if_pos hfull, State.openBank_free hlive hfree]
    · rw [exec_switch, execSwitch, State.bankSwitch, if_pos hmgr, State.openBank_free hlive hfree]
  case record =>
    intro e hmgr
    rw [exec_softwareRecord, execSoftwareRecord, State.softwareRecord_manager hmgr]
  case clear =>
    intro hmgr
    rw [exec_bbxClrCnt, execBbxClrCnt, State.bbxClrCnt, if_pos hmgr]

end Sys2Proof.Machine
end

section
/-! The commands of the Yalelle links (chapter 17, R396-R405, R411): states and lanes, flits, transit and routes. -/
namespace Sys2Proof.Machine

section
variable {s : State} {k : Nat}

/-! ## Link states (R398, R399, R401) -/

/-- A link whose credits fit is enabled and trains; `v` is the state in which its stopped port has started again. -/
theorem State.linkEnable_trains {v : State} {src : Nat} (hsrc : src = s.manager) (hon : s.domOn 75 = true)
    (hv : ({ s with job := { s.job with
      stops := s.job.stops.filter fun x => !(x.kind == 1 && x.port == k && !x.halt) } } : State).releaseStopped = v)
    (hoff : v.flag YAL_LINK_CTL.EN k = false) (hnone : (((v.linkCredits k).drop 1).take 6).all (· != 0) = true)
    (hsum : ((v.linkCredits k).drop 1).foldl (· + ·) 0 ≤ 184) :
    s.linkEnable src k = (v.setFld YAL_LINK_CTL.EN 1 k).setLinkState k linkTrain := by
  have hfit : ¬((((v.linkCredits k).drop 1).take 6).any (· == 0) ||
      decide (184 < ((v.linkCredits k).drop 1).foldl (· + ·) 0)) = true := by
    rw [Bool.or_eq_true, decide_eq_true_eq, List.any_eq_true]
    rintro (⟨x, hx, hzero⟩ | hover)
    · exact absurd (eq_of_beq hzero) (bne_iff_ne.1 (List.all_eq_true.1 hnone x hx))
    · exact absurd hover (Nat.not_lt.2 hsum)
  rw [State.linkEnable, if_neg (by simp [hsrc, hon]), hv]
  dsimp only
  rw [if_neg (by simp [hoff]), if_neg hfit]

theorem State.linkDisable_manager {src : Nat} (hsrc : src = s.manager) (hon : s.domOn 75 = true) :
    s.linkDisable src k = (s.setFld YAL_LINK_CTL.EN 0 k).setLinkState k linkDown := by
  rw [State.linkDisable, if_neg (by simp [hsrc, hon])]

/-- Training that ends with three lanes or more brings the link up with the credits of its registers. -/
theorem State.linkTrained_up {locked : Nat} {peer : Peer} (hworks : s.linksWork = true) (hstate : s.linkState k = linkTrain)
    (hlanes : 3 ≤ popCount (locked &&& s.lanesOk k)) : s.linkTrained k locked peer =
      let u := s.setReg YAL_LINK_STAT
        (s.reg YAL_LINK_STAT k % 2 ^ 13 + peer.chip.toNat * 2 ^ 13 + peer.pos * 2 ^ 25 + peer.link * 2 ^ 28 + b2n peer.idSet * 2 ^ 31) k
      let credit := ((List.range 8).zip (u.linkCredits k)).foldl (fun (m : Table Nat) c => m.set (fun _ => 0) c.1 c.2) .empty
      ((u.setLink k { u.link k with credit := credit }).linkLanes k (locked &&& s.lanesOk k)).kick k := by
  rw [State.linkTrained]
  exact if_neg (by simp [hworks, hstate, hlanes])

theorem State.linkTimeout_late {st : Nat} (hworks : s.linksWork = true) (hstate : s.linkState k = st)
    (hlate : s.passed (s.link k).since (if st = linkTrain then ticksPer100Ms else 40 * ticksPerUs) = true) :
    s.linkTimeout k st = s.setLinkState k linkFailed := by
  rw [State.linkTimeout]
  exact if_neg (by simp [hworks, hstate, hlate])

theorem State.linkRetrain'_usable {src : Nat} (hsrc : src = s.manager) (hon : s.domOn 75 = true) (husable : s.linkUsable k = true) :
    s.linkRetrain' src k = s.setLinkState k linkRetrain := by
  rw [State.linkRetrain', if_neg (by simp [hsrc, hon, husable])]

/-- Retraining in which every lane locks again retires none. -/
theorem State.retrained_whole {locked : Nat} (hworks : s.linksWork = true) (hstate : s.linkState k = linkRetrain)
    (hlanes : 3 ≤ popCount (locked &&& s.lanesOk k)) (hwhole : s.lanesOk k &&& (15 - (locked &&& s.lanesOk k)) = 0) :
    s.retrained k locked =
      let u := s.setFld YAL_LINK_STAT.LANES (locked &&& s.lanesOk k) k
      let v := u.setLink k { u.link k with replay := (u.link k).replay.map fun f => { f with tries := 0 } }
      ((v.linkLanes k (locked &&& s.lanesOk k)).replayAll k).kick k := by
  have hnone : bitsSet 4 0 = [] := by decide
  rw [State.retrained, if_neg (by simp [hworks, hstate, hlanes])]
  dsimp only
  rw [hwhole, hnone]
  rfl

/-! ## Flits, transit and routes (R396, R397, R405, R406) -/

theorem State.flitArrives_usable {bs : List Byte} {fec : Nat} (hworks : s.linksWork = true) (husable : s.linkUsable k = true)
    (hstill : (s.fecErrors k fec).linkUsable k = true) : s.flitArrives k bs fec =
      if field bs 252 4 = crc32c (bs.take 252) then (s.fecErrors k fec).takeFlit k bs else (s.fecErrors k fec).sendNak k := by
  rw [State.flitArrives, if_neg (by simp [hworks, husable])]
  exact if_neg (not_not_intro hstill)

theorem State.transit_forwarded {r : RxPkt} {u v : State} (hworks : s.linksWork = true) (hen : s.flag YAL_CTL.EN = true)
    (htake : (s.takePacket k fun p => p.hops != 0) = some (r, u))
    (hflows : (u.payCredits k r.pkt.vc r.flits).ingressStopped k r.pkt = false)
    (hforward : (u.payCredits k r.pkt.vc r.flits).forwardPacket r.pkt = some v) : s.transit k = v := by
  rw [State.transit, if_neg (by simp [hworks, hen]), htake]
  dsimp only
  rw [if_neg (by simp [hflows]), hforward]

theorem State.routeWrite_manager {src : Nat} (hsrc : src = s.manager) (hon : s.domOn 75 = true) (dst : Nat) (alt : Bool) (v : Nat) :
    s.routeWrite src dst alt v = (s.writeReg (if alt then YAL_RTE_B else YAL_RTE_A) v dst).retryBelays := by
  rw [State.routeWrite, if_neg (by simp [hsrc, hon])]

end

/-! ## Counts (R411) -/

/-- The counts of link k are cleared. -/
def State.clearLinkCnts (s : State) (k : Nat) : State := (s.setReg YAL_LINK_CNT0 0 k).setReg YAL_LINK_CNT1 0 k

/-- The lost messages of ring q are forgotten. -/
def State.clearLost (s : State) (q : Nat) : State := s.setFld YAL_MQ_STAT.LOST 0 q

/-- Link k has counted nothing. -/
def State.LinkCntsZero (k : Nat) (s : State) : Prop := s.reg YAL_LINK_CNT0 k = 0 ∧ s.reg YAL_LINK_CNT1 k = 0

theorem State.linkCntsZero_clear (k : Nat) (s : State) : State.LinkCntsZero k (s.clearLinkCnts k) :=
  ⟨State.reg_setReg_zero _ _ (State.reg_setReg_same _ _ _ _ _), State.reg_setReg_same _ _ _ _ _⟩

theorem State.LinkCntsZero.clearLinkCnts {k : Nat} {s : State} (m : Nat) (h : State.LinkCntsZero k s) :
    State.LinkCntsZero k (s.clearLinkCnts m) :=
  ⟨State.reg_setReg_zero _ _ (State.reg_setReg_zero _ _ h.1), State.reg_setReg_zero _ _ (State.reg_setReg_zero _ _ h.2)⟩

theorem State.LinkCntsZero.clearLost {k : Nat} {s : State} (q : Nat) (h : State.LinkCntsZero k s) :
    State.LinkCntsZero k (s.clearLost q) := by
  have hne : ∀ r : Reg, r = YAL_LINK_CNT0 ∨ r = YAL_LINK_CNT1 → r.addr k 0 ≠ YAL_MQ_STAT.addr q 0 := by
    rintro r (rfl | rfl) <;> simp only [Reg.addr, YAL_LINK_CNT0, YAL_LINK_CNT1, YAL_MQ_STAT] <;> omega
  exact ⟨(s.reg_setFld_other _ _ _ _ _ _ _ (hne _ (.inl rfl))).trans h.1,
    (s.reg_setFld_other _ _ _ _ _ _ _ (hne _ (.inr rfl))).trans h.2⟩

theorem State.lost_clearLost (q : Nat) (s : State) : (s.clearLost q).fld YAL_MQ_STAT.LOST q = 0 :=
  (s.fld_setFld_same _ _ _ _ (by decide) (by decide)).trans (Nat.zero_mod _)

theorem State.lost_clearLost_kept {q : Nat} {s : State} (m : Nat) (h : s.fld YAL_MQ_STAT.LOST q = 0) :
    (s.clearLost m).fld YAL_MQ_STAT.LOST q = 0 := by
  by_cases hqm : q = m
  · rw [hqm, State.lost_clearLost]
  · have hne : YAL_MQ_STAT.LOST.reg.addr q 0 ≠ YAL_MQ_STAT.LOST.reg.addr m 0 := by
      simpa [Reg.addr, YAL_MQ_STAT.LOST, YAL_MQ_STAT] using hqm
    rw [State.clearLost, State.fld_setFld_other _ _ _ _ _ _ _ _ hne, h]

/-- `t` has the memory and the endpoint of `s`. -/
structure EndpointKept (s t : State) : Prop where
  mem : t.mem = s.mem
  yal : t.yal = s.yal

theorem EndpointKept.clearLinkCnts {s t : State} (h : EndpointKept s t) (k : Nat) : EndpointKept s (t.clearLinkCnts k) := by
  constructor
  · rw [State.clearLinkCnts, State.setReg_mem, State.setReg_mem, h.mem]
  · rw [State.clearLinkCnts, State.setReg_yal, State.setReg_yal, h.yal]

theorem EndpointKept.clearLost {s t : State} (h : EndpointKept s t) (q : Nat) : EndpointKept s (t.clearLost q) :=
  ⟨(State.setFld_mem ..).trans h.mem, (State.setFld_yal ..).trans h.yal⟩

theorem State.yalClrCnt_manager {s : State} {src : Nat} (hsrc : src = s.manager) (hon : s.domOn 75 = true) : s.yalClrCnt src =
    forEach (List.range 16) (fun q u => u.clearLost q) (forEach (List.range 8) (fun k u => u.clearLinkCnts k) s) := by
  rw [State.yalClrCnt, if_neg (by simp [hsrc, hon])]
  rfl

/-- Settles O36: each command by the lemma of its operation. That a trained link begins with the credits of its own registers is
log 109's choice. -/
theorem linkCommandsComplete : Obligations.LinkCommandsComplete := by
  unfold Obligations.LinkCommandsComplete
  intro k src s hon
  have hworks : s.linksWork = true := State.linksWork_of_domOn s hon
  refine ⟨?enable, ?disable, ?trained, ?trainLate, ?retrain, ?retrained, ?retrainLate, ?flit, ?transit, ?route, ?clear⟩
  case enable =>
    intro hmgr v cs hoff hnone hsum
    rw [exec_linkEnable, execLinkEnable, State.linkEnable_trains hmgr hon rfl hoff hnone hsum]
  case disable =>
    intro hmgr
    rw [exec_linkDisable, execLinkDisable, State.linkDisable_manager hmgr hon]
  case trained =>
    intro locked peer hstate hlanes
    rw [exec_linkTrainDone, execLinkTrainDone, State.linkTrained_up hworks hstate hlanes]
  case trainLate =>
    intro hstate hlate
    rw [exec_linkTrainTimeout, execLinkTrainTimeout, State.linkTimeout_late hworks hstate hlate]
  case retrain =>
    intro hmgr husable
    rw [exec_retrain, execRetrain, State.linkRetrain'_usable hmgr hon husable]
  case retrained =>
    intro locked hstate hlanes hwhole
    rw [exec_retrainDone, execRetrainDone, State.retrained_whole hworks hstate hlanes hwhole]
  case retrainLate =>
    intro hstate hlate
    rw [exec_retrainTimeout, execRetrainTimeout, State.linkTimeout_late hworks hstate hlate]
  case flit =>
    intro flit fec hlength husable hstill
    rw [exec_flitReceive, execFlitReceive, if_pos (by simp [hlength]), State.flitArrives_usable hworks husable hstill]
  case transit =>
    intro r u v hen htake hflows hforward
    rw [exec_packetTransit, execPacketTransit, State.transit_forwarded hworks hen htake hflows hforward]
  case route =>
    intro dst v hmgr
    rw [exec_routeWrite, execRouteWrite, exec_routeWrite, execRouteWrite, State.routeWrite_manager hmgr hon,
      State.routeWrite_manager hmgr hon]
    exact ⟨rfl, rfl⟩
  case clear =>
    intro hmgr
    have hkept : EndpointKept s (forEach (List.range 16) (fun q u => u.clearLost q)
        (forEach (List.range 8) (fun k u => u.clearLinkCnts k) s)) :=
      forEach_keeps (fun q u hu => hu.clearLost q) _ (forEach_keeps (fun k u hu => hu.clearLinkCnts k) _ ⟨rfl, rfl⟩)
    refine ⟨_, congrArg Host.Outcome.next (State.yalClrCnt_manager hmgr hon), fun j hj => ?_, fun q hq => ?_, hkept.mem, hkept.yal⟩
    · exact forEach_keeps (fun q u hu => hu.clearLost q) _
        (forEach_reaches State.linkCntsZero_clear (fun _ m _ hu => hu.clearLinkCnts m) _ s j (List.mem_range.2 hj))
    · exact forEach_reaches (P := fun q u => u.fld YAL_MQ_STAT.LOST q = 0) (f := fun q u => u.clearLost q) State.lost_clearLost
        (fun _ m _ hu => State.lost_clearLost_kept m hu) _ _ q (List.mem_range.2 hq)

end Sys2Proof.Machine
end

section
/-! Packets that have reached this device (chapter 17, R403-R410): requests served, responses, messages and timeouts. -/
namespace Sys2Proof.Machine
open Sys2Proof.Claims

section
variable {s u v w : State} {k : Nat} {p : Packet}

/-! ## A packet at its destination (R28, R405) -/

theorem State.arrive_here (hid : s.fld SYS_CHIPID.ID_SET ≠ 0) (hme : p.dst = s.chipId) (serve : Packet → State → State) :
    s.arrive k p serve = serve p s := by
  rw [State.arrive, if_neg hid, if_neg (not_not_intro hme)]

/-- The packet at the head of its flow is served in the state that has taken it. -/
theorem State.packetOf_here {kind : Nat} (h : PacketHere s k kind p u) (serve : Packet → State → State) :
    s.packetOf k kind (fun _ _ => true) serve = serve p u := by
  obtain ⟨r, v, htake, rfl, rfl⟩ := h.taken
  rw [State.packetOf, if_neg (by simp [h.on, h.enabled]), htake]
  dsimp only
  rw [if_neg (by simp [h.flows]), State.arrive_here h.hasId h.forMe]

/-! ## Requests (R407, R408) -/

/-- A lookup that allocates nothing changes nothing. -/
theorem State.lookLines_unallocated (q line n : Nat) : s.lookLines q line false n = s := by
  induction n generalizing line with
  | zero => rfl
  | succ n ih => exact ih (line + 1)

/-- A read of local memory that meets no error that persists. -/
theorem State.readLocal_ok {q a n : Nat} (hclear : isHbm a = true → s.readFails a n = false) :
    s.readLocal q a n false = (.ok ((if isHbm a then s.meetFlaws a n else s).read a n), if isHbm a then s.meetFlaws a n else s) := by
  rw [State.readLocal]
  cases hhbm : isHbm a with
  | false => rfl
  | true =>
    rw [if_pos rfl, State.readHbm, if_neg (by simp [hclear hhbm])]
    dsimp only
    rw [State.lookLines_unallocated]
    rfl

theorem State.serveRead_ok {e : MemErr} (herr : s.remoteError p.addr (p.len + 1) = none) (hmem : s.memError p.addr e = (v, false))
    (hclear : isHbm p.addr = true → v.readFails p.addr (p.len + 1) = false)
    (hw : (if isHbm p.addr then v.meetFlaws p.addr (p.len + 1) else v) = w) :
    s.serveRead p e = w.respond (p.reply w.chipId pkRdRsp 0 (w.read p.addr (p.len + 1))) := by
  rw [State.serveRead, herr]
  dsimp only
  rw [hmem]
  dsimp only
  rw [State.readLocal_ok hclear, hw]

theorem State.serveWrite_ok {e : MemErr} (herr : s.remoteError p.addr (p.len + 1) = none) (hmem : s.memError p.addr e = (v, false)) :
    s.serveWrite p e = (v.remoteStore p.addr p.data).respond (p.reply v.chipId pkWrAck 0 []) := by
  rw [State.serveWrite, herr]
  dsimp only
  rw [hmem]

theorem State.serveAtomic_ok {e : MemErr} {n : Nat} (hsize : atomicSize p.op (p.len + 1) = some n) (halign : p.addr % n = 0)
    (htarget : atomicTarget p.addr = true) (herr : s.remoteError p.addr n = none) (hmem : s.memError p.addr e = (v, false)) :
    s.serveAtomic p e = (v.store 0 p.addr (bytesOf n (atomicNew p.op n (v.readNum p.addr n) p.data)) false).respond
      (p.reply v.chipId pkAtomRsp 0 (bytesOf n (v.readNum p.addr n))) := by
  rw [State.serveAtomic, hsize]
  dsimp only
  rw [if_neg (by simp [halign, htarget]), herr]
  dsimp only
  rw [hmem]

/-- A write that is no message is served once its credits are owed. -/
theorem State.writeArrives_here {r : RxPkt} {e : MemErr} (hworks : s.linksWork = true) (hen : s.flag YAL_CTL.EN = true)
    (htake : (s.takePacket k fun p => p.kind == pkWr && p.hops == 0 && !(p.vc == 3 && s.messageAhead k)) = some (r, v))
    (hflows : v.ingressStopped k r.pkt = false) (hplain : isMessage r.pkt.addr (r.pkt.len + 1) = false)
    (hw : w = v.payCredits k r.pkt.vc r.flits) (hid : w.fld SYS_CHIPID.ID_SET ≠ 0) (hme : r.pkt.dst = w.chipId) :
    s.writeArrives k e = w.serveWrite r.pkt e := by
  subst hw
  rw [State.writeArrives, if_neg (by simp [hworks, hen]), htake]
  dsimp only
  rw [if_neg (by simp [hflows]), if_neg (by simp [hplain]), State.arrive_here hid hme]

/-! ## Responses (R403, R410) -/

section
variable {r : OutReq} (hreq : s.yal.reqs.find? p.tag = some r)
include hreq

/-- A response that carries its data closes its request with them. -/
theorem State.serveResponse_data (hsrc : r.dst = p.src) (herr : p.kind ≠ pkErrRsp) (hpool : p.kind ≠ pkGpoolRsp) :
    s.serveResponse p = s.closeRequest p.tag r 0 p.data := by
  rw [State.serveResponse, hreq]
  dsimp only
  rw [if_neg (by simp [hsrc]), if_neg herr, if_neg hpool]

theorem State.serveResponse_error (herr : p.kind = pkErrRsp) : s.serveResponse p = s.closeRequest p.tag r
    (if r.kind = pkGpoolReq ∧ p.op = 1 then fcGthRemoteDenied else errReports p.op) [] := by
  rw [State.serveResponse, hreq]
  dsimp only
  rw [if_neg (by simp [herr]), if_pos herr]

/-- The last packet of a pooling response closes its request with the whole. -/
theorem State.serveResponse_pooled {data : List Byte} (hsrc : r.dst = p.src) (hkind : p.kind = pkGpoolRsp)
    (hlong : s.gatherLong p = (some data, v)) : s.serveResponse p = v.closeRequest p.tag r 0 data := by
  have herr : p.kind ≠ pkErrRsp := by
    rw [hkind]
    decide
  rw [State.serveResponse, hreq]
  dsimp only
  rw [if_neg (by simp [hsrc]), if_neg herr, if_pos hkind, hlong]

end

theorem State.requestTimeout_due {tag : Nat} {r : OutReq} (hreq : s.yal.reqs.find? tag = some r) (hdue : r.due ≤ s.atu.ticks) :
    s.requestTimeout tag = s.closeRequest tag r fcLinkTimeout [] := by
  rw [State.requestTimeout, hreq]
  exact if_pos hdue

/-! ## Belays, pooling and digests (R93, R334, R422) -/

/-- The command that a BELAY packet carries. -/
def State.belayCarried (s : State) (p : Packet) : BelayCmd := BelayCmd.ofWord (field p.data 0 8) (some (p.src, p.srcPtn)) s.now

theorem State.belayArrive_accepted (hop : p.op = 0) (hen : s.flag JOB_PQ_CFG.BL_REMOTE_EN (s.belayCarried p).ptn = true)
    (hlo : 1 ≤ (s.belayCarried p).op) (hhi : (s.belayCarried p).op ≤ 5) :
    s.belayArrive p = s.belayAccept (s.belayCarried p).ptn (s.belayCarried p) (some p.tag) := by
  have hknown : ¬((s.belayCarried p).op = 0 ∨ 5 < (s.belayCarried p).op) := by omega
  rw [State.belayCarried] at hen hknown ⊢
  rw [State.belayArrive]
  dsimp only
  rw [if_neg (by simp [hop]), if_neg (by simp [hop]), if_neg (not_not_intro hen), if_neg hknown]

theorem State.servePool_served {data bs : List Byte} {z : State} (hlong : s.gatherLong p = (some data, v))
    (hflows : ((GReq.ofBytes data).shards.any fun h => v.portStopped 1 k h.ptn) = false)
    (hserve : v.poolServe (GReq.ofBytes data) = (.ok bs, w)) (hsend : w.sendLong (p.reply w.chipId pkGpoolRsp 0 bs) = .ok z) :
    s.servePool k p = z := by
  rw [State.servePool, hlong]
  dsimp only
  rw [if_neg (by simp [hflows]), hserve]
  dsimp only
  rw [hsend]

theorem State.digestPacket_here {r : RxPkt} (hworks : s.linksWork = true) (hen : s.flag YAL_CTL.EN = true)
    (htake : (s.takePacket k fun p => p.kind == pkDigest && p.hops == 0 && (s.digestArrive p).isSome) = some (r, v))
    (hu : v.payCredits k r.pkt.vc r.flits = u) (hflows : u.ingressStopped k r.pkt = false) (hid : u.fld SYS_CHIPID.ID_SET ≠ 0)
    (hme : r.pkt.dst = u.chipId) (harrive : u.digestArrive r.pkt = some w) : s.digestPacket k = w := by
  rw [State.digestPacket, State.packetOf, if_neg (by simp [hworks, hen]), htake]
  dsimp only
  rw [hu, if_neg (by simp [hflows]), State.arrive_here hid hme, harrive, Option.getD_some]

/-! ## Messages (R409) -/

theorem State.messageAppend_taken {q : Nat} {m : HeldMsg} (hfirst : s.waitingMessage q = some m)
    (happend : s.appendMessage q m.rx.pkt m.ts = (some v, w)) : s.messageAppend q = v.dropMessage m := by
  rw [State.messageAppend, hfirst]
  dsimp only
  rw [happend]

theorem State.messageTimeout_late {q : Nat} {m : HeldMsg} (hfirst : s.waitingMessage q = some m)
    (hlate : s.passed m.came (max 1 (s.fld YAL_TMO.TMO) * ticksPerUs) = true) :
    s.messageTimeout q = ((s.dropMessage m).incSat YAL_MQ_STAT.LOST 1 q).refuse m.rx.pkt 1 := by
  rw [State.messageTimeout, hfirst]
  exact if_pos hlate

theorem State.belayHoldTimeout_late {since : Nat} {ps : List (Packet × Nat)} (hfirst : s.yal.belays = (p, since) :: ps)
    (hlate : s.passed since ticksPerMs = true) : s.belayHoldTimeout =
      ({ s with yal := { s.yal with belays := ps } } : State).devEvent evBelayHeld 0 [w32 p.dst] := by
  rw [State.belayHoldTimeout, hfirst]
  exact if_pos hlate

end

/-- Settles O37: a packet that is here is served by the lemma of its type. The layout of a BELAY's payload is log 90's choice, that
of a pooling request log 64's, and what error code 1 of a pooling request reports log 114's. -/
theorem packetCommandsComplete : Obligations.PacketCommandsComplete := by
  unfold Obligations.PacketCommandsComplete
  intro k s u p
  refine ⟨?rdReq, ?rdRsp, ?wr, ?wrAck, ?atom, ?atomRsp, ?errRsp, ?belay, ?gpoolReq, ?gpoolRsp, ?digest, ?append, ?late, ?timeout, ?held⟩
  case rdReq =>
    intro v here herr hmem hclear w
    rw [exec_rdReq, execRdReq, State.packetOf_here here, State.serveRead_ok herr hmem hclear rfl]
  case rdRsp =>
    intro r here hreq hsrc hkind
    rw [exec_rdRsp, execRdRsp, State.packetOf_here here,
      State.serveResponse_data hreq hsrc (by rw [hkind]; decide) (by rw [hkind]; decide)]
  case wr =>
    intro r v w z hworks hen htake hflows hplain hw hid hme herr hmem
    rw [exec_wr, execWr, State.writeArrives_here hworks hen htake hflows hplain hw hid hme, State.serveWrite_ok herr hmem]
  case wrAck =>
    intro r here hreq hsrc hkind
    rw [exec_wrAck, execWrAck, State.packetOf_here here,
      State.serveResponse_data hreq hsrc (by rw [hkind]; decide) (by rw [hkind]; decide)]
  case atom =>
    intro n v here hsize halign htarget herr hmem
    rw [exec_atom, execAtom, State.packetOf_here here, State.serveAtomic_ok hsize halign htarget herr hmem]
  case atomRsp =>
    intro r here hreq hsrc hkind
    rw [exec_atomRsp, execAtomRsp, State.packetOf_here here,
      State.serveResponse_data hreq hsrc (by rw [hkind]; decide) (by rw [hkind]; decide)]
  case errRsp =>
    intro r here hreq hkind
    rw [exec_errRsp, execErrRsp, State.packetOf_here here, State.serveResponse_error hreq hkind]
  case belay =>
    intro here hop hen hlo hhi
    rw [exec_belay, execBelay, State.packetOf_here here, State.belayArrive_accepted hop hen hlo hhi, State.belayCarried]
  case gpoolReq =>
    intro data bs v w z here hlong hflows hserve hsend
    rw [exec_gpoolReq, execGpoolReq, State.packetOf_here here, State.servePool_served hlong hflows hserve hsend]
  case gpoolRsp =>
    intro r data v here hreq hsrc hkind hlong
    rw [exec_gpoolRsp, execGpoolRsp, State.packetOf_here here, State.serveResponse_pooled hreq hsrc hkind hlong]
  case digest =>
    intro r v w hworks hen htake u hflows hid hme harrive
    rw [exec_digest, execDigest, State.digestPacket_here hworks hen htake rfl hflows hid hme harrive]
  case append =>
    intro q m v w hfirst happend
    rw [exec_messageAppend, execMessageAppend, State.messageAppend_taken hfirst happend]
  case late =>
    intro q m hfirst hlate
    rw [exec_messageTimeout, execMessageTimeout, State.messageTimeout_late hfirst hlate]
  case timeout =>
    intro tag r hreq hdue
    rw [exec_requestTimeout, execRequestTimeout, State.requestTimeout_due hreq hdue]
  case held =>
    intro since ps hfirst hlate
    rw [exec_belayHoldTimeout, execBelayHoldTimeout, State.belayHoldTimeout_late hfirst hlate]

end Sys2Proof.Machine
end

section
/-! The commands of DGT (chapter 18, R415-R424): digest areas, result digests, rope pairs and the counts. -/
namespace Sys2Proof.Machine

section
variable {s : State} {j : Nat} {x : Job} {d : DgtJob}

/-! ## Areas and result digests (R417, R418) -/

/-- A job without a list of outputs to compare gets its space where it fits. -/
theorem State.digestAllocate_fits {u : State} {p : Nat} (hnext : s.allocNext p = some (j, x))
    (hen : s.flag DGT_SCR_CFG.EN p = true) (hplain : x.flag 1 = false) (hfits : digestNeed x 0 ≤ 2 ^ s.fld DGT_SCR_CFG.LOG2SIZE p)
    (hspace : s.allocate j x (digestNeed x 0) = some u) : s.digestAllocate p = u := by
  rw [State.digestAllocate, hnext]
  dsimp only
  rw [if_neg (not_not_intro hen), if_neg (by simp [hplain])]
  dsimp only
  rw [if_neg (Nat.not_lt.2 hfits), hspace, Option.getD_some]

/-- The digest of a job that has ended without conflict is complete. -/
theorem State.digestDone_complete (hjob : s.job? j = some x) (hdgt : s.dgt? j = some d) (hphase : x.phase = .draining)
    (hend : x.endTs.isSome = true) (hasked : x.flag 0 = true) (hstatus : x.status < 0x10) (hnew : d.digestDone = false)
    (hagree : d.conflict x.inCount x.outCount = none) : s.digestDone j =
      (s.putDgt j { d with digestDone := true, digest := some (x.resultDigest d x.inCount x.outCount) }).jobFlag j rfDigestValid := by
  have hready : ¬(x.phase ≠ .draining ∨ x.endTs.isNone = true ∨ ¬x.flag 0 = true ∨ 0x10 ≤ x.status ∨
      d.digestDone = true) := by
    simp [hphase, hasked, hnew, hstatus, Option.isSome_iff_ne_none.1 hend]
  rw [State.digestDone, hjob, hdgt]
  dsimp only
  rw [if_neg hready, hagree]

/-! ## Rope pairs (R422, R423) -/

theorem execLockstepCompareEnd_complete (hjob : s.job? j = some x) (hdgt : s.dgt? j = some d) (hcomplete : d.complete = true)
    (hnew : d.compared = false) : execLockstepCompareEnd j s = .next (s.compareEnd j x d false) := by
  rw [execLockstepCompareEnd, hjob, hdgt]
  dsimp only
  rw [if_pos (by simp [hcomplete, hnew])]

theorem execRopeTimeout_late (hjob : s.job? j = some x) (hdgt : s.dgt? j = some d) (hsent : d.endSent = true)
    (hnew : d.compared = false) (hlate : s.passed d.endAt (s.ropeTicks x.ptn) = true) :
    execRopeTimeout j s = .next (s.compareEnd j x d true) := by
  rw [execRopeTimeout, hjob, hdgt]
  dsimp only
  rw [if_pos (by simp [hsent, hnew, hlate])]

theorem execOrphanDiscard_oldest {m : HeldPkt} (hfirst : s.dgt.held.find? s.orphan = some m) : execOrphanDiscard s =
    .next (({ s with dgt := { s.dgt with held := s.dgt.held.erase m } } : State).incSat DGT_ORPHAN.COUNT 1) := by
  rw [execOrphanDiscard, hfirst]

end

/-! ## Counts (R424) -/

/-- The counts of partition p are cleared. -/
def State.clearDgtCnts (s : State) (p : Nat) : State :=
  (((s.setReg DGT_DCNT 0 p).setReg DGT_DIGESTS 0 p).setReg DGT_CHUNKS 0 p).setReg DGT_RCNT 0 p

/-- A register that reads 0 still does when the counts of a partition are cleared. -/
theorem State.reg_clearDgtCnts_zero {s : State} {r : Reg} {i : Nat} (p : Nat) (h : s.reg r i = 0) : (s.clearDgtCnts p).reg r i = 0 :=
  State.reg_setReg_zero _ _ (State.reg_setReg_zero _ _ (State.reg_setReg_zero _ _ (State.reg_setReg_zero _ _ h)))

/-- Partition p has counted nothing. -/
def State.DgtCntsZero (p : Nat) (s : State) : Prop :=
  s.reg DGT_DCNT p = 0 ∧ s.reg DGT_DIGESTS p = 0 ∧ s.reg DGT_CHUNKS p = 0 ∧ s.reg DGT_RCNT p = 0

theorem State.dgtCntsZero_clear (p : Nat) (s : State) : State.DgtCntsZero p (s.clearDgtCnts p) := by
  have hzero : ∀ (u : State) (r : Reg), (u.setReg r 0 p).reg r p = 0 := fun u r => State.reg_setReg_same u r 0 p 0
  exact ⟨State.reg_setReg_zero _ _ (State.reg_setReg_zero _ _ (State.reg_setReg_zero _ _ (hzero _ _))),
    State.reg_setReg_zero _ _ (State.reg_setReg_zero _ _ (hzero _ _)), State.reg_setReg_zero _ _ (hzero _ _), hzero _ _⟩

theorem State.DgtCntsZero.clear {p : Nat} {s : State} (q : Nat) (h : State.DgtCntsZero p s) : State.DgtCntsZero p (s.clearDgtCnts q) := by
  obtain ⟨hconflicts, hdigests, hchunks, hrope⟩ := h
  exact ⟨State.reg_clearDgtCnts_zero q hconflicts, State.reg_clearDgtCnts_zero q hdigests, State.reg_clearDgtCnts_zero q hchunks,
    State.reg_clearDgtCnts_zero q hrope⟩

/-- `t` has the memory and the digest unit of `s`. -/
structure DgtKept (s t : State) : Prop where
  mem : t.mem = s.mem
  dgt : t.dgt = s.dgt

theorem DgtKept.setReg {s t : State} (h : DgtKept s t) (r : Reg) (v i j : Nat) : DgtKept s (t.setReg r v i j) :=
  ⟨(State.setReg_mem ..).trans h.mem, (State.setReg_dgt ..).trans h.dgt⟩

theorem DgtKept.clearDgtCnts {s t : State} (h : DgtKept s t) (p : Nat) : DgtKept s (t.clearDgtCnts p) :=
  (((h.setReg _ _ _ _).setReg _ _ _ _).setReg _ _ _ _).setReg _ _ _ _

theorem State.dgtClrCnt_manager {s : State} {src : Nat} (hsrc : src = s.manager) :
    s.dgtClrCnt src = forEach (List.range 16) (fun p u => u.clearDgtCnts p) (s.setReg DGT_ORPHAN 0) := by
  rw [State.dgtClrCnt, if_neg (not_not_intro hsrc)]
  rfl

/-- Settles O27: each command by the lemma of its operation. -/
theorem digestCommandsComplete : Obligations.DigestCommandsComplete := by
  unfold Obligations.DigestCommandsComplete
  intro p s
  refine ⟨?allocate, ?computed, ?compared, ?late, ?orphan, ?clear⟩
  case allocate =>
    intro j x u hnext hen hplain hfits hspace
    rw [exec_digestAllocate, execDigestAllocate, State.digestAllocate_fits hnext hen hplain hfits hspace]
  case computed =>
    intro j x d hjob hdgt hphase hend hasked hstatus hnew hagree
    rw [exec_digestComputeDone, execDigestComputeDone,
      State.digestDone_complete hjob hdgt hphase hend hasked hstatus hnew hagree]
  case compared =>
    intro j x d hjob hdgt hcomplete hnew
    rw [exec_lockstepCompareEnd, execLockstepCompareEnd_complete hjob hdgt hcomplete hnew]
  case late =>
    intro j x d hjob hdgt hsent hnew hlate
    rw [exec_ropeTimeout, execRopeTimeout_late hjob hdgt hsent hnew hlate]
  case orphan =>
    intro m hfirst
    rw [exec_orphanDiscard, execOrphanDiscard_oldest hfirst]
  case clear =>
    intro hmgr
    have hkept : DgtKept s (forEach (List.range 16) (fun p u => u.clearDgtCnts p) (s.setReg DGT_ORPHAN 0)) :=
      forEach_keeps (fun p u hu => hu.clearDgtCnts p) _ (DgtKept.setReg ⟨rfl, rfl⟩ _ _ _ _)
    refine ⟨_, congrArg Host.Outcome.next (State.dgtClrCnt_manager hmgr), ?_, fun q hq => ?_, hkept.mem, hkept.dgt⟩
    · exact forEach_keeps (P := fun u => u.reg DGT_ORPHAN = 0) (fun p u hu => State.reg_clearDgtCnts_zero p hu) _
        (State.reg_setReg_same _ _ _ _ _)
    · exact forEach_reaches State.dgtCntsZero_clear (fun _ q _ hu => hu.clear q) _ _ q (List.mem_range.2 hq)

end Sys2Proof.Machine
end

section
/-! The commands of the security block (chapter 20, R477-R479): mailboxes and random numbers. -/
namespace Sys2Proof.Machine

section
variable {s : State}

/-- The security block takes a command of partition p into its mailbox. -/
def State.takeMail (s : State) (p op n : Nat) : State :=
  let u := ((s.setFld SEC_MB_STAT.BUSY 1 p).setFld SEC_MB_STAT.ERR 0 p).setFld SEC_MB_STAT.PASS 0 p
  ({ u with sec := { u.sec with waiting := u.sec.waiting.put p { ptn := p, op := op, n := n } } } : State).secNext

/-- A free mailbox takes a known command of its own partition. -/
theorem State.mailbox_free {p op n : Nat} (hon : s.domOn 78 = true) (hfree : s.flag SEC_MB_STAT.BUSY p = false) (hlo : 1 ≤ op)
    (hhi : op ≤ 3) (hn : op = secAttest → n ≤ 16) : s.mailbox p p op n = s.takeMail p op n := by
  have hok : ¬(op < 1 ∨ 3 < op ∨ (op = secAttest ∧ 16 < n)) := by
    rintro (h | h | ⟨hop, h⟩)
    · exact absurd hlo (Nat.not_le.2 h)
    · exact absurd hhi (Nat.not_le.2 h)
    · exact absurd (hn hop) (Nat.not_le.2 h)
  rw [State.mailbox, if_neg (by simp [hon]), if_neg (by simp [hfree]), if_neg hok, State.takeMail]

/-- A signature's check ends with its verdict in PASS. -/
theorem State.secDone_verify {c : SecCmd} (hserving : s.sec.serving = some c) (hop : c.op = secVerify) :
    s.secDone = (s.setFld SEC_MB_STAT.PASS
      (b2n (ecdsaVerify (s.mbData c.ptn 0x20 64) (s.mbData c.ptn 0 32) (s.mbData c.ptn 0x60 64))) c.ptn).secEnd c 0 := by
  rw [State.secDone, hserving]
  exact if_pos hop

/-- Two actions that agree where P holds agree over a list, if the second keeps P. -/
theorem forEach_congr {α : Type} {P : State → Prop} {f g : α → State → State} (hfg : ∀ x u, P u → f x u = g x u)
    (hkeep : ∀ x u, P u → P (g x u)) (xs : List α) (h : P s) : forEach xs f s = forEach xs g s := by
  unfold forEach
  induction xs generalizing s with
  | nil => rfl
  | cons x xs ih => rw [List.foldl_cons, List.foldl_cons, hfg x s h, ih (hkeep x s h)]

/-- The first 32 bytes of DATA are its first 8 words. -/
theorem State.mbData_first (s : State) (p : Nat) : s.mbData p 0 32 = s.wordBytes SEC_MB_DATA p 8 := by
  have hlen : (s.wordBytes SEC_MB_DATA p 8).length = 32 := by
    simp [State.wordBytes, List.length_flatMap, bytesOf_length]
  have hsplit : s.wordBytes SEC_MB_DATA p 64 = s.wordBytes SEC_MB_DATA p 8 ++
      ((List.range 56).map (8 + ·)).flatMap fun k => bytesOf 4 (s.reg SEC_MB_DATA p k) := by
    rw [State.wordBytes, State.wordBytes, ← List.flatMap_append, ← List.range_add]
  rw [State.mbData, List.drop_zero, hsplit, List.take_left' hlen]

theorem State.wordBytes_congr {t : State} {r : Reg} {i n : Nat} (h : ∀ k < n, t.reg r i k = s.reg r i k) :
    t.wordBytes r i n = s.wordBytes r i n := by
  unfold State.wordBytes
  exact List.flatMap_congr fun k hk => by rw [h k (List.mem_range.1 hk)]

/-- The key of partition p from the secret k. -/
def State.derivedKey (s : State) (k : List Byte) (p : Nat) : List Byte := hmac (partitionKey k (s.reg SEC_OWNER_ID) p) (s.mbData p 0 32)

/-- A derived key's words stand clear of what it is derived from: the owner's id and the first 32 bytes of DATA. -/
theorem State.derivedKey_setReg (s : State) (k : List Byte) (p i v : Nat) :
    (s.setReg SEC_MB_DATA v p (32 + i)).derivedKey k p = s.derivedKey k p := by
  have howner : (s.setReg SEC_MB_DATA v p (32 + i)).reg SEC_OWNER_ID = s.reg SEC_OWNER_ID := by
    refine State.reg_setReg_other s ?_ v
    simp only [Reg.addr, SEC_OWNER_ID, SEC_MB_DATA]
    omega
  have hdata : (s.setReg SEC_MB_DATA v p (32 + i)).mbData p 0 32 = s.mbData p 0 32 := by
    rw [State.mbData_first, State.mbData_first]
    refine State.wordBytes_congr fun k hk => State.reg_setReg_other s ?_ v
    simp only [Reg.addr, SEC_MB_DATA]
    omega
  rw [State.derivedKey, State.derivedKey, howner, hdata]

/-- A derivation ends with the partition's key in the words of DATA from 32. -/
theorem State.secDone_derive {c : SecCmd} {k : List Byte} (hserving : s.sec.serving = some c) (hop : c.op = secDerive)
    (hsecret : s.sec.secret = some k) : s.secDone = (forEach (List.range 8) (fun i u =>
      u.setReg SEC_MB_DATA (field (u.derivedKey k c.ptn) (4 * i) 4) c.ptn (32 + i)) s).secEnd c 0 := by
  have hloop := forEach_congr (s := s) (P := fun u => u.derivedKey k c.ptn = s.derivedKey k c.ptn)
    (f := fun i u => u.setReg SEC_MB_DATA (field (u.derivedKey k c.ptn) (4 * i) 4) c.ptn (32 + i))
    (g := fun i u => u.setReg SEC_MB_DATA (field (s.derivedKey k c.ptn) (4 * i) 4) c.ptn (32 + i))
    (fun i u hu => by rw [hu]) (fun i u hu => (State.derivedKey_setReg u k c.ptn i _).trans hu) (List.range 8) rfl
  rw [hloop, State.secDone, hserving]
  refine (if_neg (by simp [hop, secDerive, secVerify])).trans ?_
  rw [hsecret]
  exact if_pos hop

theorem State.trngFail_ok {test : Nat} (hon : s.domOn 78 = true) (hok : s.flag SEC_STAT.TRNG_OK = true) :
    s.trngFail test = ((s.setFld SEC_STAT.TRNG_OK 0).setFld SEC_TRNG_STAT.START 1).devEvent evTrngFail 0 [w32 test] := by
  rw [State.trngFail, if_neg (by simp [hon, hok])]

theorem State.trngStartup_pass (hon : s.domOn 78 = true) (hfailed : s.flag SEC_STAT.TRNG_OK = false) :
    s.trngStartup true = (s.setFld SEC_STAT.TRNG_OK 1).setFld SEC_TRNG_STAT.START 0 := by
  rw [State.trngStartup, if_neg (by simp [hon, hfailed])]

end

/-- Settles O43: each command by the lemma of its operation. That a command's inputs are read as it ends and that PASS is cleared
as a command is taken are the model's choices (log 135). -/
theorem securityCommandsComplete : Obligations.SecurityCommandsComplete := by
  unfold Obligations.SecurityCommandsComplete
  intro p s hon
  refine ⟨?mail, ?verified, ?derived, ?failed, ?passed⟩
  case mail =>
    intro hfree
    refine ⟨fun n hn => ?_, ?_, ?_⟩
    · rw [exec_attest, execAttest, State.mailbox_free hon hfree (by decide) (by decide) fun _ => hn]
      rfl
    · rw [exec_verify, execVerify, State.mailbox_free hon hfree (by decide) (by decide) fun h => absurd h (by decide)]
      rfl
    · rw [exec_derive, execDerive, State.mailbox_free hon hfree (by decide) (by decide) fun h => absurd h (by decide)]
      rfl
  case verified =>
    intro c hserving hop
    rw [exec_secDone, execSecDone, State.secDone_verify hserving hop]
  case derived =>
    intro c k hserving hop hsecret
    rw [exec_secDone, execSecDone, State.secDone_derive hserving hop hsecret]
    rfl
  case failed =>
    intro test hok
    rw [exec_trngFail, execTrngFail, State.trngFail_ok hon hok]
  case passed =>
    intro hfailed
    rw [exec_trngStartupTest, execTrngStartupTest, State.trngStartup_pass hon hfailed]

end Sys2Proof.Machine
end

section
/-! The commands of the harts (chapter 22, R483-R489): control, accesses and interrupts. -/
namespace Sys2Proof.Machine

section
variable {s : State}

/-- A held hart of a domain that is ON starts at its reset vector. -/
theorem State.hartStart_held {src h : Nat} (hsrc : src = s.manager) (hon : s.domOn (hartDomain h) = true)
    (hheld : s.fld ACI_HART_STAT.STATE h = 0) : s.hartStart src h = ({ s with harts := { s.harts with
      entry := s.harts.entry.put h (s.fld ACI_HART_RVEC.RVEC h * 4 + 2 ^ 32 * s.fld ACI_HART_RVHI.RVEC h) } } : State).setFld
        ACI_HART_STAT.STATE 1 h :=
  if_neg (by simp [hsrc, hon, hheld])

/-- What a reset leaves of the harts: nothing of hart h. -/
def Harts.without (x : Harts) (h : Nat) : Harts :=
  { x with
    dirty := ⟨x.dirty.rows.filter fun r => r.2.way != h⟩
    last := x.last.del h
    entry := x.entry.del h
    rsv := x.rsv.del h
    host := x.host.del h }

/-- The manager's reset of a running hart. -/
theorem State.hartReset_running {src h : Nat} (hsrc : src = s.manager) (hruns : s.hartRuns h = true) : s.hartReset src h =
    ({ s with
      yal := { s.yal with reqs := ⟨s.yal.reqs.rows.filter fun r => !(r.2.kind == 1 && r.2.who == h)⟩ }
      harts := s.harts.without h } : State).setFld ACI_HART_STAT.STATE 0 h :=
  if_neg (by simp [hsrc, hruns])

theorem Harts.without_dirty {x : Harts} {h l : Nat} {d : DirtyLine} (hfind : (x.without h).dirty.find? l = some d) : d.way ≠ h := by
  have hmem : (l, d) ∈ x.dirty.rows.filter fun r => r.2.way != h := mem_of_findRow hfind
  simpa using (List.mem_filter.1 hmem).2

/-- A running hart that waits for no answer makes its access. -/
theorem State.coreAccess_running {h g n : Nat} {op : CoreOp} {data : List Byte} {err : CoreErr} {m : MemErr} (hruns : s.hartRuns h = true)
    (hwait : s.harts.last.find? h ≠ some .waiting) : s.coreAccess h op g n data err m =
      if chipOf g ≠ s.chipId then s.coreRemote h (s.hartPtn h) op g n data else s.coreLocal h (s.hartPtn h) op g n data err m := by
  rw [State.coreAccess, if_neg (by simp [hruns, hwait])]

/-- An identity of an interrupt file of a hart that is neither off nor held becomes pending. -/
theorem State.setipnum_pends {p h f v : Nat} (hf : f < 9) (hfile : f ≠ 0 ∨ p = s.manager) (hv : v < 2048) (hv0 : v ≠ 0)
    (hon : s.domOn (hartDomain h) = true) (hup : s.fld ACI_HART_STAT.STATE h ≠ 0) : s.setipnum p h f v =
      { s with harts := { s.harts with imsic := s.harts.imsic.set (fun _ => false) (imsicKey h f v) true } } := by
  have hok : ¬(9 ≤ f ∨ (f = 0 ∧ p ≠ s.manager) ∨ 2048 ≤ v) := by
    rintro (h9 | ⟨h0, hp⟩ | h2048)
    · exact absurd hf (Nat.not_lt.2 h9)
    · exact hfile.elim (fun h => h h0) hp
    · exact absurd hv (Nat.not_lt.2 h2048)
  have hident : (f * 4096 + v) % 2048 = v := by omega
  have hnum : (f * 4096 + v) / 4096 % 16 = f := by omega
  have hkept : s.msiDropped h (f * 4096 + v) = false := by simp [State.msiDropped, hident, hnum, hv0, hf, hon, hup]
  rw [State.setipnum, if_neg hok, State.msiHart, if_neg (by simp [hkept]), hident, hnum]
  rfl

/-- What a wire's level makes of its source: a rising input pends it, and a level-sensitive one follows its input down. -/
theorem State.aplicWire_eq (i : Nat) (level : Bool) : s.aplicWire i level =
    let u : State := { s with harts := { s.harts with wires := s.harts.wires.set wireIdle i level } }
    State.aplicDeliver (if s.aplicInput i = false ∧ u.aplicInput i = true then u.aplicBit aplicIp i true
      else if u.aplicInput i = false ∧ 6 ≤ u.aplicMode i then u.aplicBit aplicIp i false else u) := by
  rw [State.aplicWire]
  dsimp only
  congr 1
  generalize s.aplicInput i = was
  generalize State.aplicInput _ i = now
  cases was <;> cases now <;> simp

end

/-- Settles O44: each command by the lemma of its operation. How the wires of the APLIC pend its sources is presumed (log 150). -/
theorem hartCommandsComplete : Obligations.HartCommandsComplete := by
  unfold Obligations.HartCommandsComplete
  intro p h s
  refine ⟨?start, ?reset, ?access, ?msi, ?source⟩
  case start =>
    intro hmgr hon hheld
    rw [exec_start, execStart, State.hartStart_held hmgr hon hheld]
  case reset =>
    intro hmgr hruns
    refine ⟨_, congrArg Host.Outcome.next (State.hartReset_running hmgr hruns), ?_, ?_, ?_, fun l d hd => ?_, ?_⟩
    · exact State.fld_setFld_same _ _ _ _ _ (by decide) (by decide)
    · rw [State.setFld_harts]
      exact Table.find?_del_same _ _
    · rw [State.setFld_harts]
      exact Table.find?_del_same _ _
    · rw [State.setFld_harts] at hd
      exact Harts.without_dirty hd
    · exact State.setFld_mem ..
  case access =>
    intro op g size data err m hok hruns hwait
    rw [exec_coreAccess, execCoreAccess, if_pos hok, State.coreAccess_running hruns hwait]
  case msi =>
    intro target f v hruns hf hfile hv hv0 hon hup
    exact ⟨_, (if_pos hruns).trans (congrArg Host.Outcome.next (State.setipnum_pends hf hfile hv hv0 hon hup)),
      Table.get_set_same _ _ _ _, fun k hk => Table.get_set_other _ _ hk _, rfl, rfl⟩
  case source =>
    intro i level
    rw [exec_aplicSource, execAplicSource, State.aplicWire_eq]

end Sys2Proof.Machine
end

section
/-! The commands of the PCIe port (chapter 22, R490-R495). -/
namespace Sys2Proof.Machine

section
variable {s : State} {fn : Nat}

/-! ## The link and inbound requests (R490-R492) -/

theorem State.linkChange_up {rate width : Nat} (hon : s.domOn 76 = true) (hperst : s.boot.perst = false)
    (hclk : bit (s.fld CLK_STAT.LOSS) 3 = false) : s.linkChange true rate width = s.pcieLink true rate width := by
  rw [State.linkChange, if_neg (by simp [hon, hperst, hclk]), if_pos rfl]

theorem State.linkChange_down {rate width : Nat} (hon : s.domOn 76 = true) (hup : s.flag PCI_STAT.UP = true) :
    s.linkChange false rate width = s.pcieLink false 0 0 := by
  rw [State.linkChange, if_neg (by simp [hon]), if_neg Bool.false_ne_true, if_pos hup]

/-- With nothing held before it a request is served as it arrives. -/
theorem State.tlpArrives_served {tlp : Tlp} {err : MemErr} {u : State} (hon : s.domOn 76 = true) (hup : s.flag PCI_STAT.UP = true)
    (hheld : s.pci.held = []) (hserve : s.serveTlp s.pci.nextId fn tlp err = (u, true)) :
    s.tlpArrives fn tlp err = u.drainInbound := by
  rw [State.tlpArrives, if_neg (by simp [hon, hup])]
  refine (if_neg (by simp [hheld])).trans ?_
  rw [hserve]

/-! ## Outbound accesses (R493) -/

theorem State.outbound_posted {w : PostedWrite} {ws : List PostedWrite} (hfirst : s.pci.posted = w :: ws)
    (hup : s.flag PCI_STAT.UP = true) :
    s.outbound .posted none = { s with pci := { s.pci with posted := ws }, out := w.out :: s.out } := by
  rw [State.outbound, State.postedLeaves, hfirst]
  exact if_pos hup

theorem State.outbound_stream {t : TileIx} {id : Nat} {r : SReq} (bs : List Byte) (hread : s.hostRead t id = some r)
    (htarget : (s.pcieTarget (localOf r.ga)).isSome = true) (hup : s.flag PCI_STAT.UP = true) :
    s.outbound (.stream t id) (some bs) = s.answerReq t r 0 bs := by
  rw [State.outbound, hread]
  dsimp only
  rw [if_neg (by simp [Option.isSome_iff_ne_none.1 htarget]), if_neg (not_not_intro hup)]

theorem State.outbound_hart {h : HartIx} {a n sent : Nat} (bs : List Byte) (hload : s.harts.host.find? h = some (a, n, sent))
    (htarget : (s.pcieTarget a).isSome = true) (hup : s.flag PCI_STAT.UP = true) :
    s.outbound (.hart h) (some bs) = s.hartValue h (ofBytes (fitBytes n bs)) := by
  rw [State.outbound, hload]
  dsimp only
  rw [if_neg (by simp [Option.isSome_iff_ne_none.1 htarget]), if_neg (not_not_intro hup)]

theorem State.cplTimeout_stream_late {t : TileIx} {id : Nat} {r : SReq} (hread : s.hostRead t id = some r)
    (hlate : s.passed r.sent s.ctoTicks = true) : s.cplTimeout (.stream t id) = s.answerReq t r fcLinkTimeout [] := by
  rw [State.cplTimeout, hread]
  exact if_pos hlate

theorem State.postedDrop_late {w : PostedWrite} {ws : List PostedWrite} {r : Nat} (hfirst : s.pci.posted = w :: ws)
    (hdown : s.flag PCI_STAT.UP = false) (hlate : s.passed w.came s.ctoTicks = true) (hregion : w.region = some r) : s.postedDrop =
      let u : State := { s with pci := { s.pci with posted := ws } }
      u.event evPcieOutDrop (u.fnPtn (u.fld PCI_OB_CFG.FN r)) r [] := by
  rw [State.postedDrop, hfirst]
  dsimp only
  rw [if_neg (by simp [hdown, hlate]), hregion]

/-! ## MSI-X (R494) -/

/-- The function with its vector's mask bit clear. -/
def PciFn.unmask (f : PciFn) (v : Nat) : PciFn := { f with tbl := f.tbl.set msixReset (4 * v + 3) 0 }

theorem PciFn.masked_unmask (f : PciFn) (v : Nat) : (f.unmask v).masked v = false := by
  rw [PciFn.masked, PciFn.msixWord, PciFn.unmask, Table.get_set_same]
  rfl

theorem State.pciFn_setPciFn (s : State) (fn : Nat) (f : PciFn) : (s.setPciFn fn f).pciFn fn = f := by
  rw [State.pciFn, State.setPciFn, Table.getD_put_same]

theorem State.msixWrite_unmask (s : State) (fn v : Nat) :
    s.msixWrite fn (4 * v + 3) 0 = (s.setPciFn fn ((s.pciFn fn).unmask v)).unmasked fn v := by
  have hword : (4 * v + 3) % 4 = 3 := by omega
  have hvec : (4 * v + 3) / 4 = v := by omega
  rw [State.msixWrite, if_pos hword, hvec]
  rfl

/-- A pending vector is sent as it is unmasked. -/
theorem State.msixWrite_sends {v : Nat} (hon : (s.pciFn fn).msixOn = true) (hpend : (s.pciFn fn).pba.get (fun _ => false) v = true) :
    s.msixWrite fn (4 * v + 3) 0 = ((s.setPciFn fn ((s.pciFn fn).unmask v)).setPciFn fn
      { (s.pciFn fn).unmask v with pba := (s.pciFn fn).pba.set (fun _ => false) v false }).sendMsix fn v := by
  rw [State.msixWrite_unmask, State.unmasked, State.pciFn_setPciFn]
  exact if_pos ⟨hon, by simp [PciFn.masked_unmask], hpend⟩

/-- With MSI-X off or nothing pending only the mask changes. -/
theorem State.msixWrite_quiet {v : Nat} (hquiet : (s.pciFn fn).msixOn = false ∨ (s.pciFn fn).pba.get (fun _ => false) v = false) :
    s.msixWrite fn (4 * v + 3) 0 = s.setPciFn fn ((s.pciFn fn).unmask v) := by
  rw [State.msixWrite_unmask, State.unmasked, State.pciFn_setPciFn]
  refine if_neg ?_
  rintro ⟨hon, -, hpend⟩
  rcases hquiet with hoff | hnone
  · exact Bool.false_ne_true (hoff.symm.trans hon)
  · exact Bool.false_ne_true (hnone.symm.trans hpend)

/-! ## PCIE_PERST_N (R495) -/

section
variable (hperst : s.boot.perst = false) (hboot : s.boot.state ≠ 0) (hporst : s.boot.porst = true) (hstop : s.power.stop = none)
include hperst hboot hporst hstop

theorem State.perstFalls_device (hrst : s.flag PCI_CTL.PERST_RST = true) :
    s.perstFalls = ({ s with boot := { s.boot with perst := true } } : State).deviceReset 32 := by
  rw [State.perstFalls, if_neg (by simp [hperst])]
  dsimp only
  rw [if_neg (by simp [hboot, hporst, hstop])]
  exact if_pos hrst

theorem State.perstFalls_pci (hrst : s.flag PCI_CTL.PERST_RST = false) (hon : s.domOn 76 = true) :
    s.perstFalls = ({ s with boot := { s.boot with perst := true } } : State).pciReset := by
  rw [State.perstFalls, if_neg (by simp [hperst])]
  dsimp only
  rw [if_neg (by simp [hboot, hporst, hstop])]
  exact (if_neg (Bool.eq_false_iff.1 hrst)).trans (if_pos hon)

end

end

/-- Settles O45: each command by the lemma of its operation. -/
theorem pcieCommandsComplete : Obligations.PcieCommandsComplete := by
  unfold Obligations.PcieCommandsComplete
  intro fn s
  refine ⟨?up, ?down, ?inbound, ?posted, ?stream, ?hart, ?timeout, ?drop, fun v => ⟨?sends, ?quiet⟩, ?unmasked, ?flr, ?perst, rfl⟩
  case up =>
    intro rate width hon hok hperst hclk
    rw [exec_pcieLinkChange, execPcieLinkChange, if_pos hok, State.linkChange_up hon hperst hclk]
  case down =>
    intro rate width hon hok hup
    rw [exec_pcieLinkChange, execPcieLinkChange, if_pos hok, State.linkChange_down hon hup]
  case inbound =>
    intro tlp err u hon hup hok hheld hserve
    rw [exec_pcieInbound, execPcieInbound, if_pos hok, State.tlpArrives_served hon hup hheld hserve]
  case posted =>
    intro w ws hfirst hup
    rw [exec_pcieOutbound, execPcieOutbound, if_pos (by decide), State.outbound_posted hfirst hup]
  case stream =>
    intro t id r bs hlen hread htarget hup
    rw [exec_pcieOutbound, execPcieOutbound, if_pos (by simpa [completionOk] using hlen), State.outbound_stream bs hread htarget hup]
  case hart =>
    intro h a n sent bs hlen hload htarget hup
    rw [exec_pcieOutbound, execPcieOutbound, if_pos (by simpa [completionOk] using hlen), State.outbound_hart bs hload htarget hup]
  case timeout =>
    intro t id r hread hlate
    rw [exec_pcieCompletionTimeout, execPcieCompletionTimeout, State.cplTimeout_stream_late hread hlate]
  case drop =>
    intro w ws r hfirst hdown hlate hregion
    rw [exec_postedWriteDrop, execPostedWriteDrop, State.postedDrop_late hfirst hdown hlate hregion]
  case sends =>
    intro hon hpend
    rw [exec_msixUnmask, execMsixUnmask, State.msixWrite_sends hon hpend]
    rfl
  case quiet =>
    intro hquiet
    rw [exec_msixUnmask, execMsixUnmask, State.msixWrite_quiet hquiet]
    rfl
  case unmasked =>
    intro v hoff
    refine ⟨_, congrArg Host.Outcome.next (State.msixWrite_quiet (.inl hoff)), ?_, rfl, rfl⟩
    rw [State.pciFn_setPciFn, PciFn.masked_unmask]
  case flr =>
    intro hon
    exact if_pos hon
  case perst =>
    intro hperst hboot hporst hstop
    refine ⟨fun hrst => ?_, fun hrst hon => ?_⟩
    · rw [exec_pciePerst, execPciePerst, State.perstFalls_device hperst hboot hporst hstop hrst]
    · rw [exec_pciePerst, execPciePerst, State.perstFalls_pci hperst hboot hporst hstop hrst hon]

end Sys2Proof.Machine
end

section
/-! The commands of the Ethernet ports (chapter 22, R496-R499): links, frames and queues. -/
namespace Sys2Proof.Machine

section
variable {s : State}

/-! ## Ports (R496, R497) -/

/-- Port n has lanes under its quad's mode, and none of them is retired. -/
def State.LanesFit (s : State) (n : Nat) : Prop := s.portLanes n ≠ [] ∧ ((s.portLanes n).any fun l => s.isRetired kEth l) = false

theorem State.ethLinkChange_down (n : Nat) (hon : s.domOn 74 = true) : s.ethLinkChange n false = s.ethLink n false := by
  rw [State.ethLinkChange, if_neg (by simp [hon]), if_pos Bool.false_ne_true]

/-- The link of an enabled port whose lanes fit comes up while the clock is there. -/
theorem State.ethLinkChange_up {n : Nat} (hon : s.domOn 74 = true) (hen : s.flag ETH_PORT_CTL.EN n = true) (hfit : s.LanesFit n)
    (hclk : bit (s.fld CLK_STAT.LOSS) 2 = false) : s.ethLinkChange n true = s.ethLink n true := by
  obtain ⟨hlanes, hretired⟩ := hfit
  rw [State.ethLinkChange, if_neg (by simp [hon]), if_neg (not_not_intro rfl), if_pos]
  rw [hen, hretired, hclk]
  simp [hlanes]

/-- Port n starts again: the stops of it that no halt made are lifted. -/
def State.portStarts (s : State) (n : Nat) : State :=
  { s with job := { s.job with stops := s.job.stops.filter fun x => !(x.kind == 0 && x.port == n && !x.halt) } }

theorem State.mem_portStarts_stops {n : Nat} {x : PortStop} :
    x ∈ (s.portStarts n).job.stops ↔ x ∈ s.job.stops ∧ ¬(x.kind = 0 ∧ x.port = n ∧ x.halt = false) := by
  have hkeep : (!(x.kind == 0 && x.port == n && !x.halt)) = true ↔ ¬(x.kind = 0 ∧ x.port = n ∧ x.halt = false) := by
    rw [Bool.not_eq_true', ← Bool.not_eq_true, Bool.and_eq_true, Bool.and_eq_true, beq_iff_eq, beq_iff_eq, Bool.not_eq_true', and_assoc]
  rw [State.portStarts, List.mem_filter, hkeep]

theorem State.ethPortWrite_enable {src n : Nat} (hsrc : src = s.manager) (hon : s.domOn 74 = true) (hfit : s.LanesFit n) :
    s.ethPortWrite src n 1 = (s.portStarts n).setFld ETH_PORT_CTL.EN 1 n := by
  obtain ⟨hlanes, hretired⟩ := hfit
  have hgo : ¬((s.portLanes n).isEmpty = true ∨ ((s.portLanes n).any fun l => s.isRetired kEth l) = true) := by
    simp [hlanes, hretired]
  rw [State.ethPortWrite, if_neg (by simp [hsrc, hon]), if_neg (by decide)]
  exact if_neg hgo

theorem State.pfcArrives_up {n prio : Nat} {on : Bool} (hon : s.domOn 74 = true) (hlink : s.flag ETH_PORT_STAT.LINK n = true) :
    s.pfcArrives n prio on = s.setFld ETH_PORT_STAT.PAUSED (setBits (s.fld ETH_PORT_STAT.PAUSED n) prio prio (b2n on)) n :=
  if_neg (by simp [hon, hlink])

/-! ## Received frames (R498) -/

section
variable {n : Nat} (frame : List Byte) (hon : s.domOn 74 = true) (hen : s.flag ETH_PORT_CTL.EN n = true)
  (hlink : s.flag ETH_PORT_STAT.LINK n = true)
include hon hen hlink

theorem State.frameArrives_bad : s.frameArrives n frame false = s.incSat ETH_PORT_STAT.RX_ERR 1 n := by
  rw [State.frameArrives, if_neg (by simp [hon, hen, hlink]), if_pos Bool.false_ne_true]

/-- A good frame of a port that runs is steered, unless it is forwarded. -/
theorem State.frameArrives_steered (hruns : (s.job.stops.any fun x => x.kind == 0 && x.port == n && x.whole) = false)
    (hfwd : s.fwdEntry n frame = none) : s.frameArrives n frame true = s.steer n frame false := by
  rw [State.frameArrives, if_neg (by simp [hon, hen, hlink]), if_neg (not_not_intro rfl), if_neg (by simp [hruns]), hfwd]

end

/-! ## Transmitted frames (R499) -/

/-- Address of the next descriptor of transmit queue q. -/
def State.txDesc (s : State) (q : Nat) : Nat :=
  ethAddr (s.reg ETH_Q_TX q) + 32 * (s.reg ETH_Q_TXHEAD q % ringSize (s.fld ETH_Q_CFG.LOG2SIZE q))

/-- A descriptor that can be read names a frame that can be read, whose port is free. -/
theorem State.transmit_sends {q : Nat} {r bs : List Byte} {u v : State} (hon : s.domOn 74 = true) (hen : s.flag ETH_Q_CFG.EN q = true)
    (hsome : s.reg ETH_Q_TXHEAD q ≠ s.reg ETH_Q_TXTAIL q) (hdesc : s.accessError (s.txDesc q) 32 = none)
    (hread : s.readLocal (s.fld ETH_Q_CFG.PTN q) (s.txDesc q) 32 false = (.ok r, u))
    (hmin : 60 ≤ field r 8 2) (hmax : field r 8 2 ≤ 9224)
    (hmem : frameMemory (field r 0 6 % 2 ^ 40) = true) (hframe : u.accessError (field r 0 6 % 2 ^ 40) (field r 8 2) = none)
    (hbytes : u.readLocal (s.fld ETH_Q_CFG.PTN q) (field r 0 6 % 2 ^ 40) (field r 8 2) false = (.ok bs, v))
    (hfree : v.portFree (field r 10 1 % 16) bs = true) :
    s.transmit q = (v.sendFrame (field r 10 1 % 16) bs).txAdvance q (bit (field r 11 1) 0) := by
  have hok : ¬(field r 8 2 < 60 ∨ 9224 < field r 8 2 ∨ ¬frameMemory (field r 0 6 % 2 ^ 40) = true ∨
      (u.accessError (field r 0 6 % 2 ^ 40) (field r 8 2)).isSome = true) := by
    rw [hmem, hframe]
    simp [hmin, hmax]
  rw [State.txDesc] at hdesc hread
  rw [State.transmit]
  dsimp only
  rw [if_neg (by simp [hon, hen, hsome, hdesc]), hread]
  refine (if_neg hok).trans ?_
  dsimp only [Except.toOption, Option.getD]
  rw [hbytes]
  exact if_pos hfree

theorem State.forwardFrame_sends {n : Nat} {f : FwdFrame} {rest : List FwdFrame} (hon : s.domOn 74 = true)
    (hfirst : s.eth.fwd.getD n [] = f :: rest) (hfree : s.portFree n f.bytes = true) : s.forwardFrame n =
      let u := s.sendFrame n (s.residence n f)
      ({ u with eth := { u.eth with fwd := if rest.isEmpty then u.eth.fwd.del n else u.eth.fwd.put n rest } } : State).flowControl
        f.ingress (pcpOf f.bytes) := by
  rw [State.forwardFrame, hfirst]
  exact if_neg (by simp [hon, hfree])

theorem State.ethTail_taken {q t : Nat} (hhead : dist32 t (s.reg ETH_Q_TXHEAD q) ≤ ringSize (s.fld ETH_Q_CFG.LOG2SIZE q))
    (htail : dist32 t (s.reg ETH_Q_TXTAIL q) ≤ ringSize (s.fld ETH_Q_CFG.LOG2SIZE q)) :
    s.ethTail q t = s.setReg ETH_Q_TXTAIL t q :=
  if_pos ⟨hhead, htail⟩

end

/-- Settles O46: each command by the lemma of its operation. -/
theorem ethernetCommandsComplete : Obligations.EthernetCommandsComplete := by
  unfold Obligations.EthernetCommandsComplete
  intro p n s hon
  refine ⟨?down, ?up, ?enable, ?receive, ?pause, ?transmit, ?forward, ?tail⟩
  case down => rw [exec_ethLinkChange, execEthLinkChange, State.ethLinkChange_down n hon]
  case up =>
    intro hen hlanes hretired hclk
    rw [exec_ethLinkChange, execEthLinkChange, State.ethLinkChange_up hon hen ⟨hlanes, hretired⟩ hclk]
  case enable =>
    intro hmgr hlanes hretired
    refine ⟨_, congrArg Host.Outcome.next (State.ethPortWrite_enable hmgr hon ⟨hlanes, hretired⟩), ?_, fun x => ?_,
      State.setFld_mem ..⟩
    · rw [State.flag, State.fld_setFld_same _ _ _ _ _ (by decide) (by decide)]
      rfl
    · rw [State.setFld_job, State.mem_portStarts_stops]
  case receive =>
    intro frame hok hen hlink hruns hfwd
    constructor
    · rw [exec_ethFrameReceive, execEthFrameReceive, if_pos hok, State.frameArrives_steered frame hon hen hlink hruns hfwd]
    · rw [exec_ethFrameReceive, execEthFrameReceive, if_pos hok, State.frameArrives_bad frame hon hen hlink]
  case pause =>
    intro prio on hlink
    rw [exec_pfcReceive, execPfcReceive, State.pfcArrives_up hon hlink]
  case transmit =>
    intro q r bs u v hen hsome d a hdesc hread hmin hmax hmem hframe hbytes hfree
    rw [exec_ethFrameTransmit, execEthFrameTransmit,
      State.transmit_sends hon hen hsome hdesc hread hmin hmax hmem hframe hbytes hfree]
  case forward =>
    intro f rest hfirst hfree
    rw [exec_ethFrameTransmit, execEthFrameTransmit, State.forwardFrame_sends hon hfirst hfree]
  case tail =>
    intro q t hwriter hhead htail
    rw [exec_ethTxtail, execEthTxtail, if_pos hwriter, State.ethTail_taken hhead htail]

end Sys2Proof.Machine
end

section
/-! Numbers, bytes and memory: what is read back after a write, register arrays that show bytes, and the sizes of check values. -/
namespace Sys2Proof.Machine

/-! ## Bytes and numbers -/

theorem ofBytes_bytesOf (n x : Nat) : ofBytes (bytesOf n x) = x % 256 ^ n := by
  induction n generalizing x with
  | zero => rw [Nat.pow_zero, Nat.mod_one]; rfl
  | succ n ih =>
    have hbyte : (BitVec.ofNat 8 (x % 256)).toNat = x % 256 := by
      rw [BitVec.toNat_ofNat]
      exact Nat.mod_mod x 256
    rw [bytesOf, ofBytes, ih, hbyte, Nat.pow_succ', Nat.mod_mul]

theorem bytesOf_ofBytes {n : Nat} {bs : List Byte} (hlen : bs.length = n) : bytesOf n (ofBytes bs) = bs := by
  subst hlen
  induction bs with
  | nil => rfl
  | cons b bs ih =>
    have hb := b.isLt
    have hlow : (b.toNat + 256 * ofBytes bs) % 256 = b.toNat := by omega
    have hrest : (b.toNat + 256 * ofBytes bs) / 256 = ofBytes bs := by omega
    rw [List.length_cons, ofBytes, bytesOf, hlow, hrest, ih, BitVec.ofNat_toNat, BitVec.setWidth_eq]

theorem ofBytes_lt (bs : List Byte) : ofBytes bs < 256 ^ bs.length := by
  induction bs with
  | nil => exact Nat.one_pos
  | cons b bs ih =>
    have hb := b.isLt
    rw [ofBytes, List.length_cons, Nat.pow_succ]
    omega

theorem field_lt_pow (bs : List Byte) (off n : Nat) : field bs off n < 256 ^ n :=
  Nat.lt_of_lt_of_le (ofBytes_lt _) (Nat.pow_le_pow_right (by decide) (List.length_take_le n _))

/-- A byte list in words is the list. -/
theorem flatMap_words (n : Nat) (bs : List Byte) (hlen : bs.length = 4 * n) :
    ((List.range n).flatMap fun k => bytesOf 4 (field bs (4 * k) 4)) = bs := by
  induction n generalizing bs with
  | zero => exact (List.eq_nil_of_length_eq_zero hlen).symm
  | succ n ih =>
    have hfirst : bytesOf 4 (field bs (4 * 0) 4) = bs.take 4 := by
      rw [field, Nat.mul_zero, List.drop_zero]
      exact bytesOf_ofBytes (by rw [List.length_take]; omega)
    have hrest : ((List.range n).flatMap fun k => bytesOf 4 (field bs (4 * (k + 1)) 4)) = bs.drop 4 := by
      rw [← ih (bs.drop 4) (by rw [List.length_drop]; omega)]
      refine List.flatMap_congr fun k _ => ?_
      rw [field, field, List.drop_drop, Nat.mul_succ, Nat.add_comm]
    rw [List.range_succ_eq_map, List.flatMap_cons, List.flatMap_map, hfirst]
    exact (congrArg _ hrest).trans (List.take_append_drop 4 bs)

theorem sha256_length (bs : List Byte) : (sha256 bs).length = 32 := by
  rw [sha256, List.length_reverse, bytesOf_length]

/-! ## CRC32C -/

theorem revBits_lt (n x : Nat) : revBits n x < 2 ^ n := by
  induction n generalizing x with
  | zero => exact Nat.one_pos
  | succ n ih =>
    have hrest := ih (x / 2)
    have hbit : x % 2 * 2 ^ n ≤ 1 * 2 ^ n := Nat.mul_le_mul_right _ (by omega)
    rw [revBits, Nat.pow_succ]
    omega

theorem crcBitLsb_lt {c : CrcCode} {v : Nat} (hv : v < 2 ^ c.width) (b : Nat) : crcBitLsb c v b < 2 ^ c.width := by
  have hhalf : v / 2 < 2 ^ c.width := Nat.lt_of_le_of_lt (Nat.div_le_self v 2) hv
  rw [crcBitLsb]
  split
  · exact Nat.xor_lt_two_pow hhalf (revBits_lt _ _)
  · exact hhalf

theorem crcFeedBits_lt {c : CrcCode} (hc : c.reflected = true) (bs : List Nat) {v : Nat} (hv : v < 2 ^ c.width) :
    crcFeedBits c v bs < 2 ^ c.width := by
  induction bs generalizing v with
  | nil => exact hv
  | cons b bs ih =>
    rw [crcFeedBits, if_pos hc]
    exact ih (crcBitLsb_lt hv b)

theorem crcFeed_lt {c : CrcCode} (hc : c.reflected = true) (bs : List Byte) {v : Nat} (hv : v < 2 ^ c.width) :
    crcFeed c v bs < 2 ^ c.width := by
  rw [crcFeed]
  induction bs generalizing v with
  | nil => exact hv
  | cons b bs ih => exact ih (crcFeedBits_lt hc _ hv)

theorem crc32c_lt (bs : List Byte) : crc32c bs < 2 ^ 32 :=
  Nat.xor_lt_two_pow (crcFeed_lt (c := crcCode 7) rfl bs (by decide)) (by decide)

/-! ## Memory -/

section
variable {s : State}

theorem State.read_eq_map (s : State) (a n : Nat) : s.read a n = (List.range n).map fun k => s.byte (a + k) := by
  induction n generalizing a with
  | zero => rfl
  | succ n ih =>
    rw [State.read, ih, List.range_succ_eq_map, List.map_cons, List.map_map]
    refine congrArg _ (List.map_congr_left fun k _ => ?_)
    rw [Function.comp_apply, Nat.succ_eq_add_one, Nat.add_assoc, Nat.add_comm 1 k]

theorem State.read_length (s : State) (a n : Nat) : (s.read a n).length = n := by
  rw [State.read_eq_map, List.length_map, List.length_range]

/-- What lies within written bytes reads as written. -/
theorem State.read_poke_within (a : Nat) (bs : List Byte) {off n : Nat} (h : off + n ≤ bs.length) :
    (s.poke a bs).read (a + off) n = (bs.drop off).take n := by
  refine List.ext_getElem (by rw [State.read_length, List.length_take, List.length_drop]; omega) fun k hk hk' => ?_
  rw [State.read_length] at hk
  simp only [State.read_eq_map, List.getElem_map, List.getElem_range, List.getElem_take, List.getElem_drop, Nat.add_assoc]
  exact s.byte_poke_same a bs (by omega)

theorem State.read_congr {t : State} (h : t.mem = s.mem) (a n : Nat) : t.read a n = s.read a n := by
  rw [State.read_eq_map, State.read_eq_map]
  exact List.map_congr_left fun k _ => State.byte_congr h _

/-! ## Register arrays that show bytes (R461) -/

/-- Words that a register array does not hold stay. -/
theorem State.reg_setWords_other {q r : Reg} {i j k : Nat} (bs : List Byte) {n : Nat} (h : ∀ l < n, q.addr j k ≠ r.addr i l) :
    (s.setWords r i bs n).reg q j k = s.reg q j k := by
  induction n with
  | zero => rfl
  | succ n ih =>
    rw [State.setWords, State.reg_setReg_other _ (h n (Nat.lt_succ_self n)), ih fun l hl => h l (Nat.lt_succ_of_lt hl)]

theorem State.reg_setWords_same {r : Reg} {i k : Nat} (bs : List Byte) {n : Nat} (hst : 0 < r.st2) (hk : k < n) :
    (s.setWords r i bs n).reg r i k = field bs (4 * k) 4 % 2 ^ 32 := by
  induction n with
  | zero => exact absurd hk (Nat.not_lt_zero k)
  | succ n ih =>
    rw [State.setWords]
    by_cases hkn : k = n
    · rw [hkn, State.reg_setReg_same]
    · have haddr : r.addr i k ≠ r.addr i n := by
        have := mt (Nat.eq_of_mul_eq_mul_left hst) hkn
        simp only [Reg.addr]
        omega
      rw [State.reg_setReg_other _ haddr, ih (by omega)]

theorem State.setWords_mem (r : Reg) (i : Nat) (bs : List Byte) (n : Nat) : (s.setWords r i bs n).mem = s.mem := by
  induction n with
  | zero => rfl
  | succ n ih => rw [State.setWords, State.setReg_mem, ih]

/-- A register array shows the bytes written to it. -/
theorem State.wordBytes_setWords {r : Reg} {i n : Nat} {bs : List Byte} (hst : 0 < r.st2) (hlen : bs.length = 4 * n) :
    (s.setWords r i bs n).wordBytes r i n = bs := by
  calc (s.setWords r i bs n).wordBytes r i n
      = (List.range n).flatMap fun k => bytesOf 4 (field bs (4 * k) 4) :=
        List.flatMap_congr fun k hk => by
          rw [State.reg_setWords_same bs hst (List.mem_range.1 hk), Nat.mod_eq_of_lt (show _ < 2 ^ 32 from field_lt_pow bs (4 * k) 4)]
    _ = bs := flatMap_words n bs hlen

end

end Sys2Proof.Machine
end

section
/-! The commands of the boot sequencer (chapter 21, R462-R475): from RESET to RUN, the floors and the measurements. -/
namespace Sys2Proof.Machine

section
variable {s : State}

theorem State.bootAt_iff {st : Nat} (hat : s.boot.state = st) (hsag : s.power.sagLow = false) : s.bootAt st = true := by
  simp [State.bootAt, hat, hsag]

/-- A state with the same registers reads the same. -/
theorem State.reg_congr {t : State} (h : t.regs = s.regs) (r : Reg) (i j : Nat) : t.reg r i j = s.reg r i j := by
  rw [State.reg, State.reg, State.regAt_congr h]

theorem State.setMeas_reg (s : State) (k : Nat) (d : List Byte) (r : Reg) (i j : Nat) : (s.setMeas k d).reg r i j = s.reg r i j :=
  State.reg_congr rfl r i j

theorem State.setMeas_fld (s : State) (k : Nat) (d : List Byte) (f : Fld) (i j : Nat) : (s.setMeas k d).fld f i j = s.fld f i j := by
  rw [State.fld, State.setMeas_reg, State.fld]

theorem State.setBoot_boot (s : State) (st : Nat) : (s.setBoot st).boot = { s.boot with state := st } := by
  rw [State.setBoot, State.setFld_boot]

theorem State.setBoot_state (s : State) (st : Nat) : (s.setBoot st).boot.state = st := by
  rw [State.setBoot_boot]

theorem State.setBoot_mem (s : State) (st : Nat) : (s.setBoot st).mem = s.mem := by
  rw [State.setBoot, State.setFld_mem]

theorem State.setBoot_flash (s : State) (st : Nat) : (s.setBoot st).flash = s.flash := by
  rw [State.setBoot, State.setFld_flash]

theorem State.setBoot_reg (s : State) (st : Nat) {r : Reg} {i j : Nat} (h : r.addr i j ≠ SEC_BOOT.addr 0 0) :
    (s.setBoot st).reg r i j = s.reg r i j := by
  rw [State.setBoot, State.reg_setFld_other _ _ _ _ _ _ _ _ h]
  exact State.reg_congr rfl r i j

theorem State.setBoot_fld (s : State) (st : Nat) {f : Fld} {i j : Nat} (h : f.reg.addr i j ≠ SEC_BOOT.addr 0 0) :
    (s.setBoot st).fld f i j = s.fld f i j := by
  rw [State.fld, State.setBoot_reg s st h, State.fld]

/-- A property of two states holds of the one a condition chooses. -/
theorem State.ite_keeps {P : State → Prop} {c : Prop} {dec : Decidable c} {t u : State} (ht : P t) (hu : P u) :
    P (if c then t else u) := by
  split
  · exact ht
  · exact hu

/-! ## FLASH, CAL and OWNER (R464-R467, R471) -/

theorem execBootFlash_ready (hat : s.bootAt 1 = true) : execBootFlash s = .next (s.setBoot 2) := by
  rw [execBootFlash, if_pos hat]

theorem execFlashTimeout_late (hat : s.boot.state = 1) (hlate : s.passed s.boot.since (10 * ticksPerMs) = true) :
    execFlashTimeout s = .next ((s.setFld SEC_BOOT.FAIL_AT 1).setBoot 10) := by
  rw [execFlashTimeout, if_pos ⟨hat, hlate⟩, State.bootFail, hat]

/-- `t` has the memory, the flash and the boot state of `s`, and its SEC registers below SEC_DEVID. -/
structure SecKept (s t : State) : Prop where
  mem : t.mem = s.mem
  flash : t.flash = s.flash
  boot : t.boot = s.boot
  reg : ∀ r : Reg, r.addr 0 0 < SEC_DEVID.base → t.reg r = s.reg r

theorem SecKept.setReg {s t : State} (h : SecKept s t) {r : Reg} (hr : SEC_DEVID.base ≤ r.base) (v i j : Nat) :
    SecKept s (t.setReg r v i j) where
  mem := (State.setReg_mem ..).trans h.mem
  flash := (State.setReg_flash ..).trans h.flash
  boot := (State.setReg_boot ..).trans h.boot
  reg q hq := by
    have haddr : q.addr 0 0 ≠ r.addr i j := by
      simp only [Reg.addr] at hq ⊢
      omega
    rw [State.reg_setReg_other _ haddr, h.reg q hq]

theorem SecKept.setWords1 {s t : State} (h : SecKept s t) {r : Reg} (hr : SEC_DEVID.base ≤ r.base) (bs : List Byte) (n : Nat) :
    SecKept s (t.setWords1 r bs n) :=
  forEach_keeps (fun _ _ hu => hu.setReg hr _ _ _) _ h

theorem SecKept.refl (s : State) : SecKept s s := ⟨rfl, rfl, rfl, fun _ _ => rfl⟩

/-- The state that a valid calibration record with secret k leaves, before its id and its key are shown. -/
def State.calTaken (s : State) (bs k : List Byte) : State :=
  let u := { s with sec := { s.sec with secret := some k }, boot := { s.boot with calOk := true, trims := calTrims bs } }
  ((u.setFld SEC_STAT.CAL_OK 1).setReg SEC_CAL_SVN (field bs 12 4)).setMeas 0 (sha256 bs)

theorem State.calTaken_flag (s : State) (bs k : List Byte) : (s.calTaken bs k).flag SEC_STAT.CAL_OK = true := by
  rw [State.flag, State.calTaken, State.setMeas_fld,
    State.fld_setReg_other _ _ SEC_STAT.CAL_OK _ _ _ _ _ (Reg.addr_ne SEC_STAT SEC_CAL_SVN (by decide) 0 0),
    State.fld_setFld_same _ _ _ _ _ (by decide) (by decide)]
  rfl

theorem State.calTaken_svn (s : State) (bs k : List Byte) : (s.calTaken bs k).reg SEC_CAL_SVN = field bs 12 4 % 2 ^ 32 := by
  rw [State.calTaken, State.setMeas_reg, State.reg_setReg_same]

theorem State.calTaken_boot (s : State) (bs k : List Byte) : (s.calTaken bs k).boot =
    { s.boot with calOk := true, trims := calTrims bs, meas := s.boot.meas.put 0 (sha256 bs) } := by
  rw [State.calTaken, State.setMeas, State.setReg_boot, State.setFld_boot]

theorem State.calTaken_mem (s : State) (bs k : List Byte) : (s.calTaken bs k).mem = s.mem := by
  rw [State.calTaken, State.setMeas, State.setReg_mem, State.setFld_mem]

theorem State.calTaken_flash (s : State) (bs k : List Byte) : (s.calTaken bs k).flash = s.flash := by
  rw [State.calTaken, State.setMeas, State.setReg_flash, State.setFld_flash]

theorem State.bootCal_none {n : Nat} (hat : s.bootAt 2 = true) (hn : n = field (s.flashRead 0x8008 4) 0 4)
    (hlen : 256 ≤ n ∧ n ≤ 32768 ∧ n % 4 = 0) (hcal : calSecret (s.flashRead 0x8000 n) = none) : s.bootCal = s.setBoot 3 := by
  subst hn
  rw [State.bootCal, if_neg (not_not_intro hat)]
  dsimp only
  rw [if_pos hlen, hcal]

theorem State.bootCal_some {n : Nat} {k : List Byte} (hat : s.bootAt 2 = true) (hn : n = field (s.flashRead 0x8008 4) 0 4)
    (hlen : 256 ≤ n ∧ n ≤ 32768 ∧ n % 4 = 0) (hcal : calSecret (s.flashRead 0x8000 n) = some k) :
    s.bootCal = (((s.calTaken (s.flashRead 0x8000 n) k).setWords1 SEC_DEVID (((s.flashRead 0x8000 n).drop 16).take 32) 8).setWords1
      SEC_DEVPUB (devicePub k) 16).setBoot 3 := by
  subst hn
  rw [State.bootCal, if_neg (not_not_intro hat)]
  dsimp only
  rw [if_pos hlen, hcal]
  rfl

/-- What a valid calibration record leaves. -/
theorem State.bootCal_valid {n : Nat} (hat : s.bootAt 2 = true) (hn : n = field (s.flashRead 0x8008 4) 0 4)
    (hlen : 256 ≤ n ∧ n ≤ 32768 ∧ n % 4 = 0) (hcal : (calSecret (s.flashRead 0x8000 n)).isSome = true) :
    s.bootCal.boot.state = 3 ∧ s.bootCal.mem = s.mem ∧ s.bootCal.flash = s.flash ∧ s.bootCal.boot.calOk = true ∧
      s.bootCal.boot.trims = calTrims (s.flashRead 0x8000 n) ∧ s.bootCal.flag SEC_STAT.CAL_OK = true ∧
      s.bootCal.reg SEC_CAL_SVN = field (s.flashRead 0x8000 n) 12 4 % 2 ^ 32 := by
  obtain ⟨k, hk⟩ := Option.isSome_iff_exists.1 hcal
  rw [State.bootCal_some hat hn hlen hk]
  have hkept := (SecKept.refl (s.calTaken (s.flashRead 0x8000 n) k)).setWords1 (r := SEC_DEVID) (by decide)
    (((s.flashRead 0x8000 n).drop 16).take 32) 8 |>.setWords1 (r := SEC_DEVPUB) (by decide) (devicePub k) 16
  refine ⟨State.setBoot_state _ _, ?_, ?_, ?_, ?_, ?_, ?_⟩
  · rw [State.setBoot_mem, hkept.mem, State.calTaken_mem]
  · rw [State.setBoot_flash, hkept.flash, State.calTaken_flash]
  · rw [State.setBoot_boot, hkept.boot, State.calTaken_boot]
  · rw [State.setBoot_boot, hkept.boot, State.calTaken_boot]
  · rw [← State.calTaken_flag s (s.flashRead 0x8000 n) k, State.flag, State.flag, State.setBoot_fld _ _ (by decide), State.fld,
      State.fld, hkept.reg SEC_STAT.CAL_OK.reg (by decide)]
  · rw [State.setBoot_reg _ _ (by decide), hkept.reg SEC_CAL_SVN (by decide), State.calTaken_svn]

/-- The state that shows sequence number and id of copy c of the owner record. -/
def State.ownerNamed (s : State) (c : Nat) : State :=
  (s.setReg SEC_OWNER_SEQ (field (s.ownerRecord c) 8 4)).setReg SEC_OWNER_ID (field (s.ownerRecord c) 12 4)

theorem State.ownerNamed_kept (s : State) (c : Nat) (bs : List Byte) :
    SecKept (s.ownerNamed c) ((s.ownerNamed c).setWords1 SEC_OWNHASH bs 8) :=
  (SecKept.refl _).setWords1 (r := SEC_OWNHASH) (by decide) bs 8

/-- The state that shows copy c of the owner record. -/
def State.ownerShown (s : State) (c : Nat) : State :=
  ((s.ownerNamed c).setWords1 SEC_OWNHASH (((s.ownerRecord c).drop 48).take 32) 8).setFld SEC_STAT.OWNER_COPY c

theorem State.ownerShown_id (s : State) (c : Nat) : (s.ownerShown c).reg SEC_OWNER_ID = field (s.ownerRecord c) 12 4 % 2 ^ 32 := by
  rw [State.ownerShown, State.reg_setFld_other _ _ _ _ _ _ _ _ (Reg.addr_ne SEC_OWNER_ID SEC_STAT (by decide) 0 0),
    (s.ownerNamed_kept c _).reg SEC_OWNER_ID (by decide), State.ownerNamed, State.reg_setReg_same]

theorem State.ownerShown_mem (s : State) (c : Nat) : (s.ownerShown c).mem = s.mem := by
  rw [State.ownerShown, State.setFld_mem, (s.ownerNamed_kept c _).mem, State.ownerNamed, State.setReg_mem, State.setReg_mem]

/-- The owner's permission to debug takes effect. -/
def State.setDebug (s : State) (debug : Bool) : State :=
  ({ s with boot := { s.boot with debug := debug } } : State).setFld SEC_STAT.DEBUG (b2n debug)

theorem State.setDebug_mem (s : State) (debug : Bool) : (s.setDebug debug).mem = s.mem := by
  rw [State.setDebug, State.setFld_mem]

theorem State.setDebug_reg (s : State) (debug : Bool) {r : Reg} {i j : Nat} (h : r.addr i j ≠ SEC_STAT.addr 0 0) :
    (s.setDebug debug).reg r i j = s.reg r i j := by
  rw [State.setDebug, State.reg_setFld_other _ _ _ _ _ _ _ _ h]
  exact State.reg_congr rfl r i j

theorem State.bootOwner_some {c : Nat} (hat : s.bootAt 4 = true) (hcopy : s.ownerCopy = some c) : s.bootOwner =
    ((((s.ownerShown c).setDebug (bit (field (s.ownerRecord c) 80 4) 0)).setMeas 1 (sha256 (s.ownerRecord c))).setBoot 5) := by
  rw [State.bootOwner, if_neg (not_not_intro hat), hcopy]
  rfl

theorem State.bootOwner_selected {c : Nat} (hat : s.bootAt 4 = true) (hcopy : s.ownerCopy = some c) :
    s.bootOwner.boot.state = 5 ∧ s.bootOwner.boot.debug = bit (field (s.ownerRecord c) 80 4) 0 ∧
      s.bootOwner.reg SEC_OWNER_ID = field (s.ownerRecord c) 12 4 % 2 ^ 32 ∧ s.bootOwner.mem = s.mem := by
  rw [State.bootOwner_some hat hcopy]
  refine ⟨State.setBoot_state _ _, ?_, ?_, ?_⟩
  · rw [State.setBoot_boot, State.setMeas, State.setDebug, State.setFld_boot]
  · rw [State.setBoot_reg _ _ (by decide), State.setMeas_reg,
      State.setDebug_reg _ _ (Reg.addr_ne SEC_OWNER_ID SEC_STAT (by decide) 0 0), State.ownerShown_id]
  · rw [State.setBoot_mem, State.setMeas, State.setDebug_mem, State.ownerShown_mem]

theorem State.bootOwner_none (hat : s.bootAt 4 = true) (hcopy : s.ownerCopy = none) : s.bootOwner = s.bootFail := by
  rw [State.bootOwner, if_neg (not_not_intro hat), hcopy]

/-! ## FLOORS (R468, R469) -/

theorem State.writeMirror_regs (s : State) : s.writeMirror.regs = s.regs := by
  rw [State.writeMirror]
  split
  · rfl
  · rfl

theorem State.writeFloors_regs (s : State) : s.writeFloors.regs = s.regs := by
  rw [State.writeFloors, State.poke_regs, State.poke_regs]

/-- Floor i as it is settled: the higher of the retained one and the mirror's. -/
def State.floorTop (s : State) (i : Nat) : Nat :=
  max (if s.floorsHold = true then s.readNum (0x02000004 + 4 * i) 4 else 0) (if s.boot.calOk = true then s.mirrorFloor i else 0)

/-- The image floor reads v. -/
def State.ImgFloorIs (v : Nat) (s : State) : Prop := s.reg SEC_IMG_FLOOR = v

theorem State.ImgFloorIs.congr {v : Nat} {t : State} (h : s.ImgFloorIs v) (hregs : t.regs = s.regs) : t.ImgFloorIs v :=
  (State.reg_congr hregs SEC_IMG_FLOOR 0 0).trans h

theorem State.ImgFloorIs.setStat {v : Nat} (h : s.ImgFloorIs v) {f : Fld} (hf : f.reg = SEC_STAT) (x : Nat) :
    (s.setFld f x).ImgFloorIs v :=
  (State.reg_setFld_other _ _ _ _ _ _ _ _ (hf ▸ Reg.addr_ne SEC_IMG_FLOOR SEC_STAT (by decide) 0 0)).trans h

theorem State.ImgFloorIs.setWords1 {v : Nat} (h : s.ImgFloorIs v) {r : Reg} (hr : SEC_DEVID.base ≤ r.base) (bs : List Byte) (n : Nat) :
    (s.setWords1 r bs n).ImgFloorIs v :=
  (((SecKept.refl s).setWords1 hr bs n).reg SEC_IMG_FLOOR (by decide)).trans h

theorem State.ImgFloorIs.writeFloors {v : Nat} (h : s.ImgFloorIs v) : s.writeFloors.ImgFloorIs v := h.congr s.writeFloors_regs

theorem State.ImgFloorIs.writeMirror {v : Nat} (h : s.ImgFloorIs v) : s.writeMirror.ImgFloorIs v := h.congr s.writeMirror_regs

theorem State.imgFloorIs_shown (s : State) (img own cal : Nat) :
    (((s.setReg SEC_IMG_FLOOR img).setReg SEC_OWN_FLOOR own).setReg SEC_CAL_FLOOR cal).ImgFloorIs (img % 2 ^ 32) := by
  rw [State.ImgFloorIs, State.reg_setReg_other _ (Reg.addr_ne SEC_IMG_FLOOR SEC_CAL_FLOOR (by decide) 0 0),
    State.reg_setReg_other _ (Reg.addr_ne SEC_IMG_FLOOR SEC_OWN_FLOOR (by decide) 0 0), State.reg_setReg_same]

theorem State.ImgFloorIs.withBoot {v : Nat} (h : s.ImgFloorIs v) (x : Sec) (y : Boot) :
    ({ s with sec := x, boot := y } : State).ImgFloorIs v := h.congr rfl

theorem State.ImgFloorIs.mirror {v : Nat} (h : s.ImgFloorIs v) {c : Prop} {dec : Decidable c} :
    (if c then s.writeMirror else s).ImgFloorIs v := State.ite_keeps h.writeMirror h

theorem State.ImgFloorIs.mismatch {v : Nat} (h : s.ImgFloorIs v) {c : Prop} {dec : Decidable c} :
    (if c then s.setFld SEC_STAT.FLOOR_MM 1 else s).ImgFloorIs v := State.ite_keeps (h.setStat rfl 1) h

/-- The steps of FLOORS after the floors are shown leave the image floor. -/
theorem State.bootFloors_img (hat : s.bootAt 3 = true) :
    ∃ v : State, s.bootFloors = v.setBoot 4 ∧ v.ImgFloorIs (s.floorTop 0 % 2 ^ 32) := by
  rw [State.bootFloors, if_neg (not_not_intro hat), State.floorTop]
  refine ⟨_, rfl, ?_⟩
  with_reducible
    refine State.ite_keeps (P := State.ImgFloorIs _) ?void ?kept
    case kept => exact .mismatch (.mirror (.writeFloors (State.imgFloorIs_shown _ _ _ _)))
    case void =>
      refine .setWords1 (r := SEC_DEVPUB) (.setWords1 (r := SEC_DEVID) (.setStat (f := SEC_STAT.CAL_OK) (.withBoot ?_ _ _) ?_ 0) ?_ [] 8)
        ?_ [] 16
      · exact .mismatch (.mirror (.writeFloors (State.imgFloorIs_shown _ _ _ _)))
      all_goals decide

/-- FLOORS ends in OWNER with the image floor settled. -/
theorem State.bootFloors_settled (hat : s.bootAt 3 = true) :
    s.bootFloors.boot.state = 4 ∧ s.bootFloors.reg SEC_IMG_FLOOR = s.floorTop 0 % 2 ^ 32 := by
  obtain ⟨v, hsteps, himg⟩ := State.bootFloors_img hat
  rw [hsteps]
  exact ⟨State.setBoot_state _ _, (State.setBoot_reg _ _ (by decide)).trans himg⟩

/-! ## BBX (R441) -/

/-- `t` has the time, the security block and the jobs of `s`. -/
structure BbxKept (s t : State) : Prop where
  atu : t.atu = s.atu
  sec : t.sec = s.sec
  jobs : t.job.jobs = s.job.jobs

section
variable {t : State} (h : BbxKept s t)
include h

theorem BbxKept.setReg (r : Reg) (v i j : Nat) : BbxKept s (t.setReg r v i j) :=
  ⟨(State.setReg_atu ..).trans h.atu, (State.setReg_sec ..).trans h.sec, (congrArg (·.jobs) (State.setReg_job ..)).trans h.jobs⟩

theorem BbxKept.setFld (f : Fld) (v i j : Nat) : BbxKept s (t.setFld f v i j) := h.setReg f.reg _ i j

theorem BbxKept.incSat (f : Fld) (n i j : Nat) : BbxKept s (t.incSat f n i j) := h.setFld f _ i j

theorem BbxKept.flashErase (a n : Nat) : BbxKept s (t.flashErase a n) := ⟨h.atu, h.sec, h.jobs⟩

theorem BbxKept.flashProgram (a : Nat) (bs : List Byte) : BbxKept s (t.flashProgram a bs) := ⟨h.atu, h.sec, h.jobs⟩

theorem BbxKept.withBbx (b : BlackBox) : BbxKept s { t with bbx := b } := ⟨h.atu, h.sec, h.jobs⟩

theorem BbxKept.recorded {u : State} (hrec : Recorded t u) : BbxKept s u :=
  ⟨hrec.atu.trans h.atu, hrec.supply.2.2.trans h.sec, hrec.jobs.trans h.jobs⟩

theorem BbxKept.setCurrent (b seq : Nat) : BbxKept s (t.setCurrent b seq) := ((h.setFld _ _ _ _).setReg _ _ _ _).setReg _ _ _ _

theorem BbxKept.openNow (b seq : Nat) : BbxKept s (t.openNow b seq) := by
  rw [State.openNow]
  exact (BbxKept.setCurrent (.flashProgram (.flashProgram (h.flashErase _ _) _ _) _ _) _ _).setFld _ _ _ _

theorem BbxKept.selectBank : BbxKept s t.selectBank := by
  rw [State.selectBank]
  split
  · exact (h.setCurrent _ _).setFld _ _ _ _
  · exact (h.setCurrent _ _).setFld _ _ _ _
  · exact (h.setCurrent _ _).setFld _ _ _ _
  · exact h.openNow _ _

theorem BbxKept.appendNow (r : List Byte) : BbxKept s (t.appendNow r) := by
  rw [State.appendNow]
  refine .setFld (.flashProgram ?_ _ _) _ _ _ _
  exact State.ite_keeps (h.openNow _ _) h

end

/-- BBX ends in IMAGE. -/
theorem State.bootBbx_recovers (hat : s.bootAt 5 = true) : ∃ v : State, s.bootBbx = v.setBoot 6 ∧ BbxKept s v := by
  rw [State.bootBbx, if_neg (not_not_intro hat)]
  refine ⟨_, rfl, ?_⟩
  with_reducible
    refine .recorded (.recorded (.setFld (.setReg (.withBbx ?_ _) _ _ _ _) _ _ _ _) (.syncStage _)) (State.devEvent_recorded _ _ _ _ ?_)
    · refine forEach_keeps (fun r u hu => hu.appendNow r) _
        (.incSat (.selectBank (.setReg (.setReg ⟨rfl, rfl, rfl⟩ _ _ _ _) _ _ _ _)) _ _ _ _)
    · exact fun p hp => absurd hp List.not_mem_nil

/-! ## IMAGE and REBUILD (R473, R475) -/

theorem State.bootImage_rom (a b : Bool) (hat : s.bootAt 6 = true) (hmode : s.boot.mode = 3) : s.bootImage a b = s.setBoot 9 := by
  rw [State.bootImage, if_neg (not_not_intro hat), if_pos hmode]

/-- The state that shows why slot A's header does not pass, where slot A is considered. -/
def State.headerJudged (s : State) (a : Bool) : State := if s.boot.mode = 2 then s else s.setReason 0 (s.headerReason 0 a)

theorem State.headerJudged_boot (s : State) (a : Bool) : (s.headerJudged a).boot = s.boot := by
  rw [State.headerJudged]
  split
  · rfl
  · rw [State.setReason, State.setFld_boot]

/-- The state that shows why either slot's header does not pass. -/
def State.headersJudged (s : State) (a b : Bool) : State :=
  if s.boot.mode = 1 then s.headerJudged a else (s.headerJudged a).setReason 1 ((s.headerJudged a).headerReason 1 b)

/-- The judged state of slot A has the mode that slot B is judged under. -/
theorem State.headersJudged_mode (s : State) (a b : Bool) : s.headersJudged a b =
    if (s.headerJudged a).boot.mode = 1 then s.headerJudged a
    else (s.headerJudged a).setReason 1 ((s.headerJudged a).headerReason 1 b) := by
  rw [State.headerJudged_boot, State.headersJudged]

/-- The state that has booted slot i. -/
def State.slotBooted (s : State) (i : Nat) : State :=
  let w := ((s.noteTrial i).setFld SEC_BOOT.SLOT i).setReg SEC_SVN (s.slotSvn i)
  ((w.setFld SEC_STAT.CONFIRMED 0).setMeas 2 (sha256 (w.flashRead (slotBase i) 256))).setBoot 7

/-- The first slot in order that loads is booted. -/
def State.bootSlots (s : State) (a b : Bool) : State :=
  match s.loadSlots (s.slotOrder a b) with
  | (none, u) => u.bootFail
  | (some i, u) => u.slotBooted i

theorem State.bootImage_slots (a b : Bool) (hat : s.bootAt 6 = true) (hmode : s.boot.mode ≠ 3) :
    s.bootImage a b = (s.headersJudged a b).bootSlots a b := by
  rw [State.bootImage, if_neg (not_not_intro hat), if_neg hmode, State.headersJudged_mode]
  rfl

theorem State.bootSlots_none {a b : Bool} (hnone : s.slotOrder a b = []) : s.bootSlots a b = s.bootFail := by
  rw [State.bootSlots, hnone]
  rfl

/-- Bytes of slot i's body. -/
def State.slotBody (s : State) (i : Nat) : List Byte := s.flashRead (slotBase i + 256) (field (s.flashRead (slotBase i) 256) 8 4)

/-- The first slot is booted where its body matches its digest. -/
theorem State.bootSlots_first {a b : Bool} {i : Nat} {rest : List Nat} (horder : s.slotOrder a b = i :: rest)
    (hbody : sha256 (s.slotBody i) = ((s.flashRead (slotBase i) 256).drop 32).take 32) :
    s.bootSlots a b = ((s.clearMem 0 0x400000).poke 0 (s.slotBody i)).slotBooted i := by
  have hload : s.loadSlots (i :: rest) = (some i, (s.clearMem 0 0x400000).poke 0 (s.slotBody i)) := by
    rw [State.loadSlots]
    exact if_pos hbody
  rw [State.bootSlots, horder, hload]

/-- REBUILD ends in RUN with hart 0 released. -/
theorem State.bootRebuild_run (hat : s.boot.state = 7) :
    s.bootRebuild.boot.state = 8 ∧ s.bootRebuild.fld ACI_HART_STAT.STATE 0 = 1 := by
  have hend : ∃ v : State, s.bootRebuild = (v.setFld ACI_HART_STAT.STATE 1 0).setBoot 8 := ⟨_, if_neg (not_not_intro hat)⟩
  obtain ⟨v, hv⟩ := hend
  rw [hv]
  refine ⟨State.setBoot_state _ _, ?_⟩
  rw [State.setBoot_fld _ _ (by decide)]
  exact State.fld_setFld_same _ _ _ _ _ (by decide) (by decide)

/-! ## RUN (R469, R474, R475) -/

/-- A commit raises each floor to what is in force. -/
def State.floorsRaised (s : State) : State :=
  let u := s.setReg SEC_IMG_FLOOR (max (s.reg SEC_IMG_FLOOR) (s.reg SEC_SVN))
  let v := u.setReg SEC_OWN_FLOOR (max (u.reg SEC_OWN_FLOOR) (u.reg SEC_OWNER_SEQ))
  v.setReg SEC_CAL_FLOOR (max (v.reg SEC_CAL_FLOOR) (v.reg SEC_CAL_SVN))

theorem State.floorsRaised_reg (s : State) : s.floorsRaised.reg SEC_IMG_FLOOR = max (s.reg SEC_IMG_FLOOR) (s.reg SEC_SVN) ∧
    s.floorsRaised.reg SEC_OWN_FLOOR = max (s.reg SEC_OWN_FLOOR) (s.reg SEC_OWNER_SEQ) ∧
    s.floorsRaised.reg SEC_CAL_FLOOR = max (s.reg SEC_CAL_FLOOR) (s.reg SEC_CAL_SVN) := by
  have hset : ∀ (u : State) (q r : Reg), (u.setReg q (max (u.reg q) (u.reg r))).reg q = max (u.reg q) (u.reg r) := fun u q r => by
    rw [State.reg_setReg_same, Nat.mod_eq_of_lt (Nat.max_lt.2 ⟨u.reg_lt q 0 0, u.reg_lt r 0 0⟩)]
  have hother : ∀ (u : State) (v : Nat) (q r : Reg), r.base ≠ q.base → (u.setReg q v).reg r = u.reg r := fun u v q r hne =>
    u.reg_setReg_other (by simpa [Reg.addr] using hne) v
  refine ⟨?_, ?_, ?_⟩
  · rw [State.floorsRaised, hother _ _ _ _ (by decide), hother _ _ _ _ (by decide), hset]
  · rw [State.floorsRaised, hother _ _ _ _ (by decide), hset, hother _ _ _ _ (by decide), hother _ _ _ _ (by decide)]
  · rw [State.floorsRaised, hset, hother _ _ _ _ (by decide), hother _ _ _ _ (by decide), hother _ _ _ _ (by decide),
      hother _ _ _ _ (by decide)]

/-- The floors of `t` are those of `s`, and so are the registers that they are raised to. -/
structure FloorsKept (s t : State) : Prop where
  img : t.reg SEC_IMG_FLOOR = s.reg SEC_IMG_FLOOR
  own : t.reg SEC_OWN_FLOOR = s.reg SEC_OWN_FLOOR
  cal : t.reg SEC_CAL_FLOOR = s.reg SEC_CAL_FLOOR

theorem FloorsKept.recorded {t u : State} (h : FloorsKept s t) (hrec : Recorded t u) : FloorsKept s u :=
  ⟨(hrec.reg SEC_IMG_FLOOR 0 0 (by decide)).trans h.img, (hrec.reg SEC_OWN_FLOOR 0 0 (by decide)).trans h.own,
    (hrec.reg SEC_CAL_FLOOR 0 0 (by decide)).trans h.cal⟩

theorem FloorsKept.congr {t u : State} (h : FloorsKept s t) (hregs : u.regs = t.regs) : FloorsKept s u :=
  ⟨(State.reg_congr hregs _ _ _).trans h.img, (State.reg_congr hregs _ _ _).trans h.own, (State.reg_congr hregs _ _ _).trans h.cal⟩

theorem FloorsKept.setBusy {t : State} (h : FloorsKept s t) (v : Nat) : FloorsKept s (t.setFld SEC_STAT.BUSY v) :=
  ⟨(State.reg_setFld_other _ _ _ _ _ _ _ _ (Reg.addr_ne SEC_IMG_FLOOR SEC_STAT (by decide) 0 0)).trans h.img,
    (State.reg_setFld_other _ _ _ _ _ _ _ _ (Reg.addr_ne SEC_OWN_FLOOR SEC_STAT (by decide) 0 0)).trans h.own,
    (State.reg_setFld_other _ _ _ _ _ _ _ _ (Reg.addr_ne SEC_CAL_FLOOR SEC_STAT (by decide) 0 0)).trans h.cal⟩

theorem State.floorEvent_recorded (s : State) : Recorded s s.floorEvent :=
  State.devEvent_recorded _ _ _ _ fun _ hp => absurd hp List.not_mem_nil

/-- Raised floors are told at once where there is no mirror to program. -/
def State.floorsTold (s : State) : State :=
  if s.sec.secret.isNone = true then s.floorEvent
  else (({ s with bbx := { s.bbx with floorDue := true } } : State).setFld SEC_STAT.BUSY 1).pumpFlash

theorem State.commitFloors_writer {src : Nat} (hwriter : s.secWriter src = true) (hfree : s.flag SEC_STAT.BUSY = false) :
    s.commitFloors src = s.floorsRaised.writeFloors.floorsTold := by
  rw [State.commitFloors, if_neg (by simp [hwriter, hfree])]
  rfl

theorem State.floorsTold_kept (s : State) : FloorsKept s s.floorsTold := by
  have hdue : FloorsKept s { s with bbx := { s.bbx with floorDue := true } } := .congr ⟨rfl, rfl, rfl⟩ rfl
  refine State.ite_keeps (P := FloorsKept s) ?now ?queued
  case now => exact .recorded ⟨rfl, rfl, rfl⟩ s.floorEvent_recorded
  case queued => exact (hdue.setBusy 1).recorded (Recorded.pumpFlash _)

theorem State.commitDone_floor (hop : s.bbx.op = some .floor) :
    s.commitDone = ((s.opEnds.writeMirror.setFld SEC_STAT.BUSY 0).floorEvent).pumpFlash := by
  rw [State.commitDone, if_neg (not_not_intro hop)]

/-- The first 28 bytes of the trial block, confirmed. -/
def State.trialConfirmed (s : State) : List Byte :=
  (s.read 0x02000020 28).take 2 ++ [(s.read 0x02000020 28).getD 2 0#8 ||| 1#8] ++ (s.read 0x02000020 28).drop 3

theorem State.trialConfirmed_length (s : State) : s.trialConfirmed.length = 28 := by
  simp [State.trialConfirmed, State.read_length]

theorem State.confirmTrial_writer {src : Nat} (hwriter : s.secWriter src = true) : s.confirmTrial src =
    (s.poke 0x02000020 (s.trialConfirmed ++ bytesOf 4 (crc32c s.trialConfirmed))).setFld SEC_STAT.CONFIRMED 1 :=
  if_neg (not_not_intro hwriter)

/-- The confirmed block holds the confirmed bytes, then their CRC; nothing else of memory changes. -/
theorem State.confirmTrial_memory {src : Nat} (hwriter : s.secWriter src = true) :
    (s.confirmTrial src).read 0x02000020 28 = s.trialConfirmed ∧
    (s.confirmTrial src).readNum 0x0200003C 4 = crc32c s.trialConfirmed ∧
    ∀ a, a < 0x02000020 ∨ 0x02000040 ≤ a → (s.confirmTrial src).byte a = s.byte a := by
  have hlen : (s.trialConfirmed ++ bytesOf 4 (crc32c s.trialConfirmed)).length = 32 := by
    rw [List.length_append, State.trialConfirmed_length, bytesOf_length]
  rw [State.confirmTrial_writer hwriter, State.readNum, State.read_congr (State.setFld_mem ..), State.read_congr (State.setFld_mem ..)]
  refine ⟨?_, ?_, fun a ha => ?_⟩
  · rw [State.read_poke_within 0x02000020 _ (off := 0) (by rw [hlen]; decide), List.drop_zero,
      List.take_left' s.trialConfirmed_length]
  · rw [State.read_poke_within 0x02000020 _ (off := 28) (by rw [hlen]), List.drop_left' s.trialConfirmed_length,
      List.take_of_length_le (by rw [bytesOf_length]), ofBytes_bytesOf]
    exact Nat.mod_eq_of_lt (crc32c_lt _)
  · rw [State.byte_congr (State.setFld_mem ..)]
    exact s.byte_poke_other _ _ (by rw [hlen]; omega)

theorem State.confirmTrial_flag {src : Nat} (hwriter : s.secWriter src = true) :
    (s.confirmTrial src).flag SEC_STAT.CONFIRMED = true := by
  rw [State.confirmTrial_writer hwriter, State.flag, State.fld_setFld_same _ _ _ _ _ (by decide) (by decide)]
  rfl

/-- The confirmed block's third byte has its lowest bit set. -/
theorem State.confirmTrial_bit {src : Nat} (hwriter : s.secWriter src = true) :
    bit ((s.confirmTrial src).byte 0x02000022).toNat 0 = true := by
  obtain ⟨hread, -, -⟩ := State.confirmTrial_memory hwriter
  have hbyte : (s.confirmTrial src).byte 0x02000022 = (s.read 0x02000020 28).getD 2 0#8 ||| 1#8 := by
    have hthird : (s.confirmTrial src).byte 0x02000022 = ((s.confirmTrial src).read 0x02000020 28).getD 2 0#8 := by
      simp [State.read]
    have htwo : ((s.read 0x02000020 28).take 2).length = 2 := by
      rw [List.length_take, State.read_length]
      rfl
    rw [hthird, hread, State.trialConfirmed, List.append_assoc, List.getD_append_right _ _ _ _ (by rw [htwo]), htwo]
    rfl
  have hodd : (((s.read 0x02000020 28).getD 2 0#8).toNat ||| 1) % 2 = 1 := Nat.or_mod_two_eq_one.2 (.inr rfl)
  rw [hbyte, BitVec.toNat_or, bit, Nat.pow_zero, Nat.div_one]
  exact beq_iff_eq.2 hodd

/-- Measurement m extended by what SEC_EXT holds. -/
def State.extended (s : State) (m : Nat) : List Byte := sha256 (s.wordBytes SEC_MEAS m 8 ++ s.wordBytes1 SEC_EXT 8)

theorem State.extend_run {src m : Nat} (hwriter : s.secWriter src = true) (hm : 4 ≤ m) : s.extend src m =
    (s.setFld SEC_EXTCMD.M m).setWords SEC_MEAS m ((s.setFld SEC_EXTCMD.M m).extended m) 8 := by
  rw [State.extend, if_neg (not_not_intro hwriter)]
  exact if_neg (Nat.not_lt.2 hm)

/-- SEC_EXTCMD shows neither a measurement nor what extends one. -/
theorem State.setExtCmd_measure (s : State) (v : Nat) {i : Nat} (hi : i < 8) :
    (s.setFld SEC_EXTCMD.M v).wordBytes SEC_MEAS i 8 = s.wordBytes SEC_MEAS i 8 := by
  refine State.wordBytes_congr fun k hk => State.reg_setFld_other _ _ _ _ _ _ _ _ ?_
  simp only [Reg.addr, SEC_MEAS, SEC_EXTCMD.M, SEC_EXTCMD]
  omega

theorem State.setExtCmd_extended (s : State) (v : Nat) {m : Nat} (hm : m < 8) : (s.setFld SEC_EXTCMD.M v).extended m = s.extended m := by
  have hext : (s.setFld SEC_EXTCMD.M v).wordBytes1 SEC_EXT 8 = s.wordBytes1 SEC_EXT 8 := by
    refine List.flatMap_congr fun k hk => congrArg _ (State.reg_setFld_other _ _ _ _ _ _ _ _ ?_)
    have hk8 := List.mem_range.1 hk
    simp only [Reg.addr, SEC_EXT, SEC_EXTCMD.M, SEC_EXTCMD]
    omega
  rw [State.extended, State.setExtCmd_measure s v hm, hext, State.extended]

theorem State.extend_measures {src m : Nat} (hwriter : s.secWriter src = true) (hm : 4 ≤ m) (hm8 : m < 8) :
    (s.extend src m).wordBytes SEC_MEAS m 8 = s.extended m ∧
    (∀ k, k < 8 → k ≠ m → (s.extend src m).wordBytes SEC_MEAS k 8 = s.wordBytes SEC_MEAS k 8) ∧ (s.extend src m).mem = s.mem := by
  rw [State.extend_run hwriter hm, State.setExtCmd_extended s m hm8]
  refine ⟨State.wordBytes_setWords (by decide) (sha256_length _), fun k hk hkm => ?_, ?_⟩
  · rw [← State.setExtCmd_measure s m hk]
    refine State.wordBytes_congr fun w hw => State.reg_setWords_other _ fun l hl => ?_
    simp only [Reg.addr, SEC_MEAS]
    omega
  · rw [State.setWords_mem, State.setFld_mem]

end

/-- Settles O42: each command by the lemma of its operation. -/
theorem bootCommandsComplete : Obligations.BootCommandsComplete := by
  unfold Obligations.BootCommandsComplete
  intro p s
  refine ⟨?flash, ?late, ?cal, ?floors, ?owner, ?bbx, ?rom, ?image, ?rebuild, ?commit, ?commitDone, ?confirm, ?extend⟩
  case flash =>
    intro hat hsag
    rw [exec_bootFlash, execBootFlash_ready (State.bootAt_iff hat hsag)]
  case late =>
    intro hat hlate
    rw [exec_flashTimeout, execFlashTimeout_late hat hlate]
  case cal =>
    intro n hat hsag hn hmin hmax hfour
    have hready := State.bootAt_iff hat hsag
    refine ⟨s.bootCal, rfl, ?_⟩
    cases hcal : calSecret (s.flashRead 0x8000 n) with
    | none =>
      have hnone := State.bootCal_none hready hn ⟨hmin, hmax, hfour⟩ hcal
      refine ⟨?_, ?_, ?_, fun _ => hnone, fun h => absurd h Bool.false_ne_true⟩
      · rw [hnone, State.setBoot_state]
      · rw [hnone, State.setBoot_mem]
      · rw [hnone, State.setBoot_flash]
    | some k =>
      obtain ⟨hstate, hmem, hflash, hvalid⟩ := State.bootCal_valid hready hn ⟨hmin, hmax, hfour⟩ (hcal ▸ rfl)
      exact ⟨hstate, hmem, hflash, fun h => absurd h (Option.some_ne_none k), fun _ => hvalid⟩
  case floors =>
    intro hat hsag
    exact ⟨s.bootFloors, rfl, State.bootFloors_settled (State.bootAt_iff hat hsag)⟩
  case owner =>
    intro hat hsag
    have hready := State.bootAt_iff hat hsag
    exact ⟨s.bootOwner, rfl, State.bootOwner_none hready, fun k hcopy => State.bootOwner_selected hready hcopy⟩
  case bbx =>
    intro hat hsag
    obtain ⟨v, hv, hkept⟩ := State.bootBbx_recovers (State.bootAt_iff hat hsag)
    refine ⟨v.setBoot 6, congrArg Host.Outcome.next hv, State.setBoot_state _ _, ?_, ?_, ?_⟩
    · rw [State.setBoot, State.setFld_atu, hkept.atu]
    · rw [State.setBoot, State.setFld_sec, hkept.sec]
    · rw [State.setBoot, State.setFld_job, hkept.jobs]
  case rom =>
    intro a b hat hsag hmode
    rw [exec_bootImage, execBootImage, State.bootImage_rom a b (State.bootAt_iff hat hsag) hmode]
  case image =>
    intro a b hat hsag hmode
    have hslots := State.bootImage_slots a b (State.bootAt_iff hat hsag) hmode
    refine ⟨fun hnone => ?_, fun i rest horder hbody => ?_⟩
    · exact congrArg Host.Outcome.next (hslots.trans (State.bootSlots_none hnone))
    · exact congrArg Host.Outcome.next (hslots.trans (State.bootSlots_first horder hbody))
  case rebuild =>
    intro hat
    exact ⟨s.bootRebuild, rfl, State.bootRebuild_run hat⟩
  case commit =>
    intro hwriter hfree
    have hkept := s.floorsRaised.writeFloors.floorsTold_kept
    obtain ⟨himg, hown, hcal⟩ := s.floorsRaised_reg
    refine ⟨_, congrArg Host.Outcome.next (State.commitFloors_writer hwriter hfree), ?_, ?_, ?_⟩
    · rw [hkept.img, State.reg_congr (State.writeFloors_regs _), himg]
    · rw [hkept.own, State.reg_congr (State.writeFloors_regs _), hown]
    · rw [hkept.cal, State.reg_congr (State.writeFloors_regs _), hcal]
  case commitDone =>
    intro hop
    rw [exec_commitDone, execCommitDone, State.commitDone_floor hop]
  case confirm =>
    intro hwriter
    obtain ⟨hread, hcrc, hkept⟩ := State.confirmTrial_memory hwriter
    exact ⟨_, rfl, State.confirmTrial_flag hwriter, State.confirmTrial_bit hwriter, by rw [hcrc, hread], hkept⟩
  case extend =>
    intro m hwriter hm
    exact ⟨_, rfl, State.extend_measures hwriter hm m.isLt⟩

end Sys2Proof.Machine
end

section
/-! The commands of power (chapter 20, R448-R458, R512): operating points, supply and temperature, Stop, clocks and resets. -/
namespace Sys2Proof.Machine

section
variable {s : State}

/-! ## Operating points (R448-R451) -/

theorem State.opReq_manager {src c v : Nat} (hsrc : src = s.manager) (hon : s.domOn 79 = true) :
    s.opReq src c v = (s.setFld CLK_CL_OP.REQ (if s.boot.calOk then v else 3) c).retarget c :=
  if_neg (by simp [hsrc, hon])

section
variable {c : Nat} {x : OpStep} (hstep : s.power.steps.find? c = some x)
include hstep

theorem State.pllLock_step : s.pllLock c = ({ s with power := { s.power with
    idlePll := s.power.idlePll.put c (if x.switched then s.fld CLK_CL_OP.TARGET c else x.target) } } : State).opAdvance c := by
  rw [State.pllLock, hstep]

/-- A report of the voltage counts for a faster point, and for a slower one once the clock has switched. -/
theorem State.voltageReached_step (hgo : s.goesDown c x = false ∨ x.switched = true) : s.voltageReached c =
    s.setStep c { x with reached := true, reachedAt := if x.reached then x.reachedAt else s.atu.ticks } := by
  rw [State.voltageReached, hstep]
  refine if_neg ?_
  rintro ⟨hdown, hstill⟩
  rcases hgo with hup | hswitched
  · exact Bool.false_ne_true (hup.symm.trans hdown)
  · exact hstill hswitched

theorem State.settled_step (hreached : x.reached = true)
    (hlate : s.passed x.reachedAt (s.fld CLK_VSETTLE.US * ticksPerUs) = true) :
    s.settled c = (s.setStep c { x with settled := true }).opAdvance c := by
  rw [State.settled, hstep]
  exact if_pos ⟨hreached, hlate⟩

end

/-- The state that shows an estimate of package power and counts how long it has been low. -/
def State.powerShown (s : State) (ms : Nat) : State :=
  let u := s.setFld PWR_STAT.POWER (min ms 511)
  { u with power := { u.power with
    below := if 100 * ms < 95 * s.powerLimit then u.power.below + 1 else 0
    sinceRaise := min 1000 (u.power.sinceRaise + 1) } }

/-- Far above the limit every cluster is held at its slowest point. -/
theorem State.powerEstimate_over {ms us10 : Nat} (est : Nat → Nat) (hon : s.domOn 79 = true)
    (hover : 110 * s.powerLimit < 100 * us10) :
    s.powerEstimate ms us10 est = ((s.powerShown ms).setFld PWR_STAT.FLOORS 0xFF).retargetAll := by
  rw [State.powerEstimate, if_neg (not_not_intro hon)]
  exact if_pos hover

/-! ## Supply (R452, R453) -/

theorem State.sagWarn_begins {rail mv : Nat} (hlow : s.power.sagLow = false) (hsags : s.sags rail mv = true) : s.sagWarn rail mv =
    (((({ s with power := { s.power with sagLow := true, sagAt := s.atu.ticks } } : State).abandonOpening).devEvent
      evSagWarn rail [w32 mv]).aplicWire 6 false).pumpFlash.retargetAll := by
  rw [State.sagWarn, if_neg (by simp [hlow, hsags])]

theorem State.sagClear_ends (hlow : s.power.sagLow = true) (hlate : s.passed s.power.sagAt (100 * ticksPerUs) = true) : s.sagClear =
    (((({ s with power := { s.power with sagLow := false } } : State).devEvent evSagClear 0 []).aplicWire 6 true).pumpFlash).retargetAll :=
  if_neg (by simp [hlow, hlate])

theorem State.sagWrite_taken {src v : Nat} (hsrc : src = s.manager) (hon : s.domOn 79 = true) (hwarn : 2 ≤ bits v 3 0)
    (hwarn' : bits v 3 0 ≤ 8) (hrst : 6 ≤ bits v 11 8) (hrst' : bits v 11 8 ≤ 12) (hgap : bits v 3 0 + 2 ≤ bits v 11 8) :
    s.sagWrite src v = (s.setFld PWR_SAG.WARN (bits v 3 0)).setFld PWR_SAG.RST (bits v 11 8) := by
  refine if_neg ?_
  rintro (h | h | h | h | h | h | h)
  · exact h hsrc
  · exact h hon
  all_goals omega

/-! ## Temperature and Stop (R454-R457) -/

theorem State.thermWarn_hot {c sensor : Nat} {temp : Int} (htemp : 100 ≤ temp) (hcold : s.power.hot.getD c false = false) :
    s.thermWarn c sensor temp = ({ s with power := { s.power with hot := s.power.hot.put c true } } : State).devEvent
      evThermWarn sensor [w32 (toBits 32 temp)] :=
  if_neg (by simp [htemp, hcold])

/-- `t` has the memory and the thermal floors of `s`. -/
structure ThermKept (s t : State) : Prop where
  mem : t.mem = s.mem
  thermal : t.power.thermal = s.power.thermal

theorem ThermKept.setFld {t : State} (h : ThermKept s t) (f : Fld) (v i j : Nat) : ThermKept s (t.setFld f v i j) :=
  ⟨(State.setFld_mem ..).trans h.mem, (congrArg (·.thermal) (State.setFld_power ..)).trans h.thermal⟩

theorem ThermKept.setStep {t : State} (h : ThermKept s t) (c : Nat) (x : OpStep) : ThermKept s (t.setStep c x) := ⟨h.mem, h.thermal⟩

theorem ThermKept.withIdlePll {t : State} (h : ThermKept s t) (m : Table Nat) :
    ThermKept s { t with power := { t.power with idlePll := m } } := ⟨h.mem, h.thermal⟩

/-- Judging a target again changes neither memory nor a thermal floor. -/
theorem State.retarget_kept (s : State) (c : Nat) : ThermKept s (s.retarget c) := by
  have htarget : ThermKept s (s.setFld CLK_CL_OP.TARGET (s.opTarget c) c) := .setFld ⟨rfl, rfl⟩ _ _ _ _
  rw [State.retarget]
  dsimp only
  split
  · exact htarget.setFld _ _ _ _
  · refine State.ite_keeps (htarget.setFld _ _ _ _) (.setFld (.setFld (.setStep ?_ _ _) _ _ _ _) _ _ _ _)
    exact State.ite_keeps (htarget.withIdlePll _) htarget

/-- The thermal floor of cluster c stands at v. -/
def State.thermalAt (s : State) (c v : Nat) : State :=
  { s with power := { s.power with thermal := s.power.thermal.set (fun _ => 0) c v, hot := s.power.hot.set (fun _ => false) c true,
                                   thermAt := s.power.thermAt.put c s.atu.ticks } }

theorem State.thermalStep_up {c : Nat} (hhot : s.power.hot.getD c false = true)
    (hlate : ((s.power.thermAt.find? c).all fun t => s.passed t ticksPerMs) = true) :
    s.thermalStep c true = (s.thermalAt c (min 3 (s.power.thermal.getD c 0 + 1))).retarget c := by
  have hwait : ((s.power.thermAt.find? c).any fun t => !s.passed t ((if true = true then 1 else 10) * ticksPerMs)) = false := by
    rw [if_pos rfl, Nat.one_mul]
    cases hat : s.power.thermAt.find? c with
    | none => rfl
    | some t =>
      rw [hat] at hlate
      exact congrArg not hlate
  rw [State.thermalStep]
  dsimp only
  rw [if_neg (Bool.eq_false_iff.1 hwait), if_pos rfl]
  exact if_pos hhot

theorem State.thermTrip_hot {sensor : Nat} {temp : Int} (htemp : 115 ≤ temp) (hlow : s.power.tripLow = false) : s.thermTrip sensor temp =
    ((({ s with power := { s.power with tripLow := true } } : State).devEvent evThermTrip sensor [w32 (toBits 32 temp)]).askStop
      false true) :=
  if_neg (by simp [htemp, hlow])

theorem State.stopWrite_manager {src : Nat} (keep : Bool) (hsrc : src = s.manager) (hon : s.domOn 79 = true)
    (hstop : s.power.stop = none) (hdue : s.power.stopDue = none) :
    s.stopWrite src keep = (s.setFld PWR_STOP.KEEP (b2n keep)).askStop keep false :=
  if_neg (by simp [hsrc, hon, hstop, hdue])

theorem State.rtcAlarm_wakes {temp : Int} {cool : Bool} {x : StopState} (hstop : s.power.stop = some x) (hin : x.entered = true)
    (hen : s.flag OAS_CTL.ALARM_EN = true) (htime : s.power.rtc / 32768 = s.alarmAt) (hcool : x.thermal = false ∨ temp < 95) :
    s.rtcAlarm temp cool = s.wake x cool := by
  have hok : ¬(x.thermal = true ∧ 95 ≤ temp) := by
    rintro ⟨hthermal, hhot⟩
    rcases hcool with hno | hlow
    · exact Bool.false_ne_true (hno.symm.trans hthermal)
    · omega
  rw [State.rtcAlarm, hstop]
  dsimp only
  rw [if_neg (by simp [hin, hen, htime]), if_neg hok]

theorem State.coolWake_wakes {temp : Int} {cool : Bool} {x : StopState} (hstop : s.power.stop = some x) (hin : x.entered = true)
    (halarm : x.alarmed = true) (htemp : temp < 95) : s.coolWake temp cool = s.wake x cool := by
  rw [State.coolWake, hstop]
  exact if_pos ⟨hin, halarm, htemp⟩

/-! ## Reference clocks (R458) -/

theorem State.clockLoss_ref : s.clockLoss 0 = s.deviceReset 16 := if_pos rfl

/-- The time unit holds over when its clock is lost. -/
theorem State.clockLoss_time (hon : s.domOn 79 = true) (hthere : bit (s.fld CLK_STAT.LOSS) 1 = false) : s.clockLoss 1 =
    let u := (s.setFld CLK_STAT.LOSS (s.fld CLK_STAT.LOSS ||| 2 ^ 1)).devEvent evClkLoss 1 []
    if u.domOn 77 = true then u.enterHoldover else u := by
  rw [State.clockLoss, if_neg (by decide), if_neg (by simp [hon, hthere])]
  exact if_pos rfl

theorem State.clockReturn_lost {r : Nat} (hr : r ≠ 0) (hlost : bit (s.fld CLK_STAT.LOSS) r = true) :
    s.clockReturn r = s.setFld CLK_STAT.LOSS (s.fld CLK_STAT.LOSS - 2 ^ r) :=
  if_neg (by simp [hr, hlost])

/-! ## Resets (R512, R513) -/

/-- `t` has the boot sequencer and the commands that wait of `s`. -/
structure CutKept (s t : State) : Prop where
  boot : t.boot = s.boot
  pending : t.pending = s.pending

theorem CutKept.refl (s : State) : CutKept s s := ⟨rfl, rfl⟩

theorem CutKept.trans {t u : State} (h : CutKept s t) (k : CutKept t u) : CutKept s u :=
  ⟨k.boot.trans h.boot, k.pending.trans h.pending⟩

theorem State.opEnds_kept (s : State) : CutKept s s.opEnds := ⟨rfl, rfl⟩

/-- A torn byte takes a free value and changes the flash alone. -/
theorem State.flashTornProgram_kept (s : State) (a : Nat) (bs : List Byte) : CutKept s (s.flashTornProgram a bs) := by
  induction bs generalizing s a with
  | nil => exact .refl s
  | cons b bs ih => exact ⟨(ih _ _).boot, (ih _ _).pending⟩

theorem State.flashTornErase_kept (s : State) (a n : Nat) : CutKept s (s.flashTornErase a n) := by
  rw [State.flashTornErase]
  generalize s.flash.rows.filter _ = rows
  induction rows generalizing s with
  | nil => exact .refl s
  | cons r rows ih => exact ⟨(ih _).boot, (ih _).pending⟩

theorem State.flashCut_kept (s : State) (old : Nat) : CutKept s (s.flashCut old) := by
  rw [State.flashCut]
  split
  case h_1 => exact .refl s
  case h_2 => exact s.opEnds_kept.trans (State.flashTornProgram_kept _ _ _)
  case h_3 =>
    exact State.ite_keeps (P := CutKept s) (s.opEnds_kept.trans (State.flashTornErase_kept _ _ _))
      (s.opEnds_kept.trans (State.flashTornProgram_kept _ _ _))
  case h_4 => exact s.opEnds_kept.trans (State.flashTornErase_kept _ _ _)
  case h_5 =>
    split
    · exact s.opEnds_kept.trans (State.flashTornErase_kept _ _ _)
    · refine State.ite_keeps (P := CutKept s) ?_ s.opEnds_kept
      exact (s.opEnds_kept.trans (State.flashTornProgram_kept _ _ _)).trans (State.flashTornProgram_kept _ _ _)

theorem State.cacheCut_kept (s : State) : CutKept s s.cacheCut := by
  refine forEach_keeps (P := CutKept s) (fun r u hu => ?_) _ (.refl s)
  split
  · exact ⟨hu.boot, hu.pending⟩
  · exact hu

/-- The state `t` has come out of a reset of `s`: the sequencer is in RESET and shows the cause; what the board drives has stayed. -/
structure ResetFrom (s : State) (cause : Nat) (t : State) : Prop where
  state : t.boot.state = 0
  porst : t.boot.porst = s.boot.porst
  shown : t.fld OAS_RSTCAUSE.CAUSE = cause % 2 ^ (OAS_RSTCAUSE.CAUSE.hi + 1 - OAS_RSTCAUSE.CAUSE.lo)
  pending : t.pending = s.pending

theorem ResetFrom.setReg {t : State} {cause : Nat} (h : ResetFrom s cause t) {r : Reg} {i j : Nat}
    (hr : OAS_RSTCAUSE.addr 0 0 ≠ r.addr i j) (v : Nat) : ResetFrom s cause (t.setReg r v i j) where
  state := (congrArg (·.state) (State.setReg_boot ..)).trans h.state
  porst := (congrArg (·.porst) (State.setReg_boot ..)).trans h.porst
  shown := (State.fld_setReg_other t r OAS_RSTCAUSE.CAUSE v i j 0 0 hr).trans h.shown
  pending := (State.setReg_pending ..).trans h.pending

theorem ResetFrom.setFld {t : State} {cause : Nat} (h : ResetFrom s cause t) {f : Fld} {i j : Nat}
    (hr : OAS_RSTCAUSE.addr 0 0 ≠ f.reg.addr i j) (v : Nat) : ResetFrom s cause (t.setFld f v i j) := h.setReg hr _

/-- The cause is shown last, over a state whose sequencer is in RESET. -/
theorem ResetFrom.setCause {t : State} (cause : Nat) (hstate : t.boot.state = 0) (hporst : t.boot.porst = s.boot.porst)
    (hpending : t.pending = s.pending) : ResetFrom s cause (t.setFld OAS_RSTCAUSE.CAUSE cause) where
  state := (congrArg (·.state) (State.setFld_boot ..)).trans hstate
  porst := (congrArg (·.porst) (State.setFld_boot ..)).trans hporst
  shown := State.fld_setFld_same _ _ _ _ _ (by decide) (by decide)
  pending := (State.setFld_pending ..).trans hpending

theorem State.strapLeader_boot (s : State) : s.strapLeader.boot = s.boot := by rw [State.strapLeader, State.setFld_boot]

theorem State.strapLeader_pending (s : State) : s.strapLeader.pending = s.pending := by rw [State.strapLeader, State.setFld_pending]

theorem State.deviceReset_from (s : State) (cause : Nat) (keepHbm up : Bool) : ResetFrom s cause (s.deviceReset cause keepHbm up) := by
  have hcut : CutKept s ((if keepHbm = true then s else s.cacheCut).flashCut s.mirrorOld) :=
    .trans (State.ite_keeps (P := CutKept s) (.refl s) s.cacheCut_kept) (State.flashCut_kept _ _)
  rw [State.deviceReset]
  generalize (if keepHbm = true then s else s.cacheCut).flashCut s.mirrorOld = u at hcut
  refine forEach_keeps (P := ResetFrom s cause) (fun st t ht => ht.setFld ?hbm 1) _ ?left
  case hbm =>
    simp only [Reg.addr, OAS_RSTCAUSE, HBM_STAT.SELF_REFRESH, HBM_STAT]
    omega
  case left =>
    refine ((ResetFrom.setCause cause ?_ ?_ ?_).setReg (by decide) _).setFld (by decide) _
    · rw [State.strapLeader_boot, State.setFld_boot]
    · rw [State.strapLeader_boot, State.setFld_boot, hcut.boot]
    · rw [State.strapLeader_pending, State.setFld_pending, hcut.pending]

/-- A power-on reset with the oasis supply in tolerance shows its cause. -/
theorem State.porstFall_oasis (s : State) (supply trip cool : Bool) : (s.porstFall supply trip true cool).boot.porst = false ∧
    (s.porstFall supply trip true cool).boot.state = 0 ∧
    (s.porstFall supply trip true cool).fld OAS_RSTCAUSE.CAUSE =
      (1 + 2 * b2n supply + 4 * b2n trip) % 2 ^ (OAS_RSTCAUSE.CAUSE.hi + 1 - OAS_RSTCAUSE.CAUSE.lo) ∧
    (s.porstFall supply trip true cool).pending = s.pending := by
  have hreset := State.deviceReset_from ({ s with boot := { s.boot with porst := false } } : State)
    (1 + 2 * b2n supply + 4 * b2n trip) false (!supply)
  rw [State.porstFall]
  dsimp only
  rw [if_pos rfl]
  exact ⟨hreset.porst, hreset.state, hreset.shown, hreset.pending⟩

theorem State.porstRise_low {grp mode : Nat} (hlow : s.boot.porst = false) : s.porstRise grp mode =
    (({ s with boot := { s.boot with porst := true, mode := mode } } : State).setFld SYS_CHIPID.GRP_POS grp).strapLeader.leaveReset :=
  if_neg (by simp [hlow])

theorem State.pllLocked_reset {mode : Nat} (hreset : s.boot.state = 0) (hpll : s.boot.pll = false) :
    s.pllLocked mode = ({ s with boot := { s.boot with pll := true, mode := mode } } : State).leaveReset :=
  if_neg (by simp [hreset, hpll])

end

/-- Settles O40: each command by the lemma of its operation. Whether the stacks' supplies stay in tolerance through a supply reset is
the model's free value (log 123). -/
theorem powerCommandsComplete : Obligations.PowerCommandsComplete := by
  unfold Obligations.PowerCommandsComplete
  intro p c s
  refine ⟨?request, ?step, ?estimate, ?calibrate, ?sag, ?sagEnds, ?supply, ?recovery, ?sagWrite, ?warm, ?floor, ?trip, ?goesDown, ?alarm,
    ?cooled, ?reference, ?time, ?returns, ?porstFalls, ?porstRises, ?pll⟩
  case request =>
    intro r hmgr hon
    rw [exec_opReq, execOpReq, State.opReq_manager hmgr hon]
  case step =>
    intro x hstep
    refine ⟨?_, fun hgo => ?_, fun hreached hlate => ?_⟩
    · rw [exec_pllLock, execPllLock, State.pllLock_step hstep]
    · rw [exec_voltageReached, execVoltageReached, State.voltageReached_step hstep hgo]
    · rw [exec_vsettleExpiry, execVsettleExpiry, State.settled_step hstep hreached hlate]
  case estimate =>
    intro ms us10 c0 c1 c2 c3 hon hover
    rw [exec_powerEstimate, execPowerEstimate, State.powerEstimate_over _ hon hover]
    rfl
  case calibrate =>
    intro w hon
    rw [exec_poutCalibrate, execPoutCalibrate, if_pos hon]
  case sag =>
    intro r mv hlow hsags
    rw [exec_sagWarn, execSagWarn, State.sagWarn_begins hlow hsags]
  case sagEnds =>
    intro hlow hlate
    rw [exec_sagClear, execSagClear, State.sagClear_ends hlow hlate]
  case supply => rfl
  case recovery => rfl
  case sagWrite =>
    intro v hmgr hon hwarn hwarn' hrst hrst' hgap
    rw [exec_pwrSagWrite, execPwrSagWrite, State.sagWrite_taken hmgr hon hwarn hwarn' hrst hrst' hgap]
  case warm =>
    intro k temp htemp hcold
    rw [exec_thermWarn, execThermWarn, State.thermWarn_hot htemp hcold]
  case floor =>
    intro hhot hlate
    have hkept := (s.thermalAt c (min 3 (s.power.thermal.getD c 0 + 1))).retarget_kept c
    refine ⟨_, congrArg Host.Outcome.next (State.thermalStep_up hhot hlate), ?_, hkept.mem⟩
    rw [hkept.thermal]
    exact Table.getD_set_same _ _ _ _
  case trip =>
    intro k temp htemp hlow
    rw [exec_thermTrip, execThermTrip, State.thermTrip_hot htemp hlow]
  case goesDown =>
    intro keep hmgr hon hstop hdue
    rw [exec_stop, execStop, State.stopWrite_manager keep hmgr hon hstop hdue]
  case alarm =>
    intro temp cool x hstop hin hen htime hcool
    rw [exec_rtcWake, execRtcWake, State.rtcAlarm_wakes hstop hin hen htime hcool]
  case cooled =>
    intro temp cool x hstop hin halarm htemp
    rw [exec_thermalTripWake, execThermalTripWake, State.coolWake_wakes hstop hin halarm htemp]
  case reference =>
    intro r hr
    rw [exec_clockLoss, execClockLoss, hr, State.clockLoss_ref]
  case time =>
    intro r hr hon hthere
    rw [hr] at hthere
    rw [exec_clockLoss, execClockLoss, hr, State.clockLoss_time hon hthere]
  case returns =>
    intro r hr hlost
    rw [exec_clockReturn, execClockReturn, State.clockReturn_lost hr hlost]
  case porstFalls =>
    intro supply trip cool
    exact ⟨_, rfl, s.porstFall_oasis supply trip cool⟩
  case porstRises =>
    intro grp mode hlow
    rw [exec_porstRise, execPorstRise, State.porstRise_low hlow]
  case pll =>
    intro mode hreset hpll
    rw [exec_refclkPllLock, execRefclkPllLock, State.pllLocked_reset hreset hpll]

end Sys2Proof.Machine
end
